-- ==== Sys2Proof/Word.lean ====
section
/-! DEFINITION. The word types of the LMZ6416 model and their plainest arithmetic. -/
namespace Sys2Proof

/-- A register word: R2 makes every register 32 bits wide. -/
abbrev Word := BitVec 32

/-- One byte of memory, of a frame or of a flash page. -/
abbrev Byte := BitVec 8

/-- The saturation limit of a counter (R6). -/
def counterMax : Nat := 0xFFFFFFFF

/-- A counter after `k` increments: it saturates (R6). -/
def satAdd (v k : Nat) : Nat := min counterMax (v + k)

theorem satAdd_le (v k : Nat) : satAdd v k ≤ counterMax := Nat.min_le_left _ _

end Sys2Proof
end

