-- ==== Sys2Proof/Syntax.lean ====
section
/-! DEFINITION. The commands of the block, one constructor per row of the table of operations and events.
Operands carry what comes from outside: levels of pins, received bytes, measured figures, faults; one with a default
is the plain case where it is not named: no fault, an access of 32 bits. -/
namespace Sys2Proof

/-- A chain port: upstream CHU or downstream CHD (R304). -/
inductive Side where
  | chu | chd
  deriving DecidableEq, Repr

/-- A chain frame as it arrives: its control block, its payload words and its trailer (R309). -/
structure ChainFrame where
  ctrl    : List Byte
  words   : List (BitVec 64)
  trailer : BitVec 64
  deriving DecidableEq, Repr

/-- A service frame between its K characters: header, payload and CRC (R312). -/
structure SvcFrame where
  bytes : List Byte
  deriving DecidableEq, Repr

/-- What the training of LOAD found: for each DRAM channel the speed sets that train (bit per set), for each
lane the eye figures it measures (code, eye), the chain ports and network ports that come up, and VOUT_MODE
of the AVS rail (R241, R288). -/
structure Training where
  dram  : List Nat
  eyes  : List (Nat × List (Nat × Nat))
  chu   : Bool
  chd   : Bool
  flash : Bool
  octal : Bool
  vmode : Nat
  deriving DecidableEq, Repr

/-- What ends STANDBY (R293). -/
inductive WakeSource where
  | alarm | presence | svc | chain
  deriving DecidableEq, Repr

/-- A memory error that a patrol finds: bank index of R334, row, and whether it cannot be corrected (R331 to R335). -/
structure ScrubError where
  bank : Nat
  row  : Nat
  ue   : Bool
  deriving DecidableEq, Repr

/-- What the check bits of a DRAM access say (R236): all good, a word corrected in a row of a bank, or 64-bit words of
the access that cannot be corrected. -/
inductive EccResult where
  | good
  | corrected (bank : Fin 16) (row : Nat)
  | bad (bank : Fin 16) (row : Nat) (words : List Nat)
  deriving DecidableEq, Repr

/-- What the check bits of a TCM word say (R262). -/
inductive TcmCheck where
  | good | corrected | bad
  deriving DecidableEq, Repr

/-- The atomic memory operations (R262). -/
inductive AmoOp where
  | swap | add | xor | and | or | min | max | minu | maxu
  deriving DecidableEq, Repr

/-- A write: a plain one, a store-conditional, an AMO (R262). -/
inductive WriteKind where
  | plain | conditional
  | amo (op : AmoOp)
  deriving DecidableEq, Repr

/-- A read: a plain one, an instruction fetch, a load-reserved (R262). -/
inductive ReadKind where
  | plain | fetch | reserve
  deriving DecidableEq, Repr

/-- The blocks whose EN and ABORT follow R9 and have no row of their own. -/
inductive Block where
  | logCh (n : Fin 32)
  | strobe (t : Fin 96)
  | filter (c : Fin 48)
  | lane (l : Fin 64)
  | svcChan (c : Fin 16)
  | engine (e : Fin 4)
  | tap (t : Fin 8)
  | netPort (n : Fin 8)
  | queue (q : Fin 64)
  | head (n : Fin 16)
  | svcPort
  deriving DecidableEq, Repr

/-- The commands. -/
inductive Instr where
  -- Registers (R2 to R10)
  /-- REGISTER_WRITE: `writer` is the producer code of the port the write comes through (R277), `size` its width in
  bytes, `tcm` what the check bits of a TCM word it meets say -/
  | registerWrite (writer : Nat) (addr : Nat) (size : Nat) (data : BitVec 64) (kind : WriteKind := .plain) (tcm : TcmCheck := .good)
  /-- LO_READ: `reader` is the producer code of the port the read comes through, as for writes -/
  | loRead (reader : Nat) (addr : Nat) (size : Nat := 4) (kind : ReadKind := .plain) (tcm : TcmCheck := .good)
  /-- LO_WRITE -/
  | loWrite (writer : Nat) (addr : Nat) (data : Word)
  /-- HI_WRITE -/
  | hiWrite (writer : Nat) (addr : Nat) (data : Word)
  /-- SHADOW_WRITE -/
  | shadowWrite (writer : Nat) (addr : Nat) (data : Word)
  /-- BLOCK_DISABLE -/
  | blockDisable (b : Block)
  /-- DRAIN_COMPLETE -/
  | drainComplete (b : Block)
  /-- ABORT -/
  | abort (b : Block)
  -- Position and speed (R27 to R46)
  /-- ACCEPTED_EDGE: the new filtered levels of A and B and the ns of their first sample -/
  | acceptedEdge (n : Fin 32) (a b : Bool) (t : Nat)
  /-- STANDSTILL -/
  | standstill (n : Fin 32)
  /-- SSI_READ -/
  | ssiRead (n : Fin 32)
  /-- SSI_FRAME_END: the data bits clocked in, the error bit and the level of the data line at the end of MONO -/
  | ssiFrameEnd (n : Fin 32) (bits : Nat) (err high : Bool)
  /-- INDEX_LATCH: the new level of Z and the ns of its first sample -/
  | indexLatch (n : Fin 32) (z : Bool) (t : Nat := 0)
  /-- SPEED_WINDOW_END -/
  | speedWindowEnd (n : Fin 32)
  /-- SPEED_READ -/
  | speedRead (n : Fin 32)
  /-- DRIFT_HIST_READ -/
  | driftHistRead (n : Fin 32)
  /-- LOG_SCALE_WRITE -/
  | logScaleWrite (v : Word)
  /-- COMPARE_HIT -/
  | compareHit (n : Fin 32) (m : Fin 4)
  /-- TICKS_BETWEEN_COUNTS -/
  | ticksBetweenCounts (n : Fin 32) (t : Nat)
  -- Triggers, strobes, lock step, lamps (R47 to R72)
  /-- EFFECTIVE_INSTANT -/
  | effectiveInstant (s : Fin 64)
  /-- TRIGGER_SYMBOL -/
  | triggerSymbol (c : Fin 16)
  /-- TRIGGER_DISABLE -/
  | triggerDisable (s : Fin 64)
  /-- TRIGGER_ABORT -/
  | triggerAbort (s : Fin 64)
  /-- STROBE_START -/
  | strobeStart (t : Fin 96)
  /-- STROBE_END -/
  | strobeEnd (t : Fin 96)
  /-- BEACON_LAUNCH -/
  | beaconLaunch
  /-- BEACON -/
  | beacon (side : Side) (f : ChainFrame)
  /-- BEACON_LOST -/
  | beaconLost
  /-- FROZEN -/
  | frozen
  /-- POS_PAYLOAD_SEND -/
  | posPayloadSend
  /-- EXTRAPOLATION -/
  | extrapolation (t : Nat)
  /-- FILTER_OUTPUT: the lamp input's bits at 25 Mbit/s since the last output sample, newest first; a speed channel's
  input is the count increments, and it takes none -/
  | filterOutput (c : Fin 48) (bits : List Bool)
  /-- NO_SIGNAL -/
  | noSignal (c : Fin 16)
  /-- LAMP_SIGNAL_RETURN -/
  | lampSignalReturn (c : Fin 16)
  /-- SWITCH -/
  | switch (c : Fin 48)
  /-- COEF_DATA_WRITE -/
  | coefDataWrite (c : Fin 48) (v : Word)
  /-- PRESET_CHANGE -/
  | presetChange (c : Fin 48) (p : Fin 4)
  -- Sensor links (R73 to R94)
  /-- LANE_BRING_UP: the eye figures measured, by peaking code -/
  | laneBringUp (l : Fin 64) (eyes : List (Nat × Nat))
  /-- ADAPT_RETRY -/
  | adaptRetry (l : Fin 64) (eyes : List (Nat × Nat))
  /-- EYE_SCAN -/
  | eyeScan (l : Fin 64) (h v : Nat)
  /-- EYE_LOW: the eye figures the new adaptation measures, by peaking code -/
  | eyeLow (l : Fin 64) (eyes : List (Nat × Nat))
  /-- PSTATE_REQUEST -/
  | pstateRequest (l : Fin 64) (code : Fin 4)
  /-- PSTATE_ENTRY -/
  | pstateEntry (l : Fin 64)
  /-- INVALID_SYNC_HEADER -/
  | invalidSyncHeader (l : Fin 64)
  /-- LOCK_LOST -/
  | lockLost (l : Fin 64)
  /-- MARKER -/
  | marker (l : Fin 64) (bytes : List Byte) (slot : Nat)
  /-- MARKER_ABSENT -/
  | markerAbsent (l : Fin 64)
  /-- SOL: for each lane of stream v of port p, in lane order, its SOL block and its header word -/
  | sol (p : Fin 16) (v : Fin 4) (copies : List (List Byte × List Byte))
  /-- PAYLOAD_WORD -/
  | payloadWord (s : Fin 64) (w : BitVec 64)
  /-- EOL: the EOL block of each lane of the stream -/
  | eol (s : Fin 64) (copies : List (List Byte))
  /-- BLK_ERR -/
  | blkErr (l : Fin 64)
  /-- FLOW -/
  | flow (s : Fin 64) (blk : List Byte)
  /-- REPLY -/
  | reply (s : Fin 64) (blk : List Byte)
  /-- GO -/
  | go (c : Fin 16)
  /-- BCAST_FRAME_END -/
  | bcastFrameEnd (c : Fin 16)
  /-- TIMEOUT -/
  | timeout (c : Fin 16)
  /-- XOFF -/
  | xoff (s : Fin 64)
  /-- XON -/
  | xon (s : Fin 64)
  /-- LINE_END_TIMEOUT -/
  | lineEndTimeout (s : Fin 64)
  /-- PORT_DISABLE -/
  | portDisable (p : Fin 16)
  /-- PORT_ABORT -/
  | portAbort (p : Fin 16)
  -- Contexts and statistics (R95 to R110)
  /-- CONTEXT_ENABLE -/
  | contextEnable (n : Fin 17) (m : Fin 4)
  /-- GRANT: FIFO words of the line that fail parity (R100), table entries that prove uncorrectable (R132), and a
  failing tag -/
  | grant (n : Fin 17) (badWords badEntries : List Nat) (badTag : Bool)
  /-- STATS_RECORD_WRITE: `bad` are the words that fail parity in the statistics buffer (R108) -/
  | statsRecordWrite (n : Fin 17) (m : Fin 4) (bad : List Nat)
  /-- CONTEXT_DISABLE -/
  | contextDisable (n : Fin 17) (m : Fin 4)
  /-- CONTEXT_ABORT -/
  | contextAbort (n : Fin 17) (m : Fin 4)
  -- Pixel correction (R111 to R135)
  /-- BLK_FIXED_WRITE -/
  | blkFixedWrite (n : Fin 17) (m : Fin 4) (v : Word)
  /-- COMMIT -/
  | commit (n : Fin 17) (m : Fin 4) (set : Fin 16)
  /-- FOREGROUND_BIT -/
  | foregroundBit (s : Fin 64)
  /-- TBL_DATA_ACCESS: `none` reads, `some` writes -/
  | tblDataAccess (n : Fin 17) (m : Fin 4) (w : Option Word)
  -- Reckoner and stitch (R136 to R157)
  /-- ITEM_TAKE -/
  | itemTake (s : Fin 64)
  /-- LATE -/
  | late (s : Fin 64)
  /-- STAGGER_WRITE_TIMEOUT -/
  | staggerWriteTimeout (s : Fin 64) (plane : Fin 4)
  /-- CHART_ROW -/
  | chartRow (lateReads : List Nat)
  /-- OVL_WRITE -/
  | ovlWrite (s : Fin 64) (along : Bool) (v : Word)
  /-- RES_SWAP -/
  | resSwap (s : Fin 64)
  /-- STC_TBL_DATA_ACCESS: `none` reads, `some` writes -/
  | stcTblDataAccess (w : Option Word)
  -- Segmentation and fixes (R158 to R185)
  /-- ROW_LABEL -/
  | rowLabel (s : Fin 16)
  /-- SEAM_MERGE -/
  | seamMerge
  /-- SEAM -/
  | seam (side : Side) (f : ChainFrame)
  /-- SEAM_LATE -/
  | seamLate (side : Side)
  /-- STREAM_MOVE -/
  | streamMove (v : Word)
  /-- SLICE_MOVE -/
  | sliceMove (v : Word)
  /-- FORCED_MOVE -/
  | forcedMove (v : Word)
  /-- MIG_DRAINED -/
  | migDrained
  /-- MIG_TIMEOUT -/
  | migTimeout
  /-- REORDER_RELEASE -/
  | reorderRelease
  /-- RECORD_EMIT -/
  | recordEmit
  /-- TREE_SWAP -/
  | treeSwap
  /-- TREE_NODE_WRITE -/
  | treeNodeWrite (hi : Word)
  /-- SEG_DISABLE -/
  | segDisable
  /-- SEG_ABORT -/
  | segAbort
  -- Marking (R186 to R197)
  /-- HEAD_ENABLE -/
  | headEnable (n : Fin 16)
  /-- RECORD_READ: `hdr`: the header that is read fails parity; `bad`: the data words, counted from the next to be
  read, that do (R247) -/
  | recordRead (n : Fin 16) (hdr : Bool) (bad : List Nat := [])
  /-- LINE_LOAD -/
  | lineLoad (n : Fin 16)
  /-- LOAD_COMPLETE -/
  | loadComplete (n : Fin 16)
  /-- HEAD_DISABLE -/
  | headDisable (n : Fin 16)
  /-- HEAD_ABORT -/
  | headAbort (n : Fin 16)
  /-- GET_ID -/
  | getId (n : Fin 16) (reply : List Byte)
  /-- CHALLENGE -/
  | challenge (n : Fin 16) (reply : List Byte)
  /-- DECREMENT -/
  | decrement (n : Fin 16) (reply : List Byte)
  /-- CARTRIDGE_TIMEOUT -/
  | cartridgeTimeout (n : Fin 16)
  /-- REAUTH -/
  | reauth (n : Fin 16)
  /-- AUTH_RETRY -/
  | authRetry (n : Fin 16)
  -- Codec and taps (R198 to R212)
  /-- CDC_START -/
  | cdcStart (e : Fin 4)
  /-- CODING_JOB_END: `bad` are the source rows that hold a word with its poison tag set (R198) -/
  | codingJobEnd (e : Fin 4) (bad : List Nat)
  /-- DECODE_JOB_END -/
  | decodeJobEnd (e : Fin 4)
  /-- CDC_FLUSH: `row` is the row being coded when FLUSH is written -/
  | cdcFlush (e : Fin 4) (row : Nat)
  /-- TAP_ENABLE -/
  | tapEnable (t : Fin 8)
  /-- TAP_LOST -/
  | tapLost (t : Fin 8)
  -- Network and time (R213 to R234)
  /-- NET_LINK_CHANGE -/
  | netLinkChange (n : Fin 8) (lock align locFault remFault : Bool)
  /-- UNCORRECTABLE_CODEWORD -/
  | uncorrectableCodeword (n : Fin 8) (corrected : Bool)
  /-- FRAME_RECEIVE -/
  | frameReceive (n : Fin 8) (bytes : List Byte)
  /-- POS -/
  | pos (n : Fin 8) (dgram : List Byte)
  /-- DATAGRAM_SEND: `hdr`: the header that is read fails parity; `bad`: the data words, counted from the next to be
  read, that do (R247) -/
  | datagramSend (n : Fin 8) (hdr : Bool) (bad : List Nat := [])
  /-- FIX_HOLD_EXPIRY -/
  | fixHoldExpiry (f : Fin 32)
  /-- LAUNCH_TIME -/
  | launchTime (f : Fin 32)
  /-- FLOW_DISABLE -/
  | flowDisable (f : Fin 32)
  /-- FLOW_ABORT -/
  | flowAbort (f : Fin 32)
  /-- SYNC: `t2` is the receipt stamp at the PCS, device time in 1/16 ns (R223) -/
  | sync (d : Fin 2) (msg : List Byte) (t2 : Int)
  /-- FOLLOW_UP -/
  | followUp (d : Fin 2) (msg : List Byte)
  /-- ANNOUNCE -/
  | announce (d : Fin 2) (msg : List Byte)
  /-- DELAY_REQ -/
  | delayReq (d : Fin 2)
  /-- DELAY_RESP -/
  | delayResp (d : Fin 2) (msg : List Byte)
  /-- PDELAY_REQ: `t2` as in SYNC -/
  | pdelayReq (d : Fin 2) (msg : List Byte) (t2 : Int)
  /-- PDELAY_RESP: `t4` is the response's receipt stamp, as in SYNC -/
  | pdelayResp (d : Fin 2) (msg fup : List Byte) (t4 : Int)
  /-- SYNC_TIMEOUT -/
  | syncTimeout (d : Fin 2)
  /-- PATH_HOLD_END -/
  | pathHoldEnd (d : Fin 2)
  /-- ASYM_SUSPECT -/
  | asymSuspect
  /-- CHAIN_SAMPLE -/
  | chainSample
  /-- SEL_WRITE -/
  | selWrite (v : Fin 4)
  -- DRAM, queues, DMA (R235 to R260)
  /-- DRAM_REQUEST: `addr` is the byte offset in the DRAM window (R2); `data` is what a write writes, and a read reads
  as many bytes -/
  | dramRequest (r : Fin 16) (wr : Bool) (addr : Nat) (data : List Byte) (ecc : EccResult)
  /-- REFRESH -/
  | refresh (ch : Fin 8)
  /-- FREQUENCY_CHANGE -/
  | frequencyChange (target : Fin 4)
  /-- FREQ_DONE -/
  | freqDone
  /-- QUEUE_ENABLE -/
  | queueEnable (q : Fin 64)
  /-- PUSH_HDR -/
  | pushHdr (q : Fin 64) (writer : Nat) (len : Word)
  /-- PUSH_DATA -/
  | pushData (q : Fin 64) (hi : Word)
  /-- POP_HDR -/
  | popHdr (q : Fin 64) (fault : Bool)
  /-- POP_DATA -/
  | popData (q : Fin 64) (fault : Bool)
  /-- WRITE_STALL_RELEASE -/
  | writeStallRelease (q : Fin 64)
  /-- QUEUE_FLUSH -/
  | queueFlush (q : Fin 64)
  /-- QUEUE_DISABLE -/
  | queueDisable (q : Fin 64)
  /-- DMA_START -/
  | dmaStart (c : Fin 32)
  /-- POLL -/
  | poll (c : Fin 32)
  /-- BURST: of a source queue, `hdr` and `bad` as in RECORD_READ; of a source memory, `bad` or (in DRAM) `ecc` names
  the 64-bit words that are delivered poisoned, counted from that of the first byte -/
  | burst (c : Fin 32) (hdr : Bool) (bad : List Nat := []) (ecc : EccResult := .good)
  /-- DESCRIPTOR_DONE -/
  | descriptorDone (c : Fin 32)
  /-- DMA_DISABLE -/
  | dmaDisable (c : Fin 32)
  -- Interrupts and events (R261 to R280)
  /-- OFFER -/
  | offer (h : Fin 5)
  /-- ACCEPTANCE -/
  | acceptance (h : Fin 5)
  /-- MRET -/
  | mret (h : Fin 5)
  /-- WFI -/
  | wfi (h : Fin 5)
  /-- MODERATION_END -/
  | moderationEnd (i : Fin 384)
  /-- HRPRI_WRITE -/
  | hrpriWrite (h : Fin 5) (v : Nat)
  /-- TIMER_INTERRUPT -/
  | timerInterrupt (h : Fin 5)
  /-- WDOG -/
  | wdog (h : Fin 5)
  /-- RUN_WRITE -/
  | runWrite (h : Fin 5) (run : Bool)
  /-- CORE_RESET -/
  | coreReset (h : Fin 5)
  /-- SPARE_WRITE -/
  | spareWrite (en : Bool) (as : Fin 4)
  /-- EVENT_DELIVERY -/
  | eventDelivery (k : Fin 256)
  /-- STORM_WINDOW_END -/
  | stormWindowEnd (k : Fin 256)
  /-- EVT_FIRE -/
  | evtFire (writer : Nat) (k : Fin 256)
  /-- CHANNEL_ENABLE -/
  | channelEnable (k : Fin 256)
  /-- SWI_SET -/
  | swiSet (v : BitVec 7)
  -- Start-up, modes and power (R281 to R303)
  /-- POWER_GOOD -/
  | powerGood (tr : Training)
  /-- RELOAD -/
  | reload (tr : Training)
  /-- STANDBY_REQUEST -/
  | standbyRequest
  /-- LOAD_REQUEST -/
  | loadRequest
  /-- INSPECT_REQUEST -/
  | inspectRequest
  /-- SERVICE_REQUEST -/
  | serviceRequest
  /-- MODE_DONE -/
  | modeDone
  /-- HOLD_ENTRY -/
  | holdEntry
  /-- HOLD_EXIT -/
  | holdExit
  /-- WAKE -/
  | wake (src : WakeSource)
  /-- ALWAYS_ON_LOSS -/
  | alwaysOnLoss
  /-- POR -/
  | por (straps : Byte)
  /-- PIN_RESET -/
  | pinReset
  /-- SOFT_RESET -/
  | softReset (v : Word)
  /-- SYS_WDOG_EXPIRY -/
  | sysWdogExpiry
  /-- PG_LOSS -/
  | pgLoss (k : Fin 8)
  /-- THERM: the hottest junction in 1/16 °C -/
  | therm (temp : Int)
  /-- JUNCTION_COOLED -/
  | junctionCooled (temp : Int)
  /-- VDDUTP_CHANGE -/
  | vddutpChange (b : Fin 8) (present level : Bool)
  /-- NV_READ -/
  | nvRead
  /-- NV_PROGRAM -/
  | nvProgram
  /-- NV_ERASE -/
  | nvErase
  /-- NV_DONE -/
  | nvDone (err : Bool)
  /-- PD_OFF_WRITE -/
  | pdOffWrite (hi : Bool) (v : Word)
  /-- PGOOD -/
  | pgood (k : Fin 8)
  /-- PG_TIMEOUT -/
  | pgTimeout
  /-- PG_RETRY -/
  | pgRetry
  /-- PM_ALERT: STATUS_WORD of each rail; a rail with none in the list does not acknowledge -/
  | pmAlert (status : List Nat)
  /-- AVS_UPDATE: `ack`: the regulator acknowledges -/
  | avsUpdate (ack : Bool)
  -- Chain, service port, update (R304 to R330)
  /-- CHAIN_LINK_CHANGE -/
  | chainLinkChange (side : Side) (up : Bool)
  /-- ENUMERATION -/
  | enumeration
  /-- ENUM -/
  | enum (side : Side) (f : ChainFrame)
  /-- ENUM_CHD_WAIT -/
  | enumChdWait
  /-- NO_ADDR -/
  | noAddr
  /-- ENUM_ACK -/
  | enumAck (side : Side) (f : ChainFrame)
  /-- NEIGH -/
  | neigh (side : Side) (f : ChainFrame)
  /-- PROBE -/
  | probe (side : Side) (f : ChainFrame)
  /-- SVC_FWD -/
  | svcFwd (side : Side) (f : ChainFrame)
  /-- SVC_RSP -/
  | svcRsp (side : Side) (f : ChainFrame)
  /-- PRES_LOST -/
  | presLost (side : Side) (f : ChainFrame)
  /-- RELAY_COMMAND: `hdr` and `bad` as in RECORD_READ -/
  | relayCommand (hdr : Bool := false) (bad : List Nat := [])
  /-- NO_UNIT -/
  | noUnit
  /-- PING -/
  | ping (f : SvcFrame)
  /-- READ -/
  | read (f : SvcFrame)
  /-- WRITE -/
  | write (f : SvcFrame)
  /-- STATUS -/
  | status (f : SvcFrame)
  /-- RESET -/
  | reset (f : SvcFrame)
  /-- SET_ADDRESS -/
  | setAddress (f : SvcFrame)
  /-- STAGE -/
  | stage (f : SvcFrame)
  /-- ACTIVATE -/
  | activate (f : SvcFrame)
  /-- SCHEDULE_ACTIVATE -/
  | scheduleActivate (f : SvcFrame)
  /-- CONFIRM -/
  | confirm (f : SvcFrame)
  /-- FALLBACK -/
  | fallback (f : SvcFrame)
  /-- ERASE_CAL -/
  | eraseCal (f : SvcFrame)
  /-- RAISE_EPOCH -/
  | raiseEpoch (f : SvcFrame)
  /-- SCHEDULED_ACTIVATION -/
  | scheduledActivation
  /-- ROLLING_RELOAD -/
  | rollingReload
  /-- SVC_FRAME_PAUSE -/
  | svcFramePause
  /-- PRESENCE -/
  | presence (low : Bool)
  -- Background work and the Almanac (R331 to R355)
  /-- SRAM_SCRUB_PASS -/
  | sramScrubPass (errs : List ScrubError)
  /-- DRAM_SCRUB_PASS -/
  | dramScrubPass (errs : List ScrubError)
  /-- LOG_RECORD_WRITE: `err`: the flash reports an error -/
  | logRecordWrite (err : Bool)
  /-- LOG_CMD -/
  | logCmd (v : Word)
  /-- TELEMETRY -/
  | telemetry
  /-- TELE_DROP -/
  | teleDrop
  /-- PIPE_LOAD -/
  | pipeLoad (v : Word)
  /-- PIPE_DONE -/
  | pipeDone (ok : Bool)
  /-- AGE_MEASURE -/
  | ageMeasure (mon : Fin 32) (margin : Int) (raw : Nat)
  /-- CODEC_SELF_TEST -/
  | codecSelfTest (e : Fin 4) (ok : Bool)
  /-- ALMANAC_TICK -/
  | almanacTick
  /-- MERIDIAN_SET -/
  | meridianSet
  /-- ALM_SET_COMMIT -/
  | almSetCommit (hi : Word)
  /-- SEAL_PULSE -/
  | sealPulse (level : Bool)
  /-- VBAT_MEASURE -/
  | vbatMeasure (mv : Nat)
  /-- TIME_LOST -/
  | timeLost
  deriving DecidableEq, Repr

end Sys2Proof
end

