-- ==== Sys2Proof/Machine/Bits.lean ====
section
/-! DEFINITION. Bit fields, signed readings, byte orders and the check codes the chapters use
(R30, R83, R196, R245, R283, R309). -/
namespace Sys2Proof.Machine

/-- The `len` bits of `w` from bit `lo` up, as a number. -/
def fieldOf {n : Nat} (w : BitVec n) (lo len : Nat) : Nat :=
  (w.extractLsb' lo len).toNat

/-- `w` with its `len` bits from bit `lo` up replaced by the low bits of `v`. -/
def withField {n : Nat} (w : BitVec n) (lo len v : Nat) : BitVec n :=
  let m : BitVec n := ((BitVec.allOnes len).zeroExtend n) <<< lo
  (w &&& ~~~m) ||| (((BitVec.ofNat len v).zeroExtend n) <<< lo)

/-- The two's complement reading of a `len`-bit number. -/
def toSigned (len v : Nat) : Int :=
  if v < 2 ^ (len - 1) then (v : Int) else (v : Int) - 2 ^ len

/-- The `len`-bit two's complement code of an integer, wrapping. -/
def fromSigned (len : Nat) (v : Int) : Nat := (v % (2 ^ len : Int)).toNat

/-- `v` held between `lo` and `hi`. -/
def clampI (lo hi v : Int) : Int := max lo (min hi v)

/-- The limits of the signed 64-bit position (R16). -/
def posMax : Int := 2 ^ 63 - 1

/-- The lower limit of the signed 64-bit position (R16). -/
def posMin : Int := -(2 ^ 63)

/-- Division rounded to nearest, halves away from zero. -/
def divNearest (a : Int) (b : Nat) : Int :=
  if b = 0 then 0
  else if 0 ≤ a then (2 * a + b) / (2 * b) else -((2 * (-a) + b) / (2 * b))

/-- Division rounded down, the quotient of no divisor being 0. -/
def divFloor (a : Int) (b : Int) : Int := Int.fdiv a b

/-- The bit of `v` at place `i`. -/
def bitOf (v i : Nat) : Bool := v.testBit i

/-- `v` with bit `i` set. -/
def withBit (v i : Nat) : Nat := v ||| 2 ^ i

/-- `v` with bit `i` cleared. -/
def withoutBit (v i : Nat) : Nat := if v.testBit i then v - 2 ^ i else v

/-- 1 for true, 0 for false. -/
def b2n (b : Bool) : Nat := if b then 1 else 0

/-- The little-endian bytes of `v`, `k` of them. -/
def bytesLE : Nat → Nat → List Byte
  | 0, _ => []
  | k + 1, v => BitVec.ofNat 8 v :: bytesLE k (v / 256)

/-- The big-endian bytes of `v`, `k` of them (network order). -/
def bytesBE (k v : Nat) : List Byte := (bytesLE k v).reverse

/-- The number that little-endian bytes spell. -/
def natLE : List Byte → Nat
  | [] => 0
  | b :: bs => b.toNat + 256 * natLE bs

/-- The number that big-endian bytes spell. -/
def natBE (bs : List Byte) : Nat := natLE bs.reverse

/-- The little-endian number in `k` bytes of `bs` from place `i`. -/
def leAt (bs : List Byte) (i k : Nat) : Nat := natLE ((bs.drop i).take k)

/-- The big-endian number in `k` bytes of `bs` from place `i`. -/
def beAt (bs : List Byte) (i k : Nat) : Nat := natBE ((bs.drop i).take k)

/-- One bit of an MSB-first CRC of width `w`: the register shifted, with `poly` folded in when the bit leaving differs from the data bit. -/
def crcBitMsb (w poly : Nat) (crc : Nat) (bit : Bool) : Nat :=
  let top := crc.testBit (w - 1)
  let sh := (crc * 2) % 2 ^ w
  if top != bit then sh ^^^ poly else sh

/-- An MSB-first CRC over bytes. -/
def crcMsb (w poly init : Nat) (bs : List Byte) : Nat :=
  bs.foldl (fun c b => (List.range 8).foldl (fun c i => crcBitMsb w poly c (b.toNat.testBit (7 - i))) c) init

/-- One bit of the reflected CRC-32C. -/
def crc32cBit (crc : Nat) : Nat :=
  if crc.testBit 0 then (crc / 2) ^^^ 0x82F63B78 else crc / 2

/-- CRC-32C (Castagnoli), reflected, initial value and final inversion all ones (R83, R283). -/
def crc32c (bs : List Byte) : Nat :=
  (bs.foldl (fun c b => (List.range 8).foldl (fun c _ => crc32cBit c) (c ^^^ b.toNat)) 0xFFFFFFFF) ^^^ 0xFFFFFFFF

/-- CRC-8 with polynomial 0x07 and initial value 0xFF. -/
def crc8 (bs : List Byte) : Nat := crcMsb 8 0x07 0xFF bs

/-- CRC-16 with polynomial 0x1021 and initial value 0xFFFF. -/
def crc16 (bs : List Byte) : Nat := crcMsb 16 0x1021 0xFFFF bs

/-- `x` put into an ordered list, behind the elements that do not come after it. -/
def insertBy {α : Type} (before : α → α → Bool) (x : α) : List α → List α
  | [] => [x]
  | y :: t => if before x y then x :: y :: t else y :: insertBy before x t

/-- A list in order, elements that tie keeping their order. -/
def orderBy {α : Type} (before : α → α → Bool) (l : List α) : List α :=
  l.foldl (fun acc x => insertBy before x acc) []

/-- The quotient rounded up, for a positive divisor. -/
def divCeil (a b : Nat) : Nat := (a + b - 1) / b

end Sys2Proof.Machine
end

