-- ==== Sys2Proof/Machine/Coding.lean ====
section
/-! DEFINITION. The lossless line code: prediction, adaptive coding, block format, encoder and decoder
(R199 to R203). -/
namespace Sys2Proof.Machine

/-! ### Prediction (R199, R200) -/

/-- The neighbours a, b and n of column `c`: `row` holds the samples of this row, `prev` the row above in the
block (R199). -/
def neighbours (bits : Nat) (prev : Option (List Nat)) (row : List Nat) (c : Nat) : Nat × Nat × Nat :=
  let left := row.getD (c - 1) 0
  match prev with
  | none => if c = 0 then (2 ^ (bits - 1), 2 ^ (bits - 1), 2 ^ (bits - 1)) else (left, left, left)
  | some p =>
    let b := p.getD c 0
    if c = 0 then (b, b, b) else (left, b, p.getD (c - 1) 0)

/-- A predictor's value: LEFT, ABOVE, MED, AVG (R200). -/
def predict (code : Nat) (v : Nat × Nat × Nat) : Nat :=
  let a := v.1
  let b := v.2.1
  let n := v.2.2
  match code with
  | 0 => a
  | 1 => b
  | 2 => if max a b ≤ n then min a b else if n ≤ min a b then max a b else a + b - n
  | _ => (a + b) / 2

/-- The mapped residual m (R200). -/
def residual (bits x pred : Nat) : Nat :=
  let e := (x + 2 ^ bits - pred) % 2 ^ bits
  if e < 2 ^ (bits - 1) then 2 * e else 2 * (2 ^ bits - e) - 1

/-- The sample that a residual gives. -/
def unResidual (bits m pred : Nat) : Nat :=
  if m % 2 = 0 then (pred + m / 2) % 2 ^ bits else (pred + 2 ^ bits - ((m + 1) / 2) % 2 ^ bits) % 2 ^ bits

/-! ### Coding state (R201) -/

/-- A and N. -/
structure CodeSt where
  a : Nat
  n : Nat
  deriving DecidableEq, Repr

/-- The state at the start of a block. -/
def CodeSt.start (bits : Nat) : CodeSt := { a := max 2 ((2 ^ bits + 32) / 64), n := 1 }

/-- The parameter k of the next code: at most `f` increments. -/
def riceK (s : CodeSt) (bits : Nat) : Nat → Nat → Nat
  | 0, k => k
  | f + 1, k => if s.n * 2 ^ k < s.a ∧ k < bits - 1 then riceK s bits f (k + 1) else k

def CodeSt.k (s : CodeSt) (bits : Nat) : Nat := riceK s bits 16 0

/-- The state after a residual. -/
def CodeSt.next (s : CodeSt) (m : Nat) : CodeSt :=
  let a := s.a + m
  let n := s.n + 1
  if n = 64 then { a := a / 2, n := n / 2 } else { a := a, n := n }

/-- The `len` low bits of `v`, most significant first. -/
def bitsMsb (v len : Nat) : List Bool := (List.range len).map (fun i => v.testBit (len - 1 - i))

/-- The code of a residual (R201). -/
def codeOf (s : CodeSt) (bits m : Nat) : List Bool :=
  let k := s.k bits
  let q := m / 2 ^ k
  if q < 24 then List.replicate q true ++ [false] ++ bitsMsb m k else List.replicate 24 true ++ bitsMsb m bits

/-! ### Encoder -/

/-- The residuals of one segment under one predictor. -/
def segResiduals (bits code : Nat) (prev : Option (List Nat)) (row : List Nat) (c n : Nat) : List Nat :=
  (List.range n).map (fun i => residual bits (row.getD (c + i) 0) (predict code (neighbours bits prev row (c + i))))

/-- The predictor of the least sum, on a tie the lower code (R200). -/
def bestCode (bits : Nat) (prev : Option (List Nat)) (row : List Nat) (c n : Nat) : Nat :=
  let cost (k : Nat) : Nat := (segResiduals bits k prev row c n).foldl (· + ·) 0
  [1, 2, 3].foldl (fun j k => if cost k < cost j then k else j) 0

/-- A row's segments from column `c` on. -/
def encodeRow (bits : Nat) (prev : Option (List Nat)) (row : List Nat) : Nat → Nat → CodeSt → List Bool × CodeSt
  | 0, _, s => ([], s)
  | f + 1, c, s =>
    if row.length ≤ c then ([], s)
    else
      let n := min 16 (row.length - c)
      let p := bestCode bits prev row c n
      let r := (segResiduals bits p prev row c n).foldl (fun (x : List Bool × CodeSt) m => (x.1 ++ codeOf x.2 bits m, x.2.next m)) ([], s)
      let t := encodeRow bits prev row f (c + 16) r.2
      (bitsMsb p 2 ++ r.1 ++ t.1, t.2)

/-- A block's rows. -/
def encodeRows (bits : Nat) : Option (List Nat) → CodeSt → List (List Nat) → List Bool
  | _, _, [] => []
  | prev, s, r :: t =>
    let x := encodeRow bits prev r (r.length / 16 + 1) 0 s
    x.1 ++ encodeRows bits (some r) x.2 t

/-- Bits packed into bytes, most significant first, the last byte filled with zeros. -/
def packBits : Nat → List Bool → List Byte
  | 0, _ => []
  | f + 1, bs =>
    if bs.isEmpty then []
    else
      let v := (List.range 8).foldl (fun v i => 2 * v + b2n (bs.getD i false)) 0
      BitVec.ofNat 8 v :: packBits f (bs.drop 8)

/-- The payload of a block. -/
def encodePayload (bits : Nat) (rows : List (List Nat)) : List Byte :=
  let bs := encodeRows bits none (CodeSt.start bits) rows
  packBits (bs.length / 8 + 1) bs

/-! ### Block format (R202) -/

/-- What a block's header says. -/
structure BlockHdr where
  flags : Nat
  w     : Nat
  r     : Nat
  bits  : Nat
  dec   : Nat
  index : Nat
  col   : Nat
  row   : Nat
  tile  : Nat
  plen  : Nat
  deriving DecidableEq, Repr

def BlockHdr.bytes (h : BlockHdr) : List Byte :=
  bytesLE 2 0x4C43 ++ bytesLE 1 1 ++ bytesLE 1 h.flags ++ bytesLE 2 h.w ++ bytesLE 2 h.r ++ bytesLE 1 h.bits ++ bytesLE 1 h.dec
    ++ bytesLE 2 h.index ++ bytesLE 4 h.col ++ bytesLE 8 h.row ++ bytesLE 4 h.tile ++ bytesLE 4 h.plen

/-- Bytes filled with zeros to a multiple of 8. -/
def pad8 (bs : List Byte) : List Byte := bs ++ List.replicate ((8 - bs.length % 8) % 8) 0

/-- DCRC: over the samples, each as two bytes. -/
def sampleCrc (rows : List (List Nat)) : Nat := crc32c (rows.flatMap (fun r => r.flatMap (bytesLE 2)))

/-- A block: header, padded payload and trailer. -/
def blockBytes (h : BlockHdr) (payload : List Byte) (rows : List (List Nat)) : List Byte :=
  let body := h.bytes ++ pad8 payload
  body ++ bytesLE 4 (sampleCrc rows) ++ bytesLE 4 (crc32c body)

/-! ### Decoder (R207) -/

/-- The number that `k` bits spell, and the bits after them; none where they end. -/
def takeBits (k : Nat) (bs : List Bool) : Option (Nat × List Bool) :=
  if bs.length < k then none
  else some ((bs.take k).foldl (fun v b => 2 * v + b2n b) 0, bs.drop k)

/-- Ones up to a zero, at most `f`. -/
def takeOnes : Nat → Nat → List Bool → Option (Nat × List Bool)
  | 0, q, bs => some (q, bs)
  | _ + 1, _, [] => none
  | f + 1, q, b :: t => if b then takeOnes f (q + 1) t else some (q, t)

/-- One residual read. -/
def readCode (s : CodeSt) (bits : Nat) (bs : List Bool) : Option (Nat × List Bool) :=
  match takeOnes 24 0 bs with
  | none => none
  | some (q, t) =>
    if q = 24 then takeBits bits t
    else
      let k := s.k bits
      (takeBits k t).map (fun x => (q * 2 ^ k + x.1, x.2))

/-- The samples of one segment read behind those of the row so far. -/
def decodeSeg (bits code : Nat) (prev : Option (List Nat)) : Nat → List Nat → CodeSt → List Bool → Option (List Nat × CodeSt × List Bool)
  | 0, row, s, bs => some (row, s, bs)
  | f + 1, row, s, bs =>
    match readCode s bits bs with
    | none => none
    | some (m, t) =>
      let x := unResidual bits m (predict code (neighbours bits prev row row.length))
      decodeSeg bits code prev f (row ++ [x]) (s.next m) t

/-- A row of `w` samples read. -/
def decodeRow (bits w : Nat) (prev : Option (List Nat)) : Nat → List Nat → CodeSt → List Bool → Option (List Nat × CodeSt × List Bool)
  | 0, row, s, bs => some (row, s, bs)
  | f + 1, row, s, bs =>
    if w ≤ row.length then some (row, s, bs)
    else
      match takeBits 2 bs with
      | none => none
      | some (code, t) =>
        match decodeSeg bits code prev (min 16 (w - row.length)) row s t with
        | none => none
        | some (row', s', t') => decodeRow bits w prev f row' s' t'

/-- `r` rows read. -/
def decodeRows (bits w : Nat) : Nat → Option (List Nat) → CodeSt → List Bool → Option (List (List Nat))
  | 0, _, _, _ => some []
  | r + 1, prev, s, bs =>
    match decodeRow bits w prev (w / 16 + 1) [] s bs with
    | none => none
    | some (row, s', t) => (decodeRows bits w r (some row) s' t).map (fun l => row :: l)

/-- The rows of a RAW payload (R203). -/
def rawRows (w : Nat) : Nat → List Byte → List (List Nat)
  | 0, _ => []
  | r + 1, bs => (List.range w).map (fun i => leAt bs (2 * i) 2) :: rawRows w r (bs.drop (2 * w))

/-- How a block reads: its rows and length, or the code it ends the job with, and how few and how many samples had been
decoded by then (R206, R212). -/
inductive BlockRead where
  | rows (bits w len : Nat) (l : List (List Nat))
  | fails (code lo hi : Nat)
  deriving DecidableEq, Repr

/-- The block at the front of the input (R202, R203, R207); `w0` is the width of the job's first block. -/
def readBlock (w0 : Option Nat) (bs : List Byte) : BlockRead :=
  let fl := leAt bs 3 1
  let w := leAt bs 4 2
  let r := leAt bs 6 2
  let bits := leAt bs 8 1
  let plen := leAt bs 28 4
  let pl := (plen + 7) / 8 * 8
  let unlike : Bool := match w0 with
    | some v => v != w
    | none => false
  if bs.length < 40 ∨ leAt bs 0 2 ≠ 0x4C43 ∨ leAt bs 2 1 ≠ 1 then .fails 5 0 0
  else if w = 0 ∨ 16384 < w ∨ r = 0 ∨ 1024 < r ∨ bits < 8 ∨ 16 < bits ∨ unlike ∨ bs.length < 40 + pl then .fails 5 0 0
  else if leAt bs (36 + pl) 4 ≠ crc32c (bs.take (32 + pl)) then .fails 3 0 0
  else
    let payload := (bs.drop 32).take plen
    let rows : Option (List (List Nat)) :=
      if fl % 2 = 1 then (if plen = 2 * w * r then some (rawRows w r payload) else none)
      else decodeRows bits w r none (CodeSt.start bits) (payload.flatMap (fun b => bitsMsb b.toNat 8))
    match rows with
    | none => .fails 5 0 (if fl % 2 = 1 then 0 else w * r)
    | some l => if leAt bs (32 + pl) 4 = sampleCrc l then .rows bits w (40 + pl) l else .fails 3 (w * r) (w * r)

end Sys2Proof.Machine
end

