-- ==== Sys2Proof/Config.lean ====
section
/-! DEFINITION. What an implementation fixes and the manual leaves open: constants without a body, so that
no proof can see a value (log entries 5, 12, 13). -/
namespace Sys2Proof

/-- The value of draw `i`: every value the manual calls undefined, and every draw of the random source
(R195, R240, R257), is one of these. Log entry 5. -/
opaque Config.freeValue : Nat → BitVec 64

/-- Tap `i` of the preset final stage of preset `p`, S1.22: the manual gives the presets' figures and not
their taps (R65, R66). Log entry 12. -/
opaque Config.presetTap : Nat → Nat → Int

/-- Tap `i` of the fixed front section of preset `p`, at 20 ns steps up to its middle: the manual gives its figures
and not its taps (R65). Log entry 12. -/
opaque Config.frontTap : Nat → Nat → Int

/-- The bank of its channel in which the byte at an offset of the DRAM window lies (R240). Log entry 32. -/
opaque Config.dramBank : Nat → Nat

/-- What the mode registers of DRAM channel `ch` declare of refresh management: the activations of a bank after which
a command is due, 0 where none is required, and how many of them a refresh takes back (R240). Log entry 32. -/
opaque Config.dramRaaLimit : Nat → Nat
opaque Config.dramRaaRefresh : Nat → Nat

/-- What the built-in self-test pattern and the ROM hold is not given; this byte of the boot ROM is (R2). Log entry 13. -/
opaque Config.romByte : Nat → Byte

end Sys2Proof
end

