-- ==== Sys2Proof/Machine/Regs.lean ====
section
/-! DEFINITION. The register map: the address of every register (R2 to R8 and each chapter's register
tables), the place of every field, and one row per register saying its reset value, which bits take
writes and how, and its hand-over. `R.X` is an address, `F.X_Y` a field, `F.X` the whole value of a
register (64 bits over _LO and _HI where it has two halves). -/
namespace Sys2Proof.Machine

/-- A field: the address of its register, its lowest bit and its length. A field of a 64-bit value
counts its bits from the _LO register on. -/
structure Fld where
  addr : Nat
  lo   : Nat
  len  : Nat
  deriving DecidableEq, Repr

/-- The hand-over that copies a shadow (R7); `act` marks an active copy. -/
inductive Hand where
  | none | line | row | tile | mark | sr | fade | act
  deriving DecidableEq, Repr

/-- One row of the register map. Instances are (stride, count) pairs, outermost first. -/
structure RegRow where
  base  : Nat
  insts : List (Nat × Nat)
  pair  : Bool
  reset : Nat
  rw    : Nat
  w1c   : Nat
  w1s   : Nat
  wo    : Nat
  ruled : Nat
  hand  : Hand
  deriving DecidableEq, Repr

def R.LOG_CTRL : Nat := 0x400B0000
def F.LOG_CTRL_SRC : Fld := ⟨R.LOG_CTRL, 0, 2⟩
def F.LOG_CTRL_SRC_CHAN : Fld := ⟨R.LOG_CTRL, 2, 5⟩
def F.LOG_CTRL_REV_PUB : Fld := ⟨R.LOG_CTRL, 7, 1⟩
def F.LOG_CTRL_REV_EVC : Fld := ⟨R.LOG_CTRL, 8, 8⟩
def R.LOG_STAT : Nat := 0x400B0004
def F.LOG_STAT_REVERSED : Fld := ⟨R.LOG_STAT, 0, 1⟩
def F.LOG_STAT_STANDSTILL : Fld := ⟨R.LOG_STAT, 1, 1⟩
def F.LOG_STAT_SPD_VALID : Fld := ⟨R.LOG_STAT, 2, 1⟩
def F.LOG_STAT_RAMP : Fld := ⟨R.LOG_STAT, 3, 1⟩
def R.LOG_FLAG : Nat := 0x400B0008
def F.LOG_FLAG_REVERSAL : Fld := ⟨R.LOG_FLAG, 0, 1⟩
def F.LOG_FLAG_POS_SAT : Fld := ⟨R.LOG_FLAG, 1, 1⟩
def F.LOG_FLAG_MOTION : Fld := ⟨R.LOG_FLAG, 2, 1⟩
def R.LOG_POS : Nat := 0x400B0010
def F.LOG_POS : Fld := ⟨R.LOG_POS, 0, 64⟩
def R.LOG_HWM : Nat := 0x400B0018
def F.LOG_HWM : Fld := ⟨R.LOG_HWM, 0, 64⟩
def R.LOG_SCALE : Nat := 0x400B0020
def F.LOG_SCALE : Fld := ⟨R.LOG_SCALE, 0, 32⟩
def R.LOG_SCALE_NOM : Nat := 0x400B0024
def F.LOG_SCALE_NOM : Fld := ⟨R.LOG_SCALE_NOM, 0, 32⟩
def R.LOG_LENGTH : Nat := 0x400B0028
def F.LOG_LENGTH : Fld := ⟨R.LOG_LENGTH, 0, 64⟩
def R.LOG_BACKLASH : Nat := 0x400B0030
def F.LOG_BACKLASH : Fld := ⟨R.LOG_BACKLASH, 0, 16⟩
def R.LOG_REVERSAL_CNT : Nat := 0x400B0034
def F.LOG_REVERSAL_CNT : Fld := ⟨R.LOG_REVERSAL_CNT, 0, 32⟩
def R.LOG_SPEED : Nat := 0x400B0038
def F.LOG_SPEED : Fld := ⟨R.LOG_SPEED, 0, 32⟩
def R.LOGn_CFG (n : Nat) : Nat := 0x400B1000 + n * 0x100
def F.LOGn_CFG_EN (n : Nat) : Fld := ⟨(R.LOGn_CFG n), 0, 1⟩
def F.LOGn_CFG_ABORT (n : Nat) : Fld := ⟨(R.LOGn_CFG n), 1, 1⟩
def F.LOGn_CFG_MODE (n : Nat) : Fld := ⟨(R.LOGn_CFG n), 2, 2⟩
def F.LOGn_CFG_DIR (n : Nat) : Fld := ⟨(R.LOGn_CFG n), 4, 1⟩
def F.LOGn_CFG_INTERP (n : Nat) : Fld := ⟨(R.LOGn_CFG n), 5, 1⟩
def F.LOGn_CFG_GLITCH (n : Nat) : Fld := ⟨(R.LOGn_CFG n), 8, 8⟩
def R.LOGn_STAT (n : Nat) : Nat := 0x400B1004 + n * 0x100
def F.LOGn_STAT_IDLE (n : Nat) : Fld := ⟨(R.LOGn_STAT n), 0, 1⟩
def F.LOGn_STAT_STANDSTILL (n : Nat) : Fld := ⟨(R.LOGn_STAT n), 1, 1⟩
def F.LOGn_STAT_DIRECTION (n : Nat) : Fld := ⟨(R.LOGn_STAT n), 2, 1⟩
def F.LOGn_STAT_PER_VALID (n : Nat) : Fld := ⟨(R.LOGn_STAT n), 3, 1⟩
def F.LOGn_STAT_ABZ (n : Nat) : Fld := ⟨(R.LOGn_STAT n), 4, 3⟩
def F.LOGn_STAT_IDX_ERRS (n : Nat) : Fld := ⟨(R.LOGn_STAT n), 8, 4⟩
def R.LOGn_FLAG (n : Nat) : Nat := 0x400B1008 + n * 0x100
def F.LOGn_FLAG_QERR (n : Nat) : Fld := ⟨(R.LOGn_FLAG n), 0, 1⟩
def F.LOGn_FLAG_INDEX_ERR (n : Nat) : Fld := ⟨(R.LOGn_FLAG n), 1, 1⟩
def F.LOGn_FLAG_INDEX_RESYNC (n : Nat) : Fld := ⟨(R.LOGn_FLAG n), 2, 1⟩
def F.LOGn_FLAG_SSI_ERR (n : Nat) : Fld := ⟨(R.LOGn_FLAG n), 3, 1⟩
def F.LOGn_FLAG_SSI_JUMP (n : Nat) : Fld := ⟨(R.LOGn_FLAG n), 4, 1⟩
def F.LOGn_FLAG_POS_SAT (n : Nat) : Fld := ⟨(R.LOGn_FLAG n), 5, 1⟩
def F.LOGn_FLAG_CMP_SKIP (n : Nat) : Fld := ⟨(R.LOGn_FLAG n), 6, 1⟩
def R.LOGn_SSI_CFG (n : Nat) : Nat := 0x400B1018 + n * 0x100
def F.LOGn_SSI_CFG_BITS (n : Nat) : Fld := ⟨(R.LOGn_SSI_CFG n), 0, 6⟩
def F.LOGn_SSI_CFG_GRAY (n : Nat) : Fld := ⟨(R.LOGn_SSI_CFG n), 6, 1⟩
def F.LOGn_SSI_CFG_ERRBIT (n : Nat) : Fld := ⟨(R.LOGn_SSI_CFG n), 7, 1⟩
def F.LOGn_SSI_CFG_CLKDIV (n : Nat) : Fld := ⟨(R.LOGn_SSI_CFG n), 8, 12⟩
def F.LOGn_SSI_CFG_MONO (n : Nat) : Fld := ⟨(R.LOGn_SSI_CFG n), 20, 8⟩
def R.LOGn_INDEX_CTRL (n : Nat) : Nat := 0x400B1024 + n * 0x100
def F.LOGn_INDEX_CTRL_ZEN (n : Nat) : Fld := ⟨(R.LOGn_INDEX_CTRL n), 0, 1⟩
def F.LOGn_INDEX_CTRL_ZGATE_EN (n : Nat) : Fld := ⟨(R.LOGn_INDEX_CTRL n), 1, 1⟩
def F.LOGn_INDEX_CTRL_ZGATE (n : Nat) : Fld := ⟨(R.LOGn_INDEX_CTRL n), 2, 2⟩
def F.LOGn_INDEX_CTRL_DRIFT_EN (n : Nat) : Fld := ⟨(R.LOGn_INDEX_CTRL n), 4, 1⟩
def F.LOGn_INDEX_CTRL_TOL (n : Nat) : Fld := ⟨(R.LOGn_INDEX_CTRL n), 8, 8⟩
def F.LOGn_INDEX_CTRL_RESYNC_N (n : Nat) : Fld := ⟨(R.LOGn_INDEX_CTRL n), 16, 4⟩
def R.LOGn_SPD_CFG (n : Nat) : Nat := 0x400B1048 + n * 0x100
def F.LOGn_SPD_CFG_WINDOW (n : Nat) : Fld := ⟨(R.LOGn_SPD_CFG n), 0, 17⟩
def F.LOGn_SPD_CFG_FILT (n : Nat) : Fld := ⟨(R.LOGn_SPD_CFG n), 17, 1⟩
def F.LOGn_SPD_CFG_PRESET (n : Nat) : Fld := ⟨(R.LOGn_SPD_CFG n), 18, 2⟩
def F.LOGn_SPD_CFG_MIN_EDGES (n : Nat) : Fld := ⟨(R.LOGn_SPD_CFG n), 24, 8⟩
def R.LOGn_SPD_STAT (n : Nat) : Nat := 0x400B1050 + n * 0x100
def F.LOGn_SPD_STAT_VALID (n : Nat) : Fld := ⟨(R.LOGn_SPD_STAT n), 0, 1⟩
def F.LOGn_SPD_STAT_REVERSAL (n : Nat) : Fld := ⟨(R.LOGn_SPD_STAT n), 1, 1⟩
def F.LOGn_SPD_STAT_QUALIFIED (n : Nat) : Fld := ⟨(R.LOGn_SPD_STAT n), 2, 1⟩
def F.LOGn_SPD_STAT_EDGES (n : Nat) : Fld := ⟨(R.LOGn_SPD_STAT n), 8, 24⟩
def R.LOGn_QERR_CNT (n : Nat) : Nat := 0x400B100C + n * 0x100
def F.LOGn_QERR_CNT (n : Nat) : Fld := ⟨(R.LOGn_QERR_CNT n), 0, 32⟩
def R.LOGn_POS (n : Nat) : Nat := 0x400B1010 + n * 0x100
def F.LOGn_POS (n : Nat) : Fld := ⟨(R.LOGn_POS n), 0, 64⟩
def R.LOGn_SSI_PERIOD (n : Nat) : Nat := 0x400B101C + n * 0x100
def F.LOGn_SSI_PERIOD (n : Nat) : Fld := ⟨(R.LOGn_SSI_PERIOD n), 0, 24⟩
def R.LOGn_SSI_STEP (n : Nat) : Nat := 0x400B1020 + n * 0x100
def F.LOGn_SSI_STEP (n : Nat) : Fld := ⟨(R.LOGn_SSI_STEP n), 0, 32⟩
def R.LOGn_CPR (n : Nat) : Nat := 0x400B1028 + n * 0x100
def F.LOGn_CPR (n : Nat) : Fld := ⟨(R.LOGn_CPR n), 0, 32⟩
def R.LOGn_DRIFT_SPAN (n : Nat) : Nat := 0x400B102C + n * 0x100
def F.LOGn_DRIFT_SPAN (n : Nat) : Fld := ⟨(R.LOGn_DRIFT_SPAN n), 0, 17⟩
def R.LOGn_INDEX_POS (n : Nat) : Nat := 0x400B1030 + n * 0x100
def F.LOGn_INDEX_POS (n : Nat) : Fld := ⟨(R.LOGn_INDEX_POS n), 0, 64⟩
def R.LOGn_DRIFT (n : Nat) : Nat := 0x400B1038 + n * 0x100
def F.LOGn_DRIFT (n : Nat) : Fld := ⟨(R.LOGn_DRIFT n), 0, 32⟩
def R.LOGn_INDEX_CNT (n : Nat) : Nat := 0x400B103C + n * 0x100
def F.LOGn_INDEX_CNT (n : Nat) : Fld := ⟨(R.LOGn_INDEX_CNT n), 0, 32⟩
def R.LOGn_INDEX_ERR_CNT (n : Nat) : Nat := 0x400B1040 + n * 0x100
def F.LOGn_INDEX_ERR_CNT (n : Nat) : Fld := ⟨(R.LOGn_INDEX_ERR_CNT n), 0, 32⟩
def R.LOGn_STILL_TIME (n : Nat) : Nat := 0x400B1044 + n * 0x100
def F.LOGn_STILL_TIME (n : Nat) : Fld := ⟨(R.LOGn_STILL_TIME n), 0, 20⟩
def R.LOGn_SPEED (n : Nat) : Nat := 0x400B104C + n * 0x100
def F.LOGn_SPEED (n : Nat) : Fld := ⟨(R.LOGn_SPEED n), 0, 32⟩
def R.LOGn_SPEED_FILT (n : Nat) : Nat := 0x400B1054 + n * 0x100
def F.LOGn_SPEED_FILT (n : Nat) : Fld := ⟨(R.LOGn_SPEED_FILT n), 0, 32⟩
def R.LOGn_DRIFT_HISTk (n k : Nat) : Nat := 0x400B1060 + n * 0x100 + k * 4
def F.LOGn_DRIFT_HISTk (n k : Nat) : Fld := ⟨(R.LOGn_DRIFT_HISTk n k), 0, 32⟩
def R.LOGn_CMPm_CTRL (n m : Nat) : Nat := 0x400B1080 + n * 0x100 + m * 0x20
def F.LOGn_CMPm_CTRL_MODE (n m : Nat) : Fld := ⟨(R.LOGn_CMPm_CTRL n m), 0, 2⟩
def F.LOGn_CMPm_CTRL_SRC (n m : Nat) : Fld := ⟨(R.LOGn_CMPm_CTRL n m), 2, 1⟩
def F.LOGn_CMPm_CTRL_PUB (n m : Nat) : Fld := ⟨(R.LOGn_CMPm_CTRL n m), 3, 1⟩
def F.LOGn_CMPm_CTRL_EVC (n m : Nat) : Fld := ⟨(R.LOGn_CMPm_CTRL n m), 4, 8⟩
def F.LOGn_CMPm_CTRL_BACKLOG (n m : Nat) : Fld := ⟨(R.LOGn_CMPm_CTRL n m), 16, 5⟩
def R.LOGn_CMPm_VAL (n m : Nat) : Nat := 0x400B1084 + n * 0x100 + m * 0x20
def F.LOGn_CMPm_VAL (n m : Nat) : Fld := ⟨(R.LOGn_CMPm_VAL n m), 0, 64⟩
def R.LOGn_CMPm_PITCH (n m : Nat) : Nat := 0x400B108C + n * 0x100 + m * 0x20
def F.LOGn_CMPm_PITCH (n m : Nat) : Fld := ⟨(R.LOGn_CMPm_PITCH n m), 0, 32⟩
def R.LOGn_CMPm_HIT_CNT (n m : Nat) : Nat := 0x400B1090 + n * 0x100 + m * 0x20
def F.LOGn_CMPm_HIT_CNT (n m : Nat) : Fld := ⟨(R.LOGn_CMPm_HIT_CNT n m), 0, 32⟩
def R.LOGn_CMPm_SKIP_CNT (n m : Nat) : Nat := 0x400B1094 + n * 0x100 + m * 0x20
def F.LOGn_CMPm_SKIP_CNT (n m : Nat) : Fld := ⟨(R.LOGn_CMPm_SKIP_CNT n m), 0, 32⟩
def R.TRG_CTRL : Nat := 0x400C0000
def F.TRG_CTRL_BCN_MASTER : Fld := ⟨R.TRG_CTRL, 0, 1⟩
def F.TRG_CTRL_BCN_NET_TX : Fld := ⟨R.TRG_CTRL, 1, 1⟩
def R.TRG_STAT : Nat := 0x400C0004
def F.TRG_STAT_LS_LOCK : Fld := ⟨R.TRG_STAT, 0, 1⟩
def F.TRG_STAT_HOLDOVER : Fld := ⟨R.TRG_STAT, 1, 1⟩
def F.TRG_STAT_FROZEN : Fld := ⟨R.TRG_STAT, 2, 1⟩
def R.TRG_FLAG : Nat := 0x400C0008
def F.TRG_FLAG_BEACON_LOST : Fld := ⟨R.TRG_FLAG, 0, 1⟩
def F.TRG_FLAG_LS_STEP : Fld := ⟨R.TRG_FLAG, 1, 1⟩
def F.TRG_FLAG_NET_STALE : Fld := ⟨R.TRG_FLAG, 2, 1⟩
def F.TRG_FLAG_OVERSPEED : Fld := ⟨R.TRG_FLAG, 3, 1⟩
def R.TRG_LS_CFG : Nat := 0x400C0010
def F.TRG_LS_CFG_SNAP : Fld := ⟨R.TRG_LS_CFG, 0, 16⟩
def F.TRG_LS_CFG_TIMEOUT : Fld := ⟨R.TRG_LS_CFG, 16, 8⟩
def F.TRG_LS_CFG_HOLDOVER : Fld := ⟨R.TRG_LS_CFG, 24, 8⟩
def R.TRG_LS_NET : Nat := 0x400C0014
def F.TRG_LS_NET_MAXAGE : Fld := ⟨R.TRG_LS_NET, 0, 16⟩
def F.TRG_LS_NET_PERIOD : Fld := ⟨R.TRG_LS_NET, 16, 16⟩
def R.TRG_LS_LAT : Nat := 0x400C0018
def F.TRG_LS_LAT : Fld := ⟨R.TRG_LS_LAT, 0, 20⟩
def R.TRG_LS_ERR : Nat := 0x400C001C
def F.TRG_LS_ERR : Fld := ⟨R.TRG_LS_ERR, 0, 32⟩
def R.TRG_LS_TDIFF : Nat := 0x400C0020
def F.TRG_LS_TDIFF : Fld := ⟨R.TRG_LS_TDIFF, 0, 32⟩
def R.TRG_LS_STEP_CNT : Nat := 0x400C0024
def F.TRG_LS_STEP_CNT : Fld := ⟨R.TRG_LS_STEP_CNT, 0, 32⟩
def R.TRG_BEACON_LOST_CNT : Nat := 0x400C0028
def F.TRG_BEACON_LOST_CNT : Fld := ⟨R.TRG_BEACON_LOST_CNT, 0, 32⟩
def R.TRG_NET_STALE_CNT : Nat := 0x400C002C
def F.TRG_NET_STALE_CNT : Fld := ⟨R.TRG_NET_STALE_CNT, 0, 32⟩
def R.TRG_LS_NETTO : Nat := 0x400C0030
def F.TRG_LS_NETTO : Fld := ⟨R.TRG_LS_NETTO, 0, 32⟩
def F.TRG_LS_NETTO_NTIMEOUT : Fld := ⟨R.TRG_LS_NETTO, 0, 16⟩
def F.TRG_LS_NETTO_NHOLDOVER : Fld := ⟨R.TRG_LS_NETTO, 16, 16⟩
def R.TRGs_CFG (s : Nat) : Nat := 0x400C1000 + s * 0x40
def F.TRGs_CFG_EN (s : Nat) : Fld := ⟨(R.TRGs_CFG s), 0, 1⟩
def F.TRGs_CFG_ABORT (s : Nat) : Fld := ⟨(R.TRGs_CFG s), 1, 1⟩
def F.TRGs_CFG_PATH (s : Nat) : Fld := ⟨(R.TRGs_CFG s), 2, 1⟩
def F.TRGs_CFG_VC (s : Nat) : Fld := ⟨(R.TRGs_CFG s), 3, 2⟩
def F.TRGs_CFG_UTP (s : Nat) : Fld := ⟨(R.TRGs_CFG s), 5, 8⟩
def F.TRGs_CFG_POL (s : Nat) : Fld := ⟨(R.TRGs_CFG s), 13, 1⟩
def F.TRGs_CFG_PULSE (s : Nat) : Fld := ⟨(R.TRGs_CFG s), 16, 8⟩
def R.TRGs_STAT (s : Nat) : Nat := 0x400C1004 + s * 0x40
def F.TRGs_STAT_IDLE (s : Nat) : Fld := ⟨(R.TRGs_STAT s), 0, 1⟩
def F.TRGs_STAT_SEQ (s : Nat) : Fld := ⟨(R.TRGs_STAT s), 8, 8⟩
def R.TRGs_FLAG (s : Nat) : Nat := 0x400C1008 + s * 0x40
def F.TRGs_FLAG_OVERSPEED (s : Nat) : Fld := ⟨(R.TRGs_FLAG s), 0, 1⟩
def F.TRGs_FLAG_DEFER (s : Nat) : Fld := ⟨(R.TRGs_FLAG s), 1, 1⟩
def R.TRGs_PITCH (s : Nat) : Nat := 0x400C100C + s * 0x40
def F.TRGs_PITCH (s : Nat) : Fld := ⟨(R.TRGs_PITCH s), 0, 32⟩
def R.TRGs_LEAD (s : Nat) : Nat := 0x400C1010 + s * 0x40
def F.TRGs_LEAD (s : Nat) : Fld := ⟨(R.TRGs_LEAD s), 0, 32⟩
def R.TRGs_MIN_SPACING (s : Nat) : Nat := 0x400C1014 + s * 0x40
def F.TRGs_MIN_SPACING (s : Nat) : Fld := ⟨(R.TRGs_MIN_SPACING s), 0, 20⟩
def R.TRGs_EXP_OFFSET (s : Nat) : Nat := 0x400C1018 + s * 0x40
def F.TRGs_EXP_OFFSET (s : Nat) : Fld := ⟨(R.TRGs_EXP_OFFSET s), 0, 32⟩
def R.TRGs_TRIG_CNT (s : Nat) : Nat := 0x400C101C + s * 0x40
def F.TRGs_TRIG_CNT (s : Nat) : Fld := ⟨(R.TRGs_TRIG_CNT s), 0, 32⟩
def R.TRGs_SKIP_CNT (s : Nat) : Nat := 0x400C1020 + s * 0x40
def F.TRGs_SKIP_CNT (s : Nat) : Fld := ⟨(R.TRGs_SKIP_CNT s), 0, 32⟩
def R.TRGs_DEFER_CNT (s : Nat) : Nat := 0x400C1024 + s * 0x40
def F.TRGs_DEFER_CNT (s : Nat) : Fld := ⟨(R.TRGs_DEFER_CNT s), 0, 32⟩
def R.STBt_CFG (t : Nat) : Nat := 0x400C3000 + t * 0x20
def F.STBt_CFG_EN (t : Nat) : Fld := ⟨(R.STBt_CFG t), 0, 1⟩
def F.STBt_CFG_ABORT (t : Nat) : Fld := ⟨(R.STBt_CFG t), 1, 1⟩
def F.STBt_CFG_MODE (t : Nat) : Fld := ⟨(R.STBt_CFG t), 2, 1⟩
def F.STBt_CFG_POL (t : Nat) : Fld := ⟨(R.STBt_CFG t), 3, 1⟩
def F.STBt_CFG_STREAM (t : Nat) : Fld := ⟨(R.STBt_CFG t), 4, 6⟩
def R.STBt_STAT (t : Nat) : Nat := 0x400C3004 + t * 0x20
def F.STBt_STAT_IDLE (t : Nat) : Fld := ⟨(R.STBt_STAT t), 0, 1⟩
def F.STBt_STAT_ON (t : Nat) : Fld := ⟨(R.STBt_STAT t), 1, 1⟩
def F.STBt_STAT_PENDING (t : Nat) : Fld := ⟨(R.STBt_STAT t), 2, 1⟩
def R.STBt_DELAY (t : Nat) : Nat := 0x400C3008 + t * 0x20
def F.STBt_DELAY (t : Nat) : Fld := ⟨(R.STBt_DELAY t), 0, 32⟩
def R.STBt_WIDTH (t : Nat) : Nat := 0x400C300C + t * 0x20
def F.STBt_WIDTH (t : Nat) : Fld := ⟨(R.STBt_WIDTH t), 0, 32⟩
def R.STBt_MAXW (t : Nat) : Nat := 0x400C3010 + t * 0x20
def F.STBt_MAXW (t : Nat) : Fld := ⟨(R.STBt_MAXW t), 0, 32⟩
def R.STBt_FIRE_CNT (t : Nat) : Nat := 0x400C3014 + t * 0x20
def F.STBt_FIRE_CNT (t : Nat) : Fld := ⟨(R.STBt_FIRE_CNT t), 0, 32⟩
def R.STBt_OVL_CNT (t : Nat) : Nat := 0x400C3018 + t * 0x20
def F.STBt_OVL_CNT (t : Nat) : Fld := ⟨(R.STBt_OVL_CNT t), 0, 32⟩
def R.FLTc_CTRL (c : Nat) : Nat := 0x400D1000 + c * 0x40
def F.FLTc_CTRL_EN (c : Nat) : Fld := ⟨(R.FLTc_CTRL c), 0, 1⟩
def F.FLTc_CTRL_ABORT (c : Nat) : Fld := ⟨(R.FLTc_CTRL c), 1, 1⟩
def F.FLTc_CTRL_PRESET (c : Nat) : Fld := ⟨(R.FLTc_CTRL c), 2, 2⟩
def F.FLTc_CTRL_USER (c : Nat) : Fld := ⟨(R.FLTc_CTRL c), 4, 1⟩
def F.FLTc_CTRL_SWITCH (c : Nat) : Fld := ⟨(R.FLTc_CTRL c), 5, 1⟩
def R.FLTc_STAT (c : Nat) : Nat := 0x400D1004 + c * 0x40
def F.FLTc_STAT_IDLE (c : Nat) : Fld := ⟨(R.FLTc_STAT c), 0, 1⟩
def F.FLTc_STAT_BANK (c : Nat) : Fld := ⟨(R.FLTc_STAT c), 1, 1⟩
def F.FLTc_STAT_FADING (c : Nat) : Fld := ⟨(R.FLTc_STAT c), 2, 1⟩
def F.FLTc_STAT_SETTLING (c : Nat) : Fld := ⟨(R.FLTc_STAT c), 3, 1⟩
def F.FLTc_STAT_VALID (c : Nat) : Fld := ⟨(R.FLTc_STAT c), 4, 1⟩
def F.FLTc_STAT_SHADOW_PEND (c : Nat) : Fld := ⟨(R.FLTc_STAT c), 5, 1⟩
def R.FLTc_FLAG (c : Nat) : Nat := 0x400D1008 + c * 0x40
def F.FLTc_FLAG_COEF_BUSY (c : Nat) : Fld := ⟨(R.FLTc_FLAG c), 0, 1⟩
def F.FLTc_FLAG_SAT (c : Nat) : Fld := ⟨(R.FLTc_FLAG c), 1, 1⟩
def F.FLTc_FLAG_LAMP_LOW (c : Nat) : Fld := ⟨(R.FLTc_FLAG c), 2, 1⟩
def F.FLTc_FLAG_NO_SIGNAL (c : Nat) : Fld := ⟨(R.FLTc_FLAG c), 3, 1⟩
def R.FLTc_FCFG_SH (c : Nat) : Nat := 0x400D100C + c * 0x40
def F.FLTc_FCFG_SH_FADE_LEN (c : Nat) : Fld := ⟨(R.FLTc_FCFG_SH c), 0, 11⟩
def F.FLTc_FCFG_SH_NTAPS (c : Nat) : Fld := ⟨(R.FLTc_FCFG_SH c), 16, 8⟩
def R.FLTc_FCFG_ACT (c : Nat) : Nat := 0x400D1010 + c * 0x40
def F.FLTc_FCFG_ACT_FADE_LEN (c : Nat) : Fld := ⟨(R.FLTc_FCFG_ACT c), 0, 11⟩
def F.FLTc_FCFG_ACT_NTAPS (c : Nat) : Fld := ⟨(R.FLTc_FCFG_ACT c), 16, 8⟩
def R.FLTc_COEF_IDX (c : Nat) : Nat := 0x400D1014 + c * 0x40
def F.FLTc_COEF_IDX (c : Nat) : Fld := ⟨(R.FLTc_COEF_IDX c), 0, 7⟩
def R.FLTc_COEF_DATA (c : Nat) : Nat := 0x400D1018 + c * 0x40
def F.FLTc_COEF_DATA (c : Nat) : Fld := ⟨(R.FLTc_COEF_DATA c), 0, 24⟩
def R.FLTc_OUT (c : Nat) : Nat := 0x400D101C + c * 0x40
def F.FLTc_OUT (c : Nat) : Fld := ⟨(R.FLTc_OUT c), 0, 32⟩
def R.FLTc_LOWTHR (c : Nat) : Nat := 0x400D1020 + c * 0x40
def F.FLTc_LOWTHR (c : Nat) : Fld := ⟨(R.FLTc_LOWTHR c), 0, 24⟩
def R.ILLs_CFG (s : Nat) : Nat := 0x400D3000 + s * 0x10
def F.ILLs_CFG_EN (s : Nat) : Fld := ⟨(R.ILLs_CFG s), 0, 1⟩
def F.ILLs_CFG_LM (s : Nat) : Fld := ⟨(R.ILLs_CFG s), 1, 4⟩
def F.ILLs_CFG_SLEW (s : Nat) : Fld := ⟨(R.ILLs_CFG s), 16, 16⟩
def R.ILLs_REF (s : Nat) : Nat := 0x400D3004 + s * 0x10
def F.ILLs_REF (s : Nat) : Fld := ⟨(R.ILLs_REF s), 0, 24⟩
def R.ILLs_LIMITS (s : Nat) : Nat := 0x400D3008 + s * 0x10
def F.ILLs_LIMITS (s : Nat) : Fld := ⟨(R.ILLs_LIMITS s), 0, 32⟩
def F.ILLs_LIMITS_GMIN (s : Nat) : Fld := ⟨(R.ILLs_LIMITS s), 0, 16⟩
def F.ILLs_LIMITS_GMAX (s : Nat) : Fld := ⟨(R.ILLs_LIMITS s), 16, 16⟩
def R.ILLs_GAIN (s : Nat) : Nat := 0x400D300C + s * 0x10
def F.ILLs_GAIN (s : Nat) : Fld := ⟨(R.ILLs_GAIN s), 0, 16⟩
def R.SLK_Ll_CTRL (l : Nat) : Nat := 0x40121000 + l * 0x40
def F.SLK_Ll_CTRL_EN (l : Nat) : Fld := ⟨(R.SLK_Ll_CTRL l), 0, 1⟩
def F.SLK_Ll_CTRL_ABORT (l : Nat) : Fld := ⟨(R.SLK_Ll_CTRL l), 1, 1⟩
def F.SLK_Ll_CTRL_PSTATE (l : Nat) : Fld := ⟨(R.SLK_Ll_CTRL l), 2, 2⟩
def F.SLK_Ll_CTRL_ADAPT (l : Nat) : Fld := ⟨(R.SLK_Ll_CTRL l), 4, 1⟩
def F.SLK_Ll_CTRL_PEAK (l : Nat) : Fld := ⟨(R.SLK_Ll_CTRL l), 8, 5⟩
def F.SLK_Ll_CTRL_EYE_MIN (l : Nat) : Fld := ⟨(R.SLK_Ll_CTRL l), 16, 8⟩
def F.SLK_Ll_CTRL_EYE_DWELL (l : Nat) : Fld := ⟨(R.SLK_Ll_CTRL l), 24, 8⟩
def R.SLK_Ll_STAT (l : Nat) : Nat := 0x40121004 + l * 0x40
def F.SLK_Ll_STAT_IDLE (l : Nat) : Fld := ⟨(R.SLK_Ll_STAT l), 0, 1⟩
def F.SLK_Ll_STAT_CDR_LOCK (l : Nat) : Fld := ⟨(R.SLK_Ll_STAT l), 1, 1⟩
def F.SLK_Ll_STAT_BLOCK_LOCK (l : Nat) : Fld := ⟨(R.SLK_Ll_STAT l), 2, 1⟩
def F.SLK_Ll_STAT_ADAPTING (l : Nat) : Fld := ⟨(R.SLK_Ll_STAT l), 3, 1⟩
def F.SLK_Ll_STAT_PSTATE (l : Nat) : Fld := ⟨(R.SLK_Ll_STAT l), 4, 2⟩
def F.SLK_Ll_STAT_EYE (l : Nat) : Fld := ⟨(R.SLK_Ll_STAT l), 8, 8⟩
def F.SLK_Ll_STAT_PEAK_ACT (l : Nat) : Fld := ⟨(R.SLK_Ll_STAT l), 16, 5⟩
def R.SLK_Ll_FLAG (l : Nat) : Nat := 0x40121008 + l * 0x40
def F.SLK_Ll_FLAG_LOCK_LOST (l : Nat) : Fld := ⟨(R.SLK_Ll_FLAG l), 0, 1⟩
def F.SLK_Ll_FLAG_EYE_LOW (l : Nat) : Fld := ⟨(R.SLK_Ll_FLAG l), 1, 1⟩
def F.SLK_Ll_FLAG_ADAPT_FAIL (l : Nat) : Fld := ⟨(R.SLK_Ll_FLAG l), 2, 1⟩
def F.SLK_Ll_FLAG_BLK_ERR (l : Nat) : Fld := ⟨(R.SLK_Ll_FLAG l), 3, 1⟩
def F.SLK_Ll_FLAG_P1_LOST (l : Nat) : Fld := ⟨(R.SLK_Ll_FLAG l), 4, 1⟩
def R.SLK_Ll_SH_ERR_CNT (l : Nat) : Nat := 0x4012100C + l * 0x40
def F.SLK_Ll_SH_ERR_CNT (l : Nat) : Fld := ⟨(R.SLK_Ll_SH_ERR_CNT l), 0, 32⟩
def R.SLK_Ll_LOCK_LOST_CNT (l : Nat) : Nat := 0x40121010 + l * 0x40
def F.SLK_Ll_LOCK_LOST_CNT (l : Nat) : Fld := ⟨(R.SLK_Ll_LOCK_LOST_CNT l), 0, 32⟩
def R.SLK_Ll_BLK_ERR_CNT (l : Nat) : Nat := 0x40121014 + l * 0x40
def F.SLK_Ll_BLK_ERR_CNT (l : Nat) : Fld := ⟨(R.SLK_Ll_BLK_ERR_CNT l), 0, 32⟩
def R.SLK_Ll_P1_LOST_CNT (l : Nat) : Nat := 0x40121018 + l * 0x40
def F.SLK_Ll_P1_LOST_CNT (l : Nat) : Fld := ⟨(R.SLK_Ll_P1_LOST_CNT l), 0, 32⟩
def R.SLK_CPp_CFG (p : Nat) : Nat := 0x40122000 + p * 0x40
def F.SLK_CPp_CFG_EN (p : Nat) : Fld := ⟨(R.SLK_CPp_CFG p), 0, 1⟩
def F.SLK_CPp_CFG_ABORT (p : Nat) : Fld := ⟨(R.SLK_CPp_CFG p), 1, 1⟩
def F.SLK_CPp_CFG_MODE (p : Nat) : Fld := ⟨(R.SLK_CPp_CFG p), 2, 2⟩
def F.SLK_CPp_CFG_AUTO_ORDER (p : Nat) : Fld := ⟨(R.SLK_CPp_CFG p), 4, 1⟩
def F.SLK_CPp_CFG_ID_CHECK (p : Nat) : Fld := ⟨(R.SLK_CPp_CFG p), 5, 1⟩
def F.SLK_CPp_CFG_PORT_ID (p : Nat) : Fld := ⟨(R.SLK_CPp_CFG p), 8, 8⟩
def R.SLK_CPp_STAT (p : Nat) : Nat := 0x40122004 + p * 0x40
def F.SLK_CPp_STAT_IDLE (p : Nat) : Fld := ⟨(R.SLK_CPp_STAT p), 0, 1⟩
def F.SLK_CPp_STAT_LINK_OK (p : Nat) : Fld := ⟨(R.SLK_CPp_STAT p), 1, 1⟩
def F.SLK_CPp_STAT_STREAM_UP (p : Nat) : Fld := ⟨(R.SLK_CPp_STAT p), 2, 4⟩
def F.SLK_CPp_STAT_LANE_MAP (p : Nat) : Fld := ⟨(R.SLK_CPp_STAT p), 8, 8⟩
def F.SLK_CPp_STAT_SKEW (p : Nat) : Fld := ⟨(R.SLK_CPp_STAT p), 16, 6⟩
def R.SLK_CPp_FLAG (p : Nat) : Nat := 0x40122008 + p * 0x40
def F.SLK_CPp_FLAG_LINK_DOWN (p : Nat) : Fld := ⟨(R.SLK_CPp_FLAG p), 0, 1⟩
def F.SLK_CPp_FLAG_LINK_UP (p : Nat) : Fld := ⟨(R.SLK_CPp_FLAG p), 1, 1⟩
def F.SLK_CPp_FLAG_DESKEW_ERR (p : Nat) : Fld := ⟨(R.SLK_CPp_FLAG p), 2, 1⟩
def F.SLK_CPp_FLAG_MARKER_ERR (p : Nat) : Fld := ⟨(R.SLK_CPp_FLAG p), 3, 1⟩
def F.SLK_CPp_FLAG_ORDER_ERR (p : Nat) : Fld := ⟨(R.SLK_CPp_FLAG p), 4, 1⟩
def F.SLK_CPp_FLAG_ID_ERR (p : Nat) : Fld := ⟨(R.SLK_CPp_FLAG p), 5, 1⟩
def R.SLK_CPp_LINK_DOWN_CNT (p : Nat) : Nat := 0x4012200C + p * 0x40
def F.SLK_CPp_LINK_DOWN_CNT (p : Nat) : Fld := ⟨(R.SLK_CPp_LINK_DOWN_CNT p), 0, 32⟩
def R.SLK_CPp_MARKER_ERR_CNT (p : Nat) : Nat := 0x40122010 + p * 0x40
def F.SLK_CPp_MARKER_ERR_CNT (p : Nat) : Fld := ⟨(R.SLK_CPp_MARKER_ERR_CNT p), 0, 32⟩
def R.SLK_Ss_LINE_SH (s : Nat) : Nat := 0x40123000 + s * 0x80
def F.SLK_Ss_LINE_SH_LEN (s : Nat) : Fld := ⟨(R.SLK_Ss_LINE_SH s), 0, 16⟩
def F.SLK_Ss_LINE_SH_DT (s : Nat) : Fld := ⟨(R.SLK_Ss_LINE_SH s), 16, 6⟩
def R.SLK_Ss_LINE_ACT (s : Nat) : Nat := 0x40123004 + s * 0x80
def F.SLK_Ss_LINE_ACT_LEN (s : Nat) : Fld := ⟨(R.SLK_Ss_LINE_ACT s), 0, 16⟩
def F.SLK_Ss_LINE_ACT_DT (s : Nat) : Fld := ⟨(R.SLK_Ss_LINE_ACT s), 16, 6⟩
def R.SLK_Ss_FILL_SH (s : Nat) : Nat := 0x40123008 + s * 0x80
def F.SLK_Ss_FILL_SH_FILL (s : Nat) : Fld := ⟨(R.SLK_Ss_FILL_SH s), 0, 16⟩
def R.SLK_Ss_FILL_ACT (s : Nat) : Nat := 0x4012300C + s * 0x80
def F.SLK_Ss_FILL_ACT_FILL (s : Nat) : Fld := ⟨(R.SLK_Ss_FILL_ACT s), 0, 16⟩
def R.SLK_Ss_STAT (s : Nat) : Nat := 0x40123010 + s * 0x80
def F.SLK_Ss_STAT_TEMP (s : Nat) : Fld := ⟨(R.SLK_Ss_STAT s), 0, 16⟩
def F.SLK_Ss_STAT_CAM_STATUS (s : Nat) : Fld := ⟨(R.SLK_Ss_STAT s), 16, 8⟩
def F.SLK_Ss_STAT_XOFF (s : Nat) : Fld := ⟨(R.SLK_Ss_STAT s), 24, 1⟩
def F.SLK_Ss_STAT_XOFF_SEEN (s : Nat) : Fld := ⟨(R.SLK_Ss_STAT s), 25, 1⟩
def F.SLK_Ss_STAT_SHADOW_PEND (s : Nat) : Fld := ⟨(R.SLK_Ss_STAT s), 26, 1⟩
def R.SLK_Ss_FLAG (s : Nat) : Nat := 0x40123014 + s * 0x80
def F.SLK_Ss_FLAG_SHORT (s : Nat) : Fld := ⟨(R.SLK_Ss_FLAG s), 0, 1⟩
def F.SLK_Ss_FLAG_LONG (s : Nat) : Fld := ⟨(R.SLK_Ss_FLAG s), 1, 1⟩
def F.SLK_Ss_FLAG_CRC (s : Nat) : Fld := ⟨(R.SLK_Ss_FLAG s), 2, 1⟩
def F.SLK_Ss_FLAG_HDR_ERR (s : Nat) : Fld := ⟨(R.SLK_Ss_FLAG s), 3, 1⟩
def F.SLK_Ss_FLAG_FRAME_ERR (s : Nat) : Fld := ⟨(R.SLK_Ss_FLAG s), 4, 1⟩
def F.SLK_Ss_FLAG_DT_ERR (s : Nat) : Fld := ⟨(R.SLK_Ss_FLAG s), 5, 1⟩
def F.SLK_Ss_FLAG_ORPHAN (s : Nat) : Fld := ⟨(R.SLK_Ss_FLAG s), 6, 1⟩
def F.SLK_Ss_FLAG_LINE_GAP (s : Nat) : Fld := ⟨(R.SLK_Ss_FLAG s), 7, 1⟩
def F.SLK_Ss_FLAG_CAM_ALARM (s : Nat) : Fld := ⟨(R.SLK_Ss_FLAG s), 8, 1⟩
def F.SLK_Ss_FLAG_CAM_DROP (s : Nat) : Fld := ⟨(R.SLK_Ss_FLAG s), 9, 1⟩
def R.SLK_Ss_LINE_CNT (s : Nat) : Nat := 0x40123018 + s * 0x80
def F.SLK_Ss_LINE_CNT (s : Nat) : Fld := ⟨(R.SLK_Ss_LINE_CNT s), 0, 32⟩
def R.SLK_Ss_SHORT_CNT (s : Nat) : Nat := 0x4012301C + s * 0x80
def F.SLK_Ss_SHORT_CNT (s : Nat) : Fld := ⟨(R.SLK_Ss_SHORT_CNT s), 0, 32⟩
def R.SLK_Ss_LONG_CNT (s : Nat) : Nat := 0x40123020 + s * 0x80
def F.SLK_Ss_LONG_CNT (s : Nat) : Fld := ⟨(R.SLK_Ss_LONG_CNT s), 0, 32⟩
def R.SLK_Ss_CRC_CNT (s : Nat) : Nat := 0x40123024 + s * 0x80
def F.SLK_Ss_CRC_CNT (s : Nat) : Fld := ⟨(R.SLK_Ss_CRC_CNT s), 0, 32⟩
def R.SLK_Ss_HDR_ERR_CNT (s : Nat) : Nat := 0x40123028 + s * 0x80
def F.SLK_Ss_HDR_ERR_CNT (s : Nat) : Fld := ⟨(R.SLK_Ss_HDR_ERR_CNT s), 0, 32⟩
def R.SLK_Ss_FRAME_ERR_CNT (s : Nat) : Nat := 0x4012302C + s * 0x80
def F.SLK_Ss_FRAME_ERR_CNT (s : Nat) : Fld := ⟨(R.SLK_Ss_FRAME_ERR_CNT s), 0, 32⟩
def R.SLK_Ss_DT_ERR_CNT (s : Nat) : Nat := 0x40123030 + s * 0x80
def F.SLK_Ss_DT_ERR_CNT (s : Nat) : Fld := ⟨(R.SLK_Ss_DT_ERR_CNT s), 0, 32⟩
def R.SLK_Ss_ORPHAN_CNT (s : Nat) : Nat := 0x40123034 + s * 0x80
def F.SLK_Ss_ORPHAN_CNT (s : Nat) : Fld := ⟨(R.SLK_Ss_ORPHAN_CNT s), 0, 32⟩
def R.SLK_Ss_GAP_CNT (s : Nat) : Nat := 0x40123038 + s * 0x80
def F.SLK_Ss_GAP_CNT (s : Nat) : Fld := ⟨(R.SLK_Ss_GAP_CNT s), 0, 32⟩
def R.SLK_Ss_NULL_CNT (s : Nat) : Nat := 0x4012303C + s * 0x80
def F.SLK_Ss_NULL_CNT (s : Nat) : Fld := ⟨(R.SLK_Ss_NULL_CNT s), 0, 32⟩
def R.SLK_Ss_CAM_DROP_CNT (s : Nat) : Nat := 0x40123040 + s * 0x80
def F.SLK_Ss_CAM_DROP_CNT (s : Nat) : Fld := ⟨(R.SLK_Ss_CAM_DROP_CNT s), 0, 32⟩
def R.SLK_Ss_LAST_LCNT (s : Nat) : Nat := 0x40123044 + s * 0x80
def F.SLK_Ss_LAST_LCNT (s : Nat) : Fld := ⟨(R.SLK_Ss_LAST_LCNT s), 0, 32⟩
def R.SLK_CSc_CTRL (c : Nat) : Nat := 0x40125000 + c * 0x40
def F.SLK_CSc_CTRL_EN (c : Nat) : Fld := ⟨(R.SLK_CSc_CTRL c), 0, 1⟩
def F.SLK_CSc_CTRL_ABORT (c : Nat) : Fld := ⟨(R.SLK_CSc_CTRL c), 1, 1⟩
def F.SLK_CSc_CTRL_GO (c : Nat) : Fld := ⟨(R.SLK_CSc_CTRL c), 2, 1⟩
def F.SLK_CSc_CTRL_VC (c : Nat) : Fld := ⟨(R.SLK_CSc_CTRL c), 3, 2⟩
def F.SLK_CSc_CTRL_BCAST (c : Nat) : Fld := ⟨(R.SLK_CSc_CTRL c), 5, 1⟩
def F.SLK_CSc_CTRL_WRITE (c : Nat) : Fld := ⟨(R.SLK_CSc_CTRL c), 6, 1⟩
def R.SLK_CSc_STAT (c : Nat) : Nat := 0x40125004 + c * 0x40
def F.SLK_CSc_STAT_IDLE (c : Nat) : Fld := ⟨(R.SLK_CSc_STAT c), 0, 1⟩
def F.SLK_CSc_STAT_BUSY (c : Nat) : Fld := ⟨(R.SLK_CSc_STAT c), 1, 1⟩
def F.SLK_CSc_STAT_RSTATUS (c : Nat) : Fld := ⟨(R.SLK_CSc_STAT c), 8, 8⟩
def F.SLK_CSc_STAT_TAG (c : Nat) : Fld := ⟨(R.SLK_CSc_STAT c), 16, 8⟩
def R.SLK_CSc_FLAG (c : Nat) : Nat := 0x40125008 + c * 0x40
def F.SLK_CSc_FLAG_DONE (c : Nat) : Fld := ⟨(R.SLK_CSc_FLAG c), 0, 1⟩
def F.SLK_CSc_FLAG_TIMEOUT (c : Nat) : Fld := ⟨(R.SLK_CSc_FLAG c), 1, 1⟩
def R.SLK_CSc_ADDR (c : Nat) : Nat := 0x4012500C + c * 0x40
def F.SLK_CSc_ADDR (c : Nat) : Fld := ⟨(R.SLK_CSc_ADDR c), 0, 32⟩
def R.SLK_CSc_WDATA (c : Nat) : Nat := 0x40125010 + c * 0x40
def F.SLK_CSc_WDATA (c : Nat) : Fld := ⟨(R.SLK_CSc_WDATA c), 0, 32⟩
def R.SLK_CSc_RDATA (c : Nat) : Nat := 0x40125014 + c * 0x40
def F.SLK_CSc_RDATA (c : Nat) : Fld := ⟨(R.SLK_CSc_RDATA c), 0, 32⟩
def R.SLK_CSc_TIMEOUT (c : Nat) : Nat := 0x40125018 + c * 0x40
def F.SLK_CSc_TIMEOUT (c : Nat) : Fld := ⟨(R.SLK_CSc_TIMEOUT c), 0, 16⟩
def R.SLK_CSc_TIMEOUT_CNT (c : Nat) : Nat := 0x4012501C + c * 0x40
def F.SLK_CSc_TIMEOUT_CNT (c : Nat) : Fld := ⟨(R.SLK_CSc_TIMEOUT_CNT c), 0, 32⟩
def R.PLn_ARB_STAT (n : Nat) : Nat := 0x40200000 + n * 0x10000
def F.PLn_ARB_STAT_LAST (n : Nat) : Fld := ⟨(R.PLn_ARB_STAT n), 0, 2⟩
def F.PLn_ARB_STAT_BUSY (n : Nat) : Fld := ⟨(R.PLn_ARB_STAT n), 2, 1⟩
def F.PLn_ARB_STAT_READY (n : Nat) : Fld := ⟨(R.PLn_ARB_STAT n), 4, 4⟩
def R.PLn_DEMAND (n : Nat) : Nat := 0x40200004 + n * 0x10000
def F.PLn_DEMAND_DEMAND (n : Nat) : Fld := ⟨(R.PLn_DEMAND n), 0, 16⟩
def R.PLn_CTXm_CFG (n m : Nat) : Nat := 0x40200100 + n * 0x10000 + m * 0x80
def F.PLn_CTXm_CFG_EN (n m : Nat) : Fld := ⟨(R.PLn_CTXm_CFG n m), 0, 1⟩
def F.PLn_CTXm_CFG_ABORT (n m : Nat) : Fld := ⟨(R.PLn_CTXm_CFG n m), 1, 1⟩
def F.PLn_CTXm_CFG_STREAM (n m : Nat) : Fld := ⟨(R.PLn_CTXm_CFG n m), 2, 6⟩
def R.PLn_CTXm_STAT (n m : Nat) : Nat := 0x40200104 + n * 0x10000 + m * 0x80
def F.PLn_CTXm_STAT_IDLE (n m : Nat) : Fld := ⟨(R.PLn_CTXm_STAT n m), 0, 1⟩
def F.PLn_CTXm_STAT_XOFF (n m : Nat) : Fld := ⟨(R.PLn_CTXm_STAT n m), 1, 1⟩
def F.PLn_CTXm_STAT_SHADOW_PEND (n m : Nat) : Fld := ⟨(R.PLn_CTXm_STAT n m), 2, 1⟩
def F.PLn_CTXm_STAT_LINES (n m : Nat) : Fld := ⟨(R.PLn_CTXm_STAT n m), 8, 6⟩
def F.PLn_CTXm_STAT_FILL (n m : Nat) : Fld := ⟨(R.PLn_CTXm_STAT n m), 16, 15⟩
def R.PLn_CTXm_FLAG (n m : Nat) : Nat := 0x40200108 + n * 0x10000 + m * 0x80
def F.PLn_CTXm_FLAG_DROP (n m : Nat) : Fld := ⟨(R.PLn_CTXm_FLAG n m), 0, 1⟩
def F.PLn_CTXm_FLAG_PARITY (n m : Nat) : Fld := ⟨(R.PLn_CTXm_FLAG n m), 1, 1⟩
def F.PLn_CTXm_FLAG_STATS_DROP (n m : Nat) : Fld := ⟨(R.PLn_CTXm_FLAG n m), 2, 1⟩
def R.PLn_CTXm_FLOW (n m : Nat) : Nat := 0x4020010C + n * 0x10000 + m * 0x80
def F.PLn_CTXm_FLOW_HI (n m : Nat) : Fld := ⟨(R.PLn_CTXm_FLOW n m), 0, 15⟩
def F.PLn_CTXm_FLOW_LO (n m : Nat) : Fld := ⟨(R.PLn_CTXm_FLOW n m), 16, 15⟩
def R.PLn_CTXm_PIN (n m : Nat) : Nat := 0x40200110 + n * 0x10000 + m * 0x80
def F.PLn_CTXm_PIN_PIN_EN (n m : Nat) : Fld := ⟨(R.PLn_CTXm_PIN n m), 0, 1⟩
def F.PLn_CTXm_PIN_POL (n m : Nat) : Fld := ⟨(R.PLn_CTXm_PIN n m), 1, 1⟩
def F.PLn_CTXm_PIN_UTP (n m : Nat) : Fld := ⟨(R.PLn_CTXm_PIN n m), 8, 8⟩
def R.PLn_CTXm_STATS_SH (n m : Nat) : Nat := 0x40200114 + n * 0x10000 + m * 0x80
def F.PLn_CTXm_STATS_SH_EN (n m : Nat) : Fld := ⟨(R.PLn_CTXm_STATS_SH n m), 0, 1⟩
def F.PLn_CTXm_STATS_SH_G (n m : Nat) : Fld := ⟨(R.PLn_CTXm_STATS_SH n m), 1, 3⟩
def F.PLn_CTXm_STATS_SH_QUEUE (n m : Nat) : Fld := ⟨(R.PLn_CTXm_STATS_SH n m), 4, 6⟩
def F.PLn_CTXm_STATS_SH_CAND_THR (n m : Nat) : Fld := ⟨(R.PLn_CTXm_STATS_SH n m), 16, 16⟩
def R.PLn_CTXm_STATS_ACT (n m : Nat) : Nat := 0x40200118 + n * 0x10000 + m * 0x80
def F.PLn_CTXm_STATS_ACT_EN (n m : Nat) : Fld := ⟨(R.PLn_CTXm_STATS_ACT n m), 0, 1⟩
def F.PLn_CTXm_STATS_ACT_G (n m : Nat) : Fld := ⟨(R.PLn_CTXm_STATS_ACT n m), 1, 3⟩
def F.PLn_CTXm_STATS_ACT_QUEUE (n m : Nat) : Fld := ⟨(R.PLn_CTXm_STATS_ACT n m), 4, 6⟩
def F.PLn_CTXm_STATS_ACT_CAND_THR (n m : Nat) : Fld := ⟨(R.PLn_CTXm_STATS_ACT n m), 16, 16⟩
def R.PLn_CTXm_LINE_CNT (n m : Nat) : Nat := 0x4020011C + n * 0x10000 + m * 0x80
def F.PLn_CTXm_LINE_CNT (n m : Nat) : Fld := ⟨(R.PLn_CTXm_LINE_CNT n m), 0, 32⟩
def R.PLn_CTXm_DROP_CNT (n m : Nat) : Nat := 0x40200120 + n * 0x10000 + m * 0x80
def F.PLn_CTXm_DROP_CNT (n m : Nat) : Fld := ⟨(R.PLn_CTXm_DROP_CNT n m), 0, 32⟩
def R.PLn_CTXm_PARITY_CNT (n m : Nat) : Nat := 0x40200124 + n * 0x10000 + m * 0x80
def F.PLn_CTXm_PARITY_CNT (n m : Nat) : Fld := ⟨(R.PLn_CTXm_PARITY_CNT n m), 0, 32⟩
def R.PLn_CTXm_XOFF_CNT (n m : Nat) : Nat := 0x40200128 + n * 0x10000 + m * 0x80
def F.PLn_CTXm_XOFF_CNT (n m : Nat) : Fld := ⟨(R.PLn_CTXm_XOFF_CNT n m), 0, 32⟩
def R.PLn_CTXm_STATS_CNT (n m : Nat) : Nat := 0x4020012C + n * 0x10000 + m * 0x80
def F.PLn_CTXm_STATS_CNT (n m : Nat) : Fld := ⟨(R.PLn_CTXm_STATS_CNT n m), 0, 32⟩
def R.PLn_CTXm_STATS_DROP_CNT (n m : Nat) : Nat := 0x40200130 + n * 0x10000 + m * 0x80
def F.PLn_CTXm_STATS_DROP_CNT (n m : Nat) : Fld := ⟨(R.PLn_CTXm_STATS_DROP_CNT n m), 0, 32⟩
def R.PLn_CTXm_COR_SH (n m : Nat) : Nat := 0x40200400 + n * 0x10000 + m * 0x100
def F.PLn_CTXm_COR_SH_BLK_EN (n m : Nat) : Fld := ⟨(R.PLn_CTXm_COR_SH n m), 0, 1⟩
def F.PLn_CTXm_COR_SH_BLK_MODE (n m : Nat) : Fld := ⟨(R.PLn_CTXm_COR_SH n m), 1, 1⟩
def F.PLn_CTXm_COR_SH_DPC_EN (n m : Nat) : Fld := ⟨(R.PLn_CTXm_COR_SH n m), 2, 1⟩
def F.PLn_CTXm_COR_SH_DYN_EN (n m : Nat) : Fld := ⟨(R.PLn_CTXm_COR_SH n m), 3, 1⟩
def F.PLn_CTXm_COR_SH_FF_EN (n m : Nat) : Fld := ⟨(R.PLn_CTXm_COR_SH n m), 4, 1⟩
def F.PLn_CTXm_COR_SH_TEMP_EN (n m : Nat) : Fld := ⟨(R.PLn_CTXm_COR_SH n m), 5, 1⟩
def F.PLn_CTXm_COR_SH_SC_EN (n m : Nat) : Fld := ⟨(R.PLn_CTXm_COR_SH n m), 6, 1⟩
def F.PLn_CTXm_COR_SH_BLK_SHIFT (n m : Nat) : Fld := ⟨(R.PLn_CTXm_COR_SH n m), 8, 4⟩
def F.PLn_CTXm_COR_SH_TF_SHIFT (n m : Nat) : Fld := ⟨(R.PLn_CTXm_COR_SH n m), 12, 4⟩
def R.PLn_CTXm_COR_ACT (n m : Nat) : Nat := 0x40200404 + n * 0x10000 + m * 0x100
def F.PLn_CTXm_COR_ACT_BLK_EN (n m : Nat) : Fld := ⟨(R.PLn_CTXm_COR_ACT n m), 0, 1⟩
def F.PLn_CTXm_COR_ACT_BLK_MODE (n m : Nat) : Fld := ⟨(R.PLn_CTXm_COR_ACT n m), 1, 1⟩
def F.PLn_CTXm_COR_ACT_DPC_EN (n m : Nat) : Fld := ⟨(R.PLn_CTXm_COR_ACT n m), 2, 1⟩
def F.PLn_CTXm_COR_ACT_DYN_EN (n m : Nat) : Fld := ⟨(R.PLn_CTXm_COR_ACT n m), 3, 1⟩
def F.PLn_CTXm_COR_ACT_FF_EN (n m : Nat) : Fld := ⟨(R.PLn_CTXm_COR_ACT n m), 4, 1⟩
def F.PLn_CTXm_COR_ACT_TEMP_EN (n m : Nat) : Fld := ⟨(R.PLn_CTXm_COR_ACT n m), 5, 1⟩
def F.PLn_CTXm_COR_ACT_SC_EN (n m : Nat) : Fld := ⟨(R.PLn_CTXm_COR_ACT n m), 6, 1⟩
def F.PLn_CTXm_COR_ACT_BLK_SHIFT (n m : Nat) : Fld := ⟨(R.PLn_CTXm_COR_ACT n m), 8, 4⟩
def F.PLn_CTXm_COR_ACT_TF_SHIFT (n m : Nat) : Fld := ⟨(R.PLn_CTXm_COR_ACT n m), 12, 4⟩
def R.PLn_CTXm_CAL_CFG (n m : Nat) : Nat := 0x40200408 + n * 0x10000 + m * 0x100
def F.PLn_CTXm_CAL_CFG_NTEMP (n m : Nat) : Fld := ⟨(R.PLn_CTXm_CAL_CFG n m), 0, 4⟩
def F.PLn_CTXm_CAL_CFG_OB_COUNT (n m : Nat) : Fld := ⟨(R.PLn_CTXm_CAL_CFG n m), 8, 8⟩
def F.PLn_CTXm_CAL_CFG_OB_END (n m : Nat) : Fld := ⟨(R.PLn_CTXm_CAL_CFG n m), 16, 1⟩
def R.PLn_CTXm_MOSAIC_CFG (n m : Nat) : Nat := 0x4020040C + n * 0x10000 + m * 0x100
def F.PLn_CTXm_MOSAIC_CFG_HM1 (n m : Nat) : Fld := ⟨(R.PLn_CTXm_MOSAIC_CFG n m), 0, 2⟩
def F.PLn_CTXm_MOSAIC_CFG_WM1 (n m : Nat) : Fld := ⟨(R.PLn_CTXm_MOSAIC_CFG n m), 2, 2⟩
def F.PLn_CTXm_MOSAIC_CFG_SEG_SUM (n m : Nat) : Fld := ⟨(R.PLn_CTXm_MOSAIC_CFG n m), 4, 1⟩
def F.PLn_CTXm_MOSAIC_CFG_SEG_PLANE (n m : Nat) : Fld := ⟨(R.PLn_CTXm_MOSAIC_CFG n m), 5, 2⟩
def R.PLn_CTXm_CAL_STAT (n m : Nat) : Nat := 0x40200468 + n * 0x10000 + m * 0x100
def F.PLn_CTXm_CAL_STAT_SET_RAMP (n m : Nat) : Fld := ⟨(R.PLn_CTXm_CAL_STAT n m), 0, 1⟩
def F.PLn_CTXm_CAL_STAT_SC_RAMP (n m : Nat) : Fld := ⟨(R.PLn_CTXm_CAL_STAT n m), 1, 1⟩
def F.PLn_CTXm_CAL_STAT_BLK_RAMP (n m : Nat) : Fld := ⟨(R.PLn_CTXm_CAL_STAT n m), 2, 1⟩
def F.PLn_CTXm_CAL_STAT_RAMP_SET (n m : Nat) : Fld := ⟨(R.PLn_CTXm_CAL_STAT n m), 4, 4⟩
def F.PLn_CTXm_CAL_STAT_TEMP_F (n m : Nat) : Fld := ⟨(R.PLn_CTXm_CAL_STAT n m), 16, 16⟩
def R.PLn_CTXm_CAL_FLAG (n m : Nat) : Nat := 0x4020046C + n * 0x10000 + m * 0x100
def F.PLn_CTXm_CAL_FLAG_CAL_BUSY (n m : Nat) : Fld := ⟨(R.PLn_CTXm_CAL_FLAG n m), 0, 1⟩
def F.PLn_CTXm_CAL_FLAG_REPL_FAIL (n m : Nat) : Fld := ⟨(R.PLn_CTXm_CAL_FLAG n m), 1, 1⟩
def F.PLn_CTXm_CAL_FLAG_DYN_OVF (n m : Nat) : Fld := ⟨(R.PLn_CTXm_CAL_FLAG n m), 2, 1⟩
def F.PLn_CTXm_CAL_FLAG_SC_SKIP (n m : Nat) : Fld := ⟨(R.PLn_CTXm_CAL_FLAG n m), 3, 1⟩
def F.PLn_CTXm_CAL_FLAG_SC_UNJUDGED (n m : Nat) : Fld := ⟨(R.PLn_CTXm_CAL_FLAG n m), 4, 1⟩
def F.PLn_CTXm_CAL_FLAG_TEMP_RANGE (n m : Nat) : Fld := ⟨(R.PLn_CTXm_CAL_FLAG n m), 5, 1⟩
def R.PLn_CTXm_CAL_CMD (n m : Nat) : Nat := 0x40200458 + n * 0x10000 + m * 0x100
def F.PLn_CTXm_CAL_CMD_COMMIT (n m : Nat) : Fld := ⟨(R.PLn_CTXm_CAL_CMD n m), 0, 1⟩
def F.PLn_CTXm_CAL_CMD_SET (n m : Nat) : Fld := ⟨(R.PLn_CTXm_CAL_CMD n m), 4, 4⟩
def R.PLn_CTXm_DYN_CFG (n m : Nat) : Nat := 0x40200470 + n * 0x10000 + m * 0x100
def F.PLn_CTXm_DYN_CFG_PROMOTE (n m : Nat) : Fld := ⟨(R.PLn_CTXm_DYN_CFG n m), 0, 8⟩
def F.PLn_CTXm_DYN_CFG_DEMOTE (n m : Nat) : Fld := ⟨(R.PLn_CTXm_DYN_CFG n m), 8, 8⟩
def F.PLn_CTXm_DYN_CFG_DYN_COUNT (n m : Nat) : Fld := ⟨(R.PLn_CTXm_DYN_CFG n m), 16, 9⟩
def R.PLn_CTXm_SC_CFG (n m : Nat) : Nat := 0x40200474 + n * 0x10000 + m * 0x100
def F.PLn_CTXm_SC_CFG_SHIFT (n m : Nat) : Fld := ⟨(R.PLn_CTXm_SC_CFG n m), 0, 4⟩
def F.PLn_CTXm_SC_CFG_DECIM (n m : Nat) : Fld := ⟨(R.PLn_CTXm_SC_CFG n m), 4, 8⟩
def F.PLn_CTXm_SC_CFG_PERIOD (n m : Nat) : Fld := ⟨(R.PLn_CTXm_SC_CFG n m), 12, 8⟩
def F.PLn_CTXm_SC_CFG_MIN_LINES (n m : Nat) : Fld := ⟨(R.PLn_CTXm_SC_CFG n m), 20, 12⟩
def R.PLn_CTXm_MOSAIC_ENTk (n m k : Nat) : Nat := 0x40200410 + n * 0x10000 + m * 0x100 + k * 4
def F.PLn_CTXm_MOSAIC_ENTk (n m k : Nat) : Fld := ⟨(R.PLn_CTXm_MOSAIC_ENTk n m k), 0, 32⟩
def R.PLn_CTXm_PLANE_OFSp (n m p : Nat) : Nat := 0x40200420 + n * 0x10000 + m * 0x100 + p * 4
def F.PLn_CTXm_PLANE_OFSp (n m p : Nat) : Fld := ⟨(R.PLn_CTXm_PLANE_OFSp n m p), 0, 32⟩
def R.PLn_CTXm_SEGW01 (n m : Nat) : Nat := 0x40200430 + n * 0x10000 + m * 0x100
def F.PLn_CTXm_SEGW01 (n m : Nat) : Fld := ⟨(R.PLn_CTXm_SEGW01 n m), 0, 32⟩
def F.PLn_CTXm_SEGW01_W0 (n m : Nat) : Fld := ⟨(R.PLn_CTXm_SEGW01 n m), 0, 16⟩
def F.PLn_CTXm_SEGW01_W1 (n m : Nat) : Fld := ⟨(R.PLn_CTXm_SEGW01 n m), 16, 16⟩
def R.PLn_CTXm_SEGW23 (n m : Nat) : Nat := 0x40200434 + n * 0x10000 + m * 0x100
def F.PLn_CTXm_SEGW23 (n m : Nat) : Fld := ⟨(R.PLn_CTXm_SEGW23 n m), 0, 32⟩
def F.PLn_CTXm_SEGW23_W2 (n m : Nat) : Fld := ⟨(R.PLn_CTXm_SEGW23 n m), 0, 16⟩
def F.PLn_CTXm_SEGW23_W3 (n m : Nat) : Fld := ⟨(R.PLn_CTXm_SEGW23 n m), 16, 16⟩
def R.PLn_CTXm_BLK_FIXED (n m : Nat) : Nat := 0x40200438 + n * 0x10000 + m * 0x100
def F.PLn_CTXm_BLK_FIXED (n m : Nat) : Fld := ⟨(R.PLn_CTXm_BLK_FIXED n m), 0, 16⟩
def R.PLn_CTXm_BLK_LEVEL (n m : Nat) : Nat := 0x4020043C + n * 0x10000 + m * 0x100
def F.PLn_CTXm_BLK_LEVEL (n m : Nat) : Fld := ⟨(R.PLn_CTXm_BLK_LEVEL n m), 0, 24⟩
def R.PLn_CTXm_TEMP_PTk (n m k : Nat) : Nat := 0x40200440 + n * 0x10000 + m * 0x100 + k * 4
def F.PLn_CTXm_TEMP_PTk (n m k : Nat) : Fld := ⟨(R.PLn_CTXm_TEMP_PTk n m k), 0, 32⟩
def R.PLn_CTXm_TEMP_DEF (n m : Nat) : Nat := 0x40200450 + n * 0x10000 + m * 0x100
def F.PLn_CTXm_TEMP_DEF (n m : Nat) : Fld := ⟨(R.PLn_CTXm_TEMP_DEF n m), 0, 16⟩
def R.PLn_CTXm_RAMP_LEN (n m : Nat) : Nat := 0x40200454 + n * 0x10000 + m * 0x100
def F.PLn_CTXm_RAMP_LEN (n m : Nat) : Fld := ⟨(R.PLn_CTXm_RAMP_LEN n m), 0, 16⟩
def R.PLn_CTXm_TBL_SEL (n m : Nat) : Nat := 0x4020045C + n * 0x10000 + m * 0x100
def F.PLn_CTXm_TBL_SEL (n m : Nat) : Fld := ⟨(R.PLn_CTXm_TBL_SEL n m), 0, 4⟩
def R.PLn_CTXm_TBL_IDX (n m : Nat) : Nat := 0x40200460 + n * 0x10000 + m * 0x100
def F.PLn_CTXm_TBL_IDX (n m : Nat) : Fld := ⟨(R.PLn_CTXm_TBL_IDX n m), 0, 16⟩
def R.PLn_CTXm_TBL_DATA (n m : Nat) : Nat := 0x40200464 + n * 0x10000 + m * 0x100
def F.PLn_CTXm_TBL_DATA (n m : Nat) : Fld := ⟨(R.PLn_CTXm_TBL_DATA n m), 0, 32⟩
def R.PLn_CTXm_SC_CFG2 (n m : Nat) : Nat := 0x40200478 + n * 0x10000 + m * 0x100
def F.PLn_CTXm_SC_CFG2 (n m : Nat) : Fld := ⟨(R.PLn_CTXm_SC_CFG2 n m), 0, 32⟩
def F.PLn_CTXm_SC_CFG2_HOLD (n m : Nat) : Fld := ⟨(R.PLn_CTXm_SC_CFG2 n m), 0, 9⟩
def F.PLn_CTXm_SC_CFG2_SPAN (n m : Nat) : Fld := ⟨(R.PLn_CTXm_SC_CFG2 n m), 16, 16⟩
def R.PLn_CTXm_SC_LIMITS (n m : Nat) : Nat := 0x4020047C + n * 0x10000 + m * 0x100
def F.PLn_CTXm_SC_LIMITS (n m : Nat) : Fld := ⟨(R.PLn_CTXm_SC_LIMITS n m), 0, 32⟩
def F.PLn_CTXm_SC_LIMITS_CMIN (n m : Nat) : Fld := ⟨(R.PLn_CTXm_SC_LIMITS n m), 0, 16⟩
def F.PLn_CTXm_SC_LIMITS_CMAX (n m : Nat) : Fld := ⟨(R.PLn_CTXm_SC_LIMITS n m), 16, 16⟩
def R.PLn_CTXm_SC_STEP (n m : Nat) : Nat := 0x40200480 + n * 0x10000 + m * 0x100
def F.PLn_CTXm_SC_STEP (n m : Nat) : Fld := ⟨(R.PLn_CTXm_SC_STEP n m), 0, 16⟩
def R.PLn_CTXm_REPL_FAIL_CNT (n m : Nat) : Nat := 0x40200484 + n * 0x10000 + m * 0x100
def F.PLn_CTXm_REPL_FAIL_CNT (n m : Nat) : Fld := ⟨(R.PLn_CTXm_REPL_FAIL_CNT n m), 0, 32⟩
def R.PLn_CTXm_SC_UPDATE_CNT (n m : Nat) : Nat := 0x40200488 + n * 0x10000 + m * 0x100
def F.PLn_CTXm_SC_UPDATE_CNT (n m : Nat) : Fld := ⟨(R.PLn_CTXm_SC_UPDATE_CNT n m), 0, 32⟩
def R.PLn_CTXm_SC_SKIP_CNT (n m : Nat) : Nat := 0x4020048C + n * 0x10000 + m * 0x100
def F.PLn_CTXm_SC_SKIP_CNT (n m : Nat) : Fld := ⟨(R.PLn_CTXm_SC_SKIP_CNT n m), 0, 32⟩
def R.PLn_CTXm_SC_UNJUDGED_CNT (n m : Nat) : Nat := 0x40200490 + n * 0x10000 + m * 0x100
def F.PLn_CTXm_SC_UNJUDGED_CNT (n m : Nat) : Fld := ⟨(R.PLn_CTXm_SC_UNJUDGED_CNT n m), 0, 32⟩
def R.PLn_CTXm_TEMP_RANGE_CNT (n m : Nat) : Nat := 0x40200494 + n * 0x10000 + m * 0x100
def F.PLn_CTXm_TEMP_RANGE_CNT (n m : Nat) : Fld := ⟨(R.PLn_CTXm_TEMP_RANGE_CNT n m), 0, 32⟩
def R.PLn_CTXm_DPM_COUNT (n m : Nat) : Nat := 0x40200498 + n * 0x10000 + m * 0x100
def F.PLn_CTXm_DPM_COUNT (n m : Nat) : Fld := ⟨(R.PLn_CTXm_DPM_COUNT n m), 0, 13⟩
def R.STC_CTRL : Nat := 0x40130000
def F.STC_CTRL_NEAREST : Fld := ⟨R.STC_CTRL, 0, 1⟩
def F.STC_CTRL_REFINE_EN : Fld := ⟨R.STC_CTRL, 1, 1⟩
def F.STC_CTRL_ARCH : Fld := ⟨R.STC_CTRL, 2, 3⟩
def R.STC_GRID_PITCH : Nat := 0x40130010
def F.STC_GRID_PITCH : Fld := ⟨R.STC_GRID_PITCH, 0, 24⟩
def R.STC_COL_PITCH : Nat := 0x40130014
def F.STC_COL_PITCH : Fld := ⟨R.STC_COL_PITCH, 0, 32⟩
def R.STC_COL_BASE : Nat := 0x40130018
def F.STC_COL_BASE : Fld := ⟨R.STC_COL_BASE, 0, 32⟩
def R.STC_ACROSS_ORIGIN : Nat := 0x4013001C
def F.STC_ACROSS_ORIGIN : Fld := ⟨R.STC_ACROSS_ORIGIN, 0, 32⟩
def R.STC_FILL : Nat := 0x40130020
def F.STC_FILL : Fld := ⟨R.STC_FILL, 0, 16⟩
def R.STC_ROW_WAIT : Nat := 0x40130024
def F.STC_ROW_WAIT : Fld := ⟨R.STC_ROW_WAIT, 0, 10⟩
def R.STC_STG_BUDGET : Nat := 0x40130028
def F.STC_STG_BUDGET : Fld := ⟨R.STC_STG_BUDGET, 0, 32⟩
def R.STC_STG_RATE : Nat := 0x4013002C
def F.STC_STG_RATE : Fld := ⟨R.STC_STG_RATE, 0, 32⟩
def R.STC_STG_BASE : Nat := 0x40130030
def F.STC_STG_BASE : Fld := ⟨R.STC_STG_BASE, 0, 64⟩
def R.STC_STG_SIZE : Nat := 0x40130038
def F.STC_STG_SIZE : Fld := ⟨R.STC_STG_SIZE, 0, 64⟩
def R.STC_SLICEs_WIDTH (s : Nat) : Nat := 0x40130040 + s * 4
def F.STC_SLICEs_WIDTH (s : Nat) : Fld := ⟨(R.STC_SLICEs_WIDTH s), 0, 15⟩
def R.STC_K0 : Nat := 0x40130080
def F.STC_K0 : Fld := ⟨R.STC_K0, 0, 64⟩
def R.STC_ROW : Nat := 0x40130088
def F.STC_ROW : Fld := ⟨R.STC_ROW, 0, 64⟩
def R.STC_REFINE_CFG : Nat := 0x40130090
def F.STC_REFINE_CFG : Fld := ⟨R.STC_REFINE_CFG, 0, 32⟩
def F.STC_REFINE_CFG_TEX_MIN : Fld := ⟨R.STC_REFINE_CFG, 0, 16⟩
def F.STC_REFINE_CFG_SHIFT : Fld := ⟨R.STC_REFINE_CFG, 16, 4⟩
def F.STC_REFINE_CFG_MIN_ROWS : Fld := ⟨R.STC_REFINE_CFG, 20, 12⟩
def R.STC_TBL_STREAM : Nat := 0x401300A0
def F.STC_TBL_STREAM : Fld := ⟨R.STC_TBL_STREAM, 0, 6⟩
def R.STC_TBL_IDX : Nat := 0x401300A4
def F.STC_TBL_IDX : Fld := ⟨R.STC_TBL_IDX, 0, 11⟩
def R.STC_TBL_DATA : Nat := 0x401300A8
def F.STC_TBL_DATA : Fld := ⟨R.STC_TBL_DATA, 0, 16⟩
def R.STC_CAMs_CFG (s : Nat) : Nat := 0x40131000 + s * 0x80
def F.STC_CAMs_CFG_EN (s : Nat) : Fld := ⟨(R.STC_CAMs_CFG s), 0, 1⟩
def F.STC_CAMs_CFG_REFINE (s : Nat) : Fld := ⟨(R.STC_CAMs_CFG s), 1, 1⟩
def F.STC_CAMs_CFG_RES_SWAP (s : Nat) : Fld := ⟨(R.STC_CAMs_CFG s), 2, 1⟩
def R.STC_CAMs_STAT (s : Nat) : Nat := 0x40131004 + s * 0x80
def F.STC_CAMs_STAT_STG (s : Nat) : Fld := ⟨(R.STC_CAMs_STAT s), 0, 1⟩
def F.STC_CAMs_STAT_RES_BANK (s : Nat) : Fld := ⟨(R.STC_CAMs_STAT s), 1, 1⟩
def F.STC_CAMs_STAT_SHADOW_PEND (s : Nat) : Fld := ⟨(R.STC_CAMs_STAT s), 2, 1⟩
def F.STC_CAMs_STAT_TRIG_OFF (s : Nat) : Fld := ⟨(R.STC_CAMs_STAT s), 3, 1⟩
def F.STC_CAMs_STAT_HOLD_DEPTH (s : Nat) : Fld := ⟨(R.STC_CAMs_STAT s), 16, 16⟩
def R.STC_CAMs_FLAG (s : Nat) : Nat := 0x40131008 + s * 0x80
def F.STC_CAMs_FLAG_DISCARD (s : Nat) : Fld := ⟨(R.STC_CAMs_FLAG s), 0, 1⟩
def F.STC_CAMs_FLAG_LATE (s : Nat) : Fld := ⟨(R.STC_CAMs_FLAG s), 1, 1⟩
def F.STC_CAMs_FLAG_STALE (s : Nat) : Fld := ⟨(R.STC_CAMs_FLAG s), 2, 1⟩
def F.STC_CAMs_FLAG_MISSING (s : Nat) : Fld := ⟨(R.STC_CAMs_FLAG s), 3, 1⟩
def F.STC_CAMs_FLAG_STG_OVF (s : Nat) : Fld := ⟨(R.STC_CAMs_FLAG s), 4, 1⟩
def F.STC_CAMs_FLAG_CLAMP (s : Nat) : Fld := ⟨(R.STC_CAMs_FLAG s), 5, 1⟩
def F.STC_CAMs_FLAG_REFINE_SKIP (s : Nat) : Fld := ⟨(R.STC_CAMs_FLAG s), 6, 1⟩
def F.STC_CAMs_FLAG_REFINE_RANGE (s : Nat) : Fld := ⟨(R.STC_CAMs_FLAG s), 7, 1⟩
def F.STC_CAMs_FLAG_REFINE_LOST (s : Nat) : Fld := ⟨(R.STC_CAMs_FLAG s), 8, 1⟩
def R.STC_CAMs_XS (s : Nat) : Nat := 0x4013100C + s * 0x80
def F.STC_CAMs_XS (s : Nat) : Fld := ⟨(R.STC_CAMs_XS s), 0, 18⟩
def R.STC_CAMs_XE (s : Nat) : Nat := 0x40131010 + s * 0x80
def F.STC_CAMs_XE (s : Nat) : Fld := ⟨(R.STC_CAMs_XE s), 0, 18⟩
def R.STC_CAMs_OFFSET_SH (s : Nat) : Nat := 0x40131014 + s * 0x80
def F.STC_CAMs_OFFSET_SH (s : Nat) : Fld := ⟨(R.STC_CAMs_OFFSET_SH s), 0, 32⟩
def R.STC_CAMs_OFFSET_ACT (s : Nat) : Nat := 0x40131018 + s * 0x80
def F.STC_CAMs_OFFSET_ACT (s : Nat) : Fld := ⟨(R.STC_CAMs_OFFSET_ACT s), 0, 32⟩
def R.STC_CAMs_SCALE_SH (s : Nat) : Nat := 0x4013101C + s * 0x80
def F.STC_CAMs_SCALE_SH (s : Nat) : Fld := ⟨(R.STC_CAMs_SCALE_SH s), 0, 32⟩
def R.STC_CAMs_SCALE_ACT (s : Nat) : Nat := 0x40131020 + s * 0x80
def F.STC_CAMs_SCALE_ACT (s : Nat) : Fld := ⟨(R.STC_CAMs_SCALE_ACT s), 0, 32⟩
def R.STC_CAMs_ALONG_SH (s : Nat) : Nat := 0x40131024 + s * 0x80
def F.STC_CAMs_ALONG_SH (s : Nat) : Fld := ⟨(R.STC_CAMs_ALONG_SH s), 0, 32⟩
def R.STC_CAMs_ALONG_ACT (s : Nat) : Nat := 0x40131028 + s * 0x80
def F.STC_CAMs_ALONG_ACT (s : Nat) : Fld := ⟨(R.STC_CAMs_ALONG_ACT s), 0, 32⟩
def R.STC_CAMs_OVL_ACROSS (s : Nat) : Nat := 0x4013102C + s * 0x80
def F.STC_CAMs_OVL_ACROSS (s : Nat) : Fld := ⟨(R.STC_CAMs_OVL_ACROSS s), 0, 32⟩
def R.STC_CAMs_OVL_ALONG (s : Nat) : Nat := 0x40131030 + s * 0x80
def F.STC_CAMs_OVL_ALONG (s : Nat) : Fld := ⟨(R.STC_CAMs_OVL_ALONG s), 0, 32⟩
def R.STC_CAMs_STALE_CNT (s : Nat) : Nat := 0x40131034 + s * 0x80
def F.STC_CAMs_STALE_CNT (s : Nat) : Fld := ⟨(R.STC_CAMs_STALE_CNT s), 0, 32⟩
def R.STC_CAMs_MISSING_CNT (s : Nat) : Nat := 0x40131038 + s * 0x80
def F.STC_CAMs_MISSING_CNT (s : Nat) : Fld := ⟨(R.STC_CAMs_MISSING_CNT s), 0, 32⟩
def R.STC_CAMs_NEAREST_CNT (s : Nat) : Nat := 0x4013103C + s * 0x80
def F.STC_CAMs_NEAREST_CNT (s : Nat) : Fld := ⟨(R.STC_CAMs_NEAREST_CNT s), 0, 32⟩
def R.STC_CAMs_DISCARD_CNT (s : Nat) : Nat := 0x40131040 + s * 0x80
def F.STC_CAMs_DISCARD_CNT (s : Nat) : Fld := ⟨(R.STC_CAMs_DISCARD_CNT s), 0, 32⟩
def R.STC_CAMs_LATE_CNT (s : Nat) : Nat := 0x40131044 + s * 0x80
def F.STC_CAMs_LATE_CNT (s : Nat) : Fld := ⟨(R.STC_CAMs_LATE_CNT s), 0, 32⟩
def R.STC_CAMs_STG_OVF_CNT (s : Nat) : Nat := 0x40131048 + s * 0x80
def F.STC_CAMs_STG_OVF_CNT (s : Nat) : Fld := ⟨(R.STC_CAMs_STG_OVF_CNT s), 0, 32⟩
def R.STC_CAMs_CLAMP_CNT (s : Nat) : Nat := 0x4013104C + s * 0x80
def F.STC_CAMs_CLAMP_CNT (s : Nat) : Fld := ⟨(R.STC_CAMs_CLAMP_CNT s), 0, 32⟩
def R.STC_CAMs_REFINE_CNT (s : Nat) : Nat := 0x40131050 + s * 0x80
def F.STC_CAMs_REFINE_CNT (s : Nat) : Fld := ⟨(R.STC_CAMs_REFINE_CNT s), 0, 32⟩
def R.STC_CAMs_REFINE_SKIP_CNT (s : Nat) : Nat := 0x40131054 + s * 0x80
def F.STC_CAMs_REFINE_SKIP_CNT (s : Nat) : Fld := ⟨(R.STC_CAMs_REFINE_SKIP_CNT s), 0, 32⟩
def R.SEG_CTRL : Nat := 0x40140000
def F.SEG_CTRL_EN : Fld := ⟨R.SEG_CTRL, 0, 1⟩
def F.SEG_CTRL_ABORT : Fld := ⟨R.SEG_CTRL, 1, 1⟩
def F.SEG_CTRL_TREE_SWAP : Fld := ⟨R.SEG_CTRL, 2, 1⟩
def R.SEG_STAT : Nat := 0x40140004
def F.SEG_STAT_IDLE : Fld := ⟨R.SEG_STAT, 0, 1⟩
def F.SEG_STAT_TREE_BANK : Fld := ⟨R.SEG_STAT, 1, 1⟩
def F.SEG_STAT_SWAP_PEND : Fld := ⟨R.SEG_STAT, 2, 1⟩
def F.SEG_STAT_MIG_ACTIVE : Fld := ⟨R.SEG_STAT, 3, 1⟩
def F.SEG_STAT_MIG_DRAINED : Fld := ⟨R.SEG_STAT, 4, 1⟩
def R.SEG_FLAG : Nat := 0x40140008
def F.SEG_FLAG_TREE_ERR : Fld := ⟨R.SEG_FLAG, 0, 1⟩
def F.SEG_FLAG_FIX_DROP : Fld := ⟨R.SEG_FLAG, 1, 1⟩
def F.SEG_FLAG_SEAM_OVF : Fld := ⟨R.SEG_FLAG, 2, 1⟩
def F.SEG_FLAG_SEAM_LATE : Fld := ⟨R.SEG_FLAG, 3, 1⟩
def F.SEG_FLAG_ORDER_BREAK : Fld := ⟨R.SEG_FLAG, 4, 1⟩
def F.SEG_FLAG_MIG_DONE : Fld := ⟨R.SEG_FLAG, 5, 1⟩
def F.SEG_FLAG_MIG_TIMEOUT : Fld := ⟨R.SEG_FLAG, 6, 1⟩
def R.SEG_CFG : Nat := 0x4014000C
def F.SEG_CFG : Fld := ⟨R.SEG_CFG, 0, 32⟩
def F.SEG_CFG_MAX_TILES : Fld := ⟨R.SEG_CFG, 0, 8⟩
def F.SEG_CFG_BG_SHIFT : Fld := ⟨R.SEG_CFG, 8, 4⟩
def R.SEG_WARM : Nat := 0x40140010
def F.SEG_WARM : Fld := ⟨R.SEG_WARM, 0, 32⟩
def F.SEG_WARM_BG_WARM : Fld := ⟨R.SEG_WARM, 0, 16⟩
def F.SEG_WARM_SIG_INIT : Fld := ⟨R.SEG_WARM, 16, 16⟩
def R.SEG_SEAM_WAIT : Nat := 0x40140014
def F.SEG_SEAM_WAIT : Fld := ⟨R.SEG_SEAM_WAIT, 0, 16⟩
def R.SEG_TREE_IDLE : Nat := 0x40140018
def F.SEG_TREE_IDLE : Fld := ⟨R.SEG_TREE_IDLE, 0, 32⟩
def F.SEG_TREE_IDLE_NODES : Fld := ⟨R.SEG_TREE_IDLE, 0, 13⟩
def F.SEG_TREE_IDLE_DEF_QUEUE : Fld := ⟨R.SEG_TREE_IDLE, 16, 6⟩
def R.SEG_TREE_ACT : Nat := 0x4014001C
def F.SEG_TREE_ACT : Fld := ⟨R.SEG_TREE_ACT, 0, 32⟩
def F.SEG_TREE_ACT_NODES : Fld := ⟨R.SEG_TREE_ACT, 0, 13⟩
def F.SEG_TREE_ACT_DEF_QUEUE : Fld := ⟨R.SEG_TREE_ACT, 16, 6⟩
def R.SEG_TREE_IDX : Nat := 0x40140020
def F.SEG_TREE_IDX : Fld := ⟨R.SEG_TREE_IDX, 0, 16⟩
def F.SEG_TREE_IDX_INDEX : Fld := ⟨R.SEG_TREE_IDX, 0, 12⟩
def F.SEG_TREE_IDX_ACTIVE : Fld := ⟨R.SEG_TREE_IDX, 15, 1⟩
def R.SEG_TREE_DATA : Nat := 0x40140024
def F.SEG_TREE_DATA : Fld := ⟨R.SEG_TREE_DATA, 0, 64⟩
def R.SEG_MIG_CTRL : Nat := 0x40140030
def F.SEG_MIG_CTRL : Fld := ⟨R.SEG_MIG_CTRL, 0, 32⟩
def F.SEG_MIG_CTRL_GO : Fld := ⟨R.SEG_MIG_CTRL, 0, 1⟩
def F.SEG_MIG_CTRL_FORCE : Fld := ⟨R.SEG_MIG_CTRL, 1, 1⟩
def F.SEG_MIG_CTRL_KIND : Fld := ⟨R.SEG_MIG_CTRL, 2, 1⟩
def F.SEG_MIG_CTRL_SRC : Fld := ⟨R.SEG_MIG_CTRL, 3, 6⟩
def F.SEG_MIG_CTRL_TGT : Fld := ⟨R.SEG_MIG_CTRL, 9, 5⟩
def F.SEG_MIG_CTRL_TGT_CTX : Fld := ⟨R.SEG_MIG_CTRL, 14, 2⟩
def F.SEG_MIG_CTRL_LEAD : Fld := ⟨R.SEG_MIG_CTRL, 16, 16⟩
def R.SEG_MIG_P : Nat := 0x40140034
def F.SEG_MIG_P : Fld := ⟨R.SEG_MIG_P, 0, 64⟩
def R.SEG_MIG_TIMEOUT : Nat := 0x4014003C
def F.SEG_MIG_TIMEOUT : Fld := ⟨R.SEG_MIG_TIMEOUT, 0, 16⟩
def R.SEG_U_FIX_CNT : Nat := 0x40140040
def F.SEG_U_FIX_CNT : Fld := ⟨R.SEG_U_FIX_CNT, 0, 32⟩
def R.SEG_U_SEG_CNT : Nat := 0x40140044
def F.SEG_U_SEG_CNT : Fld := ⟨R.SEG_U_SEG_CNT, 0, 32⟩
def R.SEG_U_CANCEL_CNT : Nat := 0x40140048
def F.SEG_U_CANCEL_CNT : Fld := ⟨R.SEG_U_CANCEL_CNT, 0, 32⟩
def R.SEG_U_FIX_DROP_CNT : Nat := 0x4014004C
def F.SEG_U_FIX_DROP_CNT : Fld := ⟨R.SEG_U_FIX_DROP_CNT, 0, 32⟩
def R.SEG_U_TREE_ERR_CNT : Nat := 0x40140050
def F.SEG_U_TREE_ERR_CNT : Fld := ⟨R.SEG_U_TREE_ERR_CNT, 0, 32⟩
def R.SEG_U_SEAM_CNT : Nat := 0x40140054
def F.SEG_U_SEAM_CNT : Fld := ⟨R.SEG_U_SEAM_CNT, 0, 32⟩
def R.SEG_U_SEAM_OVF_CNT : Nat := 0x40140058
def F.SEG_U_SEAM_OVF_CNT : Fld := ⟨R.SEG_U_SEAM_OVF_CNT, 0, 32⟩
def R.SEG_U_SEAM_LATE_CNT : Nat := 0x4014005C
def F.SEG_U_SEAM_LATE_CNT : Fld := ⟨R.SEG_U_SEAM_LATE_CNT, 0, 32⟩
def R.SEG_U_ORDER_BREAK_CNT : Nat := 0x40140060
def F.SEG_U_ORDER_BREAK_CNT : Fld := ⟨R.SEG_U_ORDER_BREAK_CNT, 0, 32⟩
def R.SEG_U_MIG_LOST_CNT : Nat := 0x40140064
def F.SEG_U_MIG_LOST_CNT : Fld := ⟨R.SEG_U_MIG_LOST_CNT, 0, 32⟩
def R.SEG_Ss_DARK_SH (s : Nat) : Nat := 0x40141000 + s * 0x80
def F.SEG_Ss_DARK_SH_K_S (s : Nat) : Fld := ⟨(R.SEG_Ss_DARK_SH s), 0, 8⟩
def F.SEG_Ss_DARK_SH_K_W (s : Nat) : Fld := ⟨(R.SEG_Ss_DARK_SH s), 8, 8⟩
def F.SEG_Ss_DARK_SH_MIN_S (s : Nat) : Fld := ⟨(R.SEG_Ss_DARK_SH s), 16, 8⟩
def F.SEG_Ss_DARK_SH_MIN_W (s : Nat) : Fld := ⟨(R.SEG_Ss_DARK_SH s), 24, 8⟩
def R.SEG_Ss_DARK_ACT (s : Nat) : Nat := 0x40141004 + s * 0x80
def F.SEG_Ss_DARK_ACT_K_S (s : Nat) : Fld := ⟨(R.SEG_Ss_DARK_ACT s), 0, 8⟩
def F.SEG_Ss_DARK_ACT_K_W (s : Nat) : Fld := ⟨(R.SEG_Ss_DARK_ACT s), 8, 8⟩
def F.SEG_Ss_DARK_ACT_MIN_S (s : Nat) : Fld := ⟨(R.SEG_Ss_DARK_ACT s), 16, 8⟩
def F.SEG_Ss_DARK_ACT_MIN_W (s : Nat) : Fld := ⟨(R.SEG_Ss_DARK_ACT s), 24, 8⟩
def R.SEG_Ss_LIGHT_SH (s : Nat) : Nat := 0x40141008 + s * 0x80
def F.SEG_Ss_LIGHT_SH_K_S (s : Nat) : Fld := ⟨(R.SEG_Ss_LIGHT_SH s), 0, 8⟩
def F.SEG_Ss_LIGHT_SH_K_W (s : Nat) : Fld := ⟨(R.SEG_Ss_LIGHT_SH s), 8, 8⟩
def F.SEG_Ss_LIGHT_SH_MIN_S (s : Nat) : Fld := ⟨(R.SEG_Ss_LIGHT_SH s), 16, 8⟩
def F.SEG_Ss_LIGHT_SH_MIN_W (s : Nat) : Fld := ⟨(R.SEG_Ss_LIGHT_SH s), 24, 8⟩
def R.SEG_Ss_LIGHT_ACT (s : Nat) : Nat := 0x4014100C + s * 0x80
def F.SEG_Ss_LIGHT_ACT_K_S (s : Nat) : Fld := ⟨(R.SEG_Ss_LIGHT_ACT s), 0, 8⟩
def F.SEG_Ss_LIGHT_ACT_K_W (s : Nat) : Fld := ⟨(R.SEG_Ss_LIGHT_ACT s), 8, 8⟩
def F.SEG_Ss_LIGHT_ACT_MIN_S (s : Nat) : Fld := ⟨(R.SEG_Ss_LIGHT_ACT s), 16, 8⟩
def F.SEG_Ss_LIGHT_ACT_MIN_W (s : Nat) : Fld := ⟨(R.SEG_Ss_LIGHT_ACT s), 24, 8⟩
def R.SEG_Ss_STAT (s : Nat) : Nat := 0x40141010 + s * 0x80
def F.SEG_Ss_STAT_IDLE (s : Nat) : Fld := ⟨(R.SEG_Ss_STAT s), 0, 1⟩
def F.SEG_Ss_STAT_SHADOW_PEND (s : Nat) : Fld := ⟨(R.SEG_Ss_STAT s), 1, 1⟩
def F.SEG_Ss_STAT_WARM (s : Nat) : Fld := ⟨(R.SEG_Ss_STAT s), 2, 1⟩
def F.SEG_Ss_STAT_PL (s : Nat) : Fld := ⟨(R.SEG_Ss_STAT s), 8, 5⟩
def F.SEG_Ss_STAT_FIFO (s : Nat) : Fld := ⟨(R.SEG_Ss_STAT s), 16, 6⟩
def R.SEG_Ss_FLAG (s : Nat) : Nat := 0x40141014 + s * 0x80
def F.SEG_Ss_FLAG_TRUNC (s : Nat) : Fld := ⟨(R.SEG_Ss_FLAG s), 0, 1⟩
def F.SEG_Ss_FLAG_ROW_SKIP (s : Nat) : Fld := ⟨(R.SEG_Ss_FLAG s), 1, 1⟩
def R.SEG_Ss_OPEN (s : Nat) : Nat := 0x40141018 + s * 0x80
def F.SEG_Ss_OPEN (s : Nat) : Fld := ⟨(R.SEG_Ss_OPEN s), 0, 17⟩
def R.SEG_Ss_COMP_CNT (s : Nat) : Nat := 0x4014101C + s * 0x80
def F.SEG_Ss_COMP_CNT (s : Nat) : Fld := ⟨(R.SEG_Ss_COMP_CNT s), 0, 32⟩
def R.SEG_Ss_WEAK_CNT (s : Nat) : Nat := 0x40141020 + s * 0x80
def F.SEG_Ss_WEAK_CNT (s : Nat) : Fld := ⟨(R.SEG_Ss_WEAK_CNT s), 0, 32⟩
def R.SEG_Ss_TRUNC_CNT (s : Nat) : Nat := 0x40141024 + s * 0x80
def F.SEG_Ss_TRUNC_CNT (s : Nat) : Fld := ⟨(R.SEG_Ss_TRUNC_CNT s), 0, 32⟩
def R.SEG_Ss_ROW_SKIP_CNT (s : Nat) : Nat := 0x40141028 + s * 0x80
def F.SEG_Ss_ROW_SKIP_CNT (s : Nat) : Fld := ⟨(R.SEG_Ss_ROW_SKIP_CNT s), 0, 32⟩
def R.MRKn_CFG (n : Nat) : Nat := 0x400E1000 + n * 0x100
def F.MRKn_CFG_EN (n : Nat) : Fld := ⟨(R.MRKn_CFG n), 0, 1⟩
def F.MRKn_CFG_ABORT (n : Nat) : Fld := ⟨(R.MRKn_CFG n), 1, 1⟩
def F.MRKn_CFG_NOZZLES (n : Nat) : Fld := ⟨(R.MRKn_CFG n), 2, 8⟩
def F.MRKn_CFG_CLKDIV (n : Nat) : Fld := ⟨(R.MRKn_CFG n), 10, 8⟩
def F.MRKn_CFG_QUEUE (n : Nat) : Fld := ⟨(R.MRKn_CFG n), 18, 6⟩
def F.MRKn_CFG_CMP_CH (n : Nat) : Fld := ⟨(R.MRKn_CFG n), 24, 5⟩
def F.MRKn_CFG_CMP_UNIT (n : Nat) : Fld := ⟨(R.MRKn_CFG n), 29, 2⟩
def F.MRKn_CFG_FIRE_POL (n : Nat) : Fld := ⟨(R.MRKn_CFG n), 31, 1⟩
def R.MRKn_STAT (n : Nat) : Nat := 0x400E1004 + n * 0x100
def F.MRKn_STAT_IDLE (n : Nat) : Fld := ⟨(R.MRKn_STAT n), 0, 1⟩
def F.MRKn_STAT_AUTH (n : Nat) : Fld := ⟨(R.MRKn_STAT n), 1, 1⟩
def F.MRKn_STAT_REFUSED (n : Nat) : Fld := ⟨(R.MRKn_STAT n), 2, 1⟩
def F.MRKn_STAT_LOADED (n : Nat) : Fld := ⟨(R.MRKn_STAT n), 3, 1⟩
def F.MRKn_STAT_SHADOW_PEND (n : Nat) : Fld := ⟨(R.MRKn_STAT n), 4, 1⟩
def F.MRKn_STAT_DEC_PEND (n : Nat) : Fld := ⟨(R.MRKn_STAT n), 5, 1⟩
def R.MRKn_FLAG (n : Nat) : Nat := 0x400E1008 + n * 0x100
def F.MRKn_FLAG_LATE (n : Nat) : Fld := ⟨(R.MRKn_FLAG n), 0, 1⟩
def F.MRKn_FLAG_OVERSPEED (n : Nat) : Fld := ⟨(R.MRKn_FLAG n), 1, 1⟩
def F.MRKn_FLAG_REC_LATE (n : Nat) : Fld := ⟨(R.MRKn_FLAG n), 2, 1⟩
def F.MRKn_FLAG_MISSED (n : Nat) : Fld := ⟨(R.MRKn_FLAG n), 3, 1⟩
def F.MRKn_FLAG_AUTH_FAIL (n : Nat) : Fld := ⟨(R.MRKn_FLAG n), 4, 1⟩
def F.MRKn_FLAG_COUNT_ZERO (n : Nat) : Fld := ⟨(R.MRKn_FLAG n), 5, 1⟩
def F.MRKn_FLAG_GEOM_ERR (n : Nat) : Fld := ⟨(R.MRKn_FLAG n), 6, 1⟩
def R.MRKn_DIST_SH (n : Nat) : Nat := 0x400E1010 + n * 0x100
def F.MRKn_DIST_SH (n : Nat) : Fld := ⟨(R.MRKn_DIST_SH n), 0, 32⟩
def R.MRKn_DIST_ACT (n : Nat) : Nat := 0x400E1014 + n * 0x100
def F.MRKn_DIST_ACT (n : Nat) : Fld := ⟨(R.MRKn_DIST_ACT n), 0, 32⟩
def R.MRKn_NCOL0_SH (n : Nat) : Nat := 0x400E1018 + n * 0x100
def F.MRKn_NCOL0_SH (n : Nat) : Fld := ⟨(R.MRKn_NCOL0_SH n), 0, 32⟩
def R.MRKn_NCOL0_ACT (n : Nat) : Nat := 0x400E101C + n * 0x100
def F.MRKn_NCOL0_ACT (n : Nat) : Fld := ⟨(R.MRKn_NCOL0_ACT n), 0, 32⟩
def R.MRKn_NOZ_SH (n : Nat) : Nat := 0x400E1020 + n * 0x100
def F.MRKn_NOZ_SH (n : Nat) : Fld := ⟨(R.MRKn_NOZ_SH n), 0, 32⟩
def F.MRKn_NOZ_SH_NWIDTH (n : Nat) : Fld := ⟨(R.MRKn_NOZ_SH n), 0, 16⟩
def F.MRKn_NOZ_SH_EXT_ACROSS (n : Nat) : Fld := ⟨(R.MRKn_NOZ_SH n), 16, 16⟩
def R.MRKn_NOZ_ACT (n : Nat) : Nat := 0x400E1024 + n * 0x100
def F.MRKn_NOZ_ACT (n : Nat) : Fld := ⟨(R.MRKn_NOZ_ACT n), 0, 32⟩
def F.MRKn_NOZ_ACT_NWIDTH (n : Nat) : Fld := ⟨(R.MRKn_NOZ_ACT n), 0, 16⟩
def F.MRKn_NOZ_ACT_EXT_ACROSS (n : Nat) : Fld := ⟨(R.MRKn_NOZ_ACT n), 16, 16⟩
def R.MRKn_EXT_ALONG_SH (n : Nat) : Nat := 0x400E1028 + n * 0x100
def F.MRKn_EXT_ALONG_SH (n : Nat) : Fld := ⟨(R.MRKn_EXT_ALONG_SH n), 0, 32⟩
def R.MRKn_EXT_ALONG_ACT (n : Nat) : Nat := 0x400E102C + n * 0x100
def F.MRKn_EXT_ALONG_ACT (n : Nat) : Fld := ⟨(R.MRKn_EXT_ALONG_ACT n), 0, 32⟩
def R.MRKn_FLIGHT_SH (n : Nat) : Nat := 0x400E1030 + n * 0x100
def F.MRKn_FLIGHT_SH (n : Nat) : Fld := ⟨(R.MRKn_FLIGHT_SH n), 0, 24⟩
def R.MRKn_FLIGHT_ACT (n : Nat) : Nat := 0x400E1034 + n * 0x100
def F.MRKn_FLIGHT_ACT (n : Nat) : Fld := ⟨(R.MRKn_FLIGHT_ACT n), 0, 24⟩
def R.MRKn_FIRE_SH (n : Nat) : Nat := 0x400E1038 + n * 0x100
def F.MRKn_FIRE_SH (n : Nat) : Fld := ⟨(R.MRKn_FIRE_SH n), 0, 32⟩
def F.MRKn_FIRE_SH_FIRE_DLY (n : Nat) : Fld := ⟨(R.MRKn_FIRE_SH n), 0, 16⟩
def F.MRKn_FIRE_SH_FIRE_W (n : Nat) : Fld := ⟨(R.MRKn_FIRE_SH n), 16, 16⟩
def R.MRKn_FIRE_ACT (n : Nat) : Nat := 0x400E103C + n * 0x100
def F.MRKn_FIRE_ACT (n : Nat) : Fld := ⟨(R.MRKn_FIRE_ACT n), 0, 32⟩
def F.MRKn_FIRE_ACT_FIRE_DLY (n : Nat) : Fld := ⟨(R.MRKn_FIRE_ACT n), 0, 16⟩
def F.MRKn_FIRE_ACT_FIRE_W (n : Nat) : Fld := ⟨(R.MRKn_FIRE_ACT n), 16, 16⟩
def R.MRKn_MIN_SPACING_SH (n : Nat) : Nat := 0x400E1040 + n * 0x100
def F.MRKn_MIN_SPACING_SH (n : Nat) : Fld := ⟨(R.MRKn_MIN_SPACING_SH n), 0, 24⟩
def R.MRKn_MIN_SPACING_ACT (n : Nat) : Nat := 0x400E1044 + n * 0x100
def F.MRKn_MIN_SPACING_ACT (n : Nat) : Fld := ⟨(R.MRKn_MIN_SPACING_ACT n), 0, 24⟩
def R.MRKn_TIMING (n : Nat) : Nat := 0x400E1048 + n * 0x100
def F.MRKn_TIMING (n : Nat) : Fld := ⟨(R.MRKn_TIMING n), 0, 32⟩
def F.MRKn_TIMING_LATE_LINES (n : Nat) : Fld := ⟨(R.MRKn_TIMING n), 0, 8⟩
def F.MRKn_TIMING_REAUTH (n : Nat) : Fld := ⟨(R.MRKn_TIMING n), 16, 16⟩
def R.MRKn_VBASE (n : Nat) : Nat := 0x400E104C + n * 0x100
def F.MRKn_VBASE (n : Nat) : Fld := ⟨(R.MRKn_VBASE n), 0, 64⟩
def R.MRKn_MPITCH (n : Nat) : Nat := 0x400E1054 + n * 0x100
def F.MRKn_MPITCH (n : Nat) : Fld := ⟨(R.MRKn_MPITCH n), 0, 32⟩
def R.MRKn_SKIP_CNT (n : Nat) : Nat := 0x400E1058 + n * 0x100
def F.MRKn_SKIP_CNT (n : Nat) : Fld := ⟨(R.MRKn_SKIP_CNT n), 0, 32⟩
def R.MRKn_LATE_CNT (n : Nat) : Nat := 0x400E105C + n * 0x100
def F.MRKn_LATE_CNT (n : Nat) : Fld := ⟨(R.MRKn_LATE_CNT n), 0, 32⟩
def R.MRKn_REC_LATE_CNT (n : Nat) : Nat := 0x400E1060 + n * 0x100
def F.MRKn_REC_LATE_CNT (n : Nat) : Fld := ⟨(R.MRKn_REC_LATE_CNT n), 0, 32⟩
def R.MRKn_MISS_CNT (n : Nat) : Nat := 0x400E1064 + n * 0x100
def F.MRKn_MISS_CNT (n : Nat) : Fld := ⟨(R.MRKn_MISS_CNT n), 0, 32⟩
def R.MRKn_DISCARD_CNT (n : Nat) : Nat := 0x400E1068 + n * 0x100
def F.MRKn_DISCARD_CNT (n : Nat) : Fld := ⟨(R.MRKn_DISCARD_CNT n), 0, 32⟩
def R.MRKn_REFUSED_CNT (n : Nat) : Nat := 0x400E106C + n * 0x100
def F.MRKn_REFUSED_CNT (n : Nat) : Fld := ⟨(R.MRKn_REFUSED_CNT n), 0, 32⟩
def R.MRKn_FIRE_CNT (n : Nat) : Nat := 0x400E1070 + n * 0x100
def F.MRKn_FIRE_CNT (n : Nat) : Fld := ⟨(R.MRKn_FIRE_CNT n), 0, 32⟩
def R.MRKn_CART_ID (n : Nat) : Nat := 0x400E1078 + n * 0x100
def F.MRKn_CART_ID (n : Nat) : Fld := ⟨(R.MRKn_CART_ID n), 0, 64⟩
def R.MRKn_CART_COUNT (n : Nat) : Nat := 0x400E1080 + n * 0x100
def F.MRKn_CART_COUNT (n : Nat) : Fld := ⟨(R.MRKn_CART_COUNT n), 0, 32⟩
def R.MRKn_DROP_ACC (n : Nat) : Nat := 0x400E1084 + n * 0x100
def F.MRKn_DROP_ACC (n : Nat) : Fld := ⟨(R.MRKn_DROP_ACC n), 0, 11⟩
def R.MRKn_DEC_CNT (n : Nat) : Nat := 0x400E1088 + n * 0x100
def F.MRKn_DEC_CNT (n : Nat) : Fld := ⟨(R.MRKn_DEC_CNT n), 0, 32⟩
def R.CDC_En_CTRL (e : Nat) : Nat := 0x40111000 + e * 0x40
def F.CDC_En_CTRL_EN (e : Nat) : Fld := ⟨(R.CDC_En_CTRL e), 0, 1⟩
def F.CDC_En_CTRL_ABORT (e : Nat) : Fld := ⟨(R.CDC_En_CTRL e), 1, 1⟩
def F.CDC_En_CTRL_START (e : Nat) : Fld := ⟨(R.CDC_En_CTRL e), 2, 1⟩
def F.CDC_En_CTRL_FLUSH (e : Nat) : Fld := ⟨(R.CDC_En_CTRL e), 3, 1⟩
def F.CDC_En_CTRL_SUB_EN (e : Nat) : Fld := ⟨(R.CDC_En_CTRL e), 4, 1⟩
def F.CDC_En_CTRL_PUB (e : Nat) : Fld := ⟨(R.CDC_En_CTRL e), 5, 1⟩
def F.CDC_En_CTRL_SUB_EVC (e : Nat) : Fld := ⟨(R.CDC_En_CTRL e), 6, 8⟩
def F.CDC_En_CTRL_PUB_EVC (e : Nat) : Fld := ⟨(R.CDC_En_CTRL e), 14, 8⟩
def R.CDC_En_STAT (e : Nat) : Nat := 0x40111004 + e * 0x40
def F.CDC_En_STAT_IDLE (e : Nat) : Fld := ⟨(R.CDC_En_STAT e), 0, 1⟩
def F.CDC_En_STAT_BUSY (e : Nat) : Fld := ⟨(R.CDC_En_STAT e), 1, 1⟩
def F.CDC_En_STAT_EMPTY (e : Nat) : Fld := ⟨(R.CDC_En_STAT e), 2, 1⟩
def F.CDC_En_STAT_START_PEND (e : Nat) : Fld := ⟨(R.CDC_En_STAT e), 3, 1⟩
def F.CDC_En_STAT_DECODING (e : Nat) : Fld := ⟨(R.CDC_En_STAT e), 4, 1⟩
def F.CDC_En_STAT_LAST_CODE (e : Nat) : Fld := ⟨(R.CDC_En_STAT e), 8, 4⟩
def R.CDC_En_FLAG (e : Nat) : Nat := 0x40111008 + e * 0x40
def F.CDC_En_FLAG_DONE (e : Nat) : Fld := ⟨(R.CDC_En_FLAG e), 0, 1⟩
def F.CDC_En_FLAG_ERR_SPACE (e : Nat) : Fld := ⟨(R.CDC_En_FLAG e), 1, 1⟩
def F.CDC_En_FLAG_ERR_NOT_SMALLER (e : Nat) : Fld := ⟨(R.CDC_En_FLAG e), 2, 1⟩
def F.CDC_En_FLAG_ERR_CHECK (e : Nat) : Fld := ⟨(R.CDC_En_FLAG e), 3, 1⟩
def F.CDC_En_FLAG_ERR_PARAM (e : Nat) : Fld := ⟨(R.CDC_En_FLAG e), 4, 1⟩
def F.CDC_En_FLAG_ERR_FORMAT (e : Nat) : Fld := ⟨(R.CDC_En_FLAG e), 5, 1⟩
def F.CDC_En_FLAG_POISON (e : Nat) : Fld := ⟨(R.CDC_En_FLAG e), 6, 1⟩
def F.CDC_En_FLAG_ABORTED (e : Nat) : Fld := ⟨(R.CDC_En_FLAG e), 7, 1⟩
def R.CDC_En_DESC (e : Nat) : Nat := 0x4011100C + e * 0x40
def F.CDC_En_DESC (e : Nat) : Fld := ⟨(R.CDC_En_DESC e), 0, 64⟩
def R.CDC_En_JOB_CNT (e : Nat) : Nat := 0x40111014 + e * 0x40
def F.CDC_En_JOB_CNT (e : Nat) : Fld := ⟨(R.CDC_En_JOB_CNT e), 0, 32⟩
def R.CDC_En_ERR_CNT (e : Nat) : Nat := 0x40111018 + e * 0x40
def F.CDC_En_ERR_CNT (e : Nat) : Fld := ⟨(R.CDC_En_ERR_CNT e), 0, 32⟩
def R.CDC_En_PIX_CNT (e : Nat) : Nat := 0x4011101C + e * 0x40
def F.CDC_En_PIX_CNT (e : Nat) : Fld := ⟨(R.CDC_En_PIX_CNT e), 0, 32⟩
def R.CDC_En_BYTE_CNT (e : Nat) : Nat := 0x40111020 + e * 0x40
def F.CDC_En_BYTE_CNT (e : Nat) : Fld := ⟨(R.CDC_En_BYTE_CNT e), 0, 32⟩
def R.CDC_TAPt_CFG (t : Nat) : Nat := 0x40112000 + t * 0x40
def F.CDC_TAPt_CFG_EN (t : Nat) : Fld := ⟨(R.CDC_TAPt_CFG t), 0, 1⟩
def F.CDC_TAPt_CFG_ABORT (t : Nat) : Fld := ⟨(R.CDC_TAPt_CFG t), 1, 1⟩
def F.CDC_TAPt_CFG_DA (t : Nat) : Fld := ⟨(R.CDC_TAPt_CFG t), 2, 2⟩
def F.CDC_TAPt_CFG_DC (t : Nat) : Fld := ⟨(R.CDC_TAPt_CFG t), 4, 2⟩
def F.CDC_TAPt_CFG_PUB (t : Nat) : Fld := ⟨(R.CDC_TAPt_CFG t), 6, 1⟩
def F.CDC_TAPt_CFG_EVC (t : Nat) : Fld := ⟨(R.CDC_TAPt_CFG t), 7, 8⟩
def R.CDC_TAPt_XS (t : Nat) : Nat := 0x40112004 + t * 0x40
def F.CDC_TAPt_XS (t : Nat) : Fld := ⟨(R.CDC_TAPt_XS t), 0, 18⟩
def R.CDC_TAPt_XE (t : Nat) : Nat := 0x40112008 + t * 0x40
def F.CDC_TAPt_XE (t : Nat) : Fld := ⟨(R.CDC_TAPt_XE t), 0, 18⟩
def R.CDC_TAPt_BASE (t : Nat) : Nat := 0x4011200C + t * 0x40
def F.CDC_TAPt_BASE (t : Nat) : Fld := ⟨(R.CDC_TAPt_BASE t), 0, 64⟩
def R.CDC_TAPt_RING (t : Nat) : Nat := 0x40112014 + t * 0x40
def F.CDC_TAPt_RING (t : Nat) : Fld := ⟨(R.CDC_TAPt_RING t), 0, 32⟩
def F.CDC_TAPt_RING_RING_ROWS (t : Nat) : Fld := ⟨(R.CDC_TAPt_RING t), 0, 16⟩
def F.CDC_TAPt_RING_TAP_BLK (t : Nat) : Fld := ⟨(R.CDC_TAPt_RING t), 16, 16⟩
def R.CDC_TAPt_TAP_ROW (t : Nat) : Nat := 0x40112018 + t * 0x40
def F.CDC_TAPt_TAP_ROW (t : Nat) : Fld := ⟨(R.CDC_TAPt_TAP_ROW t), 0, 64⟩
def R.CDC_TAPt_STAT (t : Nat) : Nat := 0x40112020 + t * 0x40
def F.CDC_TAPt_STAT (t : Nat) : Fld := ⟨(R.CDC_TAPt_STAT t), 0, 1⟩
def F.CDC_TAPt_STAT_IDLE (t : Nat) : Fld := ⟨(R.CDC_TAPt_STAT t), 0, 1⟩
def R.CDC_TAPt_FLAG (t : Nat) : Nat := 0x40112024 + t * 0x40
def F.CDC_TAPt_FLAG (t : Nat) : Fld := ⟨(R.CDC_TAPt_FLAG t), 0, 1⟩
def F.CDC_TAPt_FLAG_LOST (t : Nat) : Fld := ⟨(R.CDC_TAPt_FLAG t), 0, 1⟩
def R.CDC_TAPt_LOST_CNT (t : Nat) : Nat := 0x40112028 + t * 0x40
def F.CDC_TAPt_LOST_CNT (t : Nat) : Fld := ⟨(R.CDC_TAPt_LOST_CNT t), 0, 32⟩
def R.NET_POS : Nat := 0x40100010
def F.NET_POS : Fld := ⟨R.NET_POS, 0, 32⟩
def F.NET_POS_FLOW : Fld := ⟨R.NET_POS, 0, 5⟩
def F.NET_POS_RX_EN : Fld := ⟨R.NET_POS, 8, 1⟩
def F.NET_POS_SRC_UNIT : Fld := ⟨R.NET_POS, 16, 14⟩
def R.NET_RX_UDP : Nat := 0x40100014
def F.NET_RX_UDP : Fld := ⟨R.NET_RX_UDP, 0, 16⟩
def R.NET_POS_RX_CNT : Nat := 0x40100018
def F.NET_POS_RX_CNT : Fld := ⟨R.NET_POS_RX_CNT, 0, 32⟩
def R.NETn_CFG (n : Nat) : Nat := 0x40101000 + n * 0x80
def F.NETn_CFG_EN (n : Nat) : Fld := ⟨(R.NETn_CFG n), 0, 1⟩
def F.NETn_CFG_ABORT (n : Nat) : Fld := ⟨(R.NETn_CFG n), 1, 1⟩
def F.NETn_CFG_FEC (n : Nat) : Fld := ⟨(R.NETn_CFG n), 2, 1⟩
def F.NETn_CFG_MTU (n : Nat) : Fld := ⟨(R.NETn_CFG n), 16, 14⟩
def R.NETn_STAT (n : Nat) : Nat := 0x40101004 + n * 0x80
def F.NETn_STAT_IDLE (n : Nat) : Fld := ⟨(R.NETn_STAT n), 0, 1⟩
def F.NETn_STAT_LINK (n : Nat) : Fld := ⟨(R.NETn_STAT n), 1, 1⟩
def F.NETn_STAT_BLOCK_LOCK (n : Nat) : Fld := ⟨(R.NETn_STAT n), 2, 1⟩
def F.NETn_STAT_FEC_ALIGN (n : Nat) : Fld := ⟨(R.NETn_STAT n), 3, 1⟩
def F.NETn_STAT_LOCAL_FAULT (n : Nat) : Fld := ⟨(R.NETn_STAT n), 4, 1⟩
def F.NETn_STAT_REMOTE_FAULT (n : Nat) : Fld := ⟨(R.NETn_STAT n), 5, 1⟩
def R.NETn_FLAG (n : Nat) : Nat := 0x40101008 + n * 0x80
def F.NETn_FLAG_LINK_DOWN (n : Nat) : Fld := ⟨(R.NETn_FLAG n), 0, 1⟩
def F.NETn_FLAG_LINK_UP (n : Nat) : Fld := ⟨(R.NETn_FLAG n), 1, 1⟩
def F.NETn_FLAG_FEC_UNCORR (n : Nat) : Fld := ⟨(R.NETn_FLAG n), 2, 1⟩
def F.NETn_FLAG_RX_DISCARD (n : Nat) : Fld := ⟨(R.NETn_FLAG n), 3, 1⟩
def R.NETn_MAC (n : Nat) : Nat := 0x4010100C + n * 0x80
def F.NETn_MAC (n : Nat) : Fld := ⟨(R.NETn_MAC n), 0, 64⟩
def R.NETn_IPV4 (n : Nat) : Nat := 0x40101014 + n * 0x80
def F.NETn_IPV4 (n : Nat) : Fld := ⟨(R.NETn_IPV4 n), 0, 32⟩
def R.NETn_IPV6k (n k : Nat) : Nat := 0x40101018 + n * 0x80 + k * 4
def F.NETn_IPV6k (n k : Nat) : Fld := ⟨(R.NETn_IPV6k n k), 0, 32⟩
def R.NETn_LAT_TX (n : Nat) : Nat := 0x40101028 + n * 0x80
def F.NETn_LAT_TX (n : Nat) : Fld := ⟨(R.NETn_LAT_TX n), 0, 16⟩
def R.NETn_LAT_RX (n : Nat) : Nat := 0x4010102C + n * 0x80
def F.NETn_LAT_RX (n : Nat) : Fld := ⟨(R.NETn_LAT_RX n), 0, 16⟩
def R.NETn_TX_FRAME_CNT (n : Nat) : Nat := 0x40101030 + n * 0x80
def F.NETn_TX_FRAME_CNT (n : Nat) : Fld := ⟨(R.NETn_TX_FRAME_CNT n), 0, 32⟩
def R.NETn_RX_FRAME_CNT (n : Nat) : Nat := 0x40101034 + n * 0x80
def F.NETn_RX_FRAME_CNT (n : Nat) : Fld := ⟨(R.NETn_RX_FRAME_CNT n), 0, 32⟩
def R.NETn_RX_DISCARD_CNT (n : Nat) : Nat := 0x40101038 + n * 0x80
def F.NETn_RX_DISCARD_CNT (n : Nat) : Fld := ⟨(R.NETn_RX_DISCARD_CNT n), 0, 32⟩
def R.NETn_PAUSE_CNT (n : Nat) : Nat := 0x4010103C + n * 0x80
def F.NETn_PAUSE_CNT (n : Nat) : Fld := ⟨(R.NETn_PAUSE_CNT n), 0, 32⟩
def R.NETn_FEC_CORR_CNT (n : Nat) : Nat := 0x40101040 + n * 0x80
def F.NETn_FEC_CORR_CNT (n : Nat) : Fld := ⟨(R.NETn_FEC_CORR_CNT n), 0, 32⟩
def R.NETn_FEC_UNCORR_CNT (n : Nat) : Nat := 0x40101044 + n * 0x80
def F.NETn_FEC_UNCORR_CNT (n : Nat) : Fld := ⟨(R.NETn_FEC_UNCORR_CNT n), 0, 32⟩
def R.NETn_LINK_DOWN_CNT (n : Nat) : Nat := 0x40101048 + n * 0x80
def F.NETn_LINK_DOWN_CNT (n : Nat) : Fld := ⟨(R.NETn_LINK_DOWN_CNT n), 0, 32⟩
def R.NET_Ff_CFG (f : Nat) : Nat := 0x40102000 + f * 0x80
def F.NET_Ff_CFG_EN (f : Nat) : Fld := ⟨(R.NET_Ff_CFG f), 0, 1⟩
def F.NET_Ff_CFG_ABORT (f : Nat) : Fld := ⟨(R.NET_Ff_CFG f), 1, 1⟩
def F.NET_Ff_CFG_PORT (f : Nat) : Fld := ⟨(R.NET_Ff_CFG f), 2, 3⟩
def F.NET_Ff_CFG_TYPE (f : Nat) : Fld := ⟨(R.NET_Ff_CFG f), 5, 3⟩
def F.NET_Ff_CFG_PRIO (f : Nat) : Fld := ⟨(R.NET_Ff_CFG f), 8, 2⟩
def F.NET_Ff_CFG_LAUNCH (f : Nat) : Fld := ⟨(R.NET_Ff_CFG f), 10, 1⟩
def F.NET_Ff_CFG_IPV6 (f : Nat) : Fld := ⟨(R.NET_Ff_CFG f), 11, 1⟩
def F.NET_Ff_CFG_VLAN_EN (f : Nat) : Fld := ⟨(R.NET_Ff_CFG f), 12, 1⟩
def F.NET_Ff_CFG_DISC_DOWN (f : Nat) : Fld := ⟨(R.NET_Ff_CFG f), 13, 1⟩
def F.NET_Ff_CFG_QUEUE (f : Nat) : Fld := ⟨(R.NET_Ff_CFG f), 14, 6⟩
def R.NET_Ff_STAT (f : Nat) : Nat := 0x40102004 + f * 0x80
def F.NET_Ff_STAT_IDLE (f : Nat) : Fld := ⟨(R.NET_Ff_STAT f), 0, 1⟩
def F.NET_Ff_STAT_HELD (f : Nat) : Fld := ⟨(R.NET_Ff_STAT f), 1, 1⟩
def R.NET_Ff_FLAG (f : Nat) : Nat := 0x40102008 + f * 0x80
def F.NET_Ff_FLAG_LATE_DROP (f : Nat) : Fld := ⟨(R.NET_Ff_FLAG f), 0, 1⟩
def F.NET_Ff_FLAG_FAR_DROP (f : Nat) : Fld := ⟨(R.NET_Ff_FLAG f), 1, 1⟩
def F.NET_Ff_FLAG_FORMAT (f : Nat) : Fld := ⟨(R.NET_Ff_FLAG f), 2, 1⟩
def R.NET_Ff_DMAC (f : Nat) : Nat := 0x4010200C + f * 0x80
def F.NET_Ff_DMAC (f : Nat) : Fld := ⟨(R.NET_Ff_DMAC f), 0, 64⟩
def R.NET_Ff_TAG (f : Nat) : Nat := 0x40102014 + f * 0x80
def F.NET_Ff_TAG (f : Nat) : Fld := ⟨(R.NET_Ff_TAG f), 0, 32⟩
def F.NET_Ff_TAG_VID (f : Nat) : Fld := ⟨(R.NET_Ff_TAG f), 0, 12⟩
def F.NET_Ff_TAG_PCP (f : Nat) : Fld := ⟨(R.NET_Ff_TAG f), 13, 3⟩
def F.NET_Ff_TAG_DSCP (f : Nat) : Fld := ⟨(R.NET_Ff_TAG f), 16, 6⟩
def F.NET_Ff_TAG_TTL (f : Nat) : Fld := ⟨(R.NET_Ff_TAG f), 24, 8⟩
def R.NET_Ff_DIPk (f k : Nat) : Nat := 0x40102018 + f * 0x80 + k * 4
def F.NET_Ff_DIPk (f k : Nat) : Fld := ⟨(R.NET_Ff_DIPk f k), 0, 32⟩
def R.NET_Ff_UDP (f : Nat) : Nat := 0x40102028 + f * 0x80
def F.NET_Ff_UDP (f : Nat) : Fld := ⟨(R.NET_Ff_UDP f), 0, 32⟩
def F.NET_Ff_UDP_SRC (f : Nat) : Fld := ⟨(R.NET_Ff_UDP f), 0, 16⟩
def F.NET_Ff_UDP_DST (f : Nat) : Fld := ⟨(R.NET_Ff_UDP f), 16, 16⟩
def R.NET_Ff_HOLD (f : Nat) : Nat := 0x4010202C + f * 0x80
def F.NET_Ff_HOLD (f : Nat) : Fld := ⟨(R.NET_Ff_HOLD f), 0, 16⟩
def R.NET_Ff_LATE_WIN (f : Nat) : Nat := 0x40102030 + f * 0x80
def F.NET_Ff_LATE_WIN (f : Nat) : Fld := ⟨(R.NET_Ff_LATE_WIN f), 0, 32⟩
def R.NET_Ff_LAUNCH_MAX (f : Nat) : Nat := 0x40102034 + f * 0x80
def F.NET_Ff_LAUNCH_MAX (f : Nat) : Fld := ⟨(R.NET_Ff_LAUNCH_MAX f), 0, 16⟩
def R.NET_Ff_SEQ (f : Nat) : Nat := 0x40102038 + f * 0x80
def F.NET_Ff_SEQ (f : Nat) : Fld := ⟨(R.NET_Ff_SEQ f), 0, 32⟩
def R.NET_Ff_DGRAM_CNT (f : Nat) : Nat := 0x4010203C + f * 0x80
def F.NET_Ff_DGRAM_CNT (f : Nat) : Fld := ⟨(R.NET_Ff_DGRAM_CNT f), 0, 32⟩
def R.NET_Ff_ITEM_CNT (f : Nat) : Nat := 0x40102040 + f * 0x80
def F.NET_Ff_ITEM_CNT (f : Nat) : Fld := ⟨(R.NET_Ff_ITEM_CNT f), 0, 32⟩
def R.NET_Ff_LATE_DROP_CNT (f : Nat) : Nat := 0x40102044 + f * 0x80
def F.NET_Ff_LATE_DROP_CNT (f : Nat) : Fld := ⟨(R.NET_Ff_LATE_DROP_CNT f), 0, 32⟩
def R.NET_Ff_FAR_DROP_CNT (f : Nat) : Nat := 0x40102048 + f * 0x80
def F.NET_Ff_FAR_DROP_CNT (f : Nat) : Fld := ⟨(R.NET_Ff_FAR_DROP_CNT f), 0, 32⟩
def R.NET_Ff_DISC_CNT (f : Nat) : Nat := 0x4010204C + f * 0x80
def F.NET_Ff_DISC_CNT (f : Nat) : Fld := ⟨(R.NET_Ff_DISC_CNT f), 0, 32⟩
def R.MER_CTRL : Nat := 0x400F0000
def F.MER_CTRL_SEL : Fld := ⟨R.MER_CTRL, 0, 2⟩
def F.MER_CTRL_AUTO : Fld := ⟨R.MER_CTRL, 2, 1⟩
def F.MER_CTRL_CHAIN_EN : Fld := ⟨R.MER_CTRL, 3, 1⟩
def R.MER_STAT : Nat := 0x400F0004
def F.MER_STAT_STEP_DONE : Fld := ⟨R.MER_STAT, 0, 1⟩
def F.MER_STAT_STEERING : Fld := ⟨R.MER_STAT, 1, 1⟩
def F.MER_STAT_SRC_ACT : Fld := ⟨R.MER_STAT, 2, 2⟩
def F.MER_STAT_CHAIN_STATE : Fld := ⟨R.MER_STAT, 4, 3⟩
def R.MER_FLAG : Nat := 0x400F0008
def F.MER_FLAG_TIME_STEP : Fld := ⟨R.MER_FLAG, 0, 1⟩
def F.MER_FLAG_SWITCH : Fld := ⟨R.MER_FLAG, 1, 1⟩
def F.MER_FLAG_ASYM_SUSPECT : Fld := ⟨R.MER_FLAG, 2, 1⟩
def F.MER_FLAG_OFFSET_BIG : Fld := ⟨R.MER_FLAG, 3, 1⟩
def R.MER_TIME : Nat := 0x400F0010
def F.MER_TIME : Fld := ⟨R.MER_TIME, 0, 64⟩
def R.MER_FREQ : Nat := 0x400F0018
def F.MER_FREQ : Fld := ⟨R.MER_FREQ, 0, 32⟩
def R.MER_SLEW : Nat := 0x400F001C
def F.MER_SLEW : Fld := ⟨R.MER_SLEW, 0, 32⟩
def R.MER_STEP : Nat := 0x400F0020
def F.MER_STEP : Fld := ⟨R.MER_STEP, 0, 64⟩
def R.MER_SERVO : Nat := 0x400F0028
def F.MER_SERVO : Fld := ⟨R.MER_SERVO, 0, 32⟩
def F.MER_SERVO_KP : Fld := ⟨R.MER_SERVO, 0, 4⟩
def F.MER_SERVO_KI : Fld := ⟨R.MER_SERVO, 8, 4⟩
def R.MER_ASYM : Nat := 0x400F002C
def F.MER_ASYM : Fld := ⟨R.MER_ASYM, 0, 32⟩
def F.MER_ASYM_THR : Fld := ⟨R.MER_ASYM, 0, 16⟩
def F.MER_ASYM_DWELL : Fld := ⟨R.MER_ASYM, 16, 8⟩
def R.MER_DISAGREE : Nat := 0x400F0030
def F.MER_DISAGREE : Fld := ⟨R.MER_DISAGREE, 0, 32⟩
def R.MER_SWITCH_CNT : Nat := 0x400F0034
def F.MER_SWITCH_CNT : Fld := ⟨R.MER_SWITCH_CNT, 0, 32⟩
def R.MER_Dd_CFG (d : Nat) : Nat := 0x400F0100 + d * 0x80
def F.MER_Dd_CFG_EN (d : Nat) : Fld := ⟨(R.MER_Dd_CFG d), 0, 1⟩
def F.MER_Dd_CFG_PORT (d : Nat) : Fld := ⟨(R.MER_Dd_CFG d), 1, 3⟩
def F.MER_Dd_CFG_TRANSPORT (d : Nat) : Fld := ⟨(R.MER_Dd_CFG d), 4, 2⟩
def F.MER_Dd_CFG_DELAY (d : Nat) : Fld := ⟨(R.MER_Dd_CFG d), 6, 1⟩
def F.MER_Dd_CFG_VLAN_EN (d : Nat) : Fld := ⟨(R.MER_Dd_CFG d), 7, 1⟩
def F.MER_Dd_CFG_DOMAIN (d : Nat) : Fld := ⟨(R.MER_Dd_CFG d), 8, 8⟩
def F.MER_Dd_CFG_VID (d : Nat) : Fld := ⟨(R.MER_Dd_CFG d), 16, 12⟩
def R.MER_Dd_STAT (d : Nat) : Nat := 0x400F0104 + d * 0x80
def F.MER_Dd_STAT_STATE (d : Nat) : Fld := ⟨(R.MER_Dd_STAT d), 0, 3⟩
def F.MER_Dd_STAT_LOG_SYNC (d : Nat) : Fld := ⟨(R.MER_Dd_STAT d), 8, 8⟩
def F.MER_Dd_STAT_ACCEPTED (d : Nat) : Fld := ⟨(R.MER_Dd_STAT d), 16, 4⟩
def R.MER_Dd_FLAG (d : Nat) : Nat := 0x400F0108 + d * 0x80
def F.MER_Dd_FLAG_PATH_CHANGE (d : Nat) : Fld := ⟨(R.MER_Dd_FLAG d), 0, 1⟩
def F.MER_Dd_FLAG_HOLDOVER (d : Nat) : Fld := ⟨(R.MER_Dd_FLAG d), 1, 1⟩
def F.MER_Dd_FLAG_MASTER_CHANGE (d : Nat) : Fld := ⟨(R.MER_Dd_FLAG d), 2, 1⟩
def F.MER_Dd_FLAG_LOCK (d : Nat) : Fld := ⟨(R.MER_Dd_FLAG d), 3, 1⟩
def R.MER_Dd_OFFSET (d : Nat) : Nat := 0x400F010C + d * 0x80
def F.MER_Dd_OFFSET (d : Nat) : Fld := ⟨(R.MER_Dd_OFFSET d), 0, 64⟩
def R.MER_Dd_DELAY (d : Nat) : Nat := 0x400F0114 + d * 0x80
def F.MER_Dd_DELAY (d : Nat) : Fld := ⟨(R.MER_Dd_DELAY d), 0, 32⟩
def R.MER_Dd_GUARD (d : Nat) : Nat := 0x400F0118 + d * 0x80
def F.MER_Dd_GUARD (d : Nat) : Fld := ⟨(R.MER_Dd_GUARD d), 0, 16⟩
def R.MER_Dd_PATH (d : Nat) : Nat := 0x400F011C + d * 0x80
def F.MER_Dd_PATH (d : Nat) : Fld := ⟨(R.MER_Dd_PATH d), 0, 32⟩
def F.MER_Dd_PATH_PATH_N (d : Nat) : Fld := ⟨(R.MER_Dd_PATH d), 0, 8⟩
def F.MER_Dd_PATH_PATH_HOLD (d : Nat) : Fld := ⟨(R.MER_Dd_PATH d), 16, 8⟩
def R.MER_Dd_SYNC_TIMEOUT (d : Nat) : Nat := 0x400F0120 + d * 0x80
def F.MER_Dd_SYNC_TIMEOUT (d : Nat) : Fld := ⟨(R.MER_Dd_SYNC_TIMEOUT d), 0, 8⟩
def R.MER_Dd_MASTER_ID (d : Nat) : Nat := 0x400F0124 + d * 0x80
def F.MER_Dd_MASTER_ID (d : Nat) : Fld := ⟨(R.MER_Dd_MASTER_ID d), 0, 64⟩
def R.MER_Dd_MASTER_PORT (d : Nat) : Nat := 0x400F012C + d * 0x80
def F.MER_Dd_MASTER_PORT (d : Nat) : Fld := ⟨(R.MER_Dd_MASTER_PORT d), 0, 16⟩
def R.MER_Dd_SYNC_CNT (d : Nat) : Nat := 0x400F0130 + d * 0x80
def F.MER_Dd_SYNC_CNT (d : Nat) : Fld := ⟨(R.MER_Dd_SYNC_CNT d), 0, 32⟩
def R.MER_Dd_OUTLIER_CNT (d : Nat) : Nat := 0x400F0134 + d * 0x80
def F.MER_Dd_OUTLIER_CNT (d : Nat) : Fld := ⟨(R.MER_Dd_OUTLIER_CNT d), 0, 32⟩
def R.MER_Dd_PATH_CHANGE_CNT (d : Nat) : Nat := 0x400F0138 + d * 0x80
def F.MER_Dd_PATH_CHANGE_CNT (d : Nat) : Fld := ⟨(R.MER_Dd_PATH_CHANGE_CNT d), 0, 32⟩
def R.DRC_CFG : Nat := 0x400A0000
def F.DRC_CFG_CHAN_EN : Fld := ⟨R.DRC_CFG, 0, 8⟩
def F.DRC_CFG_DENSITY : Fld := ⟨R.DRC_CFG, 8, 3⟩
def R.DRC_FREQ : Nat := 0x400A0004
def F.DRC_FREQ_TARGET : Fld := ⟨R.DRC_FREQ, 0, 2⟩
def F.DRC_FREQ_GO : Fld := ⟨R.DRC_FREQ, 2, 1⟩
def F.DRC_FREQ_TRAINED : Fld := ⟨R.DRC_FREQ, 8, 4⟩
def R.DRC_STAT : Nat := 0x400A0008
def F.DRC_STAT_FC_BUSY : Fld := ⟨R.DRC_STAT, 0, 1⟩
def F.DRC_STAT_FC_PEND : Fld := ⟨R.DRC_STAT, 1, 1⟩
def F.DRC_STAT_SPEED_ACT : Fld := ⟨R.DRC_STAT, 2, 2⟩
def F.DRC_STAT_SHADOW_PEND : Fld := ⟨R.DRC_STAT, 4, 1⟩
def R.DRC_FLAG : Nat := 0x400A000C
def F.DRC_FLAG_FREQ_DONE : Fld := ⟨R.DRC_FLAG, 0, 1⟩
def F.DRC_FLAG_FREQ_ERR : Fld := ⟨R.DRC_FLAG, 1, 1⟩
def F.DRC_FLAG_CE : Fld := ⟨R.DRC_FLAG, 2, 1⟩
def F.DRC_FLAG_UE : Fld := ⟨R.DRC_FLAG, 3, 1⟩
def F.DRC_FLAG_ADDR_ERR : Fld := ⟨R.DRC_FLAG, 4, 1⟩
def F.DRC_FLAG_RFM_DEV : Fld := ⟨R.DRC_FLAG, 5, 1⟩
def R.DRC_RFM : Nat := 0x400A0010
def F.DRC_RFM : Fld := ⟨R.DRC_RFM, 0, 5⟩
def R.DRC_RFM_CNT : Nat := 0x400A0014
def F.DRC_RFM_CNT : Fld := ⟨R.DRC_RFM_CNT, 0, 32⟩
def R.DRC_RFM_DEV_CNT : Nat := 0x400A0018
def F.DRC_RFM_DEV_CNT : Fld := ⟨R.DRC_RFM_DEV_CNT, 0, 32⟩
def R.DRC_CE_CNT : Nat := 0x400A001C
def F.DRC_CE_CNT : Fld := ⟨R.DRC_CE_CNT, 0, 32⟩
def R.DRC_UE_CNT : Nat := 0x400A0020
def F.DRC_UE_CNT : Fld := ⟨R.DRC_UE_CNT, 0, 32⟩
def R.DRC_ADDR_ERR_CNT : Nat := 0x400A0024
def F.DRC_ADDR_ERR_CNT : Fld := ⟨R.DRC_ADDR_ERR_CNT, 0, 32⟩
def R.DRC_FREQ_CNT : Nat := 0x400A0028
def F.DRC_FREQ_CNT : Fld := ⟨R.DRC_FREQ_CNT, 0, 32⟩
def R.DRC_RQr_QOS (r : Nat) : Nat := 0x400A0100 + r * 4
def F.DRC_RQr_QOS_TARGET (r : Nat) : Fld := ⟨(R.DRC_RQr_QOS r), 0, 20⟩
def F.DRC_RQr_QOS_URG (r : Nat) : Fld := ⟨(R.DRC_RQr_QOS r), 20, 3⟩
def R.QUE_Qq_CFG (q : Nat) : Nat := 0x40091000 + q * 0x40
def F.QUE_Qq_CFG_EN (q : Nat) : Fld := ⟨(R.QUE_Qq_CFG q), 0, 1⟩
def F.QUE_Qq_CFG_ABORT (q : Nat) : Fld := ⟨(R.QUE_Qq_CFG q), 1, 1⟩
def F.QUE_Qq_CFG_FLUSH (q : Nat) : Fld := ⟨(R.QUE_Qq_CFG q), 2, 1⟩
def F.QUE_Qq_CFG_CUT (q : Nat) : Fld := ⟨(R.QUE_Qq_CFG q), 3, 1⟩
def F.QUE_Qq_CFG_PUB_HI (q : Nat) : Fld := ⟨(R.QUE_Qq_CFG q), 4, 1⟩
def F.QUE_Qq_CFG_PUB_LO (q : Nat) : Fld := ⟨(R.QUE_Qq_CFG q), 5, 1⟩
def F.QUE_Qq_CFG_PIN_EN (q : Nat) : Fld := ⟨(R.QUE_Qq_CFG q), 6, 1⟩
def F.QUE_Qq_CFG_POL (q : Nat) : Fld := ⟨(R.QUE_Qq_CFG q), 7, 1⟩
def F.QUE_Qq_CFG_HI_EVC (q : Nat) : Fld := ⟨(R.QUE_Qq_CFG q), 8, 8⟩
def F.QUE_Qq_CFG_LO_EVC (q : Nat) : Fld := ⟨(R.QUE_Qq_CFG q), 16, 8⟩
def F.QUE_Qq_CFG_UTP (q : Nat) : Fld := ⟨(R.QUE_Qq_CFG q), 24, 8⟩
def R.QUE_Qq_STAT (q : Nat) : Nat := 0x40091004 + q * 0x40
def F.QUE_Qq_STAT_IDLE (q : Nat) : Fld := ⟨(R.QUE_Qq_STAT q), 0, 1⟩
def F.QUE_Qq_STAT_ABOVE (q : Nat) : Fld := ⟨(R.QUE_Qq_STAT q), 1, 1⟩
def F.QUE_Qq_STAT_FULL (q : Nat) : Fld := ⟨(R.QUE_Qq_STAT q), 2, 1⟩
def F.QUE_Qq_STAT_WRITING (q : Nat) : Fld := ⟨(R.QUE_Qq_STAT q), 3, 1⟩
def F.QUE_Qq_STAT_FILL (q : Nat) : Fld := ⟨(R.QUE_Qq_STAT q), 10, 22⟩
def R.QUE_Qq_FLAG (q : Nat) : Nat := 0x40091008 + q * 0x40
def F.QUE_Qq_FLAG_PARITY (q : Nat) : Fld := ⟨(R.QUE_Qq_FLAG q), 0, 1⟩
def F.QUE_Qq_FLAG_FLUSHED (q : Nat) : Fld := ⟨(R.QUE_Qq_FLAG q), 1, 1⟩
def F.QUE_Qq_FLAG_REFUSED (q : Nat) : Fld := ⟨(R.QUE_Qq_FLAG q), 2, 1⟩
def R.QUE_Qq_BASE (q : Nat) : Nat := 0x4009100C + q * 0x40
def F.QUE_Qq_BASE (q : Nat) : Fld := ⟨(R.QUE_Qq_BASE q), 0, 12⟩
def R.QUE_Qq_SIZE (q : Nat) : Nat := 0x40091010 + q * 0x40
def F.QUE_Qq_SIZE (q : Nat) : Fld := ⟨(R.QUE_Qq_SIZE q), 0, 13⟩
def R.QUE_Qq_HI (q : Nat) : Nat := 0x40091014 + q * 0x40
def F.QUE_Qq_HI (q : Nat) : Fld := ⟨(R.QUE_Qq_HI q), 0, 22⟩
def R.QUE_Qq_LO (q : Nat) : Nat := 0x40091018 + q * 0x40
def F.QUE_Qq_LO (q : Nat) : Fld := ⟨(R.QUE_Qq_LO q), 0, 22⟩
def R.QUE_Qq_ITEM_CNT (q : Nat) : Nat := 0x4009101C + q * 0x40
def F.QUE_Qq_ITEM_CNT (q : Nat) : Fld := ⟨(R.QUE_Qq_ITEM_CNT q), 0, 32⟩
def R.QUE_Qq_REFUSED_CNT (q : Nat) : Nat := 0x40091020 + q * 0x40
def F.QUE_Qq_REFUSED_CNT (q : Nat) : Fld := ⟨(R.QUE_Qq_REFUSED_CNT q), 0, 32⟩
def R.QUE_Qq_FLUSH_CNT (q : Nat) : Nat := 0x40091024 + q * 0x40
def F.QUE_Qq_FLUSH_CNT (q : Nat) : Fld := ⟨(R.QUE_Qq_FLUSH_CNT q), 0, 32⟩
def R.QUE_Qq_PARITY_CNT (q : Nat) : Nat := 0x40091028 + q * 0x40
def F.QUE_Qq_PARITY_CNT (q : Nat) : Fld := ⟨(R.QUE_Qq_PARITY_CNT q), 0, 32⟩
def R.QUE_Qq_PUSH_HDR (q : Nat) : Nat := 0x40092000 + q * 0x20
def F.QUE_Qq_PUSH_HDR (q : Nat) : Fld := ⟨(R.QUE_Qq_PUSH_HDR q), 0, 32⟩
def R.QUE_Qq_PUSH_DATA (q : Nat) : Nat := 0x40092008 + q * 0x20
def F.QUE_Qq_PUSH_DATA (q : Nat) : Fld := ⟨(R.QUE_Qq_PUSH_DATA q), 0, 64⟩
def R.QUE_Qq_POP_HDR (q : Nat) : Nat := 0x40092010 + q * 0x20
def F.QUE_Qq_POP_HDR (q : Nat) : Fld := ⟨(R.QUE_Qq_POP_HDR q), 0, 64⟩
def R.QUE_Qq_POP_DATA (q : Nat) : Nat := 0x40092018 + q * 0x20
def F.QUE_Qq_POP_DATA (q : Nat) : Fld := ⟨(R.QUE_Qq_POP_DATA q), 0, 64⟩
def R.DMA_Cc_CFG (c : Nat) : Nat := 0x40081000 + c * 0x40
def F.DMA_Cc_CFG_EN (c : Nat) : Fld := ⟨(R.DMA_Cc_CFG c), 0, 1⟩
def F.DMA_Cc_CFG_START (c : Nat) : Fld := ⟨(R.DMA_Cc_CFG c), 1, 1⟩
def F.DMA_Cc_CFG_PACE_EN (c : Nat) : Fld := ⟨(R.DMA_Cc_CFG c), 2, 1⟩
def F.DMA_Cc_CFG_SUB_EN (c : Nat) : Fld := ⟨(R.DMA_Cc_CFG c), 3, 1⟩
def F.DMA_Cc_CFG_PUB (c : Nat) : Fld := ⟨(R.DMA_Cc_CFG c), 4, 1⟩
def F.DMA_Cc_CFG_PRIO (c : Nat) : Fld := ⟨(R.DMA_Cc_CFG c), 5, 2⟩
def F.DMA_Cc_CFG_PACE_Q (c : Nat) : Fld := ⟨(R.DMA_Cc_CFG c), 7, 6⟩
def F.DMA_Cc_CFG_SUB_EVC (c : Nat) : Fld := ⟨(R.DMA_Cc_CFG c), 13, 8⟩
def F.DMA_Cc_CFG_PUB_EVC (c : Nat) : Fld := ⟨(R.DMA_Cc_CFG c), 21, 8⟩
def R.DMA_Cc_STAT (c : Nat) : Nat := 0x40081004 + c * 0x40
def F.DMA_Cc_STAT_IDLE (c : Nat) : Fld := ⟨(R.DMA_Cc_STAT c), 0, 1⟩
def F.DMA_Cc_STAT_STATE (c : Nat) : Fld := ⟨(R.DMA_Cc_STAT c), 1, 3⟩
def F.DMA_Cc_STAT_START_PEND (c : Nat) : Fld := ⟨(R.DMA_Cc_STAT c), 4, 1⟩
def R.DMA_Cc_FLAG (c : Nat) : Nat := 0x40081008 + c * 0x40
def F.DMA_Cc_FLAG_DONE (c : Nat) : Fld := ⟨(R.DMA_Cc_FLAG c), 0, 1⟩
def F.DMA_Cc_FLAG_ERR (c : Nat) : Fld := ⟨(R.DMA_Cc_FLAG c), 1, 1⟩
def F.DMA_Cc_FLAG_POISON (c : Nat) : Fld := ⟨(R.DMA_Cc_FLAG c), 2, 1⟩
def F.DMA_Cc_FLAG_EMPTY (c : Nat) : Fld := ⟨(R.DMA_Cc_FLAG c), 3, 1⟩
def F.DMA_Cc_FLAG_TRUNC (c : Nat) : Fld := ⟨(R.DMA_Cc_FLAG c), 4, 1⟩
def R.DMA_Cc_DESC (c : Nat) : Nat := 0x4008100C + c * 0x40
def F.DMA_Cc_DESC (c : Nat) : Fld := ⟨(R.DMA_Cc_DESC c), 0, 64⟩
def R.DMA_Cc_POLL (c : Nat) : Nat := 0x40081014 + c * 0x40
def F.DMA_Cc_POLL (c : Nat) : Fld := ⟨(R.DMA_Cc_POLL c), 0, 16⟩
def R.DMA_Cc_BYTE_CNT (c : Nat) : Nat := 0x40081018 + c * 0x40
def F.DMA_Cc_BYTE_CNT (c : Nat) : Fld := ⟨(R.DMA_Cc_BYTE_CNT c), 0, 32⟩
def R.DMA_Cc_DESC_CNT (c : Nat) : Nat := 0x4008101C + c * 0x40
def F.DMA_Cc_DESC_CNT (c : Nat) : Fld := ⟨(R.DMA_Cc_DESC_CNT c), 0, 32⟩
def R.DMA_Cc_ERR_CNT (c : Nat) : Nat := 0x40081020 + c * 0x40
def F.DMA_Cc_ERR_CNT (c : Nat) : Fld := ⟨(R.DMA_Cc_ERR_CNT c), 0, 32⟩
def R.ICU_FLAG : Nat := 0x40060008
def F.ICU_FLAG_NO_TARGET : Fld := ⟨R.ICU_FLAG, 0, 1⟩
def F.ICU_FLAG_FALLBACK : Fld := ⟨R.ICU_FLAG, 1, 1⟩
def R.ICU_SWIj (j : Nat) : Nat := 0x40060100 + j * 4
def F.ICU_SWIj_REQ (j : Nat) : Fld := ⟨(R.ICU_SWIj j), 0, 1⟩
def F.ICU_SWIj_SUB_EN (j : Nat) : Fld := ⟨(R.ICU_SWIj j), 1, 1⟩
def F.ICU_SWIj_SUB_EVC (j : Nat) : Fld := ⟨(R.ICU_SWIj j), 2, 8⟩
def R.ICU_SWI_SET : Nat := 0x4006011C
def F.ICU_SWI_SET_SET : Fld := ⟨R.ICU_SWI_SET, 0, 7⟩
def R.ICU_HLMh_CTRL (h : Nat) : Nat := 0x40060200 + h * 0x20
def F.ICU_HLMh_CTRL_RUN (h : Nat) : Fld := ⟨(R.ICU_HLMh_CTRL h), 0, 1⟩
def F.ICU_HLMh_CTRL_RESET (h : Nat) : Fld := ⟨(R.ICU_HLMh_CTRL h), 1, 1⟩
def F.ICU_HLMh_CTRL_SPARE_EN (h : Nat) : Fld := ⟨(R.ICU_HLMh_CTRL h), 2, 1⟩
def F.ICU_HLMh_CTRL_SPARE_AS (h : Nat) : Fld := ⟨(R.ICU_HLMh_CTRL h), 3, 2⟩
def R.ICU_HLMh_STAT (h : Nat) : Nat := 0x40060204 + h * 0x20
def F.ICU_HLMh_STAT_RUNNING (h : Nat) : Fld := ⟨(R.ICU_HLMh_STAT h), 0, 1⟩
def F.ICU_HLMh_STAT_WFI (h : Nat) : Fld := ⟨(R.ICU_HLMh_STAT h), 1, 1⟩
def F.ICU_HLMh_STAT_POWERED (h : Nat) : Fld := ⟨(R.ICU_HLMh_STAT h), 2, 1⟩
def F.ICU_HLMh_STAT_SPARED (h : Nat) : Fld := ⟨(R.ICU_HLMh_STAT h), 3, 1⟩
def R.ICU_HLMh_FLAG (h : Nat) : Nat := 0x40060208 + h * 0x20
def F.ICU_HLMh_FLAG_WDOG (h : Nat) : Fld := ⟨(R.ICU_HLMh_FLAG h), 0, 1⟩
def F.ICU_HLMh_FLAG_TCM_UE (h : Nat) : Fld := ⟨(R.ICU_HLMh_FLAG h), 1, 1⟩
def F.ICU_HLMh_FLAG_TCM_CE (h : Nat) : Fld := ⟨(R.ICU_HLMh_FLAG h), 2, 1⟩
def F.ICU_HLMh_FLAG_BUS_ERR (h : Nat) : Fld := ⟨(R.ICU_HLMh_FLAG h), 3, 1⟩
def R.ICU_HLMh_WDOG (h : Nat) : Nat := 0x4006020C + h * 0x20
def F.ICU_HLMh_WDOG (h : Nat) : Fld := ⟨(R.ICU_HLMh_WDOG h), 0, 24⟩
def R.ICU_HLMh_BOOT (h : Nat) : Nat := 0x40060210 + h * 0x20
def F.ICU_HLMh_BOOT (h : Nat) : Fld := ⟨(R.ICU_HLMh_BOOT h), 0, 64⟩
def R.ICU_SRCi_CFG (i : Nat) : Nat := 0x40061000 + i * 0x10
def F.ICU_SRCi_CFG_EN (i : Nat) : Fld := ⟨(R.ICU_SRCi_CFG i), 0, 1⟩
def F.ICU_SRCi_CFG_PRIO (i : Nat) : Fld := ⟨(R.ICU_SRCi_CFG i), 1, 4⟩
def F.ICU_SRCi_CFG_TARGET (i : Nat) : Fld := ⟨(R.ICU_SRCi_CFG i), 5, 3⟩
def F.ICU_SRCi_CFG_FALLBACK (i : Nat) : Fld := ⟨(R.ICU_SRCi_CFG i), 8, 3⟩
def F.ICU_SRCi_CFG_PUB (i : Nat) : Fld := ⟨(R.ICU_SRCi_CFG i), 11, 1⟩
def F.ICU_SRCi_CFG_EVC (i : Nat) : Fld := ⟨(R.ICU_SRCi_CFG i), 12, 8⟩
def F.ICU_SRCi_CFG_MOD (i : Nat) : Fld := ⟨(R.ICU_SRCi_CFG i), 20, 12⟩
def R.ICU_SRCi_MASK (i : Nat) : Nat := 0x40061004 + i * 0x10
def F.ICU_SRCi_MASK (i : Nat) : Fld := ⟨(R.ICU_SRCi_MASK i), 0, 32⟩
def R.ICU_SRCi_STAT (i : Nat) : Nat := 0x40061008 + i * 0x10
def F.ICU_SRCi_STAT (i : Nat) : Fld := ⟨(R.ICU_SRCi_STAT i), 0, 32⟩
def F.ICU_SRCi_STAT_REQ (i : Nat) : Fld := ⟨(R.ICU_SRCi_STAT i), 0, 1⟩
def F.ICU_SRCi_STAT_OFFERED (i : Nat) : Fld := ⟨(R.ICU_SRCi_STAT i), 1, 1⟩
def F.ICU_SRCi_STAT_OFFER_TGT (i : Nat) : Fld := ⟨(R.ICU_SRCi_STAT i), 2, 3⟩
def F.ICU_SRCi_STAT_CNT (i : Nat) : Fld := ⟨(R.ICU_SRCi_STAT i), 8, 4⟩
def R.ICU_SRCi_ACC_CNT (i : Nat) : Nat := 0x4006100C + i * 0x10
def F.ICU_SRCi_ACC_CNT (i : Nat) : Fld := ⟨(R.ICU_SRCi_ACC_CNT i), 0, 32⟩
def R.EVT_FLAG : Nat := 0x40070008
def F.EVT_FLAG_STORM : Fld := ⟨R.EVT_FLAG, 0, 1⟩
def R.EVT_FIRE : Nat := 0x40070010
def F.EVT_FIRE : Fld := ⟨R.EVT_FIRE, 0, 8⟩
def R.EVT_DISC_CNT : Nat := 0x40070014
def F.EVT_DISC_CNT : Fld := ⟨R.EVT_DISC_CNT, 0, 32⟩
def R.EVT_WATCHw (w : Nat) : Nat := 0x40070100 + w * 4
def F.EVT_WATCHw (w : Nat) : Fld := ⟨(R.EVT_WATCHw w), 0, 32⟩
def R.EVT_STORMw (w : Nat) : Nat := 0x40070120 + w * 4
def F.EVT_STORMw (w : Nat) : Fld := ⟨(R.EVT_STORMw w), 0, 32⟩
def R.EVT_CHk_CFG (k : Nat) : Nat := 0x40071000 + k * 0x10
def F.EVT_CHk_CFG_EN (k : Nat) : Fld := ⟨(R.EVT_CHk_CFG k), 0, 1⟩
def F.EVT_CHk_CFG_PEND (k : Nat) : Fld := ⟨(R.EVT_CHk_CFG k), 1, 1⟩
def F.EVT_CHk_CFG_SPACING (k : Nat) : Fld := ⟨(R.EVT_CHk_CFG k), 8, 8⟩
def F.EVT_CHk_CFG_STORM_LIMIT (k : Nat) : Fld := ⟨(R.EVT_CHk_CFG k), 16, 16⟩
def R.EVT_CHk_COLLIDE_CNT (k : Nat) : Nat := 0x40071004 + k * 0x10
def F.EVT_CHk_COLLIDE_CNT (k : Nat) : Fld := ⟨(R.EVT_CHk_COLLIDE_CNT k), 0, 32⟩
def R.EVT_CHk_MERGE_CNT (k : Nat) : Nat := 0x40071008 + k * 0x10
def F.EVT_CHk_MERGE_CNT (k : Nat) : Fld := ⟨(R.EVT_CHk_MERGE_CNT k), 0, 32⟩
def R.EVT_CHk_LAST (k : Nat) : Nat := 0x4007100C + k * 0x10
def F.EVT_CHk_LAST (k : Nat) : Fld := ⟨(R.EVT_CHk_LAST k), 0, 8⟩
def R.SYS_ID : Nat := 0x40000000
def F.SYS_ID_PART : Fld := ⟨R.SYS_ID, 0, 16⟩
def F.SYS_ID_FAMILY : Fld := ⟨R.SYS_ID, 16, 16⟩
def R.SYS_REV : Nat := 0x40000004
def F.SYS_REV_DIGIT : Fld := ⟨R.SYS_REV, 0, 8⟩
def F.SYS_REV_LETTER : Fld := ⟨R.SYS_REV, 8, 8⟩
def R.SYS_FLAG : Nat := 0x40000008
def F.SYS_FLAG_ACCESS_ERR : Fld := ⟨R.SYS_FLAG, 0, 1⟩
def R.SYS_RST_CAUSE : Nat := 0x4000000C
def F.SYS_RST_CAUSE : Fld := ⟨R.SYS_RST_CAUSE, 0, 7⟩
def R.SYS_RST : Nat := 0x40000010
def F.SYS_RST : Fld := ⟨R.SYS_RST, 0, 32⟩
def R.SYS_WDOG : Nat := 0x40000014
def F.SYS_WDOG : Fld := ⟨R.SYS_WDOG, 0, 16⟩
def R.SYS_ERR_ADDR : Nat := 0x40000018
def F.SYS_ERR_ADDR : Fld := ⟨R.SYS_ERR_ADDR, 0, 32⟩
def R.SYS_STRAP : Nat := 0x4000001C
def F.SYS_STRAP : Fld := ⟨R.SYS_STRAP, 0, 8⟩
def R.SYS_ACCESS_CNT : Nat := 0x40000020
def F.SYS_ACCESS_CNT : Fld := ⟨R.SYS_ACCESS_CNT, 0, 32⟩
def R.CFG_CTRL : Nat := 0x40030000
def F.CFG_CTRL_AUTOSTART : Fld := ⟨R.CFG_CTRL, 0, 1⟩
def F.CFG_CTRL_RELOAD : Fld := ⟨R.CFG_CTRL, 1, 1⟩
def R.CFG_STAT : Nat := 0x40030004
def F.CFG_STAT_DEFAULTS : Fld := ⟨R.CFG_STAT, 0, 1⟩
def F.CFG_STAT_REJECT : Fld := ⟨R.CFG_STAT, 1, 1⟩
def F.CFG_STAT_OCTAL : Fld := ⟨R.CFG_STAT, 2, 1⟩
def F.CFG_STAT_BANK : Fld := ⟨R.CFG_STAT, 3, 1⟩
def F.CFG_STAT_NV_BUSY : Fld := ⟨R.CFG_STAT, 4, 1⟩
def F.CFG_STAT_UNCHECKED : Fld := ⟨R.CFG_STAT, 5, 1⟩
def R.CFG_FLAG : Nat := 0x40030008
def F.CFG_FLAG_CFG_DEFAULTS : Fld := ⟨R.CFG_FLAG, 0, 1⟩
def F.CFG_FLAG_CFG_REJECT : Fld := ⟨R.CFG_FLAG, 1, 1⟩
def F.CFG_FLAG_NV_SLOW : Fld := ⟨R.CFG_FLAG, 2, 1⟩
def F.CFG_FLAG_NV_DENY : Fld := ⟨R.CFG_FLAG, 3, 1⟩
def F.CFG_FLAG_NV_ERR : Fld := ⟨R.CFG_FLAG, 4, 1⟩
def R.CFG_FAIL : Nat := 0x4003000C
def F.CFG_FAIL : Fld := ⟨R.CFG_FAIL, 0, 32⟩
def F.CFG_FAIL_CODE : Fld := ⟨R.CFG_FAIL, 0, 8⟩
def F.CFG_FAIL_ENTRY : Fld := ⟨R.CFG_FAIL, 8, 5⟩
def F.CFG_FAIL_TYPE : Fld := ⟨R.CFG_FAIL, 16, 8⟩
def R.CFG_REJ : Nat := 0x40030010
def F.CFG_REJ : Fld := ⟨R.CFG_REJ, 0, 32⟩
def F.CFG_REJ_CODE : Fld := ⟨R.CFG_REJ, 0, 8⟩
def F.CFG_REJ_DETAIL : Fld := ⟨R.CFG_REJ, 16, 16⟩
def R.CFG_IMG_VER : Nat := 0x40030014
def F.CFG_IMG_VER : Fld := ⟨R.CFG_IMG_VER, 0, 32⟩
def R.CFG_LOAD_TIME : Nat := 0x40030018
def F.CFG_LOAD_TIME : Fld := ⟨R.CFG_LOAD_TIME, 0, 32⟩
def R.CFG_NV_ADDR : Nat := 0x40030020
def F.CFG_NV_ADDR : Fld := ⟨R.CFG_NV_ADDR, 0, 32⟩
def R.CFG_NV_CMD : Nat := 0x40030024
def F.CFG_NV_CMD : Fld := ⟨R.CFG_NV_CMD, 0, 2⟩
def R.CFG_NV_BUF (k : Nat) : Nat := 0x40030100 + k * 4
def F.CFG_NV_BUF (k : Nat) : Fld := ⟨(R.CFG_NV_BUF k), 0, 32⟩
def R.PWR_MODE : Nat := 0x40020000
def F.PWR_MODE_REQ : Fld := ⟨R.PWR_MODE, 0, 3⟩
def F.PWR_MODE_GO : Fld := ⟨R.PWR_MODE, 3, 1⟩
def F.PWR_MODE_CUR : Fld := ⟨R.PWR_MODE, 8, 3⟩
def F.PWR_MODE_BUSY : Fld := ⟨R.PWR_MODE, 11, 1⟩
def F.PWR_MODE_PEND : Fld := ⟨R.PWR_MODE, 12, 1⟩
def R.PWR_STAT : Nat := 0x40020004
def F.PWR_STAT_SEQ_DONE : Fld := ⟨R.PWR_STAT, 0, 1⟩
def F.PWR_STAT_WOKE : Fld := ⟨R.PWR_STAT, 1, 1⟩
def F.PWR_STAT_AVS_ACTIVE : Fld := ⟨R.PWR_STAT, 2, 1⟩
def F.PWR_STAT_RETRIES : Fld := ⟨R.PWR_STAT, 4, 2⟩
def R.PWR_FLAG : Nat := 0x40020008
def F.PWR_FLAG_PG_FAIL : Fld := ⟨R.PWR_FLAG, 0, 1⟩
def F.PWR_FLAG_PMB_ALERT : Fld := ⟨R.PWR_FLAG, 1, 1⟩
def F.PWR_FLAG_PMB_NACK : Fld := ⟨R.PWR_FLAG, 2, 1⟩
def F.PWR_FLAG_AVS_LIMIT : Fld := ⟨R.PWR_FLAG, 3, 1⟩
def F.PWR_FLAG_HOLD_ENTER : Fld := ⟨R.PWR_FLAG, 4, 1⟩
def F.PWR_FLAG_HOLD_EXIT : Fld := ⟨R.PWR_FLAG, 5, 1⟩
def F.PWR_FLAG_MODE_DONE : Fld := ⟨R.PWR_FLAG, 6, 1⟩
def R.PWR_CTRL : Nat := 0x4002000C
def F.PWR_CTRL_HOLD_EN : Fld := ⟨R.PWR_CTRL, 0, 1⟩
def F.PWR_CTRL_RETAIN : Fld := ⟨R.PWR_CTRL, 1, 1⟩
def F.PWR_CTRL_AVS_EN : Fld := ⟨R.PWR_CTRL, 2, 1⟩
def F.PWR_CTRL_WAKE : Fld := ⟨R.PWR_CTRL, 4, 4⟩
def F.PWR_CTRL_HOLD_DLY : Fld := ⟨R.PWR_CTRL, 16, 16⟩
def R.PWR_PD_STAT : Nat := 0x40020010
def F.PWR_PD_STAT : Fld := ⟨R.PWR_PD_STAT, 0, 64⟩
def R.PWR_PD_OFF : Nat := 0x40020018
def F.PWR_PD_OFF : Fld := ⟨R.PWR_PD_OFF, 0, 64⟩
def R.PWR_SEQ : Nat := 0x40020020
def F.PWR_SEQ : Fld := ⟨R.PWR_SEQ, 0, 32⟩
def F.PWR_SEQ_PG_TIMEOUT : Fld := ⟨R.PWR_SEQ, 0, 8⟩
def F.PWR_SEQ_STEP_DLY : Fld := ⟨R.PWR_SEQ, 8, 8⟩
def F.PWR_SEQ_RETRY : Fld := ⟨R.PWR_SEQ, 16, 4⟩
def R.PWR_PMB : Nat := 0x40020024
def F.PWR_PMB : Fld := ⟨R.PWR_PMB, 0, 32⟩
def F.PWR_PMB_PEC : Fld := ⟨R.PWR_PMB, 0, 1⟩
def F.PWR_PMB_FAST : Fld := ⟨R.PWR_PMB, 1, 1⟩
def R.PWR_AVS : Nat := 0x40020028
def F.PWR_AVS : Fld := ⟨R.PWR_AVS, 0, 32⟩
def F.PWR_AVS_AVS_RAIL : Fld := ⟨R.PWR_AVS, 0, 3⟩
def F.PWR_AVS_STEP : Fld := ⟨R.PWR_AVS, 16, 8⟩
def F.PWR_AVS_MARGIN : Fld := ⟨R.PWR_AVS, 24, 8⟩
def R.PWR_AVS_LIM : Nat := 0x4002002C
def F.PWR_AVS_LIM : Fld := ⟨R.PWR_AVS_LIM, 0, 32⟩
def F.PWR_AVS_LIM_VMIN : Fld := ⟨R.PWR_AVS_LIM, 0, 16⟩
def F.PWR_AVS_LIM_VMAX : Fld := ⟨R.PWR_AVS_LIM, 16, 16⟩
def R.PWR_AVS_VOUT : Nat := 0x40020030
def F.PWR_AVS_VOUT : Fld := ⟨R.PWR_AVS_VOUT, 0, 16⟩
def R.PWR_THERM : Nat := 0x40020034
def F.PWR_THERM : Fld := ⟨R.PWR_THERM, 0, 8⟩
def R.PWR_TJ : Nat := 0x40020038
def F.PWR_TJ : Fld := ⟨R.PWR_TJ, 0, 16⟩
def R.PWR_HOLD_CNT : Nat := 0x4002003C
def F.PWR_HOLD_CNT : Fld := ⟨R.PWR_HOLD_CNT, 0, 32⟩
def R.PWR_ALERT_CNT : Nat := 0x40020040
def F.PWR_ALERT_CNT : Fld := ⟨R.PWR_ALERT_CNT, 0, 32⟩
def R.PWR_RAILk (k : Nat) : Nat := 0x40020044 + k * 4
def F.PWR_RAILk (k : Nat) : Fld := ⟨(R.PWR_RAILk k), 0, 32⟩
def F.PWR_RAILk_ADDR (k : Nat) : Fld := ⟨(R.PWR_RAILk k), 0, 7⟩
def F.PWR_RAILk_PAGE (k : Nat) : Fld := ⟨(R.PWR_RAILk k), 8, 7⟩
def F.PWR_RAILk_EN (k : Nat) : Fld := ⟨(R.PWR_RAILk k), 15, 1⟩
def F.PWR_RAILk_STATUS_WORD (k : Nat) : Fld := ⟨(R.PWR_RAILk k), 16, 16⟩
def R.CHN_CFG : Nat := 0x40050000
def F.CHN_CFG_HEAD : Fld := ⟨R.CHN_CFG, 0, 1⟩
def F.CHN_CFG_SEG_SRC : Fld := ⟨R.CHN_CFG, 1, 1⟩
def F.CHN_CFG_SEG_PRES : Fld := ⟨R.CHN_CFG, 2, 1⟩
def F.CHN_CFG_RELAY_EN : Fld := ⟨R.CHN_CFG, 3, 1⟩
def F.CHN_CFG_TXQ : Fld := ⟨R.CHN_CFG, 4, 6⟩
def F.CHN_CFG_RXQ : Fld := ⟨R.CHN_CFG, 10, 6⟩
def R.CHN_STAT : Nat := 0x40050004
def F.CHN_STAT_UP_U : Fld := ⟨R.CHN_STAT, 0, 1⟩
def F.CHN_STAT_UP_D : Fld := ⟨R.CHN_STAT, 1, 1⟩
def F.CHN_STAT_RING : Fld := ⟨R.CHN_STAT, 2, 1⟩
def F.CHN_STAT_ADDR_VALID : Fld := ⟨R.CHN_STAT, 3, 1⟩
def F.CHN_STAT_BEACON_SIDE : Fld := ⟨R.CHN_STAT, 4, 1⟩
def F.CHN_STAT_UNITS : Fld := ⟨R.CHN_STAT, 8, 7⟩
def R.CHN_FLAG : Nat := 0x40050008
def F.CHN_FLAG_LINK_DOWN : Fld := ⟨R.CHN_FLAG, 0, 1⟩
def F.CHN_FLAG_ENUM_DONE : Fld := ⟨R.CHN_FLAG, 1, 1⟩
def F.CHN_FLAG_HEAD_CONFLICT : Fld := ⟨R.CHN_FLAG, 2, 1⟩
def F.CHN_FLAG_OVERFLOW : Fld := ⟨R.CHN_FLAG, 3, 1⟩
def F.CHN_FLAG_SEG_MISMATCH : Fld := ⟨R.CHN_FLAG, 4, 1⟩
def F.CHN_FLAG_EDGE_MISMATCH : Fld := ⟨R.CHN_FLAG, 5, 1⟩
def F.CHN_FLAG_HDR_ERR : Fld := ⟨R.CHN_FLAG, 6, 1⟩
def F.CHN_FLAG_CRC_ERR : Fld := ⟨R.CHN_FLAG, 7, 1⟩
def F.CHN_FLAG_NO_ADDR : Fld := ⟨R.CHN_FLAG, 8, 1⟩
def R.CHN_ADDR : Nat := 0x4005000C
def F.CHN_ADDR : Fld := ⟨R.CHN_ADDR, 0, 14⟩
def R.CHN_SEG : Nat := 0x40050010
def F.CHN_SEG : Fld := ⟨R.CHN_SEG, 0, 8⟩
def R.CHN_RING_N : Nat := 0x40050014
def F.CHN_RING_N : Fld := ⟨R.CHN_RING_N, 0, 7⟩
def R.CHN_UID : Nat := 0x40050018
def F.CHN_UID : Fld := ⟨R.CHN_UID, 0, 64⟩
def R.CHN_EDGE_U : Nat := 0x40050020
def F.CHN_EDGE_U : Fld := ⟨R.CHN_EDGE_U, 0, 32⟩
def R.CHN_EDGE_D : Nat := 0x40050024
def F.CHN_EDGE_D : Fld := ⟨R.CHN_EDGE_D, 0, 32⟩
def R.CHN_LINK_DOWN_CNT : Nat := 0x40050028
def F.CHN_LINK_DOWN_CNT : Fld := ⟨R.CHN_LINK_DOWN_CNT, 0, 32⟩
def R.CHN_HDR_ERR_CNT : Nat := 0x4005002C
def F.CHN_HDR_ERR_CNT : Fld := ⟨R.CHN_HDR_ERR_CNT, 0, 32⟩
def R.CHN_CRC_ERR_CNT : Nat := 0x40050030
def F.CHN_CRC_ERR_CNT : Fld := ⟨R.CHN_CRC_ERR_CNT, 0, 32⟩
def R.CHN_ENUM_CNT : Nat := 0x40050034
def F.CHN_ENUM_CNT : Fld := ⟨R.CHN_ENUM_CNT, 0, 32⟩
def R.CHN_FWD_CNT : Nat := 0x40050038
def F.CHN_FWD_CNT : Fld := ⟨R.CHN_FWD_CNT, 0, 32⟩
def R.SVC_CTRL : Nat := 0x40040000
def F.SVC_CTRL_EN : Fld := ⟨R.SVC_CTRL, 0, 1⟩
def R.SVC_STAT : Nat := 0x40040004
def F.SVC_STAT_IDLE : Fld := ⟨R.SVC_STAT, 0, 1⟩
def F.SVC_STAT_BUSY : Fld := ⟨R.SVC_STAT, 1, 1⟩
def F.SVC_STAT_PRESENCE : Fld := ⟨R.SVC_STAT, 2, 1⟩
def F.SVC_STAT_STAGED : Fld := ⟨R.SVC_STAT, 3, 1⟩
def F.SVC_STAT_CONFIRMED : Fld := ⟨R.SVC_STAT, 4, 1⟩
def F.SVC_STAT_RELOAD : Fld := ⟨R.SVC_STAT, 5, 1⟩
def F.SVC_STAT_ARMED : Fld := ⟨R.SVC_STAT, 6, 1⟩
def F.SVC_STAT_ACT_BANK : Fld := ⟨R.SVC_STAT, 7, 1⟩
def R.SVC_FLAG : Nat := 0x40040008
def F.SVC_FLAG_FRAME_ERR : Fld := ⟨R.SVC_FLAG, 0, 1⟩
def F.SVC_FLAG_CRC_ERR : Fld := ⟨R.SVC_FLAG, 1, 1⟩
def F.SVC_FLAG_PRES_LOST : Fld := ⟨R.SVC_FLAG, 2, 1⟩
def F.SVC_FLAG_REFUSED : Fld := ⟨R.SVC_FLAG, 3, 1⟩
def F.SVC_FLAG_STAGE_ERR : Fld := ⟨R.SVC_FLAG, 4, 1⟩
def F.SVC_FLAG_ACT_DONE : Fld := ⟨R.SVC_FLAG, 5, 1⟩
def F.SVC_FLAG_SETTINGS_LOST : Fld := ⟨R.SVC_FLAG, 6, 1⟩
def F.SVC_FLAG_NO_SPARE : Fld := ⟨R.SVC_FLAG, 7, 1⟩
def R.SVC_EPOCH : Nat := 0x4004000C
def F.SVC_EPOCH : Fld := ⟨R.SVC_EPOCH, 0, 16⟩
def F.SVC_EPOCH_OTP : Fld := ⟨R.SVC_EPOCH, 0, 8⟩
def F.SVC_EPOCH_FLOOR : Fld := ⟨R.SVC_EPOCH, 8, 8⟩
def R.SVC_FLOOR : Nat := 0x40040010
def F.SVC_FLOOR : Fld := ⟨R.SVC_FLOOR, 0, 32⟩
def R.SVC_SCHED : Nat := 0x40040014
def F.SVC_SCHED : Fld := ⟨R.SVC_SCHED, 0, 64⟩
def R.SVC_PAGES : Nat := 0x4004001C
def F.SVC_PAGES : Fld := ⟨R.SVC_PAGES, 0, 32⟩
def R.SVC_RELOAD_IDX : Nat := 0x40040020
def F.SVC_RELOAD_IDX : Fld := ⟨R.SVC_RELOAD_IDX, 0, 5⟩
def R.SVC_CMD_CNT : Nat := 0x40040024
def F.SVC_CMD_CNT : Fld := ⟨R.SVC_CMD_CNT, 0, 32⟩
def R.SVC_ERR_CNT : Nat := 0x40040028
def F.SVC_ERR_CNT : Fld := ⟨R.SVC_ERR_CNT, 0, 32⟩
def R.SVC_CRC_CNT : Nat := 0x4004002C
def F.SVC_CRC_CNT : Fld := ⟨R.SVC_CRC_CNT, 0, 32⟩
def R.SPR_CTRL : Nat := 0x40400000
def F.SPR_CTRL_SCRUB_S_EN : Fld := ⟨R.SPR_CTRL, 0, 1⟩
def F.SPR_CTRL_SCRUB_D_EN : Fld := ⟨R.SPR_CTRL, 1, 1⟩
def F.SPR_CTRL_TELE_EN : Fld := ⟨R.SPR_CTRL, 2, 1⟩
def F.SPR_CTRL_AUTO_DEGRADE : Fld := ⟨R.SPR_CTRL, 3, 1⟩
def F.SPR_CTRL_CST_EN : Fld := ⟨R.SPR_CTRL, 4, 1⟩
def F.SPR_CTRL_LOG_EN : Fld := ⟨R.SPR_CTRL, 5, 1⟩
def F.SPR_CTRL_RETIRE_N : Fld := ⟨R.SPR_CTRL, 8, 4⟩
def F.SPR_CTRL_CST_ENG : Fld := ⟨R.SPR_CTRL, 12, 2⟩
def R.SPR_STAT : Nat := 0x40400004
def F.SPR_STAT_LOG_BUSY : Fld := ⟨R.SPR_STAT, 0, 1⟩
def F.SPR_STAT_LOG_SMALL : Fld := ⟨R.SPR_STAT, 1, 1⟩
def F.SPR_STAT_DEGRADED : Fld := ⟨R.SPR_STAT, 2, 1⟩
def F.SPR_STAT_PIPE_BUSY : Fld := ⟨R.SPR_STAT, 3, 1⟩
def R.SPR_FLAG0 : Nat := 0x40400008
def F.SPR_FLAG0 : Fld := ⟨R.SPR_FLAG0, 0, 4⟩
def F.SPR_FLAG0_SRAM_CE : Fld := ⟨R.SPR_FLAG0, 0, 1⟩
def F.SPR_FLAG0_SRAM_UE : Fld := ⟨R.SPR_FLAG0, 1, 1⟩
def F.SPR_FLAG0_RETIRE : Fld := ⟨R.SPR_FLAG0, 2, 1⟩
def F.SPR_FLAG0_REPAIR_FULL : Fld := ⟨R.SPR_FLAG0, 3, 1⟩
def R.SPR_FLAG1 : Nat := 0x4040000C
def F.SPR_FLAG1 : Fld := ⟨R.SPR_FLAG1, 0, 2⟩
def F.SPR_FLAG1_CHAN_FAIL : Fld := ⟨R.SPR_FLAG1, 0, 1⟩
def F.SPR_FLAG1_SCRUB_LATE : Fld := ⟨R.SPR_FLAG1, 1, 1⟩
def R.SPR_FLAG2 : Nat := 0x40400010
def F.SPR_FLAG2 : Fld := ⟨R.SPR_FLAG2, 0, 3⟩
def F.SPR_FLAG2_TELE_DROP : Fld := ⟨R.SPR_FLAG2, 0, 1⟩
def F.SPR_FLAG2_LOG_ERR : Fld := ⟨R.SPR_FLAG2, 1, 1⟩
def F.SPR_FLAG2_AGE_LOW : Fld := ⟨R.SPR_FLAG2, 2, 1⟩
def R.SPR_FLAG3 : Nat := 0x40400014
def F.SPR_FLAG3 : Fld := ⟨R.SPR_FLAG3, 0, 3⟩
def F.SPR_FLAG3_CST_FAIL : Fld := ⟨R.SPR_FLAG3, 0, 1⟩
def F.SPR_FLAG3_PIPE_DONE : Fld := ⟨R.SPR_FLAG3, 1, 1⟩
def F.SPR_FLAG3_PIPE_FAIL : Fld := ⟨R.SPR_FLAG3, 2, 1⟩
def R.SPR_SCRUB : Nat := 0x40400020
def F.SPR_SCRUB : Fld := ⟨R.SPR_SCRUB, 0, 32⟩
def F.SPR_SCRUB_SPERIOD : Fld := ⟨R.SPR_SCRUB, 0, 16⟩
def F.SPR_SCRUB_DPERIOD : Fld := ⟨R.SPR_SCRUB, 16, 16⟩
def R.SPR_TELE : Nat := 0x40400024
def F.SPR_TELE : Fld := ⟨R.SPR_TELE, 0, 6⟩
def R.SPR_CHAN_UE_LIMIT : Nat := 0x40400028
def F.SPR_CHAN_UE_LIMIT : Fld := ⟨R.SPR_CHAN_UE_LIMIT, 0, 16⟩
def R.SPR_BANK_SEL : Nat := 0x4040002C
def F.SPR_BANK_SEL : Fld := ⟨R.SPR_BANK_SEL, 0, 8⟩
def R.SPR_BANK_CE : Nat := 0x40400030
def F.SPR_BANK_CE : Fld := ⟨R.SPR_BANK_CE, 0, 32⟩
def R.SPR_BANK_UE : Nat := 0x40400034
def F.SPR_BANK_UE : Fld := ⟨R.SPR_BANK_UE, 0, 32⟩
def R.SPR_BANK_LAST : Nat := 0x40400038
def F.SPR_BANK_LAST : Fld := ⟨R.SPR_BANK_LAST, 0, 32⟩
def R.SPR_SRAM_CE_CNT : Nat := 0x4040003C
def F.SPR_SRAM_CE_CNT : Fld := ⟨R.SPR_SRAM_CE_CNT, 0, 32⟩
def R.SPR_SRAM_UE_CNT : Nat := 0x40400040
def F.SPR_SRAM_UE_CNT : Fld := ⟨R.SPR_SRAM_UE_CNT, 0, 32⟩
def R.SPR_SPASS_CNT : Nat := 0x40400044
def F.SPR_SPASS_CNT : Fld := ⟨R.SPR_SPASS_CNT, 0, 32⟩
def R.SPR_DPASS_CNT : Nat := 0x40400048
def F.SPR_DPASS_CNT : Fld := ⟨R.SPR_DPASS_CNT, 0, 32⟩
def R.SPR_TELE_DROP_CNT : Nat := 0x4040004C
def F.SPR_TELE_DROP_CNT : Fld := ⟨R.SPR_TELE_DROP_CNT, 0, 32⟩
def R.SPR_AGE_SEL : Nat := 0x40400050
def F.SPR_AGE_SEL : Fld := ⟨R.SPR_AGE_SEL, 0, 5⟩
def R.SPR_AGE_VAL : Nat := 0x40400054
def F.SPR_AGE_VAL : Fld := ⟨R.SPR_AGE_VAL, 0, 32⟩
def F.SPR_AGE_VAL_M : Fld := ⟨R.SPR_AGE_VAL, 0, 8⟩
def F.SPR_AGE_VAL_RAW : Fld := ⟨R.SPR_AGE_VAL, 8, 24⟩
def R.SPR_AGE_MIN : Nat := 0x40400058
def F.SPR_AGE_MIN : Fld := ⟨R.SPR_AGE_MIN, 0, 32⟩
def F.SPR_AGE_MIN_M : Fld := ⟨R.SPR_AGE_MIN, 0, 8⟩
def F.SPR_AGE_MIN_INDEX : Fld := ⟨R.SPR_AGE_MIN, 8, 5⟩
def R.SPR_CST : Nat := 0x4040005C
def F.SPR_CST : Fld := ⟨R.SPR_CST, 0, 32⟩
def F.SPR_CST_PERIOD : Fld := ⟨R.SPR_CST, 0, 16⟩
def F.SPR_CST_BASE : Fld := ⟨R.SPR_CST, 16, 16⟩
def R.SPR_LOG_CMD : Nat := 0x40400060
def F.SPR_LOG_CMD : Fld := ⟨R.SPR_LOG_CMD, 0, 32⟩
def F.SPR_LOG_CMD_TYPE : Fld := ⟨R.SPR_LOG_CMD, 0, 8⟩
def F.SPR_LOG_CMD_LEN : Fld := ⟨R.SPR_LOG_CMD, 8, 8⟩
def R.SPR_PIPE_LOAD : Nat := 0x40400064
def F.SPR_PIPE_LOAD : Fld := ⟨R.SPR_PIPE_LOAD, 0, 32⟩
def F.SPR_PIPE_LOAD_GO : Fld := ⟨R.SPR_PIPE_LOAD, 0, 1⟩
def F.SPR_PIPE_LOAD_PL : Fld := ⟨R.SPR_PIPE_LOAD, 1, 5⟩
def R.SPR_AGE_WARN : Nat := 0x40400068
def F.SPR_AGE_WARN : Fld := ⟨R.SPR_AGE_WARN, 0, 8⟩
def R.SPR_LOG_BUF (k : Nat) : Nat := 0x40400100 + k * 4
def F.SPR_LOG_BUF (k : Nat) : Fld := ⟨(R.SPR_LOG_BUF k), 0, 32⟩
def R.ALM_CTRL : Nat := 0x40010000
def F.ALM_CTRL_SEAL_EN : Fld := ⟨R.ALM_CTRL, 0, 1⟩
def F.ALM_CTRL_SYNC_EN : Fld := ⟨R.ALM_CTRL, 1, 1⟩
def F.ALM_CTRL_ALARM0_EN : Fld := ⟨R.ALM_CTRL, 2, 1⟩
def F.ALM_CTRL_ALARM1_EN : Fld := ⟨R.ALM_CTRL, 3, 1⟩
def R.ALM_STAT : Nat := 0x40010004
def F.ALM_STAT_VALID : Fld := ⟨R.ALM_STAT, 0, 1⟩
def F.ALM_STAT_SEAL_OPEN : Fld := ⟨R.ALM_STAT, 1, 1⟩
def F.ALM_STAT_SEAL_N : Fld := ⟨R.ALM_STAT, 2, 5⟩
def R.ALM_FLAG : Nat := 0x40010008
def F.ALM_FLAG_ALARM0 : Fld := ⟨R.ALM_FLAG, 0, 1⟩
def F.ALM_FLAG_ALARM1 : Fld := ⟨R.ALM_FLAG, 1, 1⟩
def F.ALM_FLAG_SEAL : Fld := ⟨R.ALM_FLAG, 2, 1⟩
def F.ALM_FLAG_VBAT_LOW : Fld := ⟨R.ALM_FLAG, 3, 1⟩
def F.ALM_FLAG_LOST : Fld := ⟨R.ALM_FLAG, 4, 1⟩
def F.ALM_FLAG_SYNC : Fld := ⟨R.ALM_FLAG, 5, 1⟩
def R.ALM_SEC : Nat := 0x40010010
def F.ALM_SEC : Fld := ⟨R.ALM_SEC, 0, 64⟩
def R.ALM_SUB : Nat := 0x40010018
def F.ALM_SUB : Fld := ⟨R.ALM_SUB, 0, 15⟩
def R.ALM_SET_SEC : Nat := 0x4001001C
def F.ALM_SET_SEC : Fld := ⟨R.ALM_SET_SEC, 0, 64⟩
def R.ALM_SET_SUB : Nat := 0x40010024
def F.ALM_SET_SUB : Fld := ⟨R.ALM_SET_SUB, 0, 15⟩
def R.ALM_ALARMk (k : Nat) : Nat := 0x40010028 + k * 8
def F.ALM_ALARMk (k : Nat) : Fld := ⟨(R.ALM_ALARMk k), 0, 64⟩
def R.ALM_SYNC_PERIOD : Nat := 0x40010038
def F.ALM_SYNC_PERIOD : Fld := ⟨R.ALM_SYNC_PERIOD, 0, 32⟩
def R.ALM_LAST_ADJ : Nat := 0x4001003C
def F.ALM_LAST_ADJ : Fld := ⟨R.ALM_LAST_ADJ, 0, 32⟩
def R.ALM_VBAT : Nat := 0x40010040
def F.ALM_VBAT : Fld := ⟨R.ALM_VBAT, 0, 16⟩
def R.ALM_SEAL_IDX : Nat := 0x40010044
def F.ALM_SEAL_IDX : Fld := ⟨R.ALM_SEAL_IDX, 0, 4⟩
def R.ALM_SEAL_EV : Nat := 0x40010048
def F.ALM_SEAL_EV : Fld := ⟨R.ALM_SEAL_EV, 0, 64⟩
def R.ALM_SEAL_CNT : Nat := 0x40010050
def F.ALM_SEAL_CNT : Fld := ⟨R.ALM_SEAL_CNT, 0, 32⟩
def R.SYS_UTPu_CFG (u : Nat) : Nat := 0x40000400 + u * 4
def F.SYS_UTPu_CFG_OWNER (u : Nat) : Fld := ⟨(R.SYS_UTPu_CFG u), 0, 3⟩
def F.SYS_UTPu_CFG_PULL (u : Nat) : Fld := ⟨(R.SYS_UTPu_CFG u), 4, 2⟩
def F.SYS_UTPu_CFG_DRIVE (u : Nat) : Fld := ⟨(R.SYS_UTPu_CFG u), 6, 1⟩
def R.SYS_UTP_INw (w : Nat) : Nat := 0x40000800 + w * 4
def F.SYS_UTP_INw (w : Nat) : Fld := ⟨(R.SYS_UTP_INw w), 0, 32⟩
def R.SYS_UTP_OUTw (w : Nat) : Nat := 0x40000820 + w * 4
def F.SYS_UTP_OUTw (w : Nat) : Fld := ⟨(R.SYS_UTP_OUTw w), 0, 32⟩
def R.SYS_UTP_BANK : Nat := 0x40000840
def F.SYS_UTP_BANK : Fld := ⟨R.SYS_UTP_BANK, 0, 16⟩
def F.SYS_UTP_BANK_LEVEL : Fld := ⟨R.SYS_UTP_BANK, 0, 8⟩
def F.SYS_UTP_BANK_PRESENT : Fld := ⟨R.SYS_UTP_BANK, 8, 8⟩
def R.DRC_TSETf_A_SH (f : Nat) : Nat := 0x400A0200 + f * 0x10
def F.DRC_TSETf_A_SH (f : Nat) : Fld := ⟨(R.DRC_TSETf_A_SH f), 0, 32⟩
def R.DRC_TIM_A_ACT : Nat := 0x400A0240
def F.DRC_TIM_A_ACT : Fld := ⟨R.DRC_TIM_A_ACT, 0, 32⟩
def R.DRC_TSETf_B_SH (f : Nat) : Nat := 0x400A0204 + f * 0x10
def F.DRC_TSETf_B_SH (f : Nat) : Fld := ⟨(R.DRC_TSETf_B_SH f), 0, 32⟩
def R.DRC_TIM_B_ACT : Nat := 0x400A0244
def F.DRC_TIM_B_ACT : Fld := ⟨R.DRC_TIM_B_ACT, 0, 32⟩
def R.DRC_TSETf_C_SH (f : Nat) : Nat := 0x400A0208 + f * 0x10
def F.DRC_TSETf_C_SH (f : Nat) : Fld := ⟨(R.DRC_TSETf_C_SH f), 0, 32⟩
def R.DRC_TIM_C_ACT : Nat := 0x400A0248
def F.DRC_TIM_C_ACT : Fld := ⟨R.DRC_TIM_C_ACT, 0, 32⟩
def R.DRC_TSETf_D_SH (f : Nat) : Nat := 0x400A020C + f * 0x10
def F.DRC_TSETf_D_SH (f : Nat) : Fld := ⟨(R.DRC_TSETf_D_SH f), 0, 24⟩
def R.DRC_TIM_D_ACT : Nat := 0x400A024C
def F.DRC_TIM_D_ACT : Fld := ⟨R.DRC_TIM_D_ACT, 0, 24⟩

def regRows_LOG_0 : List RegRow := [
  ⟨0x400B0000, [], false, 0, 0xffff, 0, 0, 0, 0x7f, .none⟩,
  ⟨0x400B0004, [], false, 0, 0, 0, 0, 0, 0, .none⟩,
  ⟨0x400B0008, [], false, 0, 0, 7, 0, 0, 0, .none⟩,
  ⟨0x400B0010, [], true, 0, 0, 0, 0, 0, 0, .none⟩,
  ⟨0x400B0018, [], true, 0, 0, 0, 0, 0, 0, .none⟩,
  ⟨0x400B0020, [], false, 0, 0xffffffff, 0, 0, 0, 0, .none⟩,
  ⟨0x400B0024, [], false, 0, 0xffffffff, 0, 0, 0, 0, .none⟩,
  ⟨0x400B0028, [], true, 0, 0, 0, 0, 0, 0, .none⟩,
  ⟨0x400B0030, [], false, 4, 0xffff, 0, 0, 0, 0, .none⟩,
  ⟨0x400B0034, [], false, 0, 0xffffffff, 0, 0, 0, 0, .none⟩,
  ⟨0x400B0038, [], false, 0, 0, 0, 0, 0, 0, .none⟩,
  ⟨0x400B1000, [(0x100, 32)], false, 0, 0xff3d, 0, 2, 0, 0, .none⟩]
def regRows_LOG_1 : List RegRow := [
  ⟨0x400B1004, [(0x100, 32)], false, 1, 0, 0, 0, 0, 0, .none⟩,
  ⟨0x400B1008, [(0x100, 32)], false, 0, 0, 0x7f, 0, 0, 0, .none⟩,
  ⟨0x400B1018, [(0x100, 32)], false, 0, 0xfffffff, 0, 0, 0, 0, .none⟩,
  ⟨0x400B1024, [(0x100, 32)], false, 0x30400, 0xfff1f, 0, 0, 0, 0, .none⟩,
  ⟨0x400B1048, [(0x100, 32)], false, 0x40003e8, 0xff0fffff, 0, 0, 0, 0, .none⟩,
  ⟨0x400B1050, [(0x100, 32)], false, 0, 0, 0, 0, 0, 0, .none⟩,
  ⟨0x400B100C, [(0x100, 32)], false, 0, 0xffffffff, 0, 0, 0, 0, .none⟩,
  ⟨0x400B1010, [(0x100, 32)], true, 0, 0, 0, 0, 0, 0, .none⟩,
  ⟨0x400B101C, [(0x100, 32)], false, 0, 0xffffff, 0, 0, 0, 0, .none⟩,
  ⟨0x400B1020, [(0x100, 32)], false, 0, 0xffffffff, 0, 0, 0, 0, .none⟩,
  ⟨0x400B1028, [(0x100, 32)], false, 0, 0xffffffff, 0, 0, 0, 0, .none⟩,
  ⟨0x400B102C, [(0x100, 32)], false, 0x1000, 0x1ffff, 0, 0, 0, 0, .none⟩]
def regRows_LOG_2 : List RegRow := [
  ⟨0x400B1030, [(0x100, 32)], true, 0, 0, 0, 0, 0, 0, .none⟩,
  ⟨0x400B1038, [(0x100, 32)], false, 0, 0, 0, 0, 0, 0, .none⟩,
  ⟨0x400B103C, [(0x100, 32)], false, 0, 0xffffffff, 0, 0, 0, 0, .none⟩,
  ⟨0x400B1040, [(0x100, 32)], false, 0, 0xffffffff, 0, 0, 0, 0, .none⟩,
  ⟨0x400B1044, [(0x100, 32)], false, 0x3e8, 0xfffff, 0, 0, 0, 0, .none⟩,
  ⟨0x400B104C, [(0x100, 32)], false, 0, 0, 0, 0, 0, 0, .none⟩,
  ⟨0x400B1054, [(0x100, 32)], false, 0, 0, 0, 0, 0, 0, .none⟩,
  ⟨0x400B1060, [(0x100, 32), (4, 8)], false, 0, 0, 0, 0, 0, 0, .none⟩,
  ⟨0x400B1080, [(0x100, 32), (0x20, 4)], false, 0, 0xfff, 0, 0, 0, 0, .none⟩,
  ⟨0x400B1084, [(0x100, 32), (0x20, 4)], true, 0, 0xffffffffffffffff, 0, 0, 0, 0, .none⟩,
  ⟨0x400B108C, [(0x100, 32), (0x20, 4)], false, 0, 0xffffffff, 0, 0, 0, 0, .none⟩,
  ⟨0x400B1090, [(0x100, 32), (0x20, 4)], false, 0, 0xffffffff, 0, 0, 0, 0, .none⟩]
def regRows_LOG_3 : List RegRow := [
  ⟨0x400B1094, [(0x100, 32), (0x20, 4)], false, 0, 0xffffffff, 0, 0, 0, 0, .none⟩]
/-- The registers of the LOG window. -/
def regRows_LOG : List RegRow := regRows_LOG_0 ++ regRows_LOG_1 ++ regRows_LOG_2 ++ regRows_LOG_3

def regRows_TRG_0 : List RegRow := [
  ⟨0x400C0000, [], false, 0, 3, 0, 0, 0, 0, .none⟩,
  ⟨0x400C0004, [], false, 0, 0, 0, 0, 0, 0, .none⟩,
  ⟨0x400C0008, [], false, 0, 0, 0xf, 0, 0, 0, .none⟩,
  ⟨0x400C0010, [], false, 0x20080100, 0xffffffff, 0, 0, 0, 0, .none⟩,
  ⟨0x400C0014, [], false, 0x6400c8, 0xffffffff, 0, 0, 0, 0, .none⟩,
  ⟨0x400C0018, [], false, 0, 0, 0, 0, 0, 0, .none⟩,
  ⟨0x400C001C, [], false, 0, 0, 0, 0, 0, 0, .none⟩,
  ⟨0x400C0020, [], false, 0, 0, 0, 0, 0, 0, .none⟩,
  ⟨0x400C0024, [], false, 0, 0xffffffff, 0, 0, 0, 0, .none⟩,
  ⟨0x400C0028, [], false, 0, 0xffffffff, 0, 0, 0, 0, .none⟩,
  ⟨0x400C002C, [], false, 0, 0xffffffff, 0, 0, 0, 0, .none⟩,
  ⟨0x400C0030, [], false, 0x3e8012c, 0xffffffff, 0, 0, 0, 0, .none⟩]
def regRows_TRG_1 : List RegRow := [
  ⟨0x400C1000, [(0x40, 64)], false, 0, 0xff3ffd, 0, 2, 0, 0, .none⟩,
  ⟨0x400C1004, [(0x40, 64)], false, 1, 0, 0, 0, 0, 0, .none⟩,
  ⟨0x400C1008, [(0x40, 64)], false, 0, 0, 3, 0, 0, 0, .none⟩,
  ⟨0x400C100C, [(0x40, 64)], false, 0, 0xffffffff, 0, 0, 0, 0, .none⟩,
  ⟨0x400C1010, [(0x40, 64)], false, 0, 0xffffffff, 0, 0, 0, 0, .none⟩,
  ⟨0x400C1014, [(0x40, 64)], false, 0, 0xfffff, 0, 0, 0, 0, .none⟩,
  ⟨0x400C1018, [(0x40, 64)], false, 0, 0xffffffff, 0, 0, 0, 0, .none⟩,
  ⟨0x400C101C, [(0x40, 64)], false, 0, 0xffffffff, 0, 0, 0, 0, .none⟩,
  ⟨0x400C1020, [(0x40, 64)], false, 0, 0xffffffff, 0, 0, 0, 0, .none⟩,
  ⟨0x400C1024, [(0x40, 64)], false, 0, 0xffffffff, 0, 0, 0, 0, .none⟩,
  ⟨0x400C3000, [(0x20, 96)], false, 0, 0x3fd, 0, 2, 0, 0, .none⟩,
  ⟨0x400C3004, [(0x20, 96)], false, 1, 0, 0, 0, 0, 0, .none⟩]
def regRows_TRG_2 : List RegRow := [
  ⟨0x400C3008, [(0x20, 96)], false, 0, 0xffffffff, 0, 0, 0, 0, .none⟩,
  ⟨0x400C300C, [(0x20, 96)], false, 0, 0xffffffff, 0, 0, 0, 0, .none⟩,
  ⟨0x400C3010, [(0x20, 96)], false, 0xf4240, 0xffffffff, 0, 0, 0, 0, .none⟩,
  ⟨0x400C3014, [(0x20, 96)], false, 0, 0xffffffff, 0, 0, 0, 0, .none⟩,
  ⟨0x400C3018, [(0x20, 96)], false, 0, 0xffffffff, 0, 0, 0, 0, .none⟩]
/-- The registers of the TRG window. -/
def regRows_TRG : List RegRow := regRows_TRG_0 ++ regRows_TRG_1 ++ regRows_TRG_2

def regRows_FLT_0 : List RegRow := [
  ⟨0x400D1000, [(0x40, 48)], false, 0, 0x1d, 0, 0x22, 0, 0, .none⟩,
  ⟨0x400D1004, [(0x40, 48)], false, 1, 0, 0, 0, 0, 0, .none⟩,
  ⟨0x400D1008, [(0x40, 48)], false, 0, 0, 0xf, 0, 0, 0, .none⟩,
  ⟨0x400D100C, [(0x40, 48)], false, 0x40, 0xff07ff, 0, 0, 0, 0, .fade⟩,
  ⟨0x400D1010, [(0x40, 48)], false, 0x40, 0, 0, 0, 0, 0, .act⟩,
  ⟨0x400D1014, [(0x40, 48)], false, 0, 0x7f, 0, 0, 0, 0, .none⟩,
  ⟨0x400D1018, [(0x40, 48)], false, 0, 0, 0, 0, 0xffffff, 0, .none⟩,
  ⟨0x400D101C, [(0x40, 48)], false, 0, 0, 0, 0, 0, 0, .none⟩,
  ⟨0x400D1020, [(0x40, 48)], false, 0, 0xffffff, 0, 0, 0, 0, .none⟩,
  ⟨0x400D3000, [(0x10, 64)], false, 0, 0xffff001f, 0, 0, 0, 0, .none⟩,
  ⟨0x400D3004, [(0x10, 64)], false, 0, 0xffffff, 0, 0, 0, 0, .none⟩,
  ⟨0x400D3008, [(0x10, 64)], false, 0x80002000, 0xffffffff, 0, 0, 0, 0, .none⟩]
def regRows_FLT_1 : List RegRow := [
  ⟨0x400D300C, [(0x10, 64)], false, 0x4000, 0, 0, 0, 0, 0, .none⟩]
/-- The registers of the FLT window. -/
def regRows_FLT : List RegRow := regRows_FLT_0 ++ regRows_FLT_1

def regRows_SLK_0 : List RegRow := [
  ⟨0x40121000, [(0x40, 64)], false, 0x1401018, 0xffff1f1d, 0, 2, 0, 0, .none⟩,
  ⟨0x40121004, [(0x40, 64)], false, 0x21, 0, 0, 0, 0, 0, .none⟩,
  ⟨0x40121008, [(0x40, 64)], false, 0, 0, 0x1f, 0, 0, 0, .none⟩,
  ⟨0x4012100C, [(0x40, 64)], false, 0, 0xffffffff, 0, 0, 0, 0, .none⟩,
  ⟨0x40121010, [(0x40, 64)], false, 0, 0xffffffff, 0, 0, 0, 0, .none⟩,
  ⟨0x40121014, [(0x40, 64)], false, 0, 0xffffffff, 0, 0, 0, 0, .none⟩,
  ⟨0x40121018, [(0x40, 64)], false, 0, 0xffffffff, 0, 0, 0, 0, .none⟩,
  ⟨0x40122000, [(0x40, 16)], false, 0, 0xff3d, 0, 2, 0, 0, .none⟩,
  ⟨0x40122004, [(0x40, 16)], false, 1, 0, 0, 0, 0, 0, .none⟩,
  ⟨0x40122008, [(0x40, 16)], false, 0, 0, 0x3f, 0, 0, 0, .none⟩,
  ⟨0x4012200C, [(0x40, 16)], false, 0, 0xffffffff, 0, 0, 0, 0, .none⟩,
  ⟨0x40122010, [(0x40, 16)], false, 0, 0xffffffff, 0, 0, 0, 0, .none⟩]
def regRows_SLK_1 : List RegRow := [
  ⟨0x40123000, [(0x80, 64)], false, 0x121000, 0x3fffff, 0, 0, 0, 0, .line⟩,
  ⟨0x40123004, [(0x80, 64)], false, 0x121000, 0, 0, 0, 0, 0, .act⟩,
  ⟨0x40123008, [(0x80, 64)], false, 0, 0xffff, 0, 0, 0, 0, .line⟩,
  ⟨0x4012300C, [(0x80, 64)], false, 0, 0, 0, 0, 0, 0, .act⟩,
  ⟨0x40123010, [(0x80, 64)], false, 0x8000, 0, 0, 0, 0, 0, .none⟩,
  ⟨0x40123014, [(0x80, 64)], false, 0, 0, 0x3ff, 0, 0, 0, .none⟩,
  ⟨0x40123018, [(0x80, 64)], false, 0, 0xffffffff, 0, 0, 0, 0, .none⟩,
  ⟨0x4012301C, [(0x80, 64)], false, 0, 0xffffffff, 0, 0, 0, 0, .none⟩,
  ⟨0x40123020, [(0x80, 64)], false, 0, 0xffffffff, 0, 0, 0, 0, .none⟩,
  ⟨0x40123024, [(0x80, 64)], false, 0, 0xffffffff, 0, 0, 0, 0, .none⟩,
  ⟨0x40123028, [(0x80, 64)], false, 0, 0xffffffff, 0, 0, 0, 0, .none⟩,
  ⟨0x4012302C, [(0x80, 64)], false, 0, 0xffffffff, 0, 0, 0, 0, .none⟩]
def regRows_SLK_2 : List RegRow := [
  ⟨0x40123030, [(0x80, 64)], false, 0, 0xffffffff, 0, 0, 0, 0, .none⟩,
  ⟨0x40123034, [(0x80, 64)], false, 0, 0xffffffff, 0, 0, 0, 0, .none⟩,
  ⟨0x40123038, [(0x80, 64)], false, 0, 0xffffffff, 0, 0, 0, 0, .none⟩,
  ⟨0x4012303C, [(0x80, 64)], false, 0, 0xffffffff, 0, 0, 0, 0, .none⟩,
  ⟨0x40123040, [(0x80, 64)], false, 0, 0xffffffff, 0, 0, 0, 0, .none⟩,
  ⟨0x40123044, [(0x80, 64)], false, 0, 0, 0, 0, 0, 0, .none⟩,
  ⟨0x40125000, [(0x40, 16)], false, 0, 0x79, 0, 6, 0, 0, .none⟩,
  ⟨0x40125004, [(0x40, 16)], false, 1, 0, 0, 0, 0, 0, .none⟩,
  ⟨0x40125008, [(0x40, 16)], false, 0, 0, 3, 0, 0, 0, .none⟩,
  ⟨0x4012500C, [(0x40, 16)], false, 0, 0xffffffff, 0, 0, 0, 0, .none⟩,
  ⟨0x40125010, [(0x40, 16)], false, 0, 0xffffffff, 0, 0, 0, 0, .none⟩,
  ⟨0x40125014, [(0x40, 16)], false, 0, 0, 0, 0, 0, 0, .none⟩]
def regRows_SLK_3 : List RegRow := [
  ⟨0x40125018, [(0x40, 16)], false, 0x64, 0xffff, 0, 0, 0, 0, .none⟩,
  ⟨0x4012501C, [(0x40, 16)], false, 0, 0xffffffff, 0, 0, 0, 0, .none⟩]
/-- The registers of the SLK window. -/
def regRows_SLK : List RegRow := regRows_SLK_0 ++ regRows_SLK_1 ++ regRows_SLK_2 ++ regRows_SLK_3

def regRows_PL_0 : List RegRow := [
  ⟨0x40200000, [(0x10000, 17)], false, 3, 0, 0, 0, 0, 0, .none⟩,
  ⟨0x40200004, [(0x10000, 17)], false, 0, 0, 0, 0, 0, 0, .none⟩,
  ⟨0x40200100, [(0x10000, 17), (0x80, 4)], false, 0, 0xfd, 0, 2, 0, 0, .none⟩,
  ⟨0x40200104, [(0x10000, 17), (0x80, 4)], false, 1, 0, 0, 0, 0, 0, .none⟩,
  ⟨0x40200108, [(0x10000, 17), (0x80, 4)], false, 0, 0, 7, 0, 0, 0, .none⟩,
  ⟨0x4020010C, [(0x10000, 17), (0x80, 4)], false, 0x10003000, 0x7fff7fff, 0, 0, 0, 0, .none⟩,
  ⟨0x40200110, [(0x10000, 17), (0x80, 4)], false, 0, 0xff03, 0, 0, 0, 0, .none⟩,
  ⟨0x40200114, [(0x10000, 17), (0x80, 4)], false, 0, 0xffff03ff, 0, 0, 0, 0, .tile⟩,
  ⟨0x40200118, [(0x10000, 17), (0x80, 4)], false, 0, 0, 0, 0, 0, 0, .act⟩,
  ⟨0x4020011C, [(0x10000, 17), (0x80, 4)], false, 0, 0xffffffff, 0, 0, 0, 0, .none⟩,
  ⟨0x40200120, [(0x10000, 17), (0x80, 4)], false, 0, 0xffffffff, 0, 0, 0, 0, .none⟩,
  ⟨0x40200124, [(0x10000, 17), (0x80, 4)], false, 0, 0xffffffff, 0, 0, 0, 0, .none⟩]
def regRows_PL_1 : List RegRow := [
  ⟨0x40200128, [(0x10000, 17), (0x80, 4)], false, 0, 0xffffffff, 0, 0, 0, 0, .none⟩,
  ⟨0x4020012C, [(0x10000, 17), (0x80, 4)], false, 0, 0xffffffff, 0, 0, 0, 0, .none⟩,
  ⟨0x40200130, [(0x10000, 17), (0x80, 4)], false, 0, 0xffffffff, 0, 0, 0, 0, .none⟩,
  ⟨0x40200400, [(0x10000, 17), (0x100, 4)], false, 0x4400, 0xff7f, 0, 0, 0, 0, .line⟩,
  ⟨0x40200404, [(0x10000, 17), (0x100, 4)], false, 0x4400, 0, 0, 0, 0, 0, .act⟩,
  ⟨0x40200408, [(0x10000, 17), (0x100, 4)], false, 1, 0x1ff0f, 0, 0, 0, 0, .none⟩,
  ⟨0x4020040C, [(0x10000, 17), (0x100, 4)], false, 0, 0x7f, 0, 0, 0, 0, .none⟩,
  ⟨0x40200468, [(0x10000, 17), (0x100, 4)], false, 0x1900000, 0, 0, 0, 0, 0, .none⟩,
  ⟨0x4020046C, [(0x10000, 17), (0x100, 4)], false, 0, 0, 0x3f, 0, 0, 0, .none⟩,
  ⟨0x40200458, [(0x10000, 17), (0x100, 4)], false, 0, 0xf0, 0, 1, 0, 0, .none⟩,
  ⟨0x40200470, [(0x10000, 17), (0x100, 4)], false, 0x1004, 0xffff, 0, 0, 0, 0, .none⟩,
  ⟨0x40200474, [(0x10000, 17), (0x100, 4)], false, 0x4001404, 0xffffffff, 0, 0, 0, 0, .none⟩]
def regRows_PL_2 : List RegRow := [
  ⟨0x40200410, [(0x10000, 17), (0x100, 4), (4, 4)], false, 0, 0xffffffff, 0, 0, 0, 0, .none⟩,
  ⟨0x40200420, [(0x10000, 17), (0x100, 4), (4, 4)], false, 0, 0xffffffff, 0, 0, 0, 0, .none⟩,
  ⟨0x40200430, [(0x10000, 17), (0x100, 4)], false, 0x4000, 0xffffffff, 0, 0, 0, 0, .none⟩,
  ⟨0x40200434, [(0x10000, 17), (0x100, 4)], false, 0, 0xffffffff, 0, 0, 0, 0, .none⟩,
  ⟨0x40200438, [(0x10000, 17), (0x100, 4)], false, 0, 0xffff, 0, 0, 0, 0, .none⟩,
  ⟨0x4020043C, [(0x10000, 17), (0x100, 4)], false, 0, 0, 0, 0, 0, 0, .none⟩,
  ⟨0x40200440, [(0x10000, 17), (0x100, 4), (4, 4)], false, 0, 0xffffffff, 0, 0, 0, 0, .none⟩,
  ⟨0x40200450, [(0x10000, 17), (0x100, 4)], false, 0x190, 0xffff, 0, 0, 0, 0, .none⟩,
  ⟨0x40200454, [(0x10000, 17), (0x100, 4)], false, 0x1000, 0xffff, 0, 0, 0, 0, .none⟩,
  ⟨0x4020045C, [(0x10000, 17), (0x100, 4)], false, 0, 0xf, 0, 0, 0, 0, .none⟩,
  ⟨0x40200460, [(0x10000, 17), (0x100, 4)], false, 0, 0xffff, 0, 0, 0, 0, .none⟩,
  ⟨0x40200464, [(0x10000, 17), (0x100, 4)], false, 0, 0xffffffff, 0, 0, 0, 0, .none⟩]
def regRows_PL_3 : List RegRow := [
  ⟨0x40200478, [(0x10000, 17), (0x100, 4)], false, 0x40, 0xffff01ff, 0, 0, 0, 0, .none⟩,
  ⟨0x4020047C, [(0x10000, 17), (0x100, 4)], false, 0x50003000, 0xffffffff, 0, 0, 0, 0, .none⟩,
  ⟨0x40200480, [(0x10000, 17), (0x100, 4)], false, 0x10, 0xffff, 0, 0, 0, 0, .none⟩,
  ⟨0x40200484, [(0x10000, 17), (0x100, 4)], false, 0, 0xffffffff, 0, 0, 0, 0, .none⟩,
  ⟨0x40200488, [(0x10000, 17), (0x100, 4)], false, 0, 0xffffffff, 0, 0, 0, 0, .none⟩,
  ⟨0x4020048C, [(0x10000, 17), (0x100, 4)], false, 0, 0xffffffff, 0, 0, 0, 0, .none⟩,
  ⟨0x40200490, [(0x10000, 17), (0x100, 4)], false, 0, 0xffffffff, 0, 0, 0, 0, .none⟩,
  ⟨0x40200494, [(0x10000, 17), (0x100, 4)], false, 0, 0xffffffff, 0, 0, 0, 0, .none⟩,
  ⟨0x40200498, [(0x10000, 17), (0x100, 4)], false, 0, 0x1fff, 0, 0, 0, 0, .none⟩]
/-- The registers of the PL window. -/
def regRows_PL : List RegRow := regRows_PL_0 ++ regRows_PL_1 ++ regRows_PL_2 ++ regRows_PL_3

def regRows_STC_0 : List RegRow := [
  ⟨0x40130000, [], false, 0x10, 0x1f, 0, 0, 0, 0, .none⟩,
  ⟨0x40130010, [], false, 0x200, 0xffffff, 0, 0, 0, 0xffffff, .none⟩,
  ⟨0x40130014, [], false, 0x10000, 0xffffffff, 0, 0, 0, 0xffffffff, .none⟩,
  ⟨0x40130018, [], false, 0, 0xffffffff, 0, 0, 0, 0xffffffff, .none⟩,
  ⟨0x4013001C, [], false, 0, 0xffffffff, 0, 0, 0, 0xffffffff, .none⟩,
  ⟨0x40130020, [], false, 0, 0xffff, 0, 0, 0, 0, .none⟩,
  ⟨0x40130024, [], false, 0x20, 0x3ff, 0, 0, 0, 0x3ff, .none⟩,
  ⟨0x40130028, [], false, 0x927c0, 0, 0, 0, 0, 0, .none⟩,
  ⟨0x4013002C, [], false, 0, 0, 0, 0, 0, 0, .none⟩,
  ⟨0x40130030, [], true, 0, 0xffffffffffffffff, 0, 0, 0, 0xffffffffffffffff, .none⟩,
  ⟨0x40130038, [], true, 0, 0xffffffffffffffff, 0, 0, 0, 0xffffffffffffffff, .none⟩,
  ⟨0x40130040, [(4, 16)], false, 0, 0x7fff, 0, 0, 0, 0x7fff, .none⟩]
def regRows_STC_1 : List RegRow := [
  ⟨0x40130080, [], true, 0, 0, 0, 0, 0, 0, .none⟩,
  ⟨0x40130088, [], true, 0, 0, 0, 0, 0, 0, .none⟩,
  ⟨0x40130090, [], false, 0x4020100, 0xffffffff, 0, 0, 0, 0, .none⟩,
  ⟨0x401300A0, [], false, 0, 0x3f, 0, 0, 0, 0, .none⟩,
  ⟨0x401300A4, [], false, 0, 0x7ff, 0, 0, 0, 0, .none⟩,
  ⟨0x401300A8, [], false, 0, 0xffff, 0, 0, 0, 0, .none⟩,
  ⟨0x40131000, [(0x80, 64)], false, 0, 3, 0, 4, 0, 1, .none⟩,
  ⟨0x40131004, [(0x80, 64)], false, 0, 0, 0, 0, 0, 0, .none⟩,
  ⟨0x40131008, [(0x80, 64)], false, 0, 0, 0x1ff, 0, 0, 0, .none⟩,
  ⟨0x4013100C, [(0x80, 64)], false, 0, 0x3ffff, 0, 0, 0, 0x3ffff, .none⟩,
  ⟨0x40131010, [(0x80, 64)], false, 0, 0x3ffff, 0, 0, 0, 0x3ffff, .none⟩,
  ⟨0x40131014, [(0x80, 64)], false, 0, 0xffffffff, 0, 0, 0, 0, .tile⟩]
def regRows_STC_2 : List RegRow := [
  ⟨0x40131018, [(0x80, 64)], false, 0, 0, 0, 0, 0, 0, .act⟩,
  ⟨0x4013101C, [(0x80, 64)], false, 0x10000000, 0xffffffff, 0, 0, 0, 0, .tile⟩,
  ⟨0x40131020, [(0x80, 64)], false, 0x10000000, 0, 0, 0, 0, 0, .act⟩,
  ⟨0x40131024, [(0x80, 64)], false, 0, 0xffffffff, 0, 0, 0, 0, .tile⟩,
  ⟨0x40131028, [(0x80, 64)], false, 0, 0, 0, 0, 0, 0, .act⟩,
  ⟨0x4013102C, [(0x80, 64)], false, 0, 0xffffffff, 0, 0, 0, 0, .none⟩,
  ⟨0x40131030, [(0x80, 64)], false, 0, 0xffffffff, 0, 0, 0, 0, .none⟩,
  ⟨0x40131034, [(0x80, 64)], false, 0, 0xffffffff, 0, 0, 0, 0, .none⟩,
  ⟨0x40131038, [(0x80, 64)], false, 0, 0xffffffff, 0, 0, 0, 0, .none⟩,
  ⟨0x4013103C, [(0x80, 64)], false, 0, 0xffffffff, 0, 0, 0, 0, .none⟩,
  ⟨0x40131040, [(0x80, 64)], false, 0, 0xffffffff, 0, 0, 0, 0, .none⟩,
  ⟨0x40131044, [(0x80, 64)], false, 0, 0xffffffff, 0, 0, 0, 0, .none⟩]
def regRows_STC_3 : List RegRow := [
  ⟨0x40131048, [(0x80, 64)], false, 0, 0xffffffff, 0, 0, 0, 0, .none⟩,
  ⟨0x4013104C, [(0x80, 64)], false, 0, 0xffffffff, 0, 0, 0, 0, .none⟩,
  ⟨0x40131050, [(0x80, 64)], false, 0, 0xffffffff, 0, 0, 0, 0, .none⟩,
  ⟨0x40131054, [(0x80, 64)], false, 0, 0xffffffff, 0, 0, 0, 0, .none⟩]
/-- The registers of the STC window. -/
def regRows_STC : List RegRow := regRows_STC_0 ++ regRows_STC_1 ++ regRows_STC_2 ++ regRows_STC_3

def regRows_SEG_0 : List RegRow := [
  ⟨0x40140000, [], false, 0, 1, 0, 6, 0, 0, .none⟩,
  ⟨0x40140004, [], false, 1, 0, 0, 0, 0, 0, .none⟩,
  ⟨0x40140008, [], false, 0, 0, 0x7f, 0, 0, 0, .none⟩,
  ⟨0x4014000C, [], false, 0x810, 0xfff, 0, 0, 0, 0, .none⟩,
  ⟨0x40140010, [], false, 0x2000100, 0xffffffff, 0, 0, 0, 0, .none⟩,
  ⟨0x40140014, [], false, 0xc8, 0xffff, 0, 0, 0, 0, .none⟩,
  ⟨0x40140018, [], false, 0, 0x3f1fff, 0, 0, 0, 0, .none⟩,
  ⟨0x4014001C, [], false, 0, 0, 0, 0, 0, 0, .none⟩,
  ⟨0x40140020, [], false, 0, 0x8fff, 0, 0, 0, 0, .none⟩,
  ⟨0x40140024, [], true, 0, 0xffffffffffffffff, 0, 0, 0, 0, .none⟩,
  ⟨0x40140030, [], false, 0x1000000, 0xffffffff, 0, 0, 0, 0, .none⟩,
  ⟨0x40140034, [], true, 0, 0, 0, 0, 0, 0, .none⟩]
def regRows_SEG_1 : List RegRow := [
  ⟨0x4014003C, [], false, 0xa, 0xffff, 0, 0, 0, 0, .none⟩,
  ⟨0x40140040, [], false, 0, 0xffffffff, 0, 0, 0, 0, .none⟩,
  ⟨0x40140044, [], false, 0, 0xffffffff, 0, 0, 0, 0, .none⟩,
  ⟨0x40140048, [], false, 0, 0xffffffff, 0, 0, 0, 0, .none⟩,
  ⟨0x4014004C, [], false, 0, 0xffffffff, 0, 0, 0, 0, .none⟩,
  ⟨0x40140050, [], false, 0, 0xffffffff, 0, 0, 0, 0, .none⟩,
  ⟨0x40140054, [], false, 0, 0xffffffff, 0, 0, 0, 0, .none⟩,
  ⟨0x40140058, [], false, 0, 0xffffffff, 0, 0, 0, 0, .none⟩,
  ⟨0x4014005C, [], false, 0, 0xffffffff, 0, 0, 0, 0, .none⟩,
  ⟨0x40140060, [], false, 0, 0xffffffff, 0, 0, 0, 0, .none⟩,
  ⟨0x40140064, [], false, 0, 0xffffffff, 0, 0, 0, 0, .none⟩,
  ⟨0x40141000, [(0x80, 16)], false, 0x4084060, 0xffffffff, 0, 0, 0, 0, .row⟩]
def regRows_SEG_2 : List RegRow := [
  ⟨0x40141004, [(0x80, 16)], false, 0x4084060, 0, 0, 0, 0, 0, .act⟩,
  ⟨0x40141008, [(0x80, 16)], false, 0x4084060, 0xffffffff, 0, 0, 0, 0, .row⟩,
  ⟨0x4014100C, [(0x80, 16)], false, 0x4084060, 0, 0, 0, 0, 0, .act⟩,
  ⟨0x40141010, [(0x80, 16)], false, 1, 0, 0, 0, 0, 0, .none⟩,
  ⟨0x40141014, [(0x80, 16)], false, 0, 0, 3, 0, 0, 0, .none⟩,
  ⟨0x40141018, [(0x80, 16)], false, 0, 0, 0, 0, 0, 0, .none⟩,
  ⟨0x4014101C, [(0x80, 16)], false, 0, 0xffffffff, 0, 0, 0, 0, .none⟩,
  ⟨0x40141020, [(0x80, 16)], false, 0, 0xffffffff, 0, 0, 0, 0, .none⟩,
  ⟨0x40141024, [(0x80, 16)], false, 0, 0xffffffff, 0, 0, 0, 0, .none⟩,
  ⟨0x40141028, [(0x80, 16)], false, 0, 0xffffffff, 0, 0, 0, 0, .none⟩]
/-- The registers of the SEG window. -/
def regRows_SEG : List RegRow := regRows_SEG_0 ++ regRows_SEG_1 ++ regRows_SEG_2

def regRows_MRK_0 : List RegRow := [
  ⟨0x400E1000, [(0x100, 16)], false, 0x1600, 0xfffffffd, 0, 2, 0, 0, .none⟩,
  ⟨0x400E1004, [(0x100, 16)], false, 1, 0, 0, 0, 0, 0, .none⟩,
  ⟨0x400E1008, [(0x100, 16)], false, 0, 0, 0x7f, 0, 0, 0, .none⟩,
  ⟨0x400E1010, [(0x100, 16)], false, 0, 0xffffffff, 0, 0, 0, 0, .mark⟩,
  ⟨0x400E1014, [(0x100, 16)], false, 0, 0, 0, 0, 0, 0, .act⟩,
  ⟨0x400E1018, [(0x100, 16)], false, 0, 0xffffffff, 0, 0, 0, 0, .mark⟩,
  ⟨0x400E101C, [(0x100, 16)], false, 0, 0, 0, 0, 0, 0, .act⟩,
  ⟨0x400E1020, [(0x100, 16)], false, 1, 0xffffffff, 0, 0, 0, 0, .mark⟩,
  ⟨0x400E1024, [(0x100, 16)], false, 1, 0, 0, 0, 0, 0, .act⟩,
  ⟨0x400E1028, [(0x100, 16)], false, 0, 0xffffffff, 0, 0, 0, 0, .mark⟩,
  ⟨0x400E102C, [(0x100, 16)], false, 0, 0, 0, 0, 0, 0, .act⟩,
  ⟨0x400E1030, [(0x100, 16)], false, 0, 0xffffff, 0, 0, 0, 0, .mark⟩]
def regRows_MRK_1 : List RegRow := [
  ⟨0x400E1034, [(0x100, 16)], false, 0, 0, 0, 0, 0, 0, .act⟩,
  ⟨0x400E1038, [(0x100, 16)], false, 0x3e80064, 0xffffffff, 0, 0, 0, 0, .mark⟩,
  ⟨0x400E103C, [(0x100, 16)], false, 0x3e80064, 0, 0, 0, 0, 0, .act⟩,
  ⟨0x400E1040, [(0x100, 16)], false, 0x1388, 0xffffff, 0, 0, 0, 0, .mark⟩,
  ⟨0x400E1044, [(0x100, 16)], false, 0x1388, 0, 0, 0, 0, 0, .act⟩,
  ⟨0x400E1048, [(0x100, 16)], false, 0x3c0004, 0xffff00ff, 0, 0, 0, 0, .none⟩,
  ⟨0x400E104C, [(0x100, 16)], true, 0, 0, 0, 0, 0, 0, .none⟩,
  ⟨0x400E1054, [(0x100, 16)], false, 0, 0, 0, 0, 0, 0, .none⟩,
  ⟨0x400E1058, [(0x100, 16)], false, 0, 0xffffffff, 0, 0, 0, 0, .none⟩,
  ⟨0x400E105C, [(0x100, 16)], false, 0, 0xffffffff, 0, 0, 0, 0, .none⟩,
  ⟨0x400E1060, [(0x100, 16)], false, 0, 0xffffffff, 0, 0, 0, 0, .none⟩,
  ⟨0x400E1064, [(0x100, 16)], false, 0, 0xffffffff, 0, 0, 0, 0, .none⟩]
def regRows_MRK_2 : List RegRow := [
  ⟨0x400E1068, [(0x100, 16)], false, 0, 0xffffffff, 0, 0, 0, 0, .none⟩,
  ⟨0x400E106C, [(0x100, 16)], false, 0, 0xffffffff, 0, 0, 0, 0, .none⟩,
  ⟨0x400E1070, [(0x100, 16)], false, 0, 0xffffffff, 0, 0, 0, 0, .none⟩,
  ⟨0x400E1078, [(0x100, 16)], true, 0, 0, 0, 0, 0, 0, .none⟩,
  ⟨0x400E1080, [(0x100, 16)], false, 0, 0, 0, 0, 0, 0, .none⟩,
  ⟨0x400E1084, [(0x100, 16)], false, 0, 0, 0, 0, 0, 0, .none⟩,
  ⟨0x400E1088, [(0x100, 16)], false, 0, 0xffffffff, 0, 0, 0, 0, .none⟩]
/-- The registers of the MRK window. -/
def regRows_MRK : List RegRow := regRows_MRK_0 ++ regRows_MRK_1 ++ regRows_MRK_2

def regRows_CDC_0 : List RegRow := [
  ⟨0x40111000, [(0x40, 4)], false, 0, 0x3ffff1, 0, 0xe, 0, 0, .none⟩,
  ⟨0x40111004, [(0x40, 4)], false, 1, 0, 0, 0, 0, 0, .none⟩,
  ⟨0x40111008, [(0x40, 4)], false, 0, 0, 0xff, 0, 0, 0, .none⟩,
  ⟨0x4011100C, [(0x40, 4)], true, 0, 0xffffffffffffffff, 0, 0, 0, 0, .none⟩,
  ⟨0x40111014, [(0x40, 4)], false, 0, 0xffffffff, 0, 0, 0, 0, .none⟩,
  ⟨0x40111018, [(0x40, 4)], false, 0, 0xffffffff, 0, 0, 0, 0, .none⟩,
  ⟨0x4011101C, [(0x40, 4)], false, 0, 0xffffffff, 0, 0, 0, 0, .none⟩,
  ⟨0x40111020, [(0x40, 4)], false, 0, 0xffffffff, 0, 0, 0, 0, .none⟩,
  ⟨0x40112000, [(0x40, 8)], false, 0, 0x7ffd, 0, 2, 0, 0, .none⟩,
  ⟨0x40112004, [(0x40, 8)], false, 0, 0x3ffff, 0, 0, 0, 0, .none⟩,
  ⟨0x40112008, [(0x40, 8)], false, 0, 0x3ffff, 0, 0, 0, 0, .none⟩,
  ⟨0x4011200C, [(0x40, 8)], true, 0, 0xffffffffffffffff, 0, 0, 0, 0, .none⟩]
def regRows_CDC_1 : List RegRow := [
  ⟨0x40112014, [(0x40, 8)], false, 0, 0xffffffff, 0, 0, 0, 0, .none⟩,
  ⟨0x40112018, [(0x40, 8)], true, 0, 0, 0, 0, 0, 0, .none⟩,
  ⟨0x40112020, [(0x40, 8)], false, 1, 0, 0, 0, 0, 0, .none⟩,
  ⟨0x40112024, [(0x40, 8)], false, 0, 0, 1, 0, 0, 0, .none⟩,
  ⟨0x40112028, [(0x40, 8)], false, 0, 0xffffffff, 0, 0, 0, 0, .none⟩]
/-- The registers of the CDC window. -/
def regRows_CDC : List RegRow := regRows_CDC_0 ++ regRows_CDC_1

def regRows_NET_0 : List RegRow := [
  ⟨0x40100010, [], false, 0, 0x3fff011f, 0, 0, 0, 0, .none⟩,
  ⟨0x40100014, [], false, 0x4c5a, 0xffff, 0, 0, 0, 0, .none⟩,
  ⟨0x40100018, [], false, 0, 0xffffffff, 0, 0, 0, 0, .none⟩,
  ⟨0x40101000, [(0x80, 8)], false, 0x5dc0000, 0x3fff0005, 0, 2, 0, 0, .none⟩,
  ⟨0x40101004, [(0x80, 8)], false, 1, 0, 0, 0, 0, 0, .none⟩,
  ⟨0x40101008, [(0x80, 8)], false, 0, 0, 0xf, 0, 0, 0, .none⟩,
  ⟨0x4010100C, [(0x80, 8)], true, 0, 0xffffffffffff, 0, 0, 0, 0, .none⟩,
  ⟨0x40101014, [(0x80, 8)], false, 0, 0xffffffff, 0, 0, 0, 0, .none⟩,
  ⟨0x40101018, [(0x80, 8), (4, 4)], false, 0, 0xffffffff, 0, 0, 0, 0, .none⟩,
  ⟨0x40101028, [(0x80, 8)], false, 0, 0xffff, 0, 0, 0, 0, .none⟩,
  ⟨0x4010102C, [(0x80, 8)], false, 0, 0xffff, 0, 0, 0, 0, .none⟩,
  ⟨0x40101030, [(0x80, 8)], false, 0, 0xffffffff, 0, 0, 0, 0, .none⟩]
def regRows_NET_1 : List RegRow := [
  ⟨0x40101034, [(0x80, 8)], false, 0, 0xffffffff, 0, 0, 0, 0, .none⟩,
  ⟨0x40101038, [(0x80, 8)], false, 0, 0xffffffff, 0, 0, 0, 0, .none⟩,
  ⟨0x4010103C, [(0x80, 8)], false, 0, 0xffffffff, 0, 0, 0, 0, .none⟩,
  ⟨0x40101040, [(0x80, 8)], false, 0, 0xffffffff, 0, 0, 0, 0, .none⟩,
  ⟨0x40101044, [(0x80, 8)], false, 0, 0xffffffff, 0, 0, 0, 0, .none⟩,
  ⟨0x40101048, [(0x80, 8)], false, 0, 0xffffffff, 0, 0, 0, 0, .none⟩,
  ⟨0x40102000, [(0x80, 32)], false, 0, 0xffffd, 0, 2, 0, 0, .none⟩,
  ⟨0x40102004, [(0x80, 32)], false, 1, 0, 0, 0, 0, 0, .none⟩,
  ⟨0x40102008, [(0x80, 32)], false, 0, 0, 7, 0, 0, 0, .none⟩,
  ⟨0x4010200C, [(0x80, 32)], true, 0, 0xffffffffffff, 0, 0, 0, 0, .none⟩,
  ⟨0x40102014, [(0x80, 32)], false, 0x40000000, 0xff3fefff, 0, 0, 0, 0, .none⟩,
  ⟨0x40102018, [(0x80, 32), (4, 4)], false, 0, 0xffffffff, 0, 0, 0, 0, .none⟩]
def regRows_NET_2 : List RegRow := [
  ⟨0x40102028, [(0x80, 32)], false, 0x4c5a4c5a, 0xffffffff, 0, 0, 0, 0, .none⟩,
  ⟨0x4010202C, [(0x80, 32)], false, 0x14, 0xffff, 0, 0, 0, 0, .none⟩,
  ⟨0x40102030, [(0x80, 32)], false, 0x2710, 0xffffffff, 0, 0, 0, 0, .none⟩,
  ⟨0x40102034, [(0x80, 32)], false, 0x3e8, 0xffff, 0, 0, 0, 0, .none⟩,
  ⟨0x40102038, [(0x80, 32)], false, 0, 0, 0, 0, 0, 0, .none⟩,
  ⟨0x4010203C, [(0x80, 32)], false, 0, 0xffffffff, 0, 0, 0, 0, .none⟩,
  ⟨0x40102040, [(0x80, 32)], false, 0, 0xffffffff, 0, 0, 0, 0, .none⟩,
  ⟨0x40102044, [(0x80, 32)], false, 0, 0xffffffff, 0, 0, 0, 0, .none⟩,
  ⟨0x40102048, [(0x80, 32)], false, 0, 0xffffffff, 0, 0, 0, 0, .none⟩,
  ⟨0x4010204C, [(0x80, 32)], false, 0, 0xffffffff, 0, 0, 0, 0, .none⟩]
/-- The registers of the NET window. -/
def regRows_NET : List RegRow := regRows_NET_0 ++ regRows_NET_1 ++ regRows_NET_2

def regRows_MER_0 : List RegRow := [
  ⟨0x400F0000, [], false, 0, 0xf, 0, 0, 0, 0, .none⟩,
  ⟨0x400F0004, [], false, 0, 0, 0, 0, 0, 0, .none⟩,
  ⟨0x400F0008, [], false, 0, 0, 0xf, 0, 0, 0, .none⟩,
  ⟨0x400F0010, [], true, 0, 0, 0, 0, 0, 0, .none⟩,
  ⟨0x400F0018, [], false, 0, 0, 0, 0, 0, 0, .none⟩,
  ⟨0x400F001C, [], false, 0, 0, 0, 0, 0, 0, .none⟩,
  ⟨0x400F0020, [], true, 0, 0, 0, 0, 0, 0, .none⟩,
  ⟨0x400F0028, [], false, 0x602, 0xf0f, 0, 0, 0, 0, .none⟩,
  ⟨0x400F002C, [], false, 0x10064, 0xffffff, 0, 0, 0, 0, .none⟩,
  ⟨0x400F0030, [], false, 0, 0, 0, 0, 0, 0, .none⟩,
  ⟨0x400F0034, [], false, 0, 0xffffffff, 0, 0, 0, 0, .none⟩,
  ⟨0x400F0100, [(0x80, 2)], false, 0, 0xfffffff, 0, 0, 0, 0, .none⟩]
def regRows_MER_1 : List RegRow := [
  ⟨0x400F0104, [(0x80, 2)], false, 0, 0, 0, 0, 0, 0, .none⟩,
  ⟨0x400F0108, [(0x80, 2)], false, 0, 0, 0xf, 0, 0, 0, .none⟩,
  ⟨0x400F010C, [(0x80, 2)], true, 0, 0, 0, 0, 0, 0, .none⟩,
  ⟨0x400F0114, [(0x80, 2)], false, 0, 0, 0, 0, 0, 0, .none⟩,
  ⟨0x400F0118, [(0x80, 2)], false, 0x32, 0xffff, 0, 0, 0, 0, .none⟩,
  ⟨0x400F011C, [(0x80, 2)], false, 0x100004, 0xff00ff, 0, 0, 0, 0, .none⟩,
  ⟨0x400F0120, [(0x80, 2)], false, 4, 0xff, 0, 0, 0, 0, .none⟩,
  ⟨0x400F0124, [(0x80, 2)], true, 0, 0, 0, 0, 0, 0, .none⟩,
  ⟨0x400F012C, [(0x80, 2)], false, 0, 0, 0, 0, 0, 0, .none⟩,
  ⟨0x400F0130, [(0x80, 2)], false, 0, 0xffffffff, 0, 0, 0, 0, .none⟩,
  ⟨0x400F0134, [(0x80, 2)], false, 0, 0xffffffff, 0, 0, 0, 0, .none⟩,
  ⟨0x400F0138, [(0x80, 2)], false, 0, 0xffffffff, 0, 0, 0, 0, .none⟩]
/-- The registers of the MER window. -/
def regRows_MER : List RegRow := regRows_MER_0 ++ regRows_MER_1

def regRows_DRC_0 : List RegRow := [
  ⟨0x400A0000, [], false, 0, 0x700, 0, 0, 0, 0x700, .none⟩,
  ⟨0x400A0004, [], false, 0, 3, 0, 4, 0, 0, .none⟩,
  ⟨0x400A0008, [], false, 0xc, 0, 0, 0, 0, 0, .none⟩,
  ⟨0x400A000C, [], false, 0, 0, 0x3f, 0, 0, 0, .none⟩,
  ⟨0x400A0010, [], false, 0xb, 0x1f, 0, 0, 0, 0, .none⟩,
  ⟨0x400A0014, [], false, 0, 0xffffffff, 0, 0, 0, 0, .none⟩,
  ⟨0x400A0018, [], false, 0, 0xffffffff, 0, 0, 0, 0, .none⟩,
  ⟨0x400A001C, [], false, 0, 0xffffffff, 0, 0, 0, 0, .none⟩,
  ⟨0x400A0020, [], false, 0, 0xffffffff, 0, 0, 0, 0, .none⟩,
  ⟨0x400A0024, [], false, 0, 0xffffffff, 0, 0, 0, 0, .none⟩,
  ⟨0x400A0028, [], false, 0, 0xffffffff, 0, 0, 0, 0, .none⟩,
  ⟨0x400A0100, [(4, 16)], false, 0, 0xfffff, 0, 0, 0, 0, .none⟩]
def regRows_DRC_1 : List RegRow := [
  ⟨0x400A0200, [(0x10, 4)], false, 0, 0xffffffff, 0, 0, 0, 0, .sr⟩,
  ⟨0x400A0240, [], false, 0, 0, 0, 0, 0, 0, .act⟩,
  ⟨0x400A0204, [(0x10, 4)], false, 0, 0xffffffff, 0, 0, 0, 0, .sr⟩,
  ⟨0x400A0244, [], false, 0, 0, 0, 0, 0, 0, .act⟩,
  ⟨0x400A0208, [(0x10, 4)], false, 0, 0xffffffff, 0, 0, 0, 0, .sr⟩,
  ⟨0x400A0248, [], false, 0, 0, 0, 0, 0, 0, .act⟩,
  ⟨0x400A020C, [(0x10, 4)], false, 0, 0xffffff, 0, 0, 0, 0, .sr⟩,
  ⟨0x400A024C, [], false, 0, 0, 0, 0, 0, 0, .act⟩]
/-- The registers of the DRC window. -/
def regRows_DRC : List RegRow := regRows_DRC_0 ++ regRows_DRC_1

def regRows_QUE_0 : List RegRow := [
  ⟨0x40091000, [(0x40, 64)], false, 0, 0xfffffff9, 0, 6, 0, 0, .none⟩,
  ⟨0x40091004, [(0x40, 64)], false, 1, 0, 0, 0, 0, 0, .none⟩,
  ⟨0x40091008, [(0x40, 64)], false, 0, 0, 7, 0, 0, 0, .none⟩,
  ⟨0x4009100C, [(0x40, 64)], false, 0, 0xfff, 0, 0, 0, 0, .none⟩,
  ⟨0x40091010, [(0x40, 64)], false, 0, 0x1fff, 0, 0, 0, 0, .none⟩,
  ⟨0x40091014, [(0x40, 64)], false, 0, 0x3fffff, 0, 0, 0, 0, .none⟩,
  ⟨0x40091018, [(0x40, 64)], false, 0, 0x3fffff, 0, 0, 0, 0, .none⟩,
  ⟨0x4009101C, [(0x40, 64)], false, 0, 0xffffffff, 0, 0, 0, 0, .none⟩,
  ⟨0x40091020, [(0x40, 64)], false, 0, 0xffffffff, 0, 0, 0, 0, .none⟩,
  ⟨0x40091024, [(0x40, 64)], false, 0, 0xffffffff, 0, 0, 0, 0, .none⟩,
  ⟨0x40091028, [(0x40, 64)], false, 0, 0xffffffff, 0, 0, 0, 0, .none⟩,
  ⟨0x40092000, [(0x20, 64)], false, 0, 0, 0, 0, 0xffffffff, 0, .none⟩]
def regRows_QUE_1 : List RegRow := [
  ⟨0x40092008, [(0x20, 64)], true, 0, 0, 0, 0, 0xffffffffffffffff, 0, .none⟩,
  ⟨0x40092010, [(0x20, 64)], true, 0, 0, 0, 0, 0, 0, .none⟩,
  ⟨0x40092018, [(0x20, 64)], true, 0, 0, 0, 0, 0, 0, .none⟩]
/-- The registers of the QUE window. -/
def regRows_QUE : List RegRow := regRows_QUE_0 ++ regRows_QUE_1

def regRows_DMA_0 : List RegRow := [
  ⟨0x40081000, [(0x40, 32)], false, 0, 0x1ffffffd, 0, 2, 0, 0, .none⟩,
  ⟨0x40081004, [(0x40, 32)], false, 1, 0, 0, 0, 0, 0, .none⟩,
  ⟨0x40081008, [(0x40, 32)], false, 0, 0, 0x1f, 0, 0, 0, .none⟩,
  ⟨0x4008100C, [(0x40, 32)], true, 0, 0xffffffffffffffff, 0, 0, 0, 0, .none⟩,
  ⟨0x40081014, [(0x40, 32)], false, 0, 0xffff, 0, 0, 0, 0, .none⟩,
  ⟨0x40081018, [(0x40, 32)], false, 0, 0xffffffff, 0, 0, 0, 0, .none⟩,
  ⟨0x4008101C, [(0x40, 32)], false, 0, 0xffffffff, 0, 0, 0, 0, .none⟩,
  ⟨0x40081020, [(0x40, 32)], false, 0, 0xffffffff, 0, 0, 0, 0, .none⟩]
/-- The registers of the DMA window. -/
def regRows_DMA : List RegRow := regRows_DMA_0

def regRows_ICU_0 : List RegRow := [
  ⟨0x40060008, [], false, 0, 0, 3, 0, 0, 0, .none⟩,
  ⟨0x40060100, [(4, 7)], false, 0, 0x3fe, 1, 0, 0, 0, .none⟩,
  ⟨0x4006011C, [], false, 0, 0, 0, 0x7f, 0, 0, .none⟩,
  ⟨0x40060200, [(0x20, 5)], false, 1, 0x1d, 0, 2, 0, 0, .none⟩,
  ⟨0x40060204, [(0x20, 5)], false, 5, 0, 0, 0, 0, 0, .none⟩,
  ⟨0x40060208, [(0x20, 5)], false, 0, 0, 0xf, 0, 0, 0, .none⟩,
  ⟨0x4006020C, [(0x20, 5)], false, 0, 0xffffff, 0, 0, 0, 0, .none⟩,
  ⟨0x40060210, [(0x20, 5)], true, 0, 0xffffffffffffffff, 0, 0, 0, 0, .none⟩,
  ⟨0x40061000, [(0x10, 384)], false, 0, 0xffffffff, 0, 0, 0, 0, .none⟩,
  ⟨0x40061004, [(0x10, 384)], false, 0xffffffff, 0xffffffff, 0, 0, 0, 0, .none⟩,
  ⟨0x40061008, [(0x10, 384)], false, 0, 0, 0, 0, 0, 0, .none⟩,
  ⟨0x4006100C, [(0x10, 384)], false, 0, 0xffffffff, 0, 0, 0, 0, .none⟩]
/-- The registers of the ICU window. -/
def regRows_ICU : List RegRow := regRows_ICU_0

def regRows_EVT_0 : List RegRow := [
  ⟨0x40070008, [], false, 0, 0, 1, 0, 0, 0, .none⟩,
  ⟨0x40070010, [], false, 0, 0, 0, 0, 0xff, 0, .none⟩,
  ⟨0x40070014, [], false, 0, 0xffffffff, 0, 0, 0, 0, .none⟩,
  ⟨0x40070100, [(4, 8)], false, 0, 0, 0xffffffff, 0, 0, 0, .none⟩,
  ⟨0x40070120, [(4, 8)], false, 0, 0, 0, 0, 0, 0, .none⟩,
  ⟨0x40071000, [(0x10, 256)], false, 0x4000401, 0xffffff01, 0, 0, 0, 0, .none⟩,
  ⟨0x40071004, [(0x10, 256)], false, 0, 0xffffffff, 0, 0, 0, 0, .none⟩,
  ⟨0x40071008, [(0x10, 256)], false, 0, 0xffffffff, 0, 0, 0, 0, .none⟩,
  ⟨0x4007100C, [(0x10, 256)], false, 0, 0, 0, 0, 0, 0, .none⟩]
/-- The registers of the EVT window. -/
def regRows_EVT : List RegRow := regRows_EVT_0

def regRows_SYS_0 : List RegRow := [
  ⟨0x40000000, [], false, 0x4c5a6416, 0, 0, 0, 0, 0, .none⟩,
  ⟨0x40000004, [], false, 0x4230, 0, 0, 0, 0, 0, .none⟩,
  ⟨0x40000008, [], false, 0, 0, 1, 0, 0, 0, .none⟩,
  ⟨0x4000000C, [], false, 0, 0, 0x7f, 0, 0, 0, .none⟩,
  ⟨0x40000010, [], false, 0, 0, 0, 0, 0xffffffff, 0, .none⟩,
  ⟨0x40000014, [], false, 0, 0xffff, 0, 0, 0, 0, .none⟩,
  ⟨0x40000018, [], false, 0, 0, 0, 0, 0, 0, .none⟩,
  ⟨0x4000001C, [], false, 0, 0, 0, 0, 0, 0, .none⟩,
  ⟨0x40000020, [], false, 0, 0xffffffff, 0, 0, 0, 0, .none⟩,
  ⟨0x40000400, [(4, 256)], false, 0x20, 0x77, 0, 0, 0, 0, .none⟩,
  ⟨0x40000800, [(4, 8)], false, 0, 0, 0, 0, 0, 0, .none⟩,
  ⟨0x40000820, [(4, 8)], false, 0, 0xffffffff, 0, 0, 0, 0, .none⟩]
def regRows_SYS_1 : List RegRow := [
  ⟨0x40000840, [], false, 0, 0, 0, 0, 0, 0, .none⟩]
/-- The registers of the SYS window. -/
def regRows_SYS : List RegRow := regRows_SYS_0 ++ regRows_SYS_1

def regRows_CFG_0 : List RegRow := [
  ⟨0x40030000, [], false, 1, 1, 0, 2, 0, 0, .none⟩,
  ⟨0x40030004, [], false, 0, 0, 0, 0, 0, 0, .none⟩,
  ⟨0x40030008, [], false, 0, 0, 0x1f, 0, 0, 0, .none⟩,
  ⟨0x4003000C, [], false, 0, 0, 0, 0, 0, 0, .none⟩,
  ⟨0x40030010, [], false, 0, 0, 0, 0, 0, 0, .none⟩,
  ⟨0x40030014, [], false, 0, 0, 0, 0, 0, 0, .none⟩,
  ⟨0x40030018, [], false, 0, 0, 0, 0, 0, 0, .none⟩,
  ⟨0x40030020, [], false, 0, 0xffffffff, 0, 0, 0, 0, .none⟩,
  ⟨0x40030024, [], false, 0, 0, 0, 0, 3, 0, .none⟩,
  ⟨0x40030100, [(4, 64)], false, 0, 0xffffffff, 0, 0, 0, 0, .none⟩]
/-- The registers of the CFG window. -/
def regRows_CFG : List RegRow := regRows_CFG_0

def regRows_PWR_0 : List RegRow := [
  ⟨0x40020000, [], false, 0x200, 7, 0, 8, 0, 0, .none⟩,
  ⟨0x40020004, [], false, 0, 0, 0, 0, 0, 0, .none⟩,
  ⟨0x40020008, [], false, 0, 0, 0x7f, 0, 0, 0, .none⟩,
  ⟨0x4002000C, [], false, 0x1f40035, 0xffff00f7, 0, 0, 0, 0, .none⟩,
  ⟨0x40020010, [], true, 0, 0, 0, 0, 0, 0, .none⟩,
  ⟨0x40020018, [], true, 0x1000040, 0x3ffffffff, 0, 0, 0, 0, .none⟩,
  ⟨0x40020020, [], false, 0x3010a, 0xfffff, 0, 0, 0, 0, .none⟩,
  ⟨0x40020024, [], false, 0, 3, 0, 0, 0, 0, .none⟩,
  ⟨0x40020028, [], false, 0x8050000, 0xffff0007, 0, 0, 0, 0, .none⟩,
  ⟨0x4002002C, [], false, 0x38402bc, 0xffffffff, 0, 0, 0, 0, .none⟩,
  ⟨0x40020030, [], false, 0, 0, 0, 0, 0, 0, .none⟩,
  ⟨0x40020034, [], false, 0x78, 0xff, 0, 0, 0, 0, .none⟩]
def regRows_PWR_1 : List RegRow := [
  ⟨0x40020038, [], false, 0, 0, 0, 0, 0, 0, .none⟩,
  ⟨0x4002003C, [], false, 0, 0xffffffff, 0, 0, 0, 0, .none⟩,
  ⟨0x40020040, [], false, 0, 0xffffffff, 0, 0, 0, 0, .none⟩,
  ⟨0x40020044, [(4, 8)], false, 0, 0xffff, 0, 0, 0, 0, .none⟩]
/-- The registers of the PWR window. -/
def regRows_PWR : List RegRow := regRows_PWR_0 ++ regRows_PWR_1

def regRows_CHN_0 : List RegRow := [
  ⟨0x40050000, [], false, 0, 0xffff, 0, 0, 0, 3, .none⟩,
  ⟨0x40050004, [], false, 0, 0, 0, 0, 0, 0, .none⟩,
  ⟨0x40050008, [], false, 0, 0, 0x1ff, 0, 0, 0, .none⟩,
  ⟨0x4005000C, [], false, 0, 0, 0, 0, 0, 0, .none⟩,
  ⟨0x40050010, [], false, 0, 0xff, 0, 0, 0, 0xff, .none⟩,
  ⟨0x40050014, [], false, 0, 0, 0, 0, 0, 0, .none⟩,
  ⟨0x40050018, [], true, 0, 0, 0, 0, 0, 0, .none⟩,
  ⟨0x40050020, [], false, 0, 0, 0, 0, 0, 0, .none⟩,
  ⟨0x40050024, [], false, 0, 0, 0, 0, 0, 0, .none⟩,
  ⟨0x40050028, [], false, 0, 0xffffffff, 0, 0, 0, 0, .none⟩,
  ⟨0x4005002C, [], false, 0, 0xffffffff, 0, 0, 0, 0, .none⟩,
  ⟨0x40050030, [], false, 0, 0xffffffff, 0, 0, 0, 0, .none⟩]
def regRows_CHN_1 : List RegRow := [
  ⟨0x40050034, [], false, 0, 0xffffffff, 0, 0, 0, 0, .none⟩,
  ⟨0x40050038, [], false, 0, 0xffffffff, 0, 0, 0, 0, .none⟩]
/-- The registers of the CHN window. -/
def regRows_CHN : List RegRow := regRows_CHN_0 ++ regRows_CHN_1

def regRows_SVC_0 : List RegRow := [
  ⟨0x40040000, [], false, 1, 1, 0, 0, 0, 0, .none⟩,
  ⟨0x40040004, [], false, 0, 0, 0, 0, 0, 0, .none⟩,
  ⟨0x40040008, [], false, 0, 0, 0xff, 0, 0, 0, .none⟩,
  ⟨0x4004000C, [], false, 0, 0, 0, 0, 0, 0, .none⟩,
  ⟨0x40040010, [], false, 0, 0, 0, 0, 0, 0, .none⟩,
  ⟨0x40040014, [], true, 0, 0, 0, 0, 0, 0, .none⟩,
  ⟨0x4004001C, [], false, 0, 0, 0, 0, 0, 0, .none⟩,
  ⟨0x40040020, [], false, 0, 0, 0, 0, 0, 0, .none⟩,
  ⟨0x40040024, [], false, 0, 0xffffffff, 0, 0, 0, 0, .none⟩,
  ⟨0x40040028, [], false, 0, 0xffffffff, 0, 0, 0, 0, .none⟩,
  ⟨0x4004002C, [], false, 0, 0xffffffff, 0, 0, 0, 0, .none⟩]
/-- The registers of the SVC window. -/
def regRows_SVC : List RegRow := regRows_SVC_0

def regRows_SPR_0 : List RegRow := [
  ⟨0x40400000, [], false, 0x227, 0x3f3f, 0, 0, 0, 0, .none⟩,
  ⟨0x40400004, [], false, 0, 0, 0, 0, 0, 0, .none⟩,
  ⟨0x40400008, [], false, 0, 0, 0xf, 0, 0, 0, .none⟩,
  ⟨0x4040000C, [], false, 0, 0, 3, 0, 0, 0, .none⟩,
  ⟨0x40400010, [], false, 0, 0, 7, 0, 0, 0, .none⟩,
  ⟨0x40400014, [], false, 0, 0, 7, 0, 0, 0, .none⟩,
  ⟨0x40400020, [], false, 0x5a00258, 0xffffffff, 0, 0, 0, 0, .none⟩,
  ⟨0x40400024, [], false, 0, 0x3f, 0, 0, 0, 0, .none⟩,
  ⟨0x40400028, [], false, 0x10, 0xffff, 0, 0, 0, 0, .none⟩,
  ⟨0x4040002C, [], false, 0, 0xff, 0, 0, 0, 0, .none⟩,
  ⟨0x40400030, [], false, 0, 0, 0, 0, 0, 0, .none⟩,
  ⟨0x40400034, [], false, 0, 0, 0, 0, 0, 0, .none⟩]
def regRows_SPR_1 : List RegRow := [
  ⟨0x40400038, [], false, 0, 0, 0, 0, 0, 0, .none⟩,
  ⟨0x4040003C, [], false, 0, 0xffffffff, 0, 0, 0, 0, .none⟩,
  ⟨0x40400040, [], false, 0, 0xffffffff, 0, 0, 0, 0, .none⟩,
  ⟨0x40400044, [], false, 0, 0xffffffff, 0, 0, 0, 0, .none⟩,
  ⟨0x40400048, [], false, 0, 0xffffffff, 0, 0, 0, 0, .none⟩,
  ⟨0x4040004C, [], false, 0, 0xffffffff, 0, 0, 0, 0, .none⟩,
  ⟨0x40400050, [], false, 0, 0x1f, 0, 0, 0, 0, .none⟩,
  ⟨0x40400054, [], false, 0, 0, 0, 0, 0, 0, .none⟩,
  ⟨0x40400058, [], false, 0x64, 0, 0, 0, 0, 0, .none⟩,
  ⟨0x4040005C, [], false, 0xe10, 0xffffffff, 0, 0, 0, 0, .none⟩,
  ⟨0x40400060, [], false, 0, 0, 0, 0, 0xffff, 0, .none⟩,
  ⟨0x40400064, [], false, 0, 0x3f, 0, 0, 0, 0, .none⟩]
def regRows_SPR_2 : List RegRow := [
  ⟨0x40400068, [], false, 8, 0xff, 0, 0, 0, 0, .none⟩,
  ⟨0x40400100, [(4, 64)], false, 0, 0xffffffff, 0, 0, 0, 0, .none⟩]
/-- The registers of the SPR window. -/
def regRows_SPR : List RegRow := regRows_SPR_0 ++ regRows_SPR_1 ++ regRows_SPR_2

def regRows_ALM_0 : List RegRow := [
  ⟨0x40010000, [], false, 3, 0xf, 0, 0, 0, 0, .none⟩,
  ⟨0x40010004, [], false, 0, 0, 0, 0, 0, 0, .none⟩,
  ⟨0x40010008, [], false, 0, 0, 0x3f, 0, 0, 0, .none⟩,
  ⟨0x40010010, [], true, 0, 0, 0, 0, 0, 0, .none⟩,
  ⟨0x40010018, [], false, 0, 0, 0, 0, 0, 0, .none⟩,
  ⟨0x4001001C, [], true, 0, 0, 0, 0, 0xffffffffffffffff, 0, .none⟩,
  ⟨0x40010024, [], false, 0, 0, 0, 0, 0x7fff, 0, .none⟩,
  ⟨0x40010028, [(8, 2)], true, 0, 0xffffffffffffffff, 0, 0, 0, 0, .none⟩,
  ⟨0x40010038, [], false, 0xe10, 0xffffffff, 0, 0, 0, 0, .none⟩,
  ⟨0x4001003C, [], false, 0, 0, 0, 0, 0, 0, .none⟩,
  ⟨0x40010040, [], false, 0, 0, 0, 0, 0, 0, .none⟩,
  ⟨0x40010044, [], false, 0, 0xf, 0, 0, 0, 0, .none⟩]
def regRows_ALM_1 : List RegRow := [
  ⟨0x40010048, [], true, 0, 0, 0, 0, 0, 0, .none⟩,
  ⟨0x40010050, [], false, 0, 0xffffffff, 0, 0, 0, 0, .none⟩]
/-- The registers of the ALM window. -/
def regRows_ALM : List RegRow := regRows_ALM_0 ++ regRows_ALM_1

/-- The register rows of the 64 KiB window that holds an address. -/
def windowRows (a : Nat) : List RegRow :=
  match a / 0x10000 with
  | 0x400B => regRows_LOG
  | 0x400C => regRows_TRG
  | 0x400D => regRows_FLT
  | 0x4012 => regRows_SLK
  | 0x4013 => regRows_STC
  | 0x4014 => regRows_SEG
  | 0x400E => regRows_MRK
  | 0x4011 => regRows_CDC
  | 0x4010 => regRows_NET
  | 0x400F => regRows_MER
  | 0x400A => regRows_DRC
  | 0x4009 => regRows_QUE
  | 0x4008 => regRows_DMA
  | 0x4006 => regRows_ICU
  | 0x4007 => regRows_EVT
  | 0x4000 => regRows_SYS
  | 0x4003 => regRows_CFG
  | 0x4002 => regRows_PWR
  | 0x4005 => regRows_CHN
  | 0x4004 => regRows_SVC
  | 0x4040 => regRows_SPR
  | 0x4001 => regRows_ALM
  | k => if 0x4020 ≤ k ∧ k ≤ 0x4030 then regRows_PL else []

/-- Whether offset `d` from a row's base falls on one of its instances. -/
def onInstance (pair : Bool) : List (Nat × Nat) → Nat → Bool
  | [], d => d == 0 || (pair && d == 4)
  | (stride, count) :: r, d => decide (d / stride < count) && onInstance pair r (d % stride)

/-- The upper half of a 64-bit value is at offset 4 of its instance. -/
def isUpper : List (Nat × Nat) → Nat → Bool
  | [], d => d == 4
  | (stride, _) :: r, d => isUpper r (d % stride)

/-- The instance numbers that an offset spells. -/
def instancesOf : List (Nat × Nat) → Nat → List Nat
  | [], _ => []
  | (stride, _) :: r, d => d / stride :: instancesOf r (d % stride)

/-- A row holds the address. -/
def RegRow.holds (r : RegRow) (a : Nat) : Bool := decide (r.base ≤ a) && onInstance r.pair r.insts (a - r.base)

/-- The register row of an address, if the map has one there. -/
def rowAt (a : Nat) : Option RegRow := (windowRows a).find? (·.holds a)

/-- The half of a row's 64-bit number that belongs to the address. -/
def halfAt (r : RegRow) (a v : Nat) : Nat :=
  if r.pair && isUpper r.insts (a - r.base) then v / 2 ^ 32 else v % 2 ^ 32

/-- The default target of each DRAM requester, ns (R237). -/
def drcTargetReset : List Nat :=
  [2000, 20000, 8000, 10000, 10000, 1000, 1000, 1000, 1000, 1000, 1000000, 50000, 10000, 5000, 100000, 100000]

/-- The reset value of the register at an address: the table's, or for the few registers whose reset
differs from instance to instance the value their chapter states (R106, R184, R237, R279). -/
def resetOf (a : Nat) : Word :=
  match rowAt a with
  | none => 0
  | some r =>
    let i := instancesOf r.insts (a - r.base)
    let n := i.getD 0 0
    let m := i.getD 1 0
    if r.base = R.PLn_CTXm_CFG 0 0 then (if n < 16 then BitVec.ofNat 32 ((4 * n + m) * 4) else 0)
    else if r.base = R.SEG_Ss_STAT 0 then BitVec.ofNat 32 (1 + n * 0x100)
    else if r.base = R.ICU_HLMh_CTRL 0 then (if n = 0 then 1 else 0)
    else if r.base = R.ICU_HLMh_STAT 0 then (if n = 0 then 5 else 4)
    else if r.base = R.DRC_RQr_QOS 0 then BitVec.ofNat 32 (drcTargetReset.getD n 0)
    else BitVec.ofNat 32 (halfAt r a r.reset)

end Sys2Proof.Machine
end

