-- ==== Sys2Proof/Machine/Tab.lean ====
section
/-! DEFINITION. Sparse tables: lists of (key, value) pairs, keys strictly rising, no entry equal to
what an unlisted key holds. Registers, memory, flash and every per-instance record are kept so. -/
namespace Sys2Proof.Machine

/-- A sparse table. What an unlisted key holds is given at every reading. -/
abbrev Tab (α : Type) := List (Nat × α)

/-- The value a table holds at `k`, `d` where it lists none. -/
def tabGet {α : Type} (d : α) : Tab α → Nat → α
  | [], _ => d
  | (j, v) :: t, k => if j = k then v else tabGet d t k

/-- The table without key `k`. -/
def tabErase {α : Type} : Tab α → Nat → Tab α
  | [], _ => []
  | (j, v) :: t, k => if j = k then tabErase t k else (j, v) :: tabErase t k

/-- The table with `v` listed at `k`. -/
def tabInsert {α : Type} : Tab α → Nat → α → Tab α
  | [], k, v => [(k, v)]
  | (j, w) :: t, k, v =>
    if k < j then (k, v) :: (j, w) :: t
    else if k = j then (k, v) :: t
    else (j, w) :: tabInsert t k v

/-- The table with `v` at `k`, where an unlisted `k` holds `d`: writing `d` removes the entry. -/
def tabSet {α : Type} [DecidableEq α] (d : α) (t : Tab α) (k : Nat) (v : α) : Tab α :=
  if v = d then tabErase t k else tabInsert t k v

/-- Every key of the table lies above `b`. -/
def tabAbove {α : Type} (b : Nat) : Tab α → Bool
  | [] => true
  | (j, _) :: t => decide (b < j) && tabAbove j t

/-- Keys strictly rising. -/
def tabSorted {α : Type} : Tab α → Bool
  | [] => true
  | (j, _) :: t => tabAbove j t

/-- No entry equals what its key holds unlisted. -/
def tabTight {α : Type} [DecidableEq α] (d : Nat → α) : Tab α → Bool
  | [] => true
  | (j, v) :: t => decide (v ≠ d j) && tabTight d t

/-- The canonical form: keys strictly rising and no entry equal to its unlisted value. -/
def tabWf {α : Type} [DecidableEq α] (d : Nat → α) (t : Tab α) : Bool :=
  tabSorted t && tabTight d t

/-- The number of entries whose value satisfies `p`. -/
def tabCount {α : Type} (p : α → Bool) : Tab α → Nat
  | [] => 0
  | (_, v) :: t => (if p v then 1 else 0) + tabCount p t

end Sys2Proof.Machine
end

