-- ==== Sys2Proof/Machine/State.lean ====
section
/-! DEFINITION. The state of the block: its registers (one home for every value software can read),
what each block holds beside them, its memories, and the commands that wait. Plain data throughout. -/
namespace Sys2Proof.Machine

/-! ### Position, triggers, lamps (R27 to R72) -/

/-- What a position channel holds beside its registers (R27 to R45). -/
structure LogChan where
  /-- the count (R31, R33) -/
  count    : Int := 0
  /-- instant of the last accepted edge, ns -/
  lastEdge : Nat := 0
  /-- an edge has been accepted since the channel was enabled -/
  anyEdge  : Bool := false
  /-- edges in the present run: one direction, no standstill and no double change between them (R34) -/
  run      : Nat := 0
  /-- time between the last two edges, ns (R34) -/
  per      : Nat := 0
  /-- the signed fraction in force: frozen at standstill (R34) -/
  frac     : Int := 0
  /-- instant from which the standstill timer runs: last edge or double change (R34) -/
  lastMove : Nat := 0
  /-- instants of the last accepted change of A, B and Z, by their first sample (R30) -/
  chA      : Option Nat := none
  chB      : Option Nat := none
  chZ      : Option Nat := none
  /-- last good SSI value, the baseline (R33) -/
  ssiPrev  : Option Nat := none
  /-- an SSI frame is being clocked (R32) -/
  ssiBusy  : Bool := false
  /-- instant the frame being clocked began, and of the next SSI read (R32) -/
  ssiStart : Nat := 0
  ssiNext  : Nat := 0
  /-- the reference latch, counts (R39) -/
  idxRef   : Option Int := none
  /-- consecutive index errors (R39) -/
  idxErrs  : Nat := 0
  /-- drift history, newest first, 16 entries (R39, R46) -/
  hist     : List Int := []
  /-- edges, net count and direction change of the open speed window (R41, R42) -/
  winEdges : Nat := 0
  winNet   : Int := 0
  winRev   : Bool := false
  /-- instant the open window began -/
  winStart : Nat := 0
  /-- the window before qualified (R42) -/
  lastQual : Bool := false
  /-- the newest sample's SPD_STAT, which a read of LOGn_SPEED latches (R42) -/
  spdStat  : Nat := 0
  deriving DecidableEq, Repr

/-- A drift ramp of LOG_SCALE (R40). -/
structure ScaleRamp where
  start  : Nat
  target : Nat
  done   : Nat
  span   : Nat
  deriving DecidableEq, Repr

/-- The Log's state beside its registers. -/
structure LogSt where
  chan    : Tab LogChan := []
  ramp    : Option ScaleRamp := none
  /-- length in 2^-20 nm, whose whole part is LOG_LENGTH (R15) -/
  lenAcc  : Int := 0
  /-- whole counts of the unit position on the beacon and network sources (R15) -/
  lenCnt  : Int := 0
  /-- the Log holds the position at the limit until the next LOAD (R16) -/
  posHeld : Bool := false
  /-- fabric cycle after the last hit of compare unit m of channel n, at 4n + m (R45) -/
  hits    : Tab Nat := []
  deriving DecidableEq, Repr

/-- One trigger between its crossing and the end of its delivery (R47 to R54). -/
structure Trig where
  k        : Int
  /-- crossing instant and effective instant, ns of the unit's clock -/
  cross    : Nat
  eff      : Nat
  /-- start of its K28.1 (service-channel path) -/
  slot     : Nat
  res      : Nat
  deferred : Bool
  pin      : Bool
  sent     : Bool
  stamped  : Bool
  /-- device-time boundary of its K28.1, and EXP_OFFSET as it was at the crossing (R51) -/
  bnd      : Int := 0
  off      : Int := 0
  /-- an enabled context took the stream when the crossing was issued (R137) -/
  taken    : Bool := true
  deriving DecidableEq, Repr

/-- A stamp table entry (R49, R86). -/
structure Stamp where
  written : Bool := false
  used    : Bool := false
  k       : Int := 0
  time    : Int := 0
  pos     : Int := 0
  /-- the illumination step was limited by SLEW: the line is marked CAL_RAMP (R69) -/
  calRamp : Bool := false
  /-- the stream's illumination gain for the line (R69) -/
  gain    : Nat := 0x4000
  deriving DecidableEq, Repr

/-- A stream's trigger state (R47 to R54). -/
structure TrgStream where
  /-- the last line found its lamp low (R70) -/
  lampLow : Bool := false
  /-- triggers not finished, oldest first -/
  trigs  : List Trig := []
  /-- effective instant of the last trigger issued (R50) -/
  lastE  : Option Nat := none
  /-- the 256 stamps -/
  stamps : Tab Stamp := []
  deriving DecidableEq, Repr

/-- A strobe's state (R55 to R57). -/
structure Strobe where
  /-- starts that wait in time mode, ns -/
  starts    : List Nat := []
  /-- the start that waits in tick mode, ticks -/
  tickStart : Option Int := none
  /-- end of the pulse, ns -/
  endAt     : Nat := 0
  /-- end of the pulse in tick mode, ticks -/
  endPos    : Option Int := none
  deriving DecidableEq, Repr

/-- Position reconstructed from beacons or payloads (R60 to R62). -/
structure Recon where
  /-- a beacon or payload has been taken -/
  valid   : Bool := false
  /-- position and local instant it refers to, and speed in 2^-16 ticks per µs -/
  pos     : Int := 0
  base    : Int := 0
  speed   : Int := 0
  /-- error being absorbed over the 1 µs from `absorb` on -/
  err     : Int := 0
  absorb  : Nat := 0
  /-- local instant the last one was taken -/
  lastRx  : Nat := 0
  still   : Bool := false
  /-- the loss since the last one has been counted (R61) -/
  lost    : Bool := false
  deriving DecidableEq, Repr

/-- The trigger block's state beside its registers. -/
structure TrgSt where
  /-- instant up to which the crossings of the position's own motion have been issued (R48) -/
  posAt   : Nat := 0
  stream  : Tab TrgStream := []
  strobe  : Tab Strobe := []
  recon   : Recon := {}
  /-- device-time boundaries occupied by trigger characters, by service channel: starts of K28.1 (R53) -/
  slots   : Tab (List Int) := []
  /-- beacon sequence (R58) -/
  bcnSeq  : Nat := 0
  /-- instants of the last beacon launched and payload sent -/
  bcnAt   : Nat := 0
  netAt   : Nat := 0
  deriving DecidableEq, Repr

/-- A filter channel's state (R64 to R68). -/
structure FltChan where
  /-- the front section's input at 25 MHz, newest first: number of the 40 ns period and its value, a lamp's bit
  or the sum of a channel's count increments; periods of value 0 are not listed (R64, R65) -/
  raw     : List (Nat × Int) := []
  /-- samples of the final stage's input, newest first, four per output (R65) -/
  line    : List Int := []
  /-- the two user banks: taps by bank × 128 + index (R66) -/
  taps    : Tab Nat := []
  /-- NTAPS of each bank -/
  ntap0   : Nat := 0
  ntap1   : Nat := 0
  /-- output samples made in the running fade (R67) -/
  fadeI   : Nat := 0
  fadeLen : Nat := 0
  /-- output samples made since the restart (R68) -/
  settle  : Nat := 0
  /-- the lamp input shows no transitions (R64) -/
  silent  : Bool := false
  /-- instant of the last output sample -/
  outAt   : Nat := 0
  deriving DecidableEq, Repr

/-- The filter chain's state beside its registers. -/
structure FltSt where
  chan : Tab FltChan := []
  deriving DecidableEq, Repr

/-! ### Lines, links, contexts, correction (R73 to R135) -/

/-- The tag that travels with a line (R99). -/
structure LineTag where
  stream  : Nat := 0
  pl      : Nat := 0
  ctx     : Nat := 0
  lcnt    : Nat := 0
  k       : Int := 0
  time    : Int := 0
  pos     : Int := 0
  nRx     : Nat := 0
  len     : Nat := 0
  short   : Bool := false
  long    : Bool := false
  crc     : Bool := false
  frame   : Bool := false
  poison  : Bool := false
  calRamp : Bool := false
  gain    : Nat := 0x4000
  temp    : Nat := 0x8000
  status  : Nat := 0
  /-- pixel depth of the line's data type (R84) -/
  depth   : Nat := 8
  deriving DecidableEq, Repr

/-- A line packet being received (R82 to R88). -/
structure OpenLine where
  tag    : LineTag
  /-- LEN of the header word, lanes n and words W -/
  hlen   : Nat
  lanes  : Nat
  w      : Nat
  hdr    : List Byte
  /-- payload words received, newest first, words beyond W included (they stay under the CRC) -/
  words  : List (BitVec 64)
  got    : Nat
  poison : Bool
  /-- contexts that admitted the line: pipeline × 4 + context -/
  dests  : List Nat
  /-- the camera port's EN was cleared at this instant while the line was open (R88) -/
  closing : Option Nat
  deriving DecidableEq, Repr

/-- A stream's link state beside its registers. -/
structure LinkStream where
  /-- a packet that delivers no line is being received; `true` is a NULL packet, whose trailer is read (R76, R85) -/
  skim     : Option Bool := none
  opened   : Option OpenLine := none
  /-- previous LINE_CNT, `none` before the first packet judged (R86) -/
  prevLcnt : Option Nat := none
  /-- the camera's drop count last reported (R90) -/
  camDrop  : Option Nat := none
  /-- XOFF (true) and XON (false) requests waiting for the service channel, oldest first (R89) -/
  flowReq  : List Bool := []
  /-- the stream's lanes have been deskewed (R77, R80) -/
  deskewed : Bool := false
  deriving DecidableEq, Repr

/-- A lane's state beside its registers (R73 to R81). -/
structure Lane where
  /-- valid or invalid headers since the last 64-block window began, and invalid ones among them (R78) -/
  shBad    : Nat := 0
  /-- instants of the last invalid headers, newest first, up to 16 -/
  shTimes  : List Nat := []
  /-- in service with EYE at or above EYE_MIN (R75) -/
  service  : Bool := false
  /-- milliseconds for which EYE has stayed below EYE_MIN (R75) -/
  lowMs    : Nat := 0
  /-- previous MCOUNT and its slot (R81) -/
  mcount   : Option Nat := none
  mslot    : Nat := 0
  /-- markers bad in a row (R81) -/
  mbad     : Nat := 0
  /-- lane index its last good marker named (R81) -/
  mlane    : Option Nat := none
  /-- a marker disagreed with the physical order or the port id -/
  misorder : Bool := false
  badId    : Bool := false
  /-- the adaptation failed and repeats from this instant (R75) -/
  failed   : Bool := false
  retryAt  : Nat := 0
  deriving DecidableEq, Repr

/-- A service channel: its command, and the characters still to be sent (R52, R53, R89, R91). -/
structure SvcChan where
  /-- characters of the command frame, with their K flag -/
  frame  : List (Bool × Byte) := []
  /-- characters of flow symbols -/
  flow   : List (Bool × Byte) := []
  /-- data characters of trigger symbols: stream and device-time boundary -/
  sym    : List (Nat × Int × Byte) := []
  /-- the first device-time boundary whose character has not been chosen, and K28.5 is being sent -/
  next   : Int := 0
  idle   : Bool := true
  tag    : Nat := 0
  bcast  : Bool := false
  sentAt : Nat := 0
  vc     : Nat := 0
  deriving DecidableEq, Repr

/-- The link block's state beside its registers. -/
structure SlkSt where
  stream : Tab LinkStream := []
  lane   : Tab Lane := []
  chan   : Tab SvcChan := []
  deriving DecidableEq, Repr

/-- A line in a context FIFO (R98). -/
structure FifoLine where
  tag      : LineTag
  words    : Nat
  pixels   : List Nat
  complete : Bool
  /-- the line has been granted and runs through the front half -/
  granted  : Bool := false
  deriving DecidableEq, Repr

/-- An open statistics tile (R107). -/
structure StatTile where
  tile     : Nat
  lines    : Nat := 0
  excl     : Nat := 0
  hist     : Tab Nat := []
  /-- per-column sums of left-justified pixels over the counted lines -/
  sums     : List Nat := []
  time     : Int := 0
  first    : Int := 0
  last     : Int := 0
  len      : Nat := 0
  depth    : Nat := 8
  g        : Nat := 0
  queue    : Nat := 0
  thr      : Nat := 0
  deriving DecidableEq, Repr

/-- A statistics record waiting for its queue (R109). -/
structure StatRecord where
  queue : Nat
  bytes : List Byte
  deriving DecidableEq, Repr

/-- A ramp of a set, of C or of the black level (R113, R121, R125). -/
structure CalRamp where
  /-- 0 to 7 a set, 15 the C table -/
  set    : Nat := 0
  done   : Nat := 0
  len    : Nat := 16
  deriving DecidableEq, Repr

/-- A line held for self-calibration (R123). -/
structure HeldLine where
  pos : Int
  x3  : List Nat
  /-- bits returned for the two rows that bracket it -/
  lo  : Option Bool := none
  hi  : Option Bool := none
  deriving DecidableEq, Repr

/-- A context's state beside its registers (R95 to R132). -/
structure Ctx where
  fifo      : List FifoLine := []
  /-- STATS_SH or COR_SH written since its hand-over (R8) -/
  pendTile  : Bool := false
  pendLine  : Bool := false
  /-- the tile of the last hand-over, the open statistics tile, the record buffer, and whether its record is at
  the queue (R107 to R109) -/
  tileNo    : Option Nat := none
  tile      : Option StatTile := none
  record    : Option StatRecord := none
  offered   : Bool := false
  /-- calibration sets: set × 32,768 + index, entry as R131 gives; unwritten 0x0000_4000 -/
  sets      : Tab Nat := []
  /-- staging set, C as stored, target of a self-calibration ramp, static map, dynamic list -/
  staging   : Tab Nat := []
  cfac      : Tab Nat := []
  cto       : Tab Nat := []
  static    : List Nat := []
  dynamic   : List Nat := []
  /-- tiles in which an index was a candidate in a row, and absent in a row (R115) -/
  promo     : Tab Nat := []
  demo      : Tab Nat := []
  setRamp   : Option CalRamp := none
  scRamp    : Option CalRamp := none
  /-- the filtered black level, U16.8 (R113) -/
  blk       : Nat := 0
  /-- BLK_FIXED ramp: start, target, grants done, length -/
  blkFrom   : Int := 0
  blkTo     : Int := 0
  blkRamp   : Option CalRamp := none
  /-- the fixed black level in use -/
  blkNow    : Int := 0
  /-- the next counted line is the first after EN or after a change (R113) -/
  firstBlk  : Bool := true
  /-- a valid temperature has been read since EN (R119) -/
  tempSeen  : Bool := false
  /-- θ was outside the set temperatures at the last line (R118) -/
  outRange  : Nat := 0
  /-- lines still to be marked for a changed enable (R122) -/
  markLeft  : Nat := 0
  /-- self-calibration (R123, R124) -/
  decim     : Nat := 0
  held      : List HeldLine := []
  sums      : List Nat := []
  clean     : Nat := 0
  tiles     : Nat := 0
  deriving DecidableEq, Repr

/-- A corrected line as it leaves the front half: up to four planes of active columns, `none` in the columns
that step 6 fills (R128). -/
structure LineOut where
  tag    : LineTag
  planes : List (List (Option Nat))
  /-- pixels of the line whose poison tag is set (R100, R132) -/
  bad    : List Nat := []
  deriving DecidableEq, Repr

/-- A pipeline's front-half state beside its registers. -/
structure Front where
  /-- the granted line runs until this instant, in pipeline clocks turned to ns (R97, R101) -/
  busyTill : Nat := 0
  /-- context and outcome of the line running: it reaches the Reckoner at its end (R98, R106) -/
  running  : Option (Nat × LineOut) := none
  deriving DecidableEq, Repr

/-- All contexts (pipeline × 4 + context) and front halves. -/
structure PlSt where
  ctx   : Tab Ctx := []
  front : Tab Front := []
  deriving DecidableEq, Repr

/-! ### The Reckoner and the stitch (R136 to R157) -/

/-- What is known of a crossing's line (R137). -/
inductive Report where
  | waiting
  | lineless
  | line (l : LineOut)
  deriving DecidableEq, Repr

/-- A run of `n` crossings from index `k` on that the Reckoner has not taken yet. -/
structure Cross where
  k    : Int
  n    : Nat
  eff  : Nat
  ovsp : Bool
  rep  : Report
  /-- planes whose ring write came too late: for them the crossing is lineless (R147) -/
  lost : List Nat := []
  deriving DecidableEq, Repr

/-- A line placed in a plane (R136). -/
structure Placed where
  q      : Int
  time   : Int
  poison : Bool
  calRamp : Bool
  /-- active columns; `none` in those that step 6 fills -/
  vals   : List (Option Nat)
  /-- the ring slot it was written to, in a staggered plane (R146) -/
  slot   : Option Nat := none
  deriving DecidableEq, Repr

/-- The flags of a plane's row or of a Chart column (R142). -/
structure RowFlags where
  stale   : Bool := false
  missing : Bool := false
  ovsp    : Bool := false
  poison  : Bool := false
  calRamp : Bool := false
  deriving DecidableEq, Repr

/-- A decided row of a plane (R139, R140). -/
structure PlaneRow where
  k     : Int
  vals  : List Nat
  time  : Int
  flags : RowFlags
  /-- the lines it takes its value from, which a staggered plane reads back from its ring (R146) -/
  before : Option Placed := none
  after  : Option Placed := none
  deriving DecidableEq, Repr

/-- A plane of a stream in the Reckoner. -/
structure Plane where
  last  : Option Placed := none
  /-- next row to decide; `none` before k0 is known -/
  next  : Option Int := none
  /-- expected positions of overspeed crossings taken since `last` -/
  overs : List Int := []
  /-- decided rows that no Chart row has read yet, lowest first -/
  rows  : List PlaneRow := []
  /-- placed positions of the lines whose ring slots are in use, newest first (R147) -/
  ring  : List Int := []
  /-- ring depth D_p fixed at LOAD, 0 for a plane on chip (R145) -/
  depth : Nat := 0
  /-- where its ring begins in the region of STC_STG_BASE, the bytes of a slot, and the next slot to be written (R146) -/
  base  : Nat := 0
  width : Nat := 0
  slot  : Nat := 0
  /-- the last two lines read back, newest first: their slots and values -/
  back  : List (Nat × List Nat) := []
  deriving DecidableEq, Repr

/-- Sums of the refinement measurement of one camera's overlap (R153). -/
structure Refine where
  rows : Nat := 0
  /-- S(dx, dy) at (dy + 2) × 5 + (dx + 2) -/
  sums : List Nat := []
  /-- the last rows, newest first, at most five: row, whether camera a's and b's are good, and their
  values over the overlap -/
  last : List (Int × Bool × List Nat × Bool × List Nat) := []
  deriving DecidableEq, Repr

/-- A refinement step that waits for its TILE hand-over (R154). -/
structure RefStep where
  tile   : Nat
  across : Int
  along  : Int
  deriving DecidableEq, Repr

/-- A stream in the Reckoner and the stitch. -/
structure Cam where
  /-- crossings not taken, in ascending index -/
  items   : List Cross := []
  planes  : Tab Plane := []
  /-- residual banks: bank × 1,024 + entry, signed 16-bit codes (R156) -/
  resid   : Tab Nat := []
  swapPend : Bool := false
  refine  : Refine := {}
  steps   : List RefStep := []
  deriving DecidableEq, Repr

/-- One column of a Chart row (R150 to R152). -/
structure Col where
  seg   : Nat
  arch  : Nat
  time  : Int
  flags : RowFlags
  deriving DecidableEq, Repr

/-- A Chart row. -/
structure ChartRow where
  k    : Int
  time : Int
  cols : List Col
  deriving DecidableEq, Repr

/-- The Reckoner's state beside its registers. -/
structure StcSt where
  cam    : Tab Cam := []
  /-- k0 has been fixed since the last LOAD, and the next Chart row (R18) -/
  k0     : Option Int := none
  nextRow : Option Int := none
  /-- tile of the last Chart row assembled since k0 was fixed -/
  tile   : Option Nat := none
  deriving DecidableEq, Repr

/-! ### Segmentation and fixes (R158 to R185) -/

/-- Exact accumulators of a piece (R163, R167, R178). -/
structure Acc where
  kFirst : Int
  kLast  : Int
  cFirst : Int
  cLast  : Int
  n      : Nat := 0
  sumV   : Nat := 0
  minV   : Nat := 65535
  maxV   : Nat := 0
  sumD   : Int := 0
  absD   : Nat := 0
  dark   : Nat := 0
  light  : Nat := 0
  strong : Nat := 0
  sumMu  : Nat := 0
  sk     : Int := 0
  sc     : Int := 0
  skk    : Int := 0
  scc    : Int := 0
  skc    : Int := 0
  flags  : RowFlags := {}
  edgeMissing : Bool := false
  chartEdge   : Bool := false
  deriving DecidableEq, Repr

/-- Where parts meet (R168): the edge between slices s − 1 and s, a unit edge toward an abutting neighbour, and
the hand-over row of a slice move. -/
inductive Edge where
  | col (s : Nat)
  | unitLo | unitHi
  | handOver
  deriving DecidableEq, Repr

/-- A run [a, b] of row k at an edge, seen from one side of it: the far side, or the target placement. -/
structure Contact where
  edge : Edge
  far  : Bool
  k    : Int
  a    : Int
  b    : Int
  id   : Nat
  deriving DecidableEq, Repr

/-- A run of weak pixels; `none` belongs to a component that was force-closed (R161, R164). -/
structure Run where
  a  : Int
  b  : Int
  id : Option Nat
  deriving DecidableEq, Repr

/-- An open component (R161 to R164). -/
structure Comp where
  id     : Nat
  /-- accumulators of the current piece; `none` until its first row is accumulated -/
  acc    : Option Acc := none
  /-- first row of the first piece (R171) -/
  firstK : Int
  /-- a strong pixel in any piece so far, and a piece before this one -/
  strong : Bool := false
  cont   : Bool := false
  trunc  : Bool := false
  /-- edges touched so far: the component is a part (R168) -/
  edges  : List Edge := []
  deriving DecidableEq, Repr

/-- A finished piece (R162, R167). -/
structure Piece where
  id     : Nat
  slice  : Nat
  /-- it comes from the old placement of a slice move -/
  old    : Bool := false
  acc    : Acc
  emit   : Int
  cut    : Bool
  strong : Bool
  cont   : Bool
  trunc  : Bool
  edges  : List Edge
  /-- its sum has been merged at the far-side unit, across an edge or a hand-over row (R169, R170) -/
  seam   : Bool := false
  hand   : Bool := false
  deriving DecidableEq, Repr

/-- A defect id in the seam merger. -/
structure Member where
  id     : Nat
  slice  : Nat
  old    : Bool := false
  firstK : Int
  /-- more pieces may come from it -/
  alive  : Bool := true
  strong : Bool := false
  cont   : Bool := false
  /-- it belongs to the chain neighbour on this side -/
  remote : Option Side := none
  /-- the id it stands for in its own slice or unit, and the id it competes with (R169, R171) -/
  root   : Nat := id
  sid    : Nat := id
  /-- a neighbour's id: the row of its first union here, and whether its first row is known (R171) -/
  met    : Option Int := none
  told   : Bool := false
  deriving DecidableEq, Repr

/-- Ids united in the seam merger, and over which kinds of seam (R168, R169). -/
structure Group where
  members : List Member
  edge    : Bool := false
  hand    : Bool := false
  deriving DecidableEq, Repr

/-- Two ids found connected in a row; kind 0 inside a slice, 1 across a slice or unit edge, 2 across a hand-over
row. -/
structure Join where
  x    : Nat
  y    : Nat
  row  : Int
  kind : Nat
  deriving DecidableEq, Repr

/-- What has been emitted of an id that still goes on (R171, R177, R182). -/
structure SegOut where
  id     : Nat
  firstK : Int
  col    : Nat
  rows   : Nat
  queues : List Nat
  deriving DecidableEq, Repr

/-- One placement of a slice: the back half that runs it (R158 to R165). -/
structure Placement where
  /-- μ and σ of each column, U16.8; `none` before the column's first value (R160) -/
  bg       : List (Option (Int × Int)) := []
  /-- rows received since the background started -/
  rows     : Nat := 0
  fifo     : List ChartRow := []
  /-- rows that found the FIFO full (R165) -/
  skips    : List Int := []
  prev     : List Run := []
  prevMiss : List Int := []
  comps    : List Comp := []
  /-- last row labelled or skipped -/
  doneK    : Option Int := none
  /-- parts that touch this row carry TRUNCATED (R175) -/
  truncK   : Option Int := none
  deriving DecidableEq, Repr

/-- A slice: its placement, the target of a move, and its id sequence. -/
structure Slice where
  cur  : Placement := {}
  tgt  : Option Placement := none
  seq  : Nat := 0
  deriving DecidableEq, Repr

/-- A record on its way out (R176, R177). -/
structure Rec where
  emit   : Int
  along  : Int
  col    : Nat
  /-- 0 cancel, 1 segment, 2 fix: the order of types -/
  kind   : Nat
  queues : List Nat
  bytes  : List Byte
  /-- the first queue has been offered the record -/
  sent   : Bool := false
  deriving DecidableEq, Repr

/-- A move in progress (R173 to R175). -/
structure Mig where
  stream : Bool
  src    : Nat
  tgt    : Nat
  ctx    : Nat
  goAt   : Nat
  /-- hand-over row P, or hand-over crossing of a stream move once it is known -/
  p      : Int := 0
  jm     : Option Int := none
  leadUs : Nat := 0
  copied : Bool := false
  drained : Bool := false
  deriving DecidableEq, Repr

/-- What a chain neighbour has sent (R170): rows up to this one have arrived, or were given up as late; and when this
unit labelled the rows whose contacts have not come. -/
structure Neighbour where
  upTo : Option Int := none
  late : Option Int := none
  rows : List (Int × Nat) := []
  deriving DecidableEq, Repr

/-- What a slice found in a row, for the foreground bits (R166): everything, or these weak columns. -/
structure FgRow where
  k     : Int
  slice : Nat
  all   : Bool
  weak  : List (Int × Int)
  deriving DecidableEq, Repr

/-- The times of a Chart row (R151). -/
structure RowTimes where
  k    : Int
  time : Int
  cols : List Int
  deriving DecidableEq, Repr

/-- Segmentation's state beside its registers. -/
structure SegSt where
  slice    : Tab Slice := []
  groups   : List Group := []
  pieces   : List Piece := []
  contacts : List Contact := []
  joins    : List Join := []
  outs     : List SegOut := []
  stage    : List Rec := []
  buffer   : List Rec := []
  /-- when the last record was emitted -/
  lastOut  : Option Nat := none
  /-- tree nodes: bank × 4,096 + index, and the row from which the active bank serves -/
  tree     : Tab Nat := []
  swapRow  : Option Int := none
  mig      : Option Mig := none
  /-- the last stream move's stream and hand-over crossing, until SEG_MIG_P shows its row (R173) -/
  moved    : Option (Nat × Int) := none
  times    : List RowTimes := []
  lo       : Neighbour := {}
  hi       : Neighbour := {}
  /-- sums that go to the operator-side neighbour with the next row's frame (R170) -/
  toLo     : List (List (BitVec 64)) := []
  /-- foreground bits not returned yet: (row, stream, bit) (R166) -/
  fgBits   : List (Int × Nat × Bool) := []
  fgRows   : List FgRow := []
  deriving DecidableEq, Repr

/-! ### Marker heads (R186 to R197) -/

/-- What the cartridge line waits for (R195). -/
inductive CartWait where
  | idle | id | mac | dec
  deriving DecidableEq, Repr

/-- A marker head's state beside its registers. -/
structure Head where
  /-- nozzle bits of the mark lines not loaded yet, by line index -/
  map      : Tab Nat := []
  /-- the line whose bits are shifted in or loaded, or while LAT is active the next one to be -/
  cur      : Nat := 0
  curBits  : Nat := 0
  /-- a load has begun and ends at `loadEnd` -/
  loading  : Bool := false
  loadEnd  : Nat := 0
  /-- LAT and FIRE in progress end here -/
  latEnd   : Nat := 0
  fireEnd  : Nat := 0
  /-- the last start-of-scan at which FIRE pulsed (R191) -/
  lastFire : Option Nat := none
  /-- a FIRE that has not begun: its start-of-scan, the pulse's start, and its set bits (R190, R196) -/
  pulse    : Option (Nat × Nat × Nat) := none
  /-- GEOM_ERR holds FIRE inactive until EN is set again (R186) -/
  geomErr  : Bool := false
  /-- what the cartridge line waits for, and the end of the request (R195) -/
  wait     : CartWait := .idle
  sentAt   : Nat := 0
  /-- ID and COUNT that GET_ID returned, the nonce and the sequence of the session (R195, R196) -/
  newId    : Nat := 0
  newCount : Nat := 0
  nonce    : List Byte := []
  seq      : Nat := 0
  /-- thousands owed; a decrement failed and may have been taken (R196) -/
  owed     : Nat := 0
  unsure   : Bool := false
  /-- instant from which REAUTH and the 1 s retry run -/
  authAt   : Nat := 0
  deriving DecidableEq, Repr

structure MrkSt where
  head : Tab Head := []
  deriving DecidableEq, Repr

/-! ### Codec and capture taps (R198 to R212) -/

/-- A codec engine's state beside its registers. -/
structure Engine where
  /-- the job that runs: its descriptor's address and 64 bytes -/
  desc    : Nat := 0
  job     : Option (List Byte) := none
  /-- rows at which FLUSH ends a block of the running job (R208) -/
  flushes : List Nat := []
  /-- DONE was set by a descriptor with IOC (R266) -/
  doneIoc : Bool := false
  deriving DecidableEq, Repr

/-- A capture tap's state beside its registers (R210). -/
structure Tap where
  /-- the group being averaged, rows taken so far and per-column sums -/
  group : Option Int := none
  rows  : Nat := 0
  sums  : List Nat := []
  /-- rows written since the last publication -/
  wrote : Nat := 0
  /-- the last output row: where it went, what stood there and in TAP_ROW before (R211) -/
  last  : Option (Nat × List Byte × Nat) := none
  deriving DecidableEq, Repr

structure CdcSt where
  engine : Tab Engine := []
  tap    : Tab Tap := []
  deriving DecidableEq, Repr

/-! ### Network ports, flows and the Meridian (R213 to R234) -/

/-- A flow's state beside its registers (R216 to R222). -/
structure Flow where
  /-- item number of the next item taken, and a discard since the last datagram (R217) -/
  itemNo  : Nat := 0
  gap     : Bool := false
  /-- the datagram of the FIX records taken is the first after a discard (R217) -/
  fixGap  : Bool := false
  /-- FIX records taken and not sent, oldest first, the item number of the first and the instant it was taken; the
  packing time has expired (R218) -/
  fix     : List (List Byte) := []
  fixNo   : Nat := 0
  fixAt   : Nat := 0
  fixDue  : Bool := false
  /-- the item being taken or sent: its length in the queue, its number, its bytes read and not sent, bytes still in
  the queue, bytes already sent, and its RAW flag -/
  item    : Option Nat := none
  num     : Nat := 0
  buf     : List Byte := []
  left    : Nat := 0
  off     : Nat := 0
  raw     : Bool := false
  /-- the launch time of the item at the head, not yet come (R222) -/
  launch  : Option Int := none
  /-- the launch time has come: the item goes before every flow not in this case -/
  due     : Bool := false
  deriving DecidableEq, Repr

/-- A network port's state beside its registers. -/
structure Port where
  /-- flow last served at each priority (R219) -/
  rr : Tab Nat := []
  /-- the last instant at which a fault was received (R213), and at which the link was seen to go down (R226) -/
  faultAt : Nat := 0
  downAt  : Nat := 0
  /-- the earliest start of the next frame: the end of the one on the wire, and the gap after it -/
  nextTx  : Nat := 0
  deriving DecidableEq, Repr

/-- A received Announce dataset (R224). -/
structure Foreign where
  prio1 : Nat
  cls   : Nat
  acc   : Nat
  var   : Nat
  prio2 : Nat
  gmId  : Nat
  steps : Nat
  srcId : Nat
  srcPort : Nat
  deriving DecidableEq, Repr

/-- A domain's state beside its registers (R226 to R231). -/
structure Domain where
  best    : Option Foreign := none
  /-- a two-step Sync waits for its Follow_Up: sequence, receipt time and correction -/
  syncSeq : Nat := 0
  syncT2  : Int := 0
  syncCorr : Int := 0
  syncWait : Bool := false
  /-- last Sync: receipt and origin, for the E2E delay -/
  lastT1  : Int := 0
  lastT2  : Int := 0
  lastAt  : Option Nat := none
  /-- instants of the last two samples (R229) -/
  sampleAt : Option Nat := none
  /-- Delay_Req or Pdelay_Req outstanding: sequence and t3 -/
  reqSeq  : Nat := 0
  reqT3   : Int := 0
  reqWait : Bool := false
  /-- mean path delay in 1/16 ns and whether one exists (R230) -/
  delayOk : Bool := false
  /-- outliers in a row on one side -/
  outliers : List Int := []
  above   : Bool := false
  /-- offsets are discarded until a good delay measurement -/
  badDelay : Bool := false
  holdAt  : Nat := 0
  announceAt : Nat := 0
  /-- last o -/
  offset  : Int := 0
  deriving DecidableEq, Repr

/-- The Meridian's state beside its registers. -/
structure MerSt where
  dom      : Tab Domain := []
  /-- fraction of device time, 2^-32 ns (R225) -/
  frac     : Nat := 0
  /-- chain source: samples of the running millisecond, good samples in a row, last sample (R227) -/
  chainSum : Int := 0
  chainN   : Nat := 0
  chainOk  : Nat := 0
  chainAt  : Option Nat := none
  chainStart : Nat := 0
  /-- DISAGREE has exceeded THR since this instant (R231) -/
  disSince : Option Nat := none
  deriving DecidableEq, Repr

structure NetSt where
  port : Tab Port := []
  flow : Tab Flow := []
  deriving DecidableEq, Repr

/-! ### DRAM, queues, DMA (R235 to R260) -/

/-- A DRAM request waiting at the controller (R238): its requester, when it arrived, its address, its data (as many
bytes as it reads), and what the check bits will say. -/
structure DramReq where
  rq    : Nat
  wr    : Bool
  since : Nat
  addr  : Nat
  data  : List Byte
  ecc   : EccResult
  deriving DecidableEq, Repr

/-- A DRAM channel (R239). -/
structure DramChan where
  /-- refreshes postponed, 0 to 8, and refreshes issued -/
  postponed : Nat := 0
  issued    : Nat := 0
  /-- activations accumulated by each bank (R240) -/
  raa       : Tab Nat := []
  deriving DecidableEq, Repr

structure DrcSt where
  chan    : Tab DramChan := []
  /-- requests that wait, oldest first -/
  pend    : List DramReq := []
  /-- TARGET of the change that runs, and of the one that waits (R242) -/
  target  : Nat := 0
  pending : Option Nat := none
  /-- when the change that runs began (R242) -/
  since   : Nat := 0
  /-- the set that runs in INSPECT, to which HOLD returns (R292) -/
  inspSet : Nat := 3
  /-- what the last read issued delivered: its requester, bytes, and 64-bit words with the poison tag (R236) -/
  got     : Option (Nat × List Byte × List Nat) := none
  deriving DecidableEq, Repr

/-- An item in a queue (R245). -/
structure QItem where
  len      : Nat
  prod     : Nat
  /-- data words present and not read, oldest first, with their poison tag -/
  words    : List (BitVec 64 × Bool)
  /-- data words still to be written -/
  toCome   : Nat
  /-- the header has not been read -/
  hdr      : Bool
  /-- its consumer closed it before its last word came: words still to come are discarded -/
  dead     : Bool := false
  deriving DecidableEq, Repr

/-- A producer at a queue's write port or waiting for it (R245, R246): who it is, its producer code, the item's
length, the data words it offers now, and how many it will offer later. -/
structure QWriter where
  src   : Nat
  prod  : Nat
  len   : Nat
  words : List (BitVec 64 × Bool)
  more  : Nat := 0
  /-- the header has been written -/
  begun : Bool := false
  /-- the item was flushed or refused: the rest of its words is discarded (R249) -/
  dead  : Bool := false
  /-- the item was refused at its header, so that its producer knows it was not written (R245, R250) -/
  told  : Bool := false
  deriving DecidableEq, Repr

/-- A queue's state beside its registers. -/
structure Queue where
  items   : List QItem := []
  /-- the producer at the write port, and those that wait behind it -/
  waiting : List QWriter := []
  /-- the consumer has opened the head item -/
  opened  : Bool := false
  /-- the item the consumer had open was flushed (R249) -/
  flushed : Bool := false
  /-- data words of the firmware item still to come, and of one whose rest is discarded -/
  fwLeft  : Nat := 0
  drop    : Nat := 0
  /-- the data words, counted from the next to be read, whose parity bit is wrong (R247) -/
  spoilt  : List Nat := []
  deriving DecidableEq, Repr

structure QueSt where
  queue : Tab Queue := []
  deriving DecidableEq, Repr

/-- A DMA channel's state beside its registers (R252 to R257). -/
structure Dma where
  /-- the descriptor being moved: where it lies, its fields, the bytes it moves in all and has moved -/
  addr    : Nat := 0
  ctrl    : Nat := 0
  src     : Nat := 0
  dst     : Nat := 0
  next    : Nat := 0
  total   : Nat := 0
  moved   : Nat := 0
  /-- SRC_Q: the item has been opened, and its bytes read and not moved -/
  opened  : Bool := false
  buf     : List Byte := []
  /-- DST_Q: the item has been offered to its queue -/
  begun   : Bool := false
  poison  : Bool := false
  trunc   : Bool := false
  emptyAt : Nat := 0
  /-- DONE was set by a descriptor with IOC (R266) -/
  doneIoc : Bool := false
  deriving DecidableEq, Repr

structure DmaSt where
  chan : Tab Dma := []
  /-- channel last served at each priority (R255) -/
  rr   : Tab Nat := []
  deriving DecidableEq, Repr

/-! ### Cores, interrupts, events (R261 to R280) -/

/-- A Helm core: the registers of RV64 in machine and user modes, and the device CSRs (R261, R263). -/
structure Core where
  x         : Tab (BitVec 64) := []
  pc        : BitVec 64 := 0
  user      : Bool := false
  mstatus   : BitVec 64 := 0
  mtvec     : BitVec 64 := 0
  mepc      : BitVec 64 := 0
  mcause    : BitVec 64 := 0
  mtval     : BitVec 64 := 0
  mie       : BitVec 64 := 0
  mip       : BitVec 64 := 0
  mscratch  : BitVec 64 := 0
  mcounteren : BitVec 64 := 0
  mcycle    : BitVec 64 := 0
  minstret  : BitVec 64 := 0
  mcountinhibit : BitVec 64 := 0
  mhpm      : Tab (BitVec 64) := []
  menvcfg   : BitVec 64 := 0
  misa      : BitVec 64 := 0x8000000000101105
  mvendorid : BitVec 64 := 0
  marchid   : BitVec 64 := 0
  mimpid    : BitVec 64 := 0
  mconfigptr : BitVec 64 := 0
  pmpcfg    : Tab (BitVec 64) := []
  pmpaddr   : Tab (BitVec 64) := []
  hvbase    : BitVec 64 := 0
  hclaim    : BitVec 64 := 0
  hrpri     : BitVec 64 := 0
  hpstk     : BitVec 64 := 0
  htimecmp  : BitVec 64 := 0xFFFFFFFFFFFFFFFF
  /-- LR reservation: the 64-byte granule held (R262) -/
  resv      : Option Nat := none
  wfi       : Bool := false
  /-- the core has run since its last reset: RUN then resumes it where it stopped (R265) -/
  started   : Bool := false
  /-- watchdog: the instant it expires -/
  wdogAt    : Option Nat := none
  deriving DecidableEq, Repr

/-- Interrupt state beside the registers. -/
structure IcuSt where
  core   : Tab Core := []
  /-- source offered to each core, plus 1; 0 where none is -/
  offer  : Tab Nat := []
  /-- sources in moderation, and until when (R271) -/
  modTill : Tab Nat := []
  deriving DecidableEq, Repr

/-- An event channel (R275, R276). Instants are event cycles of 4 ns. -/
structure EvtChan where
  /-- the publication to be delivered: cycle due and producer code -/
  pend    : Option (Nat × Nat) := none
  /-- cycle of the last publication, for collisions -/
  pubAt   : Option Nat := none
  lastAt  : Option Nat := none
  /-- storm window: its first cycle, and the merges in it -/
  window  : Option Nat := none
  merges  : Nat := 0
  deriving DecidableEq, Repr

structure EvtSt where
  chan : Tab EvtChan := []
  deriving DecidableEq, Repr

/-! ### Start-up, modes, power (R281 to R303) -/

/-- The transition a mode request runs (R291, R294). -/
inductive Trans where
  | toStandby | toInspect | toService | toHold | fromHold | wakeService
  deriving DecidableEq, Repr

/-- Configuration, mode and power state beside the registers. -/
structure PwrSt where
  /-- the transition that runs, and the request that waits (code of PWR_MODE.REQ) -/
  trans    : Option Trans := none
  pend     : Option Nat := none
  /-- STANDBY follows once SERVICE is reached (R294) -/
  thenStandby : Bool := false
  /-- MOTION came while HOLD was being entered (R292) -/
  exitDue  : Bool := false
  /-- DORMANT: only PD00 has power (R291) -/
  dormant  : Bool := false
  /-- PWR_EN0 to PWR_EN7, and PGOOD0 to PGOOD7 as last seen (R298) -/
  en       : Nat := 0
  pg       : Nat := 0
  /-- the sequencer's step: the rail it waits for, `none` when it does not run -/
  seqRail  : Option Nat := none
  seqAt    : Nat := 0
  /-- sequencing failed at this instant and a retry waits; held low for good -/
  failAt   : Option Nat := none
  heldLow  : Bool := false
  /-- sequencing retries made since the sequencer started (R298) -/
  retries  : Nat := 0
  /-- instant standstill began, for HOLD_DLY (R291) -/
  stillAt  : Option Nat := none
  /-- rails off for THERM until the junction has cooled (R295) -/
  hot      : Bool := false
  /-- power-good instant, for CFG_LOAD_TIME -/
  goodAt   : Nat := 0
  /-- SYS_WDOG's expiry -/
  wdogAt   : Option Nat := none
  /-- AVS: VOUT and PMBus frames are sent; the VOUT_MODE exponent read at LOAD -/
  voutMode : Nat := 0
  /-- a boot is allowed to run: PGOOD0 to PGOOD7 have risen and step 1 waits -/
  bootDue  : Bool := true
  /-- CFG_CTRL.RELOAD was written: steps 7 to 10 are due (R290) -/
  reloadDue : Bool := false
  /-- the image header as step 2 found it good, empty while there is none (R281, R287) -/
  header   : List Byte := []
  /-- PRESENCE_N low -/
  present  : Bool := false
  /-- NV operation running: its code and address (R287) -/
  nvOp     : Option (Nat × Nat) := none
  /-- privileged C tables found at step 6: stream × 32,768 + index (R126, R286) -/
  cTables  : Tab Nat := []
  /-- lengths of those tables, by stream -/
  cLens    : Tab Nat := []
  /-- code of the last reset (R295) -/
  cause    : Nat := 0
  /-- index of the lowest REGS or TABLES entry that failed (R284) -/
  badEntry : Option Nat := none
  deriving DecidableEq, Repr

/-! ### Chain, service port, update (R304 to R330) -/

/-- A relayed command that waits for its response (R311, R315). -/
structure Relayed where
  dest  : Nat
  tag   : Nat
  cmd   : Nat
  /-- the command came from firmware's TXQ rather than the service port -/
  fw    : Bool
  sentAt : Nat
  /-- a privileged command whose presence is watched -/
  priv  : Bool
  deriving DecidableEq, Repr

/-- Chain state beside the registers. -/
structure ChnSt where
  /-- end of LOAD, from which the NO_ADDR wait and the enumeration run -/
  loadEnd  : Option Nat := none
  gotEnum  : Bool := false
  /-- an ENUM that arrived on CHD and waits 100 µs for one on CHU: its payload word and instant -/
  chdEnum  : Option (BitVec 64 × Nat) := none
  round    : Nat := 0
  /-- this head stopped enumerating until its next LOAD (R307) -/
  yielded  : Bool := false
  /-- the beacon side is known since enumeration -/
  sideKnown : Bool := false
  /-- neighbours' COL_BASE and Chart width since the last enumeration, and their port states -/
  nbrU     : Option (Nat × Nat) := none
  nbrD     : Option (Nat × Nat) := none
  /-- ports changed: an enumeration is due (head) or a NEIGH tells it -/
  portNews : Bool := false
  /-- this unit's own segment number as its last LOAD read it (R307) -/
  ownSeg   : Nat := 0
  relayed  : List Relayed := []
  /-- source hop, tag and arrival of the last forwarded command taken, and the port it came in by (R311) -/
  lastFwd  : Option (Nat × Nat × Nat × Side) := none
  deriving DecidableEq, Repr

/-- Who gave a service command: the service port, firmware through TXQ, or the unit at a hop, whose frame came in by
a chain port (R311, R312). -/
inductive Asker where
  | port | fw
  | unit (side : Side) (hop : Nat)
  deriving DecidableEq, Repr

/-- The service command that runs (R312, R314). -/
structure SvcRun where
  cmd  : Nat
  tag  : Nat
  dest : Nat
  by'  : Asker
  deriving DecidableEq, Repr

/-- Service port and update state beside the registers. -/
structure SvcSt where
  run     : Option SvcRun := none
  /-- the package being staged: manifest bytes and pages received (page index → its bytes, read as a number closed by
  a 1) -/
  manifest : List Byte := []
  pages   : Tab Nat := []
  /-- device time of the armed activation (R323) -/
  armed   : Option Nat := none
  /-- step of R321: 0 none, 4 rolling reload, 5 LOAD has loaded PIPE and RELOAD 0 is due (R328) -/
  actStep : Nat := 0
  /-- the pipeline being reloaded has its new PIPE and its work moves back from PL16 (R322) -/
  relBack : Bool := false
  /-- the work moved to PL16: streams with their context, and whether the slice went too -/
  relWork : List (Nat × Nat) := []
  relSlice : Option Nat := none
  /-- BANK record in use: copy number and its 512 bytes -/
  copy    : Nat := 0
  record  : List Byte := []
  /-- HELM part held in shared SRAM for the activation (R321) -/
  helm    : List Byte := []
  deriving DecidableEq, Repr

/-- One-time-programmable contents (R195, R306, R324). -/
structure Otp where
  uid    : Nat := 0
  epoch  : Nat := 0
  secret : List Byte := []
  deriving DecidableEq, Repr

/-! ### Background work and the Almanac (R331 to R355) -/

/-- Error counts of a memory bank (R334). -/
structure BankErr where
  ce   : Nat := 0
  ue   : Nat := 0
  last : Nat := 0
  deriving DecidableEq, Repr

/-- SPR's state beside its registers. -/
structure SprSt where
  bank     : Tab BankErr := []
  /-- scrub passes in which a row showed a correctable error: bank × 256 + row (R335) -/
  passes   : Tab Nat := []
  /-- rows that are candidates already -/
  cands    : List (Nat × Nat) := []
  /-- repair entries in use, its copy and SEQ, and the rows mapped to spares (bank, row, spare) -/
  repair   : List Nat := []
  repCopy  : Nat := 0
  repSeq   : Nat := 0
  spares   : List (Nat × Nat × Nat) := []
  /-- entries still to be written into a new table -/
  newRep   : List Nat := []
  /-- records waiting for the NV log writer: type and payload (R343, R344) -/
  logQ     : List (Nat × List Byte) := []
  /-- current sector (index in the ring), its sequence, the byte at which the next record goes, next record sequence -/
  sector   : Option Nat := none
  sectSeq  : Nat := 0
  sectOff  : Nat := 16
  recSeq   : Nat := 0
  /-- DRAM uncorrectable words per channel since LOAD (R338) -/
  chanUe   : Tab Nat := []
  chanOff  : List Nat := []
  /-- device-time second of the last telemetry record, and since when a record waits for its queue (R345) -/
  teleSec  : Option Int := none
  teleAt   : Option Nat := none
  /-- pipeline whose microcode is being loaded, and the pipelines that hold microcode (R339) -/
  pipe     : Option Nat := none
  loaded   : List Nat := []
  /-- each ageing monitor's margin in the low byte and raw count above it, plus 1; 0: not measured (R347) -/
  age      : Tab Nat := []
  /-- instant at which the running SRAM pass began -/
  sStart   : Nat := 0
  cstAt    : Nat := 0
  loadEnd  : Nat := 0
  deriving DecidableEq, Repr

/-- The Almanac's state beside its registers: it survives every reset of R295 (R353). -/
structure AlmSt where
  sec      : Nat := 0
  sub      : Nat := 0
  /-- the last sample of the seal loop (true: closed), and the log of changes, newest first: second, opened (R352) -/
  lastSeal : Option Bool := none
  seals    : List (Nat × Bool) := []
  /-- device-time second of the last Meridian set (R350) -/
  syncSec  : Option Int := none
  /-- a firmware commit fell in the running tick: the time before it (R350) -/
  fwAt     : Option (Nat × Nat) := none
  deriving DecidableEq, Repr

/-! ### What leaves the block -/

/-- What a command put on a ball, a link or a pin. -/
inductive Out where
  /-- a pulse or level on UTP `u` from an instant, ns, for a width (0: a level that stays) -/
  | utp (u start width : Nat) (level : Bool)
  | strobe (t start : Nat) (on : Bool)
  /-- characters on a service channel from an instant: K flag and byte -/
  | svc (c start : Nat) (chars : List (Bool × Byte))
  | chain (side : Side) (f : ChainFrame)
  | net (n : Nat) (frame : List Byte)
  /-- the frame that a network port was sending is cut, and leaves the wire as an errored frame (R215) -/
  | netCut (n : Nat)
  | port (frame : List Byte)
  | ident (n : Nat) (bytes : List Byte)
  | nozzles (n : Nat) (bits : List Bool)
  | lat (n start width : Nat)
  | fire (n start width : Nat) (low : Bool)
  | flowPin (u : Nat) (level : Bool)
  | pmbus (rail cmd : Nat) (data : List Byte)
  | rails (en : Nat)
  | ssi (n bits : Nat)
  | seal
  deriving DecidableEq, Repr

/-- Everything the block holds but its memories and its queue of commands. -/
structure Dev where
  /-- every register, by address; an unlisted one holds its reset value -/
  regs   : Tab Word := []
  /-- upper halves latched by the last read of each _LO (R4) -/
  hi     : Tab Word := []
  /-- lower halves staged by a write of _LO, plus 1; 0 where none is staged (R4) -/
  staged : Tab Nat := []
  /-- what the last read or atomic answered -/
  rdata  : Word := 0
  /-- of the last read of memory, its bytes 4 to 7 -/
  rdataHi : Word := 0
  /-- the unit's own clock, ns since reset -/
  now    : Nat := 0
  /-- MODEL: how many free values have been drawn -/
  draws  : Nat := 0
  /-- what the last command put out -/
  out    : List Out := []
  log    : LogSt := {}
  trg    : TrgSt := {}
  flt    : FltSt := {}
  slk    : SlkSt := {}
  pl     : PlSt := {}
  stc    : StcSt := {}
  seg    : SegSt := {}
  mrk    : MrkSt := {}
  cdc    : CdcSt := {}
  net    : NetSt := {}
  mer    : MerSt := {}
  drc    : DrcSt := {}
  que    : QueSt := {}
  dma    : DmaSt := {}
  icu    : IcuSt := {}
  evt    : EvtSt := {}
  pwr    : PwrSt := {}
  chn    : ChnSt := {}
  svc    : SvcSt := {}
  spr    : SprSt := {}
  alm    : AlmSt := {}
  otp    : Otp := {}
  /-- blocks whose EN was set again while they drained (R9): the enable fields' addresses -/
  restart : List Nat := []
  deriving DecidableEq, Repr

/-- Bytes by address, sorted, listing no byte that equals what an unlisted address reads as (R2). -/
abbrev Memory := List Host.Cell

/-- What a byte of memory that nothing has written reads as. DESIGN CHOICE (log entry 2): the manual
gives no contents after reset. -/
def memInit : Byte := 0

/-- What a byte of flash that nothing has programmed reads as. PRESUMED (log entry 3): erased NOR flash. -/
def nvInit : Byte := 0xFF

/-- The canonical form of the memory. -/
def Memory.wf (m : Memory) : Bool := tabWf (fun _ => memInit) m

/-- The canonical form of the flash. -/
def Memory.wfNv (m : Memory) : Bool := tabWf (fun _ => nvInit) m

/-- The state of the block. -/
structure State where
  /-- commands that wait, first in first out -/
  pending : List Instr := []
  /-- boot ROM, TCMs, shared SRAM and DRAM at their addresses in the memory map (R2) -/
  mem     : Memory := []
  /-- the NOR flash: the configuration image and its stores (R281) -/
  nv      : Memory := []
  dev     : Dev := {}
  deriving DecidableEq, Repr

/-- Why the block can stop. No rule of the manual stops the block: a refused access, a bad frame and a
failed check all have effects of their own. The one constructor is raised by no meaning. -/
inductive Fault where
  /-- raised by no meaning: it keeps the type inhabited; safe -/
  | halted
  deriving DecidableEq, Repr

/-- Why a command can be refused. -/
inductive Refusal where
  /-- raised by `exec` alone, for a command that has no meaning yet; safe -/
  | notModelled (mnemonic : String)
  deriving DecidableEq, Repr

/-- Registers that differ from their table's value right after a power-on reset: SYS_RST_CAUSE reads the
POR bit only (R295), and PWR_PD_STAT shows the domains that R296 has on in LOAD, H4 and PL16 off (R297). -/
def resetRegs : Tab Word :=
  [(R.SYS_RST_CAUSE, 1), (R.PWR_PD_STAT, 0xFEFFFFBF), (R.PWR_PD_STAT + 4, 3)]

/-- The block right after a power-on reset: mode LOAD, nothing in memory, nothing waiting.
DESIGN CHOICE, log entry 4. DESIGN CHOICE, log entry 8. DEDUCED, log entry 9. DESIGN CHOICE, log entry 10.
DEDUCED, log entry 97. -/
def State.reset : State := { dev := { regs := resetRegs } }

end Sys2Proof.Machine
end

