-- ==== Sys2Proof/Machine/Ops.lean ====
section
/-! DEFINITION. The named operations every meaning is written with: reading and writing fields of registers,
flags with their interrupt count and publication, counters, time, memory and flash. -/
namespace Sys2Proof.Machine

/-! ### Registers and fields -/

/-- The word a register holds. -/
def Dev.reg (d : Dev) (a : Nat) : Word := tabGet (resetOf a) d.regs a

/-- The register at `a` made to hold `w`. -/
def Dev.setReg (d : Dev) (a : Nat) (w : Word) : Dev := { d with regs := tabSet (resetOf a) d.regs a w }

/-- The 64 bits of a value held over _LO and _HI (R4). -/
def Dev.wide (d : Dev) (a : Nat) : BitVec 64 := d.reg (a + 4) ++ d.reg a

/-- The lower half of a 64-bit value staged by a write of its _LO (R4). -/
def Dev.stage (d : Dev) (lo : Nat) (v : Word) : Dev := { d with staged := tabSet 0 d.staged lo (v.toNat + 1) }

/-- The lower half that a write of _HI commits: the staged one, `held` where none is staged (R4). -/
def Dev.lower (d : Dev) (lo : Nat) (held : Word) : Word :=
  let s := tabGet 0 d.staged lo
  if s = 0 then held else BitVec.ofNat 32 (s - 1)

/-- The two halves that a write of _HI commits (R4). -/
def Dev.joined (d : Dev) (lo : Nat) (hi : Word) : BitVec 64 := hi ++ d.lower lo (d.reg lo)

/-- The staged half is used up. -/
def Dev.unstage (d : Dev) (lo : Nat) : Dev := { d with staged := tabErase d.staged lo }

/-- The value of a field, unsigned. -/
def Dev.val (d : Dev) (f : Fld) : Nat :=
  if f.lo + f.len ≤ 32 then fieldOf (d.reg f.addr) f.lo f.len else fieldOf (d.wide f.addr) f.lo f.len

/-- The value of a field, signed two's complement. -/
def Dev.vali (d : Dev) (f : Fld) : Int := toSigned f.len (d.val f)

/-- A one-bit field is set. -/
def Dev.on (d : Dev) (f : Fld) : Bool := d.val f != 0

/-- The field made to hold `v`, its low bits. -/
def Dev.put (d : Dev) (f : Fld) (v : Nat) : Dev :=
  if f.lo + f.len ≤ 32 then d.setReg f.addr (withField (d.reg f.addr) f.lo f.len v)
  else
    let w := withField (d.wide f.addr) f.lo f.len v
    (d.setReg f.addr (w.extractLsb' 0 32)).setReg (f.addr + 4) (w.extractLsb' 32 32)

/-- The field made to hold a signed value. -/
def Dev.puti (d : Dev) (f : Fld) (v : Int) : Dev := d.put f (fromSigned f.len v)

/-- The field made to hold a signed value, held at its limits. -/
def Dev.putSat (d : Dev) (f : Fld) (v : Int) : Dev :=
  d.puti f (clampI (-(2 ^ (f.len - 1))) (2 ^ (f.len - 1) - 1) v)

/-- The one-bit field set, or cleared. -/
def Dev.mark (d : Dev) (f : Fld) (b : Bool) : Dev := d.put f (b2n b)

/-- A counter after `k` more increments; it saturates (R6). -/
def Dev.bump (d : Dev) (f : Fld) (k : Nat) : Dev := d.put f (satAdd (d.val f) k)

/-- A counter after one increment (R6). -/
def Dev.inc (d : Dev) (f : Fld) : Dev := d.bump f 1

/-! ### Events (R274 to R276) -/

/-- An event channel's state. -/
def Dev.evch (d : Dev) (k : Nat) : EvtChan := tabGet {} d.evt.chan k

def Dev.setEvch (d : Dev) (k : Nat) (c : EvtChan) : Dev :=
  { d with evt := { d.evt with chan := tabSet {} d.evt.chan k c } }

/-- The event cycle of an instant: the EVT runs at 250 MHz (R274). -/
def cycleOf (t : Nat) : Nat := t / 4

/-- SPACING in force: 0 acts as 1 (R275). -/
def Dev.evSpacing (d : Dev) (k : Nat) : Nat := max 1 (d.val (F.EVT_CHk_CFG_SPACING k))

/-- A merge in cycle `t`: it opens a storm window of 250,000 cycles unless one is open, and is counted in it (R276). -/
def EvtChan.merged (c : EvtChan) (t : Nat) : EvtChan :=
  let openW := match c.window with
    | some w => decide (t < w + 250000)
    | none => false
  if openW then { c with merges := c.merges + 1 } else { c with window := some t, merges := 1 }

/-- A merge; STORM_LIMIT merges in one window disable the channel (R276). -/
def Dev.evMerge (d : Dev) (k : Nat) (t : Nat) : Dev :=
  let c := (d.evch k).merged t
  let lim := d.val (F.EVT_CHk_CFG_STORM_LIMIT k)
  if lim ≠ 0 ∧ lim ≤ c.merges then
    let d := d.setEvch k { c with pend := none }
    let d := (d.mark (F.EVT_CHk_CFG_EN k) false).mark (F.EVT_CHk_CFG_PEND k) false
    let d := d.put ⟨R.EVT_STORMw (k / 32), k % 32, 1⟩ 1
    d.put F.EVT_FLAG_STORM 1
  else d.setEvch k c

/-- A publication on channel `k` with a producer code (R275, rules 1 to 4), without the ICU's part.
DEDUCED, log entry 80. -/
def Dev.publishRaw (d : Dev) (k code : Nat) : Dev :=
  let t := cycleOf d.now
  let c := d.evch k
  if ¬ d.on (F.EVT_CHk_CFG_EN k) then d.inc F.EVT_DISC_CNT
  else if c.pubAt = some t then d.inc (F.EVT_CHk_COLLIDE_CNT k)
  else
    let c := { c with pubAt := some t }
    match c.pend with
    | some p =>
      ((d.setEvch k { c with pend := some (p.1, code) }).inc (F.EVT_CHk_MERGE_CNT k)).evMerge k t
    | none =>
      let soonest := match c.lastAt with
        | some l => l + d.evSpacing k
        | none => 0
      if soonest ≤ t + 1 then d.setEvch k { c with pend := some (t + 1, code) }
      else
        let d := d.setEvch k { c with pend := some (soonest, code) }
        ((d.mark (F.EVT_CHk_CFG_PEND k) true).inc (F.EVT_CHk_MERGE_CNT k)).evMerge k t

/-! ### Flags and interrupt sources (R5, R266 to R268) -/

/-- The instance index `i` when address `a` is `base + i * stride` with `i < n`. -/
def instOf (a base stride n : Nat) : Option Nat :=
  if base ≤ a ∧ (a - base) % stride = 0 ∧ (a - base) / stride < n then some ((a - base) / stride) else none

/-- The interrupt source of a flag register, and whether it is of the source's second kind (R267). -/
def flagSource (a : Nat) : Option (Nat × Bool) :=
  let one (base : Nat) (src : Nat) : Option (Nat × Bool) := if a = base then some (src, false) else none
  let many (base stride n : Nat) (f : Nat → Nat) (second : Bool) : Option (Nat × Bool) :=
    (instOf a base stride n).map (fun i => (f i, second))
  match a / 0x10000 with
  | 0x4000 => one R.SYS_FLAG 0
  | 0x4003 => one R.CFG_FLAG 1
  | 0x4002 => one R.PWR_FLAG 2
  | 0x4001 => one R.ALM_FLAG 3
  | 0x4004 => one R.SVC_FLAG 4
  | 0x4005 => one R.CHN_FLAG 5
  | 0x4007 => one R.EVT_FLAG 6
  | 0x4006 => (one R.ICU_FLAG 7).or ((many (R.ICU_HLMh_FLAG 0) 0x20 5 (372 + ·) false).or
      (many (R.ICU_SWIj 0) 4 7 (377 + ·) false))
  | 0x400B => (one R.LOG_FLAG 8).or (many (R.LOGn_FLAG 0) 0x100 32 (9 + ·) false)
  | 0x400C => (one R.TRG_FLAG 41).or (many (R.TRGs_FLAG 0) 0x40 64 (fun s => 42 + s / 4) false)
  | 0x400D => many (R.FLTc_FLAG 0) 0x40 48 (fun c => 58 + c / 2) false
  | 0x4012 => (many (R.SLK_Ll_FLAG 0) 0x40 64 (fun l => 82 + l / 4) false).or
      ((many (R.SLK_CPp_FLAG 0) 0x40 16 (82 + ·) true).or
      ((many (R.SLK_Ss_FLAG 0) 0x80 64 (98 + ·) false).or (many (R.SLK_CSc_FLAG 0) 0x40 16 (162 + ·) false)))
  | 0x4013 => many (R.STC_CAMs_FLAG 0) 0x80 64 (fun s => 246 + s / 2) false
  | 0x4014 => (one R.SEG_FLAG 278).or (many (R.SEG_Ss_FLAG 0) 0x80 16 (279 + ·) false)
  | 0x400E => many (R.MRKn_FLAG 0) 0x100 16 (295 + ·) false
  | 0x4011 => (many (R.CDC_En_FLAG 0) 0x40 4 (311 + ·) false).or
      (many (R.CDC_TAPt_FLAG 0) 0x40 8 (fun _ => 315) false)
  | 0x400F => (one R.MER_FLAG 316).or (many (R.MER_Dd_FLAG 0) 0x80 2 (317 + ·) false)
  | 0x4010 => (many (R.NETn_FLAG 0) 0x80 8 (319 + ·) false).or
      (many (R.NET_Ff_FLAG 0) 0x80 32 (fun f => 327 + f / 8) false)
  | 0x400A => one R.DRC_FLAG 331
  | 0x4009 => many (R.QUE_Qq_FLAG 0) 0x40 64 (fun q => 332 + q / 16) false
  | 0x4008 => many (R.DMA_Cc_FLAG 0) 0x40 32 (336 + ·) false
  | 0x4040 => many R.SPR_FLAG0 4 4 (368 + ·) false
  | w =>
    if 0x4020 ≤ w ∧ w ≤ 0x4030 then
      let n := w - 0x4020
      (many (R.PLn_CTXm_FLAG n 0) 0x80 4 (fun m => 178 + 4 * n + m) false).or
        (many (R.PLn_CTXm_CAL_FLAG n 0) 0x100 4 (fun m => 178 + 4 * n + m) true)
    else none

/-- A masked member bit of source `i` went from 0 to 1: CNT adds 1 up to 15, and with PUB = 1 the ICU
publishes with producer code 0x0C (R266, R268). -/
def Dev.memberRiseOnce (d : Dev) (i bit : Nat) : Dev :=
  if ¬ (d.val (F.ICU_SRCi_MASK i)).testBit bit then d
  else
    let d := d.put (F.ICU_SRCi_STAT_CNT i) (min 15 (d.val (F.ICU_SRCi_STAT_CNT i) + 1))
    if d.on (F.ICU_SRCi_CFG_PUB i) then d.publishRaw (d.val (F.ICU_SRCi_CFG_EVC i)) 0x0C else d

/-- The rise, and the rise of EVT_FLAG.STORM (source 6) when its publication brought a storm (R276). -/
def Dev.memberRise (d : Dev) (i bit : Nat) : Dev :=
  let d' := d.memberRiseOnce i bit
  if ¬ d.on F.EVT_FLAG_STORM ∧ d'.on F.EVT_FLAG_STORM then d'.memberRiseOnce 6 0 else d'

/-- A sticky flag set (R5), with its source's count and publication when it rises (R266, R268). -/
def Dev.raise (d : Dev) (f : Fld) : Dev :=
  if d.on f then d
  else
    let d := d.put f 1
    match flagSource f.addr with
    | some (i, second) => d.memberRise i (f.lo + if second then 16 else 0)
    | none => d

/-- A DONE flag set by a descriptor (R205, R253, R266): it contributes to its source only when the descriptor has
IOC; `was` says that an earlier one with IOC still stands. -/
def Dev.raiseDone (d : Dev) (f : Fld) (ioc was : Bool) : Dev :=
  let d := d.put f 1
  if ioc && ! was then
    match flagSource f.addr with
    | some (i, second) => d.memberRise i (f.lo + if second then 16 else 0)
    | none => d
  else d

/-- The flag raised when `b` holds. -/
def Dev.raiseIf (d : Dev) (b : Bool) (f : Fld) : Dev := if b then d.raise f else d

/-- A publication (R275); a storm that it brings raises EVT_FLAG.STORM, source 6 (R276). -/
def Dev.publish (d : Dev) (k code : Nat) : Dev :=
  let was := d.on F.EVT_FLAG_STORM
  let d := d.publishRaw k code
  if ¬ was ∧ d.on F.EVT_FLAG_STORM then d.memberRise 6 0 else d

/-- The SYS access-error flag, with the address and the count (R2, R301). -/
def Dev.accessErr (d : Dev) (a : Nat) : Dev :=
  ((d.raise F.SYS_FLAG_ACCESS_ERR).put F.SYS_ERR_ADDR a).inc F.SYS_ACCESS_CNT

/-! ### Time (R225, R229) -/

/-- Device time, ns. -/
def Dev.devTime (d : Dev) : Int := d.vali F.MER_TIME

/-- Device time advanced by `n` ns of REFCLK, at 1 + (freq + slew) / 16e9 ns per ns (R225, R229). -/
def Dev.runDevTime (d : Dev) (n : Nat) : Dev :=
  let rate : Int := 16000000000 + d.vali F.MER_FREQ + d.vali F.MER_SLEW
  let acc : Int := d.devTime * 2 ^ 32 + d.mer.frac + (n : Int) * rate * 2 ^ 32 / 16000000000
  { d.puti F.MER_TIME (acc / 2 ^ 32) with mer := { d.mer with frac := (acc % 2 ^ 32).toNat } }

/-- The clock brought to instant `t`; an instant already past leaves it where it is. DESIGN CHOICE, log entry 113. -/
def Dev.reach (d : Dev) (t : Nat) : Dev :=
  if t ≤ d.now then d else { d.runDevTime (t - d.now) with now := t }

/-- The device time that the unit's clock shows at instant `t`. -/
def Dev.devTimeAt (d : Dev) (t : Nat) : Int :=
  if t ≤ d.now then d.devTime - ((d.now - t : Nat) : Int) else (d.reach t).devTime

/-! ### Blocks with an EN and an IDLE bit (R9) -/

/-- The block takes in work: enabled, not stopped, and no drain holds a new EN back. -/
def Dev.runs (d : Dev) (en idle : Fld) : Bool := d.on en && ! d.on idle && ! d.restart.contains en.addr

/-- The block drains: EN was cleared and IDLE is not set yet (R9). -/
def Dev.drains (d : Dev) (en idle : Fld) : Bool := ! d.on idle && (! d.on en || d.restart.contains en.addr)

/-- EN is cleared: the block stops taking in work (R9). -/
def Dev.stopIntake (d : Dev) (en : Fld) : Dev :=
  { d.mark en false with restart := d.restart.filter (· != en.addr) }

/-- EN is set. At once when the block is stopped; during a drain it waits for IDLE (R9). The answer says
whether intake begins now. DEDUCED, log entry 47. -/
def Dev.startIntake (d : Dev) (en idle : Fld) : Dev × Bool :=
  if d.on idle then ((d.mark en true).mark idle false, true)
  else if d.on en then (d, false)
  else ({ d.mark en true with restart := d.restart ++ [en.addr] }, false)

/-- The drain is over: IDLE is set, and an EN set meanwhile takes effect, which clears it again (R9). -/
def Dev.drained (d : Dev) (en idle : Fld) : Dev × Bool :=
  if d.restart.contains en.addr then ({ d with restart := d.restart.filter (· != en.addr) }.mark idle false, true)
  else if d.on en then (d, false)
  else (d.mark idle true, false)

/-- ABORT's part that every block shares: EN cleared and IDLE set in the same clock (R9). -/
def Dev.abortBits (d : Dev) (en idle : Fld) : Dev := (d.stopIntake en).mark idle true

/-! ### Modes and domains (R291, R296) -/

/-- The present mode: 1 STANDBY, 2 LOAD, 3 INSPECT, 4 HOLD, 5 SERVICE (R303). -/
def Dev.mode (d : Dev) : Nat := d.val F.PWR_MODE_CUR

/-- The power domain is on (R297). -/
def Dev.powered (d : Dev) (k : Nat) : Bool := bitOf (d.val F.PWR_PD_STAT) k

/-! ### Free values -/

/-- A fresh free value (DESIGN CHOICE, log entry 5). -/
def Dev.draw (d : Dev) : BitVec 64 × Dev := (Config.freeValue d.draws, { d with draws := d.draws + 1 })

/-! ### Outputs -/

/-- The block puts something out. -/
def Dev.emit (d : Dev) (o : Out) : Dev := { d with out := d.out ++ [o] }

/-! ### Per-instance records -/

def Dev.logch (d : Dev) (n : Nat) : LogChan := tabGet {} d.log.chan n
def Dev.setLogch (d : Dev) (n : Nat) (c : LogChan) : Dev := { d with log := { d.log with chan := tabSet {} d.log.chan n c } }
def Dev.trgs (d : Dev) (s : Nat) : TrgStream := tabGet {} d.trg.stream s
def Dev.setTrgs (d : Dev) (s : Nat) (c : TrgStream) : Dev := { d with trg := { d.trg with stream := tabSet {} d.trg.stream s c } }
def Dev.stb (d : Dev) (t : Nat) : Strobe := tabGet {} d.trg.strobe t
def Dev.setStb (d : Dev) (t : Nat) (c : Strobe) : Dev := { d with trg := { d.trg with strobe := tabSet {} d.trg.strobe t c } }
def Dev.fltc (d : Dev) (c : Nat) : FltChan := tabGet {} d.flt.chan c
def Dev.setFltc (d : Dev) (c : Nat) (x : FltChan) : Dev := { d with flt := { d.flt with chan := tabSet {} d.flt.chan c x } }
def Dev.lane (d : Dev) (l : Nat) : Lane := tabGet {} d.slk.lane l
def Dev.setLane (d : Dev) (l : Nat) (x : Lane) : Dev := { d with slk := { d.slk with lane := tabSet {} d.slk.lane l x } }
def Dev.lstr (d : Dev) (s : Nat) : LinkStream := tabGet {} d.slk.stream s
def Dev.setLstr (d : Dev) (s : Nat) (x : LinkStream) : Dev := { d with slk := { d.slk with stream := tabSet {} d.slk.stream s x } }
def Dev.svch (d : Dev) (c : Nat) : SvcChan := tabGet {} d.slk.chan c
def Dev.setSvch (d : Dev) (c : Nat) (x : SvcChan) : Dev := { d with slk := { d.slk with chan := tabSet {} d.slk.chan c x } }
/-- The context PLn CTXm is record 4n + m. -/
def Dev.ctx (d : Dev) (n m : Nat) : Ctx := tabGet {} d.pl.ctx (4 * n + m)
def Dev.setCtx (d : Dev) (n m : Nat) (x : Ctx) : Dev := { d with pl := { d.pl with ctx := tabSet {} d.pl.ctx (4 * n + m) x } }
def Dev.front (d : Dev) (n : Nat) : Front := tabGet {} d.pl.front n
def Dev.setFront (d : Dev) (n : Nat) (x : Front) : Dev := { d with pl := { d.pl with front := tabSet {} d.pl.front n x } }
def Dev.cam (d : Dev) (s : Nat) : Cam := tabGet {} d.stc.cam s
def Dev.setCam (d : Dev) (s : Nat) (x : Cam) : Dev := { d with stc := { d.stc with cam := tabSet {} d.stc.cam s x } }
def Dev.slice (d : Dev) (s : Nat) : Slice := tabGet {} d.seg.slice s
def Dev.setSlice (d : Dev) (s : Nat) (x : Slice) : Dev := { d with seg := { d.seg with slice := tabSet {} d.seg.slice s x } }
def Dev.head (d : Dev) (n : Nat) : Head := tabGet {} d.mrk.head n
def Dev.setHead (d : Dev) (n : Nat) (x : Head) : Dev := { d with mrk := { d.mrk with head := tabSet {} d.mrk.head n x } }
def Dev.eng (d : Dev) (e : Nat) : Engine := tabGet {} d.cdc.engine e
def Dev.setEng (d : Dev) (e : Nat) (x : Engine) : Dev := { d with cdc := { d.cdc with engine := tabSet {} d.cdc.engine e x } }
def Dev.tapc (d : Dev) (t : Nat) : Tap := tabGet {} d.cdc.tap t
def Dev.setTap (d : Dev) (t : Nat) (x : Tap) : Dev := { d with cdc := { d.cdc with tap := tabSet {} d.cdc.tap t x } }
def Dev.nport (d : Dev) (n : Nat) : Port := tabGet {} d.net.port n
def Dev.setNport (d : Dev) (n : Nat) (x : Port) : Dev := { d with net := { d.net with port := tabSet {} d.net.port n x } }
def Dev.nflow (d : Dev) (f : Nat) : Flow := tabGet {} d.net.flow f
def Dev.setNflow (d : Dev) (f : Nat) (x : Flow) : Dev := { d with net := { d.net with flow := tabSet {} d.net.flow f x } }
def Dev.dom (d : Dev) (i : Nat) : Domain := tabGet {} d.mer.dom i
def Dev.setDom (d : Dev) (i : Nat) (x : Domain) : Dev := { d with mer := { d.mer with dom := tabSet {} d.mer.dom i x } }
def Dev.dch (d : Dev) (c : Nat) : DramChan := tabGet {} d.drc.chan c
def Dev.setDch (d : Dev) (c : Nat) (x : DramChan) : Dev := { d with drc := { d.drc with chan := tabSet {} d.drc.chan c x } }
def Dev.queue (d : Dev) (q : Nat) : Queue := tabGet {} d.que.queue q
def Dev.setQueue (d : Dev) (q : Nat) (x : Queue) : Dev := { d with que := { d.que with queue := tabSet {} d.que.queue q x } }
def Dev.dmac (d : Dev) (c : Nat) : Dma := tabGet {} d.dma.chan c
def Dev.setDmac (d : Dev) (c : Nat) (x : Dma) : Dev := { d with dma := { d.dma with chan := tabSet {} d.dma.chan c x } }
def Dev.core (d : Dev) (h : Nat) : Core := tabGet {} d.icu.core h
def Dev.setCore (d : Dev) (h : Nat) (x : Core) : Dev := { d with icu := { d.icu with core := tabSet {} d.icu.core h x } }

/-! ### Commands over the block alone, and over the block and its memories -/

/-- A command that touches neither memory nor flash: the next state, with only the block changed. -/
def onDev (f : Dev → Dev) (s : State) : Host.Outcome State Fault Refusal :=
  .next { s with dev := f { s.dev with out := [] } }

/-- A command at work on the memories: what it has written, newest first. -/
structure Work where
  dev   : Dev
  mem   : Memory
  nv    : Memory
  wr    : List (Nat × Byte) := []
  nvWr  : List (Nat × Byte) := []
  /-- address ranges, first byte and length, that have lost their contents (R291, R295 to R297) -/
  gone  : List (Nat × Nat) := []

/-- An address lies in one of the ranges. -/
def inRanges (l : List (Nat × Nat)) (a : Nat) : Bool := l.any (fun r => decide (r.1 ≤ a ∧ a < r.1 + r.2))

/-- The newest byte a list of writes holds for an address. -/
def lastWrite (a : Nat) : List (Nat × Byte) → Option Byte
  | [] => none
  | (b, v) :: t => if b = a then some v else lastWrite a t

/-- The byte of memory at an address, as the command sees it. -/
def Work.peek (w : Work) (a : Nat) : Byte :=
  match lastWrite a w.wr with
  | some v => v
  | none => if a < 0x10000 then Config.romByte a else if inRanges w.gone a then memInit else tabGet memInit w.mem a

/-- The byte of flash at an address, as the command sees it. -/
def Work.peekNv (w : Work) (a : Nat) : Byte := (lastWrite a w.nvWr).getD (tabGet nvInit w.nv a)

def Work.poke (w : Work) (a : Nat) (v : Byte) : Work := { w with wr := (a, v) :: w.wr }
def Work.pokeNv (w : Work) (a : Nat) (v : Byte) : Work := { w with nvWr := (a, v) :: w.nvWr }

/-- The addresses `a`, `a + 1`, … paired with bytes. -/
def cellsAt : Nat → List Byte → List (Nat × Byte)
  | _, [] => []
  | a, b :: bs => (a, b) :: cellsAt (a + 1) bs

def Work.pokes (w : Work) (a : Nat) (bs : List Byte) : Work := { w with wr := (cellsAt a bs).reverse ++ w.wr }
def Work.pokesNv (w : Work) (a : Nat) (bs : List Byte) : Work := { w with nvWr := (cellsAt a bs).reverse ++ w.nvWr }

/-- `n` bytes of memory from `a`. -/
def Work.peeks (w : Work) (a n : Nat) : List Byte := (List.range n).map (fun i => w.peek (a + i))
/-- `n` bytes of flash from `a`. -/
def Work.peeksNv (w : Work) (a n : Nat) : List Byte := (List.range n).map (fun i => w.peekNv (a + i))

/-- `n` bytes of memory from `a` lose their contents. -/
def Work.forget (w : Work) (a n : Nat) : Work :=
  { w with wr := w.wr.filter (fun e => ! inRanges [(a, n)] e.1), gone := (a, n) :: w.gone }

/-- A change of the block alone inside such a command. -/
def Work.on (w : Work) (f : Dev → Dev) : Work := { w with dev := f w.dev }

/-- Writes carried out, oldest first, on a memory whose unlisted bytes read `d`. -/
def replay (d : Byte) (m : Memory) : List (Nat × Byte) → Memory
  | [] => m
  | (a, v) :: t => tabSet d (replay d m t) a v

/-- What a command sees when it begins. -/
def Work.begin (s : State) : Work := { dev := { s.dev with out := [] }, mem := s.mem, nv := s.nv }

/-- A command over the block and its memories. -/
def onWork (f : Work → Work) (s : State) : Host.Outcome State Fault Refusal :=
  let w := f { dev := { s.dev with out := [] }, mem := s.mem, nv := s.nv }
  .next { s with
    dev := w.dev
    mem := replay memInit (s.mem.filter (fun e => ! inRanges w.gone e.1)) w.wr
    nv  := replay nvInit s.nv w.nvWr }

end Sys2Proof.Machine
end

