-- ==== Sys2Proof/Machine/Memmap.lean ====
section
/-! DEFINITION. The memory map (R2, R235, R262, R264): which addresses are memory, and the error accounts of the
memories (R334, R335, R338). -/
namespace Sys2Proof.Machine

/-! ### DRAM (R235, R236) -/

def dramBase : Nat := 0x800000000

/-- The enabled DRAM channels, DA to DH (R235). -/
def Dev.dramChans (d : Dev) : List Nat := (List.range 8).filter (fun i => bitOf (d.val F.DRC_CFG_CHAN_EN) i)

/-- The density of every channel, bytes: codes 4 to 7 act as 3 (R235, R258). -/
def Dev.density (d : Dev) : Nat := 2 ^ (30 + min 3 (d.val F.DRC_CFG_DENSITY))

/-- The usable capacity (R236). -/
def Dev.dramUsable (d : Dev) : Nat := d.dramChans.length * d.density * 7 / 8

/-- The channel an offset in the DRAM window lies in: 256-byte units in turn (R235). -/
def Dev.dramChan (d : Dev) (off : Nat) : Option Nat :=
  let chs := d.dramChans
  chs[(off / 256) % chs.length]?

/-! ### The map (R2, R262, R264) -/

/-- What an address names. -/
inductive Place where
  | rom | mem (a : Nat) | peri | nothing
  deriving DecidableEq, Repr

/-- The TCM word an address in the Helm windows names: core H4's, in the window of the core it stands in for. -/
def Dev.tcmAt (d : Dev) (o : Nat) : Place :=
  let h := o / 0x200000
  let p := o % 0x200000
  let spare := d.on (F.ICU_HLMh_CTRL_SPARE_EN 4) && d.val (F.ICU_HLMh_CTRL_SPARE_AS 4) == h
  if p < 0x10000 ∨ (0x100000 ≤ p ∧ p < 0x110000) then .mem (0x8000000 + (if spare then 4 else h) * 0x200000 + p)
  else .nothing

/-- The memory map. The peripheral windows are those of the register map, in 64 KiB each. -/
def Dev.place (d : Dev) (a : Nat) : Place :=
  if a < 0x10000 then .rom
  else if 0x8000000 ≤ a ∧ a < 0x8A00000 then d.tcmAt (a - 0x8000000)
  else if 0x10000000 ≤ a ∧ a < 0x10800000 then .mem a
  else if 0x40000000 ≤ a ∧ a < 0x40410000 then .peri
  else if dramBase ≤ a ∧ a < dramBase + d.dramUsable then .mem a
  else .nothing

/-- The place is memory that can be read, or written. -/
def Place.readable : Place → Bool
  | .rom => true
  | .mem _ => true
  | _ => false
def Place.writable : Place → Bool
  | .mem _ => true
  | _ => false

/-- Every byte of a range is memory: its ends and every unit between them are. A range lies in one memory when its
ends lie in places of 4 KiB that are all memory. -/
def Dev.rangeOk (d : Dev) (ok : Place → Bool) (a n : Nat) : Bool :=
  n != 0 && ok (d.place (a + n - 1)) && (List.range ((n + 4095) / 4096)).all (fun i => ok (d.place (a + 4096 * i)))

/-- One byte of memory by the map; an address with nothing behind it reads 0 (R2, R236). -/
def Work.readAt (w : Work) (a : Nat) : Byte :=
  match w.dev.place a with
  | .rom => w.peek a
  | .mem p => w.peek p
  | _ => 0

/-- One byte written by the map. -/
def Work.writeAt (w : Work) (a : Nat) (v : Byte) : Work :=
  match w.dev.place a with
  | .mem p => w.poke p v
  | _ => w

/-- An access to DRAM beyond the usable capacity (R236). -/
def Dev.beyond (d : Dev) (a n : Nat) : Bool := decide (dramBase ≤ a ∧ dramBase + d.dramUsable < a + n ∧ a < dramBase + 2 ^ 36)
def Dev.addrErr (d : Dev) : Dev := (d.raise F.DRC_FLAG_ADDR_ERR).inc F.DRC_ADDR_ERR_CNT

/-- `n` bytes from `a` on as they stand. -/
def Work.reads (w : Work) (a n : Nat) : List Byte := (List.range n).map (fun i => w.readAt (a + i))

/-! ### Error accounts (R334, R335, R338) -/

/-- BANK_CE, BANK_UE and BANK_LAST show the selected bank (R334). -/
def Dev.bankShow (d : Dev) : Dev :=
  let b : BankErr := tabGet {} d.spr.bank (d.val F.SPR_BANK_SEL)
  ((d.put F.SPR_BANK_CE b.ce).put F.SPR_BANK_UE b.ue).put F.SPR_BANK_LAST b.last

/-- The log writer runs while something waits for it, and holds the flash (R344). -/
def Dev.logShow (d : Dev) : Dev :=
  let busy := ! d.spr.logQ.isEmpty || ! d.spr.newRep.isEmpty
  (d.mark F.SPR_STAT_LOG_BUSY busy).mark F.CFG_STAT_NV_BUSY (busy || d.pwr.nvOp.isSome)

/-- A record handed to the log writer; a ring that is too small is not written (R343), and on factory defaults nothing
is (R289). -/
def Dev.logPut (d : Dev) (type : Nat) (payload : List Byte) : Dev :=
  if d.on F.SPR_STAT_LOG_SMALL ∨ d.on F.CFG_STAT_DEFAULTS then d
  else ({ d with spr := { d.spr with logQ := d.spr.logQ ++ [(type, payload)] } } : Dev).logShow

/-- A record of the device's own (R344). -/
def Dev.logRecord (d : Dev) (type : Nat) (payload : List Byte) : Dev :=
  if d.on F.SPR_CTRL_LOG_EN then d.logPut type payload else d

/-- An entry for the repair table (R336). -/
def Dev.repairEntry (d : Dev) (e : Nat) : Dev :=
  if d.on F.CFG_STAT_DEFAULTS then d
  else ({ d with spr := { d.spr with newRep := d.spr.newRep ++ [e] } } : Dev).logShow

/-- A row becomes a retirement candidate (R335). -/
def Dev.candidate (d : Dev) (bank row : Nat) : Dev :=
  if d.spr.cands.contains (bank, row) then d
  else
    let e := bank + 256 * row + 65536
    let d := { d with spr := { d.spr with cands := d.spr.cands ++ [(bank, row)] } }
    ((d.raise F.SPR_FLAG0_RETIRE).logRecord 0x02 (bytesLE 4 e)).repairEntry e

/-- An error in a memory bank, seen by any reader (R334, R335). -/
def Dev.bankError (d : Dev) (bank row : Nat) (ue : Bool) (n : Nat) : Dev :=
  let b : BankErr := tabGet {} d.spr.bank bank
  let b := if ue then { b with ue := satAdd b.ue n, last := row } else { b with ce := satAdd b.ce n, last := row }
  let d := ({ d with spr := { d.spr with bank := tabSet {} d.spr.bank bank b } } : Dev).bankShow
  if bank < 96 then
    if ue then ((d.raise F.SPR_FLAG0_SRAM_UE).bump F.SPR_SRAM_UE_CNT n).candidate bank row
    else (d.raise F.SPR_FLAG0_SRAM_CE).bump F.SPR_SRAM_CE_CNT n
  else d

/-- Uncorrectable words of a DRAM channel since LOAD (R338). -/
def Dev.chanError (d : Dev) (ch n : Nat) : Dev :=
  let was := tabGet 0 d.spr.chanUe ch
  let d := { d with spr := { d.spr with chanUe := tabSet 0 d.spr.chanUe ch (was + n) } }
  let lim := d.val F.SPR_CHAN_UE_LIMIT
  if lim = 0 ∨ lim ≤ was ∨ was + n < lim then d
  else
    let d := (d.raise F.SPR_FLAG1_CHAN_FAIL).logRecord 0x03 [BitVec.ofNat 8 ch]
    if d.on F.SPR_CTRL_AUTO_DEGRADE then d.repairEntry (ch + 2 * 65536) else d

/-- What the check bits of a DRAM access in channel `ch` said (R236, R334). -/
def Dev.dramEcc (d : Dev) (ch : Nat) : EccResult → Dev
  | .good => d
  | .corrected bank row =>
    ((d.raise F.DRC_FLAG_CE).inc F.DRC_CE_CNT).bankError (128 + 16 * ch + bank) row false 1
  | .bad bank row words =>
    let n := max 1 words.length
    (((d.raise F.DRC_FLAG_UE).bump F.DRC_UE_CNT n).bankError (128 + 16 * ch + bank) row true n).chanError ch n

end Sys2Proof.Machine
end

