-- ==== Sys2Proof/Machine/Dram.lean ====
section
/-! DEFINITION. The DRAM controller: scheduling, refresh and speed changes (R237 to R243). -/
namespace Sys2Proof.Machine

/-! ### Urgency (R238) -/

/-- The urgency of a request that arrived at `since` for a requester whose target is `t` ns; 0 acts as 1. -/
def urgency (t since now : Nat) : Nat :=
  let t := max 1 t
  let age := now - since
  if t = 1 ∨ t ≤ age then 4
  else if 9 * t ≤ 10 * age then 3
  else if 3 * t ≤ 4 * age then 2
  else if t ≤ 2 * age then 1
  else 0

def Dev.urg (d : Dev) (r : DramReq) : Nat := urgency (d.val (F.DRC_RQr_QOS_TARGET r.rq)) r.since d.now

/-- URG shows the highest urgency among a requester's pending requests (R238). -/
def Dev.urgShow (d : Dev) : Dev :=
  (List.range 16).foldl (fun (d : Dev) r =>
    let u := (d.drc.pend.filter (fun x => x.rq == r)).foldl (fun m x => max m (d.urg x)) 0
    if d.val (F.DRC_RQr_QOS_URG r) = u then d else d.put (F.DRC_RQr_QOS_URG r) u) d

/-- The writes of a channel are held back (R238). -/
def Dev.holdsWrites (d : Dev) (l : List DramReq) : Bool :=
  let w := l.filter (·.wr)
  decide (w.length < 32) && w.all (fun r => decide (d.urg r < 2))

/-- `a` is issued before `b`: the higher urgency, at urgency 0 and 1 reads before writes, the older (R238). -/
def Dev.beforeReq (d : Dev) (a b : DramReq) : Bool :=
  let ua := d.urg a
  let ub := d.urg b
  if ua ≠ ub then decide (ub < ua)
  else if ua ≤ 1 ∧ a.wr ≠ b.wr then ! a.wr
  else false

/-- The requests whose bank is ready in this command slot. Which banks are is free: the manual gives no bank map and
no cycle (R238; DESIGN CHOICE, log entry 126). Where none is, the slot passes until one is. -/
def Dev.readyReqs (d : Dev) (l : List DramReq) : Dev × List DramReq :=
  if l.length ≤ 1 then (d, l)
  else
    let f := d.draw
    let r := (l.zip (List.range l.length)).filter (fun x => f.1.getLsbD (x.2 % 64))
    (f.2, if r.isEmpty then l else r.map (·.1))

/-- The request of a channel that the next command slot issues: its bank is ready, it has the highest urgency, reads
before writes that are held back, the oldest (R238). -/
def Dev.nextReq (d : Dev) (ch : Nat) : Dev × Option DramReq :=
  let l := d.drc.pend.filter (fun r => d.dramChan r.addr == some ch)
  let l := if d.holdsWrites l then l.filter (fun r => ! r.wr) else l
  let f := d.readyReqs l
  (f.1, f.2.foldl (fun best r =>
    match best with
    | some b => if d.beforeReq r b then some r else best
    | none => some r) none)

/-! ### Accesses (R236, R240) -/

/-- An activation of a bank counts towards the refresh management that the mode registers require, and the command
is given once as many have accumulated as they declare (R240; PRESUMED, log entry 137). -/
def Dev.rolling (d : Dev) (ch bank : Nat) : Dev :=
  let lim := Config.dramRaaLimit ch
  if lim = 0 then d
  else
    let x := d.dch ch
    let k := tabGet 0 x.raa bank + 1
    if k < lim then d.setDch ch { x with raa := tabSet 0 x.raa bank k }
    else ((d.setDch ch { x with raa := tabSet 0 x.raa bank (k - lim) }).inc F.DRC_RFM_DEV_CNT).raise F.DRC_FLAG_RFM_DEV

/-- Every access is an ACT: a refresh-management command with probability 2^-K by the device's random source, and the
one that rolling activation counting gives (R240; DESIGN CHOICE, log entry 32). -/
def Dev.act (d : Dev) (ch off : Nat) : Dev :=
  let k := max 6 (min 16 (d.val F.DRC_RFM))
  let r := d.draw
  (if r.1.toNat % 2 ^ k = 0 then r.2.inc F.DRC_RFM_CNT else r.2).rolling ch (Config.dramBank off)

/-- A request, of one granule, is carried out. A read sees the writes that were held back before it. DEDUCED, log
entry 78. -/
def Work.dramDo (w : Work) (r : DramReq) : Work :=
  let d := w.dev
  let n := r.data.length
  let base := dramBase + r.addr
  match d.dramChan r.addr with
  | none => w.on (fun d => ({ d with drc := { d.drc with got := if r.wr then d.drc.got else some (r.rq, List.replicate n 0, []) } } : Dev).addrErr)
  | some ch =>
    if d.dramUsable < r.addr + n then
      w.on (fun d => ({ d with drc := { d.drc with got := if r.wr then d.drc.got else some (r.rq, List.replicate n 0, []) } } : Dev).addrErr)
    else
      let w := w.on (fun d => (d.act ch r.addr).dramEcc ch r.ecc)
      if r.wr then w.pokes base r.data
      else
        let held := w.dev.drc.pend.filter (fun x => x.wr && decide (x.since ≤ r.since))
        let byteAt := fun (a : Nat) => held.foldl (fun (b : Byte) x =>
          if x.addr ≤ a ∧ a < x.addr + x.data.length then x.data.getD (a - x.addr) b else b) (w.peek (dramBase + a))
        let bad := match r.ecc with
          | .bad _ _ ws => ws
          | _ => []
        w.on (fun d => { d with drc := { d.drc with got := some (r.rq, (List.range n).map (fun i => byteAt (r.addr + i)), bad) } })

/-- The first occurrence of an element left out. -/
def dropFirst (r : DramReq) : List DramReq → List DramReq
  | [] => []
  | x :: t => if x = r then t else x :: dropFirst r t

/-- Channel `ch` issues what it can, one request after the other. -/
def Work.dramRun (ch : Nat) : Nat → Work → Work
  | 0, w => w
  | k + 1, w =>
    let x := w.dev.nextReq ch
    match x.2 with
    | none => w
    | some r =>
      let w := { w with dev := { x.1 with drc := { x.1.drc with pend := dropFirst r x.1.drc.pend } } }
      Work.dramRun ch k (w.dramDo r)

/-- Every channel issues what it can, unless a speed change runs (R242). -/
def Work.dramAll (w : Work) : Work :=
  if w.dev.on F.DRC_STAT_FC_BUSY then w.on (fun d => d.urgShow)
  else
    let w := (List.range 8).foldl (fun (w : Work) ch => Work.dramRun ch w.dev.drc.pend.length w) w
    w.on (fun d => d.urgShow)

/-- What of `bs` lies in the granule in which the access at offset `a` begins: each access moves one (R235). -/
def inGranule (a : Nat) (bs : List Byte) : List Byte := bs.take (64 - a % 64)

/-- DRAM_REQUEST (R235 to R240, R334, R338): a request for one granule arrives; the controller issues by urgency. -/
def execDramRequest (r : Fin 16) (wr : Bool) (addr : Nat) (data : List Byte) (ecc : EccResult) (s : State) :
    Host.Outcome State Fault Refusal :=
  onWork (fun w =>
    let q : DramReq := { rq := r, wr := wr, since := w.dev.now, addr := addr, data := inGranule addr data, ecc := ecc }
    if (w.dev.dramChan addr).isNone then w.dramDo q
    else (w.on (fun d => { d with drc := { d.drc with pend := d.drc.pend ++ [q] } })).dramAll) s

/-- `n` refreshes of a channel issued, `left` still postponed: each takes back activations of every bank (R239, R240). -/
def DramChan.refresh (x : DramChan) (ch n left : Nat) : DramChan :=
  { x with postponed := left, issued := x.issued + n
           raa := x.raa.filterMap (fun e =>
             let k := e.2 - n * Config.dramRaaRefresh ch
             if k = 0 then none else some (e.1, k)) }

/-- REFRESH (R239): postponed while a request of the channel is at urgency 3 or 4, eight at most; issued otherwise,
with those postponed. In self-refresh and on a channel out of service none falls due. -/
def execRefresh (ch : Fin 8) (s : State) : Host.Outcome State Fault Refusal :=
  onWork (fun w =>
    let d := w.dev
    if ! d.dramChans.contains ch ∨ d.on F.DRC_STAT_FC_BUSY then w
    else
      let x := d.dch ch
      let urgent := d.drc.pend.any (fun r => d.dramChan r.addr == some ch.val && decide (3 ≤ d.urg r))
      let x := if ! urgent then x.refresh ch (x.postponed + 1) 0
        else if x.postponed < 8 then { x with postponed := x.postponed + 1 }
        else x.refresh ch 1 x.postponed
      (w.on (fun d => d.setDch ch x)).dramAll) s

/-! ### Speed changes (R241 to R243) -/

/-- A change to set `t` is asked for (R242). -/
def Dev.freqStart (d : Dev) (t : Nat) : Dev :=
  if d.on F.DRC_STAT_FC_BUSY then
    { d with drc := { d.drc with pending := some t } }.mark F.DRC_STAT_FC_PEND true
  else if ! bitOf (d.val F.DRC_FREQ_TRAINED) t then d.raise F.DRC_FLAG_FREQ_ERR
  else if t = d.val F.DRC_STAT_SPEED_ACT then d.raise F.DRC_FLAG_FREQ_DONE
  else { d with drc := { d.drc with target := t, since := d.now } }.mark F.DRC_STAT_FC_BUSY true

/-- GO with TARGET (R242). -/
def Dev.freqGo (d : Dev) (t : Nat) : Dev := (d.put F.DRC_FREQ_TARGET t).freqStart t

/-- FREQUENCY_CHANGE (R242). -/
def execFrequencyChange (target : Fin 4) (s : State) : Host.Outcome State Fault Refusal :=
  onDev (fun d => d.freqGo target) s

/-- The SR hand-over: the target's timing set into the active one (R243). -/
def Dev.timHandOver (d : Dev) (t : Nat) : Dev :=
  let d := d.put F.DRC_TIM_A_ACT (d.val (F.DRC_TSETf_A_SH t))
  let d := d.put F.DRC_TIM_B_ACT (d.val (F.DRC_TSETf_B_SH t))
  let d := d.put F.DRC_TIM_C_ACT (d.val (F.DRC_TSETf_C_SH t))
  let d := d.put F.DRC_TIM_D_ACT (d.val (F.DRC_TSETf_D_SH t))
  d.mark F.DRC_STAT_SHADOW_PEND false

/-- Step 5 and 6 of a change (R242), and the change that waits. -/
def Dev.freqDone (d : Dev) : Dev :=
  if ! d.on F.DRC_STAT_FC_BUSY then d
  else
    let t := d.drc.target
    let d := ((d.timHandOver t).put F.DRC_STAT_SPEED_ACT t).mark F.DRC_STAT_FC_BUSY false
    let d := (d.raise F.DRC_FLAG_FREQ_DONE).inc F.DRC_FREQ_CNT
    match d.drc.pending with
    | some p => ({ d with drc := { d.drc with pending := none } }.mark F.DRC_STAT_FC_PEND false).freqStart p
    | none => d

/-- The change ends, and requests resume in urgency order (R242). -/
def Work.freqEnd (w : Work) : Work :=
  if ! w.dev.on F.DRC_STAT_FC_BUSY then w else (w.on (fun d => d.freqDone)).dramAll

/-- FREQ_DONE (R242, R243): the change ends, and requests resume in urgency order. -/
def execFreqDone (s : State) : Host.Outcome State Fault Refusal :=
  onWork (fun w => w.freqEnd) s

/-! ### Accesses of the other blocks (R235, R236, R242, R255) -/

/-- An access that completes has waited for the change that runs, and for the one that waits behind it: each takes
8.2 µs at most, how long is free (R242; DESIGN CHOICE, log entry 126). -/
def Work.dramWait : Nat → Work → Work
  | 0, w => w
  | k + 1, w =>
    if ! w.dev.on F.DRC_STAT_FC_BUSY then w
    else
      let w := w.on (fun d =>
        let f := d.draw
        f.2.reach (d.drc.since + f.1.toNat % 8201))
      Work.dramWait k w.freqEnd

/-- The requests pending for a granule go before one that completes there, the oldest first. -/
def Work.dramBefore (g : Nat) : Nat → Work → Work
  | 0, w => w
  | k + 1, w =>
    match w.dev.drc.pend.find? (fun r => r.addr / 64 == g) with
    | none => w
    | some r =>
      let w := w.on (fun d => { d with drc := { d.drc with pend := dropFirst r d.drc.pend } })
      Work.dramBefore g k (w.dramDo r)

/-- The granules of `n` bytes from offset `a` on (R235). -/
def granules (a n : Nat) : List Nat :=
  if n = 0 then [] else (List.range ((a + n + 63) / 64 - a / 64)).map (fun i => a / 64 + i)

/-- One access of granule `g` completes: an ACT, and what its check bits say (R236, R237). -/
def Work.dramOne (w : Work) (g : Nat) (ecc : EccResult) : Work :=
  match w.dev.dramChan (64 * g) with
  | none => w
  | some ch =>
    (Work.dramBefore g w.dev.drc.pend.length w).on (fun d => (d.act ch (64 * g)).dramEcc ch ecc)

/-- Granules accessed one after the other; the check bits' result is the first one's. -/
def Work.dramEach (ecc : EccResult) : List Nat → Work → Work
  | [], w => w
  | g :: t, w => Work.dramEach .good t (w.dramOne g ecc)

/-- An access of `n` bytes at `a`, if they lie in DRAM: it waits for a speed change, and each granule is an ACT
(R235, R242). A write of less than a granule reads it first (R236). -/
def Work.touch (w : Work) (a n : Nat) (wr : Bool) (ecc : EccResult) : Work :=
  let w := if w.dev.beyond a n then w.on (fun d => d.addrErr) else w
  match w.dev.place a with
  | .mem p =>
    if p < dramBase then w
    else
      let o := p - dramBase
      let gs := granules o n
      let narrow := gs.filter (fun g => wr && (decide (64 * g < o) || decide (o + n < 64 * g + 64)))
      let w := Work.dramEach .good narrow (Work.dramWait 2 w)
      (Work.dramEach ecc gs w).on (fun d => d.urgShow)
  | _ => w

/-- `n` bytes read from `a`. DESIGN CHOICE, log entry 44. -/
def Work.loadEcc (w : Work) (a n : Nat) (ecc : EccResult) : Work × List Byte :=
  let w := w.touch a n false ecc
  (w, w.reads a n)
def Work.load (w : Work) (a n : Nat) : Work × List Byte := w.loadEcc a n .good

/-- The bytes of a write at offset `a`, granule by granule. -/
def granuleWrites (rq since : Nat) : Nat → Nat → List Byte → List DramReq
  | 0, _, _ => []
  | f + 1, a, bs =>
    if bs.isEmpty then []
    else
      let x := inGranule a bs
      ⟨rq, true, since, a, x, .good⟩ :: granuleWrites rq since f (a + x.length) (bs.drop x.length)

/-- A write into a granule that a core's LR holds breaks the reservation, whoever writes (R262; log entry 132). -/
def Dev.breakResv (d : Dev) (a n : Nat) : Dev :=
  match d.place a with
  | .mem p =>
    [0, 1, 2, 3, 4].foldl (fun (d : Dev) h =>
      match (d.core h).resv with
      | some g => if p / 64 ≤ g ∧ g ≤ (p + n - 1) / 64 then d.setCore h { d.core h with resv := none } else d
      | none => d) d
  | _ => d

/-- Bytes written from `a` on. -/
def Work.store (w : Work) (a : Nat) (bs : List Byte) : Work :=
  let w := (w.touch a bs.length true .good).on (fun d => d.breakResv a bs.length)
  (cellsAt a bs).foldl (fun (w : Work) c => w.writeAt c.1 c.2) w

/-- Bytes that requester `rq` hands over without waiting: during a speed change they wait at it (R242). -/
def Work.post (w : Work) (rq a : Nat) (bs : List Byte) : Work :=
  match w.dev.place a with
  | .mem p =>
    if p < dramBase ∨ ! w.dev.on F.DRC_STAT_FC_BUSY then w.store a bs
    else w.on (fun d =>
      { d with drc := { d.drc with pend := d.drc.pend ++ granuleWrites rq d.now bs.length (p - dramBase) bs } }.urgShow)
  | _ => w.store a bs

/-- What was handed over for `n` bytes from `a` on and waits is withdrawn, and `old` stands there again. -/
def Work.unpost (w : Work) (rq a : Nat) (old : List Byte) : Work :=
  let o := a - dramBase
  let w := w.on (fun d =>
    { d with drc := { d.drc with pend := d.drc.pend.filter (fun r =>
        ! (r.rq == rq && r.wr && decide (o ≤ r.addr ∧ r.addr < o + old.length))) } }.urgShow)
  (cellsAt a old).foldl (fun (w : Work) c => w.writeAt c.1 c.2) w

end Sys2Proof.Machine
end

