-- ==== Sys2Proof/Machine/Position.lean ====
section
/-! DEFINITION. The one position of the unit: how a move of it advances the high-water mark, finds reversals
and motion, issues grid crossings, and lets compare units owe hits (R13 to R16, R31 to R37, R44 to R57). -/
namespace Sys2Proof.Machine

/-! ### Instances that are on -/

/-- The instances, of `n` from `base` on, whose field is not zero. Only for fields that reset to 0: an
unlisted register then has it 0. -/
def Dev.listed (d : Dev) (base stride n lo len : Nat) : List Nat :=
  d.regs.filterMap (fun e =>
    match instOf e.1 base stride n with
    | some i => if fieldOf e.2 lo len = 0 then none else some i
    | none => none)

/-- The compare units whose MODE is not OFF, with their mode (R44). -/
def Dev.cmpUnits (d : Dev) : List (Nat × Nat × Nat) :=
  d.regs.filterMap (fun e =>
    let base := R.LOGn_CMPm_CTRL 0 0
    let o := e.1 - base
    if e.1 < base ∨ 32 * 0x100 ≤ o ∨ 0x80 ≤ o % 0x100 ∨ o % 0x20 ≠ 0 ∨ fieldOf e.2 0 2 = 0 then none
    else some (o / 0x100, o % 0x100 / 0x20, fieldOf e.2 0 2))

/-! ### Channel position and speed (R33, R34, R49, R58, R60) -/

/-- The source of the unit position, 3 treated as 0 (R28, R46). DEDUCED, log entry 50. -/
def Dev.posSrc (d : Dev) : Nat := if d.val F.LOG_CTRL_SRC = 3 then 0 else d.val F.LOG_CTRL_SRC

/-- Channel `n` is the unit's local source. -/
def Dev.isSource (d : Dev) (n : Nat) : Bool := d.posSrc == 0 && d.val F.LOG_CTRL_SRC_CHAN == n

/-- The sign of the last edge: DIRECTION 0 is forward (R46). -/
def Dev.chanDir (d : Dev) (n : Nat) : Int := if d.on (F.LOGn_STAT_DIRECTION n) then -1 else 1

/-- The period is valid: two edges in one direction with no standstill and no double change between (R34). -/
def LogChan.perValid (c : LogChan) : Bool := decide (2 ≤ c.run)

/-- The signed fraction of channel `n` at instant `t` (R34). -/
def Dev.fracAt (d : Dev) (n t : Nat) : Int :=
  let c := d.logch n
  if d.on (F.LOGn_STAT_IDLE n) then c.frac
  else if d.val (F.LOGn_CFG_MODE n) ≠ 1 ∨ ¬ d.on (F.LOGn_CFG_INTERP n) then 0
  else if d.on (F.LOGn_STAT_STANDSTILL n) then c.frac
  else if c.perValid then
    d.chanDir n * (min 255 (256 * (t - c.lastEdge) / max 1 c.per) : Nat)
  else 0

/-- The position of channel `n` at instant `t`, ticks, before the limits (R34). -/
def Dev.chanRaw (d : Dev) (n t : Nat) : Int := 256 * (d.logch n).count + d.fracAt n t

/-- The position of channel `n` at instant `t`, ticks (R34), held at the limits (R16, R27). -/
def Dev.chanPosAt (d : Dev) (n t : Nat) : Int := clampI posMin posMax (d.chanRaw n t)

/-- The position reconstructed from beacons or payloads, at instant `t` of the scale that `base` is in (R60). -/
def Recon.at (r : Recon) (t : Int) : Int :=
  let p := Int.tdiv (r.pos * 65536000 + r.speed * (t - r.base)) 65536000
  let u := t - r.absorb
  if 0 ≤ u ∧ u < 1000 then p - Int.tdiv (r.err * (1000 - u)) 1000 else p

/-- The unit position at instant `t`, before the limits (R28, R60, R61). -/
def Dev.unitRaw (d : Dev) (t : Nat) : Int :=
  if d.posSrc = 0 then
    let n := d.val F.LOG_CTRL_SRC_CHAN
    if d.on (F.LOGn_STAT_IDLE n) then d.vali F.LOG_POS else d.chanRaw n t
  else if d.on F.TRG_STAT_FROZEN ∨ ¬ d.trg.recon.valid then d.vali F.LOG_POS
  else d.trg.recon.at t

/-- The unit position at instant `t` (R28, R60, R61), held at the limits (R16). -/
def Dev.unitPosAt (d : Dev) (t : Nat) : Int := clampI posMin posMax (d.unitRaw t)

/-- The speed v of R49 as a fraction, ticks per ns: from the interpolation period of the source channel or
from the beacon speed; 0 where there is no valid period, and at standstill (DEDUCED, log entry 14). -/
def Dev.speed (d : Dev) : Int × Nat :=
  if d.posSrc = 0 then
    let n := d.val F.LOG_CTRL_SRC_CHAN
    let c := d.logch n
    if c.perValid ∧ ¬ d.on (F.LOGn_STAT_STANDSTILL n) then (256 * d.chanDir n, max 1 c.per) else (0, 1)
  else if d.on F.TRG_STAT_FROZEN then (0, 1)
  else (d.trg.recon.speed, 65536000)

/-- The line position p(E) + v × EXP_OFFSET, truncated toward zero (R49). -/
def Dev.linePos (d : Dev) (off : Int) (e : Nat) : Int :=
  let v := d.speed
  Int.tdiv (d.unitPosAt e * v.2 + v.1 * off) v.2

/-! ### Length and scale (R14, R15, R40) -/

/-- One count of a running drift ramp, in direction `dir` (R40). -/
def Dev.rampCount (d : Dev) (dir : Int) (r : ScaleRamp) : Dev :=
  let d := { d with log := { d.log with lenAcc := d.log.lenAcc + dir * d.val F.LOG_SCALE * 1000 } }
  let i := r.done + 1
  let v := (r.start : Int) + Int.tdiv (((r.target : Int) - r.start) * i) r.span
  let d := d.put F.LOG_SCALE v.toNat
  if i < r.span then { d with log := { d.log with ramp := some { r with done := i } } }
  else { d with log := { d.log with ramp := none } }.mark F.LOG_STAT_RAMP false

/-- At most `k` counts while a ramp runs; the counts left when it has ended. -/
def Dev.rampCounts (dir : Int) : Nat → Dev → Dev × Nat
  | 0, d => (d, 0)
  | k + 1, d =>
    match d.log.ramp with
    | some r => Dev.rampCounts dir k (d.rampCount dir r)
    | none => (d, k + 1)

/-- The Log integrates the scale over `delta` counts of the unit position (R15); the drift ramp advances by
one step a count (R40). The scale is in 2^-20 µm a count, the length in 2^-20 nm. -/
def Dev.integrate (d : Dev) (delta : Int) : Dev :=
  let dir : Int := if delta < 0 then -1 else 1
  let n := delta.natAbs
  let ramping := match d.log.ramp with
    | some r => min n (r.span - r.done)
    | none => 0
  let r := Dev.rampCounts dir ramping d
  let d := r.1
  let left : Nat := n - (ramping - r.2)
  let acc := d.log.lenAcc + dir * left * d.val F.LOG_SCALE * 1000
  { d with log := { d.log with lenAcc := acc } }.puti F.LOG_LENGTH (acc / 2 ^ 20)

/-! ### Crossings and triggers (R47 to R57) -/

/-- The stream's pitch: below 64 acts as 64 (R71). -/
def Dev.trgPitch (d : Dev) (s : Nat) : Nat := max 64 (d.val (F.TRGs_PITCH s))

/-- The boundary of crossing `k` (R47). -/
def Dev.boundary (d : Dev) (s : Nat) (k : Int) : Int := k * d.trgPitch s - d.vali (F.TRGs_LEAD s)

/-- The crossing whose boundary is the last at or below `h`. -/
def Dev.crossingAt (d : Dev) (s : Nat) (h : Int) : Int := (h + d.vali (F.TRGs_LEAD s)) / d.trgPitch s

/-- The first fabric cycle, after cycle `lo` and up to `hi`, at whose end the position on `path` has reached `b`. -/
def firstCycle (path : Nat → Int) (b : Int) : Nat → Nat → Nat → Nat
  | 0, _, hi => hi
  | fuel + 1, lo, hi =>
    if hi ≤ lo + 1 then hi
    else
      let m := (lo + hi) / 2
      if b ≤ path (4 * m) then firstCycle path b fuel lo m else firstCycle path b fuel m hi

/-- The crossing instant of `b`: the position goes from `p0` to `p1` in the fabric cycle that ends at `fin`, and
the instant between them is resolved upward to 1 ns (R48; DEDUCED, log entry 15). -/
def crossInstant (p0 p1 b : Int) (fin : Nat) : Nat :=
  if p1 ≤ p0 then fin
  else
    let up := (4 * (b - p0) + (p1 - p0) - 1) / (p1 - p0)
    (fin - 4 + clampI 0 4 up).toNat

/-- A crossing handed to the Reckoner when the stream feeds the Chart (R137, R143). -/
def Dev.passCross (d : Dev) (s : Nat) (c : Cross) : Dev :=
  if d.on (F.STC_CAMs_CFG_EN s) then
    let cam := d.cam s
    d.setCam s { cam with items := cam.items ++ [c] }
  else d

/-- `n` crossings from `k` on are skipped (R48, R50): counted, flagged and passed on as lineless. -/
def Dev.skipCross (d : Dev) (s : Nat) (k : Int) (n c : Nat) : Dev :=
  if n = 0 then d
  else
    let d := d.bump (F.TRGs_SKIP_CNT s) n
    let d := (d.raise (F.TRGs_FLAG_OVERSPEED s)).raise F.TRG_FLAG_OVERSPEED
    d.passCross s { k := k, n := n, eff := c + 96, ovsp := true, rep := .lineless }

/-- The crossing `k` of a stream is reported as one without a line (R137). -/
def Dev.lineless (d : Dev) (s : Nat) (k : Int) : Dev :=
  let cam := d.cam s
  d.setCam s { cam with items := cam.items.map (fun c => if c.k = k ∧ c.n = 1 then { c with rep := .lineless } else c) }

/-- A trigger dropped or discarded: counted and passed on as lineless, without OVERSPEED (R51). -/
def Dev.loseTrig (d : Dev) (s : Nat) (t : Trig) : Dev :=
  let d := d.inc (F.TRGs_SKIP_CNT s)
  let slots := (tabGet [] d.trg.slots (s / 4)).filter (fun x => t.pin || x != t.bnd)
  { d with trg := { d.trg with slots := tabSet [] d.trg.slots (s / 4) slots } }.lineless s t.k

/-- A boundary is occupied when a character of an earlier trigger on the channel stands at it (R53). -/
def occupied (slots : List Int) (b : Int) : Bool := slots.any (fun x => decide (x ≤ b ∧ b < x + 120))

/-- The first free boundary after `b` (R53). -/
def firstFree (slots : List Int) (b : Int) : Int :=
  (((List.range (3 * slots.length + 1)).map (fun i => b + 40 * (i + 1 : Nat))).find?
    (fun x => ! occupied slots x)).getD (b + 40)

/-! ### The characters of a service channel (R52, R53, R89) -/

/-- The instant of a device-time boundary. -/
def Dev.instantOf (d : Dev) (b : Int) : Nat := ((d.now : Int) + (b - d.devTime)).toNat

/-- A character leaves at boundary `b`. -/
def Dev.sendChar (d : Dev) (c : Nat) (b : Int) (ch : Bool × Byte) : Dev := d.emit (.svc c (d.instantOf b) [ch])

/-- The character at the next boundary: a trigger's own, the rest of a flow symbol, the next of a command frame. What
is in progress gives way to triggers, and a frame to flow symbols, and goes on after them (R53, R89). -/
def Dev.svcStep (d : Dev) (c : Nat) : Dev :=
  let x := d.svch c
  let b := x.next
  let x := { x with next := b + 40, idle := false }
  match x.sym.find? (fun y => y.2.1 == b) with
  | some y => (d.setSvch c { x with sym := x.sym.erase y }).sendChar c b (false, y.2.2)
  | none =>
    if occupied (tabGet [] d.trg.slots c) b then d.setSvch c x
    else
      match x.flow, x.frame with
      | ch :: t, _ => (d.setSvch c { x with flow := t }).sendChar c b ch
      | [], ch :: t => (d.setSvch c { x with frame := t }).sendChar c b ch
      | [], [] => d.setSvch c x

/-- Nothing waits to be sent. -/
def SvcChan.quiet (x : SvcChan) : Bool := x.sym.isEmpty && x.flow.isEmpty && x.frame.isEmpty

/-- With nothing to send K28.5 leaves from the next boundary on (R89), up to device time `t`. -/
def Dev.svcIdle (d : Dev) (c : Nat) (t : Int) : Dev :=
  let x := d.svch c
  let d := if x.idle then d else d.sendChar c x.next (true, 0xBC)
  d.setSvch c { x with idle := true, next := t / 40 * 40 + 40 }

/-- The characters of the boundaries up to device time `t`. -/
def Dev.svcRun (c : Nat) (t : Int) : Nat → Dev → Dev
  | 0, d => d
  | n + 1, d =>
    if t < (d.svch c).next then d
    else if (d.svch c).quiet then d.svcIdle c t
    else Dev.svcRun c t n (d.svcStep c)

/-- No more boundaries than these are passed until all that waits on the channel has been sent. -/
def Dev.svcFuel (d : Dev) (c : Nat) : Nat :=
  let x := d.svch c
  8 + 4 * x.sym.length + x.flow.length + x.frame.length + 3 * (tabGet [] d.trg.slots c).length

/-- The characters whose boundary has come by now have left. -/
def Dev.svcNow (d : Dev) (c : Nat) : Dev := Dev.svcRun c d.devTime (d.svcFuel c) d

/-- The clock runs from boundary to boundary until `p` holds of the channel. -/
def Dev.svcUntil (c : Nat) (p : SvcChan → Bool) : Nat → Dev → Dev
  | 0, d => d
  | n + 1, d =>
    if p (d.svch c) then d else Dev.svcUntil c p n ((d.reach (d.instantOf (d.svch c).next)).svcStep c)

/-- A trigger's symbol put on its service channel for effective instant `t.eff`: the boundary of its K28.1,
RES, and the deferral to the first free boundary where the boundary is occupied (R52, R53). -/
def Dev.placeSymbol (d : Dev) (c : Nat) (t : Trig) : Dev × Trig :=
  let d := d.svcNow c
  let e := t.eff
  let dt := d.devTimeAt e
  let b := dt / 40 * 40
  let slots := (tabGet [] d.trg.slots c).filter (fun x => decide (b - 4000 < x))
  let isFree := ! occupied slots b
  let at' := if isFree then b else firstFree slots b
  let d := { d with trg := { d.trg with slots := tabSet [] d.trg.slots c (slots ++ [at']) } }
  if isFree then (d, { t with slot := e - (dt - b).toNat, res := (dt - b).toNat, bnd := b })
  else
    let e' := e + (at' - dt).toNat
    (d, { t with slot := e', res := 0, eff := e', deferred := true, bnd := at' })

/-- Every enabled strobe of the stream gets a start (R55, R56). -/
def Dev.fireStrobes (d : Dev) (s : Nat) (b : Int) (c : Nat) : Dev :=
  (d.listed (R.STBt_CFG 0) 0x20 96 0 1).foldl (fun d t =>
    if d.val (F.STBt_CFG_STREAM t) ≠ s ∨ ¬ d.runs (F.STBt_CFG_EN t) (F.STBt_STAT_IDLE t) then d
    else
      let z := d.stb t
      let delay := d.val (F.STBt_DELAY t)
      if d.on (F.STBt_CFG_MODE t) then
        let d := if z.tickStart.isSome then d.inc (F.STBt_OVL_CNT t) else d
        (d.setStb t { z with tickStart := some (b + delay) }).mark (F.STBt_STAT_PENDING t) true
      else d.setStb t { z with starts := z.starts ++ [c + min 1048575 (max 24 delay)] }) d

/-- A stream move hands over at the first crossing whose effective instant falls at least LEAD µs after GO
(R173). -/
def Dev.handOverAt (d : Dev) (s : Nat) (k : Int) (e : Nat) : Dev :=
  match d.seg.mig with
  | some m =>
    if m.stream ∧ m.src = s ∧ m.jm.isNone ∧ m.goAt + 1000 * m.leadUs ≤ e then
      { d with seg := { d.seg with mig := some { m with jm := some k }, moved := some (s, k) } }
    else d
  | none => d

/-- A crossing falls closer to the last trigger's effective instant than MIN_SPACING (R50). -/
def Dev.tooSoon (d : Dev) (s c : Nat) : Bool :=
  match (d.trgs s).lastE with
  | some e => decide (c < e + d.val (F.TRGs_MIN_SPACING s))
  | none => false

/-- The contexts whose IDLE is clear, as (pipeline, context): STAT resets with IDLE set, so an unlisted one is
idle. -/
def Dev.liveCtxs (d : Dev) : List (Nat × Nat) :=
  d.regs.filterMap (fun e =>
    let base := R.PLn_CTXm_STAT 0 0
    let o := e.1 - base
    if e.1 < base ∨ 17 * 0x10000 ≤ o ∨ 0x200 ≤ o % 0x10000 ∨ o % 0x80 ≠ 0 ∨ fieldOf e.2 0 1 = 1 then none
    else some (o / 0x10000, o % 0x10000 / 0x80))

/-- The contexts that name a stream and are not idle: they take its lines, or refuse them while they drain
(R95, R106). -/
def Dev.ctxsOf (d : Dev) (s : Nat) : List (Nat × Nat) :=
  d.liveCtxs.filter (fun c => d.val (F.PLn_CTXm_CFG_STREAM c.1 c.2) == s)

/-- The enabled contexts that take a stream (R95). -/
def Dev.takers (d : Dev) (s : Nat) : List (Nat × Nat) :=
  (d.ctxsOf s).filter (fun c => d.runs (F.PLn_CTXm_CFG_EN c.1 c.2) (F.PLn_CTXm_STAT_IDLE c.1 c.2))

/-- The trigger of crossing `k` at instant `c`, before its symbol is placed (R49, R54). -/
def Dev.newTrig (d : Dev) (s : Nat) (k : Int) (c : Nat) : Trig :=
  { k := k, cross := c, eff := c + 96, slot := c + 96, res := 0, deferred := false, pin := d.on (F.TRGs_CFG_PATH s),
    sent := false, stamped := false, off := d.vali (F.TRGs_EXP_OFFSET s), taken := ! (d.takers s).isEmpty }

/-- A trigger on the service channel has its symbol placed; one on a pin goes as it is (R52 to R54). -/
def Dev.placeTrig (d : Dev) (s : Nat) (t : Trig) : Dev × Trig := if t.pin then (d, t) else d.placeSymbol (s / 4) t

/-- Crossing `k` of stream `s` at instant `c`: skipped when it falls too close to the last trigger, issued
otherwise (R49, R50, R52 to R57). DEDUCED, log entry 54. -/
def Dev.issue (d : Dev) (s : Nat) (k : Int) (c : Nat) : Dev :=
  if d.tooSoon s c then d.skipCross s k 1 c
  else
    let d := d.inc (F.TRGs_TRIG_CNT s)
    let r := d.placeTrig s (d.newTrig s k c)
    let d := r.1
    let t := r.2
    let d := if t.deferred then (d.inc (F.TRGs_DEFER_CNT s)).raise (F.TRGs_FLAG_DEFER s) else d
    let d := d.setTrgs s { d.trgs s with trigs := (d.trgs s).trigs ++ [t], lastE := some t.eff }
    let d := d.fireStrobes s (d.boundary s k) c
    let d := d.handOverAt s k t.eff
    d.passCross s { k := k, n := 1, eff := t.eff, ovsp := false, rep := .waiting }

/-- The crossings `k` to `k1` of stream `s` on a path from cycle `lo` to cycle `hi`, by fabric cycle: the instant of
the first of a cycle, its number, and how many more fall in that cycle (R48). -/
def Dev.cycleRuns (d : Dev) (path : Nat → Int) (hi s : Nat) (k1 : Int) : Nat → Nat → Int → List (Nat × Nat × Int × Nat)
  | 0, _, _ => []
  | fuel + 1, lo, k =>
    if k1 < k then []
    else
      let b := d.boundary s k
      let c := firstCycle path b 64 lo hi
      let top := if hi ≤ c then k1 else max k (min k1 (d.crossingAt s (path (4 * c))))
      (crossInstant (path (4 * c - 4)) (path (4 * c)) b (4 * c), s, k, (top - k).toNat)
        :: d.cycleRuns path hi s k1 fuel c (top + 1)

/-- A trigger whose delivery is over at instant `t`. -/
def Trig.delivered (x : Trig) (t : Nat) : Bool := x.sent && x.stamped && (x.pin || decide (x.slot + 120 ≤ t))

/-- A stream starts afresh (R9, R47, R86): no entry of its stamp table counts as written since. The effective instant
of its last trigger stays: the next crossing is judged against it (R50). -/
def Dev.trgStart (d : Dev) (s : Nat) : Dev := d.setTrgs s { d.trgs s with stamps := [] }

/-- A stream whose EN was set again during its drain starts afresh once every trigger of the drain has been delivered
(R9). -/
def Dev.trgAgain (d : Dev) (s : Nat) : Dev :=
  if d.restart.contains (R.TRGs_CFG s) && (d.trgs s).trigs.all (fun x => x.delivered d.now) then
    ({ d with restart := d.restart.filter (· != R.TRGs_CFG s) }.setTrgs s { d.trgs s with trigs := [] }).trgStart s
  else d

/-- The crossings of a move of the high-water mark from `h0` to `h1`, the position following `path` since they were
last issued: of each stream the first of a fabric cycle is issued, and the others of that cycle are skipped (R48).
They follow in order of their instants. -/
def Dev.crossings (d : Dev) (path : Nat → Int) (h0 h1 : Int) : Dev :=
  let lo := d.trg.posAt / 4
  let hi := (d.now + 3) / 4
  let d := (d.listed (R.TRGs_CFG 0) 0x40 64 0 1).foldl (fun d s => d.trgAgain s) d
  let found := (d.listed (R.TRGs_CFG 0) 0x40 64 0 1).flatMap (fun s =>
    if ¬ d.runs (F.TRGs_CFG_EN s) (F.TRGs_STAT_IDLE s) then []
    else d.cycleRuns path hi s (d.crossingAt s h1) (hi - lo + 1) lo (d.crossingAt s h0 + 1))
  (orderBy (fun x y => decide (x.1 < y.1)) found).foldl (fun d x =>
    (d.issue x.2.1 x.2.2.1 x.1).skipCross x.2.1 (x.2.2.1 + 1) x.2.2.2 x.1) d

/-- A stream's triggering is off (R144). -/
def Dev.trigOff (d : Dev) (s : Nat) : Bool := ! d.on (F.TRGs_CFG_EN s) && d.on (F.TRGs_STAT_IDLE s)

/-- TRIG_OFF of a stream that feeds the Chart: its triggering is off and its items are all taken, while the
Reckoner runs (R144). DEDUCED, log entry 115. -/
def Dev.trigShow (d : Dev) (s : Nat) : Dev :=
  if d.stc.nextRow.isSome ∧ d.on (F.STC_CAMs_CFG_EN s) then
    d.mark (F.STC_CAMs_STAT_TRIG_OFF s) (d.trigOff s && (d.cam s).items.isEmpty)
  else d

/-! ### Compare units (R44, R45, R189) -/

/-- The enabled head that names a compare unit (R186, R189). -/
def Dev.headOf (d : Dev) (n m : Nat) : Option Nat :=
  (d.listed (R.MRKn_CFG 0) 0x100 16 0 1).find? (fun h =>
    d.val (F.MRKn_CFG_CMP_CH h) == n && d.val (F.MRKn_CFG_CMP_UNIT h) == m)

/-- The flight term F of a head: max(0, v) × FLIGHT, truncated to whole ticks (R189). -/
def Dev.flight (d : Dev) (h : Nat) : Int :=
  let v := d.speed
  (max 0 v.1 * d.val (F.MRKn_FLIGHT_ACT h)) / v.2

/-- What a REGULAR unit compares: HWM, or HWM + F for a unit named by an enabled head (R44, R189). -/
def Dev.cmpTarget (d : Dev) (n m : Nat) : Int :=
  d.vali F.LOG_HWM + match d.headOf n m with
    | some h => d.flight h
    | none => 0

/-- The effective PITCH of a compare unit (R44). -/
def Dev.cmpPitch (d : Dev) (n m : Nat) : Nat := max 64 (d.val (F.LOGn_CMPm_PITCH n m))

/-- The hits a REGULAR unit owes (R44, R45). DEDUCED, log entry 52. -/
def Dev.cmpOwed (d : Dev) (n m : Nat) : Nat :=
  let v := d.vali (F.LOGn_CMPm_VAL n m)
  let p := d.cmpTarget n m
  if v ≤ p then ((p - v) / d.cmpPitch n m + 1).toNat else 0

/-- BACKLOG shows the hits still owed (R45). -/
def Dev.cmpShow (d : Dev) (n m : Nat) : Dev := d.put (F.LOGn_CMPm_CTRL_BACKLOG n m) (min 16 (d.cmpOwed n m))

/-- Every REGULAR unit after a change of the high-water mark or of the speed. -/
def Dev.cmpRefresh (d : Dev) : Dev :=
  d.cmpUnits.foldl (fun d u => if u.2.2 = 3 then d.cmpShow u.1 u.2.1 else d) d

/-- A ONCE unit owes its hit when the selected position moves past VAL (R44). -/
def Dev.cmpPass (d : Dev) (n m : Nat) (p0 p1 : Int) : Dev :=
  let v := d.vali (F.LOGn_CMPm_VAL n m)
  let mode := d.val (F.LOGn_CMPm_CTRL_MODE n m)
  if (mode = 1 ∧ p0 < v ∧ v ≤ p1) ∨ (mode = 2 ∧ v ≤ p0 ∧ p1 < v) then
    d.put (F.LOGn_CMPm_CTRL_BACKLOG n m) 1
  else d

/-- The ONCE units that select the moved position: the unit's (`none`) or channel `c`'s. -/
def Dev.cmpOnce (d : Dev) (chan : Option Nat) (p0 p1 : Int) : Dev :=
  if p0 = p1 then d
  else d.cmpUnits.foldl (fun d u =>
    let unit := d.on (F.LOGn_CMPm_CTRL_SRC u.1 u.2.1)
    let mine := match chan with
      | none => unit
      | some c => ! unit && u.1 == c
    if mine then d.cmpPass u.1 u.2.1 p0 p1 else d) d

/-! ### Moves -/

/-- The unit source comes to a standstill (R37), from which HOLD_DLY runs (R291). -/
def Dev.goStill (d : Dev) : Dev :=
  if d.on F.LOG_STAT_STANDSTILL then d
  else { d.mark F.LOG_STAT_STANDSTILL true with pwr := { d.pwr with stillAt := some d.now } }

/-- Standstill is over (R37). -/
def Dev.stillOver (d : Dev) : Dev :=
  { d.mark F.LOG_STAT_STANDSTILL false with pwr := { d.pwr with stillAt := none } }

/-- HWM advances: REVERSED clears when the position passed it, STANDSTILL gives way to MOTION (R35 to R37). -/
def Dev.advance (d : Dev) (p h1 : Int) : Dev :=
  let h0 := d.vali F.LOG_HWM
  let d := d.puti F.LOG_HWM h1
  let d := if h0 < p then d.mark F.LOG_STAT_REVERSED false else d
  if d.on F.LOG_STAT_STANDSTILL then d.stillOver.raise F.LOG_FLAG_MOTION else d

/-- A retreat below HWM beyond BACKLASH while REVERSED is clear (R36). -/
def Dev.reversal (d : Dev) (p : Int) : Dev :=
  if d.on F.LOG_STAT_REVERSED ∨ d.vali F.LOG_HWM - p ≤ d.val F.LOG_BACKLASH * 256 then d
  else
    let d := (d.raise F.LOG_FLAG_REVERSAL).inc F.LOG_REVERSAL_CNT
    let d := if d.on F.LOG_CTRL_REV_PUB then d.publish (d.val F.LOG_CTRL_REV_EVC) 0x7F else d
    d.mark F.LOG_STAT_REVERSED true

/-- A position that goes from `p0` to `p` in the fabric cycle that ends at or after now. -/
def Dev.leap (d : Dev) (p0 p : Int) (t : Nat) : Int := if t < (d.now + 3) / 4 * 4 then p0 else p

/-- The unit position becomes `p`, by way of `path`, and the high-water mark at least `hb` (R13, R16, R35 to R37,
R47). -/
def Dev.moveUnit (d : Dev) (path : Nat → Int) (p hb : Int) : Dev :=
  let p0 := d.vali F.LOG_POS
  let h0 := d.vali F.LOG_HWM
  let d := d.puti F.LOG_POS p
  let d := d.cmpOnce none p0 p
  let h1 := max h0 (max p hb)
  let d := if h0 < h1 then d.advance p h1 else d
  let d := if h0 < h1 ∧ ¬ d.log.posHeld then d.crossings path h0 h1 else d
  let d := (d.reversal p).cmpRefresh
  { d with trg := { d.trg with posAt := d.now } }

/-- The unit position has passed its limit (R16). -/
def Dev.unitSat (d : Dev) : Dev :=
  { d with log := { d.log with posHeld := true } }.raise F.LOG_FLAG_POS_SAT

/-- The unit position `p` on the beacon and network sources, reached by way of `path`: saturation, length by whole
counts, and the move. A count is 256 ticks of that position, a step of lock step included (R15; DESIGN CHOICE, log
entry 116). -/
def Dev.followUnit (d : Dev) (path : Nat → Int) (p hb : Int) (sat : Bool) : Dev :=
  let p' := clampI posMin posMax p
  let d := d.integrate (p' / 256 - d.log.lenCnt)
  let d := { d with log := { d.log with lenCnt := p' / 256 } }
  let d := d.moveUnit path p' hb
  if sat ∨ p' ≠ p then d.unitSat else d

/-- Channel `n` shows the position it has now, which it has come to by its own motion or, with `jump`, by a count;
the unit follows it when it is the source (R27, R28). -/
def Dev.showChan (d : Dev) (n : Nat) (jump : Bool) : Dev :=
  let p0 := d.vali (F.LOGn_POS n)
  let p := d.chanPosAt n d.now
  let path := if jump then d.leap (d.vali F.LOG_POS) p else d.chanPosAt n
  let sat := d.chanRaw n d.now != p
  let d := ((d.puti (F.LOGn_POS n) p).cmpOnce (some n) p0 p).raiseIf sat (F.LOGn_FLAG_POS_SAT n)
  if d.isSource n then (let d := d.moveUnit path p posMin; if sat then d.unitSat else d) else d

/-- Channel `n` brought to the present instant by its own motion between counts (R34). -/
def Dev.moveChan (d : Dev) (n : Nat) : Dev := d.showChan n false

/-- The count increments of channel `n` pass into its filter channel, summed in periods of 40 ns (R43, R64). -/
def Dev.feedSpeed (d : Dev) (n : Nat) (delta : Int) : Dev :=
  if d.on (F.FLTc_STAT_IDLE (16 + n)) then d
  else
    let x := d.fltc (16 + n)
    d.setFltc (16 + n) { x with raw := (d.now / 40, delta) :: x.raw }

/-- Channel `n`'s count moves by `delta`, held at the limits of the position (R16, R27, R31, R33). -/
def Dev.moveCount (d : Dev) (n : Nat) (delta : Int) : Dev :=
  let c := d.logch n
  let want := c.count + delta
  let got := clampI (-(2 ^ 55)) (2 ^ 55) want
  let d := d.setLogch n { c with count := got }
  let d := if d.isSource n then d.integrate (got - c.count) else d
  let d := d.feedSpeed n (got - c.count)
  let ovsp := decide (256 * want < posMin ∨ posMax < 256 * want)
  let d := d.raiseIf ovsp (F.LOGn_FLAG_POS_SAT n)
  let d := d.showChan n true
  if ovsp ∧ d.isSource n then d.unitSat else d

/-- The unit position brought to what it is at the present instant, between counts and between beacons
(R34, R60): what a read of it shows. -/
def Dev.tickUnit (d : Dev) : Dev :=
  if d.posSrc = 0 then d.moveChan (d.val F.LOG_CTRL_SRC_CHAN)
  else d.followUnit d.unitPosAt (d.unitRaw d.now) posMin false

/-- The source comes to be another one (R28): its position is where length goes on from, its standstill is the
unit's (R37), and the wait for beacons or payloads begins (R61). DESIGN CHOICE, log entry 117. -/
def Dev.newSource (d : Dev) : Dev :=
  let d := { d with log := { d.log with lenCnt := d.unitPosAt d.now / 256 } }
  let d := { d with trg := { d.trg with posAt := d.now, recon := { d.trg.recon with lastRx := d.now, lost := false } } }
  let still := if d.posSrc = 0 then d.on (F.LOGn_STAT_STANDSTILL (d.val F.LOG_CTRL_SRC_CHAN))
    else d.trg.recon.valid && d.trg.recon.still || d.on F.TRG_STAT_FROZEN
  if still then d.goStill else d

end Sys2Proof.Machine
end

