-- ==== Sys2Proof/Machine/Pins.lean ====
section
/-! DEFINITION. The UTP pins and the blocks that own them (R103, R248, R364). -/
namespace Sys2Proof.Machine

/-- The bank that holds UTP `u` has its supply (R364). -/
def Dev.bankPresent (d : Dev) (u : Nat) : Bool := bitOf (d.val F.SYS_UTP_BANK) (8 + u / 32)

/-- A pipeline's flow pins ask for a high level on UTP `u` (R103). -/
def Dev.plAsks (d : Dev) (u : Nat) : Bool :=
  d.regs.any (fun e =>
    let base := R.PLn_CTXm_PIN 0 0
    let o := e.1 - base
    if e.1 < base ∨ 17 * 0x10000 ≤ o ∨ 0x200 ≤ o % 0x10000 ∨ o % 0x80 ≠ 0 then false
    else
      let n := o / 0x10000
      let m := o % 0x10000 / 0x80
      d.on (F.PLn_CTXm_PIN_PIN_EN n m) && d.val (F.PLn_CTXm_PIN_UTP n m) == u
        && (d.on (F.PLn_CTXm_STAT_XOFF n m) != d.on (F.PLn_CTXm_PIN_POL n m)))

/-- A queue's flow pins ask for a high level on UTP `u` (R248). -/
def Dev.queAsks (d : Dev) (u : Nat) : Bool :=
  (d.listed (R.QUE_Qq_CFG 0) 0x40 64 6 1).any (fun q =>
    d.val (F.QUE_Qq_CFG_UTP q) == u && (d.on (F.QUE_Qq_STAT_ABOVE q) != d.on (F.QUE_Qq_CFG_POL q)))

/-- A trigger pin at rest asks for a high level on UTP `u`: POL = 1 on the pin path (R54). -/
def Dev.trgAsks (d : Dev) (u : Nat) : Bool :=
  (d.listed (R.TRGs_CFG 0) 0x40 64 2 1).any (fun s =>
    d.val (F.TRGs_CFG_UTP s) == u && d.on (F.TRGs_CFG_POL s))

/-- The level the owner gives UTP `u`, `none` for an input (R364). -/
def Dev.utpLevel (d : Dev) (u : Nat) : Option Bool :=
  match d.val (F.SYS_UTPu_CFG_OWNER u) with
  | 1 => some (d.trgAsks u)
  | 2 => some (d.plAsks u)
  | 3 => some (d.queAsks u)
  | 4 => some (bitOf (d.val (F.SYS_UTP_OUTw (u / 32))) (u % 32))
  | _ => none

/-- UTP `u` takes the level its owner asks for; SYS_UTP_INw shows it. A bank without its supply keeps its pins
high-impedance, and they read 0 (R364). DESIGN CHOICE, log entry 114. -/
def Dev.utpRefresh (d : Dev) (u : Nat) : Dev :=
  let f : Fld := ⟨R.SYS_UTP_INw (u / 32), u % 32, 1⟩
  if ! d.bankPresent u then d.put f 0
  else
    match d.utpLevel u with
    | none => d
    | some b => if d.on f == b then d else (d.mark f b).emit (.flowPin u b)

end Sys2Proof.Machine
end

