-- ==== Sys2Proof/Machine/Fifo.lean ====
section
/-! DEFINITION. The context FIFOs: admission, fill, flow control, and what a stream's lines do at them
(R95 to R105, R173). -/
namespace Sys2Proof.Machine

/-- The configured length L of a stream, 64 to 32,768 (R94). -/
def Dev.lineLen (d : Dev) (s : Nat) : Nat := min 32768 (max 64 (d.val (F.SLK_Ss_LINE_ACT_LEN s)))

/-- The words reserved in a context's FIFO (R98). -/
def Ctx.fill (c : Ctx) : Nat := c.fifo.foldl (fun n l => n + l.words) 0

/-- HI and LO as they act (R103). -/
def Dev.flowHi (d : Dev) (n m : Nat) : Nat := min 16384 (max 1 (d.val (F.PLn_CTXm_FLOW_HI n m)))
def Dev.flowLo (d : Dev) (n m : Nat) : Nat := min (d.flowHi n m - 1) (d.val (F.PLn_CTXm_FLOW_LO n m))

/-- XOFF or XON is requested for the context's stream, and the pin follows (R103). DEDUCED, log entry 59. -/
def Dev.setXoff (d : Dev) (n m : Nat) (b : Bool) : Dev :=
  let s := d.val (F.PLn_CTXm_CFG_STREAM n m)
  let d := (d.mark (F.PLn_CTXm_STAT_XOFF n m) b).mark (F.SLK_Ss_STAT_XOFF s) b
  let d := if b then d.inc (F.PLn_CTXm_XOFF_CNT n m) else d
  let l := d.lstr s
  let d := d.setLstr s { l with flowReq := l.flowReq ++ [b] }
  if d.on (F.PLn_CTXm_PIN_PIN_EN n m) then d.utpRefresh (d.val (F.PLn_CTXm_PIN_UTP n m)) else d

/-- XOFF released where it is held (R106). -/
def Dev.releaseXoff (d : Dev) (n m : Nat) : Dev :=
  if d.on (F.PLn_CTXm_STAT_XOFF n m) then d.setXoff n m false else d

/-- FILL, LINES, READY and the watermarks after a change of the FIFO (R98, R103, R110). -/
def Dev.ctxShow (d : Dev) (n m : Nat) : Dev :=
  let c := d.ctx n m
  let fill := c.fill
  let d := d.put (F.PLn_CTXm_STAT_FILL n m) fill
  let d := d.put (F.PLn_CTXm_STAT_LINES n m) c.fifo.length
  let ready := match c.fifo.find? (fun l => ! l.granted) with
    | some l => l.complete
    | none => false
  let d := d.put ⟨R.PLn_ARB_STAT n, 4 + m, 1⟩ (b2n ready)
  let held := d.on (F.PLn_CTXm_STAT_XOFF n m)
  if ! held && decide (d.flowHi n m ≤ fill) then d.setXoff n m true
  else if held && decide (fill ≤ d.flowLo n m) then d.setXoff n m false
  else d

/-- A line dropped: its crossing goes to the Reckoner as one without a line (R105). -/
def Dev.dropLine (d : Dev) (n m s : Nat) (k : Int) (flag : Bool) : Dev :=
  let d := (d.lineless s k).inc (F.PLn_CTXm_DROP_CNT n m)
  d.raiseIf flag (F.PLn_CTXm_FLAG_DROP n m)

/-- The context that a line of crossing `k` of stream `s` goes to: during a stream move the old one below the
hand-over crossing and the target from it on (R95, R173). An enabled context goes before one that drains. -/
def Dev.ctxOf (d : Dev) (s : Nat) (k : Int) : Option (Nat × Nat) :=
  let all := d.takers s ++ d.ctxsOf s
  match d.seg.mig with
  | some g =>
    if g.stream ∧ g.src = s then
      let late : Bool := match g.jm with
        | some j => decide (j ≤ k)
        | none => false
      all.find? (fun c => (c == (g.tgt, g.ctx)) == late)
    else all.head?
  | none => all.head?

/-- Admission (R98): words and a tag entry for the whole line, or the line is dropped; a context that drains
refuses it (R106). The answer says whether the line was admitted. -/
def Dev.letIn (d : Dev) (n m : Nat) (t : LineTag) : Dev × Bool :=
  let c := d.ctx n m
  let w := divCeil t.len 4
  if ! d.runs (F.PLn_CTXm_CFG_EN n m) (F.PLn_CTXm_STAT_IDLE n m) then (d.dropLine n m t.stream t.k false, false)
  else if 16384 < c.fill + w ∨ 32 ≤ c.fifo.length then (d.dropLine n m t.stream t.k true, false)
  else
    let l : FifoLine := { tag := { t with pl := n, ctx := m }, words := w, pixels := [], complete := false }
    ((d.setCtx n m { c with fifo := c.fifo ++ [l] }).ctxShow n m, true)

/-- The line being received by a context is complete (R98), or is gone (`none`). -/
def Dev.finishLine (d : Dev) (n m : Nat) (done : Option (LineTag × List Nat)) : Dev :=
  let c := d.ctx n m
  let fifo := match done with
    | some x => c.fifo.map (fun l => if l.complete then l
        else { l with tag := { x.1 with pl := n, ctx := m }, pixels := x.2, complete := true })
    | none => c.fifo.filter (·.complete)
  (d.setCtx n m { c with fifo := fifo }).ctxShow n m

end Sys2Proof.Machine
end

