-- ==== Sys2Proof/Machine/Correct.lean ====
section
/-! DEFINITION. Pixel correction of one granted line: black level, defective pixels, offset and gain, ramps,
and the split into planes (R111 to R128). -/
namespace Sys2Proof.Machine

/-! ### Mosaics (R112, R127) -/

/-- How the pixels of a context's line lie: sensor rows, columns of each, optical-black columns, and the plane
of each mosaic entry (`none`: NONE). -/
structure Layout where
  len   : Nat
  h     : Nat
  w     : Nat
  q     : Nat
  ob    : Nat
  atEnd : Bool
  ents  : List (List (Option Nat))
  deriving DecidableEq, Repr

/-- The plane that a mosaic entry byte names; codes 6 and 7 name none (R127). -/
def entPlane (e : Nat) : Option Nat := if 6 ≤ e % 8 then none else some (e / 8 % 4)

/-- A context's layout for lines of `L` pixels (R112, R127). -/
def Dev.layout (d : Dev) (n m L : Nat) : Layout :=
  let h := d.val (F.PLn_CTXm_MOSAIC_CFG_HM1 n m) + 1
  let w := d.val (F.PLn_CTXm_MOSAIC_CFG_WM1 n m) + 1
  { len := L, h := h, w := w, q := max 1 (L / h), ob := min 64 (d.val (F.PLn_CTXm_CAL_CFG_OB_COUNT n m)),
    atEnd := d.on (F.PLn_CTXm_CAL_CFG_OB_END n m),
    ents := (List.range h).map (fun k => (List.range w).map (fun c =>
      entPlane (d.val (F.PLn_CTXm_MOSAIC_ENTk n m k) / 256 ^ c % 256))) }

/-- Pixel `i` is optical black (R112). -/
def Layout.isOb (y : Layout) (i : Nat) : Bool :=
  let c := i % y.q
  if y.atEnd then decide (y.q ≤ c + y.ob) else decide (c < y.ob)

/-- The first active column of a sensor row (R127). -/
def Layout.start (y : Layout) : Nat := if y.atEnd then 0 else y.ob

/-- Active columns of a sensor row, A (R128). -/
def Layout.active (y : Layout) : Nat := y.q - y.ob

/-- The plane of active column `a` of sensor row `k` (R127). -/
def Layout.planeOf (y : Layout) (k a : Nat) : Option Nat := (y.ents.getD k []).getD (a % y.w) none

/-- The plane of pixel `i`; `none` for optical black and NONE. -/
def Layout.plane (y : Layout) (i : Nat) : Option Nat :=
  if y.isOb i then none else y.planeOf (i / y.q) (i % y.q - y.start)

/-- The planes used, P of them (R127). -/
def Layout.planes (y : Layout) : Nat :=
  (y.ents.flatten.filterMap id).foldl (fun p x => max p (x + 1)) 0

/-- The sensor row of a plane. -/
def Layout.rowOf (y : Layout) (p : Nat) : Option Nat :=
  (List.range y.h).find? (fun k => (y.ents.getD k []).contains (some p))

/-! ### Black level (R112, R113) -/

/-- The mean of numbers rounded half up. -/
def meanHalfUp (l : List Nat) : Nat := (2 * l.foldl (· + ·) 0 + l.length) / (2 * l.length)

/-- The OB mean of a line, static defects left out; `none` when no OB pixel is left (R112). -/
def obMean (y : Layout) (static : List Nat) (x0 : List Nat) : Option Nat :=
  let l := ((List.range y.len).zip x0).filter (fun e => y.isOb e.1 && ! static.contains e.1)
  if l.isEmpty then none else some (meanHalfUp (l.map (·.2)))

/-- One step of the ramp rule: old + (new − old) × i / n, toward zero (R121). -/
def rampAt (old new : Int) (i n : Nat) : Int := old + Int.tdiv ((new - old) * i) n

/-- The static map in use (R114). -/
def Dev.staticMap (d : Dev) (n m : Nat) : List Nat := (d.ctx n m).static.take (d.val (F.PLn_CTXm_DPM_COUNT n m))

/-- The level subtracted from a line: the filtered or the fixed one, kept in BLK_LEVEL (R113). `good` is a line
without POISONED, SHORT and LONG. DEDUCED, log entry 61. -/
def Dev.blackLevel (d : Dev) (n m : Nat) (y : Layout) (good : Bool) (x0 : List Nat) : Dev × Int :=
  let c := d.ctx n m
  if ! d.on (F.PLn_CTXm_COR_ACT_BLK_EN n m) then (d.put (F.PLn_CTXm_BLK_LEVEL n m) 0, 0)
  else if d.on (F.PLn_CTXm_COR_ACT_BLK_MODE n m) ∨ y.ob = 0 then
    (d.put (F.PLn_CTXm_BLK_LEVEL n m) (c.blkNow.toNat * 256), c.blkNow)
  else
    let c := match (if good then obMean y (d.staticMap n m) x0 else none) with
      | none => c
      | some ob =>
        let v : Int := if c.firstBlk then (ob * 256 : Nat)
          else (c.blk : Int) + ((ob * 256 : Nat) - (c.blk : Int)) / (2 ^ d.val (F.PLn_CTXm_COR_ACT_BLK_SHIFT n m) : Nat)
        { c with blk := v.toNat, firstBlk := false }
    ((d.setCtx n m c).put (F.PLn_CTXm_BLK_LEVEL n m) c.blk, ((c.blk + 128) / 256 : Nat))

/-! ### Defective pixels (R116) -/

/-- The nearest good same-plane neighbour among the pixels `near`, in order of distance from `i`: at most three
same-plane columns are tried. -/
def goodSide (y : Layout) (listed : List Nat) (i : Nat) (near : List Nat) : Option Nat :=
  ((near.filter (fun j => y.plane j == y.plane i)).take 3).find? (fun j => ! listed.contains j)

/-- What replaces a listed pixel of a plane; `none` when no good neighbour is near (R116). -/
def replacement (y : Layout) (listed : List Nat) (x1 : List Int) (i : Nat) : Option Int :=
  let row := i / y.q * y.q
  let c := i % y.q
  let cols := (List.range y.q).filter (fun k => ! y.isOb (row + k))
  let l := goodSide y listed i ((cols.filter (fun k => decide (k < c))).reverse.map (row + ·))
  let r := goodSide y listed i ((cols.filter (fun k => decide (c < k))).map (row + ·))
  match l, r with
  | some a, some b =>
    let dl : Int := (i : Int) - a
    let dr : Int := (b : Int) - i
    some (Int.tdiv (x1.getD a 0 * dr + x1.getD b 0 * dl + (dl + dr) / 2) (dl + dr))
  | some a, none => some (x1.getD a 0)
  | none, some b => some (x1.getD b 0)
  | none, none => none

/-- Step 2 (R116): the line after replacement, and the pixels that could not be replaced. -/
def replaceAll (y : Layout) (listed : List Nat) (x1 : List Int) : List Int × Nat :=
  let out := ((List.range y.len).zip x1).map (fun e =>
    if listed.contains e.1 && (y.plane e.1).isSome then
      match replacement y listed x1 e.1 with
      | some v => (v, 0)
      | none => (e.2, 1)
    else (e.2, 0))
  (out.map (·.1), (out.map (·.2)).foldl (· + ·) 0)

/-! ### Offset and gain (R117 to R119) -/

/-- A stored calibration entry: gain 1.0 and offset 0 until written (R118). -/
def calDefault : Nat := 0x4000

/-- Gain and offset of set `j` at pixel `i`, with a ramp of that set in force (R118, R121). -/
def Ctx.setEntry (c : Ctx) (j i : Nat) : Int × Int :=
  let e := tabGet calDefault c.sets (j * 32768 + i)
  let g : Int := (e % 65536 : Nat)
  let o := toSigned 16 (e / 65536)
  match c.setRamp with
  | some r =>
    if r.set = j then
      let t := tabGet calDefault c.staging i
      (rampAt g ((t % 65536 : Nat) : Int) r.done r.len, rampAt o (toSigned 16 (t / 65536)) r.done r.len)
    else (g, o)
  | none => (g, o)

/-- The self-calibration factor in use at pixel `i` (R117, R121, R125). -/
def Ctx.cEntry (c : Ctx) (i : Nat) : Int :=
  let v : Int := (tabGet calDefault c.cfac i : Nat)
  match c.setRamp.filter (fun r => r.set == 15), c.scRamp with
  | some r, _ => rampAt v ((tabGet calDefault c.staging i % 65536 : Nat) : Int) r.done r.len
  | none, some r => rampAt v ((tabGet calDefault c.cto i : Nat) : Int) r.done r.len
  | none, none => v

/-- NTEMP as it acts, and the temperature of set `j` (R118, R135). -/
def Dev.ntemp (d : Dev) (n m : Nat) : Nat := min 8 (max 1 (d.val (F.PLn_CTXm_CAL_CFG_NTEMP n m)))
def Dev.tempPt (d : Dev) (n m j : Nat) : Int :=
  toSigned 16 (d.val (F.PLn_CTXm_TEMP_PTk n m (j / 2)) / 65536 ^ (j % 2) % 65536)

/-- The set used, and the one above it with its weight, for temperature `th`; and where `th` lies: 0 within,
1 below, 2 above (R118). -/
def Dev.tempChoice (d : Dev) (n m : Nat) (th : Int) : Nat × Option (Nat × Int) × Nat :=
  let k := d.ntemp n m
  if ! d.on (F.PLn_CTXm_COR_ACT_TEMP_EN n m) ∨ k = 1 then (0, none, 0)
  else if th < d.tempPt n m 0 then (0, none, 1)
  else if d.tempPt n m (k - 1) ≤ th then (k - 1, none, 2)
  else
    let j := ((List.range (k - 1)).find? (fun j => decide (d.tempPt n m j ≤ th ∧ th < d.tempPt n m (j + 1)))).getD 0
    let t0 := d.tempPt n m j
    (j, some (j + 1, Int.tdiv ((th - t0) * 65536) (d.tempPt n m (j + 1) - t0)), 0)

/-- The filtered temperature (R119). -/
def Dev.theta (d : Dev) (n m : Nat) : Int :=
  if (d.ctx n m).tempSeen then d.vali (F.PLn_CTXm_CAL_STAT_TEMP_F n m)
  else toSigned 16 (d.val (F.PLn_CTXm_TEMP_DEF n m) % 65536)

/-- A TEMP field taken into the filter (R119). -/
def Dev.takeTemp (d : Dev) (n m temp : Nat) : Dev :=
  let th := d.theta n m
  if temp = 0x8000 then d.puti (F.PLn_CTXm_CAL_STAT_TEMP_F n m) th
  else
    let th' := th + (toSigned 16 temp - th) / (2 ^ d.val (F.PLn_CTXm_COR_ACT_TF_SHIFT n m) : Nat)
    (d.setCtx n m { d.ctx n m with tempSeen := true }).puti (F.PLn_CTXm_CAL_STAT_TEMP_F n m) th'

/-- The product of U2.14 factors, saturated (R117). -/
def gainOf (gt c : Int) (ill : Nat) : Int := min 0xFFFF (((gt * c + 8192) / 16384 * ill + 8192) / 16384)

/-- Step 3 for one pixel (R111). -/
def stepThree (x2 off gain : Int) : Nat := (clampI 0 65535 (((x2 - off) * gain + 8192) / 16384)).toNat

/-- The temperature-set gain and offset of pixel `i` (R118). -/
def Ctx.tempEntry (c : Ctx) (ch : Nat × Option (Nat × Int) × Nat) (i : Nat) : Int × Int :=
  let a := c.setEntry ch.1 i
  match ch.2.1 with
  | none => a
  | some (j, w) =>
    let b := c.setEntry j i
    (a.1 + ((b.1 - a.1) * w + 32768) / 65536, a.2 + ((b.2 - a.2) * w + 32768) / 65536)

/-- Offset and gain over a line (R117, R118); TEMP_RANGE is set and counted on each entry into the range outside the
set temperatures, below and above alike. DEDUCED, log entry 63. -/
def Dev.offsetGain (d : Dev) (n m : Nat) (ill : Nat) (x2 : List Int) : Dev × List Nat :=
  let c := d.ctx n m
  let ch := d.tempChoice n m (d.theta n m)
  let ff := d.on (F.PLn_CTXm_COR_ACT_FF_EN n m)
  let x3 := ((List.range x2.length).zip x2).map (fun e =>
    let a : Int × Int := if ff then c.tempEntry ch e.1 else (16384, 0)
    stepThree e.2 a.2 (gainOf a.1 (c.cEntry e.1) ill))
  let d := if ch.2.2 ≠ 0 ∧ c.outRange = 0 then
      (d.raise (F.PLn_CTXm_CAL_FLAG_TEMP_RANGE n m)).inc (F.PLn_CTXm_TEMP_RANGE_CNT n m)
    else d
  (d.setCtx n m { d.ctx n m with outRange := ch.2.2 }, x3)

/-! ### Ramps (R113, R121, R122, R125) -/

/-- The ramp length that acts (R121). -/
def Dev.rampLen (d : Dev) (n m : Nat) : Nat := min 65535 (max 16 (d.val (F.PLn_CTXm_RAMP_LEN n m)))

/-- One grant of the committed ramp: at its end the staging values become the set (R121). -/
def Dev.setRampStep (d : Dev) (n m : Nat) : Dev × Bool :=
  let c := d.ctx n m
  match c.setRamp with
  | none => (d, false)
  | some r =>
    if r.done + 1 < r.len then (d.setCtx n m { c with setRamp := some { r with done := r.done + 1 } }, true)
    else
      let c' := if r.set = 15 then
          { c with setRamp := none,
                   cfac := c.staging.foldl (fun t e => tabSet calDefault t e.1 (e.2 % 65536)) [] }
        else
          { c with setRamp := none,
                   sets := c.sets.filter (fun e => e.1 / 32768 != r.set)
                     |> (fun t => c.staging.foldl (fun t e => tabSet calDefault t (r.set * 32768 + e.1) e.2) t) }
      ((d.setCtx n m c').mark (F.PLn_CTXm_CAL_STAT_SET_RAMP n m) false, true)

/-- One grant of a self-calibration ramp (R125). -/
def Dev.scRampStep (d : Dev) (n m : Nat) : Dev × Bool :=
  let c := d.ctx n m
  match c.scRamp with
  | none => (d, false)
  | some r =>
    if r.done + 1 < r.len then (d.setCtx n m { c with scRamp := some { r with done := r.done + 1 } }, true)
    else ((d.setCtx n m { c with scRamp := none, cfac := c.cto, cto := [] }).mark (F.PLn_CTXm_CAL_STAT_SC_RAMP n m) false, true)

/-- One grant of a BLK_FIXED ramp (R113). -/
def Dev.blkRampStep (d : Dev) (n m : Nat) : Dev × Bool :=
  let c := d.ctx n m
  match c.blkRamp with
  | none => (d, false)
  | some r =>
    if r.done + 1 < r.len then
      (d.setCtx n m { c with blkRamp := some { r with done := r.done + 1 }, blkNow := rampAt c.blkFrom c.blkTo (r.done + 1) r.len }, true)
    else ((d.setCtx n m { c with blkRamp := none, blkNow := c.blkTo }).mark (F.PLn_CTXm_CAL_STAT_BLK_RAMP n m) false, true)

/-- The ramps of a grant, and whether its line carries CAL_RAMP for them or for a changed enable (R122). -/
def Dev.rampSteps (d : Dev) (n m : Nat) : Dev × Bool :=
  let a := d.setRampStep n m
  let b := a.1.scRampStep n m
  let e := b.1.blkRampStep n m
  let c := e.1.ctx n m
  (e.1.setCtx n m { c with markLeft := c.markLeft - 1 }, a.2 || b.2 || e.2 || decide (0 < c.markLeft))

/-! ### The line -/

/-- Plane `p` of a corrected line: its own columns, `none` in those that step 6 fills (R128). -/
def Layout.planeVals (y : Layout) (x3 : List Nat) (p : Nat) : List (Option Nat) :=
  match y.rowOf p with
  | none => List.replicate y.active none
  | some k => (List.range y.active).map (fun a =>
      if y.planeOf k a = some p then some (x3.getD (k * y.q + y.start + a) 0) else none)

/-- Steps 0 to 4 of the chain on one line (R111): the pixels after step 3 and the planes. -/
def Dev.correct (d : Dev) (n m : Nat) (tag : LineTag) (px : List Nat) : Dev × List Nat × List (List (Option Nat)) :=
  let y := d.layout n m px.length
  let x0 := px.map (fun v => v * 2 ^ (16 - tag.depth))
  let good := ! (tag.poison || tag.short || tag.long)
  let d := d.takeTemp n m tag.temp
  let b := d.blackLevel n m y good x0
  let d := b.1
  let x1 : List Int := x0.map (fun (v : Nat) => (v : Int) - b.2)
  let listed := d.staticMap n m ++ (d.ctx n m).dynamic
  let r := if d.on (F.PLn_CTXm_COR_ACT_DPC_EN n m) then replaceAll y listed x1 else (x1, 0)
  let d := if 0 < r.2 then (d.raise (F.PLn_CTXm_CAL_FLAG_REPL_FAIL n m)).bump (F.PLn_CTXm_REPL_FAIL_CNT n m) r.2 else d
  let g := d.offsetGain n m tag.gain r.1
  (g.1, g.2, (List.range y.planes).map (y.planeVals g.2))

end Sys2Proof.Machine
end

