-- ==== Sys2Proof/Machine/Frames.lean ====
section
/-! DEFINITION. Chain frames (R309, R310): building, checking, forwarding and taking them. -/
namespace Sys2Proof.Machine

/-- The unit address: segment in bits 13:6, hop in bits 5:0 (R307). -/
def Dev.unitAddr (d : Dev) : Nat := d.val F.CHN_ADDR % 2 ^ 14
def Dev.hop (d : Dev) : Nat := d.unitAddr % 64
def Dev.segNo (d : Dev) : Nat := d.unitAddr / 64

/-- The bytes of payload words, each little-endian. -/
def wordBytes (ws : List (BitVec 64)) : List Byte := ws.flatMap (fun w => bytesLE 8 w.toNat)

/-- Bytes put into words of eight, the last filled with zeros. -/
def toWords : Nat → List Byte → List (BitVec 64)
  | 0, _ => []
  | k + 1, bs => if bs.isEmpty then [] else BitVec.ofNat 64 (natLE (bs.take 8)) :: toWords k (bs.drop 8)

/-- A frame with its control block and trailer (R309). -/
def mkFrame (type dest hop : Nat) (ws : List (BitVec 64)) : ChainFrame :=
  let body := [BitVec.ofNat 8 type] ++ bytesLE 2 dest ++ [BitVec.ofNat 8 hop] ++ bytesLE 2 ws.length
  { ctrl := [0x55] ++ body ++ [BitVec.ofNat 8 (crc8 body)], words := ws,
    trailer := BitVec.ofNat 64 (crc32c (wordBytes ws)) }

end Sys2Proof.Machine

namespace Sys2Proof
open Machine

/-- The fields of a frame's control block (R309). -/
def ChainFrame.type (f : ChainFrame) : Nat := (f.ctrl.getD 1 0).toNat
def ChainFrame.dest (f : ChainFrame) : Nat := leAt f.ctrl 2 2
def ChainFrame.srcHop (f : ChainFrame) : Nat := (f.ctrl.getD 4 0).toNat % 64
def ChainFrame.len (f : ChainFrame) : Nat := leAt f.ctrl 5 2
def ChainFrame.bcast (f : ChainFrame) : Bool := f.dest.testBit 15
def ChainFrame.bytes (f : ChainFrame) : List Byte := wordBytes f.words

/-- The frame with other payload words and the CRC that belongs to them. -/
def ChainFrame.withWords (f : ChainFrame) (ws : List (BitVec 64)) : ChainFrame :=
  { f with words := ws, trailer := BitVec.ofNat 64 (crc32c (wordBytes ws)) }

end Sys2Proof

namespace Sys2Proof.Machine

/-- The chain port on the side is up (R304). -/
def Dev.portUp (d : Dev) : Side → Bool
  | .chu => d.on F.CHN_STAT_UP_U
  | .chd => d.on F.CHN_STAT_UP_D

def otherSide : Side → Side
  | .chu => .chd
  | .chd => .chu

/-- A frame leaves on a port that is up. -/
def Dev.chainOut (d : Dev) (p : Side) (f : ChainFrame) : Dev := if d.portUp p then d.emit (.chain p f) else d

/-- A frame of this unit to one unit, or to every unit of the segment (R309). -/
def Dev.frameTo (d : Dev) (type hopTo : Nat) (ws : List (BitVec 64)) : ChainFrame :=
  mkFrame type (d.segNo * 64 + hopTo) d.hop ws
def Dev.frameAll (d : Dev) (type : Nat) (ws : List (BitVec 64)) : ChainFrame :=
  mkFrame type (0x8000 + d.segNo * 64) d.hop ws

/-- The header of a frame is good (R309). ENUM is taken whatever segment it names, since a unit whose own
segment differs takes the head's (R307; DEDUCED, log entry 17). -/
def Dev.hdrGood (d : Dev) (f : ChainFrame) : Bool :=
  crc8 ((f.ctrl.drop 1).take 6) == (f.ctrl.getD 7 0).toNat && decide (f.len ≤ 1040) && f.words.length == f.len
    && (f.type == 0x03 || f.dest % 2 ^ 14 / 64 == d.segNo)

/-- The trailer of a frame is good (R309). -/
def crcGood (f : ChainFrame) : Bool :=
  crc32c f.bytes == f.trailer.toNat % 2 ^ 32 && f.trailer.toNat / 2 ^ 32 == 0

/-- The checks of an arriving frame (R304, R309): the block after them, and whether the frame stands. -/
def Dev.chainCheck (d : Dev) (p : Side) (f : ChainFrame) : Dev × Bool :=
  if ! d.portUp p then (d, false)
  else if f.ctrl.getD 0 0 != 0x55 then (d.inc F.CHN_HDR_ERR_CNT, false)
  else if ! d.hdrGood f then ((d.raise F.CHN_FLAG_HDR_ERR).inc F.CHN_HDR_ERR_CNT, false)
  else if ! crcGood f then ((d.raise F.CHN_FLAG_CRC_ERR).inc F.CHN_CRC_ERR_CNT, false)
  else (d, true)

/-- The frame is addressed to this unit alone, and the unit has an address (R310). -/
def Dev.mine (d : Dev) (f : ChainFrame) : Bool :=
  ! f.bcast && f.dest % 2 ^ 14 == d.unitAddr && d.on F.CHN_STAT_ADDR_VALID

/-- The frame is forwarded on the other port and counted (R310). -/
def Dev.forward (d : Dev) (p : Side) (f : ChainFrame) : Dev :=
  if d.on F.CHN_CFG_HEAD then d
  else if d.portUp (otherSide p) then (d.chainOut (otherSide p) f).inc F.CHN_FWD_CNT
  else d

/-- A frame of type `type` arrives (R309, R310): the block after checks and forwarding, in which `onward`
gives the frame as it is passed on, and whether the unit takes it. NEIGH and SEAM stop at the neighbour. -/
def Dev.chainIn (d : Dev) (p : Side) (f : ChainFrame) (type : Nat) (onward : ChainFrame → ChainFrame) : Dev × Bool :=
  if f.type ≠ type then (d, false)
  else
    let r := d.chainCheck p f
    if ! r.2 then r
    else
      let d := r.1
      if type = 0x05 ∨ type = 0x06 then (d, true)
      else if f.srcHop = d.hop ∧ d.on F.CHN_STAT_ADDR_VALID then (d, false)
      else if d.mine f then (d, true)
      else (d.forward p (onward f), f.bcast)

end Sys2Proof.Machine
end

