-- ==== Sys2Proof/Machine/Queue.lean ====
section
/-! DEFINITION. The queues: writing, reading, watermarks, flush and disable (R244 to R251). -/
namespace Sys2Proof.Machine

/-! ### Fill and watermarks -/

/-- The words a queue holds (R245). -/
def Queue.fill (q : Queue) : Nat := q.items.foldl (fun n i => n + b2n i.hdr + i.words.length) 0

/-- The words of a queue's region (R244). -/
def Dev.queCap (d : Dev) (q : Nat) : Nat := d.val (F.QUE_Qq_SIZE q) * 512

/-- HI and LO as they act (R248). -/
def Dev.queHi (d : Dev) (q : Nat) : Nat := max 1 (d.val (F.QUE_Qq_HI q))
def Dev.queLo (d : Dev) (q : Nat) : Nat := min (d.queHi q - 1) (d.val (F.QUE_Qq_LO q))

/-- ABOVE changes: the event and the pin (R248). -/
def Dev.queAbove (d : Dev) (q : Nat) (b : Bool) : Dev :=
  let d := d.mark (F.QUE_Qq_STAT_ABOVE q) b
  let d := if b then
      (if d.on (F.QUE_Qq_CFG_PUB_HI q) then d.publish (d.val (F.QUE_Qq_CFG_HI_EVC q)) (0x40 + q) else d)
    else if d.on (F.QUE_Qq_CFG_PUB_LO q) then d.publish (d.val (F.QUE_Qq_CFG_LO_EVC q)) (0x40 + q) else d
  if d.on (F.QUE_Qq_CFG_PIN_EN q) then d.utpRefresh (d.val (F.QUE_Qq_CFG_UTP q)) else d

/-- STAT after a change of a queue: FILL, FULL, WRITING, ABOVE, and IDLE once a disabled queue is empty and no item is
being written (R248, R250). An empty region holds no word and is not full (R259: the reset value). -/
def Dev.queShow (d : Dev) (q : Nat) : Dev :=
  let x := d.queue q
  let fill := x.fill
  let d := d.put (F.QUE_Qq_STAT_FILL q) fill
  let d := d.mark (F.QUE_Qq_STAT_FULL q) (decide (0 < fill ∧ d.queCap q ≤ fill))
  let d := d.mark (F.QUE_Qq_STAT_WRITING q) (decide (0 < x.fwLeft) || x.waiting.any (·.begun))
  let above := d.on (F.QUE_Qq_STAT_ABOVE q)
  let d := if ! above && decide (d.queHi q ≤ fill) then d.queAbove q true
    else if above && decide (fill ≤ d.queLo q) then d.queAbove q false
    else d
  if fill = 0 ∧ x.waiting.all (·.dead) ∧ x.fwLeft = 0 ∧ d.drains (F.QUE_Qq_CFG_EN q) (F.QUE_Qq_STAT_IDLE q) then
    (d.drained (F.QUE_Qq_CFG_EN q) (F.QUE_Qq_STAT_IDLE q)).1
  else d

/-! ### Writing -/

/-- An item or header refused, or an item discarded (R245, R246, R250). -/
def Dev.queRefuse (d : Dev) (q : Nat) : Dev := (d.inc (F.QUE_Qq_REFUSED_CNT q)).raise (F.QUE_Qq_FLAG_REFUSED q)

/-- The data words of an item of `len` bytes (R245). -/
def dataWords (len : Nat) : Nat := divCeil len 8

/-- The queue can take a header of `len` bytes at all: enabled, and the item not larger than the region unless
it is cut through (R245, R250). A length of 0 is no item (R245, log entry 19). -/
def Dev.queTakes (d : Dev) (q len : Nat) : Bool :=
  d.runs (F.QUE_Qq_CFG_EN q) (F.QUE_Qq_STAT_IDLE q) && decide (0 < len)
    && (d.on (F.QUE_Qq_CFG_CUT q) || decide (1 + dataWords len ≤ d.queCap q))

/-- The first `k` words put into the last item; a dead item's words vanish (R249, R251). -/
def putWords (ws : List (BitVec 64 × Bool)) : List QItem → List QItem
  | [] => []
  | [i] => if i.dead then [{ i with toCome := i.toCome - ws.length }]
           else [{ i with words := i.words ++ ws, toCome := i.toCome - ws.length }]
  | i :: t => i :: putWords ws t

/-- Dead items that have come to their end leave. -/
def sweep (l : List QItem) : List QItem := l.filter (fun i => ! (i.dead && i.toCome == 0))

/-- The writer of a context's statistics records at its queue. -/
def statSrc (n m : Nat) : Nat := 0x1000 + 4 * n + m

/-- The writer's item has been written, as far as it knows: a flushed item's producer is not told (R249). A statistics
record counts in STATS_CNT (R109). -/
def Dev.recWritten (d : Dev) (src : Nat) : Dev :=
  if statSrc 0 0 ≤ src ∧ src < statSrc 17 0 then d.inc (F.PLn_CTXm_STATS_CNT ((src - statSrc 0 0) / 4) (src % 4)) else d

/-- The writer at the port writes its header, then as many words as are free (R245, R246). The answer says
whether its item ended. -/
def Dev.queAdvance (d : Dev) (q : Nat) (w : QWriter) : Dev × QWriter × Bool :=
  let x := d.queue q
  let free := d.queCap q - x.fill
  if w.dead then (if w.more = 0 ∧ ! w.told then d.recWritten w.src else d, { w with words := [] }, w.more == 0)
  else if ! w.begun ∧ ¬ d.queTakes q w.len then
    (d.queRefuse q, { w with words := [], begun := true, dead := true, told := true }, w.more == 0)
  else if ! w.begun ∧ (free = 0 ∨ 0 < x.fwLeft) then (d, w, false)
  else
    let items := if w.begun then x.items else x.items ++ [⟨w.len, w.prod, [], dataWords w.len, true, false⟩]
    let free := if w.begun then free else free - 1
    let dead : Bool := match items.getLast? with
      | some i => i.dead
      | none => false
    let k := if dead then w.words.length else min free w.words.length
    let d := d.setQueue q { x with items := sweep (putWords (w.words.take k) items) }
    let w := { w with begun := true, words := w.words.drop k }
    let fin := w.words.isEmpty && w.more == 0
    (if fin then (d.inc (F.QUE_Qq_ITEM_CNT q)).recWritten w.src else d, w, fin)

/-- The producers in their order, for as long as one after the other ends its item. -/
def Dev.quePump (q : Nat) : Nat → Dev → Dev
  | 0, d => d
  | k + 1, d =>
    match (d.queue q).waiting with
    | [] => d
    | w :: rest =>
      let r := d.queAdvance q w
      if r.2.2 then Dev.quePump q k (r.1.setQueue q { r.1.queue q with waiting := rest })
      else r.1.setQueue q { r.1.queue q with waiting := r.2.1 :: rest }

/-- A header that waits at a queue that takes no more is refused; of such an item nothing is written (R250). -/
def QWriter.deny (w : QWriter) : Option QWriter :=
  if w.begun then some w
  else if w.more = 0 then none
  else some { w with words := [], begun := true, dead := true, told := true }

/-- The headers that wait at a queue that takes no more are refused and counted (R250). -/
def Dev.queDeny (d : Dev) (q : Nat) : Dev :=
  let x := d.queue q
  let n := (x.waiting.filter (fun w => ! w.begun)).length
  if n = 0 ∨ d.runs (F.QUE_Qq_CFG_EN q) (F.QUE_Qq_STAT_IDLE q) then d
  else ((d.setQueue q { x with waiting := x.waiting.filterMap QWriter.deny }).bump (F.QUE_Qq_REFUSED_CNT q) n).raise
    (F.QUE_Qq_FLAG_REFUSED q)

/-- Everything that can be written into the queue now is written, and everything that it no longer takes is refused. -/
def Dev.queRun (d : Dev) (q : Nat) : Dev :=
  ((Dev.quePump q ((d.queue q).waiting.length + 1) d).queDeny q).queShow q

/-- A producer offers an item, whole or (with `more` words to follow) its first part. -/
def Dev.queOffer (d : Dev) (q : Nat) (w : QWriter) : Dev :=
  let x := d.queue q
  (d.setQueue q { x with waiting := x.waiting ++ [w] }).queRun q

/-- A producer offers an item of bytes. -/
def Dev.queBytes (d : Dev) (q src prod : Nat) (bs : List Byte) : Dev :=
  d.queOffer q { src := src, prod := prod, len := bs.length,
                 words := (toWordsOf (dataWords bs.length) bs).map (fun w => (w, false)) }
where
  toWordsOf : Nat → List Byte → List (BitVec 64)
    | 0, _ => []
    | k + 1, bs => BitVec.ofNat 64 (natLE (bs.take 8)) :: toWordsOf k (bs.drop 8)

/-- More words of an item that the producer has begun to offer. -/
def Dev.queMore (d : Dev) (q src : Nat) (ws : List (BitVec 64 × Bool)) : Dev :=
  let x := d.queue q
  let grow := fun (w : QWriter) => if w.src = src then { w with words := w.words ++ ws, more := w.more - ws.length } else w
  (d.setQueue q { x with waiting := x.waiting.map grow }).queRun q

/-- The producer still has an item at the queue that has not been written in full (R246). -/
def Dev.queStalls (d : Dev) (q src : Nat) : Bool := (d.queue q).waiting.any (fun w => w.src == src)

/-! ### Flush -/

/-- The queue empties at once: fill falls to 0, and ABOVE with it (R249). -/
def Dev.queEmpty (d : Dev) (q : Nat) : Dev :=
  let x := d.queue q
  let d := d.bump (F.QUE_Qq_FLUSH_CNT q) (x.items.filter (fun i => ! i.dead)).length
  let d := d.raise (F.QUE_Qq_FLAG_FLUSHED q)
  let d := d.setQueue q { x with items := [], opened := false, flushed := x.flushed || x.opened, fwLeft := 0,
                                 drop := x.drop + x.fwLeft, spoilt := []
                                 waiting := x.waiting.map (fun w => if w.begun then { w with dead := true, words := [] } else w) }
  d.queShow q

/-- FLUSH (R249): the queue empties, and then takes what waits. -/
def Dev.queFlush (d : Dev) (q : Nat) : Dev := (d.queEmpty q).queRun q

/-! ### Reading -/

/-- The head item can be opened (R245). -/
def Dev.queReady (d : Dev) (q : Nat) : Bool :=
  match (d.queue q).items with
  | [] => false
  | i :: _ => i.hdr && (d.on (F.QUE_Qq_CFG_CUT q) || i.toCome == 0)

/-- The words that fail parity, once `k` words have left. -/
def spoiltAfter (k : Nat) (l : List Nat) : List Nat := (l.filter (fun i => decide (k ≤ i))).map (· - k)

/-- The data words, counted from the next to be read, that fail parity (R247). -/
def Dev.spoil (d : Dev) (q : Nat) (bad : List Nat) : Dev :=
  if (d.queue q).spoilt = bad then d else d.setQueue q { d.queue q with spoilt := bad }

/-- The open item is closed: words not read are discarded, words to come will be (R251). -/
def Dev.queClose (d : Dev) (q : Nat) : Dev :=
  let x := d.queue q
  if ! x.opened then d
  else
    let items := match x.items with
      | [] => []
      | i :: t => { i with words := [], dead := true } :: t
    let gone := match x.items with
      | [] => 0
      | i :: _ => i.words.length
    (d.setQueue q { x with items := sweep items, opened := false, spoilt := spoiltAfter gone x.spoilt }).queShow q

/-- The head item opened by its consumer: its length and producer code. A header that fails parity empties the
queue (R247). -/
def Dev.queOpen (d : Dev) (q : Nat) (fault : Bool) : Dev × Option (Nat × Nat) :=
  let d := d.queClose q
  if ! d.queReady q then (d, none)
  else
    let x := d.queue q
    match x.items with
    | [] => (d, none)
    | i :: t =>
      if fault then
        let d := (d.raise (F.QUE_Qq_FLAG_PARITY q)).inc (F.QUE_Qq_PARITY_CNT q)
        (d.queFlush q, none)
      else
        let d := d.setQueue q { x with items := { i with hdr := false } :: t, opened := true, flushed := false }
        (d.queShow q, some (i.len, i.prod))

/-- The item ends for its consumer once its last word has been read. -/
def Dev.queEnded (d : Dev) (q : Nat) : Dev :=
  let x := d.queue q
  match x.items with
  | i :: t => if x.opened ∧ i.words.isEmpty ∧ i.toCome = 0 then d.setQueue q { x with items := t, opened := false } else d
  | [] => d

/-- Up to `n` words of the open item, those present; each that fails parity is delivered with its poison tag and
counted (R247). -/
def Dev.queWords (d : Dev) (q n : Nat) : Dev × List (BitVec 64 × Bool) :=
  let x := d.queue q
  match x.items with
  | i :: t =>
    if ! x.opened then (d, [])
    else
      let got := i.words.take n
      let bad := (List.range got.length).filter (fun k => x.spoilt.contains k)
      let d := if bad.isEmpty then d else (d.raise (F.QUE_Qq_FLAG_PARITY q)).bump (F.QUE_Qq_PARITY_CNT q) bad.length
      let d := d.setQueue q { x with items := { i with words := i.words.drop n } :: t, spoilt := spoiltAfter got.length x.spoilt }
      ((d.queEnded q).queShow q,
        if bad.isEmpty then got else (got.zip (List.range got.length)).map (fun w => (w.1.1, w.1.2 || bad.contains w.2)))
  | [] => (d, [])

/-- A whole item taken by a consumer that takes items whole: its length, producer code and words. -/
def Dev.queTake (d : Dev) (q : Nat) (hdr : Bool) : Dev × Option (Nat × Nat × List (BitVec 64 × Bool)) :=
  let r := d.queOpen q hdr
  match r.2 with
  | none => (r.1, none)
  | some h =>
    let w := r.1.queWords q (dataWords h.1)
    (w.1.queClose q, some (h.1, h.2, w.2))

/-- The bytes of an item's words, its unused bytes cut off. -/
def itemBytes (len : Nat) (ws : List (BitVec 64 × Bool)) : List Byte :=
  (ws.flatMap (fun w => bytesLE 8 w.1.toNat)).take len

/-! ### Enable and disable (R244, R250) -/

/-- The region of a queue, and whether it lies in range and clear of every enabled queue's (R244). -/
def Dev.queRegionOk (d : Dev) (q : Nat) : Bool :=
  let b := d.val (F.QUE_Qq_BASE q)
  let n := d.val (F.QUE_Qq_SIZE q)
  decide (1 ≤ n ∧ b + n ≤ 4096) && (d.listed (R.QUE_Qq_CFG 0) 0x40 64 0 1).all (fun r =>
    let rb := d.val (F.QUE_Qq_BASE r)
    let rn := d.val (F.QUE_Qq_SIZE r)
    r == q || decide (b + n ≤ rb ∨ rb + rn ≤ b))

/-- EN = 1 written to a queue (R9, R244). During LOAD the write is taken whatever the region. -/
def Dev.queEnable (d : Dev) (q : Nat) : Dev :=
  if d.mode != 2 && ! d.queRegionOk q then d.accessErr (R.QUE_Qq_CFG q)
  else ((d.startIntake (F.QUE_Qq_CFG_EN q) (F.QUE_Qq_STAT_IDLE q)).1).queShow q

/-- EN = 0 written to a queue (R250): the item being written is completed, and the headers that wait are refused. -/
def Dev.queDisable (d : Dev) (q : Nat) : Dev := (d.stopIntake (F.QUE_Qq_CFG_EN q)).queRun q

/-- ABORT of a queue: FLUSH followed by IDLE; a header that waits finds it disabled (R250). -/
def Dev.queAbort (d : Dev) (q : Nat) : Dev :=
  ((d.queEmpty q).abortBits (F.QUE_Qq_CFG_EN q) (F.QUE_Qq_STAT_IDLE q)).queRun q

/-! ### The firmware port (R246, R251) -/

/-- The item being written leaves the queue; a consumer that has it open sees it end. -/
def Queue.cutLast (x : Queue) : Queue :=
  let one := decide (x.items.length ≤ 1)
  { x with items := x.items.dropLast, fwLeft := 0, opened := x.opened && ! one, flushed := x.flushed || (x.opened && one) }

/-- PUSH_HDR: an item of firmware begins. A write that finds no free word is ignored, and discards the item in
progress (R246). One that finds the port held by another producer, or that the queue does not take, is ignored and
counted; an item still in progress is given up by the header of the next (DEDUCED, log entry 19). -/
def Dev.fwHdr (d : Dev) (q writer : Nat) (len : Word) : Dev :=
  let x := d.queue q
  let y := if 0 < x.fwLeft then x.cutLast else x
  if d.queCap q ≤ x.fill then
    ((d.setQueue q { y with drop := dataWords len.toNat }).queRefuse q).queRun q
  else
    let d := if 0 < x.fwLeft then (d.setQueue q y).queRefuse q else d.setQueue q { x with drop := 0 }
    if x.waiting.any (·.begun) ∨ ¬ d.queTakes q len.toNat then
      ((d.queRefuse q).setQueue q { y with drop := dataWords len.toNat }).queRun q
    else
      (d.setQueue q { y with items := y.items ++ [⟨len.toNat, writer, [], dataWords len.toNat, true, false⟩],
                             fwLeft := dataWords len.toNat, drop := 0 }).queShow q

/-- PUSH_DATA: one word of the firmware item. A write that finds no free word discards the item (R246). -/
def Dev.fwData (d : Dev) (q : Nat) (w : BitVec 64) : Dev :=
  let x := d.queue q
  if x.fwLeft = 0 then d.setQueue q { x with drop := x.drop - 1 }
  else
    let dead : Bool := match x.items.getLast? with
      | some i => i.dead
      | none => true
    if d.queCap q ≤ x.fill ∧ ¬ dead then
      ((d.setQueue q { x.cutLast with drop := x.fwLeft - 1 }).queRefuse q).queRun q
    else
      let d := d.setQueue q { x with items := sweep (putWords [(w, false)] x.items), fwLeft := x.fwLeft - 1 }
      let d := if x.fwLeft = 1 then d.inc (F.QUE_Qq_ITEM_CNT q) else d
      (d.queEnded q).queRun q

/-- A read of POP_HDR_LO (R251): the head item's LEN, and its producer code latched into the upper half. -/
def Dev.fwPopHdr (d : Dev) (q : Nat) (fault : Bool) : Dev :=
  let r := d.queOpen q fault
  let h := r.2.getD (0, 0)
  { r.1 with rdata := BitVec.ofNat 32 h.1, hi := tabSet 0 r.1.hi (R.QUE_Qq_POP_HDR q) (BitVec.ofNat 32 h.2) }

/-- A read of POP_DATA_LO (R251): the next word of the open item, 0 where there is none. -/
def Dev.fwPopData (d : Dev) (q : Nat) (fault : Bool) : Dev :=
  let r := (d.spoil q (if fault then [0] else [])).queWords q 1
  let w := (r.2.head?.map (·.1)).getD 0
  { r.1 with rdata := w.extractLsb' 0 32, hi := tabSet 0 r.1.hi (R.QUE_Qq_POP_DATA q) (w.extractLsb' 32 32) }

/-! ### Commands -/

/-- PUSH_DATA_HI written: the word is committed, with the half staged used up (R4, R251). -/
def Dev.fwPush (d : Dev) (q : Nat) (w : BitVec 64) : Dev :=
  let a := R.QUE_Qq_PUSH_DATA q
  (((d.unstage a).setReg a (w.extractLsb' 0 32)).setReg (a + 4) (w.extractLsb' 32 32)).fwData q w

/-- QUEUE_ENABLE (R244). -/
def execQueueEnable (q : Fin 64) (s : State) : Host.Outcome State Fault Refusal := onDev (fun d => d.queEnable q) s

/-- PUSH_HDR (R251): the writer's producer code goes into the header. -/
def execPushHdr (q : Fin 64) (writer : Nat) (len : Word) (s : State) : Host.Outcome State Fault Refusal :=
  onDev (fun d => d.fwHdr q writer len) s

/-- PUSH_DATA (R4, R251): the _HI write commits the word with the staged lower half. -/
def execPushData (q : Fin 64) (hi : Word) (s : State) : Host.Outcome State Fault Refusal :=
  onDev (fun d =>
    let a := R.QUE_Qq_PUSH_DATA q
    d.fwPush q (d.joined a hi)) s

/-- POP_HDR (R251). -/
def execPopHdr (q : Fin 64) (fault : Bool) (s : State) : Host.Outcome State Fault Refusal :=
  onDev (fun d => d.fwPopHdr q fault) s

/-- POP_DATA (R251). -/
def execPopData (q : Fin 64) (fault : Bool) (s : State) : Host.Outcome State Fault Refusal :=
  onDev (fun d => d.fwPopData q fault) s

/-- WRITE_STALL_RELEASE (R246): stalled producers go on with the words that are free. -/
def execWriteStallRelease (q : Fin 64) (s : State) : Host.Outcome State Fault Refusal := onDev (fun d => d.queRun q) s

/-- QUEUE_FLUSH (R249). -/
def execQueueFlush (q : Fin 64) (s : State) : Host.Outcome State Fault Refusal := onDev (fun d => d.queFlush q) s

/-- QUEUE_DISABLE (R250). -/
def execQueueDisable (q : Fin 64) (s : State) : Host.Outcome State Fault Refusal := onDev (fun d => d.queDisable q) s

end Sys2Proof.Machine
end

