-- ==== Sys2Proof/Machine/Context.lean ====
section
/-! DEFINITION. The contexts: grants, statistics per tile, self-calibration, enable, disable and abort, and the
tables of the correction (R95 to R110, R113, R115, R121 to R132). -/
namespace Sys2Proof.Machine

/-! ### Tiles (R17 to R19) -/

/-- The grid pitch in force; 0 acts as 1 outside LOAD's check (R17). -/
def Dev.gridPitch (d : Dev) : Nat := max 1 (d.val F.STC_GRID_PITCH)

/-- The grid row of a position (R17). -/
def Dev.rowOf (d : Dev) (p : Int) : Int := p / (d.gridPitch : Int)

/-- The tile number of a grid row (R19). -/
def tileOf (k k0 : Int) : Nat := ((k - k0) / 4096 % 2 ^ 32).toNat

/-- The row within its tile (R19). -/
def rowInTile (k k0 : Int) : Nat := ((k - k0) % 4096).toNat

/-- The tile a line belongs to (R107). -/
def Dev.lineTile (d : Dev) (pos : Int) : Nat :=
  let k0 := d.vali F.STC_K0
  tileOf (max (d.rowOf pos) k0) k0

/-- `k` free values of 16 bits, from draw `i` on. -/
def free16 (i k : Nat) : List Nat := (List.range k).map (fun j => (Config.freeValue (i + j)).toNat % 65536)

/-! ### Statistics (R107 to R109) -/

/-- Tables of counts added to, saturating at 32 bits. -/
def countIn (t : Tab Nat) (k : Nat) : Tab Nat := tabSet 0 t k (satAdd (tabGet 0 t k) 1)

/-- Columns added pairwise; a list that has not begun takes the new values. -/
def addCols (a b : List Nat) : List Nat := if a.isEmpty then b else a.zipWith (· + ·) b

/-- A line counted into a tile (R107). -/
def StatTile.count (t : StatTile) (tag : LineTag) (px : List Nat) : StatTile :=
  let t := { t with last := tag.pos }
  if tag.poison || tag.short || tag.long then { t with excl := satAdd t.excl 1 }
  else
    { t with lines := satAdd t.lines 1,
             hist := px.foldl (fun h v => countIn h (v / 2 ^ (tag.depth - 8))) t.hist,
             sums := addCols t.sums (px.map (fun v => v * 2 ^ (16 - tag.depth))) }

/-- `n` lists of `g` columns each, the last with what is left. -/
def groups (g : Nat) : Nat → List Nat → List (List Nat)
  | 0, _ => []
  | k + 1, l => if l.isEmpty then [] else l.take g :: groups g k (l.drop g)

/-- The column means of a closed tile (R107). -/
def StatTile.means (t : StatTile) : List Nat :=
  (groups (2 ^ t.g) t.sums.length t.sums).map (fun l =>
    let n := t.lines * l.length
    (2 * l.foldl (· + ·) 0 + n) / (2 * n))

/-- The candidate columns of a closed tile: column, dev and mean, with mosaic width `w`. Where the mean of two
neighbours is a half, bit c of `half` says which way it goes (R107). -/
def StatTile.candidates (t : StatTile) (w : Nat) (half : BitVec 64) : List (Nat × Int × Nat) :=
  if t.thr = 0 ∨ t.lines = 0 then []
  else
    let ms := t.sums.map (fun s => (2 * s + t.lines) / (2 * t.lines))
    ((List.range ms.length).zip ms).filterMap (fun e =>
      let c := e.1
      let lo : Option Nat := if w ≤ c then ms[c - w]? else none
      let near : Option Int := match lo, ms[c + w]? with
        | some a, some b => some (((a + b + b2n (half.getLsbD (c % 64)) : Nat) : Int) / 2)
        | some a, none => some (a : Nat)
        | none, some b => some (b : Nat)
        | none, none => none
      match near with
      | some v =>
        let dev := clampI (-32768) 32767 ((e.2 : Nat) - v)
        if t.thr < dev.natAbs then some (c, dev, e.2) else none
      | none => none)

/-- A statistics record without its trailer's CRC known yet: its bytes (R108). -/
def Dev.statBytes (d : Dev) (n m : Nat) (t : StatTile) (part : Bool) (means : List Nat) (cands : List (Nat × Int × Nat))
    (ovf : Bool) : List Byte :=
  let s := d.val (F.PLn_CTXm_CFG_STREAM n m)
  let mb := means.flatMap (bytesLE 2)
  let mb := mb ++ List.replicate ((8 - mb.length % 8) % 8) 0
  let total := 64 + 1024 + mb.length + 8 * cands.length + 8
  let hdr := bytesLE 1 0x10 ++ bytesLE 1 (b2n part + 4 * b2n ovf) ++ bytesLE 1 s ++ bytesLE 1 1
    ++ bytesLE 2 d.unitAddr ++ bytesLE 1 n ++ bytesLE 1 m ++ bytesLE 4 t.tile ++ bytesLE 4 t.lines ++ bytesLE 4 t.excl
    ++ bytesLE 2 t.len ++ bytesLE 1 t.g ++ bytesLE 1 t.depth ++ bytesLE 2 cands.length ++ bytesLE 2 means.length
    ++ bytesLE 4 total ++ bytesLE 8 (fromSigned 64 t.time) ++ bytesLE 8 (fromSigned 64 t.first)
    ++ bytesLE 8 (fromSigned 64 t.last) ++ bytesLE 8 0
  let hist := (List.range 256).flatMap (fun i => bytesLE 4 (tabGet 0 t.hist i))
  let cb := cands.flatMap (fun c => bytesLE 2 c.1 ++ bytesLE 2 (fromSigned 16 c.2.1) ++ bytesLE 2 c.2.2 ++ bytesLE 2 0)
  hdr ++ hist ++ mb ++ cb

/-- The record's trailer: CRC-32C over all that precedes it, then four zero bytes (R108). -/
def withTrailer (bs : List Byte) : List Byte := bs ++ bytesLE 4 (crc32c bs) ++ bytesLE 4 0

/-- A record that its queue has taken in full, or refused, leaves the buffer (R109). -/
def Dev.recSettle (d : Dev) (n m : Nat) : Dev :=
  let c := d.ctx n m
  match c.record with
  | some r =>
    if c.offered ∧ ¬ d.queStalls r.queue (statSrc n m) then
      d.setCtx n m { c with record := none, offered := false }
    else d
  | none => d

/-- The dynamic list after a closed tile: `cands` are the recorded candidates, `ovf` a 65th (R115). -/
def Dev.dynUpdate (d : Dev) (n m : Nat) (cands : List Nat) (ovf : Bool) : Dev :=
  let c := d.ctx n m
  let pro := max 1 (d.val (F.PLn_CTXm_DYN_CFG_PROMOTE n m))
  let dem := max 1 (d.val (F.PLn_CTXm_DYN_CFG_DEMOTE n m))
  let static := d.staticMap n m
  let promo := (if ovf then c.promo else c.promo.filter (fun e => cands.contains e.1))
  let promo := cands.foldl (fun t i => tabSet 0 t i (tabGet 0 t i + 1)) promo
  let demo := c.dynamic.foldl (fun t i =>
    if cands.contains i then tabSet 0 t i 0 else if ovf then t else tabSet 0 t i (tabGet 0 t i + 1)) c.demo
  let gone := c.dynamic.filter (fun i => decide (dem ≤ tabGet 0 demo i))
  let kept := c.dynamic.filter (fun i => ! gone.contains i)
  let new := cands.filter (fun i => decide (pro ≤ tabGet 0 promo i) && ! static.contains i && ! kept.contains i)
  let room := 256 - kept.length
  let lst := orderBy (fun a b => decide (a < b)) (kept ++ new.take room)
  let c' := { c with dynamic := lst, demo := demo.filter (fun e => lst.contains e.1),
                     promo := promo.filter (fun e => ! (new.take room).contains e.1) }
  ((d.setCtx n m c').put (F.PLn_CTXm_DYN_CFG_DYN_COUNT n m) lst.length).raiseIf (decide (room < new.length))
    (F.PLn_CTXm_CAL_FLAG_DYN_OVF n m)

/-- The open tile is closed: its record goes to the buffer, or is discarded when the buffer is still in use
(R107 to R109); the dynamic list follows it (R115). -/
def Dev.closeTile (d : Dev) (n m : Nat) (part : Bool) : Dev :=
  match (d.ctx n m).tile with
  | none => d
  | some t =>
    let k := divCeil t.len (2 ^ t.g)
    let half := Config.freeValue d.draws
    let all := t.candidates (d.val (F.PLn_CTXm_MOSAIC_CFG_WM1 n m) + 1) half
    let cands := all.take 64
    let ovf := decide (64 < all.length)
    let means := if t.lines = 0 then free16 (d.draws + 1) k else t.means
    let bytes := d.statBytes n m t part means cands ovf
    let d := { d with draws := d.draws + 1 + k }
    let d := d.recSettle n m
    let c := { d.ctx n m with tile := none }
    let d := if c.record.isSome then
        ((d.setCtx n m c).raise (F.PLn_CTXm_FLAG_STATS_DROP n m)).inc (F.PLn_CTXm_STATS_DROP_CNT n m)
      else d.setCtx n m { c with record := some ⟨t.queue, bytes⟩, offered := false }
    if d.on (F.PLn_CTXm_COR_ACT_DYN_EN n m) then d.dynUpdate n m (cands.map (·.1)) ovf else d

/-- STATS_RECORD_WRITE (R108, R109). A word that fails parity in the buffer sets POISONED and keeps its tag. -/
def execStatsRecordWrite (n : Fin 17) (m : Fin 4) (bad : List Nat) (st : State) : Host.Outcome State Fault Refusal :=
  onDev (fun d =>
    let d := d.recSettle n m
    let c := d.ctx n m
    match c.record with
    | none => d
    | some r =>
      if c.offered then d
      else
        let bs := if bad.isEmpty then r.bytes
          else r.bytes.take 1 ++ bytesLE 1 ((r.bytes.getD 1 0).toNat + 2) ++ r.bytes.drop 2
        let bs := withTrailer bs
        let ws := ((toWords (dataWords bs.length) bs).zip (List.range (dataWords bs.length))).map
          (fun x => (x.1, bad.contains x.2))
        if ! d.queTakes r.queue bs.length then
          (d.queRefuse r.queue).setCtx n m { c with record := none }
        else
          let w : QWriter := { src := statSrc n m, prod := 0xA0 + n, len := bs.length, words := ws }
          ((d.setCtx n m { c with offered := true }).queOffer r.queue w).recSettle n m) st

/-! ### Self-calibration (R123 to R125) -/

/-- A granted line sampled into the ring, one in DECIM (R123). -/
def Dev.scSample (d : Dev) (n m : Nat) (tag : LineTag) (x3 : List Nat) : Dev :=
  if ! d.on (F.PLn_CTXm_COR_ACT_SC_EN n m) then d
  else
    let c := d.ctx n m
    let k := c.decim + 1
    if k < max 1 (d.val (F.PLn_CTXm_SC_CFG_DECIM n m)) then d.setCtx n m { c with decim := k }
    else if tag.poison || tag.short || tag.long || tag.calRamp then d.setCtx n m { c with decim := 0 }
    else
      let hold := min 256 (max 8 (d.val (F.PLn_CTXm_SC_CFG2_HOLD n m)))
      let q := tag.pos - d.vali (F.PLn_CTXm_PLANE_OFSp n m 0) - d.vali (F.STC_CAMs_ALONG_ACT tag.stream)
      let ovsp := decide (hold ≤ c.held.length)
      let held := if ovsp then c.held.drop (c.held.length - hold + 1) else c.held
      let d := d.setCtx n m { c with decim := 0, held := held ++ [{ pos := q, x3 := x3 }] }
      if ovsp then (d.raise (F.PLn_CTXm_CAL_FLAG_SC_UNJUDGED n m)).inc (F.PLn_CTXm_SC_UNJUDGED_CNT n m) else d

/-- Held lines after a foreground bit of row `k`: clean ones are summed, those with a bit set dropped (R123). -/
def judgeHeld (pitch : Nat) (k : Int) (bit : Bool) : List HeldLine → List HeldLine × List (List Nat)
  | [] => ([], [])
  | h :: t =>
    let r := judgeHeld pitch k bit t
    let lo := h.pos / (pitch : Int)
    let h := if k = lo then { h with lo := some bit } else if k = lo + 1 then { h with hi := some bit } else h
    if h.lo = some true ∨ h.hi = some true then r
    else if h.lo = some false ∧ h.hi = some false then (r.1, h.x3 :: r.2)
    else (h :: r.1, r.2)

/-- A foreground bit judged by a context (R123). -/
def Dev.takeBit (d : Dev) (n m : Nat) (k : Int) (bit : Bool) : Dev :=
  let c := d.ctx n m
  let r := judgeHeld d.gridPitch k bit c.held
  d.setCtx n m { c with held := r.1, sums := r.2.foldl addCols c.sums, clean := c.clean + r.2.length }

/-- FOREGROUND_BIT (R123, R166): the oldest bit that segmentation owes the stream's context. -/
def execForegroundBit (s : Fin 64) (st : State) : Host.Outcome State Fault Refusal :=
  onDev (fun d =>
    match d.seg.fgBits.find? (fun b => b.2.1 == s.val) with
    | none => d
    | some b =>
      let rest := d.seg.fgBits.eraseP (fun b => b.2.1 == s.val)
      let d := { d with seg := { d.seg with fgBits := rest } }
      (d.ctxsOf s).foldl (fun d c => d.takeBit c.1 c.2 b.1 b.2.2) d) st

/-- A target: the mean of `l`, where it is not whole rounded as bit `up` says (R124; DESIGN CHOICE, log entry 21). -/
def targetMean (l : List Nat) (up : Bool) : Int :=
  let s := l.foldl (· + ·) 0
  if l.isEmpty then 0 else if up then ((s + l.length - 1) / l.length : Nat) else (s / l.length : Nat)

/-- The new C values of an update (R124). -/
def Dev.cTargets (d : Dev) (n m : Nat) (c : Ctx) (free : BitVec 64) : Tab Nat :=
  let y := d.layout n m c.sums.length
  let listed := d.staticMap n m ++ c.dynamic
  let ms := c.sums.map (fun s => (2 * s + c.clean) / (2 * c.clean))
  let span := d.val (F.PLn_CTXm_SC_CFG2_SPAN n m)
  let step : Int := d.val (F.PLn_CTXm_SC_STEP n m)
  let sh := d.val (F.PLn_CTXm_SC_CFG_SHIFT n m)
  let lo : Int := d.val (F.PLn_CTXm_SC_LIMITS_CMIN n m)
  let hi : Int := d.val (F.PLn_CTXm_SC_LIMITS_CMAX n m)
  let own (p : Option Nat) : List (Nat × Nat) := ((List.range ms.length).zip ms).filter (fun e => y.plane e.1 == p)
  ((List.range ms.length).zip ms).foldl (fun t e =>
    let i := e.1
    let cur := c.cEntry i
    if listed.contains i ∨ (y.plane i).isNone ∨ e.2 = 0 ∨ e.2 = 65535 then tabSet calDefault t i cur.toNat
    else
      let cols := own (y.plane i)
      let at' := (cols.findIdx? (fun x => x.1 == i)).getD 0
      let near := if span = 0 then cols else (cols.take (at' + span + 1)).drop (at' - span)
      let tg := targetMean ((near.filter (fun x => ! listed.contains x.1)).map (·.2)) (free.getLsbD (i % 64))
      let dv := Int.tdiv (cur * (tg - e.2)) e.2
      let dv := clampI (-step) step (dv / (2 ^ sh : Nat))
      tabSet calDefault t i (clampI lo hi (cur + dv)).toNat) []

/-- The update that a period of tiles brings (R124, R125). -/
def Dev.scUpdate (d : Dev) (n m : Nat) : Dev :=
  let c := d.ctx n m
  let skip (d : Dev) : Dev := (d.raise (F.PLn_CTXm_CAL_FLAG_SC_SKIP n m)).inc (F.PLn_CTXm_SC_SKIP_CNT n m)
  if c.clean < d.val (F.PLn_CTXm_SC_CFG_MIN_LINES n m) ∨ c.clean = 0 then skip d
  else
    let busyC : Bool := match c.setRamp with
      | some r => r.set == 15
      | none => false
    if busyC then skip (d.setCtx n m { c with sums := [], clean := 0 })
    else
      let f := d.draw
      let tgt := f.2.cTargets n m c f.1
      let now' := (List.range c.sums.length).foldl (fun t i => tabSet calDefault t i (c.cEntry i).toNat) c.cfac
      let c' := { c with sums := [], clean := 0, cfac := now', cto := tgt,
                         scRamp := some { set := 15, done := 0, len := d.rampLen n m } }
      ((f.2.setCtx n m c').mark (F.PLn_CTXm_CAL_STAT_SC_RAMP n m) true).inc (F.PLn_CTXm_SC_UPDATE_CNT n m)

/-! ### Hand-overs (R102, R107, R115, R122, R125) -/

/-- SHADOW_PEND of a context (R8). -/
def Dev.ctxPend (d : Dev) (n m : Nat) : Dev :=
  let c := d.ctx n m
  d.mark (F.PLn_CTXm_STAT_SHADOW_PEND n m) (c.pendTile || c.pendLine)

/-- The LINE hand-over of a context's correction enables (R102, R113, R115, R122, R125). -/
def Dev.corHandOver (d : Dev) (n m : Nat) : Dev :=
  let old := d.reg (R.PLn_CTXm_COR_ACT n m)
  let new := d.reg (R.PLn_CTXm_COR_SH n m)
  let d := d.setReg (R.PLn_CTXm_COR_ACT n m) new
  let c := { d.ctx n m with pendLine := false }
  let c := if (old ^^^ new) &&& 0x35 ≠ 0 then { c with markLeft := d.rampLen n m } else c
  let c := if (old ^^^ new) &&& 0x2 ≠ 0 then { c with firstBlk := true } else c
  let c := if new.getLsbD 3 then c else { c with dynamic := [], promo := [], demo := [] }
  let c := if new.getLsbD 6 then c else { c with held := [], sums := [], clean := 0, decim := 0, tiles := 0 }
  ((d.setCtx n m c).put (F.PLn_CTXm_DYN_CFG_DYN_COUNT n m) c.dynamic.length).ctxPend n m

/-- The TILE hand-over of a context: the first line of tile `t` is granted (R107, R115, R124). -/
def Dev.tileHandOver (d : Dev) (n m t : Nat) : Dev :=
  let d := d.closeTile n m false
  let c := d.ctx n m
  let ended := c.tileNo.isSome
  let d := if ended ∧ d.on (F.PLn_CTXm_COR_ACT_SC_EN n m) then
      let k := c.tiles + 1
      if max 1 (d.val (F.PLn_CTXm_SC_CFG_PERIOD n m)) ≤ k then
        let d := d.scUpdate n m
        d.setCtx n m { d.ctx n m with tiles := 0 }
      else d.setCtx n m { c with tiles := k }
    else d
  let d := d.setReg (R.PLn_CTXm_STATS_ACT n m) (d.reg (R.PLn_CTXm_STATS_SH n m))
  (d.setCtx n m { d.ctx n m with pendTile := false, tileNo := some t }).ctxPend n m

/-- A statistics tile is open for the line, with STATS_ACT.EN: its own tile, which a stay in SERVICE may have closed
before its end (R107). -/
def Dev.tileFor (d : Dev) (n m t : Nat) (tag : LineTag) : Dev :=
  let c := d.ctx n m
  if c.tile.isSome ∨ ¬ d.on (F.PLn_CTXm_STATS_ACT_EN n m) then d
  else
    d.setCtx n m { c with tile := some { tile := t, time := tag.time, first := tag.pos, last := tag.pos, len := tag.len,
                                         depth := tag.depth, g := min 6 (d.val (F.PLn_CTXm_STATS_ACT_G n m)),
                                         queue := d.val (F.PLn_CTXm_STATS_ACT_QUEUE n m),
                                         thr := d.val (F.PLn_CTXm_STATS_ACT_CAND_THR n m) } }

/-! ### Lines that end (R97, R106, R137) -/

/-- A corrected line handed to the Reckoner while that runs (R143); one whose crossing has been taken as lineless
already is late, and is discarded (R137). -/
def Dev.reportLine (d : Dev) (l : LineOut) : Dev :=
  let s := l.tag.stream
  if ! d.on (F.STC_CAMs_CFG_EN s) ∨ d.stc.nextRow.isNone then d
  else
    let cam := d.cam s
    let waits := fun (c : Cross) => c.k == l.tag.k && c.n == 1 && c.rep == .waiting
    if cam.items.any waits then
      d.setCam s { cam with items := cam.items.map (fun c => if waits c then { c with rep := .line l } else c) }
    else (d.raise (F.STC_CAMs_FLAG_LATE s)).inc (F.STC_CAMs_LATE_CNT s)

/-- A context begins afresh (R113, R119). -/
def Dev.ctxFresh (d : Dev) (n m : Nat) : Dev :=
  let c := d.ctx n m
  let d := d.setCtx n m { c with tempSeen := false, firstBlk := true, outRange := 0, tile := none, tileNo := none }
  d.put (F.PLn_CTXm_CAL_STAT_TEMP_F n m) (d.val (F.PLn_CTXm_TEMP_DEF n m))

/-- A draining context that holds no line any more closes its tile with PARTIAL, releases XOFF and sets IDLE
(R106). -/
def Dev.ctxSettle (d : Dev) (n m : Nat) : Dev :=
  if ! (d.ctx n m).fifo.isEmpty ∨ ¬ d.drains (F.PLn_CTXm_CFG_EN n m) (F.PLn_CTXm_STAT_IDLE n m) then d
  else
    let d := (d.closeTile n m true).releaseXoff n m
    let r := d.drained (F.PLn_CTXm_CFG_EN n m) (F.PLn_CTXm_STAT_IDLE n m)
    if r.2 then r.1.ctxFresh n m else r.1

/-- A stream move ends once its old context is idle (R173). -/
def Dev.moveEnd (d : Dev) : Dev :=
  match d.seg.mig with
  | some g =>
    if ! g.stream ∨ ! g.copied then d
    else if (d.ctxsOf g.src).any (fun c => c != (g.tgt, g.ctx)) then d
    else ({ d with seg := { d.seg with mig := none } }.mark F.SEG_STAT_MIG_ACTIVE false).raise F.SEG_FLAG_MIG_DONE
  | none => d

/-- What a stream move copies into its target: black level, θ, dynamic list, C in use and ramp positions (R173). -/
def Dev.moveCopy (d : Dev) (n m n' m' : Nat) : Dev :=
  let a := d.ctx n m
  let b := d.ctx n' m'
  let b := { b with blk := a.blk, firstBlk := a.firstBlk, blkFrom := a.blkFrom, blkTo := a.blkTo, blkRamp := a.blkRamp,
                    blkNow := a.blkNow, tempSeen := a.tempSeen, dynamic := a.dynamic, promo := a.promo, demo := a.demo,
                    cfac := a.cfac, cto := a.cto, setRamp := a.setRamp, scRamp := a.scRamp }
  let d := d.setCtx n' m' b
  let d := d.put (F.PLn_CTXm_BLK_LEVEL n' m') (d.val (F.PLn_CTXm_BLK_LEVEL n m))
  let d := d.setReg (R.PLn_CTXm_CAL_STAT n' m') (d.reg (R.PLn_CTXm_CAL_STAT n m))
  d.put (F.PLn_CTXm_DYN_CFG_DYN_COUNT n' m') a.dynamic.length

/-- A stream move's copy: made once the target holds a line and the old context has granted all of its own; the
old context then closes its tile with PARTIAL and stops (R173). DEDUCED, log entry 65. -/
def Dev.moveStep (d : Dev) : Dev :=
  match d.seg.mig with
  | some g =>
    if ! g.stream ∨ g.copied ∨ (d.ctx g.tgt g.ctx).fifo.isEmpty then d
    else
      match (d.ctxsOf g.src).find? (fun c => c != (g.tgt, g.ctx)) with
      | none => { d with seg := { d.seg with mig := some { g with copied := true } } }.moveEnd
      | some c =>
        if (d.ctx c.1 c.2).fifo.any (fun l => ! l.granted) then d
        else
          let d := (d.moveCopy c.1 c.2 g.tgt g.ctx).closeTile c.1 c.2 true
          let d := { d with seg := { d.seg with mig := some { g with copied := true } } }
          ((d.stopIntake (F.PLn_CTXm_CFG_EN c.1 c.2)).ctxSettle c.1 c.2).moveEnd
  | none => d

/-- The line that runs in pipeline `n` has run its clocks: its words are free and its planes reach the Reckoner
(R97, R98, R128). -/
def Dev.frontDone (d : Dev) (n : Nat) : Dev :=
  let f := d.front n
  match f.running with
  | none => d
  | some (m, l) =>
    if d.now < f.busyTill then d
    else
      let d := d.setFront n { f with running := none }
      let c := d.ctx n m
      let d := (d.setCtx n m { c with fifo := c.fifo.filter (fun x => ! x.granted) }).ctxShow n m
      (((d.mark (F.PLn_ARB_STAT_BUSY n) false).reportLine l).ctxSettle n m).moveEnd

/-! ### GRANT (R97 to R102) -/

/-- The context is the target of a stream move whose old context has not granted its last line yet (R173). -/
def Dev.awaitsMove (d : Dev) (n m : Nat) : Bool :=
  match d.seg.mig with
  | some g => g.stream && ! g.copied && g.tgt == n && g.ctx == m
  | none => false

/-- The context granted next: round-robin from the one after the last (R101). -/
def Dev.grantNext (d : Dev) (n : Nat) : Option (Nat × FifoLine) :=
  let last := d.val (F.PLn_ARB_STAT_LAST n)
  [1, 2, 3, 4].findSome? (fun i =>
    let m := (last + i) % 4
    match (d.ctx n m).fifo.find? (fun l => ! l.granted) with
    | some l => if l.complete && ! d.awaitsMove n m then some (m, l) else none
    | none => none)

/-- `k` pipeline clocks of 1.05 GHz in ns, rounded up (R11, R97). -/
def pipeNs (k : Nat) : Nat := divCeil (20 * k) 21

/-- A granted line whose tag fails parity is dropped (R100, R105); the grant hands the LINE shadows over (R102). -/
def Dev.grantDrop (d : Dev) (n m : Nat) (l : FifoLine) : Dev :=
  let d := d.corHandOver n m
  let c := d.ctx n m
  let d := d.setCtx n m { c with fifo := c.fifo.erase l }
  let d := (d.raise (F.PLn_CTXm_FLAG_PARITY n m)).inc (F.PLn_CTXm_PARITY_CNT n m)
  let d := (d.dropLine n m l.tag.stream l.tag.k true).ctxShow n m
  (d.setFront n { d.front n with busyTill := d.now + 1 }).ctxSettle n m

/-- The first ungranted line marked as granted. -/
def markGranted : List FifoLine → List FifoLine
  | [] => []
  | l :: t => if l.granted then l :: markGranted t else { l with granted := true } :: t

/-- The pixels of a line that carry a poison tag: four to a FIFO word, and those a failed table entry served
(R100, R132). -/
def poisonedPixels (badWords badEntries : List Nat) : List Nat :=
  badWords.flatMap (fun w => [4 * w, 4 * w + 1, 4 * w + 2, 4 * w + 3]) ++ badEntries

/-- A line granted: hand-over, statistics, correction, planes (R97 to R128). DEDUCED, log entry 62. -/
def Dev.grantLine (d : Dev) (n m : Nat) (l : FifoLine) (badWords badEntries : List Nat) : Dev :=
  let d := d.setCtx n m { d.ctx n m with fifo := markGranted (d.ctx n m).fifo }
  let d := d.corHandOver n m
  let bad := badWords.length + badEntries.length
  let d := if 0 < bad then (d.raise (F.PLn_CTXm_FLAG_PARITY n m)).bump (F.PLn_CTXm_PARITY_CNT n m) bad else d
  let tag := { l.tag with poison := l.tag.poison || ! badWords.isEmpty }
  let t := d.lineTile tag.pos
  let newTile : Bool := match (d.ctx n m).tileNo with
    | some u => decide (u < t)
    | none => true
  let d := (if newTile then d.tileHandOver n m t else d).tileFor n m t tag
  let c := d.ctx n m
  let d := d.setCtx n m { c with tile := c.tile.map (fun x => x.count tag l.pixels) }
  let r := d.rampSteps n m
  let x := r.1.correct n m tag l.pixels
  let tag := { tag with calRamp := tag.calRamp || r.2, poison := tag.poison || ! badEntries.isEmpty }
  let d := (x.1.scSample n m tag x.2.1).inc (F.PLn_CTXm_LINE_CNT n m)
  let d := (d.mark (F.PLn_ARB_STAT_BUSY n) true).ctxShow n m
  d.setFront n { busyTill := d.now + pipeNs (divCeil tag.len 4 + 8), running := some (m, { tag := tag, planes := x.2.2, bad := poisonedPixels badWords badEntries }) }

/-- The pipeline is powered and not clock-gated (R292, R296). -/
def Dev.pipeOn (d : Dev) (n : Nat) : Bool := d.powered (8 + n) && d.spr.loaded.contains n && d.mode != 4 && d.pwr.trans != some .toHold

/-- GRANT (R97 to R128): the line that runs ends first, then the next complete line is granted. -/
def execGrant (n : Fin 17) (badWords badEntries : List Nat) (badTag : Bool) (st : State) : Host.Outcome State Fault Refusal :=
  onDev (fun d =>
    let d := ((d.reach (d.front n).busyTill).frontDone n).moveStep
    if ! d.pipeOn n then d
    else
      match d.grantNext n with
      | none => d
      | some (m, l) =>
        let d := d.put (F.PLn_ARB_STAT_LAST n) m
        (if badTag then d.grantDrop n m l else d.grantLine n m l badWords badEntries).moveStep) st

/-! ### Enable, disable, abort (R96, R106) -/

/-- EN = 1 written to a context: ignored, with the access error, while another enabled context takes the stream
(R96). -/
def Dev.ctxEnable (d : Dev) (n m : Nat) : Dev :=
  let s := d.val (F.PLn_CTXm_CFG_STREAM n m)
  let other := d.liveCtxs.any (fun c => c != (n, m) && d.on (F.PLn_CTXm_CFG_EN c.1 c.2) && d.val (F.PLn_CTXm_CFG_STREAM c.1 c.2) == s)
  if other then d.accessErr (R.PLn_CTXm_CFG n m)
  else
    let r := d.startIntake (F.PLn_CTXm_CFG_EN n m) (F.PLn_CTXm_STAT_IDLE n m)
    if r.2 then r.1.ctxFresh n m else r.1

/-- CONTEXT_ENABLE (R95, R96). -/
def execContextEnable (n : Fin 17) (m : Fin 4) (st : State) : Host.Outcome State Fault Refusal :=
  onDev (fun d => d.ctxEnable n m) st

/-- EN cleared (R106). -/
def Dev.ctxDisable (d : Dev) (n m : Nat) : Dev :=
  ((d.frontDone n).stopIntake (F.PLn_CTXm_CFG_EN n m)).ctxSettle n m

/-- CONTEXT_DISABLE (R106). -/
def execContextDisable (n : Fin 17) (m : Fin 4) (st : State) : Host.Outcome State Fault Refusal :=
  onDev (fun d => d.ctxDisable n m) st

/-- ABORT of a context: every line it holds, a running one included, counts as dropped and its crossing is
lineless; the open tile goes without a record (R106). -/
def Dev.ctxAbort (d : Dev) (n m : Nat) : Dev :=
  let d := d.frontDone n
  let c := d.ctx n m
  let f := d.front n
  let cut : Bool := match f.running with
    | some r => r.1 == m
    | none => false
  let d := if cut then (d.setFront n { busyTill := d.now + 1, running := none }).mark (F.PLn_ARB_STAT_BUSY n) false else d
  let d := c.fifo.foldl (fun d l => d.dropLine n m l.tag.stream l.tag.k false) d
  let d := (d.setCtx n m { c with fifo := [], tile := none }).releaseXoff n m
  (d.ctxShow n m).abortBits (F.PLn_CTXm_CFG_EN n m) (F.PLn_CTXm_STAT_IDLE n m)

/-- CONTEXT_ABORT (R106). -/
def execContextAbort (n : Fin 17) (m : Fin 4) (st : State) : Host.Outcome State Fault Refusal :=
  onDev (fun d => d.ctxAbort n m) st

/-! ### Correction registers (R113, R121, R125, R131) -/

/-- BLK_FIXED written: a ramp from the value in use, or at once during LOAD (R113). -/
def Dev.blkWrite (d : Dev) (n m : Nat) (v : Word) : Dev :=
  let to' := (v.toNat % 65536 : Nat)
  let d := d.put (F.PLn_CTXm_BLK_FIXED n m) to'
  let c := d.ctx n m
  if d.mode = 2 then d.setCtx n m { c with blkNow := to', blkRamp := none }
  else
    let c' := { c with blkFrom := c.blkNow, blkTo := to', blkRamp := some { set := 0, done := 0, len := d.rampLen n m } }
    (d.setCtx n m c').mark (F.PLn_CTXm_CAL_STAT_BLK_RAMP n m) true

/-- BLK_FIXED_WRITE (R113). -/
def execBlkFixedWrite (n : Fin 17) (m : Fin 4) (v : Word) (st : State) : Host.Outcome State Fault Refusal :=
  onDev (fun d => d.blkWrite n m v) st

/-- COMMIT of set `j`: a ramp from the staging set, unless one runs (R121, R125). -/
def Dev.commit (d : Dev) (n m j : Nat) : Dev :=
  if (8 ≤ j ∧ j ≠ 15) ∨ (j < 8 ∧ d.ntemp n m ≤ j) then d.accessErr (R.PLn_CTXm_CAL_CMD n m)
  else
    let d := d.put (F.PLn_CTXm_CAL_CMD_SET n m) j
    let c := d.ctx n m
    if c.setRamp.isSome ∨ c.scRamp.isSome then d.raise (F.PLn_CTXm_CAL_FLAG_CAL_BUSY n m)
    else
      let d := d.setCtx n m { c with setRamp := some { set := j, done := 0, len := d.rampLen n m } }
      (d.mark (F.PLn_CTXm_CAL_STAT_SET_RAMP n m) true).put (F.PLn_CTXm_CAL_STAT_RAMP_SET n m) j

/-- COMMIT (R121). -/
def execCommit (n : Fin 17) (m : Fin 4) (set : Fin 16) (st : State) : Host.Outcome State Fault Refusal :=
  onDev (fun d => d.commit n m set) st

/-- The context is stopped: the write rule of R96. -/
def Dev.ctxStopped (d : Dev) (n m : Nat) : Bool :=
  ! d.on (F.PLn_CTXm_CFG_EN n m) && d.on (F.PLn_CTXm_STAT_IDLE n m)

/-- The length of a context's tables: L of its stream. While LOAD applies the image that is the length the image gives,
which its end hands over (R131, R284). -/
def Dev.tblLen (d : Dev) (n m : Nat) : Nat :=
  let s := d.val (F.PLn_CTXm_CFG_STREAM n m)
  if d.mode = 2 then min 32768 (max 64 (d.val (F.SLK_Ss_LINE_SH_LEN s))) else d.lineLen s

/-- What TBL_DATA reads at the selected entry (R121, R131). -/
def Dev.tblRead (d : Dev) (n m : Nat) : Nat :=
  let c := d.ctx n m
  let sel := d.val (F.PLn_CTXm_TBL_SEL n m) % 16
  let i := d.val (F.PLn_CTXm_TBL_IDX n m) % 65536
  let L := d.tblLen n m
  if sel < 8 then (if i < L then tabGet calDefault c.sets (sel * 32768 + i) else 0)
  else if sel = 8 then (if i < L then tabGet calDefault c.staging i else 0)
  else if sel = 9 then (if i < L then tabGet calDefault c.cfac i else 0)
  else if sel = 10 then c.static.getD i 0
  else if sel = 11 then c.dynamic.getD i 0
  else 0

/-- The list with entry `i` replaced, grown with zeros where it is short. -/
def setAt (l : List Nat) (i v : Nat) : List Nat :=
  (l ++ List.replicate (i + 1 - l.length) 0).set i v

/-- TBL_DATA written at the selected entry (R121, R131). -/
def Dev.tblWrite (d : Dev) (n m v : Nat) : Dev :=
  let c := d.ctx n m
  let sel := d.val (F.PLn_CTXm_TBL_SEL n m) % 16
  let i := d.val (F.PLn_CTXm_TBL_IDX n m) % 65536
  let L := d.tblLen n m
  let ramping : Bool := match c.setRamp with
    | some r => r.set == sel
    | none => false
  let anyRamp := c.setRamp.isSome || c.scRamp.isSome
  let may := if sel < 8 ∨ sel = 10 then d.ctxStopped n m else if sel = 8 then ! anyRamp else false
  let d := d.raiseIf ((decide (sel < 8) && ramping) || (sel == 8 && anyRamp)) (F.PLn_CTXm_CAL_FLAG_CAL_BUSY n m)
  if ! may then d.accessErr (R.PLn_CTXm_TBL_DATA n m)
  else if sel < 8 then
    if i < L ∧ ¬ ramping then d.setCtx n m { c with sets := tabSet calDefault c.sets (sel * 32768 + i) v } else d
  else if sel = 8 then
    if i < L then d.setCtx n m { c with staging := tabSet calDefault c.staging i v } else d
  else if i < 4096 then d.setCtx n m { c with static := setAt c.static i (v % 65536) } else d

/-- An access of TBL_DATA; the index moves on (R131). -/
def Dev.tblAccess (d : Dev) (n m : Nat) (w : Option Word) : Dev :=
  let i := d.val (F.PLn_CTXm_TBL_IDX n m) % 65536
  let d := match w with
    | some v => d.tblWrite n m v.toNat
    | none => { d with rdata := BitVec.ofNat 32 (d.tblRead n m) }
  d.put (F.PLn_CTXm_TBL_IDX n m) ((i + 1) % 65536)

/-- TBL_DATA_ACCESS (R131). -/
def execTblDataAccess (n : Fin 17) (m : Fin 4) (w : Option Word) (st : State) : Host.Outcome State Fault Refusal :=
  onDev (fun d => d.tblAccess n m w) st

end Sys2Proof.Machine
end

