-- ==== Sys2Proof/Machine/Reckon.lean ====
section
/-! DEFINITION. The Reckoner: items in crossing order, placed and expected positions, decided rows, streams with
triggering off, and the stitch of one Chart row with its refinement in the overlaps (R136 to R157). -/
namespace Sys2Proof.Machine

/-! ### Streams and planes (R127, R128, R143) -/

/-- The streams that feed the Chart (R143). -/
def Dev.cams (d : Dev) : List Nat := d.listed (R.STC_CAMs_CFG 0) 0x80 64 0 1

/-- The context that takes a stream, if one does. -/
def Dev.camCtx (d : Dev) (s : Nat) : Option (Nat × Nat) := (d.ctxsOf s).head?

/-- The planes of a stream; a stream that no context takes has plane 0 alone (R143). -/
def Dev.camPlanes (d : Dev) (s : Nat) : Nat :=
  match d.camCtx s with
  | some c => max 1 (d.layout c.1 c.2 (d.lineLen s)).planes
  | none => 1

/-- PLANE_OFS of a plane, 0 for a stream that no context takes (R128, R143). -/
def Dev.planeOfs (d : Dev) (s p : Nat) : Int :=
  match d.camCtx s with
  | some c => d.vali (F.PLn_CTXm_PLANE_OFSp c.1 c.2 p)
  | none => 0

/-- Active columns of a stream's planes. -/
def Dev.camActive (d : Dev) (s : Nat) : Nat :=
  match d.camCtx s with
  | some c => (d.layout c.1 c.2 (d.lineLen s)).active
  | none => 0

def Cam.plane (c : Cam) (p : Nat) : Plane := tabGet {} c.planes p

def Dev.setPlane (d : Dev) (s p : Nat) (x : Plane) : Dev :=
  let c := d.cam s
  d.setCam s { c with planes := tabSet {} c.planes p x }

/-- The next row of a plane: a plane that has decided none starts at the next Chart row (R18). -/
def Dev.planeNext (d : Dev) (s p : Nat) : Int :=
  let n := d.stc.nextRow.getD 0
  match ((d.cam s).plane p).next with
  | some k => max k n
  | none => n

/-! ### Step 6 (R129) -/

/-- The nearest own column at or after the head: how far, and its value. -/
def nextOwn : List (Option Nat) → Option (Nat × Nat)
  | [] => none
  | some v :: _ => some (0, v)
  | none :: t => (nextOwn t).map (fun r => (r.1 + 1, r.2))

/-- Columns filled from their nearest own columns; `l` is the own column behind, how far and its value. -/
def fillFrom : Option (Nat × Nat) → List (Option Nat) → List Nat
  | _, [] => []
  | _, some v :: t => v :: fillFrom (some (1, v)) t
  | l, none :: t =>
    let r := (nextOwn t).map (fun r => (r.1 + 1, r.2))
    let v : Nat := match l, r with
      | some (a, x), some (b, y) => (x * b + y * a + (a + b) / 2) / (a + b)
      | some (_, x), none => x
      | none, some (_, y) => y
      | none, none => 0
    v :: fillFrom (l.map (fun p => (p.1 + 1, p.2))) t

/-! ### Deciding rows (R139 to R142) -/

/-- How far a line may lie from a row: within 2 pitches, within 8, or beyond (R140). -/
def within (k : Nat) (pitch : Nat) (x : Option Int) : Bool :=
  match x with
  | some v => decide (v ≤ k * pitch)
  | none => false

/-- The value of a row built from one line (R140, R141). -/
def oneLine (k : Int) (l : Placed) (stale ovsp : Bool) : PlaneRow :=
  { k := k, vals := fillFrom none l.vals, time := l.time,
    flags := { stale := stale, ovsp := ovsp, poison := l.poison, calRamp := l.calRamp } }

/-- Linear interpolation with a weight of 16 bits, rounded to nearest (R141, R148, R150). -/
def lerp16 (a b w : Int) : Int := a + ((b - a) * w + 32768) / 65536

/-- Row `k` from lines `a` and `b` (R140 to R142), and what it counts as: 0 nothing, 1 NEAREST, 2 STALE,
3 MISSING. -/
def decideFrom (pitch : Nat) (nearest : Bool) (fill width : Nat) (overs : List Int) (k : Int) (a b : Option Placed) :
    PlaneRow × Nat :=
  let r := k * pitch
  let da := a.map (fun l => r - l.q)
  let db := b.map (fun l => l.q - r)
  let hi := match b with
    | some l => l.q
    | none => r
  let ovsp := overs.any (fun e => decide (e ≤ hi) && (match a with
    | some l => decide (l.q < e)
    | none => true))
  let pick (x y : Placed) : Placed := if decide (r - x.q ≤ y.q - r) then x else y
  let missing : PlaneRow × Nat :=
    ({ k := k, vals := List.replicate width fill, time := 0, flags := { missing := true, ovsp := ovsp } }, 3)
  match a, b with
  | some x, some y =>
    if within 2 pitch da && within 2 pitch db then
      if nearest then (oneLine k (pick x y) false ovsp, 0)
      else
        let w := (r - x.q) * 65536 / (y.q - x.q)
        let vals := (x.vals.zip y.vals).map (fun v => match v with
          | (some p, some q) => some (lerp16 p q w).toNat
          | _ => none)
        ({ k := k, vals := fillFrom none vals, time := lerp16 x.time y.time w,
           flags := { ovsp := ovsp, poison := x.poison || y.poison, calRamp := x.calRamp || y.calRamp } }, 0)
    else if within 2 pitch da then (oneLine k x false ovsp, 1)
    else if within 2 pitch db then (oneLine k y false ovsp, 1)
    else if within 8 pitch da || within 8 pitch db then (oneLine k (pick x y) true ovsp, 2)
    else missing
  | some x, none =>
    if within 2 pitch da then (oneLine k x false ovsp, 1)
    else if within 8 pitch da then (oneLine k x true ovsp, 2) else missing
  | none, some y =>
    if within 2 pitch db then (oneLine k y false ovsp, 1)
    else if within 8 pitch db then (oneLine k y true ovsp, 2) else missing
  | none, none => missing

/-- The counters and flags of a decided row (R140). -/
def Dev.rowCount (d : Dev) (s kind : Nat) : Dev :=
  if kind = 1 then d.inc (F.STC_CAMs_NEAREST_CNT s)
  else if kind = 2 then (d.inc (F.STC_CAMs_STALE_CNT s)).raise (F.STC_CAMs_FLAG_STALE s)
  else if kind = 3 then (d.inc (F.STC_CAMs_MISSING_CNT s)).raise (F.STC_CAMs_FLAG_MISSING s)
  else d

/-- The value of row `k` of a stream from lines `a` and `b` as the registers stand (R140). -/
def Dev.rowValue (d : Dev) (s : Nat) (overs : List Int) (k : Int) (a b : Option Placed) : PlaneRow × Nat :=
  decideFrom d.gridPitch (d.on F.STC_CTRL_NEAREST) (d.val F.STC_FILL % 65536) (d.camActive s) overs k a b

/-- The row that a plane decides next, with `b` the deciding line if it is one (R139). A staggered plane's row takes its
value, and counts, when its lines are read back for it (R146; DEDUCED, log entry 139). -/
def Dev.decideRow (d : Dev) (s p : Nat) (b : Option Placed) : Dev :=
  let x := (d.cam s).plane p
  let k := d.planeNext s p
  let r := d.rowValue s x.overs k x.last b
  if x.depth = 0 then (d.setPlane s p { x with next := some (k + 1), rows := x.rows ++ [r.1] }).rowCount s r.2
  else d.setPlane s p { x with next := some (k + 1), rows := x.rows ++ [{ r.1 with before := x.last, after := b }] }

/-- Rows decided, in ascending order, while they lie below `x` (R139). -/
def Dev.decideTo (s p : Nat) (x : Int) (b : Option Placed) : Nat → Dev → Dev
  | 0, d => d
  | f + 1, d =>
    if d.planeNext s p * d.gridPitch < x then Dev.decideTo s p x b f (d.decideRow s p b) else d

/-- Every row below `x` decided. -/
def Dev.decideUpTo (d : Dev) (s p : Nat) (x : Int) (b : Option Placed) : Dev :=
  Dev.decideTo s p x b ((x - d.planeNext s p * d.gridPitch) / (d.gridPitch : Int) + 1).toNat d

/-! ### Items (R136 to R138, R147) -/

/-- Ring slots in use: the last line's, and every line's whose successor lies above the rows read so far (R147). -/
def ringUse (free : Int) : List Int → List Int
  | [] => []
  | q :: t => q :: (go q t)
where
  go (succ : Int) : List Int → List Int
    | [] => []
    | q :: t => if succ ≤ free then [] else q :: go q t

/-- A line placed in a plane (R136 to R139); a staggered plane gives it the next slot of its ring (R146). -/
def Dev.placeLine (d : Dev) (s p : Nat) (l : Placed) : Dev :=
  let x := (d.cam s).plane p
  let l := if x.depth = 0 then l else { l with slot := some x.slot }
  let d := d.decideUpTo s p l.q (some l)
  let x := (d.cam s).plane p
  let ring := if x.depth = 0 then [] else l.q :: ringUse (d.stc.nextRow.getD 0 * d.gridPitch) x.ring
  d.setPlane s p { x with last := some l, overs := x.overs.filter (fun e => decide (l.q < e)), ring := ring
                          slot := if x.depth = 0 then 0 else (x.slot + 1) % x.depth }

/-- A crossing without a line, or a run of them, taken by a plane (R136, R139, R142). -/
def Dev.placeNone (d : Dev) (s p : Nat) (c : Cross) : Dev :=
  let base := d.planeOfs s p + d.vali (F.STC_CAMs_ALONG_ACT s)
  let e (i : Nat) : Int := d.boundary s (c.k + i) - base
  let x := (d.cam s).plane p
  let d := if c.ovsp then d.setPlane s p { x with overs := x.overs ++ (List.range c.n).map e } else d
  d.decideUpTo s p (e (c.n - 1)) none

/-- STG_OVF (R147). -/
def Dev.stgOvf (d : Dev) (s : Nat) : Dev := (d.raise (F.STC_CAMs_FLAG_STG_OVF s)).inc (F.STC_CAMs_STG_OVF_CNT s)

/-- An item taken by one plane (R136 to R147). -/
def Dev.takePlane (d : Dev) (s : Nat) (c : Cross) (p : Nat) : Dev :=
  match c.rep with
  | .line l =>
    if c.lost.contains p ∨ l.planes.length ≤ p then d.placeNone s p c
    else
      let ofs := d.vali (F.PLn_CTXm_PLANE_OFSp l.tag.pl l.tag.ctx p)
      let q := l.tag.pos - ofs - d.vali (F.STC_CAMs_ALONG_ACT s)
      let x := (d.cam s).plane p
      let below : Bool := match x.last with
        | some a => decide (q ≤ a.q)
        | none => false
      let full := decide (0 < x.depth ∧ x.depth ≤ (ringUse (d.stc.nextRow.getD 0 * d.gridPitch) x.ring).length)
      if below then (d.inc (F.STC_CAMs_DISCARD_CNT s)).raise (F.STC_CAMs_FLAG_DISCARD s)
      else if full then (d.stgOvf s).placeNone s p c
      else d.placeLine s p { q := q, time := l.tag.time, poison := l.tag.poison, calRamp := l.tag.calRamp, vals := l.planes.getD p [] }
  | _ => d.placeNone s p c


/-- The next row of a stream: the lowest of its planes. -/
def Dev.camNext (d : Dev) (s : Nat) : Int :=
  (List.range (d.camPlanes s)).foldl (fun m p => min m (d.planeNext s p)) (d.planeNext s 0)

/-- Streams with triggering off follow the others: they decide the rows that every stream with triggering on has
decided (R144), while the Reckoner runs (R143). -/
def Dev.trigFollow (d : Dev) : Dev :=
  let cs := d.cams
  let off := if d.stc.nextRow.isNone then [] else cs.filter (fun s => d.trigOff s && (d.cam s).items.isEmpty)
  let on := if d.stc.nextRow.isNone then [] else cs.filter (fun s => ! d.trigOff s)
  let d := cs.foldl (fun d s => d.mark (F.STC_CAMs_STAT_TRIG_OFF s) (off.contains s)) d
  match on with
  | [] => d
  | s0 :: _ =>
    let to' := on.foldl (fun m s => min m (d.camNext s)) (d.camNext s0)
    off.foldl (fun d s => (List.range (d.camPlanes s)).foldl (fun d p => d.decideUpTo s p (to' * d.gridPitch) none) d) d

/-- The line that a waiting crossing waits for runs in a front half: it is let run out (R97, R137). -/
def Dev.finishRunning (d : Dev) (s : Nat) (k : Int) : Dev :=
  (List.range 17).foldl (fun d n =>
    match (d.front n).running with
    | some r => if r.2.tag.stream = s ∧ r.2.tag.k = k then (d.reach (d.front n).busyTill).frontDone n else d
    | none => d) d

/-- A stream's next item taken (R137), with the first row that a stream move's new context decides (R173). -/
def Dev.takeItem (d : Dev) (s : Nat) : Dev :=
  let cam := d.cam s
  match cam.items with
  | [] => d
  | c :: t =>
    if c.rep = .waiting then d
    else
      let first := d.camNext s
      let d := d.setCam s { cam with items := t }
      let d := (List.range (d.camPlanes s)).foldl (fun d p => d.takePlane s c p) d
      let d := match d.seg.moved with
        | some (i, j) =>
          if i = s ∧ j ≤ c.k ∧ first < d.camNext s then { d with seg := { d.seg with moved := none } }.puti F.SEG_MIG_P first
          else d
        | none => d
      d.trigFollow

/-- The address of slot `i` of a staggered plane's ring (R146). -/
def Dev.ringAddr (d : Dev) (x : Plane) (i : Nat) : Nat := d.val F.STC_STG_BASE + x.base + i * x.width

/-- The line that a staggered plane has taken is written into its slot, 16 bits a column, as far as the slot is wide
(R146, R147). `was` is the plane before. -/
def Work.ringWrite (s : Nat) (was : Cam) (w : Work) (p : Nat) : Work :=
  let x := (w.dev.cam s).plane p
  match x.last with
  | none => w
  | some l =>
    match l.slot with
    | none => w
    | some i =>
      if (was.plane p).last = some l then w
      else w.post 0 (w.dev.ringAddr x i) ((l.vals.flatMap (fun v => bytesLE 2 (v.getD 0))).take x.width)

/-- ITEM_TAKE (R136 to R144, R146, R147): no item is taken outside INSPECT. -/
def execItemTake (s : Fin 64) (st : State) : Host.Outcome State Fault Refusal :=
  onWork (fun w =>
    if w.dev.mode ≠ 3 then w
    else
      let was := w.dev.cam s
      match was.items.head? with
      | none => w
      | some c =>
        (List.range 4).foldl (Work.ringWrite s was)
          (w.on (fun d => (if c.rep = .waiting then d.finishRunning s c.k else d).takeItem s))) st

/-- ROW_WAIT as it acts, ns (R137). -/
def Dev.rowWait (d : Dev) : Nat := 1000 * min 1000 (max 4 (d.val F.STC_ROW_WAIT))

/-- LATE (R137): the oldest crossing whose line has not arrived is taken as lineless ROW_WAIT after its effective
instant. -/
def execLate (s : Fin 64) (st : State) : Host.Outcome State Fault Refusal :=
  onDev (fun d =>
    let wait (d : Dev) : Option Cross := (d.cam s).items.find? (fun c => c.rep == .waiting)
    match wait d with
    | none => d
    | some c =>
      let due := c.eff + d.rowWait
      let d := (List.range 17).foldl (fun d n => if (d.front n).busyTill ≤ due then (d.reach (d.front n).busyTill).frontDone n else d) d
      let d := d.reach due
      if wait d = some c then
        let d := d.lineless s c.k
        (d.raise (F.STC_CAMs_FLAG_LATE s)).inc (F.STC_CAMs_LATE_CNT s)
      else d) st

/-- STAGGER_WRITE_TIMEOUT (R147): the line of the stream's next item is lineless for a staggered plane.
DEDUCED, log entry 64. -/
def execStaggerWriteTimeout (s : Fin 64) (plane : Fin 4) (st : State) : Host.Outcome State Fault Refusal :=
  onDev (fun d =>
    let cam := d.cam s
    match cam.items with
    | [] => d
    | c :: t =>
      let isLine : Bool := match c.rep with
        | .line _ => true
        | _ => false
      if ! isLine ∨ (cam.plane plane).depth = 0 ∨ c.lost.contains plane.val then d
      else (d.setCam s { cam with items := { c with lost := c.lost ++ [plane.val] } :: t }).stgOvf s) st

/-! ### Entering and leaving INSPECT (R18, R143) -/

/-- The Reckoner starts: rows from the first one above the high-water mark; k0 is fixed once after a LOAD (R18). Where
the mark lies below k0, the Log having started afresh in STANDBY, rows start from the mark all the same
(DESIGN CHOICE, log entry 135). -/
def Dev.rckStart (d : Dev) : Dev :=
  let k := d.vali F.LOG_HWM / (d.gridPitch : Int) + 1
  let d := if d.stc.k0.isNone then { d with stc := { d.stc with k0 := some k, tile := none } }.puti F.STC_K0 k else d
  let d := { d with stc := { d.stc with nextRow := some k } }
  d.cams.foldl (fun d s => d.trigShow s) d

/-- Every held line, ring and partial decision is discarded (R143). -/
def Dev.rckStop (d : Dev) : Dev :=
  let clear (c : Cam) : Cam :=
    { c with items := [], refine := {}, planes := (c.planes.map (fun e => (e.1, ({ depth := e.2.depth, base := e.2.base, width := e.2.width } : Plane)))).filter (fun e => e.2 != {}) }
  let cams := (d.stc.cam.map (fun e => (e.1, clear e.2))).filter (fun e => e.2 != {})
  let d := { d with stc := { d.stc with cam := cams, nextRow := none } }
  d.cams.foldl (fun d s => d.mark (F.STC_CAMs_STAT_TRIG_OFF s) false) d

/-! ### Geometry across the web (R148 to R152) -/

/-- A stream's grid row as the stitch takes it. -/
structure CamRow where
  s     : Nat
  xs    : Nat
  xe    : Nat
  seg   : List Nat
  arch  : List Nat
  time  : Int
  flags : RowFlags
  deriving DecidableEq, Repr

/-- The union of two sets of row flags. -/
def RowFlags.union (a b : RowFlags) : RowFlags :=
  { stale := a.stale || b.stale, missing := a.missing || b.missing, ovsp := a.ovsp || b.ovsp,
    poison := a.poison || b.poison, calRamp := a.calRamp || b.calRamp }

/-- The weight of plane `p`, S1.14 (R130). -/
def Dev.segWeight (d : Dev) (n m p : Nat) : Int :=
  if p = 0 then d.vali (F.PLn_CTXm_SEGW01_W0 n m) else if p = 1 then d.vali (F.PLn_CTXm_SEGW01_W1 n m)
  else if p = 2 then d.vali (F.PLn_CTXm_SEGW23_W2 n m) else d.vali (F.PLn_CTXm_SEGW23_W3 n m)

/-- The weighted sum of planes, column by column (R130). -/
def Dev.segSum (d : Dev) (n m width : Nat) (rows : List PlaneRow) : List Nat :=
  (List.range width).map (fun c =>
    let t := ((List.range rows.length).zip rows).foldl (fun t e => t + d.segWeight n m e.1 * (e.2.vals.getD c 0 : Nat)) (0 : Int)
    (clampI 0 65535 ((t + 8192) / 16384)).toNat)

/-- A stream's row `k` from its planes: segmentation value, archive value, flags and time (R130, R142, R151,
R152). -/
def Dev.camRow (d : Dev) (s : Nat) (k : Int) : CamRow :=
  let cam := d.cam s
  let xs := d.val (F.STC_CAMs_XS s) % 2 ^ 18
  let xe := d.val (F.STC_CAMs_XE s) % 2 ^ 18
  let none' : PlaneRow := { k := k, vals := [], time := 0, flags := { missing := true } }
  let rows := (List.range (d.camPlanes s)).map (fun p => (((cam.plane p).rows.find? (fun r => r.k == k))).getD none')
  let ar := d.val F.STC_CTRL_ARCH
  let plane (i : Nat) : PlaneRow := rows.getD (if i < rows.length then i else 0) none'
  match d.camCtx s with
  | none => { s := s, xs := xs, xe := xe, seg := (plane 0).vals, arch := (plane 0).vals, time := (plane 0).time, flags := (plane 0).flags }
  | some (n, m) =>
    let arch (seg : List Nat) := if 4 ≤ ar then seg else (plane ar).vals
    if d.on (F.PLn_CTXm_MOSAIC_CFG_SEG_SUM n m) then
      let seg := d.segSum n m (plane 0).vals.length rows
      let fl := ((List.range rows.length).zip rows).foldl (fun f e => if d.segWeight n m e.1 = 0 then f else f.union e.2.flags) ({} : RowFlags)
      { s := s, xs := xs, xe := xe, seg := seg, arch := arch seg, time := (plane 0).time, flags := fl }
    else
      let r := plane (d.val (F.PLn_CTXm_MOSAIC_CFG_SEG_PLANE n m))
      { s := s, xs := xs, xe := xe, seg := r.vals, arch := arch r.vals, time := r.time, flags := r.flags }

/-- A residual entry, S3.12 (R148, R156). -/
def Cam.residual (c : Cam) (bank j : Nat) : Int := toSigned 16 (tabGet 0 c.resid (bank * 1024 + j))

/-- The camera coordinate of span column `x`, 1/65,536 camera column (R148). -/
def camCoord (offset scale : Int) (rt : Nat → Int) (x : Nat) : Int :=
  let j := x / 64
  let f : Int := (x % 64 : Nat)
  let res := rt j + ((rt (j + 1) - rt j) * f + 32) / 64
  offset + scale * x / 4096 + res * 16

/-- A sample of a row at a camera coordinate, and whether it lay beyond the camera's columns (R148). -/
def sampleAt (g : List Nat) (s : Int) : Nat × Bool :=
  let i := s / 65536
  if i < 0 then (g.getD 0 0, true)
  else if ((g.length : Int) - 1) * 65536 < s then (g.getD (g.length - 1) 0, true)
  else ((lerp16 (g.getD i.toNat 0) (g.getD (i.toNat + 1) 0) (s % 65536)).toNat, false)

/-- A camera's samples over its span: segmentation and archive values, and how many columns were clamped. A row
that is MISSING is not sampled (R148). -/
def Dev.camSamples (d : Dev) (r : CamRow) : List (Nat × Nat) × Nat :=
  if r.flags.missing then ([], 0)
  else
    let cam := d.cam r.s
    let bank := d.val (F.STC_CAMs_STAT_RES_BANK r.s)
    let at' (x : Nat) : Int := camCoord (d.vali (F.STC_CAMs_OFFSET_ACT r.s)) (d.val (F.STC_CAMs_SCALE_ACT r.s)) (cam.residual bank) x
    let l := (List.range (r.xe + 1 - r.xs)).map (fun x => (sampleAt r.seg (at' x), sampleAt r.arch (at' x)))
    (l.map (fun v => (v.1.1, v.2.1)), (l.filter (fun v => v.1.2)).length)

/-- One Chart column: its one camera, or the blend of two (R150, R151). -/
def chartCol (fill : Nat) (rows : List (CamRow × List (Nat × Nat))) (x : Nat) : Col × Bool :=
  let cov := rows.filter (fun r => decide (r.1.xs ≤ x ∧ x ≤ r.1.xe))
  let live := cov.filter (fun r => ! r.1.flags.missing)
  let v (r : CamRow × List (Nat × Nat)) : Nat × Nat := r.2.getD (x - r.1.xs) (0, 0)
  match cov, live with
  | a :: b :: _, [_, _] =>
    let w : Int := ((x - b.1.xs + 1) * 65536 / (a.1.xe - b.1.xs + 2) : Nat)
    ({ seg := (lerp16 (v a).1 (v b).1 w).toNat, arch := (lerp16 (v a).2 (v b).2 w).toNat, time := a.1.time,
       flags := a.1.flags.union b.1.flags }, true)
  | _, r :: _ => ({ seg := (v r).1, arch := (v r).2, time := r.1.time, flags := r.1.flags }, true)
  | _, [] =>
    let fl := cov.foldl (fun f r => f.union r.1.flags) ({ missing := true } : RowFlags)
    ({ seg := fill, arch := fill, time := 0, flags := fl }, false)

/-- The Chart width (R22). -/
def Dev.chartWidth (d : Dev) : Nat := (List.range 16).foldl (fun n s => n + d.val (F.STC_SLICEs_WIDTH s)) 0

/-- The first local column of a slice (R22). -/
def Dev.sliceStart (d : Dev) (s : Nat) : Nat := (List.range s).foldl (fun n i => n + d.val (F.STC_SLICEs_WIDTH i)) 0

/-- The slice that holds a local column; the last one for a column beyond all. -/
def Dev.sliceOf (d : Dev) (c : Nat) : Nat :=
  ((List.range 16).find? (fun s => decide (d.sliceStart s ≤ c ∧ c < d.sliceStart s + d.val (F.STC_SLICEs_WIDTH s)))).getD 15

/-! ### Refinement (R153 to R155) -/

/-- The operator-side neighbour of a camera, when their overlap is at least 16 columns wide (R153). -/
def Dev.operatorSide (d : Dev) (b : Nat) : Option Nat :=
  let xs := d.val (F.STC_CAMs_XS b) % 2 ^ 18
  d.cams.find? (fun a =>
    a != b && decide (d.val (F.STC_CAMs_XS a) % 2 ^ 18 < xs) && decide (xs + 15 ≤ d.val (F.STC_CAMs_XE a) % 2 ^ 18))

/-- Σ |v_b(x + dx) − v_a(x)| over the overlap shrunk by 2 at each end, for the 25 shifts; `bs` are camera b's rows
k − 2 to k + 2 (R153). -/
def shiftSums (a : List Nat) (bs : List (List Nat)) : List Nat :=
  bs.flatMap (fun b => (List.range 5).map (fun dx =>
    (List.range (a.length - 4)).foldl (fun t i => t + ((b.getD (i + dx) 0 : Int) - (a.getD (i + 2) 0 : Int)).natAbs) 0))

/-- A row joins the measurement: row k − 2, with neither camera's row flagged, is measured once rows k − 4 to k are
known; camera b's rows around it serve as they are (R153; log entry 22). -/
def Refine.push (m : Refine) (e : Int × Bool × List Nat × Bool × List Nat) : Refine :=
  let last := (e :: m.last).take 5
  match last with
  | [e4, e3, e2, e1, e0] =>
    let all := [e0, e1, e2, e3, e4]
    let good := e2.2.1 && e2.2.2.2.1 && e4.1 == e0.1 + 4
    if ! good then { m with last := last }
    else
      let s := shiftSums e2.2.2.1 (all.map (fun x => x.2.2.2.2))
      let sums := if m.sums.isEmpty then s.map (min (2 ^ 48 - 1)) else (m.sums.zip s).map (fun x => min (2 ^ 48 - 1) (x.1 + x.2))
      { rows := m.rows + 1, sums := sums, last := last }
  | _ => { m with last := last }


/-- The refined minimum on one axis (R153). -/
def subStep (sm s0 sp : Nat) : Int :=
  let den : Int := (sm : Int) - 2 * s0 + sp
  if 0 < den then Int.tdiv (((sm : Int) - sp) * 32768) den else 0

/-- The measurement at the end of tile `t` (R153, R154). -/
def Dev.measure (d : Dev) (b t : Nat) : Dev :=
  let cam := d.cam b
  let m := cam.refine
  let d := d.setCam b { cam with refine := { last := m.last } }
  if ! d.on F.STC_CTRL_REFINE_EN ∨ ! d.on (F.STC_CAMs_CFG_REFINE b) ∨ (d.operatorSide b).isNone then d
  else
    let skip (d : Dev) : Dev := (d.raise (F.STC_CAMs_FLAG_REFINE_SKIP b)).inc (F.STC_CAMs_REFINE_SKIP_CNT b)
    if m.rows < 16 * d.val F.STC_REFINE_CFG_MIN_ROWS ∨ m.sums.isEmpty then skip d
    else
      let s (i : Nat) : Nat := m.sums.getD i 0
      let best := (List.range 25).foldl (fun j i => if s i < s j then i else j) 0
      let dy := best / 5
      let dx := best % 5
      if dy = 0 ∨ dy = 4 ∨ dx = 0 ∨ dx = 4 then (skip d).raise (F.STC_CAMs_FLAG_REFINE_RANGE b)
      else
        let s0 := s best
        let tex := d.val F.STC_REFINE_CFG_TEX_MIN * m.rows
        if min (s (best - 1)) (s (best + 1)) < s0 + tex ∨ min (s (best - 5)) (s (best + 5)) < s0 + tex then d
        else
          let p : Int := d.gridPitch
          let ma := ((dx : Int) - 2) * 65536 + subStep (s (best - 1)) s0 (s (best + 1))
          let ml := ((dy : Int) - 2) * p + Int.tdiv (subStep (s (best - 5)) s0 (s (best + 5)) * p) 65536
          let sh : Int := (2 ^ d.val F.STC_REFINE_CFG_SHIFT : Nat)
          let oa := d.vali (F.STC_CAMs_OVL_ACROSS b)
          let ol := d.vali (F.STC_CAMs_OVL_ALONG b)
          let va := oa + (ma - oa) / sh
          let vl := ol + (ml - ol) / sh
          let d := ((d.puti (F.STC_CAMs_OVL_ACROSS b) va).puti (F.STC_CAMs_OVL_ALONG b) vl).inc (F.STC_CAMs_REFINE_CNT b)
          let step : RefStep := { tile := t, across := clampI (-655) 655 va, along := clampI (-(p / 100)) (p / 100) vl }
          d.setCam b { d.cam b with steps := (d.cam b).steps ++ [step] }

/-- The rows of the refined cameras taken into their measurements, and the measurement of a tile once its last row, row
k − 2, has been taken (R153). A row that is MISSING holds STC_FILL (R140). DEDUCED, log entry 22. -/
def Dev.refineRow (d : Dev) (k : Int) (rows : List (CamRow × List (Nat × Nat))) : Dev :=
  let fill := d.val F.STC_FILL % 65536
  rows.foldl (fun d rb =>
    let b := rb.1.s
    match (d.operatorSide b).bind (fun a => rows.find? (fun r => r.1.s == a)) with
    | none => d
    | some ra =>
      if ! d.on F.STC_CTRL_REFINE_EN ∨ ! d.on (F.STC_CAMs_CFG_REFINE b) then
        (if (d.cam b).refine = {} then d else d.setCam b { d.cam b with refine := {} })
      else
        let n := ra.1.xe + 1 - rb.1.xs
        let good (r : CamRow) : Bool := ! (r.flags.stale || r.flags.missing || r.flags.poison)
        let row (r : CamRow) (l : List (Nat × Nat)) : List Nat :=
          if r.flags.missing then List.replicate n fill else (l.take n).map (·.1)
        let va := row ra.1 (ra.2.drop (rb.1.xs - ra.1.xs))
        let vb := row rb.1 rb.2
        let cam := d.cam b
        let d := d.setCam b { cam with refine := cam.refine.push (k, good ra.1, va, good rb.1, vb) }
        let t := tileOf (k - 2) (d.vali F.STC_K0)
        let seen := cam.refine.last.any (fun e => e.1 == k - 2)
        if seen ∧ d.vali F.STC_K0 ≤ k - 2 ∧ tileOf (k - 1) (d.vali F.STC_K0) ≠ t then d.measure b t else d) d

/-- A refinement step applied to a camera's geometry (R154). -/
def Dev.applyStep (d : Dev) (b : Nat) (x : RefStep) : Dev :=
  let off := d.vali (F.STC_CAMs_OFFSET_ACT b) + x.across * d.val (F.STC_CAMs_SCALE_ACT b) / 2 ^ 28
  let al := d.vali (F.STC_CAMs_ALONG_ACT b) + x.along
  let d := (d.puti (F.STC_CAMs_OFFSET_SH b) off).puti (F.STC_CAMs_OFFSET_ACT b) off
  let d := (d.puti (F.STC_CAMs_ALONG_SH b) al).puti (F.STC_CAMs_ALONG_ACT b) al
  let d := d.puti (F.STC_CAMs_OVL_ACROSS b) (d.vali (F.STC_CAMs_OVL_ACROSS b) - x.across)
  d.puti (F.STC_CAMs_OVL_ALONG b) (d.vali (F.STC_CAMs_OVL_ALONG b) - x.along)

/-- A camera at the TILE hand-over that starts tile `t` (R154 to R156). -/
def Dev.camTile (d : Dev) (s t : Nat) : Dev :=
  let due := (d.cam s).steps.filter (fun x => decide ((x.tile + 2) % 2 ^ 32 = t))
  let d := if due.isEmpty then d
    else d.setCam s { d.cam s with steps := (d.cam s).steps.filter (fun x => decide ((x.tile + 2) % 2 ^ 32 ≠ t)) }
  let d :=
    if d.on (F.STC_CAMs_STAT_SHADOW_PEND s) then
      let d := d.setReg (R.STC_CAMs_OFFSET_ACT s) (d.reg (R.STC_CAMs_OFFSET_SH s))
      let d := d.setReg (R.STC_CAMs_SCALE_ACT s) (d.reg (R.STC_CAMs_SCALE_SH s))
      let d := d.setReg (R.STC_CAMs_ALONG_ACT s) (d.reg (R.STC_CAMs_ALONG_SH s))
      (d.mark (F.STC_CAMs_STAT_SHADOW_PEND s) false).raiseIf (! due.isEmpty) (F.STC_CAMs_FLAG_REFINE_LOST s)
    else due.foldl (fun d x => d.applyStep s x) d
  if (d.cam s).swapPend then
    (d.setCam s { d.cam s with swapPend := false }).put (F.STC_CAMs_STAT_RES_BANK s) (1 - d.val (F.STC_CAMs_STAT_RES_BANK s))
  else d

/-- The TILE hand-over of the stitch at row `k`, when it begins a tile other than the last row's (R153 to R156).
The answer says whether it took place. -/
def Dev.stcTile (d : Dev) (k : Int) : Dev × Bool :=
  let t := tileOf k (d.vali F.STC_K0)
  if d.stc.tile = some t then (d, false)
  else
    let d := (List.range 64).foldl (fun d s => d.camTile s t) d
    ({ d with stc := { d.stc with tile := some t } }, true)

/-! ### Assembling a Chart row (R143, R147 to R152) -/

/-- Every plane of every stream that feeds the Chart has decided row `k` (R143). -/
def Dev.rowReady (d : Dev) (k : Int) : Bool :=
  let cs := d.cams
  ! cs.isEmpty && cs.all (fun s => (List.range (d.camPlanes s)).all (fun p => ((d.cam s).plane p).rows.any (fun r => r.k == k)))

/-- Row `k` of a staggered plane takes its value from lines `a` and `b`, and counts (R140); the skipped crossings in its
interval are those found when it was decided (R142). -/
def Dev.takeRow (d : Dev) (s p : Nat) (k : Int) (a b : Option Placed) : Dev :=
  let x := (d.cam s).plane p
  let r := d.rowValue s [] k a b
  let put (e : PlaneRow) : PlaneRow := if e.k = k then { r.1 with flags := { r.1.flags with ovsp := e.flags.ovsp } } else e
  (d.setPlane s p { x with rows := x.rows.map put }).rowCount s r.2

/-- A ring read that came too late: the row of a staggered plane is produced from its line on chip (R147). -/
def Dev.lateRead (d : Dev) (k : Int) (i : Nat) : Dev :=
  let s := i / 4
  let p := i % 4
  let x := (d.cam s).plane p
  if x.depth = 0 ∨ ¬ x.rows.any (fun r => r.k == k) then d
  else
    let below : Bool := match x.last with
      | some l => decide (l.q ≤ k * d.gridPitch)
      | none => false
    (d.takeRow s p k (if below then x.last else none) (if below then none else x.last)).stgOvf s

/-- A line read back from its ring slot, once: the last two stay on chip (R146). Columns that step 6 fills are not read,
and columns beyond the slot are those on chip. -/
def Work.ringLine (w : Work) (s p : Nat) (l : Option Placed) : Work × Option Placed :=
  match l with
  | none => (w, none)
  | some l =>
    match l.slot with
    | none => (w, some l)
    | some i =>
      let x := (w.dev.cam s).plane p
      let seen := x.back.find? (fun e => e.1 == i)
      let r : Work × List Nat := match seen with
        | some e => (w, e.2)
        | none =>
          let r := w.load (w.dev.ringAddr x i) (min x.width (2 * l.vals.length))
          let vs := (List.range (r.2.length / 2)).map (fun c => leAt r.2 (2 * c) 2)
          (r.1.on (fun d =>
            let y := (d.cam s).plane p
            d.setPlane s p { y with back := ((i, vs) :: y.back).take 2 }), vs)
      (r.1, some { l with vals := (l.vals.zip (List.range l.vals.length)).map (fun v => v.1.map (fun c => r.2.getD v.2 c)) })

/-- Row `k` of a staggered plane takes its value from its lines, read back from the ring (R140, R146). -/
def Work.ringRow (w : Work) (k : Int) (s p : Nat) : Work :=
  match ((w.dev.cam s).plane p).rows.find? (fun r => r.k == k) with
  | none => w
  | some r =>
    let a := w.ringLine s p r.before
    let b := a.1.ringLine s p r.after
    b.1.on (fun d => d.takeRow s p k a.2 b.2)

/-- Every staggered plane whose ring read is not late gives its row `k`. -/
def Work.ringRows (w : Work) (k : Int) (late : List Nat) : Work :=
  w.dev.cams.foldl (fun (w : Work) s => (List.range (w.dev.camPlanes s)).foldl (fun (w : Work) p =>
    if ((w.dev.cam s).plane p).depth = 0 ∨ late.contains (4 * s + p) then w else w.ringRow k s p) w) w

/-- Row `k` taken out of every plane. -/
def Dev.dropRows (d : Dev) (k : Int) : Dev :=
  d.cams.foldl (fun d s =>
    let c := d.cam s
    let planes := c.planes.map (fun e => (e.1, { e.2 with rows := e.2.rows.filter (fun r => decide (k < r.k)) }))
    d.setCam s { c with planes := planes.filter (fun e => e.2 != {}) }) d

/-- The Chart row `k` (R148 to R152). -/
def Dev.stitch (d : Dev) (k : Int) : Dev × ChartRow :=
  let cams := orderBy (fun a b => decide (d.val (F.STC_CAMs_XS a) % 2 ^ 18 < d.val (F.STC_CAMs_XS b) % 2 ^ 18)) d.cams
  let rows := cams.map (fun s =>
    let r := d.camRow s k
    (r, d.camSamples r))
  let d := rows.foldl (fun d r =>
    if 0 < r.2.2 then (d.raise (F.STC_CAMs_FLAG_CLAMP r.1.s)).bump (F.STC_CAMs_CLAMP_CNT r.1.s) r.2.2 else d) d
  let plain := rows.map (fun r => (r.1, r.2.1))
  let d := d.refineRow k plain
  let cols := (List.range d.chartWidth).map (chartCol (d.val F.STC_FILL % 65536) plain)
  let time := match cols.find? (·.2) with
    | some c => c.1.time
    | none => d.devTime
  (d, { k := k, time := time, cols := cols.map (fun c => if c.2 then c.1 else { c.1 with time := time }) })

/-! ### Commands of the stitch's registers (R155, R156) -/

/-- OVL_WRITE (R155). -/
def Dev.ovlWrite (d : Dev) (s : Nat) (along : Bool) (v : Word) : Dev :=
  d.setReg (if along then R.STC_CAMs_OVL_ALONG s else R.STC_CAMs_OVL_ACROSS s) v

/-- OVL_WRITE (R155). -/
def execOvlWrite (s : Fin 64) (along : Bool) (v : Word) (st : State) : Host.Outcome State Fault Refusal :=
  onDev (fun d => d.ovlWrite s along v) st

/-- RES_SWAP written (R156). -/
def Dev.resSwap (d : Dev) (s : Nat) : Dev := d.setCam s { d.cam s with swapPend := true }

/-- RES_SWAP (R156). -/
def execResSwap (s : Fin 64) (st : State) : Host.Outcome State Fault Refusal := onDev (fun d => d.resSwap s) st

/-- An access of STC_TBL_DATA: indices 0 to 512 are the idle bank, 1,024 to 1,536 the active one. What the
others read is not stated: a free value (R156; DESIGN CHOICE, log entry 5). -/
def Dev.stcTblAccess (d : Dev) (w : Option Word) : Dev :=
  let s := d.val F.STC_TBL_STREAM % 64
  let i := d.val F.STC_TBL_IDX % 2048
  let act := d.val (F.STC_CAMs_STAT_RES_BANK s)
  let cam := d.cam s
  let key := if i ≤ 512 then (1 - act) * 1024 + i else act * 1024 + (i - 1024)
  let valid := decide (i ≤ 512) || (decide (1024 ≤ i) && decide (i ≤ 1536))
  let d := match w with
    | none =>
      if valid then { d with rdata := BitVec.ofNat 32 (tabGet 0 cam.resid key) }
      else
        let f := d.draw
        { f.2 with rdata := f.1.extractLsb' 0 32 &&& 0xFFFF }
    | some v =>
      if decide (1024 ≤ i) && decide (i ≤ 1536) then d.accessErr R.STC_TBL_DATA
      else if valid then d.setCam s { cam with resid := tabSet 0 cam.resid key (v.toNat % 65536) }
      else d
  d.put F.STC_TBL_IDX ((i + 1) % 2048)

/-- STC_TBL_DATA_ACCESS (R156). -/
def execStcTblDataAccess (w : Option Word) (st : State) : Host.Outcome State Fault Refusal := onDev (fun d => d.stcTblAccess w) st

end Sys2Proof.Machine
end

