-- ==== Sys2Proof/Machine/Codec.lean ====
section
/-! DEFINITION. Codec engines and capture taps (R198, R204 to R212). -/
namespace Sys2Proof.Machine

/-! ### Descriptors (R204) -/

/-- A descriptor's fields. -/
structure JobDesc where
  own    : Bool
  ioc    : Bool
  decode : Bool
  bits   : Nat
  da     : Nat
  dc     : Nat
  blk    : Nat
  w      : Nat
  n      : Nat
  stride : Nat
  src    : Nat
  out    : Nat
  size   : Nat
  next   : Nat
  row    : Nat
  col    : Nat
  tile   : Nat
  deriving DecidableEq, Repr

/-- The fields of 64 bytes. -/
def jobDesc (bs : List Byte) : JobDesc :=
  let c := leAt bs 0 4
  let blk := c / 2 ^ 20 % 2 ^ 11
  { own := bitOf c 0, ioc := bitOf c 1, decode := bitOf c 2, bits := c / 2 ^ 8 % 32, da := c / 2 ^ 16 % 4, dc := c / 2 ^ 18 % 4,
    blk := if blk = 0 ∨ 1024 < blk then 1024 else blk, w := leAt bs 4 2, n := leAt bs 8 4, stride := leAt bs 12 4,
    src := leAt bs 16 8, out := leAt bs 24 8, size := leAt bs 32 4, next := leAt bs 40 8, row := leAt bs 48 8,
    col := leAt bs 56 4, tile := leAt bs 60 4 }

/-- ERR_PARAM (R206). -/
def JobDesc.badParam (j : JobDesc) (at' : Nat) : Bool :=
  j.w == 0 || decide (16384 < j.w) || j.n == 0 || decide (j.bits < 8) || decide (16 < j.bits) || decide (j.stride < 2 * j.w)
    || j.out % 8 != 0 || at' % 64 != 0

/-! ### Coding a job (R198, R202, R204, R206, R208) -/

/-- What a job comes to: its code, the valid bytes it writes with their offsets, how many there are, the samples
coded or decoded, and whether a poisoned word was coded. -/
structure JobOut where
  code    : Nat
  bytes   : List (Nat × List Byte) := []
  valid   : Nat := 0
  samples : Nat := 0
  poison  : Bool := false
  deriving DecidableEq, Repr

/-- The rows of a block that are coded whole before its payload reaches byte `lim`. -/
def rowsBefore (bits lim : Nat) (blk : List (List Nat)) : Nat :=
  ((List.range blk.length).filter (fun i => decide ((encodePayload bits (blk.take (i + 1))).length < lim))).length

/-- A job that ends because its block passes the output size in payload byte `lim`: what had been coded by then counts,
and so does a poisoned word among it. How far into a row the engine has come is free (R198, R212; DESIGN CHOICE, log
entry 127). -/
def JobOut.outOfSpace (o : JobOut) (j : JobDesc) (bad : List Nat) (free r0 lim : Nat) (blk : List (List Nat)) : JobOut :=
  let k := rowsBefore j.bits lim blk
  let part := if k < blk.length then free / 2 % (j.w + 1) else 0
  let hit := bad.any (fun x => decide (r0 ≤ x ∧ x < r0 + k))
    || (bad.contains (r0 + k) && decide (k < blk.length) && free % 2 == 1)
  { code := 1, samples := o.samples + j.w * k + part, poison := o.poison || hit }

/-- Blocks from source row `r0` on, written from offset `off` on. -/
def codeBlocks (j : JobDesc) (rows : List (List Nat)) (bad flushes : List Nat) (free : Nat) : Nat → Nat → Nat → JobOut → JobOut
  | 0, _, _, o => o
  | f + 1, r0, idx, o =>
    if rows.length ≤ r0 then o
    else
      let n := min j.blk (rows.length - r0)
      let cut := (flushes.filter (fun x => decide (r0 ≤ x ∧ x + 1 < r0 + n))).foldl min (r0 + n)
      let flushed := decide (cut < r0 + n)
      let n := if flushed then cut + 1 - r0 else n
      let blk := (rows.drop r0).take n
      let payload := encodePayload j.bits blk
      let raw := 2 * j.w * n
      let room := j.size - o.valid
      let pass := room + 1 - 32
      if room < 32 then { code := 1, samples := o.samples, poison := o.poison }
      else if raw ≤ payload.length ∧ raw ≤ pass then { o with code := 2 }
      else if room < 32 + (payload.length + 7) / 8 * 8 + 8 then o.outOfSpace j bad free r0 pass blk
      else
        let poison := bad.any (fun x => decide (r0 ≤ x ∧ x < r0 + n))
        let last := decide (rows.length ≤ r0 + n)
        let h : BlockHdr := { flags := 2 * b2n flushed + 4 * b2n poison + 8 * b2n last, w := j.w, r := n, bits := j.bits,
                              dec := j.da + 16 * j.dc, index := idx % 2 ^ 16, col := j.col,
                              row := (j.row + r0 * 2 ^ j.da) % 2 ^ 64, tile := j.tile, plen := payload.length }
        let bs := blockBytes h payload blk
        codeBlocks j rows bad flushes free f (r0 + n) (idx + 1)
          { code := 0, bytes := o.bytes ++ [(o.valid, bs)], valid := o.valid + bs.length, samples := o.samples + j.w * n,
            poison := o.poison || poison }

/-- A coding job on the memory it reads. -/
def Work.codeJob (w : Work) (j : JobDesc) (at' : Nat) (bad flushes : List Nat) (free : Nat) : JobOut :=
  if j.badParam at' then { code := 4 }
  else
    let rows := (List.range j.n).map (fun r => (List.range j.w).map (fun c =>
      leAt (w.reads (j.src + r * j.stride + 2 * c) 2) 0 2 / 2 ^ (16 - j.bits)))
    codeBlocks j rows bad flushes free (j.n + 1) 0 0 { code := 0 }

/-! ### Decoding a job (R207) -/

/-- Blocks read one after another; decoded rows so far, oldest first. A job that fails counts what it had decoded; how far
it had come in the block that failed is free where the rules do not say (R212; DESIGN CHOICE, log entry 127). -/
def decodeBlocks (j : JobDesc) (free : Nat) : Nat → Option Nat → List Byte → JobOut → Nat → JobOut
  | 0, _, _, o, _ => o
  | f + 1, w0, bs, o, row =>
    if bs.isEmpty then o
    else
      match readBlock w0 bs with
      | .fails c lo hi => { code := c, samples := o.samples + lo + free % (hi - lo + 1) }
      | .rows bits bw len l =>
        if decide (j.size < (row + l.length - 1) * j.stride + 2 * bw) then
          { code := 1, samples := o.samples + free % (bw * l.length + 1) }
        else
          let out := ((List.range l.length).zip l).map (fun e =>
            ((row + e.1) * j.stride, e.2.flatMap (fun s => bytesLE 2 (s * 2 ^ (16 - bits)))))
          decodeBlocks j free f (some bw) (bs.drop len)
            { code := 0, bytes := o.bytes ++ out, valid := o.valid + 2 * bw * l.length, samples := o.samples + bw * l.length }
            (row + l.length)

/-- A decode job. -/
def Work.decodeJob (w : Work) (j : JobDesc) (at' free : Nat) : JobOut :=
  if j.badParam at' then { code := 4 }
  else decodeBlocks j free (j.n + 1) none (w.reads j.src j.n) { code := 0 } 0

/-! ### The engine (R205, R206, R209) -/

/-- `n` bytes of free value (DESIGN CHOICE, log entry 5). -/
def Work.freeBytes (w : Work) (n : Nat) : Work × List Byte :=
  let i := w.dev.draws
  (w.on (fun d => { d with draws := d.draws + n }), (List.range n).map (fun k => (Config.freeValue (i + k)).extractLsb' 0 8))

/-- The engine fetches the descriptor at DESC (R205). A START that waits is taken at EMPTY. -/
def Work.cdcFetch (w : Work) (e : Nat) : Nat → Work
  | 0 => w
  | f + 1 =>
    let a := w.dev.val (F.CDC_En_DESC e)
    let r := if a = 0 then (w, []) else w.load a 64
    let w := r.1
    let bs := r.2
    if a = 0 ∨ ! (jobDesc bs).own then
      let again := w.dev.on (F.CDC_En_STAT_START_PEND e)
      let w := w.on (fun d => (d.mark (F.CDC_En_STAT_EMPTY e) true).mark (F.CDC_En_STAT_START_PEND e) false)
      if again then w.cdcFetch e f else w
    else
      w.on (fun d =>
        let d := d.setEng e { d.eng e with desc := a, job := some bs, flushes := [] }
        ((d.mark (F.CDC_En_STAT_EMPTY e) false).mark (F.CDC_En_STAT_BUSY e) true).mark (F.CDC_En_STAT_DECODING e) (jobDesc bs).decode)

/-- START, or an event on the subscribed channel (R205). -/
def Work.cdcStart (w : Work) (e : Nat) : Work :=
  if w.dev.on (F.CDC_En_STAT_BUSY e) then w.on (fun d => d.mark (F.CDC_En_STAT_START_PEND e) true)
  else if ! w.dev.runs (F.CDC_En_CTRL_EN e) (F.CDC_En_STAT_IDLE e) then w
  else w.cdcFetch e 2

/-- CDC_START (R205). -/
def execCdcStart (e : Fin 4) (st : State) : Host.Outcome State Fault Refusal := onWork (fun w => w.cdcStart e) st

/-- The flag of a job's code (R206). -/
def cdcFlag (e code : Nat) : Fld := if code = 6 then F.CDC_En_FLAG_ABORTED e else ⟨R.CDC_En_FLAG e, code, 1⟩

/-- A job ends: STATUS written, OWN cleared, DONE set, counted and published (R205, R206). -/
def Work.cdcFinish (w : Work) (e : Nat) (o : JobOut) : Work :=
  let g := w.dev.eng e
  let j := jobDesc (g.job.getD [])
  let w := w.store (g.desc + 36) (bytesLE 4 (o.code + 256 * o.valid))
  let w := w.store g.desc (bytesLE 4 (leAt (g.job.getD []) 0 4 / 2 * 2))
  w.on (fun d =>
    let d := d.setEng e { g with job := none, flushes := [], doneIoc := g.doneIoc || j.ioc }
    let d := (d.mark (F.CDC_En_STAT_BUSY e) false).mark (F.CDC_En_STAT_DECODING e) false
    let d := (d.put (F.CDC_En_STAT_LAST_CODE e) o.code).inc (F.CDC_En_JOB_CNT e)
    let d := (d.bump (F.CDC_En_PIX_CNT e) o.samples).bump (F.CDC_En_BYTE_CNT e) o.valid
    let d := if o.code = 0 then d else (d.inc (F.CDC_En_ERR_CNT e)).raise (cdcFlag e o.code)
    let d := d.raiseIf o.poison (F.CDC_En_FLAG_POISON e)
    let d := d.raiseDone (F.CDC_En_FLAG_DONE e) j.ioc g.doneIoc
    if d.on (F.CDC_En_CTRL_PUB e) then d.publish (d.val (F.CDC_En_CTRL_PUB_EVC e)) (0x10 + e) else d)

/-- After a job: a drain sets IDLE, and otherwise the next descriptor is fetched (R205, R209). -/
def Work.cdcNext (w : Work) (e : Nat) (next : Nat) : Work :=
  let w := w.on (fun d => d.put (F.CDC_En_DESC e) next)
  if w.dev.drains (F.CDC_En_CTRL_EN e) (F.CDC_En_STAT_IDLE e) then
    w.on (fun d => ((d.mark (F.CDC_En_STAT_START_PEND e) false).drained (F.CDC_En_CTRL_EN e) (F.CDC_En_STAT_IDLE e)).1)
  else w.cdcFetch e 2

/-- The source of a job read: a coding job's rows, or the blocks that a decode job reads (R235, R255). -/
def Work.jobReads (w : Work) (j : JobDesc) : Work :=
  if j.badParam 0 then w
  else if j.decode then w.touch j.src j.n false .good
  else (List.range j.n).foldl (fun (w : Work) r => w.touch (j.src + r * j.stride) (2 * j.w) false .good) w

/-- A job runs to its end. Output that is not valid is a free value (R206; DESIGN CHOICE, log entry 5). -/
def Work.cdcRun (w : Work) (e : Nat) (decode : Bool) (bad : List Nat) : Work :=
  let g := w.dev.eng e
  match g.job with
  | none => w
  | some bs =>
    let j := jobDesc bs
    if j.decode != decode then w
    else
      let f := w.dev.draw
      let w := ({ w with dev := f.2 } : Work).jobReads j
      let o := if decode then w.decodeJob j g.desc f.1.toNat else w.codeJob j g.desc bad g.flushes f.1.toNat
      let w := if o.code = 0 ∨ o.code = 4 then w
        else
          let r := w.freeBytes j.size
          r.1.store j.out r.2
      let w := o.bytes.foldl (fun (w : Work) b => w.store (j.out + b.1) b.2) w
      (w.cdcFinish e o).cdcNext e j.next

/-- CODING_JOB_END (R198 to R206, R208). -/
def execCodingJobEnd (e : Fin 4) (bad : List Nat) (st : State) : Host.Outcome State Fault Refusal :=
  onWork (fun w => w.cdcRun e false bad) st

/-- DECODE_JOB_END (R198 to R207). -/
def execDecodeJobEnd (e : Fin 4) (st : State) : Host.Outcome State Fault Refusal := onWork (fun w => w.cdcRun e true []) st

/-- FLUSH written with no row named: it falls in one of the job's rows, which is free (R208; DESIGN CHOICE, log entry 5). -/
def Dev.flushRow (d : Dev) (e : Nat) : Nat × Dev :=
  let f := d.draw
  (f.1.toNat % max 1 (jobDesc ((d.eng e).job.getD [])).n, f.2)

/-- FLUSH written while row `row` is coded (R208). -/
def Dev.cdcFlush (d : Dev) (e row : Nat) : Dev :=
  let g := d.eng e
  match g.job with
  | some bs => if (jobDesc bs).decode then d else d.setEng e { g with flushes := g.flushes ++ [row] }
  | none => d

/-- CDC_FLUSH (R208). -/
def execCdcFlush (e : Fin 4) (row : Nat) (st : State) : Host.Outcome State Fault Refusal := onDev (fun d => d.cdcFlush e row) st

/-- EN cleared: the job in flight is completed (R209). -/
def Dev.cdcDisable (d : Dev) (e : Nat) : Dev :=
  let d := d.stopIntake (F.CDC_En_CTRL_EN e)
  if d.on (F.CDC_En_STAT_BUSY e) ∨ ! d.drains (F.CDC_En_CTRL_EN e) (F.CDC_En_STAT_IDLE e) then d
  else ((d.mark (F.CDC_En_STAT_EMPTY e) false).drained (F.CDC_En_CTRL_EN e) (F.CDC_En_STAT_IDLE e)).1

/-- ABORT of an engine (R209). How much of the job it had coded or decoded, and whether a poisoned word was among it, is
free (R198, R212; DESIGN CHOICE, log entry 127). DEDUCED, log entry 74. -/
def Work.cdcAbort (w : Work) (e : Nat) : Work :=
  let g := w.dev.eng e
  let w := match g.job with
    | none => w
    | some bs =>
      let j := jobDesc bs
      let r := w.freeBytes j.size
      let f := r.1.dev.draw
      let k := if j.decode then f.1.toNat / 2 else f.1.toNat / 2 % (j.w * j.n + 1)
      (({ r.1 with dev := f.2 } : Work).store j.out r.2).cdcFinish e
        { code := 6, samples := k, poison := ! j.decode && f.1.getLsbD 0 }
  w.on (fun d =>
    let d := (d.mark (F.CDC_En_STAT_START_PEND e) false).mark (F.CDC_En_STAT_EMPTY e) false
    d.abortBits (F.CDC_En_CTRL_EN e) (F.CDC_En_STAT_IDLE e))

/-- DESC takes a write only while IDLE or EMPTY is set (R205). -/
def Dev.descFree (d : Dev) (e : Nat) : Bool := d.on (F.CDC_En_STAT_IDLE e) || d.on (F.CDC_En_STAT_EMPTY e)

/-! ### Capture taps (R210, R211) -/

/-- XE - XS + 1 of a tap. -/
def Dev.tapSpan (d : Dev) (t : Nat) : Int :=
  (d.val (F.CDC_TAPt_XE t) % 2 ^ 18 : Nat) + 1 - (d.val (F.CDC_TAPt_XS t) % 2 ^ 18 : Nat)

/-- W_out, RING_ROWS and TAP_BLK of a tap; 0 rows act as 1. -/
def Dev.tapWidth (d : Dev) (t : Nat) : Nat := (d.tapSpan t / (2 ^ d.val (F.CDC_TAPt_CFG_DC t) : Nat)).toNat
def Dev.tapRing (d : Dev) (t : Nat) : Nat := max 1 (d.val (F.CDC_TAPt_RING_RING_ROWS t))
def Dev.tapBlk (d : Dev) (t : Nat) : Nat := max 1 (d.val (F.CDC_TAPt_RING_TAP_BLK t))

/-- The tap's layout is valid (R210). -/
def Dev.tapOk (d : Dev) (t : Nat) : Bool :=
  d.tapSpan t % (2 ^ d.val (F.CDC_TAPt_CFG_DC t) : Nat) == 0
    && decide (d.tapWidth t ≤ 16384) && d.tapRing t % d.tapBlk t == 0

/-- EN = 1 written to a tap (R210). -/
def Dev.tapEnable (d : Dev) (t : Nat) : Dev :=
  if ! d.tapOk t then d.accessErr (R.CDC_TAPt_CFG t)
  else
    let r := d.startIntake (F.CDC_TAPt_CFG_EN t) (F.CDC_TAPt_STAT_IDLE t)
    if r.2 then r.1.setTap t {} else r.1

/-- TAP_ENABLE (R210). -/
def execTapEnable (t : Fin 8) (st : State) : Host.Outcome State Fault Refusal := onDev (fun d => d.tapEnable t) st

/-- EN cleared, or ABORT: the rows written so far stand, and a group not complete is dropped (R211). -/
def Dev.tapStop (d : Dev) (t : Nat) : Dev := (d.setTap t {}).abortBits (F.CDC_TAPt_CFG_EN t) (F.CDC_TAPt_STAT_IDLE t)

/-- Columns added up in groups of `n`. -/
def sumGroups (n : Nat) : Nat → List Nat → List Nat
  | 0, _ => []
  | k + 1, l => if l.isEmpty then [] else (l.take n).foldl (· + ·) 0 :: sumGroups n k (l.drop n)

/-- An output row written into its ring slot (R210). -/
def Work.tapWrite (w : Work) (t : Nat) (g : Int) (k : Int) (vals : List Nat) : Work :=
  let d := w.dev
  let slot := (g % (d.tapRing t : Int)).toNat
  let a := d.val (F.CDC_TAPt_BASE t) / 64 * 64 + slot * 2 * d.tapWidth t
  let bs := vals.flatMap (bytesLE 2)
  let x := d.tapc t
  let wrote := x.wrote + 1
  let pub := decide (d.tapBlk t ≤ wrote)
  let old := w.reads a bs.length
  (w.post 2 a bs).on (fun d =>
    let d := d.setTap t { x with group := none, rows := 0, sums := [], wrote := if pub then 0 else wrote,
                                 last := some (a, old, d.val (F.CDC_TAPt_TAP_ROW t)) }
    let d := d.puti (F.CDC_TAPt_TAP_ROW t) k
    if pub ∧ d.on (F.CDC_TAPt_CFG_PUB t) then d.publish (d.val (F.CDC_TAPt_CFG_EVC t)) (0x18 + t) else d)

/-- A Chart row of the archive layer taken by a tap (R210): a group begins with its first row and is written with
its last one. DEDUCED, log entry 73. -/
def Work.tapRow (w : Work) (t : Nat) (row : ChartRow) : Work :=
  let d := w.dev
  if ! d.runs (F.CDC_TAPt_CFG_EN t) (F.CDC_TAPt_STAT_IDLE t) then w
  else
    let da := d.val (F.CDC_TAPt_CFG_DA t)
    let dc := d.val (F.CDC_TAPt_CFG_DC t)
    let o := row.k - d.vali F.STC_K0
    let g := o / (2 ^ da : Nat)
    let pos := (o % (2 ^ da : Nat)).toNat
    let xs := d.val (F.CDC_TAPt_XS t) % 2 ^ 18
    let n := (d.tapSpan t).toNat
    let cols := ((row.cols.drop xs).take n).map (·.arch)
    let sums := sumGroups (2 ^ dc) (n + 1) cols
    let x := d.tapc t
    let x := if pos = 0 then { x with group := some g, rows := 1, sums := sums }
      else if x.group = some g ∧ x.rows = pos then { x with rows := pos + 1, sums := x.sums.zipWith (· + ·) sums }
      else { x with group := none, rows := 0, sums := [] }
    let w := w.on (fun d => d.setTap t x)
    if x.group = some g ∧ x.rows = 2 ^ da then
      let m := 2 ^ (da + dc)
      w.tapWrite t g (d.vali F.STC_K0 + g * (2 ^ da : Nat)) (x.sums.map (fun s => (2 * s + m) / (2 * m)))
    else w

/-- TAP_LOST (R211): the last output row did not reach DRAM within 16 µs. -/
def execTapLost (t : Fin 8) (st : State) : Host.Outcome State Fault Refusal :=
  onWork (fun w =>
    match (w.dev.tapc t).last with
    | none => w
    | some (a, old, k) =>
      (w.unpost 2 a old).on (fun d =>
        let d := (d.setTap t { d.tapc t with last := none }).put (F.CDC_TAPt_TAP_ROW t) k
        (d.raise (F.CDC_TAPt_FLAG_LOST t)).inc (F.CDC_TAPt_LOST_CNT t))) st

end Sys2Proof.Machine
end

