-- ==== Sys2Proof/Machine/Dma.lean ====
section
/-! DEFINITION. The DMA channels: descriptors, bursts, pacing and stopping (R10, R252 to R257). -/
namespace Sys2Proof.Machine

/-! ### States and descriptors (R252, R253, R260) -/

def dmaFetching : Nat := 1
def dmaEmpty : Nat := 2
def dmaMove : Nat := 3
def dmaPaused : Nat := 4
def dmaWriteback : Nat := 5
def dmaHalted : Nat := 6

def Dev.dmaState (d : Dev) (c : Nat) : Nat := d.val (F.DMA_Cc_STAT_STATE c)

/-- STATE changes; IDLE is shown while the channel has nothing fetched. -/
def Dev.dmaSet (d : Dev) (c st : Nat) : Dev :=
  (d.put (F.DMA_Cc_STAT_STATE c) st).mark (F.DMA_Cc_STAT_IDLE c) (st == 0)

/-- The source identifier of a channel's items at a queue, and its producer code (R277). -/
def dmaSrc (c : Nat) : Nat := 0x4000 + c
def dmaProd (c : Nat) : Nat := 0x20 + c

def ctrlLen (w : Nat) : Nat := w % 2 ^ 25
def ctrlIoc (w : Nat) : Bool := w.testBit 25
def ctrlSrcQ (w : Nat) : Bool := w.testBit 26
def ctrlDstQ (w : Nat) : Bool := w.testBit 27
def ctrlOwn (w : Nat) : Bool := w.testBit 31

/-- STATUS of the descriptor (R252). -/
def dmaStatus (moved code : Nat) (poison : Bool) : Nat := moved % 2 ^ 25 + code * 2 ^ 25 + b2n poison * 2 ^ 29

/-- STATUS is written, and in a second write OWN is cleared (R253). -/
def Work.dmaWriteBack (w : Work) (c code : Nat) : Work :=
  let x := w.dev.dmac c
  (w.store (x.addr + 4) (bytesLE 4 (dmaStatus x.moved code x.poison))).store x.addr (bytesLE 4 (x.ctrl % 2 ^ 31))

/-- A descriptor that cannot be moved: ERR, and the channel halts (R253). -/
def Work.dmaError (w : Work) (c code : Nat) : Work :=
  (w.dmaWriteBack c code).on (fun d =>
    let d := (d.raise (F.DMA_Cc_FLAG_ERR c)).inc (F.DMA_Cc_ERR_CNT c)
    (d.put (F.DMA_Cc_DESC c) ((d.dmac c).next / 32 * 32)).dmaSet c dmaHalted)

/-- The addresses of a descriptor are in range (R252). -/
def Dev.dmaAddrOk (d : Dev) (x : Dma) : Bool :=
  let n := ctrlLen x.ctrl
  (ctrlSrcQ x.ctrl || d.rangeOk Place.readable x.src n) && (ctrlDstQ x.ctrl || d.rangeOk Place.writable x.dst n)

/-- EMPTY is entered; `found` says that a descriptor with OWN = 0 was found there. -/
def Dev.dmaEmptyAt (d : Dev) (c : Nat) (found : Bool) : Dev :=
  let d := (d.dmaSet c dmaEmpty).raiseIf found (F.DMA_Cc_FLAG_EMPTY c)
  d.setDmac c { d.dmac c with emptyAt := d.now }

/-- One fetch at DESC (R253). A START that waits acts at EMPTY. -/
def Work.dmaFetch (w : Work) (c : Nat) : Nat → Work
  | 0 => w
  | k + 1 =>
    let a := w.dev.val (F.DMA_Cc_DESC c)
    if a = 0 then w.on (fun d => (d.dmaEmptyAt c false).mark (F.DMA_Cc_STAT_START_PEND c) false)
    else
      let r := w.load a 32
      let w := r.1
      let bs := r.2
      let ctrl := leAt bs 0 4
      if ! ctrlOwn ctrl then
        let w := w.on (fun d => d.dmaEmptyAt c true)
        if w.dev.on (F.DMA_Cc_STAT_START_PEND c) then
          (w.on (fun d => d.mark (F.DMA_Cc_STAT_START_PEND c) false)).dmaFetch c k
        else w
      else
        let x : Dma := { w.dev.dmac c with
          addr := a, ctrl := ctrl, src := leAt bs 8 8, dst := leAt bs 16 8, next := leAt bs 24 8, total := ctrlLen ctrl
          moved := 0, opened := false, buf := [], begun := false, poison := false, trunc := false }
        let w := w.on (fun d => d.setDmac c x)
        if x.total = 0 ∨ 16777216 < x.total ∨ (ctrlSrcQ ctrl ∧ ctrlDstQ ctrl) then w.dmaError c 3
        else if ! w.dev.dmaAddrOk x then w.dmaError c 2
        else w.on (fun d => d.dmaSet c dmaMove)

/-- START, written or by an event (R253). -/
def Work.dmaStart (w : Work) (c : Nat) : Work :=
  let d := w.dev
  if ! d.on (F.DMA_Cc_CFG_EN c) then w
  else if d.val (F.DMA_Cc_DESC c) = 0 ∧ d.dmaState c ≠ dmaMove ∧ d.dmaState c ≠ dmaPaused ∧ d.dmaState c ≠ dmaWriteback then
    w.on (fun d => d.accessErr (R.DMA_Cc_CFG c))
  else if d.dmaState c = 0 ∨ d.dmaState c = dmaEmpty ∨ d.dmaState c = dmaHalted then
    (w.on (fun d => d.dmaSet c dmaFetching)).dmaFetch c 2
  else w.on (fun d => d.mark (F.DMA_Cc_STAT_START_PEND c) true)

/-- DMA_START (R253). -/
def execDmaStart (c : Fin 32) (s : State) : Host.Outcome State Fault Refusal := onWork (fun w => w.dmaStart c) s

/-- POLL (R253): POLL µs in EMPTY have passed. -/
def execPoll (c : Fin 32) (s : State) : Host.Outcome State Fault Refusal :=
  onWork (fun w =>
    let d := w.dev
    if d.dmaState c ≠ dmaEmpty ∨ d.val (F.DMA_Cc_POLL c) = 0 ∨ d.val (F.DMA_Cc_DESC c) = 0 then w
    else (w.on (fun d => d.reach ((d.dmac c).emptyAt + 1000 * d.val (F.DMA_Cc_POLL c)))).dmaFetch c 2) s

/-! ### Bursts (R254 to R256) -/

/-- Pacing lets the channel move (R255). -/
def Dev.dmaPaceOk (d : Dev) (c : Nat) : Bool :=
  ! d.on (F.DMA_Cc_CFG_PACE_EN c) || d.on (F.QUE_Qq_STAT_ABOVE (d.val (F.DMA_Cc_CFG_PACE_Q c)))

/-- At a burst boundary: PAUSED while pacing withholds the channel, MOVE otherwise (R255). -/
def Dev.dmaPace (d : Dev) (c : Nat) : Dev :=
  if d.dmaState c ≠ dmaMove ∧ d.dmaState c ≠ dmaPaused then d
  else d.dmaSet c (if d.dmaPaceOk c then dmaMove else dmaPaused)

/-- Bytes of the next burst: up to the end of the aligned 64-byte unit of the destination (R256). -/
def Dma.burst (x : Dma) : Nat :=
  min (x.total - x.moved) (if ctrlDstQ x.ctrl then 64 else 64 - (x.dst + x.moved) % 64)

/-- The queues a descriptor names. -/
def Dma.srcQ (x : Dma) : Nat := x.src % 64
def Dma.dstQ (x : Dma) : Nat := x.dst % 64

/-- Words that the channel has given to its destination queue wait there for room (R246, R254). -/
def Dev.dmaStalled (d : Dev) (c : Nat) : Bool :=
  let x := d.dmac c
  ctrlDstQ x.ctrl && (d.queue x.dstQ).waiting.any (fun q => q.src == dmaSrc c && ! q.words.isEmpty)

/-- The channel can move a burst now: its source has the bytes and its destination the room (R254). -/
def Dev.dmaReady (d : Dev) (c : Nat) : Bool :=
  let x := d.dmac c
  let st := d.dmaState c
  (st == dmaMove || st == dmaPaused) && d.dmaPaceOk c
    && (! ctrlDstQ x.ctrl || ! d.dmaStalled c)
    && (! ctrlSrcQ x.ctrl ||
        (if ! x.opened then d.queReady x.srcQ
         else (d.queue x.srcQ).flushed || (match (d.queue x.srcQ).items with
          | i :: _ => decide (x.burst ≤ x.buf.length + 8 * i.words.length) || i.toCome == 0
          | [] => true)))

/-- Channel `c` is the one served at this burst boundary: highest PRIO, round-robin among equals (R255). -/
def Dev.dmaServed (d : Dev) (c : Nat) : Bool :=
  let ready := (List.range 32).filter (fun i => d.dmaReady i)
  let prio := fun (i : Nat) => d.val (F.DMA_Cc_CFG_PRIO i)
  let top := ready.foldl (fun m i => max m (prio i)) 0
  let eq := ready.filter (fun i => prio i == top)
  let after := eq.filter (fun i => decide (tabGet 31 d.dma.rr top < i))
  (after.head?.or eq.head?) == some c

/-- The bytes of a burst read from memory, each with the poison tag of the word it came in: in DRAM the words that the
check bits prove uncorrectable, elsewhere `bad` (R236, R255, R256). Words are counted from that of the first byte. -/
def Work.dmaFromMem (w : Work) (c : Nat) (bad : List Nat) (ecc : EccResult) : Work × List (Byte × Bool) :=
  let x := w.dev.dmac c
  let a := x.src + x.moved
  let r := w.loadEcc a x.burst ecc
  let inDram := match w.dev.place a with
    | .mem p => decide (dramBase ≤ p)
    | _ => false
  let bad := if ! inDram then bad
    else match ecc with
      | .bad _ _ ws => ws
      | _ => []
  let w := if inDram then r.1.on (fun d => { d with drc := { d.drc with got := some (4, r.2, bad) } }) else r.1
  (w, (r.2.zip (List.range r.2.length)).map (fun b => (b.1, bad.contains ((a + b.2) / 8 - a / 8))))

/-- The channel opens the item that it moves: its length, cut to LENGTH, is what it moves (R252, R254). A header that
fails parity empties the queue (R247). -/
def Dev.dmaOpen (d : Dev) (c : Nat) (hdr : Bool) : Dev :=
  let x := d.dmac c
  let r := d.queOpen x.srcQ hdr
  match r.2 with
  | none => r.1
  | some h => r.1.setDmac c { x with opened := true, total := min (ctrlLen x.ctrl) h.1, trunc := decide (ctrlLen x.ctrl < h.1) }

/-- The bytes of a burst read from the source queue, and whether a word was poisoned. -/
def Dev.dmaFromQueue (d : Dev) (c : Nat) (bad : List Nat) : Dev × List Byte × Bool :=
  let x := d.dmac c
  let need := x.burst - x.buf.length
  let r := (d.spoil x.srcQ bad).queWords x.srcQ (dataWords need)
  let buf := x.buf ++ itemBytes (8 * r.2.length) r.2
  let got := buf.take x.burst
  (r.1.setDmac c { x with buf := buf.drop x.burst }, got, r.2.any (·.2))

/-- A burst's bytes written into the destination queue: the item starts with its header (R254). A word that holds a
poisoned byte carries the tag (R256). -/
def Dev.dmaToQueue (d : Dev) (c : Nat) (bs : List (Byte × Bool)) : Dev :=
  let x := d.dmac c
  let ws := toWords (dataWords bs.length) bs
  if x.begun then d.queMore x.dstQ (dmaSrc c) ws
  else
    let d := d.setDmac c { x with begun := true }
    d.queOffer x.dstQ { src := dmaSrc c, prod := dmaProd c, len := x.total, words := ws, more := dataWords x.total - ws.length }
where
  toWords : Nat → List (Byte × Bool) → List (BitVec 64 × Bool)
    | 0, _ => []
    | k + 1, bs => (BitVec.ofNat 64 (natLE ((bs.take 8).map (·.1))), (bs.take 8).any (·.2)) :: toWords k (bs.drop 8)

/-- After a burst, or a source item that was cut: WRITEBACK when the move is over (R253). -/
def Dev.dmaMoved (d : Dev) (c n : Nat) : Dev :=
  let x := d.dmac c
  let x := { x with moved := x.moved + n }
  let d := (d.setDmac c x).bump (F.DMA_Cc_BYTE_CNT c) n
  if x.total ≤ x.moved then
    let d := if ctrlSrcQ x.ctrl then d.queClose x.srcQ else d
    d.dmaSet c dmaWriteback
  else d.dmaPace c

/-- One burst of a channel that is ready. A source item cut by FLUSH ends the move, with code OK (R254). -/
def Work.dmaBurst (w : Work) (c : Nat) (hdr : Bool) (bad : List Nat) (ecc : EccResult) : Work :=
  let x := w.dev.dmac c
  let w := w.on (fun d => { d with dma := { d.dma with rr := tabSet 31 d.dma.rr (d.val (F.DMA_Cc_CFG_PRIO c)) c } }.dmaSet c dmaMove)
  let w := if ctrlSrcQ x.ctrl ∧ ! x.opened then w.on (fun d => d.dmaOpen c hdr) else w
  let x := w.dev.dmac c
  if ctrlSrcQ x.ctrl ∧ (w.dev.queue x.srcQ).flushed then
    w.on (fun d =>
      ((d.setQueue x.srcQ { d.queue x.srcQ with flushed := false }).setDmac c { x with trunc := false }).dmaSet c dmaWriteback)
  else if ctrlSrcQ x.ctrl ∧ ! x.opened then w
  else
    let n := x.burst
    let r : Work × List (Byte × Bool) × Bool :=
      if ctrlSrcQ x.ctrl then
        let r := w.dev.dmaFromQueue c bad
        ({ w with dev := r.1 }, r.2.1.map (fun b => (b, false)), r.2.2)
      else
        let r := w.dmaFromMem c bad ecc
        (r.1, r.2, r.2.any (·.2))
    let w := r.1.on (fun d => if r.2.2 then (d.setDmac c { d.dmac c with poison := true }).raise (F.DMA_Cc_FLAG_POISON c) else d)
    let w := if ctrlDstQ x.ctrl then w.on (fun d => d.dmaToQueue c r.2.1)
      else w.store (x.dst + x.moved) (r.2.1.map (·.1))
    w.on (fun d => d.dmaMoved c n)

/-- BURST (R245, R254 to R256). -/
def execBurst (c : Fin 32) (hdr : Bool) (s : State) (bad : List Nat := []) (ecc : EccResult := .good) :
    Host.Outcome State Fault Refusal :=
  onWork (fun w => if w.dev.dmaServed c then w.dmaBurst c hdr bad ecc else w.on (fun d => d.dmaPace c)) s

/-! ### The end of a descriptor (R252, R253) -/

/-- STATUS and OWN, DONE, publication and count; then the next descriptor. -/
def Work.dmaDone (w : Work) (c : Nat) : Work :=
  if w.dev.dmaState c ≠ dmaWriteback ∨ w.dev.dmaStalled c then w
  else
    let x := w.dev.dmac c
    let w := w.dmaWriteBack c (b2n x.trunc)
    let w := w.on (fun d =>
      let d := d.raiseIf x.trunc (F.DMA_Cc_FLAG_TRUNC c)
      let ioc := ctrlIoc x.ctrl
      let d := (d.raiseDone (F.DMA_Cc_FLAG_DONE c) ioc x.doneIoc).setDmac c { x with doneIoc := x.doneIoc || ioc }
      let d := if d.on (F.DMA_Cc_CFG_PUB c) then d.publish (d.val (F.DMA_Cc_CFG_PUB_EVC c)) (dmaProd c) else d
      let d := d.inc (F.DMA_Cc_DESC_CNT c)
      (d.put (F.DMA_Cc_DESC c) (x.next / 32 * 32)).dmaSet c dmaFetching)
    w.dmaFetch c 2

/-- DESCRIPTOR_DONE (R252, R253). -/
def execDescriptorDone (c : Fin 32) (s : State) : Host.Outcome State Fault Refusal := onWork (fun w => w.dmaDone c) s

/-! ### Stopping (R10, R257) -/

/-- A destination item in progress is discarded by its queue and counted there (R257). -/
def Dev.queCutWriter (d : Dev) (q src : Nat) : Dev :=
  let x := d.queue q
  match x.waiting.find? (fun w => w.src == src) with
  | none => d
  | some w =>
    let rest := x.waiting.filter (fun w => w.src != src)
    let partial' : Bool := w.begun && ! w.dead
    let d := d.setQueue q { (if partial' then x.cutLast else x) with waiting := rest }
    (if partial' then d.queRefuse q else d).queRun q

/-- EN is cleared: the channel stops at once; what R257 calls undefined is free (DESIGN CHOICE, log entry 5). -/
def Dev.dmaDisable (d : Dev) (c : Nat) : Dev :=
  let x := d.dmac c
  if ! d.on (F.DMA_Cc_CFG_EN c) then d
  else
    let d := d.mark (F.DMA_Cc_CFG_EN c) false
    let busy := d.dmaState c == dmaMove || d.dmaState c == dmaPaused
    let writes := busy || d.dmaState c == dmaWriteback
    let d := if writes && ctrlDstQ x.ctrl && x.begun then d.queCutWriter x.dstQ (dmaSrc c) else d
    let d := if busy && ctrlSrcQ x.ctrl && x.opened then d.queClose x.srcQ else d
    let a := d.draw
    let b := a.2.draw
    let d := (b.2.put (F.DMA_Cc_BYTE_CNT c) a.1.toNat).put (F.DMA_Cc_DESC_CNT c) (a.1.toNat / 2 ^ 32)
    let d := (d.put (F.DMA_Cc_DESC c) (b.1.toNat / 32 * 32)).mark (F.DMA_Cc_STAT_START_PEND c) false
    (d.setDmac c { doneIoc := x.doneIoc }).dmaSet c 0

/-- DMA_DISABLE (R10, R257). -/
def execDmaDisable (c : Fin 32) (s : State) : Host.Outcome State Fault Refusal := onDev (fun d => d.dmaDisable c) s

end Sys2Proof.Machine
end

