-- ==== Sys2Proof/Machine/Servo.lean ====
section
/-! DEFINITION. The Meridian's sources and its servo: selection and switching, the step after LOAD, the rate, and
the chain source (R225 to R229, R232). -/
namespace Sys2Proof.Machine

/-- The mean of `n` values with the given sum. The manual does not say which way a mean that is not whole is
rounded: the last unit is a free bit (DESIGN CHOICE, log entry 21). -/
def Dev.freeMean (d : Dev) (sum : Int) (n : Nat) : Dev × Int :=
  if n = 0 ∨ sum % n = 0 then (d, sum / n)
  else
    let r := d.draw
    (r.2, sum / n + b2n (r.1.getLsbD 0))

/-- The source in effect (R232). -/
def Dev.srcAct (d : Dev) : Nat := d.val F.MER_STAT_SRC_ACT

/-- The state of source `i`, by the codes of R226: 0 and 1 the domains, 2 the chain (R227). -/
def Dev.srcState (d : Dev) (i : Nat) : Nat :=
  if i = 2 then d.val F.MER_STAT_CHAIN_STATE else d.val (F.MER_Dd_STAT_STATE i)

/-- The source is enabled. -/
def Dev.srcEnabled (d : Dev) (i : Nat) : Bool :=
  if i = 2 then d.on F.MER_CTRL_CHAIN_EN else d.on (F.MER_Dd_CFG_EN i)

/-- STEERING follows the state of the source in effect; while that source is not LOCKED, slew is 0 (R229). -/
def Dev.steerShow (d : Dev) : Dev :=
  let ok := d.srcState d.srcAct == 2
  let d := d.mark F.MER_STAT_STEERING ok
  if ok then d else d.puti F.MER_SLEW 0

/-- The source in effect becomes `i` (R232). -/
def Dev.srcSwitch (d : Dev) (i : Nat) : Dev :=
  if i = d.srcAct then d
  else (((d.put F.MER_STAT_SRC_ACT i).raise F.MER_FLAG_SWITCH).inc F.MER_SWITCH_CNT).steerShow

/-- The automatic switch to the lowest enabled source that is LOCKED (R232). -/
def Dev.srcAuto (d : Dev) : Dev :=
  if ! d.on F.MER_CTRL_AUTO then d
  else
    match [0, 1, 2].find? (fun i => d.srcEnabled i && d.srcState i == 2) with
    | some i => d.srcSwitch i
    | none => d

/-- Source `i` enters state `st` (R226, R227, R232). -/
def Dev.srcSet (d : Dev) (i st : Nat) : Dev :=
  let was := d.srcState i
  let d := if i = 2 then d.put F.MER_STAT_CHAIN_STATE st else d.put (F.MER_Dd_STAT_STATE i) st
  let d := if i ≠ 2 ∧ was ≠ 2 ∧ st = 2 then d.raise (F.MER_Dd_FLAG_LOCK i) else d
  let d := if i ≠ 2 ∧ was ≠ 3 ∧ st = 3 then d.raise (F.MER_Dd_FLAG_HOLDOVER i) else d
  let d := if was = 2 ∧ st ≠ 2 ∧ i = d.srcAct then d.srcAuto else d
  d.steerShow

/-- Device-time values that the unit keeps are moved with device time when it is stepped, so that they go on naming
the same instants: a domain's pending receipts and last offset, and the boundaries of trigger symbols (R53, R231). -/
def Dev.shiftTimes (d : Dev) (o : Int) : Dev :=
  let dom := fun (x : Domain) => { x with
    syncT2 := x.syncT2 - 16 * o, lastT2 := x.lastT2 - 16 * o, reqT3 := x.reqT3 - 16 * o, offset := x.offset - o }
  let d := (d.setDom 0 (dom (d.dom 0))).setDom 1 (dom (d.dom 1))
  let trig := fun (x : Trig) => { x with bnd := if x.pin then x.bnd else x.bnd - o }
  { d with trg := { d.trg with
      slots := d.trg.slots.map (fun (p : Nat × List Int) => (p.1, p.2.map (fun b => b - o)))
      stream := d.trg.stream.map (fun (p : Nat × TrgStream) => (p.1, { p.2 with trigs := p.2.trigs.map trig })) } }

/-- The one step of device time after a LOAD (R228). -/
def Dev.timeStep (d : Dev) (o : Int) : Dev :=
  let d := (d.shiftTimes o).puti F.MER_TIME (d.devTime - o)
  ((d.puti F.MER_STEP (-o)).mark F.MER_STAT_STEP_DONE true).raise F.MER_FLAG_TIME_STEP

/-- The rate after a sample `o` that came `ts` ns after the one before (R229). The manual gives no quotient for two
samples at one instant: it is a free value (DESIGN CHOICE, log entry 26). -/
def Dev.servoRate (d : Dev) (o : Int) (ts : Nat) : Dev :=
  let oc := clampI (-100000000) 100000000 o
  let quot := fun (k : Nat) (d : Dev) =>
    if ts = 0 then (let r := d.draw; (r.1.toInt, r.2)) else (Int.tdiv (oc * 16000000000) ((ts : Int) * 2 ^ k), d)
  let qi := quot (d.val F.MER_SERVO_KI) d
  let qp := quot (d.val F.MER_SERVO_KP) qi.2
  let d := qp.2
  (d.puti F.MER_FREQ (clampI (-3200000) 3200000 (d.vali F.MER_FREQ - qi.1))).puti F.MER_SLEW
    (clampI (-160000) 160000 (-qp.1))

/-- A sample of source `i` (R228, R229): it acts only for the source in effect in LOCKED, and the first one after a LOAD
steps device time beside updating the rate. -/
def Dev.servo (d : Dev) (i : Nat) (o : Int) (ts : Nat) : Dev :=
  if d.srcAct ≠ i ∨ d.srcState i ≠ 2 then d
  else
    let d := if d.on F.MER_STAT_STEP_DONE then d else d.timeStep o
    (d.raiseIf (decide (1000000 < o.natAbs)) F.MER_FLAG_OFFSET_BIG).servoRate o ts

/-! ### The chain source (R227) -/

/-- A good beacon's time difference enters the running millisecond. -/
def Dev.chainTake (d : Dev) : Dev :=
  if ! d.on F.MER_CTRL_CHAIN_EN then d
  else
    let m := d.mer
    { d with mer := { m with chainSum := m.chainSum - d.vali F.TRG_LS_TDIFF, chainN := m.chainN + 1
                             chainStart := if m.chainN = 0 then d.now else m.chainStart } }

/-- LS_LOCK clears: the chain source starts its count again, and leaves LOCKED for HOLDOVER. -/
def Dev.chainLost (d : Dev) : Dev :=
  if ! d.on F.MER_CTRL_CHAIN_EN then d
  else
    let d := { d with mer := { d.mer with chainOk := 0, chainSum := 0, chainN := 0 } }
    if d.srcState 2 = 2 then d.srcSet 2 3 else d

/-- CHAIN_SAMPLE (R227): the mean over the millisecond of good beacons. -/
def execChainSample (s : State) : Host.Outcome State Fault Refusal :=
  onDev (fun d =>
    if ! d.on F.MER_CTRL_CHAIN_EN ∨ d.mer.chainN = 0 then d
    else
      let d := d.reach (d.mer.chainStart + 1000000)
      let r := d.freeMean d.mer.chainSum d.mer.chainN
      let d := r.1
      let ok := if d.on F.TRG_STAT_LS_LOCK then min 8 (d.mer.chainOk + 1) else 0
      let ts := match d.mer.chainAt with
        | some t => d.now - t
        | none => 0
      let d := { d with mer := { d.mer with chainSum := 0, chainN := 0, chainOk := ok, chainAt := some d.now } }
      let d := if 8 ≤ ok then d.srcSet 2 2 else if d.on F.TRG_STAT_LS_LOCK then d.srcSet 2 1 else d
      d.servo 2 r.2 ts) s

/-! ### Selection (R228, R232) -/

/-- SEL is written. In LOAD the image's value names the source without a switch (DEDUCED, log entry 27). -/
def Dev.selWrite (d : Dev) (v : Nat) : Dev :=
  let d := d.put F.MER_CTRL_SEL v
  let i := if v % 4 = 3 then 0 else v % 4
  if d.mode = 2 then (d.put F.MER_STAT_SRC_ACT i).steerShow else d.srcSwitch i

/-- SEL_WRITE (R232). -/
def execSelWrite (v : Fin 4) (s : State) : Host.Outcome State Fault Refusal := onDev (fun d => d.selWrite v) s

/-- CHAIN_EN is written (R227). -/
def Dev.chainEnable (d : Dev) (b : Bool) : Dev :=
  let was := d.on F.MER_CTRL_CHAIN_EN
  let d := d.mark F.MER_CTRL_CHAIN_EN b
  if was = b then d
  else
    let d := { d with mer := { d.mer with chainSum := 0, chainN := 0, chainOk := 0, chainAt := none } }
    if b then d else d.srcSet 2 0

/-- The clock brought to the instant at which device time reaches `t` (R222, R263, R323), counted at the rate in
force. -/
def Dev.reachDev (d : Dev) (t : Int) : Dev :=
  if t ≤ d.devTime then d
  else
    let rate : Int := 16000000000 + d.vali F.MER_FREQ + d.vali F.MER_SLEW
    let n : Nat := ((t - d.devTime) * 16000000000 / rate).toNat
    let d := d.reach (d.now + n)
    let d := if d.devTime < t then d.reach (d.now + 1) else d
    if d.devTime < t then d.reach (d.now + 1) else d

end Sys2Proof.Machine
end

