-- ==== Sys2Proof/Machine/Helm.lean ====
section
/-! DEFINITION. Interrupt sources and offers, the cores' part in them, and the event channels
(R261 to R280). What the cores execute besides MRET and WFI is firmware, which no command carries. -/
namespace Sys2Proof.Machine

/-! ### Requests (R266, R267) -/

/-- The flag registers of source `i`, with which kind they are of (`true`: the second). -/
def members (i : Nat) : List (Nat × Bool) :=
  let seq (n : Nat) (f : Nat → Nat) (second : Bool) : List (Nat × Bool) := (List.range n).map (fun j => (f j, second))
  if i < 9 then
    [([R.SYS_FLAG, R.CFG_FLAG, R.PWR_FLAG, R.ALM_FLAG, R.SVC_FLAG, R.CHN_FLAG, R.EVT_FLAG, R.ICU_FLAG, R.LOG_FLAG].getD i 0, false)]
  else if i < 41 then [(R.LOGn_FLAG (i - 9), false)]
  else if i = 41 then [(R.TRG_FLAG, false)]
  else if i < 58 then seq 4 (fun j => R.TRGs_FLAG (4 * (i - 42) + j)) false
  else if i < 82 then seq 2 (fun j => R.FLTc_FLAG (2 * (i - 58) + j)) false
  else if i < 98 then seq 4 (fun j => R.SLK_Ll_FLAG (4 * (i - 82) + j)) false ++ [(R.SLK_CPp_FLAG (i - 82), true)]
  else if i < 162 then [(R.SLK_Ss_FLAG (i - 98), false)]
  else if i < 178 then [(R.SLK_CSc_FLAG (i - 162), false)]
  else if i < 246 then [(R.PLn_CTXm_FLAG ((i - 178) / 4) ((i - 178) % 4), false), (R.PLn_CTXm_CAL_FLAG ((i - 178) / 4) ((i - 178) % 4), true)]
  else if i < 278 then seq 2 (fun j => R.STC_CAMs_FLAG (2 * (i - 246) + j)) false
  else if i = 278 then [(R.SEG_FLAG, false)]
  else if i < 295 then [(R.SEG_Ss_FLAG (i - 279), false)]
  else if i < 311 then [(R.MRKn_FLAG (i - 295), false)]
  else if i < 315 then [(R.CDC_En_FLAG (i - 311), false)]
  else if i = 315 then seq 8 (fun j => R.CDC_TAPt_FLAG j) false
  else if i = 316 then [(R.MER_FLAG, false)]
  else if i < 319 then [(R.MER_Dd_FLAG (i - 317), false)]
  else if i < 327 then [(R.NETn_FLAG (i - 319), false)]
  else if i < 331 then seq 8 (fun j => R.NET_Ff_FLAG (8 * (i - 327) + j)) false
  else if i = 331 then [(R.DRC_FLAG, false)]
  else if i < 336 then seq 16 (fun j => R.QUE_Qq_FLAG (16 * (i - 332) + j)) false
  else if i < 368 then [(R.DMA_Cc_FLAG (i - 336), false)]
  else if i < 372 then [([R.SPR_FLAG0, R.SPR_FLAG1, R.SPR_FLAG2, R.SPR_FLAG3].getD (i - 368) 0, false)]
  else if i < 377 then [(R.ICU_HLMh_FLAG (i - 372), false)]
  else if i < 384 then [(R.ICU_SWIj (i - 377), false)]
  else []

/-- The member bits a flag register contributes: DONE of a DMA channel or an engine only when a descriptor with IOC set
it, and of ICU_SWIj only REQ (R266). -/
def Dev.memberBits (d : Dev) (i a : Nat) : Nat :=
  let v := d.val ⟨a, 0, 16⟩
  if 377 ≤ i then v % 2
  else if 336 ≤ i ∧ i < 368 then (if (d.dmac (i - 336)).doneIoc then v else v / 2 * 2)
  else if 311 ≤ i ∧ i < 315 then
    let done := F.CDC_En_FLAG_DONE (i - 311)
    if (d.eng (i - 311)).doneIoc then v else withoutBit v done.lo
  else v

/-- The source requests (R266). -/
def Dev.srcReq (d : Dev) (i : Nat) : Bool :=
  let mask := d.val (F.ICU_SRCi_MASK i)
  (members i).any (fun m => (d.memberBits i m.1 &&& (if m.2 then mask / 65536 else mask % 65536)) != 0)

/-! ### Targets and offers (R269, R271 to R273) -/

/-- A target code as a core: 5 to 7 act as 0, and a core that H4 stands in for resolves to H4 (R264, R272). -/
def Dev.coreOf (d : Dev) (f : Nat) : Nat :=
  let f := if 4 < f then 0 else f
  if f < 4 ∧ d.on (F.ICU_HLMh_CTRL_SPARE_EN 4) ∧ d.val (F.ICU_HLMh_CTRL_SPARE_AS 4) = f then 4 else f

/-- The core is powered and has RUN = 1. -/
def Dev.coreAble (d : Dev) (h : Nat) : Bool := d.powered (2 + h) && d.on (F.ICU_HLMh_CTRL_RUN h)

/-- The delivery target, and whether it is FALLBACK (R272). -/
def Dev.delivery (d : Dev) (i : Nat) : Option (Nat × Bool) :=
  let t := d.coreOf (d.val (F.ICU_SRCi_CFG_TARGET i))
  let f := d.coreOf (d.val (F.ICU_SRCi_CFG_FALLBACK i))
  if d.coreAble t then some (t, false) else if d.coreAble f then some (f, true) else none

def rpri (c : Core) : Nat := fieldOf c.hrpri 0 4
def depth (c : Core) : Nat := fieldOf c.hrpri 4 5

/-- The source is eligible for core `h` (R269, R271). -/
def Dev.eligible (d : Dev) (h i : Nat) : Bool :=
  let c := d.core h
  d.on (F.ICU_SRCi_CFG_EN i) && d.srcReq i && (match d.delivery i with | some t => t.1 == h | none => false)
    && (d.val (F.ICU_SRCi_CFG_MOD i) == 0 || decide (tabGet 0 d.icu.modTill i ≤ d.now) || c.wfi)
    && (depth c == 0 || decide (rpri c < d.val (F.ICU_SRCi_CFG_PRIO i)))

/-- The sources that are enabled. -/
def Dev.srcsOn (d : Dev) : List Nat := d.listed (R.ICU_SRCi_CFG 0) 0x10 384 0 1

/-- The source offered to core `h` (R269). -/
def Dev.offered (d : Dev) (h : Nat) : Option Nat :=
  match tabGet 0 d.icu.offer h with
  | 0 => none
  | k + 1 => if k < 384 then some k else none

/-- The offer to core `h` becomes `o`; OFFERED, OFFER_TGT and mip.MEIP follow. -/
def Dev.setOffer (d : Dev) (h : Nat) (o : Option Nat) : Dev :=
  let d := match d.offered h with
    | some i => (d.mark (F.ICU_SRCi_STAT_OFFERED i) false).put (F.ICU_SRCi_STAT_OFFER_TGT i) 0
    | none => d
  let d := { d with icu := { d.icu with offer := tabSet 0 d.icu.offer h (match o with | some i => i + 1 | none => 0) } }
  let c := d.core h
  let d := d.setCore h { c with mip := withField c.mip 11 1 (b2n o.isSome) }
  match o with
  | some i => (d.mark (F.ICU_SRCi_STAT_OFFERED i) true).put (F.ICU_SRCi_STAT_OFFER_TGT i) h
  | none => d

/-- The core leaves WFI (R271). -/
def Dev.wake (d : Dev) (h : Nat) : Dev :=
  if (d.core h).wfi then (d.setCore h { d.core h with wfi := false }).mark (F.ICU_HLMh_STAT_WFI h) false else d

/-- The clock's arbitration for core `h` (R269, R271 to R273). -/
def Dev.arbitrate (d : Dev) (h : Nat) : Dev :=
  let srcs := d.srcsOn
  let best := (srcs.filter (fun i => d.eligible h i)).foldl (fun (b : Option Nat) i =>
    match b with
    | none => some i
    | some j =>
      let pi := d.val (F.ICU_SRCi_CFG_PRIO i)
      let pj := d.val (F.ICU_SRCi_CFG_PRIO j)
      if pj < pi ∨ (pi = pj ∧ i < j) then some i else b) none
  let d := if d.offered h = best then d else d.setOffer h best
  let fb : Bool := match best with
    | some i => (match d.delivery i with | some t => t.2 | none => false)
    | none => false
  let d := d.raiseIf fb F.ICU_FLAG_FALLBACK
  let d := d.raiseIf (srcs.any (fun i => d.srcReq i && (d.delivery i).isNone)) F.ICU_FLAG_NO_TARGET
  if srcs.any (fun i => d.srcReq i && (match d.delivery i with | some t => t.1 == h | none => false)) then d.wake h else d

/-- Every core's offer is judged again (R273). A withdrawal precedes a new offer. -/
def Dev.arbitrateAll (d : Dev) : Dev :=
  let d := [0, 1, 2, 3, 4].foldl (fun (d : Dev) h =>
    match d.offered h with
    | some i => if d.eligible h i then d else d.setOffer h none
    | none => d) d
  [0, 1, 2, 3, 4].foldl (fun (d : Dev) h => d.arbitrate h) d

/-- OFFER (R266, R269, R271 to R273): one clock of the ICU for core `h`. -/
def execOffer (h : Fin 5) (s : State) : Host.Outcome State Fault Refusal := onDev (fun d => d.arbitrate h) s

/-- MODERATION_END (R271). -/
def execModerationEnd (i : Fin 384) (s : State) : Host.Outcome State Fault Refusal :=
  onDev (fun d =>
    let t := tabGet 0 d.icu.modTill i
    if t = 0 then d
    else ({ d.reach t with icu := { d.icu with modTill := tabSet 0 d.icu.modTill i 0 } } : Dev).arbitrateAll) s

/-! ### Traps (R263, R270) -/

def mstatusMie (c : Core) : Bool := c.mstatus.getLsbD 3

/-- A trap to machine mode under the standard rules. -/
def Core.trap (c : Core) (cause tval target : BitVec 64) : Core :=
  let m := withField c.mstatus 7 1 (b2n (mstatusMie c))
  let m := withField m 3 1 0
  let m := withField m 11 2 (if c.user then 0 else 3)
  { c with mepc := c.pc &&& ~~~1#64, mstatus := m, mcause := cause, mtval := tval, pc := target, user := false, wfi := false }

/-- The address mtvec gives for a cause: its base, or with MODE 1 the vector of an interrupt. -/
def Core.vector (c : Core) (interrupt : Bool) (code : Nat) : BitVec 64 :=
  let base := c.mtvec &&& ~~~3#64
  if interrupt && c.mtvec.extractLsb' 0 2 == 1#2 then base + BitVec.ofNat 64 (4 * code) else base

/-- mcause of a machine external and of a machine timer interrupt. -/
def causeExt : BitVec 64 := 0x800000000000000B
def causeTimer : BitVec 64 := 0x8000000000000007

/-- The core runs, and standard rules let it take machine interrupts. -/
def Dev.coreRuns (d : Dev) (h : Nat) : Bool := d.coreAble h && d.on (F.ICU_HLMh_STAT_RUNNING h)
def Core.open (c : Core) : Bool := mstatusMie c || c.user

/-- ACCEPTANCE (R270). -/
def execAcceptance (h : Fin 5) (s : State) : Host.Outcome State Fault Refusal :=
  onDev (fun d =>
    let c := d.core h
    match d.offered h with
    | none => d
    | some i =>
      if ! d.coreRuns h ∨ ! c.mie.getLsbD 11 ∨ ! c.open then d
      else
        let prio := d.val (F.ICU_SRCi_CFG_PRIO i)
        let cnt := d.val (F.ICU_SRCi_STAT_CNT i)
        let dep := depth c
        let stk := if 0 < dep then (c.hpstk <<< 4) ||| BitVec.ofNat 64 (rpri c) else c.hpstk
        let t := c.trap causeExt 0 (c.hvbase + BitVec.ofNat 64 (8 * i))
        let c := { t with hclaim := BitVec.ofNat 64 (i + 4096 * cnt + 65536 * prio), hpstk := stk
                          hrpri := withField (withField c.hrpri 0 4 prio) 4 5 (dep + 1) }
        let d := (d.setCore h c).mark (F.ICU_HLMh_STAT_WFI h) false
        let d := (d.put (F.ICU_SRCi_STAT_CNT i) 0).inc (F.ICU_SRCi_ACC_CNT i)
        let mod := d.val (F.ICU_SRCi_CFG_MOD i)
        let d := if mod = 0 then d else { d with icu := { d.icu with modTill := tabSet 0 d.icu.modTill i (d.now + 1000 * mod) } }
        (d.setOffer h none).arbitrateAll) s

/-- The illegal-instruction exception of a privileged instruction in user mode: mtval is 0 or the instruction's bits,
and the standard leaves open which. -/
def Dev.illegal (d : Dev) (h : Nat) (bits : BitVec 64) : Dev :=
  let r := d.draw
  let c := d.core h
  r.2.setCore h (c.trap 2 (if r.1.getLsbD 0 then bits else 0) (c.vector false 2))

/-- MRET (R270): the standard return, and the pop of the priority stack. DESIGN CHOICE, log entry 112. -/
def execMret (h : Fin 5) (s : State) : Host.Outcome State Fault Refusal :=
  onDev (fun d =>
    let c := d.core h
    if ! d.coreRuns h ∨ c.wfi then d
    else if c.user then d.illegal h 0x30200073
    else
      let mpp := fieldOf c.mstatus 11 2
      let m := withField c.mstatus 3 1 (fieldOf c.mstatus 7 1)
      let m := withField (withField m 7 1 1) 11 2 0
      let m := if mpp = 3 then m else withField m 17 1 0
      let dep := depth c
      let pop := c.mcause == causeExt && decide (0 < dep)
      let c' := { c with mstatus := m, user := mpp != 3, pc := c.mepc }
      let c' := if pop then { c' with hrpri := withField (withField c.hrpri 0 4 (fieldOf c.hpstk 0 4)) 4 5 (dep - 1), hpstk := c.hpstk >>> 4 }
        else c'
      (d.setCore h c').arbitrateAll) s

/-- The `time` CSR: device time in ns, 64 bits (R263). -/
def Dev.timeCsr (d : Dev) : Nat := fromSigned 64 d.devTime

/-- mip.MTIP is 1 while `time` ≥ htimecmp (R263). -/
def Dev.timerDue (d : Dev) (h : Nat) : Bool := decide ((d.core h).htimecmp.toNat ≤ d.timeCsr)

/-- mip as the core reads it: MTIP stands at what `time` says now (R263). -/
def Dev.mipOf (d : Dev) (h : Nat) : BitVec 64 := withField (d.core h).mip 7 1 (b2n (d.timerDue h))

/-- mhartid as core `h` reads it: H4 in another's place reads that core's number (R261, R264). -/
def Dev.mhartid (d : Dev) (h : Nat) : Nat :=
  if h = 4 ∧ d.on (F.ICU_HLMh_CTRL_SPARE_EN 4) then d.val (F.ICU_HLMh_CTRL_SPARE_AS 4) else h

/-- WFI (R271): the core halts, unless an enabled source requests with it as its target, or an enabled timer interrupt is
pending; then it goes on. -/
def execWfi (h : Fin 5) (s : State) : Host.Outcome State Fault Refusal :=
  onDev (fun d =>
    let c := d.core h
    if ! d.coreRuns h ∨ c.wfi then d
    else
      let d := d.setCore h { c with pc := c.pc + 4, wfi := true }
      let d := (d.mark (F.ICU_HLMh_STAT_WFI h) true).arbitrateAll
      if c.mie.getLsbD 7 ∧ d.timerDue h then d.wake h else d) s

/-- hrpri written by firmware (R263, R273). -/
def execHrpriWrite (h : Fin 5) (v : Nat) (s : State) : Host.Outcome State Fault Refusal :=
  onDev (fun d => (d.setCore h { d.core h with hrpri := BitVec.ofNat 64 (v % 512) }).arbitrateAll) s

/-- TIMER_INTERRUPT (R263): device time reaches htimecmp. The core takes the interrupt under the standard rules when it
can and no external interrupt, which goes first, stands enabled. DEDUCED, log entry 79. -/
def execTimerInterrupt (h : Fin 5) (s : State) : Host.Outcome State Fault Refusal :=
  onDev (fun d =>
    let d := d.reachDev (d.devTime + ((d.core h).htimecmp.toNat - d.timeCsr : Nat))
    if ! (d.mipOf h).getLsbD 7 ∨ ! (d.core h).mie.getLsbD 7 ∨ ! d.coreRuns h then d
    else
      let d := d.wake h
      let c := d.core h
      if ! c.open ∨ (c.mie.getLsbD 11 ∧ (d.offered h).isSome) then d
      else d.setCore h (c.trap causeTimer 0 (c.vector true 7))) s

/-! ### Running, resetting, sparing a core (R264, R265) -/

/-- RUN of a core is written. A core that has not run since its reset starts at BOOT (R265; DEDUCED, log entry 33). -/
def Dev.runWrite (d : Dev) (h : Nat) (b : Bool) : Dev :=
  let was := d.on (F.ICU_HLMh_CTRL_RUN h)
  let c := d.core h
  let d := d.mark (F.ICU_HLMh_CTRL_RUN h) b
  let d := d.mark (F.ICU_HLMh_STAT_RUNNING h) (b && d.powered (2 + h))
  let d :=
    if b ∧ ! was ∧ ! c.started then d.setCore h { c with started := true, pc := BitVec.ofNat 64 (d.val (F.ICU_HLMh_BOOT h)) }
    else if ! b ∧ was then d.setCore h { c with started := true }
    else d
  d.arbitrateAll

/-- RUN_WRITE (R265, R272, R273). -/
def execRunWrite (h : Fin 5) (run : Bool) (s : State) : Host.Outcome State Fault Refusal := onDev (fun d => d.runWrite h run) s

/-- RESET of a core (R265): its registers, not its TCMs. PRESUMED, log entry 11. -/
def Dev.coreReset (d : Dev) (h : Nat) : Dev :=
  let run := d.on (F.ICU_HLMh_CTRL_RUN h)
  let c : Core := { wdogAt := (d.core h).wdogAt, started := run, pc := BitVec.ofNat 64 (d.val (F.ICU_HLMh_BOOT h)) }
  let d := (d.setOffer h none).setCore h c
  (d.mark (F.ICU_HLMh_STAT_WFI h) false).arbitrateAll

/-- CORE_RESET (R265). -/
def execCoreReset (h : Fin 5) (s : State) : Host.Outcome State Fault Refusal := onDev (fun d => d.coreReset h) s

/-- SPARE_EN and SPARE_AS are written: taken only while H4 has RUN = 0 (R264). -/
def Dev.spareWrite (d : Dev) (en : Bool) (as : Nat) : Dev :=
  if d.on (F.ICU_HLMh_CTRL_RUN 4) then d.accessErr (R.ICU_HLMh_CTRL 4)
  else
    let d := (d.mark (F.ICU_HLMh_CTRL_SPARE_EN 4) en).put (F.ICU_HLMh_CTRL_SPARE_AS 4) as
    let d := [0, 1, 2, 3].foldl (fun (d : Dev) f => d.mark (F.ICU_HLMh_STAT_SPARED f) (en && f == as)) d
    d.arbitrateAll

/-- SPARE_WRITE (R264). -/
def execSpareWrite (en : Bool) (as : Fin 4) (s : State) : Host.Outcome State Fault Refusal := onDev (fun d => d.spareWrite en as) s

/-- A core's watchdog timeout is written, which restarts it (R265). -/
def Dev.coreWdog (d : Dev) (h v : Nat) : Dev :=
  let v := v % 2 ^ 24
  (d.put (F.ICU_HLMh_WDOG h) v).setCore h { d.core h with wdogAt := if v = 0 then none else some (d.now + 1000 * v) }

/-- WDOG (R265): the watchdog expires and stops. -/
def execWdog (h : Fin 5) (s : State) : Host.Outcome State Fault Refusal :=
  onDev (fun d =>
    match (d.core h).wdogAt with
    | none => d
    | some t => ((d.reach t).setCore h { d.core h with wdogAt := none }).raise (F.ICU_HLMh_FLAG_WDOG h)) s

/-! ### Event channels (R274 to R278) -/

/-- A software interrupt is requested. -/
def Dev.swiSet (d : Dev) (j : Nat) : Dev := d.raise (F.ICU_SWIj_REQ j)

/-- A delivery on channel `k` reaches its subscribers (R278). -/
def Work.deliverEvent (w : Work) (k : Nat) : Work :=
  let w := [0, 1, 2, 3].foldl (fun (w : Work) e =>
    if w.dev.on (F.CDC_En_CTRL_SUB_EN e) ∧ w.dev.val (F.CDC_En_CTRL_SUB_EVC e) = k then w.cdcStart e else w) w
  let w := (List.range 32).foldl (fun (w : Work) c =>
    if w.dev.on (F.DMA_Cc_CFG_SUB_EN c) ∧ w.dev.val (F.DMA_Cc_CFG_SUB_EVC c) = k then w.dmaStart c else w) w
  w.on (fun d => (List.range 7).foldl (fun (d : Dev) j =>
    if d.on (F.ICU_SWIj_SUB_EN j) ∧ d.val (F.ICU_SWIj_SUB_EVC j) = k then d.swiSet j else d) d)

/-- EVENT_DELIVERY (R274, R275, R278): the publication that waits on channel `k` is delivered in its cycle. -/
def execEventDelivery (k : Fin 256) (s : State) : Host.Outcome State Fault Refusal :=
  onWork (fun w =>
    let c := w.dev.evch k
    match c.pend with
    | none => w
    | some p =>
      let w := w.on (fun d =>
        let d := (d.reach (4 * p.1)).setEvch k { c with pend := none, lastAt := some p.1 }
        let d := d.mark (F.EVT_CHk_CFG_PEND k) false
        (d.put ⟨R.EVT_WATCHw (k / 32), k % 32, 1⟩ 1).put (F.EVT_CHk_LAST k) p.2)
      w.deliverEvent k) s

/-- STORM_WINDOW_END (R276). -/
def execStormWindowEnd (k : Fin 256) (s : State) : Host.Outcome State Fault Refusal :=
  onDev (fun d =>
    match (d.evch k).window with
    | none => d
    | some t => (d.reach (4 * (t + 250000))).setEvch k { d.evch k with window := none, merges := 0 }) s

/-- EVT_FIRE (R275, R277): firmware publishes, with the producer code of the writer. -/
def execEvtFire (writer : Nat) (k : Fin 256) (s : State) : Host.Outcome State Fault Refusal :=
  onDev (fun d => d.publish k writer) s

/-- EN = 1 written to a channel (R276). -/
def Dev.evtEnable (d : Dev) (k : Nat) : Dev :=
  let d := (d.mark (F.EVT_CHk_CFG_EN k) true).put ⟨R.EVT_STORMw (k / 32), k % 32, 1⟩ 0
  d.setEvch k { d.evch k with window := none, merges := 0 }

/-- CHANNEL_ENABLE (R276). -/
def execChannelEnable (k : Fin 256) (s : State) : Host.Outcome State Fault Refusal := onDev (fun d => d.evtEnable k) s

/-- SWI_SET (R279). -/
def execSwiSet (v : BitVec 7) (s : State) : Host.Outcome State Fault Refusal :=
  onDev (fun d => (List.range 7).foldl (fun (d : Dev) j => if v.getLsbD j then d.swiSet j else d) d) s

end Sys2Proof.Machine
end

