-- ==== Sys2Proof/Machine/Image.lean ====
section
/-! DEFINITION. What the NOR flash holds: the image header and its section table (R281 to R283, R285), the
bank record and the manifests (R317 to R319). -/
namespace Sys2Proof.Machine

/-- A list with the bytes from position `i` on replaced. -/
def setBytes (l : List Byte) (i : Nat) (bs : List Byte) : List Byte := l.take i ++ bs ++ l.drop (i + bs.length)

/-! ### Header and sections (R281 to R283) -/

/-- A section entry (R282). -/
structure Sect where
  type : Nat
  bank : Nat
  mutb : Bool
  off  : Nat
  len  : Nat
  crc  : Nat
  deriving DecidableEq, Repr

/-- Entry `i` of the section table. -/
def sectAt (h : List Byte) (i : Nat) : Sect :=
  let b := 32 + 16 * i
  { type := leAt h b 1, bank := leAt h (b + 1) 1 % 2, mutb := bitOf (leAt h (b + 1) 1) 1, off := leAt h (b + 4) 4,
    len := leAt h (b + 8) 4, crc := leAt h (b + 12) 4 }

/-- Section entries n (R281). -/
def sectCount (h : List Byte) : Nat := leAt h 13 1

def sects (h : List Byte) : List Sect := (List.range (sectCount h)).map (sectAt h)

/-- The image epoch (R281). -/
def imageEpoch (h : List Byte) : Nat := leAt h 12 1

def imageLength (h : List Byte) : Nat := leAt h 20 4

def imageVersion (h : List Byte) : Nat := leAt h 16 4

/-- The header check (R281): a CRC-32C with its own four bytes taken as zero. -/
def headerCrc (h : List Byte) : Bool := crc32c (setBytes h 28 (bytesLE 4 0)) == leAt h 28 4

/-- A type that comes once per bank (R282). -/
def bankedType (t : Nat) : Bool := decide (1 ≤ t ∧ t ≤ 6)

/-- CALIB, SETTINGS, LOG and BANK (R283). -/
def mutableType (t : Nat) : Bool := decide (9 ≤ t ∧ t ≤ 12)

/-- Two byte ranges share a byte. -/
def overlap (a n b m : Nat) : Bool := decide (a < b + m ∧ b < a + n)

/-- No two of a list satisfy `p`. -/
def noPair {α : Type} (p : α → α → Bool) : List α → Bool
  | [] => true
  | x :: t => t.all (fun y => ! p x y) && noPair p t

/-- The section table is valid (R283). -/
def layoutValid (h : List Byte) : Bool :=
  let l := sects h
  l.all (fun x => decide (1 ≤ x.type ∧ x.type ≤ 12) && (bankedType x.type || x.bank == 0) && x.mutb == mutableType x.type
    && x.off % 4096 == 0 && decide (512 ≤ x.off) && decide (x.off + x.len ≤ imageLength h))
  && noPair (fun x y => (x.type == y.type && x.bank == y.bank) || overlap x.off x.len y.off y.len) l

/-- The entry of a type, in a bank for a banked type. -/
def sectOf (h : List Byte) (type bank : Nat) : Option (Nat × Sect) :=
  ((List.range (sectCount h)).map (fun i => (i, sectAt h i))).find?
    (fun e => e.2.type == type && (! bankedType type || e.2.bank == bank))

/-! ### Manifests (R317) -/

/-- A part of a manifest. -/
structure Part where
  type : Nat
  off  : Nat
  len  : Nat
  ver  : Nat
  crc  : Nat
  deriving DecidableEq, Repr

def partAt (m : List Byte) (i : Nat) : Part :=
  let b := 32 + 20 * i
  { type := leAt m b 1, off := leAt m (b + 4) 4, len := leAt m (b + 8) 4, ver := leAt m (b + 12) 4, crc := leAt m (b + 16) 4 }

def manifestParts (m : List Byte) : List Part := (List.range (min 6 (leAt m 6 1))).map (partAt m)
def manifestEpoch (m : List Byte) : Nat := leAt m 7 1
def manifestVersion (m : List Byte) : Nat := leAt m 8 4
def packageLength (m : List Byte) : Nat := leAt m 12 4
def manifestSfmt (m : List Byte) : Nat := leAt m 16 2

/-- Bytes of a manifest with n parts. -/
def manifestSize (m : List Byte) : Nat := 32 + 20 * leAt m 6 1

/-- The manifest of package or record is good: magic, version, part count, CRC over its bytes (R317). -/
def manifestGood (m : List Byte) : Bool :=
  leAt m 0 4 == 0x50555A4C && leAt m 4 2 == 1 && decide (1 ≤ leAt m 6 1 ∧ leAt m 6 1 ≤ 6) && decide (manifestSize m ≤ m.length)
  && crc32c (setBytes (m.take (manifestSize m)) 28 (bytesLE 4 0)) == leAt m 28 4

/-! ### The bank record (R318, R319) -/

/-- The record is good. -/
def recordGood (r : List Byte) : Bool := leAt r 0 4 == 0x4B4E4142 && crc32c (r.take 508) == leAt r 508 4

def recSeq (r : List Byte) : Nat := leAt r 4 4
def recBank (r : List Byte) : Nat := leAt r 8 1 % 2
def recConfirmed (r : List Byte) : Bool := bitOf (leAt r 9 1) 0
def recReload (r : List Byte) : Bool := bitOf (leAt r 9 1) 1
def recSwritten (r : List Byte) : Bool := bitOf (leAt r 9 1) 2
def recSegSet (r : List Byte) : Bool := bitOf (leAt r 9 1) 3
def recFloorEpoch (r : List Byte) : Nat := leAt r 10 1
def recSeg (r : List Byte) : Nat := leAt r 11 1
def recFloorVersion (r : List Byte) : Nat := leAt r 12 4

/-- The manifest of a bank, `none` when its bytes are all zero (R318). -/
def recManifest (r : List Byte) (bank : Nat) : Option (List Byte) :=
  let m := (r.drop (32 + 152 * bank)).take 152
  if m.all (· == 0) then none else some m

/-- A bit of byte 9 made to hold `b`. -/
def recFlag (r : List Byte) (i : Nat) (b : Bool) : List Byte :=
  let v := leAt r 9 1
  setBytes r 9 [BitVec.ofNat 8 (if b then withBit v i else withoutBit v i)]

/-- The record as it is programmed: SEQ + 1, closed by its CRC (R318). -/
def recSeal (r : List Byte) : List Byte :=
  let r := (setBytes r 4 (bytesLE 4 (recSeq r + 1))).take 508
  r ++ bytesLE 4 (crc32c r)

/-- Where copy `c` of the record lies in the BANK section (R318). -/
def copyAt (h : List Byte) (c : Nat) : Option Nat := (sectOf h 12 0).map (fun e => e.2.off + 4096 * (c + 1))

/-- The copy in use: the good one, of two the one with the higher SEQ modulo 2^32 (R318). -/
def Work.bankRecord (w : Work) (h : List Byte) : Option (Nat × List Byte) :=
  match copyAt h 0, copyAt h 1 with
  | some a, some b =>
    let r0 := w.peeksNv a 512
    let r1 := w.peeksNv b 512
    match recordGood r0, recordGood r1 with
    | false, false => none
    | true, false => some (0, r0)
    | false, true => some (1, r1)
    | true, true => if (recSeq r1 + 2 ^ 32 - recSeq r0) % 2 ^ 32 < 2 ^ 31 ∧ recSeq r1 ≠ recSeq r0 then some (1, r1) else some (0, r0)
  | _, _ => none

/-- The lengths and check words with which a section of a bank passes (R285, R319). A manifest's part stands in for
the header's entry. For a part that the manifest leaves out, staging copied the other bank's (R320). -/
def Sect.checks (x : Sect) (h r : List Byte) : List (Nat × Nat) :=
  if ! bankedType x.type then [(if x.mutb then min 64 x.len else x.len, x.crc)]
  else
    match recManifest r x.bank with
    | none => [(x.len, x.crc)]
    | some m =>
      match (manifestParts m).find? (fun p => p.type == x.type) with
      | some p => [(p.len, p.crc)]
      | none =>
        let other := 1 - x.bank
        let hdr := match sectOf h x.type other with
          | some (_, y) => [(y.len, y.crc)]
          | none => []
        let man := match recManifest r other with
          | some m' => ((manifestParts m').filter (fun p => p.type == x.type)).map (fun p => (p.len, p.crc))
          | none => []
        (x.len, x.crc) :: (hdr ++ man)

/-- The length of the part that passes its check, if one does. -/
def Work.sectPasses (w : Work) (h r : List Byte) (x : Sect) : Option Nat :=
  ((x.checks h r).find? (fun c => crc32c (w.peeksNv x.off c.1) == c.2)).map (·.1)

/-- SVC_STAT and the floor as the record in use gives them (R318, R324, R330). -/
def Dev.recShow (d : Dev) : Dev :=
  let r := d.svc.record
  let d := (d.mark F.SVC_STAT_CONFIRMED (recConfirmed r)).mark F.SVC_STAT_RELOAD (recReload r)
  let d := (d.put F.SVC_STAT_ACT_BANK (recBank r)).put F.CFG_STAT_BANK (recBank r)
  (d.put F.SVC_EPOCH (d.otp.epoch % 256 + 256 * recFloorEpoch r)).put F.SVC_FLOOR (recFloorVersion r)

/-- A new record in the other copy (R318): its sector erased, the record programmed. Its completion is the commit. -/
def Work.recCommit (w : Work) (r : List Byte) : Work :=
  let r := recSeal r
  let c := 1 - w.dev.svc.copy
  match copyAt w.dev.pwr.header c with
  | none => w
  | some a =>
    let w := (w.pokesNv a (List.replicate 4096 nvInit)).pokesNv a r
    w.on (fun d => { d with svc := { d.svc with copy := c, record := r } }.recShow)

end Sys2Proof.Machine
end

