-- ==== Sys2Proof/Machine/Link.lean ====
section
/-! DEFINITION. The sensor lanes, the camera link and the service channels (R73 to R94). -/
namespace Sys2Proof.Machine

/-! ### Streams and lanes of a port (R81, R82, R92) -/

/-- The split mode of port `p`: 0 X4, 1 X2, 2 X1; 3 acts as 2 (R82). -/
def Dev.portMode (d : Dev) (p : Nat) : Nat := min 2 (d.val (F.SLK_CPp_CFG_MODE p))

/-- Streams of a port, and lanes of each of its streams. -/
def modeStreams (mode : Nat) : Nat := [1, 2, 4].getD mode 4
def modeLanes (mode : Nat) : Nat := [4, 2, 1].getD mode 1

/-- The lane index a physical lane has within its port: the one its markers name under AUTO_ORDER, its own
otherwise (R81). -/
def Dev.laneIndex (d : Dev) (l : Nat) : Nat :=
  if d.on (F.SLK_CPp_CFG_AUTO_ORDER (l / 4)) then ((d.lane l).mlane.getD (l % 4)) % 4 else l % 4

/-- The stream a physical lane belongs to (R82). -/
def Dev.laneStream (d : Dev) (l : Nat) : Nat :=
  let p := l / 4
  4 * p + d.laneIndex l / modeLanes (d.portMode p)

/-- The physical lanes of a stream. -/
def Dev.lanesOf (d : Dev) (s : Nat) : List Nat :=
  let p := s / 4
  [4 * p, 4 * p + 1, 4 * p + 2, 4 * p + 3].filter (fun l => d.laneStream l == s)

/-- A lane is fit for its stream: in P0 or P1, block-locked, in service with EYE at EYE_MIN or above, and with nothing
against its markers. In P1 the eye figure is not judged (R81, R92). -/
def Dev.laneUp (d : Dev) (l : Nat) : Bool :=
  decide (d.val (F.SLK_Ll_STAT_PSTATE l) < 2) && d.on (F.SLK_Ll_STAT_BLOCK_LOCK l)
    && (d.val (F.SLK_Ll_STAT_PSTATE l) == 1 || decide (d.val (F.SLK_Ll_CTRL_EYE_MIN l) ≤ d.val (F.SLK_Ll_STAT_EYE l)))
    && (d.lane l).service && ! (d.lane l).misorder && ! (d.lane l).badId

/-- A stream of the mode is up (R92). -/
def Dev.streamUp (d : Dev) (s : Nat) : Bool :=
  let ls := d.lanesOf s
  (d.lstr s).deskewed && ls.length == modeLanes (d.portMode (s / 4)) && ls.all d.laneUp
    && ([0, 1, 2, 3].all (fun i => ! (d.lane (4 * (s / 4) + i)).badId))

/-- STREAM_UP and LINK_OK of a port, with LINK_UP and LINK_DOWN on a change (R92). -/
def Dev.linkRefresh (d : Dev) (p : Nat) : Dev :=
  let n := modeStreams (d.portMode p)
  let ups := (List.range n).map (fun v => d.streamUp (4 * p + v))
  let bits := ((List.range n).zip ups).foldl (fun a x => if x.2 then withBit a x.1 else a) 0
  let d := d.put (F.SLK_CPp_STAT_STREAM_UP p) bits
  let was := d.on (F.SLK_CPp_STAT_LINK_OK p)
  let now := ups.all id
  let d := d.mark (F.SLK_CPp_STAT_LINK_OK p) now
  if now && ! was then d.raise (F.SLK_CPp_FLAG_LINK_UP p)
  else if was && ! now then (d.raise (F.SLK_CPp_FLAG_LINK_DOWN p)).inc (F.SLK_CPp_LINK_DOWN_CNT p)
  else d

/-! ### Ending a line (R83, R87, R88) -/

/-- The pixel depth of a data type (R84). -/
def dtDepth (dt : Nat) : Option Nat :=
  match dt with
  | 0x10 => some 8
  | 0x11 => some 10
  | 0x12 => some 12
  | 0x13 => some 14
  | 0x14 => some 16
  | _ => none

/-- The payload words of a line: ceil(LEN × b / 64), up to a multiple of the lane count (R83). -/
def payloadWords (len b lanes : Nat) : Nat := divCeil (divCeil (len * b) 64) lanes * lanes

/-- `n` pixels of `b` bits from a little-endian bit string, at most so many words at a time: `v` holds the `k`
bits not used yet (R83). -/
def unpack (b : Nat) : Nat → Nat → Nat → List (BitVec 64) → List Nat
  | 0, _, _, _ => []
  | n + 1, v, k, ws =>
    if b ≤ k then v % 2 ^ b :: unpack b n (v / 2 ^ b) (k - b) ws
    else
      match ws with
      | [] => []
      | w :: t =>
        let v' := v + w.toNat * 2 ^ k
        v' % 2 ^ b :: unpack b n (v' / 2 ^ b) (k + 64 - b) t

/-- The open line of stream `s` ends (R87, R88): its pixels are padded or truncated to L, and the contexts that
admitted it get it complete. `frame` counts FRAME_ERR; `tag` carries what the EOL block said. DEDUCED, log entry 56. -/
def Dev.endLine (d : Dev) (s : Nat) (o : OpenLine) (tag : LineTag) (frame : Bool) : Dev :=
  let b := tag.depth
  let L := d.lineLen s
  let whole := 64 * min o.got o.w / b
  let n := min o.hlen whole
  let frame := frame || decide (whole < o.hlen) || decide (o.w < o.got)
  let got := unpack b (min n L) 0 0 (o.words.reverse.take o.w)
  let fill := d.val (F.SLK_Ss_FILL_ACT_FILL s) % 2 ^ b
  let px := got ++ List.replicate (L - n) fill
  let d := if frame then (d.raise (F.SLK_Ss_FLAG_FRAME_ERR s)).inc (F.SLK_Ss_FRAME_ERR_CNT s) else d
  let d := if n < L then (d.raise (F.SLK_Ss_FLAG_SHORT s)).inc (F.SLK_Ss_SHORT_CNT s) else d
  let d := if L < n then (d.raise (F.SLK_Ss_FLAG_LONG s)).inc (F.SLK_Ss_LONG_CNT s) else d
  let tag := { tag with nRx := n, len := L, short := decide (n < L), long := decide (L < n), frame := frame,
                        poison := tag.poison || frame }
  let d := d.inc (F.SLK_Ss_LINE_CNT s)
  let d := d.put (F.SLK_Ss_LAST_LCNT s) tag.lcnt
  let d := d.setLstr s { d.lstr s with opened := none }
  o.dests.foldl (fun d c => d.finishLine (c / 4) (c % 4) (some (tag, px))) d

/-- A stopped lane: in P2, with its locks, service and deskew gone (R9, R76, R94). -/
def Dev.laneOff (d : Dev) (l : Nat) : Dev :=
  let d := d.put (F.SLK_Ll_STAT_PSTATE l) 2
  let d := (d.mark (F.SLK_Ll_STAT_CDR_LOCK l) false).mark (F.SLK_Ll_STAT_BLOCK_LOCK l) false
  let s := d.laneStream l
  let d := d.setLstr s { d.lstr s with deskewed := false, skim := none }
  (d.setLane l { d.lane l with service := false, mcount := none, failed := false, shTimes := [] }).linkRefresh (l / 4)

/-- A lane that drains stops once its stream has no line open (R9). DEDUCED, log entry 49. -/
def Dev.laneSettle (d : Dev) (l : Nat) : Dev :=
  if (d.lstr (d.laneStream l)).opened.isSome ∨ ¬ d.drains (F.SLK_Ll_CTRL_EN l) (F.SLK_Ll_STAT_IDLE l) then d
  else ((d.laneOff l).drained (F.SLK_Ll_CTRL_EN l) (F.SLK_Ll_STAT_IDLE l)).1

/-- The lanes of a port that drain. -/
def Dev.lanesSettle (d : Dev) (p : Nat) : Dev :=
  [4 * p, 4 * p + 1, 4 * p + 2, 4 * p + 3].foldl (fun (d : Dev) l => d.laneSettle l) d

/-- A port whose EN was cleared sets IDLE once none of its streams has a line open (R88). -/
def Dev.portSettle (d : Dev) (p : Nat) : Dev :=
  let d := d.lanesSettle p
  let busy := [0, 1, 2, 3].any (fun v => (d.lstr (4 * p + v)).opened.isSome)
  if busy ∨ ¬ d.drains (F.SLK_CPp_CFG_EN p) (F.SLK_CPp_STAT_IDLE p) then d
  else
    let r := d.drained (F.SLK_CPp_CFG_EN p) (F.SLK_CPp_STAT_IDLE p)
    if r.2 then
      [0, 1, 2, 3].foldl (fun d v => d.setLstr (4 * p + v) { d.lstr (4 * p + v) with prevLcnt := none, camDrop := none }) r.1
    else r.1

/-- An open line ended without a good EOL block: poisoned, and counted as FRAME_ERR (R88). -/
def Dev.cutLine (d : Dev) (s : Nat) : Dev :=
  match (d.lstr s).opened with
  | none => d
  | some o => (d.endLine s o { o.tag with poison := true } true).portSettle (s / 4)

/-! ### Lanes (R73 to R78) -/

/-- The best of some codes: the highest eye figure, on a tie the lower code (R74). -/
def bestPeak (eyes : List (Nat × Nat)) (codes : List Nat) : Nat × Nat :=
  codes.foldl (fun best c =>
    let e := ((eyes.find? (fun x => x.1 == c)).map (·.2)).getD 0
    if best.2 < e ∨ (best.2 = e ∧ c < best.1) then (c, e) else best) (32, 0)

/-- The adaptation of R74: codes 0, 8, 16, 24, 31, then ±4, ±2 and ±1 about the best found. -/
def adapt (eyes : List (Nat × Nat)) : Nat × Nat :=
  let near := fun (b : Nat × Nat) (k : Nat) =>
    let cs := ([b.1 + k] ++ (if k ≤ b.1 then [b.1 - k] else [])).filter (· ≤ 31)
    let r := bestPeak eyes cs
    if b.2 < r.2 ∨ (b.2 = r.2 ∧ r.1 < b.1) then r else b
  near (near (near (bestPeak eyes [0, 8, 16, 24, 31]) 4) 2) 1

/-- The lane measures its eye: over the codes with ADAPT, at PEAK without. Below EYE_MIN the lane stays out of
service; an adaptation that fails sets ADAPT_FAIL and is repeated 100 ms later (R74, R75). -/
def Dev.laneAdapt (d : Dev) (l : Nat) (eyes : List (Nat × Nat)) : Dev :=
  let auto := d.on (F.SLK_Ll_CTRL_ADAPT l)
  let r := if auto then adapt eyes else bestPeak eyes [d.val (F.SLK_Ll_CTRL_PEAK l)]
  let code := if auto then min 31 r.1 else d.val (F.SLK_Ll_CTRL_PEAK l)
  let d := (d.put (F.SLK_Ll_STAT_EYE l) (min 252 r.2)).put (F.SLK_Ll_STAT_PEAK_ACT l) code
  let ok := decide (d.val (F.SLK_Ll_CTRL_EYE_MIN l) ≤ min 252 r.2)
  let d := d.setLane l { d.lane l with service := ok, failed := auto && ! ok, retryAt := d.now + 100000000, lowMs := 0 }
  d.raiseIf (auto && ! ok) (F.SLK_Ll_FLAG_ADAPT_FAIL l)

/-- The stream of a lane loses its deskew and its open line (R80, R88). -/
def Dev.loseDeskew (d : Dev) (l : Nat) : Dev :=
  let s := d.laneStream l
  (d.setLstr s { d.lstr s with deskewed := false, skim := none }).cutLine s

/-- The lane is enabled, and P0 is what is asked of it. -/
def Dev.laneWanted (d : Dev) (l : Nat) : Bool :=
  d.runs (F.SLK_Ll_CTRL_EN l) (F.SLK_Ll_STAT_IDLE l) && d.val (F.SLK_Ll_CTRL_PSTATE l) == 0

/-- Step 1 of R77: the lane is powered, with its peaking at PEAK, or at 16 with ADAPT. -/
def Dev.lanePower (d : Dev) (l : Nat) : Dev :=
  d.put (F.SLK_Ll_STAT_PEAK_ACT l) (if d.on (F.SLK_Ll_CTRL_ADAPT l) then 16 else d.val (F.SLK_Ll_CTRL_PEAK l))

/-- Bring-up of a lane from P2 or after a loss of lock (R77, steps 1 to 4). Steps 5 and 6 follow with the markers. -/
def Dev.laneBringUp (d : Dev) (l : Nat) (eyes : List (Nat × Nat)) : Dev :=
  if ! d.laneWanted l || (d.val (F.SLK_Ll_STAT_PSTATE l) == 0 && d.on (F.SLK_Ll_STAT_BLOCK_LOCK l)) then d
  else
    let d := (d.lanePower l).put (F.SLK_Ll_STAT_PSTATE l) 0
    let d := (d.mark (F.SLK_Ll_STAT_CDR_LOCK l) true).mark (F.SLK_Ll_STAT_BLOCK_LOCK l) true
    let d := d.setLane l { d.lane l with shTimes := [], mcount := none, mbad := 0, misorder := false, badId := false }
    ((d.laneAdapt l eyes).loseDeskew l).linkRefresh (l / 4)

/-- LANE_BRING_UP (R77). -/
def execLaneBringUp (l : Fin 64) (eyes : List (Nat × Nat)) (s : State) : Host.Outcome State Fault Refusal :=
  onDev (fun d => d.laneBringUp l eyes) s

/-- ADAPT_RETRY (R75). -/
def execAdaptRetry (l : Fin 64) (eyes : List (Nat × Nat)) (s : State) : Host.Outcome State Fault Refusal :=
  onDev (fun d =>
    if ! d.laneWanted l || ! (d.lane l).failed then d
    else ((d.reach (d.lane l).retryAt).laneAdapt l eyes).linkRefresh (l / 4)) s

/-- EYE_SCAN (R73, R75): H error-free phase steps and V error-free voltage steps, once per millisecond.
DEDUCED, log entry 60. -/
def execEyeScan (l : Fin 64) (h v : Nat) (s : State) : Host.Outcome State Fault Refusal :=
  onDev (fun d =>
    if d.val (F.SLK_Ll_STAT_PSTATE l) ≠ 0 ∨ ¬ d.on (F.SLK_Ll_STAT_BLOCK_LOCK l) then d
    else
      let e := min 252 (min (4 * h) (4 * v))
      let d := d.put (F.SLK_Ll_STAT_EYE l) e
      let x := d.lane l
      let low := decide (e < d.val (F.SLK_Ll_CTRL_EYE_MIN l))
      let back := ! low && ! x.service && ! d.on (F.SLK_Ll_CTRL_ADAPT l)
      let d := d.setLane l { x with lowMs := if low then x.lowMs + 1 else 0, service := x.service || back }
      d.linkRefresh (l / 4)) s

/-- EYE_LOW (R75): the eye has stayed below EYE_MIN for EYE_DWELL ms; the lane goes out of service and adapts. -/
def execEyeLow (l : Fin 64) (eyes : List (Nat × Nat)) (s : State) : Host.Outcome State Fault Refusal :=
  onDev (fun d =>
    let x := d.lane l
    if d.val (F.SLK_Ll_STAT_PSTATE l) != 0 || ! x.service || decide (x.lowMs < max 1 (d.val (F.SLK_Ll_CTRL_EYE_DWELL l))) then d
    else
      let d := d.raise (F.SLK_Ll_FLAG_EYE_LOW l)
      let d := ((d.setLane l { x with service := false, lowMs := 0 }).loseDeskew l).linkRefresh (l / 4)
      let d := if d.on (F.SLK_Ll_CTRL_ADAPT l) then d.laneAdapt l eyes else d
      d.linkRefresh (l / 4)) s

/-- PSTATE_REQUEST (R76). -/
def execPstateRequest (l : Fin 64) (code : Fin 4) (s : State) : Host.Outcome State Fault Refusal :=
  onDev (fun d => d.put (F.SLK_Ll_CTRL_PSTATE l) code) s

/-- HOLD keeps the lanes in P1 (R76, R292). -/
def Dev.holding (d : Dev) : Bool := d.pwr.trans == some .toHold || (d.mode == 4 && d.pwr.trans != some .fromHold)

/-- The requested power state is entered (R76, R77, R92), after the EOL of any packet, one that delivers no line
included. P2 is left by the bring-up of R77 alone, whose first step powers the lane. -/
def Dev.pstateEnter (d : Dev) (l : Nat) : Dev :=
  let want := max (min 2 (d.val (F.SLK_Ll_CTRL_PSTATE l))) (b2n d.holding)
  let have' := d.val (F.SLK_Ll_STAT_PSTATE l)
  let x := d.lstr (d.laneStream l)
  if want = have' then d
  else if have' = 2 then (if d.laneWanted l && want == 0 then d.lanePower l else d)
  else if have' = 0 ∧ (x.opened.isSome ∨ x.skim.isSome) then d
  else if want < 2 then (d.put (F.SLK_Ll_STAT_PSTATE l) want).linkRefresh (l / 4)
  else
    let d := d.put (F.SLK_Ll_STAT_PSTATE l) 2
    let d := (d.mark (F.SLK_Ll_STAT_CDR_LOCK l) false).mark (F.SLK_Ll_STAT_BLOCK_LOCK l) false
    let d := d.setLane l { d.lane l with service := false, mcount := none }
    (d.loseDeskew l).linkRefresh (l / 4)

/-- PSTATE_ENTRY (R76): not before the EOL of a packet in reception. -/
def execPstateEntry (l : Fin 64) (s : State) : Host.Outcome State Fault Refusal := onDev (fun d => d.pstateEnter l) s

/-- INVALID_SYNC_HEADER (R78). -/
def execInvalidSyncHeader (l : Fin 64) (s : State) : Host.Outcome State Fault Refusal :=
  onDev (fun d =>
    if d.on (F.SLK_Ll_STAT_IDLE l) then d
    else
      let d := d.inc (F.SLK_Ll_SH_ERR_CNT l)
      let x := d.lane l
      d.setLane l { x with shTimes := (d.now :: x.shTimes).take 16 }) s

/-- LOCK_LOST (R78): the last 16 invalid headers fell within 64 blocks, the last at most 63 blocks of 5.12 ns after the
first. -/
def execLockLost (l : Fin 64) (s : State) : Host.Outcome State Fault Refusal :=
  onDev (fun d =>
    let x := d.lane l
    let within := x.shTimes.length == 16 && decide (x.shTimes.headD 0 ≤ x.shTimes.getLastD 0 + 323)
    if d.val (F.SLK_Ll_STAT_PSTATE l) != 0 || ! d.on (F.SLK_Ll_STAT_BLOCK_LOCK l) || ! within then d
    else
      let d := (d.inc (F.SLK_Ll_LOCK_LOST_CNT l)).raise (F.SLK_Ll_FLAG_LOCK_LOST l)
      let d := (d.mark (F.SLK_Ll_STAT_BLOCK_LOCK l) false).mark (F.SLK_Ll_STAT_CDR_LOCK l) false
      let d := d.setLane l { x with shTimes := [], service := false, mcount := none }
      (d.loseDeskew l).linkRefresh (l / 4)) s

/-- EN of a lane set, cleared, and its ABORT, which ends a line in reception as R88 gives (R9). -/
def Dev.laneEnable (d : Dev) (l : Nat) : Dev := (d.startIntake (F.SLK_Ll_CTRL_EN l) (F.SLK_Ll_STAT_IDLE l)).1
def Dev.laneDisable (d : Dev) (l : Nat) : Dev := (d.stopIntake (F.SLK_Ll_CTRL_EN l)).laneSettle l
def Dev.laneAbort (d : Dev) (l : Nat) : Dev :=
  ((d.cutLine (d.laneStream l)).laneOff l).abortBits (F.SLK_Ll_CTRL_EN l) (F.SLK_Ll_STAT_IDLE l)

/-! ### Markers (R80, R81) -/

/-- A bad marker, in the slot it stood in or is missing from; four in a row take the lane out of service (R81). -/
def Dev.badMarker (d : Dev) (l : Nat) (mcount : Option Nat) (slot : Nat) : Dev :=
  let d := (d.inc (F.SLK_CPp_MARKER_ERR_CNT (l / 4))).raise (F.SLK_CPp_FLAG_MARKER_ERR (l / 4))
  let x := d.lane l
  let d := d.setLane l { x with mbad := x.mbad + 1, mcount := mcount, mslot := slot, service := x.service && decide (x.mbad + 1 < 4) }
  if x.mbad + 1 = 4 then (d.loseDeskew l).linkRefresh (l / 4) else d

/-- The lanes of a stream, all of them in service, aligned on equal MCOUNT: a skew of up to 32 blocks is absorbed
(R77, R80). -/
def Dev.deskew (d : Dev) (s : Nat) : Dev :=
  let ls := d.lanesOf s
  let ms := ls.map (fun l => (d.lane l).mcount)
  let slots := ls.map (fun l => (d.lane l).mslot)
  let same := match ms with
    | some m :: t => t.all (· == some m)
    | _ => false
  if ! same || ! ls.all (fun l => (d.lane l).service) then d
  else
    let skew := slots.foldl max 0 - slots.foldl min (slots.headD 0)
    if 32 < skew then
      let d := d.raise (F.SLK_CPp_FLAG_DESKEW_ERR (s / 4))
      d.setLstr s { d.lstr s with deskewed := false }
    else (d.put (F.SLK_CPp_STAT_SKEW (s / 4)) skew).setLstr s { d.lstr s with deskewed := true }

/-- A good marker: order and port id checked, the lane back in service where its eye allows it (R77, R81). -/
def Dev.goodMarker (d : Dev) (l idx pid mc slot : Nat) : Dev :=
  let p := l / 4
  let x := d.lane l
  let auto := d.on (F.SLK_CPp_CFG_AUTO_ORDER p)
  let misorder := ! auto && idx != l % 4
  let badId := d.on (F.SLK_CPp_CFG_ID_CHECK p) && pid != d.val (F.SLK_CPp_CFG_PORT_ID p)
  let back := ! x.failed && decide (d.val (F.SLK_Ll_CTRL_EYE_MIN l) ≤ d.val (F.SLK_Ll_STAT_EYE l))
  let d := d.setLane l { x with mcount := some mc, mslot := slot, mbad := 0, mlane := some idx, misorder := misorder,
                                badId := badId, service := x.service || back }
  let d := d.put ⟨R.SLK_CPp_STAT p, 8 + 2 * (l % 4), 2⟩ (if auto then idx else l % 4)
  let d := (d.raiseIf misorder (F.SLK_CPp_FLAG_ORDER_ERR p)).raiseIf badId (F.SLK_CPp_FLAG_ID_ERR p)
  (d.deskew (d.laneStream l)).linkRefresh p

/-- MARKER (R80, R81), with the block slot in which it arrived. -/
def execMarker (l : Fin 64) (bytes : List Byte) (slot : Nat) (s : State) : Host.Outcome State Fault Refusal :=
  onDev (fun d =>
    if ! d.on (F.SLK_Ll_STAT_BLOCK_LOCK l) || d.val (F.SLK_Ll_STAT_PSTATE l) != 0 then d
    else
      let next := (d.lane l).mcount.map (fun m => (m + 1) % 2 ^ 24)
      let mc := leAt bytes 3 3
      if crc8 ((bytes.drop 1).take 6) ≠ leAt bytes 7 1 then d.badMarker l next slot
      else if next.isSome ∧ next ≠ some mc then d.badMarker l (some mc) slot
      else d.goodMarker l (leAt bytes 1 1 % 4) (leAt bytes 2 1) mc slot) s

/-- MARKER_ABSENT (R81): none came in the slot of the next marker, 16,384 blocks after the previous one. In P1 and P2
none is awaited (R92). -/
def execMarkerAbsent (l : Fin 64) (s : State) : Host.Outcome State Fault Refusal :=
  onDev (fun d =>
    if d.val (F.SLK_Ll_STAT_PSTATE l) != 0 then d
    else
      match (d.lane l).mcount with
      | none => d
      | some m => d.badMarker l (some ((m + 1) % 2 ^ 24)) ((d.lane l).mslot + 16384)) s

/-! ### Line packets (R82 to R88) -/

/-- The header check of R82 over the copies of a packet, one per lane of stream `v`. -/
def hdrOk (mode v : Nat) (copies : List (List Byte × List Byte)) : Bool :=
  match copies with
  | [] => false
  | c :: _ =>
    let n := modeLanes mode
    let dt := leAt c.1 1 1 / 4
    let len := leAt c.2 0 2
    copies.length == n
      && ((List.range n).zip copies).all (fun x =>
        x.2.2 == c.2 && leAt x.2.1 1 2 == leAt c.1 1 2 && leAt x.2.1 4 4 == leAt c.1 4 4
          && leAt x.2.1 3 1 % 4 == x.1 && leAt x.2.1 3 1 / 4 % 4 == n - 1)
      && leAt c.1 1 1 % 4 == v
      && crc8 ((c.1.drop 1).take 2 ++ (c.1.drop 4).take 4 ++ c.2.take 7) == leAt c.2 7 1
      && ((decide (64 ≤ len) && decide (len ≤ 32768)) || (dt == 0x3F && len == 0))

/-- The LINE hand-over of a stream's length and fill shadows (R93). -/
def Dev.lineHandOver (d : Dev) (s : Nat) : Dev :=
  let d := d.setReg (R.SLK_Ss_LINE_ACT s) (d.reg (R.SLK_Ss_LINE_SH s))
  let d := d.setReg (R.SLK_Ss_FILL_ACT s) (d.reg (R.SLK_Ss_FILL_SH s))
  d.mark (F.SLK_Ss_STAT_SHADOW_PEND s) false

/-- The packet's LINE_CNT judged against the one before (R86). -/
def Dev.judgeCount (d : Dev) (s lcnt : Nat) : Dev :=
  let x := d.lstr s
  let d := match x.prevLcnt with
    | none => d
    | some p =>
      let gap := (lcnt + 2 ^ 32 - p - 1 + 2 ^ 32) % 2 ^ 32
      if gap = 0 then d else (d.raise (F.SLK_Ss_FLAG_LINE_GAP s)).bump (F.SLK_Ss_GAP_CNT s) gap
  d.setLstr s { d.lstr s with prevLcnt := some lcnt }

/-- The stamp a packet names, marked USED; `none` where no line can take it, one written before the stream's triggering
was last enabled among them (R86). -/
def Dev.takeStamp (d : Dev) (s seq : Nat) : Dev × Option Stamp :=
  let d := d.trgAgain s
  let t := d.trgs s
  let e : Stamp := tabGet {} t.stamps seq
  if e.written && ! e.used then (d.setTrgs s { t with stamps := tabSet {} t.stamps seq { e with used := true } }, some e)
  else ((d.raise (F.SLK_Ss_FLAG_ORPHAN s)).inc (F.SLK_Ss_ORPHAN_CNT s), none)

/-- A packet that passed the header check (R84, R86, R93, R98). -/
def Dev.openLine (d : Dev) (s : Nat) (sol hdr : List Byte) (lanes : Nat) : Dev :=
  let d := d.lineHandOver s
  let lcnt := leAt sol 4 4
  let d := d.judgeCount s lcnt
  let dt := leAt sol 1 1 / 4
  if dt = 0x3F then
    let r := d.takeStamp s (leAt sol 2 1)
    match r.2 with
    | none => r.1
    | some e =>
      let d := (r.1.inc (F.SLK_Ss_NULL_CNT s)).lineless s e.k
      d.setLstr s { d.lstr s with skim := some true }
  else
    match dtDepth dt with
    | none => (d.raise (F.SLK_Ss_FLAG_DT_ERR s)).inc (F.SLK_Ss_DT_ERR_CNT s)
    | some b =>
      if dt ≠ d.val (F.SLK_Ss_LINE_ACT_DT s) then (d.raise (F.SLK_Ss_FLAG_DT_ERR s)).inc (F.SLK_Ss_DT_ERR_CNT s)
      else
        let r := d.takeStamp s (leAt sol 2 1)
        match r.2 with
        | none => r.1
        | some e =>
          let len := leAt hdr 0 2
          let tag : LineTag := { stream := s, lcnt := lcnt, k := e.k, time := e.time, pos := e.pos, len := d.lineLen s,
                                 calRamp := e.calRamp, gain := e.gain, depth := b }
          let a := match r.1.ctxOf s e.k with
            | none => (r.1.lineless s e.k, [])
            | some c =>
              let x := (r.1.frontDone c.1).letIn c.1 c.2 tag
              (x.1, if x.2 then [4 * c.1 + c.2] else [])
          let o : OpenLine := { tag := tag, hlen := len, lanes := lanes, w := payloadWords len b lanes, hdr := hdr,
                                words := [], got := 0, poison := false, dests := a.2, closing := none }
          a.1.setLstr s { a.1.lstr s with opened := some o, skim := none }

/-- An SOL block is received: it ends a line still open (R88). The packet delivers no line unless it is taken. -/
def Dev.packetIn (d : Dev) (s : Nat) : Dev :=
  let d := d.cutLine s
  d.setLstr s { d.lstr s with skim := some false }

/-- SOL (R76, R82 to R88): an SOL block and header word on every lane of stream `v` of port `p`. -/
def execSol (p : Fin 16) (v : Fin 4) (copies : List (List Byte × List Byte)) (st : State) : Host.Outcome State Fault Refusal :=
  onDev (fun d =>
    let s := 4 * p.val + v.val
    let mode := d.portMode p
    let asleep := (d.lanesOf s).filter (fun l => d.val (F.SLK_Ll_STAT_PSTATE l) != 0)
    let takes (d : Dev) : Bool := d.runs (F.SLK_CPp_CFG_EN p) (F.SLK_CPp_STAT_IDLE p)
    if modeStreams mode ≤ v.val then d
    else if ! asleep.isEmpty then
      if takes d then asleep.foldl (fun d l => (d.raise (F.SLK_Ll_FLAG_P1_LOST l)).inc (F.SLK_Ll_P1_LOST_CNT l)) d else d
    else
      let d := d.packetIn s
      if ! takes d || ! bitOf (d.val (F.SLK_CPp_STAT_STREAM_UP p)) v
        || ! (d.lanesOf s).all (fun l => d.runs (F.SLK_Ll_CTRL_EN l) (F.SLK_Ll_STAT_IDLE l)) then d
      else if ! hdrOk mode v copies then (d.raise (F.SLK_Ss_FLAG_HDR_ERR s)).inc (F.SLK_Ss_HDR_ERR_CNT s)
      else
        let c := copies.headD ([], [])
        d.openLine s c.1 c.2 (modeLanes mode)) st

/-- PAYLOAD_WORD (R83). -/
def execPayloadWord (s : Fin 64) (w : BitVec 64) (st : State) : Host.Outcome State Fault Refusal :=
  onDev (fun d =>
    let x := d.lstr s
    match x.opened with
    | none => d
    | some o => d.setLstr s { x with opened := some { o with words := w :: o.words, got := o.got + 1 } }) st

/-- TEMP and STATUS of an EOL block shown, bit 0 of STATUS an alarm (R85). -/
def Dev.trailer (d : Dev) (s : Nat) (c : List Byte) : Dev :=
  let status := leAt c 7 1
  let d := (d.put (F.SLK_Ss_STAT_TEMP s) (leAt c 5 2)).put (F.SLK_Ss_STAT_CAM_STATUS s) status
  d.raiseIf (bitOf status 0) (F.SLK_Ss_FLAG_CAM_ALARM s)

/-- EOL (R83, R85, R87, R88): the end of a line, or of a packet that delivers none. -/
def execEol (s : Fin 64) (copies : List (List Byte)) (st : State) : Host.Outcome State Fault Refusal :=
  onDev (fun d =>
    let c := copies.headD []
    match (d.lstr s).opened with
    | none =>
      let null := (d.lstr s).skim == some true
      let d := d.setLstr s { d.lstr s with skim := none }
      if null then d.trailer s c else d
    | some o =>
      let same := copies.all (fun x => x.drop 1 == c.drop 1)
      let crc := crc32c (o.hdr ++ o.words.reverse.flatMap (fun w => bytesLE 8 w.toNat)) != leAt c 1 4
      let d := if crc then (d.raise (F.SLK_Ss_FLAG_CRC s)).inc (F.SLK_Ss_CRC_CNT s) else d
      let d := d.trailer s c
      let tag := { o.tag with temp := leAt c 5 2, status := leAt c 7 1, crc := crc, poison := o.poison || crc || ! same }
      (d.endLine s o tag false).portSettle (s / 4)) st

/-- BLK_ERR (R79): on the physical lane that carried the block; a line packet it falls into is poisoned. -/
def execBlkErr (l : Fin 64) (st : State) : Host.Outcome State Fault Refusal :=
  onDev (fun d =>
    if ! d.on (F.SLK_Ll_STAT_BLOCK_LOCK l) then d
    else
      let d := (d.inc (F.SLK_Ll_BLK_ERR_CNT l)).raise (F.SLK_Ll_FLAG_BLK_ERR l)
      let s := d.laneStream l
      let x := d.lstr s
      match x.opened with
      | none => d
      | some o => d.setLstr s { x with opened := some { o with poison := true } }) st

/-- LINE_END_TIMEOUT (R88): no EOL block for 8,448 blocks (43,254 ns) after the port's EN was cleared. -/
def execLineEndTimeout (s : Fin 64) (st : State) : Host.Outcome State Fault Refusal :=
  onDev (fun d =>
    match (d.lstr s).opened with
    | some o =>
      match o.closing with
      | some t => (d.reach (t + 43254)).cutLine s
      | none => d
    | none => d) st

/-- A port's EN is set (R9, R86, R90). -/
def Dev.portEnable (d : Dev) (p : Nat) : Dev :=
  let r := d.startIntake (F.SLK_CPp_CFG_EN p) (F.SLK_CPp_STAT_IDLE p)
  if r.2 then
    [0, 1, 2, 3].foldl (fun d v => d.setLstr (4 * p + v) { d.lstr (4 * p + v) with prevLcnt := none, camDrop := none }) r.1
  else r.1

/-- A port's EN is cleared (R88). -/
def Dev.portDisable (d : Dev) (p : Nat) : Dev :=
  if ! d.on (F.SLK_CPp_CFG_EN p) then d
  else
    let d := d.stopIntake (F.SLK_CPp_CFG_EN p)
    let d := [0, 1, 2, 3].foldl (fun d v =>
      let x := d.lstr (4 * p + v)
      d.setLstr (4 * p + v) { x with opened := x.opened.map (fun o => { o with closing := some d.now }) }) d
    d.portSettle p

/-- PORT_DISABLE (R88). -/
def execPortDisable (p : Fin 16) (st : State) : Host.Outcome State Fault Refusal := onDev (fun d => d.portDisable p) st

/-- ABORT of a port (R88): its open lines are discarded, with the words their contexts reserved. -/
def Dev.portAbort (d : Dev) (p : Nat) : Dev :=
  let d := [0, 1, 2, 3].foldl (fun d v =>
    let s := 4 * p + v
    let x := d.lstr s
    let d := d.setLstr s { x with opened := none, skim := none }
    match x.opened with
    | none => d
    | some o => o.dests.foldl (fun d c => (d.finishLine (c / 4) (c % 4) none).ctxSettle (c / 4) (c % 4)) d) d
  d.abortBits (F.SLK_CPp_CFG_EN p) (F.SLK_CPp_STAT_IDLE p)

/-- PORT_ABORT (R88). -/
def execPortAbort (p : Fin 16) (st : State) : Host.Outcome State Fault Refusal := onDev (fun d => d.portAbort p) st

/-! ### Flow blocks and the service channel (R89 to R91) -/

/-- FLOW (R90). -/
def execFlow (s : Fin 64) (blk : List Byte) (st : State) : Host.Outcome State Fault Refusal :=
  onDev (fun d =>
    if d.on (F.SLK_CPp_STAT_IDLE (s / 4)) then d
    else
      let x := d.lstr s
      let d := d.mark (F.SLK_Ss_STAT_XOFF_SEEN s) (bitOf (leAt blk 1 1) 2)
      let c := leAt blk 3 2
      let d := d.setLstr s { x with camDrop := some c }
      match x.camDrop with
      | none => d
      | some p =>
        let k := (c + 65536 - p) % 65536
        if k = 0 then d else (d.bump (F.SLK_Ss_CAM_DROP_CNT s) k).raise (F.SLK_Ss_FLAG_CAM_DROP s)) st

/-- REPLY (R91): taken when its TAG is the outstanding one. -/
def execReply (s : Fin 64) (blk : List Byte) (st : State) : Host.Outcome State Fault Refusal :=
  onDev (fun d =>
    let c := s.val / 4
    let x := d.svch c
    if ! d.on (F.SLK_CSc_STAT_BUSY c) || x.bcast || leAt blk 1 1 != x.tag then d
    else
      let d := d.put (F.SLK_CSc_RDATA c) (leAt blk 3 4)
      let d := d.put (F.SLK_CSc_STAT_RSTATUS c) (leAt blk 2 1)
      (d.mark (F.SLK_CSc_STAT_BUSY c) false).raise (F.SLK_CSc_FLAG_DONE c)) st

/-- A command frame of the service channel, with the K flags of its characters (R91): K27.7 is 0xFB and K29.7
is 0xFD. -/
def svcFrame (vc : Nat) (bcast write : Bool) (tag addr data : Nat) : List (Bool × Byte) :=
  let body := [BitVec.ofNat 8 (64 * vc + 32 * b2n bcast), BitVec.ofNat 8 (if write then 2 else 1), BitVec.ofNat 8 tag]
    ++ bytesLE 4 addr ++ bytesLE 4 (if write then data else 0)
  [(true, 0xFB)] ++ (body ++ bytesBE 2 (crc16 body)).map (fun b => (false, b)) ++ [(true, 0xFD)]

/-- GO of a service channel (R91): the frame waits to be sent character by character. While EN = 0 the channel sends no
frame. -/
def Dev.svcGo (d : Dev) (c : Nat) : Dev :=
  if d.on (F.SLK_CSc_STAT_BUSY c) then d.accessErr (R.SLK_CSc_CTRL c)
  else if ! d.runs (F.SLK_CSc_CTRL_EN c) (F.SLK_CSc_STAT_IDLE c) then d
  else
    let tag := (d.val (F.SLK_CSc_STAT_TAG c) + 1) % 256
    let bcast := d.on (F.SLK_CSc_CTRL_BCAST c)
    let vc := d.val (F.SLK_CSc_CTRL_VC c)
    let d := (d.put (F.SLK_CSc_STAT_TAG c) tag).mark (F.SLK_CSc_STAT_BUSY c) true
    let d := d.svcNow c
    let chars := svcFrame vc bcast (bcast || d.on (F.SLK_CSc_CTRL_WRITE c)) tag (d.val (F.SLK_CSc_ADDR c)) (d.val (F.SLK_CSc_WDATA c))
    d.setSvch c { d.svch c with frame := chars, tag := tag, bcast := bcast, sentAt := d.now, vc := vc }

/-- The clock runs to the end of the command frame in progress. -/
def Dev.frameEnd (d : Dev) (c : Nat) : Dev :=
  let d := d.svcNow c
  if (d.svch c).frame.isEmpty then d
  else
    let d := Dev.svcUntil c (fun x => x.frame.isEmpty) (d.svcFuel c) d
    d.reach (d.instantOf (d.svch c).next)

/-- The command frame in progress has ended: a channel that drains sets IDLE (R9, R91). -/
def Dev.svcSettle (d : Dev) (c : Nat) : Dev :=
  if ! d.drains (F.SLK_CSc_CTRL_EN c) (F.SLK_CSc_STAT_IDLE c) then d
  else ((d.frameEnd c).drained (F.SLK_CSc_CTRL_EN c) (F.SLK_CSc_STAT_IDLE c)).1

/-- EN of a service channel set, cleared, and its ABORT, which cuts the frame and clears BUSY (R9, R91, R94). -/
def Dev.svcEnable (d : Dev) (c : Nat) : Dev := (d.startIntake (F.SLK_CSc_CTRL_EN c) (F.SLK_CSc_STAT_IDLE c)).1
def Dev.svcDisable (d : Dev) (c : Nat) : Dev :=
  let d := (d.stopIntake (F.SLK_CSc_CTRL_EN c)).svcNow c
  if (d.svch c).frame.isEmpty then d.svcSettle c else d
def Dev.svcAbort (d : Dev) (c : Nat) : Dev :=
  let d := d.svcNow c
  ((d.setSvch c { d.svch c with frame := [] }).mark (F.SLK_CSc_STAT_BUSY c) false).abortBits
    (F.SLK_CSc_CTRL_EN c) (F.SLK_CSc_STAT_IDLE c)

/-- GO (R91). -/
def execGo (c : Fin 16) (st : State) : Host.Outcome State Fault Refusal := onDev (fun d => d.svcGo c) st

/-- BCAST_FRAME_END (R91): a broadcast's frame of 15 characters has ended, as late as what went before its characters
makes it. -/
def execBcastFrameEnd (c : Fin 16) (st : State) : Host.Outcome State Fault Refusal :=
  onDev (fun d =>
    let x := d.svch c
    if ! d.on (F.SLK_CSc_STAT_BUSY c) || ! x.bcast then d
    else (d.frameEnd c).mark (F.SLK_CSc_STAT_BUSY c) false) st

/-- TIMEOUT (R91), counted from GO (DEDUCED, log entry 20). -/
def execTimeout (c : Fin 16) (st : State) : Host.Outcome State Fault Refusal :=
  onDev (fun d =>
    let x := d.svch c
    if ! d.on (F.SLK_CSc_STAT_BUSY c) || x.bcast then d
    else
      let d := d.reach (x.sentAt + 1000 * max 1 (d.val (F.SLK_CSc_TIMEOUT c)))
      let d := (d.raise (F.SLK_CSc_FLAG_TIMEOUT c)).inc (F.SLK_CSc_TIMEOUT_CNT c)
      d.mark (F.SLK_CSc_STAT_BUSY c) false) st

/-- The oldest flow request of stream `s`, when it is the one named, comes to be sent: its symbol and VC character. -/
def Dev.takeFlow (d : Dev) (s : Nat) (xoff : Bool) : Dev :=
  let x := d.lstr s
  if x.flowReq.head? != some xoff then d
  else
    let ch := d.svch (s / 4)
    let chars := [(true, if xoff then 0x5C else 0x7C), (false, BitVec.ofNat 8 (64 * (s % 4)))]
    (d.setLstr s { x with flowReq := x.flowReq.tail }).setSvch (s / 4) { ch with flow := ch.flow ++ chars }

/-- A flow symbol leaves for the oldest request, when it is the one asked for: behind triggers, and an XON behind every
XOFF that waits on the channel (R53, R89). The clock runs until its K character leaves. -/
def Dev.flowSymbol (d : Dev) (s : Nat) (xoff : Bool) : Dev :=
  if (d.lstr s).flowReq.head? != some xoff then d
  else
    let c := s / 4
    let d := d.svcNow c
    let d := if xoff then d else [4 * c, 4 * c + 1, 4 * c + 2, 4 * c + 3].foldl (fun d r => d.takeFlow r true) d
    let d := d.takeFlow s xoff
    Dev.svcUntil c (fun x => decide (x.flow.length ≤ 1)) (d.svcFuel c) d

/-- The lines that have run out in every pipeline have freed their words (R98, R103). -/
def Dev.frontsDone (d : Dev) : Dev := (d.pl.front.map (·.1)).foldl (fun d n => d.frontDone n) d

/-- XOFF (R89): K28.2. -/
def execXoff (s : Fin 64) (st : State) : Host.Outcome State Fault Refusal := onDev (fun d => d.frontsDone.flowSymbol s true) st

/-- XON (R89): K28.3. -/
def execXon (s : Fin 64) (st : State) : Host.Outcome State Fault Refusal := onDev (fun d => d.frontsDone.flowSymbol s false) st

end Sys2Proof.Machine
end

