-- ==== Sys2Proof/Machine/Sha.lean ====
section
/-! DEFINITION. SHA-256 and HMAC-SHA-256, by which cartridges are authenticated (R195). -/
namespace Sys2Proof.Machine

/-- The primes below a bound, tried against divisors up to 17: right for bounds up to 361. -/
def primesBelow (n : Nat) : List Nat :=
  (List.range n).filter (fun p => decide (2 ≤ p) &&
    [2, 3, 5, 7, 11, 13, 17].all (fun q => decide (p ≤ q) || p % q != 0))

/-- The largest `r` below 2^`k` (beside the bits of `r` already found) with `r ^ e ≤ x`. -/
def rootFrom (e x : Nat) : Nat → Nat → Nat
  | 0, r => r
  | k + 1, r => rootFrom e x k (if (r + 2 ^ k) ^ e ≤ x then r + 2 ^ k else r)

/-- The first 32 bits of the fraction of the `e`-th root of a small prime: the constants of SHA-256. -/
def rootBits (e p : Nat) : Word := BitVec.ofNat 32 (rootFrom e (p * 2 ^ (32 * e)) 37 0)

/-- The round constants of SHA-256: the cube roots of the first 64 primes. -/
def shaK : List Word := (primesBelow 312).map (rootBits 3)

/-- The initial hash value of SHA-256: the square roots of the first 8 primes. -/
def shaInit : List Word := (primesBelow 20).map (rootBits 2)

/-- A word's rotations by each of `r` bits, exclusive-ored. -/
def turned (r : List Nat) (w : Word) : Word := (r.map w.rotateRight).foldl (· ^^^ ·) 0

/-- Bit by bit, `y` where `x` holds a 1 and `z` where it holds a 0. -/
def picked (x y z : Word) : Word := z ^^^ (x &&& (y ^^^ z))

/-- Bit by bit, what at least two of three words hold. -/
def majority (x y z : Word) : Word := picked (x ^^^ y) z x

/-- The message schedule: `k` more words before the last sixteen, newest first. -/
def shaSchedule : Nat → List Word → List Word
  | 0, ws => ws
  | k + 1, ws =>
    let mixed (age sh : Nat) (r : List Nat) : Word := turned r (ws.getD age 0) ^^^ (ws.getD age 0 >>> sh)
    let old := ws.getD 6 0 + ws.getD 15 0
    shaSchedule k ((mixed 1 10 [17, 19] + mixed 14 3 [7, 18] + old) :: ws)

/-- One round: the eight working variables move up by one, the fourth takes in a sum, and a new first one comes. -/
def shaRound (v : List Word) (kw : Word × Word) : List Word :=
  let x (i : Nat) : Word := v.getD i 0
  let into := turned [6, 11, 25] (x 4) + picked (x 4) (x 5) (x 6) + (kw.2 + kw.1) + x 7
  let first := turned [2, 13, 22] (x 0) + majority (x 0) (x 1) (x 2) + into
  first :: (v.take 3 ++ (x 3 + into) :: (v.drop 4).take 3)

/-- One block of 64 bytes. -/
def shaBlock (h : List Word) (blk : List Byte) : List Word :=
  let ws := (List.range 16).map (fun i => BitVec.ofNat 32 (beAt blk (4 * i) 4))
  let sch := (shaSchedule 48 ws.reverse).reverse
  let v := (shaK.zip sch).foldl shaRound h
  h.zipWith (· + ·) v

/-- The blocks of a padded message, one after the other. -/
def shaBlocks : Nat → List Word → List Byte → List Word
  | 0, h, _ => h
  | k + 1, h, bs => shaBlocks k (shaBlock h (bs.take 64)) (bs.drop 64)

/-- SHA-256 over bytes: 32 bytes. -/
def sha256 (bs : List Byte) : List Byte :=
  let n := bs.length
  let pad := (55 + 64 - n % 64) % 64
  let m := bs ++ [(0x80 : Byte)] ++ List.replicate pad 0 ++ bytesBE 8 (8 * n)
  (shaBlocks (m.length / 64) shaInit m).flatMap (fun w => bytesBE 4 w.toNat)

/-- HMAC-SHA-256 under a key of any length. -/
def hmac256 (key msg : List Byte) : List Byte :=
  let k := if 64 < key.length then sha256 key else key
  let k := k ++ List.replicate (64 - k.length) 0
  sha256 (k.map (· ^^^ 0x5C) ++ sha256 (k.map (· ^^^ 0x36) ++ msg))

end Sys2Proof.Machine
end

