-- ==== Sys2Proof/Machine/Mark.lean ====
section
/-! DEFINITION. Compare hits and the marker heads: mark lines, records, start-of-scan, firing, and the cartridge
(R44, R45, R186 to R197). -/
namespace Sys2Proof.Machine

/-! ### Heads, lines and loads (R186, R190) -/

/-- The head runs: enabled, and no drain holds it back. -/
def Dev.headRuns (d : Dev) (n : Nat) : Bool := d.runs (F.MRKn_CFG_EN n) (F.MRKn_STAT_IDLE n)

/-- The nozzles of a head, 1 to 128, and its clock period in ns (R190, R197). -/
def Dev.nozzles (d : Dev) (n : Nat) : Nat := min 128 (max 1 (d.val (F.MRKn_CFG_NOZZLES n)))
def Dev.clkNs (d : Dev) (n : Nat) : Nat := 4 * min 255 (max 5 (d.val (F.MRKn_CFG_CLKDIV n)))

/-- A load has begun and its line waits for its start-of-scan. -/
def Dev.hasLoad (d : Dev) (n : Nat) : Bool := (d.head n).loading || d.on (F.MRKn_STAT_LOADED n)

/-- The next line to be loaded (R188). -/
def Dev.nextLoad (d : Dev) (n : Nat) : Nat := (d.head n).cur + b2n (d.hasLoad n)

/-- The load of line `j` begins, with bits folded into it (R190 step 3, R191). -/
def Dev.startLoad (d : Dev) (n j carry : Nat) : Dev :=
  let h := d.head n
  let bits := carry ||| tabGet 0 h.map j
  let k := d.nozzles n
  let d := d.setHead n { h with map := tabErase h.map j, cur := j, curBits := bits, loading := true,
                                loadEnd := d.now + k * d.clkNs n }
  (d.mark (F.MRKn_STAT_LOADED n) false).emit (.nozzles n ((List.range k).map (fun i => bits.testBit (k - 1 - i))))

/-- A load whose time has passed is complete (R190 step 4). -/
def Dev.loadDone (d : Dev) (n : Nat) : Dev :=
  let h := d.head n
  if h.loading ∧ h.loadEnd ≤ d.now then (d.setHead n { h with loading := false }).mark (F.MRKn_STAT_LOADED n) true else d

/-- LINE_LOAD (R190 step 3): LAT has ended. -/
def execLineLoad (n : Fin 16) (st : State) : Host.Outcome State Fault Refusal :=
  onDev (fun d =>
    if ! d.headRuns n ∨ d.hasLoad n then d
    else
      let d := d.reach (d.head n).latEnd
      d.startLoad n (d.head n).cur 0) st

/-- LOAD_COMPLETE (R190 step 4). -/
def execLoadComplete (n : Fin 16) (st : State) : Host.Outcome State Fault Refusal :=
  onDev (fun d => if (d.head n).loading then (d.reach (d.head n).loadEnd).loadDone n else d) st

/-! ### Records (R187, R188) -/

/-- The lines [j0, j1] and nozzle bits that a record covers, the bits 0 where it meets no nozzle; `none` where it is no
fix or segment record, or covers no position (R186, R187). -/
def Dev.recLines (d : Dev) (n : Nat) (bs : List Byte) : Option (Int × Int × Nat) :=
  if bs.length ≠ 64 ∨ (leAt bs 0 1 ≠ 1 ∧ leAt bs 0 1 ≠ 2) then none
  else
    let along := toSigned 64 (leAt bs 16 8)
    let len := leAt bs 24 4
    let col : Int := (leAt bs 28 4 : Nat)
    let wid : Int := (leAt bs 32 4 : Nat)
    let ext : Int := d.val (F.MRKn_EXT_ALONG_ACT n)
    let mp : Int := max 64 (d.val (F.MRKn_MPITCH n))
    let base := d.vali (F.MRKn_VBASE n) - d.val (F.MRKn_DIST_ACT n) - mp / 2
    let a0 := along - ext
    let a1 := along + len * d.gridPitch + ext
    let nw : Int := max 1 (d.val (F.MRKn_NOZ_ACT_NWIDTH n))
    let ea : Int := d.val (F.MRKn_NOZ_ACT_EXT_ACROSS n)
    let n0 : Int := d.val (F.MRKn_NCOL0_ACT n)
    let i0 := max 0 ((col - ea - n0) / nw)
    let i1 := min ((d.nozzles n : Nat) - 1 : Int) ((col + wid - 1 + ea - n0) / nw)
    if a1 ≤ a0 then none
    else some ((a0 - base) / mp, (a1 - 1 - base) / mp, if i1 < i0 then 0 else 2 ^ (i1.toNat + 1) - 2 ^ i0.toNat)

/-- Bits ORed into lines `j`, `j + 1`, … of a map. -/
def orLines (bits : Nat) : Nat → Nat → Tab Nat → Tab Nat
  | 0, _, t => t
  | k + 1, j, t => orLines bits k (j + 1) (tabSet 0 t j (tabGet 0 t j ||| bits))

/-- A record's bits placed: lines whose load has begun are handled by age (R188). One that meets no nozzle adds nothing
(R187). -/
def Dev.placeRec (d : Dev) (n : Nat) (r : Int × Int × Nat) : Dev :=
  if r.2.2 = 0 then d
  else
    let h := d.head n
    let nl := d.nextLoad n
    let lo : Int := (nl : Nat) - (d.val (F.MRKn_TIMING_LATE_LINES n) : Nat)
    let late := decide (max r.1 lo ≤ min r.2.1 ((nl : Nat) - 1))
    let lost := decide (r.1 < lo)
    let first := max r.1 nl
    let map := if late then tabSet 0 h.map nl (tabGet 0 h.map nl ||| r.2.2) else h.map
    let map := orLines r.2.2 (r.2.1 - first + 1).toNat first.toNat map
    let d := d.setHead n { h with map := map }
    let d := if late then (d.raise (F.MRKn_FLAG_REC_LATE n)).inc (F.MRKn_REC_LATE_CNT n) else d
    if lost then (d.raise (F.MRKn_FLAG_MISSED n)).inc (F.MRKn_MISS_CNT n) else d

/-- RECORD_READ (R187, R188): a record that reaches beyond the map waits in the queue. -/
def execRecordRead (n : Fin 16) (hdr : Bool) (st : State) (bad : List Nat := []) : Host.Outcome State Fault Refusal :=
  onDev (fun d =>
    let q := d.val (F.MRKn_CFG_QUEUE n)
    match (d.queue q).items.find? (fun i => ! i.dead) with
    | none => d
    | some i =>
      if ! d.headRuns n ∨ 0 < i.toCome then d
      else
        let bs := itemBytes i.len i.words
        let r := d.recLines n bs
        let beyond : Bool := match r with
          | some x => decide ((d.nextLoad n : Int) + 8192 ≤ x.2.1)
          | none => false
        if beyond ∧ ¬ hdr then d
        else
          let t := (d.spoil q bad).queTake q hdr
          match t.2, r with
          | some _, some x => t.1.placeRec n x
          | _, _ => t.1) st

/-! ### Cartridge (R195, R196) -/

/-- A frame on MKn_ID (R195). -/
def cartFrame (cmd : Nat) (pl : List Byte) : List Byte :=
  let body := bytesLE 1 cmd ++ bytesLE 1 pl.length ++ pl
  [(0x5A : Byte)] ++ body ++ bytesLE 1 (crc8 body)

/-- A request sent, at 10 µs a byte (R195). -/
def Dev.cartSend (d : Dev) (n cmd : Nat) (w : CartWait) (pl : List Byte) : Dev :=
  let f := cartFrame cmd pl
  let d := d.setHead n { d.head n with wait := w, sentAt := d.now + 10000 * f.length }
  (d.mark (F.MRKn_STAT_DEC_PEND n) (w == .dec)).emit (.ident n f)

/-- The payload of a reply to `cmd` of `len` payload bytes, if its framing and CRC-8 are right (R195). -/
def cartReply (cmd len : Nat) (f : List Byte) : Option (List Byte) :=
  if f.length = len + 4 ∧ leAt f 0 1 = 0x5A ∧ leAt f 1 1 = cmd + 0x80 ∧ leAt f 2 1 = len
      ∧ crc8 ((f.drop 1).take (len + 2)) = leAt f (len + 3) 1 then some ((f.drop 3).take len)
  else none

/-- The key of a cartridge (R195). -/
def Dev.cartKey (d : Dev) (id : Nat) : List Byte := hmac256 d.otp.secret (bytesLE 8 id)

/-- A MAC of R195. DEDUCED, log entry 72. -/
def cartMac (key msg : List Byte) : List Byte := (hmac256 key msg).take 8

/-- GET_ID sent: authentication begins (R196). -/
def Dev.authStart (d : Dev) (n : Nat) : Dev := d.cartSend n 0x01 .id []

/-- The next owed thousand is sent within the session (R196). -/
def Dev.authKick (d : Dev) (n : Nat) : Dev :=
  let h := d.head n
  if h.wait ≠ .idle ∨ ! d.headRuns n ∨ ! d.on (F.MRKn_STAT_AUTH n) ∨ h.owed = 0 then d
  else (d.setHead n { h with seq := h.seq + 1 }).cartSend n 0x03 .dec (bytesLE 4 (h.seq + 1))

/-- A FIRE whose pulse has begun counts, and adds its drops within a session; a DECREMENT that it makes due is sent at the
pulse (R190, R191, R196). -/
def Dev.firePulse (d : Dev) (n : Nat) : Dev :=
  let h := d.head n
  match h.pulse with
  | none => d
  | some (s, t, drops) =>
    if d.now < t then d
    else
      let acc := d.val (F.MRKn_DROP_ACC n) + (if d.on (F.MRKn_STAT_AUTH n) then drops else 0)
      let d := d.inc (F.MRKn_FIRE_CNT n)
      let d := d.setHead n { h with pulse := none, lastFire := some s, owed := h.owed + acc / 1024 }
      let d := (d.put (F.MRKn_DROP_ACC n) (acc % 1024)).authKick n
      if (d.head n).wait = h.wait then d
      else d.setHead n { d.head n with sentAt := (d.head n).sentAt - (d.now - t) }

/-- What a head does from the present instant on, its pulses up to it counted. -/
def Dev.onHead (n : Nat) (f : Dev → Dev) (d : Dev) : Dev := f (d.firePulse n)

/-! ### Enable and stop (R186, R194) -/

/-- The heads that are enabled and name a compare unit. -/
def Dev.headsOf (d : Dev) (n m : Nat) : List Nat :=
  (d.listed (R.MRKn_CFG 0) 0x100 16 0 1).filter (fun h =>
    d.val (F.MRKn_CFG_CMP_CH h) == n && d.val (F.MRKn_CFG_CMP_UNIT h) == m)

/-- GEOM_ERR (R186). -/
def Dev.geomErr (d : Dev) (n : Nat) : Dev :=
  (d.setHead n { d.head n with geomErr := true }).raise (F.MRKn_FLAG_GEOM_ERR n)

/-- VAL or PITCH of a unit was written: GEOM_ERR in every enabled head that names it (R186). -/
def Dev.geomWrite (d : Dev) (n m : Nat) : Dev :=
  (d.headsOf n m).foldl (fun (d : Dev) h => if d.headRuns h then d.geomErr h else d) d

/-- A head begins: VBASE and MPITCH are latched, authentication and the load of line 0 begin (R186, R190, R196). -/
def Dev.headStart (d : Dev) (n : Nat) : Dev :=
  let c := d.val (F.MRKn_CFG_CMP_CH n)
  let u := d.val (F.MRKn_CFG_CMP_UNIT n)
  let bad := d.val (F.LOGn_CMPm_CTRL_MODE c u) != 3
    || (d.headsOf c u).any (fun h => h != n && ! d.on (F.MRKn_STAT_IDLE h))
  let h := d.head n
  let d := d.setHead n { h with map := [], cur := 0, curBits := 0, loading := false, latEnd := 0, fireEnd := 0,
                                geomErr := false, wait := .idle }
  let d := (d.puti (F.MRKn_VBASE n) (d.vali (F.LOGn_CMPm_VAL c u))).put (F.MRKn_MPITCH n) (d.cmpPitch c u)
  let d := (d.mark (F.MRKn_STAT_REFUSED n) false).mark (F.MRKn_STAT_AUTH n) false
  let d := if bad then d.geomErr n else d
  ((d.startLoad n 0 0).authStart n).cmpRefresh

/-- A draining head is idle once its pulses and its exchange on MKn_ID are over (R194). DEDUCED, log entry 71. -/
def Dev.headSettle (d : Dev) (n : Nat) : Dev :=
  let d := d.firePulse n
  let h := d.head n
  if ! d.drains (F.MRKn_CFG_EN n) (F.MRKn_STAT_IDLE n) ∨ d.now < h.latEnd ∨ d.now < h.fireEnd ∨ h.wait ≠ .idle then d
  else
    let d := (d.mark (F.MRKn_STAT_AUTH n) false).mark (F.MRKn_STAT_REFUSED n) false
    let r := d.drained (F.MRKn_CFG_EN n) (F.MRKn_STAT_IDLE n)
    if r.2 then r.1.headStart n else r.1

/-- The pulses of a draining head have ended; an exchange on MKn_ID ends with commands of its own (R194). -/
def Dev.headDrained (d : Dev) (n : Nat) : Dev :=
  let h := d.head n
  if ! d.drains (F.MRKn_CFG_EN n) (F.MRKn_STAT_IDLE n) ∨ h.wait ≠ .idle then d
  else (d.reach (max h.latEnd h.fireEnd)).headSettle n

/-- The map is discarded, each line with a set bit counted (R194). -/
def Dev.dropMap (d : Dev) (n : Nat) : Dev :=
  let h := d.head n
  let k := tabCount (· != 0) h.map + b2n (d.hasLoad n && h.curBits != 0)
  let d := d.setHead n { h with map := [], curBits := 0, loading := false }
  (d.bump (F.MRKn_DISCARD_CNT n) k).mark (F.MRKn_STAT_LOADED n) false

/-- EN cleared (R194). -/
def Dev.headDisable (d : Dev) (n : Nat) : Dev :=
  let d := d.firePulse n
  if ! d.on (F.MRKn_CFG_EN n) then d
  else if d.on (F.MRKn_STAT_IDLE n) then d.stopIntake (F.MRKn_CFG_EN n)
  else (((d.stopIntake (F.MRKn_CFG_EN n)).dropMap n).headSettle n).cmpRefresh

/-- ABORT: as clearing EN, with FIRE ended at once; one whose pulse has not begun never pulses (R194). -/
def Dev.headAbort (d : Dev) (n : Nat) : Dev :=
  let d := d.firePulse n
  let h := d.head n
  let d := if d.now < h.fireEnd then
      (d.setHead n { h with fireEnd := d.now, pulse := none }).emit (.fire n d.now 0 (d.on (F.MRKn_CFG_FIRE_POL n)))
    else d
  if d.on (F.MRKn_CFG_EN n) then d.headDisable n else d.headSettle n

/-- Inspection is off: SERVICE and STANDBY (R291). -/
def Dev.heldOff (d : Dev) : Bool := d.mode == 5 || d.mode == 1 || d.pwr.trans == some .toService

/-- EN = 1 written (R186, R291): ignored in SERVICE; during LOAD the head begins with INSPECT. -/
def Dev.headEnable (d : Dev) (n : Nat) : Dev :=
  if d.heldOff then d.accessErr (R.MRKn_CFG n)
  else if d.mode = 2 then d.mark (F.MRKn_CFG_EN n) true
  else
    let r := d.startIntake (F.MRKn_CFG_EN n) (F.MRKn_STAT_IDLE n)
    if r.2 then r.1.headStart n else r.1

/-- HEAD_ENABLE (R186, R196). -/
def execHeadEnable (n : Fin 16) (st : State) : Host.Outcome State Fault Refusal := onDev (fun d => d.headEnable n) st

/-- HEAD_DISABLE (R194). -/
def execHeadDisable (n : Fin 16) (st : State) : Host.Outcome State Fault Refusal := onDev (fun d => d.headDisable n) st

/-- HEAD_ABORT (R194). -/
def execHeadAbort (n : Fin 16) (st : State) : Host.Outcome State Fault Refusal := onDev (fun d => d.headAbort n) st

/-! ### Exchanges with the cartridge (R195, R196) -/

/-- The head refuses: the session ends, and a retry follows after 1 s (R196). -/
def Dev.refuse (d : Dev) (n : Nat) (flag : Fld) : Dev :=
  let h := d.head n
  let d := d.setHead n { h with wait := .idle, authAt := d.now, unsure := h.unsure || h.wait == .dec }
  let d := ((d.mark (F.MRKn_STAT_AUTH n) false).mark (F.MRKn_STAT_REFUSED n) true).mark (F.MRKn_STAT_DEC_PEND n) false
  (d.raise flag).headSettle n

/-- GET_ID (R195, R196): the reply to the ID request; the challenge follows. -/
def execGetId (n : Fin 16) (reply : List Byte) (st : State) : Host.Outcome State Fault Refusal :=
  onDev (Dev.onHead n fun d =>
    if (d.head n).wait ≠ .id then d
    else
      match cartReply 0x01 12 reply with
      | none => d.refuse n (F.MRKn_FLAG_AUTH_FAIL n)
      | some p =>
        let id := leAt p 0 8
        if d.on (F.MRKn_STAT_AUTH n) ∧ id ≠ d.val (F.MRKn_CART_ID n) then d.refuse n (F.MRKn_FLAG_AUTH_FAIL n)
        else
          let f := d.draw
          let nonce := bytesLE 8 f.1.toNat
          (f.2.setHead n { f.2.head n with newId := id, newCount := leAt p 8 4, nonce := nonce }).cartSend n 0x02 .mac nonce) st

/-- The session opens (R196). -/
def Dev.openSession (d : Dev) (n : Nat) : Dev :=
  let h := d.head n
  let taken := h.unsure && h.newId == d.val (F.MRKn_CART_ID n) && h.newCount + 1 == d.val (F.MRKn_CART_COUNT n)
  let d := d.setHead n { h with wait := .idle, seq := 0, authAt := d.now, unsure := false,
                                owed := if taken then h.owed - 1 else h.owed }
  let d := (d.put (F.MRKn_CART_ID n) h.newId).put (F.MRKn_CART_COUNT n) h.newCount
  if h.newCount = 0 then d.refuse n (F.MRKn_FLAG_COUNT_ZERO n)
  else (((d.mark (F.MRKn_STAT_AUTH n) true).mark (F.MRKn_STAT_REFUSED n) false).authKick n).headSettle n

/-- CHALLENGE (R195, R196): the reply is checked and opens the session. -/
def execChallenge (n : Fin 16) (reply : List Byte) (st : State) : Host.Outcome State Fault Refusal :=
  onDev (Dev.onHead n fun d =>
    let h := d.head n
    if h.wait ≠ .mac then d
    else
      let want := cartMac (d.cartKey h.newId) ([(0x02 : Byte)] ++ h.nonce ++ bytesLE 8 h.newId ++ bytesLE 4 h.newCount)
      if cartReply 0x02 8 reply = some want then d.openSession n else d.refuse n (F.MRKn_FLAG_AUTH_FAIL n)) st

/-- A decrement accepted (R196). -/
def Dev.decTaken (d : Dev) (n count : Nat) : Dev :=
  let h := d.head n
  let d := d.setHead n { h with wait := .idle, owed := h.owed - 1 }
  let d := ((d.put (F.MRKn_CART_COUNT n) count).inc (F.MRKn_DEC_CNT n)).mark (F.MRKn_STAT_DEC_PEND n) false
  if count = 0 then d.refuse n (F.MRKn_FLAG_COUNT_ZERO n) else (d.authKick n).headSettle n

/-- DECREMENT (R195, R196): the reply's MAC and COUNT′ are checked. -/
def execDecrement (n : Fin 16) (reply : List Byte) (st : State) : Host.Outcome State Fault Refusal :=
  onDev (Dev.onHead n fun d =>
    let h := d.head n
    if h.wait ≠ .dec then d
    else
      match cartReply 0x03 12 reply with
      | none => d.refuse n (F.MRKn_FLAG_AUTH_FAIL n)
      | some p =>
        let mac := cartMac (d.cartKey (d.val (F.MRKn_CART_ID n))) ([(0x03 : Byte)] ++ h.nonce ++ bytesLE 4 h.seq ++ p.take 4)
        if p.drop 4 = mac ∧ leAt p 0 4 + 1 = d.val (F.MRKn_CART_COUNT n) then d.decTaken n (leAt p 0 4)
        else d.refuse n (F.MRKn_FLAG_AUTH_FAIL n)) st

/-- CARTRIDGE_TIMEOUT (R195, R196): 500 µs after the request's end. -/
def execCartridgeTimeout (n : Fin 16) (st : State) : Host.Outcome State Fault Refusal :=
  onDev (Dev.onHead n fun d =>
    if (d.head n).wait = .idle then d
    else (d.reach ((d.head n).sentAt + 500000)).refuse n (F.MRKn_FLAG_AUTH_FAIL n)) st

/-- REAUTH (R196): every REAUTH seconds of a session. -/
def execReauth (n : Fin 16) (st : State) : Host.Outcome State Fault Refusal :=
  onDev (Dev.onHead n fun d =>
    let h := d.head n
    if ! d.headRuns n ∨ ! d.on (F.MRKn_STAT_AUTH n) ∨ h.wait ≠ .idle then d
    else (d.reach (h.authAt + 1000000000 * max 1 (d.val (F.MRKn_TIMING_REAUTH n)))).authStart n) st

/-- AUTH_RETRY (R196): 1 s after a refusal. -/
def execAuthRetry (n : Fin 16) (st : State) : Host.Outcome State Fault Refusal :=
  onDev (Dev.onHead n fun d =>
    let h := d.head n
    if ! d.headRuns n ∨ ! d.on (F.MRKn_STAT_REFUSED n) ∨ h.wait ≠ .idle then d
    else (d.reach (h.authAt + 1000000000)).authStart n) st

/-! ### Start of scan (R189 to R193) -/

/-- Lines below `j` were skipped by the compare unit: their bits go into line `j` (R191). -/
def Dev.foldTo (d : Dev) (n j : Nat) : Dev :=
  let h := d.head n
  if j ≤ h.cur then d
  else
    let has := d.hasLoad n
    let below := h.map.filter (fun e => decide (e.1 < j))
    let carry := below.foldl (fun b e => b ||| e.2) (if has then h.curBits else 0)
    let d := (d.raise (F.MRKn_FLAG_OVERSPEED n)).bump (F.MRKn_SKIP_CNT n) (j - h.cur)
    let map := h.map.filter (fun e => decide (j ≤ e.1))
    if has then (d.setHead n { h with map := map }).startLoad n j carry
    else d.setHead n { h with map := tabSet 0 map j (tabGet 0 map j ||| carry), cur := j }

/-- The effective lengths of LAT, FIRE_DLY, FIRE_W and SPACING, ns (R190, R191). -/
def Dev.fireTimes (d : Dev) (n : Nat) : Nat × Nat × Nat × Nat :=
  let up4 (v : Nat) : Nat := divCeil v 4 * 4
  let lat := 2 * d.clkNs n
  let dly := up4 (max lat (d.val (F.MRKn_FIRE_ACT_FIRE_DLY n)))
  let w := up4 (max 20 (d.val (F.MRKn_FIRE_ACT_FIRE_W n)))
  (lat, dly, w, max (d.val (F.MRKn_MIN_SPACING_ACT n) % 2 ^ 24) (max 5000 (dly + w + 4)))

/-- The MARK hand-over (R193). -/
def Dev.markHandOver (d : Dev) (n : Nat) : Dev :=
  let cp (d : Dev) (act sh : Nat) : Dev := d.setReg act (d.reg sh)
  let d := cp (cp (cp d (R.MRKn_DIST_ACT n) (R.MRKn_DIST_SH n)) (R.MRKn_NCOL0_ACT n) (R.MRKn_NCOL0_SH n)) (R.MRKn_NOZ_ACT n) (R.MRKn_NOZ_SH n)
  let d := cp (cp d (R.MRKn_EXT_ALONG_ACT n) (R.MRKn_EXT_ALONG_SH n)) (R.MRKn_FLIGHT_ACT n) (R.MRKn_FLIGHT_SH n)
  let d := cp (cp d (R.MRKn_FIRE_ACT n) (R.MRKn_FIRE_SH n)) (R.MRKn_MIN_SPACING_ACT n) (R.MRKn_MIN_SPACING_SH n)
  d.mark (F.MRKn_STAT_SHADOW_PEND n) false

/-- The bits set in a number below 2^128. -/
def popCount (v : Nat) : Nat := ((List.range 128).filter (fun i => v.testBit i)).length

/-- A start-of-scan fires: MKn_FIRE pulses `dly` later (R190). -/
def Dev.fire (d : Dev) (n bits dly w : Nat) : Dev :=
  let d := d.setHead n { d.head n with pulse := some (d.now, d.now + dly, popCount bits), fireEnd := d.now + dly + w }
  d.emit (.fire n (d.now + dly) w (d.on (F.MRKn_CFG_FIRE_POL n)))

/-- The last fired start-of-scan, one whose pulse is still to come among them (R191). -/
def Head.fired (h : Head) : Option Nat :=
  match h.pulse with
  | some p => some p.1
  | none => h.lastFire

/-- A start-of-scan of line `j` with FIRE held inactive, by a refusal or GEOM_ERR: loading and latching go on, and the
line's bits are lost and counted, whether or not its load is complete (R186, R196). DEDUCED, log entry 129. -/
def Dev.heldScan (d : Dev) (n j lat : Nat) : Dev :=
  let h := d.head n
  let d := if h.curBits = 0 then d else d.inc (F.MRKn_REFUSED_CNT n)
  if h.loading then d.startLoad n (j + 1) 0
  else
    let d := (d.setHead n { h with cur := j + 1, curBits := 0, latEnd := d.now + lat }).mark (F.MRKn_STAT_LOADED n) false
    d.emit (.lat n d.now lat)

/-- The start-of-scan of line `j` (R189 to R193, R196). -/
def Dev.startOfScan (d : Dev) (n j : Nat) : Dev :=
  if ! d.headRuns n then d
  else
    let t := d.fireTimes n
    let d := (((d.firePulse n).loadDone n).markHandOver n)
    if j < (d.head n).cur then d
    else
      let d := d.foldTo n j
      let d := if d.hasLoad n then d else d.startLoad n j 0
      let h := d.head n
      let close : Bool := match h.fired with
        | some f => decide (d.now < f + t.2.2.2)
        | none => false
      if h.geomErr ∨ d.on (F.MRKn_STAT_REFUSED n) then d.heldScan n j t.1
      else if close then ((d.raise (F.MRKn_FLAG_OVERSPEED n)).inc (F.MRKn_SKIP_CNT n)).startLoad n (j + 1) h.curBits
      else if h.loading then ((d.raise (F.MRKn_FLAG_LATE n)).inc (F.MRKn_LATE_CNT n)).startLoad n (j + 1) h.curBits
      else
        let d := (d.setHead n { h with cur := j + 1, curBits := 0, latEnd := d.now + t.1 }).mark (F.MRKn_STAT_LOADED n) false
        let d := d.emit (.lat n d.now t.1)
        if d.on (F.MRKn_STAT_AUTH n) then d.fire n h.curBits t.2.1 t.2.2.1
        else d

/-! ### Compare hits (R44, R45) -/

/-- A hit counted and published, in a fabric cycle after that of the unit's last one (R45). -/
def Dev.hitOut (d : Dev) (n m : Nat) : Dev :=
  let d := d.reach (4 * tabGet 0 d.log.hits (4 * n + m))
  let d := { d with log := { d.log with hits := tabSet 0 d.log.hits (4 * n + m) (d.now / 4 + 1) } }
  let d := d.inc (F.LOGn_CMPm_HIT_CNT n m)
  if d.on (F.LOGn_CMPm_CTRL_PUB n m) then d.publish (d.val (F.LOGn_CMPm_CTRL_EVC n m)) (0x80 + n) else d

/-- The line that a compare value names for a head (R186). DEDUCED, log entry 70. -/
def Dev.lineOfVal (d : Dev) (h : Nat) (v : Int) : Nat :=
  ((v - d.vali (F.MRKn_VBASE h)) / (max 64 (d.val (F.MRKn_MPITCH h)) : Nat)).toNat

/-- A backlog beyond 16: VAL jumps to its first grid value above the position compared (R45, R191). -/
def Dev.cmpSkip (d : Dev) (n m : Nat) : Dev :=
  let k := d.cmpOwed n m
  if k ≤ 16 ∨ d.val (F.LOGn_CMPm_CTRL_MODE n m) ≠ 3 then d
  else
    let v := d.vali (F.LOGn_CMPm_VAL n m) + k * d.cmpPitch n m
    let d := ((d.puti (F.LOGn_CMPm_VAL n m) v).bump (F.LOGn_CMPm_SKIP_CNT n m) k).raise (F.LOGn_FLAG_CMP_SKIP n)
    (d.headsOf n m).foldl (fun (d : Dev) h => if d.headRuns h then d.foldTo h (d.lineOfVal h v) else d) d

/-- One hit of a REGULAR unit; hits still owed follow in the next fabric cycle (R45, R189). -/
def Dev.regularHit (d : Dev) (n m : Nat) : Dev :=
  if d.cmpOwed n m = 0 then d
  else
    let v := d.vali (F.LOGn_CMPm_VAL n m)
    let d := d.hitOut n m
    let d := (d.headsOf n m).foldl (fun (d : Dev) h => d.startOfScan h (d.lineOfVal h v)) d
    let d := d.puti (F.LOGn_CMPm_VAL n m) (v + d.cmpPitch n m)
    (d.cmpSkip n m).cmpShow n m

/-- A REGULAR unit whose control, VAL or PITCH is written: what it owes now. A backlog that would exceed 16 is skipped
after this cycle's hit (R45). DEDUCED, log entry 52. -/
def Dev.cmpNow (d : Dev) (n m : Nat) : Dev := if 17 < d.cmpOwed n m then d.regularHit n m else d.cmpShow n m

/-- COMPARE_HIT (R44, R45, R189 to R193). -/
def execCompareHit (n : Fin 32) (m : Fin 4) (st : State) : Host.Outcome State Fault Refusal :=
  onDev (fun d =>
    let mode := d.val (F.LOGn_CMPm_CTRL_MODE n m)
    if mode = 3 then d.regularHit n m
    else if mode ≠ 0 ∧ d.val (F.LOGn_CMPm_CTRL_BACKLOG n m) ≠ 0 then
      ((d.put (F.LOGn_CMPm_CTRL_BACKLOG n m) 0).put (F.LOGn_CMPm_CTRL_MODE n m) 0).hitOut n m
    else d) st

end Sys2Proof.Machine
end

