-- ==== Sys2Proof/Machine/Features.lean ====
section
/-! DEFINITION. Exact accumulators, the 16 features, the decision tree and the record formats of segmentation
(R163, R178 to R183). -/
namespace Sys2Proof.Machine

/-! ### Accumulators (R163, R168, R178) -/

/-- A pixel of a component: its column, value, difference, background, and whether it is strong. -/
structure Pixel where
  c      : Int
  v      : Nat
  d      : Int
  mu     : Int
  strong : Bool
  flags  : RowFlags
  deriving DecidableEq, Repr

/-- The accumulators of one pixel of row `k`. -/
def Acc.one (k : Int) (p : Pixel) : Acc :=
  { kFirst := k, kLast := k, cFirst := p.c, cLast := p.c, n := 1, sumV := p.v, minV := p.v, maxV := p.v, sumD := p.d,
    absD := p.d.natAbs, dark := b2n (decide (p.d < 0)), light := b2n (decide (0 < p.d)), strong := b2n p.strong,
    sumMu := p.mu.toNat, sk := k, sc := p.c, skk := k * k, scc := p.c * p.c, skc := k * p.c, flags := p.flags }

/-- Accumulators summed exactly (R168). -/
def Acc.add (a b : Acc) : Acc :=
  { kFirst := min a.kFirst b.kFirst, kLast := max a.kLast b.kLast, cFirst := min a.cFirst b.cFirst,
    cLast := max a.cLast b.cLast, n := a.n + b.n, sumV := a.sumV + b.sumV, minV := min a.minV b.minV,
    maxV := max a.maxV b.maxV, sumD := a.sumD + b.sumD, absD := a.absD + b.absD, dark := a.dark + b.dark,
    light := a.light + b.light, strong := a.strong + b.strong, sumMu := a.sumMu + b.sumMu, sk := a.sk + b.sk,
    sc := a.sc + b.sc, skk := a.skk + b.skk, scc := a.scc + b.scc, skc := a.skc + b.skc,
    flags := a.flags.union b.flags, edgeMissing := a.edgeMissing || b.edgeMissing,
    chartEdge := a.chartEdge || b.chartEdge }

/-- Accumulators that may be missing. -/
def addAcc : Option Acc → Option Acc → Option Acc
  | some a, some b => some (a.add b)
  | some a, none => some a
  | none, b => b

/-! ### Arithmetic of the moments (R178) -/

/-- The bits of a square root, from bit `k` down. -/
def isqrtFrom (n : Nat) : Nat → Nat → Nat
  | 0, r => r
  | k + 1, r => isqrtFrom n k (if (r + 2 ^ k) * (r + 2 ^ k) ≤ n then r + 2 ^ k else r)

/-- The square root of `n`, rounded down. -/
def isqrt (n : Nat) : Nat := isqrtFrom n (n.log2 / 2 + 1) 0

/-- The angles atan 2^-i, 2^42 to the full turn. -/
def atanTable : List Int :=
  [549755813888, 324539807352, 171477921148, 87044870263, 43691347001, 21866972516, 10936154481, 5468410951,
   2734247195, 1367128813, 683565058, 341782611, 170891315, 85445659, 42722830, 21361415, 10680707, 5340354, 2670177,
   1335088, 667544, 333772, 166886, 83443, 41722, 20861, 10430, 5215, 2608, 1304, 652, 326, 163, 81, 41, 20]

/-- Rotation of (x, y) toward the axis x, gathering the angle. -/
def cordic : List Int → Nat → Int → Int → Int → Int
  | [], _, _, _, z => z
  | a :: t, i, x, y, z =>
    if 0 < y then cordic t (i + 1) (x + y / 2 ^ i) (y - x / 2 ^ i) (z + a)
    else cordic t (i + 1) (x - y / 2 ^ i) (y + x / 2 ^ i) (z - a)

/-- The angle of (x, y), 65,536 units to the full turn, rounded to the nearest; 0 for the origin. The rotation errs by
less than a millionth of a unit, and no whole x and y lie half way between two units. -/
def atan2Units (y x : Int) : Int :=
  if x = 0 ∧ y = 0 then 0
  else
    let s : Int := (2 : Int) ^ 48
    let ax := if x < 0 then -x else x
    let z := (cordic atanTable 0 (ax * s) (y * s) 0 + 2 ^ 25) / 2 ^ 26
    if 0 ≤ x then z else if 0 ≤ y then 32768 - z else -32768 - z

/-- n times a central moment, from the sums of products. -/
def moment (n : Nat) (sxy sx sy : Int) : Int := n * sxy - sx * sy

/-- ORIENT rounded, before its tolerance (R178). -/
def Acc.orientMid (a : Acc) : Int :=
  atan2Units (2 * moment a.n a.skc a.sk a.sc) (moment a.n a.skk a.sk a.sk - moment a.n a.scc a.sc a.sc)

/-- The least and the greatest value that ELONG may show: a whole number of 256ths within 2^-10 of the exact value, in
proportion to it, or the one just below or above (R178; DESIGN CHOICE, log entry 5). -/
def Acc.elongSpan (a : Acc) : Nat × Nat :=
  let mk := moment a.n a.skk a.sk a.sk
  let mc := moment a.n a.scc a.sc a.sc
  let m := moment a.n a.skc a.sk a.sc
  let det := mk * mc - m * m
  if mk + mc = 0 then (256, 256)
  else if det ≤ 0 then (0xFFFFFFFF, 0xFFFFFFFF)
  else
    let r := isqrt (((mk - mc) * (mk - mc) + 4 * m * m) * 2 ^ 64).toNat
    let num := 128 * ((mk + mc).toNat * 2 ^ 32 + r)
    let den := max 1 (isqrt (det.toNat * 2 ^ 64))
    (min (num / den) ((num * 1023 + den * 1024 - 1) / (den * 1024)), max ((num + den - 1) / den) (num * 1025 / (den * 1024)))

/-- Shape bits 3:0: dark and light pixels, EDGE_MISSING, CHART_EDGE (R183). -/
def Acc.shapeLow (a : Acc) : Nat :=
  b2n (decide (0 < a.dark)) + 2 * b2n (decide (0 < a.light)) + 4 * b2n a.edgeMissing + 8 * b2n a.chartEdge

/-- The record flags that come from row flags (R163, R182). -/
def Acc.rowFlags (a : Acc) : Nat :=
  8 * b2n a.flags.poison + 16 * b2n a.flags.calRamp + 32 * b2n a.flags.ovsp + 128 * b2n a.flags.stale

/-- The 16 features (R178). ORIENT is free within 32 units of its rounded value, and ELONG within its span; `free`
says where (DESIGN CHOICE, log entry 5). CONTRAST is the signed one. -/
def Acc.features (a : Acc) (flags : Nat) (free : BitVec 64) : List Int :=
  let m32 (x : Nat) : Int := (min x 0xFFFFFFFF : Nat)
  let len := a.kLast - a.kFirst + 1
  let wid := a.cLast - a.cFirst + 1
  let n := max 1 a.n
  let e := a.elongSpan
  let elong := e.1 + free.toNat % 2 ^ 32 % (e.2 - e.1 + 1)
  let orient := (a.orientMid + ((free.toNat / 2 ^ 32 % 65 : Nat) : Int) - 32) % 65536
  [ m32 a.n, len, wid, ((2 * a.sumV + n) / (2 * n) : Nat), a.minV, a.maxV, clampI (-32768) 32767 (Int.tdiv a.sumD (256 * n)),
    min 65535 (a.absD / (256 * n)), m32 elong, orient, min 65536 (m32 a.n * 65536 / (len * wid)), m32 a.dark, m32 a.light,
    m32 a.strong, min 65535 (a.sumMu / (256 * n)), (flags + 256 * a.shapeLow : Nat) ]

/-! ### The decision tree (R179 to R181) -/

/-- What a piece is classified as. -/
structure Leaf where
  cls    : Nat
  conf   : Nat
  queues : List Nat
  err    : Bool
  deriving DecidableEq, Repr

/-- A tree bank's NODES and DEF_QUEUE: a register shows the active and one the idle bank's (R181). -/
def Dev.treeCfg (d : Dev) (bank : Nat) : Nat × Nat :=
  if d.val F.SEG_STAT_TREE_BANK = bank then (min 4096 (d.val F.SEG_TREE_ACT_NODES), d.val F.SEG_TREE_ACT_DEF_QUEUE)
  else (min 4096 (d.val F.SEG_TREE_IDLE_NODES), d.val F.SEG_TREE_IDLE_DEF_QUEUE)

/-- The bank that serves emission row `e` (R181). -/
def Dev.bankAt (d : Dev) (e : Int) : Nat :=
  let act := d.val F.SEG_STAT_TREE_BANK
  match d.seg.swapRow with
  | some r => if e < r then 1 - act else act
  | none => act

/-- The queues of a leaf (R177, R179). -/
def leafQueues (e : Nat) : List Nat :=
  let q := e / 2 ^ 48 % 64
  let m := e / 2 ^ 56 % 64
  if e.testBit 54 && m != q then [q, m] else [q]

/-- The walk from node `n`, at most so many steps more (R180). -/
def treeWalk (tree : Tab Nat) (bank nodes : Nat) (feat : List Int) : Nat → Nat → Option Nat
  | 0, _ => none
  | k + 1, n =>
    if nodes ≤ n then none
    else
      let e := tabGet 0 tree (bank * 4096 + n)
      if e % 2 = 1 then some e
      else
        let f := e / 2 % 16
        let t := e / 2 ^ 32
        let left := if f = 6 then decide (feat.getD 6 0 ≤ toSigned 32 t) else decide (feat.getD f 0 ≤ (t : Int))
        treeWalk tree bank nodes feat k (if left then e / 32 % 4096 else e / 2 ^ 17 % 4096)

/-- Classification for emission row `e` (R180). -/
def Dev.classify (d : Dev) (e : Int) (feat : List Int) : Leaf :=
  let b := d.bankAt e
  let c := d.treeCfg b
  if c.1 = 0 then { cls := 0, conf := 0xFFFF, queues := [c.2], err := false }
  else
    match treeWalk d.seg.tree b c.1 feat 64 0 with
    | some l => { cls := l / 2 ^ 16 % 2 ^ 16, conf := l / 2 ^ 32 % 2 ^ 16, queues := leafQueues l, err := false }
    | none => { cls := 0xFFFF, conf := 0, queues := [c.2], err := true }

/-! ### Records (R182, R183) -/

/-- A record's 62 bytes with their CRC-16 (R182). -/
def withCrc (bs : List Byte) : List Byte := bs ++ bytesLE 2 (crc16 bs)

/-- The shape word (R183). -/
def shapeWord (low : Nat) (feat : List Int) (err : Bool) : Nat :=
  low + 16 * ((feat.getD 9 0).toNat / 4096 % 16) + 256 * min 15 ((feat.getD 8 0).toNat / 256)
    + 4096 * min 7 ((feat.getD 10 0).toNat / 8192) + 32768 * b2n err

/-- The time of a Chart row, and of one of its columns (R26, R151); the present time for a row never assembled
(R184). -/
def Dev.timeOfRow (d : Dev) (k : Int) : Int :=
  match d.seg.times.find? (fun t => t.k == k) with
  | some t => t.time
  | none => d.devTime

def Dev.timeOfCol (d : Dev) (k c : Int) : Int :=
  match d.seg.times.find? (fun t => t.k == k) with
  | some t => t.cols.getD c.toNat t.time
  | none => d.devTime

/-- A fix or segment record (R26, R182). -/
def Dev.fixBytes (d : Dev) (segment : Bool) (flags id : Nat) (a : Acc) (feat : List Int) (leaf : Leaf) : List Byte :=
  let p := d.gridPitch
  let f (i : Nat) : Nat := (feat.getD i 0).toNat
  let fmod (i n : Nat) : Nat := fromSigned n (feat.getD i 0)
  withCrc (bytesLE 1 (if segment then 2 else 1) ++ bytesLE 1 flags ++ bytesLE 2 leaf.cls ++ bytesLE 2 d.unitAddr
    ++ bytesLE 1 (d.sliceOf a.cFirst.toNat) ++ bytesLE 1 1 ++ bytesLE 8 id
    ++ bytesLE 8 (fromSigned 64 (a.kFirst * p)) ++ bytesLE 4 (fmod 1 32)
    ++ bytesLE 4 (fromSigned 32 (d.val F.STC_COL_BASE + a.cFirst)) ++ bytesLE 4 (fmod 2 32) ++ bytesLE 4 (f 0)
    ++ bytesLE 2 (f 3) ++ bytesLE 2 (f 4) ++ bytesLE 2 (f 5) ++ bytesLE 2 leaf.conf
    ++ bytesLE 8 (fromSigned 64 (d.timeOfCol a.kFirst a.cFirst)) ++ bytesLE 4 (tileOf a.kFirst (d.vali F.STC_K0))
    ++ bytesLE 2 (shapeWord a.shapeLow feat leaf.err))

/-- A cancel record of emission row `e`: id `o.id` is withdrawn in favour of `survivor` (R171, R182). -/
def Dev.cancelBytes (d : Dev) (e : Int) (o : SegOut) (survivor : Nat) : List Byte :=
  withCrc (bytesLE 1 3 ++ bytesLE 1 0 ++ bytesLE 2 0 ++ bytesLE 2 d.unitAddr ++ bytesLE 1 (o.id / 2 ^ 46 % 16) ++ bytesLE 1 1
    ++ bytesLE 8 o.id ++ bytesLE 8 (fromSigned 64 (o.firstK * d.gridPitch)) ++ bytesLE 4 o.rows
    ++ bytesLE 4 survivor ++ bytesLE 4 (survivor / 2 ^ 32) ++ bytesLE 4 0 ++ bytesLE 6 0 ++ bytesLE 2 0
    ++ bytesLE 8 (fromSigned 64 (d.timeOfRow e)) ++ bytesLE 4 (tileOf e (d.vali F.STC_K0)) ++ bytesLE 2 0)

end Sys2Proof.Machine
end

