-- ==== Sys2Proof/Machine/Segment.lean ====
section
/-! DEFINITION. Segmentation: backgrounds and thresholds, runs and components, pieces, foreground bits, the reorder
stage and the record emitter (R158 to R167, R171, R176, R177, R181, R184). -/
namespace Sys2Proof.Machine

/-! ### Slices -/

/-- The active slices (R22). -/
def Dev.slices (d : Dev) : List Nat := (List.range 16).filter (fun s => decide (0 < d.val (F.STC_SLICEs_WIDTH s)))

/-- The neighbour on the side abuts, and its port is up (R24, R170, R308). -/
def Dev.abuts (d : Dev) : Side → Bool
  | .chu => d.portUp .chu && (match d.chn.nbrU with
      | some n => n.1 + n.2 == d.val F.STC_COL_BASE
      | none => false)
  | .chd => d.portUp .chd && (match d.chn.nbrD with
      | some n => n.1 == d.val F.STC_COL_BASE + d.chartWidth
      | none => false)

/-- A slice move of slice `s` is under way. -/
def Dev.sliceMig (d : Dev) (s : Nat) : Option Mig :=
  match d.seg.mig with
  | some m => if ! m.stream ∧ m.src = s then some m else none
  | none => none

/-- The last row that a slice has labelled or skipped, over its placements (R174, R176). -/
def Dev.sliceDone (d : Dev) (s : Nat) : Option Int :=
  let x := d.slice s
  match x.tgt with
  | none => x.cur.doneK
  | some t => t.doneK.or x.cur.doneK

/-- The rows that wait in a slice's FIFO, for either placement (R165, R174). -/
def Slice.waits (x : Slice) : Nat :=
  x.cur.fifo.length + (match x.tgt with
    | some t => t.fifo.length
    | none => 0)

/-- A last row at or above `k`. -/
def reached (k : Int) (x : Option Int) : Bool :=
  match x with
  | some v => decide (k ≤ v)
  | none => false

/-! ### Pixels and runs (R158 to R161) -/

/-- The thresholds of one polarity; `none` when it is off (R159). -/
structure Thr where
  ks : Nat
  kw : Nat
  ms : Nat
  mw : Nat
  deriving DecidableEq, Repr

/-- The dark thresholds in force, and the light ones. -/
def Dev.darkThr (d : Dev) (s : Nat) : Option Thr :=
  let ms := d.val (F.SEG_Ss_DARK_ACT_MIN_S s)
  if ms = 0xFF then none
  else some { ks := d.val (F.SEG_Ss_DARK_ACT_K_S s), kw := d.val (F.SEG_Ss_DARK_ACT_K_W s), ms := ms, mw := d.val (F.SEG_Ss_DARK_ACT_MIN_W s) }
def Dev.lightThr (d : Dev) (s : Nat) : Option Thr :=
  let ms := d.val (F.SEG_Ss_LIGHT_ACT_MIN_S s)
  if ms = 0xFF then none
  else some { ks := d.val (F.SEG_Ss_LIGHT_ACT_K_S s), kw := d.val (F.SEG_Ss_LIGHT_ACT_K_W s), ms := ms, mw := d.val (F.SEG_Ss_LIGHT_ACT_MIN_W s) }

/-- 0 background, 1 weak, 2 strong, for a difference of size `a` (R159). -/
def foreground (t : Option Thr) (sigma : Int) (a : Int) : Nat :=
  match t with
  | none => 0
  | some t =>
    let ts := max (sigma * t.ks / 16) ((t.ms * 65536 : Nat) : Int)
    let tw := min (max (sigma * t.kw / 16) ((t.mw * 65536 : Nat) : Int)) ts
    if ts < a then 2 else if tw < a then 1 else 0

/-- What is found of one column: its foreground, difference and background, and the background after the row. -/
structure ColSeen where
  c    : Int
  fg   : Nat
  d    : Int
  mu   : Int
  bg   : Option (Int × Int)
  col  : Col
  deriving DecidableEq, Repr

/-- A column's background after a row of which it is no weak pixel (R158). -/
def bgStep (shift : Nat) (mu sg d : Int) : Int × Int :=
  let s : Int := (2 ^ shift : Nat)
  (mu + d / s, sg + ((d.natAbs : Nat) - sg) / s)

/-- One column of a row against its background (R158 to R160). A column's first value makes its background, is no
foreground against it, and updates it (DEDUCED, log entry 23). -/
def seeCol (dark light : Option Thr) (warm : Bool) (shift sigInit : Nat) (c : Int) (bg : Option (Int × Int)) (x : Col) : ColSeen :=
  if x.flags.missing then { c := c, fg := 0, d := 0, mu := 0, bg := bg, col := x }
  else
    match bg with
    | none => { c := c, fg := 0, d := 0, mu := x.seg * 256, bg := some (bgStep shift (x.seg * 256 : Nat) (sigInit * 256 : Nat) 0), col := x }
    | some (mu, sg) =>
      let d := (x.seg * 256 : Nat) - mu
      let a : Int := (d.natAbs : Nat)
      let fg := if warm then 0 else if d < 0 then foreground dark sg a else foreground light sg a
      { c := c, fg := fg, d := d, mu := mu, bg := some (if fg = 0 then bgStep shift mu sg d else (mu, sg)), col := x }

/-- The maximal runs of weak pixels (R161). -/
def runsOf : List ColSeen → List (Int × Int)
  | [] => []
  | p :: t =>
    let r := runsOf t
    if p.fg = 0 then r
    else
      match r with
      | (a, b) :: u => if a = p.c + 1 then (p.c, b) :: u else (p.c, p.c) :: r
      | [] => [(p.c, p.c)]

/-! ### Components (R161 to R164, R171) -/

/-- Of two components the survivor first (R171). -/
def elder (x y : Comp) : Comp × Comp :=
  if x.firstK < y.firstK ∨ (x.firstK = y.firstK ∧ x.id ≤ y.id) then (x, y) else (y, x)

/-- A row being labelled: open components, the runs of the row before and of this row, unions made, the next id,
and components closed by force. -/
structure Labelling where
  comps  : List Comp
  prev   : List Run
  cur    : List Run := []
  unions : List (Nat × Nat) := []
  next   : Nat
  forced : List Comp := []
  deriving DecidableEq, Repr

/-- The id of a run replaced. -/
def renameRun (v s : Nat) (r : Run) : Run := if r.id = some v then { r with id := some s } else r

/-- Two components united; the answer names the survivor (R161, R171). -/
def Labelling.unite (l : Labelling) (x y : Nat) : Labelling × Nat :=
  if x = y then (l, x)
  else
    match l.comps.find? (fun c => c.id == x), l.comps.find? (fun c => c.id == y) with
    | some cx, some cy =>
      let e := elder cx cy
      let c : Comp := { e.1 with acc := addAcc e.1.acc e.2.acc, strong := e.1.strong || e.2.strong, cont := e.1.cont || e.2.cont,
                                 trunc := e.1.trunc || e.2.trunc, edges := (e.1.edges ++ e.2.edges).eraseDups }
      ({ l with comps := (l.comps.filter (fun z => z.id != e.2.id)).map (fun z => if z.id = c.id then c else z),
                prev := l.prev.map (renameRun e.2.id c.id), cur := l.cur.map (renameRun e.2.id c.id),
                unions := l.unions ++ [(c.id, e.2.id)] }, c.id)
    | _, _ => (l, x)

/-- The 1,024 open components of smallest area, on a tie the lower id, are closed by force when all 65,536 are
open; their runs in this row start new components (R164). -/
def Labelling.force (l : Labelling) (k : Int) : Labelling :=
  if l.comps.length < 65536 then l
  else
    let area (c : Comp) : Nat := match c.acc with
      | some a => a.n
      | none => 0
    let order := orderBy (fun a b => decide (area a < area b ∨ (area a = area b ∧ a.id < b.id))) l.comps
    let out := order.take 1024
    let gone (i : Option Nat) : Bool := out.any (fun c => i == some c.id)
    let l := { l with comps := l.comps.filter (fun c => ! gone (some c.id)), forced := l.forced ++ out,
                      prev := l.prev.map (fun (r : Run) => if gone r.id then ({ r with id := none } : Run) else r) }
    l.cur.foldl (fun (l : Labelling) (r : Run) =>
      if gone r.id then
        { l with comps := l.comps ++ [{ id := l.next, firstK := k, trunc := true }], next := l.next + 1,
                 cur := l.cur.map (fun x => if x = r then { x with id := some l.next } else x) }
      else l) l

/-- One run of row `k` labelled (R161, R164). -/
def Labelling.run (k : Int) (l : Labelling) (r : Int × Int) : Labelling :=
  let near := l.prev.filter (fun p => decide (p.a ≤ r.2 + 1 ∧ r.1 ≤ p.b + 1))
  match near.filterMap (·.id) with
  | [] =>
    let l := l.force k
    let c : Comp := { id := l.next, firstK := k, trunc := near.any (fun p => p.id.isNone) }
    { l with comps := l.comps ++ [c], next := l.next + 1, cur := l.cur ++ [⟨r.1, r.2, some c.id⟩] }
  | i :: t =>
    let u := t.foldl (fun (x : Labelling × Nat) j =>
      let j' := (x.1.unions.foldl (fun j e => if e.2 = j then e.1 else j) j)
      x.1.unite x.2 j') (l, i)
    { u.1 with cur := u.1.cur ++ [⟨r.1, r.2, some u.2⟩] }

/-- A component changed by its id. -/
def onComp (l : List Comp) (i : Option Nat) (f : Comp → Comp) : List Comp :=
  l.map (fun c => if i = some c.id then f c else c)

/-- EDGE_MISSING set in a component. -/
def Comp.nearMissing (c : Comp) : Comp := { c with acc := c.acc.map (fun a => { a with edgeMissing := true }) }

/-- The pixels of a run accumulated (R163, R178). -/
def accumulate (k : Int) (seen : List ColSeen) (l : List Comp) (r : Run) : List Comp :=
  let px := seen.filter (fun p => decide (r.a ≤ p.c ∧ p.c ≤ r.b))
  let acc := px.foldl (fun a p =>
    addAcc a (some (Acc.one k { c := p.c, v := p.col.seg, d := p.d, mu := p.mu, strong := p.fg == 2, flags := p.col.flags }))) none
  let strong := px.any (fun p => p.fg == 2)
  onComp l r.id (fun c => { c with acc := addAcc c.acc acc, strong := c.strong || strong })

/-! ### Foreground bits (R166) -/

/-- The slices that a stream's span meets. -/
def Dev.coverOf (d : Dev) (s : Nat) : List Nat :=
  let xs := d.val (F.STC_CAMs_XS s) % 2 ^ 18
  let xe := d.val (F.STC_CAMs_XE s) % 2 ^ 18
  d.slices.filter (fun i => decide (d.sliceStart i ≤ xe ∧ xs < d.sliceStart i + d.val (F.STC_SLICEs_WIDTH i)))

/-- A slice reports a row; the bits of the streams whose slices have all reported it become due (R166). -/
def Dev.fgReport (d : Dev) (r : FgRow) : Dev :=
  let rows := d.seg.fgRows ++ [r]
  let of (i : Nat) : Option FgRow := rows.find? (fun x => x.k == r.k && x.slice == i)
  let bits := d.cams.filterMap (fun s =>
    let cov := d.coverOf s
    if ! cov.contains r.slice ∨ ! cov.all (fun i => (of i).isSome) then none
    else
      let xs : Int := (d.val (F.STC_CAMs_XS s) % 2 ^ 18 : Nat)
      let xe : Int := (d.val (F.STC_CAMs_XE s) % 2 ^ 18 : Nat)
      let bit := cov.any (fun i => match of i with
        | some x => x.all || x.weak.any (fun w => decide (w.1 ≤ xe ∧ xs ≤ w.2))
        | none => false)
      some (r.k, s, bit))
  let whole := d.slices.all (fun i => (of i).isSome)
  let rows := if whole then rows.filter (fun x => x.k != r.k) else rows
  { d with seg := { d.seg with fgRows := rows, fgBits := d.seg.fgBits ++ bits } }

/-! ### Reorder and emission (R176, R177) -/

/-- The order key of records (R176). -/
def Rec.before (a b : Rec) : Bool :=
  decide (a.emit < b.emit) || (a.emit == b.emit && (decide (a.along < b.along) || (a.along == b.along &&
    (decide (a.col < b.col) || (a.col == b.col && decide (a.kind < b.kind))))))

/-- The emission rows below which a group of the merger can still produce a record (R176). -/
def Dev.groupBound (d : Dev) (g : Group) : Option Int :=
  let ps := d.seg.pieces.filter (fun p => g.members.any (fun m => m.id == p.id))
  match ps with
  | [] => none
  | p :: t =>
    let e := t.foldl (fun e p => max e p.emit) p.emit
    let gaps := g.members.filter (fun m => m.alive && ! ps.any (fun p => p.id == m.id))
    some (gaps.foldl (fun e m => match m.remote with
      | none => max e ((d.sliceDone m.slice).getD e + 1)
      | some _ => e) e)

/-- The old placement of a slice move can still produce emission row `e`: it ends with row P, and reports drained
(R174, R176). -/
def Dev.oldOpen (d : Dev) (e : Int) : Bool :=
  match d.seg.mig with
  | some g => ! g.stream && ! g.drained && decide (g.p ≤ e)
  | none => false

/-- A union at or below emission row `e` can still bring a cancel: a join that has not been made, or a neighbour's id
whose first row is not known yet (R171, R176). -/
def Dev.cancelOpen (d : Dev) (e : Int) : Bool :=
  d.seg.joins.any (fun j => decide (j.row ≤ e)) || d.seg.groups.any (fun g => g.members.any (fun m =>
    m.remote == some .chd && m.alive && ! m.told && d.abuts .chd && (match m.met with
      | some r => decide (r ≤ e)
      | none => false)))

/-- No source can produce a key below a record of emission row `e` any more (R176). -/
def Dev.released (d : Dev) (e : Int) : Bool :=
  d.slices.all (fun s => reached e (d.sliceDone s)) && ! d.oldOpen e && ! d.cancelOpen e
    && (! d.abuts .chu || reached e d.seg.lo.upTo || reached e d.seg.lo.late)
    && (! d.abuts .chd || reached e d.seg.hi.upTo || reached e d.seg.hi.late)
    && d.seg.groups.all (fun g => match d.groupBound g with
      | some b => decide (e < b)
      | none => true)

/-- A record enters the emit buffer, or is dropped when it is full (R177). -/
def Dev.toBuffer (d : Dev) (r : Rec) : Dev :=
  if 4096 ≤ d.seg.buffer.length then (d.raise F.SEG_FLAG_FIX_DROP).inc F.SEG_U_FIX_DROP_CNT
  else { d with seg := { d.seg with buffer := d.seg.buffer ++ [r] } }

/-- The lowest key leaves the reorder stage; out of order where its condition is not met (R176). -/
def Dev.releaseHead (d : Dev) : Dev :=
  match d.seg.stage with
  | [] => d
  | r :: t =>
    let ok := d.released r.emit
    let d := ({ d with seg := { d.seg with stage := t } }).toBuffer r
    if ok then d else (d.raise F.SEG_FLAG_ORDER_BREAK).inc F.SEG_U_ORDER_BREAK_CNT

/-- A record enters the reorder stage; a full stage releases its lowest key first (R176). -/
def Dev.hold (d : Dev) (r : Rec) : Dev :=
  let d := if 1024 ≤ d.seg.stage.length then d.releaseHead else d
  { d with seg := { d.seg with stage := insertBy Rec.before r d.seg.stage } }

/-- An id is withdrawn in favour of `s` at row `e`: a cancel record when a segment record has gone out under it
(R171, R177). -/
def Dev.withdraw (d : Dev) (v s : Nat) (e : Int) : Dev :=
  match d.seg.outs.find? (fun o => o.id == v) with
  | none => d
  | some o =>
    let d := { d with seg := { d.seg with outs := d.seg.outs.filter (fun o => o.id != v) } }
    d.hold { emit := e, along := o.firstK * d.gridPitch, col := o.col, kind := 0, queues := o.queues, bytes := d.cancelBytes e o s }

/-- A piece or a merged set becomes a record under id `i` (R162, R167, R171, R177 to R183). -/
def Dev.emitRecord (d : Dev) (i : Nat) (a : Acc) (e : Int) (cut cont trunc edge hand strong : Bool) : Dev :=
  if ! strong then d
  else
    let base := b2n (cut || cont) + 2 * b2n hand + 4 * b2n edge + 64 * b2n trunc + a.rowFlags
    let f := d.draw
    let feat := a.features base f.1
    let d := f.2
    let leaf := d.classify e feat
    let d := if leaf.err then (d.raise F.SEG_FLAG_TREE_ERR).inc F.SEG_U_TREE_ERR_CNT else d
    let d := if edge ∨ hand then d.inc F.SEG_U_SEAM_CNT else d
    let col := d.val F.STC_COL_BASE + a.cFirst.toNat
    let rows := (a.kLast - a.kFirst + 1).toNat
    let o : SegOut := match d.seg.outs.find? (fun o => o.id == i) with
      | some o => { o with rows := o.rows + rows, queues := leaf.queues }
      | none => { id := i, firstK := a.kFirst, col := col, rows := rows, queues := leaf.queues }
    let rest := d.seg.outs.filter (fun o => o.id != i)
    let bytes := d.fixBytes cut base i a feat leaf
    let d := { d with seg := { d.seg with outs := if cut then rest ++ [o] else rest } }
    d.hold { emit := e, along := a.kFirst * d.gridPitch, col := col, kind := if cut then 1 else 2, queues := leaf.queues, bytes := bytes }

/-! ### Parts and groups (R168, R172) -/

/-- The group of an id. -/
def Dev.groupOf (d : Dev) (i : Nat) : Option Group := d.seg.groups.find? (fun g => g.members.any (fun m => m.id == i))

/-- The id that survives in a group: the lower first row, on a tie the lower id (R171). -/
def Group.survivor (g : Group) : Nat :=
  match g.members with
  | [] => 0
  | m :: t => (t.foldl (fun (a : Member) b => if b.firstK < a.firstK ∨ (b.firstK = a.firstK ∧ b.sid < a.sid) then b else a) m).sid

/-- The id under which records of component `i` go out. -/
def Dev.survivorOf (d : Dev) (i : Nat) : Nat :=
  match d.groupOf i with
  | some g => g.survivor
  | none => i

/-- A group with one member more, when the id has none. -/
def Dev.enrol (d : Dev) (m : Member) : Dev :=
  if (d.groupOf m.id).isSome then d
  else { d with seg := { d.seg with groups := d.seg.groups ++ [{ members := [m] }] } }

/-- A member changed by its id. -/
def Dev.onMember (d : Dev) (i : Nat) (f : Member → Member) : Dev :=
  { d with seg := { d.seg with groups := d.seg.groups.map (fun g =>
      { g with members := g.members.map (fun m => if m.id = i then f m else m) }) } }

def Dev.addJoin (d : Dev) (j : Join) : Dev :=
  if d.seg.joins.contains j then d else { d with seg := { d.seg with joins := d.seg.joins ++ [j] } }

/-- Two contacts from the two sides of one edge are connected under R161 (R168). -/
def Contact.meets (x y : Contact) : Bool :=
  x.edge == y.edge && x.far != y.far && x.id != y.id &&
    (match x.edge with
     | .handOver =>
       let o := if x.far then y else x
       let n := if x.far then x else y
       decide (n.k = o.k + 1 ∧ o.a ≤ n.b + 1 ∧ n.a ≤ o.b + 1)
     | _ => decide (x.k ≤ y.k + 1 ∧ y.k ≤ x.k + 1))

/-- A contact reaches the merger: every contact of the other side that it is connected to gives a join (R168). -/
def Dev.addContact (d : Dev) (c : Contact) : Dev :=
  let kind := match c.edge with
    | .handOver => 2
    | _ => 1
  let d' := (d.seg.contacts.filter (fun x => x.meets c)).foldl (fun (d : Dev) x =>
    d.addJoin { x := x.id, y := c.id, row := max x.k c.k, kind := kind }) d
  { d' with seg := { d'.seg with contacts := d'.seg.contacts ++ [c] } }

/-- The components that count, when a record was or was not made of them (R162). -/
def Dev.countComp (d : Dev) (s : Nat) (strong cut : Bool) : Dev :=
  if cut then d else if strong then d.inc (F.SEG_Ss_COMP_CNT s) else d.inc (F.SEG_Ss_WEAK_CNT s)

/-- A piece emitted alone. -/
def Dev.emitPiece (d : Dev) (p : Piece) : Dev :=
  (d.countComp p.slice p.strong p.cut).emitRecord p.id p.acc p.emit p.cut p.cont p.trunc false false p.strong

/-- A finished piece: emitted at once, or handed to the seam merger when it is a part; a full merger emits it
alone with TRUNCATED (R162, R168, R172). -/
def Dev.addPiece (d : Dev) (p : Piece) : Dev :=
  if (d.groupOf p.id).isNone then d.emitPiece p
  else
    let d := d.onMember p.id (fun m => { m with alive := p.cut, strong := m.strong || p.strong, cont := m.cont || p.cont })
    if 16384 ≤ d.seg.pieces.length then
      let d := (d.raise F.SEG_FLAG_SEAM_OVF).inc F.SEG_U_SEAM_OVF_CNT
      d.emitPiece { p with trunc := true }
    else { d with seg := { d.seg with pieces := d.seg.pieces ++ [p] } }

/-! ### One row of a slice (R158 to R168) -/

/-- MAX_ROWS (R167). -/
def Dev.maxRows (d : Dev) : Int :=
  let t := d.val F.SEG_CFG_MAX_TILES
  ((if t = 0 then 256 else t) * 4096 : Nat)

/-- Row `k` is a segment boundary (R167). -/
def Dev.boundaryRow (d : Dev) (k : Int) : Bool :=
  let k0 := d.vali F.STC_K0
  decide (k0 < k) && (k - k0) % d.maxRows == 0

/-- The last row below `k` at which a piece of any unit can begin that was cut before: a boundary or row k0 (R167). -/
def Dev.boundaryBelow (d : Dev) (k : Int) : Int :=
  let k0 := d.vali F.STC_K0
  k0 + (k - 1 - k0) / d.maxRows * d.maxRows

/-- The edges that a run of slice `s` touches: the edge, whether the slice is its far side, and its column; and
whether it lies at a unit edge without an abutting neighbour (R168, R170). -/
def Dev.touches (d : Dev) (s : Nat) (hand : Option Bool) (r : Run) : List (Edge × Bool) × Bool :=
  let x0 : Int := (d.sliceStart s : Nat)
  let x1 : Int := x0 + d.val (F.STC_SLICEs_WIDTH s) - 1
  let w : Int := (d.chartWidth : Nat)
  let lo := if r.a = 0 then (if d.abuts .chu then [(Edge.unitLo, true)] else [])
    else if r.a = x0 then [(Edge.col s, true)] else []
  let hi := if r.b = w - 1 then (if d.abuts .chd then [(Edge.unitHi, false)] else [])
    else if r.b = x1 then [(Edge.col (s + 1), false)] else []
  let h := match hand with
    | some far => [(Edge.handOver, far)]
    | none => []
  (lo ++ hi ++ h, (r.a == 0 && ! d.abuts .chu) || (r.b == w - 1 && ! d.abuts .chd))

/-- A component's piece. DEDUCED, log entry 66. -/
def Comp.piece (c : Comp) (s : Nat) (old : Bool) (a : Acc) (e : Int) (cut trunc : Bool) : Piece :=
  { id := c.id, slice := s, old := old, acc := a, emit := e, cut := cut, strong := c.strong, cont := c.cont,
    trunc := c.trunc || trunc, edges := c.edges }

/-- Pieces handed on in ascending id order of their components. -/
def Dev.addPieces (d : Dev) (s : Nat) (old : Bool) (e : Int) (cut trunc : Bool) (cs : List Comp) : Dev :=
  cs.foldl (fun (d : Dev) c => match c.acc with
    | some a => d.addPiece (c.piece s old a e cut trunc)
    | none => d.onMember c.id (fun m => { m with alive := cut })) d

/-- Row `row` labelled in placement `p` of slice `s`; `hand` tells a hand-over row: the old placement's last row
(`false`) or the target's first (`true`). The placement after it, and the block (R158 to R168). -/
def Dev.labelRow (d : Dev) (s : Nat) (p : Placement) (row : ChartRow) (old : Bool) (hand : Option Bool) : Dev × Placement :=
  let k := row.k
  let x0 := d.sliceStart s
  let w := d.val (F.STC_SLICEs_WIDTH s)
  let bg := if p.bg.isEmpty then List.replicate w none else p.bg
  let warm := decide (p.rows < d.val F.SEG_WARM_BG_WARM)
  let cols := (row.cols.drop x0).take w
  let see := seeCol (d.darkThr s) (d.lightThr s) warm (d.val F.SEG_CFG_BG_SHIFT) (d.val F.SEG_WARM_SIG_INIT)
  let seen := ((List.range w).zip (bg.zip cols)).map (fun e => see (((x0 + e.1 : Nat)) : Int) e.2.1 e.2.2)
  let runs := runsOf seen
  let miss := ((List.range row.cols.length).zip row.cols).filterMap (fun e => if e.2.flags.missing then some ((e.1 : Nat) : Int) else none)
  let nearMiss (ms : List Int) (a b : Int) : Bool := ms.any (fun m => decide (a - 1 ≤ m ∧ m ≤ b + 1))
  let base := (d.unitAddr * 2 ^ 50) + s * 2 ^ 46
  let comps := p.prev.foldl (fun l r => if nearMiss miss r.a r.b then onComp l r.id Comp.nearMissing else l) p.comps
  let l := runs.foldl (Labelling.run k) { comps := comps, prev := p.prev, next := base + (d.slice s).seq % 2 ^ 46 }
  let d := d.setSlice s { d.slice s with seq := (l.next - base) % 2 ^ 46 }
  -- unions (R171)
  let d := l.unions.foldl (fun (d : Dev) u =>
    if (d.groupOf u.2).isSome then
      let c := (l.comps.find? (fun c => c.id == u.1)).getD { id := u.1, firstK := k }
      let d := d.enrol { id := u.1, slice := s, old := old, firstK := c.firstK, strong := c.strong, cont := c.cont }
      (d.onMember u.2 (fun m => { m with alive := false })).addJoin { x := u.1, y := u.2, row := k, kind := 0 }
    else d.withdraw u.2 (d.survivorOf u.1) k) d
  -- components closed by force (R164)
  let d := if l.forced.isEmpty then d
    else ((d.raise (F.SEG_Ss_FLAG_TRUNC s)).bump (F.SEG_Ss_TRUNC_CNT s) l.forced.length).addPieces s old k false true l.forced
  -- segment boundary (R167)
  let live (c : Comp) : Bool := l.cur.any (fun r => r.id == some c.id)
  let cut := d.boundaryRow k
  let d := if cut then d.addPieces s old k true false (l.comps.filter (fun c => live c && c.acc.isSome)) else d
  let comps := if cut then l.comps.map (fun c => if live c && c.acc.isSome then { c with acc := none, cont := true } else c) else l.comps
  -- the pixels of this row
  let comps := l.cur.foldl (accumulate k seen) comps
  let comps := l.cur.foldl (fun cs r => if nearMiss (miss ++ p.prevMiss) r.a r.b then onComp cs r.id Comp.nearMissing else cs) comps
  -- edges (R168, R170)
  let r := l.cur.foldl (fun (x : Dev × List Comp) r =>
    let t := x.1.touches s hand r
    let cs := onComp x.2 r.id (fun c =>
      { c with edges := (c.edges ++ t.1.map (·.1)).eraseDups, trunc := c.trunc || p.truncK == some k,
               acc := c.acc.map (fun a => { a with chartEdge := a.chartEdge || t.2 }) })
    match r.id with
    | some i =>
      let c := (cs.find? (fun c => c.id == i)).getD { id := i, firstK := k }
      let d := if t.1.isEmpty then x.1
        else x.1.enrol { id := i, slice := s, old := old, firstK := c.firstK, strong := c.strong, cont := c.cont }
      (t.1.foldl (fun (d : Dev) e =>
        let far := e.2
        let a := match e.1 with
          | .handOver => r.a
          | _ => if far then r.a else r.b
        let b := match e.1 with
          | .handOver => r.b
          | _ => if far then r.a else r.b
        d.addContact { edge := e.1, far := far, k := k, a := a, b := b, id := i }) d, cs)
    | none => (x.1, cs)) (d, comps)
  let d := r.1
  -- components without a run in this row close (R162)
  let d := d.addPieces s old k false false (r.2.filter (fun c => ! live c))
  let comps := r.2.filter live
  let d := comps.foldl (fun (d : Dev) c => d.onMember c.id (fun m => { m with strong := m.strong || c.strong })) d
  let p := { p with bg := seen.map (·.bg), rows := p.rows + 1, prev := l.cur, prevMiss := miss, comps := comps, doneK := some k,
                    truncK := if p.truncK = some k then none else p.truncK }
  let d := d.mark (F.SEG_Ss_STAT_WARM s) (decide (p.rows < d.val F.SEG_WARM_BG_WARM))
  let d := d.put (F.SEG_Ss_OPEN s) comps.length
  (d.fgReport { k := k, slice := s, all := warm, weak := runs }, p)

/-- Rows skipped behind the last one done are done as well (R165). -/
def Placement.passSkips : Nat → Placement → Placement
  | 0, p => p
  | n + 1, p =>
    match p.doneK with
    | some k => if p.skips.contains (k + 1) then Placement.passSkips n { p with doneK := some (k + 1), skips := p.skips.filter (· != k + 1) } else p
    | none => p

/-- FIFO of a slice's STAT (R165). -/
def Dev.sliceShow (d : Dev) (s : Nat) : Dev := d.put (F.SEG_Ss_STAT_FIFO s) (d.slice s).waits

/-- The ROW hand-over of a slice's thresholds (R159). -/
def Dev.rowHandOver (d : Dev) (s : Nat) : Dev :=
  let d := d.setReg (R.SEG_Ss_DARK_ACT s) (d.reg (R.SEG_Ss_DARK_SH s))
  let d := d.setReg (R.SEG_Ss_LIGHT_ACT s) (d.reg (R.SEG_Ss_LIGHT_SH s))
  d.mark (F.SEG_Ss_STAT_SHADOW_PEND s) false

/-- The next waiting row of a placement is labelled. -/
def Dev.labelNext (d : Dev) (s : Nat) (target : Bool) : Dev :=
  let x := d.slice s
  let p := if target then x.tgt.getD {} else x.cur
  match p.fifo with
  | [] => d
  | row :: t =>
    let m := d.sliceMig s
    let isNew : Bool := match m with
      | some g => target || g.drained
      | none => false
    let hand : Option Bool := match m with
      | some g => if isNew ∧ row.k = g.p then some true else none
      | none => none
    let r := (d.rowHandOver s).labelRow s { p with fifo := t } row (! isNew && m.isSome) hand
    let p' := Placement.passSkips r.2.skips.length r.2
    let x := r.1.slice s
    (r.1.setSlice s (if target then { x with tgt := some p' } else { x with cur := p' })).sliceShow s

/-! ### Slice moves: the end of the old placement's rows (R174) -/

/-- A component whose run [a, b] lies in the old placement's last row becomes a migration part (R174 step 3). -/
def Dev.oldPart (d : Dev) (s : Nat) (k : Int) (r : Run) : Dev :=
  let x := d.slice s
  match r.id.bind (fun i => x.cur.comps.find? (fun c => c.id == i)) with
  | none => d
  | some c =>
    let d := d.enrol { id := c.id, slice := s, old := true, firstK := c.firstK, strong := c.strong, cont := c.cont }
    let cs := onComp x.cur.comps (some c.id) (fun c => { c with edges := (c.edges ++ [Edge.handOver]).eraseDups })
    (d.setSlice s { x with cur := { x.cur with comps := cs } }).addContact
      { edge := .handOver, far := false, k := k, a := r.a, b := r.b, id := c.id }

/-- Once the old placement has ended row P − 1, its components with a run there are migration parts of emission
row P, and μ and σ go to the target (R174 step 3). -/
def Dev.handOver (d : Dev) (s : Nat) : Dev :=
  match d.sliceMig s with
  | none => d
  | some g =>
    if g.copied ∨ ! reached (g.p - 1) (d.slice s).cur.doneK then d
    else
      let d := (d.slice s).cur.prev.foldl (fun (d : Dev) r => d.oldPart s (g.p - 1) r) d
      let cs := (d.slice s).cur.comps
      let d := d.addPieces s true g.p (d.boundaryRow g.p) false cs
      let d := cs.foldl (fun (d : Dev) c => d.onMember c.id (fun m => { m with alive := false })) d
      let x := d.slice s
      let t := x.tgt.getD {}
      let d := d.setSlice s { x with cur := { x.cur with comps := [], prev := [] }, tgt := some { t with bg := x.cur.bg, rows := x.cur.rows } }
      { d with seg := { d.seg with mig := some { g with copied := true } } }

/-! ### Times (R151) -/

/-- The times of rows that no record can name any more are forgotten. While the far-side neighbour abuts, its sums may
begin as early as the last boundary (R26, R170). -/
def Dev.pruneTimes (d : Dev) : Dev :=
  let own (p : Placement) : List Int := p.comps.filterMap (fun c => c.acc.map (·.kFirst))
  let open' := d.seg.slice.flatMap (fun e => own e.2.cur ++ (match e.2.tgt with
    | some t => own t
    | none => []))
  let need := open' ++ d.seg.pieces.map (fun p => p.acc.kFirst)
  let done := d.slices.filterMap d.sliceDone
  let all := need ++ done
  match all with
  | [] => d
  | k :: t =>
    let lo := t.foldl min k
    let lo := if d.abuts .chd then min lo (d.boundaryBelow lo) else lo
    { d with seg := { d.seg with times := d.seg.times.filter (fun x => decide (lo - 1 ≤ x.k)) } }

/-- Contacts that nothing can meet any more are forgotten (R168). -/
def Dev.pruneContacts (d : Dev) : Dev :=
  let done := d.slices.map (fun s => (d.sliceDone s).getD (-(2 ^ 62)))
  let lo := done.foldl min (2 ^ 62)
  let side (n : Neighbour) : Int := max (n.upTo.getD (-(2 ^ 62))) (n.late.getD (-(2 ^ 62)))
  let keep (c : Contact) : Bool := match c.edge with
    | .unitLo => decide (min lo (side d.seg.lo) ≤ c.k + 1)
    | .unitHi => decide (min lo (side d.seg.hi) ≤ c.k + 1)
    | _ => decide (lo ≤ c.k + 1)
  { d with seg := { d.seg with contacts := d.seg.contacts.filter keep } }

end Sys2Proof.Machine
end

