-- ==== Sys2Proof/Machine/Merge.lean ====
section
/-! DEFINITION. The seam merger, moves to and from a free pipeline, the record emitter, and the commands of
segmentation (R168 to R177, R181, R184). -/
namespace Sys2Proof.Machine

/-! ### Uniting (R168, R169, R171) -/

/-- The finished pieces of a group that wait in the merger. -/
def Dev.piecesOf (d : Dev) (g : Group) : List Piece := d.seg.pieces.filter (fun p => g.members.any (fun m => m.id == p.id))

/-- A join waits while a piece cut at an earlier row is still to be emitted: the union came after it (R167). -/
def Dev.joinWaits (d : Dev) (j : Join) : Bool :=
  [j.x, j.y].any (fun i => match d.groupOf i with
    | some g => (d.piecesOf g).any (fun p => p.cut && decide (p.emit < j.row))
    | none => false)

/-- Members that one slice, or one slice across a hand-over row, already holds together take one root. -/
def sameRoot (kind : Nat) (rx ry : Nat) (m : Member) : Member :=
  if kind ≠ 1 ∧ m.root = ry then { m with root := rx } else m

/-- The row at which a neighbour's id came to be united with another id, where it is the first such row. -/
def Member.meet (row : Int) (m : Member) : Member :=
  if m.remote.isSome ∧ m.met.isNone then { m with met := some row } else m

/-- A group that the operator-side neighbour knows: its sums go there (R170). -/
def Dev.goesAway (d : Dev) (g : Group) : Bool := d.abuts .chu && g.members.any (fun m => m.remote == some .chu)

/-- The ids of a group under which the operator-side neighbour knows it: this unit's contacts at that edge. -/
def Dev.knownIds (d : Dev) (g : Group) : List Nat :=
  let ids := (g.members.filter (fun m => m.remote != some .chu &&
    d.seg.contacts.any (fun c => c.edge == Edge.unitLo && c.far && c.id == m.id))).map (·.id)
  if ids.isEmpty then [g.survivor] else ids

/-- A group's set as it travels to the operator-side neighbour: the id its contact went under, then 15 words of
exact sums (R170, R310). The words' places are the model's (DESIGN CHOICE, log entry 24). -/
def packSet (id sid : Nat) (firstK : Int) (a : Acc) (e : Int) (cut strong cont trunc seam hand : Bool) : List (BitVec 64) :=
  let rk (k : Int) : Int := k - a.kFirst
  let c0 := a.cFirst
  let k0 := a.kFirst
  let n : Int := a.n
  let sk := a.sk - n * k0
  let sc := a.sc - n * c0
  let skk := a.skk - 2 * k0 * a.sk + n * k0 * k0
  let scc := a.scc - 2 * c0 * a.sc + n * c0 * c0
  let skc := a.skc - k0 * a.sc - c0 * a.sk + n * k0 * c0
  let flags := b2n a.flags.stale + 2 * b2n a.flags.ovsp + 4 * b2n a.flags.poison + 8 * b2n a.flags.calRamp
    + 16 * b2n a.edgeMissing + 32 * b2n a.chartEdge + 64 * b2n cut + 128 * b2n strong + 256 * b2n cont + 512 * b2n trunc
    + 1024 * b2n seam + 2048 * b2n hand
  let w (v : Int) : BitVec 64 := BitVec.ofInt 64 v
  [ w id, w sid, w firstK, w ((k0 - firstK) % 2 ^ 32 + 2 ^ 32 * a.minV + 2 ^ 48 * a.maxV),
    w (rk a.kLast % 2 ^ 24 + 2 ^ 24 * (rk e % 2 ^ 24) + 2 ^ 48 * flags), w (c0 % 2 ^ 32 + 2 ^ 32 * (a.cLast % 2 ^ 32)),
    w (a.n % 2 ^ 40 + 2 ^ 40 * (a.strong % 2 ^ 24)), w (a.dark % 2 ^ 40 + 2 ^ 40 * (a.strong / 2 ^ 24)),
    w a.sumD, w a.absD, w a.sumMu, w sk, w sc, w skk, w scc, w skc ]

/-- A set as it arrives, in the order of `packSet`. -/
structure SetIn where
  id     : Nat
  sid    : Nat
  firstK : Int
  piece  : Piece
  deriving DecidableEq, Repr

/-- The words of a set read back; columns become local to this unit's Chart. -/
def unpackSet (colBase : Nat) (ws : List (BitVec 64)) : SetIn :=
  let u (i : Nat) : Nat := (ws.getD i 0).toNat
  let v (i : Nat) : Int := (ws.getD i 0).toInt
  let firstK := v 2
  let k0 := firstK + (u 3 % 2 ^ 32 : Nat)
  let c0 : Int := (u 5 % 2 ^ 32 : Nat) - colBase
  let fl := u 4 / 2 ^ 48
  let n : Nat := u 6 % 2 ^ 40
  let dark : Nat := u 7 % 2 ^ 40
  let ni : Int := (n : Nat)
  let sk := v 11 + ni * k0
  let sc := v 12 + ni * c0
  let acc : Acc :=
    { kFirst := k0, kLast := k0 + (u 4 % 2 ^ 24 : Nat), cFirst := c0, cLast := (u 5 / 2 ^ 32 : Nat) - colBase, n := n,
      sumV := ((v 8 + v 10) / 256).toNat, minV := u 3 / 2 ^ 32 % 2 ^ 16, maxV := u 3 / 2 ^ 48, sumD := v 8, absD := u 9,
      dark := dark, light := n - dark, strong := u 6 / 2 ^ 40 + 2 ^ 24 * (u 7 / 2 ^ 40), sumMu := u 10, sk := sk, sc := sc,
      skk := v 13 + 2 * k0 * sk - ni * k0 * k0, scc := v 14 + 2 * c0 * sc - ni * c0 * c0,
      skc := v 15 + k0 * sc + c0 * sk - ni * k0 * c0,
      flags := { stale := bitOf fl 0, ovsp := bitOf fl 1, poison := bitOf fl 2, calRamp := bitOf fl 3 },
      edgeMissing := bitOf fl 4, chartEdge := bitOf fl 5 }
  { id := u 0, sid := u 1, firstK := firstK,
    piece := { id := u 0, slice := 0, acc := acc, emit := k0 + (u 4 / 2 ^ 24 % 2 ^ 24 : Nat), cut := bitOf fl 6,
               strong := bitOf fl 7, cont := bitOf fl 8, trunc := bitOf fl 9, edges := [Edge.unitHi],
               seam := bitOf fl 10, hand := bitOf fl 11 } }

/-- What has gone out of an id, as it travels to the operator-side neighbour that now answers for it: bit 63 of word 3
tells it from a set (R170, R171; log entry 24). -/
def packOut (o : SegOut) : List (BitVec 64) :=
  [BitVec.ofNat 64 o.id, BitVec.ofNat 64 o.id, BitVec.ofInt 64 o.firstK, BitVec.ofNat 64 (2 ^ 63 + o.rows % 2 ^ 32),
   BitVec.ofNat 64 o.col, BitVec.ofNat 64 o.queues.length, BitVec.ofNat 64 (o.queues.getD 0 0), BitVec.ofNat 64 (o.queues.getD 1 0)]
    ++ List.replicate 8 0

/-- The words of `packOut` read back. -/
def unpackOut (ws : List (BitVec 64)) : SegOut :=
  let u (i : Nat) : Nat := (ws.getD i 0).toNat
  { id := u 0, firstK := (ws.getD 2 0).toInt, rows := u 3 % 2 ^ 32, col := u 4, queues := [u 6, u 7].take (u 5) }

/-- Where an empty sum lies: at row `e`, on the first column of the unit. -/
def Dev.noSum (d : Dev) (e : Int) : Acc :=
  { kFirst := e, kLast := e, cFirst := (d.val F.STC_COL_BASE : Nat), cLast := (d.val F.STC_COL_BASE : Nat) }

/-- The operator-side neighbour learns at once under which id and first row a group that it shares stands here, by empty
sums of one row under the ids that it knows, and what has gone out of these ids (R170, R171). No sum of a piece has its
emission row as its first. DEDUCED, log entry 138. -/
def Dev.introduce (d : Dev) (g : Group) (row : Int) : Dev :=
  let own := g.members.filter (fun m => m.remote != some .chu)
  let s : Group := { g with members := own }
  let firstK := own.foldl (fun k m => if m.sid = s.survivor then min k m.firstK else k) row
  let outs := d.seg.outs.filter (fun o => own.any (fun m => m.id == o.id || m.sid == o.id))
  let sets := (d.knownIds g).map (fun i => packSet i s.survivor firstK (d.noSum row) row false false false false false false)
  { d with seg := { d.seg with toLo := d.seg.toLo ++ sets ++ outs.map packOut,
                               outs := d.seg.outs.filter (fun o => ! outs.contains o) } }

/-- Two ids united: the survivor keeps its id, and the other is withdrawn where a segment record has gone out under
it; a group that goes to the operator-side neighbour is made known there (R170, R171). -/
def Dev.applyJoin (d : Dev) (j : Join) : Dev :=
  let d := { d with seg := { d.seg with joins := d.seg.joins.erase j } }
  match d.groupOf j.x, d.groupOf j.y with
  | some gx, some gy =>
    let rootOf (g : Group) (i : Nat) : Nat := ((g.members.find? (fun m => m.id == i)).map (·.root)).getD i
    let rx := rootOf gx j.x
    let ry := rootOf gy j.y
    if gx = gy then
      let g := { gx with members := gx.members.map (sameRoot j.kind rx ry), edge := gx.edge || j.kind == 1, hand := gx.hand || j.kind == 2 }
      { d with seg := { d.seg with groups := d.seg.groups.map (fun h => if h = gx then g else h) } }
    else
      let g : Group := { members := (gx.members ++ gy.members).map (fun m => (sameRoot j.kind rx ry m).meet j.row),
                         edge := gx.edge || gy.edge || j.kind == 1, hand := gx.hand || gy.hand || j.kind == 2 }
      let d := { d with seg := { d.seg with groups := d.seg.groups.filter (fun h => h != gx && h != gy) ++ [g] } }
      let s := g.survivor
      let o := if gx.survivor = s then gy.survivor else gx.survivor
      let d := d.withdraw o s j.row
      if d.goesAway g then d.introduce g j.row else d
  | _, _ => d

/-- Every join that may be made, in ascending order of rows. -/
def Dev.applyJoins (d : Dev) : Dev :=
  (orderBy (fun a b => decide (a.row < b.row)) d.seg.joins).foldl (fun (d : Dev) j => if d.joinWaits j then d else d.applyJoin j) d

/-! ### Rounds (R168 to R170) -/

/-- The other side of an edge has gone as far as row `p.emit`, so that no contact of the piece is still to come. -/
def Dev.edgeDone (d : Dev) (p : Piece) (e : Edge) : Bool :=
  match e with
  | .col s => reached p.emit (d.sliceDone (if p.slice = s then s - 1 else s))
  | .unitLo => ! d.abuts .chu || reached p.emit d.seg.lo.upTo || reached p.emit d.seg.lo.late
  | .unitHi => ! d.abuts .chd || reached p.emit d.seg.hi.upTo || reached p.emit d.seg.hi.late
  | .handOver =>
    match d.sliceMig p.slice with
    | some g =>
      if p.old then
        (match (d.slice p.slice).tgt with
         | some t => reached g.p t.doneK
         | none => reached g.p (d.slice p.slice).cur.doneK)
      else g.copied
    | none => true

/-- A member whose pieces this unit waits for: its own, and the far-side neighbour's while that one abuts (R170). -/
def Dev.awaited (d : Dev) (m : Member) : Bool :=
  m.alive && (match m.remote with
    | none => true
    | some .chu => false
    | some .chd => d.abuts .chd)

/-- No join that could still touch the group up to row `e` is open. -/
def Dev.joinsClear (d : Dev) (g : Group) (e : Int) : Bool :=
  d.seg.joins.all (fun j => decide (e < j.row) || ! g.members.any (fun m => m.id == j.x || m.id == j.y))

/-- The pieces of a group that go out together now: those cut at the lowest boundary row, or all of them when every
member has closed; none while one is missing (R168). -/
def Dev.roundOf (d : Dev) (g : Group) : List Piece :=
  let ps := d.piecesOf g
  match (ps.filter (·.cut)).map (·.emit) with
  | e0 :: es =>
    let e := es.foldl min e0
    let rs := ps.filter (fun p => decide (p.emit ≤ e))
    let whole := g.members.all (fun m => ! d.awaited m || decide (e ≤ m.firstK) || rs.any (fun p => p.id == m.id))
    if whole && d.joinsClear g e && rs.all (fun p => p.edges.all (d.edgeDone p)) then rs else []
  | [] =>
    let e := ps.foldl (fun e p => max e p.emit) (-(2 ^ 62))
    if g.members.any d.awaited || ! d.joinsClear g e || ! ps.all (fun p => p.edges.all (d.edgeDone p)) then [] else ps

/-- A group that the operator-side neighbour knows hands its sum over and emits nothing (R170): the sum under one
of the ids the neighbour knows, and empty sums under the others. -/
def Dev.sendSet (d : Dev) (g : Group) (a : Acc) (firstK : Int) (e : Int) (cut strong cont trunc seam hand : Bool) : Dev :=
  let known := d.knownIds g
  let base : Int := (d.val F.STC_COL_BASE : Nat)
  let a := { a with cFirst := a.cFirst + base, cLast := a.cLast + base, sc := a.sc + a.n * base,
                    scc := a.scc + 2 * base * a.sc + a.n * base * base, skc := a.skc + base * a.sk }
  let none' : Acc := { kFirst := a.kFirst, kLast := a.kLast, cFirst := a.cFirst, cLast := a.cLast }
  let sets := ((List.range known.length).zip known).map (fun x =>
    packSet x.2 g.survivor firstK (if x.1 = 0 then a else none') e cut strong cont trunc seam hand)
  { d with seg := { d.seg with toLo := d.seg.toLo ++ sets } }

/-- A round goes out: the sums are added exactly, classified and become one record, or travel to the operator-side
neighbour (R168 to R172). DEDUCED, log entry 67. -/
def Dev.emitRound (d : Dev) (g : Group) (rs : List Piece) : Dev :=
  match rs.foldl (fun a p => addAcc a (some p.acc)) none with
  | none => d
  | some acc =>
    let e := rs.foldl (fun e p => max e p.emit) (-(2 ^ 62))
    let left := (d.piecesOf g).filter (fun p => ! rs.contains p)
    let cut := rs.any (·.cut) && (g.members.any d.awaited || ! left.isEmpty)
    let live := rs.filter (fun p => decide (0 < p.acc.n))
    let roots := (live.map (fun p => ((g.members.find? (fun m => m.id == p.id)).map (·.root)).getD p.id)).eraseDups
    let seam := decide (1 < roots.length) || live.any (·.seam)
    let hand := (g.hand && live.any (·.old) && live.any (fun p => ! p.old)) || live.any (·.hand)
    let strong := g.members.any (·.strong) || rs.any (·.strong)
    let cont := g.members.any (·.cont) || rs.any (·.cont)
    let trunc := rs.any (·.trunc)
    let lone := rs.any (fun p => (p.edges.contains .unitLo && ! d.abuts .chu) || (p.edges.contains .unitHi && ! d.abuts .chd))
    let acc := { acc with chartEdge := acc.chartEdge || lone }
    let firstK := g.members.foldl (fun k m => if m.sid = g.survivor then min k m.firstK else k) acc.kFirst
    let d := if d.goesAway g then d.sendSet g acc firstK e cut strong cont trunc seam hand
      else (d.countComp (d.sliceOf acc.cFirst.toNat) strong cut).emitRecord g.survivor acc e cut cont trunc seam hand strong
    let g' := { g with members := g.members.map (fun m => { m with strong := strong, cont := m.cont || cut }) }
    let ovsp := ! g.members.any d.awaited && left.isEmpty
    let groups := if ovsp then d.seg.groups.filter (· != g) else d.seg.groups.map (fun h => if h = g then g' else h)
    { d with seg := { d.seg with groups := groups, pieces := d.seg.pieces.filter (fun p => ! rs.contains p) } }

/-- A slice move is over once the old placement has drained and every migration part has been merged (R174). -/
def Dev.sliceMoveEnd (d : Dev) : Dev :=
  match d.seg.mig with
  | some g =>
    if g.stream ∨ ! g.drained ∨ ! reached g.p (d.slice g.src).cur.doneK ∨ d.seg.pieces.any (·.old)
        ∨ d.seg.joins.any (fun j => j.kind == 2) then d
    else
      let d := { d with seg := { d.seg with mig := none, contacts := d.seg.contacts.filter (fun c => c.edge != Edge.handOver) } }
      (d.mark F.SEG_STAT_MIG_ACTIVE false).raise F.SEG_FLAG_MIG_DONE
  | none => d

/-- Groups of nothing but neighbours' ids that no part of this unit can meet any more. -/
def Dev.pruneGroups (d : Dev) : Dev :=
  { d with seg := { d.seg with groups := d.seg.groups.filter (fun g =>
      g.members.any (fun m => m.remote.isNone) || ! (d.piecesOf g).isEmpty
        || d.seg.contacts.any (fun c => g.members.any (fun m => m.id == c.id))) } }

/-- SEAM_MERGE: unions are made, and one united set whose parts have all closed or been cut goes out (R168). -/
def Dev.seamMerge (d : Dev) : Dev :=
  let d := d.applyJoins
  let d := match d.seg.groups.findSome? (fun g => let r := d.roundOf g; if r.isEmpty then none else some (g, r)) with
    | some x => d.emitRound x.1 x.2
    | none => d
  d.sliceMoveEnd

/-- SEAM_MERGE (R168, R169, R171, R172). -/
def execSeamMerge (st : State) : Host.Outcome State Fault Refusal := onDev (fun d => d.seamMerge) st

/-! ### ROW_LABEL -/

/-- Sums that can no longer go to the operator-side neighbour go out here, unmerged, with CHART_EDGE (R170); at a
disable with TRUNCATED as well, under the emission row of all that is released then (R184). -/
def Dev.keepSums (d : Dev) (stop : Option Int) : Dev :=
  let sets := (d.seg.toLo.filter (fun ws => ! (ws.getD 3 0).getLsbD 63)).map (unpackSet (d.val F.STC_COL_BASE))
  let d := (d.seg.toLo.filter (fun ws => (ws.getD 3 0).getLsbD 63)).foldl (fun (d : Dev) ws =>
    { d with seg := { d.seg with outs := d.seg.outs ++ [unpackOut ws] } }) d
  (sets.filter (fun x => decide (0 < x.piece.acc.n))).foldl (fun (d : Dev) x =>
    let p := x.piece
    let e := stop.getD p.emit
    (d.countComp (d.sliceOf p.acc.cFirst.toNat) p.strong p.cut).emitRecord x.sid { p.acc with chartEdge := true } e p.cut p.cont
      (p.trunc || stop.isSome) p.seam p.hand p.strong) { d with seg := { d.seg with toLo := [] } }

/-- The neighbour's contacts for the rows labelled are awaited from now on, those that have come or were given up
apart (R170). -/
def Neighbour.await (n : Neighbour) (k : Int) (now : Nat) : Neighbour :=
  { n with rows := (n.rows ++ [(k, now)]).filter (fun r => ! reached r.1 n.upTo && ! reached r.1 n.late) }

/-- What is known of the neighbour on a side. -/
def Dev.neigh (d : Dev) : Side → Neighbour
  | .chu => d.seg.lo
  | .chd => d.seg.hi
def Dev.setNeigh (d : Dev) (p : Side) (n : Neighbour) : Dev :=
  match p with
  | .chu => { d with seg := { d.seg with lo := n } }
  | .chd => { d with seg := { d.seg with hi := n } }

/-- A SEAM frame of row `k` to a neighbour: ids with a pixel in the edge column, and toward the operator side as many of
the waiting sums as one frame takes (R309, R310). -/
def Dev.sendSeam (d : Dev) (p : Side) (k : Int) (ids : List Nat) : Dev :=
  let sets := match p with
    | .chu => d.seg.toLo.take 64
    | .chd => []
  let ws := [BitVec.ofInt 64 k, BitVec.ofNat 64 (ids.length + 65536 * sets.length)] ++ ids.map (BitVec.ofNat 64) ++ sets.flatten
  let d := { d with seg := { d.seg with toLo := d.seg.toLo.drop sets.length } }
  d.chainOut p (mkFrame 0x06 (d.segNo * 64 + (match p with
    | .chu => d.hop - 1
    | .chd => d.hop + 1)) d.hop ws)

/-- The frame of a labelled row toward a neighbour that abuts, whose contacts for the row are awaited from now on
(R170). -/
def Dev.seamFrame (d : Dev) (p : Side) (k : Int) : Dev :=
  if ! d.abuts p then (match p with
    | .chu => d.keepSums none
    | .chd => d)
  else
    let d := d.setNeigh p ((d.neigh p).await k d.now)
    let edge := match p with
      | .chu => Edge.unitLo
      | .chd => Edge.unitHi
    let ids := ((d.seg.contacts.filter (fun c => c.edge == edge && c.k == k && (c.far == (p == .chu)))).map (·.id)).eraseDups
    d.sendSeam p k (ids.filter (fun i => match d.groupOf i with
      | some g => g.members.any (fun m => m.id == i && m.remote.isNone)
      | none => true))

/-- The next waiting row of a placement is labelled, and its contacts go to the neighbours at the unit's edges (R161,
R170). -/
def Dev.labelSend (d : Dev) (s : Nat) (target : Bool) (k : Int) : Dev :=
  let d := (d.labelNext s target).handOver s
  let d := if s = 0 then d.seamFrame .chu k else d
  if d.slices.getLast? = some s then d.seamFrame .chd k else d

/-- The next waiting row of a slice: the old placement's first, the target's once μ and σ are copied (R165, R174). -/
def Dev.rowLabel (d : Dev) (s : Nat) : Dev :=
  let x := d.slice s
  let copied : Bool := match d.sliceMig s with
    | some g => g.copied
    | none => false
  let next : Option (Bool × ChartRow) := match x.cur.fifo.head?, x.tgt with
    | some r, _ => some (false, r)
    | none, some t => if copied then t.fifo.head?.map (fun r => (true, r)) else none
    | none, none => none
  match next with
  | none => d
  | some (tgt, row) =>
    (d.labelSend s tgt row.k).pruneTimes.pruneContacts.pruneGroups.sliceMoveEnd

/-- ROW_LABEL (R158 to R168, R170). -/
def execRowLabel (s : Fin 16) (st : State) : Host.Outcome State Fault Refusal := onDev (fun d => d.rowLabel s) st

/-! ### Neighbours (R170) -/

/-- A contact of the neighbour: its id has a run in the edge column at row `k`. -/
def Dev.farContact (d : Dev) (p : Side) (k : Int) (id : Nat) : Dev :=
  let d := d.enrol { id := id, slice := 0, firstK := k, remote := some p }
  match p with
  | .chu => d.addContact { edge := .unitLo, far := false, k := k, a := 0, b := 0, id := id }
  | .chd => d.addContact { edge := .unitHi, far := true, k := k, a := 0, b := 0, id := id }

/-- What the far-side neighbour tells of the first row of an id, and of the id it stands for: a survivor that changes is
withdrawn in favour of the new one with the row of their union, and ids that stand for one id there are united here too
(R171). -/
def Dev.farFirst (d : Dev) (id sid : Nat) (firstK : Int) : Dev :=
  let before := d.survivorOf id
  let d := d.onMember id (fun m => { m with firstK := min m.firstK firstK, sid := sid, told := true })
  let after := d.survivorOf id
  let row : Int := match (d.groupOf id).bind (fun g => (g.members.find? (fun m => m.id == id)).bind (·.met)) with
    | some r => r
    | none => firstK
  let d := if before = after then d else d.withdraw before after row
  let d := if after = sid then d else d.withdraw sid after row
  let same := (d.seg.groups.flatMap (·.members)).filter (fun m => m.remote == some .chd && m.sid == sid && m.id != id)
  same.foldl (fun (d : Dev) m =>
    if d.groupOf m.id = d.groupOf id then d else d.addJoin { x := m.id, y := id, row := max row (m.met.getD row), kind := 0 }) d

/-- A set of the far-side neighbour: a sum, or what has gone out of an id for which this unit answers from now on (R170,
R171). -/
def Dev.farSet (d : Dev) (p : Side) (ws : List (BitVec 64)) : Dev :=
  if p = .chu then d
  else if (ws.getD 3 0).getLsbD 63 then
    let o := unpackOut ws
    let d := { d with seg := { d.seg with outs := d.seg.outs.filter (fun (y : SegOut) => y.id != o.id) ++ [o] } }
    match (d.seg.groups.flatMap (·.members)).find? (fun m => m.sid == o.id && m.remote == some .chd) with
    | some m => d.farFirst m.id o.id o.firstK
    | none => d
  else
    let x := unpackSet (d.val F.STC_COL_BASE) ws
    if (d.groupOf x.id).isNone then d
    else
      let d := d.farFirst x.id x.sid x.firstK
      if x.piece.acc.kFirst = x.piece.emit then d else d.addPiece x.piece

/-- SEAM (R168, R170): a frame of an abutting neighbour; contacts of a row given up as late are discarded. -/
def Dev.seamIn (d : Dev) (p : Side) (f : ChainFrame) : Dev :=
  let r := d.chainIn p f 0x06 id
  let d := r.1
  if ! r.2 ∨ ! d.abuts p then d
  else
    let k := (f.words.getD 0 0).toInt
    let n := (f.words.getD 1 0).toNat % 65536
    let m := (f.words.getD 1 0).toNat / 65536 % 65536
    if reached k (d.neigh p).late then d
    else
      let d := ((f.words.drop 2).take n).foldl (fun (d : Dev) w => d.farContact p k w.toNat) d
      let d := (List.range m).foldl (fun (d : Dev) i => d.farSet p ((f.words.drop (2 + n + 16 * i)).take 16)) d
      let u := match (d.neigh p).upTo with
        | some u => max u k
        | none => k
      d.setNeigh p { d.neigh p with upTo := some u, rows := (d.neigh p).rows.filter (fun r => decide (u < r.1)) }

/-- SEAM (R168, R170). -/
def execSeam (side : Side) (f : ChainFrame) (st : State) : Host.Outcome State Fault Refusal :=
  onDev (fun d => d.seamIn side f) st

/-- SEAM_WAIT in ns; 0 acts as 1 (R170, R185). -/
def Dev.seamWait (d : Dev) : Nat := 1000 * max 1 (d.val F.SEG_SEAM_WAIT)

/-- SEAM_LATE (R170): the first labelled row whose contacts have not come from the neighbour within SEAM_WAIT of its
labelling is given up, and this unit's parts at that edge go out unmerged. -/
def Dev.seamLate (d : Dev) (p : Side) : Dev :=
  if ! d.abuts p then d
  else
    let n := d.neigh p
    match n.rows with
    | [] => d
    | (row, at') :: t =>
      let d := (d.reach (at' + d.seamWait)).setNeigh p { n with late := some row, rows := t }
      let stay (m : Member) : Bool := m.remote != some p || d.seg.pieces.any (fun x => x.id == m.id)
      let groups := d.seg.groups.map (fun g => { g with members := (g.members.filter stay).map (fun m =>
        if m.remote = some p then { m with alive := false } else m) })
      let gone := (d.seg.groups.flatMap (·.members)).filter (fun m => ! stay m)
      let d := { d with seg := { d.seg with
        groups := groups.filter (fun g => ! g.members.isEmpty)
        joins := d.seg.joins.filter (fun j => ! gone.any (fun m => m.id == j.x || m.id == j.y)) } }
      (d.raise F.SEG_FLAG_SEAM_LATE).inc F.SEG_U_SEAM_LATE_CNT

/-- SEAM_LATE (R170). -/
def execSeamLate (side : Side) (st : State) : Host.Outcome State Fault Refusal := onDev (fun d => d.seamLate side) st

/-! ### Moves (R173 to R175) -/

/-- The last row delivered to a slice. -/
def Dev.lastDelivered (d : Dev) (s : Nat) : Int :=
  let x := d.slice s
  let ks := x.cur.doneK.toList ++ x.cur.fifo.map (·.k) ++ x.cur.skips
  match ks with
  | k :: t => t.foldl max k
  | [] => d.stc.nextRow.getD (d.vali F.STC_K0) - 1

/-- A stream move begins (R173): the target takes the stream and is enabled. -/
def Dev.streamMove (d : Dev) (src tgt ctx lead : Nat) : Dev :=
  if 17 ≤ tgt ∨ ! d.ctxStopped tgt ctx then d.accessErr R.SEG_MIG_CTRL
  else
    let d := d.put (F.PLn_CTXm_CFG_STREAM tgt ctx) src
    let d := ((d.startIntake (F.PLn_CTXm_CFG_EN tgt ctx) (F.PLn_CTXm_STAT_IDLE tgt ctx)).1).ctxFresh tgt ctx
    let g : Mig := { stream := true, src := src, tgt := tgt, ctx := ctx, goAt := d.now, leadUs := lead }
    ({ d with seg := { d.seg with mig := some g, moved := none } }.mark F.SEG_STAT_MIG_ACTIVE true).mark F.SEG_STAT_MIG_DRAINED false

/-- What the merger already holds of a slice comes from its old placement. -/
def Dev.markOld (d : Dev) (s : Nat) : Dev :=
  { d with seg := { d.seg with
      pieces := d.seg.pieces.map (fun p => if p.slice = s ∧ ! p.edges.contains .unitHi then { p with old := true } else p) } }

/-- A slice move begins (R174). A LEAD of 0 acts as 1: rows held in the slice stay with the old placement
(DEDUCED, log entry 25). -/
def Dev.sliceMove (d : Dev) (s tgt lead : Nat) : Dev :=
  let p := d.lastDelivered s + max 1 lead
  let g : Mig := { stream := false, src := s, tgt := tgt, ctx := 0, goAt := d.now, p := p }
  let d := (d.setSlice s { d.slice s with tgt := some {} }).markOld s
  let d := ({ d with seg := { d.seg with mig := some g, moved := none } }.mark F.SEG_STAT_MIG_ACTIVE true).mark F.SEG_STAT_MIG_DRAINED false
  (d.puti F.SEG_MIG_P p).handOver s

/-- The old placement is given up: its open components are lost (R175). -/
def Dev.loseComps (d : Dev) (s : Nat) : Dev :=
  (d.slice s).cur.comps.foldl (fun (d : Dev) c => d.onMember c.id (fun m => { m with alive := false })) d

/-- The old placement's pieces that have not become records are discarded; those that hold a strong pixel are records
lost (R162, R175). MIG_TIMEOUT tells of the abort. -/
def Dev.loseOld (d : Dev) : Dev :=
  let gone := d.seg.pieces.filter (·.old)
  let d := { d with seg := { d.seg with pieces := d.seg.pieces.filter (fun p => ! p.old) } }
  (d.bump F.SEG_U_MIG_LOST_CNT (gone.filter (·.strong)).length).raise F.SEG_FLAG_MIG_TIMEOUT

/-- A forced move (R175): the old placement is aborted at once, and its waiting rows are replayed to the target. -/
def Dev.forcedMove (d : Dev) (s tgt : Nat) : Dev :=
  let x := d.slice s
  let p := match x.cur.doneK, x.cur.fifo.head? with
    | some k, _ => k + 1
    | none, some r => r.k
    | none, none => d.lastDelivered s + 1
  let d := ((d.loseComps s).markOld s).loseOld
  let d := { d with seg := { d.seg with moved := none } }
  let d := d.setSlice s { x with cur := { fifo := x.cur.fifo, skips := x.cur.skips, doneK := x.cur.doneK, truncK := some p } }
  let d := (d.puti F.SEG_MIG_P p).put (F.SEG_Ss_STAT_PL s) tgt
  let d := (d.put (F.SEG_Ss_OPEN s) 0).mark F.SEG_STAT_MIG_DRAINED false
  d.raise F.SEG_FLAG_MIG_DONE

/-- SEG_MIG_CTRL written (R173 to R175). A GO while a move is active is ignored (DEDUCED, log entry 25). -/
def Dev.migWrite (d : Dev) (v : Word) : Dev :=
  let d := d.setReg R.SEG_MIG_CTRL (withField v 0 1 0)
  let src := d.val F.SEG_MIG_CTRL_SRC
  let tgt := d.val F.SEG_MIG_CTRL_TGT
  let lead := d.val F.SEG_MIG_CTRL_LEAD
  if ! v.getLsbD 0 ∨ d.seg.mig.isSome then d
  else if d.on F.SEG_MIG_CTRL_KIND then d.streamMove src tgt (d.val F.SEG_MIG_CTRL_TGT_CTX) lead
  else if 17 ≤ tgt ∨ ! d.slices.contains src ∨ d.slices.any (fun s => d.val (F.SEG_Ss_STAT_PL s) == tgt) then d.accessErr R.SEG_MIG_CTRL
  else if d.on F.SEG_MIG_CTRL_FORCE then d.forcedMove src tgt
  else d.sliceMove src tgt lead

/-- STREAM_MOVE (R173): SEG_MIG_CTRL written with KIND 1. -/
def execStreamMove (v : Word) (st : State) : Host.Outcome State Fault Refusal := onDev (fun d => d.migWrite v) st

/-- SLICE_MOVE (R174): SEG_MIG_CTRL written with KIND 0. -/
def execSliceMove (v : Word) (st : State) : Host.Outcome State Fault Refusal := onDev (fun d => d.migWrite v) st

/-- FORCED_MOVE (R175): SEG_MIG_CTRL written with FORCE. -/
def execForcedMove (v : Word) (st : State) : Host.Outcome State Fault Refusal := onDev (fun d => d.migWrite v) st

/-- The target takes the slice over (R174 step 5). DEDUCED, log entry 68. -/
def Dev.takeOver (d : Dev) (g : Mig) : Dev :=
  let x := d.slice g.src
  let t := x.tgt.getD {}
  let d := d.setSlice g.src { x with cur := { t with doneK := t.doneK.or x.cur.doneK }, tgt := none }
  ({ d with seg := { d.seg with mig := some { g with drained := true } } }.put (F.SEG_Ss_STAT_PL g.src) g.tgt).sliceShow g.src

/-- MIG_DRAINED (R174 step 5). -/
def execMigDrained (st : State) : Host.Outcome State Fault Refusal :=
  onDev (fun d =>
    match d.seg.mig with
    | some g => if g.stream ∨ ! g.copied ∨ g.drained then d
      else ((d.takeOver g).mark F.SEG_STAT_MIG_DRAINED true).sliceMoveEnd
    | none => d) st

/-- MIG_TIMEOUT (R175): an old placement that has not drained in time is aborted. -/
def Dev.migAbort (d : Dev) (g : Mig) : Dev :=
  let s := g.src
  let d := d.reach (g.goAt + 1000000 * max 1 (d.val F.SEG_MIG_TIMEOUT % 65536))
  let x := d.slice s
  let d := x.cur.fifo.foldl (fun (d : Dev) r => d.fgReport { k := r.k, slice := s, all := true, weak := [] }) d
  let d := d.loseComps s
  let last := ((x.cur.fifo.map (·.k)) ++ x.cur.doneK.toList).foldl max (g.p - 1)
  let t := x.tgt.getD {}
  let t := { t with doneK := t.doneK.or (some last), truncK := some g.p,
                    comps := t.comps.map (fun c => if c.edges.contains .handOver then { c with trunc := true } else c) }
  let d := d.setSlice s { x with cur := { x.cur with fifo := [], comps := [], prev := [] }, tgt := some t }
  let d := d.loseOld
  let keep := d.seg.pieces.map (fun p => if p.edges.contains .handOver then { p with trunc := true } else p)
  let d := { d with seg := { d.seg with pieces := keep } }
  let d := d.takeOver { g with copied := true }
  let d := { d with seg := { d.seg with mig := none, joins := d.seg.joins.filter (fun j => j.kind != 2) } }
  d.mark F.SEG_STAT_MIG_ACTIVE false

/-- MIG_TIMEOUT (R175). -/
def execMigTimeout (st : State) : Host.Outcome State Fault Refusal :=
  onDev (fun d =>
    match d.seg.mig with
    | some g => if g.stream ∨ g.drained then d else d.migAbort g
    | none => d) st

/-! ### Reorder stage and emitter (R176, R177) -/

/-- REORDER_RELEASE (R176). -/
def execReorderRelease (st : State) : Host.Outcome State Fault Refusal :=
  onDev (fun d =>
    match d.seg.stage with
    | [] => d
    | r :: _ => if d.released r.emit ∨ 1024 ≤ d.seg.stage.length then d.releaseHead else d) st

/-- The emitter's writer at the queues. -/
def segSrc : Nat := 0x2000

/-- A fresh enable of segmentation: backgrounds begin anew (R160, R184). -/
def Dev.segFresh (d : Dev) : Dev :=
  let d := { d with seg := { d.seg with lo := {}, hi := {}, swapRow := none } }
  d.slices.foldl (fun (d : Dev) s =>
    (d.setSlice s { cur := {}, tgt := none, seq := (d.slice s).seq }).mark (F.SEG_Ss_STAT_IDLE s) false) d

/-- EN = 1 written (R9, R184). -/
def Dev.segEnable (d : Dev) : Dev :=
  let r := d.startIntake F.SEG_CTRL_EN F.SEG_STAT_IDLE
  if r.2 then r.1.segFresh else r.1

/-- A drain is over once the reorder stage and the emit buffer are empty (R184). -/
def Dev.segSettle (d : Dev) : Dev :=
  if ! d.drains F.SEG_CTRL_EN F.SEG_STAT_IDLE ∨ ! d.seg.buffer.isEmpty ∨ ! d.seg.stage.isEmpty then d
  else
    let r := d.drained F.SEG_CTRL_EN F.SEG_STAT_IDLE
    if r.2 then r.1.segFresh else r.1

/-- The head of the emit buffer written into its queues one after the other, as far as they take it (R177). -/
def Dev.emitHead : Nat → Dev → Dev
  | 0, d => d
  | f + 1, d =>
    match d.seg.buffer with
    | [] => d
    | r :: t =>
      match r.queues with
      | [] =>
        let d := { d with seg := { d.seg with buffer := t, lastOut := some d.now } }
        if r.kind = 2 then d.inc F.SEG_U_FIX_CNT else if r.kind = 1 then d.inc F.SEG_U_SEG_CNT else d.inc F.SEG_U_CANCEL_CNT
      | q :: qs =>
        if r.sent then
          if d.queStalls q segSrc then d
          else Dev.emitHead f { d with seg := { d.seg with buffer := { r with queues := qs, sent := false } :: t } }
        else
          Dev.emitHead f ({ d with seg := { d.seg with buffer := { r with sent := true } :: t } }.queBytes q segSrc 0x08 r.bytes)

/-- RECORD_EMIT (R177): at most one record per 250 ns. -/
def execRecordEmit (st : State) : Host.Outcome State Fault Refusal :=
  onDev (fun d =>
    if d.seg.buffer.isEmpty then d
    else
      let d := match d.seg.lastOut with
        | some t => d.reach (t + 250)
        | none => d
      (Dev.emitHead 8 d).segSettle) st

/-! ### Tree (R179, R181) -/

/-- TREE_SWAP written (R181). -/
def Dev.treeSwap (d : Dev) : Dev := d.mark F.SEG_STAT_SWAP_PEND true

/-- TREE_SWAP (R181). -/
def execTreeSwap (st : State) : Host.Outcome State Fault Refusal := onDev (fun d => d.treeSwap) st

/-- The node that SEG_TREE_IDX selects (R181, R185). -/
def Dev.treeNode (d : Dev) : Nat :=
  let i := d.val F.SEG_TREE_IDX
  let act := d.val F.SEG_STAT_TREE_BANK
  tabGet 0 d.seg.tree ((if bitOf i 15 then act else 1 - act) * 4096 + i % 4096)

/-- The _HI half of SEG_TREE_DATA written: the node is committed and the index advances; the active bank takes no
write (R4, R181). -/
def Dev.treeWrite (d : Dev) (hi : Word) : Dev :=
  let i := d.val F.SEG_TREE_IDX
  let lo := d.lower R.SEG_TREE_DATA (BitVec.ofNat 32 d.treeNode)
  let d := d.unstage R.SEG_TREE_DATA
  if bitOf i 15 then d.accessErr (R.SEG_TREE_DATA + 4)
  else
    let k := (1 - d.val F.SEG_STAT_TREE_BANK) * 4096 + i % 4096
    let d := { d with seg := { d.seg with tree := tabSet 0 d.seg.tree k (hi ++ lo).toNat } }
    d.put F.SEG_TREE_IDX ((i + 1) % 4096)

/-- TREE_NODE_WRITE (R181). -/
def execTreeNodeWrite (hi : Word) (st : State) : Host.Outcome State Fault Refusal := onDev (fun d => d.treeWrite hi) st

/-! ### Disable and abort (R184) -/

/-- Every waiting row of a slice labelled, its contacts sent (R170, R184). -/
def Dev.labelAll (s : Nat) : Nat → Dev → Dev
  | 0, d => d
  | f + 1, d =>
    let x := d.slice s
    match x.cur.fifo, x.tgt with
    | r :: _, _ => Dev.labelAll s f (d.labelSend s false r.k)
    | [], some t => (match t.fifo with
      | r :: _ => Dev.labelAll s f (d.labelSend s true r.k)
      | [] => d)
    | [], none => d

/-- The sums that wait for the operator-side neighbour leave, or go out here with TRUNCATED where it is gone (R170, R184).
DEDUCED, log entry 69. -/
def Dev.flushSums (d : Dev) (e : Int) : Dev :=
  if d.seg.toLo.isEmpty then d
  else
    match d.abuts .chu, d.sliceDone 0 with
    | true, some k => (List.range (d.seg.toLo.length / 64 + 1)).foldl (fun (d : Dev) _ => if d.seg.toLo.isEmpty then d else d.sendSeam .chu k []) d
    | _, _ => d.keepSums (some e)

/-- Every open component of a slice closed with TRUNCATED (R184). -/
def Dev.closeAll (d : Dev) (s : Nat) (e : Int) : Dev :=
  let x := d.slice s
  let d := d.addPieces s false e false true x.cur.comps
  let d := match x.tgt with
    | some t => d.addPieces s false e false true t.comps
    | none => d
  let cur := match x.tgt with
    | some t => t
    | none => x.cur
  let d := d.setSlice s { d.slice s with cur := { cur with comps := [], prev := [] }, tgt := none }
  ((d.put (F.SEG_Ss_OPEN s) 0).mark (F.SEG_Ss_STAT_IDLE s) true).mark (F.SEG_Ss_STAT_WARM s) false

/-- A move is given up where segmentation stops. -/
def Dev.dropMove (d : Dev) : Dev :=
  match d.seg.mig with
  | some g => if g.stream then d else { d with seg := { d.seg with mig := none } }.mark F.SEG_STAT_MIG_ACTIVE false
  | none => d

/-- EN = 0 written (R184). DEDUCED, log entry 69. -/
def Dev.segDisable (d : Dev) : Dev :=
  let was := d.on F.SEG_CTRL_EN
  let d := d.stopIntake F.SEG_CTRL_EN
  if ! was ∨ d.on F.SEG_STAT_IDLE then d
  else
    let d := d.slices.foldl (fun (d : Dev) s => Dev.labelAll s 128 d) d
    let e := match d.slices.filterMap d.sliceDone with
      | k :: t => t.foldl max k + 1
      | [] => 0
    let d := (d.slices.foldl (fun (d : Dev) s => d.closeAll s e) d).flushSums e
    let d := d.seg.pieces.foldl (fun (d : Dev) p => d.emitPiece { p with emit := e, trunc := true }) d
    let d := { d with seg := { d.seg with pieces := [], groups := [], contacts := [], joins := [], outs := [], toLo := [] } }
    let d := d.seg.stage.foldl (fun (d : Dev) r => d.toBuffer r) d
    ({ d with seg := { d.seg with stage := [] } }.dropMove).segSettle

/-- SEG_DISABLE (R184). -/
def execSegDisable (st : State) : Host.Outcome State Fault Refusal := onDev (fun d => d.segDisable) st

/-- A writer's items that no queue has begun to take are withdrawn. -/
def Dev.queForget (d : Dev) (src : Nat) : Dev :=
  (List.range 64).foldl (fun (d : Dev) q =>
    let x := d.queue q
    if x.waiting.any (fun w => w.src == src && ! w.begun) then
      d.setQueue q { x with waiting := x.waiting.filter (fun w => ! (w.src == src && ! w.begun)) }
    else d) d

/-- ABORT of segmentation: everything it holds is discarded at once (R184). -/
def Dev.segAbort (d : Dev) : Dev :=
  let n := d.seg.stage.length + d.seg.buffer.length
  let d := d.slices.foldl (fun (d : Dev) s =>
    let x := d.slice s
    let rows := x.cur.fifo ++ (match x.tgt with
      | some t => t.fifo
      | none => [])
    let d := rows.foldl (fun (d : Dev) r => d.fgReport { k := r.k, slice := s, all := true, weak := [] }) d
    let d := d.setSlice s { cur := {}, tgt := none, seq := x.seq }
    (((d.put (F.SEG_Ss_OPEN s) 0).mark (F.SEG_Ss_STAT_IDLE s) true).mark (F.SEG_Ss_STAT_WARM s) false).put (F.SEG_Ss_STAT_FIFO s) 0) d
  let d := (d.dropMove.queForget segSrc).bump F.SEG_U_FIX_DROP_CNT n
  let d := { d with seg := { d.seg with pieces := [], groups := [], contacts := [], joins := [], outs := [], toLo := [],
                                        stage := [], buffer := [] } }
  d.abortBits F.SEG_CTRL_EN F.SEG_STAT_IDLE

/-- SEG_ABORT (R184). -/
def execSegAbort (st : State) : Host.Outcome State Fault Refusal := onDev (fun d => d.segAbort) st

end Sys2Proof.Machine
end

