-- ==== Sys2Proof/Machine/Ether.lean ====
section
/-! DEFINITION. Frames of the network ports: Ethernet, IPv4, IPv6 and UDP, built and read (R214, R216, R223). -/
namespace Sys2Proof.Machine

/-- The one's complement sum of 16-bit words that the Internet checksums use. -/
def sum16 : List Byte → Nat
  | a :: b :: t => 256 * a.toNat + b.toNat + sum16 t
  | [a] => 256 * a.toNat
  | [] => 0

/-- The carries folded in. -/
def fold16 (n : Nat) : Nat :=
  let n := n % 65536 + n / 65536
  let n := n % 65536 + n / 65536
  n % 65536 + n / 65536

/-- The Internet checksum. -/
def inetSum (bs : List Byte) : Nat := 65535 - fold16 (sum16 bs)

/-- How a frame is addressed. -/
structure Addressing where
  dmac : Nat
  smac : Nat
  /-- the 802.1Q tag control information, when tagged -/
  tag  : Option Nat
  v6   : Bool
  sip  : List Byte
  dip  : List Byte
  dscp : Nat
  ttl  : Nat
  sport : Nat
  dport : Nat
  deriving Repr

/-- An Ethernet II frame up to its FCS, padded to the 60 bytes that IEEE 802.3 asks for. -/
def etherFrame (dmac smac : Nat) (tag : Option Nat) (type : Nat) (body : List Byte) : List Byte :=
  let vlan := match tag with
    | some t => bytesBE 2 0x8100 ++ bytesBE 2 t
    | none => []
  let f := bytesBE 6 dmac ++ bytesBE 6 smac ++ vlan ++ bytesBE 2 type ++ body
  f ++ List.replicate (60 - f.length) 0

/-- The UDP datagram with its checksum, which is never zero (R214). -/
def udpPacket (sip dip : List Byte) (sport dport : Nat) (body : List Byte) : List Byte :=
  let len := 8 + body.length
  let pseudo := sip ++ dip ++ bytesBE 4 len ++ bytesBE 4 17
  let head := bytesBE 2 sport ++ bytesBE 2 dport ++ bytesBE 2 len
  let c := inetSum (pseudo ++ head ++ [0, 0] ++ body)
  head ++ bytesBE 2 (if c = 0 then 65535 else c) ++ body

/-- An IP packet. The manual gives no value for ECN, the IPv4 identification and DF, and the IPv6 flow label: they
are bits of the free value `fr` (DESIGN CHOICE, log entry 28). -/
def ipPacket (a : Addressing) (fr : Nat) (udp : List Byte) : List Byte :=
  let ecn := fr % 4
  if a.v6 then
    bytesBE 4 (6 * 2 ^ 28 + (a.dscp * 4 + ecn) * 2 ^ 20 + fr / 4 % 2 ^ 20) ++ bytesBE 2 udp.length
      ++ [17, BitVec.ofNat 8 a.ttl] ++ a.sip ++ a.dip ++ udp
  else
    let h1 := [0x45, BitVec.ofNat 8 (a.dscp * 4 + ecn)] ++ bytesBE 2 (20 + udp.length)
      ++ bytesBE 2 (fr / 4) ++ bytesBE 2 (fr / 2 ^ 18 % 2 * 0x4000) ++ [BitVec.ofNat 8 a.ttl, 17]
    let h2 := a.sip ++ a.dip
    h1 ++ bytesBE 2 (inetSum (h1 ++ [0, 0] ++ h2)) ++ h2 ++ udp

/-- A frame with a UDP datagram. -/
def udpFrame (a : Addressing) (fr : Nat) (body : List Byte) : List Byte :=
  etherFrame a.dmac a.smac a.tag (if a.v6 then 0x86DD else 0x0800)
    (ipPacket a fr (udpPacket a.sip a.dip a.sport a.dport body))

/-- What a received frame holds. -/
structure RxFrame where
  dmac : Nat
  vid  : Option Nat
  type : Nat
  body : List Byte
  deriving Repr

/-- A frame read, its FCS taken off and found good. -/
def rxFrame (f : List Byte) : Option RxFrame :=
  if f.length < 14 then none
  else
    let t := beAt f 12 2
    if t = 0x8100 then
      if f.length < 18 then none else some ⟨beAt f 0 6, some (beAt f 14 2 % 4096), beAt f 16 2, f.drop 18⟩
    else some ⟨beAt f 0 6, none, t, f.drop 14⟩

/-- What a received UDP datagram holds. -/
structure RxUdp where
  v6    : Bool
  dip   : List Byte
  dport : Nat
  body  : List Byte
  deriving Repr

/-- A UDP datagram taken from an IP packet when its checksums are right; over IPv4 a zero UDP checksum stands too
(R214). Fragments are none the device accepts. -/
def rxUdp (type : Nat) (p : List Byte) : Option RxUdp :=
  let take (v6 : Bool) (sip dip udp : List Byte) : Option RxUdp :=
    let len := beAt udp 4 2
    let c := beAt udp 6 2
    let u := udp.take len
    if len < 8 ∨ udp.length < len then none
    else if (c = 0 ∧ ! v6) ∨ (c ≠ 0 ∧ fold16 (sum16 (sip ++ dip ++ bytesBE 4 len ++ bytesBE 4 17 ++ u)) = 65535) then
      some ⟨v6, dip, beAt udp 2 2, u.drop 8⟩
    else none
  if type = 0x0800 then
    let ihl := 4 * (beAt p 0 1 % 16)
    let tot := beAt p 2 2
    if beAt p 0 1 / 16 ≠ 4 ∨ ihl < 20 ∨ tot < ihl ∨ p.length < tot ∨ beAt p 6 2 % 0x4000 ≠ 0 ∨ beAt p 9 1 ≠ 17
        ∨ fold16 (sum16 (p.take ihl)) ≠ 65535 then none
    else take false ((p.drop 12).take 4) ((p.drop 16).take 4) ((p.take tot).drop ihl)
  else if type = 0x86DD then
    let len := beAt p 4 2
    if beAt p 0 1 / 16 ≠ 6 ∨ beAt p 6 1 ≠ 17 ∨ p.length < 40 + len then none
    else take true ((p.drop 8).take 16) ((p.drop 24).take 16) ((p.drop 40).take len)
  else none

/-! ### Ports -/

/-- The port is enabled and its link is up: what flows and domains see (R215). -/
def Dev.linkSeen (d : Dev) (n : Nat) : Bool :=
  d.runs (F.NETn_CFG_EN n) (F.NETn_STAT_IDLE n) && d.on (F.NETn_STAT_LINK n)

/-- MTU in force: 1,280 to 9,216, clamped (R214). -/
def Dev.mtu (d : Dev) (n : Nat) : Nat := max 1280 (min 9216 (d.val (F.NETn_CFG_MTU n)))

/-- The source address of a port (R216). -/
def Dev.portIp (d : Dev) (n : Nat) (v6 : Bool) : List Byte :=
  if v6 then [0, 1, 2, 3].flatMap (fun k => bytesBE 4 (d.val (F.NETn_IPV6k n k))) else bytesBE 4 (d.val (F.NETn_IPV4 n))

/-- The 48-bit address of a port. -/
def Dev.portMac (d : Dev) (n : Nat) : Nat := d.val (F.NETn_MAC n) % 2 ^ 48

/-- How long a frame is on the wire with its preamble and FCS, at the 25 Gbit/s of 25GBASE-R (R213). The 12 bytes of gap
take 4 ns more. PRESUMED, log entry 130. -/
def frameNs (f : List Byte) : Nat := divCeil ((f.length + 12) * 8) 25

/-- A frame leaves a port. -/
def Dev.netOut (d : Dev) (n : Nat) (f : List Byte) : Dev :=
  let d := (d.inc (F.NETn_TX_FRAME_CNT n)).emit (.net n f)
  d.setNport n { d.nport n with nextTx := d.now + frameNs f + 4 }

/-- The frame on a port's wire has ended, with the gap after it (R215, R219). -/
def Dev.wireFree (d : Dev) (n : Nat) : Dev := d.reach (d.nport n).nextTx

/-- A frame is on the wire. -/
def Dev.sending (d : Dev) (n : Nat) : Bool := decide (d.now + 4 < (d.nport n).nextTx)

/-- A received frame is discarded (R214). -/
def Dev.rxDiscard (d : Dev) (n : Nat) : Dev := (d.inc (F.NETn_RX_DISCARD_CNT n)).raise (F.NETn_FLAG_RX_DISCARD n)

end Sys2Proof.Machine
end

