-- ==== Sys2Proof/Machine/Trigger.lean ====
section
/-! DEFINITION. The trigger block's commands: stamps, trigger symbols, disable and abort, strobes, and lock step
by beacons (R49 to R62, R69, R70). POS_PAYLOAD_SEND stands in Net.lean, beside the flow that carries it. -/
namespace Sys2Proof.Machine

/-! ### Illumination (R69, R70) -/

/-- One line of illumination compensation of stream `s`: whether the step was limited by SLEW. -/
def Dev.illStep (d : Dev) (s : Nat) : Dev × Bool :=
  if ! d.on (F.ILLs_CFG_EN s) then (d, false)
  else
    let c := d.val (F.ILLs_CFG_LM s)
    let r := d.vali (F.FLTc_OUT c)
    let st := d.trgs s
    if r ≤ d.vali (F.FLTc_LOWTHR c) ∨ ¬ d.on (F.FLTc_STAT_VALID c) then
      let d := d.raiseIf (! st.lampLow) (F.FLTc_FLAG_LAMP_LOW c)
      (d.setTrgs s { st with lampLow := true }, false)
    else
      let ref : Nat := (d.vali (F.ILLs_REF s) % 2 ^ 64).toNat
      let t := min 0xFFFFFFFF (ref * 2 ^ 14 % 2 ^ 64 / (max r 1).toNat)
      let t := max (d.val (F.ILLs_LIMITS_GMIN s)) (min (d.val (F.ILLs_LIMITS_GMAX s)) t)
      let g := d.val (F.ILLs_GAIN s)
      let slew := d.val (F.ILLs_CFG_SLEW s)
      let g' := if g < t then min t (g + slew) else max t (g - slew)
      let d := d.put (F.ILLs_GAIN s) g'
      (d.setTrgs s { st with lampLow := false }, decide (slew < max g t - min g t))

/-! ### Delivery of triggers (R49 to R54) -/

/-- Triggers whose delivery is over leave the list. A stream whose EN is clear sets IDLE once the last one has been
sent in full and stamped (R51). -/
def Dev.trgSettle (d : Dev) (s : Nat) : Dev :=
  let st := d.trgs s
  let rest := st.trigs.filter (fun x => ! x.delivered d.now)
  let d := d.setTrgs s { st with trigs := rest }
  if ¬ d.drains (F.TRGs_CFG_EN s) (F.TRGs_STAT_IDLE s) ∨ ¬ rest.isEmpty then d
  else
    let r := d.drained (F.TRGs_CFG_EN s) (F.TRGs_STAT_IDLE s)
    (if r.2 then r.1.trgStart s else r.1).trigFollow

/-- The first trigger of a list that meets `p` replaced. -/
def replaceFirst (p : Trig → Bool) (f : Trig → Trig) : List Trig → List Trig
  | [] => []
  | x :: t => if p x then f x :: t else x :: replaceFirst p f t

/-- The stamp of trigger `x` of stream `s`, written at its effective instant (R49, R69). -/
def Dev.writeStamp (d : Dev) (s : Nat) (x : Trig) : Dev :=
  let r := d.illStep s
  let d := r.1
  let e : Stamp := { written := true, used := false, k := x.k, time := d.devTimeAt x.eff, pos := d.linePos x.off x.eff,
                     calRamp := r.2, gain := d.val (F.ILLs_GAIN s) }
  let st := d.trgs s
  d.setTrgs s { st with stamps := tabSet {} st.stamps (x.k % 256).toNat e }

/-- On the pin path the pulse starts at E when the pin is TRG's (R54, R364). -/
def Dev.pinPulse (d : Dev) (s : Nat) (x : Trig) : Dev :=
  let u := d.val (F.TRGs_CFG_UTP s)
  let d := d.put (F.TRGs_STAT_SEQ s) (x.k % 256).toNat
  if d.val (F.SYS_UTPu_CFG_OWNER u) = 1 then
    d.emit (.utp u x.eff (max 8 (d.val (F.TRGs_CFG_PULSE s))) (! d.on (F.TRGs_CFG_POL s)))
  else d

/-- A crossing that was issued while no enabled context took its stream is lineless at its effective instant (R137). -/
def Dev.noTaker (d : Dev) (s : Nat) (x : Trig) : Dev := if x.taken then d else d.lineless s x.k

/-- EFFECTIVE_INSTANT (R49, R54, R69): the stamp of the stream's next trigger, and its pulse on the pin path. -/
def execEffectiveInstant (s : Fin 64) (st : State) : Host.Outcome State Fault Refusal :=
  onDev (fun d =>
    match (d.trgs s).trigs.find? (fun x => ! x.stamped) with
    | none => d
    | some x =>
      let d := (d.reach x.eff).writeStamp s x
      let d := if x.pin then d.pinPulse s x else d
      let t := d.trgs s
      let done := fun (y : Trig) => { y with stamped := true, sent := y.sent || y.pin }
      let d := d.setTrgs s { t with trigs := replaceFirst (fun y => ! y.stamped) done t.trigs }
      (d.noTaker s x).trgSettle s) st

/-- The stream of a service channel whose unsent trigger has the earliest slot, and that trigger. -/
def Dev.nextSymbol (d : Dev) (c : Nat) : Option (Nat × Trig) :=
  [4 * c, 4 * c + 1, 4 * c + 2, 4 * c + 3].foldl (fun best s =>
    match (d.trgs s).trigs.find? (fun x => ! x.sent && ! x.pin) with
    | none => best
    | some x =>
      match best with
      | some b => if x.slot < b.2.slot then some (s, x) else best
      | none => some (s, x)) none

/-- The symbol of a trigger: K28.1 leaves at its boundary `b`, the data characters at the two boundaries after it
(R52). Those that have come are sent. -/
def Dev.startSymbol (d : Dev) (c s : Nat) (b : Int) (x y : Byte) : Dev :=
  let d := (d.svcNow c).sendChar c b (true, 0x3C)
  let ch := d.svch c
  let due := fun (e : Nat × Int × Byte) => decide (e.2.1 < ch.next)
  let syms := [(s, b + 40, x), (s, b + 80, y)]
  let d := (syms.filter due).foldl (fun d e => d.sendChar c e.2.1 (false, e.2.2)) d
  d.setSvch c { d.svch c with sym := ch.sym ++ syms.filter (fun e => ! due e), idle := false }

/-- TRIGGER_SYMBOL (R52): K28.1, VC with RES, and the low 8 bits of k leave from the boundary on. -/
def execTriggerSymbol (c : Fin 16) (st : State) : Host.Outcome State Fault Refusal :=
  onDev (fun d =>
    match d.nextSymbol c with
    | none => d
    | some (s, x) =>
      let d := d.reach x.slot
      let seq := (x.k % 256).toNat
      let d := d.startSymbol c s x.bnd (BitVec.ofNat 8 (64 * d.val (F.TRGs_CFG_VC s) + x.res)) (BitVec.ofNat 8 seq)
      let d := d.put (F.TRGs_STAT_SEQ s) seq
      let t := d.trgs s
      let d := d.setTrgs s { t with trigs := replaceFirst (fun y => ! y.sent && ! y.pin) (fun y => { y with sent := true }) t.trigs }
      d.trgSettle s) st

/-- EN of a stream is cleared (R51): deferred triggers not sent are discarded, the others still go out.
DEDUCED, log entry 55. -/
def Dev.trgDisable (d : Dev) (s : Nat) : Dev :=
  if ! d.on (F.TRGs_CFG_EN s) then d
  else
    let d := d.stopIntake (F.TRGs_CFG_EN s)
    let st := d.trgs s
    let gone := fun (x : Trig) => x.deferred && ! x.sent
    let d := d.setTrgs s { st with trigs := st.trigs.filter (fun x => ! gone x) }
    ((st.trigs.filter gone).foldl (fun d x => d.loseTrig s x) d).trgSettle s

/-- A stream's EN is set (R9). -/
def Dev.trgEnable (d : Dev) (s : Nat) : Dev :=
  let r := d.startIntake (F.TRGs_CFG_EN s) (F.TRGs_STAT_IDLE s)
  (if r.2 then r.1.trgStart s else r.1).trigShow s

/-- TRIGGER_DISABLE (R51). -/
def execTriggerDisable (s : Fin 64) (st : State) : Host.Outcome State Fault Refusal :=
  onDev (fun d => d.trgDisable s) st

/-- A trigger sent in full at instant `t`: its symbol has left, or its pulse has started (R51). -/
def Trig.full (x : Trig) (t : Nat) : Bool := x.sent && (x.pin || decide (x.slot + 120 ≤ t))

/-- What is left of the stream's symbol in progress is not sent (R51). -/
def Dev.cutSymbol (d : Dev) (s : Nat) : Dev :=
  let d := d.svcNow (s / 4)
  let x := d.svch (s / 4)
  d.setSvch (s / 4) { x with sym := x.sym.filter (fun e => e.1 != s) }

/-- ABORT of a stream (R51): every trigger not sent in full is dropped; a stamp it has is marked USED. -/
def Dev.trgAbort (d : Dev) (s : Nat) : Dev :=
  let d := d.cutSymbol s
  let st := d.trgs s
  let lost := st.trigs.filter (fun x => ! x.full d.now)
  let stamps := lost.foldl (fun tab x =>
    if x.stamped then
      let i := (x.k % 256).toNat
      tabSet {} tab i { (tabGet {} tab i : Stamp) with used := true }
    else tab) st.stamps
  let d := d.setTrgs s { st with trigs := [], stamps := stamps }
  let d := lost.foldl (fun d x => d.loseTrig s x) d
  (d.abortBits (F.TRGs_CFG_EN s) (F.TRGs_STAT_IDLE s)).trigFollow

/-- TRIGGER_ABORT (R51). -/
def execTriggerAbort (s : Fin 64) (st : State) : Host.Outcome State Fault Refusal :=
  onDev (fun d => d.trgAbort s) st

/-! ### Strobes (R55 to R57) -/

/-- The ball of a strobe, inverted by POL (R57). -/
def Dev.strobeBall (d : Dev) (t start : Nat) (on : Bool) : Dev :=
  d.emit (.strobe t start (on != d.on (F.STBt_CFG_POL t)))

/-- A start: a pulse begins, or the end of the one that is on moves (R55 to R57). DEDUCED, log entry 57. -/
def Dev.strobeOn (d : Dev) (t : Nat) (endAt : Nat) (endPos : Option Int) : Dev :=
  let d := d.setStb t { d.stb t with endAt := endAt, endPos := endPos }
  if d.on (F.STBt_STAT_ON t) then d.inc (F.STBt_OVL_CNT t)
  else ((d.inc (F.STBt_FIRE_CNT t)).mark (F.STBt_STAT_ON t) true).strobeBall t d.now true

/-- STROBE_START (R55, R56): in time mode the next start that waits; in tick mode the pending start once HWM
has reached it. -/
def execStrobeStart (t : Fin 96) (s : State) : Host.Outcome State Fault Refusal :=
  onDev (fun d =>
    let z := d.stb t
    match z.starts, z.tickStart with
    | a :: rest, _ =>
      let d := (d.reach a).setStb t { z with starts := rest }
      d.strobeOn t (a + min 1048575 (max 4 (d.val (F.STBt_WIDTH t)))) none
    | [], some b =>
      if d.vali F.LOG_HWM < b then d
      else
        let d := (d.setStb t { z with tickStart := none }).mark (F.STBt_STAT_PENDING t) false
        let maxw := d.val (F.STBt_MAXW t)
        d.strobeOn t (d.now + if maxw = 0 then 4 else maxw) (some (b + d.val (F.STBt_WIDTH t)))
    | [], none => d) s

/-- The pulse of strobe `t` ends: at its width, or in tick mode at HWM or MAXW, whichever comes first. -/
def Dev.strobeFinish (d : Dev) (t : Nat) : Dev :=
  if ! d.on (F.STBt_STAT_ON t) then d
  else
    let z := d.stb t
    let d := match z.endPos with
      | some b => if b ≤ d.vali F.LOG_HWM then d else d.reach z.endAt
      | none => d.reach z.endAt
    (d.mark (F.STBt_STAT_ON t) false).strobeBall t d.now false

/-- A strobe that drains sets IDLE once no pulse is on (R57). -/
def Dev.strobeSettle (d : Dev) (t : Nat) : Dev :=
  if d.on (F.STBt_STAT_ON t) ∨ ¬ d.drains (F.STBt_CFG_EN t) (F.STBt_STAT_IDLE t) then d
  else (d.drained (F.STBt_CFG_EN t) (F.STBt_STAT_IDLE t)).1

/-- STROBE_END (R55, R56). -/
def execStrobeEnd (t : Fin 96) (s : State) : Host.Outcome State Fault Refusal :=
  onDev (fun d => (d.strobeFinish t).strobeSettle t) s

/-- Starts that wait are discarded (R57). -/
def Dev.strobeDiscard (d : Dev) (t : Nat) : Dev :=
  (d.setStb t { d.stb t with starts := [], tickStart := none }).mark (F.STBt_STAT_PENDING t) false

/-- EN of a strobe set, cleared, and its ABORT, which ends the pulse at once (R9, R57). -/
def Dev.strobeEnable (d : Dev) (t : Nat) : Dev := (d.startIntake (F.STBt_CFG_EN t) (F.STBt_STAT_IDLE t)).1
def Dev.strobeDisable (d : Dev) (t : Nat) : Dev :=
  ((d.stopIntake (F.STBt_CFG_EN t)).strobeDiscard t).strobeSettle t
def Dev.strobeAbort (d : Dev) (t : Nat) : Dev :=
  let d := d.strobeDiscard t
  let d := if d.on (F.STBt_STAT_ON t) then (d.mark (F.STBt_STAT_ON t) false).strobeBall t d.now false else d
  d.abortBits (F.STBt_CFG_EN t) (F.STBt_STAT_IDLE t)

/-! ### Lock step (R58 to R61) -/

/-- The 32 bytes of R58 for the present instant, with a hop count. SRC_OK of a master on beacons or the network is its
LS_LOCK (DESIGN CHOICE, log entry 124). -/
def Dev.posPayload (d : Dev) (hop : Nat) : List Byte :=
  let v := d.speed
  let sp := clampI (-(2 ^ 31)) (2 ^ 31 - 1) (Int.tdiv (v.1 * 65536000) v.2)
  let src := if d.posSrc = 0 then d.on (F.LOGn_CFG_EN (d.val F.LOG_CTRL_SRC_CHAN)) else d.on F.TRG_STAT_LS_LOCK
  let flags := b2n (d.on F.LOG_STAT_STANDSTILL) + 2 * b2n (d.on F.LOG_STAT_REVERSED) + 4 * b2n src
    + 8 * b2n d.log.posHeld
  bytesLE 8 (d.val F.LOG_POS) ++ bytesLE 8 (d.val F.LOG_HWM) ++ bytesLE 8 (d.val F.MER_TIME)
    ++ bytesLE 4 (fromSigned 32 sp) ++ bytesLE 2 d.trg.bcnSeq ++ bytesLE 1 flags ++ bytesLE 1 hop

/-- BEACON_LAUNCH (R58): the master's beacon on both chain ports, 1 µs after the last. -/
def execBeaconLaunch (s : State) : Host.Outcome State Fault Refusal :=
  onDev (fun d =>
    if ! d.on F.TRG_CTRL_BCN_MASTER then d
    else
      let d := (d.reach (d.trg.bcnAt + 1000)).tickUnit
      let f := d.frameAll 0x01 (toWords 4 (d.posPayload 0))
      let d := (d.chainOut .chu f).chainOut .chd f
      { d with trg := { d.trg with bcnAt := d.now, bcnSeq := (d.trg.bcnSeq + 1) % 65536 } }) s

/-- A position payload taken at the present instant, which refers to the local instant `base` (R60 to R62).
The first is judged against the position held until then (DESIGN CHOICE, log entry 125). DEDUCED, log entry 53. -/
def Dev.takePosition (d : Dev) (p : List Byte) (base : Int) : Dev :=
  let pos := toSigned 64 (leAt p 0 8)
  let hwm := toSigned 64 (leAt p 8 8)
  let speed := toSigned 32 (leAt p 24 4)
  let flags := leAt p 30 1
  let d := d.tickUnit
  let old := d.unitPosAt d.now
  let fresh : Recon := { valid := true, pos := pos, base := base, speed := speed, err := 0, absorb := d.now,
                         lastRx := d.now, still := bitOf flags 0 || speed == 0 }
  let e := fresh.at d.now - old
  let d := d.putSat F.TRG_LS_ERR e
  let small := decide (e.natAbs ≤ d.val F.TRG_LS_CFG_SNAP)
  let d := { d with trg := { d.trg with recon := if small then { fresh with err := e } else fresh } }
  let d := if small then d else (d.raise F.TRG_FLAG_LS_STEP).inc F.TRG_LS_STEP_CNT
  let d := ((d.mark F.TRG_STAT_LS_LOCK true).mark F.TRG_STAT_HOLDOVER false).mark F.TRG_STAT_FROZEN false
  let d := (d.putSat F.LOG_SPEED (Int.tdiv (speed * 1000000) 16777216)).mark F.LOG_STAT_SPD_VALID true
  let d := d.followUnit (d.leap (d.vali F.LOG_POS) (d.unitPosAt d.now)) (d.unitRaw d.now) hwm (bitOf flags 3)
  if fresh.still then d.goStill else d

/-- The beacon as the next unit gets it: one hop more (R58). -/
def hopOn (f : ChainFrame) : ChainFrame :=
  let b := f.bytes
  f.withWords (toWords 4 (b.take 31 ++ bytesLE 1 (leAt b 31 1 + 1)))

/-- A beacon or probe is taken only from the beacon side, which the first good beacon after enumeration
settles (R310). -/
def Dev.fromBeaconSide (d : Dev) (p : Side) : Bool := d.on F.CHN_STAT_BEACON_SIDE == (p == .chd)

/-- BEACON (R58, R60, R227, R310). -/
def execBeacon (side : Side) (f : ChainFrame) (s : State) : Host.Outcome State Fault Refusal :=
  onDev (fun d =>
    let r := d.chainIn side f 0x01 hopOn
    if ! r.2 then r.1
    else
      let d := r.1
      let d := if d.chn.sideKnown then d
        else { d.mark F.CHN_STAT_BEACON_SIDE (side == .chd) with chn := { d.chn with sideKnown := true } }
      if ! d.fromBeaconSide side then d
      else
        let p := f.bytes
        let lat := d.val F.TRG_LS_LAT
        let d := d.putSat F.TRG_LS_TDIFF (toSigned 64 (leAt p 16 8) + lat - d.devTime)
        let d := d.chainTake
        if d.posSrc = 1 then d.takePosition p ((d.now : Int) - lat) else d) s

/-- TIMEOUT or NTIMEOUT, and HOLDOVER or NHOLDOVER, in ns (R61, R62). -/
def Dev.lossAfter (d : Dev) : Nat :=
  1000 * max 1 (if d.posSrc = 1 then d.val F.TRG_LS_CFG_TIMEOUT else d.val F.TRG_LS_NETTO_NTIMEOUT)
def Dev.freezeAfter (d : Dev) : Nat :=
  1000 * (if d.posSrc = 1 then d.val F.TRG_LS_CFG_HOLDOVER else d.val F.TRG_LS_NETTO_NHOLDOVER)

/-- BEACON_LOST (R61, R62, R227): counted once, whether or not a good one has ever come. HOLDOVER is the extrapolation
until the freeze. -/
def execBeaconLost (s : State) : Host.Outcome State Fault Refusal :=
  onDev (fun d =>
    if d.posSrc = 0 ∨ (d.trg.recon.lost ∧ ¬ d.on F.TRG_STAT_LS_LOCK) then d
    else
      let d := d.reach (d.trg.recon.lastRx + d.lossAfter)
      let d := (d.raise F.TRG_FLAG_BEACON_LOST).inc F.TRG_BEACON_LOST_CNT
      let d := { d with trg := { d.trg with recon := { d.trg.recon with lost := true } } }
      ((d.mark F.TRG_STAT_LS_LOCK false).mark F.TRG_STAT_HOLDOVER (! d.on F.TRG_STAT_FROZEN)).chainLost) s

/-- FROZEN (R61, R62): the position freezes where the extrapolation has brought it; that is standstill. -/
def execFrozen (s : State) : Host.Outcome State Fault Refusal :=
  onDev (fun d =>
    if d.posSrc = 0 ∨ d.on F.TRG_STAT_FROZEN then d
    else
      let d := (d.reach (d.trg.recon.lastRx + d.freezeAfter)).tickUnit
      ((d.mark F.TRG_STAT_HOLDOVER false).mark F.TRG_STAT_FROZEN true).goStill.cmpRefresh) s

/-- EXTRAPOLATION (R60): the reconstructed position at instant `t`. -/
def execExtrapolation (t : Nat) (s : State) : Host.Outcome State Fault Refusal :=
  onDev (fun d => if d.posSrc = 0 then d else (d.reach t).tickUnit) s

end Sys2Proof.Machine
end

