-- ==== Sys2Proof/Machine/Net.lean ====
section
/-! DEFINITION. Result streams: flows, their datagrams, launch times, position payloads over the network, and the
link of a port (R213 to R222). -/
namespace Sys2Proof.Machine

/-! ### Datagrams (R216 to R218) -/

/-- The message type that a flow sends: TYPE 0 and 7 act as NOTE (R216). -/
def Dev.flowType (d : Dev) (f : Nat) : Nat :=
  let t := d.val (F.NET_Ff_CFG_TYPE f)
  if t = 0 ∨ t = 7 then 5 else t

/-- Item lengths that a type admits (R216). -/
def typeAdmits (type len : Nat) : Bool :=
  match type with
  | 1 => len == 64
  | 2 => decide (48 ≤ len ∧ len ≤ 33554472)
  | 3 => decide (1104 ≤ len ∧ len ≤ 67144)
  | 4 => decide (1 ≤ len ∧ len ≤ 4096)
  | 5 => decide (1 ≤ len ∧ len ≤ 1024)
  | _ => len == 32

/-- The payload room of a flow's datagrams (R218). -/
def Dev.room (d : Dev) (f : Nat) : Nat :=
  d.mtu (d.val (F.NET_Ff_CFG_PORT f)) - (if d.on (F.NET_Ff_CFG_IPV6 f) then 80 else 60)

/-- The addressing of a flow's datagrams (R216). `fr` gives the bit that no register does (DESIGN CHOICE, log entry 28). -/
def Dev.flowAddr (d : Dev) (f fr : Nat) : Addressing :=
  let n := d.val (F.NET_Ff_CFG_PORT f)
  let v6 := d.on (F.NET_Ff_CFG_IPV6 f)
  { dmac := d.val (F.NET_Ff_DMAC f) % 2 ^ 48, smac := d.portMac n
    tag := if d.on (F.NET_Ff_CFG_VLAN_EN f) then
        some (d.val (F.NET_Ff_TAG_PCP f) * 8192 + fr / 2 ^ 24 % 2 * 4096 + d.val (F.NET_Ff_TAG_VID f)) else none
    v6 := v6, sip := d.portIp n v6
    dip := if v6 then [0, 1, 2, 3].flatMap (fun k => bytesBE 4 (d.val (F.NET_Ff_DIPk f k)))
      else bytesBE 4 (d.val (F.NET_Ff_DIPk f 0))
    dscp := d.val (F.NET_Ff_TAG_DSCP f), ttl := d.val (F.NET_Ff_TAG_TTL f)
    sport := d.val (F.NET_Ff_UDP_SRC f), dport := d.val (F.NET_Ff_UDP_DST f) }

/-- The 32-byte header of a datagram (R217). -/
def Dev.dgramHeader (d : Dev) (f flags num off len : Nat) : List Byte :=
  [0x52, 0x53, 0x01, BitVec.ofNat 8 (d.flowType f)] ++ bytesLE 2 d.unitAddr
    ++ [BitVec.ofNat 8 f, BitVec.ofNat 8 flags] ++ bytesLE 4 (d.val (F.NET_Ff_SEQ f)) ++ bytesLE 4 num
    ++ bytesLE 4 off ++ bytesLE 4 len ++ bytesLE 8 (d.val F.MER_TIME)

/-- A datagram of flow `f` leaves its port, behind the frame on the wire (R214, R217, R219). DEDUCED, log entry 75. -/
def Dev.sendDgram (d : Dev) (f : Nat) (last raw gap : Bool) (num off len : Nat) (body : List Byte) : Dev :=
  let d := d.wireFree (d.val (F.NET_Ff_CFG_PORT f))
  let r := d.draw
  let d := r.2
  let fr := r.1.toNat
  let flags := b2n last + 2 * b2n raw + 4 * b2n gap
  let frame := udpFrame (d.flowAddr f fr) fr (d.dgramHeader f flags num off len ++ body)
  let d := d.netOut (d.val (F.NET_Ff_CFG_PORT f)) frame
  (d.put (F.NET_Ff_SEQ f) ((d.val (F.NET_Ff_SEQ f) + 1) % 2 ^ 32)).inc (F.NET_Ff_DGRAM_CNT f)

/-! ### Taking items (R216, R219, R222) -/

/-- The flow runs, or completes what it has begun. -/
def Dev.flowRuns (d : Dev) (f : Nat) : Bool := d.runs (F.NET_Ff_CFG_EN f) (F.NET_Ff_STAT_IDLE f)
def Dev.flowDrains (d : Dev) (f : Nat) : Bool := d.drains (F.NET_Ff_CFG_EN f) (F.NET_Ff_STAT_IDLE f)

/-- The item that the flow is taking is given up; what it has not read of it is discarded in the queue. -/
def Dev.flowForget (d : Dev) (f : Nat) : Dev :=
  let x := d.nflow f
  let q := d.val (F.NET_Ff_CFG_QUEUE f)
  let d := if x.item.isSome ∧ 0 < x.left then d.queClose q else d
  let d := d.setNflow f { x with item := none, buf := [], left := 0, off := 0, raw := false, launch := none, due := false, gap := true }
  d.mark (F.NET_Ff_STAT_HELD f) false

/-- The item being taken is discarded and counted (R216, R219, R220). -/
def Dev.flowDiscard (d : Dev) (f : Nat) : Dev := (d.flowForget f).inc (F.NET_Ff_DISC_CNT f)

/-- Where the item's launch time stands against device time (R222): the item is dropped, held or due. One of which
fragments have left is no longer at the head. -/
def Dev.launchJudge (d : Dev) (f : Nat) : Dev :=
  let x := d.nflow f
  match if x.off = 0 then x.launch else none with
  | none => d
  | some t =>
    let ahead := t - d.devTime
    if 0 < ahead then
      if 1000000 * (max 1 (d.val (F.NET_Ff_LAUNCH_MAX f)) : Int) < ahead then
        ((d.flowForget f).raise (F.NET_Ff_FLAG_FAR_DROP f)).inc (F.NET_Ff_FAR_DROP_CNT f)
      else (d.setNflow f { x with due := false }).mark (F.NET_Ff_STAT_HELD f) true
    else if (d.val (F.NET_Ff_LATE_WIN f) : Int) < -ahead then
      ((d.flowForget f).raise (F.NET_Ff_FLAG_LATE_DROP f)).inc (F.NET_Ff_LATE_DROP_CNT f)
    else (d.setNflow f { x with due := true }).mark (F.NET_Ff_STAT_HELD f) false

/-- Bytes of the item in progress are read from the queue as they come; a queue that was flushed ends it (R249). -/
def Dev.flowRead (d : Dev) (f : Nat) : Dev :=
  let x := d.nflow f
  let q := d.val (F.NET_Ff_CFG_QUEUE f)
  if x.item.isNone ∨ x.left = 0 then d
  else if (d.queue q).flushed then (d.setQueue q { d.queue q with flushed := false }).flowDiscard f
  else
    let r := d.queWords q (dataWords x.left)
    let got := (itemBytes (8 * r.2.length) r.2).take x.left
    let buf := x.buf ++ got
    let x := { x with buf := buf, left := x.left - got.length }
    -- the launch time is the item's first eight bytes (R222)
    let start := d.on (F.NET_Ff_CFG_LAUNCH f) && x.launch.isNone && ! x.due && x.off == 0 && decide (8 ≤ buf.length)
    if start then
      (r.1.setNflow f { x with buf := buf.drop 8, launch := some (toSigned 64 (leAt buf 0 8)) }).launchJudge f
    else r.1.setNflow f x

/-- The flow opens the item at the head of its queue (R216). FIX records without launch times are taken by
`fixTake`. -/
def Dev.flowOpen (d : Dev) (f : Nat) (fault : Bool) : Dev :=
  let x := d.nflow f
  if x.item.isSome ∨ ¬ d.flowRuns f ∨ d.flowType f = 6 then d
  else
    let r := d.queOpen (d.val (F.NET_Ff_CFG_QUEUE f)) fault
    match r.2 with
    | none => r.1
    | some h =>
      let lead := if d.on (F.NET_Ff_CFG_LAUNCH f) then 8 else 0
      let d := r.1.setNflow f { x with item := some (h.1 - lead), num := x.itemNo, left := h.1, off := 0, buf := []
                                       itemNo := (x.itemNo + 1) % 2 ^ 32 }
      if h.1 < lead ∨ ! typeAdmits (d.flowType f) (h.1 - lead) then
        (d.flowDiscard f).raise (F.NET_Ff_FLAG_FORMAT f)
      else d.flowRead f

/-- FIX records go into one datagram up to the room (R218). -/
def Dev.fixCap (d : Dev) (f : Nat) : Nat := max 1 (d.room f / 64)

/-- The records a FIX flow takes into the datagram it packs: at most `n` items. -/
def Dev.fixTake (f : Nat) : Nat → Bool → Dev → Dev
  | 0, _, d => d
  | n + 1, fault, d =>
    let x := d.nflow f
    if d.fixCap f ≤ x.fix.length ∨ (x.fixDue ∧ ! x.fix.isEmpty) then d
    else
      let d := d.flowOpen f fault
      let y := d.nflow f
      match y.item with
      | none =>
        -- an item discarded between two records makes the item number jump: the datagram ends before it, and the one after
        -- carries GAP (R217)
        if y.itemNo = x.itemNo then d
        else if y.fix.isEmpty then Dev.fixTake f n false d
        else d.setNflow f { y with fixDue := true }
      | some _ =>
        if 0 < y.left then d
        else
          let first := y.fix.isEmpty
          let d := d.setNflow f { y with item := none, buf := [], fix := y.fix ++ [y.buf]
                                         fixNo := if first then y.num else y.fixNo, fixAt := if first then d.now else y.fixAt
                                         fixDue := y.fixDue && ! first
                                         fixGap := if first then y.gap else y.fixGap, gap := y.gap && ! first }
          Dev.fixTake f n false d

/-- A FIX flow whose records carry no launch times packs them. -/
def Dev.packs (d : Dev) (f : Nat) : Bool := d.flowType f == 1 && ! d.on (F.NET_Ff_CFG_LAUNCH f)

/-- The flow takes what its queue holds, as far as it can send it; a held launch time is judged again. -/
def Dev.flowTake (d : Dev) (f : Nat) (fault : Bool) : Dev :=
  if d.packs f then
    let d := d.flowRead f
    Dev.fixTake f (2 * d.fixCap f) fault d
  else
    let d := (d.flowRead f).launchJudge f
    d.flowOpen f fault

/-- The flow has a datagram to send (R218, R219). -/
def Dev.flowReady (d : Dev) (f : Nat) : Bool :=
  let x := d.nflow f
  if d.packs f then
    ! x.fix.isEmpty && (decide (d.fixCap f ≤ x.fix.length) || x.fixDue || d.flowDrains f
      || d.val (F.NET_Ff_HOLD f) == 0 || decide (x.fixAt + 1000 * d.val (F.NET_Ff_HOLD f) ≤ d.now))
  else x.item.isSome && (! d.on (F.NET_Ff_CFG_LAUNCH f) || x.due) && (x.left == 0 || decide (d.room f ≤ x.buf.length))

/-- A stopping flow that owes nothing more sets IDLE (R220). -/
def Dev.flowSettle (d : Dev) (f : Nat) : Dev :=
  let x := d.nflow f
  if d.flowDrains f ∧ x.item.isNone ∧ x.fix.isEmpty then (d.drained (F.NET_Ff_CFG_EN f) (F.NET_Ff_STAT_IDLE f)).1 else d

/-- The flow sends its next datagram (R217, R218). -/
def Dev.flowSend (d : Dev) (f : Nat) : Dev :=
  let x := d.nflow f
  if d.packs f then
    let k := if d.val (F.NET_Ff_HOLD f) = 0 then 1 else d.fixCap f
    let now := x.fix.take k
    let d := d.sendDgram f true false x.fixGap x.fixNo 0 64 now.flatten
    let d := d.setNflow f { d.nflow f with fix := x.fix.drop k, fixNo := (x.fixNo + now.length) % 2 ^ 32, fixGap := false
                                           fixDue := x.fixDue && decide (k < x.fix.length) }
    (d.bump (F.NET_Ff_ITEM_CNT f) now.length).flowSettle f
  else
    let len := x.item.getD 0
    let body := x.buf.take (d.room f)
    let last := decide (len ≤ x.off + body.length)
    let raw := if x.off = 0 then d.flowType f == 2 && bitOf (leAt body 3 1) 0 else x.raw
    let d := d.sendDgram f last raw x.gap x.num x.off len body
    let y := { d.nflow f with gap := false }
    if last then
      let d := d.setNflow f { y with item := none, buf := [], off := 0, launch := none, due := false, raw := false }
      (d.inc (F.NET_Ff_ITEM_CNT f)).flowSettle f
    else d.setNflow f { y with buf := x.buf.drop (d.room f), off := x.off + body.length, raw := raw }

/-! ### Ports serve flows (R219, R222) -/

/-- The flows of a port that run or drain. -/
def Dev.flowsOf (d : Dev) (n : Nat) : List Nat :=
  (List.range 32).filter (fun f => d.val (F.NET_Ff_CFG_PORT f) == n && (d.flowRuns f || d.flowDrains f))

/-- While the link is down, a flow with DISC_DOWN = 1 takes items and discards them; what it has begun goes with
them. Each pass takes one item. -/
def Dev.flowDown (f : Nat) : Nat → Dev → Dev
  | 0, d => d
  | k + 1, d =>
    let x := d.nflow f
    let n := x.fix.length
    let d := (d.setNflow f { x with fix := [], gap := x.gap || decide (0 < n) }).bump (F.NET_Ff_DISC_CNT f) n
    let d := if x.item.isSome then d.flowDiscard f else d
    let d := d.flowOpen f false
    if (d.nflow f).item.isNone then d.flowSettle f else Dev.flowDown f k d

/-- Every DISC_DOWN flow of a port whose link is down. -/
def Dev.portDown (d : Dev) (n : Nat) : Dev :=
  (d.flowsOf n).foldl (fun d f =>
    if d.on (F.NET_Ff_CFG_DISC_DOWN f) then
      Dev.flowDown f ((d.queue (d.val (F.NET_Ff_CFG_QUEUE f))).items.length + 2) d else d) d

/-- The flow that a port serves next: launch-time items that are due, by priority and then flow number; then
strict priority, and round-robin among equals (R219, R222). -/
def Dev.nextFlow (d : Dev) (n : Nat) : Option Nat :=
  let ready := (d.flowsOf n).filter (fun f => d.flowReady f)
  let prio := fun (f : Nat) => d.val (F.NET_Ff_CFG_PRIO f)
  match (orderBy (fun a b => decide (prio b < prio a)) (ready.filter (fun f => (d.nflow f).due))) with
  | f :: _ => some f
  | [] =>
    match [3, 2, 1, 0].find? (fun p => ready.any (fun f => prio f == p)) with
    | none => none
    | some p =>
      let eq := ready.filter (fun f => prio f == p)
      let lastF := tabGet 31 (d.nport n).rr p
      (eq.find? (fun f => decide (lastF < f))).or eq.head?

/-- The flow reads its queue at the next boundary: an item it has begun, or one that can be opened. -/
def Dev.flowWants (d : Dev) (f : Nat) : Bool :=
  decide (0 < (d.nflow f).left) || d.queReady (d.val (F.NET_Ff_CFG_QUEUE f))

/-- One frame boundary of a port. The words that fail parity are those that the first flow to read its queue reads. -/
def Dev.portSend (d : Dev) (n : Nat) (hdr : Bool) (bad : List Nat) : Dev :=
  if ! d.linkSeen n then d.portDown n
  else
    let fs := d.flowsOf n
    let hit := fs.find? (fun f => d.flowWants f)
    let d := match hit with
      | some f => d.spoil (d.val (F.NET_Ff_CFG_QUEUE f)) bad
      | none => d
    let d := fs.foldl (fun (d : Dev) f => d.flowTake f (hdr && hit == some f)) d
    match d.nextFlow n with
    | none => d
    | some f =>
      let p := d.nport n
      let d := if (d.nflow f).due then d
        else d.setNport n { p with rr := tabSet 31 p.rr (d.val (F.NET_Ff_CFG_PRIO f)) f }
      d.flowSend f

/-- DATAGRAM_SEND (R214, R216 to R219, R222). -/
def execDatagramSend (n : Fin 8) (hdr : Bool) (s : State) (bad : List Nat := []) : Host.Outcome State Fault Refusal :=
  onDev (fun d => d.portSend n hdr bad) s

/-- FIX_HOLD_EXPIRY (R218): the packing time of a partly filled FIX datagram ends, and it leaves. -/
def execFixHoldExpiry (f : Fin 32) (s : State) : Host.Outcome State Fault Refusal :=
  onDev (fun d =>
    let x := d.nflow f
    if x.fix.isEmpty then d
    else
      let d := d.reach (x.fixAt + 1000 * d.val (F.NET_Ff_HOLD f))
      let d := d.setNflow f { d.nflow f with fixDue := true }
      d.portSend (d.val (F.NET_Ff_CFG_PORT f)) false []) s

/-- LAUNCH_TIME (R222): device time reaches the launch time of a held item, or has been stepped past it or away
from it. -/
def execLaunchTime (f : Fin 32) (s : State) : Host.Outcome State Fault Refusal :=
  onDev (fun d =>
    let d := d.launchJudge f
    match (d.nflow f).launch with
    | none => d
    | some t => ((d.reachDev t).launchJudge f).portSend (d.val (F.NET_Ff_CFG_PORT f)) false []) s

/-! ### Stopping a flow or a port (R215, R220) -/

/-- The fragments still owed leave one after the other. -/
def Dev.flowFinish (f : Nat) : Nat → Dev → Dev
  | 0, d => d
  | k + 1, d =>
    let d := d.flowRead f
    if d.flowDrains f ∧ d.flowReady f ∧ d.linkSeen (d.val (F.NET_Ff_CFG_PORT f)) then Dev.flowFinish f k (d.flowSend f) else d

/-- EN of a flow is cleared (R220). An item of which nothing has been sent, a launch-time item held among them, is
discarded; with the link down nothing more can be sent, and what was begun is discarded too (DEDUCED, log entry 29). -/
def Dev.flowDisable (d : Dev) (f : Nat) : Dev :=
  if ! d.on (F.NET_Ff_CFG_EN f) then d
  else
    let x := d.nflow f
    let down := ! d.linkSeen (d.val (F.NET_Ff_CFG_PORT f))
    let d := d.stopIntake (F.NET_Ff_CFG_EN f)
    let d := if x.item.isSome ∧ (down ∨ (x.off = 0 ∧ d.on (F.NET_Ff_CFG_LAUNCH f))) then d.flowDiscard f else d
    let d := if down then
        (d.setNflow f { d.nflow f with fix := [], gap := x.gap || ! x.fix.isEmpty }).bump (F.NET_Ff_DISC_CNT f) x.fix.length
      else d
    (Dev.flowFinish f (divCeil (x.item.getD 0) (d.room f) + x.fix.length + 1) d).flowSettle f

/-- EN of a flow is set (R9). -/
def Dev.flowEnable (d : Dev) (f : Nat) : Dev := (d.startIntake (F.NET_Ff_CFG_EN f) (F.NET_Ff_STAT_IDLE f)).1

/-- FLOW_DISABLE (R220). -/
def execFlowDisable (f : Fin 32) (s : State) : Host.Outcome State Fault Refusal := onDev (fun d => d.flowDisable f) s

/-- ABORT of a flow (R220): everything it has taken is discarded and counted. -/
def Dev.flowAbort (d : Dev) (f : Nat) : Dev :=
  let x := d.nflow f
  let d := if x.item.isSome then d.flowDiscard f else d
  let d := (d.setNflow f { d.nflow f with fix := [], gap := (d.nflow f).gap || ! x.fix.isEmpty }).bump (F.NET_Ff_DISC_CNT f) x.fix.length
  d.abortBits (F.NET_Ff_CFG_EN f) (F.NET_Ff_STAT_IDLE f)

/-- FLOW_ABORT (R220). -/
def execFlowAbort (f : Fin 32) (s : State) : Host.Outcome State Fault Refusal := onDev (fun d => d.flowAbort f) s

/-- A stopping port whose frame has left the wire is idle (R215). -/
def Dev.wireSettle (d : Dev) (n : Nat) : Dev :=
  if d.drains (F.NETn_CFG_EN n) (F.NETn_STAT_IDLE n) ∧ ! d.sending n then (d.drained (F.NETn_CFG_EN n) (F.NETn_STAT_IDLE n)).1 else d

/-- The link is seen to go down at a port that carried one (R215, R226). -/
def Dev.seenDown (d : Dev) (n : Nat) (was : Bool) : Dev :=
  if was ∧ ! d.linkSeen n then d.setNport n { d.nport n with downAt := d.now } else d

/-- EN of a port is cleared (R215): the frame on the wire is completed, and then the port is idle. -/
def Dev.portStop (d : Dev) (n : Nat) : Dev :=
  if ! d.on (F.NETn_CFG_EN n) then d
  else (((d.stopIntake (F.NETn_CFG_EN n)).seenDown n (d.linkSeen n)).wireSettle n).portDown n

/-- The frame of a stopping port leaves the wire. -/
def Dev.portDrained (d : Dev) (n : Nat) : Dev :=
  if d.drains (F.NETn_CFG_EN n) (F.NETn_STAT_IDLE n) then (d.reach ((d.nport n).nextTx - 4)).wireSettle n else d

/-- ABORT of a port (R215): the frame on the wire is cut. -/
def Dev.portCut (d : Dev) (n : Nat) : Dev :=
  let was := d.linkSeen n
  let d := if d.sending n then (d.setNport n { d.nport n with nextTx := d.now }).emit (.netCut n) else d
  ((d.abortBits (F.NETn_CFG_EN n) (F.NETn_STAT_IDLE n)).seenDown n was).portDown n

/-! ### The link (R213) -/

/-- The link rises or falls. -/
def Dev.linkSet (d : Dev) (n : Nat) (up : Bool) : Dev :=
  if up = d.on (F.NETn_STAT_LINK n) then d
  else if up then (d.mark (F.NETn_STAT_LINK n) true).raise (F.NETn_FLAG_LINK_UP n)
  else ((((d.mark (F.NETn_STAT_LINK n) false).seenDown n (d.linkSeen n)).raise (F.NETn_FLAG_LINK_DOWN n)).inc
    (F.NETn_LINK_DOWN_CNT n)).portDown n

/-- LINK judged by what the port holds now; a rise waits until 10 ms have passed since the last fault (R213). -/
def Dev.linkJudge (d : Dev) (n : Nat) : Dev :=
  let hold := d.on (F.NETn_STAT_BLOCK_LOCK n) && (! d.on (F.NETn_CFG_FEC n) || d.on (F.NETn_STAT_FEC_ALIGN n))
    && ! d.on (F.NETn_STAT_LOCAL_FAULT n) && ! d.on (F.NETn_STAT_REMOTE_FAULT n)
  if ! hold then d.linkSet n false
  else if (d.nport n).faultAt + 10000000 ≤ d.now then d.linkSet n true
  else d

/-- FEC written: a port that changes it holds no alignment (R213). -/
def Dev.fecWrite (d : Dev) (n : Nat) (was : Bool) : Dev :=
  if d.on (F.NETn_CFG_FEC n) = was then d else (d.mark (F.NETn_STAT_FEC_ALIGN n) false).linkJudge n

/-- NET_LINK_CHANGE (R213, R219): block lock, FEC alignment and the faults received become these; the link is up
once block lock and alignment hold and no fault has been received for 10 ms. A fault lasts until the command that
reports it gone. -/
def execNetLinkChange (n : Fin 8) (lock align locFault remFault : Bool) (s : State) : Host.Outcome State Fault Refusal :=
  onDev (fun d =>
    let fec := d.on (F.NETn_CFG_FEC n)
    let fault := d.on (F.NETn_STAT_LOCAL_FAULT n) || d.on (F.NETn_STAT_REMOTE_FAULT n) || locFault || remFault
    let d := if fault then d.setNport n { d.nport n with faultAt := d.now } else d
    let d := d.mark (F.NETn_STAT_BLOCK_LOCK n) lock
    let d := d.mark (F.NETn_STAT_FEC_ALIGN n) (align && fec)
    let d := (d.mark (F.NETn_STAT_LOCAL_FAULT n) locFault).mark (F.NETn_STAT_REMOTE_FAULT n) remFault
    let up := lock && (align || ! fec) && ! locFault && ! remFault
    (if up then d.reach ((d.nport n).faultAt + 10000000) else d).linkJudge n) s

/-- UNCORRECTABLE_CODEWORD (R213): a codeword of a port with RS-FEC that has been corrected, or cannot be. -/
def execUncorrectableCodeword (n : Fin 8) (corrected : Bool) (s : State) : Host.Outcome State Fault Refusal :=
  onDev (fun d =>
    if ! d.on (F.NETn_CFG_FEC n) then d
    else if corrected then d.inc (F.NETn_FEC_CORR_CNT n)
    else (d.inc (F.NETn_FEC_UNCORR_CNT n)).raise (F.NETn_FLAG_FEC_UNCORR n)) s

/-! ### Position over the network (R62, R221) -/

/-- The position payload given to the flow that NET_POS names, when that is an enabled POS flow. It takes the payload
while its port is up; with the link down it discards it or takes none (R216, R219). DEDUCED, log entry 76. -/
def Dev.posSend (d : Dev) (f : Nat) : Dev :=
  let x := d.nflow f
  let y : Flow := { x with itemNo := (x.itemNo + 1) % 2 ^ 32 }
  if d.flowType f ≠ 6 ∨ ¬ d.flowRuns f then d
  else if d.linkSeen (d.val (F.NET_Ff_CFG_PORT f)) then
    let d := d.sendDgram f true false x.gap x.itemNo 0 32 (d.posPayload 0)
    (d.setNflow f { y with gap := false }).inc (F.NET_Ff_ITEM_CNT f)
  else if d.on (F.NET_Ff_CFG_DISC_DOWN f) then (d.setNflow f { y with gap := true }).inc (F.NET_Ff_DISC_CNT f)
  else d

/-- POS_PAYLOAD_SEND (R62, R216): every PERIOD µs the master's payload goes to the flow that NET_POS names. -/
def execPosPayloadSend (s : State) : Host.Outcome State Fault Refusal :=
  onDev (fun d =>
    if ! d.on F.TRG_CTRL_BCN_MASTER ∨ ! d.on F.TRG_CTRL_BCN_NET_TX then d
    else
      let d := (d.reach (d.trg.netAt + 1000 * max 1 (d.val F.TRG_LS_NET_PERIOD))).tickUnit
      ({ d with trg := { d.trg with netAt := d.now } } : Dev).posSend (d.val F.NET_POS_FLOW)) s

/-- A datagram is a position payload of the unit that NET_POS names (R217, R221). -/
def Dev.posAccepts (d : Dev) (g : List Byte) : Bool :=
  d.on F.NET_POS_RX_EN && g.take 4 == [0x52, 0x53, 0x01, 0x06] && leAt g 4 2 == d.val F.NET_POS_SRC_UNIT
    && leAt g 20 4 == 32 && leAt g 16 4 == 0 && g.length == 64

/-- POS (R62, R221): the UDP payload of an accepted POS datagram; its position refers to the header's device time. -/
def execPos (n : Fin 8) (dgram : List Byte) (s : State) : Host.Outcome State Fault Refusal :=
  onDev (fun d =>
    if ! d.linkSeen n ∨ ! d.posAccepts dgram then d
    else
      let d := d.inc F.NET_POS_RX_CNT
      let p := dgram.drop 32
      let age := d.devTime - toSigned 64 (leAt dgram 24 8)
      if 1000 * (d.val F.TRG_LS_NET_MAXAGE : Int) < age then (d.inc F.TRG_NET_STALE_CNT).raise F.TRG_FLAG_NET_STALE
      else if d.posSrc = 2 then d.takePosition p ((d.now : Int) - age)
      else d) s

end Sys2Proof.Machine
end

