-- ==== Sys2Proof/Machine/Meridian.lean ====
section
/-! DEFINITION. The network time domains: PTP messages received and sent, offsets, path delays and lock states
(R223, R224, R226, R230, R231), and the filter of received frames (R214). Message layouts are those of
IEEE 1588-2019, which R224 names (PRESUMED, log entry 30). Stamps are in 1/16 ns. -/
namespace Sys2Proof.Machine

/-! ### Messages -/

def ptpType (m : List Byte) : Nat := beAt m 0 1 % 16
def ptpSeq (m : List Byte) : Nat := beAt m 30 2
/-- correctionField: 2^-16 ns, in 1/16 ns, rounded down. -/
def ptpCorr (m : List Byte) : Int := toSigned 64 (beAt m 8 8) / 4096
/-- The timestamp of a message body, in 1/16 ns. -/
def ptpTime (m : List Byte) : Int := 16 * ((beAt m 34 6 : Int) * 1000000000 + beAt m 40 4)
/-- The identity of the sending port: clockIdentity and portNumber. -/
def ptpFrom (m : List Byte) : Nat × Nat := (beAt m 20 8, beAt m 28 2)
/-- requestingPortIdentity of a response. -/
def ptpFor (m : List Byte) : Nat × Nat := (beAt m 44 8, beAt m 52 2)
def ptpTwoStep (m : List Byte) : Bool := bitOf (beAt m 6 1) 1
/-- logMessageInterval, in the range the device supports (R224). -/
def ptpLog (m : List Byte) : Int := toSigned 8 (beAt m 33 1)

/-- A message of version 2 for the domain's domainNumber, of its full length. -/
def Dev.ptpMine (d : Dev) (i : Nat) (m : List Byte) : Bool :=
  beAt m 1 1 % 16 == 2 && beAt m 4 1 == d.val (F.MER_Dd_CFG_DOMAIN i)
    && decide ((if ptpType m = 11 then 64 else if 9 ≤ ptpType m ∨ ptpType m = 2 ∨ ptpType m = 3 then 54 else 44) ≤ m.length)

/-- The domain runs and sees its port's link (R215, R226). -/
def Dev.domLive (d : Dev) (i : Nat) : Bool :=
  d.on (F.MER_Dd_CFG_EN i) && d.linkSeen (d.val (F.MER_Dd_CFG_PORT i))

/-- The message comes from the chosen master. -/
def Dev.fromMaster (d : Dev) (i : Nat) (m : List Byte) : Bool :=
  match (d.dom i).best with
  | some b => ptpFrom m == (b.srcId, b.srcPort)
  | none => false

/-- The unit's clockIdentity: the port's MAC address with FF FE in its middle; its portNumber is 1 (PRESUMED, log entry 30). -/
def Dev.clockId (d : Dev) (n : Nat) : Nat :=
  let m := d.portMac n
  m / 2 ^ 24 * 2 ^ 40 + 0xFFFE * 2 ^ 24 + m % 2 ^ 24
def Dev.ownPort (d : Dev) (i : Nat) : Nat × Nat := (d.clockId (d.val (F.MER_Dd_CFG_PORT i)), 1)

/-- A signed register of 16 bits. -/
def Dev.signed16 (d : Dev) (f : Fld) : Int := toSigned 16 (d.val f % 65536)
def Dev.latRx (d : Dev) (i : Nat) : Int := d.signed16 (F.NETn_LAT_RX (d.val (F.MER_Dd_CFG_PORT i)))
def Dev.latTx (d : Dev) (i : Nat) : Int := d.signed16 (F.NETn_LAT_TX (d.val (F.MER_Dd_CFG_PORT i)))

/-! ### Offsets (R226, R228, R229, R231) -/

/-- Both domains LOCKED or in PATH_HOLD: DISAGREE, and since when it has exceeded THR (R231). -/
def Dev.disagree (d : Dev) : Dev :=
  let live := fun (i : Nat) => d.srcState i == 2 || d.srcState i == 4
  if ! (live 0 && live 1) then { d with mer := { d.mer with disSince := none } }
  else
    let g := (d.dom 0).offset - (d.dom 1).offset
    let d := d.putSat F.MER_DISAGREE g
    if d.val F.MER_ASYM_THR < g.natAbs then
      let since := d.mer.disSince.getD d.now
      let d := { d with mer := { d.mer with disSince := some since } }
      d.raiseIf (decide (since + 1000000000 * max 1 (d.val F.MER_ASYM_DWELL) ≤ d.now)) F.MER_FLAG_ASYM_SUSPECT
    else { d with mer := { d.mer with disSince := none } }

/-- A Sync with origin `t1` received at `t2`, both in 1/16 ns (R226): accepted when a valid delay exists and no outlier
stands against it (R230). -/
def Dev.domSample (d : Dev) (i : Nat) (t1 t2 : Int) : Dev :=
  let x := { d.dom i with lastT1 := t1, lastT2 := t2, syncWait := false }
  let d := d.setDom i x
  if ! x.delayOk ∨ x.badDelay then
    if d.srcState i = 1 then d.put (F.MER_Dd_STAT_ACCEPTED i) 0 else d
  else
    let o := (t2 - t1 - d.val (F.MER_Dd_DELAY i)) / 16
    let ts := match x.sampleAt with
      | some t => d.now - t
      | none => 0
    let d := d.setDom i { x with offset := o, sampleAt := some d.now }
    let d := (d.puti (F.MER_Dd_OFFSET i) o).inc (F.MER_Dd_SYNC_CNT i)
    let n := min 8 (d.val (F.MER_Dd_STAT_ACCEPTED i) + 1)
    let d := d.put (F.MER_Dd_STAT_ACCEPTED i) n
    let d := if d.srcState i = 1 ∧ 8 ≤ n then d.srcSet i 2 else d
    (d.servo i o ts).disagree

/-- A Sync that the domain uses: its master's, at an interval that the device supports (R224). -/
def Dev.syncFits (d : Dev) (i : Nat) (m : List Byte) : Bool := d.fromMaster i m && decide (-7 ≤ ptpLog m ∧ ptpLog m ≤ 1)

/-- A Follow_Up that the domain uses: that of the two-step Sync that waits for it. -/
def Dev.followFits (d : Dev) (i : Nat) (m : List Byte) : Bool :=
  d.fromMaster i m && (d.dom i).syncWait && ptpSeq m == (d.dom i).syncSeq

/-- A Delay_Resp that the domain uses: its master's answer to its own request, with a Sync to set against it. -/
def Dev.respFits (d : Dev) (i : Nat) (m : List Byte) : Bool :=
  let x := d.dom i
  d.fromMaster i m && ! d.on (F.MER_Dd_CFG_DELAY i) && ptpFor m == d.ownPort i && x.reqWait && ptpSeq m == x.reqSeq
    && x.lastAt.isSome && ! x.syncWait

/-- A Pdelay_Resp or its follow-up that the domain uses: the answer to its own request. -/
def Dev.peerFits (d : Dev) (i : Nat) (m : List Byte) : Bool :=
  d.on (F.MER_Dd_CFG_DELAY i) && ptpFor m == d.ownPort i && (d.dom i).reqWait && ptpSeq m == (d.dom i).reqSeq

/-- SYNC (R223, R224, R226, R228 to R231). -/
def execSync (i : Fin 2) (msg : List Byte) (t2 : Int) (s : State) : Host.Outcome State Fault Refusal :=
  onDev (fun d =>
    if ! d.domLive i ∨ ! d.ptpMine i msg ∨ ptpType msg ≠ 0 ∨ ! d.syncFits i msg then d
    else
      let d := d.put (F.MER_Dd_STAT_LOG_SYNC i) (fromSigned 8 (ptpLog msg))
      let d := if d.srcState i = 3 then (d.srcSet i 1).put (F.MER_Dd_STAT_ACCEPTED i) 0 else d
      let t2 := t2 - d.latRx i
      let x := { d.dom i with lastAt := some d.now }
      if ptpTwoStep msg then
        d.setDom i { x with syncWait := true, syncSeq := ptpSeq msg, syncT2 := t2, syncCorr := ptpCorr msg }
      else (d.setDom i x).domSample i (ptpTime msg + ptpCorr msg) t2) s

/-- FOLLOW_UP (R224): the origin time of the two-step Sync that waits for it. -/
def execFollowUp (i : Fin 2) (msg : List Byte) (s : State) : Host.Outcome State Fault Refusal :=
  onDev (fun d =>
    let x := d.dom i
    if ! d.domLive i ∨ ! d.ptpMine i msg ∨ ptpType msg ≠ 8 ∨ ! d.followFits i msg then d
    else d.domSample i (ptpTime msg + ptpCorr msg + x.syncCorr) x.syncT2) s

/-! ### Masters (R224, R226) -/

/-- The dataset of an Announce. -/
def ptpForeign (m : List Byte) : Foreign :=
  { prio1 := beAt m 47 1, cls := beAt m 48 1, acc := beAt m 49 1, var := beAt m 50 2, prio2 := beAt m 52 1
    gmId := beAt m 53 8, steps := beAt m 61 2, srcId := beAt m 20 8, srcPort := beAt m 28 2 }

/-- The first list comes before the second in lexicographic order. -/
def lexLt : List Nat → List Nat → Bool
  | a :: as, b :: bs => decide (a < b) || (a == b && lexLt as bs)
  | [], _ :: _ => true
  | _, [] => false

/-- The dataset comparison of the standard: two grandmasters by their attributes and identity, two ways to one by
steps removed and sender. -/
def Foreign.better (a b : Foreign) : Bool :=
  if a.gmId = b.gmId then lexLt [a.steps, a.srcId, a.srcPort] [b.steps, b.srcId, b.srcPort]
  else lexLt [a.prio1, a.cls, a.acc, a.var, a.prio2, a.gmId] [b.prio1, b.cls, b.acc, b.var, b.prio2, b.gmId]

/-- A master is chosen: MASTER_CHANGE, and ACQUIRE with no delay measured to it (R226; DEDUCED, log entry 31). -/
def Dev.chooseMaster (d : Dev) (i : Nat) (f : Foreign) : Dev :=
  let d := d.setDom i { best := some f, reqSeq := (d.dom i).reqSeq }
  let d := (d.put (F.MER_Dd_MASTER_ID i) f.srcId).put (F.MER_Dd_MASTER_PORT i) f.srcPort
  let d := (d.raise (F.MER_Dd_FLAG_MASTER_CHANGE i)).put (F.MER_Dd_STAT_ACCEPTED i) 0
  (d.srcSet i 1).disagree

/-- An Announce that the standard admits: fewer than 255 steps removed. -/
def Foreign.usable (f : Foreign) : Bool := decide (f.steps < 255)

/-- ANNOUNCE (R224, R226). In HOLDOVER, when the chosen master is silent, any other takes its place (DEDUCED, log entry
31). -/
def execAnnounce (i : Fin 2) (msg : List Byte) (s : State) : Host.Outcome State Fault Refusal :=
  onDev (fun d =>
    if ! d.domLive i ∨ ! d.ptpMine i msg ∨ ptpType msg ≠ 11 then d
    else
      let f := ptpForeign msg
      if ! f.usable then d
      else
        let x := d.dom i
        let d := d.setDom i { x with announceAt := d.now }
        match x.best with
        | none => d.chooseMaster i f
        | some b =>
          if (b.srcId, b.srcPort) = (f.srcId, f.srcPort) then d.setDom i { x with best := some f, announceAt := d.now }
          else if d.srcState i = 3 ∨ f.better b then d.chooseMaster i f
          else d) s

/-- The instant from which SYNC_TIMEOUT runs: the last Sync of a domain that was LOCKED, or in ACQUIRE the fall of the
port's link (R226). -/
def Dev.silentFrom (d : Dev) (i : Nat) : Option Nat :=
  match d.srcState i with
  | 1 => if d.domLive i then none else some (d.nport (d.val (F.MER_Dd_CFG_PORT i))).downAt
  | 2 => (d.dom i).lastAt
  | 4 => (d.dom i).lastAt
  | _ => none

/-- SYNC_TIMEOUT (R226, R232): no Sync for SYNC_TIMEOUT intervals after LOCKED, or the link down as long. The master stays
chosen, and its first Sync returns the domain to ACQUIRE. -/
def execSyncTimeout (i : Fin 2) (s : State) : Host.Outcome State Fault Refusal :=
  onDev (fun d =>
    match d.silentFrom i with
    | none => d
    | some t =>
      let n := max 1 (d.val (F.MER_Dd_SYNC_TIMEOUT i))
      let l := d.vali (F.MER_Dd_STAT_LOG_SYNC i)
      let every := if 0 ≤ l then 1000000000 * 2 ^ l.toNat else 1000000000 / 2 ^ (-l).toNat
      let d := d.reach (t + n * every)
      let d := d.setDom i { d.dom i with syncWait := false }
      ((d.srcSet i 3).put (F.MER_Dd_STAT_ACCEPTED i) 0).disagree) s

/-! ### Path delay (R223, R224, R230) -/

/-- A path change: the mean of the outliers, and PATH_HOLD (R230). -/
def Dev.pathChange (d : Dev) (i : Nat) : Dev :=
  let x := d.dom i
  let r := d.freeMean (x.outliers.foldl (· + ·) 0) x.outliers.length
  let d := r.1.put (F.MER_Dd_DELAY i) (clampI 0 (2 ^ 32 - 1) r.2).toNat
  let d := (d.raise (F.MER_Dd_FLAG_PATH_CHANGE i)).inc (F.MER_Dd_PATH_CHANGE_CNT i)
  (d.setDom i { x with outliers := [], badDelay := false, holdAt := d.now }).srcSet i 4

/-- A delay measurement, in 1/16 ns (R230). The first after a master was chosen is the mean itself (DEDUCED, log entry 31).
DEDUCED, log entry 77. -/
def Dev.delaySample (d : Dev) (i : Nat) (m : Int) : Dev :=
  let x := d.dom i
  let put := fun (d : Dev) (v : Int) => d.put (F.MER_Dd_DELAY i) (clampI 0 (2 ^ 32 - 1) v).toNat
  if ! x.delayOk then (put d m).setDom i { x with delayOk := true, reqWait := false }
  else
    let mean : Int := d.val (F.MER_Dd_DELAY i)
    if 16 * d.val (F.MER_Dd_GUARD i) < (m - mean).natAbs then
      let above := decide (mean < m)
      let run := if above = x.above then x.outliers ++ [m] else [m]
      let d := (d.inc (F.MER_Dd_OUTLIER_CNT i)).setDom i { x with outliers := run, above := above, badDelay := true, reqWait := false }
      if max 1 (d.val (F.MER_Dd_PATH_PATH_N i)) ≤ run.length then d.pathChange i else d
    else (put d (mean + (m - mean) / 16)).setDom i { x with outliers := [], badDelay := false, reqWait := false }

/-- The time of a message body, from 1/16 ns. -/
def ptpStamp (t : Int) : List Byte :=
  let ns := (t / 16).toNat
  bytesBE 6 (ns / 1000000000) ++ bytesBE 4 (ns % 1000000000)

/-- A PTP message of this unit: header and body (PRESUMED, log entry 30). `corr` is in 1/16 ns. -/
def Dev.ptpMsg (d : Dev) (i type seq : Nat) (corr : Int) (two : Bool) (body : List Byte) : List Byte :=
  let own := d.ownPort i
  [BitVec.ofNat 8 type, 0x12] ++ bytesBE 2 (34 + body.length) ++ bytesBE 1 (d.val (F.MER_Dd_CFG_DOMAIN i)) ++ [0]
    ++ [BitVec.ofNat 8 (2 * b2n two), 0] ++ bytesBE 8 (fromSigned 64 (4096 * corr)) ++ [0, 0, 0, 0]
    ++ bytesBE 8 own.1 ++ bytesBE 2 own.2 ++ bytesBE 2 seq ++ [if type = 1 then 1 else 5, 0x7F] ++ body

/-- The multicast addresses of the standard: peer delay messages, or all the others (R224). -/
def ptpMac (peer : Bool) : Nat := if peer then 0x0180C200000E else 0x011B19000000
def ptpIp (peer v6 : Bool) : List Byte :=
  match v6, peer with
  | false, false => [224, 0, 1, 129]
  | false, true => [224, 0, 0, 107]
  | true, false => [0xFF, 0x0E] ++ List.replicate 12 0 ++ [0x01, 0x81]
  | true, true => [0xFF, 0x02] ++ List.replicate 12 0 ++ [0x00, 0x6B]

/-- The MAC address that an IP multicast address is sent to. -/
def multicastMac (v6 : Bool) (ip : List Byte) : Nat :=
  if v6 then 0x333300000000 + beAt ip 12 4 else 0x01005E000000 + beAt ip 0 4 % 2 ^ 23

/-- A PTP message leaves on the domain's port, transport and VLAN (R223, R224, R226). The manual gives no priority
bits, DSCP and TTL: they are bits of a free value (DESIGN CHOICE, log entry 28). -/
def Dev.ptpSend (d : Dev) (i : Nat) (event peer : Bool) (msg : List Byte) : Dev :=
  let n := d.val (F.MER_Dd_CFG_PORT i)
  let t := d.val (F.MER_Dd_CFG_TRANSPORT i)
  let r := d.draw
  let fr := r.1.toNat
  let d := r.2
  let tag := if d.on (F.MER_Dd_CFG_VLAN_EN i) then some (fr / 2 ^ 24 % 16 * 4096 + d.val (F.MER_Dd_CFG_VID i)) else none
  if t = 1 ∨ t = 2 then
    let v6 := t == 2
    let ip := ptpIp peer v6
    let port := if event then 319 else 320
    d.netOut n (udpFrame { dmac := multicastMac v6 ip, smac := d.portMac n, tag := tag, v6 := v6, sip := d.portIp n v6,
                           dip := ip, dscp := fr / 2 ^ 28 % 64, ttl := fr / 2 ^ 34 % 256, sport := port, dport := port } fr msg)
  else d.netOut n (etherFrame (ptpMac peer) (d.portMac n) tag 0x88F7 msg)

/-- The present instant as the stamp of a message sent: device time, its fraction to 1/16 ns, plus the latency to the
optical plane (R223). -/
def Dev.stampTx (d : Dev) (i : Nat) : Int := 16 * d.devTime + (d.mer.frac / 2 ^ 28 : Nat) + d.latTx i

/-- DELAY_REQ (R224): a Delay_Req to the chosen master, or a Pdelay_Req to the peer. -/
def execDelayReq (i : Fin 2) (s : State) : Host.Outcome State Fault Refusal :=
  onDev (fun d =>
    let p2p := d.on (F.MER_Dd_CFG_DELAY i)
    let x := d.dom i
    if ! d.domLive i ∨ (! p2p ∧ x.best.isNone) then d
    else
      let seq := (x.reqSeq + 1) % 65536
      let d := d.wireFree (d.val (F.MER_Dd_CFG_PORT i))
      let t := d.stampTx i
      let body := ptpStamp t ++ (if p2p then List.replicate 10 0 else [])
      let d := d.setDom i { x with reqSeq := seq, reqT3 := t, reqWait := true }
      d.ptpSend i true p2p (d.ptpMsg i (if p2p then 2 else 1) seq 0 false body)) s

/-- DELAY_RESP (R224, R230): the end-to-end delay, with the last Sync. -/
def execDelayResp (i : Fin 2) (msg : List Byte) (s : State) : Host.Outcome State Fault Refusal :=
  onDev (fun d =>
    let x := d.dom i
    if ! d.domLive i ∨ ! d.ptpMine i msg ∨ ptpType msg ≠ 9 ∨ ! d.respFits i msg then d
    else
      let r := d.freeMean ((x.lastT2 - x.lastT1) + (ptpTime msg - ptpCorr msg - x.reqT3)) 2
      r.1.delaySample i r.2) s

/-- PDELAY_REQ (R224): a peer's request is answered in two steps. -/
def execPdelayReq (i : Fin 2) (msg : List Byte) (t2 : Int) (s : State) : Host.Outcome State Fault Refusal :=
  onDev (fun d =>
    if ! d.domLive i ∨ ! d.ptpMine i msg ∨ ptpType msg ≠ 2 ∨ ! d.on (F.MER_Dd_CFG_DELAY i) then d
    else
      let t2 := t2 - d.latRx i
      let seq := ptpSeq msg
      let who := bytesBE 8 (ptpFrom msg).1 ++ bytesBE 2 (ptpFrom msg).2
      let n := d.val (F.MER_Dd_CFG_PORT i)
      let d := d.wireFree n
      let t3 := d.stampTx i
      let d := (d.ptpSend i true true (d.ptpMsg i 3 seq (-(t2 % 16)) true (ptpStamp t2 ++ who))).wireFree n
      d.ptpSend i false true (d.ptpMsg i 10 seq (ptpCorr msg + t3 % 16) false (ptpStamp t3 ++ who))) s

/-- PDELAY_RESP (R224, R230): a response with its follow-up gives the peer-to-peer delay. -/
def execPdelayResp (i : Fin 2) (msg fup : List Byte) (t4 : Int) (s : State) : Host.Outcome State Fault Refusal :=
  onDev (fun d =>
    let x := d.dom i
    if ! d.domLive i ∨ ! d.ptpMine i msg ∨ ! d.ptpMine i fup ∨ ptpType msg ≠ 3 ∨ ptpType fup ≠ 10
        ∨ ! d.peerFits i msg ∨ ! d.peerFits i fup ∨ ptpFrom msg ≠ ptpFrom fup then d
    else
      let t4 := t4 - d.latRx i
      let r := d.freeMean ((t4 - x.reqT3) - (ptpTime fup + ptpCorr fup - (ptpTime msg - ptpCorr msg))) 2
      r.1.delaySample i r.2) s

/-- PATH_HOLD_END (R230). -/
def execPathHoldEnd (i : Fin 2) (s : State) : Host.Outcome State Fault Refusal :=
  onDev (fun d =>
    if d.srcState i ≠ 4 then d
    else (d.reach ((d.dom i).holdAt + 1000000000 * d.val (F.MER_Dd_PATH_PATH_HOLD i))).srcSet i 2) s

/-- ASYM_SUSPECT (R231). -/
def execAsymSuspect (s : State) : Host.Outcome State Fault Refusal :=
  onDev (fun d =>
    match d.mer.disSince with
    | none => d
    | some t => (d.reach (t + 1000000000 * max 1 (d.val F.MER_ASYM_DWELL))).raise F.MER_FLAG_ASYM_SUSPECT) s

/-- EN of a domain is written (R226): cleared, it leads to IDLE. -/
def Dev.domEnable (d : Dev) (i : Nat) (b : Bool) : Dev :=
  let d := d.mark (F.MER_Dd_CFG_EN i) b
  if b then d
  else (((d.setDom i { reqSeq := (d.dom i).reqSeq }).put (F.MER_Dd_STAT_ACCEPTED i) 0).srcSet i 0).disagree

/-! ### The filter of received frames (R214) -/

/-- A domain of this port uses the message (R224). -/
def Dev.ptpUsed (d : Dev) (n : Nat) (transport : Nat) (vid : Option Nat) (m : List Byte) : Bool :=
  [0, 1].any (fun i =>
    let tr := d.val (F.MER_Dd_CFG_TRANSPORT i) % 3
    d.domLive i && d.val (F.MER_Dd_CFG_PORT i) == n && tr == transport && d.ptpMine i m
      && vid == (if d.on (F.MER_Dd_CFG_VLAN_EN i) then some (d.val (F.MER_Dd_CFG_VID i)) else none)
      && (match ptpType m with
          | 0 => d.syncFits i m
          | 8 => d.followFits i m
          | 9 => d.respFits i m
          | 11 => (ptpForeign m).usable
          | 2 => d.on (F.MER_Dd_CFG_DELAY i)
          | 3 => d.peerFits i m
          | 10 => d.peerFits i m
          | _ => false))

/-- A received frame is one that the port accepts: PTP for an enabled domain, or a POS datagram (R214, R221). -/
def Dev.frameAccepted (d : Dev) (n : Nat) (f : RxFrame) : Bool :=
  if f.type = 0x88F7 then (f.dmac == ptpMac true || f.dmac == ptpMac false) && d.ptpUsed n 0 f.vid f.body
  else
    match rxUdp f.type f.body with
    | none => false
    | some u =>
      ((u.dport == 319 || u.dport == 320) && (u.dip == ptpIp true u.v6 || u.dip == ptpIp false u.v6
          || (u.v6 && u.dip.take 1 == [0xFF] && u.dip.drop 2 == (ptpIp false true).drop 2))
        && d.ptpUsed n (if u.v6 then 2 else 1) f.vid u.body)
      || (u.dport == d.val F.NET_RX_UDP && d.posAccepts u.body)

/-- A PAUSE or priority-flow-control frame: MAC control with opcode 0x0001 or 0x0101 (PRESUMED, log entry 130: IEEE 802.3,
which R214 names). -/
def RxFrame.pauses (f : RxFrame) : Bool := f.type == 0x8808 && (beAt f.body 0 2 == 0x0001 || beAt f.body 0 2 == 0x0101)

/-- FRAME_RECEIVE (R214): a frame up to its FCS, which is good. One that the port accepts is counted; what it says is
the command of its own that follows (SYNC, POS and so on). -/
def execFrameReceive (n : Fin 8) (bytes : List Byte) (s : State) : Host.Outcome State Fault Refusal :=
  onDev (fun d =>
    if ! d.linkSeen n then d
    else
      match rxFrame bytes with
      | none => d.rxDiscard n
      | some f =>
        if d.frameAccepted n f then d.inc (F.NETn_RX_FRAME_CNT n)
        else
          (if f.pauses then d.inc (F.NETn_PAUSE_CNT n) else d).rxDiscard n) s

end Sys2Proof.Machine
end

