-- ==== Sys2Proof/Machine/Modes.lean ====
section
/-! DEFINITION. Modes, resets, power domains, regulators and the flash's three operations (R287, R291 to R300,
R364). -/
namespace Sys2Proof.Machine

/-- A table with only the keys that satisfy `p`. -/
def tabKeep {α : Type} (p : Nat → Bool) (t : Tab α) : Tab α := t.filter (fun e => p e.1)

/-! ### Power domains (R296, R297) -/

/-- Opt in a mode (R296). -/
def optIn (mode k : Nat) : Bool :=
  match mode with
  | 2 => k == 6 || k == 24
  | 3 => decide (3 ≤ k ∧ k ≤ 6 ∨ 8 ≤ k ∧ k ≤ 28)
  | 5 => decide (3 ≤ k ∧ k ≤ 6 ∨ 8 ≤ k ∧ k ≤ 28)
  | 4 => decide (3 ≤ k ∧ k ≤ 6 ∨ 25 ≤ k ∧ k ≤ 28)
  | _ => false

/-- Powered in STANDBY: PD00, PD01, the retained domains with RETAIN, the chain with a CHAIN wake (R296). -/
def Dev.onInStandby (d : Dev) (k : Nat) : Bool :=
  if k ≤ 1 then true
  else if k ≤ 7 ∨ k = 30 ∨ k = 31 then d.on F.PWR_CTRL_RETAIN
  else if k = 29 then bitOf (d.val F.PWR_CTRL_WAKE) 3
  else false

/-- PWR_PD_STAT made of a predicate on domains. -/
def Dev.setPowered (d : Dev) (p : Nat → Bool) : Dev :=
  d.put F.PWR_PD_STAT ((List.range 34).foldl (fun v k => if p k then withBit v k else v) 0)

/-- The cores' POWERED and RUNNING follow their domains (R265, R280). -/
def Dev.coresShow (d : Dev) : Dev :=
  (List.range 5).foldl (fun (d : Dev) h =>
    let p := d.powered (2 + h)
    (d.mark (F.ICU_HLMh_STAT_POWERED h) p).mark (F.ICU_HLMh_STAT_RUNNING h) (p && d.on (F.ICU_HLMh_CTRL_RUN h))) d

/-- Every register from `a` to below `b` is back at its reset value. -/
def Dev.regsLost (d : Dev) (a b : Nat) : Dev :=
  let p := fun (x : Nat) => ! decide (a ≤ x ∧ x < b)
  { d with regs := tabKeep p d.regs, hi := tabKeep p d.hi, staged := tabKeep p d.staged,
           restart := d.restart.filter p }

/-- What a lane domain holds: 32 lanes, their ports, streams and service channels. -/
def Dev.lanesLost (d : Dev) (half : Nat) : Dev :=
  let d := d.regsLost (R.SLK_Ll_CTRL (32 * half)) (R.SLK_Ll_CTRL (32 * half + 32))
  let d := d.regsLost (R.SLK_CPp_CFG (8 * half)) (R.SLK_CPp_CFG (8 * half + 8))
  let d := d.regsLost (R.SLK_Ss_LINE_SH (32 * half)) (R.SLK_Ss_LINE_SH (32 * half + 32))
  let d := d.regsLost (R.SLK_CSc_CTRL (8 * half)) (R.SLK_CSc_CTRL (8 * half + 8))
  { d with slk := {
      lane   := tabKeep (fun l => l / 32 != half) d.slk.lane
      stream := tabKeep (fun s => s / 32 != half) d.slk.stream
      chan   := tabKeep (fun c => c / 8 != half) d.slk.chan } }

/-- A pipeline's window, its contexts, its front half and its microcode. -/
def Dev.pipeLost (d : Dev) (n : Nat) : Dev :=
  let d := d.regsLost (0x40200000 + 0x10000 * n) (0x40210000 + 0x10000 * n)
  { d with pl := { ctx := tabKeep (fun i => i / 4 != n) d.pl.ctx, front := tabKeep (fun i => i != n) d.pl.front }
           spr := { d.spr with loaded := d.spr.loaded.filter (· != n) } }

/-- The chain's registers and state; CHN_UID is in OTP. -/
def Dev.chainLostAll (d : Dev) : Dev :=
  { d.regsLost 0x40050000 0x40060000 with chn := {} }.put F.CHN_UID d.otp.uid

/-- Domain `k` loses power: what it holds is gone (R296, R297, log entry 34). -/
def Work.domainLost (w : Work) (k : Nat) : Work :=
  if 2 ≤ k ∧ k ≤ 6 then
    (w.forget (0x8000000 + 0x200000 * (k - 2)) 0x200000).on (fun d =>
      (d.setOffer (k - 2) none).setCore (k - 2) { wdogAt := (d.core (k - 2)).wdogAt })
  else if k = 7 then w.forget 0x10000000 0x800000
  else if 8 ≤ k ∧ k ≤ 24 then w.on (fun d => d.pipeLost (k - 8))
  else if k = 25 then w.on (fun d => { d.regsLost 0x40110000 0x40120000 with cdc := {} })
  else if k = 26 then w.on (fun d => { d.regsLost 0x40100000 0x40110000 with net := {} })
  else if k = 27 ∨ k = 28 then w.on (fun d => d.lanesLost (k - 27))
  else if k = 29 then w.on (fun d => d.chainLostAll)
  else if k = 30 then
    (w.forget 0x800000000 0x1000000000).on (fun d => { d.regsLost 0x400A0000 0x400B0000 with drc := {} })
  else if k = 32 then
    w.on (fun d =>
      let d := (d.regsLost 0x400B0000 0x400D0000).regsLost 0x400E0000 0x40100000
      { d with log := {}, trg := {}, mrk := {}, mer := {} })
  else if k = 33 then w.on (fun d => { d.regsLost 0x400D0000 0x400E0000 with flt := {} })
  else w

/-- The domain holds an enabled lane, port, context, slice, engine or flow, or a core with RUN = 1 (R297). -/
def Dev.domainBusy (d : Dev) (k : Nat) : Bool :=
  let busy (en idle : Fld) : Bool := d.on en || ! d.on idle
  if 2 ≤ k ∧ k ≤ 6 then d.on (F.ICU_HLMh_CTRL_RUN (k - 2))
  else if 8 ≤ k ∧ k ≤ 24 then
    let n := k - 8
    (List.range 4).any (fun m => busy (F.PLn_CTXm_CFG_EN n m) (F.PLn_CTXm_STAT_IDLE n m))
      || (List.range 16).any (fun s => d.on F.SEG_CTRL_EN && d.val (F.SEG_Ss_STAT_PL s) == n && d.val (F.STC_SLICEs_WIDTH s) != 0)
  else if k = 25 then
    (List.range 4).any (fun e => busy (F.CDC_En_CTRL_EN e) (F.CDC_En_STAT_IDLE e))
      || (List.range 8).any (fun t => busy (F.CDC_TAPt_CFG_EN t) (F.CDC_TAPt_STAT_IDLE t))
  else if k = 26 then
    (List.range 8).any (fun n => busy (F.NETn_CFG_EN n) (F.NETn_STAT_IDLE n))
      || (List.range 32).any (fun f => busy (F.NET_Ff_CFG_EN f) (F.NET_Ff_STAT_IDLE f))
  else if k = 27 ∨ k = 28 then
    let half := k - 27
    (List.range 32).any (fun l => busy (F.SLK_Ll_CTRL_EN (32 * half + l)) (F.SLK_Ll_STAT_IDLE (32 * half + l)))
      || (List.range 8).any (fun p => busy (F.SLK_CPp_CFG_EN (8 * half + p)) (F.SLK_CPp_STAT_IDLE (8 * half + p)))
  else false

/-- PWR_PD_OFF is committed (R297): bit by bit, only where a bit changes. -/
def Work.pdOffCommit (w : Work) (v : Nat) : Work :=
  let w := (List.range 34).foldl (fun (w : Work) k =>
    let d := w.dev
    let was := bitOf (d.val F.PWR_PD_OFF) k
    if was == bitOf v k then w
    else if ! optIn d.mode k || (! was && d.domainBusy k) then w.on (fun d => d.accessErr R.PWR_PD_OFF)
    else
      let w := if was then w else w.domainLost k
      w.on (fun d =>
        let d := d.put F.PWR_PD_OFF (if was then withoutBit (d.val F.PWR_PD_OFF) k else withBit (d.val F.PWR_PD_OFF) k)
        d.put F.PWR_PD_STAT (if was then withBit (d.val F.PWR_PD_STAT) k else withoutBit (d.val F.PWR_PD_STAT) k))) w
  w.on (fun d => d.coresShow.arbitrateAll)

/-! ### Rails (R298) -/

/-- The rails that are on and those whose PGOOD is high. -/
def Dev.rails (d : Dev) (en pg : Nat) : Dev := { d with pwr := { d.pwr with en := en, pg := pg } }.emit (.rails en)

/-- The asserted ENs go low in reverse order, STEP_DLY apart (R298). -/
def Dev.railsOff (d : Dev) : Dev :=
  let d := ((List.range 8).reverse).foldl (fun (d : Dev) k =>
    if bitOf d.pwr.en k then
      let d := d.rails (withoutBit d.pwr.en k) (withoutBit d.pwr.pg k)
      d.reach (d.now + 1000000 * d.val F.PWR_SEQ_STEP_DLY)
    else d) d
  { d with pwr := { d.pwr with seqRail := none, pg := 0 } }.mark F.PWR_STAT_SEQ_DONE false

/-- The sequencer moves on while the rail it waits for is good (R298). -/
def Dev.seqRun : Nat → Dev → Dev
  | 0, d => d
  | f + 1, d =>
    match d.pwr.seqRail with
    | none => d
    | some k =>
      if ! bitOf d.pwr.pg k then d
      else if 7 ≤ k then { d with pwr := { d.pwr with seqRail := none, bootDue := true } }.mark F.PWR_STAT_SEQ_DONE true
      else
        let d := (d.reach (d.now + 1000000 * d.val F.PWR_SEQ_STEP_DLY)).rails (withBit d.pwr.en (k + 1)) d.pwr.pg
        Dev.seqRun f { d with pwr := { d.pwr with seqRail := some (k + 1), seqAt := d.now } }

/-- The sequencer starts with rail 0 (R298, step 2). -/
def Dev.seqStart (d : Dev) : Dev :=
  let d := d.rails 1 0
  { d with pwr := { d.pwr with seqRail := some 0, seqAt := d.now, failAt := none, heldLow := false } }

/-! ### Resets (R295) -/

/-- A register that a reset leaves alone: PD00's, SYS_RST_CAUSE, and the levels of straps and port supplies.
DEDUCED, log entry 92. -/
def keptReg (a : Nat) : Bool :=
  a / 0x10000 == 0x4001 || a == R.SYS_RST_CAUSE || a == R.SYS_STRAP || a == R.SYS_UTP_BANK

/-- Every block except PD00 at its reset values (R295). The rails, the presence pin, OTP and the Almanac are what
they were. -/
def Dev.resetDev (d : Dev) : Dev :=
  let alm := fun (a : Nat) => a / 0x10000 == 0x4001
  let p := d.pwr
  let n : Dev := {
    regs := tabKeep keptReg d.regs, hi := tabKeep alm d.hi, staged := tabKeep alm d.staged
    now := d.now, draws := d.draws, out := d.out, alm := d.alm, otp := d.otp
    pwr := { en := p.en, pg := p.pg, seqRail := p.seqRail, seqAt := p.seqAt, failAt := p.failAt, heldLow := p.heldLow,
             retries := p.retries, hot := p.hot, present := p.present, cause := p.cause } }
  let n := n.setPowered (fun k => k != 6 && k != 24)
  let n := (n.put F.CHN_UID d.otp.uid).put F.SVC_EPOCH (d.otp.epoch % 256)
  n.mark F.PWR_STAT_SEQ_DONE (d.on F.PWR_STAT_SEQ_DONE)

/-- A flash operation that a reset or a loss of power cuts off leaves what it was writing undefined.
DESIGN CHOICE, log entry 98. -/
def Work.nvCut (w : Work) : Work :=
  match w.dev.pwr.nvOp with
  | some (2, a) => let r := w.freeBytes 256; r.1.pokesNv (a / 256 * 256) r.2
  | some (3, a) => let r := w.freeBytes 4096; r.1.pokesNv (a / 4096 * 4096) r.2
  | _ => w

/-- Every memory loses its contents: DRAM is undefined after any reset, and the manual keeps no other (R295). -/
def Work.forgetAll (w : Work) : Work := w.forget 0 0x2000000000

/-- A reset of a cause (R295). -/
def Work.resetBy (w : Work) (cause : Nat) : Work :=
  (w.nvCut.forgetAll).on (fun d =>
    let d := d.resetDev
    let d := { d with pwr := { d.pwr with cause := cause } }
    d.put F.SYS_RST_CAUSE (if cause = 0 then 1 else withBit (d.val F.SYS_RST_CAUSE) cause))

/-- ALWAYS_ON_LOSS (R291): only PD00 keeps power. -/
def execAlwaysOnLoss (s : State) : Host.Outcome State Fault Refusal :=
  onWork (fun w =>
    (w.nvCut.forgetAll).on (fun d =>
      let d := if d.pwr.en = 0 then d else d.emit (.rails 0)
      let d := d.resetDev.setPowered (fun k => k == 0)
      { d with pwr := { dormant := true, present := d.pwr.present } }.mark F.PWR_STAT_SEQ_DONE false)) s

/-- POR (R295, R298): the always-on rail came up; the sequencer starts. SEG0 to SEG7 stand at `straps`. -/
def execPor (straps : Byte) (s : State) : Host.Outcome State Fault Refusal :=
  onWork (fun w =>
    (w.resetBy 0).on (fun d =>
      let d := { d with pwr := { present := d.pwr.present, cause := 0 } }.mark F.PWR_STAT_SEQ_DONE false
      (d.put F.SYS_STRAP straps.toNat).seqStart)) s

/-- PIN_RESET (R295): the rails stay up; rails that a failure held low are sequenced again (R298). -/
def execPinReset (s : State) : Host.Outcome State Fault Refusal :=
  onWork (fun w =>
    if w.dev.pwr.dormant then w
    else (w.resetBy 1).on (fun d => if d.pwr.heldLow then { d with pwr := { d.pwr with retries := 0 } }.seqStart else d)) s

/-- SYS_RST written (R295, R301). -/
def Work.rstWrite (w : Work) (v : Word) : Work :=
  if v = 0x52A5#32 then w.resetBy 2 else w.on (fun d => d.accessErr R.SYS_RST)

/-- SOFT_RESET (R295). -/
def execSoftReset (v : Word) (s : State) : Host.Outcome State Fault Refusal := onWork (fun w => w.rstWrite v) s

/-- SYS_WDOG written (R301): a write restarts it, 0 stops it. -/
def Dev.sysWdog (d : Dev) (v : Nat) : Dev :=
  let d := d.put F.SYS_WDOG (v % 65536)
  { d with pwr := { d.pwr with wdogAt := if v % 65536 = 0 then none else some (d.now + 1000000 * (v % 65536)) } }

/-- SYS_WDOG_EXPIRY (R295). -/
def execSysWdogExpiry (s : State) : Host.Outcome State Fault Refusal :=
  onWork (fun w =>
    match w.dev.pwr.wdogAt with
    | some t => (w.on (fun d => d.reach t)).resetBy 3
    | none => w) s

/-- PG_LOSS (R295, R298): the rails go off and are sequenced again. -/
def execPgLoss (k : Fin 8) (s : State) : Host.Outcome State Fault Refusal :=
  onWork (fun w =>
    if ! (bitOf w.dev.pwr.en k && bitOf w.dev.pwr.pg k) then w
    else ((w.on (fun d => d.railsOff)).resetBy 4).on (fun d => { d with pwr := { d.pwr with retries := 0 } }.seqStart)) s

/-- THERM (R295): the junction at `temp`, 1/16 °C; at or above TRIP the rails go off. -/
def execTherm (temp : Int) (s : State) : Host.Outcome State Fault Refusal :=
  onWork (fun w =>
    if w.dev.pwr.dormant ∨ w.dev.pwr.hot then w
    else if temp < 16 * (w.dev.val F.PWR_THERM % 256 : Nat) then w.on (fun d => d.put F.PWR_TJ (fromSigned 16 temp))
    else ((w.on (fun d => d.railsOff)).resetBy 5).on (fun d => { d with pwr := { d.pwr with hot := true } })) s

/-- JUNCTION_COOLED (R295): below TRIP − 20 °C the rails are sequenced again. -/
def execJunctionCooled (temp : Int) (s : State) : Host.Outcome State Fault Refusal :=
  onDev (fun d =>
    if ! d.pwr.hot ∨ 16 * ((d.val F.PWR_THERM % 256 : Nat) - 20 : Int) ≤ temp then d
    else { d with pwr := { d.pwr with hot := false, retries := 0 } }.seqStart) s

/-- PGOOD (R298): PGOOD`k` rises. -/
def execPgood (k : Fin 8) (s : State) : Host.Outcome State Fault Refusal :=
  onDev (fun d =>
    if d.pwr.dormant then d else Dev.seqRun 9 { d with pwr := { d.pwr with pg := withBit d.pwr.pg k } }) s

/-- PG_TIMEOUT (R298): the rail waited for stays low. The third retry that fails holds every EN low. -/
def execPgTimeout (s : State) : Host.Outcome State Fault Refusal :=
  onDev (fun d =>
    match d.pwr.seqRail with
    | none => d
    | some _ =>
      let d := (d.reach (d.pwr.seqAt + 1000000 * d.val F.PWR_SEQ_PG_TIMEOUT)).railsOff
      let d := d.raise F.PWR_FLAG_PG_FAIL
      if d.pwr.retries < d.val F.PWR_SEQ_RETRY then { d with pwr := { d.pwr with failAt := some d.now } }
      else { d with pwr := { d.pwr with failAt := none, heldLow := true } }) s

/-- PG_RETRY (R298): one second after the failure. -/
def execPgRetry (s : State) : Host.Outcome State Fault Refusal :=
  onDev (fun d =>
    match d.pwr.failAt with
    | none => d
    | some t =>
      let d := d.reach (t + 1000000000)
      let d := { d with pwr := { d.pwr with retries := d.pwr.retries + 1 } }
      (d.put F.PWR_STAT_RETRIES (min 3 d.pwr.retries)).seqStart) s

/-- VDDUTP_CHANGE (R364, R365): the supply of UTP bank `b`. -/
def execVddutpChange (b : Fin 8) (present level : Bool) (s : State) : Host.Outcome State Fault Refusal :=
  onDev (fun d =>
    let d := (d.mark ⟨R.SYS_UTP_BANK, 8 + b, 1⟩ present).mark ⟨R.SYS_UTP_BANK, b, 1⟩ (present && level)
    (List.range 32).foldl (fun (d : Dev) i => d.utpRefresh (32 * b + i)) d) s

/-! ### Regulators (R299, R300) -/

/-- A PMBus write to a rail, after PAGE, with PEC when it is on (R299). -/
def Dev.pmWrite (d : Dev) (k cmd : Nat) (data : List Byte) : Dev :=
  let one (d : Dev) (cmd : Nat) (data : List Byte) : Dev :=
    let frame : List Byte := BitVec.ofNat 8 (2 * d.val (F.PWR_RAILk_ADDR k)) :: BitVec.ofNat 8 cmd :: data
    d.emit (.pmbus k cmd (data ++ if d.on F.PWR_PMB_PEC then [BitVec.ofNat 8 (crcMsb 8 0x07 0 frame)] else []))
  one (one d 0x00 [BitVec.ofNat 8 (d.val (F.PWR_RAILk_PAGE k))]) cmd data

/-- PM_ALERT (R299): for each enabled rail. A rail with no status in the list does not acknowledge.
DEDUCED, log entry 96. -/
def execPmAlert (status : List Nat) (s : State) : Host.Outcome State Fault Refusal :=
  onDev (fun d =>
    ((List.range 8).filter (fun k => d.on (F.PWR_RAILk_EN k))).foldl (fun (d : Dev) k =>
      let d := d.pmWrite k 0x79 []
      match status[k]? with
      | none => d.raise F.PWR_FLAG_PMB_NACK
      | some v =>
        let d := (d.put (F.PWR_RAILk_STATUS_WORD k) v).pmWrite k 0x03 []
        (d.raise F.PWR_FLAG_PMB_ALERT).inc F.PWR_ALERT_CNT) d) s

/-- A voltage in the format VOUT_MODE gave at LOAD (R300). Linear formats are PMBus's mantissa at the mode's
exponent; the manual gives no other (PRESUMED, log entry 35). -/
def Dev.voutBytes (d : Dev) (mv : Nat) : List Byte × Dev :=
  if d.pwr.voutMode / 32 = 0 then
    let e := toSigned 5 (d.pwr.voutMode % 32)
    let m := if 0 ≤ e then (2 * mv + 1000 * 2 ^ e.toNat) / (2000 * 2 ^ e.toNat) else (2 * mv * 2 ^ (-e).toNat + 1000) / 2000
    (bytesLE 2 m, d)
  else
    let r := d.draw
    (bytesLE 2 (r.1.toNat % 65536), r.2)

/-- AVS runs (R300). -/
def Dev.avsRuns (d : Dev) : Bool :=
  d.on F.PWR_CTRL_AVS_EN && d.mode != 1 && ! d.pwr.dormant && d.on (F.PWR_RAILk_EN (d.val F.PWR_AVS_AVS_RAIL))

/-- AVS_UPDATE (R300): once per millisecond, by the lowest margin M. -/
def execAvsUpdate (ack : Bool) (s : State) : Host.Outcome State Fault Refusal :=
  onDev (fun d =>
    let d := d.mark F.PWR_STAT_AVS_ACTIVE d.avsRuns
    if ! d.avsRuns then d
    else
      let m := d.val F.SPR_AGE_MIN % 256
      let lo := d.val F.PWR_AVS_LIM_VMIN
      let hi := d.val F.PWR_AVS_LIM_VMAX
      let v := d.val F.PWR_AVS_VOUT % 65536
      let step := d.val F.PWR_AVS_STEP
      let want := d.val F.PWR_AVS_MARGIN
      let d := d.raiseIf (decide (m < want ∧ v = hi)) F.PWR_FLAG_AVS_LIMIT
      let goal := max lo (min hi (if m < want then v + step else if want + 4 < m then v - step else v))
      if (want ≤ m ∧ m ≤ want + 4) ∨ goal = v then d
      else
        let r := d.voutBytes goal
        let d := r.2.pmWrite (d.val F.PWR_AVS_AVS_RAIL) 0x21 r.1
        if ack then d.put F.PWR_AVS_VOUT goal else d.raise F.PWR_FLAG_PMB_NACK) s

/-! ### Modes (R291 to R294) -/

/-- A transition begins. -/
def Dev.begin (d : Dev) (t : Trans) : Dev := { d with pwr := { d.pwr with trans := some t } }.mark F.PWR_MODE_BUSY true

/-- A request that the present mode does not allow (R294). -/
def Dev.modeErr (d : Dev) : Dev := d.accessErr R.PWR_MODE

/-- Every running core is in WFI (R291). -/
def Dev.allWait (d : Dev) : Bool := (List.range 5).all (fun h => ! d.coreRuns h || d.on (F.ICU_HLMh_STAT_WFI h))

/-- The held blocks drain as when EN is cleared (R291), and the taps stop (R211). -/
def Dev.holdOff (d : Dev) : Dev :=
  let d := if d.on F.SEG_CTRL_EN then d.segDisable else d
  let d := (List.range 64).foldl (fun (d : Dev) s => d.trgDisable s) d
  let d := (List.range 8).foldl (fun (d : Dev) t => if d.on (F.CDC_TAPt_CFG_EN t) then d.tapStop t else d) d
  (List.range 16).foldl (fun (d : Dev) n => d.headDisable n) d

/-- A request waits behind the transition that runs; the last one wins (R294). -/
def Dev.reqWaits (d : Dev) (r : Nat) : Dev :=
  { d with pwr := { d.pwr with pend := some r, thenStandby := false } }.mark F.PWR_MODE_PEND true

/-- Lanes take the power state that holds now (R76, R292). -/
def Dev.lanesFollow (d : Dev) : Dev :=
  (List.range 64).foldl (fun (d : Dev) l => if d.on (F.SLK_Ll_STAT_IDLE l) then d else d.pstateEnter l) d

/-- HOLD is left (R292). -/
def Dev.holdLeave (d : Dev) : Dev :=
  let d := (d.begin .fromHold).raise F.PWR_FLAG_HOLD_EXIT
  d.lanesFollow.freqGo d.drc.inspSet

/-- A request that runs now (R291, R294). -/
def Work.modeRun (w : Work) (r : Nat) : Work :=
  let d := w.dev
  let m := d.mode
  if r = 2 ∧ m = 5 then w.resetBy 1
  else
    { w with dev :=
      if r = 1 ∧ m = 5 then (if d.allWait then d.begin .toStandby else d.modeErr)
      else if r = 1 ∧ m = 3 then
        { d.begin .toService with pwr := { (d.begin .toService).pwr with thenStandby := true } }.holdOff
      else if (r = 1 ∨ r = 5) ∧ m = 4 then d.holdLeave.reqWaits r
      else if r = 5 ∧ m = 3 then (d.begin .toService).holdOff
      else if r = 3 ∧ m = 5 ∧ ¬ d.on F.CFG_STAT_DEFAULTS ∧ ¬ d.on F.CFG_STAT_REJECT ∧ ¬ d.on F.CFG_STAT_UNCHECKED then
        d.begin .toInspect
      else d.modeErr }

/-- PWR_MODE written with REQ = r and GO (R294). DEDUCED, log entry 94. -/
def Work.modeReq (w : Work) (r : Nat) : Work :=
  let w := w.on (fun d => d.put F.PWR_MODE_REQ r)
  if w.dev.pwr.trans.isSome then w.on (fun d => d.reqWaits r) else w.modeRun r

/-- STANDBY_REQUEST (R294). -/
def execStandbyRequest (s : State) : Host.Outcome State Fault Refusal := onWork (fun w => w.modeReq 1) s
/-- LOAD_REQUEST (R294, R295). DEDUCED, log entry 91. -/
def execLoadRequest (s : State) : Host.Outcome State Fault Refusal := onWork (fun w => w.modeReq 2) s
/-- INSPECT_REQUEST (R294). -/
def execInspectRequest (s : State) : Host.Outcome State Fault Refusal := onWork (fun w => w.modeReq 3) s
/-- SERVICE_REQUEST (R294). -/
def execServiceRequest (s : State) : Host.Outcome State Fault Refusal := onWork (fun w => w.modeReq 5) s

/-- SERVICE is entered (R291): inspection is off, open tiles close PARTIAL (R109), and the Reckoner stops (R143). -/
def Dev.serviceEnter (d : Dev) (woke : Bool) : Dev :=
  let d := (d.put F.PWR_MODE_CUR 5).mark F.PWR_STAT_WOKE woke
  let d := (List.range 68).foldl (fun (d : Dev) i =>
    if (d.ctx (i / 4) (i % 4)).tile.isSome then d.closeTile (i / 4) (i % 4) true else d) d
  d.rckStop

/-- STANDBY is entered: the domains that R296 has off lose what they hold. -/
def Work.standbyEnter (w : Work) : Work :=
  let d := w.dev
  let w := (List.range 34).foldl (fun (w : Work) k => if d.powered k && ! d.onInStandby k then w.domainLost k else w) w
  w.on (fun d => (((d.setPowered (fun k => d.onInStandby k && d.powered k)).put F.PWR_MODE_CUR 1).mark F.PWR_STAT_AVS_ACTIVE false).coresShow)

/-- The transition that runs is over, but for MODE_DONE and the request that waits. A ruled write that has set UNCHECKED
meanwhile keeps INSPECT from being entered, as it would at the request (R23, R291; DEDUCED, log entry 136). -/
def Work.transEnd (w : Work) (t : Trans) : Work :=
  match t with
  | .toInspect => w.on (fun d => if d.on F.CFG_STAT_UNCHECKED then d.modeErr else (d.put F.PWR_MODE_CUR 3).rckStart)
  | .toService => w.on (fun d => d.serviceEnter false)
  | .toHold => w.freqEnd.on (fun d => d.put F.PWR_MODE_CUR 4)
  | .fromHold => w.freqEnd.on (fun d => d.put F.PWR_MODE_CUR 3)
  | .toStandby => w.standbyEnter
  | .wakeService => w.on (fun d => d.serviceEnter true)

/-- A transition is over: MODE_DONE, then the exit from HOLD that waits, the pending request, or STANDBY after
SERVICE (R292, R294). DEDUCED, log entry 93. -/
def Work.modeDone (w : Work) (t : Trans) : Work :=
  let w := w.transEnd t
  let w := w.on (fun d => ({ d with pwr := { d.pwr with trans := none } }.mark F.PWR_MODE_BUSY false).raise F.PWR_FLAG_MODE_DONE)
  let d := w.dev
  if t = .toHold ∧ d.pwr.exitDue then w.on (fun d => { d with pwr := { d.pwr with exitDue := false } }.holdLeave)
  else
    match d.pwr.pend with
    | some r => (w.on (fun d => { d with pwr := { d.pwr with pend := none } }.mark F.PWR_MODE_PEND false)).modeRun r
    | none =>
      if d.pwr.thenStandby then (w.on (fun d => { d with pwr := { d.pwr with thenStandby := false } })).modeRun 1 else w

/-- MODE_DONE (R294). -/
def execModeDone (s : State) : Host.Outcome State Fault Refusal :=
  onWork (fun w =>
    match w.dev.pwr.trans with
    | some t => w.modeDone t
    | none => w) s

/-- HOLD_ENTRY (R291, R292): STANDSTILL has held for HOLD_DLY. The set that runs is the one the exit returns to.
DEDUCED, log entry 95. -/
def execHoldEntry (s : State) : Host.Outcome State Fault Refusal :=
  onDev (fun d =>
    if d.mode ≠ 3 ∨ d.pwr.trans.isSome ∨ ¬ d.on F.PWR_CTRL_HOLD_EN ∨ ¬ d.on F.LOG_STAT_STANDSTILL then d
    else
      let d := d.reach (d.pwr.stillAt.getD 0 + 1000000 * d.val F.PWR_CTRL_HOLD_DLY)
      let d := (List.range 17).foldl (fun (d : Dev) n =>
        if (d.front n).running.isSome then (d.reach (d.front n).busyTill).frontDone n else d) d
      let d := { d with drc := { d.drc with inspSet := if d.on F.DRC_STAT_FC_BUSY then d.drc.target else d.val F.DRC_STAT_SPEED_ACT } }
      let d := (d.begin .toHold).lanesFollow.freqGo 3
      (d.raise F.PWR_FLAG_HOLD_ENTER).inc F.PWR_HOLD_CNT) s

/-- HOLD_EXIT (R291, R292): MOTION. During entry the exit follows it. -/
def execHoldExit (s : State) : Host.Outcome State Fault Refusal :=
  onDev (fun d =>
    if d.on F.LOG_STAT_STANDSTILL then d
    else if d.pwr.trans = some .toHold then { d with pwr := { d.pwr with exitDue := true } }
    else if d.mode ≠ 4 ∨ d.pwr.trans.isSome then d
    else d.holdLeave) s

/-- The bit of PWR_CTRL.WAKE that selects a source (R293, R303). -/
def wakeBit : WakeSource → Nat
  | .alarm => 0
  | .presence => 1
  | .svc => 2
  | .chain => 3

/-- A wake source acts (R293). -/
def Work.wakeBy (w : Work) (src : WakeSource) : Work :=
  let d := w.dev
  if d.mode ≠ 1 ∨ d.pwr.trans.isSome ∨ ¬ bitOf (d.val F.PWR_CTRL_WAKE) (wakeBit src) then w
  else if d.on F.PWR_CTRL_RETAIN then
    w.on (fun d =>
      let d := (d.setPowered (fun k => ! bitOf (d.val F.PWR_PD_OFF) k)).coresShow
      let d := (List.range 5).foldl (fun (d : Dev) h => if d.on (F.ICU_HLMh_CTRL_RUN h) then d.coreReset h else d) d
      (d.timHandOver (d.val F.DRC_STAT_SPEED_ACT)).begin .wakeService)
  else (w.nvCut.forgetAll).on (fun d => d.resetDev)

/-- WAKE (R293). -/
def execWake (src : WakeSource) (s : State) : Host.Outcome State Fault Refusal := onWork (fun w => w.wakeBy src) s

/-! ### NV access (R287) -/

/-- The range meets the header, REGS, TABLES or a section of the active bank. -/
def Dev.nvGuarded (d : Dev) (a n : Nat) : Bool :=
  let h := d.pwr.header
  overlap a n 0 512 || (! h.isEmpty && (sects h).any (fun x =>
    (x.type == 7 || x.type == 8 || (bankedType x.type && x.bank == d.val F.CFG_STAT_BANK)) && overlap a n x.off x.len))

/-- CFG_NV_CMD written (R287, R302). -/
def Dev.nvCmd (d : Dev) (code : Nat) : Dev :=
  let a := d.val F.CFG_NV_ADDR / 256 * 256
  let n := if code = 3 then 4096 else 256
  if code = 0 then d
  else if d.on F.CFG_STAT_NV_BUSY then d.accessErr R.CFG_NV_CMD
  else if code ≠ 1 ∧ d.nvGuarded (a / n * n) n ∧ ¬ (d.mode = 5 ∧ d.on F.SVC_STAT_PRESENCE) then d.raise F.CFG_FLAG_NV_DENY
  else { d with pwr := { d.pwr with nvOp := some (code, a) } }.mark F.CFG_STAT_NV_BUSY true

/-- NV_READ (R287). -/
def execNvRead (s : State) : Host.Outcome State Fault Refusal := onDev (fun d => d.nvCmd 1) s
/-- NV_PROGRAM (R287). -/
def execNvProgram (s : State) : Host.Outcome State Fault Refusal := onDev (fun d => d.nvCmd 2) s
/-- NV_ERASE (R287). -/
def execNvErase (s : State) : Host.Outcome State Fault Refusal := onDev (fun d => d.nvCmd 3) s

/-- NV_DONE (R287): the operation ends; `err` is the flash's error status, after which what was written is undefined. -/
def execNvDone (err : Bool) (s : State) : Host.Outcome State Fault Refusal :=
  onWork (fun w =>
    match w.dev.pwr.nvOp with
    | none => w
    | some (code, a) =>
      let w := if code = 1 then
          let bs := w.peeksNv a 256
          w.on (fun d => (List.range 64).foldl (fun (d : Dev) k => d.setReg (R.CFG_NV_BUF k) (BitVec.ofNat 32 (leAt bs (4 * k) 4))) d)
        else if err then w.nvCut
        else if code = 2 then w.pokesNv a ((List.range 64).flatMap (fun k => bytesLE 4 (w.dev.reg (R.CFG_NV_BUF k)).toNat))
        else w.pokesNv (a / 4096 * 4096) (List.replicate 4096 nvInit)
      w.on (fun d =>
        let d := { d with pwr := { d.pwr with nvOp := none } }.mark F.CFG_STAT_NV_BUSY (d.on F.SPR_STAT_LOG_BUSY)
        d.raiseIf err F.CFG_FLAG_NV_ERR)) s

end Sys2Proof.Machine
end

