-- ==== Sys2Proof/Machine/Almanac.lean ====
section
/-! DEFINITION. The Almanac: calendar time, alarms, the seal loop and its supplies (R349 to R353). -/
namespace Sys2Proof.Machine

/-- A flag of the Almanac; without the main supplies it sets alone (R351, R353). -/
def Dev.almRaise (d : Dev) (f : Fld) : Dev := if d.pwr.dormant then d.put f 1 else d.raise f

/-- Calendar time in 1/32,768 s. -/
def AlmSt.ticks (a : AlmSt) : Nat := a.sec * 32768 + a.sub

/-- Calendar time set, 48 bits of seconds. -/
def Dev.almSet (d : Dev) (sec sub : Nat) : Dev := { d with alm := { d.alm with sec := sec % 2 ^ 48, sub := sub % 32768 } }

/-- Alarm `k` fires when it is armed and its time has come (R351). -/
def Dev.alarm (d : Dev) (k : Nat) : Dev :=
  let en : Fld := ⟨R.ALM_CTRL, 2 + k, 1⟩
  if d.on en && decide (d.val (F.ALM_ALARMk k) ≤ d.alm.sec) then (d.mark en false).almRaise ⟨R.ALM_FLAG, k, 1⟩ else d

/-- ALMANAC_TICK (R349, R351, R293): one tick, the alarms, and the wake from STANDBY that an alarm brings. -/
def execAlmanacTick (s : State) : Host.Outcome State Fault Refusal :=
  onWork (fun w =>
    let a := w.dev.alm
    let w := w.on (fun d =>
      let d := d.almSet (if a.sub = 32767 then a.sec + 1 else a.sec) (a.sub + 1)
      { d with alm := { d.alm with fwAt := none } })
    let armed := w.dev.val ⟨R.ALM_CTRL, 2, 2⟩
    let w := w.on (fun d => (d.alarm 0).alarm 1)
    if w.dev.val ⟨R.ALM_CTRL, 2, 2⟩ = armed then w else w.wakeBy .alarm) s

/-- SYNC_PERIOD in force (R350, R355). -/
def Dev.syncPeriod (d : Dev) : Nat := max 1 (d.val F.ALM_SYNC_PERIOD)

/-- MERIDIAN_SET (R350): at the first second boundary of device time after STEP_DONE, and every SYNC_PERIOD seconds
after that. A firmware commit of the same tick stands. DEDUCED, log entry 110. -/
def execMeridianSet (s : State) : Host.Outcome State Fault Refusal :=
  onDev (fun d =>
    if ¬ d.on F.ALM_CTRL_SYNC_EN ∨ ¬ d.on F.MER_STAT_STEERING ∨ ¬ d.on F.MER_STAT_STEP_DONE then d
    else
      let next := (d.devTime + 999999999) / 1000000000
      let due := match d.alm.syncSec with
        | some t => max next (t + d.syncPeriod)
        | none => next
      let d := d.reachDev (due * 1000000000)
      let was : Int := match d.alm.fwAt with
        | some (sec, sub) => sec * 32768 + sub
        | none => d.alm.ticks
      let d := match d.alm.fwAt with
        | some _ => d
        | none => d.almSet (fromSigned 48 due) 0
      let d := { d with alm := { d.alm with syncSec := some due } }
      (d.putSat F.ALM_LAST_ADJ ((fromSigned 48 due : Int) * 32768 - was)).almRaise F.ALM_FLAG_SYNC) s

/-- The write of SET_SEC_HI commits SET_SEC and SET_SUB (R350). -/
def Dev.almCommit (d : Dev) (sec : BitVec 64) : Dev :=
  let was := (d.alm.sec, d.alm.sub)
  let d := d.almSet sec.toNat (d.val F.ALM_SET_SUB)
  { d with alm := { d.alm with fwAt := some was } }.mark F.ALM_STAT_VALID true

/-- ALM_SEAL_EV shows the log entry SEAL_IDX selects, 0 the newest (R352, R355). -/
def Dev.sealShow (d : Dev) : Dev :=
  match d.alm.seals[d.val F.ALM_SEAL_IDX % 16]? with
  | some (sec, opened) => d.put F.ALM_SEAL_EV (sec % 2 ^ 48 + b2n opened * 2 ^ 63)
  | none => d.put F.ALM_SEAL_EV 0

/-- SEAL_PULSE (R352): the sample of SEAL_B at the end of the pulse; `level`: the loop is closed. -/
def execSealPulse (level : Bool) (s : State) : Host.Outcome State Fault Refusal :=
  onDev (fun d =>
    if ¬ d.on F.ALM_CTRL_SEAL_EN then d
    else
      let d := d.emit .seal
      let twice := d.alm.lastSeal == some level
      let d := { d with alm := { d.alm with lastSeal := some level } }
      if ! twice || d.on F.ALM_STAT_SEAL_OPEN == ! level then d
      else
        let log := ((d.alm.sec, ! level) :: d.alm.seals).take 16
        let d := { d with alm := { d.alm with seals := log } }
        let d := ((d.mark F.ALM_STAT_SEAL_OPEN (! level)).put F.ALM_STAT_SEAL_N log.length).sealShow
        (d.almRaise F.ALM_FLAG_SEAL).inc F.ALM_SEAL_CNT) s

/-- VBAT_MEASURE (R353): once per second from the main rail. -/
def execVbatMeasure (mv : Nat) (s : State) : Host.Outcome State Fault Refusal :=
  onDev (fun d =>
    if d.pwr.dormant then d
    else
      let d := d.put F.ALM_VBAT (mv % 65536)
      if mv < 1900 then d.almRaise F.ALM_FLAG_VBAT_LOW else d) s

/-- TIME_LOST (R353): both supplies failed; the Almanac starts afresh, its time invalid and its log empty. -/
def execTimeLost (s : State) : Host.Outcome State Fault Refusal :=
  onDev (fun d => ({ d.regsLost 0x40010000 0x40020000 with alm := {} } : Dev).almRaise F.ALM_FLAG_LOST) s

end Sys2Proof.Machine
end

