-- ==== Sys2Proof/Machine/Background.lean ====
section
/-! DEFINITION. Background work: patrols, the repair table, microcode loads, the NV log, telemetry, ageing monitors
and the codec's self-test (R331 to R348). -/
namespace Sys2Proof.Machine

/-! ### Patrols (R331 to R335) -/

/-- An error that the SRAM patrol finds: a row that shows correctable errors in RETIRE_N passes is a candidate. -/
def Dev.scrubError (d : Dev) (e : ScrubError) : Dev :=
  let bank := e.bank % 96
  let row := e.row % 256
  let d := d.bankError bank row e.ue 1
  if e.ue then d
  else
    let n := tabGet 0 d.spr.passes (bank * 256 + row)
    if max 1 (d.val F.SPR_CTRL_RETIRE_N) ≤ n then d.candidate bank row else d

/-- The rows that showed a correctable error in a pass count it once (R335). -/
def Dev.passCount (d : Dev) (errs : List ScrubError) : Dev :=
  let rows := ((errs.filter (fun e => ! e.ue)).map (fun e => e.bank % 96 * 256 + e.row % 256)).eraseDups
  rows.foldl (fun (d : Dev) r =>
    { d with spr := { d.spr with passes := tabSet 0 d.spr.passes r (tabGet 0 d.spr.passes r + 1) } }) d

/-- SRAM_SCRUB_PASS (R331, R335): a pass ends, having found these errors. -/
def execSramScrubPass (errs : List ScrubError) (s : State) : Host.Outcome State Fault Refusal :=
  onDev (fun d =>
    if ¬ d.on F.SPR_CTRL_SCRUB_S_EN then d
    else
      let d := d.reach d.spr.sStart
      let due := d.spr.sStart + 1000000000 * max 60 (d.val F.SPR_SCRUB_SPERIOD)
      let d := d.raiseIf (decide (due < d.now)) F.SPR_FLAG1_SCRUB_LATE
      let d := { d with spr := { d.spr with sStart := max due d.now } }
      let d := errs.foldl (fun (d : Dev) e => d.scrubError e) (d.passCount errs)
      d.inc F.SPR_SPASS_CNT) s

/-- DRAM_SCRUB_PASS (R332, R334): a pass ends, having found these errors; none runs in STANDBY. -/
def execDramScrubPass (errs : List ScrubError) (s : State) : Host.Outcome State Fault Refusal :=
  onDev (fun d =>
    if ¬ d.on F.SPR_CTRL_SCRUB_D_EN ∨ d.mode = 1 then d
    else
      let d := errs.foldl (fun (d : Dev) e =>
        let i := e.bank % 128
        let bank : Fin 16 := Fin.ofNat 16 (i % 16)
        d.dramEcc (i / 16) (if e.ue then .bad bank e.row [0] else .corrected bank e.row)) d
      d.inc F.SPR_DPASS_CNT) s

/-! ### The NV log and the repair table (R336, R343, R344) -/

/-- The LOG section: its place in the flash and its sectors. -/
def Dev.logSection (d : Dev) : Option (Nat × Nat) :=
  (sectOf d.pwr.header 11 0).map (fun e => (e.2.off, e.2.len / 4096))

/-- Sectors of the ring (R343). -/
def Dev.ringSectors (d : Dev) : Nat :=
  match d.logSection with
  | some (_, n) => n - 2
  | none => 0

/-- The flash address of ring sector `i`. -/
def Dev.ringAt (d : Dev) (i : Nat) : Nat :=
  match d.logSection with
  | some (off, _) => off + 4096 * (2 + i)
  | none => 0

/-- A sector header is good (R343). -/
def sectorGood (h : List Byte) : Bool := leAt h 0 4 == 0x53474F4C && crc32c (h.take 12) == leAt h 12 4

/-- A record of the log as it is programmed (R343). DESIGN CHOICE, log entry 89. -/
def logBytes (type seq : Nat) (payload : List Byte) : List Byte :=
  let b := BitVec.ofNat 8 type :: 0 :: (bytesLE 2 payload.length ++ bytesLE 4 seq ++ payload)
  b ++ bytesLE 4 (crc32c b)

/-- The records of a sector, from byte `at'` on: the byte after the last, and the highest sequence of a good one. -/
def scanSector (bs : List Byte) : Nat → Nat → Option Nat → Nat × Option Nat
  | 0, at', best => (at', best)
  | f + 1, at', best =>
    let len := leAt bs (at' + 2) 2
    if 4096 ≤ at' ∨ leAt bs at' 4 = 0xFFFFFFFF ∨ 4096 < at' + 12 + len then (at', best)
    else
      let r := (bs.drop at').take (12 + len)
      let best := if crc32c (r.take (8 + len)) == leAt r (8 + len) 4 then
          some (match best with
            | some b => max b (leAt r 4 4)
            | none => leAt r 4 4)
        else best
      scanSector bs f ((at' + 12 + len + 7) / 8 * 8) best

/-- The log as LOAD finds it (R343, R344): the good sector with the highest sequence is current.
DEDUCED, log entry 90. -/
def Work.logInit (w : Work) : Work :=
  let d := w.dev
  let n := d.ringSectors
  if n < 64 then w.on (fun d => d.mark F.SPR_STAT_LOG_SMALL true)
  else
    let heads := (List.range n).map (fun i => (i, w.peeksNv (d.ringAt i) 16))
    let good := (heads.filter (fun e => sectorGood e.2)).map (fun e => (e.1, leAt e.2 4 4))
    match orderBy (fun a b => decide (b.2 < a.2)) good with
    | [] => w.on (fun d => { d with spr := { d.spr with sector := none } })
    | (i, q) :: rest =>
      let x := scanSector (w.peeksNv (d.ringAt i) 4096) 512 16 none
      let best := match x.2, rest with
        | some b, _ => some b
        | none, (j, _) :: _ => (scanSector (w.peeksNv (d.ringAt j) 4096) 512 16 none).2
        | none, [] => none
      w.on (fun d => { d with spr := { d.spr with sector := some i, sectSeq := q, sectOff := x.1,
                                                  recSeq := (best.map (· + 1)).getD 0 } })

/-- The next sector in ring order is erased and takes a new header (R343). -/
def Work.nextSector (w : Work) : Work :=
  let d := w.dev
  let i := match d.spr.sector with
    | some i => (i + 1) % max 1 d.ringSectors
    | none => 0
  let a := d.ringAt i
  let old := w.peeksNv a 16
  let count := if sectorGood old then leAt old 8 4 else 0
  let h := bytesLE 4 0x53474F4C ++ bytesLE 4 (d.spr.sectSeq + 1) ++ bytesLE 4 (count + 1)
  let w := (w.pokesNv a (List.replicate 4096 nvInit)).pokesNv a (h ++ bytesLE 4 (crc32c h))
  w.on (fun d => { d with spr := { d.spr with sector := some i, sectSeq := d.spr.sectSeq + 1, sectOff := 16 } })

/-- A record goes into the ring (R343). -/
def Work.logWrite (w : Work) (type : Nat) (payload : List Byte) : Work :=
  let bs := logBytes type w.dev.spr.recSeq payload
  let w := if w.dev.spr.sector.isNone ∨ 4096 < w.dev.spr.sectOff + bs.length then w.nextSector else w
  let p := w.dev.spr
  let w := w.pokesNv (w.dev.ringAt (p.sector.getD 0) + p.sectOff) bs
  w.on (fun d => { d with spr := { d.spr with sectOff := (d.spr.sectOff + bs.length + 7) / 8 * 8, recSeq := d.spr.recSeq + 1 } })

/-- A repair table as it is programmed (R336). -/
def repairBytes (seq : Nat) (es : List Nat) : List Byte :=
  let b := bytesLE 4 0x50525052 ++ bytesLE 4 seq ++ bytesLE 2 es.length ++ List.replicate 6 0 ++ es.flatMap (bytesLE 4)
  b ++ bytesLE 4 (crc32c b)

/-- A new repair table in the other copy, with the entries that wait (R336). -/
def Work.repairWrite (w : Work) : Work :=
  let p := w.dev.spr
  match w.dev.logSection with
  | none => w.on (fun d => { d with spr := { d.spr with newRep := [] } })
  | some (off, _) =>
    let es := (p.repair ++ p.newRep).take 1016
    let c := 1 - p.repCopy
    let w := (w.pokesNv (off + 4096 * c) (List.replicate 4096 nvInit)).pokesNv (off + 4096 * c) (repairBytes (p.repSeq + 1) es)
    w.on (fun d => { d with spr := { d.spr with repair := es, newRep := [], repCopy := c, repSeq := p.repSeq + 1 } })

/-- LOG_RECORD_WRITE (R336, R343, R344): the writer does the next thing that waits, unless an NV operation has the
flash; `err` is the flash's error status. -/
def execLogRecordWrite (err : Bool) (s : State) : Host.Outcome State Fault Refusal :=
  onWork (fun w =>
    if w.dev.pwr.nvOp.isSome ∨ ¬ w.dev.on F.SPR_STAT_LOG_BUSY then w
    else
      let w :=
        if ! w.dev.spr.newRep.isEmpty then w.repairWrite
        else
          match w.dev.spr.logQ with
          | (type, payload) :: t =>
            let w := w.on (fun d => { d with spr := { d.spr with logQ := t } })
            if w.dev.ringSectors < 64 then w else w.logWrite type payload
          | [] => w
      w.on (fun d => (d.raiseIf err F.SPR_FLAG2_LOG_ERR).logShow)) s

/-- SPR_LOG_CMD written (R344). -/
def Dev.logCmd (d : Dev) (v : Word) : Dev :=
  let type := fieldOf v 0 8
  let len := fieldOf v 8 8
  if d.on F.SPR_STAT_LOG_BUSY then d.accessErr R.SPR_LOG_CMD
  else if type < 0x40 ∨ 240 < len then d
  else d.logPut type (((List.range 64).flatMap (fun k => bytesLE 4 (d.reg (R.SPR_LOG_BUF k)).toNat)).take len)

/-- LOG_CMD (R344). -/
def execLogCmd (v : Word) (s : State) : Host.Outcome State Fault Refusal := onDev (fun d => d.logCmd v) s

/-! ### Microcode (R339) -/

/-- SPR_PIPE_LOAD written. -/
def Dev.pipeLoad (d : Dev) (v : Word) : Dev :=
  let go := fieldOf v 0 1 == 1
  let pl := fieldOf v 1 5
  if go && d.on F.SPR_STAT_PIPE_BUSY then d.accessErr R.SPR_PIPE_LOAD
  else
    let d := d.put F.SPR_PIPE_LOAD_PL pl
    if ! go || decide (16 < pl) then d
    else { d with spr := { d.spr with pipe := some pl } }.mark F.SPR_STAT_PIPE_BUSY true

/-- PIPE_LOAD (R339). -/
def execPipeLoad (v : Word) (s : State) : Host.Outcome State Fault Refusal := onDev (fun d => d.pipeLoad v) s

/-- A load ends; a part that fails its CRC-32C leaves the pipeline unusable (R339). -/
def Dev.pipeDone (d : Dev) (ok : Bool) : Dev :=
  match d.spr.pipe with
  | none => d
  | some n =>
    let l := d.spr.loaded.filter (· != n)
    let d := { d with spr := { d.spr with pipe := none, loaded := if ok then n :: l else l } }.mark F.SPR_STAT_PIPE_BUSY false
    d.raise (if ok then F.SPR_FLAG3_PIPE_DONE else F.SPR_FLAG3_PIPE_FAIL)

/-- PIPE_DONE (R339). -/
def execPipeDone (ok : Bool) (s : State) : Host.Outcome State Fault Refusal := onDev (fun d => d.pipeDone ok) s

/-! ### Telemetry (R345, R346) -/

/-- SRAM errors since LOAD (R334, R346). -/
def Dev.sramErrors (d : Dev) (ue : Bool) : Nat :=
  d.spr.bank.foldl (fun n e => if e.1 < 96 then satAdd n (if ue then e.2.ue else e.2.ce) else n) 0

/-- The telemetry record (R346). -/
def Dev.teleBytes (d : Dev) : List Byte :=
  let flags := b2n (d.on F.MER_STAT_STEERING) + 2 * b2n (d.on F.TRG_STAT_LS_LOCK) + 4 * b2n (d.on F.LOG_STAT_REVERSED)
    + 8 * b2n (d.on F.LOG_STAT_STANDSTILL) + 16 * b2n (d.on F.CFG_STAT_DEFAULTS) + 32 * b2n (d.on F.CFG_STAT_REJECT)
  let b : List Byte := [0x20, BitVec.ofNat 8 flags] ++ bytesLE 2 96 ++ bytesLE 2 d.unitAddr ++ [1, BitVec.ofNat 8 d.mode]
    ++ bytesLE 8 (d.val F.MER_TIME) ++ bytesLE 8 (d.val F.LOG_POS) ++ bytesLE 8 (d.val F.LOG_LENGTH)
    ++ bytesLE 4 (d.val F.LOG_SPEED) ++ bytesLE 8 (d.val F.STC_ROW) ++ bytesLE 2 (d.val F.PWR_TJ)
    ++ bytesLE 1 (d.val F.SPR_AGE_MIN_M) ++ bytesLE 1 (d.val F.SPR_AGE_MIN_INDEX) ++ bytesLE 2 (d.val F.PWR_AVS_VOUT)
    ++ bytesLE 2 (d.val F.ALM_VBAT) ++ bytesLE 4 (d.sramErrors false) ++ bytesLE 4 (d.sramErrors true)
    ++ bytesLE 4 (d.val F.DRC_CE_CNT) ++ bytesLE 4 (d.val F.DRC_UE_CNT) ++ bytesLE 4 (d.val F.SEG_U_FIX_CNT)
    ++ bytesLE 2 d.spr.repair.length ++ bytesLE 2 0 ++ bytesLE 4 ((d.now - d.spr.loadEnd) / 1000000000)
    ++ bytesLE 8 d.alm.sec ++ bytesLE 4 0
  b ++ bytesLE 4 (crc32c b)

/-- The source number of SPR at a queue. -/
def sprSrc : Nat := 0x3000

/-- The second whose passing brings the next record (R345). -/
def Dev.teleDue (d : Dev) : Int :=
  let next := (d.devTime + 999999999) / 1000000000
  match d.spr.teleSec with
  | some t => max next (t + 1)
  | none => next

/-- The record offered to its queue. -/
def Dev.teleOffer (d : Dev) : Dev :=
  let q := d.val F.SPR_TELE % 64
  let since := if d.queStalls q sprSrc then d.spr.teleAt.getD d.now else d.now
  let d := d.queBytes q sprSrc 0x09 d.teleBytes
  { d with spr := { d.spr with teleAt := if d.queStalls q sprSrc then some since else none } }

/-- TELEMETRY (R345): device time passes a whole second greater than the last record's. -/
def execTelemetry (s : State) : Host.Outcome State Fault Refusal :=
  onDev (fun d =>
    if ¬ d.on F.SPR_CTRL_TELE_EN then d
    else
      let due := d.teleDue
      let d := (d.reachDev (due * 1000000000)).tickUnit
      Dev.teleOffer { d with spr := { d.spr with teleSec := some due } }) s

/-- TELE_DROP (R345): a record that its queue has not taken for 1 ms is discarded. DEDUCED, log entry 109. -/
def execTeleDrop (s : State) : Host.Outcome State Fault Refusal :=
  onDev (fun d =>
    match d.spr.teleAt with
    | none => d
    | some t =>
      let q := d.val F.SPR_TELE % 64
      let d := { d with spr := { d.spr with teleAt := none } }
      if ! d.queStalls q sprSrc then d
      else (((d.reach (t + 1000000)).queCutWriter q sprSrc).raise F.SPR_FLAG2_TELE_DROP).inc F.SPR_TELE_DROP_CNT) s

/-! ### Ageing monitors and the self-test (R347, R348) -/

/-- SPR_AGE_VAL shows the monitor that AGE_SEL selects. DESIGN CHOICE, log entry 111. -/
def Dev.ageShow (d : Dev) : Dev := d.put F.SPR_AGE_VAL (tabGet 0 d.spr.age (d.val F.SPR_AGE_SEL % 32) - 1)

/-- The lowest margin and its monitor, of those measured; 100 % before any is. -/
def Dev.lowestMargin (d : Dev) : Nat × Nat :=
  d.spr.age.foldl (fun b e => if (e.2 - 1) % 256 < b.1 then ((e.2 - 1) % 256, e.1) else b) (100, 0)

/-- AGE_MEASURE (R347): AGE_LOW when the lowest margin falls below AGE_WARN. -/
def execAgeMeasure (mon : Fin 32) (margin : Int) (raw : Nat) (s : State) : Host.Outcome State Fault Refusal :=
  onDev (fun d =>
    let m := (clampI 0 100 margin).toNat
    let was := d.val F.SPR_AGE_MIN_M
    let d := { d with spr := { d.spr with age := tabSet 0 d.spr.age mon (1 + m + 256 * (raw % 2 ^ 24)) } }
    let low := d.lowestMargin
    let d := ((d.put F.SPR_AGE_MIN_M low.1).put F.SPR_AGE_MIN_INDEX low.2).ageShow
    let warn := d.val F.SPR_AGE_WARN % 256
    d.raiseIf (decide (low.1 < warn ∧ warn ≤ was)) F.SPR_FLAG2_AGE_LOW) s

/-- CODEC_SELF_TEST (R348): every CST_PERIOD seconds, in the 64 KiB area at CST_BASE, whose contents after it the
manual does not give. -/
def execCodecSelfTest (e : Fin 4) (ok : Bool) (s : State) : Host.Outcome State Fault Refusal :=
  onWork (fun w =>
    let d := w.dev
    if ¬ d.on F.SPR_CTRL_CST_EN ∨ d.val F.SPR_CTRL_CST_ENG ≠ e then w
    else
      let w := w.on (fun d => d.reach (d.spr.cstAt + 1000000000 * max 1 (d.val F.SPR_CST_PERIOD)))
      let r := w.freeBytes 65536
      let w := r.1.pokes (0x10000000 + 65536 * (d.val F.SPR_CST_BASE % 128)) r.2
      w.on (fun d =>
        let d := { d with spr := { d.spr with cstAt := d.now } }
        d.raiseIf (! ok) F.SPR_FLAG3_CST_FAIL)) s

end Sys2Proof.Machine
end

