-- ==== Sys2Proof/Machine/Filter.lean ====
section
/-! DEFINITION. The filter chain's commands (R64 to R68). Channels 0 to 15 are lamps, channel 16 + n is the
speed of position channel n. -/
namespace Sys2Proof.Machine

/-- The preset that governs channel `c`: its own, or for a speed channel the Log's (R43, R72). -/
def Dev.fltPreset (d : Dev) (c : Nat) : Nat :=
  if c < 16 then d.val (F.FLTc_CTRL_PRESET c) else d.val (F.LOGn_SPD_CFG_PRESET (c - 16))

/-- The decimation of a preset from 25 MHz, and its output period, ns (R65). -/
def fltDecim (p : Nat) : Nat := [250, 1000, 4000, 16000].getD p 250
def fltPeriod (p : Nat) : Nat := 40 * fltDecim p

/-- NTAPS as it acts: an even value as the next odd one, 0 as 1 (R66). -/
def oddTaps (n : Nat) : Nat := if n % 2 = 0 then n + 1 else n

/-- The taps of a final stage of `n` symmetric taps against the samples, in units of 2^-22 (R65, R66). -/
def firSum (tap : Nat → Int) (n : Nat) : Nat → List Int → Int
  | _, [] => 0
  | i, x :: t => if i < n then tap (min i (n - 1 - i)) * x + firSum tap n (i + 1) t else 0

/-- A sum over `den` as an output: exact where it is whole; the manual states no rounding, so where it is not, a free
bit chooses between the two neighbours (DESIGN CHOICE, log entry 18). -/
def Dev.firRound (d : Dev) (v den : Int) : Int × Dev :=
  let w := if den < 0 then -v else v
  let m : Int := max 1 den.natAbs
  if w % m = 0 then (w / m, d)
  else
    let r := d.draw
    (w / m + (r.1.toNat % 2 : Nat), r.2)

/-! ### The front section (R64, R65) -/

/-- The tap of the front section for an input `h` steps of 20 ns old: symmetric about 2.25 output periods, which with
the 4 of a final stage of 33 taps make the 6.25 of R65. -/
def frontTap (p h : Nat) : Int := if 9 * fltDecim p < h then 0 else Config.frontTap p (min h (9 * fltDecim p - h))

/-- The sum of the taps that inputs at 25 MHz meet, the newest `q` steps old. -/
def frontGain (p q : Nat) : Int :=
  ((List.range (9 * fltDecim p / 2 + 1)).map (fun i => frontTap p (q + 2 * i))).foldl (· + ·) 0

/-- The front section's sample at step `at'` of 20 ns: unit gain for a steady input, a lamp in fractions of full scale,
a speed in counts per second (R65). -/
def Dev.frontSample (d : Dev) (c at' : Nat) : Int × Dev :=
  let p := d.fltPreset c
  let sum := (d.fltc c).raw.foldl (fun a x => if 2 * x.1 ≤ at' then a + frontTap p (at' - 2 * x.1) * x.2 else a) 0
  d.firRound (if c < 16 then sum else 25000000 * sum) (frontGain p (at' % 2))

/-- The `n` newest samples of the front section, four to an output period, newest first (R65). -/
def Dev.frontSamples (c at' : Nat) : Nat → Dev → List Int × Dev
  | 0, d => ([], d)
  | n + 1, d =>
    let r := Dev.frontSamples c at' n d
    let y := r.2.frontSample c (at' - n * (fltDecim (d.fltPreset c) / 2))
    (r.1 ++ [y.1], y.2)

/-- The input of a lamp channel: a 1 is full scale, a 0 minus full scale (PRESUMED, log entry 123). -/
def lampInput (t : Nat) (bits : List Bool) : List (Nat × Int) :=
  bits.zipIdx.map (fun x => (t - x.2, if x.1 then 2 ^ 23 else -(2 ^ 23)))

/-- The output of user bank `b` of channel `c`. -/
def Dev.bankOut (d : Dev) (c b : Nat) : Int × Dev :=
  let x := d.fltc c
  let n := if b = 0 then x.ntap0 else x.ntap1
  d.firRound (firSum (fun i => toSigned 24 (tabGet 0 x.taps (b * 128 + i))) (oddTaps n) 0 x.line) (2 ^ 22)

/-- The output of the preset's final stage: 33 symmetric taps that pass a steady input unchanged (R65; DESIGN CHOICE,
log entry 12). -/
def Dev.presetOut (d : Dev) (c : Nat) : Int × Dev :=
  let tap := Config.presetTap (d.fltPreset c)
  d.firRound (firSum tap 33 0 (d.fltc c).line) (firSum tap 33 0 (List.replicate 33 1))

/-- The final stage's output: the preset's, or the active user bank's, faded in from the other bank while a fade runs
(R66, R67). -/
def Dev.fltValue (d : Dev) (c : Nat) : Int × Dev :=
  let x := d.fltc c
  if ! d.on (F.FLTc_CTRL_USER c) then d.presetOut c
  else
    let b := d.val (F.FLTc_STAT_BANK c)
    let y := d.bankOut c b
    if ! d.on (F.FLTc_STAT_FADING c) then y
    else
      let z := y.2.bankOut c (1 - b)
      (z.1 + Int.tdiv ((y.1 - z.1) * (x.fadeI + 1 : Nat)) x.fadeLen, z.2)

/-- One output sample of the fade that runs, whether or not the final stage is the user's (R67). -/
def Dev.fadeStep (d : Dev) (c : Nat) : Dev :=
  if ! d.on (F.FLTc_STAT_FADING c) then d
  else
    let x := d.fltc c
    let d := d.setFltc c { x with fadeI := x.fadeI + 1 }
    if x.fadeLen ≤ x.fadeI + 1 then d.mark (F.FLTc_STAT_FADING c) false else d

/-- The output put into OUT, saturated with SAT (R65, R66); a speed also into LOGn_SPEED_FILT (R43). -/
def Dev.fltShow (d : Dev) (c : Nat) (y : Int) : Dev :=
  let k := if c < 16 then 23 else 31
  let z := clampI (-(2 ^ k)) (2 ^ k - 1) y
  let d := (d.raiseIf (z != y) (F.FLTc_FLAG_SAT c)).puti (F.FLTc_OUT c) z
  if c < 16 then d else d.puti (F.LOGn_SPEED_FILT (c - 16)) z

/-- The channel restarts (R68): SETTLING, the output held, the samples of the old preset gone. -/
def Dev.fltRestart (d : Dev) (c : Nat) : Dev :=
  let d := d.setFltc c { d.fltc c with raw := [], line := [], settle := 0, outAt := d.now }
  let d := d.mark (F.FLTc_STAT_SETTLING c) true
  if c < 16 then d.mark (F.FLTc_STAT_VALID c) false else d

/-- A fresh enable (R68): the held output is 0. The VALID of a speed channel is that of the latest windowed sample
(R43). -/
def Dev.fltStart (d : Dev) (c : Nat) : Dev :=
  let d := (d.setFltc c { d.fltc c with silent := false }).puti (F.FLTc_OUT c) 0
  let d := if c < 16 then d
    else (d.puti (F.LOGn_SPEED_FILT (c - 16)) 0).mark (F.FLTc_STAT_VALID c) (bitOf (d.logch (c - 16)).spdStat 0)
  d.fltRestart c

/-- The field that enables a channel: a speed channel follows LOGn_SPD_CFG.FILT (R43, R72). -/
def fltEn (c : Nat) : Fld := if c < 16 then F.FLTc_CTRL_EN c else F.LOGn_SPD_CFG_FILT (c - 16)

/-- The output sample in progress is complete: a channel that drains sets IDLE (R9, R68). -/
def Dev.fltSettle (d : Dev) (c : Nat) : Dev :=
  if ! d.drains (fltEn c) (F.FLTc_STAT_IDLE c) then d
  else
    let r := d.drained (fltEn c) (F.FLTc_STAT_IDLE c)
    if r.2 then r.1.fltStart c else r.1

/-- A channel's enable set, cleared, and its ABORT (R9, R68). Without an input no sample is in progress. -/
def Dev.fltEnable (d : Dev) (c : Nat) : Dev :=
  let r := d.startIntake (fltEn c) (F.FLTc_STAT_IDLE c)
  if r.2 then r.1.fltStart c else r.1
def Dev.fltDisable (d : Dev) (c : Nat) : Dev :=
  let d := d.stopIntake (fltEn c)
  if (d.fltc c).silent then d.fltSettle c else d
def Dev.fltAbort (d : Dev) (c : Nat) : Dev := d.abortBits (fltEn c) (F.FLTc_STAT_IDLE c)

/-- FILTER_OUTPUT (R64 to R68): four samples of the front section give one output. -/
def execFilterOutput (c : Fin 48) (bits : List Bool) (s : State) : Host.Outcome State Fault Refusal :=
  onDev (fun d =>
    let x := d.fltc c
    if d.on (F.FLTc_STAT_IDLE c) || x.silent then d
    else
      let k := fltDecim (d.fltPreset c)
      let d := d.reach (x.outAt + fltPeriod (d.fltPreset c))
      let new := if c.val < 16 then lampInput (d.now / 40) (bits.take k) else []
      let d := d.setFltc c { x with raw := (new ++ x.raw).filter (fun y => decide (d.now / 20 ≤ 2 * y.1 + 11 * k)) }
      let q := Dev.frontSamples c (d.now / 20) 4 d
      let d := q.2.setFltc c { q.2.fltc c with line := (q.1 ++ x.line).take 256, outAt := q.2.now, settle := min 13 (x.settle + 1) }
      let r := d.fltValue c
      let d := r.2.fadeStep c
      let shown := fun (d : Dev) =>
        let d := (d.mark (F.FLTc_STAT_SETTLING c) false).fltShow c r.1
        if c.val < 16 then d.mark (F.FLTc_STAT_VALID c) true else d
      (if x.settle + 1 < 13 then d else shown d).fltSettle c) s

/-- NO_SIGNAL (R64): the lamp input shows no transition for 1 µs; a sample in progress is then over. -/
def execNoSignal (c : Fin 16) (s : State) : Host.Outcome State Fault Refusal :=
  onDev (fun d =>
    if d.on (F.FLTc_STAT_IDLE c) || (d.fltc c).silent then d
    else
      let d := (d.setFltc c { d.fltc c with silent := true }).mark (F.FLTc_STAT_VALID c) false
      (d.raise (F.FLTc_FLAG_NO_SIGNAL c)).fltSettle c) s

/-- LAMP_SIGNAL_RETURN (R64): transitions return. -/
def execLampSignalReturn (c : Fin 16) (s : State) : Host.Outcome State Fault Refusal :=
  onDev (fun d =>
    let x := d.fltc c
    if ! x.silent then d
    else
      let d := d.setFltc c { x with silent := false, outAt := d.now }
      d.mark (F.FLTc_STAT_VALID c) (! d.on (F.FLTc_STAT_SETTLING c))) s

/-- The FADE hand-over (R67): FCFG_SH into FCFG_ACT, the idle bank active, and a cross-fade. -/
def Dev.fltSwitch (d : Dev) (c : Nat) : Dev :=
  if d.on (F.FLTc_STAT_FADING c) then d.raise (F.FLTc_FLAG_COEF_BUSY c)
  else
    let d := d.setReg (R.FLTc_FCFG_ACT c) (d.reg (R.FLTc_FCFG_SH c))
    let d := d.mark (F.FLTc_STAT_SHADOW_PEND c) false
    let b := 1 - d.val (F.FLTc_STAT_BANK c)
    let n := d.val (F.FLTc_FCFG_ACT_NTAPS c)
    let x := d.fltc c
    let x := { x with fadeI := 0, fadeLen := min 1024 (max 16 (d.val (F.FLTc_FCFG_ACT_FADE_LEN c))) }
    let d := d.setFltc c (if b = 0 then { x with ntap0 := n } else { x with ntap1 := n })
    (d.put (F.FLTc_STAT_BANK c) b).mark (F.FLTc_STAT_FADING c) true

/-- SWITCH (R67). -/
def execSwitch (c : Fin 48) (s : State) : Host.Outcome State Fault Refusal := onDev (fun d => d.fltSwitch c) s

/-- A tap into the idle bank, with the index advancing (R66); ignored during a fade (R67). -/
def Dev.coefWrite (d : Dev) (c : Nat) (v : Word) : Dev :=
  if d.on (F.FLTc_STAT_FADING c) then d.raise (F.FLTc_FLAG_COEF_BUSY c)
  else
    let i := d.val (F.FLTc_COEF_IDX c) % 128
    let x := d.fltc c
    let b := 1 - d.val (F.FLTc_STAT_BANK c)
    let d := d.setFltc c { x with taps := tabSet 0 x.taps (b * 128 + i) (v.toNat % 2 ^ 24) }
    d.put (F.FLTc_COEF_IDX c) ((i + 1) % 128)

/-- COEF_DATA_WRITE (R66). -/
def execCoefDataWrite (c : Fin 48) (v : Word) (s : State) : Host.Outcome State Fault Refusal :=
  onDev (fun d => d.coefWrite c v) s

/-- The preset field of a channel written; a change restarts a channel that runs (R68). -/
def Dev.presetWrite (d : Dev) (c p : Nat) : Dev :=
  let old := d.fltPreset c
  let d := d.put (if c < 16 then F.FLTc_CTRL_PRESET c else F.LOGn_SPD_CFG_PRESET (c - 16)) p
  if old = p ∨ d.on (F.FLTc_STAT_IDLE c) then d else d.fltRestart c

/-- PRESET_CHANGE (R68). -/
def execPresetChange (c : Fin 48) (p : Fin 4) (s : State) : Host.Outcome State Fault Refusal :=
  onDev (fun d => d.presetWrite c p) s

end Sys2Proof.Machine
end

