-- ==== Sys2Proof/Machine/Log.lean ====
section
/-! DEFINITION. The Log's commands: edges, standstill, SSI, index and drift, speed windows, scale writes and
the position between counts (R27 to R46). COMPARE_HIT stands in Mark.lean, beside the start-of-scan. -/
namespace Sys2Proof.Machine

/-- Channel `n` counts: enabled, not draining, in the mode given (R27, R29). -/
def Dev.chanRuns (d : Dev) (n mode : Nat) : Bool :=
  d.runs (F.LOGn_CFG_EN n) (F.LOGn_STAT_IDLE n) && d.val (F.LOGn_CFG_MODE n) == mode

/-- A fresh enable of a channel (R29, R33, R39): no edges, no baseline, no reference, no index errors, and the
first speed window begins (DESIGN CHOICE, log entry 118). -/
def Dev.chanStart (d : Dev) (n : Nat) : Dev :=
  let c := d.logch n
  let d := d.setLogch n { c with anyEdge := false, run := 0, frac := 0, lastMove := d.now, chA := none, chB := none,
                                 chZ := none, ssiPrev := none,
                                 ssiBusy := false, ssiNext := d.now, idxRef := none, idxErrs := 0, winEdges := 0,
                                 winNet := 0, winRev := false, winStart := d.now, lastQual := false }
  let d := (d.mark (F.LOGn_STAT_STANDSTILL n) false).mark (F.LOGn_STAT_PER_VALID n) false
  d.put (F.LOGn_STAT_IDX_ERRS n) 0

/-- The channel stops counting with its position kept: the fraction stays as it is now (R29). -/
def Dev.chanStop (d : Dev) (n : Nat) : Dev :=
  d.setLogch n { d.logch n with frac := d.fracAt n d.now }

/-- A move begins or goes on: the standstill timer runs afresh (R34). -/
def Dev.chanMoves (d : Dev) (n t : Nat) : Dev :=
  (d.setLogch n { d.logch n with lastMove := t, frac := 0 }).mark (F.LOGn_STAT_STANDSTILL n) false

/-- The state code q of levels A and B (R31). -/
def quadCode (a b : Bool) : Nat :=
  match a, b with
  | false, false => 0
  | true, false => 1
  | true, true => 2
  | false, true => 3

/-- Edges counted into the open speed window; the window that holds the first edge in a new direction holds
the direction change (R41, R42). -/
def LogChan.window (c : LogChan) (edges : Nat) (net : Int) (turn : Bool) : LogChan :=
  { c with winEdges := c.winEdges + edges, winNet := c.winNet + net, winRev := c.winRev || turn }

/-- A forward or backward edge stamped `t` (R31, R34). -/
def Dev.edge (d : Dev) (n : Nat) (fwd : Bool) (t : Nat) : Dev :=
  let c := d.logch n
  let still := d.on (F.LOGn_STAT_STANDSTILL n)
  let turn := c.anyEdge && (d.on (F.LOGn_STAT_DIRECTION n) == fwd)
  let run := if turn ∨ still then 1 else c.run + 1
  let c := { c with per := t - c.lastEdge, lastEdge := t, anyEdge := true, run := run }
  let d := d.setLogch n (c.window 1 (if fwd then 1 else -1) turn)
  let d := d.mark (F.LOGn_STAT_DIRECTION n) (! fwd)
  let d := d.mark (F.LOGn_STAT_PER_VALID n) (decide (2 ≤ run))
  (d.chanMoves n t).moveCount n (if fwd then 1 else -1)

/-- A double change: the count stays, the period is no longer valid, the timer restarts (R31, R34). -/
def Dev.doubleChange (d : Dev) (n t : Nat) : Dev :=
  let d := (d.raise (F.LOGn_FLAG_QERR n)).inc (F.LOGn_QERR_CNT n)
  let d := d.setLogch n { d.logch n with run := 0 }
  let d := (d.mark (F.LOGn_STAT_PER_VALID n) false).chanMoves n t
  d.showChan n true

/-- An input that last changed at `last` is taken to change again at `t` no sooner than GLITCH later: the level between
them was not sampled unchanged so long (R30). -/
def Dev.settled (d : Dev) (n : Nat) (last : Option Nat) (t : Nat) : Bool :=
  match last with
  | some u => decide (u + d.val (F.LOGn_CFG_GLITCH n) ≤ t)
  | none => true

/-- ACCEPTED_EDGE (R30, R31). The count appears GLITCH + 12 ns after the first sample, the latest instant
R30 allows (DEDUCED, log entry 16); a change closer to the input's last than GLITCH is discarded without trace. -/
def execAcceptedEdge (n : Fin 32) (a b : Bool) (t : Nat) (s : State) : Host.Outcome State Fault Refusal :=
  onDev (fun d =>
    let old := d.val (F.LOGn_STAT_ABZ n)
    let q := quadCode (bitOf old 0) (bitOf old 1)
    let diff := (quadCode a b + 4 - q) % 4
    let c := d.logch n
    let newA := a != bitOf old 0
    let newB := b != bitOf old 1
    let short := (newA && ! d.settled n c.chA t) || (newB && ! d.settled n c.chB t)
    let d := d.reach (t + d.val (F.LOGn_CFG_GLITCH n) + 12)
    if short then d else
    let d := d.setLogch n { c with chA := if newA then some t else c.chA, chB := if newB then some t else c.chB }
    let d := d.put (F.LOGn_STAT_ABZ n) (b2n a + 2 * b2n b + 4 * b2n (bitOf old 2))
    if ! d.chanRuns n 1 || diff == 0 then d
    else if diff == 2 then (d.moveChan n).doubleChange n t
    else (d.moveChan n).edge n ((diff == 1) != d.on (F.LOGn_CFG_DIR n)) t) s

/-- STANDSTILL (R34, R37): no edge and no double change for STILL_TIME. The period stays valid until the next edge,
which a standstill then precedes (DEDUCED, log entry 51). DESIGN CHOICE, log entry 6. -/
def execStandstill (n : Fin 32) (s : State) : Host.Outcome State Fault Refusal :=
  onDev (fun d =>
    if ! d.runs (F.LOGn_CFG_EN n) (F.LOGn_STAT_IDLE n) || d.on (F.LOGn_STAT_STANDSTILL n) then d
    else
      let d := d.reach ((d.logch n).lastMove + d.val (F.LOGn_STILL_TIME n) * 1000)
      let d := d.moveChan n
      let d := d.setLogch n { d.logch n with frac := d.fracAt n d.now }
      let d := d.mark (F.LOGn_STAT_STANDSTILL n) true
      if d.isSource n then d.goStill.cmpRefresh else d) s

/-! ### SSI (R32, R33) -/

/-- The data bits of an SSI frame, 8 to 48. -/
def Dev.ssiBits (d : Dev) (n : Nat) : Nat := min 48 (max 8 (d.val (F.LOGn_SSI_CFG_BITS n)))

/-- The length of an SSI frame with its MONO time, ns. -/
def Dev.ssiSpan (d : Dev) (n : Nat) : Nat :=
  (d.ssiBits n + d.val (F.LOGn_SSI_CFG_ERRBIT n)) * min 2500 (max 25 (d.val (F.LOGn_SSI_CFG_CLKDIV n))) * 4
    + max 1 (d.val (F.LOGn_SSI_CFG_MONO n)) * 1000

/-- SSI_READ (R32): the channel begins to clock a frame. -/
def execSsiRead (n : Fin 32) (s : State) : Host.Outcome State Fault Refusal :=
  onDev (fun d =>
    let c := d.logch n
    if ! d.chanRuns n 2 || c.ssiBusy then d
    else
      let d := d.reach c.ssiNext
      let d := d.setLogch n { c with ssiBusy := true, ssiStart := d.now }
      d.emit (.ssi n (d.ssiBits n + d.val (F.LOGn_SSI_CFG_ERRBIT n)))) s

/-- The number a Gray code of `k` bits spells. -/
def grayDecode : Nat → Nat → Nat
  | 0, v => v
  | k + 1, v => grayDecode k (v ^^^ (v / 2 ^ (2 ^ k)))

/-- A good SSI value (R33): the baseline, or a step of the count by delta. -/
def Dev.ssiGood (d : Dev) (n v : Nat) : Dev :=
  let c := d.logch n
  let k := d.ssiBits n
  match c.ssiPrev with
  | none => d.setLogch n { c with ssiPrev := some v }
  | some p =>
    let delta := toSigned k (((v : Int) - p) % 2 ^ k).toNat
    if d.val (F.LOGn_SSI_STEP n) < delta.natAbs then d.raise (F.LOGn_FLAG_SSI_JUMP n)
    else
      let d := d.setLogch n { c with ssiPrev := some v }
      if delta = 0 then d
      else
        let turn := c.anyEdge && (d.on (F.LOGn_STAT_DIRECTION n) == decide (0 < delta))
        let c := { d.logch n with anyEdge := true, lastEdge := d.now }
        let d := d.setLogch n (c.window delta.natAbs delta turn)
        let d := d.mark (F.LOGn_STAT_DIRECTION n) (decide (delta < 0))
        (d.chanMoves n d.now).moveCount n delta

/-- A channel that drains sets IDLE once no SSI frame is being clocked; an EN set meanwhile starts it afresh (R9, R29). -/
def Dev.logSettle (d : Dev) (n : Nat) : Dev :=
  if (d.logch n).ssiBusy ∨ ¬ d.drains (F.LOGn_CFG_EN n) (F.LOGn_STAT_IDLE n) then d
  else
    let r := (((d.moveChan n).chanStop n)).drained (F.LOGn_CFG_EN n) (F.LOGn_STAT_IDLE n)
    if r.2 then r.1.chanStart n else r.1

/-- EN of a channel set, cleared, and its ABORT (R9, R29). -/
def Dev.logEnable (d : Dev) (n : Nat) : Dev :=
  let r := d.startIntake (F.LOGn_CFG_EN n) (F.LOGn_STAT_IDLE n)
  if r.2 then r.1.chanStart n else r.1
def Dev.logDisable (d : Dev) (n : Nat) : Dev := (d.stopIntake (F.LOGn_CFG_EN n)).logSettle n
def Dev.logAbort (d : Dev) (n : Nat) : Dev :=
  let d := (d.moveChan n).chanStop n
  (d.setLogch n { d.logch n with ssiBusy := false }).abortBits (F.LOGn_CFG_EN n) (F.LOGn_STAT_IDLE n)

/-- SSI_FRAME_END (R32, R33): the frame and its MONO time are over. DEDUCED, log entry 51. -/
def execSsiFrameEnd (n : Fin 32) (bits : Nat) (err high : Bool) (s : State) : Host.Outcome State Fault Refusal :=
  onDev (fun d =>
    let c := d.logch n
    if ! c.ssiBusy then d
    else
      let d := d.reach (c.ssiStart + d.ssiSpan n)
      let d := d.setLogch n { c with ssiBusy := false, ssiNext := max d.now (c.ssiStart + 4 * d.val (F.LOGn_SSI_PERIOD n)) }
      let v := bits % 2 ^ d.ssiBits n
      let d := if ! high || (err && d.on (F.LOGn_SSI_CFG_ERRBIT n)) then d.raise (F.LOGn_FLAG_SSI_ERR n)
        else d.ssiGood n (if d.on (F.LOGn_SSI_CFG_GRAY n) then grayDecode 6 v else v)
      d.logSettle n) s

/-! ### Index and drift (R38 to R40) -/

/-- Drift correction (R40): a ramp of LOG_SCALE from its present value toward NOM × |j| × CPR / |L − ref|, held at the
largest U12.20 value (DESIGN CHOICE, log entry 119). -/
def Dev.startRamp (d : Dev) (n : Nat) (l ref j : Int) : Dev :=
  let den := (l - ref).natAbs
  if den = 0 then d
  else
    let num := d.val F.LOG_SCALE_NOM * j.natAbs * d.val (F.LOGn_CPR n)
    let target := min 0xFFFFFFFF ((2 * num + den) / (2 * den))
    let span := min 65536 (max 16 (d.val (F.LOGn_DRIFT_SPAN n)))
    let d := { d with log := { d.log with ramp := some ⟨d.val F.LOG_SCALE, target, 0, span⟩ } }
    d.mark F.LOG_STAT_RAMP true

/-- Two drift history entries as a register shows them (R46). -/
def histWord (h : List Int) (k : Nat) : Nat :=
  fromSigned 16 (h.getD (2 * k) 0) + 65536 * fromSigned 16 (h.getD (2 * k + 1) 0)

/-- A latch at count `l` checked against the reference (R39). With CPR 0 there is no check, and each latch becomes the
reference (DESIGN CHOICE, log entry 120). -/
def Dev.indexCheck (d : Dev) (n : Nat) (l : Int) : Dev :=
  let c := d.logch n
  let cpr : Int := d.val (F.LOGn_CPR n)
  match c.idxRef with
  | none => d.setLogch n { c with idxRef := some l }
  | some ref =>
    if cpr = 0 then d.setLogch n { c with idxRef := some l }
    else
      let j := (2 * (l - ref) + cpr) / (2 * cpr)
      let drift := clampI (-(2 ^ 31)) (2 ^ 31 - 1) (l - (ref + j * cpr))
      let d := d.puti (F.LOGn_DRIFT n) drift
      if drift.natAbs ≤ d.val (F.LOGn_INDEX_CTRL_TOL n) then
        let hist := (clampI (-32768) 32767 drift :: c.hist).take 16
        let d := d.setLogch n { c with hist := hist, idxRef := some l, idxErrs := 0 }
        let d := d.put (F.LOGn_DRIFT_HISTk n 0) (histWord hist 0)
        if d.on (F.LOGn_INDEX_CTRL_DRIFT_EN n) ∧ j ≠ 0 ∧ d.isSource n then d.startRamp n l ref j else d
      else
        let d := (d.raise (F.LOGn_FLAG_INDEX_ERR n)).inc (F.LOGn_INDEX_ERR_CNT n)
        let errs := c.idxErrs + 1
        if errs = d.val (F.LOGn_INDEX_CTRL_RESYNC_N n) then
          (d.setLogch n { c with idxRef := some l, idxErrs := 0 }).raise (F.LOGn_FLAG_INDEX_RESYNC n)
        else d.setLogch n { c with idxErrs := errs }

/-- INDEX_LATCH (R30, R38, R39): Z takes a new level at its first sample `t`, accepted GLITCH ns later beside the
counts of A and B; a rising edge that ZEN and ZGATE accept latches. IDX_ERRS shows at most 15 (DESIGN CHOICE, log
entry 121). -/
def execIndexLatch (n : Fin 32) (z : Bool) (s : State) (t : Nat := 0) : Host.Outcome State Fault Refusal :=
  onDev (fun d =>
    let old := d.val (F.LOGn_STAT_ABZ n)
    let c := d.logch n
    let short := ! d.settled n c.chZ t
    let d := d.reach (t + d.val (F.LOGn_CFG_GLITCH n) + 12)
    if short || z == bitOf old 2 then d else
    let d := d.setLogch n { c with chZ := some t }
    let d := d.put (F.LOGn_STAT_ABZ n) (old % 4 + 4 * b2n z)
    let q := quadCode (bitOf old 0) (bitOf old 1)
    let gate := ! d.on (F.LOGn_INDEX_CTRL_ZGATE_EN n) || q == d.val (F.LOGn_INDEX_CTRL_ZGATE n)
    if z && ! bitOf old 2 && d.chanRuns n 1 && d.on (F.LOGn_INDEX_CTRL_ZEN n) && gate then
      let l := (d.logch n).count
      let d := (d.puti (F.LOGn_INDEX_POS n) (256 * l)).inc (F.LOGn_INDEX_CNT n)
      let d := d.indexCheck n l
      d.put (F.LOGn_STAT_IDX_ERRS n) (min 15 (d.logch n).idxErrs)
    else d) s

/-! ### Speed (R41 to R43) -/

/-- WINDOW in ns: 50 to 100,000 µs (R41). -/
def Dev.spdWindow (d : Dev) (n : Nat) : Nat := min 100000 (max 50 (d.val (F.LOGn_SPD_CFG_WINDOW n)))

/-- SPEED_WINDOW_END (R41, R42): the sample of the window, its qualification and its validity. SPEED and EDGES are held
at their fields' limits (DESIGN CHOICE, log entry 122). -/
def execSpeedWindowEnd (n : Fin 32) (s : State) : Host.Outcome State Fault Refusal :=
  onDev (fun d =>
    if ! d.runs (F.LOGn_CFG_EN n) (F.LOGn_STAT_IDLE n) then d
    else
      let c := d.logch n
      let w := d.spdWindow n
      let d := d.reach (c.winStart + w * 1000)
      let qual := decide (max 1 (d.val (F.LOGn_SPD_CFG_MIN_EDGES n)) ≤ c.winEdges) && ! c.winRev
      let valid := qual && c.lastQual
      let stat := b2n valid + 2 * b2n c.winRev + 4 * b2n qual + 256 * min 0xFFFFFF c.winEdges
      let d := d.setLogch n { c with winEdges := 0, winNet := 0, winRev := false, winStart := c.winStart + w * 1000,
                                     lastQual := qual, spdStat := stat }
      let v := Int.tdiv (c.winNet * 1000000) w
      let d := d.putSat (F.LOGn_SPEED n) v
      let d := if d.on (F.LOGn_SPD_CFG_FILT n) then d.mark (F.FLTc_STAT_VALID (16 + n)) valid else d
      if d.isSource n then (d.putSat F.LOG_SPEED v).mark F.LOG_STAT_SPD_VALID valid else d) s

/-- A read of LOGn_SPEED latches LOGn_SPD_STAT of the same sample (R42). -/
def Dev.spdLatch (d : Dev) (n : Nat) : Dev :=
  let d := { d with rdata := d.reg (R.LOGn_SPEED n) }
  d.setReg (R.LOGn_SPD_STAT n) (BitVec.ofNat 32 (d.logch n).spdStat)

/-- SPEED_READ (R42). -/
def execSpeedRead (n : Fin 32) (s : State) : Host.Outcome State Fault Refusal := onDev (fun d => d.spdLatch n) s

/-- DRIFT_HIST_READ (R46): the read of HIST0 latches HIST1 to HIST7. -/
def Dev.histLatch (d : Dev) (n : Nat) : Dev :=
  let d := { d with rdata := d.reg (R.LOGn_DRIFT_HISTk n 0) }
  let h := (d.logch n).hist
  [1, 2, 3, 4, 5, 6, 7].foldl (fun d k => d.put (F.LOGn_DRIFT_HISTk n k) (histWord h k)) d

def execDriftHistRead (n : Fin 32) (s : State) : Host.Outcome State Fault Refusal :=
  onDev (fun d => d.histLatch n) s

/-- LOG_SCALE_WRITE (R14, R40): the written value stands and cancels a ramp; it applies from the next count. -/
def Dev.scaleWrite (d : Dev) (v : Word) : Dev :=
  let d := d.setReg R.LOG_SCALE v
  { d with log := { d.log with ramp := none } }.mark F.LOG_STAT_RAMP false

def execLogScaleWrite (v : Word) (s : State) : Host.Outcome State Fault Refusal :=
  onDev (fun d => d.scaleWrite v) s

/-- TICKS_BETWEEN_COUNTS (R34): the interpolated position of channel `n` at instant `t`. -/
def execTicksBetweenCounts (n : Fin 32) (t : Nat) (s : State) : Host.Outcome State Fault Refusal :=
  onDev (fun d => if d.chanRuns n 1 then (d.reach t).moveChan n else d) s

end Sys2Proof.Machine
end

