-- ==== Sys2Proof/Machine/Blocks.lean ====
section
/-! DEFINITION. Enable, drain and abort of the blocks that have no row of their own for them (R9). -/
namespace Sys2Proof.Machine

/-- The service port: a command that runs is its work in flight (R328). -/
def Dev.svcPortSettle (d : Dev) : Dev :=
  if d.svc.run.isSome ∨ ¬ d.drains F.SVC_CTRL_EN F.SVC_STAT_IDLE then d
  else (d.drained F.SVC_CTRL_EN F.SVC_STAT_IDLE).1
def Dev.svcPortEnable (d : Dev) (b : Bool) : Dev :=
  if b then (d.startIntake F.SVC_CTRL_EN F.SVC_STAT_IDLE).1 else (d.stopIntake F.SVC_CTRL_EN).svcPortSettle

/-- EN of a block cleared (R9). -/
def Dev.blockDisable (d : Dev) : Block → Dev
  | .logCh n => d.logDisable n
  | .strobe t => d.strobeDisable t
  | .filter c => d.fltDisable c
  | .lane l => d.laneDisable l
  | .svcChan c => d.svcDisable c
  | .engine e => d.cdcDisable e
  | .tap t => d.tapStop t
  | .netPort n => d.portStop n
  | .queue q => d.queDisable q
  | .head n => d.headDisable n
  | .svcPort => d.svcPortEnable false

/-- BLOCK_DISABLE (R9). -/
def execBlockDisable (b : Block) (s : State) : Host.Outcome State Fault Refusal := onDev (fun d => d.blockDisable b) s

/-- The work in flight of a block is complete (R9). Where a command of its own ends that work (an SSI frame, a
pulse, a line, a job, a queue read) the block has settled with it, and this finds it idle. -/
def Dev.blockDrained (d : Dev) : Block → Dev
  | .logCh n => d.logSettle n
  | .strobe t => d.strobeSettle t
  | .filter c => d.fltSettle c
  | .lane l => d.laneSettle l
  | .svcChan c => d.svcSettle c
  | .engine e => if d.on (F.CDC_En_CTRL_EN e) then d else d.cdcDisable e
  | .tap _ => d
  | .netPort n => d.portDrained n
  | .queue q => d.queShow q
  | .head n => d.headDrained n
  | .svcPort => d.svcPortSettle

/-- DRAIN_COMPLETE (R9). -/
def execDrainComplete (b : Block) (s : State) : Host.Outcome State Fault Refusal := onDev (fun d => d.blockDrained b) s

/-- ABORT of a block (R9). The service port has no ABORT bit (R328). DEDUCED, log entry 48. -/
def Work.blockAbort (w : Work) : Block → Work
  | .logCh n => w.on (fun d => d.logAbort n)
  | .strobe t => w.on (fun d => d.strobeAbort t)
  | .filter c => w.on (fun d => d.fltAbort c)
  | .lane l => w.on (fun d => d.laneAbort l)
  | .svcChan c => w.on (fun d => d.svcAbort c)
  | .engine e => w.cdcAbort e
  | .tap t => w.on (fun d => d.tapStop t)
  | .netPort n => w.on (fun d => d.portCut n)
  | .queue q => w.on (fun d => d.queAbort q)
  | .head n => w.on (fun d => d.headAbort n)
  | .svcPort => w

/-- ABORT (R9). -/
def execAbort (b : Block) (s : State) : Host.Outcome State Fault Refusal := onWork (fun w => w.blockAbort b) s

end Sys2Proof.Machine
end

