-- ==== Sys2Proof/Machine/Settle.lean ====
section
/-! DEFINITION. What clocks alone have brought about by the present instant: lines that have run out, characters, frames
and pulses that have left, and the drains that end with them (R9). -/
namespace Sys2Proof.Machine

/-- The command frame in progress has left by now. -/
def Dev.svcClock (d : Dev) (c : Nat) : Dev :=
  let d := d.svcNow c
  if (d.svch c).frame.isEmpty then d.svcSettle c else d

/-- The characters that wait on service channels leave at their boundaries (R53, R89, R91). -/
def Dev.svcsClock (d : Dev) : Dev :=
  ((d.slk.chan.filter (fun e => ! (e.2.quiet && e.2.idle))).map (·.1)).foldl (fun d c => d.svcClock c) d

/-- A draining trigger stream is idle once its last trigger has been sent in full (R51). -/
def Dev.trgsClock (d : Dev) : Dev :=
  ((d.trg.stream.filter (fun e => ! e.2.trigs.isEmpty)).map (·.1)).foldl
    (fun d s => if d.drains (F.TRGs_CFG_EN s) (F.TRGs_STAT_IDLE s) then d.trgSettle s else d) d

/-- A statistics record that its queue has taken has left its buffer (R109). -/
def Dev.recsClock (d : Dev) : Dev :=
  ((d.pl.ctx.filter (fun e => e.2.offered)).map (·.1)).foldl (fun d i => d.recSettle (i / 4) (i % 4)) d

/-- FIRE pulses begin (R191). -/
def Dev.pulsesClock (d : Dev) : Dev :=
  ((d.mrk.head.filter (fun e => e.2.pulse.isSome)).map (·.1)).foldl (fun d n => d.firePulse n) d

/-- Frames leave the wire (R215). -/
def Dev.wiresClock (d : Dev) : Dev := (d.net.port.map (·.1)).foldl (fun d n => d.wireSettle n) d

/-- Every block. -/
def Dev.settle (d : Dev) : Dev :=
  d.tickUnit.frontsDone.svcsClock.trgsClock.recsClock.pulsesClock.wiresClock

/-- The block whose register lies at `a`. -/
def Dev.settleAt (d : Dev) (a : Nat) : Dev :=
  match a / 0x10000 with
  | 0x400C => d.trgsClock
  | 0x400E => d.pulsesClock
  | 0x4010 => d.wiresClock
  | 0x4012 => d.frontsDone.svcsClock
  | w => if 0x4020 ≤ w ∧ w ≤ 0x4030 then (d.frontDone (w - 0x4020)).recsClock else d

end Sys2Proof.Machine
end

