-- ==== Sys2Proof/Machine/Access.lean ====
section
/-! DEFINITION. How a register takes a write and gives a read: field types, the write rule of R23, lock rules, the
64-bit protocol and the reads with an effect (R2 to R5, R8, R23). -/
namespace Sys2Proof.Machine

/-- The bits of `x` outside `m`. -/
def andNot (x m : Nat) : Nat := x ^^^ (x &&& m)

/-- `old` with the bits of `m` taken from `v`. -/
def mix (old v m : Nat) : Nat := andNot old m ||| (v &&& m)

/-- The present word of a register, as a number. -/
def Dev.word (d : Dev) (a : Nat) : Nat := (d.reg a).toNat

/-- The write rule of R23 on the ruled bits of a register: taken in LOAD and SERVICE, where a change in SERVICE sets
UNCHECKED; refused in any other mode. A register with other fields beside them is judged by what would change.
The answer is the value with refused bits put back. DEDUCED, log entry 40. DEDUCED, log entry 41. -/
def Dev.ruledGate (d : Dev) (a ruled rw v : Nat) : Dev × Nat :=
  let old := d.word a
  let differs := (old &&& ruled) != (v &&& ruled)
  if ruled = 0 then (d, v)
  else if d.mode = 2 then (d, v)
  else if d.mode = 5 then (if differs then d.mark F.CFG_STAT_UNCHECKED true else d, v)
  else if differs ∨ ruled = rw then (d.accessErr a, mix v old ruled)
  else (d, v)

/-- A write of `v` to register `a` under its fields' types (R2, R3, R5): RW and WO bits take it, W1C bits clear where
it has a 1. The bits of `apart` are left for their own rule, and W1S bits start what they start there. -/
def Dev.plain (d : Dev) (a v apart : Nat) : Dev :=
  match rowAt a with
  | none => d
  | some r =>
    let rw := halfAt r a r.rw
    let g := d.ruledGate a (halfAt r a r.ruled) rw v
    let take := andNot (rw ||| halfAt r a r.wo) apart
    let w1c := halfAt r a r.w1c
    let d := g.1.setReg a (BitVec.ofNat 32 (andNot (mix (g.1.word a) g.2 take) (v &&& w1c)))
    if w1c = 0 then d else d.arbitrateAll

/-- Fields that take writes only while their block is free: a write that would change one at any other time leaves
them and sets the access error (R93, R96, R193, R210, R220, R244). -/
def Dev.locked (d : Dev) (a v mask : Nat) (free : Bool) : Dev × Nat :=
  let old := d.word a
  if free ∨ (old &&& mask) = (v &&& mask) then (d, v) else (d.accessErr a, mix v old mask)

/-- A register that is such a field whole. -/
def Dev.lockedReg (d : Dev) (a v : Nat) (free : Bool) : Dev := if free then d.plain a v 0 else d.accessErr a

/-- An EN bit written: the block starts or stops where it changes (R9). -/
def Dev.enWrite (d : Dev) (en : Fld) (v : Nat) (start stop : Dev → Dev) : Dev :=
  if bitOf v en.lo then (if d.on en then d else start d) else if d.on en then stop d else d

/-- A 64-bit value committed under its register's types (R4, R23). -/
def Dev.commit64 (d : Dev) (lo : Nat) (v : BitVec 64) : Dev :=
  match rowAt lo with
  | none => d
  | some r =>
    let l := (v.extractLsb' 0 32).toNat
    let h := (v.extractLsb' 32 32).toNat
    let gl := d.ruledGate lo (r.ruled % 2 ^ 32) (r.rw % 2 ^ 32) l
    let gh := gl.1.ruledGate (lo + 4) (r.ruled / 2 ^ 32) (r.rw / 2 ^ 32) h
    let m := r.rw ||| r.wo
    let d := gh.1.setReg lo (BitVec.ofNat 32 (mix (gh.1.word lo) gl.2 (m % 2 ^ 32)))
    d.setReg (lo + 4) (BitVec.ofNat 32 (mix (d.word (lo + 4)) gh.2 (m / 2 ^ 32)))

/-- SHADOW_PEND of the block that owns a shadow register (R8). -/
def Dev.shadowPend (d : Dev) (a : Nat) : Dev :=
  match a / 0x10000 with
  | 0x4012 => d.mark (F.SLK_Ss_STAT_SHADOW_PEND ((a - R.SLK_Ss_LINE_SH 0) / 0x80)) true
  | 0x4013 => d.mark (F.STC_CAMs_STAT_SHADOW_PEND ((a - R.STC_CAMs_CFG 0) / 0x80)) true
  | 0x4014 => d.mark (F.SEG_Ss_STAT_SHADOW_PEND ((a - R.SEG_Ss_DARK_SH 0) / 0x80)) true
  | 0x400E => d.mark (F.MRKn_STAT_SHADOW_PEND ((a - R.MRKn_CFG 0) / 0x100)) true
  | 0x400D => d.mark (F.FLTc_STAT_SHADOW_PEND ((a - R.FLTc_CTRL 0) / 0x40)) true
  | 0x400A => d.mark F.DRC_STAT_SHADOW_PEND true
  | w =>
    let n := w - 0x4020
    let o := a % 0x10000
    if o < 0x400 then
      let m := (o - 0x100) / 0x80
      (d.setCtx n m { d.ctx n m with pendTile := true }).ctxPend n m
    else
      let m := (o - 0x400) / 0x100
      (d.setCtx n m { d.ctx n m with pendLine := true }).ctxPend n m

/-- A shadow register. -/
def isShadow (h : Hand) : Bool := h != .none && h != .act

/-- A write to a shadow (R8): it enters the shadow, and SHADOW_PEND is set. -/
def Dev.shadowWrite (d : Dev) (a v : Nat) : Dev := (d.plain a v 0).shadowPend a

/-! ### Reads -/

/-- UTPs that no owner drives show the level outside, which no command brings: free (R364; DESIGN CHOICE, log entry 5). -/
def Dev.utpInputs (d : Dev) (w : Nat) : Dev :=
  let f := d.draw
  (List.range 32).foldl (fun (d : Dev) b =>
    let u := 32 * w + b
    if d.bankPresent u && (d.utpLevel u).isNone then d.put ⟨R.SYS_UTP_INw w, b, 1⟩ (b2n (f.1.getLsbD b)) else d) f.2

/-- What a register shows is brought to the present instant before it is read. -/
def Dev.readPrep (d : Dev) (a : Nat) : Dev :=
  match a / 0x10000 with
  | 0x400B =>
    if a = R.LOG_POS ∨ a = R.LOG_HWM ∨ a = R.LOG_LENGTH then d.tickUnit
    else
      match instOf a (R.LOGn_POS 0) 0x100 32 with
      | some n => d.moveChan n
      | none => d
  | 0x4006 =>
    match instOf a (R.ICU_SRCi_STAT 0) 0x10 384 with
    | some i => d.mark (F.ICU_SRCi_STAT_REQ i) (d.srcReq i)
    | none => d
  | 0x400A => d.urgShow
  | 0x4001 => if a = R.ALM_SEC then (d.put F.ALM_SEC d.alm.sec).put F.ALM_SUB d.alm.sub else d
  | 0x4014 => if a = R.SEG_TREE_DATA then d.put F.SEG_TREE_DATA d.treeNode else d
  | 0x4000 =>
    match instOf a (R.SYS_UTP_INw 0) 4 8 with
    | some w => d.utpInputs w
    | none => d
  | _ => d.settleAt a

/-- A read that opens, pops, latches or advances something (R42, R46, R131, R156, R251). -/
def Dev.readActs (d : Dev) (a : Nat) : Option Dev :=
  match a / 0x10000 with
  | 0x400B =>
    ((instOf a (R.LOGn_SPEED 0) 0x100 32).map (fun n => d.spdLatch n)).or
      ((instOf a (R.LOGn_DRIFT_HISTk 0 0) 0x100 32).map (fun n => d.histLatch n))
  | 0x4009 =>
    ((instOf a (R.QUE_Qq_POP_HDR 0) 0x20 64).map (fun q => d.fwPopHdr q false)).or
      ((instOf a (R.QUE_Qq_POP_DATA 0) 0x20 64).map (fun q => d.fwPopData q false))
  | 0x4013 => if a = R.STC_TBL_DATA then some (d.stcTblAccess none) else none
  | w =>
    if 0x4020 ≤ w ∧ w ≤ 0x4030 then
      (instOf a (R.PLn_CTXm_TBL_DATA (w - 0x4020) 0) 0x100 4).map (fun m => d.tblAccess (w - 0x4020) m none)
    else none

/-- An aligned 32-bit read of the peripheral windows (R2 to R4). -/
def Dev.readReg (d : Dev) (a : Nat) : Dev :=
  match rowAt a with
  | none => { d with rdata := 0 }
  | some r =>
    if r.pair && isUpper r.insts (a - r.base) then { d with rdata := tabGet 0 d.hi (a - 4) }
    else
      match d.readActs a with
      | some d => d
      | none =>
        let d := d.readPrep a
        let show' (x : Nat) (m : Nat) : Word := BitVec.ofNat 32 (andNot x m)
        let d := { d with rdata := show' (d.word a) (r.wo % 2 ^ 32) }
        if r.pair then { d with hi := tabSet 0 d.hi a (show' (d.word (a + 4)) (r.wo / 2 ^ 32)) } else d

/-- A read through the memory map (R2). Other accesses to a peripheral window return 0 and set the access error. -/
def Work.busRead (w : Work) (a size : Nat) : Work :=
  match w.dev.place a with
  | .peri =>
    if size = 4 ∧ a % 4 = 0 then w.on (fun d => d.readReg a)
    else w.on (fun d => { d.accessErr a with rdata := 0 })
  | _ =>
    let r := w.load a size
    r.1.on (fun d => { d with rdata := BitVec.ofNat 32 (natLE r.2), rdataHi := BitVec.ofNat 32 (natLE r.2 / 2 ^ 32) })

end Sys2Proof.Machine
end

