-- ==== Sys2Proof/Machine/Bus.lean ====
section
/-! DEFINITION. Register writes: window by window the registers whose write does more than store, then the 64-bit
protocol, the memory map, and the commands that write and read registers (R2 to R8, R23). -/
namespace Sys2Proof.Machine

/-- What a window does with a write: `none` leaves it to the field types alone. -/
abbrev Handled := Option Dev

/-- A write carried out on the instance an address names, if it is one of `n` from `base`. -/
def onInst (a base stride n : Nat) (f : Nat → Dev) : Handled := (instOf a base stride n).map f

/-! ### Position, triggers, lamps -/

/-- A compare unit's CTRL written: a REGULAR unit owes its hits at once, a change of mode drops what a ONCE unit owed
(R44, R45). -/
def Dev.cmpCtrl (d : Dev) (n m v : Nat) : Dev :=
  let was := d.val (F.LOGn_CMPm_CTRL_MODE n m)
  let d := d.plain (R.LOGn_CMPm_CTRL n m) v 0
  let mode := d.val (F.LOGn_CMPm_CTRL_MODE n m)
  if mode = 3 then d.cmpNow n m
  else if was = mode then d
  else d.put (F.LOGn_CMPm_CTRL_BACKLOG n m) 0

/-- VAL or PITCH of a unit written: its heads, and what it owes now (R45, R186). -/
def Dev.cmpMoved (d : Dev) (n m : Nat) : Dev :=
  let d := d.geomWrite n m
  if d.val (F.LOGn_CMPm_CTRL_MODE n m) = 3 then d.cmpNow n m else d

/-- LOGn_CFG and LOGn_SPD_CFG written (R9, R29, R43, R68). -/
def Dev.logCfg (d : Dev) (n v : Nat) : Dev :=
  let d := d.plain (R.LOGn_CFG n) v 1
  if bitOf v 1 then d.logAbort n
  else d.enWrite (F.LOGn_CFG_EN n) v (fun d => d.logEnable n) (fun d => d.logDisable n)
def Dev.spdCfg (d : Dev) (n v : Nat) : Dev :=
  let d := d.plain (R.LOGn_SPD_CFG n) v 0xE0000
  let d := d.presetWrite (16 + n) (v / 2 ^ 18 % 4)
  d.enWrite (F.LOGn_SPD_CFG_FILT n) v (fun d => d.fltEnable (16 + n)) (fun d => d.fltDisable (16 + n))

/-- LOG_CTRL written: another source is the unit's from then on (R28, R37). -/
def Dev.logCtrl (d : Dev) (v : Nat) : Dev :=
  let src := (d.posSrc, d.val F.LOG_CTRL_SRC_CHAN)
  let d := d.plain R.LOG_CTRL v 0
  if (d.posSrc, d.val F.LOG_CTRL_SRC_CHAN) = src then d else d.newSource

def Dev.wrLog (d : Dev) (a v : Nat) : Handled :=
  if a = R.LOG_SCALE then some (d.scaleWrite (BitVec.ofNat 32 v))
  else if a = R.LOG_CTRL then some (d.logCtrl v)
  else
    let o := (a - R.LOGn_CFG 0) % 0x100
    let n := (a - R.LOGn_CFG 0) / 0x100
    if a < R.LOGn_CFG 0 ∨ 32 ≤ n then none
    else if o = 0 then some (d.logCfg n v)
    else if o = 0x48 then some (d.spdCfg n v)
    else if 0x80 ≤ o then
      let m := (o - 0x80) / 0x20
      if (o - 0x80) % 0x20 = 0 then some (d.cmpCtrl n m v)
      else if (o - 0x80) % 0x20 = 0x0C then some ((d.plain a v 0).cmpMoved n m)
      else none
    else none

/-- A stream's EN = 1 (R51, R291): refused with inspection off; during LOAD triggering begins with INSPECT. -/
def Dev.trgEnWrite (d : Dev) (s : Nat) : Dev :=
  if d.heldOff then d.accessErr (R.TRGs_CFG s)
  else if d.mode = 2 then d.mark (F.TRGs_CFG_EN s) true
  else d.trgEnable s

/-- TRGs_CFG written; its pins follow (R51, R54). -/
def Dev.trgCfg (d : Dev) (s v : Nat) : Dev :=
  let u := d.val (F.TRGs_CFG_UTP s)
  let d := d.plain (R.TRGs_CFG s) v 1
  let d := if bitOf v 1 then d.trgAbort s
    else d.enWrite (F.TRGs_CFG_EN s) v (fun d => d.trgEnWrite s) (fun d => d.trgDisable s)
  (d.utpRefresh u).utpRefresh (d.val (F.TRGs_CFG_UTP s))

/-- STBt_CFG written; POL drives the ball at once (R57). -/
def Dev.stbCfg (d : Dev) (t v : Nat) : Dev :=
  let pol := d.on (F.STBt_CFG_POL t)
  let d := d.plain (R.STBt_CFG t) v 1
  let d := if d.on (F.STBt_CFG_POL t) = pol then d else d.strobeBall t d.now (d.on (F.STBt_STAT_ON t))
  if bitOf v 1 then d.strobeAbort t
  else d.enWrite (F.STBt_CFG_EN t) v (fun d => d.strobeEnable t) (fun d => d.strobeDisable t)

def Dev.wrTrg (d : Dev) (a v : Nat) : Handled :=
  let free (s : Nat) : Bool := ! d.on (F.TRGs_CFG_EN s) && d.on (F.TRGs_STAT_IDLE s)
  (((onInst a (R.TRGs_CFG 0) 0x40 64 (fun s => d.trgCfg s v)).or
    (onInst a (R.TRGs_PITCH 0) 0x40 64 (fun s => d.lockedReg a v (free s)))).or
    (onInst a (R.TRGs_LEAD 0) 0x40 64 (fun s => d.lockedReg a v (free s)))).or
    (onInst a (R.STBt_CFG 0) 0x20 96 (fun t => d.stbCfg t v))

/-- FLTc_CTRL written: EN and PRESET are a lamp channel's alone (R66 to R68, R72). -/
def Dev.fltCtrl (d : Dev) (c v : Nat) : Dev :=
  let d := d.plain (R.FLTc_CTRL c) v (if c < 16 then 0xD else 0)
  let d := if c < 16 then d.presetWrite c (v / 4 % 4) else d
  let d := if bitOf v 5 then d.fltSwitch c else d
  if bitOf v 1 then d.fltAbort c
  else if c < 16 then d.enWrite (F.FLTc_CTRL_EN c) v (fun d => d.fltEnable c) (fun d => d.fltDisable c)
  else d

def Dev.wrFlt (d : Dev) (a v : Nat) : Handled :=
  (onInst a (R.FLTc_CTRL 0) 0x40 48 (fun c => d.fltCtrl c v)).or
    (onInst a (R.FLTc_COEF_DATA 0) 0x40 48 (fun c => d.coefWrite c (BitVec.ofNat 32 v)))

/-! ### Links, contexts, correction -/

/-- SLK_Ll_CTRL written (R76, R94). -/
def Dev.laneCtrl (d : Dev) (l v : Nat) : Dev :=
  let d := d.plain (R.SLK_Ll_CTRL l) v 1
  if bitOf v 1 then d.laneAbort l
  else d.enWrite (F.SLK_Ll_CTRL_EN l) v (fun d => d.laneEnable l) (fun d => d.laneDisable l)

/-- SLK_CPp_CFG written: MODE, AUTO_ORDER, ID_CHECK and PORT_ID only while the port is stopped (R93). The streams of
another mode are deskewed afresh (R77, R92). -/
def Dev.portCfg (d : Dev) (p v : Nat) : Dev :=
  let a := R.SLK_CPp_CFG p
  let g := d.locked a v 0xFF3C (! d.on (F.SLK_CPp_CFG_EN p) && d.on (F.SLK_CPp_STAT_IDLE p))
  let mode := d.portMode p
  let d := g.1.plain a g.2 1
  let d := if d.portMode p = mode then d
    else [0, 1, 2, 3].foldl (fun d v => d.setLstr (4 * p + v) { d.lstr (4 * p + v) with deskewed := false, skim := none }) d
  let d := d.linkRefresh p
  if bitOf v 1 then d.portAbort p
  else d.enWrite (F.SLK_CPp_CFG_EN p) v (fun d => d.portEnable p) (fun d => d.portDisable p)

/-- SLK_CSc_CTRL written (R91). -/
def Dev.svcChanCtrl (d : Dev) (c v : Nat) : Dev :=
  let d := d.plain (R.SLK_CSc_CTRL c) v 1
  if bitOf v 1 then d.svcAbort c
  else
    let d := d.enWrite (F.SLK_CSc_CTRL_EN c) v (fun d => d.svcEnable c) (fun d => d.svcDisable c)
    if bitOf v 2 then d.svcGo c else d

def Dev.wrSlk (d : Dev) (a v : Nat) : Handled :=
  ((onInst a (R.SLK_Ll_CTRL 0) 0x40 64 (fun l => d.laneCtrl l v)).or
    (onInst a (R.SLK_CPp_CFG 0) 0x40 16 (fun p => d.portCfg p v))).or
    (onInst a (R.SLK_CSc_CTRL 0) 0x40 16 (fun c => d.svcChanCtrl c v))

/-- PLn_CTXm_CFG written: STREAM only while the context is stopped (R96). -/
def Dev.ctxCfg (d : Dev) (n m v : Nat) : Dev :=
  let a := R.PLn_CTXm_CFG n m
  let g := d.locked a v 0xFC (d.ctxStopped n m)
  let d := g.1.plain a g.2 1
  if bitOf v 1 then d.ctxAbort n m
  else d.enWrite (F.PLn_CTXm_CFG_EN n m) v (fun d => d.ctxEnable n m) (fun d => d.ctxDisable n m)

/-- PLn_CTXm_PIN written: the pin it had and the pin it has follow (R103). -/
def Dev.pinCfg (d : Dev) (n m v : Nat) : Dev :=
  let u := d.val (F.PLn_CTXm_PIN_UTP n m)
  let d := d.plain (R.PLn_CTXm_PIN n m) v 0
  (d.utpRefresh u).utpRefresh (d.val (F.PLn_CTXm_PIN_UTP n m))

/-- TEMP_DEF written: it is θ until a valid reading comes (R119). -/
def Dev.tempDef (d : Dev) (n m v : Nat) : Dev :=
  let d := d.plain (R.PLn_CTXm_TEMP_DEF n m) v 0
  if (d.ctx n m).tempSeen then d else d.puti (F.PLn_CTXm_CAL_STAT_TEMP_F n m) (d.theta n m)

/-- CAL_CMD written: SET, and with COMMIT a ramp of that set; a COMMIT of a SET that is ignored leaves SET (R121). -/
def Dev.calCmd (d : Dev) (n m v : Nat) : Dev :=
  if bitOf v 0 then d.commit n m (v / 16 % 16) else d.plain (R.PLn_CTXm_CAL_CMD n m) v 0

/-- The registers of pipeline `n` at offset `o` of its window: CAL_CFG, MOSAIC_CFG, MOSAIC_ENTk, PLANE_OFSp, TEMP_PTk
and DPM_COUNT only while the context is stopped (R96, R131). -/
def Dev.wrPl (d : Dev) (a v : Nat) : Handled :=
  let n := a / 0x10000 - 0x4020
  let o := a % 0x10000
  if 0x400 ≤ o ∧ o < 0x800 then
    let m := (o - 0x400) / 0x100
    let r := (o - 0x400) % 0x100
    if r = 0x08 ∨ r = 0x0C ∨ (0x10 ≤ r ∧ r < 0x30) ∨ (0x40 ≤ r ∧ r < 0x50) ∨ r = 0x98 then
      some (d.lockedReg a v (d.ctxStopped n m))
    else if r = 0x38 then some (d.blkWrite n m (BitVec.ofNat 32 v))
    else if r = 0x50 then some (d.tempDef n m v)
    else if r = 0x58 then some (d.calCmd n m v)
    else if r = 0x64 then some (d.tblAccess n m (some (BitVec.ofNat 32 v)))
    else none
  else if 0x100 ≤ o ∧ o < 0x300 then
    let m := (o - 0x100) / 0x80
    let r := (o - 0x100) % 0x80
    if r = 0 then some (d.ctxCfg n m v)
    else if r = 0x0C then some ((d.plain a v 0).ctxShow n m)
    else if r = 0x10 then some (d.pinCfg n m v)
    else none
  else none

/-! ### Chart, segmentation, marking -/

/-- STC_CAMs_CFG written (R23, R156, R157). -/
def Dev.camCfg (d : Dev) (s v : Nat) : Dev :=
  let d := d.plain (R.STC_CAMs_CFG s) v 0
  if bitOf v 2 then d.resSwap s else d

def Dev.wrStc (d : Dev) (a v : Nat) : Handled :=
  if a = R.STC_TBL_DATA then some (d.stcTblAccess (some (BitVec.ofNat 32 v)))
  else
    ((onInst a (R.STC_CAMs_CFG 0) 0x80 64 (fun s => d.camCfg s v)).or
      (onInst a (R.STC_CAMs_OVL_ACROSS 0) 0x80 64 (fun s => d.ovlWrite s false (BitVec.ofNat 32 v)))).or
      (onInst a (R.STC_CAMs_OVL_ALONG 0) 0x80 64 (fun s => d.ovlWrite s true (BitVec.ofNat 32 v)))

/-- EN = 1 of segmentation, under the rule of R291. -/
def Dev.segEnWrite (d : Dev) : Dev :=
  if d.heldOff then d.accessErr R.SEG_CTRL
  else if d.mode = 2 then d.mark F.SEG_CTRL_EN true
  else d.segEnable

def Dev.segCtrl (d : Dev) (v : Nat) : Dev :=
  let d := if bitOf v 2 then d.treeSwap else d
  if bitOf v 1 then d.segAbort else d.enWrite F.SEG_CTRL_EN v (fun d => d.segEnWrite) (fun d => d.segDisable)

def Dev.wrSeg (d : Dev) (a v : Nat) : Handled :=
  if a = R.SEG_CTRL then some (d.segCtrl v)
  else if a = R.SEG_MIG_CTRL then some (d.migWrite (BitVec.ofNat 32 v))
  else none

/-- MRKn_CFG written: NOZZLES, CLKDIV, QUEUE, CMP_CH and CMP_UNIT only while the head is stopped (R193). -/
def Dev.mrkCfg (d : Dev) (n v : Nat) : Dev :=
  let a := R.MRKn_CFG n
  let g := d.locked a v 0x7FFFFFFC (! d.on (F.MRKn_CFG_EN n) && d.on (F.MRKn_STAT_IDLE n))
  let d := g.1.plain a g.2 1
  if bitOf v 1 then d.headAbort n
  else d.enWrite (F.MRKn_CFG_EN n) v (fun d => d.headEnable n) (fun d => d.headDisable n)

def Dev.wrMrk (d : Dev) (a v : Nat) : Handled := onInst a (R.MRKn_CFG 0) 0x100 16 (fun n => d.mrkCfg n v)

/-! ### Codec, network, time -/

/-- A DONE flag cleared forgets that a descriptor with IOC set it (R266). -/
def Dev.cdcFlags (d : Dev) (e v : Nat) : Dev :=
  let d := if bitOf v 0 then d.setEng e { d.eng e with doneIoc := false } else d
  d.plain (R.CDC_En_FLAG e) v 0

/-- CDC_En_CTRL written. FLUSH falls in a row that no command names here: a free one of the job (R205, R208, R209;
log entry 5). -/
def Work.cdcCtrl (w : Work) (e v : Nat) : Work :=
  let w := w.on (fun d => d.plain (R.CDC_En_CTRL e) v 1)
  if bitOf v 1 then w.cdcAbort e
  else
    let w := w.on (fun d => d.enWrite (F.CDC_En_CTRL_EN e) v
      (fun d => (d.startIntake (F.CDC_En_CTRL_EN e) (F.CDC_En_STAT_IDLE e)).1) (fun d => d.cdcDisable e))
    let w := if bitOf v 3 then w.on (fun d => let f := d.flushRow e; f.2.cdcFlush e f.1) else w
    if bitOf v 2 then w.cdcStart e else w

/-- CDC_TAPt_CFG written: DA and DC only while the tap is stopped (R210, R211). -/
def Dev.tapFree (d : Dev) (t : Nat) : Bool := ! d.on (F.CDC_TAPt_CFG_EN t) && d.on (F.CDC_TAPt_STAT_IDLE t)
def Dev.tapCfg (d : Dev) (t v : Nat) : Dev :=
  let a := R.CDC_TAPt_CFG t
  let g := d.locked a v 0x3C (d.tapFree t)
  let d := g.1.plain a g.2 1
  if bitOf v 1 then d.tapStop t
  else d.enWrite (F.CDC_TAPt_CFG_EN t) v (fun d => d.tapEnable t) (fun d => d.tapStop t)

def Dev.wrCdc (d : Dev) (a v : Nat) : Handled :=
  ((((onInst a (R.CDC_En_FLAG 0) 0x40 4 (fun e => d.cdcFlags e v)).or
    (onInst a (R.CDC_TAPt_CFG 0) 0x40 8 (fun t => d.tapCfg t v))).or
    (onInst a (R.CDC_TAPt_XS 0) 0x40 8 (fun t => d.lockedReg a v (d.tapFree t)))).or
    (onInst a (R.CDC_TAPt_XE 0) 0x40 8 (fun t => d.lockedReg a v (d.tapFree t)))).or
    (onInst a (R.CDC_TAPt_RING 0) 0x40 8 (fun t => d.lockedReg a v (d.tapFree t)))

/-- NETn_CFG written (R215). -/
def Dev.netCfg (d : Dev) (n v : Nat) : Dev :=
  let d := (d.plain (R.NETn_CFG n) v 1).fecWrite n (d.on (F.NETn_CFG_FEC n))
  if bitOf v 1 then d.portCut n
  else d.enWrite (F.NETn_CFG_EN n) v (fun d => (d.startIntake (F.NETn_CFG_EN n) (F.NETn_STAT_IDLE n)).1) (fun d => d.portStop n)

/-- NET_Ff_CFG written: PORT, TYPE, QUEUE, LAUNCH and IPV6 only while the flow is stopped (R220). -/
def Dev.flowCfg (d : Dev) (f v : Nat) : Dev :=
  let a := R.NET_Ff_CFG f
  let g := d.locked a v 0xFCCFC (! d.on (F.NET_Ff_CFG_EN f) && d.on (F.NET_Ff_STAT_IDLE f))
  let d := g.1.plain a g.2 1
  if bitOf v 1 then d.flowAbort f
  else d.enWrite (F.NET_Ff_CFG_EN f) v (fun d => d.flowEnable f) (fun d => d.flowDisable f)

def Dev.wrNet (d : Dev) (a v : Nat) : Handled :=
  (onInst a (R.NETn_CFG 0) 0x80 8 (fun n => d.netCfg n v)).or (onInst a (R.NET_Ff_CFG 0) 0x80 32 (fun f => d.flowCfg f v))

/-- MER_CTRL and MER_Dd_CFG written (R226 to R228, R232). Every write names the source in effect. -/
def Dev.merCtrl (d : Dev) (v : Nat) : Dev :=
  ((d.plain R.MER_CTRL v 0xB).chainEnable (bitOf v 3)).selWrite (v % 4)
def Dev.domCfg (d : Dev) (i v : Nat) : Dev :=
  let d := d.plain (R.MER_Dd_CFG i) v 1
  d.enWrite (F.MER_Dd_CFG_EN i) v (fun d => d.domEnable i true) (fun d => d.domEnable i false)

def Dev.wrMer (d : Dev) (a v : Nat) : Handled :=
  if a = R.MER_CTRL then some (d.merCtrl v) else onInst a (R.MER_Dd_CFG 0) 0x80 2 (fun i => d.domCfg i v)

/-! ### DRAM, queues, DMA -/

def Dev.wrDrc (d : Dev) (a v : Nat) : Handled :=
  if a = R.DRC_FREQ then
    let d := d.plain R.DRC_FREQ v 0
    some (if bitOf v 2 then d.freqStart (v % 4) else d)
  else none

/-- QUE_Qq_CFG written: CUT only while the queue is stopped (R244, R248 to R250). -/
def Dev.queCfg (d : Dev) (q v : Nat) : Dev :=
  let a := R.QUE_Qq_CFG q
  let u := d.val (F.QUE_Qq_CFG_UTP q)
  let g := d.locked a v 8 (! d.on (F.QUE_Qq_CFG_EN q) && d.on (F.QUE_Qq_STAT_IDLE q))
  let d := g.1.plain a g.2 1
  let d := if bitOf v 2 then d.queFlush q else d
  let d := if bitOf v 1 then d.queAbort q
    else d.enWrite (F.QUE_Qq_CFG_EN q) v (fun d => d.queEnable q) (fun d => d.queDisable q)
  (d.utpRefresh u).utpRefresh (d.val (F.QUE_Qq_CFG_UTP q))

def Dev.wrQue (d : Dev) (writer a v : Nat) : Handled :=
  let free (q : Nat) : Bool := ! d.on (F.QUE_Qq_CFG_EN q) && d.on (F.QUE_Qq_STAT_IDLE q)
  (((((onInst a (R.QUE_Qq_CFG 0) 0x40 64 (fun q => d.queCfg q v)).or
    (onInst a (R.QUE_Qq_BASE 0) 0x40 64 (fun q => d.lockedReg a v (free q)))).or
    (onInst a (R.QUE_Qq_SIZE 0) 0x40 64 (fun q => (d.lockedReg a v (free q)).queShow q))).or
    (onInst a (R.QUE_Qq_HI 0) 0x40 64 (fun q => (d.plain a v 0).queShow q))).or
    (onInst a (R.QUE_Qq_LO 0) 0x40 64 (fun q => (d.plain a v 0).queShow q))).or
    (onInst a (R.QUE_Qq_PUSH_HDR 0) 0x20 64 (fun q => d.fwHdr q writer (BitVec.ofNat 32 v)))

/-- DMA_Cc_FLAG and DMA_Cc_CFG written (R253, R257, R266). -/
def Dev.dmaFlags (d : Dev) (c v : Nat) : Dev :=
  let d := if bitOf v 0 then d.setDmac c { d.dmac c with doneIoc := false } else d
  d.plain (R.DMA_Cc_FLAG c) v 0
def Work.dmaCfg (w : Work) (c v : Nat) : Work :=
  let w := w.on (fun d => d.plain (R.DMA_Cc_CFG c) v 1)
  let w := w.on (fun d => d.enWrite (F.DMA_Cc_CFG_EN c) v (fun d => d.mark (F.DMA_Cc_CFG_EN c) true) (fun d => d.dmaDisable c))
  if bitOf v 1 then w.dmaStart c else w

/-! ### Cores, interrupts, events -/

/-- A set member bit that a wider MASK lets through is a rise of the source (R266, R268). -/
def Dev.maskWrite (d : Dev) (i v : Nat) : Dev :=
  let old := d.val (F.ICU_SRCi_MASK i)
  let d := d.plain (R.ICU_SRCi_MASK i) v 0
  let set (b : Nat) : Bool := (members i).any (fun m =>
    if m.2 then decide (16 ≤ b) && (d.memberBits i m.1).testBit (b - 16) else (d.memberBits i m.1).testBit b)
  (List.range 32).foldl (fun (d : Dev) b => if v.testBit b && ! old.testBit b && set b then d.memberRise i b else d) d

/-- ICU_HLMh_CTRL written: the sparing fields of H4, RUN, RESET (R264, R265). A core that the same write stops has not
run since its reset. DEDUCED, log entry 46. -/
def Dev.coreCtrl (d : Dev) (h v : Nat) : Dev :=
  let d := if h = 4 ∧ (v / 4 % 8 ≠ d.word (R.ICU_HLMh_CTRL 4) / 4 % 8) then d.spareWrite (bitOf v 2) (v / 8 % 4) else d
  let d := if d.on (F.ICU_HLMh_CTRL_RUN h) = bitOf v 0 then d else d.runWrite h (bitOf v 0)
  if bitOf v 1 then d.coreReset h else d

def Dev.wrIcu (d : Dev) (a v : Nat) : Handled :=
  if a = R.ICU_SWI_SET then
    some (((List.range 7).foldl (fun (d : Dev) j => if bitOf v j then d.swiSet j else d) d).arbitrateAll)
  else
    (((onInst a (R.ICU_HLMh_CTRL 0) 0x20 5 (fun h => d.coreCtrl h v)).or
      (onInst a (R.ICU_HLMh_WDOG 0) 0x20 5 (fun h => d.coreWdog h v))).or
      (onInst a (R.ICU_SRCi_CFG 0) 0x10 384 (fun _ => (d.plain a v 0).arbitrateAll))).or
      (onInst a (R.ICU_SRCi_MASK 0) 0x10 384 (fun i => (d.maskWrite i v).arbitrateAll))

/-- EVT_CHk_CFG written (R276): a set EN clears the channel's storm bit. -/
def Dev.evtCfg (d : Dev) (k v : Nat) : Dev :=
  let d := d.plain (R.EVT_CHk_CFG k) v 0
  if bitOf v 0 then d.evtEnable k else d

def Dev.wrEvt (d : Dev) (writer a v : Nat) : Handled :=
  if a = R.EVT_FIRE then some (d.publish (v % 256) writer)
  else onInst a (R.EVT_CHk_CFG 0) 0x10 256 (fun k => d.evtCfg k v)

/-! ### System, power, configuration, maintenance -/

def Dev.wrSys (d : Dev) (a v : Nat) : Handled :=
  if a = R.SYS_WDOG then some (d.sysWdog v)
  else
    (onInst a (R.SYS_UTPu_CFG 0) 4 256 (fun u => (d.plain a v 0).utpRefresh u)).or
      (onInst a (R.SYS_UTP_OUTw 0) 4 8 (fun w =>
        (List.range 32).foldl (fun (d : Dev) b => d.utpRefresh (32 * w + b)) (d.plain a v 0)))

/-- CFG_CTRL written: RELOAD begins in SERVICE (R290, R291) and does nothing elsewhere. DEDUCED, log entry 45. -/
def Dev.cfgCtrl (d : Dev) (v : Nat) : Dev :=
  let d := d.plain R.CFG_CTRL v 0
  if ! bitOf v 1 then d
  else if d.mode ≠ 5 ∨ d.pwr.trans.isSome then d
  else { d with pwr := { d.pwr with reloadDue := true } }.put F.PWR_MODE_CUR 2

def Dev.wrCfg (d : Dev) (a v : Nat) : Handled :=
  if a = R.CFG_CTRL then some (d.cfgCtrl v)
  else if a = R.CFG_NV_ADDR then some (d.plain a (v / 256 * 256) 0)
  else if a = R.CFG_NV_CMD then some (d.nvCmd (v % 4))
  else none

/-- PWR_MODE written (R294). -/
def Work.modeWrite (w : Work) (v : Nat) : Work :=
  if bitOf v 3 then w.modeReq (v % 8) else w.on (fun d => d.put F.PWR_MODE_REQ v)

def Dev.wrSpr (d : Dev) (a v : Nat) : Handled :=
  if a = R.SPR_BANK_SEL then some (d.plain a v 0).bankShow
  else if a = R.SPR_AGE_SEL then some (d.plain a v 0).ageShow
  else if a = R.SPR_LOG_CMD then some (d.logCmd (BitVec.ofNat 32 v))
  else if a = R.SPR_PIPE_LOAD then some (d.pipeLoad (BitVec.ofNat 32 v))
  else none

/-! ### A write of one register -/

/-- Writes whose effect stays in the block. -/
def Dev.writeActs (d : Dev) (writer a v : Nat) : Handled :=
  match a / 0x10000 with
  | 0x400B => d.wrLog a v
  | 0x400C => d.wrTrg a v
  | 0x400D => d.wrFlt a v
  | 0x4012 => d.wrSlk a v
  | 0x4013 => d.wrStc a v
  | 0x4014 => d.wrSeg a v
  | 0x400E => d.wrMrk a v
  | 0x4011 => d.wrCdc a v
  | 0x4010 => d.wrNet a v
  | 0x400F => d.wrMer a v
  | 0x400A => d.wrDrc a v
  | 0x4009 => d.wrQue writer a v
  | 0x4008 => onInst a (R.DMA_Cc_FLAG 0) 0x40 32 (fun c => d.dmaFlags c v)
  | 0x4006 => d.wrIcu a v
  | 0x4007 => d.wrEvt writer a v
  | 0x4000 => d.wrSys a v
  | 0x4003 => d.wrCfg a v
  | 0x4004 => if a = R.SVC_CTRL then some (d.enWrite F.SVC_CTRL_EN v (·.svcPortEnable true) (·.svcPortEnable false)) else none
  | 0x4040 => d.wrSpr a v
  | 0x4001 => if a = R.ALM_SEAL_IDX then some (d.plain a v 0).sealShow else none
  | k => if 0x4020 ≤ k ∧ k ≤ 0x4030 then d.wrPl a v else none

/-- Writes that reach memory: descriptor engines, the mode and the resets. -/
def Work.writeMem (w : Work) (a : Nat) (v : Nat) : Option Work :=
  if a = R.SYS_RST then some (w.rstWrite (BitVec.ofNat 32 v))
  else if a = R.PWR_MODE then some (w.modeWrite v)
  else
    ((instOf a (R.CDC_En_CTRL 0) 0x40 4).map (fun e => w.cdcCtrl e v)).or
      ((instOf a (R.DMA_Cc_CFG 0) 0x40 32).map (fun c => w.dmaCfg c v))

/-- A write of a 32-bit register. -/
def Work.writeReg (w : Work) (writer a v : Nat) (hand : Hand) : Work :=
  if isShadow hand then w.on (fun d => d.shadowWrite a v)
  else
    let w := w.on (fun d => d.settleAt a)
    match w.writeMem a v with
    | some w => w
    | none =>
      w.on (fun d =>
        match d.writeActs writer a v with
        | some d => d
        | none => d.plain a v 0)

/-! ### The 64-bit protocol (R4) -/

/-- A 64-bit register takes writes now: descriptor addresses only while their engine waits, a tap's BASE only while
it is stopped (R205, R211, R253). -/
def Dev.wideFree (d : Dev) (lo : Nat) : Bool :=
  match instOf lo (R.CDC_En_DESC 0) 0x40 4 with
  | some e => d.descFree e
  | none =>
    match instOf lo (R.CDC_TAPt_BASE 0) 0x40 8 with
    | some t => d.tapFree t
    | none =>
      match instOf lo (R.DMA_Cc_DESC 0) 0x40 32 with
      | some c => d.dmaState c == 0 || d.dmaState c == dmaEmpty || d.dmaState c == dmaHalted
      | none => true

/-- A _LO register written: the half is staged (R4). A register that takes no writes stages none. -/
def Dev.writeLo (d : Dev) (lo : Nat) (v : Word) : Dev :=
  match rowAt lo with
  | none => d
  | some r =>
    if r.rw ||| r.wo = 0 then d
    else if ! d.wideFree lo then d.accessErr lo
    else if r.ruled ≠ 0 ∧ d.mode ≠ 2 ∧ d.mode ≠ 5 then d.accessErr lo
    else d.stage lo v

/-- PWR_PD_OFF committed (R4, R297). -/
def Work.pdOffHi (w : Work) (hi : Word) : Work :=
  let v := w.dev.joined R.PWR_PD_OFF hi
  (w.on (fun d => d.unstage R.PWR_PD_OFF)).pdOffCommit v.toNat

/-- ALM_SET_SEC committed (R4, R350). -/
def Dev.almSetHi (d : Dev) (hi : Word) : Dev :=
  let v := d.joined R.ALM_SET_SEC hi
  (((d.unstage R.ALM_SET_SEC).setReg R.ALM_SET_SEC (v.extractLsb' 0 32)).setReg (R.ALM_SET_SEC + 4) hi).almCommit v

/-- The 64-bit values whose commit does more than store. -/
def Dev.wideActs (d : Dev) (lo : Nat) (hi : Word) : Handled :=
  match lo / 0x10000 with
  | 0x4009 => onInst lo (R.QUE_Qq_PUSH_DATA 0) 0x20 64 (fun q => d.fwPush q (d.joined lo hi))
  | 0x4014 => if lo = R.SEG_TREE_DATA then some (d.treeWrite hi) else none
  | 0x4001 => if lo = R.ALM_SET_SEC then some (d.almSetHi hi) else none
  | 0x400B =>
    let o := lo - R.LOGn_CMPm_VAL 0 0
    let n := o / 0x100
    let m := o % 0x100 / 0x20
    if lo < R.LOGn_CMPm_VAL 0 0 ∨ 32 ≤ n ∨ 4 ≤ m ∨ o % 0x20 ≠ 0 then none
    else some (((d.commit64 lo (d.joined lo hi)).unstage lo).cmpMoved n m)
  | 0x4008 =>
    onInst lo (R.DMA_Cc_DESC 0) 0x40 32 (fun c =>
      let d := (d.commit64 lo (d.joined lo hi)).unstage lo
      d.put (F.DMA_Cc_DESC c) (d.val (F.DMA_Cc_DESC c) / 32 * 32))
  | _ => none

/-- A _HI register written: both halves are committed (R4). -/
def Work.writeHi (w : Work) (lo : Nat) (hi : Word) : Work :=
  if ! w.dev.wideFree lo then w.on (fun d => d.accessErr (lo + 4))
  else if lo = R.PWR_PD_OFF then w.pdOffHi hi
  else
    w.on (fun d =>
      match d.wideActs lo hi with
      | some d => d
      | none => (d.commit64 lo (d.joined lo hi)).unstage lo)

/-! ### The bus -/

/-- An aligned 32-bit write to the peripheral windows (R2 to R4, R8). Reserved offsets ignore it. -/
def Work.write32 (w : Work) (writer a : Nat) (v : Word) : Work :=
  match rowAt a with
  | none => w
  | some r =>
    if r.pair then (if isUpper r.insts (a - r.base) then w.writeHi (a - 4) v else w.on (fun d => d.writeLo a v))
    else w.writeReg writer a v.toNat r.hand

/-- A write of `size` bytes through the memory map (R2); one with no memory behind it is ignored (R236).
DEDUCED, log entry 42. -/
def Work.busWrite (w : Work) (writer a size : Nat) (v : BitVec 64) : Work :=
  match w.dev.place a with
  | .peri => if size = 4 ∧ a % 4 = 0 then w.write32 writer a (v.setWidth 32) else w.on (fun d => d.accessErr a)
  | _ => w.store a (bytesLE size v.toNat)

/-- The halves of a 64-bit register, and the shadows, by their addresses. -/
def isLo (a : Nat) : Bool := match rowAt a with
  | some r => r.pair && ! isUpper r.insts (a - r.base)
  | none => false
def isHi (a : Nat) : Bool := match rowAt a with
  | some r => r.pair && isUpper r.insts (a - r.base)
  | none => false
def isSh (a : Nat) : Bool := match rowAt a with
  | some r => isShadow r.hand
  | none => false

/-- PD_OFF_WRITE (R4, R297): the _LO half is staged, the _HI half commits. -/
def execPdOffWrite (hi : Bool) (v : Word) (s : State) : Host.Outcome State Fault Refusal :=
  onWork (fun w => if hi then w.pdOffHi v else w.on (fun d => d.stage R.PWR_PD_OFF v)) s

/-- ALM_SET_COMMIT (R350). -/
def execAlmSetCommit (hi : Word) (s : State) : Host.Outcome State Fault Refusal := onDev (fun d => d.almSetHi hi) s

end Sys2Proof.Machine
end

