-- ==== Sys2Proof/Machine/Chain.lean ====
section
/-! DEFINITION. The unit chain: its ports, enumeration and addresses, neighbours, and the latency probe (R59, R304 to
R310). -/
namespace Sys2Proof.Machine

/-- The segment number a unit is configured with: the BANK record's, CHN_SEG or the straps (R307). -/
def Dev.configSeg (d : Dev) (seg : Option Nat) : Nat :=
  match seg with
  | some v => v % 256
  | none => (if d.on F.CHN_CFG_SEG_SRC then d.val F.CHN_SEG else d.val ⟨R.SYS_STRAP, 0, 8⟩) % 256

/-- Bytes 0 to 3 of an ENUM's word: round, COUNT, head segment and R (R309). -/
def enumWord (round count seg ring : Nat) : BitVec 64 :=
  BitVec.ofNat 64 (round % 256 + 256 * (count % 256) + 65536 * (seg % 256) + 16777216 * (ring % 256))

/-- Byte `i` of a payload word. -/
def wordByte (w : BitVec 64) (i : Nat) : Nat := w.toNat / 256 ^ i % 256

/-- COL_BASE and Chart width in one word, as this unit sends them (DESIGN CHOICE, log entry 36: the manual gives no layout). -/
def Dev.spanWord (d : Dev) : BitVec 64 := BitVec.ofNat 64 (d.val F.STC_COL_BASE + 2 ^ 32 * d.chartWidth)

/-- A NEIGH frame: the span, the port states, and whether a port has changed (R308, R309; DESIGN CHOICE, log entry 36). -/
def Dev.neighFrame (d : Dev) (news : Bool) : ChainFrame :=
  d.frameAll 0x05 [d.spanWord, BitVec.ofNat 64 (b2n (d.portUp .chu) + 2 * b2n (d.portUp .chd) + 4 * b2n news)]

/-- NEIGH on both ports (R308). -/
def Dev.sendNeigh (d : Dev) (news : Bool) : Dev :=
  (d.chainOut .chu (d.neighFrame news)).chainOut .chd (d.neighFrame news)

/-- The position master sends a unit a timing probe, on both ports (R59, R309). DEDUCED, log entry 102. -/
def Dev.sendProbe (d : Dev) (hop : Nat) : Dev :=
  let f := d.frameTo 0x02 hop [BitVec.ofNat 64 hop, BitVec.ofNat 64 (d.val F.MER_TIME)]
  (d.chainOut .chu f).chainOut .chd f

/-- A new enumeration begins for this unit: the beacon side is open again (R310). -/
def Dev.enumFresh (d : Dev) : Dev :=
  { d.inc F.CHN_ENUM_CNT with chn := { d.chn with sideKnown := false, portNews := false } }

/-- R, the ring size, or 64 when no ring has closed since LOAD (R306). -/
def Dev.ringSize (d : Dev) : Nat := if d.val F.CHN_RING_N = 0 then 64 else d.val F.CHN_RING_N

/-- The head enumerates (R306, steps 1 and 6). DEDUCED, log entry 99. -/
def Dev.enumerate (d : Dev) : Dev :=
  if ! d.on F.CHN_CFG_HEAD || d.chn.yielded then d
  else
    let d := d.enumFresh
    let round := (d.chn.round + 1) % 256
    let d := { d with chn := { d.chn with round := round } }
    let d := ((d.put F.CHN_ADDR (64 * d.chn.ownSeg)).mark F.CHN_STAT_ADDR_VALID true).put F.CHN_STAT_UNITS 0
    let d := d.mark F.CHN_STAT_RING false
    let r := d.ringSize
    let send (d : Dev) (p : Side) (count : Nat) : Dev := d.chainOut p (d.frameAll 0x03 [enumWord round count d.segNo r])
    let d := send (send d .chd 1) .chu (r - 1)
    (d.raise F.CHN_FLAG_ENUM_DONE).sendNeigh false

/-- ENUMERATION (R306): the head enumerates after a NEIGH has reported a port change. -/
def execEnumeration (s : State) : Host.Outcome State Fault Refusal :=
  onDev (fun d => if d.chn.portNews then d.enumerate else d) s

/-- The end of a LOAD or RELOAD for the chain (R306, R307, R290): the segment number is taken, the head enumerates,
and every other unit that has no ENUM yet waits 100 ms for one. DEDUCED, log entry 101. -/
def Dev.chainLoadEnd (d : Dev) (seg : Option Nat) : Dev :=
  let own := d.configSeg seg
  let d := { d with chn := { d.chn with ownSeg := own, yielded := false,
                                        loadEnd := if d.chn.gotEnum then none else some d.now } }
  if d.on F.CHN_CFG_HEAD then { d with chn := { d.chn with loadEnd := none } }.enumerate
  else if d.on F.CHN_STAT_ADDR_VALID then d
  else d.put F.CHN_ADDR (64 * own + d.hop)

/-- A chain port goes up or down (R304). A fall, like a rise, is news for the head (R306). -/
def Dev.chainLink (d : Dev) (p : Side) (up : Bool) : Dev :=
  if ! d.powered 29 || d.portUp p == up then d
  else
    let d := match p with
      | .chu => { d.mark F.CHN_STAT_UP_U up with chn := { d.chn with nbrU := none } }
      | .chd => { d.mark F.CHN_STAT_UP_D up with chn := { d.chn with nbrD := none } }
    let d := if up then d else (d.raise F.CHN_FLAG_LINK_DOWN).inc F.CHN_LINK_DOWN_CNT
    d.sendNeigh true

/-- CHAIN_LINK_CHANGE (R304). -/
def execChainLinkChange (side : Side) (up : Bool) (s : State) : Host.Outcome State Fault Refusal :=
  onDev (fun d => d.chainLink side up) s

/-- A unit takes an ENUM that came in by a port (R306, steps 3, 4 and 6; R307). -/
def Dev.enumTake (d : Dev) (p : Side) (w : BitVec 64) : Dev :=
  let round := wordByte w 0
  let c := wordByte w 1
  let seg := wordByte w 2
  let ok := decide (1 ≤ c ∧ c ≤ 63)
  let d := d.enumFresh
  let d := { d with chn := { d.chn with round := round, gotEnum := true, chdEnum := none, loadEnd := none } }
  let d := d.raiseIf (seg != d.chn.ownSeg) F.CHN_FLAG_SEG_MISMATCH
  let d := (d.put F.CHN_ADDR (64 * seg + if ok then c else 63)).mark F.CHN_STAT_ADDR_VALID ok
  let d := if ok then
      let f := mkFrame 0x03 (0x8000 + 64 * seg) 0 [enumWord round (if p = .chu then c + 1 else c + 255) seg (wordByte w 3)]
      if d.portUp (otherSide p) then (d.chainOut (otherSide p) f).inc F.CHN_FWD_CNT else d
    else (d.raise F.CHN_FLAG_OVERFLOW).raise F.CHN_FLAG_NO_ADDR
  let d := d.chainOut p (d.frameTo 0x04 0 [BitVec.ofNat 64 (d.val F.CHN_UID), d.spanWord])
  let d := (d.raise F.CHN_FLAG_ENUM_DONE).sendNeigh false
  if d.on F.TRG_CTRL_BCN_MASTER then
    ((List.range (min 64 (max 1 (wordByte w 3)))).filter (fun h => h != d.hop)).foldl (fun (d : Dev) h => d.sendProbe h) d
  else d

/-- An ENUM reaches the head: its own, come round, closes the ring at CHU; another head's is a conflict, which one of
the two wins by its CHN_UID. The frame does not carry the other's: a free value says which is greater (R306, R307; log
entry 5). -/
def Dev.enumAtHead (d : Dev) (p : Side) (w : BitVec 64) : Dev :=
  if wordByte w 0 = d.chn.round ∧ wordByte w 2 = d.segNo then
    if p = .chu then (d.put F.CHN_RING_N (wordByte w 1)).mark F.CHN_STAT_RING true else d
  else
    let f := d.draw
    let d := f.2.raise F.CHN_FLAG_HEAD_CONFLICT
    if f.1.getLsbD 0 then { d with chn := { d.chn with yielded := true } } else d

/-- ENUM arrives (R306, step 2): on CHU it is taken, on CHD it waits for one on CHU. -/
def Dev.enumIn (d : Dev) (p : Side) (f : ChainFrame) : Dev :=
  if f.type ≠ 0x03 then d
  else
    let r := d.chainCheck p f
    let d := r.1
    let w := f.words.getD 0 0
    if ! r.2 || f.words.isEmpty then d
    else if d.on F.CHN_CFG_HEAD then d.enumAtHead p w
    else
      match p with
      | .chu => d.enumTake .chu w
      | .chd =>
        if d.chn.gotEnum ∧ d.chn.round = wordByte w 0 then d
        else { d with chn := { d.chn with chdEnum := some (w, d.now) } }

/-- ENUM (R306, R307). -/
def execEnum (side : Side) (f : ChainFrame) (s : State) : Host.Outcome State Fault Refusal := onDev (fun d => d.enumIn side f) s

/-- ENUM_CHD_WAIT (R306, step 2): 100 µs have brought none on CHU. -/
def execEnumChdWait (s : State) : Host.Outcome State Fault Refusal :=
  onDev (fun d =>
    match d.chn.chdEnum with
    | some (w, t) => (d.reach (t + 100000)).enumTake .chd w
    | none => d) s

/-- NO_ADDR (R307): 100 ms after the end of LOAD without an ENUM. -/
def execNoAddr (s : State) : Host.Outcome State Fault Refusal :=
  onDev (fun d =>
    match d.chn.loadEnd with
    | none => d
    | some t =>
      if d.chn.gotEnum ∨ d.on F.CHN_CFG_HEAD then d
      else
        let d := { d.reach (t + 100000000) with chn := { d.chn with loadEnd := none } }
        (d.raise F.CHN_FLAG_NO_ADDR).put F.CHN_ADDR (64 * d.chn.ownSeg + 63)) s

/-- ENUM_ACK (R306, R309): the head counts it; a head that is the position master measures that unit's latency. -/
def execEnumAck (side : Side) (f : ChainFrame) (s : State) : Host.Outcome State Fault Refusal :=
  onDev (fun d =>
    let r := d.chainIn side f 0x04 id
    let d := r.1
    if ! r.2 || ! d.on F.CHN_CFG_HEAD then d
    else
      let d := d.put F.CHN_STAT_UNITS (min 64 (d.val F.CHN_STAT_UNITS + 1))
      if d.on F.TRG_CTRL_BCN_MASTER then d.sendProbe f.srcHop else d) s

/-- The link that closes a ring: into the head's CHU, out of the CHD whose neighbour is the head (R305, R308). -/
def Dev.closesRing (d : Dev) (p : Side) (f : ChainFrame) : Bool :=
  (p == .chu && d.on F.CHN_CFG_HEAD) || (p == .chd && f.srcHop == 0)

/-- A neighbour's span (R24, R308): shown, and judged against this unit's own. DEDUCED, log entry 100. -/
def Dev.neighTake (d : Dev) (p : Side) (f : ChainFrame) : Dev :=
  let base := (f.words.getD 0 0).toNat % 2 ^ 32
  let width := (f.words.getD 0 0).toNat / 2 ^ 32
  let d := match p with
    | .chu => { d.put F.CHN_EDGE_U (base + width) with chn := { d.chn with nbrU := some (base, width) } }
    | .chd => { d.put F.CHN_EDGE_D base with chn := { d.chn with nbrD := some (base, width) } }
  d.raiseIf (! d.closesRing p f && ! d.abuts p) F.CHN_FLAG_EDGE_MISMATCH

/-- NEIGH arrives (R306, R308): a port change that it reports is news for the head, to which each unit passes it on
in a NEIGH of its own. -/
def Dev.neighIn (d : Dev) (p : Side) (f : ChainFrame) : Dev :=
  let r := d.chainIn p f 0x05 id
  if ! r.2 then r.1
  else
    let d := r.1.neighTake p f
    if ! (f.words.getD 1 0).getLsbD 2 then d
    else if d.on F.CHN_CFG_HEAD then { d with chn := { d.chn with portNews := true } }
    else d.chainOut (otherSide p) (d.neighFrame true)

/-- NEIGH (R308). -/
def execNeigh (side : Side) (f : ChainFrame) (s : State) : Host.Outcome State Fault Refusal := onDev (fun d => d.neighIn side f) s

/-- The hops that a frame from hop `src` has made to arrive on port `p`: down the chain on CHU, up it on CHD. -/
def Dev.hopsFrom (d : Dev) (p : Side) (src : Nat) : Nat :=
  match p with
  | .chu => (d.hop + d.ringSize - src) % d.ringSize
  | .chd => (src + d.ringSize - d.hop) % d.ringSize

/-- PROBE arrives (R59, R310). The unit loops it back, and half the round trip is its latency. The round trip is free,
at most twice 320 ns for each hop from the master (DESIGN CHOICE, log entry 5). -/
def Dev.probeIn (d : Dev) (p : Side) (f : ChainFrame) : Dev :=
  let r := d.chainIn p f 0x02 id
  let d := r.1
  if ! r.2 then d
  else if (f.words.getD 0 0).toNat ≠ d.hop then d
  else if d.chn.sideKnown ∧ ¬ d.fromBeaconSide p then d.forward p f
  else
    let x := d.draw
    let trip := x.1.toNat % (2 * 320 * d.hopsFrom p f.srcHop + 1)
    (x.2.chainOut p (d.frameTo 0x02 f.srcHop f.words)).put F.TRG_LS_LAT (trip / 2)

/-- PROBE (R59). -/
def execProbe (side : Side) (f : ChainFrame) (s : State) : Host.Outcome State Fault Refusal := onDev (fun d => d.probeIn side f) s

end Sys2Proof.Machine
end

