-- ==== Sys2Proof/Machine/Checks.lean ====
section
/-! DEFINITION. The end of step 8 and the checks of step 9 of a LOAD or RELOAD (R284, R290), with what they compute:
pipeline demand (R97), holds and stagger (R145, R146). Each check answers the instances at fault. -/
namespace Sys2Proof.Machine

/-! ### Shadows at the end of step 8 (R284) -/

/-- A context's correction and statistics shadows. Nothing is stepped: the unit starts with them, so no line carries
CAL_RAMP for the copy. DEDUCED, log entry 63. -/
def Dev.ctxCopy (d : Dev) (n m : Nat) : Dev :=
  let left := (d.ctx n m).markLeft
  let d := d.corHandOver n m
  let d := d.setReg (R.PLn_CTXm_STATS_ACT n m) (d.reg (R.PLn_CTXm_STATS_SH n m))
  (d.setCtx n m { d.ctx n m with markLeft := left, pendTile := false }).ctxPend n m

/-- A camera's geometry shadows. -/
def Dev.camCopy (d : Dev) (s : Nat) : Dev :=
  let d := d.setReg (R.STC_CAMs_OFFSET_ACT s) (d.reg (R.STC_CAMs_OFFSET_SH s))
  let d := d.setReg (R.STC_CAMs_SCALE_ACT s) (d.reg (R.STC_CAMs_SCALE_SH s))
  let d := d.setReg (R.STC_CAMs_ALONG_ACT s) (d.reg (R.STC_CAMs_ALONG_SH s))
  d.mark (F.STC_CAMs_STAT_SHADOW_PEND s) false

/-- Every shadow with the hand-over LINE, ROW, TILE or MARK is copied into its active copy (R284). -/
def Dev.shadowsCopy (d : Dev) : Dev :=
  let d := (List.range 64).foldl (fun (d : Dev) s => (d.lineHandOver s).camCopy s) d
  let d := (List.range 16).foldl (fun (d : Dev) s => (d.rowHandOver s).markHandOver s) d
  (List.range 68).foldl (fun (d : Dev) i => d.ctxCopy (i / 4) (i % 4)) d

/-! ### Contexts and streams in use -/

/-- The enabled contexts. -/
def Dev.ctxsOn (d : Dev) : List (Nat × Nat) := d.liveCtxs.filter (fun c => d.on (F.PLn_CTXm_CFG_EN c.1 c.2))

def Dev.ctxStream (d : Dev) (c : Nat × Nat) : Nat := d.val (F.PLn_CTXm_CFG_STREAM c.1 c.2)

/-- The configured line length of a context's stream. -/
def Dev.ctxLen (d : Dev) (c : Nat × Nat) : Nat := d.lineLen (d.ctxStream c)

def Dev.spacingOf (d : Dev) (s : Nat) : Nat := d.val (F.TRGs_MIN_SPACING s)

/-- The layout of a context's line (R127). -/
def Dev.ctxLayout (d : Dev) (c : Nat × Nat) : Layout := d.layout c.1 c.2 (d.ctxLen c)

/-- The sum of fractions, as numerator and denominator. -/
def fracSum (l : List (Nat × Nat)) : Nat × Nat := l.foldl (fun a x => (a.1 * x.2 + x.1 * a.2, a.2 * x.2)) (0, 1)

/-! ### Demand (R97) -/

/-- The demand of pipeline `n`, clocks per ns, exact. A MIN_SPACING of 0 is counted as 1; it fails its own check.
DEDUCED, log entry 58. -/
def Dev.demand (d : Dev) (n : Nat) : Nat × Nat :=
  fracSum ((d.ctxsOn.filter (fun c => c.1 == n)).map (fun c => (divCeil (d.ctxLen c) 4 + 8, max 1 (d.spacingOf (d.ctxStream c)))))

/-- PLn_DEMAND in thousandths, rounded up. -/
def Dev.demandShow (d : Dev) : Dev :=
  (List.range 17).foldl (fun (d : Dev) n =>
    let x := d.demand n
    d.put (F.PLn_DEMAND_DEMAND n) (min 65535 (divCeil (1000 * x.1) x.2))) d

/-- Code 5: a pipeline with a stream below 2,000 ns or a demand above 1.05. -/
def Dev.demandFaults (d : Dev) : List Nat :=
  (List.range 17).filter (fun n =>
    (d.ctxsOn.any (fun c => c.1 == n && decide (d.spacingOf (d.ctxStream c) < 2000)))
      || decide (105 * (d.demand n).2 < 100 * (d.demand n).1))

/-! ### Web coordinates (R14, R17, R20, R22) -/

def listIf (b : Bool) (i : Nat) : List Nat := if b then [i] else []

def Dev.sliceWidth (d : Dev) (s : Nat) : Nat := d.val (F.STC_SLICEs_WIDTH s)

/-- Code 4: slices that break R22. Slice 0 must be active, each active slice follows one, and the sums stay within
their limits. -/
def Dev.sliceFaults (d : Dev) : List Nat :=
  (List.range 16).filter (fun s =>
    let w := d.sliceWidth s
    let stop := d.sliceStart s + w
    let gap := (s = 0 ∧ w = 0) ∨ (0 < s ∧ 0 < w ∧ d.sliceWidth (s - 1) = 0)
    decide (gap ∨ (0 < w ∧ (w < 64 ∨ 16384 < w ∨ w % 16 ≠ 0 ∨ 262144 < stop ∨ 2 ^ 32 < d.val F.STC_COL_BASE + stop))))

/-! ### Correction (R114, R118, R120, R127) -/

/-- Strictly ascending. -/
def ascends {α : Type} (lt : α → α → Bool) : List α → Bool
  | a :: b :: t => lt a b && ascends lt (b :: t)
  | _ => true

/-- Code 6: the static map of an enabled context's stream is unsorted, repeats an index or holds one of L or more. -/
def Dev.mapFaults (d : Dev) : List Nat :=
  (d.ctxsOn.filter (fun c =>
    let l := (List.range (d.val (F.PLn_CTXm_DPM_COUNT c.1 c.2))).map (fun i => (d.ctx c.1 c.2).static.getD i 0)
    ! ascends (fun a b => decide (a < b)) l || l.any (fun i => decide (d.ctxLen c ≤ i)))).map d.ctxStream

/-- Code 7: set temperatures that do not strictly ascend. -/
def Dev.tempFaults (d : Dev) : List Nat :=
  (d.ctxsOn.filter (fun c =>
    ! ascends (fun a b => decide (a < b)) ((List.range (d.ntemp c.1 c.2)).map (d.tempPt c.1 c.2)))).map d.ctxStream

/-- Code 8: pipelines whose enabled contexts need more than the calibration store. -/
def Dev.calFaults (d : Dev) : List Nat :=
  (List.range 17).filter (fun n =>
    decide (1310720 < (d.ctxsOn.filter (fun c => c.1 == n)).foldl
      (fun k c => k + d.ctxLen c * (4 * (d.ntemp c.1 c.2 + 1) + 4)) 0))

/-- A mosaic description that R127 rejects, for a stream that feeds the Chart or not. -/
def Layout.bad (y : Layout) (feeds : Bool) : Bool :=
  let used := y.ents.flatten.filterMap id
  let rowsOf (p : Nat) : Nat := (y.ents.filter (fun r => r.contains (some p))).length
  y.len % y.h != 0 || decide (y.len / y.h < y.ob + 64) || (y.len / y.h - y.ob) % y.w != 0
    || (List.range y.planes).any (fun p => ! used.contains p || decide (1 < rowsOf p))
    || (feeds && used.isEmpty)

/-- Code 9. -/
def Dev.mosaicFaults (d : Dev) : List Nat :=
  (d.ctxsOn.filter (fun c => (d.ctxLayout c).bad (d.on (F.STC_CAMs_CFG_EN (d.ctxStream c))))).map d.ctxStream

/-! ### Holds and stagger (R145, R146) -/

/-- A plane as LOAD places it: stream, plane, pipeline, active columns, hold depth in lines. -/
structure HoldPlane where
  s     : Nat
  p     : Nat
  n     : Nat
  a     : Nat
  depth : Nat
  deriving DecidableEq, Repr

def HoldPlane.bytes (h : HoldPlane) : Nat := h.depth * h.a * 2

/-- The planes of enabled contexts with their hold depths (R145). -/
def Dev.holdPlanes (d : Dev) : List HoldPlane :=
  let ps := d.ctxsOn.flatMap (fun c => (List.range (d.ctxLayout c).planes).map (fun p => (c, p)))
  let ofs (x : (Nat × Nat) × Nat) : Int := d.vali (F.PLn_CTXm_PLANE_OFSp x.1.1 x.1.2 x.2)
  let top : Int := match ps with
    | [] => 0
    | x :: t => t.foldl (fun m y => max m (ofs y)) (ofs x)
  ps.map (fun x =>
    let s := d.ctxStream x.1
    let h := (top - ofs x).toNat
    { s := s, p := x.2, n := x.1.1, a := (d.ctxLayout x.1).active,
      depth := divCeil h (max 1 (d.val (F.TRGs_PITCH s))) + divCeil d.rowWait (max 1 (d.spacingOf s)) + 4 })

/-- The planes of one pipeline in ascending hold bytes that stay on chip, then those that go to DRAM rings. -/
def stagger : Nat → List HoldPlane → List HoldPlane
  | _, [] => []
  | sum, h :: t => if sum + h.bytes ≤ 1048576 then stagger (sum + h.bytes) t else h :: t

def HoldPlane.before (x y : HoldPlane) : Bool :=
  decide (x.bytes < y.bytes) || (x.bytes == y.bytes && (decide (x.s < y.s) || (x.s == y.s && decide (x.p < y.p))))

/-- The staggered planes of the unit (R145). -/
def Dev.staggered (d : Dev) : List HoldPlane :=
  (List.range 17).flatMap (fun n => stagger 0 (orderBy HoldPlane.before (d.holdPlanes.filter (fun h => h.n == n))))

/-- The stagger ingress in Mbit/s, exact (R146). -/
def Dev.ingress (d : Dev) : Nat × Nat :=
  fracSum (d.staggered.map (fun h => (16000 * h.a, max 1 (d.spacingOf h.s))))

/-- Where the rings lie in their region: one after the other as LOAD places them, each rounded up to 4 KiB (R146;
DESIGN CHOICE, log entry 128: the order is not stated). -/
def ringBases : Nat → List HoldPlane → List (HoldPlane × Nat)
  | _, [] => []
  | b, h :: t => (h, b) :: ringBases (b + divCeil h.bytes 4096 * 4096) t

/-- Ring depths, STG, HOLD_DEPTH and STG_RATE as LOAD leaves them (R145, R146). -/
def Dev.staggerShow (d : Dev) : Dev :=
  let planes := d.holdPlanes
  let stg := d.staggered
  let x := d.ingress
  let d := d.put F.STC_STG_RATE (min (2 ^ 32 - 1) (divCeil x.1 x.2))
  let d := (List.range 64).foldl (fun (d : Dev) s =>
    let mine := planes.filter (fun h => h.s == s)
    let d := d.mark (F.STC_CAMs_STAT_STG s) (stg.any (fun h => h.s == s))
    let d := d.put (F.STC_CAMs_STAT_HOLD_DEPTH s) (min 65535 (mine.foldl (fun m h => max m h.depth) 0))
    (List.range 4).foldl (fun (d : Dev) p =>
      match ringBases 0 stg |>.find? (fun h => h.1.s == s && h.1.p == p) with
      | some h => d.setPlane s p { (d.cam s).plane p with depth := h.1.depth, base := h.2, width := 2 * h.1.a, slot := 0, back := [] }
      | none => d.setPlane s p { (d.cam s).plane p with depth := 0, base := 0, width := 0, slot := 0, back := [] }) d) d
  d

/-- Code 10: the budget is detail 0, the ring region detail 1. -/
def Dev.staggerFaults (d : Dev) : List Nat :=
  let x := d.ingress
  let need := d.staggered.foldl (fun n h => n + divCeil h.bytes 4096 * 4096) 0
  listIf (decide (d.val F.STC_STG_BUDGET * x.2 < x.1)) 0 ++ listIf (decide (d.val F.STC_STG_SIZE < need)) 1

/-! ### Cameras (R149) -/

def Dev.span (d : Dev) (s : Nat) : Nat × Nat := (d.val (F.STC_CAMs_XS s), d.val (F.STC_CAMs_XE s))

def covers (x : Nat × Nat) (c : Nat) : Bool := decide (x.1 ≤ c ∧ c ≤ x.2)

/-- The first column from `c` on that no span covers. -/
def uncovered (spans : List (Nat × Nat)) : Nat → Nat → Nat
  | 0, c => c
  | f + 1, c =>
    match spans.find? (fun x => covers x c) with
    | some x => uncovered spans f (x.2 + 1)
    | none => c

/-- Two overlapping spans whose starts and ends do not both ascend; a span that ends before its start holds no
column, so it overlaps none. -/
def nested (x y : Nat × Nat) : Bool :=
  decide (x.1 ≤ x.2 ∧ y.1 ≤ y.2 ∧ x.1 ≤ y.2 ∧ y.1 ≤ x.2) && ! (decide (x.1 < y.1 ∧ x.2 < y.2) || decide (y.1 < x.1 ∧ y.2 < x.2))

/-- Code 11: streams at fault, then 64 plus the slice of the lowest column without a camera. -/
def Dev.cameraFaults (d : Dev) : List Nat :=
  let cams := d.cams
  let w := d.chartWidth
  let spans := cams.map d.span
  let crowd (c : Nat) : Bool := decide (2 < (spans.filter (fun y => covers y c)).length)
  let bad := cams.filter (fun s =>
    let x := d.span s
    decide (x.2 < x.1 ∨ w ≤ x.2 ∨ 32768 < x.2 + 1 - x.1)
      || cams.any (fun t => t != s && nested x (d.span t))
      || spans.any (fun y => covers x y.1 && crowd y.1))
  let c := uncovered spans 64 0
  bad ++ listIf (decide (c < w)) (64 + d.sliceOf c)

/-! ### Row time (R165) -/

/-- Code 12: slices whose rows take too long at every speed that a camera of the Chart reaches; with none that
qualifies the check is not made. -/
def Dev.rowTimeFaults (d : Dev) : List Nat :=
  let ss := (d.ctxsOn.map d.ctxStream).filter (fun s => d.on (F.STC_CAMs_CFG_EN s))
  if ss.isEmpty then []
  else
    (List.range 16).filter (fun i =>
      let w := d.sliceWidth i
      w != 0 && ss.all (fun s =>
        decide (105 * d.val F.STC_GRID_PITCH * d.spacingOf s < 100 * (divCeil w 4 + 16) * d.val (F.TRGs_PITCH s))))

/-! ### Queues and DRAM (R244, R290) -/

/-- Code 13: enabled queues whose region is out of range or overlaps another's. -/
def Dev.queueFaults (d : Dev) : List Nat := (d.listed (R.QUE_Qq_CFG 0) 0x40 64 0 1).filter (fun q => ! d.queRegionOk q)

/-- Code 14: fewer than seven channels; the detail is the channel mask. -/
def Dev.dramFaults (d : Dev) : List Nat := listIf (decide (d.dramChans.length < 7)) (d.val F.DRC_CFG_CHAN_EN)

/-- The checks in code order, each with the instances at fault (R290). DEDUCED, log entry 87. -/
def Dev.loadFaults (d : Dev) : List (Nat × List Nat) :=
  [(1, listIf (d.val F.LOG_SCALE == 0) 0),
   (2, listIf (decide (d.val F.STC_GRID_PITCH < 64 ∨ 16777215 < d.val F.STC_GRID_PITCH)) 0),
   (3, listIf (d.val F.STC_COL_PITCH == 0) 0),
   (4, d.sliceFaults), (5, d.demandFaults), (6, d.mapFaults), (7, d.tempFaults), (8, d.calFaults), (9, d.mosaicFaults),
   (10, d.staggerFaults), (11, d.cameraFaults), (12, d.rowTimeFaults), (13, d.queueFaults), (14, d.dramFaults),
   (15, d.pwr.badEntry.toList)]

/-- The lowest failing code with its lowest failing instance (R290). -/
def Dev.loadReject (d : Dev) : Option (Nat × Nat) :=
  match d.loadFaults.find? (fun x => ! x.2.isEmpty) with
  | some (c, i :: t) => some (c, t.foldl min i)
  | _ => none

end Sys2Proof.Machine
end

