-- ==== Sys2Proof/Machine/Boot.lean ====
section
/-! DEFINITION. The boot sequence, RELOAD and the way into INSPECT or SERVICE (R284 to R290, R336, R337). -/
namespace Sys2Proof.Machine

/-! ### Steps 1 to 4: the image checked (R285, R288, R289) -/

/-- A failed check: its code, and the section entry and type that CFG_FAIL names (R289). -/
structure BootFail where
  code  : Nat
  entry : Nat := 0
  type  : Nat := 0
  deriving DecidableEq, Repr

/-- The checks of step 2, on the header alone. -/
def headerFault (h : List Byte) (flash : Bool) : Option BootFail :=
  if ! flash ∨ leAt h 0 4 ≠ 0x31464D4C then some { code := 1 }
  else if ! headerCrc h ∨ leAt h 4 2 ≠ 1 ∨ leAt h 6 2 ≠ 512 ∨ sectCount h = 0 ∨ 30 < sectCount h then some { code := 2 }
  else if leAt h 8 2 ≠ 0x4C5A ∨ leAt h 10 2 ≠ 0x6416 then some { code := 3 }
  else if ! layoutValid h then some { code := 5 }
  else none

/-- The sections that LOAD checks: not those of the inactive bank (R285). -/
def checkedSect (x : Sect) (bank : Nat) : Bool := ! bankedType x.type || x.bank == bank

/-- A required section that is absent: REGS and BANK, and LDR, HELM and PIPE of the active bank (R282). -/
def missingSect (h : List Byte) (bank : Nat) : Option Nat :=
  [1, 2, 3, 7, 12].find? (fun t => (sectOf h t bank).isNone)

/-- The epoch that the checks use: of the active bank's manifest, or else of the image (R285, R319). -/
def activeEpoch (h r : List Byte) : Nat :=
  match recManifest r (recBank r) with
  | some m => manifestEpoch m
  | none => imageEpoch h

/-- The first section, in the table's order, that fails its check word. -/
def Work.sectionFault (w : Work) (h r : List Byte) : Option BootFail :=
  ((List.range (sectCount h)).find? (fun i =>
    let x := sectAt h i
    checkedSect x (recBank r) && (w.sectPasses h r x).isNone)).map
      (fun i => { code := 7, entry := i, type := (sectAt h i).type })

/-- The checks of step 4. The answer on success is the copy number and bytes of the bank record in use.
DEDUCED, log entry 81. -/
def Work.imageCheck (w : Work) (h : List Byte) : BootFail ⊕ (Nat × List Byte) :=
  match sectOf h 12 0 with
  | none => .inl { code := 6, type := 12 }
  | some (i, _) =>
    match w.bankRecord h with
    | none => .inl { code := 7, entry := i, type := 12 }
    | some (c, r) =>
      match missingSect h (recBank r) with
      | some t => .inl { code := 6, type := t }
      | none =>
        if activeEpoch h r < w.dev.otp.epoch then .inl { code := 4 }
        else
          match w.sectionFault h r with
          | some f => .inl f
          | none => .inr (c, r)

/-- Factory defaults (R289): the failure recorded, every other register at its reset value. DEDUCED, log entry 82. -/
def Dev.factoryDefaults (d : Dev) (f : BootFail) : Dev :=
  let d := (d.mark F.CFG_STAT_DEFAULTS true).raise F.CFG_FLAG_CFG_DEFAULTS
  d.put F.CFG_FAIL (f.code + 256 * (f.entry % 32) + 65536 * f.type)

/-! ### Step 5: SRAM repair (R336, R337) -/

/-- A copy of the repair table: its sequence and entries, when it is good. -/
def repairTable (bs : List Byte) : Option (Nat × List Nat) :=
  let e := leAt bs 8 2
  if leAt bs 0 4 = 0x50525052 ∧ e ≤ 1016 ∧ crc32c (bs.take (16 + 4 * e)) = leAt bs (16 + 4 * e) 4 then
    some (leAt bs 4 4, (List.range e).map (fun i => leAt bs (16 + 4 * i) 4))
  else none

/-- One entry: an SRAM row takes the next free spare of its bank, a DRAM channel goes off; a repeat is ignored. -/
def Dev.repairApply (d : Dev) (e : Nat) : Dev :=
  let bank := e % 256
  let row := e / 256 % 256
  if e / 65536 % 256 = 1 then
    let used := (d.spr.spares.filter (fun x => x.1 == bank)).length
    if d.spr.spares.any (fun x => x.1 == bank && x.2.1 == row) then d
    else if 4 ≤ used then d.raise F.SPR_FLAG0_REPAIR_FULL
    else { d with spr := { d.spr with spares := d.spr.spares ++ [(bank, row, used)] } }
  else if e / 65536 % 256 = 2 ∧ ¬ d.spr.chanOff.contains bank then
    { d with spr := { d.spr with chanOff := d.spr.chanOff ++ [bank] } }
  else d

/-- The repair table in use is applied (R337). An image without a LOG section has none. DEDUCED, log entry 83. -/
def Work.repairLoad (w : Work) (h : List Byte) : Work :=
  match sectOf h 11 0 with
  | none => w
  | some (_, x) =>
    let pick : Option (Nat × Nat × List Nat) :=
      match repairTable (w.peeksNv x.off 4096), repairTable (w.peeksNv (x.off + 4096) 4096) with
      | none, none => none
      | some a, none => some (0, a)
      | none, some b => some (1, b)
      | some a, some b => if a.1 < b.1 then some (1, b) else some (0, a)
    match pick with
    | none => w.on (fun d => d.raise F.SPR_FLAG2_LOG_ERR)
    | some (c, q, es) =>
      w.on (fun d => es.foldl (fun (d : Dev) e => d.repairApply e)
        { d with spr := { d.spr with repair := es, repCopy := c, repSeq := q } })

/-- The loader goes to shared SRAM, at a place that the manual does not give (DESIGN CHOICE, log entry 5).
DESIGN CHOICE, log entry 84. -/
def Work.loaderPlace (w : Work) (h r : List Byte) : Work :=
  match sectOf h 1 (recBank r) with
  | none => w
  | some (_, x) =>
    let n := (w.sectPasses h r x).getD 0
    let f := w.dev.draw
    let w := { w with dev := f.2 }
    w.pokes (0x10000000 + f.1.toNat % (0x800000 + 1 - min n 0x800000)) ((w.peeksNv x.off n).take 0x800000)

/-! ### Step 6: REGS, TABLES and CALIB (R284, R286) -/

/-- The write is refused: it lies outside the peripheral windows, is not aligned, or sets the access error. -/
def Work.entryFails (w : Work) (a : Nat) (v : Word) : Bool :=
  w.dev.place a != .peri || a % 4 != 0
    || ((w.on (fun d => d.put F.SYS_FLAG_ACCESS_ERR 0)).write32 0 a v).dev.on F.SYS_FLAG_ACCESS_ERR

/-- One write of an entry: carried out, and its entry's index noted when it fails. A write that resets the unit ends
the boot. -/
def Work.entryWrite (w : Work) (i a : Nat) (v : Word) : Work :=
  if w.dev.pwr.bootDue then w
  else
    let bad := w.entryFails a v
    let w := if w.dev.place a = .peri ∧ a % 4 = 0 then w.write32 0 a v else w
    if bad then
      w.on (fun d => { d with pwr := { d.pwr with badEntry := some (match d.pwr.badEntry with
        | some j => min i j
        | none => i) } })
    else w

/-- The entries of a section as 32-bit words, in order; `k` words of a burst to `a` are still to come, `i` is the
index of the entry. DEDUCED, log entry 86. -/
def Work.applyWords : List Nat → Option Nat → Nat → Nat → Nat → Work → Work
  | [], _, _, _, _, w => w
  | v :: t, some a, 0, 0, i, w =>
    if a % 2 = 1 then Work.applyWords t (if v = 0 then none else some (a - 1)) v 1 (if v = 0 then i + 1 else i) w
    else Work.applyWords t none 0 0 (i + 1) (w.entryWrite i a (BitVec.ofNat 32 v))
  | v :: t, some a, k, _, i, w =>
    let w := w.entryWrite i a (BitVec.ofNat 32 v)
    if k ≤ 1 then Work.applyWords t none 0 0 (i + 1) w else Work.applyWords t (some a) (k - 1) 1 i w
  | a :: t, none, _, _, i, w => Work.applyWords t (some a) 0 0 i w

/-- A REGS or TABLES section applied. -/
def Work.applySection (w : Work) (h : List Byte) (type : Nat) : Work :=
  match sectOf h type 0 with
  | none => w
  | some (_, x) =>
    Work.applyWords ((List.range (x.len / 4)).map (fun i => natLE (w.peeksNv (x.off + 4 * i) 4))) none 0 0 0 w

/-- The good records of one half of the calibration store, from `at'` to `stop`: type, stream, sequence, payload. -/
def calScan (bs : List Byte) (stop : Nat) : Nat → Nat → List (Nat × Nat × Nat × List Byte)
  | 0, _ => []
  | f + 1, at' =>
    let t := leAt bs at' 1
    let n := leAt bs (at' + 4) 4
    if stop < at' + 20 + n ∨ (t ≠ 1 ∧ t ≠ 2) then []
    else
      let rest := calScan bs stop f (at' + 20 + n)
      if crc32c ((bs.drop at').take (16 + n)) = leAt bs (at' + 16 + n) 4 then
        (t, leAt bs (at' + 1) 1, leAt bs (at' + 8) 4, (bs.drop (at' + 16)).take n) :: rest
      else rest

/-- The record of a type and stream with the highest sequence (R286). -/
def calBest (l : List (Nat × Nat × Nat × List Byte)) (type stream : Nat) : Option (List Byte) :=
  ((l.filter (fun r => r.1 == type && r.2.1 == stream)).foldl (fun best r =>
    match best with
    | some b => if b.2.2.1 < r.2.2.1 then some r else best
    | none => some r) (none : Option (Nat × Nat × Nat × List Byte))).map (fun r => r.2.2.2)

/-- The privileged set overrides its registers, _SH and _ACT alike (R286). -/
def Dev.privileged (d : Dev) (p : List Byte) : Dev :=
  let word (i : Nat) : Word := BitVec.ofNat 32 (leAt p i 4)
  let d := d.setReg R.LOG_SCALE (word 0)
  (List.range 64).foldl (fun (d : Dev) s =>
    let b := 4 + 20 * s
    let d := (d.setReg (R.STC_CAMs_OFFSET_SH s) (word b)).setReg (R.STC_CAMs_OFFSET_ACT s) (word b)
    let d := (d.setReg (R.STC_CAMs_SCALE_SH s) (word (b + 4))).setReg (R.STC_CAMs_SCALE_ACT s) (word (b + 4))
    let d := (d.setReg (R.STC_CAMs_ALONG_SH s) (word (b + 8))).setReg (R.STC_CAMs_ALONG_ACT s) (word (b + 8))
    (d.setReg (R.STC_CAMs_OVL_ACROSS s) (word (b + 12))).setReg (R.STC_CAMs_OVL_ALONG s) (word (b + 16))) d

/-- A C table kept for R126. -/
def Dev.keepC (d : Dev) (s : Nat) (p : List Byte) : Dev :=
  let n := p.length / 2
  { d with pwr := { d.pwr with
    cLens := tabSet 0 d.pwr.cLens s n
    cTables := (List.range (min n 32768)).foldl (fun t i => tabSet 0 t (s * 32768 + i) (leAt p (2 * i) 2)) d.pwr.cTables } }

/-- The calibration store: after the section's first 4 KiB its records lie in two halves (R286; DEDUCED, log entry 37). -/
def Work.calibLoad (w : Work) (h : List Byte) : Work :=
  match sectOf h 9 0 with
  | none => w
  | some (_, x) =>
    let bs := w.peeksNv x.off x.len
    let mid := 4096 + (x.len - 4096) / 8192 * 4096
    let l := calScan bs mid (x.len / 20) 4096 ++ calScan bs x.len (x.len / 20) mid
    let w := match calBest l 1 255 with
      | some p => if p.length = 1284 then w.on (fun d => d.privileged p) else w
      | none => w
    (List.range 64).foldl (fun (w : Work) s =>
      match calBest l 2 s with
      | some p => w.on (fun d => d.keepC s p)
      | none => w) w

/-- C of every context: the store's table for its stream when that has the stream's L, 1.0 elsewhere (R126). -/
def Dev.loadC (d : Dev) : Dev :=
  (List.range 68).foldl (fun (d : Dev) i =>
    let s := d.val (F.PLn_CTXm_CFG_STREAM (i / 4) (i % 4))
    let n := d.tblLen (i / 4) (i % 4)
    let t : Tab Nat := if tabGet 0 d.pwr.cLens s = n then
        (List.range n).foldl (fun t j => tabSet calDefault t j (tabGet 0 d.pwr.cTables (s * 32768 + j))) []
      else []
    d.setCtx (i / 4) (i % 4) { d.ctx (i / 4) (i % 4) with cfac := t }) d

/-! ### Steps 7 and 8 (R241, R243, R288) -/

/-- The speed sets to train: those whose timing the image gives, the one it selects, and set 3 (R241; DEDUCED, log entry 38). -/
def Dev.namedSets (d : Dev) : List Nat :=
  (List.range 4).filter (fun f =>
    f == 3 || f == d.val F.DRC_FREQ_TARGET
      || [0, 1, 2, 3].any (fun k => d.reg (R.DRC_TSETf_A_SH f + 4 * k) != 0#32))

/-- Step 7: DRAM trained at the named sets that are not trained yet; a channel that fails one is disabled, as is one
with a kind-2 repair entry. The INSPECT set is selected. -/
def Dev.dramTrain (d : Dev) (tr : Training) : Dev :=
  let was := d.val F.DRC_FREQ_TRAINED
  let todo := d.namedSets.filter (fun f => ! bitOf was f)
  let from' : List Nat := if was = 0 then (List.range 8).filter (fun c => ! d.spr.chanOff.contains c) else d.dramChans
  let good := from'.filter (fun c => todo.all (fun f => bitOf (tr.dram.getD c 0) f))
  let d := d.put F.DRC_CFG_CHAN_EN (good.foldl (fun v c => withBit v c) 0)
  let d := d.put F.DRC_FREQ_TRAINED (if good.isEmpty then was else todo.foldl (fun v f => withBit v f) was)
  let seven := good.length == 7
  let d := (d.mark F.SPR_STAT_DEGRADED seven).put F.STC_STG_BUDGET (if seven then 525000 else 600000)
  let t := d.val F.DRC_FREQ_TARGET
  if ! bitOf (d.val F.DRC_FREQ_TRAINED) t then d
  else { (d.timHandOver t).put F.DRC_STAT_SPEED_ACT t with drc := { d.drc with inspSet := t } }

/-- Step 8: enabled lanes that see a signal come up, chain ports that find a neighbour come up, the chain enumerates. -/
def Dev.linksUp (d : Dev) (tr : Training) (seg : Option Nat) : Dev :=
  let d := tr.eyes.foldl (fun (d : Dev) x => d.laneBringUp (x.1 % 64) x.2) d
  let d := if tr.chu then d.chainLink .chu true else d
  let d := if tr.chd then d.chainLink .chd true else d
  d.chainLoadEnd seg

/-! ### Steps 9 and 10 (R18, R19, R35, R290, R291) -/

/-- Segmentation, triggers and heads that the image enabled start with INSPECT, after a drain that still runs (R9), or
are held at 0 outside it. -/
def Dev.heldStart (d : Dev) (go : Bool) : Dev :=
  let one (d : Dev) (en : Fld) (start : Dev → Dev) : Dev :=
    if ! d.on en then d else if go then start (d.stopIntake en) else d.stopIntake en
  let d := one d F.SEG_CTRL_EN (·.segEnable)
  let d := (List.range 64).foldl (fun (d : Dev) s => one d (F.TRGs_CFG_EN s) (·.trgEnable s)) d
  (List.range 16).foldl (fun (d : Dev) n => one d (F.MRKn_CFG_EN n) (·.headEnable n)) d

/-- The end of a LOAD or RELOAD for position, rows and tiles (R16, R18, R19, R35). A RELOAD, too, is a LOAD that lets
crossings occur again after saturation (R16; DESIGN CHOICE, log entry 133), and REVERSED is cleared when the high-water
mark is set to the position (R36; DESIGN CHOICE, log entry 134). -/
def Dev.countsFresh (d : Dev) : Dev :=
  let d := d.tickUnit
  let d := { d.puti F.LOG_HWM (d.vali F.LOG_POS) with log := { d.log with posHeld := false }
                                                      stc := { d.stc with k0 := none, nextRow := none, tile := none } }
  let d := d.mark F.LOG_STAT_REVERSED false
  (List.range 68).foldl (fun (d : Dev) i => d.setCtx (i / 4) (i % 4) { d.ctx (i / 4) (i % 4) with tileNo := none }) d

/-- Steps 8's end to 10: shadows copied, what LOAD computes shown, the checks applied, and the mode entered. -/
def Dev.loadFinish (d : Dev) : Dev :=
  let d := d.shadowsCopy.demandShow.staggerShow.countsFresh
  let d := { d with spr := { d.spr with loadEnd := d.now } }
  let done (d : Dev) : Dev := d.raise F.PWR_FLAG_MODE_DONE
  match d.loadReject with
  | some (c, i) =>
    let d := (d.mark F.CFG_STAT_REJECT true).raise F.CFG_FLAG_CFG_REJECT
    done (((d.put F.CFG_REJ (c + 65536 * i)).heldStart false).serviceEnter false)
  | none =>
    let d := (d.mark F.CFG_STAT_REJECT false).mark F.CFG_STAT_UNCHECKED false
    if d.on F.CFG_CTRL_AUTOSTART ∧ ¬ d.on F.CFG_STAT_DEFAULTS then
      done (((d.put F.PWR_MODE_CUR 3).rckStart).heldStart true)
    else done ((d.heldStart false).serviceEnter false)

/-! ### The commands -/

/-- Device time at the start of LOAD: the Almanac's, or 0 (R225, R349). -/
def Dev.timeStart (d : Dev) : Dev :=
  let t : Int := if d.on F.ALM_STAT_VALID then (d.alm.sec : Int) * 1000000000 + (d.alm.sub * 1000000000 / 32768 : Nat) else 0
  { d.puti F.MER_TIME t with mer := { d.mer with frac := 0 } }

/-- Step 1: the rails are good, and the boot ROM runs (R288, R298). -/
def Dev.bootStart (d : Dev) : Dev :=
  let d := { d with pwr := { d.pwr with bootDue := false, en := 0xFF, pg := 0xFF, goodAt := d.now } }
  (((d.mark F.PWR_STAT_SEQ_DONE true).mark F.SVC_STAT_PRESENCE d.pwr.present).put F.PWR_MODE_CUR 2).timeStart.coresShow

/-- Step 3: 8D-8D-8D where the header asks for it and reads back alike; otherwise NV_SLOW (R288). -/
def Dev.octalEnter (d : Dev) (h : List Byte) (ok : Bool) : Dev :=
  if ! bitOf (leAt h 14 1) 0 then d
  else if ok then d.mark F.CFG_STAT_OCTAL true
  else d.raise F.CFG_FLAG_NV_SLOW

/-- A check has failed: factory defaults, and SERVICE (R289). Of the links only the chain's, for its relay. -/
def Dev.bootFails (d : Dev) (f : BootFail) (tr : Training) : Dev :=
  let d := (d.factoryDefaults f).linksUp { tr with eyes := [] } none
  let d := { d with spr := { d.spr with loadEnd := d.now } }
  (d.serviceEnter false).raise F.PWR_FLAG_MODE_DONE

/-- The checks have passed: the record in use, and a rolling reload that LOAD completes (R318, R328). -/
def Dev.bootPasses (d : Dev) (h r : List Byte) (copy : Nat) : Dev :=
  let d := { d with svc := { d.svc with copy := copy, record := r, actStep := if recReload r then 5 else 0 }
                    pwr := { d.pwr with header := h } }
  (d.put F.CFG_IMG_VER (imageVersion h)).recShow

/-- PIPE into every pipeline that is powered, and HELM on H0 to H3 (R288, steps 6 and 8). -/
def Dev.enginesLoad (d : Dev) : Dev :=
  { d with spr := { d.spr with loaded := (List.range 17).filter (fun n => d.powered (8 + n)) } }
def Dev.helmStart (d : Dev) : Dev := [0, 1, 2, 3].foldl (fun (d : Dev) h => d.runWrite h true) d

/-- The time that LOAD took: at most 3 s, free below (R288, R302; DESIGN CHOICE, log entry 5).
DEDUCED, log entry 85. -/
def Dev.loadTime (d : Dev) : Dev :=
  let f := d.draw
  let ms := f.1.toNat % 3001
  (f.2.reach (d.pwr.goodAt + 1000000 * ms)).put F.CFG_LOAD_TIME ms

/-- The segment number that the BANK record gives (R307). -/
def Dev.recordSeg (d : Dev) : Option Nat :=
  if ! d.svc.record.isEmpty && recSegSet d.svc.record then some (recSeg d.svc.record) else none

/-- Steps 5 and 6: the loader placed, SRAM repaired, REGS, TABLES and CALIB applied (R284, R288). -/
def Work.bootApply (w : Work) (h r : List Byte) : Work :=
  let w := (w.loaderPlace h r).repairLoad h
  ((w.applySection h 7).applySection h 8).calibLoad h

/-- Steps 5 to 10. A SYS_RST that the image writes ends the boot: the next one is due. -/
def Work.bootRun (w : Work) (h r : List Byte) (tr : Training) : Work :=
  let w := w.bootApply h r
  if w.dev.pwr.bootDue then w
  else
    let w := w.logInit
    w.on (fun d =>
      let d := { d with pwr := { d.pwr with voutMode := tr.vmode } }.enginesLoad
      let d := d.logRecord 0x01 [BitVec.ofNat 8 d.pwr.cause, BitVec.ofNat 8 (d.val F.SYS_RST_CAUSE)]
      let d := ((d.dramTrain tr).helmStart).linksUp tr d.recordSeg
      d.loadTime.loadC.loadFinish)

/-- The boot sequence (R288). -/
def Work.boot (w : Work) (tr : Training) : Work :=
  let w := w.on (fun d => d.bootStart)
  let h := w.peeksNv 0 512
  match headerFault h tr.flash with
  | some f => w.on (fun d => (if f.code = 5 then d.octalEnter h tr.octal else d).bootFails f tr)
  | none =>
    let w := w.on (fun d => d.octalEnter h tr.octal)
    match w.imageCheck h with
    | .inl f => w.on (fun d => { d with pwr := { d.pwr with header := h } }.bootFails f tr)
    | .inr (c, r) => (w.on (fun d => d.bootPasses h r c)).bootRun h r tr

/-- A boot is due: every rail is good after a reset (R288, R298). -/
def Dev.bootReady (d : Dev) : Bool :=
  d.pwr.bootDue && ! d.pwr.dormant && d.pwr.seqRail.isNone && d.pwr.failAt.isNone && ! d.pwr.heldLow && ! d.pwr.hot

/-- POWER_GOOD (R288). -/
def execPowerGood (tr : Training) (s : State) : Host.Outcome State Fault Refusal :=
  onWork (fun w => if w.dev.bootReady then w.boot tr else w) s

/-- Steps 7 to 10 on the registers as they stand (R290). DEDUCED, log entry 88. -/
def Dev.reloadRun (d : Dev) (tr : Training) : Dev :=
  let d := { d with pwr := { d.pwr with reloadDue := false, badEntry := none } }
  let d := (d.dramTrain tr).linksUp tr d.recordSeg
  (d.put F.CFG_LOAD_TIME ((d.now - d.pwr.goodAt) / 1000000)).loadFinish

/-- RELOAD (R290): the RELOAD that CFG_CTRL asked for runs. -/
def execReload (tr : Training) (s : State) : Host.Outcome State Fault Refusal :=
  onDev (fun d => if d.pwr.reloadDue ∧ d.mode = 2 then d.reloadRun tr else d) s

end Sys2Proof.Machine
end

