-- ==== Sys2Proof/Machine/Chart.lean ====
section
/-! DEFINITION. CHART_ROW: the row that every plane has decided is assembled and delivered to segmentation and to the
capture taps (R143 to R156, R165, R166, R181, R210). -/
namespace Sys2Proof.Machine

/-- The tree banks change places at a TILE hand-over, from emission row `k` on (R181). -/
def Dev.treeTile (d : Dev) (k : Int) : Dev :=
  if ! d.on F.SEG_STAT_SWAP_PEND then d
  else
    let act := d.reg R.SEG_TREE_ACT
    let d := (d.setReg R.SEG_TREE_ACT (d.reg R.SEG_TREE_IDLE)).setReg R.SEG_TREE_IDLE act
    let d := (d.mark F.SEG_STAT_SWAP_PEND false).put F.SEG_STAT_TREE_BANK (1 - d.val F.SEG_STAT_TREE_BANK)
    { d with seg := { d.seg with swapRow := some k } }

/-- The TILE hand-over of the Chart at row `k` (R153 to R156, R181). -/
def Dev.chartTile (d : Dev) (k : Int) : Dev :=
  let r := d.stcTile k
  if r.2 then r.1.treeTile k else r.1

/-- A row reaches a slice's placement: it waits in the slice's FIFO, or is skipped where that is full (R165). -/
def Dev.placeRow (d : Dev) (s : Nat) (p : Placement) (row : ChartRow) : Dev × Placement :=
  if (d.slice s).waits < 32 then (d, { p with fifo := p.fifo ++ [row] })
  else
    let d := (d.raise (F.SEG_Ss_FLAG_ROW_SKIP s)).inc (F.SEG_Ss_ROW_SKIP_CNT s)
    let ovsp (a : Acc) : Acc := { a with flags := { a.flags with ovsp := true } }
    (d.fgReport { k := row.k, slice := s, all := true, weak := [] },
     { p with skips := p.skips ++ [row.k], comps := p.comps.map (fun c => { c with acc := c.acc.map ovsp }) })

/-- A row delivered to a slice: from row P of a slice move on to the target (R165, R174). -/
def Dev.deliver (d : Dev) (row : ChartRow) (s : Nat) : Dev :=
  let x := d.slice s
  let late : Bool := match d.sliceMig s with
    | some g => ! g.drained && decide (g.p ≤ row.k)
    | none => false
  match x.tgt with
  | some t =>
    if late then
      let r := d.placeRow s t row
      (r.1.setSlice s { r.1.slice s with tgt := some r.2 }).sliceShow s
    else
      let r := d.placeRow s x.cur row
      (r.1.setSlice s { r.1.slice s with cur := r.2 }).sliceShow s
  | none =>
    let r := d.placeRow s x.cur row
    (r.1.setSlice s { r.1.slice s with cur := r.2 }).sliceShow s

/-- A row goes to every slice; with segmentation off its foreground bits are 1 (R166, R184). -/
def Dev.segRow (d : Dev) (row : ChartRow) : Dev :=
  if d.runs F.SEG_CTRL_EN F.SEG_STAT_IDLE then
    let t : RowTimes := { k := row.k, time := row.time, cols := row.cols.map (·.time) }
    let d := { d with seg := { d.seg with times := d.seg.times ++ [t] } }
    d.slices.foldl (fun (d : Dev) s => d.deliver row s) d
  else { d with seg := { d.seg with fgBits := d.seg.fgBits ++ d.cams.map (fun s => (row.k, s, true)) } }

/-- The Chart row `k` assembled (R147 to R156): the block after it, and the row. -/
def Dev.chartRow (d : Dev) (k : Int) (lateReads : List Nat) : Dev × ChartRow :=
  let d := lateReads.foldl (fun (d : Dev) i => d.lateRead k i) d
  let r := (d.chartTile k).stitch k
  let d := r.1.puti F.STC_ROW k
  (({ d with stc := { d.stc with nextRow := some (k + 1) } }.dropRows k).segRow r.2, r.2)

/-- CHART_ROW (R143 to R156, R165, R166, R210); `lateReads` are the planes, stream × 4 + plane, whose ring read came
too late (R147). -/
def execChartRow (lateReads : List Nat) (st : State) : Host.Outcome State Fault Refusal :=
  onWork (fun w =>
    let w := w.on (fun d => d.trigFollow)
    match w.dev.stc.nextRow with
    | none => w
    | some k =>
      if w.dev.mode ≠ 3 ∨ ! w.dev.rowReady k then w
      else
        let w := w.ringRows k lateReads
        let r := w.dev.chartRow k lateReads
        (List.range 8).foldl (fun (w : Work) t => w.tapRow t r.2) (w.on (fun _ => r.1))) st

end Sys2Proof.Machine
end

