-- ==== Sys2Proof/Machine/Hart.lean ====
section
/-! DEFINITION. Reads and writes as their ports make them: physical memory protection, access faults, reservations and
atomics of the cores (R261, R262, R264), and the commands that write and read registers (R2, R4, R8). -/
namespace Sys2Proof.Machine

/-! ### Physical memory protection (R261) -/

/-- What a core uses a location for. -/
inductive Use where
  | fetch | load | store | reserve | conditional | amo
  deriving DecidableEq, Repr

/-- LR, SC and AMOs (R262). -/
def Use.atomic : Use → Bool
  | .reserve | .conditional | .amo => true
  | _ => false

/-- The access fault of its kind (R262). -/
def Use.cause : Use → Nat
  | .fetch => 1
  | .load | .reserve => 5
  | _ => 7

/-- The address-misaligned exception of its kind. -/
def Use.misaligned : Use → Nat
  | .fetch => 0
  | .load | .reserve => 4
  | _ => 6

/-- The configuration byte of PMP entry `i`: R, W, X, A in 4:3, L in 7. -/
def Core.pmpCfg (c : Core) (i : Nat) : Nat := (tabGet 0 c.pmpcfg (2 * (i / 8))).toNat / 2 ^ (8 * (i % 8)) % 256

/-- The bytes that PMP entry `i` names, from the first to below the second: off, from the entry before (TOR), four
bytes (NA4), or a power of two given by the trailing ones (NAPOT). -/
def Core.pmpRange (c : Core) (i : Nat) : Option (Nat × Nat) :=
  let at' (j : Nat) : Nat := (tabGet 0 c.pmpaddr j).toNat % 2 ^ 54
  let a := at' i
  match c.pmpCfg i / 8 % 4 with
  | 0 => none
  | 1 => some (if i = 0 then 0 else 4 * at' (i - 1), 4 * a)
  | 2 => some (4 * a, 4 * a + 4)
  | _ =>
    let k := ((List.range 54).takeWhile (fun b => a.testBit b)).length
    let base := 4 * (a / 2 ^ (k + 1) * 2 ^ (k + 1))
    some (base, base + 2 ^ (k + 3))

/-- The first PMP entry that names a byte of an access. -/
def Core.pmpEntry (c : Core) (a n : Nat) : Option Nat :=
  (List.range 16).find? (fun i =>
    match c.pmpRange i with
    | some r => decide (a < r.2 ∧ r.1 < a + n)
    | none => false)

/-- The mode an access is judged in: for data under MPRV the one in MPP. -/
def Core.judgedUser (c : Core) (u : Use) : Bool :=
  c.user || (u != .fetch && c.mstatus.getLsbD 17 && fieldOf c.mstatus 11 2 != 3)

/-- PMP lets the access pass: in user mode an entry must grant it, in machine mode only a locked entry limits it, and an
entry that names a part of the access alone never does (R262). -/
def Core.pmpOk (c : Core) (u : Use) (a n : Nat) : Bool :=
  match c.pmpEntry a n with
  | none => ! c.judgedUser u
  | some i =>
    let whole := match c.pmpRange i with
      | some r => decide (r.1 ≤ a ∧ a + n ≤ r.2)
      | none => false
    let p := c.pmpCfg i
    let grants := match u with
      | .fetch => bitOf p 2
      | .load | .reserve => bitOf p 0
      | .store | .conditional => bitOf p 1
      | .amo => bitOf p 0 && bitOf p 1
    whole && (grants || (! c.judgedUser u && ! bitOf p 7))

/-- An access of a port passes the protection of the core that makes it; a port that is no core has none. -/
def Dev.passes (d : Dev) (port : Nat) (u : Use) (a n : Nat) : Bool := decide (5 ≤ port) || (d.core port).pmpOk u a n

/-! ### Access faults (R262) -/

/-- The core's tightly coupled memory that holds a byte. -/
def Place.tcm : Place → Option Nat
  | .mem p => if p < 0x8000000 ∨ 0x8A00000 ≤ p then none else some ((p - 0x8000000) / 0x200000)
  | _ => none

/-- A use can be made of a place: fetch from ITCM, boot ROM, shared SRAM and DRAM, atomics in TCM and shared SRAM,
the rest wherever something stands (R262). -/
def Use.ok (u : Use) (p : Place) : Bool :=
  match u, p with
  | _, .nothing => false
  | .fetch, .peri => false
  | .fetch, .mem x => x < 0x8000000 || 0x8A00000 ≤ x || decide ((x - 0x8000000) % 0x200000 < 0x10000)
  | .fetch, .rom => true
  | .load, _ => true
  | .store, _ => true
  | _, .mem x => decide (x < 0x10800000)
  | _, _ => false

/-- An access of core `h` that memory does not take naturally aligned: an atomic ends with the misaligned exception or
the access fault, any other is carried out or ends with the misaligned exception. The standard leaves open which: free
(log entry 132). A peripheral window has its own rule (R2). -/
def Dev.unaligned (d : Dev) (u : Use) (a n : Nat) : Dev × Option Nat :=
  if a % n = 0 ∨ u = .fetch ∨ d.place a = .peri then (d, none)
  else
    let f := d.draw
    (f.2, if f.1.getLsbD 0 then some u.misaligned else if u.atomic then some u.cause else none)

/-- The exception, if any, of an access of core `h` to `n` bytes at `a`. An address with nothing behind it sets BUS_ERR,
one of DRAM beyond the usable capacity is no fault (R236, R262). DEDUCED, log entry 132. -/
def Dev.accessFault (d : Dev) (h : Nat) (u : Use) (a n : Nat) (tcm : TcmCheck) : Dev × Option Nat :=
  if ! (d.core h).pmpOk u a n then (d, some u.cause)
  else
    let m := d.unaligned u a n
    if m.2.isSome then m
    else
      let d := m.1
      if d.rangeOk u.ok a n ∨ (d.beyond a n ∧ ! u.atomic) then
        match (d.place a).tcm, tcm with
        | some _, .bad => (d, some u.cause)
        | _, _ => (d, none)
      else
        (d.raiseIf (d.place a == .nothing || d.place (a + n - 1) == .nothing) (F.ICU_HLMh_FLAG_BUS_ERR h),
         some (if u.atomic then 7 else u.cause))

/-- What the check bits of a TCM word say goes to the flags of the core whose memory it is (R262). -/
def Dev.tcmShow (d : Dev) (a : Nat) (tcm : TcmCheck) : Dev :=
  match (d.place a).tcm, tcm with
  | some h, .bad => d.raise (F.ICU_HLMh_FLAG_TCM_UE h)
  | some h, .corrected => d.raise (F.ICU_HLMh_FLAG_TCM_CE h)
  | _, _ => d

/-- An exception of core `h`, at an address (R270). -/
def Dev.exception (d : Dev) (h cause a : Nat) : Dev :=
  let c := d.core h
  d.setCore h (c.trap (BitVec.ofNat 64 cause) (BitVec.ofNat 64 a) (c.vector false cause))

/-- An access through a port: a core's (code below 5) is made under its protection, and ends with its exception or with
`go`; another port has neither (R262). -/
def Work.access (w : Work) (port : Nat) (u : Use) (a n : Nat) (tcm : TcmCheck) (go : Work → Work) : Work :=
  if 5 ≤ port then go (w.on (fun d => d.tcmShow a tcm))
  else
    let f := w.dev.accessFault port u a n tcm
    let w := w.on (fun _ => f.1)
    match f.2 with
    | none => go (w.on (fun d => d.tcmShow a tcm))
    | some cause =>
      let w := if (w.dev.core port).pmpOk u a n then w.on (fun d => d.tcmShow a tcm) else w
      w.on (fun d => d.exception port cause a)

/-! ### Atomics (R262) -/

/-- The 64-byte granule of memory that an address names. -/
def Dev.granuleOf (d : Dev) (a : Nat) : Option Nat :=
  match d.place a with
  | .mem p => some (p / 64)
  | _ => none

/-- What an AMO leaves in memory, of the value it found and its operand, `8 n` bits wide. -/
def amoResult (o : AmoOp) (n : Nat) (old v : BitVec 64) : BitVec 64 :=
  let x := old.toNat % 2 ^ (8 * n)
  let y := v.toNat % 2 ^ (8 * n)
  let sx := toSigned (8 * n) x
  let sy := toSigned (8 * n) y
  match o with
  | .swap => v
  | .add => old + v
  | .xor => old ^^^ v
  | .and => old &&& v
  | .or => old ||| v
  | .min => if sx ≤ sy then old else v
  | .max => if sx ≤ sy then v else old
  | .minu => if x ≤ y then old else v
  | .maxu => if x ≤ y then v else old

/-- What the last read or atomic answered: its low word, and of eight bytes the upper one. -/
def Dev.answered (d : Dev) : BitVec 64 := d.rdataHi ++ d.rdata
def Dev.answerWith (d : Dev) (v : BitVec 64) : Dev :=
  { d with rdata := v.extractLsb' 0 32, rdataHi := v.extractLsb' 32 32 }

/-- A write through a port. -/
def Work.portWrite (w : Work) (port a n : Nat) (v : BitVec 64) (kind : WriteKind) (tcm : TcmCheck) : Work :=
  match kind with
  | .plain => w.access port .store a n tcm (fun w => w.busWrite port a n v)
  | .conditional =>
    w.access port .conditional a n tcm (fun w =>
      let held := (w.dev.core port).resv
      let w := w.on (fun d => d.setCore port { d.core port with resv := none })
      if held.isSome ∧ held = w.dev.granuleOf a then (w.busWrite port a n v).on (fun d => d.answerWith 0)
      else w.on (fun d => d.answerWith 1))
  | .amo o =>
    w.access port .amo a n tcm (fun w =>
      let w := w.busRead a n
      w.busWrite port a n (amoResult o n w.dev.answered v))

/-- A read through a port. -/
def Work.portRead (w : Work) (port a n : Nat) (kind : ReadKind) (tcm : TcmCheck) : Work :=
  match kind with
  | .plain => w.access port .load a n tcm (fun w => w.busRead a n)
  | .fetch => w.access port .fetch a n tcm (fun w => w.busRead a n)
  | .reserve =>
    w.access port .reserve a n tcm (fun w =>
      (w.busRead a n).on (fun d => d.setCore port { d.core port with resv := d.granuleOf a }))

/-! ### The commands -/

/-- REGISTER_WRITE (R2). -/
def execRegisterWrite (writer addr size : Nat) (data : BitVec 64) (s : State) (kind : WriteKind := .plain)
    (tcm : TcmCheck := .good) : Host.Outcome State Fault Refusal :=
  onWork (fun w => w.portWrite writer addr size data kind tcm) s

/-- LO_READ (R4), and any other read (R2, R3). -/
def execLoRead (reader addr : Nat) (s : State) (size : Nat := 4) (kind : ReadKind := .plain) (tcm : TcmCheck := .good) :
    Host.Outcome State Fault Refusal :=
  onWork (fun w => w.portRead reader addr size kind tcm) s

/-- LO_WRITE (R4): the half is staged. At an address that is no _LO register it is an ordinary write. -/
def execLoWrite (writer addr : Nat) (data : Word) (s : State) : Host.Outcome State Fault Refusal :=
  onWork (fun w => w.portWrite writer addr 4 (data.setWidth 64) .plain .good) s

/-- HI_WRITE (R4): both halves are committed. At an address that is no _HI register it is an ordinary write. -/
def execHiWrite (writer addr : Nat) (data : Word) (s : State) : Host.Outcome State Fault Refusal :=
  onWork (fun w => w.portWrite writer addr 4 (data.setWidth 64) .plain .good) s

/-- SHADOW_WRITE (R8). At an address that is no shadow it is an ordinary write. -/
def execShadowWrite (writer addr : Nat) (data : Word) (s : State) : Host.Outcome State Fault Refusal :=
  onWork (fun w => w.portWrite writer addr 4 (data.setWidth 64) .plain .good) s

end Sys2Proof.Machine
end

