-- ==== Sys2Proof/Machine/Service.lean ====
section
/-! DEFINITION. The service port, relayed commands, presence, and the commands themselves but for field update
(R311 to R316). -/
namespace Sys2Proof

/-- The fields of a service frame (R312). -/
def SvcFrame.cmd (f : SvcFrame) : Nat := Machine.leAt f.bytes 0 1
def SvcFrame.tag (f : SvcFrame) : Nat := Machine.leAt f.bytes 1 1
def SvcFrame.dest (f : SvcFrame) : Nat := Machine.leAt f.bytes 2 2
def SvcFrame.len (f : SvcFrame) : Nat := Machine.leAt f.bytes 4 4
def SvcFrame.payload (f : SvcFrame) : List Byte := (f.bytes.take (f.bytes.length - 4)).drop 8
def SvcFrame.bcast (f : SvcFrame) : Bool := f.dest.testBit 15

/-- The CRC closes the frame rightly. -/
def SvcFrame.crcGood (f : SvcFrame) : Bool :=
  let n := f.bytes.length - 4
  decide (12 ≤ f.bytes.length) && Machine.crc32c (f.bytes.take n) == Machine.leAt f.bytes n 4

end Sys2Proof

namespace Sys2Proof.Machine

/-- A service frame as it is sent (R312). -/
def svcBytes (cmd tag dest : Nat) (payload : List Byte) : List Byte :=
  let b := bytesLE 1 cmd ++ bytesLE 1 tag ++ bytesLE 2 dest ++ bytesLE 4 payload.length ++ payload
  b ++ bytesLE 4 (crc32c b)

/-- The source number of the chain at a queue. -/
def relaySrc : Nat := 0x5000

/-! ### Answers (R312, R313) -/

/-- Bytes of a response on their way to who asked. -/
def Dev.replyTo (d : Dev) (a : Asker) (bs : List Byte) : Dev :=
  match a with
  | .port => d.emit (.port bs)
  | .fw => d.queBytes (d.val F.CHN_CFG_RXQ) relaySrc 0x0B bs
  | .unit p hop => d.chainOut p (d.frameTo 0x08 hop (toWords (bs.length / 8 + 1) bs))

/-- A command answered with a status and data; every status other than OK counts. DEDUCED, log entry 104. -/
def Dev.answer (d : Dev) (r : SvcRun) (status : Nat) (data : List Byte) : Dev :=
  let d := if status = 0 then d else d.inc F.SVC_ERR_CNT
  d.replyTo r.by' (svcBytes (r.cmd % 128 + 128) r.tag r.dest (bytesLE 1 status ++ data))

/-- A command that a rule of the chapter forbids now. -/
def Dev.svcRefuse (d : Dev) (r : SvcRun) : Dev := (d.raise F.SVC_FLAG_REFUSED).answer r 4 []

/-- BUSY follows the command that runs, and a port that drains stops with it. -/
def Dev.runSet (d : Dev) (r : Option SvcRun) : Dev :=
  ({ d with svc := { d.svc with run := r } }.mark F.SVC_STAT_BUSY r.isSome).svcPortSettle

/-- The command that runs is stopped before its commit point (R314). -/
def Dev.presenceStop (d : Dev) (r : SvcRun) : Dev :=
  let d := { d with svc := { d.svc with helm := [] } }.runSet none
  (d.raise F.SVC_FLAG_PRES_LOST).answer r 3 []

/-! ### Admission (R312 to R315) -/

def knownCmd (c : Nat) : Bool := decide (1 ≤ c ∧ c ≤ 5 ∨ 0x10 ≤ c ∧ c ≤ 0x17)

/-- A privileged command (R313). -/
def privCmd (c : Nat) : Bool := decide (0x10 ≤ c ∧ c ≤ 0x17)

/-- A command that a broadcast may carry (R312). -/
def bcastCmd (c : Nat) : Bool := c == 0x01 || c == 0x11 || c == 0x13

/-- The payload has a length that its command takes (R313). -/
def lengthGood (c : Nat) (p : List Byte) : Bool :=
  let n := p.length
  if c = 0x02 then n == 10 && decide (1 ≤ leAt p 8 2 ∧ leAt p 8 2 ≤ 1024)
  else if c = 0x03 then decide (12 ≤ n) && n % 4 == 0
  else if c = 0x10 ∨ c = 0x17 then n == 1
  else if c = 0x11 then decide (5 ≤ n ∧ n ≤ 4100)
  else if c = 0x13 then n == 8
  else n == 0

/-- The frame as a whole is one that a command can have: its LEN, its code, its payload, and what a broadcast may
carry. -/
def SvcFrameGood (f : SvcFrame) : Bool :=
  f.len == f.payload.length && decide (f.len ≤ 4104) && knownCmd f.cmd && lengthGood f.cmd f.payload
    && (! f.bcast || bcastCmd f.cmd)

/-! ### READ, WRITE and the plain commands (R313) -/

/-- An access sets the access-error flag. -/
def Work.errs (w : Work) (f : Work → Work) : Bool :=
  (f (w.on (fun d => d.put F.SYS_FLAG_ACCESS_ERR 0))).dev.on F.SYS_FLAG_ACCESS_ERR

/-- `k` words read from `a` on: their bytes, and whether every access went well. -/
def Work.readWords : Nat → Nat → Work → Work × List Byte × Bool
  | 0, _, w => (w, [], true)
  | k + 1, a, w =>
    let bad := w.errs (fun w => w.busRead a 4)
    let w := w.busRead a 4
    if bad then (w, [], false)
    else
      let r := Work.readWords k (a + 4) w
      (r.1, bytesLE 4 w.dev.rdata.toNat ++ r.2.1, r.2.2)

/-- The words of a payload written from `a` on, up to the first access that fails, or to one that resets the unit
(`due`: a boot was due already). -/
def Work.writeWords (writer : Nat) (due : Bool) : List Nat → Nat → Work → Work × Bool
  | [], _, w => (w, true)
  | v :: t, a, w =>
    let put (w : Work) : Work := w.busWrite writer a 4 (BitVec.ofNat 64 v)
    let bad := w.errs put
    let w := put w
    if bad then (w, false)
    else if w.dev.pwr.bootDue && ! due then (w, true)
    else Work.writeWords writer due t (a + 4) w

/-- The producer code of a service command's writes (R311). -/
def Asker.writer : Asker → Nat
  | .port => 0x0A
  | _ => 0x0B

/-- PING (R313). The widths of the answer's fields are those of the values (DESIGN CHOICE, log entry 36). -/
def Dev.svcPing (d : Dev) (r : SvcRun) : Dev :=
  d.answer r 0 (bytesLE 8 (d.val F.CHN_UID) ++ bytesLE 2 d.unitAddr ++ bytesLE 1 d.mode ++ bytesLE 4 (d.word R.SVC_STAT))

/-- READ (R313): a word that fails ends it with ACCESS and no data. -/
def Work.svcRead (w : Work) (r : SvcRun) (p : List Byte) : Work :=
  let x := Work.readWords (leAt p 8 2) (leAt p 0 8) w
  x.1.on (fun d => if x.2.2 then d.answer r 0 x.2.1 else d.answer r 5 [])

/-- WRITE (R313). A write that resets the unit gets no answer. -/
def Work.svcWrite (w : Work) (r : SvcRun) (p : List Byte) : Work :=
  let vs := (List.range ((p.length - 8) / 4)).map (fun i => leAt p (8 + 4 * i) 4)
  let due := w.dev.pwr.bootDue
  let x := Work.writeWords r.by'.writer due vs (leAt p 0 8) w
  if x.1.dev.pwr.bootDue ∧ ¬ due then x.1 else x.1.on (fun d => d.answer r (if x.2 then 0 else 5) [])

/-- STATUS (R313). Where no BANK record is in use its bytes are free (DESIGN CHOICE, log entry 5). -/
def Work.svcStatus (w : Work) (r : SvcRun) : Work :=
  let f := if w.dev.svc.record.isEmpty then w.freeBytes 512 else (w, w.dev.svc.record)
  f.1.on (fun d => d.answer r 0 (f.2 ++ bytesLE 4 (d.word R.SVC_STAT) ++ bytesLE 4 (d.val F.SVC_EPOCH) ++ bytesLE 4 (d.val F.SVC_PAGES)))

/-- RESET (R313, R295): the response first. -/
def Work.svcReset (w : Work) (r : SvcRun) : Work := (w.on (fun d => d.answer r 0 [])).resetBy 6

/-- A command that writes a new BANK record, where one is in use. DEDUCED, log entry 105. -/
def Work.withRecord (w : Work) (r : SvcRun) (f : List Byte → List Byte) : Work :=
  if w.dev.svc.record.isEmpty then w.on (fun d => d.svcRefuse r)
  else (w.recCommit (f w.dev.svc.record)).on (fun d => d.answer r 0 [])

/-- SET_ADDRESS (R307, R313). -/
def Work.svcSetAddress (w : Work) (r : SvcRun) (p : List Byte) : Work :=
  w.withRecord r (fun b => recFlag (setBytes b 11 (p.take 1)) 3 true)

/-- ERASE_CAL (R313): the store's records go, its first 4 KiB stay (DEDUCED, log entry 37). -/
def Work.svcEraseCal (w : Work) (r : SvcRun) : Work :=
  let w := match sectOf w.dev.pwr.header 9 0 with
    | some (_, x) => w.pokesNv (x.off + 4096) (List.replicate (x.len - 4096) nvInit)
    | none => w
  w.on (fun d => d.answer r 0 [])

/-! ### Presence (R314, R315) -/

/-- Presence is lost: the command of this unit's own port or firmware stops before its commit point, and the units
that run a forwarded one are told. -/
def Dev.presenceGone (d : Dev) : Dev :=
  let d := match d.svc.run with
    | some r => match r.by' with
      | .unit _ _ => d
      | _ => d.presenceStop r
    | none => d
  d.chn.relayed.foldl (fun (d : Dev) x =>
    if x.priv then
      let f := mkFrame 0x09 (x.dest % 2 ^ 14 + (if x.dest.testBit 15 then 2 ^ 15 else 0)) d.hop [BitVec.ofNat 64 x.tag]
      (d.chainOut .chu f).chainOut .chd f
    else d) d

/-- PRESENCE (R314): the level taken, after 1 ms at it. -/
def execPresence (low : Bool) (s : State) : Host.Outcome State Fault Refusal :=
  onDev (fun d =>
    let d := { d with pwr := { d.pwr with present := low } }
    if d.pwr.dormant then d
    else
      let was := d.on F.SVC_STAT_PRESENCE
      let d := d.mark F.SVC_STAT_PRESENCE low
      if was && ! low then d.presenceGone else d) s

/-- PRES_LOST (R315): it stops the command of its TAG that the sender asked for and that has not committed. -/
def Dev.presLostIn (d : Dev) (p : Side) (f : ChainFrame) : Dev :=
  let x := d.chainIn p f 0x09 id
  let d := x.1
  if ! x.2 then d
  else
    match d.svc.run with
    | some r =>
      match r.by' with
      | .unit _ hop => if hop = f.srcHop ∧ r.tag = (f.words.getD 0 0).toNat % 256 then d.presenceStop r else d
      | _ => d
    | none => d

/-- PRES_LOST (R315). -/
def execPresLost (side : Side) (f : ChainFrame) (s : State) : Host.Outcome State Fault Refusal :=
  onDev (fun d => d.presLostIn side f) s

/-! ### Relay (R311) -/

/-- A command carried to another unit, or to every unit of its segment. It leaves on both ports, since either may lead
to its target (R305; DEDUCED, log entry 39). -/
def Dev.relayOut (d : Dev) (a : Asker) (f : SvcFrame) : Dev :=
  let priv := privCmd f.cmd
  let dest := f.dest % 2 ^ 14 + (if priv then 2 ^ 14 else 0) + (if f.bcast then 2 ^ 15 else 0)
  let g := mkFrame 0x07 dest d.hop (toWords (f.bytes.length / 8 + 1) f.bytes)
  let d := (d.chainOut .chu g).chainOut .chd g
  { d with chn := { d.chn with relayed := d.chn.relayed ++
    [{ dest := f.dest, tag := f.tag, cmd := f.cmd, fw := a == .fw, sentAt := d.now, priv := priv }] } }

/-- A response comes back (R311). -/
def Dev.rspIn (d : Dev) (p : Side) (f : ChainFrame) : Dev :=
  let x := d.chainIn p f 0x08 id
  let d := x.1
  let bs := f.bytes.take (leAt f.bytes 4 4 + 12)
  let isIt (e : Relayed) : Bool :=
    e.tag == leAt bs 1 1 && e.cmd == leAt bs 0 1 % 128
      && (e.dest.testBit 15 || e.dest % 2 ^ 14 == d.segNo * 64 + f.srcHop)
  if ! x.2 then d
  else
    match d.chn.relayed.find? isIt with
    | none => d
    | some e =>
      let d := if e.dest.testBit 15 then d
        else { d with chn := { d.chn with relayed := d.chn.relayed.filter (fun y => y != e) } }
      d.replyTo (if e.fw then .fw else .port) bs

/-- SVC_RSP (R311). -/
def execSvcRsp (side : Side) (f : ChainFrame) (s : State) : Host.Outcome State Fault Refusal := onDev (fun d => d.rspIn side f) s

/-- NO_UNIT (R311): 10 ms without a response. A broadcast is over then. -/
def execNoUnit (s : State) : Host.Outcome State Fault Refusal :=
  onDev (fun d =>
    match d.chn.relayed with
    | [] => d
    | e :: t =>
      let d := { d.reach (e.sentAt + 10000000) with chn := { d.chn with relayed := t } }
      if e.dest.testBit 15 then d
      else d.answer { cmd := e.cmd, tag := e.tag, dest := e.dest, by' := if e.fw then .fw else .port } 6 []) s

/-- SVC_FRAME_PAUSE (R312). -/
def execSvcFramePause (s : State) : Host.Outcome State Fault Refusal :=
  onDev (fun d => d.raiseIf (d.runs F.SVC_CTRL_EN F.SVC_STAT_IDLE) F.SVC_FLAG_FRAME_ERR) s

end Sys2Proof.Machine
end

