-- ==== Sys2Proof/Machine/Update.lean ====
section
/-! DEFINITION. Field update: staging, activation, fall-back, confirmation, the rolling reload, and the commands of the
service port by name (R311 to R328). -/
namespace Sys2Proof.Machine

/-! ### Rules on versions (R319, R324) -/

/-- The bank that is not active. -/
def Dev.idleBank (d : Dev) : Nat := 1 - recBank d.svc.record

/-- A section of a bank. -/
def Dev.region (d : Dev) (type bank : Nat) : Option Sect := (sectOf d.pwr.header type bank).map (·.2)

/-- The epoch and version rules (R324). -/
def Dev.versionOk (d : Dev) (epoch version : Nat) : Bool :=
  decide (d.otp.epoch ≤ epoch)
    && ! (epoch == recFloorEpoch d.svc.record && decide (version < recFloorVersion d.svc.record))

/-- Epoch and version of a bank: its manifest's, or the image's where the record holds none (R319). -/
def Dev.bankVersion (d : Dev) (bank : Nat) : Nat × Nat :=
  match recManifest d.svc.record bank with
  | some m => (manifestEpoch m, manifestVersion m)
  | none => (imageEpoch d.pwr.header, imageVersion d.pwr.header)

/-! ### Staging (R317, R320) -/

/-- A part fits its region (R317, R320). -/
def Dev.partFits (d : Dev) (m : List Byte) (x : Part) : Bool :=
  bankedType x.type && x.off % 4096 == 0 && decide (4096 ≤ x.off ∧ x.off + x.len ≤ packageLength m)
    && (match d.region x.type d.idleBank with
      | some y => decide (x.len ≤ y.len)
      | none => false)

/-- The manifest passes its check and the rules. -/
def Dev.manifestTaken (d : Dev) (m : List Byte) : Bool :=
  let ps := manifestParts m
  manifestGood m && d.versionOk (manifestEpoch m) (manifestVersion m) && ps.all (fun x => d.partFits m x)
    && noPair (fun x y => x.type == y.type || overlap x.off x.len y.off y.len) ps

/-- A block as a number closed by a 1, so that equal numbers are equal blocks. -/
def blockKey (bs : List Byte) : Nat := natLE (bs ++ [1])

/-- Page `i` has arrived with these bytes. -/
def Dev.pageTaken (d : Dev) (i : Nat) (bs : List Byte) : Dev :=
  let d := { d with svc := { d.svc with pages := tabSet 0 d.svc.pages i (blockKey bs) } }
  d.put F.SVC_PAGES d.svc.pages.length

/-- A region of the inactive bank erased. -/
def Work.regionErase (w : Work) (t : Nat) : Work :=
  match w.dev.region t w.dev.idleBank with
  | some x => w.pokesNv x.off (List.replicate x.len nvInit)
  | none => w

/-- The part of a block that lies in a part of the package goes to its region. -/
def Work.blockWrite (w : Work) (off : Nat) (bs : List Byte) (x : Part) : Work :=
  let lo := max off x.off
  let hi := min (off + bs.length) (x.off + x.len)
  match w.dev.region x.type w.dev.idleBank with
  | some y => if lo < hi then w.pokesNv (y.off + (lo - x.off)) ((bs.drop (lo - off)).take (hi - lo)) else w
  | none => w

/-- A part that the manifest leaves out is copied from the active bank. -/
def Work.partCopy (w : Work) (t : Nat) : Work :=
  let d := w.dev
  match d.region t (recBank d.svc.record), d.region t d.idleBank with
  | some a, some b =>
    let n := min b.len ((w.sectPasses d.pwr.header d.svc.record a).getD a.len)
    w.pokesNv b.off (w.peeksNv a.off n)
  | _, _ => w

/-- The parts whose bytes in flash fail their CRC. -/
def Work.partsBad (w : Work) : List Part :=
  (manifestParts w.dev.svc.manifest).filter (fun x =>
    match w.dev.region x.type w.dev.idleBank with
    | some y => crc32c (w.peeksNv y.off x.len) != x.crc
    | none => true)

/-- A page that holds bytes of a part. -/
def pageOf (x : Part) (i : Nat) : Bool := overlap (4096 * i) 4096 x.off x.len

/-- The block is in. With the last page, the copies are made and each part is read back; the answer is the status
(R320, steps 4 and 5). -/
def Work.stageEnd (w : Work) (r : SvcRun) : Work :=
  let m := w.dev.svc.manifest
  if w.dev.svc.pages.length < divCeil (packageLength m) 4096 then w.on (fun d => d.answer r 0 [])
  else
    let absent := [1, 2, 3, 4, 5, 6].filter (fun t => ! (manifestParts m).any (fun x => x.type == t))
    let w := absent.foldl (fun (w : Work) t => w.partCopy t) w
    let bad := w.partsBad
    w.on (fun d =>
      if bad.isEmpty then (d.mark F.SVC_STAT_STAGED true).answer r 0 []
      else
        let d := { d with svc := { d.svc with pages := d.svc.pages.filter (fun e => ! bad.any (fun x => pageOf x e.1)) } }
        ((d.put F.SVC_PAGES d.svc.pages.length).raise F.SVC_FLAG_STAGE_ERR).answer r 8 [])

/-- The block at offset 0: a new manifest restarts staging (R320, step 1). -/
def Work.stageManifest (w : Work) (r : SvcRun) (bs : List Byte) : Work :=
  let d := w.dev
  if tabGet 0 d.svc.pages 0 = blockKey bs then w.on (fun d => d.answer r 0 [])
  else if bs.length < 32 ∨ bs.length < manifestSize bs ∨ bs.length ≠ min 4096 (packageLength bs) then
    w.on (fun d => d.answer r 1 [])
  else if ! d.manifestTaken bs then w.on (fun d => d.svcRefuse r)
  else
    let w := w.on (fun d =>
      let d := { d with svc := { d.svc with manifest := bs.take (manifestSize bs), pages := [] } }
      d.mark F.SVC_STAT_STAGED false)
    let w := [1, 2, 3, 4, 5, 6].foldl (fun (w : Work) t => w.regionErase t) w
    (w.on (fun d => d.pageTaken 0 bs)).stageEnd r

/-- A block of the package (R320, steps 2 and 3). -/
def Work.stageBlock (w : Work) (r : SvcRun) (off : Nat) (bs : List Byte) : Work :=
  let m := w.dev.svc.manifest
  let n := packageLength m
  let was := tabGet 0 w.dev.svc.pages (off / 4096)
  if off % 4096 ≠ 0 ∨ m.isEmpty ∨ n < off + bs.length ∨ bs.length ≠ min 4096 (n - off) then w.on (fun d => d.answer r 1 [])
  else if was = blockKey bs then w.on (fun d => d.answer r 0 [])
  else if was ≠ 0 then w.on (fun d => d.svcRefuse r)
  else
    let w := (manifestParts m).foldl (fun (w : Work) x => w.blockWrite off bs x) w
    (w.on (fun d => d.pageTaken (off / 4096) bs)).stageEnd r

/-- STAGE (R313, R320). -/
def Work.svcStage (w : Work) (r : SvcRun) (p : List Byte) : Work :=
  let off := leAt p 0 4
  if w.dev.svc.record.isEmpty ∨ ¬ recConfirmed w.dev.svc.record then w.on (fun d => d.svcRefuse r)
  else if off = 0 then w.stageManifest r (p.drop 4)
  else w.stageBlock r off (p.drop 4)

/-! ### Activation and fall-back (R321, R323, R324) -/

/-- The record that switches to the other bank, with the staged manifest or with the one it has (R321, step 2). -/
def Dev.switchRecord (d : Dev) (staged : Bool) : List Byte :=
  let b := d.idleBank
  let r := setBytes d.svc.record 8 [BitVec.ofNat 8 b]
  let r := if staged then setBytes r (32 + 152 * b) ((d.svc.manifest ++ List.replicate 152 0).take 152) else r
  recFlag (recFlag (recFlag r 0 false) 1 true) 2 false

/-- The staged package may be activated now. -/
def Dev.stagedOk (d : Dev) : Bool :=
  d.on F.SVC_STAT_STAGED && ! d.svc.record.isEmpty
    && d.versionOk (manifestEpoch d.svc.manifest) (manifestVersion d.svc.manifest)

/-- The other bank may be fallen back to: its version passes, it has what a bank must have, and its parts are good. -/
def Work.fallbackOk (w : Work) : Bool :=
  let d := w.dev
  let b := d.idleBank
  let v := d.bankVersion b
  ! d.svc.record.isEmpty && d.versionOk v.1 v.2 && [1, 2, 3].all (fun t => (d.region t b).isSome)
    && [1, 2, 3, 4, 5, 6].all (fun t =>
      match d.region t b with
      | some x => (w.sectPasses d.pwr.header d.svc.record x).isSome
      | none => true)

/-- Step 1: the new bank's HELM part, read and checked. -/
def Work.helmPart (w : Work) (staged : Bool) : Option (List Byte) :=
  match w.dev.region 2 w.dev.idleBank with
  | none => none
  | some x => (w.sectPasses w.dev.pwr.header (w.dev.switchRecord staged) x).map (fun n => w.peeksNv x.off n)

/-- Activation is allowed in INSPECT, HOLD and SERVICE. -/
def Dev.actMode (d : Dev) : Bool := d.mode == 3 || d.mode == 4 || d.mode == 5

/-- An armed activation is replaced (R323). -/
def Dev.disarm (d : Dev) : Dev := { d with svc := { d.svc with armed := none } }.mark F.SVC_STAT_ARMED false

/-- ACTIVATE and FALLBACK: step 1 of R321. The command runs on to its commit. DEDUCED, log entry 103. -/
def Work.svcActivate (w : Work) (r : SvcRun) (staged : Bool) : Work :=
  let ok := if staged then w.dev.stagedOk else w.fallbackOk
  if ! w.dev.actMode || ! ok then w.on (fun d => d.svcRefuse r)
  else
    match w.helmPart staged with
    | none => w.on (fun d => d.answer r 8 [])
    | some bs => w.on (fun d => { d.disarm with svc := { d.disarm.svc with helm := bs } }.runSet (some r))

/-- SCHEDULE_ACTIVATE (R323): step 1, then armed. -/
def Work.svcSchedule (w : Work) (r : SvcRun) (p : List Byte) : Work :=
  let t := leAt p 0 8
  if ! w.dev.actMode || ! w.dev.stagedOk then w.on (fun d => d.svcRefuse r)
  else if toSigned 64 t < w.dev.devTime + 200000000 then w.on (fun d => d.answer r 7 [])
  else
    match w.helmPart true with
    | none => w.on (fun d => d.answer r 8 [])
    | some bs =>
      w.on (fun d =>
        let d := { d with svc := { d.svc with helm := bs, armed := some t } }.mark F.SVC_STAT_ARMED true
        (d.put F.SVC_SCHED t).answer r 0 [])

/-- A settings slot that firmware with format `sfmt` can read (R325). -/
def slotReadable (h : List Byte) (sfmt : Nat) : Bool :=
  leAt h 0 4 == 0x54544553 && leAt h 4 2 == sfmt && crc32c (h.take 28) == leAt h 28 4

/-- After a fall-back the settings are lost when no slot is in the format of the firmware that now runs (R326, R327).
Where the record holds no manifest for it, SWRITTEN tells. DEDUCED, log entry 107. -/
def Work.settingsLost (w : Work) (swritten : Bool) : Bool :=
  let d := w.dev
  match sectOf d.pwr.header 10 0 with
  | none => false
  | some (_, x) =>
    match recManifest d.svc.record (recBank d.svc.record) with
    | none => swritten
    | some m =>
      let mid := x.off + 4096 + (x.len - 4096) / 2
      ! (slotReadable (w.peeksNv (x.off + 4096) 32) (manifestSfmt m) || slotReadable (w.peeksNv mid 32) (manifestSfmt m))

/-- Step 3: H0 to H3 stop, their TCMs are loaded, and they run from the image entry. What the TCMs then hold the manual
does not lay out (DESIGN CHOICE, log entry 2). -/
def Work.helmRestart (w : Work) : Work :=
  [0, 1, 2, 3].foldl (fun (w : Work) h =>
    if ! w.dev.powered (2 + h) then w
    else (w.forget (0x8000000 + 0x200000 * h) 0x200000).on (fun d => (d.runWrite h true).coreReset h)) w

/-- Steps 2 and 3 (R321): the commit, then the new firmware; the rolling reload is next. -/
def Work.activateNow (w : Work) (staged : Bool) : Work :=
  let swritten := recSwritten w.dev.svc.record
  let w := w.recCommit (w.dev.switchRecord staged)
  let w := (w.on (fun d => d.mark F.SVC_STAT_STAGED false)).helmRestart
  let lost := ! staged && w.settingsLost swritten
  w.on (fun d =>
    let d := { d with svc := { d.svc with helm := [], actStep := 4, relBack := false, relWork := [], relSlice := none } }
    (d.put F.SVC_RELOAD_IDX 0).raiseIf lost F.SVC_FLAG_SETTINGS_LOST)

/-- The command that runs comes to its end (R314, R321). -/
def Work.svcFinish (w : Work) : Work :=
  match w.dev.svc.run with
  | none => w
  | some r => ((w.activateNow (r.cmd == 0x12)).on (fun d => d.runSet none)).on (fun d => d.answer r 0 [])

/-- SCHEDULED_ACTIVATION (R323): device time reaches T. -/
def execScheduledActivation (s : State) : Host.Outcome State Fault Refusal :=
  onWork (fun w =>
    match w.dev.svc.armed with
    | none => w
    | some t =>
      let w := w.on (fun d => (d.reachDev (toSigned 64 t)).disarm)
      if w.dev.stagedOk then w.activateNow true else w) s

/-! ### Confirmation (R324) -/

/-- CONFIRM: refused while RELOAD = 1. -/
def Work.svcConfirm (w : Work) (r : SvcRun) : Work :=
  let b := w.dev.svc.record
  let v := w.dev.bankVersion (recBank b)
  if recReload b then w.on (fun d => d.svcRefuse r)
  else w.withRecord r (fun b => setBytes (setBytes (recFlag b 0 true) 10 (bytesLE 1 v.1)) 12 (bytesLE 4 v.2))

/-- RAISE_EPOCH. -/
def Dev.svcRaiseEpoch (d : Dev) (r : SvcRun) (p : List Byte) : Dev :=
  let e := leAt p 0 1
  let b := d.svc.record
  if b.isEmpty ∨ ¬ recConfirmed b ∨ (d.bankVersion (recBank b)).1 ≠ e ∨ e ≤ d.otp.epoch then d.svcRefuse r
  else ({ d with otp := { d.otp with epoch := e } }.recShow).answer r 0 []

/-! ### The rolling reload (R322, R328) -/

/-- What a context is configured with: the registers that its lines are corrected by, and its tables. -/
def Dev.ctxClone (d : Dev) (n m n' m' : Nat) : Dev :=
  let cp (d : Dev) (a b : Nat) : Dev := d.setReg b (d.reg a)
  let d := [0x0C, 0x14, 0x18].foldl (fun (d : Dev) o => cp d (R.PLn_CTXm_CFG n m + o) (R.PLn_CTXm_CFG n' m' + o)) d
  let cor := [0x00, 0x04, 0x08, 0x0C] ++ (List.range 8).map (fun i => 0x10 + 4 * i) ++ [0x30, 0x34, 0x38]
    ++ (List.range 4).map (fun i => 0x40 + 4 * i) ++ [0x50, 0x54, 0x70, 0x74, 0x78, 0x7C, 0x80, 0x98]
  let d := cor.foldl (fun (d : Dev) o => cp d (R.PLn_CTXm_COR_SH n m + o) (R.PLn_CTXm_COR_SH n' m' + o)) d
  let a := d.ctx n m
  d.setCtx n' m' { d.ctx n' m' with sets := a.sets, staging := a.staging, static := a.static }

/-- SEG_MIG_CTRL as a move of the reload writes it, with the LEAD that stands in it. -/
def Dev.reloadMove (d : Dev) (stream : Bool) (src tgt ctx : Nat) : Dev :=
  d.migWrite (BitVec.ofNat 32 (1 + 4 * b2n stream + 8 * src + 512 * tgt + 16384 * ctx + 65536 * d.val F.SEG_MIG_CTRL_LEAD))

/-- Pipeline `n` takes the PIPE part of the active bank; an unpowered one has nothing to load. -/
def Work.pipeTake (w : Work) (n : Nat) : Work :=
  let d := w.dev
  if ! d.powered (8 + n) then w
  else
    let ok := match d.region 3 (recBank d.svc.record) with
      | some x => (w.sectPasses d.pwr.header d.svc.record x).isSome
      | none => false
    w.on (fun d => ({ d with spr := { d.spr with pipe := some n } } : Dev).pipeDone ok)

/-- PL16 serves nothing. -/
def Dev.spareFree (d : Dev) : Bool :=
  ! d.liveCtxs.any (fun c => c.1 == 16) && ! d.slices.any (fun s => d.val (F.SEG_Ss_STAT_PL s) == 16)

/-- The first work that PLn still has: an enabled context, or its slice. -/
def Dev.ctxOn (d : Dev) (n : Nat) : Option (Nat × Nat) :=
  d.liveCtxs.find? (fun c => c.1 == n && d.on (F.PLn_CTXm_CFG_EN c.1 c.2))
def Dev.sliceOn (d : Dev) (n : Nat) : Option Nat := d.slices.find? (fun s => d.val (F.SEG_Ss_STAT_PL s) == n)

def Dev.rel (d : Dev) (f : SvcSt → SvcSt) : Dev := { d with svc := f d.svc }

/-- PL16 is made ready: powered, and loaded. -/
def Work.spareReady (w : Work) : Work :=
  if w.dev.spr.loaded.contains 16 ∧ w.dev.powered 24 then w
  else (w.pdOffCommit (withoutBit (w.dev.val F.PWR_PD_OFF) 24)).pipeTake 16

/-- One step of the work on PLn in INSPECT (R322): its work goes to PL16 piece by piece, PLn is loaded, the work comes
back. -/
def Work.reloadInspect (w : Work) (n : Nat) : Work :=
  let d := w.dev
  let s := d.svc
  let fresh := ! s.relBack && s.relWork.isEmpty && s.relSlice.isNone
  if d.seg.mig.isSome then w
  else if fresh && (d.ctxOn n).isSome && ! d.spareFree then
    w.on (fun d => (d.rel (fun s => { s with actStep := 0 })).raise F.SVC_FLAG_NO_SPARE)
  else if s.relBack then
    match s.relWork, s.relSlice with
    | (st, m) :: t, _ =>
      w.on (fun d => ((d.ctxClone 16 m n m).reloadMove true st n m).rel (fun s => { s with relWork := t }))
    | [], some sl => w.on (fun d => (d.reloadMove false sl n 0).rel (fun s => { s with relSlice := none }))
    | [], none => w.on (fun d => (d.put F.SVC_RELOAD_IDX (n + 1)).rel (fun s => { s with relBack := false }))
  else
    match d.ctxOn n, d.sliceOn n with
    | some (_, m), _ =>
      let st := d.val (F.PLn_CTXm_CFG_STREAM n m)
      w.spareReady.on (fun d => ((d.ctxClone n m 16 m).reloadMove true st 16 m).rel (fun s => { s with relWork := s.relWork ++ [(st, m)] }))
    | none, some sl => w.spareReady.on (fun d => (d.reloadMove false sl 16 0).rel (fun s => { s with relSlice := some sl }))
    | none, none =>
      if d.liveCtxs.any (fun c => c.1 == n) then w else (w.pipeTake n).on (fun d => d.rel (fun s => { s with relBack := true }))

/-- RELOAD 0 is committed (R321 step 5, R328). -/
def Work.reloadCommit (w : Work) : Work :=
  (w.recCommit (recFlag w.dev.svc.record 1 false)).on (fun d => d.rel (fun s => { s with actStep := 0 }))

/-- One step of the rolling reload. DEDUCED, log entry 106. -/
def Work.reloadStep (w : Work) : Work :=
  let d := w.dev
  let n := d.val F.SVC_RELOAD_IDX % 32
  if d.svc.actStep = 5 then w.reloadCommit
  else if d.svc.actStep ≠ 4 ∨ d.pwr.trans.isSome then w
  else if 16 ≤ n then w.reloadCommit.on (fun d => d.raise F.SVC_FLAG_ACT_DONE)
  else if d.mode = 5 then (w.pipeTake n).on (fun d => d.put F.SVC_RELOAD_IDX (n + 1))
  else if d.mode = 3 then w.reloadInspect n
  else w

/-- ROLLING_RELOAD (R322). -/
def execRollingReload (s : State) : Host.Outcome State Fault Refusal := onWork (fun w => w.reloadStep) s

/-! ### Commands as they arrive (R311 to R315) -/

/-- A command runs (R313). -/
def Work.runCmd (w : Work) (r : SvcRun) (p : List Byte) : Work :=
  match r.cmd with
  | 0x01 => w.on (fun d => d.svcPing r)
  | 0x02 => w.svcRead r p
  | 0x03 => w.svcWrite r p
  | 0x04 => w.svcStatus r
  | 0x05 => w.svcReset r
  | 0x10 => w.svcSetAddress r p
  | 0x11 => w.svcStage r p
  | 0x12 => w.svcActivate r true
  | 0x13 => w.svcSchedule r p
  | 0x14 => w.svcConfirm r
  | 0x15 => w.svcActivate r false
  | 0x16 => w.svcEraseCal r
  | 0x17 => w.on (fun d => d.svcRaiseEpoch r p)
  | _ => w.on (fun d => d.answer r 1 [])

/-- A command for this unit: counted, then BUSY, BAD_CMD, PRESENCE, or run. -/
def Work.svcLocal (w : Work) (a : Asker) (f : SvcFrame) (present : Bool) : Work :=
  let r : SvcRun := { cmd := f.cmd, tag := f.tag, dest := f.dest, by' := a }
  let w := w.on (fun d => d.inc F.SVC_CMD_CNT)
  if w.dev.svc.run.isSome then w.on (fun d => d.answer r 2 [])
  else if ! SvcFrameGood f then w.on (fun d => d.answer r 1 [])
  else if privCmd f.cmd && ! present then w.on (fun d => d.answer r 3 [])
  else w.runCmd r f.payload

/-- A command of the service port or of firmware, for this unit, for another, or for every unit (R311, R312, R315).
DEDUCED, log entry 108. -/
def Work.svcCommand (w : Work) (a : Asker) (f : SvcFrame) : Work :=
  let present := w.dev.on F.SVC_STAT_PRESENCE
  let own := ! f.bcast && f.dest % 2 ^ 14 == w.dev.unitAddr
  if own || ! SvcFrameGood f || (privCmd f.cmd && ! present) then w.svcLocal a f present
  else if f.bcast then (w.on (fun d => d.relayOut a f)).svcLocal a f present
  else w.on (fun d => (d.inc F.SVC_CMD_CNT).relayOut a f)

/-- A bad CRC: the frame is discarded and counted (R312). -/
def Dev.svcCrcBad (d : Dev) : Dev := (d.raise F.SVC_FLAG_CRC_ERR).inc F.SVC_CRC_CNT

/-- A frame of the service port, brought by the command of its code. A code that the manual does not list may come by
any of them. -/
def Work.portFrame (w : Work) (code : Nat) (f : SvcFrame) : Work :=
  if ! w.dev.runs F.SVC_CTRL_EN F.SVC_STAT_IDLE then w
  else if ! f.crcGood then w.on (fun d => d.svcCrcBad)
  else if knownCmd f.cmd && f.cmd != code then w
  else w.svcCommand .port f

/-- PING (R313). -/
def execPing (f : SvcFrame) (s : State) : Host.Outcome State Fault Refusal := onWork (fun w => w.portFrame 0x01 f) s
/-- READ (R313). -/
def execRead (f : SvcFrame) (s : State) : Host.Outcome State Fault Refusal := onWork (fun w => w.portFrame 0x02 f) s
/-- WRITE (R313). -/
def execWrite (f : SvcFrame) (s : State) : Host.Outcome State Fault Refusal := onWork (fun w => w.portFrame 0x03 f) s
/-- STATUS (R313). -/
def execStatus (f : SvcFrame) (s : State) : Host.Outcome State Fault Refusal := onWork (fun w => w.portFrame 0x04 f) s
/-- RESET (R313). -/
def execReset (f : SvcFrame) (s : State) : Host.Outcome State Fault Refusal := onWork (fun w => w.portFrame 0x05 f) s
/-- SET_ADDRESS (R313). -/
def execSetAddress (f : SvcFrame) (s : State) : Host.Outcome State Fault Refusal := onWork (fun w => w.portFrame 0x10 f) s
/-- STAGE (R320). -/
def execStage (f : SvcFrame) (s : State) : Host.Outcome State Fault Refusal := onWork (fun w => w.portFrame 0x11 f) s
/-- ACTIVATE (R321). -/
def execActivate (f : SvcFrame) (s : State) : Host.Outcome State Fault Refusal := onWork (fun w => w.portFrame 0x12 f) s
/-- SCHEDULE_ACTIVATE (R323). -/
def execScheduleActivate (f : SvcFrame) (s : State) : Host.Outcome State Fault Refusal := onWork (fun w => w.portFrame 0x13 f) s
/-- CONFIRM (R324). -/
def execConfirm (f : SvcFrame) (s : State) : Host.Outcome State Fault Refusal := onWork (fun w => w.portFrame 0x14 f) s
/-- FALLBACK (R324). -/
def execFallback (f : SvcFrame) (s : State) : Host.Outcome State Fault Refusal := onWork (fun w => w.portFrame 0x15 f) s
/-- ERASE_CAL (R313). -/
def execEraseCal (f : SvcFrame) (s : State) : Host.Outcome State Fault Refusal := onWork (fun w => w.portFrame 0x16 f) s
/-- RAISE_EPOCH (R324). -/
def execRaiseEpoch (f : SvcFrame) (s : State) : Host.Outcome State Fault Refusal := onWork (fun w => w.portFrame 0x17 f) s

/-- A forwarded command (R311, R315). The second copy of a command, come round the other side of a ring within
10 ms, is not run again (DEDUCED, log entry 39). -/
def Work.fwdIn (w : Work) (p : Side) (f : ChainFrame) : Work :=
  let x := w.dev.chainIn p f 0x07 id
  let w := { w with dev := x.1 }
  let sf : SvcFrame := ⟨f.bytes.take (leAt f.bytes 4 4 + 12)⟩
  let twice := match w.dev.chn.lastFwd with
    | some (h, t, at', q) => h == f.srcHop && t == sf.tag && q != p && decide (w.dev.now ≤ at' + 10000000)
    | none => false
  if ! x.2 || twice then w
  else if ! sf.crcGood then w.on (fun d => d.svcCrcBad)
  else
    let w := w.on (fun d => { d with chn := { d.chn with lastFwd := some (f.srcHop, sf.tag, d.now, p) } })
    w.svcLocal (.unit p f.srcHop) sf (w.dev.on F.CHN_CFG_SEG_PRES && f.dest.testBit 14)

/-- SVC_FWD (R311). -/
def execSvcFwd (side : Side) (f : ChainFrame) (s : State) : Host.Outcome State Fault Refusal := onWork (fun w => w.fwdIn side f) s

/-- The item at the head of TXQ goes out as a command (R311). -/
def Work.relayNext (w : Work) (hdr : Bool) (bad : List Nat) : Work :=
  if ! w.dev.on F.CHN_CFG_RELAY_EN then w
  else
    let q := w.dev.val F.CHN_CFG_TXQ
    let x := (w.dev.spoil q bad).queTake q hdr
    let w := { w with dev := x.1 }
    match x.2 with
    | none => w
    | some (n, _, ws) =>
      let f : SvcFrame := ⟨itemBytes n ws⟩
      if ! f.crcGood then w.on (fun d => d.svcCrcBad) else w.svcCommand .fw f

/-- RELAY_COMMAND (R311). -/
def execRelayCommand (s : State) (hdr : Bool := false) (bad : List Nat := []) : Host.Outcome State Fault Refusal :=
  onWork (fun w => w.relayNext hdr bad) s

/-! ### What passes with time alone -/

/-- One cycle of the 250 MHz fabric, 4 ns, with nothing commanded: the unit's clock and device time advance (R11,
R225), what clocks alone bring about is done, requests that have aged are issued (R238), and a service command that runs
comes to its end (R314). DESIGN CHOICE, log entry 1. -/
def Work.tick (w : Work) : Work :=
  let w := w.on (fun d => (d.reach (d.now + 4)).settle)
  (if w.dev.drc.pend.isEmpty then w else w.dramAll).svcFinish

/-- The step of an empty queue. -/
def tick (s : State) : Host.Outcome State Fault Refusal := onWork (fun w => w.tick) s

end Sys2Proof.Machine
end

