-- ==== Sys2Proof/Machine/Dispatch.lean ====
section
/-! DEFINITION. The effect of every command on everything but the queue: one arm per constructor. -/
namespace Sys2Proof.Machine

def exec (i : Instr) (s : State) : Host.Outcome State Fault Refusal :=
  match i with
  | .registerWrite writer addr size data kind tcm => Sys2Proof.Machine.execRegisterWrite writer addr size data s kind tcm
  | .loRead reader addr size kind tcm => Sys2Proof.Machine.execLoRead reader addr s size kind tcm
  | .loWrite writer addr data => Sys2Proof.Machine.execLoWrite writer addr data s
  | .hiWrite writer addr data => Sys2Proof.Machine.execHiWrite writer addr data s
  | .shadowWrite writer addr data => Sys2Proof.Machine.execShadowWrite writer addr data s
  | .blockDisable b => Sys2Proof.Machine.execBlockDisable b s
  | .drainComplete b => Sys2Proof.Machine.execDrainComplete b s
  | .abort b => Sys2Proof.Machine.execAbort b s
  | .acceptedEdge n a b t => Sys2Proof.Machine.execAcceptedEdge n a b t s
  | .standstill n => Sys2Proof.Machine.execStandstill n s
  | .ssiRead n => Sys2Proof.Machine.execSsiRead n s
  | .ssiFrameEnd n bits err high => Sys2Proof.Machine.execSsiFrameEnd n bits err high s
  | .indexLatch n z t => Sys2Proof.Machine.execIndexLatch n z s t
  | .speedWindowEnd n => Sys2Proof.Machine.execSpeedWindowEnd n s
  | .speedRead n => Sys2Proof.Machine.execSpeedRead n s
  | .driftHistRead n => Sys2Proof.Machine.execDriftHistRead n s
  | .logScaleWrite v => Sys2Proof.Machine.execLogScaleWrite v s
  | .compareHit n m => Sys2Proof.Machine.execCompareHit n m s
  | .ticksBetweenCounts n t => Sys2Proof.Machine.execTicksBetweenCounts n t s
  | .effectiveInstant i0 => Sys2Proof.Machine.execEffectiveInstant i0 s
  | .triggerSymbol c => Sys2Proof.Machine.execTriggerSymbol c s
  | .triggerDisable i0 => Sys2Proof.Machine.execTriggerDisable i0 s
  | .triggerAbort i0 => Sys2Proof.Machine.execTriggerAbort i0 s
  | .strobeStart t => Sys2Proof.Machine.execStrobeStart t s
  | .strobeEnd t => Sys2Proof.Machine.execStrobeEnd t s
  | .beaconLaunch => Sys2Proof.Machine.execBeaconLaunch s
  | .beacon side f => Sys2Proof.Machine.execBeacon side f s
  | .beaconLost => Sys2Proof.Machine.execBeaconLost s
  | .frozen => Sys2Proof.Machine.execFrozen s
  | .posPayloadSend => Sys2Proof.Machine.execPosPayloadSend s
  | .extrapolation t => Sys2Proof.Machine.execExtrapolation t s
  | .filterOutput c bits => Sys2Proof.Machine.execFilterOutput c bits s
  | .noSignal c => Sys2Proof.Machine.execNoSignal c s
  | .lampSignalReturn c => Sys2Proof.Machine.execLampSignalReturn c s
  | .switch c => Sys2Proof.Machine.execSwitch c s
  | .coefDataWrite c v => Sys2Proof.Machine.execCoefDataWrite c v s
  | .presetChange c p => Sys2Proof.Machine.execPresetChange c p s
  | .laneBringUp l eyes => Sys2Proof.Machine.execLaneBringUp l eyes s
  | .adaptRetry l eyes => Sys2Proof.Machine.execAdaptRetry l eyes s
  | .eyeScan l h v => Sys2Proof.Machine.execEyeScan l h v s
  | .eyeLow l eyes => Sys2Proof.Machine.execEyeLow l eyes s
  | .pstateRequest l code => Sys2Proof.Machine.execPstateRequest l code s
  | .pstateEntry l => Sys2Proof.Machine.execPstateEntry l s
  | .invalidSyncHeader l => Sys2Proof.Machine.execInvalidSyncHeader l s
  | .lockLost l => Sys2Proof.Machine.execLockLost l s
  | .marker l bytes slot => Sys2Proof.Machine.execMarker l bytes slot s
  | .markerAbsent l => Sys2Proof.Machine.execMarkerAbsent l s
  | .sol p v copies => Sys2Proof.Machine.execSol p v copies s
  | .payloadWord i0 w => Sys2Proof.Machine.execPayloadWord i0 w s
  | .eol i0 copies => Sys2Proof.Machine.execEol i0 copies s
  | .blkErr l => Sys2Proof.Machine.execBlkErr l s
  | .flow i0 blk => Sys2Proof.Machine.execFlow i0 blk s
  | .reply i0 blk => Sys2Proof.Machine.execReply i0 blk s
  | .go c => Sys2Proof.Machine.execGo c s
  | .bcastFrameEnd c => Sys2Proof.Machine.execBcastFrameEnd c s
  | .timeout c => Sys2Proof.Machine.execTimeout c s
  | .xoff i0 => Sys2Proof.Machine.execXoff i0 s
  | .xon i0 => Sys2Proof.Machine.execXon i0 s
  | .lineEndTimeout i0 => Sys2Proof.Machine.execLineEndTimeout i0 s
  | .portDisable p => Sys2Proof.Machine.execPortDisable p s
  | .portAbort p => Sys2Proof.Machine.execPortAbort p s
  | .contextEnable n m => Sys2Proof.Machine.execContextEnable n m s
  | .grant n badWords badEntries badTag => Sys2Proof.Machine.execGrant n badWords badEntries badTag s
  | .statsRecordWrite n m bad => Sys2Proof.Machine.execStatsRecordWrite n m bad s
  | .contextDisable n m => Sys2Proof.Machine.execContextDisable n m s
  | .contextAbort n m => Sys2Proof.Machine.execContextAbort n m s
  | .blkFixedWrite n m v => Sys2Proof.Machine.execBlkFixedWrite n m v s
  | .commit n m set => Sys2Proof.Machine.execCommit n m set s
  | .foregroundBit i0 => Sys2Proof.Machine.execForegroundBit i0 s
  | .tblDataAccess n m w => Sys2Proof.Machine.execTblDataAccess n m w s
  | .itemTake i0 => Sys2Proof.Machine.execItemTake i0 s
  | .late i0 => Sys2Proof.Machine.execLate i0 s
  | .staggerWriteTimeout i0 plane => Sys2Proof.Machine.execStaggerWriteTimeout i0 plane s
  | .chartRow lateReads => Sys2Proof.Machine.execChartRow lateReads s
  | .ovlWrite i0 along v => Sys2Proof.Machine.execOvlWrite i0 along v s
  | .resSwap i0 => Sys2Proof.Machine.execResSwap i0 s
  | .stcTblDataAccess w => Sys2Proof.Machine.execStcTblDataAccess w s
  | .rowLabel i0 => Sys2Proof.Machine.execRowLabel i0 s
  | .seamMerge => Sys2Proof.Machine.execSeamMerge s
  | .seam side f => Sys2Proof.Machine.execSeam side f s
  | .seamLate side => Sys2Proof.Machine.execSeamLate side s
  | .streamMove v => Sys2Proof.Machine.execStreamMove v s
  | .sliceMove v => Sys2Proof.Machine.execSliceMove v s
  | .forcedMove v => Sys2Proof.Machine.execForcedMove v s
  | .migDrained => Sys2Proof.Machine.execMigDrained s
  | .migTimeout => Sys2Proof.Machine.execMigTimeout s
  | .reorderRelease => Sys2Proof.Machine.execReorderRelease s
  | .recordEmit => Sys2Proof.Machine.execRecordEmit s
  | .treeSwap => Sys2Proof.Machine.execTreeSwap s
  | .treeNodeWrite hi => Sys2Proof.Machine.execTreeNodeWrite hi s
  | .segDisable => Sys2Proof.Machine.execSegDisable s
  | .segAbort => Sys2Proof.Machine.execSegAbort s
  | .headEnable n => Sys2Proof.Machine.execHeadEnable n s
  | .recordRead n hdr bad => Sys2Proof.Machine.execRecordRead n hdr s bad
  | .lineLoad n => Sys2Proof.Machine.execLineLoad n s
  | .loadComplete n => Sys2Proof.Machine.execLoadComplete n s
  | .headDisable n => Sys2Proof.Machine.execHeadDisable n s
  | .headAbort n => Sys2Proof.Machine.execHeadAbort n s
  | .getId n reply => Sys2Proof.Machine.execGetId n reply s
  | .challenge n reply => Sys2Proof.Machine.execChallenge n reply s
  | .decrement n reply => Sys2Proof.Machine.execDecrement n reply s
  | .cartridgeTimeout n => Sys2Proof.Machine.execCartridgeTimeout n s
  | .reauth n => Sys2Proof.Machine.execReauth n s
  | .authRetry n => Sys2Proof.Machine.execAuthRetry n s
  | .cdcStart e => Sys2Proof.Machine.execCdcStart e s
  | .codingJobEnd e bad => Sys2Proof.Machine.execCodingJobEnd e bad s
  | .decodeJobEnd e => Sys2Proof.Machine.execDecodeJobEnd e s
  | .cdcFlush e row => Sys2Proof.Machine.execCdcFlush e row s
  | .tapEnable t => Sys2Proof.Machine.execTapEnable t s
  | .tapLost t => Sys2Proof.Machine.execTapLost t s
  | .netLinkChange n lock align locFault remFault => Sys2Proof.Machine.execNetLinkChange n lock align locFault remFault s
  | .uncorrectableCodeword n corrected => Sys2Proof.Machine.execUncorrectableCodeword n corrected s
  | .frameReceive n bytes => Sys2Proof.Machine.execFrameReceive n bytes s
  | .pos n dgram => Sys2Proof.Machine.execPos n dgram s
  | .datagramSend n hdr bad => Sys2Proof.Machine.execDatagramSend n hdr s bad
  | .fixHoldExpiry f => Sys2Proof.Machine.execFixHoldExpiry f s
  | .launchTime f => Sys2Proof.Machine.execLaunchTime f s
  | .flowDisable f => Sys2Proof.Machine.execFlowDisable f s
  | .flowAbort f => Sys2Proof.Machine.execFlowAbort f s
  | .sync d msg t2 => Sys2Proof.Machine.execSync d msg t2 s
  | .followUp d msg => Sys2Proof.Machine.execFollowUp d msg s
  | .announce d msg => Sys2Proof.Machine.execAnnounce d msg s
  | .delayReq d => Sys2Proof.Machine.execDelayReq d s
  | .delayResp d msg => Sys2Proof.Machine.execDelayResp d msg s
  | .pdelayReq d msg t2 => Sys2Proof.Machine.execPdelayReq d msg t2 s
  | .pdelayResp d msg fup t4 => Sys2Proof.Machine.execPdelayResp d msg fup t4 s
  | .syncTimeout d => Sys2Proof.Machine.execSyncTimeout d s
  | .pathHoldEnd d => Sys2Proof.Machine.execPathHoldEnd d s
  | .asymSuspect => Sys2Proof.Machine.execAsymSuspect s
  | .chainSample => Sys2Proof.Machine.execChainSample s
  | .selWrite v => Sys2Proof.Machine.execSelWrite v s
  | .dramRequest r wr addr data ecc => Sys2Proof.Machine.execDramRequest r wr addr data ecc s
  | .refresh ch => Sys2Proof.Machine.execRefresh ch s
  | .frequencyChange target => Sys2Proof.Machine.execFrequencyChange target s
  | .freqDone => Sys2Proof.Machine.execFreqDone s
  | .queueEnable q => Sys2Proof.Machine.execQueueEnable q s
  | .pushHdr q writer len => Sys2Proof.Machine.execPushHdr q writer len s
  | .pushData q hi => Sys2Proof.Machine.execPushData q hi s
  | .popHdr q fault => Sys2Proof.Machine.execPopHdr q fault s
  | .popData q fault => Sys2Proof.Machine.execPopData q fault s
  | .writeStallRelease q => Sys2Proof.Machine.execWriteStallRelease q s
  | .queueFlush q => Sys2Proof.Machine.execQueueFlush q s
  | .queueDisable q => Sys2Proof.Machine.execQueueDisable q s
  | .dmaStart c => Sys2Proof.Machine.execDmaStart c s
  | .poll c => Sys2Proof.Machine.execPoll c s
  | .burst c hdr bad ecc => Sys2Proof.Machine.execBurst c hdr s bad ecc
  | .descriptorDone c => Sys2Proof.Machine.execDescriptorDone c s
  | .dmaDisable c => Sys2Proof.Machine.execDmaDisable c s
  | .offer h => Sys2Proof.Machine.execOffer h s
  | .acceptance h => Sys2Proof.Machine.execAcceptance h s
  | .mret h => Sys2Proof.Machine.execMret h s
  | .wfi h => Sys2Proof.Machine.execWfi h s
  | .moderationEnd i0 => Sys2Proof.Machine.execModerationEnd i0 s
  | .hrpriWrite h v => Sys2Proof.Machine.execHrpriWrite h v s
  | .timerInterrupt h => Sys2Proof.Machine.execTimerInterrupt h s
  | .wdog h => Sys2Proof.Machine.execWdog h s
  | .runWrite h run => Sys2Proof.Machine.execRunWrite h run s
  | .coreReset h => Sys2Proof.Machine.execCoreReset h s
  | .spareWrite en as => Sys2Proof.Machine.execSpareWrite en as s
  | .eventDelivery k => Sys2Proof.Machine.execEventDelivery k s
  | .stormWindowEnd k => Sys2Proof.Machine.execStormWindowEnd k s
  | .evtFire writer k => Sys2Proof.Machine.execEvtFire writer k s
  | .channelEnable k => Sys2Proof.Machine.execChannelEnable k s
  | .swiSet v => Sys2Proof.Machine.execSwiSet v s
  | .powerGood tr => Sys2Proof.Machine.execPowerGood tr s
  | .reload tr => Sys2Proof.Machine.execReload tr s
  | .standbyRequest => Sys2Proof.Machine.execStandbyRequest s
  | .loadRequest => Sys2Proof.Machine.execLoadRequest s
  | .inspectRequest => Sys2Proof.Machine.execInspectRequest s
  | .serviceRequest => Sys2Proof.Machine.execServiceRequest s
  | .modeDone => Sys2Proof.Machine.execModeDone s
  | .holdEntry => Sys2Proof.Machine.execHoldEntry s
  | .holdExit => Sys2Proof.Machine.execHoldExit s
  | .wake src => Sys2Proof.Machine.execWake src s
  | .alwaysOnLoss => Sys2Proof.Machine.execAlwaysOnLoss s
  | .por straps => Sys2Proof.Machine.execPor straps s
  | .pinReset => Sys2Proof.Machine.execPinReset s
  | .softReset v => Sys2Proof.Machine.execSoftReset v s
  | .sysWdogExpiry => Sys2Proof.Machine.execSysWdogExpiry s
  | .pgLoss k => Sys2Proof.Machine.execPgLoss k s
  | .therm temp => Sys2Proof.Machine.execTherm temp s
  | .junctionCooled temp => Sys2Proof.Machine.execJunctionCooled temp s
  | .vddutpChange b present level => Sys2Proof.Machine.execVddutpChange b present level s
  | .nvRead => Sys2Proof.Machine.execNvRead s
  | .nvProgram => Sys2Proof.Machine.execNvProgram s
  | .nvErase => Sys2Proof.Machine.execNvErase s
  | .nvDone err => Sys2Proof.Machine.execNvDone err s
  | .pdOffWrite hi v => Sys2Proof.Machine.execPdOffWrite hi v s
  | .pgood k => Sys2Proof.Machine.execPgood k s
  | .pgTimeout => Sys2Proof.Machine.execPgTimeout s
  | .pgRetry => Sys2Proof.Machine.execPgRetry s
  | .pmAlert status => Sys2Proof.Machine.execPmAlert status s
  | .avsUpdate ack => Sys2Proof.Machine.execAvsUpdate ack s
  | .chainLinkChange side up => Sys2Proof.Machine.execChainLinkChange side up s
  | .enumeration => Sys2Proof.Machine.execEnumeration s
  | .enum side f => Sys2Proof.Machine.execEnum side f s
  | .enumChdWait => Sys2Proof.Machine.execEnumChdWait s
  | .noAddr => Sys2Proof.Machine.execNoAddr s
  | .enumAck side f => Sys2Proof.Machine.execEnumAck side f s
  | .neigh side f => Sys2Proof.Machine.execNeigh side f s
  | .probe side f => Sys2Proof.Machine.execProbe side f s
  | .svcFwd side f => Sys2Proof.Machine.execSvcFwd side f s
  | .svcRsp side f => Sys2Proof.Machine.execSvcRsp side f s
  | .presLost side f => Sys2Proof.Machine.execPresLost side f s
  | .relayCommand hdr bad => Sys2Proof.Machine.execRelayCommand s hdr bad
  | .noUnit => Sys2Proof.Machine.execNoUnit s
  | .ping f => Sys2Proof.Machine.execPing f s
  | .read f => Sys2Proof.Machine.execRead f s
  | .write f => Sys2Proof.Machine.execWrite f s
  | .status f => Sys2Proof.Machine.execStatus f s
  | .reset f => Sys2Proof.Machine.execReset f s
  | .setAddress f => Sys2Proof.Machine.execSetAddress f s
  | .stage f => Sys2Proof.Machine.execStage f s
  | .activate f => Sys2Proof.Machine.execActivate f s
  | .scheduleActivate f => Sys2Proof.Machine.execScheduleActivate f s
  | .confirm f => Sys2Proof.Machine.execConfirm f s
  | .fallback f => Sys2Proof.Machine.execFallback f s
  | .eraseCal f => Sys2Proof.Machine.execEraseCal f s
  | .raiseEpoch f => Sys2Proof.Machine.execRaiseEpoch f s
  | .scheduledActivation => Sys2Proof.Machine.execScheduledActivation s
  | .rollingReload => Sys2Proof.Machine.execRollingReload s
  | .svcFramePause => Sys2Proof.Machine.execSvcFramePause s
  | .presence low => Sys2Proof.Machine.execPresence low s
  | .sramScrubPass errs => Sys2Proof.Machine.execSramScrubPass errs s
  | .dramScrubPass errs => Sys2Proof.Machine.execDramScrubPass errs s
  | .logRecordWrite err => Sys2Proof.Machine.execLogRecordWrite err s
  | .logCmd v => Sys2Proof.Machine.execLogCmd v s
  | .telemetry => Sys2Proof.Machine.execTelemetry s
  | .teleDrop => Sys2Proof.Machine.execTeleDrop s
  | .pipeLoad v => Sys2Proof.Machine.execPipeLoad v s
  | .pipeDone ok => Sys2Proof.Machine.execPipeDone ok s
  | .ageMeasure mon margin raw => Sys2Proof.Machine.execAgeMeasure mon margin raw s
  | .codecSelfTest e ok => Sys2Proof.Machine.execCodecSelfTest e ok s
  | .almanacTick => Sys2Proof.Machine.execAlmanacTick s
  | .meridianSet => Sys2Proof.Machine.execMeridianSet s
  | .almSetCommit hi => Sys2Proof.Machine.execAlmSetCommit hi s
  | .sealPulse level => Sys2Proof.Machine.execSealPulse level s
  | .vbatMeasure mv => Sys2Proof.Machine.execVbatMeasure mv s
  | .timeLost => Sys2Proof.Machine.execTimeLost s

end Sys2Proof.Machine
end

