-- ==== Sys2Proof/Safety.lean ====
section
/-! DEFINITION. What a safe state and a safe run are, and the readings of a state in which the statements speak:
a byte of memory or flash, the registers that a field lies in, and what a command leaves unchanged. -/
namespace Sys2Proof.Machine

/-- The tables that readings of memory and flash depend on are in their canonical form (log entries 2, 3). -/
def State.canonical (s : State) : Prop := s.mem.wf = true ∧ s.nv.wfNv = true

/-- A step answers a next state: the block does not stop. -/
def State.goesOn (s : State) : Prop := ∃ t, step s = .next t

/-- `k` steps go on from `s`. -/
def State.runsFor : Nat → State → Prop
  | 0, _ => True
  | k + 1, s => ∃ t, step s = .next t ∧ State.runsFor k t

/-- The byte of memory at an address. -/
def State.byte (s : State) (a : Nat) : Byte := if a < 0x10000 then Config.romByte a else tabGet memInit s.mem a

/-- The byte of flash at an address. -/
def State.nvByte (s : State) (a : Nat) : Byte := tabGet nvInit s.nv a

/-- The register at `a` holds bits of the field. -/
def Fld.At (f : Fld) (a : Nat) : Prop := a = f.addr ∨ (32 < f.lo + f.len ∧ a = f.addr + 4)

/-- Two fields share no bit: no register in common, or two bit ranges of one register apart. -/
def Fld.Apart (f g : Fld) : Prop :=
  (f.addr ≠ g.addr ∧ (32 < f.lo + f.len → f.addr + 4 ≠ g.addr) ∧ (32 < g.lo + g.len → f.addr ≠ g.addr + 4)) ∨
  (f.addr = g.addr ∧ f.lo + f.len ≤ 32 ∧ g.lo + g.len ≤ 32 ∧ (f.lo + f.len ≤ g.lo ∨ g.lo + g.len ≤ f.lo))

/-- The register lies in the windows of ICU or EVT, where a flag that rises and a publication have their effects
(R266, R268, R275, R276). -/
def evIcu (a : Nat) : Bool := a / 0x10000 == 0x4006 || a / 0x10000 == 0x4007

/-- The field lies outside the windows of ICU and EVT. -/
def Fld.quiet (f : Fld) : Prop := evIcu f.addr = false ∧ (32 < f.lo + f.len → evIcu (f.addr + 4) = false)

/-- Every register word of `e` holds what it held in `d`, but those of the fields listed and those of ICU and EVT. -/
def Dev.sameRegsBut (d e : Dev) (l : List Fld) : Prop :=
  ∀ a, (∀ f ∈ l, ¬ f.At a) → evIcu a = false → e.reg a = d.reg a

/-- Every register word of `e` outside the 64 KiB windows listed, of which the register map of each block is one,
holds what it held in `d`, but those of ICU and EVT. -/
def Dev.sameWindowsBut (d e : Dev) (ws : List Nat) : Prop :=
  ∀ a, a / 0x10000 ∉ ws → evIcu a = false → e.reg a = d.reg a

/-- The state as a command finds it that changes nothing: only what the last command put out is forgotten. -/
def State.quietened (s : State) : State := { s with dev := { s.dev with out := [] } }

/-- A shadow register, and the SHADOW_PEND bit of its block (R7, R8). -/
def ShadowAt (a : Nat) (pend : Fld) : Prop :=
  (∃ c : Fin 48, a = R.FLTc_FCFG_SH c ∧ pend = F.FLTc_STAT_SHADOW_PEND c) ∨
  (∃ s : Fin 64, (a = R.SLK_Ss_LINE_SH s ∨ a = R.SLK_Ss_FILL_SH s) ∧ pend = F.SLK_Ss_STAT_SHADOW_PEND s) ∨
  (∃ (n : Fin 17) (m : Fin 4), (a = R.PLn_CTXm_STATS_SH n m ∨ a = R.PLn_CTXm_COR_SH n m) ∧
    pend = F.PLn_CTXm_STAT_SHADOW_PEND n m) ∨
  (∃ s : Fin 64, (a = R.STC_CAMs_OFFSET_SH s ∨ a = R.STC_CAMs_SCALE_SH s ∨ a = R.STC_CAMs_ALONG_SH s) ∧
    pend = F.STC_CAMs_STAT_SHADOW_PEND s) ∨
  (∃ s : Fin 16, (a = R.SEG_Ss_DARK_SH s ∨ a = R.SEG_Ss_LIGHT_SH s) ∧ pend = F.SEG_Ss_STAT_SHADOW_PEND s) ∨
  (∃ n : Fin 16, (a = R.MRKn_DIST_SH n ∨ a = R.MRKn_NCOL0_SH n ∨ a = R.MRKn_NOZ_SH n ∨ a = R.MRKn_EXT_ALONG_SH n ∨
    a = R.MRKn_FLIGHT_SH n ∨ a = R.MRKn_FIRE_SH n ∨ a = R.MRKn_MIN_SPACING_SH n) ∧ pend = F.MRKn_STAT_SHADOW_PEND n) ∨
  (∃ f : Fin 4, (a = R.DRC_TSETf_A_SH f ∨ a = R.DRC_TSETf_B_SH f ∨ a = R.DRC_TSETf_C_SH f ∨ a = R.DRC_TSETf_D_SH f) ∧
    pend = F.DRC_STAT_SHADOW_PEND)

/-- The EN and IDLE bits of a block (R9); a speed channel's EN is LOGn_SPD_CFG.FILT (R43, R66). -/
def blockEn : Block → Fld
  | .logCh n => F.LOGn_CFG_EN n
  | .strobe t => F.STBt_CFG_EN t
  | .filter c => if c.val < 16 then F.FLTc_CTRL_EN c else F.LOGn_SPD_CFG_FILT (c.val - 16)
  | .lane l => F.SLK_Ll_CTRL_EN l
  | .svcChan c => F.SLK_CSc_CTRL_EN c
  | .engine e => F.CDC_En_CTRL_EN e
  | .tap t => F.CDC_TAPt_CFG_EN t
  | .netPort n => F.NETn_CFG_EN n
  | .queue q => F.QUE_Qq_CFG_EN q
  | .head n => F.MRKn_CFG_EN n
  | .svcPort => F.SVC_CTRL_EN
def blockIdle : Block → Fld
  | .logCh n => F.LOGn_STAT_IDLE n
  | .strobe t => F.STBt_STAT_IDLE t
  | .filter c => F.FLTc_STAT_IDLE c
  | .lane l => F.SLK_Ll_STAT_IDLE l
  | .svcChan c => F.SLK_CSc_STAT_IDLE c
  | .engine e => F.CDC_En_STAT_IDLE e
  | .tap t => F.CDC_TAPt_STAT_IDLE t
  | .netPort n => F.NETn_STAT_IDLE n
  | .queue q => F.QUE_Qq_STAT_IDLE q
  | .head n => F.MRKn_STAT_IDLE n
  | .svcPort => F.SVC_STAT_IDLE

/-- Every byte of memory and of flash and the queue of commands are as they were. -/
def State.sameStores (s t : State) : Prop :=
  t.pending = s.pending ∧ (∀ a, t.byte a = s.byte a) ∧ (∀ a, t.nvByte a = s.nvByte a)

/-- No request waits at the DRAM controller and no speed change runs (R238, R242). -/
def Dev.dramStill (d : Dev) : Prop := d.drc.pend = [] ∧ d.on F.DRC_STAT_FC_BUSY = false

/-- Where accesses to DRAM leave their trace when none has to wait: refresh management and URG (R238, R240). -/
def dramTrace : List Fld :=
  [F.DRC_RFM_CNT, F.DRC_RFM_DEV_CNT, F.DRC_FLAG_RFM_DEV] ++ (List.range 16).map F.DRC_RQr_QOS_URG

/-- `n` bytes of memory from an address. -/
def State.bytes (s : State) (a n : Nat) : List Byte := (List.range n).map (fun i => s.byte (a + i))

/-- `n` bytes of flash from an address. -/
def State.nvBytes (s : State) (a n : Nat) : List Byte := (List.range n).map (fun i => s.nvByte (a + i))

/-- The `n` bytes from an address are memory that can be written, under their own addresses (R2, R235). -/
def State.isMem (s : State) (a n : Nat) : Prop := ∀ i < n, s.dev.place (a + i) = .mem (a + i)

/-- Every byte of memory outside the ranges listed, first byte and length, every byte of flash and the queue of
commands are as they were. -/
def State.sameStoresBut (s t : State) (l : List (Nat × Nat)) : Prop :=
  t.pending = s.pending ∧ (∀ a, t.nvByte a = s.nvByte a) ∧ ∀ a, inRanges l a = false → t.byte a = s.byte a

end Sys2Proof.Machine
end

