-- ==== Sys2Proof/Certificates/Slice0/Obligations.lean ====
section
/-! DEFINITION. The statements about the model, for the provers. -/

open Sys2Proof Sys2Proof.Machine

/-- A step with a command at the front of the queue is that command's effect with the rest of the queue. For every
command, every rest of the queue and every state, the step is exec of the command on the state whose queue is
the rest. The queue is the model's own (log entry 1). -/
def Obligations.StepRunsFrontCommand : Prop :=
  ∀ (c : Instr) (rest : List Instr) (s : State),
    step { s with pending := c :: rest } = exec c { s with pending := rest }

/-- On an empty queue one cycle of 4 ns passes, and what clocks alone bring about by its end is done. DESIGN CHOICE,
log entry 1: with no command waiting the step lets one cycle of the event and timing fabric pass. Where no
service command runs and no DRAM request pends, memory, flash and queue stay, and the block is brought to what
clocks bring about in these 4 ns: position, lines that run out, characters, frames and pulses. Where that is
nothing, the unit's clock advances by 4 ns, of the registers only the device time changes, and drawn values,
power state and event channels stay. -/
def Obligations.EmptyQueueLetsOneCyclePass : Prop :=
  ∀ s : State, s.pending = [] → s.dev.svc.run = none → s.dev.drc.pend = [] →
    ((s.quietened.dev.reach (s.dev.now + 4)).settle).svc.run = none →
    ((s.quietened.dev.reach (s.dev.now + 4)).settle).drc.pend = [] →
    ∃ t, step s = .next t ∧ t.dev = (s.quietened.dev.reach (s.dev.now + 4)).settle ∧ s.sameStores t ∧
      ((s.quietened.dev.reach (s.dev.now + 4)).settle = s.quietened.dev.reach (s.dev.now + 4) →
        t.dev.now = s.dev.now + 4 ∧ s.dev.sameRegsBut t.dev [F.MER_TIME] ∧
        t.dev.draws = s.dev.draws ∧ t.dev.pwr = s.dev.pwr ∧ t.dev.evt = s.dev.evt)

/-- Any commands put in front of the queue are all carried out, in order, and none of them stops the block. For
every list of commands and every rest of the queue, as many steps as there are commands lead to a next state
whose queue is that rest; and the state they lead to is the one that running the commands one after another from
the state with that rest leads to. The queue itself is the model's own (log entry 1). -/
def Obligations.QueueIsServedInOrder : Prop :=
  ∀ (cs rest : List Instr) (s : State),
    ∃ t, Sys2Proof.core.run cs.length { s with pending := cs ++ rest } = .next t ∧ t.pending = rest ∧
      cs.foldl (fun o c => match o with | Host.Outcome.next u => exec c u | o => o)
        (Host.Outcome.next { s with pending := rest }) = Host.Outcome.next t

/-- Every step keeps memory and flash in their canonical form. From every state whose memory and flash list their
bytes by strictly rising address and list no byte that equals what an unlisted address reads as (log entries 2
and 3), a step that answers a next state leads to such a state. -/
def Obligations.StepKeepsMemoriesCanonical : Prop :=
  ∀ s t : State, s.canonical → step s = .next t → t.canonical

/-- Right after a power-on reset the unit is in LOAD with the cause POR, nothing waits, and the memories are
canonical. PWR_MODE.CUR reads 2 (LOAD), SYS_RST_CAUSE reads the POR bit alone, the queue of commands is empty,
memory and flash list nothing and are canonical. That an unlisted byte reads 0 in memory and 0xFF in flash is
the model's choice (log entries 2 and 3). -/
def Obligations.ResetState : Prop :=
  State.reset.canonical ∧ State.reset.pending = [] ∧ State.reset.mem = [] ∧ State.reset.nv = [] ∧
    State.reset.dev.mode = 2 ∧ (State.reset.dev.reg R.SYS_RST_CAUSE).toNat = 1

/-- At reset every register holds the value its table states, but SYS_RST_CAUSE and PWR_PD_STAT. Every register word
reads its reset value; SYS_RST_CAUSE reads POR alone (R295), and PWR_PD_STAT shows the domains that are on in
LOAD (R297; DEDUCED, log entry 9). -/
def Obligations.EveryRegisterReadsItsResetValue : Prop :=
  ∀ a : Nat, a ≠ R.SYS_RST_CAUSE → a ≠ R.PWR_PD_STAT → a ≠ R.PWR_PD_STAT + 4 → State.reset.dev.reg a = resetOf a

/-- Commands of the position, trigger, link, marking, network and event blocks leave every byte of memory and flash
as it was. Whatever the state, a command of the position log, the triggers, the sensor links, the marker heads,
the network ports and the Meridian, the queues and the event channels' own commands changes no byte of memory,
no byte of flash and not the queue of commands. -/
def Obligations.DeviceCommandsKeepTheMemories : Prop :=
  ∀ (s t : State) (n : Fin 32) (q : Fin 64) (h : Fin 16) (p : Fin 8) (i : Fin 2) (k : Fin 256) (bad : List Nat) (c : Instr),
    c ∈ [.standstill n, .ssiRead n, .speedWindowEnd n, .speedRead n, .driftHistRead n, .compareHit n 0, .compareHit n 1,
      .compareHit n 2, .compareHit n 3, .effectiveInstant q, .triggerDisable q, .triggerAbort q, .beaconLaunch, .beaconLost,
      .frozen, .posPayloadSend, .xoff q, .xon q, .lineEndTimeout q, .portDisable h, .portAbort h, .headEnable h, .lineLoad h,
      .loadComplete h, .headDisable h, .headAbort h, .flowDisable n, .flowAbort n, .launchTime n, .fixHoldExpiry n,
      .datagramSend p true bad, .datagramSend p false bad, .delayReq i, .syncTimeout i, .pathHoldEnd i, .asymSuspect, .queueEnable q,
      .queueFlush q, .queueDisable q, .popHdr q false, .popData q false, .stormWindowEnd k, .channelEnable k, .evtFire 0 k] →
    exec c s = .next t → s.sameStores t

/-- The halves of a 64-bit register: reading _LO latches _HI, writing _LO stages, writing _HI commits both. For
every register pair of the map, through a port whose accesses pass the protection of the core that makes them
(R262). A read of _LO that opens, pops or advances nothing returns the lower half the register holds and latches
the upper half of the same value (bits of type WO read 0). A read of _HI returns what was latched by the last
read of its _LO, 0 where none was made since reset, and changes nothing else. A write of _LO, where the register
takes writes now, stages the half and changes no register. A write of _HI commits the staged half, or the lower
half it has where none is staged, together with the upper half, and uses the staged half up. -/
def Obligations.SixtyFourBitProtocol : Prop :=
  ∀ (s : State) (lo : Nat) (r : RegRow) (v : Word) (w : Nat),
    0x40000000 ≤ lo → lo + 4 < 0x40410000 → lo % 4 = 0 → rowAt lo = some r → rowAt (lo + 4) = some r → r.pair = true →
    isUpper r.insts (lo - r.base) = false → isUpper r.insts (lo + 4 - r.base) = true →
    (∀ u ∈ [Use.load, Use.store], ∀ a ∈ [lo, lo + 4], s.dev.passes w u a 4 = true) →
    (s.dev.readActs lo = none →
      ∃ t, exec (.loRead w lo 4 .plain .good) s = .next t ∧ t.dev.rdata = BitVec.ofNat 32 (andNot (t.dev.word lo) (r.wo % 2 ^ 32)) ∧
        tabGet 0 t.dev.hi lo = BitVec.ofNat 32 (andNot (t.dev.word (lo + 4)) (r.wo / 2 ^ 32)) ∧ s.sameStores t) ∧
    (∃ t, exec (.loRead w (lo + 4) 4 .plain .good) s = .next t ∧
      t.dev = { s.quietened.dev with rdata := tabGet 0 s.dev.hi lo } ∧ s.sameStores t) ∧
    tabGet 0 State.reset.dev.hi lo = 0 ∧
    (r.rw ||| r.wo ≠ 0 → s.dev.wideFree lo = true → r.ruled = 0 →
      ∃ t, exec (.loWrite w lo v) s = .next t ∧ tabGet 0 t.dev.staged lo = v.toNat + 1 ∧
        (∀ a, t.dev.reg a = s.dev.reg a) ∧ s.sameStores t) ∧
    (s.dev.wideFree lo = true → r.ruled = 0 → lo ≠ R.PWR_PD_OFF → s.quietened.dev.wideActs lo v = none →
      ∃ t, exec (.hiWrite w (lo + 4) v) s = .next t ∧
        t.dev.reg lo = BitVec.ofNat 32 (mix (s.dev.word lo) (s.dev.lower lo (s.dev.reg lo)).toNat
          ((r.rw ||| r.wo) % 2 ^ 32)) ∧
        t.dev.reg (lo + 4) = BitVec.ofNat 32 (mix (s.dev.word (lo + 4)) v.toNat ((r.rw ||| r.wo) / 2 ^ 32)) ∧
        tabGet 0 t.dev.staged lo = 0 ∧ (∀ a, a ≠ lo → a ≠ lo + 4 → t.dev.reg a = s.dev.reg a) ∧ s.sameStores t)

/-- An access to a peripheral window that is not an aligned 32-bit one returns 0, writes nothing and is reported.
Such a read returns 0 and such a write is ignored; either sets the access-error flag of the SYS block, stores
the address and adds 1 to the saturating access counter. The port's accesses pass the protection of the core
that makes them (R262). No other register outside ICU and EVT changes (a flag that rises has its interrupt count
and publication there), and no byte of memory or flash. -/
def Obligations.BadAccessesAreReported : Prop :=
  ∀ (s : State) (a size w : Nat) (v : BitVec 64), 0x40000000 ≤ a → a + size ≤ 0x40410000 → 0 < size →
    ¬ (size = 4 ∧ a % 4 = 0) → s.dev.passes w .load a size = true → s.dev.passes w .store a size = true →
    (∃ t, exec (.loRead w a size .plain .good) s = .next t ∧ t.dev.rdata = 0 ∧ t.dev.on F.SYS_FLAG_ACCESS_ERR = true ∧
      t.dev.val F.SYS_ERR_ADDR = a ∧ t.dev.val F.SYS_ACCESS_CNT = min 0xFFFFFFFF (s.dev.val F.SYS_ACCESS_CNT + 1) ∧
      s.dev.sameRegsBut t.dev [F.SYS_FLAG_ACCESS_ERR, F.SYS_ERR_ADDR, F.SYS_ACCESS_CNT] ∧ s.sameStores t) ∧
    (∃ t, exec (.registerWrite w a size v .plain .good) s = .next t ∧ t.dev.on F.SYS_FLAG_ACCESS_ERR = true ∧
      t.dev.val F.SYS_ERR_ADDR = a ∧ t.dev.val F.SYS_ACCESS_CNT = min 0xFFFFFFFF (s.dev.val F.SYS_ACCESS_CNT + 1) ∧
      s.dev.sameRegsBut t.dev [F.SYS_FLAG_ACCESS_ERR, F.SYS_ERR_ADDR, F.SYS_ACCESS_CNT] ∧ s.sameStores t)

/-- Reserved offsets inside a window read 0 and ignore writes. An aligned 32-bit write to an address of the
peripheral windows at which the map has no register changes nothing; a read of it returns 0 and changes nothing
else. The port's accesses pass the protection of the core that makes them (R262). -/
def Obligations.ReservedOffsetsIgnoreAccesses : Prop :=
  ∀ (s : State) (a w : Nat) (v : BitVec 64), 0x40000000 ≤ a → a < 0x40410000 → a % 4 = 0 → rowAt a = none →
    s.dev.passes w .load a 4 = true → s.dev.passes w .store a 4 = true →
    exec (.registerWrite w a 4 v .plain .good) s = .next s.quietened ∧
    exec (.loRead w a 4 .plain .good) s = .next { s.quietened with dev := { s.quietened.dev with rdata := 0 } }

/-- A register without an effect of its own takes a write in its RW and WO bits and keeps its other bits. For every
32-bit register of the map whose write does no more than store (no effect, no shadow, no flag, not under the
write rule of R23), through a port whose access passes (R262), while clocks have brought about nothing in its
block that shows only now: its RW and WO bits become the written ones, its other bits keep their value, and no
other register, byte of memory or byte of flash changes. -/
def Obligations.PlainRegisterTakesItsWrite : Prop :=
  ∀ (s : State) (a w : Nat) (v : Word) (r : RegRow), 0x40000000 ≤ a → a < 0x40410000 → a % 4 = 0 →
    rowAt a = some r → r.pair = false → isShadow r.hand = false → r.ruled = 0 → r.w1c = 0 →
    s.dev.passes w .store a 4 = true → s.quietened.dev.settleAt a = s.quietened.dev →
    (Work.mk s.quietened.dev s.mem s.nv [] [] []).writeMem a v.toNat = none →
    s.quietened.dev.writeActs w a v.toNat = none →
    ∃ t, exec (.registerWrite w a 4 (v.setWidth 64) .plain .good) s = .next t ∧
      t.dev.reg a = BitVec.ofNat 32 (mix (s.dev.word a) v.toNat ((r.rw % 2 ^ 32) ||| (r.wo % 2 ^ 32))) ∧
      (∀ b, b ≠ a → t.dev.reg b = s.dev.reg b) ∧ s.sameStores t

/-- Memory takes a port's write lowest address first; a core's LR, SC and AMO act in TCM and shared SRAM; an access
with no ground faults. Plain writes: where every byte of a naturally aligned access that its core's protection
passes lies in memory, and a TCM word's check bits are good, the bytes are stored little-endian and every other
byte of memory and flash is as it was; in TCM and shared SRAM no register changes; for DRAM no request pends and
no speed change runs. Core accesses (R262), the place memory of TCM or shared SRAM: an SC whose core holds the
granule stores and answers 0, one whose core holds none stores nothing and answers 1, and either ends the
reservation; an LR takes it and reads. A use that the core's protection refuses, a plain use of an address with
nothing behind it outside DRAM, and an aligned atomic outside TCM and SRAM end with the access fault of their
kind (the atomic's is store/AMO): mcause, mtval and the saved pc as a standard trap has them, memory and flash
as they were; nothing behind the address sets BUS_ERR. A TCM word that cannot be corrected ends a read with a
load access fault and sets TCM_UE (of the TCM's own core: log entry 132). -/
def Obligations.MemoryTakesItsWrite : Prop :=
  (∀ (s : State) (a p size w : Nat) (v : BitVec 64), 0 < size → a % size = 0 → 4096 % size = 0 →
    (∀ i, i < size → s.dev.place (a + i) = .mem (p + i)) → s.dev.passes w .store a size = true →
    (p + size ≤ 0x10800000 ∨ (s.dev.drc.pend = [] ∧ s.dev.on F.DRC_STAT_FC_BUSY = false)) →
    ∃ t, exec (.registerWrite w a size v .plain .good) s = .next t ∧ t.pending = s.pending ∧
      (p + size ≤ 0x10800000 → (∀ b, t.dev.reg b = s.dev.reg b) ∧ t.dev.draws = s.dev.draws) ∧
      (∀ i, i < size → t.byte (p + i) = BitVec.ofNat 8 (v.toNat / 256 ^ i)) ∧
      (∀ b, (∀ i, i < size → b ≠ p + i) → t.byte b = s.byte b) ∧ (∀ b, t.nvByte b = s.nvByte b)) ∧
  (∀ (s : State) (h : Fin 5) (a p size : Nat) (v : BitVec 64), (size = 4 ∨ size = 8) → a % size = 0 → p % size = 0 →
    (∀ i, i < size → s.dev.place (a + i) = .mem (p + i)) → p + size ≤ 0x10800000 →
    s.dev.passes h .conditional a size = true → s.dev.passes h .reserve a size = true →
    (∃ t, exec (.registerWrite h a size v .conditional .good) s = .next t ∧ (t.dev.core h).resv = none ∧
      ((s.dev.core h).resv = some (p / 64) → t.dev.rdata = 0 ∧
        (∀ i, i < size → t.byte (p + i) = BitVec.ofNat 8 (v.toNat / 256 ^ i)) ∧
        (∀ b, (∀ i, i < size → b ≠ p + i) → t.byte b = s.byte b)) ∧
      ((s.dev.core h).resv ≠ some (p / 64) → t.dev.rdata = 1 ∧ s.sameStores t)) ∧
    (∃ t, exec (.loRead h a size .reserve .good) s = .next t ∧ (t.dev.core h).resv = some (p / 64) ∧ s.sameStores t ∧
      ∀ i, i < 4 → t.dev.rdata.extractLsb' (8 * i) 8 = s.byte (p + i))) ∧
  (∀ (s : State) (h : Fin 5) (a : Nat) (v : BitVec 64) (o : AmoOp), a % 4 = 0 →
    let gone := fun (t : State) (cause : Nat) => s.sameStores t ∧ (t.dev.core h).mcause = BitVec.ofNat 64 cause ∧
      (t.dev.core h).mtval = BitVec.ofNat 64 a ∧ (t.dev.core h).mepc = (s.dev.core h).pc &&& ~~~1#64 ∧
      (t.dev.core h).user = false ∧ (t.dev.core h).pc = (s.dev.core h).mtvec &&& ~~~3#64
    (s.dev.passes h .load a 4 = false → ∃ t, exec (.loRead h a 4 .plain .good) s = .next t ∧ gone t 5) ∧
    (s.dev.passes h .fetch a 4 = false → ∃ t, exec (.loRead h a 4 .fetch .good) s = .next t ∧ gone t 1) ∧
    (s.dev.passes h .store a 4 = false → ∃ t, exec (.registerWrite h a 4 v .plain .good) s = .next t ∧ gone t 7) ∧
    (s.dev.place a = .nothing → s.dev.beyond a 4 = false → s.dev.passes h .load a 4 = true →
      ∃ t, exec (.loRead h a 4 .plain .good) s = .next t ∧ gone t 5 ∧ t.dev.on (F.ICU_HLMh_FLAG_BUS_ERR h) = true) ∧
    (s.dev.place a = .peri ∨ dramBase ≤ a → s.dev.passes h .amo a 4 = true →
      ∃ t, exec (.registerWrite h a 4 v (.amo o) .good) s = .next t ∧ gone t 7) ∧
    (∀ k : Fin 5, (s.dev.place a).tcm = some k.val → s.dev.passes h .load a 4 = true →
      ∃ t, exec (.loRead h a 4 .plain .bad) s = .next t ∧ gone t 5 ∧ t.dev.on (F.ICU_HLMh_FLAG_TCM_UE k) = true))

/-- A write to a shadow enters the shadow and sets the block's SHADOW_PEND. For every shadow register of the map,
written through a port whose access passes (R262): its bits that take writes become the written ones,
SHADOW_PEND of its block reads 1, no register but the shadow and the block's status changes, nor any byte of
memory or flash. -/
def Obligations.ShadowWriteIsPending : Prop :=
  ∀ (s : State) (a w : Nat) (v : Word) (pend : Fld) (r : RegRow), ShadowAt a pend → rowAt a = some r →
    s.dev.passes w .store a 4 = true →
    ∃ t, exec (.shadowWrite w a v) s = .next t ∧
      t.dev.reg a = BitVec.ofNat 32 (mix (s.dev.word a) v.toNat (r.rw % 2 ^ 32)) ∧ t.dev.on pend = true ∧
      (∀ b, b ≠ a → b ≠ pend.addr → t.dev.reg b = s.dev.reg b) ∧ s.sameStores t

/-- ABORT clears EN and sets IDLE of the block at once, and no drain holds a new EN back. For every block that has
an ABORT bit (the service port has none) but the marker heads, whose LAT and exchange R194 lets complete: after
ABORT, whatever the block was doing, EN reads 0, IDLE reads 1, and an EN set before does not restart the block. -/
def Obligations.AbortStopsABlock : Prop :=
  ∀ (b : Block) (s : State), b ≠ .svcPort → (∀ n, b ≠ .head n) →
    ∃ t, exec (.abort b) s = .next t ∧ t.dev.on (blockEn b) = false ∧ t.dev.on (blockIdle b) = true ∧
      t.dev.restart.contains (blockEn b).addr = false ∧ t.pending = s.pending ∧ (∀ a, t.nvByte a = s.nvByte a)

/-- Clearing EN stops a block's intake. For every block: after BLOCK_DISABLE the block does not take in work,
whether it has finished or drains; memory, flash and the queue are as they were. -/
def Obligations.DisableStopsIntake : Prop :=
  ∀ (b : Block) (s : State),
    ∃ t, exec (.blockDisable b) s = .next t ∧ t.dev.runs (blockEn b) (blockIdle b) = false ∧ s.sameStores t

/-- When the work in flight is complete IDLE is set, and an EN set during the drain then takes effect. For strobes
with no pulse standing in a drain: with no EN set meanwhile IDLE reads 1 and EN 0; with EN set meanwhile the
strobe takes in work again. The service port with no command running, and a marker head with no exchange on
MKn_ID under way, in a drain with no EN set meanwhile: IDLE reads 1, for the head once its LAT and FIRE pulses
have ended. -/
def Obligations.DrainEndsAndMayRestart : Prop :=
  ∀ s : State,
    (∀ t : Fin 96, s.dev.on (F.STBt_STAT_ON t) = false → s.dev.on (F.STBt_STAT_IDLE t) = false →
      (s.dev.on (F.STBt_CFG_EN t) = false → s.dev.restart.contains (F.STBt_CFG_EN t).addr = false →
        ∃ u, exec (.drainComplete (.strobe t)) s = .next u ∧ u.dev.on (F.STBt_STAT_IDLE t) = true ∧
          u.dev.on (F.STBt_CFG_EN t) = false ∧ s.sameStores u) ∧
      (s.dev.on (F.STBt_CFG_EN t) = true → s.dev.restart.contains (F.STBt_CFG_EN t).addr = true →
        ∃ u, exec (.drainComplete (.strobe t)) s = .next u ∧
          u.dev.runs (F.STBt_CFG_EN t) (F.STBt_STAT_IDLE t) = true ∧ s.sameStores u)) ∧
    (s.dev.svc.run = none → s.dev.on F.SVC_STAT_IDLE = false →
      s.dev.on F.SVC_CTRL_EN = false → s.dev.restart.contains F.SVC_CTRL_EN.addr = false →
        ∃ u, exec (.drainComplete .svcPort) s = .next u ∧ u.dev.on F.SVC_STAT_IDLE = true ∧ s.sameStores u) ∧
    (∀ n : Fin 16, (s.dev.head n).wait = .idle → s.dev.on (F.MRKn_STAT_IDLE n) = false →
      s.dev.on (F.MRKn_CFG_EN n) = false → s.dev.restart.contains (F.MRKn_CFG_EN n).addr = false →
        ∃ u, exec (.drainComplete (.head n)) s = .next u ∧ u.dev.on (F.MRKn_STAT_IDLE n) = true ∧
          (s.dev.head n).latEnd ≤ u.dev.now ∧ (s.dev.head n).fireEnd ≤ u.dev.now ∧ s.sameStores u)

/-- An accepted change of state moves the count by one, a double change leaves it and is flagged and counted. For a
channel that runs in quadrature mode, with the state code q of its last levels and q' of the new ones, each
input that changes having stood at its last level for GLITCH or longer (a shorter pulse leaves count and levels
as they were): a step to q + 1 moves the count by +1, to q - 1 by -1, DIR = 1 swapping the two; a double change
leaves the count, sets QERR and adds 1 to LOGn_QERR_CNT. Without interpolation LOGn_POS then reads 256 times the
count. For a channel that is not the unit's source nothing changes beside the channel's own status, position,
flags and compare backlogs, the device time, and ICU and EVT. The count appears GLITCH + 12 ns after the first
sample (log entry 16). -/
def Obligations.QuadratureEdgesCount : Prop :=
  ∀ (s : State) (n : Fin 32) (a b : Bool) (tm : Nat),
    let d := s.dev
    let q := quadCode (bitOf (d.val (F.LOGn_STAT_ABZ n)) 0) (bitOf (d.val (F.LOGn_STAT_ABZ n)) 1)
    let fwd := if d.on (F.LOGn_CFG_DIR n) then -1 else 1
    let newA := a != bitOf (d.val (F.LOGn_STAT_ABZ n)) 0
    let newB := b != bitOf (d.val (F.LOGn_STAT_ABZ n)) 1
    (((newA && ! d.settled n (d.logch n).chA tm) || (newB && ! d.settled n (d.logch n).chB tm)) = true →
      ∃ t, exec (.acceptedEdge n a b tm) s = .next t ∧ s.sameStores t ∧
        (t.dev.logch n).count = (d.logch n).count ∧ d.sameRegsBut t.dev [F.MER_TIME]) ∧
    (((newA && ! d.settled n (d.logch n).chA tm) || (newB && ! d.settled n (d.logch n).chB tm)) = false →
    d.chanRuns n 1 = true → (d.logch n).count.natAbs < 2 ^ 54 →
    ∃ t, exec (.acceptedEdge n a b tm) s = .next t ∧ s.sameStores t ∧
      (quadCode a b = q → (t.dev.logch n).count = (d.logch n).count) ∧
      (quadCode a b = (q + 1) % 4 → (t.dev.logch n).count = (d.logch n).count + fwd) ∧
      (quadCode a b = (q + 3) % 4 → (t.dev.logch n).count = (d.logch n).count - fwd) ∧
      (quadCode a b = (q + 2) % 4 → (t.dev.logch n).count = (d.logch n).count ∧ t.dev.on (F.LOGn_FLAG_QERR n) = true ∧
        t.dev.val (F.LOGn_QERR_CNT n) = min 0xFFFFFFFF (d.val (F.LOGn_QERR_CNT n) + 1)) ∧
      (d.isSource n = false →
        (quadCode a b ≠ q → d.on (F.LOGn_CFG_INTERP n) = false →
          t.dev.vali (F.LOGn_POS n) = 256 * (t.dev.logch n).count) ∧
        d.sameRegsBut t.dev [⟨R.LOGn_STAT n, 0, 32⟩, F.LOGn_POS n, ⟨R.LOGn_FLAG n, 0, 32⟩, F.LOGn_QERR_CNT n, F.MER_TIME,
          F.LOGn_CMPm_CTRL_BACKLOG n 0, F.LOGn_CMPm_CTRL_BACKLOG n 1, F.LOGn_CMPm_CTRL_BACKLOG n 2,
          F.LOGn_CMPm_CTRL_BACKLOG n 3]))

/-- Standstill freezes the fraction, interpolation never reaches the next count, SSI values move the count.
STANDSTILL of a running channel sets its standstill bit, and the unit's when the channel is the source. The
interpolated position at an instant is 256 x count plus the signed fraction, at most 255 of 256, held at the
limits of R16. An SSI read puts out its clocked bits and is busy until its frame ends. At the end of a frame a
line that is not high, or an error bit of 1 with ERRBIT set, sets SSI_ERR and leaves the count and the baseline;
the first good value is the baseline and leaves the count; a later one moves the count by its signed difference
when that is within SSI_STEP, and sets SSI_JUMP with count and baseline kept when it is not. -/
def Obligations.StandstillInterpolationAndSsi : Prop :=
  ∀ (s : State) (n : Fin 32),
    (s.dev.runs (F.LOGn_CFG_EN n) (F.LOGn_STAT_IDLE n) = true → s.dev.on (F.LOGn_STAT_STANDSTILL n) = false →
      ∃ t, exec (.standstill n) s = .next t ∧ t.dev.on (F.LOGn_STAT_STANDSTILL n) = true ∧
        (t.dev.isSource n = true → t.dev.on F.LOG_STAT_STANDSTILL = true) ∧ s.sameStores t) ∧
    (∀ tm : Nat, s.dev.chanRuns n 1 = true → s.dev.isSource n = false → s.dev.now ≤ tm → 0 < (s.dev.logch n).per →
      (s.dev.logch n).perValid = true → s.dev.on (F.LOGn_STAT_STANDSTILL n) = false →
      ∃ t, exec (.ticksBetweenCounts n tm) s = .next t ∧ s.sameStores t ∧ t.dev.now = tm ∧
        t.dev.vali (F.LOGn_POS n) = clampI posMin posMax (256 * (s.dev.logch n).count +
          if s.dev.on (F.LOGn_CFG_INTERP n) then s.dev.chanDir n *
            (min 255 (256 * (tm - (s.dev.logch n).lastEdge) / (s.dev.logch n).per) : Nat) else 0)) ∧
    (s.dev.chanRuns n 2 = true → (s.dev.logch n).ssiBusy = false →
      ∃ t, exec (.ssiRead n) s = .next t ∧ (t.dev.logch n).ssiBusy = true ∧
        t.dev.out = [.ssi n (s.dev.ssiBits n + s.dev.val (F.LOGn_SSI_CFG_ERRBIT n))] ∧
        s.dev.sameRegsBut t.dev [F.MER_TIME] ∧ s.sameStores t) ∧
    (∀ (bits : Nat) (err high : Bool), (s.dev.logch n).ssiBusy = true → (s.dev.logch n).count.natAbs < 2 ^ 54 →
      let k := s.dev.ssiBits n
      let v := if s.dev.on (F.LOGn_SSI_CFG_GRAY n) then grayDecode 6 (bits % 2 ^ k) else bits % 2 ^ k
      let bad := ! high || (err && s.dev.on (F.LOGn_SSI_CFG_ERRBIT n))
      ∃ t, exec (.ssiFrameEnd n bits err high) s = .next t ∧ (t.dev.logch n).ssiBusy = false ∧ s.sameStores t ∧
        (bad = true → t.dev.on (F.LOGn_FLAG_SSI_ERR n) = true ∧ (t.dev.logch n).count = (s.dev.logch n).count) ∧
        (bad = false → (s.dev.logch n).ssiPrev = none → (t.dev.logch n).count = (s.dev.logch n).count) ∧
        (∀ p, bad = false → (s.dev.logch n).ssiPrev = some p →
          let delta := toSigned k (((v : Int) - p) % 2 ^ k).toNat
          (delta.natAbs ≤ s.dev.val (F.LOGn_SSI_STEP n) → (t.dev.logch n).count = (s.dev.logch n).count + delta) ∧
          (s.dev.val (F.LOGn_SSI_STEP n) < delta.natAbs → (t.dev.logch n).count = (s.dev.logch n).count ∧
            t.dev.on (F.LOGn_FLAG_SSI_JUMP n) = true)))

/-- The index latches without altering the count, a window gives its sample, and reads and scale writes do no more.
An accepted index edge, Z having stood at its last level for GLITCH or longer, stores 256 x count in
LOGn_INDEX_POS, adds 1 to LOGn_INDEX_CNT and leaves the count. The end of a speed window stores net count x
1,000,000 / WINDOW, truncated toward zero, in LOGn_SPEED and opens the next window empty. A read of LOGn_SPEED
returns it and latches LOGn_SPD_STAT of that sample; a read of DRIFT_HIST0 latches the seven other words. A
write of LOG_SCALE stands, cancels a drift ramp, and changes no other register: no position, grid row or trigger
moves. -/
def Obligations.SpeedIndexAndScale : Prop :=
  ∀ (s : State) (n : Fin 32),
    (∀ tm : Nat, let d := s.dev
     d.settled n (d.logch n).chZ tm = true → d.chanRuns n 1 = true → d.on (F.LOGn_INDEX_CTRL_ZEN n) = true → bitOf (d.val (F.LOGn_STAT_ABZ n)) 2 = false →
      (d.on (F.LOGn_INDEX_CTRL_ZGATE_EN n) = false ∨ d.val (F.LOGn_INDEX_CTRL_ZGATE n) =
        quadCode (bitOf (d.val (F.LOGn_STAT_ABZ n)) 0) (bitOf (d.val (F.LOGn_STAT_ABZ n)) 1)) →
      (d.logch n).count.natAbs < 2 ^ 54 →
      ∃ t, exec (.indexLatch n true tm) s = .next t ∧ t.dev.vali (F.LOGn_INDEX_POS n) = 256 * (d.logch n).count ∧
        t.dev.val (F.LOGn_INDEX_CNT n) = min 0xFFFFFFFF (d.val (F.LOGn_INDEX_CNT n) + 1) ∧
        (t.dev.logch n).count = (d.logch n).count ∧ t.dev.vali (F.LOGn_POS n) = d.vali (F.LOGn_POS n) ∧
        s.sameStores t) ∧
    (s.dev.runs (F.LOGn_CFG_EN n) (F.LOGn_STAT_IDLE n) = true →
      ∃ t, exec (.speedWindowEnd n) s = .next t ∧
        t.dev.vali (F.LOGn_SPEED n) = clampI (-(2 ^ 31)) (2 ^ 31 - 1)
          (Int.tdiv ((s.dev.logch n).winNet * 1000000) (min 100000 (max 50 (s.dev.val (F.LOGn_SPD_CFG_WINDOW n))))) ∧
        (t.dev.logch n).winNet = 0 ∧ (t.dev.logch n).winEdges = 0 ∧ (t.dev.logch n).winRev = false ∧
        s.dev.sameRegsBut t.dev [F.MER_TIME, F.LOGn_SPEED n, ⟨R.FLTc_STAT (16 + n), 0, 32⟩, F.LOG_SPEED,
          F.LOG_STAT_SPD_VALID] ∧ s.sameStores t) ∧
    (∃ t, exec (.speedRead n) s = .next t ∧ t.dev.rdata = s.dev.reg (R.LOGn_SPEED n) ∧
        t.dev.reg (R.LOGn_SPD_STAT n) = BitVec.ofNat 32 (s.dev.logch n).spdStat ∧
        s.dev.sameRegsBut t.dev [⟨R.LOGn_SPD_STAT n, 0, 32⟩] ∧ s.sameStores t) ∧
    (∃ t, exec (.driftHistRead n) s = .next t ∧ t.dev.rdata = s.dev.reg (R.LOGn_DRIFT_HISTk n 0) ∧
        (∀ k, 1 ≤ k → k < 8 → t.dev.val (F.LOGn_DRIFT_HISTk n k) = histWord (s.dev.logch n).hist k % 2 ^ 32) ∧
        (∀ a, (∀ k, 1 ≤ k → k < 8 → a ≠ R.LOGn_DRIFT_HISTk n k) → t.dev.reg a = s.dev.reg a) ∧ s.sameStores t) ∧
    (∀ v : Word, ∃ t, exec (.logScaleWrite v) s = .next t ∧ t.dev.reg R.LOG_SCALE = v ∧ t.dev.log.ramp = none ∧
        t.dev.on F.LOG_STAT_RAMP = false ∧
        (∀ a, a ≠ R.LOG_SCALE → a ≠ R.LOG_STAT → t.dev.reg a = s.dev.reg a) ∧ s.sameStores t)

/-- A ONCE unit hits once and turns off, a REGULAR unit hits at every PITCH of the high-water mark. A ONCE unit that
owes its hit counts it in HIT_CNT and its MODE then reads 0. A REGULAR unit that no marker head names, with VAL
at or below the high-water mark and at most 16 hits owed, adds PITCH (at least 64) to VAL, counts the hit, and
BACKLOG shows the hits still owed. Memory, flash and queue stay. -/
def Obligations.CompareHits : Prop :=
  ∀ (s : State) (n : Fin 32) (m : Fin 4),
    (s.dev.val (F.LOGn_CMPm_CTRL_MODE n m) = 1 ∨ s.dev.val (F.LOGn_CMPm_CTRL_MODE n m) = 2 →
      s.dev.val (F.LOGn_CMPm_CTRL_BACKLOG n m) ≠ 0 →
      ∃ t, exec (.compareHit n m) s = .next t ∧ t.dev.val (F.LOGn_CMPm_CTRL_MODE n m) = 0 ∧
        t.dev.val (F.LOGn_CMPm_CTRL_BACKLOG n m) = 0 ∧
        t.dev.val (F.LOGn_CMPm_HIT_CNT n m) = min 0xFFFFFFFF (s.dev.val (F.LOGn_CMPm_HIT_CNT n m) + 1) ∧
        s.dev.sameRegsBut t.dev [F.LOGn_CMPm_CTRL_MODE n m, F.LOGn_CMPm_HIT_CNT n m] ∧ s.sameStores t) ∧
    (let v := s.dev.vali (F.LOGn_CMPm_VAL n m)
     let p : Int := max 64 (s.dev.val (F.LOGn_CMPm_PITCH n m))
     s.dev.val (F.LOGn_CMPm_CTRL_MODE n m) = 3 → s.dev.headsOf n m = [] → s.dev.headOf n m = none →
      v ≤ s.dev.vali F.LOG_HWM → s.dev.vali F.LOG_HWM < v + 16 * p → v + p < 2 ^ 63 →
      ∃ t, exec (.compareHit n m) s = .next t ∧ t.dev.vali (F.LOGn_CMPm_VAL n m) = v + p ∧
        t.dev.val (F.LOGn_CMPm_HIT_CNT n m) = min 0xFFFFFFFF (s.dev.val (F.LOGn_CMPm_HIT_CNT n m) + 1) ∧
        (t.dev.val (F.LOGn_CMPm_CTRL_BACKLOG n m) : Int) = (s.dev.vali F.LOG_HWM - v) / p ∧
        s.dev.sameRegsBut t.dev [F.LOGn_CMPm_CTRL_BACKLOG n m, F.LOGn_CMPm_HIT_CNT n m, F.LOGn_CMPm_VAL n m, F.MER_TIME] ∧
        s.sameStores t)

/-- At the effective instant the stamp is written and a pin pulses; the symbol leaves with its residual and
sequence. EFFECTIVE_INSTANT of a stream that does not drain writes, in the entry named by the low 8 bits of the
crossing, a fresh stamp with the crossing, the device time of that instant and the line position; on the pin
path, with the pin assigned to TRG, the pulse of at least 8 ns starts there. TRIGGER_SYMBOL sends K28.1 at the
boundary of the earliest trigger not sent on the channel; VC with RES leaves at the next boundary and the low 8
bits of k at the one after it, each sent already or held for it, and the stream's status shows those bits. -/
def Obligations.TriggersAreStampedAndSent : Prop :=
  (∀ (s : State) (q : Fin 64) (x : Trig),
    (s.dev.trgs q).trigs.find? (fun y => ! y.stamped) = some x → s.dev.now ≤ x.eff →
    s.dev.drains (F.TRGs_CFG_EN q) (F.TRGs_STAT_IDLE q) = false →
    ∃ t, exec (.effectiveInstant q) s = .next t ∧ s.sameStores t ∧ t.dev.now = x.eff ∧
      (let e : Stamp := tabGet {} (t.dev.trgs q).stamps (x.k % 256).toNat
       e.written = true ∧ e.used = false ∧ e.k = x.k ∧ e.time = t.dev.devTime ∧ e.pos = t.dev.linePos x.off x.eff) ∧
      (x.pin = true → s.dev.val (F.SYS_UTPu_CFG_OWNER (s.dev.val (F.TRGs_CFG_UTP q))) = 1 →
        t.dev.out = [.utp (s.dev.val (F.TRGs_CFG_UTP q)) x.eff (max 8 (s.dev.val (F.TRGs_CFG_PULSE q)))
          (! s.dev.on (F.TRGs_CFG_POL q))])) ∧
  (∀ (s : State) (c : Fin 16) (q : Nat) (x : Trig), s.dev.nextSymbol c = some (q, x) →
    ∃ t, exec (.triggerSymbol c) s = .next t ∧ s.sameStores t ∧
      Out.svc c (t.dev.instantOf x.bnd) [(true, 0x3C)] ∈ t.dev.out ∧
      (∀ y ∈ [(x.bnd + 40, BitVec.ofNat 8 (64 * s.dev.val (F.TRGs_CFG_VC q) + x.res)),
          (x.bnd + 80, BitVec.ofNat 8 (x.k % 256).toNat)],
        (q, y) ∈ (t.dev.svch c).sym ∨ Out.svc c (t.dev.instantOf y.1) [(false, y.2)] ∈ t.dev.out) ∧
      t.dev.val (F.TRGs_STAT_SEQ q) = (x.k % 256).toNat)

/-- A stopped stream issues no crossing; what is discarded or dropped counts as skipped. TRIGGER_DISABLE clears EN
and discards the deferred triggers that have not been sent, each counted in SKIP_CNT. TRIGGER_ABORT drops every
trigger not sent in full, each counted in SKIP_CNT, clears EN and sets IDLE; what is left of a symbol of the
stream in progress is not sent. Only those fields change outside the Reckoner's window (which follows the other
streams, R144), ICU and EVT; OVERSPEED is not set. While the Reckoner stands, of its window no more than
TRIG_OFF changes. -/
def Obligations.TriggerDisableAndAbort : Prop :=
  ∀ (s : State) (q : Fin 64),
    (s.dev.on (F.TRGs_CFG_EN q) = true →
      ∃ t, exec (.triggerDisable q) s = .next t ∧ t.dev.on (F.TRGs_CFG_EN q) = false ∧
        t.dev.val (F.TRGs_SKIP_CNT q) = min 0xFFFFFFFF (s.dev.val (F.TRGs_SKIP_CNT q) +
          ((s.dev.trgs q).trigs.filter (fun x => x.deferred && ! x.sent)).length) ∧
        (∀ a, (∀ f ∈ [F.TRGs_CFG_EN q, F.TRGs_STAT_IDLE q, F.TRGs_SKIP_CNT q], ¬ f.At a) → evIcu a = false →
          (a / 0x10000 ≠ 0x4013 ∨ (s.dev.stc.nextRow = none ∧ ∀ i : Fin 64, a ≠ R.STC_CAMs_STAT i)) →
          t.dev.reg a = s.dev.reg a) ∧ s.sameStores t) ∧
    (∃ t, exec (.triggerAbort q) s = .next t ∧ t.dev.on (F.TRGs_CFG_EN q) = false ∧
        t.dev.on (F.TRGs_STAT_IDLE q) = true ∧ (t.dev.trgs q).trigs = [] ∧
        t.dev.val (F.TRGs_SKIP_CNT q) = min 0xFFFFFFFF (s.dev.val (F.TRGs_SKIP_CNT q) +
          ((s.dev.trgs q).trigs.filter (fun x => ! x.full s.dev.now)).length) ∧
        (∀ e ∈ (t.dev.svch (q / 4)).sym, e.1 ≠ q.val) ∧
        (∀ a, (∀ f ∈ [F.TRGs_CFG_EN q, F.TRGs_STAT_IDLE q, F.TRGs_SKIP_CNT q], ¬ f.At a) → evIcu a = false →
          (a / 0x10000 ≠ 0x4013 ∨ (s.dev.stc.nextRow = none ∧ ∀ i : Fin 64, a ≠ R.STC_CAMs_STAT i)) →
          t.dev.reg a = s.dev.reg a) ∧ s.sameStores t)

/-- A start turns the strobe on and counts, an overlapping start only moves the end, and the end turns it off. In
time mode the next start that waits, whose instant has not passed, turns the ball on there (inverted by POL),
counts in FIRE_CNT and ends after WIDTH, 4 to 1,048,575 ns; a start during the pulse moves the end and counts in
OVL_CNT. In tick mode the pending start turns the ball on once the high-water mark has reached it. STROBE_END
turns the ball off. -/
def Obligations.StrobesPulse : Prop :=
  ∀ (s : State) (b : Fin 96),
    (∀ a rest, (s.dev.stb b).starts = a :: rest → s.dev.now ≤ a →
      ∃ t, exec (.strobeStart b) s = .next t ∧ s.sameStores t ∧ t.dev.on (F.STBt_STAT_ON b) = true ∧
        (t.dev.stb b).endAt = a + min 1048575 (max 4 (s.dev.val (F.STBt_WIDTH b))) ∧ (t.dev.stb b).starts = rest ∧
        (s.dev.on (F.STBt_STAT_ON b) = false → t.dev.out = [.strobe b a (! s.dev.on (F.STBt_CFG_POL b))] ∧
          t.dev.val (F.STBt_FIRE_CNT b) = min 0xFFFFFFFF (s.dev.val (F.STBt_FIRE_CNT b) + 1)) ∧
        (s.dev.on (F.STBt_STAT_ON b) = true → t.dev.out = [] ∧
          t.dev.val (F.STBt_OVL_CNT b) = min 0xFFFFFFFF (s.dev.val (F.STBt_OVL_CNT b) + 1)) ∧
        s.dev.sameRegsBut t.dev [F.STBt_STAT_ON b, F.STBt_FIRE_CNT b, F.STBt_OVL_CNT b, F.MER_TIME]) ∧
    (∀ p, (s.dev.stb b).starts = [] → (s.dev.stb b).tickStart = some p → p ≤ s.dev.vali F.LOG_HWM →
      ∃ t, exec (.strobeStart b) s = .next t ∧ s.sameStores t ∧ t.dev.on (F.STBt_STAT_ON b) = true ∧
        t.dev.on (F.STBt_STAT_PENDING b) = false ∧ (t.dev.stb b).endPos = some (p + s.dev.val (F.STBt_WIDTH b)) ∧
        s.dev.sameRegsBut t.dev [F.STBt_STAT_ON b, F.STBt_FIRE_CNT b, F.STBt_OVL_CNT b]) ∧
    (s.dev.on (F.STBt_STAT_ON b) = true →
      ∃ t, exec (.strobeEnd b) s = .next t ∧ s.sameStores t ∧ t.dev.on (F.STBt_STAT_ON b) = false ∧
        (∃ at', t.dev.out = [.strobe b at' (s.dev.on (F.STBt_CFG_POL b))] ∧ s.dev.now ≤ at') ∧
        s.dev.sameRegsBut t.dev [F.STBt_STAT_ON b, F.STBt_CFG_EN b, F.MER_TIME])

/-- The master launches beacons and payloads; a unit takes them, loses lock without them, extrapolates and freezes.
A master's launch takes the next sequence number 1 us after the last. A good beacon from the settled beacon
side, on a unit whose source is the beacons, restores LS_LOCK and ends HOLDOVER and FROZEN. Without one, whether
or not a good one ever came, BEACON_LOST is set and counted, LS_LOCK cleared and HOLDOVER set unless FROZEN is;
later HOLDOVER ends, FROZEN is set and that is standstill. Between them the position is extrapolated from the
last beacon. A master with BCN_NET_TX gives its payload to the POS flow that NET_POS names: the flow's item
number advances by one. -/
def Obligations.LockStepFollowsTheMaster : Prop :=
  ∀ s : State,
    (s.dev.on F.TRG_CTRL_BCN_MASTER = true → s.dev.now ≤ s.dev.trg.bcnAt + 1000 →
      ∃ t, exec .beaconLaunch s = .next t ∧ s.sameStores t ∧ t.dev.trg.bcnSeq = (s.dev.trg.bcnSeq + 1) % 65536 ∧
        t.dev.now = s.dev.trg.bcnAt + 1000 ∧ t.dev.trg.bcnAt = t.dev.now) ∧
    (∀ (side : Side) (f : ChainFrame), f.type = 1 → (s.dev.chainCheck side f).2 = true →
      (f.srcHop = s.dev.hop ∧ s.dev.on F.CHN_STAT_ADDR_VALID = true → False) → f.bcast = true →
      s.dev.chn.sideKnown = true → s.dev.fromBeaconSide side = true → s.dev.posSrc = 1 →
      ∃ t, exec (.beacon side f) s = .next t ∧ s.sameStores t ∧ t.dev.on F.TRG_STAT_LS_LOCK = true ∧
        t.dev.on F.TRG_STAT_HOLDOVER = false ∧ t.dev.on F.TRG_STAT_FROZEN = false ∧ t.dev.trg.recon.valid = true ∧
        t.dev.trg.recon.lastRx = s.dev.now) ∧
    (s.dev.posSrc ≠ 0 → (s.dev.on F.TRG_STAT_LS_LOCK = true ∨ s.dev.trg.recon.lost = false) →
      ∃ t, exec .beaconLost s = .next t ∧ s.sameStores t ∧ t.dev.on F.TRG_FLAG_BEACON_LOST = true ∧
        t.dev.val F.TRG_BEACON_LOST_CNT = min 0xFFFFFFFF (s.dev.val F.TRG_BEACON_LOST_CNT + 1) ∧
        t.dev.on F.TRG_STAT_LS_LOCK = false ∧ t.dev.on F.TRG_STAT_HOLDOVER = ! s.dev.on F.TRG_STAT_FROZEN) ∧
    (s.dev.posSrc ≠ 0 → s.dev.on F.TRG_STAT_FROZEN = false →
      ∃ t, exec .frozen s = .next t ∧ s.sameStores t ∧ t.dev.on F.TRG_STAT_FROZEN = true ∧
        t.dev.on F.TRG_STAT_HOLDOVER = false ∧ t.dev.on F.LOG_STAT_STANDSTILL = true) ∧
    (∀ tm, s.dev.posSrc ≠ 0 → s.dev.trg.recon.valid = true → s.dev.on F.TRG_STAT_FROZEN = false → s.dev.now ≤ tm →
      ∃ t, exec (.extrapolation tm) s = .next t ∧ s.sameStores t ∧ t.dev.now = tm ∧
        t.dev.vali F.LOG_POS = clampI posMin posMax (s.dev.trg.recon.at tm)) ∧
    (s.dev.on F.TRG_CTRL_BCN_MASTER = true → s.dev.on F.TRG_CTRL_BCN_NET_TX = true →
      s.dev.flowType (s.dev.val F.NET_POS_FLOW) = 6 → s.dev.flowRuns (s.dev.val F.NET_POS_FLOW) = true →
      s.dev.linkSeen (s.dev.val (F.NET_Ff_CFG_PORT (s.dev.val F.NET_POS_FLOW))) = true →
      ∃ t, exec .posPayloadSend s = .next t ∧ s.sameStores t ∧ t.dev.trg.netAt = t.dev.now ∧
        (t.dev.nflow (s.dev.val F.NET_POS_FLOW)).itemNo = ((s.dev.nflow (s.dev.val F.NET_POS_FLOW)).itemNo + 1) % 2 ^ 32)

/-- Filter outputs settle, a lost lamp signal clears VALID, taps go to the idle bank, a switch fades, a preset
restarts. A running channel takes four samples of its front section per output, newest first; its output becomes
valid with the thirteenth since a restart. Without a lamp signal NO_SIGNAL is set and VALID cleared until it
returns, and a drain ends. COEF_DATA writes the tap at COEF_IDX of the idle bank and advances the index; SWITCH
makes the idle bank active and starts a fade; both set COEF_BUSY and do nothing else during a fade. A preset
that changes restarts a running channel: SETTLING is set. -/
def Obligations.FilterChain : Prop :=
  ∀ (s : State) (c : Fin 48) (l : Fin 16),
    (∀ bits : List Bool, s.dev.on (F.FLTc_STAT_IDLE c) = false → (s.dev.fltc c).silent = false →
      s.dev.drains (fltEn c) (F.FLTc_STAT_IDLE c) = false →
      ∃ t, exec (.filterOutput c bits) s = .next t ∧ s.sameStores t ∧
        (t.dev.fltc c).line.length = min 256 ((s.dev.fltc c).line.length + 4) ∧
        (t.dev.fltc c).line.drop 4 = (s.dev.fltc c).line.take 252 ∧
        (t.dev.fltc c).settle = min 13 ((s.dev.fltc c).settle + 1) ∧
        (12 ≤ (s.dev.fltc c).settle → t.dev.on (F.FLTc_STAT_SETTLING c) = false)) ∧
    (s.dev.on (F.FLTc_STAT_IDLE l) = false → (s.dev.fltc l).silent = false →
      ∃ t, exec (.noSignal l) s = .next t ∧ t.dev.on (F.FLTc_FLAG_NO_SIGNAL l) = true ∧
        t.dev.on (F.FLTc_STAT_VALID l) = false ∧ (t.dev.fltc l).silent = true ∧
        (s.dev.drains (fltEn l) (F.FLTc_STAT_IDLE l) = false →
          s.dev.sameRegsBut t.dev [F.FLTc_STAT_VALID l, F.FLTc_FLAG_NO_SIGNAL l]) ∧
        (s.dev.on (fltEn l) = false → s.dev.restart.contains (fltEn l).addr = false →
          t.dev.on (F.FLTc_STAT_IDLE l) = true) ∧ s.sameStores t) ∧
    ((s.dev.fltc l).silent = true →
      ∃ t, exec (.lampSignalReturn l) s = .next t ∧ (t.dev.fltc l).silent = false ∧
        t.dev.on (F.FLTc_STAT_VALID l) = ! s.dev.on (F.FLTc_STAT_SETTLING l) ∧
        s.dev.sameRegsBut t.dev [F.FLTc_STAT_VALID l] ∧ s.sameStores t) ∧
    (∀ v : Word, s.dev.on (F.FLTc_STAT_FADING c) = false →
      ∃ t, exec (.coefDataWrite c v) s = .next t ∧
        tabGet 0 (t.dev.fltc c).taps ((1 - s.dev.val (F.FLTc_STAT_BANK c)) * 128 + s.dev.val (F.FLTc_COEF_IDX c) % 128) =
          v.toNat % 2 ^ 24 ∧
        t.dev.val (F.FLTc_COEF_IDX c) = (s.dev.val (F.FLTc_COEF_IDX c) % 128 + 1) % 128 ∧
        s.dev.sameRegsBut t.dev [F.FLTc_COEF_IDX c] ∧ s.sameStores t) ∧
    (s.dev.on (F.FLTc_STAT_FADING c) = false →
      ∃ t, exec (.switch c) s = .next t ∧ t.dev.val (F.FLTc_STAT_BANK c) = 1 - s.dev.val (F.FLTc_STAT_BANK c) ∧
        t.dev.on (F.FLTc_STAT_FADING c) = true ∧ t.dev.on (F.FLTc_STAT_SHADOW_PEND c) = false ∧
        t.dev.reg (R.FLTc_FCFG_ACT c) = s.dev.reg (R.FLTc_FCFG_SH c) ∧
        s.dev.sameRegsBut t.dev [F.FLTc_STAT_BANK c, ⟨R.FLTc_FCFG_ACT c, 0, 32⟩] ∧ s.sameStores t) ∧
    (∀ v : Word, s.dev.on (F.FLTc_STAT_FADING c) = true →
      (∃ t, exec (.switch c) s = .next t ∧ t.dev.on (F.FLTc_FLAG_COEF_BUSY c) = true ∧
        s.dev.sameRegsBut t.dev [F.FLTc_FLAG_COEF_BUSY c] ∧ s.sameStores t) ∧
      (∃ t, exec (.coefDataWrite c v) s = .next t ∧ t.dev.on (F.FLTc_FLAG_COEF_BUSY c) = true ∧
        s.dev.sameRegsBut t.dev [F.FLTc_FLAG_COEF_BUSY c] ∧ s.sameStores t)) ∧
    (∀ p : Fin 4, s.dev.fltPreset c ≠ p.val → s.dev.on (F.FLTc_STAT_IDLE c) = false →
      ∃ t, exec (.presetChange c p) s = .next t ∧ t.dev.fltPreset c = p.val ∧ t.dev.on (F.FLTc_STAT_SETTLING c) = true ∧
        (t.dev.fltc c).line = [] ∧ (t.dev.fltc c).settle = 0 ∧ s.sameStores t)

/-- A lane comes up with the best peaking code, measures its eye, leaves service below EYE_MIN and enters its power
state. With no packet in reception. A wanted lane that is down is brought up in P0 with both locks; with ADAPT
the peaking code is the one the search of R74 finds and EYE its figure, at most 252. A failed adaptation is
repeated at its retry time. The periodic scan shows EYE as the smaller of 4H and 4V, at most 252. In P0 an eye
low for EYE_DWELL ms sets EYE_LOW and ends the stream's deskew. A power state request stands in CTRL.PSTATE,
changing nothing else, and is entered: P1 keeps the locks, P2 gives them up. -/
def Obligations.SensorLanesFollowTheirEye : Prop :=
  ∀ (s : State) (l : Fin 64) (eyes : List (Nat × Nat)),
    let d := s.dev
    (d.lstr (d.laneStream l)).opened = none → (d.lstr (d.laneStream l)).skim = none →
    (d.laneWanted l = true → (d.val (F.SLK_Ll_STAT_PSTATE l) ≠ 0 ∨ d.on (F.SLK_Ll_STAT_BLOCK_LOCK l) = false) →
      ∃ t, exec (.laneBringUp l eyes) s = .next t ∧ s.sameStores t ∧ t.dev.val (F.SLK_Ll_STAT_PSTATE l) = 0 ∧
        t.dev.on (F.SLK_Ll_STAT_CDR_LOCK l) = true ∧ t.dev.on (F.SLK_Ll_STAT_BLOCK_LOCK l) = true ∧
        (d.on (F.SLK_Ll_CTRL_ADAPT l) = true → t.dev.val (F.SLK_Ll_STAT_EYE l) = min 252 (adapt eyes).2 ∧
          t.dev.val (F.SLK_Ll_STAT_PEAK_ACT l) = min 31 (adapt eyes).1) ∧
        (d.on (F.SLK_Ll_CTRL_ADAPT l) = false →
          t.dev.val (F.SLK_Ll_STAT_PEAK_ACT l) = d.val (F.SLK_Ll_CTRL_PEAK l))) ∧
    (d.laneWanted l = true → (d.lane l).failed = true → d.on (F.SLK_Ll_CTRL_ADAPT l) = true →
      ∃ t, exec (.adaptRetry l eyes) s = .next t ∧ s.sameStores t ∧
        t.dev.val (F.SLK_Ll_STAT_EYE l) = min 252 (adapt eyes).2 ∧
        (min 252 (adapt eyes).2 < d.val (F.SLK_Ll_CTRL_EYE_MIN l) → t.dev.on (F.SLK_Ll_FLAG_ADAPT_FAIL l) = true ∧
          (t.dev.lane l).service = false)) ∧
    (∀ h v, d.val (F.SLK_Ll_STAT_PSTATE l) = 0 → d.on (F.SLK_Ll_STAT_BLOCK_LOCK l) = true →
      ∃ t, exec (.eyeScan l h v) s = .next t ∧ s.sameStores t ∧
        t.dev.val (F.SLK_Ll_STAT_EYE l) = min 252 (min (4 * h) (4 * v))) ∧
    (d.val (F.SLK_Ll_STAT_PSTATE l) = 0 → (d.lane l).service = true → max 1 (d.val (F.SLK_Ll_CTRL_EYE_DWELL l)) ≤ (d.lane l).lowMs →
      ∃ t, exec (.eyeLow l eyes) s = .next t ∧ s.sameStores t ∧ t.dev.on (F.SLK_Ll_FLAG_EYE_LOW l) = true ∧
        (t.dev.lstr (d.laneStream l)).deskewed = false ∧
        (d.on (F.SLK_Ll_CTRL_ADAPT l) = false → (t.dev.lane l).service = false)) ∧
    (∀ code : Fin 4, ∃ t, exec (.pstateRequest l code) s = .next t ∧ s.sameStores t ∧
        t.dev.val (F.SLK_Ll_CTRL_PSTATE l) = code ∧ (∀ a, a ≠ R.SLK_Ll_CTRL l → t.dev.reg a = d.reg a)) ∧
    (let want := max (min 2 (d.val (F.SLK_Ll_CTRL_PSTATE l))) (b2n d.holding)
     want ≠ d.val (F.SLK_Ll_STAT_PSTATE l) → d.val (F.SLK_Ll_STAT_PSTATE l) ≠ 2 →
      ∃ t, exec (.pstateEntry l) s = .next t ∧ s.sameStores t ∧ t.dev.val (F.SLK_Ll_STAT_PSTATE l) = want ∧
        (want = 2 → t.dev.on (F.SLK_Ll_STAT_CDR_LOCK l) = false ∧ t.dev.on (F.SLK_Ll_STAT_BLOCK_LOCK l) = false) ∧
        (want < 2 → t.dev.on (F.SLK_Ll_STAT_BLOCK_LOCK l) = d.on (F.SLK_Ll_STAT_BLOCK_LOCK l)))

/-- Invalid headers, lost lock, bad blocks and bad or absent markers are flagged and counted; a good marker is
remembered. Each invalid sync header of an enabled lane is counted; sixteen within 64 blocks (the last at most
63 of 5.12 ns after the first) lose the lock of a lane in P0, counted and flagged. A block in error is counted
and flagged, and a line it falls into is poisoned. A marker whose CRC-8 fails, whose MCOUNT does not follow, or
that is absent in P0 is counted and flagged at its port; a good one leaves its MCOUNT as the lane's and ends a
run of bad ones. The lock and marker clauses are with no line in reception. -/
def Obligations.LaneErrorsAreCounted : Prop :=
  ∀ (s : State) (l : Fin 64),
    let d := s.dev
    (d.on (F.SLK_Ll_STAT_IDLE l) = false →
      ∃ t, exec (.invalidSyncHeader l) s = .next t ∧ s.sameStores t ∧
        t.dev.val (F.SLK_Ll_SH_ERR_CNT l) = min 0xFFFFFFFF (d.val (F.SLK_Ll_SH_ERR_CNT l) + 1) ∧
        (t.dev.lane l).shTimes = (d.now :: (d.lane l).shTimes).take 16 ∧ d.sameRegsBut t.dev [F.SLK_Ll_SH_ERR_CNT l]) ∧
    (d.val (F.SLK_Ll_STAT_PSTATE l) = 0 → d.on (F.SLK_Ll_STAT_BLOCK_LOCK l) = true → (d.lane l).shTimes.length = 16 →
      (d.lane l).shTimes.headD 0 ≤ (d.lane l).shTimes.getLastD 0 + 323 → (d.lstr (d.laneStream l)).opened = none →
      ∃ t, exec (.lockLost l) s = .next t ∧ s.sameStores t ∧ t.dev.on (F.SLK_Ll_FLAG_LOCK_LOST l) = true ∧
        t.dev.val (F.SLK_Ll_LOCK_LOST_CNT l) = min 0xFFFFFFFF (d.val (F.SLK_Ll_LOCK_LOST_CNT l) + 1) ∧
        t.dev.on (F.SLK_Ll_STAT_BLOCK_LOCK l) = false ∧ t.dev.on (F.SLK_Ll_STAT_CDR_LOCK l) = false ∧
        (t.dev.lane l).service = false) ∧
    (d.on (F.SLK_Ll_STAT_BLOCK_LOCK l) = true →
      ∃ t, exec (.blkErr l) s = .next t ∧ s.sameStores t ∧ t.dev.on (F.SLK_Ll_FLAG_BLK_ERR l) = true ∧
        t.dev.val (F.SLK_Ll_BLK_ERR_CNT l) = min 0xFFFFFFFF (d.val (F.SLK_Ll_BLK_ERR_CNT l) + 1) ∧
        (∀ o, (d.lstr (d.laneStream l)).opened = some o →
          (t.dev.lstr (d.laneStream l)).opened = some { o with poison := true }) ∧
        d.sameRegsBut t.dev [F.SLK_Ll_FLAG_BLK_ERR l, F.SLK_Ll_BLK_ERR_CNT l]) ∧
    (∀ (bytes : List Byte) (slot : Nat), d.on (F.SLK_Ll_STAT_BLOCK_LOCK l) = true →
      d.val (F.SLK_Ll_STAT_PSTATE l) = 0 → (d.lstr (d.laneStream l)).opened = none →
      let good := crc8 ((bytes.drop 1).take 6) = leAt bytes 7 1 ∧
        ((d.lane l).mcount = none ∨ (d.lane l).mcount.map (fun m => (m + 1) % 2 ^ 24) = some (leAt bytes 3 3))
      (good → ∃ t, exec (.marker l bytes slot) s = .next t ∧ s.sameStores t ∧
        (t.dev.lane l).mcount = some (leAt bytes 3 3) ∧ (t.dev.lane l).mbad = 0 ∧
        (t.dev.lane l).mlane = some (leAt bytes 1 1 % 4)) ∧
      (¬ good → ∃ t, exec (.marker l bytes slot) s = .next t ∧ s.sameStores t ∧
        t.dev.on (F.SLK_CPp_FLAG_MARKER_ERR (l / 4)) = true ∧ (t.dev.lane l).mbad = (d.lane l).mbad + 1 ∧
        t.dev.val (F.SLK_CPp_MARKER_ERR_CNT (l / 4)) = min 0xFFFFFFFF (d.val (F.SLK_CPp_MARKER_ERR_CNT (l / 4)) + 1))) ∧
    (∀ m, d.val (F.SLK_Ll_STAT_PSTATE l) = 0 → (d.lane l).mcount = some m → (d.lstr (d.laneStream l)).opened = none →
      ∃ t, exec (.markerAbsent l) s = .next t ∧ s.sameStores t ∧
        t.dev.on (F.SLK_CPp_FLAG_MARKER_ERR (l / 4)) = true ∧ (t.dev.lane l).mcount = some ((m + 1) % 2 ^ 24) ∧
        t.dev.val (F.SLK_CPp_MARKER_ERR_CNT (l / 4)) = min 0xFFFFFFFF (d.val (F.SLK_CPp_MARKER_ERR_CNT (l / 4)) + 1))

/-- A good packet opens a line with its stamp, words are collected, EOL closes and counts it, a stopped port ends
it. On a running port whose stream is up and whose lanes run in P0 with no line open: a header that fails its
check is flagged and counted; one that passes, of the stream's data type, with a fresh stamp (a stream whose EN
was set again in a drain starts afresh, without stamps, once the drain's last trigger is delivered), hands the
line shadows over, marks the stamp USED and opens the line with the stamp's crossing, time and position. A
payload word joins the open line. EOL closes it: LINE_CNT adds 1, the temperature and status are shown, a wrong
CRC is flagged and counted. 43,254 ns after the port's EN was cleared a line without EOL is cut. PORT_DISABLE
clears EN; PORT_ABORT closes the port's lines at once and sets IDLE. A flow block shows XOFF_SEEN and counts the
camera's drops. -/
def Obligations.LinePacketsAreReceived : Prop :=
  ∀ (s : State) (p : Fin 16) (v : Fin 4) (q : Fin 64),
    let d := s.dev
    (∀ copies : List (List Byte × List Byte), q.val = 4 * p.val + v.val → v.val < modeStreams (d.portMode p) →
      d.runs (F.SLK_CPp_CFG_EN p) (F.SLK_CPp_STAT_IDLE p) = true →
      (∀ l ∈ d.lanesOf q, d.val (F.SLK_Ll_STAT_PSTATE l) = 0 ∧
        d.runs (F.SLK_Ll_CTRL_EN l) (F.SLK_Ll_STAT_IDLE l) = true) →
      bitOf (d.val (F.SLK_CPp_STAT_STREAM_UP p)) v = true → (d.lstr q).opened = none →
      let c := copies.headD ([], [])
      let e : Stamp := tabGet {} ((d.trgAgain q).trgs q).stamps (leAt c.1 2 1)
      (hdrOk (d.portMode p) v copies = false →
        ∃ t, exec (.sol p v copies) s = .next t ∧ s.sameStores t ∧ t.dev.on (F.SLK_Ss_FLAG_HDR_ERR q) = true ∧
          t.dev.val (F.SLK_Ss_HDR_ERR_CNT q) = min 0xFFFFFFFF (d.val (F.SLK_Ss_HDR_ERR_CNT q) + 1) ∧
          d.sameRegsBut t.dev [F.SLK_Ss_FLAG_HDR_ERR q, F.SLK_Ss_HDR_ERR_CNT q]) ∧
      (hdrOk (d.portMode p) v copies = true → (dtDepth (leAt c.1 1 1 / 4)).isSome = true →
        leAt c.1 1 1 / 4 = fieldOf (d.reg (R.SLK_Ss_LINE_SH q)) (F.SLK_Ss_LINE_ACT_DT q).lo (F.SLK_Ss_LINE_ACT_DT q).len →
        e.written = true → e.used = false →
        ∃ t, exec (.sol p v copies) s = .next t ∧ s.sameStores t ∧
          t.dev.reg (R.SLK_Ss_LINE_ACT q) = d.reg (R.SLK_Ss_LINE_SH q) ∧
          (tabGet {} (t.dev.trgs q).stamps (leAt c.1 2 1) : Stamp).used = true ∧
          ∃ o, (t.dev.lstr q).opened = some o ∧ o.tag.k = e.k ∧ o.tag.time = e.time ∧ o.tag.pos = e.pos ∧
            o.tag.lcnt = leAt c.1 4 4 ∧ o.hlen = leAt c.2 0 2 ∧ o.words = [] ∧ o.got = 0)) ∧
    (∀ (w : BitVec 64) (o : OpenLine), (d.lstr q).opened = some o →
      ∃ t, exec (.payloadWord q w) s = .next t ∧ s.sameStores t ∧ (∀ a, t.dev.reg a = d.reg a) ∧
        (t.dev.lstr q).opened = some { o with words := w :: o.words, got := o.got + 1 }) ∧
    (∀ (copies : List (List Byte)) (o : OpenLine), (d.lstr q).opened = some o →
      ∃ t, exec (.eol q copies) s = .next t ∧ s.sameStores t ∧ (t.dev.lstr q).opened = none ∧
        t.dev.val (F.SLK_Ss_LINE_CNT q) = min 0xFFFFFFFF (d.val (F.SLK_Ss_LINE_CNT q) + 1) ∧
        (crc32c (o.hdr ++ o.words.reverse.flatMap (fun w => bytesLE 8 w.toNat)) ≠ leAt (copies.headD []) 1 4 →
          t.dev.on (F.SLK_Ss_FLAG_CRC q) = true ∧
          t.dev.val (F.SLK_Ss_CRC_CNT q) = min 0xFFFFFFFF (d.val (F.SLK_Ss_CRC_CNT q) + 1))) ∧
    (∀ (o : OpenLine) (tm : Nat), (d.lstr q).opened = some o → o.closing = some tm →
      ∃ t, exec (.lineEndTimeout q) s = .next t ∧ s.sameStores t ∧ (t.dev.lstr q).opened = none ∧
        t.dev.on (F.SLK_Ss_FLAG_FRAME_ERR q) = true ∧ tm + 43254 ≤ t.dev.now) ∧
    (∃ t, exec (.portDisable p) s = .next t ∧ s.sameStores t ∧ t.dev.on (F.SLK_CPp_CFG_EN p) = false) ∧
    (∃ t, exec (.portAbort p) s = .next t ∧ s.sameStores t ∧ t.dev.on (F.SLK_CPp_CFG_EN p) = false ∧
      t.dev.on (F.SLK_CPp_STAT_IDLE p) = true ∧ (t.dev.lstr (4 * p.val + v.val)).opened = none) ∧
    (∀ (blk : List Byte) (c0 : Nat), d.on (F.SLK_CPp_STAT_IDLE (q / 4)) = false → (d.lstr q).camDrop = some c0 →
      let k := (leAt blk 3 2 + 65536 - c0) % 65536
      ∃ t, exec (.flow q blk) s = .next t ∧ s.sameStores t ∧
        t.dev.on (F.SLK_Ss_STAT_XOFF_SEEN q) = bitOf (leAt blk 1 1) 2 ∧ (t.dev.lstr q).camDrop = some (leAt blk 3 2) ∧
        t.dev.val (F.SLK_Ss_CAM_DROP_CNT q) = min 0xFFFFFFFF (d.val (F.SLK_Ss_CAM_DROP_CNT q) + k) ∧
        (k ≠ 0 → t.dev.on (F.SLK_Ss_FLAG_CAM_DROP q) = true) ∧
        d.sameRegsBut t.dev [F.SLK_Ss_STAT_XOFF_SEEN q, F.SLK_Ss_CAM_DROP_CNT q, F.SLK_Ss_FLAG_CAM_DROP q])

/-- GO sends one framed command, its reply, its end or its timeout frees the channel, and flow symbols leave as
asked. GO on a free running channel gives it a frame with the next tag to send, character by character, and
makes the channel BUSY; while BUSY it is refused as an access error. A reply with the outstanding tag of a
command to one camera shows its data and status and sets DONE; a broadcast is over when its frame has left; a
command without a reply times out, flagged and counted. All three clear BUSY. The oldest flow request, lines
that have run out having freed their words, leaves as K28.2 (XOFF) or K28.3 (XON); the character with the
stream's virtual channel is next. -/
def Obligations.ServiceChannelTalksToCameras : Prop :=
  ∀ (s : State) (c : Fin 16) (q : Fin 64),
    let d := s.dev
    let x := d.svch c
    (d.on (F.SLK_CSc_STAT_BUSY c) = false → d.runs (F.SLK_CSc_CTRL_EN c) (F.SLK_CSc_STAT_IDLE c) = true →
      let tag := (d.val (F.SLK_CSc_STAT_TAG c) + 1) % 256
      ∃ t, exec (.go c) s = .next t ∧ s.sameStores t ∧ t.dev.on (F.SLK_CSc_STAT_BUSY c) = true ∧
        t.dev.val (F.SLK_CSc_STAT_TAG c) = tag ∧ (t.dev.svch c).frame = svcFrame (d.val (F.SLK_CSc_CTRL_VC c))
          (d.on (F.SLK_CSc_CTRL_BCAST c)) (d.on (F.SLK_CSc_CTRL_BCAST c) || d.on (F.SLK_CSc_CTRL_WRITE c)) tag
          (d.val (F.SLK_CSc_ADDR c)) (d.val (F.SLK_CSc_WDATA c)) ∧ (t.dev.svch c).sentAt = d.now ∧
        d.sameRegsBut t.dev [F.SLK_CSc_STAT_BUSY c, F.SLK_CSc_STAT_TAG c]) ∧
    (d.on (F.SLK_CSc_STAT_BUSY c) = true →
      ∃ t, exec (.go c) s = .next t ∧ s.sameStores t ∧ t.dev.out = [] ∧ t.dev.on F.SYS_FLAG_ACCESS_ERR = true ∧
        d.sameRegsBut t.dev [F.SYS_FLAG_ACCESS_ERR, F.SYS_ERR_ADDR, F.SYS_ACCESS_CNT]) ∧
    (∀ blk : List Byte, q.val / 4 = c.val → d.on (F.SLK_CSc_STAT_BUSY c) = true → x.bcast = false →
      leAt blk 1 1 = x.tag →
      ∃ t, exec (.reply q blk) s = .next t ∧ s.sameStores t ∧ t.dev.on (F.SLK_CSc_STAT_BUSY c) = false ∧
        t.dev.val (F.SLK_CSc_RDATA c) = leAt blk 3 4 ∧ t.dev.on (F.SLK_CSc_FLAG_DONE c) = true ∧
        d.sameRegsBut t.dev [F.SLK_CSc_STAT_BUSY c, F.SLK_CSc_RDATA c, F.SLK_CSc_FLAG_DONE c]) ∧
    (d.on (F.SLK_CSc_STAT_BUSY c) = true → x.bcast = true →
      ∃ t, exec (.bcastFrameEnd c) s = .next t ∧ s.sameStores t ∧ t.dev.on (F.SLK_CSc_STAT_BUSY c) = false ∧
        (t.dev.svch c).frame = [] ∧ d.now ≤ t.dev.now ∧ d.sameRegsBut t.dev [F.SLK_CSc_STAT_BUSY c, F.MER_TIME]) ∧
    (d.on (F.SLK_CSc_STAT_BUSY c) = true → x.bcast = false →
      ∃ t, exec (.timeout c) s = .next t ∧ s.sameStores t ∧ t.dev.on (F.SLK_CSc_STAT_BUSY c) = false ∧
        t.dev.on (F.SLK_CSc_FLAG_TIMEOUT c) = true ∧
        t.dev.val (F.SLK_CSc_TIMEOUT_CNT c) = min 0xFFFFFFFF (d.val (F.SLK_CSc_TIMEOUT_CNT c) + 1) ∧
        x.sentAt + 1000 * max 1 (d.val (F.SLK_CSc_TIMEOUT c)) ≤ t.dev.now ∧
        d.sameRegsBut t.dev [F.SLK_CSc_STAT_BUSY c, F.SLK_CSc_FLAG_TIMEOUT c, F.SLK_CSc_TIMEOUT_CNT c, F.MER_TIME]) ∧
    (∀ rest, (s.quietened.dev.frontsDone.lstr q).flowReq = true :: rest →
      ∃ t, exec (.xoff q) s = .next t ∧ s.sameStores t ∧ (t.dev.lstr q).flowReq = rest ∧
        (t.dev.out.any (fun o => match o with
          | .svc c' _ chars => c' == q.val / 4 && chars == [(true, 0x5C)]
          | _ => false)) = true ∧
        (t.dev.svch (q / 4)).flow = [(false, BitVec.ofNat 8 (64 * (q % 4)))] ∧
        s.quietened.dev.frontsDone.sameRegsBut t.dev [F.MER_TIME]) ∧
    (∀ rest, (s.quietened.dev.frontsDone.lstr q).flowReq = false :: rest →
      ∃ t, exec (.xon q) s = .next t ∧ s.sameStores t ∧ (t.dev.lstr q).flowReq = rest ∧
        (t.dev.out.any (fun o => match o with
          | .svc c' _ chars => c' == q.val / 4 && chars == [(true, 0x7C)]
          | _ => false)) = true ∧
        (t.dev.svch (q / 4)).flow = [(false, BitVec.ofNat 8 (64 * (q % 4)))] ∧
        s.quietened.dev.frontsDone.sameRegsBut t.dev [F.MER_TIME])

/-- A context is enabled unless another takes its stream; cleared EN stops it once empty; ABORT discards all it
holds. CONTEXT_ENABLE of a stopped context whose stream no other enabled context takes sets EN, clears IDLE and
loads TEMP_F with the low 16 bits of TEMP_DEF; where another enabled context takes the stream it sets the access
error and changes nothing else. CONTEXT_DISABLE clears EN; a context that holds no line and no open tile is idle
at once, one that holds lines is not; an open tile's record is closed with PARTIAL. CONTEXT_ABORT empties the
FIFO, counts every line in DROP_CNT, discards the open tile, releases XOFF, clears EN and sets IDLE. -/
def Obligations.ContextsStartAndStop : Prop :=
  ∀ (s : State) (n : Fin 17) (m : Fin 4),
    let d := s.dev
    (d.on (F.PLn_CTXm_STAT_IDLE n m) = true →
      (∀ (i : Fin 17) (j : Fin 4), (i ≠ n ∨ j ≠ m) → d.on (F.PLn_CTXm_CFG_EN i j) = true →
        d.val (F.PLn_CTXm_CFG_STREAM i j) ≠ d.val (F.PLn_CTXm_CFG_STREAM n m)) →
      ∃ t, exec (.contextEnable n m) s = .next t ∧ s.sameStores t ∧ t.dev.on (F.PLn_CTXm_CFG_EN n m) = true ∧
        t.dev.on (F.PLn_CTXm_STAT_IDLE n m) = false ∧
        t.dev.val (F.PLn_CTXm_CAL_STAT_TEMP_F n m) = d.val (F.PLn_CTXm_TEMP_DEF n m) % 65536 ∧
        d.sameRegsBut t.dev [F.PLn_CTXm_CFG_EN n m, F.PLn_CTXm_STAT_IDLE n m, F.PLn_CTXm_CAL_STAT_TEMP_F n m]) ∧
    (∀ (i : Fin 17) (j : Fin 4), (i ≠ n ∨ j ≠ m) → d.on (F.PLn_CTXm_CFG_EN i j) = true →
      d.on (F.PLn_CTXm_STAT_IDLE i j) = false →
      d.val (F.PLn_CTXm_CFG_STREAM i j) = d.val (F.PLn_CTXm_CFG_STREAM n m) →
      ∃ t, exec (.contextEnable n m) s = .next t ∧ s.sameStores t ∧ t.dev.on F.SYS_FLAG_ACCESS_ERR = true ∧
        t.dev.val F.SYS_ERR_ADDR = R.PLn_CTXm_CFG n m ∧
        d.sameRegsBut t.dev [F.SYS_FLAG_ACCESS_ERR, F.SYS_ERR_ADDR, F.SYS_ACCESS_CNT]) ∧
    ((d.front n).running = none → d.on (F.PLn_CTXm_CFG_EN n m) = true → d.on (F.PLn_CTXm_STAT_IDLE n m) = false →
      ((d.ctx n m).fifo ≠ [] →
        ∃ t, exec (.contextDisable n m) s = .next t ∧ s.sameStores t ∧ t.dev.on (F.PLn_CTXm_CFG_EN n m) = false ∧
          t.dev.ctx n m = d.ctx n m ∧ d.sameRegsBut t.dev [F.PLn_CTXm_CFG_EN n m]) ∧
      ((d.ctx n m).fifo = [] → (d.ctx n m).tile = none → d.on (F.PLn_CTXm_STAT_XOFF n m) = false →
        ∃ t, exec (.contextDisable n m) s = .next t ∧ s.sameStores t ∧ t.dev.on (F.PLn_CTXm_CFG_EN n m) = false ∧
          t.dev.on (F.PLn_CTXm_STAT_IDLE n m) = true ∧
          d.sameRegsBut t.dev [F.PLn_CTXm_CFG_EN n m, F.PLn_CTXm_STAT_IDLE n m]) ∧
      (∀ x, (d.ctx n m).fifo = [] → (d.ctx n m).tile = some x → (d.ctx n m).record = none →
        ∃ t r, exec (.contextDisable n m) s = .next t ∧ s.sameStores t ∧
          t.dev.on (F.PLn_CTXm_STAT_IDLE n m) = true ∧ t.dev.on (F.PLn_CTXm_STAT_XOFF n m) = false ∧
          (t.dev.ctx n m).tile = none ∧ (t.dev.ctx n m).record = some r ∧ r.queue = x.queue ∧
          r.bytes.head? = some 0x10 ∧ ((r.bytes.getD 1 0).getLsbD 0) = true)) ∧
    (((d.front n).running = none ∨ d.now < (d.front n).busyTill) →
      ∃ t, exec (.contextAbort n m) s = .next t ∧ s.sameStores t ∧ t.dev.on (F.PLn_CTXm_CFG_EN n m) = false ∧
        t.dev.on (F.PLn_CTXm_STAT_IDLE n m) = true ∧ (t.dev.ctx n m).fifo = [] ∧ (t.dev.ctx n m).tile = none ∧
        (t.dev.ctx n m).record = (d.ctx n m).record ∧ t.dev.on (F.PLn_CTXm_STAT_XOFF n m) = false ∧
        t.dev.val (F.PLn_CTXm_STAT_FILL n m) = 0 ∧
        t.dev.val (F.PLn_CTXm_DROP_CNT n m) =
          min 0xFFFFFFFF (d.val (F.PLn_CTXm_DROP_CNT n m) + (d.ctx n m).fifo.length) ∧
        d.sameWindowsBut t.dev [0x4020 + n, 0x4012, 0x4000])

/-- A free pipeline grants the next complete line round-robin, hands the context's shadow over and runs ceil(L/4)+8
clocks. On a powered pipeline that runs no line, with no migration: GRANT takes the first context after the one
last granted whose oldest line not granted is complete. The line counts in LINE_CNT, LAST names the context,
BUSY is set, COR_SH becomes COR_ACT, and the line runs for ceil(L/4) + 8 clocks, brought to whole nanoseconds. A
line whose tag fails parity is dropped instead: PARITY and DROP are set, PARITY_CNT and DROP_CNT count it,
LINE_CNT does not, COR_SH becomes COR_ACT there too, and BUSY stays. -/
def Obligations.LinesAreGrantedInTurn : Prop :=
  ∀ (s : State) (n : Fin 17) (i : Fin 4) (l : FifoLine),
    let d := s.dev
    let m : Nat := (d.val (F.PLn_ARB_STAT_LAST n) + 1 + i) % 4
    (d.front n).running = none → d.seg.mig = none → d.pipeOn n = true →
    (d.ctx n m).fifo.find? (fun x => ! x.granted) = some l → l.complete = true →
    (∀ j : Fin 4, j < i → ∀ x,
      (d.ctx n ((d.val (F.PLn_ARB_STAT_LAST n) + 1 + j) % 4)).fifo.find? (fun x => ! x.granted) = some x →
      x.complete = false) →
    (∃ t r, exec (.grant n [] [] false) s = .next t ∧ s.sameStores t ∧ t.dev.now = max d.now (d.front n).busyTill ∧
      t.dev.val (F.PLn_ARB_STAT_LAST n) = m ∧ t.dev.on (F.PLn_ARB_STAT_BUSY n) = true ∧
      t.dev.val (F.PLn_CTXm_LINE_CNT n m) = min 0xFFFFFFFF (d.val (F.PLn_CTXm_LINE_CNT n m) + 1) ∧
      t.dev.reg (R.PLn_CTXm_COR_ACT n m) = d.reg (R.PLn_CTXm_COR_SH n m) ∧
      (t.dev.front n).running = some (m, r) ∧ r.tag.k = l.tag.k ∧ r.tag.pos = l.tag.pos ∧
      (t.dev.front n).busyTill = t.dev.now + (20 * ((l.tag.len + 3) / 4 + 8) + 20) / 21) ∧
    (d.drains (F.PLn_CTXm_CFG_EN n m) (F.PLn_CTXm_STAT_IDLE n m) = false →
      ∃ t, exec (.grant n [] [] true) s = .next t ∧ s.sameStores t ∧ t.dev.val (F.PLn_ARB_STAT_LAST n) = m ∧
        t.dev.on (F.PLn_CTXm_FLAG_PARITY n m) = true ∧ t.dev.on (F.PLn_CTXm_FLAG_DROP n m) = true ∧
        t.dev.val (F.PLn_CTXm_PARITY_CNT n m) = min 0xFFFFFFFF (d.val (F.PLn_CTXm_PARITY_CNT n m) + 1) ∧
        t.dev.val (F.PLn_CTXm_DROP_CNT n m) = min 0xFFFFFFFF (d.val (F.PLn_CTXm_DROP_CNT n m) + 1) ∧
        t.dev.val (F.PLn_CTXm_LINE_CNT n m) = d.val (F.PLn_CTXm_LINE_CNT n m) ∧
        t.dev.reg (R.PLn_CTXm_COR_ACT n m) = d.reg (R.PLn_CTXm_COR_SH n m) ∧
        t.dev.on (F.PLn_ARB_STAT_BUSY n) = d.on (F.PLn_ARB_STAT_BUSY n) ∧ (t.dev.front n).running = none ∧
        d.sameWindowsBut t.dev [0x4020 + n, 0x4012, 0x4000, 0x400F])

/-- A buffered statistics record goes to its queue with a CRC-32C trailer and is counted; a word failing parity
marks it. STATS_RECORD_WRITE of a buffered record that its queue, on and stopped by no other writer, has room
for appends one item of the record's length: the record, its CRC-32C over all bytes before and four zero bytes,
with producer code 0xA0 + n; STATS_CNT counts it and the buffer is free. A word of the buffer that failed parity
sets the POISONED bit of the record's flags. A queue that takes no items refuses it, and the record is gone. -/
def Obligations.StatisticsRecordsAreWritten : Prop :=
  ∀ (s : State) (n : Fin 17) (m : Fin 4) (r : StatRecord) (bad : List Nat),
    let d := s.dev
    let q := r.queue
    let body := if bad = [] then r.bytes else r.bytes.set 1 (r.bytes.getD 1 0 + 2)
    let bytes := body ++ bytesLE 4 (crc32c body) ++ [0, 0, 0, 0]
    r.queue < 64 → (d.ctx n m).record = some r → (d.ctx n m).offered = false → 2 ≤ r.bytes.length →
    (d.queTakes q bytes.length = true → (d.queue q).waiting = [] → (d.queue q).fwLeft = 0 →
      (d.queue q).fill + 1 + (bytes.length + 7) / 8 ≤ d.queCap q →
      (∀ i ∈ (d.queue q).items, i.dead = false) →
      ∃ t ws, exec (.statsRecordWrite n m bad) s = .next t ∧ s.sameStores t ∧
        (t.dev.queue q).items = (d.queue q).items ++ [⟨bytes.length, 0xA0 + n, ws, 0, true, false⟩] ∧
        itemBytes bytes.length ws = bytes ∧ (t.dev.ctx n m).record = none ∧
        t.dev.val (F.PLn_CTXm_STATS_CNT n m) = min 0xFFFFFFFF (d.val (F.PLn_CTXm_STATS_CNT n m) + 1) ∧
        d.sameWindowsBut t.dev [0x4020 + n, 0x4009, 0x4000]) ∧
    (d.queTakes q bytes.length = false →
      ∃ t, exec (.statsRecordWrite n m bad) s = .next t ∧ s.sameStores t ∧ (t.dev.ctx n m).record = none ∧
        t.dev.on (F.QUE_Qq_FLAG_REFUSED q) = true ∧
        t.dev.val (F.QUE_Qq_REFUSED_CNT q) = min 0xFFFFFFFF (d.val (F.QUE_Qq_REFUSED_CNT q) + 1) ∧
        d.sameRegsBut t.dev [F.QUE_Qq_FLAG_REFUSED q, F.QUE_Qq_REFUSED_CNT q])

/-- BLK_FIXED and COMMIT ramp, TBL_DATA reaches the tables under their conditions, foreground bits judge held lines.
BLK_FIXED_WRITE during LOAD takes effect at once; otherwise a ramp of RAMP_LEN grants, held to 16 to 65,535,
starts from the level in use. COMMIT of set 0 to NTEMP - 1 or 15 with no ramp running starts a ramp and shows
it; during a ramp it sets CAL_BUSY; any other set number is an access error. Each TBL_DATA access advances
TBL_IDX. A read of the staging set and of the static map gives the entry; a write of a set on a stopped context,
or of the staging set outside a ramp, changes that one entry; a write of the C table or the dynamic list is an
access error; of the staging set during a ramp it sets CAL_BUSY too. The oldest bit that segmentation owes the
stream is taken. For a stream that one context takes, holding one line at its placed position: a bit of neither
bracketing row leaves it; a set bit of either drops it; a clear bit with the other row's bit still missing keeps
it; a clear bit with the other clear makes it clean, adding its values to the sums. No register changes. -/
def Obligations.CorrectionTablesAndRamps : Prop :=
  (∀ (s : State) (n : Fin 17) (m : Fin 4) (v : Word) (j : Fin 16),
    let d := s.dev
    let c := d.ctx n m
    let len := min 65535 (max 16 (d.val (F.PLn_CTXm_RAMP_LEN n m)))
    let k := d.val (F.PLn_CTXm_TBL_IDX n m) % 65536
    let next := (k + 1) % 65536
    let inL := k < d.tblLen n m
    let ramps := c.setRamp.isSome || c.scRamp.isSome
    (∃ t, exec (.blkFixedWrite n m v) s = .next t ∧ s.sameStores t ∧
      t.dev.val (F.PLn_CTXm_BLK_FIXED n m) = v.toNat % 65536 ∧
      (d.mode = 2 → (t.dev.ctx n m).blkNow = ((v.toNat % 65536 : Nat) : Int) ∧ (t.dev.ctx n m).blkRamp = none ∧
        d.sameRegsBut t.dev [F.PLn_CTXm_BLK_FIXED n m]) ∧
      (d.mode ≠ 2 → (t.dev.ctx n m).blkNow = c.blkNow ∧ (t.dev.ctx n m).blkFrom = c.blkNow ∧
        (t.dev.ctx n m).blkTo = ((v.toNat % 65536 : Nat) : Int) ∧
        (t.dev.ctx n m).blkRamp = some { set := 0, done := 0, len := len } ∧
        t.dev.on (F.PLn_CTXm_CAL_STAT_BLK_RAMP n m) = true ∧
        d.sameRegsBut t.dev [F.PLn_CTXm_BLK_FIXED n m, F.PLn_CTXm_CAL_STAT_BLK_RAMP n m])) ∧
    ((j.val < d.ntemp n m ∧ j.val < 8 ∨ j.val = 15) → ramps = false →
      ∃ t, exec (.commit n m j) s = .next t ∧ s.sameStores t ∧
        (t.dev.ctx n m) = { c with setRamp := some { set := j, done := 0, len := len } } ∧
        t.dev.on (F.PLn_CTXm_CAL_STAT_SET_RAMP n m) = true ∧ t.dev.val (F.PLn_CTXm_CAL_STAT_RAMP_SET n m) = j ∧
        d.sameRegsBut t.dev [F.PLn_CTXm_CAL_CMD_SET n m, F.PLn_CTXm_CAL_STAT_SET_RAMP n m,
          F.PLn_CTXm_CAL_STAT_RAMP_SET n m]) ∧
    ((j.val < d.ntemp n m ∧ j.val < 8 ∨ j.val = 15) → ramps = true →
      ∃ t, exec (.commit n m j) s = .next t ∧ s.sameStores t ∧ t.dev.ctx n m = c ∧
        t.dev.on (F.PLn_CTXm_CAL_FLAG_CAL_BUSY n m) = true ∧
        d.sameRegsBut t.dev [F.PLn_CTXm_CAL_CMD_SET n m, F.PLn_CTXm_CAL_FLAG_CAL_BUSY n m]) ∧
    ((d.ntemp n m ≤ j.val ∧ j.val ≠ 15) →
      ∃ t, exec (.commit n m j) s = .next t ∧ s.sameStores t ∧ t.dev.on F.SYS_FLAG_ACCESS_ERR = true ∧
        t.dev.ctx n m = c ∧ d.sameRegsBut t.dev [F.SYS_FLAG_ACCESS_ERR, F.SYS_ERR_ADDR, F.SYS_ACCESS_CNT]) ∧
    (∃ t, exec (.tblDataAccess n m none) s = .next t ∧ s.sameStores t ∧ t.dev.ctx n m = c ∧
      t.dev.val (F.PLn_CTXm_TBL_IDX n m) = next ∧
      (d.val (F.PLn_CTXm_TBL_SEL n m) % 16 = 8 → inL → t.dev.rdata.toNat = tabGet 0x4000 c.staging k % 2 ^ 32) ∧
      (d.val (F.PLn_CTXm_TBL_SEL n m) % 16 = 10 → t.dev.rdata.toNat = c.static.getD k 0 % 2 ^ 32) ∧
      (12 ≤ d.val (F.PLn_CTXm_TBL_SEL n m) % 16 → t.dev.rdata = 0) ∧
      d.sameRegsBut t.dev [F.PLn_CTXm_TBL_IDX n m]) ∧
    (∀ sel, sel = d.val (F.PLn_CTXm_TBL_SEL n m) % 16 → sel < 8 → inL → d.on (F.PLn_CTXm_CFG_EN n m) = false →
      d.on (F.PLn_CTXm_STAT_IDLE n m) = true → c.setRamp = none →
      ∃ t, exec (.tblDataAccess n m (some v)) s = .next t ∧ s.sameStores t ∧
        t.dev.val (F.PLn_CTXm_TBL_IDX n m) = next ∧
        (∀ a, tabGet 0x4000 (t.dev.ctx n m).sets a =
          if a = sel * 32768 + k then v.toNat else tabGet 0x4000 c.sets a) ∧
        d.sameRegsBut t.dev [F.PLn_CTXm_TBL_IDX n m]) ∧
    (d.val (F.PLn_CTXm_TBL_SEL n m) % 16 = 8 → inL →
      ∃ t, exec (.tblDataAccess n m (some v)) s = .next t ∧ s.sameStores t ∧
        t.dev.val (F.PLn_CTXm_TBL_IDX n m) = next ∧
        (ramps = false →
          (∀ a, tabGet 0x4000 (t.dev.ctx n m).staging a = if a = k then v.toNat else tabGet 0x4000 c.staging a) ∧
          d.sameRegsBut t.dev [F.PLn_CTXm_TBL_IDX n m]) ∧
        (ramps = true → t.dev.ctx n m = c ∧ t.dev.on (F.PLn_CTXm_CAL_FLAG_CAL_BUSY n m) = true ∧
          t.dev.on F.SYS_FLAG_ACCESS_ERR = true)) ∧
    ((d.val (F.PLn_CTXm_TBL_SEL n m) % 16 = 9 ∨ 11 ≤ d.val (F.PLn_CTXm_TBL_SEL n m) % 16) →
      ∃ t, exec (.tblDataAccess n m (some v)) s = .next t ∧ s.sameStores t ∧ t.dev.ctx n m = c ∧
        t.dev.val (F.PLn_CTXm_TBL_IDX n m) = next ∧ t.dev.on F.SYS_FLAG_ACCESS_ERR = true ∧
        t.dev.val F.SYS_ERR_ADDR = R.PLn_CTXm_TBL_DATA n m ∧
        d.sameRegsBut t.dev [F.PLn_CTXm_TBL_IDX n m, F.SYS_FLAG_ACCESS_ERR, F.SYS_ERR_ADDR, F.SYS_ACCESS_CNT])) ∧
  (∀ (s : State) (q : Fin 64) (n : Fin 17) (m : Fin 4) (k : Int) (bit : Bool) (h : HeldLine),
    let d := s.dev
    let c := d.ctx n m
    let row := h.pos / ((max 1 (d.val F.STC_GRID_PITCH) : Nat) : Int)
    d.seg.fgBits.find? (fun b => b.2.1 == q.val) = some (k, q.val, bit) → d.ctxsOf q = [(n.val, m.val)] →
    c.held = [h] → h.lo ≠ some true → h.hi ≠ some true →
    ∃ t, exec (.foregroundBit q) s = .next t ∧ s.sameStores t ∧ d.sameRegsBut t.dev [] ∧
      t.dev.seg.fgBits.length + 1 = d.seg.fgBits.length ∧
      (k ≠ row → k ≠ row + 1 → (h.lo = none ∨ h.hi = none) → t.dev.ctx n m = c) ∧
      ((k = row ∨ k = row + 1) → bit = true →
        (t.dev.ctx n m).held = [] ∧ (t.dev.ctx n m).sums = c.sums ∧ (t.dev.ctx n m).clean = c.clean) ∧
      (((k = row ∧ h.hi = some false) ∨ (k = row + 1 ∧ h.lo = some false)) → bit = false →
        (t.dev.ctx n m).held = [] ∧ (t.dev.ctx n m).clean = c.clean + 1 ∧
        (t.dev.ctx n m).sums = if c.sums = [] then h.x3 else c.sums.zipWith (· + ·) h.x3) ∧
      ((k = row ∧ h.hi = none) → bit = false →
        (t.dev.ctx n m).held = [{ h with lo := some false }] ∧ (t.dev.ctx n m).clean = c.clean) ∧
      ((k = row + 1 ∧ h.lo = none) → bit = false →
        (t.dev.ctx n m).held = [{ h with hi := some false }] ∧ (t.dev.ctx n m).clean = c.clean))

/-- In INSPECT the oldest crossing is taken; its line is placed above the last or discarded; lines too late become
lineless. ITEM_TAKE changes nothing outside INSPECT or while the oldest crossing's line has not arrived and no
line runs. With a plane-0 line of a stream of one plane it removes the crossing; a line placed above the last
becomes the plane's last line and every row below it is decided; one at or below the last is discarded, flagged
and counted. LATE makes the oldest missing line lineless at its effective instant plus ROW_WAIT, 4 to 1,000 us.
STAGGER_WRITE_TIMEOUT makes the next line lineless for a staggered plane, with STG_OVF. -/
def Obligations.ItemsAreTakenInOrder : Prop :=
  ∀ (s : State) (q : Fin 64),
    let d := s.dev
    let cam := d.cam q
    (d.mode ≠ 3 → exec (.itemTake q) s = .next s.quietened) ∧
    (∀ c rest, cam.items = c :: rest → c.rep = .waiting → (∀ n : Fin 17, (d.front n).running = none) →
      exec (.itemTake q) s = .next s.quietened) ∧
    (∀ c rest l v, d.mode = 3 → cam.items = c :: rest → c.rep = .line l → c.lost = [] → l.planes = [v] →
      d.camPlanes q = 1 → (cam.plane 0).depth = 0 →
      let pos := l.tag.pos - d.vali (F.PLn_CTXm_PLANE_OFSp l.tag.pl l.tag.ctx 0) - d.vali (F.STC_CAMs_ALONG_ACT q)
      ∃ t, exec (.itemTake q) s = .next t ∧ s.sameStores t ∧ (t.dev.cam q).items = rest ∧
        ((∀ a, (cam.plane 0).last = some a → a.q < pos) →
          ((t.dev.cam q).plane 0).last =
            some ⟨pos, l.tag.time, l.tag.poison, l.tag.calRamp, v, none⟩ ∧
          pos ≤ t.dev.planeNext q 0 * ((max 1 (d.val F.STC_GRID_PITCH) : Nat) : Int) ∧
          t.dev.val (F.STC_CAMs_DISCARD_CNT q) = d.val (F.STC_CAMs_DISCARD_CNT q)) ∧
        ((∃ a, (cam.plane 0).last = some a ∧ pos ≤ a.q) →
          ((t.dev.cam q).plane 0).last = (cam.plane 0).last ∧ t.dev.on (F.STC_CAMs_FLAG_DISCARD q) = true ∧
          t.dev.val (F.STC_CAMs_DISCARD_CNT q) = min 0xFFFFFFFF (d.val (F.STC_CAMs_DISCARD_CNT q) + 1))) ∧
    (∀ c, cam.items.find? (fun c => c.rep == .waiting) = some c → c.n = 1 → (∀ n : Fin 17, (d.front n).running = none) →
      ∃ t, exec (.late q) s = .next t ∧ s.sameStores t ∧
        (t.dev.cam q).items = cam.items.map (fun x => if x.k = c.k ∧ x.n = 1 then { x with rep := .lineless } else x) ∧
        t.dev.now = max d.now (c.eff + 1000 * min 1000 (max 4 (d.val F.STC_ROW_WAIT))) ∧
        t.dev.on (F.STC_CAMs_FLAG_LATE q) = true ∧
        t.dev.val (F.STC_CAMs_LATE_CNT q) = min 0xFFFFFFFF (d.val (F.STC_CAMs_LATE_CNT q) + 1) ∧
        d.sameRegsBut t.dev [F.STC_CAMs_FLAG_LATE q, F.STC_CAMs_LATE_CNT q, F.MER_TIME]) ∧
    (∀ c rest l, ∀ p : Fin 4, cam.items = c :: rest → c.rep = .line l → (cam.plane p).depth ≠ 0 → p.val ∉ c.lost →
      ∃ t, exec (.staggerWriteTimeout q p) s = .next t ∧ s.sameStores t ∧
        (t.dev.cam q).items = { c with lost := c.lost ++ [p.val] } :: rest ∧
        t.dev.on (F.STC_CAMs_FLAG_STG_OVF q) = true ∧
        t.dev.val (F.STC_CAMs_STG_OVF_CNT q) = min 0xFFFFFFFF (d.val (F.STC_CAMs_STG_OVF_CNT q) + 1) ∧
        d.sameRegsBut t.dev [F.STC_CAMs_FLAG_STG_OVF q, F.STC_CAMs_STG_OVF_CNT q])

/-- A ready row is assembled with its tile hand-over and enters every slice's FIFO, or is skipped where that is
full. In INSPECT, when every plane of every stream has decided row k: CHART_ROW shows k in STC_ROW and moves on
to k + 1. At a new tile each camera with a written shadow takes its three geometry registers, and a camera with
RES_SWAP pending changes its residual bank. With segmentation running, a slice without a move gets the row, as
wide as the Chart, in its FIFO of 32, or skips it, flagged and counted; with it off every stream's foreground
bit of the row is 1. With no tap running no byte of memory changes. -/
def Obligations.ChartRowsReachTheSlices : Prop :=
  ∀ (s : State) (k : Int),
    let d := s.dev
    d.stc.nextRow = some k → d.mode = 3 → d.trigFollow.rowReady k = true → -(2 ^ 63) ≤ k → k < 2 ^ 63 →
    ∃ t, exec (.chartRow []) s = .next t ∧ t.pending = s.pending ∧ t.dev.vali F.STC_ROW = k ∧
      t.dev.stc.nextRow = some (k + 1) ∧
      ((∀ u : Fin 8, d.runs (F.CDC_TAPt_CFG_EN u) (F.CDC_TAPt_STAT_IDLE u) = false) → s.sameStores t) ∧
      (∀ q : Fin 64, d.stc.tile ≠ some (tileOf k (d.vali F.STC_K0)) →
        (d.on (F.STC_CAMs_STAT_SHADOW_PEND q) = true →
          t.dev.reg (R.STC_CAMs_OFFSET_ACT q) = d.reg (R.STC_CAMs_OFFSET_SH q) ∧
          t.dev.reg (R.STC_CAMs_SCALE_ACT q) = d.reg (R.STC_CAMs_SCALE_SH q) ∧
          t.dev.reg (R.STC_CAMs_ALONG_ACT q) = d.reg (R.STC_CAMs_ALONG_SH q) ∧
          t.dev.on (F.STC_CAMs_STAT_SHADOW_PEND q) = false) ∧
        ((d.cam q).swapPend = true →
          t.dev.val (F.STC_CAMs_STAT_RES_BANK q) = 1 - d.val (F.STC_CAMs_STAT_RES_BANK q) ∧
          (t.dev.cam q).swapPend = false)) ∧
      (d.runs F.SEG_CTRL_EN F.SEG_STAT_IDLE = false →
        t.dev.seg.fgBits = d.seg.fgBits ++ d.cams.map (fun q => (k, q, true))) ∧
      (∀ i : Fin 16, d.runs F.SEG_CTRL_EN F.SEG_STAT_IDLE = true → 0 < d.val (F.STC_SLICEs_WIDTH i) →
        d.seg.mig = none → (d.slice i).tgt = none →
        ((d.slice i).waits < 32 →
          ∃ row, (t.dev.slice i).cur.fifo = (d.slice i).cur.fifo ++ [row] ∧ row.k = k ∧
            row.cols.length = d.chartWidth ∧
            t.dev.val (F.SEG_Ss_ROW_SKIP_CNT i) = d.val (F.SEG_Ss_ROW_SKIP_CNT i)) ∧
        (32 ≤ (d.slice i).waits →
          (t.dev.slice i).cur.fifo = (d.slice i).cur.fifo ∧ t.dev.on (F.SEG_Ss_FLAG_ROW_SKIP i) = true ∧
          t.dev.val (F.SEG_Ss_ROW_SKIP_CNT i) = min 0xFFFFFFFF (d.val (F.SEG_Ss_ROW_SKIP_CNT i) + 1)))

/-- OVL writes replace the stored sums, RES_SWAP waits for the tile, and STC_TBL_DATA writes only the idle residual
bank. OVL_WRITE replaces OVL_ALONG or OVL_ACROSS whole. RES_SWAP only leaves the swap pending. STC_TBL_DATA at
index 0 to 512 reads and writes the idle bank of the stream selected, at 1,024 to 1,536 it reads the active bank
and a write is an access error that changes no entry; each access advances the index modulo 2,048. What other
indices read the manual does not state. -/
def Obligations.StitchTablesAreWritten : Prop :=
  ∀ (s : State) (q : Fin 64) (v : Word) (along : Bool),
    let d := s.dev
    let r := if along then R.STC_CAMs_OVL_ALONG q else R.STC_CAMs_OVL_ACROSS q
    let u := d.val F.STC_TBL_STREAM % 64
    let i := d.val F.STC_TBL_IDX % 2048
    let act := d.val (F.STC_CAMs_STAT_RES_BANK u)
    (∃ t, exec (.ovlWrite q along v) s = .next t ∧ s.sameStores t ∧ t.dev.reg r = v ∧
      (∀ a, a ≠ r → t.dev.reg a = d.reg a)) ∧
    (∃ t, exec (.resSwap q) s = .next t ∧ s.sameStores t ∧ t.dev.cam q = { d.cam q with swapPend := true } ∧
      d.sameRegsBut t.dev []) ∧
    (i ≤ 512 →
      (∃ t, exec (.stcTblDataAccess none) s = .next t ∧ s.sameStores t ∧
        t.dev.rdata.toNat = tabGet 0 (d.cam u).resid ((1 - act) * 1024 + i) % 2 ^ 32 ∧
        t.dev.val F.STC_TBL_IDX = (i + 1) % 2048 ∧ t.dev.cam u = d.cam u ∧
        d.sameRegsBut t.dev [F.STC_TBL_IDX]) ∧
      (∃ t, exec (.stcTblDataAccess (some v)) s = .next t ∧ s.sameStores t ∧
        (∀ k, tabGet 0 (t.dev.cam u).resid k =
          if k = (1 - act) * 1024 + i then v.toNat % 65536 else tabGet 0 (d.cam u).resid k) ∧
        t.dev.val F.STC_TBL_IDX = (i + 1) % 2048 ∧ d.sameRegsBut t.dev [F.STC_TBL_IDX])) ∧
    (1024 ≤ i → i ≤ 1536 →
      (∃ t, exec (.stcTblDataAccess none) s = .next t ∧ s.sameStores t ∧
        t.dev.rdata.toNat = tabGet 0 (d.cam u).resid (act * 1024 + (i - 1024)) % 2 ^ 32 ∧
        t.dev.val F.STC_TBL_IDX = (i + 1) % 2048 ∧ d.sameRegsBut t.dev [F.STC_TBL_IDX]) ∧
      (∃ t, exec (.stcTblDataAccess (some v)) s = .next t ∧ s.sameStores t ∧ t.dev.cam u = d.cam u ∧
        t.dev.on F.SYS_FLAG_ACCESS_ERR = true ∧ t.dev.val F.SYS_ERR_ADDR = R.STC_TBL_DATA ∧
        t.dev.val F.STC_TBL_IDX = (i + 1) % 2048 ∧
        d.sameRegsBut t.dev [F.STC_TBL_IDX, F.SYS_FLAG_ACCESS_ERR, F.SYS_ERR_ADDR, F.SYS_ACCESS_CNT]))

/-- A slice labels its oldest row under fresh thresholds; two closed parts become one record; a late neighbour is
given up. ROW_LABEL with no move takes the oldest row, its shadow thresholds becoming active; while the
background warms up, mu and sigma move by the difference over 2^BG_SHIFT, rounded down. SEAM_MERGE with nothing
to unite changes nothing; a group of two closed strong parts becomes one record of the later emission row,
counted as a seam. A good SEAM frame of an abutting neighbour moves its last row up. SEAM_LATE, SEAM_WAIT us, at
least 1, after the first labelled row whose frame has not come, gives that row up, flagged and counted. -/
def Obligations.RowsAreLabelledAndMerged : Prop :=
  ∀ s : State,
    let d := s.dev
    (∀ (i : Fin 16) row rest, d.seg.mig = none → (d.slice i).cur.fifo = row :: rest → (d.slice i).tgt = none →
      (d.slice i).cur.skips = [] →
      ∃ t, exec (.rowLabel i) s = .next t ∧ s.sameStores t ∧ (t.dev.slice i).cur.fifo = rest ∧
        (t.dev.slice i).cur.doneK = some row.k ∧ (t.dev.slice i).cur.rows = (d.slice i).cur.rows + 1 ∧
        (rest.length < 32 → t.dev.val (F.SEG_Ss_STAT_FIFO i) = rest.length) ∧
        t.dev.reg (R.SEG_Ss_DARK_ACT i) = d.reg (R.SEG_Ss_DARK_SH i) ∧
        t.dev.reg (R.SEG_Ss_LIGHT_ACT i) = d.reg (R.SEG_Ss_LIGHT_SH i) ∧
        t.dev.on (F.SEG_Ss_STAT_SHADOW_PEND i) = false ∧
        (∀ (c : Nat) (mu sg : Int) (x : Col), c < d.val (F.STC_SLICEs_WIDTH i) →
          (d.slice i).cur.rows < d.val F.SEG_WARM_BG_WARM → (d.slice i).cur.bg[c]? = some (some (mu, sg)) →
          row.cols[d.sliceStart i + c]? = some x → x.flags.missing = false →
          (d.slice i).cur.bg.length = d.val (F.STC_SLICEs_WIDTH i) → row.cols.length = d.chartWidth →
          let df : Int := ((x.seg * 256 : Nat) : Int) - mu
          let sh : Int := ((2 ^ d.val F.SEG_CFG_BG_SHIFT : Nat) : Int)
          (t.dev.slice i).cur.bg[c]? = some (some (mu + df / sh, sg + ((df.natAbs : Int) - sg) / sh)))) ∧
    (d.seg.joins = [] → d.seg.groups = [] → d.seg.mig = none → exec .seamMerge s = .next s.quietened) ∧
    (∀ (g : Group) (m n : Member) (p q : Piece), d.seg.joins = [] → d.seg.groups = [g] → d.seg.mig = none →
      g.members = [m, n] → m.id ≠ n.id → m.root ≠ n.root → m.alive = false → n.alive = false → m.remote = none →
      n.remote = none → d.seg.pieces = [p, q] → p.id = m.id → q.id = n.id → p.cut = false → q.cut = false →
      p.strong = true → 0 < p.acc.n → 0 < q.acc.n → (∀ e ∈ p.edges, d.edgeDone p e = true) →
      (∀ e ∈ q.edges, d.edgeDone q e = true) → d.seg.stage.length < 1024 → -(2 ^ 62) ≤ p.emit →
      ∃ t r, exec .seamMerge s = .next t ∧ s.sameStores t ∧ t.dev.seg.groups = [] ∧ t.dev.seg.pieces = [] ∧
        r ∈ t.dev.seg.stage ∧ t.dev.seg.stage.length = d.seg.stage.length + 1 ∧ r.kind = 2 ∧
        r.emit = max p.emit q.emit ∧ r.along = min p.acc.kFirst q.acc.kFirst * (d.gridPitch : Int) ∧
        t.dev.val F.SEG_U_SEAM_CNT = min 0xFFFFFFFF (d.val F.SEG_U_SEAM_CNT + 1)) ∧
    (∀ (side : Side) (f : ChainFrame), f.type = 6 → (d.chainCheck side f).2 = true → d.abuts side = true →
      let k := (f.words.getD 0 0).toInt
      (∀ l, (d.neigh side).late = some l → l < k) →
      ∃ t, exec (.seam side f) s = .next t ∧ s.sameStores t ∧
        (t.dev.neigh side).upTo = some (max ((d.neigh side).upTo.getD k) k)) ∧
    (∀ (side : Side) (k : Int) (at' : Nat) rest, d.abuts side = true → (d.neigh side).rows = (k, at') :: rest →
      ∃ t, exec (.seamLate side) s = .next t ∧ s.sameStores t ∧ (t.dev.neigh side).late = some k ∧
        (t.dev.neigh side).rows = rest ∧ t.dev.now = max d.now (at' + 1000 * max 1 (d.val F.SEG_SEAM_WAIT)) ∧
        t.dev.on F.SEG_FLAG_SEAM_LATE = true ∧
        t.dev.val F.SEG_U_SEAM_LATE_CNT = min 0xFFFFFFFF (d.val F.SEG_U_SEAM_LATE_CNT + 1) ∧
        d.sameRegsBut t.dev [F.SEG_FLAG_SEAM_LATE, F.SEG_U_SEAM_LATE_CNT, F.MER_TIME])

/-- A GO starts one stream, slice or forced move; a drained or timed-out old placement hands the slice to its
target. With GO and no move active: a stream move gives the stopped target context the stream, enables it and is
active; a target not stopped is an access error. A slice move of an active slice to a pipeline that no active
slice uses is active, with P the last row delivered plus LEAD, at least 1. A forced move places the slice at
once and sets MIG_TIMEOUT; its open components and parts are lost, the strong parts counted, its waiting rows
kept. A drained move shows the target and MIG_DRAINED. A move past MIG_TIMEOUT ms, at least 1, is aborted, its
lost strong parts counted. -/
def Obligations.MovesBeginAndEnd : Prop :=
  ∀ (s : State) (v : Word),
    let d := s.dev
    let src := fieldOf v 3 6
    let tgt := fieldOf v 9 5
    let ctx := fieldOf v 14 2
    let lead := fieldOf v 16 16
    (v.getLsbD 0 = true → v.getLsbD 2 = true → d.seg.mig = none → tgt < 17 →
      (d.on (F.PLn_CTXm_CFG_EN tgt ctx) = false → d.on (F.PLn_CTXm_STAT_IDLE tgt ctx) = true →
        ∃ t, exec (.streamMove v) s = .next t ∧ s.sameStores t ∧
          t.dev.seg.mig = some { stream := true, src := src, tgt := tgt, ctx := ctx, goAt := d.now, leadUs := lead } ∧
          t.dev.on F.SEG_STAT_MIG_ACTIVE = true ∧ t.dev.on F.SEG_STAT_MIG_DRAINED = false ∧
          t.dev.val (F.PLn_CTXm_CFG_STREAM tgt ctx) = src ∧ t.dev.on (F.PLn_CTXm_CFG_EN tgt ctx) = true ∧
          t.dev.on (F.PLn_CTXm_STAT_IDLE tgt ctx) = false ∧
          d.sameRegsBut t.dev [F.SEG_MIG_CTRL, F.SEG_STAT_MIG_ACTIVE, F.PLn_CTXm_CFG_STREAM tgt ctx,
            F.PLn_CTXm_STAT_IDLE tgt ctx, F.PLn_CTXm_CAL_STAT_TEMP_F tgt ctx]) ∧
      (d.on (F.PLn_CTXm_CFG_EN tgt ctx) = true →
        ∃ t, exec (.streamMove v) s = .next t ∧ s.sameStores t ∧ t.dev.seg.mig = none ∧
          t.dev.on F.SYS_FLAG_ACCESS_ERR = true ∧ t.dev.val F.SYS_ERR_ADDR = R.SEG_MIG_CTRL ∧
          d.sameRegsBut t.dev [F.SEG_MIG_CTRL, F.SYS_FLAG_ACCESS_ERR, F.SYS_ERR_ADDR, F.SYS_ACCESS_CNT])) ∧
    (v.getLsbD 0 = true → v.getLsbD 2 = false → d.seg.mig = none → tgt < 17 → src ∈ d.slices →
      (∀ i ∈ d.slices, d.val (F.SEG_Ss_STAT_PL i) ≠ tgt) →
      (v.getLsbD 1 = false →
        ∃ t g, exec (.sliceMove v) s = .next t ∧ s.sameStores t ∧ t.dev.seg.mig = some g ∧ g.stream = false ∧
          g.src = src ∧ g.tgt = tgt ∧ g.p = d.lastDelivered src + ((max 1 lead : Nat) : Int) ∧
          t.dev.val F.SEG_MIG_P = fromSigned 64 g.p ∧ t.dev.on F.SEG_STAT_MIG_ACTIVE = true ∧
          t.dev.on F.SEG_STAT_MIG_DRAINED = false ∧ t.dev.val (F.SEG_Ss_STAT_PL src) = d.val (F.SEG_Ss_STAT_PL src)) ∧
      (v.getLsbD 1 = true →
        ∃ t, exec (.forcedMove v) s = .next t ∧ s.sameStores t ∧ t.dev.seg.mig = none ∧
          t.dev.val (F.SEG_Ss_STAT_PL src) = tgt ∧ t.dev.on F.SEG_FLAG_MIG_DONE = true ∧
          t.dev.on F.SEG_FLAG_MIG_TIMEOUT = true ∧
          t.dev.val F.SEG_U_MIG_LOST_CNT = min 0xFFFFFFFF (d.val F.SEG_U_MIG_LOST_CNT +
            ((d.markOld src).seg.pieces.filter (fun p => p.old && p.strong)).length) ∧
          (∀ p ∈ t.dev.seg.pieces, p.old = false) ∧
          t.dev.val (F.SEG_Ss_OPEN src) = 0 ∧ (t.dev.slice src).cur.comps = [] ∧ (t.dev.slice src).cur.bg = [] ∧
          (t.dev.slice src).cur.fifo = (d.slice src).cur.fifo ∧
          d.sameRegsBut t.dev [F.SEG_MIG_CTRL, F.SEG_MIG_P, F.SEG_Ss_STAT_PL src, F.SEG_Ss_OPEN src,
            F.SEG_STAT_MIG_DRAINED, F.SEG_FLAG_MIG_DONE, F.SEG_FLAG_MIG_TIMEOUT, F.SEG_U_MIG_LOST_CNT])) ∧
    (∀ g x, d.seg.mig = some g → g.stream = false → g.drained = false → g.src < 16 → g.tgt < 17 →
      (d.slice g.src).tgt = some x →
      (g.copied = true →
        ∃ t, exec .migDrained s = .next t ∧ s.sameStores t ∧ t.dev.val (F.SEG_Ss_STAT_PL g.src) = g.tgt ∧
          t.dev.on F.SEG_STAT_MIG_DRAINED = true ∧ (t.dev.slice g.src).tgt = none ∧
          (t.dev.slice g.src).cur = { x with doneK := x.doneK.or (d.slice g.src).cur.doneK }) ∧
      (∃ t, exec .migTimeout s = .next t ∧ s.sameStores t ∧ t.dev.seg.mig = none ∧
        t.dev.now = max d.now (g.goAt + 1000000 * max 1 (d.val F.SEG_MIG_TIMEOUT % 65536)) ∧
        t.dev.val (F.SEG_Ss_STAT_PL g.src) = g.tgt ∧ t.dev.on F.SEG_FLAG_MIG_TIMEOUT = true ∧
        t.dev.on F.SEG_STAT_MIG_ACTIVE = false ∧ (t.dev.slice g.src).tgt = none ∧
        t.dev.val F.SEG_U_MIG_LOST_CNT =
          min 0xFFFFFFFF (d.val F.SEG_U_MIG_LOST_CNT + (d.seg.pieces.filter (fun p => p.old && p.strong)).length)))

/-- The lowest key leaves the reorder stage when nothing lower can come; the emitter writes one record per 250 ns.
REORDER_RELEASE moves the first record of the stage to the emit buffer once no source can produce a lower key,
leaves it in a stage that is not full otherwise, and drops it where the buffer holds 4,096, flagged and counted.
RECORD_EMIT, no earlier than 250 ns after the last record, writes the oldest record of one queue that has room
as one item with producer code 0x08, and counts a fix in FIX_CNT. -/
def Obligations.RecordsLeaveThroughTheEmitter : Prop :=
  ∀ s : State,
    let d := s.dev
    (∀ r rest, d.seg.stage = r :: rest → d.released r.emit = true →
      (d.seg.buffer.length < 4096 →
        ∃ t, exec .reorderRelease s = .next t ∧ s.sameStores t ∧ t.dev.seg.stage = rest ∧
          t.dev.seg.buffer = d.seg.buffer ++ [r] ∧ d.sameRegsBut t.dev []) ∧
      (4096 ≤ d.seg.buffer.length →
        ∃ t, exec .reorderRelease s = .next t ∧ s.sameStores t ∧ t.dev.seg.stage = rest ∧
          t.dev.seg.buffer = d.seg.buffer ∧ t.dev.on F.SEG_FLAG_FIX_DROP = true ∧
          t.dev.val F.SEG_U_FIX_DROP_CNT = min 0xFFFFFFFF (d.val F.SEG_U_FIX_DROP_CNT + 1) ∧
          d.sameRegsBut t.dev [F.SEG_FLAG_FIX_DROP, F.SEG_U_FIX_DROP_CNT])) ∧
    (∀ r rest, d.seg.stage = r :: rest → d.released r.emit = false → d.seg.stage.length < 1024 →
      exec .reorderRelease s = .next s.quietened) ∧
    (∀ r rest, ∀ q : Fin 64, d.seg.buffer = r :: rest → r.queues = [q.val] → r.sent = false → r.kind = 2 →
      d.on F.SEG_CTRL_EN = true → F.SEG_CTRL_EN.addr ∉ d.restart → d.queTakes q r.bytes.length = true →
      (d.queue q).waiting = [] → (d.queue q).fwLeft = 0 → (∀ i ∈ (d.queue q).items, i.dead = false) →
      (d.queue q).fill + 1 + (r.bytes.length + 7) / 8 ≤ d.queCap q →
      ∃ t ws, exec .recordEmit s = .next t ∧ s.sameStores t ∧ t.dev.seg.buffer = rest ∧
        (t.dev.queue q).items = (d.queue q).items ++ [⟨r.bytes.length, 0x08, ws, 0, true, false⟩] ∧
        itemBytes r.bytes.length ws = r.bytes ∧ t.dev.seg.lastOut = some t.dev.now ∧
        t.dev.now = (match d.seg.lastOut with
          | some u => max d.now (u + 250)
          | none => d.now) ∧
        t.dev.val F.SEG_U_FIX_CNT = min 0xFFFFFFFF (d.val F.SEG_U_FIX_CNT + 1) ∧
        d.sameWindowsBut t.dev [0x4009, 0x4014, 0x400F, 0x4000])

/-- A stop closes every component and empties the stage; ABORT drops all records; a node is committed by its upper
half. SEG_DISABLE of a running segmentation clears EN, closes the components of every active slice, unites
nothing more and passes the stage to the emit buffer. SEG_ABORT discards parts, groups, stage and buffer, the
records of the last two counted in FIX_DROP_CNT, clears EN and sets IDLE. TREE_SWAP only sets SWAP_PEND.
TREE_NODE_WRITE with ACTIVE 0 commits both halves to the idle bank's node and advances the index; with ACTIVE 1
it is an access error. -/
def Obligations.SegmentationStopsAndSwapsTrees : Prop :=
  ∀ (s : State) (hi : Word),
    let d := s.dev
    let i := d.val F.SEG_TREE_IDX_INDEX
    let act := d.val F.SEG_STAT_TREE_BANK
    (d.on F.SEG_CTRL_EN = true → d.on F.SEG_STAT_IDLE = false →
      ∃ t, exec .segDisable s = .next t ∧ s.sameStores t ∧ t.dev.on F.SEG_CTRL_EN = false ∧
        t.dev.seg.pieces = [] ∧ t.dev.seg.groups = [] ∧ t.dev.seg.joins = [] ∧ t.dev.seg.stage = [] ∧
        (∀ k ∈ d.slices, (t.dev.slice k).cur.comps = [] ∧ (t.dev.slice k).tgt = none ∧
          t.dev.on (F.SEG_Ss_STAT_IDLE k) = true ∧ t.dev.val (F.SEG_Ss_OPEN k) = 0) ∧
        t.dev.on F.SEG_STAT_IDLE = t.dev.seg.buffer.isEmpty) ∧
    (∃ t, exec .segAbort s = .next t ∧ s.sameStores t ∧ t.dev.on F.SEG_CTRL_EN = false ∧
      t.dev.on F.SEG_STAT_IDLE = true ∧ t.dev.seg.pieces = [] ∧ t.dev.seg.groups = [] ∧ t.dev.seg.stage = [] ∧
      t.dev.seg.buffer = [] ∧
      t.dev.val F.SEG_U_FIX_DROP_CNT =
        min 0xFFFFFFFF (d.val F.SEG_U_FIX_DROP_CNT + (d.seg.stage.length + d.seg.buffer.length)) ∧
      (∀ k ∈ d.slices, t.dev.slice k = { cur := {}, tgt := none, seq := (d.slice k).seq } ∧
        t.dev.on (F.SEG_Ss_STAT_IDLE k) = true) ∧ d.sameWindowsBut t.dev [0x4014]) ∧
    (∃ t, exec .treeSwap s = .next t ∧ s.sameStores t ∧ t.dev.on F.SEG_STAT_SWAP_PEND = true ∧
      d.sameRegsBut t.dev [F.SEG_STAT_SWAP_PEND]) ∧
    (d.on F.SEG_TREE_IDX_ACTIVE = false →
      ∃ t lo, exec (.treeNodeWrite hi) s = .next t ∧ s.sameStores t ∧
        lo = d.lower R.SEG_TREE_DATA (BitVec.ofNat 32 (tabGet 0 d.seg.tree ((1 - act) * 4096 + i))) ∧
        (∀ k, tabGet 0 t.dev.seg.tree k =
          if k = (1 - act) * 4096 + i then hi.toNat * 2 ^ 32 + lo.toNat else tabGet 0 d.seg.tree k) ∧
        t.dev.val F.SEG_TREE_IDX = (i + 1) % 4096 ∧ tabGet 0 t.dev.staged R.SEG_TREE_DATA = 0 ∧
        d.sameRegsBut t.dev [F.SEG_TREE_IDX]) ∧
    (d.on F.SEG_TREE_IDX_ACTIVE = true →
      ∃ t, exec (.treeNodeWrite hi) s = .next t ∧ s.sameStores t ∧ t.dev.seg.tree = d.seg.tree ∧
        t.dev.on F.SYS_FLAG_ACCESS_ERR = true ∧
        d.sameRegsBut t.dev [F.SYS_FLAG_ACCESS_ERR, F.SYS_ERR_ADDR, F.SYS_ACCESS_CNT])

/-- A head latches its geometry and loads line 0; records mark lines not loaded; a stop discards the map and counts
it. In INSPECT or HOLD, HEAD_ENABLE of a stopped head on a REGULAR compare unit no other running head names
latches VBASE and MPITCH, begins the load of line 0 and sends GET_ID; in SERVICE it is an access error.
LINE_LOAD begins the load of the next line once LAT has ended and shifts its bits, LOAD_COMPLETE ends it.
RECORD_READ takes the queue's first item; a record marks all its lines when none has been loaded, or the next
one, counted late, where its first line lies at most LATE_LINES behind; one that meets no nozzle marks nothing,
and one that ends beyond the map's 8,192 lines waits. HEAD_DISABLE discards the map, lines with a set bit
counted; HEAD_ABORT ends FIRE at once too, and a FIRE counts in FIRE_CNT once its pulse has begun, never after
an ABORT before it. -/
def Obligations.HeadsAreEnabledLoadedAndStopped : Prop :=
  ∀ (s : State) (n : Fin 16),
    let d := s.dev
    let h := d.head n
    let c := d.val (F.MRKn_CFG_CMP_CH n)
    let u := d.val (F.MRKn_CFG_CMP_UNIT n)
    let k := min 128 (max 1 (d.val (F.MRKn_CFG_NOZZLES n)))
    let clk := 4 * min 255 (max 5 (d.val (F.MRKn_CFG_CLKDIV n)))
    let lines := tabCount (· != 0) h.map + (if (h.loading || d.on (F.MRKn_STAT_LOADED n)) && h.curBits != 0 then 1 else 0)
    let due := h.pulse.any (fun p => decide (p.2.1 ≤ d.now))
    let fired := if due then min 0xFFFFFFFF (d.val (F.MRKn_FIRE_CNT n) + 1) else d.val (F.MRKn_FIRE_CNT n)
    ((d.mode = 3 ∨ d.mode = 4) → d.pwr.trans ≠ some .toService → d.on (F.MRKn_STAT_IDLE n) = true →
      d.val (F.LOGn_CMPm_CTRL_MODE c u) = 3 →
      (∀ i : Fin 16, i ≠ n → d.on (F.MRKn_CFG_EN i) = true → d.val (F.MRKn_CFG_CMP_CH i) = c →
        d.val (F.MRKn_CFG_CMP_UNIT i) = u → d.on (F.MRKn_STAT_IDLE i) = true) →
      ∃ t, exec (.headEnable n) s = .next t ∧ s.sameStores t ∧ t.dev.on (F.MRKn_CFG_EN n) = true ∧
        t.dev.on (F.MRKn_STAT_IDLE n) = false ∧ t.dev.on (F.MRKn_STAT_AUTH n) = false ∧
        t.dev.vali (F.MRKn_VBASE n) = d.vali (F.LOGn_CMPm_VAL c u) ∧
        t.dev.val (F.MRKn_MPITCH n) = max 64 (d.val (F.LOGn_CMPm_PITCH c u)) ∧
        (t.dev.head n).cur = 0 ∧ (t.dev.head n).map = [] ∧ (t.dev.head n).loading = true ∧
        (t.dev.head n).loadEnd = d.now + k * clk ∧ (t.dev.head n).wait = .id ∧ (t.dev.head n).geomErr = false ∧
        .ident n [0x5A, 1, 0, BitVec.ofNat 8 (crc8 [1, 0])] ∈ t.dev.out ∧
        d.sameWindowsBut t.dev [0x400E, 0x400B]) ∧
    (d.mode = 5 →
      ∃ t, exec (.headEnable n) s = .next t ∧ s.sameStores t ∧ t.dev.on F.SYS_FLAG_ACCESS_ERR = true ∧
        t.dev.val F.SYS_ERR_ADDR = R.MRKn_CFG n ∧
        d.sameRegsBut t.dev [F.SYS_FLAG_ACCESS_ERR, F.SYS_ERR_ADDR, F.SYS_ACCESS_CNT]) ∧
    (d.runs (F.MRKn_CFG_EN n) (F.MRKn_STAT_IDLE n) = true → h.loading = false → d.on (F.MRKn_STAT_LOADED n) = false →
      ∃ t, exec (.lineLoad n) s = .next t ∧ s.sameStores t ∧ t.dev.now = max d.now h.latEnd ∧
        (t.dev.head n).curBits = tabGet 0 h.map h.cur ∧ (t.dev.head n).cur = h.cur ∧ (t.dev.head n).loading = true ∧
        (t.dev.head n).loadEnd = t.dev.now + k * clk ∧
        t.dev.out = [.nozzles n ((List.range k).map (fun i => (tabGet 0 h.map h.cur).testBit (k - 1 - i)))] ∧
        d.sameRegsBut t.dev [F.MRKn_STAT_LOADED n, F.MER_TIME]) ∧
    (h.loading = true →
      ∃ t, exec (.loadComplete n) s = .next t ∧ s.sameStores t ∧ t.dev.now = max d.now h.loadEnd ∧
        (t.dev.head n).loading = false ∧ t.dev.on (F.MRKn_STAT_LOADED n) = true ∧
        d.sameRegsBut t.dev [F.MRKn_STAT_LOADED n, F.MER_TIME]) ∧
    (∀ (i : QItem) (rest : List QItem),
      let q := d.val (F.MRKn_CFG_QUEUE n)
      (d.queue q).items = i :: rest → (d.queue q).opened = false → i.dead = false → i.hdr = true → i.toCome = 0 →
      (d.queue q).spoilt = [] → 0 < i.len → i.words.length = (i.len + 7) / 8 → d.runs (F.MRKn_CFG_EN n) (F.MRKn_STAT_IDLE n) = true →
      (d.recLines n (itemBytes i.len i.words) = none →
        ∃ t, exec (.recordRead n false []) s = .next t ∧ s.sameStores t ∧ (t.dev.queue q).items = rest ∧
          t.dev.head n = h ∧ d.sameWindowsBut t.dev [0x4009, 0x4000]) ∧
      (∀ j0 j1 bits, d.recLines n (itemBytes i.len i.words) = some (j0, j1, bits) →
        (((d.nextLoad n : Nat) : Int) + 8192 ≤ j1 → exec (.recordRead n false []) s = .next s.quietened) ∧
        (j1 < ((d.nextLoad n : Nat) : Int) + 8192 → bits = 0 →
          ∃ t, exec (.recordRead n false []) s = .next t ∧ s.sameStores t ∧ (t.dev.queue q).items = rest ∧
            t.dev.head n = h ∧ d.sameWindowsBut t.dev [0x4009, 0x4000])) ∧
      (∀ j0 j1 bits, d.recLines n (itemBytes i.len i.words) = some (j0, j1, bits) → j0 ≤ j1 →
        ((d.nextLoad n : Nat) : Int) ≤ j0 → j1 < ((d.nextLoad n : Nat) : Int) + 8192 →
        ∃ t, exec (.recordRead n false []) s = .next t ∧ s.sameStores t ∧ (t.dev.queue q).items = rest ∧
          (∀ j : Nat, tabGet 0 (t.dev.head n).map j =
            if j0 ≤ (j : Int) ∧ (j : Int) ≤ j1 then tabGet 0 h.map j ||| bits else tabGet 0 h.map j) ∧
          d.sameWindowsBut t.dev [0x4009, 0x4000]) ∧
      (∀ j0 j1 bits, d.recLines n (itemBytes i.len i.words) = some (j0, j1, bits) → j0 ≤ j1 →
        j0 < ((d.nextLoad n : Nat) : Int) → ((d.nextLoad n : Nat) : Int) - d.val (F.MRKn_TIMING_LATE_LINES n) ≤ j0 →
        j1 < ((d.nextLoad n : Nat) : Int) + 8192 → bits ≠ 0 →
        ∃ t, exec (.recordRead n false []) s = .next t ∧ s.sameStores t ∧
          tabGet 0 (t.dev.head n).map (d.nextLoad n) = tabGet 0 h.map (d.nextLoad n) ||| bits ∧
          t.dev.on (F.MRKn_FLAG_REC_LATE n) = true ∧
          t.dev.val (F.MRKn_REC_LATE_CNT n) = min 0xFFFFFFFF (d.val (F.MRKn_REC_LATE_CNT n) + 1) ∧
          t.dev.val (F.MRKn_MISS_CNT n) = d.val (F.MRKn_MISS_CNT n))) ∧
    (d.on (F.MRKn_CFG_EN n) = true → d.on (F.MRKn_STAT_IDLE n) = false →
      (∃ t, exec (.headDisable n) s = .next t ∧ s.sameStores t ∧ t.dev.on (F.MRKn_CFG_EN n) = false ∧
        (t.dev.head n).map = [] ∧ t.dev.on (F.MRKn_STAT_LOADED n) = false ∧
        t.dev.val (F.MRKn_DISCARD_CNT n) = min 0xFFFFFFFF (d.val (F.MRKn_DISCARD_CNT n) + lines) ∧
        t.dev.on (F.MRKn_STAT_IDLE n) = (decide (h.latEnd ≤ d.now) && decide (h.fireEnd ≤ d.now) &&
          ((d.firePulse n).head n).wait == .idle) ∧
        t.dev.val (F.MRKn_FIRE_CNT n) = fired ∧
        d.sameWindowsBut t.dev [0x400E, 0x400B]) ∧
      (h.latEnd ≤ d.now → ((d.firePulse n).head n).wait = .idle →
        ∃ t, exec (.headAbort n) s = .next t ∧ s.sameStores t ∧ t.dev.on (F.MRKn_CFG_EN n) = false ∧
          t.dev.on (F.MRKn_STAT_IDLE n) = true ∧ (t.dev.head n).map = [] ∧ (t.dev.head n).fireEnd ≤ d.now ∧
          t.dev.val (F.MRKn_FIRE_CNT n) = fired ∧ (t.dev.head n).pulse = none ∧
          (d.now < h.fireEnd → .fire n d.now 0 (d.on (F.MRKn_CFG_FIRE_POL n)) ∈ t.dev.out) ∧
          d.sameWindowsBut t.dev [0x400E, 0x400B]))

/-- A genuine cartridge opens a session and takes decrements; a bad reply, a wrong MAC, a timeout or count 0 refuses
it. With no drain under way, and no FIRE pulse begun that is still to be counted. A good GET_ID reply sends an
8-byte nonce; a CHALLENGE reply with the MAC of R195 opens the session with the cartridge's ID and count, one
with another MAC refuses it, a count of 0 refuses it as COUNT_ZERO. A DECREMENT reply with the right MAC and a
count one lower is taken and counted. No reply 500 us after the request refuses. A refusal clears AUTH, sets
REFUSED, flags AUTH_FAIL. REAUTH after its seconds, at least 1, and AUTH_RETRY 1 s after a refusal send GET_ID. -/
def Obligations.CartridgeSessions : Prop :=
  ∀ (s : State) (n : Fin 16) (reply : List Byte),
    let d := s.dev
    let h := d.head n
    let refused : State → Fld → Prop := fun t flag => t.dev.on (F.MRKn_STAT_AUTH n) = false ∧
      t.dev.on (F.MRKn_STAT_REFUSED n) = true ∧ t.dev.on flag = true ∧ (t.dev.head n).wait = .idle ∧
      (t.dev.head n).authAt = t.dev.now ∧ s.sameStores t
    let asked : State → Prop := fun t => (t.dev.head n).wait = .id ∧
      t.dev.out = [.ident n [0x5A, 1, 0, BitVec.ofNat 8 (crc8 [1, 0])]] ∧ s.sameStores t ∧
      d.sameRegsBut t.dev [F.MRKn_STAT_DEC_PEND n, F.MER_TIME]
    let noDrain := d.drains (F.MRKn_CFG_EN n) (F.MRKn_STAT_IDLE n) = false
    h.pulse.any (fun p => decide (p.2.1 ≤ d.now)) = false →
    (∀ p, h.wait = .id → cartReply 0x01 12 reply = some p → d.on (F.MRKn_STAT_AUTH n) = false →
      ∃ t, exec (.getId n reply) s = .next t ∧ s.sameStores t ∧ (t.dev.head n).wait = .mac ∧
        (t.dev.head n).newId = leAt p 0 8 ∧ (t.dev.head n).newCount = leAt p 8 4 ∧ (t.dev.head n).nonce.length = 8 ∧
        t.dev.out = [.ident n (cartFrame 0x02 (t.dev.head n).nonce)] ∧
        (t.dev.head n).sentAt = d.now + 120000 ∧ d.sameRegsBut t.dev [F.MRKn_STAT_DEC_PEND n]) ∧
    (h.wait = .id → cartReply 0x01 12 reply = none → noDrain →
      ∃ t, exec (.getId n reply) s = .next t ∧ refused t (F.MRKn_FLAG_AUTH_FAIL n)) ∧
    (h.wait = .mac → noDrain →
      let mac := (hmac256 (hmac256 d.otp.secret (bytesLE 8 h.newId))
        ([2] ++ h.nonce ++ bytesLE 8 h.newId ++ bytesLE 4 h.newCount)).take 8
      (cartReply 0x02 8 reply ≠ some mac →
        ∃ t, exec (.challenge n reply) s = .next t ∧ refused t (F.MRKn_FLAG_AUTH_FAIL n) ∧
          t.dev.val (F.MRKn_CART_ID n) = d.val (F.MRKn_CART_ID n)) ∧
      (cartReply 0x02 8 reply = some mac → h.newId < 2 ^ 64 → h.newCount < 2 ^ 32 →
        (h.newCount = 0 →
          ∃ t, exec (.challenge n reply) s = .next t ∧ refused t (F.MRKn_FLAG_COUNT_ZERO n)) ∧
        (h.newCount ≠ 0 → h.owed = 0 →
          ∃ t, exec (.challenge n reply) s = .next t ∧ s.sameStores t ∧ t.dev.on (F.MRKn_STAT_AUTH n) = true ∧
            t.dev.on (F.MRKn_STAT_REFUSED n) = false ∧ t.dev.val (F.MRKn_CART_ID n) = h.newId ∧
            t.dev.val (F.MRKn_CART_COUNT n) = h.newCount ∧ (t.dev.head n).wait = .idle ∧
            (t.dev.head n).authAt = d.now ∧
            d.sameRegsBut t.dev [F.MRKn_CART_ID n, F.MRKn_CART_COUNT n, F.MRKn_STAT_AUTH n]))) ∧
    (∀ p, h.wait = .dec → noDrain → cartReply 0x03 12 reply = some p → h.owed ≤ 1 →
      let mac := (hmac256 (hmac256 d.otp.secret (bytesLE 8 (d.val (F.MRKn_CART_ID n))))
        ([3] ++ h.nonce ++ bytesLE 4 h.seq ++ p.take 4)).take 8
      (p.drop 4 = mac → leAt p 0 4 + 1 = d.val (F.MRKn_CART_COUNT n) → leAt p 0 4 ≠ 0 →
        ∃ t, exec (.decrement n reply) s = .next t ∧ s.sameStores t ∧
          t.dev.val (F.MRKn_CART_COUNT n) = leAt p 0 4 ∧
          t.dev.val (F.MRKn_DEC_CNT n) = min 0xFFFFFFFF (d.val (F.MRKn_DEC_CNT n) + 1) ∧
          (t.dev.head n).owed = 0 ∧ (t.dev.head n).wait = .idle ∧ t.dev.on (F.MRKn_STAT_DEC_PEND n) = false ∧
          d.sameRegsBut t.dev [F.MRKn_CART_COUNT n, F.MRKn_DEC_CNT n, F.MRKn_STAT_DEC_PEND n]) ∧
      ((p.drop 4 ≠ mac ∨ leAt p 0 4 + 1 ≠ d.val (F.MRKn_CART_COUNT n)) →
        ∃ t, exec (.decrement n reply) s = .next t ∧ refused t (F.MRKn_FLAG_AUTH_FAIL n) ∧
          t.dev.val (F.MRKn_CART_COUNT n) = d.val (F.MRKn_CART_COUNT n))) ∧
    (h.wait ≠ .idle → noDrain →
      ∃ t, exec (.cartridgeTimeout n) s = .next t ∧ refused t (F.MRKn_FLAG_AUTH_FAIL n) ∧
        t.dev.now = max d.now (h.sentAt + 500000)) ∧
    (d.runs (F.MRKn_CFG_EN n) (F.MRKn_STAT_IDLE n) = true → h.wait = .idle →
      (d.on (F.MRKn_STAT_AUTH n) = true →
        ∃ t, exec (.reauth n) s = .next t ∧ asked t ∧
          t.dev.now = max d.now (h.authAt + 1000000000 * max 1 (d.val (F.MRKn_TIMING_REAUTH n)))) ∧
      (d.on (F.MRKn_STAT_REFUSED n) = true →
        ∃ t, exec (.authRetry n) s = .next t ∧ asked t ∧ t.dev.now = max d.now (h.authAt + 1000000000)))

/-- START fetches an owned job, its end writes output and STATUS and takes the next; taps need a valid layout and
take a lost row back. CDC_START of a running engine without a job takes the 64 bytes at DESC when OWN is set,
else shows EMPTY; with a job it waits as START_PEND. A coding or decode job of the last descriptor, whose output
meets neither its descriptor nor a device, ends as the codec of R198 to R207 says: STATUS holds the code and 256
times the valid bytes, OWN is cleared, the engine is EMPTY, LAST_CODE, JOB_CNT, ERR_CNT, BYTE_CNT, PIX_CNT and
POISON follow, DONE is set; how far a failing block had come is free (log entry 127). With code 0 the output
area holds the coded blocks or decoded rows and is otherwise as it was; ERR_PARAM (code 4) writes nothing but
STATUS and OWN; other codes touch no byte beyond the output area. CDC_FLUSH notes the row of a coding job.
TAP_ENABLE of a stopped tap whose span divides by 2^DC, whose row is at most 16,384 wide and whose ring holds
whole blocks sets EN and clears IDLE; with another layout it is an access error and the tap stays. TAP_LOST
undoes the tap's last output row: the bytes that stood there, TAP_ROW of the row before, LOST set and counted. -/
def Obligations.CodecJobsAndTaps : Prop :=
  (∀ (s : State) (e : Fin 4),
    let d := s.dev
    let g := d.eng e
    let a := d.val (F.CDC_En_DESC e)
    (d.runs (F.CDC_En_CTRL_EN e) (F.CDC_En_STAT_IDLE e) = true →
      (d.on (F.CDC_En_STAT_BUSY e) = true →
        ∃ t, exec (.cdcStart e) s = .next t ∧ s.sameStores t ∧ t.dev.on (F.CDC_En_STAT_START_PEND e) = true ∧
          d.sameRegsBut t.dev [F.CDC_En_STAT_START_PEND e]) ∧
      (d.on (F.CDC_En_STAT_BUSY e) = false → d.on (F.CDC_En_STAT_START_PEND e) = false →
        (a = 0 →
          ∃ t, exec (.cdcStart e) s = .next t ∧ s.sameStores t ∧ t.dev.on (F.CDC_En_STAT_EMPTY e) = true ∧
            t.dev.eng e = g ∧ d.sameRegsBut t.dev [F.CDC_En_STAT_EMPTY e]) ∧
        (a ≠ 0 → s.isMem a 64 → d.dramStill → (s.byte a).getLsbD 0 = true →
          ∃ t, exec (.cdcStart e) s = .next t ∧ s.sameStores t ∧ t.dev.on (F.CDC_En_STAT_BUSY e) = true ∧
            t.dev.on (F.CDC_En_STAT_EMPTY e) = false ∧ (t.dev.eng e).desc = a ∧
            (t.dev.eng e).job = some (s.bytes a 64) ∧
            t.dev.on (F.CDC_En_STAT_DECODING e) = (s.byte a).getLsbD 2 ∧
            d.sameRegsBut t.dev (F.CDC_En_STAT_BUSY e :: dramTrace)))) ∧
    (∀ bs, g.job = some bs →
      let j := jobDesc bs
      let common : State → Nat → Nat → Prop := fun t code valid =>
        t.bytes (g.desc + 36) 4 = bytesLE 4 (code + 256 * valid) ∧
        t.bytes g.desc 4 = bytesLE 4 (leAt bs 0 4 / 2 * 2) ∧ (t.dev.eng e).job = none ∧
        t.dev.on (F.CDC_En_STAT_BUSY e) = false ∧ t.dev.on (F.CDC_En_STAT_EMPTY e) = true ∧
        t.dev.val (F.CDC_En_DESC e) = 0 ∧ t.dev.val (F.CDC_En_STAT_LAST_CODE e) = code ∧
        t.dev.val (F.CDC_En_JOB_CNT e) = min 0xFFFFFFFF (d.val (F.CDC_En_JOB_CNT e) + 1) ∧
        t.dev.on (F.CDC_En_FLAG_DONE e) = true ∧ d.sameWindowsBut t.dev [0x4011, 0x400A]
      d.on (F.CDC_En_CTRL_EN e) = true → d.on (F.CDC_En_STAT_START_PEND e) = false →
      (F.CDC_En_CTRL_EN e).addr ∉ d.restart → j.next = 0 → s.isMem g.desc 40 → d.dramStill →
      let ends : Instr → JobOut → Prop := fun c o =>
        (o.code ≠ 4 → s.isMem j.out j.size ∧ (g.desc + 40 ≤ j.out ∨ j.out + j.size ≤ g.desc)) →
        (∀ x ∈ o.bytes, x.1 + x.2.length ≤ j.size) →
        ∃ t, exec c s = .next t ∧ common t o.code o.valid ∧
          t.dev.val (F.CDC_En_ERR_CNT e) = min 0xFFFFFFFF (d.val (F.CDC_En_ERR_CNT e) + (if o.code = 0 then 0 else 1)) ∧
          t.dev.val (F.CDC_En_BYTE_CNT e) = min 0xFFFFFFFF (d.val (F.CDC_En_BYTE_CNT e) + o.valid) ∧
          t.dev.val (F.CDC_En_PIX_CNT e) = min 0xFFFFFFFF (d.val (F.CDC_En_PIX_CNT e) + o.samples) ∧
          t.dev.on (F.CDC_En_FLAG_POISON e) = (d.on (F.CDC_En_FLAG_POISON e) || o.poison) ∧
          s.sameStoresBut t ([(g.desc, 4), (g.desc + 36, 4)] ++ (if o.code = 4 then [] else [(j.out, j.size)])) ∧
          (o.code = 0 → ∀ b, j.out ≤ b → b < j.out + j.size → t.byte b =
            o.bytes.foldl (fun v x => if j.out + x.1 ≤ b ∧ b < j.out + x.1 + x.2.length
              then x.2.getD (b - (j.out + x.1)) 0 else v) (s.byte b))
      (∀ bad, j.decode = false →
        ends (.codingJobEnd e bad) ((Work.begin s).codeJob j g.desc bad g.flushes (Config.freeValue d.draws).toNat)) ∧
      (j.decode = true →
        ends (.decodeJobEnd e) ((Work.begin s).decodeJob j g.desc (Config.freeValue d.draws).toNat))) ∧
    (∀ bs row, g.job = some bs → (jobDesc bs).decode = false →
      ∃ t, exec (.cdcFlush e row) s = .next t ∧ s.sameStores t ∧ (t.dev.eng e).flushes = g.flushes ++ [row] ∧
        (t.dev.eng e).job = g.job ∧ d.sameRegsBut t.dev []) ∧
    (∀ row, g.job = none → exec (.cdcFlush e row) s = .next s.quietened)) ∧
  (∀ (s : State) (u : Fin 8),
    let d := s.dev
    let span : Int := ((d.val (F.CDC_TAPt_XE u) % 2 ^ 18 : Nat) : Int) + 1 - ((d.val (F.CDC_TAPt_XS u) % 2 ^ 18 : Nat) : Int)
    let dc : Int := ((2 ^ d.val (F.CDC_TAPt_CFG_DC u) : Nat) : Int)
    let ok := span % dc = 0 ∧ span / dc ≤ 16384 ∧
      max 1 (d.val (F.CDC_TAPt_RING_RING_ROWS u)) % max 1 (d.val (F.CDC_TAPt_RING_TAP_BLK u)) = 0
    (d.on (F.CDC_TAPt_STAT_IDLE u) = true → ok →
      ∃ t, exec (.tapEnable u) s = .next t ∧ s.sameStores t ∧ t.dev.on (F.CDC_TAPt_CFG_EN u) = true ∧
        t.dev.on (F.CDC_TAPt_STAT_IDLE u) = false ∧ t.dev.tapc u = {} ∧
        d.sameRegsBut t.dev [F.CDC_TAPt_CFG_EN u, F.CDC_TAPt_STAT_IDLE u]) ∧
    (¬ ok →
      ∃ t, exec (.tapEnable u) s = .next t ∧ s.sameStores t ∧ t.dev.on F.SYS_FLAG_ACCESS_ERR = true ∧
        t.dev.val F.SYS_ERR_ADDR = R.CDC_TAPt_CFG u ∧
        d.sameRegsBut t.dev [F.SYS_FLAG_ACCESS_ERR, F.SYS_ERR_ADDR, F.SYS_ACCESS_CNT]) ∧
    (∀ a old k, (d.tapc u).last = some (a, old, k) → d.drc.pend = [] → s.isMem a old.length → 0 < old.length →
      ∃ t, exec (.tapLost u) s = .next t ∧ t.bytes a old.length = old ∧ s.sameStoresBut t [(a, old.length)] ∧
        t.dev.val (F.CDC_TAPt_TAP_ROW u) = k % 2 ^ 64 ∧ t.dev.on (F.CDC_TAPt_FLAG_LOST u) = true ∧
        t.dev.val (F.CDC_TAPt_LOST_CNT u) = min 0xFFFFFFFF (d.val (F.CDC_TAPt_LOST_CNT u) + 1) ∧
        d.sameRegsBut t.dev ([F.CDC_TAPt_TAP_ROW u, F.CDC_TAPt_FLAG_LOST u, F.CDC_TAPt_LOST_CNT u] ++ dramTrace)))

/-- The link follows faults, frames are accepted or discarded, a port sends its flow's items, a stopped flow
discards. A fault takes the link down, flagged and counted; lock, alignment and 10 ms without fault bring it up.
Codewords are counted with FEC on. A frame the port does not accept is discarded and counted, a PAUSE frame in
PAUSE_CNT too; an accepted POS datagram counts, and is stale beyond MAXAGE. With one flow, running, and the link
up: a NOTE item that fits the room leaves as one datagram with the header of R217; held FIX records leave when
HOLD ends; an item held for a launch time leaves once device time reaches it. FLOW_DISABLE of a flow that holds
nothing sets IDLE and discards a held launch item; FLOW_ABORT discards all. -/
def Obligations.PortsAndFlowsSendItems : Prop :=
  ∀ (s : State) (n : Fin 8) (f : Fin 32),
    let d := s.dev
    let x := d.nflow f
    let fq := d.val (F.NET_Ff_CFG_QUEUE f)
    let sent : State → Prop := fun t => t.dev.val (F.NETn_TX_FRAME_CNT n) = min 0xFFFFFFFF (d.val (F.NETn_TX_FRAME_CNT n) + 1) ∧
      t.dev.val (F.NET_Ff_DGRAM_CNT f) = min 0xFFFFFFFF (d.val (F.NET_Ff_DGRAM_CNT f) + 1) ∧
      t.dev.val (F.NET_Ff_SEQ f) = (d.val (F.NET_Ff_SEQ f) + 1) % 2 ^ 32 ∧ (∃ frame, t.dev.out = [.net n frame]) ∧
      d.sameWindowsBut t.dev [0x4010, 0x4009, 0x4000, 0x400F]
    (∀ lock align locFault remFault, (locFault || remFault) = true → d.on (F.NETn_STAT_LINK n) = true →
      d.flowsOf n = [] →
      ∃ t, exec (.netLinkChange n lock align locFault remFault) s = .next t ∧ s.sameStores t ∧
        t.dev.on (F.NETn_STAT_LINK n) = false ∧ t.dev.on (F.NETn_STAT_LOCAL_FAULT n) = locFault ∧
        t.dev.on (F.NETn_STAT_REMOTE_FAULT n) = remFault ∧ t.dev.on (F.NETn_FLAG_LINK_DOWN n) = true ∧
        t.dev.val (F.NETn_LINK_DOWN_CNT n) = min 0xFFFFFFFF (d.val (F.NETn_LINK_DOWN_CNT n) + 1) ∧
        d.sameRegsBut t.dev [F.NETn_STAT_LINK n, F.NETn_FLAG_LINK_DOWN n, F.NETn_LINK_DOWN_CNT n]) ∧
    (∀ align, (align = true ∨ d.on (F.NETn_CFG_FEC n) = false) → d.on (F.NETn_STAT_LINK n) = false →
      ∃ t, exec (.netLinkChange n true align false false) s = .next t ∧ s.sameStores t ∧
        t.dev.on (F.NETn_STAT_LINK n) = true ∧ t.dev.on (F.NETn_FLAG_LINK_UP n) = true ∧
        t.dev.now = max d.now ((if d.on (F.NETn_STAT_LOCAL_FAULT n) || d.on (F.NETn_STAT_REMOTE_FAULT n) then d.now
          else (d.nport n).faultAt) + 10000000) ∧
        d.sameRegsBut t.dev [F.NETn_STAT_LINK n, F.NETn_FLAG_LINK_UP n, F.MER_TIME]) ∧
    (d.on (F.NETn_CFG_FEC n) = true →
      (∃ t, exec (.uncorrectableCodeword n true) s = .next t ∧ s.sameStores t ∧
        t.dev.val (F.NETn_FEC_CORR_CNT n) = min 0xFFFFFFFF (d.val (F.NETn_FEC_CORR_CNT n) + 1) ∧
        d.sameRegsBut t.dev [F.NETn_FEC_CORR_CNT n]) ∧
      (∃ t, exec (.uncorrectableCodeword n false) s = .next t ∧ s.sameStores t ∧
        t.dev.val (F.NETn_FEC_UNCORR_CNT n) = min 0xFFFFFFFF (d.val (F.NETn_FEC_UNCORR_CNT n) + 1) ∧
        t.dev.on (F.NETn_FLAG_FEC_UNCORR n) = true ∧
        d.sameRegsBut t.dev [F.NETn_FEC_UNCORR_CNT n, F.NETn_FLAG_FEC_UNCORR n])) ∧
    (∀ bytes fr, d.linkSeen n = true → rxFrame bytes = some fr →
      (d.frameAccepted n fr = true →
        ∃ t, exec (.frameReceive n bytes) s = .next t ∧ s.sameStores t ∧
          t.dev.val (F.NETn_RX_FRAME_CNT n) = min 0xFFFFFFFF (d.val (F.NETn_RX_FRAME_CNT n) + 1) ∧
          d.sameRegsBut t.dev [F.NETn_RX_FRAME_CNT n]) ∧
      (d.frameAccepted n fr = false → fr.pauses = false →
        ∃ t, exec (.frameReceive n bytes) s = .next t ∧ s.sameStores t ∧ t.dev.on (F.NETn_FLAG_RX_DISCARD n) = true ∧
          t.dev.val (F.NETn_RX_DISCARD_CNT n) = min 0xFFFFFFFF (d.val (F.NETn_RX_DISCARD_CNT n) + 1) ∧
          d.sameRegsBut t.dev [F.NETn_RX_DISCARD_CNT n, F.NETn_FLAG_RX_DISCARD n]) ∧
      (d.frameAccepted n fr = false → fr.pauses = true →
        ∃ t, exec (.frameReceive n bytes) s = .next t ∧ s.sameStores t ∧
          t.dev.val (F.NETn_PAUSE_CNT n) = min 0xFFFFFFFF (d.val (F.NETn_PAUSE_CNT n) + 1) ∧
          d.sameRegsBut t.dev [F.NETn_RX_DISCARD_CNT n, F.NETn_FLAG_RX_DISCARD n, F.NETn_PAUSE_CNT n])) ∧
    (∀ g, d.linkSeen n = true → d.posAccepts g = true →
      let age := d.devTime - toSigned 64 (leAt g 24 8)
      ∃ t, exec (.pos n g) s = .next t ∧ s.sameStores t ∧
        t.dev.val F.NET_POS_RX_CNT = min 0xFFFFFFFF (d.val F.NET_POS_RX_CNT + 1) ∧
        (1000 * (d.val F.TRG_LS_NET_MAXAGE : Int) < age → t.dev.on F.TRG_FLAG_NET_STALE = true ∧
          t.dev.val F.TRG_NET_STALE_CNT = min 0xFFFFFFFF (d.val F.TRG_NET_STALE_CNT + 1) ∧
          d.sameRegsBut t.dev [F.NET_POS_RX_CNT, F.TRG_FLAG_NET_STALE, F.TRG_NET_STALE_CNT]) ∧
        (age ≤ 1000 * (d.val F.TRG_LS_NET_MAXAGE : Int) → d.posSrc ≠ 2 → d.sameRegsBut t.dev [F.NET_POS_RX_CNT])) ∧
    (d.linkSeen n = true → d.flowsOf n = [f.val] → d.flowRuns f = true →
      (∀ (i : QItem) (rest : List QItem), d.flowType f = 5 → d.on (F.NET_Ff_CFG_LAUNCH f) = false → x.item = none →
        x.launch = none → (d.queue fq).spoilt = [] →
        (d.queue fq).items = i :: rest → (d.queue fq).opened = false → i.dead = false → i.hdr = true → i.toCome = 0 →
        i.words.length = (i.len + 7) / 8 → 1 ≤ i.len → i.len ≤ 1024 →
        ∃ t pre, exec (.datagramSend n false []) s = .next t ∧ s.sameStores t ∧ sent t ∧ (t.dev.queue fq).items = rest ∧
          t.dev.val (F.NET_Ff_ITEM_CNT f) = min 0xFFFFFFFF (d.val (F.NET_Ff_ITEM_CNT f) + 1) ∧
          t.dev.out = [.net n (pre ++ (d.wireFree n).dgramHeader f (1 + 4 * (if x.gap then 1 else 0)) x.itemNo 0 i.len ++
            itemBytes i.len i.words)] ∧ (t.dev.nflow f).itemNo = (x.itemNo + 1) % 2 ^ 32) ∧
      (d.packs f = true → x.item = none → (d.queue fq).items = [] → (d.queue fq).opened = false → x.fix ≠ [] →
        x.fix.length < d.fixCap f → d.val (F.NET_Ff_HOLD f) ≠ 0 →
        ∃ t, exec (.fixHoldExpiry f) s = .next t ∧ s.sameStores t ∧ sent t ∧ (t.dev.nflow f).fix = [] ∧
          t.dev.now = max (max d.now (x.fixAt + 1000 * d.val (F.NET_Ff_HOLD f))) (d.nport n).nextTx ∧
          t.dev.val (F.NET_Ff_ITEM_CNT f) = min 0xFFFFFFFF (d.val (F.NET_Ff_ITEM_CNT f) + x.fix.length)) ∧
      (∀ (len : Nat) (at' : Int), d.on (F.NET_Ff_CFG_LAUNCH f) = true → x.item = some len → x.left = 0 → x.off = 0 →
        x.buf.length = len → len ≤ d.room f → x.launch = some at' → d.devTime < at' → at' < 2 ^ 62 →
        at' - d.devTime ≤ 1000000 * (max 1 (d.val (F.NET_Ff_LAUNCH_MAX f)) : Nat) → 2 ≤ d.val (F.NET_Ff_LATE_WIN f) →
        ∃ t, exec (.launchTime f) s = .next t ∧ s.sameStores t ∧ sent t ∧ at' ≤ t.dev.devTime ∧
          (t.dev.nflow f).item = none ∧ t.dev.on (F.NET_Ff_STAT_HELD f) = false ∧
          t.dev.val (F.NET_Ff_ITEM_CNT f) = min 0xFFFFFFFF (d.val (F.NET_Ff_ITEM_CNT f) + 1))) ∧
    (d.on (F.NET_Ff_CFG_EN f) = true → d.on (F.NET_Ff_STAT_IDLE f) = false → x.fix = [] →
      (x.item = none →
        ∃ t, exec (.flowDisable f) s = .next t ∧ s.sameStores t ∧ t.dev.on (F.NET_Ff_CFG_EN f) = false ∧
          t.dev.on (F.NET_Ff_STAT_IDLE f) = true) ∧
      (∀ len, x.item = some len → x.off = 0 → x.left = 0 → d.on (F.NET_Ff_CFG_LAUNCH f) = true →
        ∃ t, exec (.flowDisable f) s = .next t ∧ s.sameStores t ∧ t.dev.on (F.NET_Ff_CFG_EN f) = false ∧
          t.dev.on (F.NET_Ff_STAT_IDLE f) = true ∧ (t.dev.nflow f).item = none ∧ t.dev.out = [] ∧
          t.dev.val (F.NET_Ff_DISC_CNT f) = min 0xFFFFFFFF (d.val (F.NET_Ff_DISC_CNT f) + 1))) ∧
    (∃ t, exec (.flowAbort f) s = .next t ∧ s.sameStores t ∧ t.dev.on (F.NET_Ff_CFG_EN f) = false ∧
      t.dev.on (F.NET_Ff_STAT_IDLE f) = true ∧ (t.dev.nflow f).item = none ∧ (t.dev.nflow f).fix = [] ∧
      t.dev.val (F.NET_Ff_DISC_CNT f) =
        min 0xFFFFFFFF (d.val (F.NET_Ff_DISC_CNT f) + (if x.item.isSome then 1 else 0) + x.fix.length) ∧
      d.sameWindowsBut t.dev [0x4010, 0x4009, 0x4000])

/-- A domain follows its master: Announce chooses it, Sync gives the offset, delay exchanges give the path delay. On
a live domain and for messages of its domain number. A two-step Sync of the chosen master waits for its
Follow_Up and takes a domain in HOLDOVER back to ACQUIRE; one that has its origin time gives OFFSET = (t2 - t1 -
DELAY) in ns, rounded down, once a delay is known and no outlier stands, and counts. An Announce with fewer than
255 steps makes a first master: MASTER_ID, MASTER_CHANGE, ACQUIRE. DELAY_REQ sends one request with the next
sequence number; a first response to it gives DELAY, half the sum of the two differences where even, not below
0; a later one further off than GUARD ns is an outlier that leaves DELAY. A peer request is answered by two
messages. Message layouts are those of log entry 30. -/
def Obligations.TimeDomainsExchangeMessages : Prop :=
  ∀ (s : State) (i : Fin 2) (msg : List Byte),
    let d := s.dev
    let x := d.dom i
    let n := d.val (F.MER_Dd_CFG_PORT i)
    let p2p := d.on (F.MER_Dd_CFG_DELAY i)
    let sample : State → Int → Int → Prop := fun t t1 t2 =>
      t.dev.val (F.MER_Dd_OFFSET i) = fromSigned 64 ((t2 - t1 - d.val (F.MER_Dd_DELAY i)) / 16) ∧
      t.dev.val (F.MER_Dd_SYNC_CNT i) = min 0xFFFFFFFF (d.val (F.MER_Dd_SYNC_CNT i) + 1) ∧
      t.dev.val (F.MER_Dd_STAT_ACCEPTED i) = min 8 (d.val (F.MER_Dd_STAT_ACCEPTED i) + 1) ∧
      (t.dev.dom i).syncWait = false ∧ s.sameStores t ∧ d.sameWindowsBut t.dev [0x400F]
    let delay : State → Int → Prop := fun t sum =>
      t.dev.val (F.MER_Dd_DELAY i) = (clampI 0 0xFFFFFFFF (sum / 2)).toNat ∧ (t.dev.dom i).delayOk = true ∧
      (t.dev.dom i).reqWait = false ∧ s.sameStores t ∧ d.sameRegsBut t.dev [F.MER_Dd_DELAY i]
    d.domLive i = true → d.ptpMine i msg = true →
    (∀ t2, ptpType msg = 0 → d.fromMaster i msg = true → -7 ≤ ptpLog msg → ptpLog msg ≤ 1 → d.srcState i ≠ 3 →
      (ptpTwoStep msg = true →
        ∃ t, exec (.sync i msg t2) s = .next t ∧ s.sameStores t ∧
          t.dev.dom i = { x with lastAt := some d.now, syncWait := true, syncSeq := ptpSeq msg,
                                 syncT2 := t2 - d.latRx i, syncCorr := ptpCorr msg } ∧
          d.sameRegsBut t.dev [F.MER_Dd_STAT_LOG_SYNC i]) ∧
      (ptpTwoStep msg = false → x.delayOk = true → x.badDelay = false →
        ∃ t, exec (.sync i msg t2) s = .next t ∧ sample t (ptpTime msg + ptpCorr msg) (t2 - d.latRx i))) ∧
    (∀ t2, ptpType msg = 0 → d.fromMaster i msg = true → -7 ≤ ptpLog msg → ptpLog msg ≤ 1 → d.srcState i = 3 →
      ptpTwoStep msg = true →
      ∃ t, exec (.sync i msg t2) s = .next t ∧ s.sameStores t ∧ t.dev.val (F.MER_Dd_STAT_STATE i) = 1 ∧
        t.dev.val (F.MER_Dd_STAT_ACCEPTED i) = 0 ∧ (t.dev.dom i).syncWait = true ∧ d.sameWindowsBut t.dev [0x400F]) ∧
    (ptpType msg = 8 → d.fromMaster i msg = true → x.syncWait = true → ptpSeq msg = x.syncSeq → x.delayOk = true →
      x.badDelay = false →
      ∃ t, exec (.followUp i msg) s = .next t ∧ sample t (ptpTime msg + ptpCorr msg + x.syncCorr) x.syncT2) ∧
    (ptpType msg = 11 → (ptpForeign msg).steps < 255 → x.best = none → d.srcState i ≠ 3 →
      ∃ t, exec (.announce i msg) s = .next t ∧ s.sameStores t ∧ (t.dev.dom i).best = some (ptpForeign msg) ∧
        t.dev.val (F.MER_Dd_MASTER_ID i) = beAt msg 20 8 ∧ t.dev.val (F.MER_Dd_MASTER_PORT i) = beAt msg 28 2 ∧
        t.dev.on (F.MER_Dd_FLAG_MASTER_CHANGE i) = true ∧ t.dev.val (F.MER_Dd_STAT_STATE i) = 1 ∧
        t.dev.val (F.MER_Dd_STAT_ACCEPTED i) = 0 ∧ (t.dev.dom i).delayOk = false ∧
        d.sameWindowsBut t.dev [0x400F]) ∧
    ((p2p = true ∨ x.best ≠ none) →
      ∃ t frame, exec (.delayReq i) s = .next t ∧ s.sameStores t ∧ t.dev.out = [.net n frame] ∧
        (t.dev.dom i).reqSeq = (x.reqSeq + 1) % 65536 ∧ (t.dev.dom i).reqWait = true ∧
        (t.dev.dom i).reqT3 = (d.wireFree n).stampTx i ∧
        t.dev.val (F.NETn_TX_FRAME_CNT n) = min 0xFFFFFFFF (d.val (F.NETn_TX_FRAME_CNT n) + 1) ∧
        d.sameRegsBut t.dev [F.NETn_TX_FRAME_CNT n, F.MER_TIME]) ∧
    (ptpType msg = 9 → d.fromMaster i msg = true → p2p = false → ptpFor msg = d.ownPort i → x.reqWait = true →
      ptpSeq msg = x.reqSeq → x.lastAt ≠ none → x.syncWait = false →
      let sum := (x.lastT2 - x.lastT1) + (ptpTime msg - ptpCorr msg - x.reqT3)
      sum % 2 = 0 →
      (x.delayOk = false → ∃ t, exec (.delayResp i msg) s = .next t ∧ delay t sum) ∧
      (x.delayOk = true → x.outliers = [] → 2 ≤ d.val (F.MER_Dd_PATH_PATH_N i) →
        16 * d.val (F.MER_Dd_GUARD i) < (sum / 2 - (d.val (F.MER_Dd_DELAY i) : Int)).natAbs →
        ∃ t, exec (.delayResp i msg) s = .next t ∧ s.sameStores t ∧ (t.dev.dom i).badDelay = true ∧
          t.dev.val (F.MER_Dd_OUTLIER_CNT i) = min 0xFFFFFFFF (d.val (F.MER_Dd_OUTLIER_CNT i) + 1) ∧
          d.sameRegsBut t.dev [F.MER_Dd_OUTLIER_CNT i])) ∧
    (∀ t2, ptpType msg = 2 → p2p = true →
      ∃ t a b, exec (.pdelayReq i msg t2) s = .next t ∧ s.sameStores t ∧ t.dev.out = [.net n a, .net n b] ∧
        t.dev.val (F.NETn_TX_FRAME_CNT n) = min 0xFFFFFFFF (d.val (F.NETn_TX_FRAME_CNT n) + 2) ∧
        t.dev.dom i = x ∧ d.sameRegsBut t.dev [F.NETn_TX_FRAME_CNT n, F.MER_TIME]) ∧
    (∀ fup t4, ptpType msg = 3 → d.ptpMine i fup = true → ptpType fup = 10 → p2p = true → ptpFor msg = d.ownPort i →
      ptpFor fup = d.ownPort i → ptpFrom msg = ptpFrom fup → x.reqWait = true → ptpSeq msg = x.reqSeq →
      ptpSeq fup = x.reqSeq → x.delayOk = false →
      let sum := (t4 - d.latRx i - x.reqT3) - (ptpTime fup + ptpCorr fup - (ptpTime msg - ptpCorr msg))
      sum % 2 = 0 → ∃ t, exec (.pdelayResp i msg fup t4) s = .next t ∧ delay t sum)

/-- A silent master leads to HOLDOVER, PATH_HOLD ends in LOCKED, the chain locks after 8 samples, SEL switches the
source. SYNC_TIMEOUT of a LOCKED or PATH_HOLD domain from its last Sync, or of one in ACQUIRE whose port is down
from when it went down, after its number of intervals, at least 1, sets HOLDOVER, keeps the master and clears
ACCEPTED. PATH_HOLD_END returns to LOCKED after its seconds. ASYM_SUSPECT is set when the disagreement has stood
for DWELL seconds, at least 1. The eighth good chain sample in a row, at the millisecond's end, locks the chain
source; without LS_LOCK the row starts again. Outside LOAD a write of SEL makes that source, 0 for code 3, the
one in effect; a change is flagged and counted, and slew is 0 unless the new source is LOCKED. -/
def Obligations.MeridianSourcesAndStates : Prop :=
  ∀ (s : State) (i : Fin 2),
    let d := s.dev
    (∀ at', (d.srcState i = 1 → d.domLive i = false → (d.nport (d.val (F.MER_Dd_CFG_PORT i))).downAt = at') →
      (d.srcState i ≠ 1 → (d.dom i).lastAt = some at') →
      (d.srcState i = 1 ∧ d.domLive i = false ∨ d.srcState i = 2 ∨ d.srcState i = 4) →
      let l := d.vali (F.MER_Dd_STAT_LOG_SYNC i)
      let every := if 0 ≤ l then 1000000000 * 2 ^ l.toNat else 1000000000 / 2 ^ (-l).toNat
      ∃ t, exec (.syncTimeout i) s = .next t ∧ s.sameStores t ∧
        t.dev.now = max d.now (at' + max 1 (d.val (F.MER_Dd_SYNC_TIMEOUT i)) * every) ∧
        t.dev.val (F.MER_Dd_STAT_STATE i) = 3 ∧ t.dev.on (F.MER_Dd_FLAG_HOLDOVER i) = true ∧
        t.dev.val (F.MER_Dd_STAT_ACCEPTED i) = 0 ∧ (t.dev.dom i).best = (d.dom i).best ∧ d.sameWindowsBut t.dev [0x400F]) ∧
    (d.srcState i = 4 →
      ∃ t, exec (.pathHoldEnd i) s = .next t ∧ s.sameStores t ∧ t.dev.val (F.MER_Dd_STAT_STATE i) = 2 ∧
        t.dev.on (F.MER_Dd_FLAG_LOCK i) = true ∧
        t.dev.now = max d.now ((d.dom i).holdAt + 1000000000 * d.val (F.MER_Dd_PATH_PATH_HOLD i)) ∧
        (d.srcAct = i.val → t.dev.on F.MER_STAT_STEERING = true) ∧ d.sameWindowsBut t.dev [0x400F]) ∧
    (∀ at', d.mer.disSince = some at' →
      ∃ t, exec .asymSuspect s = .next t ∧ s.sameStores t ∧ t.dev.on F.MER_FLAG_ASYM_SUSPECT = true ∧
        t.dev.now = max d.now (at' + 1000000000 * max 1 (d.val F.MER_ASYM_DWELL)) ∧
        d.sameRegsBut t.dev [F.MER_FLAG_ASYM_SUSPECT, F.MER_TIME]) ∧
    (d.on F.MER_CTRL_CHAIN_EN = true → d.mer.chainN ≠ 0 →
      ∃ t, exec .chainSample s = .next t ∧ s.sameStores t ∧ t.dev.mer.chainN = 0 ∧ t.dev.mer.chainSum = 0 ∧
        t.dev.now = max d.now (d.mer.chainStart + 1000000) ∧ t.dev.mer.chainAt = some t.dev.now ∧
        (d.on F.TRG_STAT_LS_LOCK = true → t.dev.mer.chainOk = min 8 (d.mer.chainOk + 1) ∧
          t.dev.val F.MER_STAT_CHAIN_STATE = if 7 ≤ d.mer.chainOk then 2 else 1) ∧
        (d.on F.TRG_STAT_LS_LOCK = false → t.dev.mer.chainOk = 0 ∧
          t.dev.val F.MER_STAT_CHAIN_STATE = d.val F.MER_STAT_CHAIN_STATE) ∧ d.sameWindowsBut t.dev [0x400F]) ∧
    (∀ v : Fin 4, d.mode ≠ 2 →
      let src := if v.val = 3 then 0 else v.val
      ∃ t, exec (.selWrite v) s = .next t ∧ s.sameStores t ∧ t.dev.val F.MER_CTRL_SEL = v ∧
        t.dev.val F.MER_STAT_SRC_ACT = src ∧
        (src = d.val F.MER_STAT_SRC_ACT → d.sameRegsBut t.dev [F.MER_CTRL_SEL]) ∧
        (src ≠ d.val F.MER_STAT_SRC_ACT → t.dev.on F.MER_FLAG_SWITCH = true ∧
          t.dev.val F.MER_SWITCH_CNT = min 0xFFFFFFFF (d.val F.MER_SWITCH_CNT + 1) ∧
          t.dev.on F.MER_STAT_STEERING = (d.srcState src == 2) ∧ (d.srcState src ≠ 2 → t.dev.vali F.MER_SLEW = 0) ∧
          d.sameRegsBut t.dev [F.MER_CTRL_SEL, F.MER_STAT_SRC_ACT, F.MER_FLAG_SWITCH, F.MER_SWITCH_CNT, F.MER_SLEW]))

/-- A lone read sees memory, a lone write waits unless urgent, refreshes are postponed up to eight, a speed change
hands timing over. With nothing pending and no speed change, an access within one 64-byte granule. A read within
the usable capacity returns the bytes of memory; one beyond it returns 0, flags and counts ADDR_ERR. A lone
write is carried out when its requester's target is 1 ns or less, and is held back otherwise. A refresh is
issued with those postponed; while a request of its channel is at urgency 3 or 4 it is postponed, eight at most.
FREQUENCY_CHANGE to an untrained speed sets FREQ_ERR, to the present one FREQ_DONE, to another FC_BUSY; during a
change it waits in FC_PEND. FREQ_DONE makes the target's timing set active, shows the speed and counts. -/
def Obligations.DramServesRequests : Prop :=
  ∀ (s : State) (r : Fin 16) (addr : Nat) (data : List Byte),
    let d := s.dev
    let n := data.length
    let q : DramReq := { rq := r, wr := true, since := d.now, addr := addr, data := data, ecc := .good }
    (d.drc.pend = [] → d.on F.DRC_STAT_FC_BUSY = false →
      addr % 64 + n ≤ 64 →
      (addr + n ≤ d.dramUsable → 0 < n →
        (∃ t, exec (.dramRequest r false addr data .good) s = .next t ∧ s.sameStores t ∧
          t.dev.drc.got = some (r.val, s.bytes (dramBase + addr) n, []) ∧ t.dev.drc.pend = [] ∧
          d.sameWindowsBut t.dev [0x400A]) ∧
        (d.val (F.DRC_RQr_QOS_TARGET r) ≤ 1 →
          ∃ t, exec (.dramRequest r true addr data .good) s = .next t ∧ t.bytes (dramBase + addr) n = data ∧
            s.sameStoresBut t [(dramBase + addr, n)] ∧ t.dev.drc.pend = [] ∧ d.sameWindowsBut t.dev [0x400A]) ∧
        (2 ≤ d.val (F.DRC_RQr_QOS_TARGET r) →
          ∃ t, exec (.dramRequest r true addr data .good) s = .next t ∧ s.sameStores t ∧ t.dev.drc.pend = [q] ∧
            d.sameWindowsBut t.dev [0x400A])) ∧
      (d.dramUsable < addr + n →
        ∃ t, exec (.dramRequest r false addr data .good) s = .next t ∧ s.sameStores t ∧
          t.dev.drc.got = some (r.val, List.replicate n 0, []) ∧ t.dev.on F.DRC_FLAG_ADDR_ERR = true ∧
          t.dev.val F.DRC_ADDR_ERR_CNT = min 0xFFFFFFFF (d.val F.DRC_ADDR_ERR_CNT + 1) ∧
          d.sameWindowsBut t.dev [0x400A])) ∧
    (∀ ch : Fin 8, ch.val ∈ d.dramChans → d.on F.DRC_STAT_FC_BUSY = false →
      (d.drc.pend = [] →
        ∃ t, exec (.refresh ch) s = .next t ∧ s.sameStores t ∧ (t.dev.dch ch).postponed = 0 ∧
          (t.dev.dch ch).issued = (d.dch ch).issued + (d.dch ch).postponed + 1 ∧ d.sameWindowsBut t.dev [0x400A]) ∧
      (∀ x ∈ d.drc.pend, d.dramChan x.addr = some ch.val → 3 ≤ d.urg x →
        ∃ t, exec (.refresh ch) s = .next t ∧ t.pending = s.pending ∧
          (if (d.dch ch).postponed < 8
           then (t.dev.dch ch).postponed = (d.dch ch).postponed + 1 ∧ (t.dev.dch ch).issued = (d.dch ch).issued
           else (t.dev.dch ch).postponed = (d.dch ch).postponed ∧ (t.dev.dch ch).issued = (d.dch ch).issued + 1) ∧
          d.sameWindowsBut t.dev [0x400A])) ∧
    (∀ v : Fin 4,
      (d.on F.DRC_STAT_FC_BUSY = true →
        ∃ t, exec (.frequencyChange v) s = .next t ∧ s.sameStores t ∧ t.dev.drc.pending = some v.val ∧
          t.dev.on F.DRC_STAT_FC_PEND = true ∧ d.sameRegsBut t.dev [F.DRC_FREQ_TARGET, F.DRC_STAT_FC_PEND]) ∧
      (d.on F.DRC_STAT_FC_BUSY = false → (d.val F.DRC_FREQ_TRAINED).testBit v = false →
        ∃ t, exec (.frequencyChange v) s = .next t ∧ s.sameStores t ∧ t.dev.on F.DRC_FLAG_FREQ_ERR = true ∧
          d.sameRegsBut t.dev [F.DRC_FREQ_TARGET, F.DRC_FLAG_FREQ_ERR]) ∧
      (d.on F.DRC_STAT_FC_BUSY = false → (d.val F.DRC_FREQ_TRAINED).testBit v = true →
        (v.val = d.val F.DRC_STAT_SPEED_ACT →
          ∃ t, exec (.frequencyChange v) s = .next t ∧ s.sameStores t ∧ t.dev.on F.DRC_FLAG_FREQ_DONE = true ∧
            d.sameRegsBut t.dev [F.DRC_FREQ_TARGET, F.DRC_FLAG_FREQ_DONE]) ∧
        (v.val ≠ d.val F.DRC_STAT_SPEED_ACT →
          ∃ t, exec (.frequencyChange v) s = .next t ∧ s.sameStores t ∧ t.dev.on F.DRC_STAT_FC_BUSY = true ∧
            t.dev.drc.target = v ∧ d.sameRegsBut t.dev [F.DRC_FREQ_TARGET, F.DRC_STAT_FC_BUSY]))) ∧
    (d.on F.DRC_STAT_FC_BUSY = true → d.drc.target < 4 → d.drc.pending = none → d.drc.pend = [] →
      ∃ t, exec .freqDone s = .next t ∧ s.sameStores t ∧ t.dev.val F.DRC_STAT_SPEED_ACT = d.drc.target ∧
        t.dev.on F.DRC_STAT_FC_BUSY = false ∧ t.dev.on F.DRC_FLAG_FREQ_DONE = true ∧
        t.dev.on F.DRC_STAT_SHADOW_PEND = false ∧
        t.dev.val F.DRC_TIM_A_ACT = d.val (F.DRC_TSETf_A_SH d.drc.target) ∧
        t.dev.val F.DRC_TIM_B_ACT = d.val (F.DRC_TSETf_B_SH d.drc.target) ∧
        t.dev.val F.DRC_TIM_C_ACT = d.val (F.DRC_TSETf_C_SH d.drc.target) ∧
        t.dev.val F.DRC_TIM_D_ACT = d.val (F.DRC_TSETf_D_SH d.drc.target) ∧
        t.dev.val F.DRC_FREQ_CNT = min 0xFFFFFFFF (d.val F.DRC_FREQ_CNT + 1) ∧ d.sameWindowsBut t.dev [0x400A])

/-- A queue takes items of a header and words, gives them in order, refuses, flushes, and is idle once empty after
EN falls. Enabling a stopped queue needs a region in range and clear of every enabled queue's, else it is an
access error. PUSH_HDR begins an item where the queue takes it and a word is free, and is refused and counted
where it does not; PUSH_DATA adds a word, the last one counts the item. POP_HDR opens a complete head item:
length, and the producer code in the upper half; failing parity it empties the queue. POP_DATA gives the open
item's next word, a word failing parity counted. A stalled producer goes on once words are free. FLUSH empties,
its items counted; with EN cleared the queue is idle once its fill is 0. -/
def Obligations.QueuesHoldItems : Prop :=
  ∀ (s : State) (q : Fin 64),
    let d := s.dev
    let x := d.queue q
    let still : State → Prop := fun t => s.sameStores t ∧ d.sameWindowsBut t.dev [0x4009, 0x4000]
    let base := d.val (F.QUE_Qq_BASE q)
    let size := d.val (F.QUE_Qq_SIZE q)
    let clear := 1 ≤ size ∧ base + size ≤ 4096 ∧ ∀ r : Fin 64, r ≠ q → d.on (F.QUE_Qq_CFG_EN r) = true →
      base + size ≤ d.val (F.QUE_Qq_BASE r) ∨ d.val (F.QUE_Qq_BASE r) + d.val (F.QUE_Qq_SIZE r) ≤ base
    (d.on (F.QUE_Qq_STAT_IDLE q) = true → x.items = [] → x.waiting = [] → x.fwLeft = 0 → d.mode ≠ 2 →
      (clear →
        ∃ t, exec (.queueEnable q) s = .next t ∧ still t ∧ t.dev.on (F.QUE_Qq_CFG_EN q) = true ∧
          t.dev.on (F.QUE_Qq_STAT_IDLE q) = false ∧ t.dev.val (F.QUE_Qq_STAT_FILL q) = 0) ∧
      (¬ clear →
        ∃ t, exec (.queueEnable q) s = .next t ∧ s.sameStores t ∧ t.dev.on F.SYS_FLAG_ACCESS_ERR = true ∧
          t.dev.val F.SYS_ERR_ADDR = R.QUE_Qq_CFG q ∧
          d.sameRegsBut t.dev [F.SYS_FLAG_ACCESS_ERR, F.SYS_ERR_ADDR, F.SYS_ACCESS_CNT])) ∧
    (∀ (w : Nat) (len : Word), x.fwLeft = 0 → x.waiting = [] →
      (d.queTakes q len.toNat = true → x.fill < d.queCap q →
        ∃ t, exec (.pushHdr q w len) s = .next t ∧ still t ∧
          (t.dev.queue q).items = x.items ++ [⟨len.toNat, w, [], (len.toNat + 7) / 8, true, false⟩] ∧
          (t.dev.queue q).fwLeft = (len.toNat + 7) / 8) ∧
      (d.queTakes q len.toNat = false →
        ∃ t, exec (.pushHdr q w len) s = .next t ∧ still t ∧ (t.dev.queue q).items = x.items ∧
          t.dev.on (F.QUE_Qq_FLAG_REFUSED q) = true ∧
          t.dev.val (F.QUE_Qq_REFUSED_CNT q) = min 0xFFFFFFFF (d.val (F.QUE_Qq_REFUSED_CNT q) + 1))) ∧
    (∀ (hi : Word) (l : List QItem) (i : QItem), 0 < x.fwLeft → x.items = l ++ [i] → i.dead = false →
      (∀ j ∈ l, j.dead = false) → x.waiting = [] → x.opened = false → x.fill < d.queCap q →
      ∃ t, exec (.pushData q hi) s = .next t ∧ still t ∧ (t.dev.queue q).fwLeft = x.fwLeft - 1 ∧
        (t.dev.queue q).items = l ++ [{ i with words := i.words ++ [(d.joined (R.QUE_Qq_PUSH_DATA q) hi, false)],
                                               toCome := i.toCome - 1 }] ∧
        t.dev.val (F.QUE_Qq_ITEM_CNT q) =
          (if x.fwLeft = 1 then min 0xFFFFFFFF (d.val (F.QUE_Qq_ITEM_CNT q) + 1) else d.val (F.QUE_Qq_ITEM_CNT q))) ∧
    (∀ (i : QItem) (l : List QItem), x.items = i :: l → i.hdr = true → i.toCome = 0 → x.opened = false →
      (∃ t, exec (.popHdr q false) s = .next t ∧ still t ∧ t.dev.rdata = BitVec.ofNat 32 i.len ∧
        tabGet 0 t.dev.hi (R.QUE_Qq_POP_HDR q) = BitVec.ofNat 32 i.prod ∧
        (t.dev.queue q).items = { i with hdr := false } :: l ∧ (t.dev.queue q).opened = true) ∧
      (x.waiting = [] →
        ∃ t, exec (.popHdr q true) s = .next t ∧ still t ∧ t.dev.on (F.QUE_Qq_FLAG_PARITY q) = true ∧
          t.dev.on (F.QUE_Qq_FLAG_FLUSHED q) = true ∧ (t.dev.queue q).items = [] ∧
          t.dev.val (F.QUE_Qq_PARITY_CNT q) = min 0xFFFFFFFF (d.val (F.QUE_Qq_PARITY_CNT q) + 1))) ∧
    (∀ (i : QItem) (l : List QItem) (w : BitVec 64) (p : Bool) (ws : List (BitVec 64 × Bool)) (fault : Bool),
      x.items = i :: l → x.opened = true → i.words = (w, p) :: ws →
      ∃ t, exec (.popData q fault) s = .next t ∧ still t ∧ t.dev.rdata = w.extractLsb' 0 32 ∧
        tabGet 0 t.dev.hi (R.QUE_Qq_POP_DATA q) = w.extractLsb' 32 32 ∧
        (t.dev.queue q).items = (if ws = [] ∧ i.toCome = 0 then l else { i with words := ws } :: l) ∧
        (fault = true → t.dev.on (F.QUE_Qq_FLAG_PARITY q) = true ∧
          t.dev.val (F.QUE_Qq_PARITY_CNT q) = min 0xFFFFFFFF (d.val (F.QUE_Qq_PARITY_CNT q) + 1))) ∧
    (∀ (w : QWriter) (l : List QItem) (i : QItem), x.waiting = [w] → w.begun = true → w.dead = false → w.more = 0 →
      x.items = l ++ [i] → i.dead = false → (∀ j ∈ l, j.dead = false) → x.fill + w.words.length ≤ d.queCap q →
      ∃ t, exec (.writeStallRelease q) s = .next t ∧ s.sameStores t ∧
        d.sameWindowsBut t.dev ([0x4009, 0x4000] ++ (List.range 17).map (0x4020 + ·)) ∧ (t.dev.queue q).waiting = [] ∧
        (t.dev.queue q).items = l ++ [{ i with words := i.words ++ w.words, toCome := i.toCome - w.words.length }] ∧
        t.dev.val (F.QUE_Qq_ITEM_CNT q) = min 0xFFFFFFFF (d.val (F.QUE_Qq_ITEM_CNT q) + 1)) ∧
    (x.waiting = [] →
      ∃ t, exec (.queueFlush q) s = .next t ∧ still t ∧ (t.dev.queue q).items = [] ∧ (t.dev.queue q).fwLeft = 0 ∧
        t.dev.on (F.QUE_Qq_FLAG_FLUSHED q) = true ∧ t.dev.val (F.QUE_Qq_STAT_FILL q) = 0 ∧
        t.dev.val (F.QUE_Qq_FLUSH_CNT q) =
          min 0xFFFFFFFF (d.val (F.QUE_Qq_FLUSH_CNT q) + (x.items.filter (fun i => ! i.dead)).length)) ∧
    (d.on (F.QUE_Qq_CFG_EN q) = true → d.on (F.QUE_Qq_STAT_IDLE q) = false → x.waiting = [] → x.fwLeft = 0 →
      ∃ t, exec (.queueDisable q) s = .next t ∧ still t ∧ t.dev.on (F.QUE_Qq_CFG_EN q) = false ∧
        t.dev.on (F.QUE_Qq_STAT_IDLE q) = decide (x.fill = 0) ∧ t.dev.queue q = x)

/-- START and POLL fetch an owned descriptor, a burst moves up to 64 bytes of memory, the end writes STATUS and
clears OWN. With no DRAM request waiting and no speed change. START of an enabled idle channel with DESC 0 is an
access error; with a descriptor of OWN 0 the channel is EMPTY, flagged; with an owned memory-to-memory
descriptor of 1 to 16,777,216 bytes in range it moves, as POLL us after EMPTY. BURST of the channel served moves
the bytes up to the next 64-byte unit of the destination and counts them; the last one leads to WRITEBACK.
DESCRIPTOR_DONE writes STATUS and clears OWN in memory, sets DONE, counts, and takes the next descriptor; with
NEXT 0 the channel is EMPTY. -/
def Obligations.DmaMovesDescriptors : Prop :=
  ∀ (s : State) (c : Fin 32),
    let d := s.dev
    let x := d.dmac c
    let a := d.val (F.DMA_Cc_DESC c)
    let ctrl := leAt (s.bytes a 4) 0 4
    let len := ctrl % 2 ^ 25
    let y : Dma := { x with
      addr := a, ctrl := ctrl, src := leAt (s.bytes (a + 8) 8) 0 8, dst := leAt (s.bytes (a + 16) 8) 0 8,
      next := leAt (s.bytes (a + 24) 8) 0 8, total := len, moved := 0, opened := false, buf := [], begun := false,
      poison := false, trunc := false }
    let good := ctrl.testBit 31 = true ∧ ctrl.testBit 26 = false ∧ ctrl.testBit 27 = false ∧ 1 ≤ len ∧ len ≤ 16777216 ∧
      d.dmaAddrOk y = true
    let n := min (x.total - x.moved) (64 - (x.dst + x.moved) % 64)
    (d.on (F.DMA_Cc_CFG_EN c) = true → d.val (F.DMA_Cc_STAT_STATE c) = 0 →
      (a = 0 →
        ∃ t, exec (.dmaStart c) s = .next t ∧ s.sameStores t ∧ t.dev.on F.SYS_FLAG_ACCESS_ERR = true ∧
          t.dev.val F.SYS_ERR_ADDR = R.DMA_Cc_CFG c ∧
          d.sameRegsBut t.dev [F.SYS_FLAG_ACCESS_ERR, F.SYS_ERR_ADDR, F.SYS_ACCESS_CNT]) ∧
      (a ≠ 0 → s.isMem a 32 → d.dramStill → ctrl.testBit 31 = false → d.on (F.DMA_Cc_STAT_START_PEND c) = false →
        ∃ t, exec (.dmaStart c) s = .next t ∧ s.sameStores t ∧ t.dev.val (F.DMA_Cc_STAT_STATE c) = 2 ∧
          t.dev.on (F.DMA_Cc_FLAG_EMPTY c) = true ∧ (t.dev.dmac c).emptyAt = d.now ∧
          d.sameRegsBut t.dev ([F.DMA_Cc_STAT_STATE c, F.DMA_Cc_FLAG_EMPTY c] ++ dramTrace)) ∧
      (a ≠ 0 → s.isMem a 32 → d.dramStill → good →
        ∃ t, exec (.dmaStart c) s = .next t ∧ s.sameStores t ∧ t.dev.val (F.DMA_Cc_STAT_STATE c) = 3 ∧
          t.dev.on (F.DMA_Cc_STAT_IDLE c) = false ∧ t.dev.dmac c = y ∧
          d.sameRegsBut t.dev (F.DMA_Cc_STAT_STATE c :: dramTrace))) ∧
    (d.val (F.DMA_Cc_STAT_STATE c) = 2 → d.val (F.DMA_Cc_POLL c) ≠ 0 → a ≠ 0 → s.isMem a 32 → d.dramStill → good →
      ∃ t, exec (.poll c) s = .next t ∧ s.sameStores t ∧ t.dev.val (F.DMA_Cc_STAT_STATE c) = 3 ∧ t.dev.dmac c = y ∧
        t.dev.now = max d.now (x.emptyAt + 1000 * d.val (F.DMA_Cc_POLL c)) ∧
        d.sameRegsBut t.dev ([F.DMA_Cc_STAT_STATE c, F.MER_TIME] ++ dramTrace)) ∧
    (d.dmaServed c = true → x.ctrl.testBit 26 = false → x.ctrl.testBit 27 = false → x.moved < x.total →
      s.isMem (x.src + x.moved) n → s.isMem (x.dst + x.moved) n → d.dramStill →
      ∃ t, exec (.burst c false [] .good) s = .next t ∧ t.bytes (x.dst + x.moved) n = s.bytes (x.src + x.moved) n ∧
        s.sameStoresBut t [(x.dst + x.moved, n)] ∧ (t.dev.dmac c).moved = x.moved + n ∧
        t.dev.val (F.DMA_Cc_BYTE_CNT c) = min 0xFFFFFFFF (d.val (F.DMA_Cc_BYTE_CNT c) + n) ∧
        t.dev.val (F.DMA_Cc_STAT_STATE c) = (if x.total ≤ x.moved + n then 5 else 3) ∧
        d.sameRegsBut t.dev ([F.DMA_Cc_STAT_STATE c, F.DMA_Cc_BYTE_CNT c] ++ dramTrace)) ∧
    (d.val (F.DMA_Cc_STAT_STATE c) = 5 → x.ctrl.testBit 27 = false → s.isMem x.addr 8 → x.next < 32 → d.dramStill →
      ∃ t, exec (.descriptorDone c) s = .next t ∧ s.sameStoresBut t [(x.addr, 8)] ∧
        t.bytes (x.addr + 4) 4 = bytesLE 4 (x.moved % 2 ^ 25 + (if x.trunc then 2 ^ 25 else 0) +
          (if x.poison then 2 ^ 29 else 0)) ∧
        t.bytes x.addr 4 = bytesLE 4 (x.ctrl % 2 ^ 31) ∧ t.dev.on (F.DMA_Cc_FLAG_DONE c) = true ∧
        (x.trunc = true → t.dev.on (F.DMA_Cc_FLAG_TRUNC c) = true) ∧
        t.dev.val (F.DMA_Cc_DESC_CNT c) = min 0xFFFFFFFF (d.val (F.DMA_Cc_DESC_CNT c) + 1) ∧
        t.dev.val (F.DMA_Cc_DESC c) = 0 ∧ t.dev.val (F.DMA_Cc_STAT_STATE c) = 2 ∧ d.sameWindowsBut t.dev [0x4008, 0x400A])

/-- Clearing a DMA channel's enable bit stops it at once. Whatever an enabled channel is doing, DMA_DISABLE clears
EN, and in the same step the channel is IDLE in state 0 with no descriptor, no START waiting and nothing it
would still move: no byte of memory changes, and a BURST or a DESCRIPTOR_DONE that follows changes nothing. This
is the exception to R9: no drain is shown and none holds a new EN back. -/
def Obligations.DmaStopsAtOnce : Prop :=
  ∀ (s : State) (c : Fin 32), s.dev.on (F.DMA_Cc_CFG_EN c) = true →
    ∃ t, exec (.dmaDisable c) s = .next t ∧ s.sameStores t ∧ t.dev.on (F.DMA_Cc_CFG_EN c) = false ∧
      t.dev.on (F.DMA_Cc_STAT_IDLE c) = true ∧ t.dev.val (F.DMA_Cc_STAT_STATE c) = 0 ∧
      t.dev.on (F.DMA_Cc_STAT_START_PEND c) = false ∧ t.dev.dmac c = { doneIoc := (s.dev.dmac c).doneIoc } ∧
      (R.DMA_Cc_CFG c ∈ t.dev.restart → R.DMA_Cc_CFG c ∈ s.dev.restart) ∧ 
      s.dev.sameWindowsBut t.dev ([0x4008, 0x4009, 0x4000] ++ (List.range 17).map (0x4020 + ·)) ∧
      (∀ hdr bad ecc, exec (.burst c hdr bad ecc) t = .next t.quietened) ∧ exec (.descriptorDone c) t = .next t.quietened

/-- The best eligible source is offered, acceptance enters its vector slot, MRET pops the priority stack, and a core
runs, halts, resets and is stood in for. OFFER offers the eligible source of highest PRIO, the lowest on a tie,
or none. ACCEPTANCE by a running core that allows it saves pc and status, goes to hvbase + 8 x source, fills
hclaim, pushes RPRI, clears CNT, counts and starts moderation; with no offer nothing happens. MRET returns and
pops where mcause is the external interrupt and DEPTH > 0; in user mode it is an illegal instruction (mtval 0 or
its bits, log entry 5). WFI goes on to the next instruction and halts while no source that could wake it
requests. hrpri takes a write; TIMER_INTERRUPT traps by mtvec. RUN, the reset of the registers, H4 standing in,
with the hartid it then reads, the watchdog and the end of moderation. Outside ICU and EVT no register changes,
but device time where an instant is awaited. -/
def Obligations.HelmTakesOffersAndReturns : Prop :=
  ∀ (s : State) (h : Fin 5),
    let d := s.dev
    let c := d.core h
    let apart : State → List Fld → Prop := fun t l => s.sameStores t ∧ d.sameRegsBut t.dev l
    ((∀ i : Fin 384, d.eligible h i = false) → ∃ t, exec (.offer h) s = .next t ∧ apart t [] ∧ t.dev.offered h = none) ∧
    (∀ i : Fin 384, d.eligible h i = true → d.offered h ≠ some i.val →
      (∀ j : Fin 384, j ≠ i → d.eligible h j = true → d.val (F.ICU_SRCi_CFG_PRIO j) < d.val (F.ICU_SRCi_CFG_PRIO i) ∨
        (d.val (F.ICU_SRCi_CFG_PRIO j) = d.val (F.ICU_SRCi_CFG_PRIO i) ∧ i < j)) →
      ∃ t, exec (.offer h) s = .next t ∧ apart t [] ∧ t.dev.offered h = some i.val ∧
        t.dev.on (F.ICU_SRCi_STAT_OFFERED i) = true ∧ t.dev.val (F.ICU_SRCi_STAT_OFFER_TGT i) = h ∧
        (t.dev.core h).mip.getLsbD 11 = true ∧ (t.dev.core h).wfi = false) ∧
    (d.offered h = none → exec (.acceptance h) s = .next s.quietened) ∧
    (∀ i : Fin 384, d.offered h = some i.val → d.coreRuns h = true → c.mie.getLsbD 11 = true → c.open = true →
      ∃ t, exec (.acceptance h) s = .next t ∧ apart t [] ∧
        (t.dev.core h).pc = c.hvbase + BitVec.ofNat 64 (8 * i) ∧ (t.dev.core h).mepc = c.pc &&& ~~~1#64 ∧
        (t.dev.core h).mcause = 0x800000000000000B ∧ (t.dev.core h).mtval = 0 ∧ (t.dev.core h).user = false ∧
        (t.dev.core h).wfi = false ∧ (t.dev.core h).mstatus.getLsbD 7 = c.mstatus.getLsbD 3 ∧
        (t.dev.core h).mstatus.getLsbD 3 = false ∧
        fieldOf (t.dev.core h).mstatus 11 2 = (if c.user then 0 else 3) ∧
        (t.dev.core h).hclaim = BitVec.ofNat 64 (i + 4096 * d.val (F.ICU_SRCi_STAT_CNT i) +
          65536 * d.val (F.ICU_SRCi_CFG_PRIO i)) ∧
        rpri (t.dev.core h) = d.val (F.ICU_SRCi_CFG_PRIO i) ∧ depth (t.dev.core h) = (depth c + 1) % 32 ∧
        (t.dev.core h).hpstk = (if 0 < depth c then (c.hpstk <<< 4) ||| BitVec.ofNat 64 (rpri c) else c.hpstk) ∧
        (i.val ≠ 6 → i.val ≠ 7 → t.dev.val (F.ICU_SRCi_STAT_CNT i) = 0) ∧
        t.dev.val (F.ICU_SRCi_ACC_CNT i) = min 0xFFFFFFFF (d.val (F.ICU_SRCi_ACC_CNT i) + 1) ∧
        (d.val (F.ICU_SRCi_CFG_MOD i) ≠ 0 →
          tabGet 0 t.dev.icu.modTill i = d.now + 1000 * d.val (F.ICU_SRCi_CFG_MOD i))) ∧
    (d.coreRuns h = true → c.wfi = false → c.user = false →
      let pop := c.mcause = 0x800000000000000B ∧ 0 < depth c
      ∃ t, exec (.mret h) s = .next t ∧ apart t [] ∧ (t.dev.core h).pc = c.mepc ∧
        (t.dev.core h).mstatus.getLsbD 3 = c.mstatus.getLsbD 7 ∧ (t.dev.core h).mstatus.getLsbD 7 = true ∧
        fieldOf (t.dev.core h).mstatus 11 2 = 0 ∧ (t.dev.core h).user = (fieldOf c.mstatus 11 2 != 3) ∧
        (t.dev.core h).hrpri = (if pop then withField (withField c.hrpri 0 4 (fieldOf c.hpstk 0 4)) 4 5 (depth c - 1) else c.hrpri) ∧
        (t.dev.core h).hpstk = (if pop then c.hpstk >>> 4 else c.hpstk)) ∧
    (d.coreRuns h = true → c.wfi = false → c.user = true →
      ∃ t, exec (.mret h) s = .next t ∧ apart t [] ∧ (t.dev.core h).pc = c.mtvec &&& ~~~3#64 ∧
        (t.dev.core h).mepc = c.pc &&& ~~~1#64 ∧ (t.dev.core h).mcause = 2 ∧ (t.dev.core h).user = false ∧
        ((t.dev.core h).mtval = 0 ∨ (t.dev.core h).mtval = 0x30200073)) ∧
    (d.coreRuns h = true → c.wfi = false →
      ∃ t, exec (.wfi h) s = .next t ∧ apart t [] ∧ (t.dev.core h).pc = c.pc + 4 ∧
        ((∃ i ∈ d.srcsOn, d.srcReq i = true ∧ ∃ b, d.delivery i = some (h.val, b)) → (t.dev.core h).wfi = false) ∧
        (c.mie.getLsbD 7 = true → c.htimecmp.toNat ≤ fromSigned 64 d.devTime → (t.dev.core h).wfi = false) ∧
        ((∀ i ∈ d.srcsOn, d.srcReq i = false) →
          c.mie.getLsbD 7 = false ∨ fromSigned 64 d.devTime < c.htimecmp.toNat →
          (t.dev.core h).wfi = true ∧ t.dev.on (F.ICU_HLMh_STAT_WFI h) = true)) ∧
    (∀ v, ∃ t, exec (.hrpriWrite h v) s = .next t ∧ apart t [] ∧ (t.dev.core h).hrpri = BitVec.ofNat 64 (v % 512)) ∧
    (c.htimecmp.toNat < 2 ^ 63 ∨ c.htimecmp.toNat ≤ d.timeCsr → c.mie.getLsbD 7 = true → d.coreRuns h = true → c.open = true →
      c.mie.getLsbD 11 = false ∨ d.offered h = none →
      ∃ t, exec (.timerInterrupt h) s = .next t ∧ apart t [F.MER_TIME] ∧ d.now ≤ t.dev.now ∧
        (t.dev.core h).pc = c.vector true 7 ∧ (t.dev.core h).mepc = c.pc &&& ~~~1#64 ∧
        (t.dev.core h).mcause = 0x8000000000000007 ∧ (t.dev.mipOf h).getLsbD 7 = true ∧
        (t.dev.core h).mstatus.getLsbD 3 = false ∧ (t.dev.core h).user = false ∧ (t.dev.core h).wfi = false) ∧
    (∀ b, ∃ t, exec (.runWrite h b) s = .next t ∧ apart t [] ∧ t.dev.on (F.ICU_HLMh_CTRL_RUN h) = b ∧
      t.dev.on (F.ICU_HLMh_STAT_RUNNING h) = (b && d.powered (2 + h)) ∧
      (t.dev.core h).pc = (if b && ! d.on (F.ICU_HLMh_CTRL_RUN h) && ! c.started
        then BitVec.ofNat 64 (d.val (F.ICU_HLMh_BOOT h)) else c.pc)) ∧
    (∃ t, exec (.coreReset h) s = .next t ∧ apart t [] ∧
      t.dev.core h = { wdogAt := c.wdogAt, started := d.on (F.ICU_HLMh_CTRL_RUN h),
                       pc := BitVec.ofNat 64 (d.val (F.ICU_HLMh_BOOT h)), mip := (t.dev.core h).mip }) ∧
    (∀ (en : Bool) (f : Fin 4),
      (d.on (F.ICU_HLMh_CTRL_RUN 4) = false →
        ∃ t, exec (.spareWrite en f) s = .next t ∧ apart t [] ∧ t.dev.on (F.ICU_HLMh_CTRL_SPARE_EN 4) = en ∧
          t.dev.val (F.ICU_HLMh_CTRL_SPARE_AS 4) = f ∧
          t.dev.mhartid 4 = (if en then f.val else 4) ∧
          ∀ g : Fin 4, t.dev.mhartid g = g ∧ t.dev.on (F.ICU_HLMh_STAT_SPARED g) = (en && decide (g = f))) ∧
      (d.on (F.ICU_HLMh_CTRL_RUN 4) = true →
        ∃ t, exec (.spareWrite en f) s = .next t ∧
          apart t [F.SYS_FLAG_ACCESS_ERR, F.SYS_ERR_ADDR, F.SYS_ACCESS_CNT] ∧
          t.dev.on F.SYS_FLAG_ACCESS_ERR = true ∧ t.dev.val F.SYS_ERR_ADDR = R.ICU_HLMh_CTRL 4 ∧
          t.dev.reg (R.ICU_HLMh_CTRL 4) = d.reg (R.ICU_HLMh_CTRL 4))) ∧
    (∀ at_, c.wdogAt = some at_ →
      ∃ t, exec (.wdog h) s = .next t ∧ apart t [F.MER_TIME] ∧ t.dev.now = max d.now at_ ∧
        (t.dev.core h).wdogAt = none ∧ t.dev.on (F.ICU_HLMh_FLAG_WDOG h) = true) ∧
    (∀ i : Fin 384, tabGet 0 d.icu.modTill i ≠ 0 →
      ∃ t, exec (.moderationEnd i) s = .next t ∧ apart t [F.MER_TIME] ∧ tabGet 0 t.dev.icu.modTill i = 0 ∧
        t.dev.now = max d.now (tabGet 0 d.icu.modTill i))

/-- A publication is delivered in the next cycle, merges with one pending, is discarded without EN, storms, and
reaches the task it starts. EVT_FIRE on a disabled channel is discarded and counted; a second one in a cycle is
counted as a collision; one that may be delivered in the next cycle is pending for it; one that comes sooner
than SPACING is pending for the last delivery + SPACING, and one beside a pending event takes its place, both
counted as merges; the merge that reaches STORM_LIMIT ends the channel and sets STORM. EVENT_DELIVERY brings the
instant of the delivery, sets the watch bit and LAST, and then starts the one subscriber's task, as its own
command does. CHANNEL_ENABLE clears the storm bit and closes the window, STORM_WINDOW_END closes it, SWI_SET
sets the REQ bits of its ones. -/
def Obligations.EventChannelsDeliver : Prop :=
  ∀ (s : State) (k : Fin 256),
    let d := s.dev
    let e := d.evch k
    let cyc := d.now / 4
    let space := max 1 (d.val (F.EVT_CHk_CFG_SPACING k))
    let lim := d.val (F.EVT_CHk_CFG_STORM_LIMIT k)
    let inWin := ∃ w, e.window = some w ∧ cyc < w + 250000
    let tooSoon := ∃ l, e.lastAt = some l ∧ cyc + 1 < l + space
    let others : State → List Fld → Prop := fun t l =>
      s.sameStores t ∧ (∀ a, (∀ f ∈ l, ¬ f.At a) → t.dev.reg a = d.reg a) ∧ ∀ j : Fin 256, j ≠ k → t.dev.evch j = d.evch j
    let stormBit : Fld := ⟨R.EVT_STORMw (k / 32), k % 32, 1⟩
    let watchBit : Fld := ⟨R.EVT_WATCHw (k / 32), k % 32, 1⟩
    let sub1 := fun (x : Fin 4) => d.on (F.CDC_En_CTRL_SUB_EN x) && d.val (F.CDC_En_CTRL_SUB_EVC x) == k.val
    let sub2 := fun (x : Fin 32) => d.on (F.DMA_Cc_CFG_SUB_EN x) && d.val (F.DMA_Cc_CFG_SUB_EVC x) == k.val
    let sub3 := fun (x : Fin 7) => d.on (F.ICU_SWIj_SUB_EN x) && d.val (F.ICU_SWIj_SUB_EVC x) == k.val
    (∀ code,
      (d.on (F.EVT_CHk_CFG_EN k) = false →
        ∃ t, exec (.evtFire code k) s = .next t ∧ others t [F.EVT_DISC_CNT] ∧ t.dev.evch k = e ∧
          t.dev.val F.EVT_DISC_CNT = min 0xFFFFFFFF (d.val F.EVT_DISC_CNT + 1)) ∧
      (d.on (F.EVT_CHk_CFG_EN k) = true → e.pubAt = some cyc →
        ∃ t, exec (.evtFire code k) s = .next t ∧ others t [F.EVT_CHk_COLLIDE_CNT k] ∧ t.dev.evch k = e ∧
          t.dev.val (F.EVT_CHk_COLLIDE_CNT k) = min 0xFFFFFFFF (d.val (F.EVT_CHk_COLLIDE_CNT k) + 1)) ∧
      (d.on (F.EVT_CHk_CFG_EN k) = true → e.pubAt ≠ some cyc →
        (e.pend = none → ¬ tooSoon →
          ∃ t, exec (.evtFire code k) s = .next t ∧ others t [] ∧
            t.dev.evch k = { e with pubAt := some cyc, pend := some (cyc + 1, code) }) ∧
        (∀ l, e.pend = none → e.lastAt = some l → cyc + 1 < l + space → ¬ inWin → lim ≠ 1 →
          ∃ t, exec (.evtFire code k) s = .next t ∧ others t [F.EVT_CHk_CFG_PEND k, F.EVT_CHk_MERGE_CNT k] ∧
            t.dev.on (F.EVT_CHk_CFG_PEND k) = true ∧
            t.dev.val (F.EVT_CHk_MERGE_CNT k) = min 0xFFFFFFFF (d.val (F.EVT_CHk_MERGE_CNT k) + 1) ∧
            t.dev.evch k = { e with pubAt := some cyc, pend := some (l + space, code), window := some cyc, merges := 1 }) ∧
        (∀ p, e.pend = some p → inWin → lim = 0 ∨ e.merges + 1 < lim →
          ∃ t, exec (.evtFire code k) s = .next t ∧ others t [F.EVT_CHk_MERGE_CNT k] ∧
            t.dev.val (F.EVT_CHk_MERGE_CNT k) = min 0xFFFFFFFF (d.val (F.EVT_CHk_MERGE_CNT k) + 1) ∧
            t.dev.evch k = { e with pubAt := some cyc, pend := some (p.1, code), merges := e.merges + 1 }) ∧
        (∀ p, e.pend = some p → inWin → lim ≠ 0 → lim ≤ e.merges + 1 →
          ∃ t, exec (.evtFire code k) s = .next t ∧ s.sameStores t ∧ d.sameRegsBut t.dev [] ∧
            t.dev.on (F.EVT_CHk_CFG_EN k) = false ∧ t.dev.on stormBit = true ∧ t.dev.on F.EVT_FLAG_STORM = true ∧
            (t.dev.evch k).pend = none))) ∧
    (∀ at_ code, e.pend = some (at_, code) → code < 256 →
      let here : State → Prop := fun u =>
        s.sameStores u ∧ (∀ a, (∀ f ∈ [F.EVT_CHk_CFG_PEND k, watchBit, F.EVT_CHk_LAST k, F.MER_TIME], ¬ f.At a) →
          u.dev.reg a = d.reg a) ∧ u.dev.now = max d.now (4 * at_) ∧ u.dev.on watchBit = true ∧
        u.dev.val (F.EVT_CHk_LAST k) = code ∧ u.dev.on (F.EVT_CHk_CFG_PEND k) = false ∧
        u.dev.evch k = { e with pend := none, lastAt := some at_ }
      ((∀ x, sub1 x = false) → (∀ x, sub2 x = false) → (∀ x, sub3 x = false) →
        ∃ t, exec (.eventDelivery k) s = .next t ∧ here t) ∧
      (∀ x, sub1 x = true → (∀ y, y ≠ x → sub1 y = false) → (∀ y, sub2 y = false) → (∀ y, sub3 y = false) →
        ∃ u, here u ∧ exec (.eventDelivery k) s = exec (.cdcStart x) u) ∧
      (∀ x, sub2 x = true → (∀ y, y ≠ x → sub2 y = false) → (∀ y, sub1 y = false) → (∀ y, sub3 y = false) →
        ∃ u, here u ∧ exec (.eventDelivery k) s = exec (.dmaStart x) u) ∧
      (∀ x, sub3 x = true → (∀ y, sub1 y = false) → (∀ y, sub2 y = false) →
        ∃ t, exec (.eventDelivery k) s = .next t ∧ s.sameStores t ∧ t.dev.on (F.ICU_SWIj_REQ x) = true ∧
          d.sameRegsBut t.dev [F.MER_TIME])) ∧
    (∃ t, exec (.channelEnable k) s = .next t ∧ others t [F.EVT_CHk_CFG_EN k, stormBit] ∧
      t.dev.on (F.EVT_CHk_CFG_EN k) = true ∧ t.dev.on stormBit = false ∧
      t.dev.evch k = { e with window := none, merges := 0 }) ∧
    (∀ w, e.window = some w →
      ∃ t, exec (.stormWindowEnd k) s = .next t ∧ others t [F.MER_TIME] ∧ t.dev.now = max d.now (4 * (w + 250000)) ∧
        t.dev.evch k = { e with window := none, merges := 0 }) ∧
    (∀ v : BitVec 7, ∃ t, exec (.swiSet v) s = .next t ∧ s.sameStores t ∧ d.sameRegsBut t.dev [] ∧
      ∀ j : Fin 7, t.dev.on (F.ICU_SWIj_REQ j) = (v.getLsbD j || d.on (F.ICU_SWIj_REQ j)))

/-- A reset puts every register outside PD00 at its reset value and adds its cause, and the sequencer raises the
rails one after the other. PIN, SOFT, WDOG, PG_LOSS, THERM and POR resets, and LOAD requested in SERVICE, leave
every register at its reset value but PD00's, SYS_RST_CAUSE, which gets the cause's bit (POR clears the others),
the straps' and supplies' levels, and what PD_STAT, SEQ_DONE, CHN_UID and SVC_EPOCH show; flash keeps its bytes
when no operation was under way. PIN leaves the rails; POR, PG_LOSS and a cooled junction start with PWR_EN0;
THERM leaves every rail off. PGOOD of the rail awaited raises the next, the last sets SEQ_DONE and lets the boot
run; a timeout turns the rails off, sets PG_FAIL and retries after 1 s, or holds them low. -/
def Obligations.ResetsAndRailsRun : Prop :=
  ∀ s : State,
    let d := s.dev
    let p := d.pwr
    let fresh : State → Prop := fun t =>
      t.pending = s.pending ∧ (p.nvOp = none → ∀ a, t.nvByte a = s.nvByte a) ∧
      t.dev.alm = d.alm ∧ t.dev.otp = d.otp ∧ (∀ a, a / 0x10000 = 0x4001 → t.dev.reg a = d.reg a) ∧
      ∀ a, keptReg a = false → (∀ f ∈ [F.PWR_PD_STAT, F.PWR_STAT_SEQ_DONE, F.CHN_UID, F.SVC_EPOCH], ¬ f.At a) →
        t.dev.reg a = resetOf a
    let cause : State → Nat → Prop := fun t c => t.dev.val F.SYS_RST_CAUSE = d.val F.SYS_RST_CAUSE ||| 2 ^ c
    let first : State → Prop := fun t => t.dev.pwr.en = 1 ∧ t.dev.pwr.seqRail = some 0
    let off : State → Prop := fun t => ∀ k : Fin 8, t.dev.pwr.en.testBit k = false
    let still : State → List Fld → Prop := fun t l => s.sameStores t ∧ d.sameRegsBut t.dev l
    (p.dormant = false →
      ∃ t, exec .pinReset s = .next t ∧ fresh t ∧ cause t 1 ∧
        (if p.heldLow then first t else t.dev.pwr.en = p.en ∧ t.dev.pwr.bootDue = true)) ∧
    (∃ t, exec (.softReset 0x52A5) s = .next t ∧ fresh t ∧ cause t 2 ∧ t.dev.pwr.en = p.en ∧ t.dev.pwr.bootDue = true) ∧
    (∀ v : Word, v ≠ 0x52A5 →
      ∃ t, exec (.softReset v) s = .next t ∧ still t [F.SYS_FLAG_ACCESS_ERR, F.SYS_ERR_ADDR, F.SYS_ACCESS_CNT] ∧
        t.dev.on F.SYS_FLAG_ACCESS_ERR = true ∧ t.dev.val F.SYS_ERR_ADDR = R.SYS_RST) ∧
    (∀ at_, p.wdogAt = some at_ →
      ∃ t, exec .sysWdogExpiry s = .next t ∧ fresh t ∧ cause t 3 ∧ t.dev.now = max d.now at_ ∧ t.dev.pwr.en = p.en) ∧
    (∀ k : Fin 8, p.en.testBit k = true → p.pg.testBit k = true →
      ∃ t, exec (.pgLoss k) s = .next t ∧ fresh t ∧ cause t 4 ∧ first t) ∧
    (∀ temp : Int, p.dormant = false → p.hot = false →
      (temp < 16 * (d.val F.PWR_THERM % 256 : Nat) →
        ∃ t, exec (.therm temp) s = .next t ∧ still t [F.PWR_TJ] ∧ t.dev.val F.PWR_TJ = (temp % 65536).toNat) ∧
      (16 * (d.val F.PWR_THERM % 256 : Nat) ≤ temp →
        ∃ t, exec (.therm temp) s = .next t ∧ fresh t ∧ cause t 5 ∧ off t ∧ t.dev.pwr.hot = true)) ∧
    (∀ temp : Int, p.hot = true → temp < 16 * ((d.val F.PWR_THERM % 256 : Nat) - 20 : Int) →
      ∃ t, exec (.junctionCooled temp) s = .next t ∧ still t [] ∧ first t ∧ t.dev.pwr.hot = false) ∧
    (∀ straps, ∃ t, exec (.por straps) s = .next t ∧ t.pending = s.pending ∧ first t ∧
      t.dev.val F.SYS_RST_CAUSE = 1 ∧ t.dev.val F.SYS_STRAP = straps.toNat ∧ t.dev.pwr.dormant = false ∧
      ∀ a, keptReg a = false → (∀ f ∈ [F.PWR_PD_STAT, F.PWR_STAT_SEQ_DONE, F.CHN_UID, F.SVC_EPOCH], ¬ f.At a) →
        t.dev.reg a = resetOf a) ∧
    (∃ t, exec .alwaysOnLoss s = .next t ∧ fresh t ∧ t.dev.pwr.dormant = true ∧ t.dev.pwr.en = 0 ∧
      t.dev.val F.PWR_PD_STAT = 1) ∧
    (∀ k : Fin 8, p.dormant = false → p.seqRail = some k.val →
      (k.val < 7 → p.pg.testBit (k + 1) = false →
        ∃ t, exec (.pgood k) s = .next t ∧ still t [F.MER_TIME] ∧ t.dev.pwr.seqRail = some (k + 1) ∧
          t.dev.pwr.en = p.en ||| 2 ^ (k + 1 : Nat) ∧ t.dev.now = d.now + 1000000 * d.val F.PWR_SEQ_STEP_DLY) ∧
      (k.val = 7 →
        ∃ t, exec (.pgood k) s = .next t ∧ still t [F.PWR_STAT_SEQ_DONE] ∧ t.dev.pwr.seqRail = none ∧
          t.dev.on F.PWR_STAT_SEQ_DONE = true ∧ t.dev.pwr.bootDue = true)) ∧
    (∀ k, p.seqRail = some k →
      ∃ t, exec .pgTimeout s = .next t ∧ still t [F.PWR_STAT_SEQ_DONE, F.PWR_FLAG_PG_FAIL, F.MER_TIME] ∧
        t.dev.on F.PWR_FLAG_PG_FAIL = true ∧ off t ∧ t.dev.pwr.seqRail = none ∧
        (if p.retries < d.val F.PWR_SEQ_RETRY then t.dev.pwr.failAt = some t.dev.now
         else t.dev.pwr.failAt = none ∧ t.dev.pwr.heldLow = true)) ∧
    (∀ at_, p.failAt = some at_ →
      ∃ t, exec .pgRetry s = .next t ∧ still t [F.PWR_STAT_RETRIES, F.MER_TIME] ∧ first t ∧
        t.dev.pwr.retries = p.retries + 1 ∧ t.dev.val F.PWR_STAT_RETRIES = min 3 (p.retries + 1) ∧
        t.dev.now = max d.now (at_ + 1000000000)) ∧
    (p.trans = none → d.mode = 5 →
      ∃ t, exec .loadRequest s = .next t ∧ fresh t ∧ cause t 1 ∧ t.dev.pwr.en = p.en ∧ t.dev.pwr.bootDue = true)

/-- Requests, HOLD, wake-up, RELOAD and a failed boot lead to the mode that the rules give, or are refused or wait.
A boot whose header fails a check ends in SERVICE with DEFAULTS and the code in CFG_FAIL. One whose image passes
the checks and writes no SYS_RST completes with MODE_DONE, H0 to H3 running and at most 3,000 ms shown. It, and
RELOAD, end in INSPECT only where AUTOSTART is set and neither defaults nor a rejection stands, in SERVICE
otherwise. During a transition a request waits, the last one kept; else STANDBY in SERVICE begins when every
running core is in WFI, STANDBY and SERVICE in INSPECT switch the held blocks off, in HOLD they first leave it,
INSPECT needs SERVICE with a configuration that holds, and any other request is an access error. MODE_DONE ends
a transition in its mode, but UNCHECKED set meanwhile keeps INSPECT out with an access error (log entry 136).
Standstill enters HOLD, motion leaves it or waits for its entry to end; WAKE powers the domains not switched off
with RETAIN, and otherwise resets the registers. -/
def Obligations.ModesFollowRequests : Prop :=
  ∀ (s : State) (tr : Training),
    let d := s.dev
    let p := d.pwr
    let refused : State → Prop := fun t =>
      s.sameStores t ∧ t.dev.on F.SYS_FLAG_ACCESS_ERR = true ∧ t.dev.val F.SYS_ERR_ADDR = R.PWR_MODE ∧
      t.dev.pwr.trans = none ∧
      d.sameRegsBut t.dev [F.PWR_MODE_REQ, F.SYS_FLAG_ACCESS_ERR, F.SYS_ERR_ADDR, F.SYS_ACCESS_CNT]
    let begun : State → Trans → Prop := fun t x =>
      s.sameStores t ∧ t.dev.pwr.trans = some x ∧ t.dev.on F.PWR_MODE_BUSY = true ∧ t.dev.mode = d.mode
    let heldOff : State → Prop := fun t => t.dev.on F.SEG_CTRL_EN = false ∧ (∀ x : Fin 64, t.dev.on (F.TRGs_CFG_EN x) = false) ∧
      ∀ n : Fin 16, t.dev.on (F.MRKn_CFG_EN n) = false
    let leaves : State → Prop := fun t => begun t .fromHold ∧ t.dev.on F.PWR_FLAG_HOLD_EXIT = true ∧
      ((∀ l : Fin 64, d.val (F.SLK_Ll_CTRL_PSTATE l) < 2) → d.sameWindowsBut t.dev [0x4002, 0x400A, 0x4012])
    let pipes := (List.range 17).map (0x4020 + ·)
    let ready := d.on F.CFG_STAT_DEFAULTS = false ∧ d.on F.CFG_STAT_REJECT = false ∧ d.on F.CFG_STAT_UNCHECKED = false
    let req : Nat → Instr → Prop := fun r c =>
      (p.trans.isSome = true →
        ∃ t, exec c s = .next t ∧ s.sameStores t ∧ t.dev.pwr.pend = some r ∧ t.dev.on F.PWR_MODE_PEND = true ∧
          t.dev.pwr.trans = p.trans ∧ d.sameRegsBut t.dev [F.PWR_MODE_REQ]) ∧
      (p.trans = none → d.mode = 1 ∨ d.mode = 2 → ∃ t, exec c s = .next t ∧ refused t)
    (∀ f, d.bootReady = true → headerFault (s.nvBytes 0 512) tr.flash = some f →
      ∃ t, exec (.powerGood tr) s = .next t ∧ s.sameStores t ∧ t.dev.mode = 5 ∧ t.dev.on F.CFG_STAT_DEFAULTS = true ∧
        t.dev.on F.CFG_FLAG_CFG_DEFAULTS = true ∧ t.dev.val F.CFG_FAIL = f.code ∧ t.dev.on F.PWR_FLAG_MODE_DONE = true ∧
        t.dev.on F.PWR_STAT_SEQ_DONE = true ∧ t.dev.pwr.bootDue = false ∧
        d.sameWindowsBut t.dev ([0x4000, 0x4002, 0x4003, 0x4004, 0x4005, 0x4009, 0x400C, 0x400F, 0x4013] ++ pipes)) ∧
    (let h := s.nvBytes 0 512
     let w := (Work.begin s).on (fun d => d.bootStart.octalEnter h tr.octal)
     ∀ c r, d.bootReady = true → headerFault h tr.flash = none → w.imageCheck h = .inr (c, r) →
      ((w.on (fun d => d.bootPasses h r c)).bootApply h r).dev.pwr.bootDue = false →
      ∃ t, exec (.powerGood tr) s = .next t ∧ t.pending = s.pending ∧ t.dev.pwr.bootDue = false ∧
        t.dev.on F.PWR_FLAG_MODE_DONE = true ∧ (t.dev.mode = 3 ∨ t.dev.mode = 5) ∧
        (t.dev.mode = 3 → t.dev.on F.CFG_CTRL_AUTOSTART = true ∧ t.dev.on F.CFG_STAT_DEFAULTS = false ∧
          t.dev.on F.CFG_STAT_REJECT = false ∧ t.dev.on F.CFG_STAT_UNCHECKED = false) ∧
        t.dev.val F.CFG_LOAD_TIME ≤ 3000 ∧ ∀ x : Fin 4, t.dev.on (F.ICU_HLMh_CTRL_RUN x) = true) ∧
    (p.reloadDue = true → d.mode = 2 →
      ∃ t, exec (.reload tr) s = .next t ∧ s.sameStores t ∧ t.dev.pwr.reloadDue = false ∧
        t.dev.on F.PWR_FLAG_MODE_DONE = true ∧ (t.dev.mode = 3 ∨ t.dev.mode = 5) ∧
        (t.dev.mode = 3 → t.dev.on F.CFG_CTRL_AUTOSTART = true ∧ t.dev.on F.CFG_STAT_DEFAULTS = false ∧
          t.dev.on F.CFG_STAT_REJECT = false ∧ t.dev.on F.CFG_STAT_UNCHECKED = false) ∧
        (t.dev.mode = 5 → heldOff t) ∧ (∀ a, a / 0x10000 ∈ [0x4001, 0x4004, 0x4008] → t.dev.reg a = d.reg a)) ∧
    req 1 .standbyRequest ∧ req 2 .loadRequest ∧ req 3 .inspectRequest ∧ req 5 .serviceRequest ∧
    (p.trans = none → d.mode = 5 →
      (d.allWait = true → ∃ t, exec .standbyRequest s = .next t ∧ begun t .toStandby ∧ d.sameRegsBut t.dev [F.PWR_MODE_REQ]) ∧
      (d.allWait = false → ∃ t, exec .standbyRequest s = .next t ∧ refused t) ∧
      (∃ t, exec .serviceRequest s = .next t ∧ refused t) ∧
      (ready → ∃ t, exec .inspectRequest s = .next t ∧ begun t .toInspect ∧ d.sameRegsBut t.dev [F.PWR_MODE_REQ]) ∧
      (¬ ready → ∃ t, exec .inspectRequest s = .next t ∧ refused t)) ∧
    (p.trans = none → d.mode = 3 →
      (∃ t, exec .standbyRequest s = .next t ∧ begun t .toService ∧ t.dev.pwr.thenStandby = true ∧ heldOff t) ∧
      (∃ t, exec .serviceRequest s = .next t ∧ begun t .toService ∧ t.dev.pwr.thenStandby = p.thenStandby ∧ heldOff t) ∧
      (∃ t, exec .inspectRequest s = .next t ∧ refused t) ∧ (∃ t, exec .loadRequest s = .next t ∧ refused t)) ∧
    (p.trans = none → d.mode = 4 →
      (∃ t, exec .standbyRequest s = .next t ∧ leaves t ∧ t.dev.pwr.pend = some 1) ∧
      (∃ t, exec .serviceRequest s = .next t ∧ leaves t ∧ t.dev.pwr.pend = some 5) ∧
      (∃ t, exec .inspectRequest s = .next t ∧ refused t) ∧ (∃ t, exec .loadRequest s = .next t ∧ refused t)) ∧
    (p.pend = none → p.thenStandby = false → p.exitDue = false →
      let ends : State → Nat → Prop := fun t m => t.pending = s.pending ∧ (∀ a, t.nvByte a = s.nvByte a) ∧ t.dev.mode = m ∧
        t.dev.pwr.trans = none ∧ t.dev.on F.PWR_MODE_BUSY = false ∧ t.dev.on F.PWR_FLAG_MODE_DONE = true
      (p.trans = some .toInspect → d.on F.CFG_STAT_UNCHECKED = false →
        ∃ t, exec .modeDone s = .next t ∧ ends t 3 ∧ s.sameStores t ∧
          (∃ k, t.dev.stc.nextRow = some k) ∧ d.sameWindowsBut t.dev [0x4002, 0x4013]) ∧
      (p.trans = some .toInspect → d.on F.CFG_STAT_UNCHECKED = true →
        ∃ t, exec .modeDone s = .next t ∧ ends t d.mode ∧ s.sameStores t ∧
          t.dev.on F.SYS_FLAG_ACCESS_ERR = true ∧ t.dev.val F.SYS_ERR_ADDR = R.PWR_MODE ∧
          d.sameRegsBut t.dev [F.PWR_MODE_BUSY, F.PWR_FLAG_MODE_DONE, F.SYS_FLAG_ACCESS_ERR, F.SYS_ERR_ADDR, F.SYS_ACCESS_CNT]) ∧
      (p.trans = some .toService → ∃ t, exec .modeDone s = .next t ∧ ends t 5 ∧ s.sameStores t ∧
        t.dev.on F.PWR_STAT_WOKE = false ∧ t.dev.stc.nextRow = none ∧
        d.sameWindowsBut t.dev ([0x4000, 0x4002, 0x4009, 0x4013] ++ pipes)) ∧
      (p.trans = some .wakeService → ∃ t, exec .modeDone s = .next t ∧ ends t 5 ∧ s.sameStores t ∧
        t.dev.on F.PWR_STAT_WOKE = true ∧ d.sameWindowsBut t.dev ([0x4000, 0x4002, 0x4009, 0x4013] ++ pipes)) ∧
      (p.trans = some .toHold → ∃ t, exec .modeDone s = .next t ∧ ends t 4 ∧
        (d.drc.pend = [] → s.sameStores t ∧ d.sameWindowsBut t.dev [0x4002, 0x400A])) ∧
      (p.trans = some .fromHold → ∃ t, exec .modeDone s = .next t ∧ ends t 3 ∧
        (d.drc.pend = [] → s.sameStores t ∧ d.sameWindowsBut t.dev [0x4002, 0x400A])) ∧
      (p.trans = some .toStandby → ∃ t, exec .modeDone s = .next t ∧ ends t 1 ∧
        (∀ k, k < 34 → t.dev.powered k = (d.onInStandby k && d.powered k)) ∧
        (d.on F.PWR_CTRL_RETAIN = true → ∀ a, t.byte a = s.byte a))) ∧
    (d.mode = 3 → p.trans = none → d.on F.PWR_CTRL_HOLD_EN = true → d.on F.LOG_STAT_STANDSTILL = true →
      ∃ t, exec .holdEntry s = .next t ∧ begun t .toHold ∧ t.dev.on F.PWR_FLAG_HOLD_ENTER = true ∧
        t.dev.val F.PWR_HOLD_CNT = min 0xFFFFFFFF (d.val F.PWR_HOLD_CNT + 1) ∧
        p.stillAt.getD 0 + 1000000 * d.val F.PWR_CTRL_HOLD_DLY ≤ t.dev.now ∧
        ((∀ n : Fin 17, (d.front n).running = none) → (∀ l : Fin 64, d.val (F.SLK_Ll_CTRL_PSTATE l) < 2) →
          d.sameWindowsBut t.dev [0x4002, 0x400A, 0x400F, 0x4012])) ∧
    (d.on F.LOG_STAT_STANDSTILL = false → d.mode = 4 → p.trans = none → ∃ t, exec .holdExit s = .next t ∧ leaves t) ∧
    (d.on F.LOG_STAT_STANDSTILL = false → p.trans = some .toHold →
      ∃ t, exec .holdExit s = .next t ∧ s.sameStores t ∧ t.dev.pwr.exitDue = true ∧ d.sameRegsBut t.dev []) ∧
    (∀ w, d.mode = 1 → p.trans = none → (d.val F.PWR_CTRL_WAKE).testBit (wakeBit w) = true →
      (d.on F.PWR_CTRL_RETAIN = true →
        ∃ t, exec (.wake w) s = .next t ∧ begun t .wakeService ∧
          (∀ k, k < 34 → t.dev.powered k = ! (d.val F.PWR_PD_OFF).testBit k) ∧
          d.sameWindowsBut t.dev [0x4002, 0x400A]) ∧
      (d.on F.PWR_CTRL_RETAIN = false →
        ∃ t, exec (.wake w) s = .next t ∧ t.pending = s.pending ∧
          t.dev.val F.SYS_RST_CAUSE = d.val F.SYS_RST_CAUSE ∧ t.dev.pwr.bootDue = true ∧
          ∀ a, keptReg a = false → (∀ f ∈ [F.PWR_PD_STAT, F.PWR_STAT_SEQ_DONE, F.CHN_UID, F.SVC_EPOCH], ¬ f.At a) →
            t.dev.reg a = resetOf a))

/-- Flash commands read, program and erase, PD_OFF switches optional idle domains, alerts are read and cleared, and
AVS moves one step. READ, PROGRAM and ERASE start where NV is not busy; a guarded range outside SERVICE with
PRESENCE is denied, a command while busy is an access error. NV_DONE puts the 256 bytes into the buffer, the
buffer into flash, or 0xFF into the 4 KiB unit (log entry 3), and an error sets NV_ERR. A bit of PD_OFF that
changes switches its domain, its pipeline's, codec's or network's registers lost, where the domain is Opt in the
mode and not in use, else it is an access error. PM_ALERT reads STATUS_WORD of each enabled rail, sets PMB_ALERT
and counts, or sets PMB_NACK. AVS writes VOUT one STEP up below MARGIN, down above MARGIN + 4, within its
limits, and sets AVS_LIMIT at VMAX. A bank's supply is shown. -/
def Obligations.FlashDomainsAndRegulatorsAct : Prop :=
  ∀ s : State,
    let d := s.dev
    let p := d.pwr
    let a := d.val F.CFG_NV_ADDR / 256 * 256
    let apart : State → List Fld → Prop := fun t l => s.sameStores t ∧ d.sameRegsBut t.dev l
    let shared : Nat → State → Prop := fun reg t =>
      apart t [F.SYS_FLAG_ACCESS_ERR, F.SYS_ERR_ADDR, F.SYS_ACCESS_CNT] ∧ t.dev.on F.SYS_FLAG_ACCESS_ERR = true ∧
      t.dev.val F.SYS_ERR_ADDR = reg
    let allowed : Nat → Nat → Bool := fun b n => ! d.nvGuarded b n || (decide (d.mode = 5) && d.on F.SVC_STAT_PRESENCE)
    let starts : Instr → Nat → Prop := fun c code =>
      ∃ t, exec c s = .next t ∧ apart t [F.CFG_STAT_NV_BUSY] ∧ t.dev.pwr.nvOp = some (code, a) ∧ t.dev.on F.CFG_STAT_NV_BUSY = true
    let denied : Instr → Prop := fun c =>
      ∃ t, exec c s = .next t ∧ apart t [F.CFG_FLAG_NV_DENY] ∧ t.dev.on F.CFG_FLAG_NV_DENY = true ∧ t.dev.pwr.nvOp = p.nvOp
    (d.on F.CFG_STAT_NV_BUSY = true →
      ∀ c ∈ [Instr.nvRead, Instr.nvProgram, Instr.nvErase], ∃ t, exec c s = .next t ∧ shared R.CFG_NV_CMD t) ∧
    (d.on F.CFG_STAT_NV_BUSY = false →
      starts .nvRead 1 ∧
      (allowed a 256 = true → starts .nvProgram 2) ∧ (allowed a 256 = false → denied .nvProgram) ∧
      (allowed (a / 4096 * 4096) 4096 = true → starts .nvErase 3) ∧
      (allowed (a / 4096 * 4096) 4096 = false → denied .nvErase)) ∧
    (∀ b, (p.nvOp = some (1, b) →
        ∃ t, exec (.nvDone false) s = .next t ∧ s.sameStores t ∧ t.dev.pwr.nvOp = none ∧
          (∀ k : Fin 64, t.dev.val (F.CFG_NV_BUF k) = leAt (s.nvBytes b 256) (4 * k) 4) ∧
          d.sameRegsBut t.dev (F.CFG_STAT_NV_BUSY :: (List.range 64).map F.CFG_NV_BUF)) ∧
      (p.nvOp = some (2, b) →
        ∃ t, exec (.nvDone false) s = .next t ∧ t.pending = s.pending ∧ (∀ x, t.byte x = s.byte x) ∧
          (∀ x, t.nvByte x = if b ≤ x ∧ x < b + 256
            then BitVec.ofNat 8 (d.val (F.CFG_NV_BUF ((x - b) / 4)) / 2 ^ (8 * ((x - b) % 4))) else s.nvByte x) ∧
          t.dev.pwr.nvOp = none ∧ d.sameRegsBut t.dev [F.CFG_STAT_NV_BUSY]) ∧
      (p.nvOp = some (3, b) →
        ∃ t, exec (.nvDone false) s = .next t ∧ t.pending = s.pending ∧ (∀ x, t.byte x = s.byte x) ∧
          (∀ x, t.nvByte x = if x / 4096 = b / 4096 then 0xFF else s.nvByte x) ∧
          t.dev.pwr.nvOp = none ∧ d.sameRegsBut t.dev [F.CFG_STAT_NV_BUSY]) ∧
      (∀ code, p.nvOp = some (code, b) →
        ∃ t, exec (.nvDone true) s = .next t ∧ t.pending = s.pending ∧ (∀ x, t.byte x = s.byte x) ∧
          t.dev.on F.CFG_FLAG_NV_ERR = true ∧ t.dev.pwr.nvOp = none ∧
          d.sameRegsBut t.dev (F.CFG_STAT_NV_BUSY :: F.CFG_FLAG_NV_ERR :: (List.range 64).map F.CFG_NV_BUF))) ∧
    (∀ v : Word, ∃ t, exec (.pdOffWrite false v) s = .next t ∧ apart t [] ∧
      t.dev.staged = tabSet 0 d.staged R.PWR_PD_OFF (v.toNat + 1)) ∧
    (∀ (k : Fin 34) (hi : Word),
      let f := d.val F.PWR_PD_OFF
      let v := f ^^^ 2 ^ k.val
      let ok := optIn d.mode k && (f.testBit k || ! d.domainBusy k)
      f < 2 ^ 34 → (d.joined R.PWR_PD_OFF hi).toNat = v →
      (ok = true →
        ∃ t, exec (.pdOffWrite true hi) s = .next t ∧ t.pending = s.pending ∧
          t.dev.val F.PWR_PD_OFF = v ∧ t.dev.powered k = f.testBit k ∧
          (∀ j : Fin 34, j ≠ k → t.dev.powered j = d.powered j) ∧
          (f.testBit k = true → apart t [F.PWR_PD_OFF, F.PWR_PD_STAT]) ∧
          (f.testBit k = false → 8 ≤ k.val → k.val ≤ 24 → ∀ x, x / 0x10000 = 0x4018 + k.val → t.dev.reg x = resetOf x) ∧
          (f.testBit k = false → k.val = 25 → ∀ x, x / 0x10000 = 0x4011 → t.dev.reg x = resetOf x) ∧
          (f.testBit k = false → k.val = 26 → ∀ x, x / 0x10000 = 0x4010 → t.dev.reg x = resetOf x)) ∧
      (ok = false → ∃ t, exec (.pdOffWrite true hi) s = .next t ∧ shared R.PWR_PD_OFF t)) ∧
    (∀ status : List Nat,
      let en := (List.range 8).filter (fun k => d.on (F.PWR_RAILk_EN k))
      (∀ k ∈ en, k < status.length) →
      ∃ t, exec (.pmAlert status) s = .next t ∧
        (∀ k ∈ en, ∀ v, status[k]? = some v → t.dev.val (F.PWR_RAILk_STATUS_WORD k) = v % 65536) ∧
        (en ≠ [] → t.dev.on F.PWR_FLAG_PMB_ALERT = true) ∧
        t.dev.val F.PWR_ALERT_CNT = min 0xFFFFFFFF (d.val F.PWR_ALERT_CNT + en.length) ∧
        apart t (F.PWR_FLAG_PMB_ALERT :: F.PWR_ALERT_CNT :: en.map F.PWR_RAILk_STATUS_WORD)) ∧
    ((∃ k : Fin 8, d.on (F.PWR_RAILk_EN k) = true) →
      ∃ t, exec (.pmAlert []) s = .next t ∧ t.dev.on F.PWR_FLAG_PMB_NACK = true ∧ apart t [F.PWR_FLAG_PMB_NACK]) ∧
    (d.avsRuns = true →
      let m := d.val F.SPR_AGE_MIN % 256
      let want := d.val F.PWR_AVS_MARGIN
      let v := d.val F.PWR_AVS_VOUT
      let lo := d.val F.PWR_AVS_LIM_VMIN
      let hi := d.val F.PWR_AVS_LIM_VMAX
      let step := d.val F.PWR_AVS_STEP
      v < 65536 → lo ≤ v → v ≤ hi →
      (want ≤ m → m ≤ want + 4 →
        ∃ t, exec (.avsUpdate true) s = .next t ∧ apart t [F.PWR_STAT_AVS_ACTIVE]) ∧
      (m < want →
        ∃ t, exec (.avsUpdate true) s = .next t ∧ t.dev.val F.PWR_AVS_VOUT = min hi (v + step) ∧
          (v = hi → t.dev.on F.PWR_FLAG_AVS_LIMIT = true) ∧
          apart t [F.PWR_STAT_AVS_ACTIVE, F.PWR_AVS_VOUT, F.PWR_FLAG_AVS_LIMIT]) ∧
      (want + 4 < m →
        ∃ t, exec (.avsUpdate true) s = .next t ∧ t.dev.val F.PWR_AVS_VOUT = max lo (v - step) ∧
          apart t [F.PWR_STAT_AVS_ACTIVE, F.PWR_AVS_VOUT])) ∧
    (∀ (b : Fin 8) (present level : Bool),
      ∃ t, exec (.vddutpChange b present level) s = .next t ∧ s.sameStores t ∧
        t.dev.on ⟨R.SYS_UTP_BANK, 8 + b, 1⟩ = present ∧ t.dev.on ⟨R.SYS_UTP_BANK, b, 1⟩ = (present && level) ∧
        (present = false → t.dev.val (F.SYS_UTP_INw b) = 0) ∧
        d.sameRegsBut t.dev [F.SYS_UTP_BANK, F.SYS_UTP_INw b])

/-- A port change is told to the neighbours, the head enumerates, a unit takes its hop number and passes the ENUM
on, and neighbours are judged. A port that changes is shown, its fall flagged and counted, and NEIGH goes out on
every port that is up. A head with news enumerates: hop 0, ENUM with COUNT 1 on CHD and R - 1 on CHU. A unit
takes the ENUM of its CHU at once and one of its CHD after 100 us: COUNT 1 to 63 becomes its hop in the head's
segment and goes on by 1 up or down, any other gives OVERFLOW, NO_ADDR and hop 63; a differing segment is
flagged, ENUM_DONE set. The head closes the ring by its own ENUM and flags another head's. NO_ADDR after 100 ms,
ENUM_ACK counted, NEIGH shown and judged, PROBE answered and half its round trip, a free value of at most 20,160
ns (log entry 5), kept. -/
def Obligations.ChainEnumeratesItsUnits : Prop :=
  ∀ (s : State) (p : Side) (f : ChainFrame),
    let d := s.dev
    let w := f.words.getD 0 0
    let apart : State → List Nat → Prop := fun t l => s.sameStores t ∧ d.sameWindowsBut t.dev l
    let stands := (d.chainCheck p f).2 = true
    let other := f.srcHop = d.hop ∧ d.on F.CHN_STAT_ADDR_VALID = true → False
    let taken : Side → BitVec 64 → State → Prop := fun q w t =>
      let c := wordByte w 1
      let seg := wordByte w 2
      let good := 1 ≤ c ∧ c ≤ 63
      let on := mkFrame 0x03 (0x8000 + 64 * seg) 0
        [enumWord (wordByte w 0) (if q = .chu then c + 1 else c + 255) seg (wordByte w 3)]
      t.dev.val F.CHN_ADDR = 64 * seg + (if good then c else 63) ∧ t.dev.on F.CHN_STAT_ADDR_VALID = decide good ∧
      t.dev.on F.CHN_FLAG_ENUM_DONE = true ∧ t.dev.chn.gotEnum = true ∧ t.dev.chn.round = wordByte w 0 ∧
      t.dev.val F.CHN_ENUM_CNT = min 0xFFFFFFFF (d.val F.CHN_ENUM_CNT + 1) ∧
      (seg ≠ d.chn.ownSeg → t.dev.on F.CHN_FLAG_SEG_MISMATCH = true) ∧
      (¬ good → t.dev.on F.CHN_FLAG_OVERFLOW = true ∧ t.dev.on F.CHN_FLAG_NO_ADDR = true) ∧
      (good → d.portUp (otherSide q) = true → Out.chain (otherSide q) on ∈ t.dev.out ∧
        t.dev.val F.CHN_FWD_CNT = min 0xFFFFFFFF (d.val F.CHN_FWD_CNT + 1)) ∧
      (∀ r, d.portUp r = true → Out.chain r (t.dev.neighFrame false) ∈ t.dev.out)
    (∀ up, d.powered 29 = true → d.portUp p ≠ up →
      ∃ t, exec (.chainLinkChange p up) s = .next t ∧ apart t [0x4005] ∧ t.dev.portUp p = up ∧
        (∀ r, t.dev.portUp r = true → Out.chain r (t.dev.neighFrame true) ∈ t.dev.out) ∧
        (up = false → t.dev.on F.CHN_FLAG_LINK_DOWN = true ∧
          t.dev.val F.CHN_LINK_DOWN_CNT = min 0xFFFFFFFF (d.val F.CHN_LINK_DOWN_CNT + 1))) ∧
    (d.chn.portNews = true → d.on F.CHN_CFG_HEAD = true → d.chn.yielded = false → d.chn.ownSeg < 256 →
      ∃ t, exec .enumeration s = .next t ∧ apart t [0x4005] ∧ t.dev.val F.CHN_ADDR = 64 * d.chn.ownSeg ∧
        t.dev.on F.CHN_STAT_ADDR_VALID = true ∧ t.dev.val F.CHN_STAT_UNITS = 0 ∧ t.dev.on F.CHN_STAT_RING = false ∧
        t.dev.chn.portNews = false ∧ t.dev.on F.CHN_FLAG_ENUM_DONE = true ∧
        let ring := if d.val F.CHN_RING_N = 0 then 64 else d.val F.CHN_RING_N
        let word := fun n => enumWord ((d.chn.round + 1) % 256) n d.chn.ownSeg ring
        (d.portUp .chd = true → Out.chain .chd (t.dev.frameAll 0x03 [word 1]) ∈ t.dev.out) ∧
        (d.portUp .chu = true → Out.chain .chu (t.dev.frameAll 0x03 [word (ring - 1)]) ∈ t.dev.out)) ∧
    (f.type = 3 → stands → f.words ≠ [] → d.on F.CHN_CFG_HEAD = false →
      (p = .chu → ∃ t, exec (.enum p f) s = .next t ∧ apart t [0x4005] ∧ taken .chu w t) ∧
      (p = .chd → d.chn.gotEnum = false →
        ∃ t, exec (.enum p f) s = .next t ∧ apart t [] ∧ t.dev.chn.chdEnum = some (w, d.now))) ∧
    (∀ x at_, d.chn.chdEnum = some (x, at_) →
      ∃ t, exec .enumChdWait s = .next t ∧ apart t [0x4005, 0x400F] ∧ t.dev.now = max d.now (at_ + 100000) ∧ taken .chd x t) ∧
    (f.type = 3 → stands → f.words ≠ [] → d.on F.CHN_CFG_HEAD = true →
      (p = .chu → wordByte w 0 = d.chn.round → wordByte w 2 = d.segNo →
        ∃ t, exec (.enum p f) s = .next t ∧ s.sameStores t ∧ t.dev.val F.CHN_RING_N = wordByte w 1 ∧
          t.dev.on F.CHN_STAT_RING = true ∧ d.sameRegsBut t.dev [F.CHN_RING_N, F.CHN_STAT_RING]) ∧
      (wordByte w 2 ≠ d.segNo →
        ∃ t, exec (.enum p f) s = .next t ∧ s.sameStores t ∧ t.dev.on F.CHN_FLAG_HEAD_CONFLICT = true ∧
          (t.dev.chn.yielded = true ∨ t.dev.chn = d.chn) ∧ d.sameRegsBut t.dev [F.CHN_FLAG_HEAD_CONFLICT])) ∧
    (∀ at_, d.chn.loadEnd = some at_ → d.chn.gotEnum = false → d.on F.CHN_CFG_HEAD = false → d.chn.ownSeg < 256 →
      ∃ t, exec .noAddr s = .next t ∧ s.sameStores t ∧ t.dev.now = max d.now (at_ + 100000000) ∧
        t.dev.on F.CHN_FLAG_NO_ADDR = true ∧ t.dev.val F.CHN_ADDR = 64 * d.chn.ownSeg + 63 ∧
        d.sameRegsBut t.dev [F.CHN_FLAG_NO_ADDR, F.CHN_ADDR, F.MER_TIME]) ∧
    (f.type = 4 → stands → other → d.mine f = true → d.on F.CHN_CFG_HEAD = true →
      ∃ t, exec (.enumAck p f) s = .next t ∧ s.sameStores t ∧
        t.dev.val F.CHN_STAT_UNITS = min 64 (d.val F.CHN_STAT_UNITS + 1) ∧ d.sameRegsBut t.dev [F.CHN_STAT_UNITS]) ∧
    (f.type = 5 → stands →
      let base := w.toNat % 2 ^ 32
      let width := w.toNat / 2 ^ 32
      ∃ t, exec (.neigh p f) s = .next t ∧ s.sameStores t ∧
        (match p with
         | .chu => t.dev.val F.CHN_EDGE_U = (base + width) % 2 ^ 32 ∧ t.dev.chn.nbrU = some (base, width)
         | .chd => t.dev.val F.CHN_EDGE_D = base ∧ t.dev.chn.nbrD = some (base, width)) ∧
        (d.closesRing p f = false → t.dev.abuts p = false → t.dev.on F.CHN_FLAG_EDGE_MISMATCH = true) ∧
        (d.on F.CHN_CFG_HEAD = true → (f.words.getD 1 0).getLsbD 2 = true → t.dev.chn.portNews = true) ∧
        d.sameRegsBut t.dev [F.CHN_EDGE_U, F.CHN_EDGE_D, F.CHN_FLAG_EDGE_MISMATCH]) ∧
    (f.type = 2 → stands → other → d.mine f = true → w.toNat = d.hop → d.chn.sideKnown = false ∨ d.fromBeaconSide p = true →
      ∃ t, exec (.probe p f) s = .next t ∧ s.sameStores t ∧ t.dev.val F.TRG_LS_LAT ≤ 20160 ∧
        t.dev.out = [.chain p (d.frameTo 0x02 f.srcHop f.words)] ∧ d.sameRegsBut t.dev [F.TRG_LS_LAT])

/-- Each service command is answered, refused or relayed by its rules, and presence decides over the privileged
ones. On a running port a frame with a bad CRC is counted and dropped; a good command for this unit is counted
and answered BUSY while another runs, PRESENCE when it is privileged without presence, and one for another unit
goes out on both ports and waits. PING, READ and WRITE of memory, STATUS, RESET (a reset of cause 6) and
SET_ADDRESS (the record's SEG) do as named. A forwarded PING is answered to its source hop, a response goes to
who asked, PRES_LOST and the loss of presence stop the command that runs, TXQ gives a command, NO_UNIT after 10
ms, a pause is a frame error. What PING's and STATUS's fields look like is log entry 36's. -/
def Obligations.ServiceCommandsAreAnswered : Prop :=
  ∀ (s : State) (f : SvcFrame),
    let d := s.dev
    let h := d.pwr.header
    let all : List ((SvcFrame → Instr) × Nat) := [(.ping, 0x01), (.read, 0x02), (.write, 0x03), (.status, 0x04),
      (.reset, 0x05), (.setAddress, 0x10), (.stage, 0x11), (.activate, 0x12), (.scheduleActivate, 0x13), (.confirm, 0x14),
      (.fallback, 0x15), (.eraseCal, 0x16), (.raiseEpoch, 0x17)]
    let still : State → List Fld → Prop := fun t l => s.sameStores t ∧ d.sameRegsBut t.dev l
    let counts : State → Prop := fun t => t.dev.val F.SVC_CMD_CNT = min 0xFFFFFFFF (d.val F.SVC_CMD_CNT + 1)
    let runs := d.runs F.SVC_CTRL_EN F.SVC_STAT_IDLE = true ∧ f.crcGood = true ∧ SvcFrameGood f = true
    let own := f.bcast = false ∧ f.dest % 2 ^ 14 = d.unitAddr
    let reply : Nat → Nat → List Byte → Out := fun code status data =>
      .port (svcBytes (code + 128) f.tag f.dest (bytesLE 1 status ++ data))
    let asked := runs ∧ own ∧ d.svc.run = none
    let ofPing := bytesLE 8 (d.val F.CHN_UID) ++ bytesLE 2 d.unitAddr ++ bytesLE 1 d.mode ++ bytesLE 4 (d.reg R.SVC_STAT).toNat
    let a := leAt f.payload 0 8
    (∀ c ∈ all,
      (d.runs F.SVC_CTRL_EN F.SVC_STAT_IDLE = false → exec (c.1 f) s = .next s.quietened) ∧
      (d.runs F.SVC_CTRL_EN F.SVC_STAT_IDLE = true → f.crcGood = false →
        ∃ t, exec (c.1 f) s = .next t ∧ still t [F.SVC_FLAG_CRC_ERR, F.SVC_CRC_CNT] ∧ t.dev.on F.SVC_FLAG_CRC_ERR = true ∧
          t.dev.val F.SVC_CRC_CNT = min 0xFFFFFFFF (d.val F.SVC_CRC_CNT + 1)) ∧
      (runs → f.cmd = c.2 → own → d.svc.run ≠ none →
        ∃ t, exec (c.1 f) s = .next t ∧ still t [F.SVC_CMD_CNT, F.SVC_ERR_CNT] ∧ counts t ∧ t.dev.out = [reply c.2 2 []] ∧
          t.dev.val F.SVC_ERR_CNT = min 0xFFFFFFFF (d.val F.SVC_ERR_CNT + 1)) ∧
      (asked → f.cmd = c.2 → 0x10 ≤ c.2 → d.on F.SVC_STAT_PRESENCE = false →
        ∃ t, exec (c.1 f) s = .next t ∧ still t [F.SVC_CMD_CNT, F.SVC_ERR_CNT] ∧ counts t ∧ t.dev.out = [reply c.2 3 []] ∧
          t.dev.val F.SVC_ERR_CNT = min 0xFFFFFFFF (d.val F.SVC_ERR_CNT + 1)) ∧
      (runs → f.cmd = c.2 → f.bcast = false → f.dest % 2 ^ 14 ≠ d.unitAddr →
        c.2 < 0x10 ∨ d.on F.SVC_STAT_PRESENCE = true →
        ∃ t, exec (c.1 f) s = .next t ∧ still t [F.SVC_CMD_CNT] ∧ counts t ∧
          t.dev.chn.relayed = d.chn.relayed ++ [{ dest := f.dest, tag := f.tag, cmd := c.2, fw := false, sentAt := d.now,
                                                  priv := decide (0x10 ≤ c.2) }] ∧
          ∀ p, d.portUp p = true → ∃ g : ChainFrame, Out.chain p g ∈ t.dev.out ∧ g.type = 7 ∧
            g.dest = f.dest % 2 ^ 14 + (if 0x10 ≤ c.2 then 2 ^ 14 else 0))) ∧
    (asked → f.cmd = 0x01 →
      ∃ t, exec (.ping f) s = .next t ∧ still t [F.SVC_CMD_CNT] ∧ counts t ∧ t.dev.out = [reply 0x01 0 ofPing]) ∧
    (asked → f.cmd = 0x02 → s.isMem a (4 * leAt f.payload 8 2) →
      ∃ t, exec (.read f) s = .next t ∧ still t [F.SVC_CMD_CNT] ∧ counts t ∧
        t.dev.out = [reply 0x02 0 (s.bytes a (4 * leAt f.payload 8 2))]) ∧
    (asked → f.cmd = 0x03 → s.isMem a (f.payload.length - 8) →
      ∃ t, exec (.write f) s = .next t ∧ s.sameStoresBut t [(a, f.payload.length - 8)] ∧
        t.bytes a (f.payload.length - 8) = f.payload.drop 8 ∧ d.sameRegsBut t.dev [F.SVC_CMD_CNT] ∧ counts t ∧
        t.dev.out = [reply 0x03 0 []]) ∧
    (asked → f.cmd = 0x04 → d.svc.record ≠ [] →
      ∃ t, exec (.status f) s = .next t ∧ still t [F.SVC_CMD_CNT] ∧ counts t ∧
        t.dev.out = [reply 0x04 0 (d.svc.record ++ bytesLE 4 (d.reg R.SVC_STAT).toNat ++ bytesLE 4 (d.val F.SVC_EPOCH) ++
          bytesLE 4 (d.val F.SVC_PAGES))]) ∧
    (asked → f.cmd = 0x05 →
      ∃ t, exec (.reset f) s = .next t ∧ t.pending = s.pending ∧ t.dev.out = [reply 0x05 0 []] ∧
        t.dev.val F.SYS_RST_CAUSE = d.val F.SYS_RST_CAUSE ||| 2 ^ 6 ∧ t.dev.pwr.bootDue = true ∧
        ∀ x, keptReg x = false → (∀ g ∈ [F.PWR_PD_STAT, F.PWR_STAT_SEQ_DONE, F.CHN_UID, F.SVC_EPOCH], ¬ g.At x) →
          t.dev.reg x = resetOf x) ∧
    (asked → f.cmd = 0x10 → d.on F.SVC_STAT_PRESENCE = true → d.svc.record.length = 512 →
      ∀ at_, copyAt h (1 - d.svc.copy) = some at_ →
      ∃ t, exec (.setAddress f) s = .next t ∧ t.pending = s.pending ∧ t.dev.out = [reply 0x10 0 []] ∧
        recSeg t.dev.svc.record = leAt f.payload 0 1 ∧ recSegSet t.dev.svc.record = true ∧
        recSeq t.dev.svc.record = (recSeq d.svc.record + 1) % 2 ^ 32 ∧ t.nvBytes at_ 512 = t.dev.svc.record ∧
        (∀ x, x < at_ ∨ at_ + 4096 ≤ x → t.nvByte x = s.nvByte x) ∧ (∀ x, t.byte x = s.byte x) ∧
        d.sameWindowsBut t.dev [0x4003, 0x4004]) ∧
    (asked → f.cmd = 0x10 → d.on F.SVC_STAT_PRESENCE = true → d.svc.record = [] →
      ∃ t, exec (.setAddress f) s = .next t ∧ still t [F.SVC_CMD_CNT, F.SVC_ERR_CNT, F.SVC_FLAG_REFUSED] ∧
        t.dev.on F.SVC_FLAG_REFUSED = true ∧ t.dev.out = [reply 0x10 4 []]) ∧
    (∀ (p : Side) (g : ChainFrame), (d.chainCheck p g).2 = true → d.mine g = true →
      (g.srcHop = d.hop ∧ d.on F.CHN_STAT_ADDR_VALID = true → False) →
      (g.type = 7 → f = ⟨g.bytes.take (leAt g.bytes 4 4 + 12)⟩ → f.crcGood = true → SvcFrameGood f = true → f.cmd = 1 →
        d.svc.run = none → d.chn.lastFwd = none →
        let b := svcBytes 0x81 f.tag f.dest (bytesLE 1 0 ++ ofPing)
        ∃ t, exec (.svcFwd p g) s = .next t ∧ still t [F.SVC_CMD_CNT] ∧ counts t ∧
          t.dev.out = [.chain p (d.frameTo 0x08 g.srcHop (toWords (b.length / 8 + 1) b))]) ∧
      (∀ e : Relayed, g.type = 8 → f = ⟨g.bytes.take (leAt g.bytes 4 4 + 12)⟩ → d.chn.relayed = [e] → e.tag = leAt f.bytes 1 1 →
        e.cmd = leAt f.bytes 0 1 % 128 → e.dest.testBit 15 = false → e.dest % 2 ^ 14 = d.segNo * 64 + g.srcHop → e.fw = false →
        ∃ t, exec (.svcRsp p g) s = .next t ∧ still t [] ∧ t.dev.chn.relayed = [] ∧ t.dev.out = [.port f.bytes]) ∧
      (∀ r q, g.type = 9 → d.svc.run = some r → r.by' = .unit q g.srcHop → r.tag = (g.words.getD 0 0).toNat % 256 →
        ∃ t, exec (.presLost p g) s = .next t ∧ s.sameStores t ∧ t.dev.svc.run = none ∧ t.dev.on F.SVC_STAT_BUSY = false ∧
          t.dev.on F.SVC_FLAG_PRES_LOST = true ∧ d.sameWindowsBut t.dev [0x4004])) ∧
    (∀ n c ws, d.on F.CHN_CFG_RELAY_EN = true → (d.queue (d.val F.CHN_CFG_TXQ)).spoilt = [] → (d.queTake (d.val F.CHN_CFG_TXQ) false).2 = some (n, c, ws) →
      f = ⟨itemBytes n ws⟩ → f.crcGood = true → SvcFrameGood f = true → f.bcast = false → f.dest % 2 ^ 14 ≠ d.unitAddr →
      privCmd f.cmd = false →
      ∃ t, exec (.relayCommand false []) s = .next t ∧ s.sameStores t ∧ counts t ∧
        t.dev.chn.relayed = d.chn.relayed ++ [{ dest := f.dest, tag := f.tag, cmd := f.cmd, fw := true, sentAt := d.now,
                                                priv := false }] ∧
        t.dev.queue (d.val F.CHN_CFG_TXQ) = (d.queTake (d.val F.CHN_CFG_TXQ) false).1.queue (d.val F.CHN_CFG_TXQ) ∧
        d.sameWindowsBut t.dev [0x4000, 0x4004, 0x4009]) ∧
    (∀ e l, d.chn.relayed = e :: l → e.dest.testBit 15 = false → e.fw = false →
      ∃ t, exec .noUnit s = .next t ∧ still t [F.SVC_ERR_CNT, F.MER_TIME] ∧ t.dev.chn.relayed = l ∧
        t.dev.now = max d.now (e.sentAt + 10000000) ∧
        t.dev.out = [.port (svcBytes (e.cmd % 128 + 128) e.tag e.dest (bytesLE 1 6))]) ∧
    (d.runs F.SVC_CTRL_EN F.SVC_STAT_IDLE = true →
      ∃ t, exec .svcFramePause s = .next t ∧ still t [F.SVC_FLAG_FRAME_ERR] ∧ t.dev.on F.SVC_FLAG_FRAME_ERR = true) ∧
    (∀ low, d.pwr.dormant = false →
      ∃ t, exec (.presence low) s = .next t ∧ s.sameStores t ∧ t.dev.on F.SVC_STAT_PRESENCE = low ∧
        (∀ r, low = false → d.on F.SVC_STAT_PRESENCE = true → d.svc.run = some r → r.by' = .port →
          t.dev.svc.run = none ∧ t.dev.on F.SVC_FLAG_PRES_LOST = true ∧
          Out.port (svcBytes (r.cmd % 128 + 128) r.tag r.dest (bytesLE 1 3)) ∈ t.dev.out) ∧
        (d.svc.run = none → d.sameRegsBut t.dev [F.SVC_STAT_PRESENCE]))

/-- A package is staged block by block into the inactive bank, activated by one record, confirmed, or fallen back
from. With presence, a record in use and no command running. STAGE of a new good manifest erases the inactive
bank's regions and takes page 0; a further block goes to its part's region; unconfirmed, it is refused. ACTIVATE
and FALLBACK of what passes the rules run on as BUSY until the next idle cycle commits the other bank,
unconfirmed and with RELOAD set; what fails is refused. SCHEDULE_ACTIVATE arms a time at least 200 ms ahead, and
at that time the switch is made when a staged package stands. CONFIRM is refused while RELOAD, else it sets
CONFIRMED and the floor. ERASE_CAL erases the store's records, RAISE_EPOCH burns the epoch. The rolling reload
steps by one pipeline in SERVICE and ends by committing RELOAD 0. -/
def Obligations.FieldUpdateSwitchesBanks : Prop :=
  ∀ (s : State) (f : SvcFrame),
    let d := s.dev
    let h := d.pwr.header
    let rec0 := d.svc.record
    let p := f.payload
    let off := leAt p 0 4
    let bs := p.drop 4
    let m := d.svc.manifest
    let still : State → List Fld → Prop := fun t l => s.sameStores t ∧ d.sameRegsBut t.dev l
    let asked := d.runs F.SVC_CTRL_EN F.SVC_STAT_IDLE = true ∧ f.crcGood = true ∧ SvcFrameGood f = true ∧
      f.bcast = false ∧ f.dest % 2 ^ 14 = d.unitAddr ∧ d.svc.run = none ∧ d.on F.SVC_STAT_PRESENCE = true ∧ rec0.length = 512
    let reply : Nat → Out := fun status => .port (svcBytes (f.cmd + 128) f.tag f.dest (bytesLE 1 status))
    let refused : Instr → Prop := fun c =>
      ∃ t, exec c s = .next t ∧ still t [F.SVC_CMD_CNT, F.SVC_ERR_CNT, F.SVC_FLAG_REFUSED] ∧
        t.dev.on F.SVC_FLAG_REFUSED = true ∧ t.dev.out = [reply 4]
    let slot := copyAt h (1 - d.svc.copy)
    let onlySlot : State → Prop := fun t => (∀ at_, slot = some at_ → t.nvBytes at_ 512 = t.dev.svc.record ∧
      ∀ x, x < at_ ∨ at_ + 4096 ≤ x → t.nvByte x = s.nvByte x)
    let switched : State → Prop := fun t => t.pending = s.pending ∧ onlySlot t ∧
      recBank t.dev.svc.record = 1 - recBank rec0 ∧ recConfirmed t.dev.svc.record = false ∧
      recReload t.dev.svc.record = true ∧ recSwritten t.dev.svc.record = false ∧
      recSeq t.dev.svc.record = (recSeq rec0 + 1) % 2 ^ 32 ∧ t.dev.svc.actStep = 4 ∧ t.dev.val F.SVC_RELOAD_IDX = 0 ∧
      t.dev.on F.SVC_STAT_STAGED = false ∧ t.dev.on F.SVC_STAT_RELOAD = true ∧
      t.dev.val F.SVC_STAT_ACT_BANK = 1 - recBank rec0
    let started : Instr → Nat → Prop := fun c code =>
      ∃ t, exec c s = .next t ∧ still t [F.SVC_CMD_CNT, F.SVC_STAT_BUSY] ∧ t.dev.out = [] ∧
        t.dev.svc.run = some { cmd := code, tag := f.tag, dest := f.dest, by' := .port } ∧
        t.dev.on F.SVC_STAT_BUSY = true ∧ t.dev.on F.SVC_STAT_ARMED = false ∧ t.dev.svc.armed = none
    (asked → f.cmd = 0x11 → recConfirmed rec0 = false → refused (.stage f)) ∧
    (asked → f.cmd = 0x11 → recConfirmed rec0 = true → off = 0 → tabGet 0 d.svc.pages 0 ≠ blockKey bs → 32 ≤ bs.length →
      manifestSize bs ≤ bs.length → bs.length = 4096 → 4096 < packageLength bs → d.manifestTaken bs = true →
      ∃ t, exec (.stage f) s = .next t ∧ t.pending = s.pending ∧ (∀ x, t.byte x = s.byte x) ∧ t.dev.out = [reply 0] ∧
        t.dev.svc.manifest = bs.take (manifestSize bs) ∧ t.dev.val F.SVC_PAGES = 1 ∧ t.dev.on F.SVC_STAT_STAGED = false ∧
        (∀ y x, y ∈ [1, 2, 3, 4, 5, 6].filterMap (fun k => d.region k d.idleBank) → y.off ≤ x → x < y.off + y.len →
          t.nvByte x = 0xFF) ∧
        (∀ x, (∀ y ∈ [1, 2, 3, 4, 5, 6].filterMap (fun k => d.region k d.idleBank), x < y.off ∨ y.off + y.len ≤ x) →
          t.nvByte x = s.nvByte x) ∧
        d.sameRegsBut t.dev [F.SVC_CMD_CNT, F.SVC_PAGES, F.SVC_STAT_STAGED]) ∧
    (∀ x y, asked → f.cmd = 0x11 → recConfirmed rec0 = true → off ≠ 0 → off % 4096 = 0 → m ≠ [] →
      off + bs.length ≤ packageLength m → bs.length = min 4096 (packageLength m - off) →
      tabGet 0 d.svc.pages (off / 4096) = 0 → d.svc.pages.length + 1 < (packageLength m + 4095) / 4096 →
      x ∈ manifestParts m → d.region x.type d.idleBank = some y → x.off ≤ off → off + bs.length ≤ x.off + x.len →
      (∀ z ∈ manifestParts m, z ≠ x → z.off + z.len ≤ off ∨ off + bs.length ≤ z.off) →
      ∃ t, exec (.stage f) s = .next t ∧ t.pending = s.pending ∧ (∀ b, t.byte b = s.byte b) ∧ t.dev.out = [reply 0] ∧
        t.nvBytes (y.off + (off - x.off)) bs.length = bs ∧
        (∀ b, b < y.off + (off - x.off) ∨ y.off + (off - x.off) + bs.length ≤ b → t.nvByte b = s.nvByte b) ∧
        tabGet 0 t.dev.svc.pages (off / 4096) = blockKey bs ∧
        d.sameRegsBut t.dev [F.SVC_CMD_CNT, F.SVC_PAGES]) ∧
    (asked → f.cmd = 0x12 →
      (d.actMode = false ∨ d.stagedOk = false → refused (.activate f)) ∧
      (d.actMode = true → d.stagedOk = true → ((Work.begin s).helmPart true).isSome = true → started (.activate f) 0x12)) ∧
    (asked → f.cmd = 0x15 →
      (d.actMode = false ∨ (Work.begin s).fallbackOk = false → refused (.fallback f)) ∧
      (d.actMode = true → (Work.begin s).fallbackOk = true → ((Work.begin s).helmPart false).isSome = true →
        started (.fallback f) 0x15)) ∧
    (∀ r, s.pending = [] → d.svc.run = some r → r.by' = .port → rec0.length = 512 → slot.isSome = true →
      ∃ t, step s = .next t ∧ switched t ∧ t.dev.svc.run = none ∧ t.dev.on F.SVC_STAT_BUSY = false ∧
        Out.port (svcBytes (r.cmd % 128 + 128) r.tag r.dest (bytesLE 1 0)) ∈ t.dev.out ∧
        d.sameWindowsBut t.dev [0x4003, 0x4004, 0x400F]) ∧
    (asked → f.cmd = 0x13 →
      (d.actMode = false ∨ d.stagedOk = false → refused (.scheduleActivate f)) ∧
      (d.actMode = true → d.stagedOk = true → toSigned 64 (leAt p 0 8) < d.devTime + 200000000 →
        ∃ t, exec (.scheduleActivate f) s = .next t ∧ still t [F.SVC_CMD_CNT, F.SVC_ERR_CNT] ∧ t.dev.out = [reply 7]) ∧
      (d.actMode = true → d.stagedOk = true → d.devTime + 200000000 ≤ toSigned 64 (leAt p 0 8) →
        ((Work.begin s).helmPart true).isSome = true →
        ∃ t, exec (.scheduleActivate f) s = .next t ∧ still t [F.SVC_CMD_CNT, F.SVC_SCHED, F.SVC_STAT_ARMED] ∧
          t.dev.svc.armed = some (leAt p 0 8) ∧ t.dev.on F.SVC_STAT_ARMED = true ∧
          t.dev.val F.SVC_SCHED = leAt p 0 8 ∧ t.dev.out = [reply 0])) ∧
    (∀ at_, d.svc.armed = some at_ →
      (d.stagedOk = false →
        ∃ t, exec .scheduledActivation s = .next t ∧ still t [F.SVC_STAT_ARMED, F.MER_TIME] ∧ t.dev.svc.armed = none ∧
          t.dev.on F.SVC_STAT_ARMED = false) ∧
      (d.stagedOk = true → rec0.length = 512 → slot.isSome = true →
        ∃ t, exec .scheduledActivation s = .next t ∧ switched t ∧ t.dev.svc.armed = none ∧
          t.dev.on F.SVC_STAT_ARMED = false ∧ d.sameWindowsBut t.dev [0x4003, 0x4004, 0x400F])) ∧
    (asked → f.cmd = 0x14 →
      (recReload rec0 = true → refused (.confirm f)) ∧
      (recReload rec0 = false → slot.isSome = true →
        let v := d.bankVersion (recBank rec0)
        ∃ t, exec (.confirm f) s = .next t ∧ t.pending = s.pending ∧ onlySlot t ∧ (∀ x, t.byte x = s.byte x) ∧
          recConfirmed t.dev.svc.record = true ∧ recBank t.dev.svc.record = recBank rec0 ∧
          recFloorEpoch t.dev.svc.record = v.1 % 256 ∧ recFloorVersion t.dev.svc.record = v.2 % 2 ^ 32 ∧
          t.dev.on F.SVC_STAT_CONFIRMED = true ∧ t.dev.out = [reply 0] ∧ d.sameWindowsBut t.dev [0x4003, 0x4004])) ∧
    (∀ i x, asked → f.cmd = 0x16 → sectOf h 9 0 = some (i, x) →
      ∃ t, exec (.eraseCal f) s = .next t ∧ t.pending = s.pending ∧ (∀ b, t.byte b = s.byte b) ∧
        (∀ b, t.nvByte b = if x.off + 4096 ≤ b ∧ b < x.off + 4096 + (x.len - 4096) then 0xFF else s.nvByte b) ∧
        t.dev.out = [reply 0] ∧ d.sameRegsBut t.dev [F.SVC_CMD_CNT]) ∧
    (asked → f.cmd = 0x17 →
      let e := leAt p 0 1
      let may := recConfirmed rec0 = true ∧ (d.bankVersion (recBank rec0)).1 = e ∧ d.otp.epoch < e
      (may → ∃ t, exec (.raiseEpoch f) s = .next t ∧ s.sameStores t ∧ t.dev.otp.epoch = e ∧
        t.dev.val F.SVC_EPOCH_OTP = e ∧ t.dev.out = [reply 0] ∧ d.sameWindowsBut t.dev [0x4003, 0x4004]) ∧
      (¬ may → refused (.raiseEpoch f))) ∧
    (rec0.length = 512 → slot.isSome = true →
      (d.svc.actStep = 5 →
        ∃ t, exec .rollingReload s = .next t ∧ t.pending = s.pending ∧ onlySlot t ∧ (∀ x, t.byte x = s.byte x) ∧
          recReload t.dev.svc.record = false ∧ t.dev.svc.actStep = 0 ∧ d.sameWindowsBut t.dev [0x4003, 0x4004]) ∧
      (d.svc.actStep = 4 → d.pwr.trans = none → d.val F.SVC_RELOAD_IDX = 16 →
        ∃ t, exec .rollingReload s = .next t ∧ t.pending = s.pending ∧ onlySlot t ∧ (∀ x, t.byte x = s.byte x) ∧
          recReload t.dev.svc.record = false ∧ t.dev.svc.actStep = 0 ∧ t.dev.on F.SVC_FLAG_ACT_DONE = true ∧
          d.sameWindowsBut t.dev [0x4003, 0x4004])) ∧
    (d.svc.actStep = 4 → d.pwr.trans = none → d.mode = 5 → d.val F.SVC_RELOAD_IDX < 16 →
      ∃ t, exec .rollingReload s = .next t ∧ s.sameStores t ∧
        t.dev.val F.SVC_RELOAD_IDX = d.val F.SVC_RELOAD_IDX + 1 ∧ d.sameWindowsBut t.dev [0x4004, 0x4040])

/-- Patrols count and retire, the log is written, telemetry is queued, loads and monitors end, and the Almanac
counts, is set, fires and seals. A patrol pass counts, and the error it found is counted by kind; an SRAM row
becomes a candidate by an uncorrectable error, or by correctable ones in RETIRE_N passes. LOG_CMD hands a record
over, is refused while the writer runs, and the writer programs it after the last, or a repair table into the
other copy. TELEMETRY puts one record of 96 bytes, code 9, into an idle queue; one stalled for 1 ms is dropped.
PIPE_LOAD runs alone and ends as done or failed; the lowest margin is shown; a self-test changes no more than
its area. A tick is 1/32,768 s and fires alarms due; the Meridian and firmware set the time; two equal samples
change the seal; VBAT below 1,900 mV is flagged; lost supplies reset the Almanac's registers. -/
def Obligations.BackgroundWorkAndAlmanac : Prop :=
  ∀ s : State,
    let d := s.dev
    let z := d.spr
    let still : State → List Fld → Prop := fun t l => s.sameStores t ∧ d.sameRegsBut t.dev l
    let apart : State → List Nat → Prop := fun t l => s.sameStores t ∧ d.sameWindowsBut t.dev l
    let more : State → Fld → Prop := fun t g => t.dev.val g = min 0xFFFFFFFF (d.val g + 1)
    (∀ e : ScrubError, e.bank < 96 → e.row < 256 → d.on F.SPR_CTRL_SCRUB_S_EN = true →
      let n := tabGet 0 z.passes (256 * e.bank + e.row) + 1
      let late := max d.now z.sStart
      ∃ t, exec (.sramScrubPass [e]) s = .next t ∧ apart t [0x4003, 0x400F, 0x4040] ∧ more t F.SPR_SPASS_CNT ∧
        t.dev.now = late ∧
        (z.sStart + 1000000000 * max 60 (d.val F.SPR_SCRUB_SPERIOD) < late → t.dev.on F.SPR_FLAG1_SCRUB_LATE = true) ∧
        (e.ue = true → more t F.SPR_SRAM_UE_CNT ∧ t.dev.on F.SPR_FLAG0_SRAM_UE = true ∧ (e.bank, e.row) ∈ t.dev.spr.cands) ∧
        (e.ue = false → more t F.SPR_SRAM_CE_CNT ∧ t.dev.on F.SPR_FLAG0_SRAM_CE = true ∧
          tabGet 0 t.dev.spr.passes (256 * e.bank + e.row) = n ∧
          (max 1 (d.val F.SPR_CTRL_RETIRE_N) ≤ n → (e.bank, e.row) ∈ t.dev.spr.cands)) ∧
        ((e.bank, e.row) ∉ z.cands → (e.bank, e.row) ∈ t.dev.spr.cands → t.dev.on F.SPR_FLAG0_RETIRE = true)) ∧
    (∀ e : ScrubError, d.on F.SPR_CTRL_SCRUB_D_EN = true → d.mode ≠ 1 →
      ∃ t, exec (.dramScrubPass [e]) s = .next t ∧ apart t [0x4003, 0x400A, 0x4040] ∧ more t F.SPR_DPASS_CNT ∧
        (if e.ue then more t F.DRC_UE_CNT ∧ t.dev.on F.DRC_FLAG_UE = true
         else more t F.DRC_CE_CNT ∧ t.dev.on F.DRC_FLAG_CE = true)) ∧
    (∀ v : Word,
      let type := v.toNat % 256
      let len := v.toNat / 256 % 256
      (d.on F.SPR_STAT_LOG_BUSY = true →
        ∃ t, exec (.logCmd v) s = .next t ∧ still t [F.SYS_FLAG_ACCESS_ERR, F.SYS_ERR_ADDR, F.SYS_ACCESS_CNT] ∧
          t.dev.spr.logQ = z.logQ ∧ t.dev.on F.SYS_FLAG_ACCESS_ERR = true ∧ t.dev.val F.SYS_ERR_ADDR = R.SPR_LOG_CMD) ∧
      (d.on F.SPR_STAT_LOG_BUSY = false → 0x40 ≤ type → len ≤ 240 → d.on F.SPR_STAT_LOG_SMALL = false →
        d.on F.CFG_STAT_DEFAULTS = false →
        ∃ t, exec (.logCmd v) s = .next t ∧ still t [F.SPR_STAT_LOG_BUSY, F.CFG_STAT_NV_BUSY] ∧
          t.dev.on F.SPR_STAT_LOG_BUSY = true ∧ t.dev.on F.CFG_STAT_NV_BUSY = true ∧
          t.dev.spr.logQ = z.logQ ++ [(type, (List.range len).map (fun i =>
            BitVec.ofNat 8 (d.val (F.SPR_LOG_BUF (i / 4)) / 2 ^ (8 * (i % 4)))))])) ∧
    (d.pwr.nvOp = none → d.on F.SPR_STAT_LOG_BUSY = true →
      (∀ type body l i, z.newRep = [] → z.logQ = (type, body) :: l → z.sector = some i → 64 ≤ d.ringSectors →
        z.sectOff + body.length + 12 ≤ 4096 →
        let b := BitVec.ofNat 8 type :: 0 :: (bytesLE 2 body.length ++ bytesLE 4 z.recSeq ++ body)
        let a := d.ringAt i + z.sectOff
        ∃ t, exec (.logRecordWrite false) s = .next t ∧ t.pending = s.pending ∧ (∀ x, t.byte x = s.byte x) ∧
          t.nvBytes a (body.length + 12) = b ++ bytesLE 4 (crc32c b) ∧
          (∀ x, x < a ∨ a + body.length + 12 ≤ x → t.nvByte x = s.nvByte x) ∧ t.dev.spr.logQ = l ∧
          t.dev.spr.recSeq = z.recSeq + 1 ∧ t.dev.on F.SPR_STAT_LOG_BUSY = ! l.isEmpty ∧
          d.sameRegsBut t.dev [F.SPR_STAT_LOG_BUSY, F.CFG_STAT_NV_BUSY]) ∧
      (∀ off n, z.newRep ≠ [] → d.logSection = some (off, n) → z.repair.length + z.newRep.length ≤ 1016 →
        let es := z.repair ++ z.newRep
        let a := off + 4096 * (1 - z.repCopy)
        let b := repairBytes (z.repSeq + 1) es
        ∃ t, exec (.logRecordWrite false) s = .next t ∧ t.pending = s.pending ∧ (∀ x, t.byte x = s.byte x) ∧
          t.nvBytes a (4 * es.length + 20) = b ∧ (∀ x, x < a ∨ a + 4096 ≤ x → t.nvByte x = s.nvByte x) ∧
          t.dev.spr.repair = es ∧ t.dev.spr.newRep = [] ∧ t.dev.spr.repCopy = 1 - z.repCopy ∧
          d.sameRegsBut t.dev [F.SPR_STAT_LOG_BUSY, F.CFG_STAT_NV_BUSY])) ∧
    (let q := d.val F.SPR_TELE % 64
     d.on F.SPR_CTRL_TELE_EN = true → (d.queue q).items = [] → (d.queue q).waiting = [] → (d.queue q).fwLeft = 0 →
      d.queTakes q 96 = true → 13 ≤ d.queCap q →
      ∃ t i, exec .telemetry s = .next t ∧ s.sameStores t ∧ t.dev.spr.teleSec = some d.teleDue ∧
        (t.dev.queue q).items = [i] ∧ i.len = 96 ∧ i.prod = 9 ∧ itemBytes 96 (i.words) = t.dev.teleBytes ∧
        d.sameWindowsBut t.dev ([0x4000, 0x4009, 0x400B, 0x400C, 0x400E, 0x400F, 0x4012, 0x4013, 0x4014, 0x4040] ++
          (List.range 17).map (0x4020 + ·))) ∧
    (∀ at_, z.teleAt = some at_ → d.queStalls (d.val F.SPR_TELE % 64) sprSrc = true →
      ∃ t, exec .teleDrop s = .next t ∧ apart t [0x4000, 0x4009, 0x400F, 0x4040] ∧ t.dev.now = max d.now (at_ + 1000000) ∧
        t.dev.spr.teleAt = none ∧ t.dev.on F.SPR_FLAG2_TELE_DROP = true ∧ more t F.SPR_TELE_DROP_CNT) ∧
    (∀ v : Word,
      let pl := v.toNat / 2 % 32
      (v.getLsbD 0 = true → d.on F.SPR_STAT_PIPE_BUSY = true →
        ∃ t, exec (.pipeLoad v) s = .next t ∧ still t [F.SYS_FLAG_ACCESS_ERR, F.SYS_ERR_ADDR, F.SYS_ACCESS_CNT] ∧
          t.dev.spr.pipe = z.pipe ∧ t.dev.on F.SYS_FLAG_ACCESS_ERR = true) ∧
      (v.getLsbD 0 = true → d.on F.SPR_STAT_PIPE_BUSY = false → pl ≤ 16 →
        ∃ t, exec (.pipeLoad v) s = .next t ∧ still t [F.SPR_PIPE_LOAD_PL, F.SPR_STAT_PIPE_BUSY] ∧
          t.dev.spr.pipe = some pl ∧ t.dev.on F.SPR_STAT_PIPE_BUSY = true ∧ t.dev.val F.SPR_PIPE_LOAD_PL = pl)) ∧
    (∀ n good, z.pipe = some n →
      let g := if good then F.SPR_FLAG3_PIPE_DONE else F.SPR_FLAG3_PIPE_FAIL
      ∃ t, exec (.pipeDone good) s = .next t ∧ still t [F.SPR_STAT_PIPE_BUSY, g] ∧ t.dev.spr.pipe = none ∧
        t.dev.spr.loaded.contains n = good ∧ t.dev.on F.SPR_STAT_PIPE_BUSY = false ∧ t.dev.on g = true) ∧
    (∀ (mon : Fin 32) (raw m : Nat), m ≤ 100 →
      ∃ t, exec (.ageMeasure mon m raw) s = .next t ∧ tabGet 0 t.dev.spr.age mon = 1 + m + 256 * (raw % 2 ^ 24) ∧
        t.dev.val F.SPR_AGE_MIN_M ≤ m ∧ (∀ e ∈ t.dev.spr.age, t.dev.val F.SPR_AGE_MIN_M ≤ (e.2 - 1) % 256) ∧
        (t.dev.val F.SPR_AGE_MIN_M < d.val F.SPR_AGE_WARN % 256 → d.val F.SPR_AGE_WARN % 256 ≤ d.val F.SPR_AGE_MIN_M →
          t.dev.on F.SPR_FLAG2_AGE_LOW = true) ∧
        still t [F.SPR_AGE_MIN_M, F.SPR_AGE_VAL, F.SPR_FLAG2_AGE_LOW]) ∧
    (∀ (e : Fin 4) good, d.on F.SPR_CTRL_CST_EN = true → d.val F.SPR_CTRL_CST_ENG = e →
      ∃ t, exec (.codecSelfTest e good) s = .next t ∧
        s.sameStoresBut t [(0x10000000 + 65536 * (d.val F.SPR_CST_BASE % 128), 65536)] ∧
        (good = false → t.dev.on F.SPR_FLAG3_CST_FAIL = true) ∧ d.sameRegsBut t.dev [F.SPR_FLAG3_CST_FAIL, F.MER_TIME]) ∧
    (d.mode ≠ 1 → d.alm.sub < 32768 → d.alm.sec < 2 ^ 48 →
      ∃ t, exec .almanacTick s = .next t ∧ apart t [0x4001] ∧
        (t.dev.alm.sec * 32768 + t.dev.alm.sub) = (d.alm.sec * 32768 + d.alm.sub + 1) % 2 ^ 63 ∧ t.dev.alm.sub < 32768 ∧
        ∀ k : Fin 2, d.on ⟨R.ALM_CTRL, 2 + k, 1⟩ = true →
          (d.val (F.ALM_ALARMk k) ≤ t.dev.alm.sec →
            t.dev.on ⟨R.ALM_FLAG, k, 1⟩ = true ∧ t.dev.on ⟨R.ALM_CTRL, 2 + k, 1⟩ = false) ∧
          (t.dev.alm.sec < d.val (F.ALM_ALARMk k) →
            t.dev.on ⟨R.ALM_FLAG, k, 1⟩ = d.on ⟨R.ALM_FLAG, k, 1⟩ ∧ t.dev.on ⟨R.ALM_CTRL, 2 + k, 1⟩ = true)) ∧
    (d.on F.ALM_CTRL_SYNC_EN = true → d.on F.MER_STAT_STEERING = true → d.on F.MER_STAT_STEP_DONE = true → d.alm.fwAt = none →
      let next := (d.devTime + 999999999) / 1000000000
      let due := match d.alm.syncSec with
        | some x => max next (x + max 1 (d.val F.ALM_SYNC_PERIOD))
        | none => next
      ∃ t, exec .meridianSet s = .next t ∧ apart t [0x4001, 0x400F] ∧ t.dev.alm.sec = fromSigned 48 due ∧
        t.dev.alm.sub = 0 ∧ t.dev.alm.syncSec = some due ∧ t.dev.on F.ALM_FLAG_SYNC = true) ∧
    (∀ hi, ∃ t, exec (.almSetCommit hi) s = .next t ∧ apart t [0x4001] ∧
      t.dev.alm.sec = (d.joined R.ALM_SET_SEC hi).toNat % 2 ^ 48 ∧ t.dev.alm.sub = d.val F.ALM_SET_SUB % 32768 ∧
      t.dev.on F.ALM_STAT_VALID = true) ∧
    (∀ level, d.on F.ALM_CTRL_SEAL_EN = true →
      (d.alm.lastSeal = some level → d.on F.ALM_STAT_SEAL_OPEN = level →
        ∃ t, exec (.sealPulse level) s = .next t ∧ apart t [0x4001] ∧ t.dev.on F.ALM_STAT_SEAL_OPEN = ! level ∧
          t.dev.alm.seals = ((d.alm.sec, ! level) :: d.alm.seals).take 16 ∧ t.dev.on F.ALM_FLAG_SEAL = true ∧
          more t F.ALM_SEAL_CNT) ∧
      (d.alm.lastSeal ≠ some level →
        ∃ t, exec (.sealPulse level) s = .next t ∧ still t [] ∧ t.dev.alm.lastSeal = some level ∧
          t.dev.alm.seals = d.alm.seals)) ∧
    (∀ mv, d.pwr.dormant = false →
      ∃ t, exec (.vbatMeasure mv) s = .next t ∧ still t [F.ALM_VBAT, F.ALM_FLAG_VBAT_LOW] ∧
        t.dev.val F.ALM_VBAT = mv % 65536 ∧ (mv < 1900 → t.dev.on F.ALM_FLAG_VBAT_LOW = true)) ∧
    (∃ t, exec .timeLost s = .next t ∧ apart t [0x4001] ∧ t.dev.alm = {} ∧ t.dev.on F.ALM_FLAG_LOST = true ∧
      ∀ a, a / 0x10000 = 0x4001 → a ≠ R.ALM_FLAG → t.dev.reg a = resetOf a)

/-- SYS_ID and SYS_REV read the part's identity, and a write to them changes nothing. At reset SYS_ID holds family
0x4C5A and part 0x6416, and SYS_REV the stepping B0, letter and digit; a read of each by a core whose protection
grants it, or by another port, answers the word it holds, and a REGISTER_WRITE of any data leaves it. -/
def Obligations.IdentityReadsAsStated : Prop :=
  State.reset.dev.val F.SYS_ID_FAMILY = 0x4C5A ∧ State.reset.dev.val F.SYS_ID_PART = 0x6416 ∧
  State.reset.dev.val F.SYS_REV_LETTER = 0x42 ∧ State.reset.dev.val F.SYS_REV_DIGIT = 0x30 ∧
  ∀ (s : State) (a : Nat), a = R.SYS_ID ∨ a = R.SYS_REV →
    (∀ r : Nat, s.dev.passes r .load a 4 = true →
      ∃ t, exec (.loRead r a 4 .plain .good) s = .next t ∧ t.dev.rdata = s.dev.reg a ∧ s.sameStores t ∧
        s.dev.sameRegsBut t.dev []) ∧
    ∀ (w : Nat) (v : BitVec 64), s.dev.passes w .store a 4 = true →
      ∃ t, exec (.registerWrite w a 4 v .plain .good) s = .next t ∧ s.sameStores t ∧ s.dev.sameRegsBut t.dev []
end

