-- ==== Sys2Proof/Laws/Bytes.lean ====
section
/-! SUPPORT. The laws of bytes and of the CRC-32C: how many bytes a number is spelled with and what they spell, that a
CRC has 32 bits, and that a frame the unit sends is closed rightly. -/
namespace Sys2Proof.Machine

@[simp] theorem bytesLE_length (k v : Nat) : (bytesLE k v).length = k := by
  induction k generalizing v with
  | zero => rfl
  | succ k ih => simp [bytesLE, ih]

theorem natLE_bytesLE (k v : Nat) : natLE (bytesLE k v) = v % 256 ^ k := by
  induction k generalizing v with
  | zero => simp [bytesLE, natLE, Nat.mod_one]
  | succ k ih => simp [bytesLE, natLE, ih, Nat.pow_succ', Nat.mod_mul]

theorem leAt_bytesLE (pre post : List Byte) (k v : Nat) :
    leAt (pre ++ (bytesLE k v ++ post)) pre.length k = v % 256 ^ k := by
  simp [leAt, natLE_bytesLE]

theorem crc32cBit_lt {c : Nat} (h : c < 2 ^ 32) : crc32cBit c < 2 ^ 32 := by
  unfold crc32cBit
  split
  · exact Nat.xor_lt_two_pow (by omega) (by decide)
  · omega

theorem foldl_lt {α : Type} (f : Nat → α → Nat) (n : Nat) (h : ∀ c x, c < n → f c x < n) :
    ∀ (l : List α) (c : Nat), c < n → l.foldl f c < n
  | [], _, hc => hc
  | x :: l, c, hc => foldl_lt f n h l (f c x) (h c x hc)

theorem crc32c_lt (bs : List Byte) : crc32c bs < 2 ^ 32 := by
  refine Nat.xor_lt_two_pow (foldl_lt _ _ ?_ bs _ (by decide)) (by decide)
  intro c b hc
  refine foldl_lt _ _ (fun c _ hc => crc32cBit_lt hc) _ _ ?_
  exact Nat.xor_lt_two_pow hc (by have := b.isLt; omega)

/-- Bytes closed by their CRC make a frame whose CRC is good. -/
theorem closed_crcGood (b : List Byte) (h : 8 ≤ b.length) : (⟨b ++ bytesLE 4 (crc32c b)⟩ : SvcFrame).crcGood = true := by
  have h1 := leAt_bytesLE b [] 4 (crc32c b)
  have h2 : crc32c b % 256 ^ 4 = crc32c b := Nat.mod_eq_of_lt (crc32c_lt b)
  rw [List.append_nil, h2] at h1
  simp only [SvcFrame.crcGood, List.length_append, bytesLE_length, Nat.add_sub_cancel, List.take_left', h1]
  simp; omega

/-- A service frame that the unit builds is closed by its CRC (R312). -/
theorem svcBytes_crcGood (cmd tag dest : Nat) (p : List Byte) : (⟨svcBytes cmd tag dest p⟩ : SvcFrame).crcGood = true :=
  closed_crcGood _ (by simp; omega)

end Sys2Proof.Machine
end

