-- ==== Sys2Proof/Laws/Tab.lean ====
section
/-! SUPPORT. The laws of sparse tables: reading after writing, and that writing keeps the canonical form. -/
namespace Sys2Proof.Machine

variable {α : Type}

theorem tabGet_nil (d : α) (k : Nat) : tabGet d [] k = d := rfl

theorem tabAbove_mono {b c : Nat} (h : b ≤ c) : ∀ {t : Tab α}, tabAbove c t = true → tabAbove b t = true
  | [], _ => rfl
  | (j, v) :: t, ht => by
    simp only [tabAbove, Bool.and_eq_true, decide_eq_true_eq] at ht ⊢
    exact ⟨by omega, ht.2⟩

theorem tabGet_above (d : α) {k : Nat} : ∀ {t : Tab α} {b : Nat}, tabAbove b t = true → k ≤ b → tabGet d t k = d
  | [], _, _, _ => rfl
  | (j, v) :: t, b, ht, hk => by
    simp only [tabAbove, Bool.and_eq_true, decide_eq_true_eq] at ht
    have hj : ¬ j = k := by omega
    simp only [tabGet, hj, if_false]
    exact tabGet_above d ht.2 (by omega)

theorem tabGet_insert (d : α) (k k' : Nat) (v : α) :
    ∀ t : Tab α, tabGet d (tabInsert t k v) k' = if k = k' then v else tabGet d t k'
  | [] => by by_cases h : k = k' <;> simp [tabInsert, tabGet, h]
  | (j, w) :: t => by
    by_cases h1 : k < j
    · by_cases h : k = k'
      · subst h; simp [tabInsert, tabGet, h1]
      · simp [tabInsert, tabGet, h1, h]
    · by_cases h2 : k = j
      · subst h2; by_cases h : k = k' <;> simp [tabInsert, tabGet, h]
      · have ih := tabGet_insert d k k' v t
        by_cases h3 : j = k'
        · subst h3
          simp [tabInsert, tabGet, h1, h2]
        · simp [tabInsert, tabGet, h1, h2, h3, ih]

theorem tabGet_erase (d : α) (k k' : Nat) :
    ∀ t : Tab α, tabGet d (tabErase t k) k' = if k = k' then d else tabGet d t k'
  | [] => by by_cases h : k = k' <;> simp [tabErase, tabGet]
  | (j, w) :: t => by
    have ih := tabGet_erase d k k' t
    by_cases h1 : j = k
    · subst h1
      simp only [tabErase, tabGet, if_true, ih]
      by_cases h : j = k' <;> simp [h]
    · by_cases h3 : j = k'
      · subst h3
        have h4 : ¬ k = j := fun h => h1 h.symm
        simp [tabErase, tabGet, h1, h4]
      · simp [tabErase, tabGet, h1, h3, ih]

/-- Reading after writing. -/
theorem tabGet_set [DecidableEq α] (d : α) (t : Tab α) (k k' : Nat) (v : α) :
    tabGet d (tabSet d t k v) k' = if k = k' then v else tabGet d t k' := by
  unfold tabSet
  by_cases hv : v = d
  · simp only [hv, if_true]; exact tabGet_erase d k k' t
  · simp only [hv, if_false]; exact tabGet_insert d k k' v t

/-- Reading the key just written. -/
@[simp] theorem tabGet_set_self [DecidableEq α] (d : α) (t : Tab α) (k : Nat) (v : α) :
    tabGet d (tabSet d t k v) k = v := by simp [tabGet_set]

/-- Reading another key after writing, whatever an unlisted key is read as. -/
theorem tabGet_set_ne [DecidableEq α] (d d' : α) (t : Tab α) {k k' : Nat} (hk : k ≠ k') (v : α) :
    tabGet d' (tabSet d t k v) k' = tabGet d' t k' := by
  unfold tabSet
  by_cases hv : v = d
  · simp only [hv, if_true]; rw [tabGet_erase]; simp [hk]
  · simp only [hv, if_false]; rw [tabGet_insert]; simp [hk]

theorem tabAbove_insert {b k : Nat} {v : α} (hb : b < k) :
    ∀ {t : Tab α}, tabAbove b t = true → tabAbove b (tabInsert t k v) = true
  | [], _ => by simp [tabInsert, tabAbove, hb]
  | (j, w) :: t, h => by
    simp only [tabAbove, Bool.and_eq_true, decide_eq_true_eq] at h
    unfold tabInsert
    split
    · rename_i h1; simp [tabAbove, hb, h1, h.2]
    · split
      · rename_i h1 h2; subst h2; simp [tabAbove, h.1, h.2]
      · rename_i h1 h2
        have : j < k := by omega
        simp [tabAbove, h.1, tabAbove_insert (v := v) this h.2]

theorem tabAbove_erase {b k : Nat} : ∀ {t : Tab α}, tabAbove b t = true → tabAbove b (tabErase t k) = true
  | [], _ => rfl
  | (j, w) :: t, h => by
    simp only [tabAbove, Bool.and_eq_true, decide_eq_true_eq] at h
    unfold tabErase
    split
    · exact tabAbove_mono (Nat.le_of_lt h.1) (tabAbove_erase h.2)
    · simp [tabAbove, h.1, tabAbove_erase h.2]

theorem tabSorted_insert (k : Nat) (v : α) : ∀ t : Tab α, tabSorted t = true → tabSorted (tabInsert t k v) = true
  | [], _ => rfl
  | (j, w) :: t, h => by
    have hab : tabAbove j t = true := h
    unfold tabInsert
    split
    · rename_i h1; simp [tabSorted, tabAbove, h1, hab]
    · split
      · rename_i h1 h2; subst h2; exact hab
      · rename_i h1 h2
        exact tabAbove_insert (by omega) hab

theorem tabSorted_of_above {b : Nat} : ∀ {t : Tab α}, tabAbove b t = true → tabSorted t = true
  | [], _ => rfl
  | (j, w) :: t, h => by
    simp only [tabAbove, Bool.and_eq_true] at h
    exact h.2

theorem tabSorted_erase (k : Nat) : ∀ t : Tab α, tabSorted t = true → tabSorted (tabErase t k) = true
  | [], _ => rfl
  | (j, w) :: t, h => by
    have hab : tabAbove j t = true := h
    unfold tabErase
    split
    · exact tabSorted_of_above (tabAbove_erase hab)
    · exact tabAbove_erase hab

theorem tabSorted_set [DecidableEq α] (d : α) (t : Tab α) (k : Nat) (v : α) (h : tabSorted t = true) :
    tabSorted (tabSet d t k v) = true := by
  unfold tabSet
  split
  · exact tabSorted_erase k t h
  · exact tabSorted_insert k v t h

theorem tabTight_insert [DecidableEq α] (d : Nat → α) (k : Nat) (v : α) (hv : v ≠ d k) :
    ∀ t : Tab α, tabTight d t = true → tabTight d (tabInsert t k v) = true
  | [], _ => by simp [tabInsert, tabTight, hv]
  | (j, w) :: t, h => by
    simp only [tabTight, Bool.and_eq_true, decide_eq_true_eq] at h
    unfold tabInsert
    split
    · simp [tabTight, hv, h.1, h.2]
    · split
      · simp [tabTight, hv, h.2]
      · simp [tabTight, h.1, tabTight_insert d k v hv t h.2]

theorem tabTight_erase [DecidableEq α] (d : Nat → α) (k : Nat) :
    ∀ t : Tab α, tabTight d t = true → tabTight d (tabErase t k) = true
  | [], _ => rfl
  | (j, w) :: t, h => by
    simp only [tabTight, Bool.and_eq_true, decide_eq_true_eq] at h
    unfold tabErase
    split
    · exact tabTight_erase d k t h.2
    · simp [tabTight, h.1, tabTight_erase d k t h.2]

/-- Writing keeps the canonical form. -/
theorem tabWf_set [DecidableEq α] (d : Nat → α) (t : Tab α) (k : Nat) (v : α) (h : tabWf d t = true) :
    tabWf d (tabSet (d k) t k v) = true := by
  simp only [tabWf, Bool.and_eq_true] at h ⊢
  refine ⟨tabSorted_set _ _ _ _ h.1, ?_⟩
  unfold tabSet
  split
  · exact tabTight_erase d k t h.2
  · rename_i hv; exact tabTight_insert d k v hv t h.2

theorem tabAbove_filter (p : Nat × α → Bool) {b : Nat} :
    ∀ {t : Tab α}, tabAbove b t = true → tabAbove b (t.filter p) = true
  | [], _ => rfl
  | (j, w) :: t, h => by
    simp only [tabAbove, Bool.and_eq_true, decide_eq_true_eq] at h
    by_cases hp : p (j, w) = true
    · simp [List.filter, hp, tabAbove, h.1, tabAbove_filter p h.2]
    · simp only [List.filter, hp]
      exact tabAbove_mono (Nat.le_of_lt h.1) (tabAbove_filter p h.2)

theorem tabSorted_filter (p : Nat × α → Bool) :
    ∀ {t : Tab α}, tabSorted t = true → tabSorted (t.filter p) = true
  | [], _ => rfl
  | (j, w) :: t, h => by
    have hab : tabAbove j t = true := h
    by_cases hp : p (j, w) = true
    · simp only [List.filter, hp]; exact tabAbove_filter p hab
    · simp only [List.filter, hp]; exact tabSorted_of_above (tabAbove_filter p hab)

theorem tabTight_filter [DecidableEq α] (d : Nat → α) (p : Nat × α → Bool) :
    ∀ {t : Tab α}, tabTight d t = true → tabTight d (t.filter p) = true
  | [], _ => rfl
  | (j, w) :: t, h => by
    simp only [tabTight, Bool.and_eq_true, decide_eq_true_eq] at h
    by_cases hp : p (j, w) = true
    · simp [List.filter, hp, tabTight, h.1, tabTight_filter d p h.2]
    · simp only [List.filter, hp]; exact tabTight_filter d p h.2

/-- Dropping entries keeps the canonical form. -/
theorem tabWf_filter [DecidableEq α] (d : Nat → α) (p : Nat × α → Bool) (t : Tab α) (h : tabWf d t = true) :
    tabWf d (t.filter p) = true := by
  simp only [tabWf, Bool.and_eq_true] at h ⊢
  exact ⟨tabSorted_filter p h.1, tabTight_filter d p h.2⟩

/-- The canonical form has rising keys. -/
theorem tabWf_sorted [DecidableEq α] {d : Nat → α} {t : Tab α} (h : tabWf d t = true) : tabSorted t = true := by
  simp only [tabWf, Bool.and_eq_true] at h; exact h.1

end Sys2Proof.Machine
end

