-- ==== Sys2Proof/Laws/State.lean ====
section
/-! SUPPORT. One lemma per field per update of the block: what an update of one part leaves as it was, so that no
proof has to unfold a record update. -/
namespace Sys2Proof.Machine

variable (d : Dev)

@[simp] theorem Dev.setReg_hi (a : Nat) (x : Word) : (d.setReg a x).hi = d.hi := rfl
@[simp] theorem Dev.setReg_staged (a : Nat) (x : Word) : (d.setReg a x).staged = d.staged := rfl
@[simp] theorem Dev.setReg_rdata (a : Nat) (x : Word) : (d.setReg a x).rdata = d.rdata := rfl
@[simp] theorem Dev.setReg_now (a : Nat) (x : Word) : (d.setReg a x).now = d.now := rfl
@[simp] theorem Dev.setReg_draws (a : Nat) (x : Word) : (d.setReg a x).draws = d.draws := rfl
@[simp] theorem Dev.setReg_out (a : Nat) (x : Word) : (d.setReg a x).out = d.out := rfl
@[simp] theorem Dev.setReg_log (a : Nat) (x : Word) : (d.setReg a x).log = d.log := rfl
@[simp] theorem Dev.setReg_trg (a : Nat) (x : Word) : (d.setReg a x).trg = d.trg := rfl
@[simp] theorem Dev.setReg_flt (a : Nat) (x : Word) : (d.setReg a x).flt = d.flt := rfl
@[simp] theorem Dev.setReg_slk (a : Nat) (x : Word) : (d.setReg a x).slk = d.slk := rfl
@[simp] theorem Dev.setReg_pl (a : Nat) (x : Word) : (d.setReg a x).pl = d.pl := rfl
@[simp] theorem Dev.setReg_stc (a : Nat) (x : Word) : (d.setReg a x).stc = d.stc := rfl
@[simp] theorem Dev.setReg_seg (a : Nat) (x : Word) : (d.setReg a x).seg = d.seg := rfl
@[simp] theorem Dev.setReg_mrk (a : Nat) (x : Word) : (d.setReg a x).mrk = d.mrk := rfl
@[simp] theorem Dev.setReg_cdc (a : Nat) (x : Word) : (d.setReg a x).cdc = d.cdc := rfl
@[simp] theorem Dev.setReg_net (a : Nat) (x : Word) : (d.setReg a x).net = d.net := rfl
@[simp] theorem Dev.setReg_mer (a : Nat) (x : Word) : (d.setReg a x).mer = d.mer := rfl
@[simp] theorem Dev.setReg_drc (a : Nat) (x : Word) : (d.setReg a x).drc = d.drc := rfl
@[simp] theorem Dev.setReg_que (a : Nat) (x : Word) : (d.setReg a x).que = d.que := rfl
@[simp] theorem Dev.setReg_dma (a : Nat) (x : Word) : (d.setReg a x).dma = d.dma := rfl
@[simp] theorem Dev.setReg_icu (a : Nat) (x : Word) : (d.setReg a x).icu = d.icu := rfl
@[simp] theorem Dev.setReg_evt (a : Nat) (x : Word) : (d.setReg a x).evt = d.evt := rfl
@[simp] theorem Dev.setReg_pwr (a : Nat) (x : Word) : (d.setReg a x).pwr = d.pwr := rfl
@[simp] theorem Dev.setReg_chn (a : Nat) (x : Word) : (d.setReg a x).chn = d.chn := rfl
@[simp] theorem Dev.setReg_svc (a : Nat) (x : Word) : (d.setReg a x).svc = d.svc := rfl
@[simp] theorem Dev.setReg_spr (a : Nat) (x : Word) : (d.setReg a x).spr = d.spr := rfl
@[simp] theorem Dev.setReg_alm (a : Nat) (x : Word) : (d.setReg a x).alm = d.alm := rfl
@[simp] theorem Dev.setReg_otp (a : Nat) (x : Word) : (d.setReg a x).otp = d.otp := rfl
@[simp] theorem Dev.setReg_restart (a : Nat) (x : Word) : (d.setReg a x).restart = d.restart := rfl

@[simp] theorem Dev.put_hi (f : Fld) (v : Nat) : (d.put f v).hi = d.hi := by unfold Dev.put; split <;> rfl
@[simp] theorem Dev.put_staged (f : Fld) (v : Nat) : (d.put f v).staged = d.staged := by unfold Dev.put; split <;> rfl
@[simp] theorem Dev.put_rdata (f : Fld) (v : Nat) : (d.put f v).rdata = d.rdata := by unfold Dev.put; split <;> rfl
@[simp] theorem Dev.put_now (f : Fld) (v : Nat) : (d.put f v).now = d.now := by unfold Dev.put; split <;> rfl
@[simp] theorem Dev.put_draws (f : Fld) (v : Nat) : (d.put f v).draws = d.draws := by unfold Dev.put; split <;> rfl
@[simp] theorem Dev.put_out (f : Fld) (v : Nat) : (d.put f v).out = d.out := by unfold Dev.put; split <;> rfl
@[simp] theorem Dev.put_log (f : Fld) (v : Nat) : (d.put f v).log = d.log := by unfold Dev.put; split <;> rfl
@[simp] theorem Dev.put_trg (f : Fld) (v : Nat) : (d.put f v).trg = d.trg := by unfold Dev.put; split <;> rfl
@[simp] theorem Dev.put_flt (f : Fld) (v : Nat) : (d.put f v).flt = d.flt := by unfold Dev.put; split <;> rfl
@[simp] theorem Dev.put_slk (f : Fld) (v : Nat) : (d.put f v).slk = d.slk := by unfold Dev.put; split <;> rfl
@[simp] theorem Dev.put_pl (f : Fld) (v : Nat) : (d.put f v).pl = d.pl := by unfold Dev.put; split <;> rfl
@[simp] theorem Dev.put_stc (f : Fld) (v : Nat) : (d.put f v).stc = d.stc := by unfold Dev.put; split <;> rfl
@[simp] theorem Dev.put_seg (f : Fld) (v : Nat) : (d.put f v).seg = d.seg := by unfold Dev.put; split <;> rfl
@[simp] theorem Dev.put_mrk (f : Fld) (v : Nat) : (d.put f v).mrk = d.mrk := by unfold Dev.put; split <;> rfl
@[simp] theorem Dev.put_cdc (f : Fld) (v : Nat) : (d.put f v).cdc = d.cdc := by unfold Dev.put; split <;> rfl
@[simp] theorem Dev.put_net (f : Fld) (v : Nat) : (d.put f v).net = d.net := by unfold Dev.put; split <;> rfl
@[simp] theorem Dev.put_mer (f : Fld) (v : Nat) : (d.put f v).mer = d.mer := by unfold Dev.put; split <;> rfl
@[simp] theorem Dev.put_drc (f : Fld) (v : Nat) : (d.put f v).drc = d.drc := by unfold Dev.put; split <;> rfl
@[simp] theorem Dev.put_que (f : Fld) (v : Nat) : (d.put f v).que = d.que := by unfold Dev.put; split <;> rfl
@[simp] theorem Dev.put_dma (f : Fld) (v : Nat) : (d.put f v).dma = d.dma := by unfold Dev.put; split <;> rfl
@[simp] theorem Dev.put_icu (f : Fld) (v : Nat) : (d.put f v).icu = d.icu := by unfold Dev.put; split <;> rfl
@[simp] theorem Dev.put_evt (f : Fld) (v : Nat) : (d.put f v).evt = d.evt := by unfold Dev.put; split <;> rfl
@[simp] theorem Dev.put_pwr (f : Fld) (v : Nat) : (d.put f v).pwr = d.pwr := by unfold Dev.put; split <;> rfl
@[simp] theorem Dev.put_chn (f : Fld) (v : Nat) : (d.put f v).chn = d.chn := by unfold Dev.put; split <;> rfl
@[simp] theorem Dev.put_svc (f : Fld) (v : Nat) : (d.put f v).svc = d.svc := by unfold Dev.put; split <;> rfl
@[simp] theorem Dev.put_spr (f : Fld) (v : Nat) : (d.put f v).spr = d.spr := by unfold Dev.put; split <;> rfl
@[simp] theorem Dev.put_alm (f : Fld) (v : Nat) : (d.put f v).alm = d.alm := by unfold Dev.put; split <;> rfl
@[simp] theorem Dev.put_otp (f : Fld) (v : Nat) : (d.put f v).otp = d.otp := by unfold Dev.put; split <;> rfl
@[simp] theorem Dev.put_restart (f : Fld) (v : Nat) : (d.put f v).restart = d.restart := by unfold Dev.put; split <;> rfl

@[simp] theorem Dev.puti_hi (f : Fld) (v : Int) : (d.puti f v).hi = d.hi := Dev.put_hi d f _
@[simp] theorem Dev.puti_staged (f : Fld) (v : Int) : (d.puti f v).staged = d.staged := Dev.put_staged d f _
@[simp] theorem Dev.puti_rdata (f : Fld) (v : Int) : (d.puti f v).rdata = d.rdata := Dev.put_rdata d f _
@[simp] theorem Dev.puti_now (f : Fld) (v : Int) : (d.puti f v).now = d.now := Dev.put_now d f _
@[simp] theorem Dev.puti_draws (f : Fld) (v : Int) : (d.puti f v).draws = d.draws := Dev.put_draws d f _
@[simp] theorem Dev.puti_out (f : Fld) (v : Int) : (d.puti f v).out = d.out := Dev.put_out d f _
@[simp] theorem Dev.puti_log (f : Fld) (v : Int) : (d.puti f v).log = d.log := Dev.put_log d f _
@[simp] theorem Dev.puti_trg (f : Fld) (v : Int) : (d.puti f v).trg = d.trg := Dev.put_trg d f _
@[simp] theorem Dev.puti_flt (f : Fld) (v : Int) : (d.puti f v).flt = d.flt := Dev.put_flt d f _
@[simp] theorem Dev.puti_slk (f : Fld) (v : Int) : (d.puti f v).slk = d.slk := Dev.put_slk d f _
@[simp] theorem Dev.puti_pl (f : Fld) (v : Int) : (d.puti f v).pl = d.pl := Dev.put_pl d f _
@[simp] theorem Dev.puti_stc (f : Fld) (v : Int) : (d.puti f v).stc = d.stc := Dev.put_stc d f _
@[simp] theorem Dev.puti_seg (f : Fld) (v : Int) : (d.puti f v).seg = d.seg := Dev.put_seg d f _
@[simp] theorem Dev.puti_mrk (f : Fld) (v : Int) : (d.puti f v).mrk = d.mrk := Dev.put_mrk d f _
@[simp] theorem Dev.puti_cdc (f : Fld) (v : Int) : (d.puti f v).cdc = d.cdc := Dev.put_cdc d f _
@[simp] theorem Dev.puti_net (f : Fld) (v : Int) : (d.puti f v).net = d.net := Dev.put_net d f _
@[simp] theorem Dev.puti_mer (f : Fld) (v : Int) : (d.puti f v).mer = d.mer := Dev.put_mer d f _
@[simp] theorem Dev.puti_drc (f : Fld) (v : Int) : (d.puti f v).drc = d.drc := Dev.put_drc d f _
@[simp] theorem Dev.puti_que (f : Fld) (v : Int) : (d.puti f v).que = d.que := Dev.put_que d f _
@[simp] theorem Dev.puti_dma (f : Fld) (v : Int) : (d.puti f v).dma = d.dma := Dev.put_dma d f _
@[simp] theorem Dev.puti_icu (f : Fld) (v : Int) : (d.puti f v).icu = d.icu := Dev.put_icu d f _
@[simp] theorem Dev.puti_evt (f : Fld) (v : Int) : (d.puti f v).evt = d.evt := Dev.put_evt d f _
@[simp] theorem Dev.puti_pwr (f : Fld) (v : Int) : (d.puti f v).pwr = d.pwr := Dev.put_pwr d f _
@[simp] theorem Dev.puti_chn (f : Fld) (v : Int) : (d.puti f v).chn = d.chn := Dev.put_chn d f _
@[simp] theorem Dev.puti_svc (f : Fld) (v : Int) : (d.puti f v).svc = d.svc := Dev.put_svc d f _
@[simp] theorem Dev.puti_spr (f : Fld) (v : Int) : (d.puti f v).spr = d.spr := Dev.put_spr d f _
@[simp] theorem Dev.puti_alm (f : Fld) (v : Int) : (d.puti f v).alm = d.alm := Dev.put_alm d f _
@[simp] theorem Dev.puti_otp (f : Fld) (v : Int) : (d.puti f v).otp = d.otp := Dev.put_otp d f _
@[simp] theorem Dev.puti_restart (f : Fld) (v : Int) : (d.puti f v).restart = d.restart := Dev.put_restart d f _

@[simp] theorem Dev.putSat_hi (f : Fld) (v : Int) : (d.putSat f v).hi = d.hi := Dev.puti_hi d f _
@[simp] theorem Dev.putSat_staged (f : Fld) (v : Int) : (d.putSat f v).staged = d.staged := Dev.puti_staged d f _
@[simp] theorem Dev.putSat_rdata (f : Fld) (v : Int) : (d.putSat f v).rdata = d.rdata := Dev.puti_rdata d f _
@[simp] theorem Dev.putSat_now (f : Fld) (v : Int) : (d.putSat f v).now = d.now := Dev.puti_now d f _
@[simp] theorem Dev.putSat_draws (f : Fld) (v : Int) : (d.putSat f v).draws = d.draws := Dev.puti_draws d f _
@[simp] theorem Dev.putSat_out (f : Fld) (v : Int) : (d.putSat f v).out = d.out := Dev.puti_out d f _
@[simp] theorem Dev.putSat_log (f : Fld) (v : Int) : (d.putSat f v).log = d.log := Dev.puti_log d f _
@[simp] theorem Dev.putSat_trg (f : Fld) (v : Int) : (d.putSat f v).trg = d.trg := Dev.puti_trg d f _
@[simp] theorem Dev.putSat_flt (f : Fld) (v : Int) : (d.putSat f v).flt = d.flt := Dev.puti_flt d f _
@[simp] theorem Dev.putSat_slk (f : Fld) (v : Int) : (d.putSat f v).slk = d.slk := Dev.puti_slk d f _
@[simp] theorem Dev.putSat_pl (f : Fld) (v : Int) : (d.putSat f v).pl = d.pl := Dev.puti_pl d f _
@[simp] theorem Dev.putSat_stc (f : Fld) (v : Int) : (d.putSat f v).stc = d.stc := Dev.puti_stc d f _
@[simp] theorem Dev.putSat_seg (f : Fld) (v : Int) : (d.putSat f v).seg = d.seg := Dev.puti_seg d f _
@[simp] theorem Dev.putSat_mrk (f : Fld) (v : Int) : (d.putSat f v).mrk = d.mrk := Dev.puti_mrk d f _
@[simp] theorem Dev.putSat_cdc (f : Fld) (v : Int) : (d.putSat f v).cdc = d.cdc := Dev.puti_cdc d f _
@[simp] theorem Dev.putSat_net (f : Fld) (v : Int) : (d.putSat f v).net = d.net := Dev.puti_net d f _
@[simp] theorem Dev.putSat_mer (f : Fld) (v : Int) : (d.putSat f v).mer = d.mer := Dev.puti_mer d f _
@[simp] theorem Dev.putSat_drc (f : Fld) (v : Int) : (d.putSat f v).drc = d.drc := Dev.puti_drc d f _
@[simp] theorem Dev.putSat_que (f : Fld) (v : Int) : (d.putSat f v).que = d.que := Dev.puti_que d f _
@[simp] theorem Dev.putSat_dma (f : Fld) (v : Int) : (d.putSat f v).dma = d.dma := Dev.puti_dma d f _
@[simp] theorem Dev.putSat_icu (f : Fld) (v : Int) : (d.putSat f v).icu = d.icu := Dev.puti_icu d f _
@[simp] theorem Dev.putSat_evt (f : Fld) (v : Int) : (d.putSat f v).evt = d.evt := Dev.puti_evt d f _
@[simp] theorem Dev.putSat_pwr (f : Fld) (v : Int) : (d.putSat f v).pwr = d.pwr := Dev.puti_pwr d f _
@[simp] theorem Dev.putSat_chn (f : Fld) (v : Int) : (d.putSat f v).chn = d.chn := Dev.puti_chn d f _
@[simp] theorem Dev.putSat_svc (f : Fld) (v : Int) : (d.putSat f v).svc = d.svc := Dev.puti_svc d f _
@[simp] theorem Dev.putSat_spr (f : Fld) (v : Int) : (d.putSat f v).spr = d.spr := Dev.puti_spr d f _
@[simp] theorem Dev.putSat_alm (f : Fld) (v : Int) : (d.putSat f v).alm = d.alm := Dev.puti_alm d f _
@[simp] theorem Dev.putSat_otp (f : Fld) (v : Int) : (d.putSat f v).otp = d.otp := Dev.puti_otp d f _
@[simp] theorem Dev.putSat_restart (f : Fld) (v : Int) : (d.putSat f v).restart = d.restart := Dev.puti_restart d f _

@[simp] theorem Dev.mark_hi (f : Fld) (b : Bool) : (d.mark f b).hi = d.hi := Dev.put_hi d f _
@[simp] theorem Dev.mark_staged (f : Fld) (b : Bool) : (d.mark f b).staged = d.staged := Dev.put_staged d f _
@[simp] theorem Dev.mark_rdata (f : Fld) (b : Bool) : (d.mark f b).rdata = d.rdata := Dev.put_rdata d f _
@[simp] theorem Dev.mark_now (f : Fld) (b : Bool) : (d.mark f b).now = d.now := Dev.put_now d f _
@[simp] theorem Dev.mark_draws (f : Fld) (b : Bool) : (d.mark f b).draws = d.draws := Dev.put_draws d f _
@[simp] theorem Dev.mark_out (f : Fld) (b : Bool) : (d.mark f b).out = d.out := Dev.put_out d f _
@[simp] theorem Dev.mark_log (f : Fld) (b : Bool) : (d.mark f b).log = d.log := Dev.put_log d f _
@[simp] theorem Dev.mark_trg (f : Fld) (b : Bool) : (d.mark f b).trg = d.trg := Dev.put_trg d f _
@[simp] theorem Dev.mark_flt (f : Fld) (b : Bool) : (d.mark f b).flt = d.flt := Dev.put_flt d f _
@[simp] theorem Dev.mark_slk (f : Fld) (b : Bool) : (d.mark f b).slk = d.slk := Dev.put_slk d f _
@[simp] theorem Dev.mark_pl (f : Fld) (b : Bool) : (d.mark f b).pl = d.pl := Dev.put_pl d f _
@[simp] theorem Dev.mark_stc (f : Fld) (b : Bool) : (d.mark f b).stc = d.stc := Dev.put_stc d f _
@[simp] theorem Dev.mark_seg (f : Fld) (b : Bool) : (d.mark f b).seg = d.seg := Dev.put_seg d f _
@[simp] theorem Dev.mark_mrk (f : Fld) (b : Bool) : (d.mark f b).mrk = d.mrk := Dev.put_mrk d f _
@[simp] theorem Dev.mark_cdc (f : Fld) (b : Bool) : (d.mark f b).cdc = d.cdc := Dev.put_cdc d f _
@[simp] theorem Dev.mark_net (f : Fld) (b : Bool) : (d.mark f b).net = d.net := Dev.put_net d f _
@[simp] theorem Dev.mark_mer (f : Fld) (b : Bool) : (d.mark f b).mer = d.mer := Dev.put_mer d f _
@[simp] theorem Dev.mark_drc (f : Fld) (b : Bool) : (d.mark f b).drc = d.drc := Dev.put_drc d f _
@[simp] theorem Dev.mark_que (f : Fld) (b : Bool) : (d.mark f b).que = d.que := Dev.put_que d f _
@[simp] theorem Dev.mark_dma (f : Fld) (b : Bool) : (d.mark f b).dma = d.dma := Dev.put_dma d f _
@[simp] theorem Dev.mark_icu (f : Fld) (b : Bool) : (d.mark f b).icu = d.icu := Dev.put_icu d f _
@[simp] theorem Dev.mark_evt (f : Fld) (b : Bool) : (d.mark f b).evt = d.evt := Dev.put_evt d f _
@[simp] theorem Dev.mark_pwr (f : Fld) (b : Bool) : (d.mark f b).pwr = d.pwr := Dev.put_pwr d f _
@[simp] theorem Dev.mark_chn (f : Fld) (b : Bool) : (d.mark f b).chn = d.chn := Dev.put_chn d f _
@[simp] theorem Dev.mark_svc (f : Fld) (b : Bool) : (d.mark f b).svc = d.svc := Dev.put_svc d f _
@[simp] theorem Dev.mark_spr (f : Fld) (b : Bool) : (d.mark f b).spr = d.spr := Dev.put_spr d f _
@[simp] theorem Dev.mark_alm (f : Fld) (b : Bool) : (d.mark f b).alm = d.alm := Dev.put_alm d f _
@[simp] theorem Dev.mark_otp (f : Fld) (b : Bool) : (d.mark f b).otp = d.otp := Dev.put_otp d f _
@[simp] theorem Dev.mark_restart (f : Fld) (b : Bool) : (d.mark f b).restart = d.restart := Dev.put_restart d f _

@[simp] theorem Dev.bump_hi (f : Fld) (k : Nat) : (d.bump f k).hi = d.hi := Dev.put_hi d f _
@[simp] theorem Dev.bump_staged (f : Fld) (k : Nat) : (d.bump f k).staged = d.staged := Dev.put_staged d f _
@[simp] theorem Dev.bump_rdata (f : Fld) (k : Nat) : (d.bump f k).rdata = d.rdata := Dev.put_rdata d f _
@[simp] theorem Dev.bump_now (f : Fld) (k : Nat) : (d.bump f k).now = d.now := Dev.put_now d f _
@[simp] theorem Dev.bump_draws (f : Fld) (k : Nat) : (d.bump f k).draws = d.draws := Dev.put_draws d f _
@[simp] theorem Dev.bump_out (f : Fld) (k : Nat) : (d.bump f k).out = d.out := Dev.put_out d f _
@[simp] theorem Dev.bump_log (f : Fld) (k : Nat) : (d.bump f k).log = d.log := Dev.put_log d f _
@[simp] theorem Dev.bump_trg (f : Fld) (k : Nat) : (d.bump f k).trg = d.trg := Dev.put_trg d f _
@[simp] theorem Dev.bump_flt (f : Fld) (k : Nat) : (d.bump f k).flt = d.flt := Dev.put_flt d f _
@[simp] theorem Dev.bump_slk (f : Fld) (k : Nat) : (d.bump f k).slk = d.slk := Dev.put_slk d f _
@[simp] theorem Dev.bump_pl (f : Fld) (k : Nat) : (d.bump f k).pl = d.pl := Dev.put_pl d f _
@[simp] theorem Dev.bump_stc (f : Fld) (k : Nat) : (d.bump f k).stc = d.stc := Dev.put_stc d f _
@[simp] theorem Dev.bump_seg (f : Fld) (k : Nat) : (d.bump f k).seg = d.seg := Dev.put_seg d f _
@[simp] theorem Dev.bump_mrk (f : Fld) (k : Nat) : (d.bump f k).mrk = d.mrk := Dev.put_mrk d f _
@[simp] theorem Dev.bump_cdc (f : Fld) (k : Nat) : (d.bump f k).cdc = d.cdc := Dev.put_cdc d f _
@[simp] theorem Dev.bump_net (f : Fld) (k : Nat) : (d.bump f k).net = d.net := Dev.put_net d f _
@[simp] theorem Dev.bump_mer (f : Fld) (k : Nat) : (d.bump f k).mer = d.mer := Dev.put_mer d f _
@[simp] theorem Dev.bump_drc (f : Fld) (k : Nat) : (d.bump f k).drc = d.drc := Dev.put_drc d f _
@[simp] theorem Dev.bump_que (f : Fld) (k : Nat) : (d.bump f k).que = d.que := Dev.put_que d f _
@[simp] theorem Dev.bump_dma (f : Fld) (k : Nat) : (d.bump f k).dma = d.dma := Dev.put_dma d f _
@[simp] theorem Dev.bump_icu (f : Fld) (k : Nat) : (d.bump f k).icu = d.icu := Dev.put_icu d f _
@[simp] theorem Dev.bump_evt (f : Fld) (k : Nat) : (d.bump f k).evt = d.evt := Dev.put_evt d f _
@[simp] theorem Dev.bump_pwr (f : Fld) (k : Nat) : (d.bump f k).pwr = d.pwr := Dev.put_pwr d f _
@[simp] theorem Dev.bump_chn (f : Fld) (k : Nat) : (d.bump f k).chn = d.chn := Dev.put_chn d f _
@[simp] theorem Dev.bump_svc (f : Fld) (k : Nat) : (d.bump f k).svc = d.svc := Dev.put_svc d f _
@[simp] theorem Dev.bump_spr (f : Fld) (k : Nat) : (d.bump f k).spr = d.spr := Dev.put_spr d f _
@[simp] theorem Dev.bump_alm (f : Fld) (k : Nat) : (d.bump f k).alm = d.alm := Dev.put_alm d f _
@[simp] theorem Dev.bump_otp (f : Fld) (k : Nat) : (d.bump f k).otp = d.otp := Dev.put_otp d f _
@[simp] theorem Dev.bump_restart (f : Fld) (k : Nat) : (d.bump f k).restart = d.restart := Dev.put_restart d f _

@[simp] theorem Dev.inc_hi (f : Fld) : (d.inc f).hi = d.hi := Dev.put_hi d f _
@[simp] theorem Dev.inc_staged (f : Fld) : (d.inc f).staged = d.staged := Dev.put_staged d f _
@[simp] theorem Dev.inc_rdata (f : Fld) : (d.inc f).rdata = d.rdata := Dev.put_rdata d f _
@[simp] theorem Dev.inc_now (f : Fld) : (d.inc f).now = d.now := Dev.put_now d f _
@[simp] theorem Dev.inc_draws (f : Fld) : (d.inc f).draws = d.draws := Dev.put_draws d f _
@[simp] theorem Dev.inc_out (f : Fld) : (d.inc f).out = d.out := Dev.put_out d f _
@[simp] theorem Dev.inc_log (f : Fld) : (d.inc f).log = d.log := Dev.put_log d f _
@[simp] theorem Dev.inc_trg (f : Fld) : (d.inc f).trg = d.trg := Dev.put_trg d f _
@[simp] theorem Dev.inc_flt (f : Fld) : (d.inc f).flt = d.flt := Dev.put_flt d f _
@[simp] theorem Dev.inc_slk (f : Fld) : (d.inc f).slk = d.slk := Dev.put_slk d f _
@[simp] theorem Dev.inc_pl (f : Fld) : (d.inc f).pl = d.pl := Dev.put_pl d f _
@[simp] theorem Dev.inc_stc (f : Fld) : (d.inc f).stc = d.stc := Dev.put_stc d f _
@[simp] theorem Dev.inc_seg (f : Fld) : (d.inc f).seg = d.seg := Dev.put_seg d f _
@[simp] theorem Dev.inc_mrk (f : Fld) : (d.inc f).mrk = d.mrk := Dev.put_mrk d f _
@[simp] theorem Dev.inc_cdc (f : Fld) : (d.inc f).cdc = d.cdc := Dev.put_cdc d f _
@[simp] theorem Dev.inc_net (f : Fld) : (d.inc f).net = d.net := Dev.put_net d f _
@[simp] theorem Dev.inc_mer (f : Fld) : (d.inc f).mer = d.mer := Dev.put_mer d f _
@[simp] theorem Dev.inc_drc (f : Fld) : (d.inc f).drc = d.drc := Dev.put_drc d f _
@[simp] theorem Dev.inc_que (f : Fld) : (d.inc f).que = d.que := Dev.put_que d f _
@[simp] theorem Dev.inc_dma (f : Fld) : (d.inc f).dma = d.dma := Dev.put_dma d f _
@[simp] theorem Dev.inc_icu (f : Fld) : (d.inc f).icu = d.icu := Dev.put_icu d f _
@[simp] theorem Dev.inc_evt (f : Fld) : (d.inc f).evt = d.evt := Dev.put_evt d f _
@[simp] theorem Dev.inc_pwr (f : Fld) : (d.inc f).pwr = d.pwr := Dev.put_pwr d f _
@[simp] theorem Dev.inc_chn (f : Fld) : (d.inc f).chn = d.chn := Dev.put_chn d f _
@[simp] theorem Dev.inc_svc (f : Fld) : (d.inc f).svc = d.svc := Dev.put_svc d f _
@[simp] theorem Dev.inc_spr (f : Fld) : (d.inc f).spr = d.spr := Dev.put_spr d f _
@[simp] theorem Dev.inc_alm (f : Fld) : (d.inc f).alm = d.alm := Dev.put_alm d f _
@[simp] theorem Dev.inc_otp (f : Fld) : (d.inc f).otp = d.otp := Dev.put_otp d f _
@[simp] theorem Dev.inc_restart (f : Fld) : (d.inc f).restart = d.restart := Dev.put_restart d f _

@[simp] theorem Dev.stage_regs (a : Nat) (x : Word) : (d.stage a x).regs = d.regs := rfl
@[simp] theorem Dev.stage_hi (a : Nat) (x : Word) : (d.stage a x).hi = d.hi := rfl
@[simp] theorem Dev.stage_rdata (a : Nat) (x : Word) : (d.stage a x).rdata = d.rdata := rfl
@[simp] theorem Dev.stage_now (a : Nat) (x : Word) : (d.stage a x).now = d.now := rfl
@[simp] theorem Dev.stage_draws (a : Nat) (x : Word) : (d.stage a x).draws = d.draws := rfl
@[simp] theorem Dev.stage_out (a : Nat) (x : Word) : (d.stage a x).out = d.out := rfl
@[simp] theorem Dev.stage_log (a : Nat) (x : Word) : (d.stage a x).log = d.log := rfl
@[simp] theorem Dev.stage_trg (a : Nat) (x : Word) : (d.stage a x).trg = d.trg := rfl
@[simp] theorem Dev.stage_flt (a : Nat) (x : Word) : (d.stage a x).flt = d.flt := rfl
@[simp] theorem Dev.stage_slk (a : Nat) (x : Word) : (d.stage a x).slk = d.slk := rfl
@[simp] theorem Dev.stage_pl (a : Nat) (x : Word) : (d.stage a x).pl = d.pl := rfl
@[simp] theorem Dev.stage_stc (a : Nat) (x : Word) : (d.stage a x).stc = d.stc := rfl
@[simp] theorem Dev.stage_seg (a : Nat) (x : Word) : (d.stage a x).seg = d.seg := rfl
@[simp] theorem Dev.stage_mrk (a : Nat) (x : Word) : (d.stage a x).mrk = d.mrk := rfl
@[simp] theorem Dev.stage_cdc (a : Nat) (x : Word) : (d.stage a x).cdc = d.cdc := rfl
@[simp] theorem Dev.stage_net (a : Nat) (x : Word) : (d.stage a x).net = d.net := rfl
@[simp] theorem Dev.stage_mer (a : Nat) (x : Word) : (d.stage a x).mer = d.mer := rfl
@[simp] theorem Dev.stage_drc (a : Nat) (x : Word) : (d.stage a x).drc = d.drc := rfl
@[simp] theorem Dev.stage_que (a : Nat) (x : Word) : (d.stage a x).que = d.que := rfl
@[simp] theorem Dev.stage_dma (a : Nat) (x : Word) : (d.stage a x).dma = d.dma := rfl
@[simp] theorem Dev.stage_icu (a : Nat) (x : Word) : (d.stage a x).icu = d.icu := rfl
@[simp] theorem Dev.stage_evt (a : Nat) (x : Word) : (d.stage a x).evt = d.evt := rfl
@[simp] theorem Dev.stage_pwr (a : Nat) (x : Word) : (d.stage a x).pwr = d.pwr := rfl
@[simp] theorem Dev.stage_chn (a : Nat) (x : Word) : (d.stage a x).chn = d.chn := rfl
@[simp] theorem Dev.stage_svc (a : Nat) (x : Word) : (d.stage a x).svc = d.svc := rfl
@[simp] theorem Dev.stage_spr (a : Nat) (x : Word) : (d.stage a x).spr = d.spr := rfl
@[simp] theorem Dev.stage_alm (a : Nat) (x : Word) : (d.stage a x).alm = d.alm := rfl
@[simp] theorem Dev.stage_otp (a : Nat) (x : Word) : (d.stage a x).otp = d.otp := rfl
@[simp] theorem Dev.stage_restart (a : Nat) (x : Word) : (d.stage a x).restart = d.restart := rfl

@[simp] theorem Dev.unstage_regs (a : Nat) : (d.unstage a).regs = d.regs := rfl
@[simp] theorem Dev.unstage_hi (a : Nat) : (d.unstage a).hi = d.hi := rfl
@[simp] theorem Dev.unstage_rdata (a : Nat) : (d.unstage a).rdata = d.rdata := rfl
@[simp] theorem Dev.unstage_now (a : Nat) : (d.unstage a).now = d.now := rfl
@[simp] theorem Dev.unstage_draws (a : Nat) : (d.unstage a).draws = d.draws := rfl
@[simp] theorem Dev.unstage_out (a : Nat) : (d.unstage a).out = d.out := rfl
@[simp] theorem Dev.unstage_log (a : Nat) : (d.unstage a).log = d.log := rfl
@[simp] theorem Dev.unstage_trg (a : Nat) : (d.unstage a).trg = d.trg := rfl
@[simp] theorem Dev.unstage_flt (a : Nat) : (d.unstage a).flt = d.flt := rfl
@[simp] theorem Dev.unstage_slk (a : Nat) : (d.unstage a).slk = d.slk := rfl
@[simp] theorem Dev.unstage_pl (a : Nat) : (d.unstage a).pl = d.pl := rfl
@[simp] theorem Dev.unstage_stc (a : Nat) : (d.unstage a).stc = d.stc := rfl
@[simp] theorem Dev.unstage_seg (a : Nat) : (d.unstage a).seg = d.seg := rfl
@[simp] theorem Dev.unstage_mrk (a : Nat) : (d.unstage a).mrk = d.mrk := rfl
@[simp] theorem Dev.unstage_cdc (a : Nat) : (d.unstage a).cdc = d.cdc := rfl
@[simp] theorem Dev.unstage_net (a : Nat) : (d.unstage a).net = d.net := rfl
@[simp] theorem Dev.unstage_mer (a : Nat) : (d.unstage a).mer = d.mer := rfl
@[simp] theorem Dev.unstage_drc (a : Nat) : (d.unstage a).drc = d.drc := rfl
@[simp] theorem Dev.unstage_que (a : Nat) : (d.unstage a).que = d.que := rfl
@[simp] theorem Dev.unstage_dma (a : Nat) : (d.unstage a).dma = d.dma := rfl
@[simp] theorem Dev.unstage_icu (a : Nat) : (d.unstage a).icu = d.icu := rfl
@[simp] theorem Dev.unstage_evt (a : Nat) : (d.unstage a).evt = d.evt := rfl
@[simp] theorem Dev.unstage_pwr (a : Nat) : (d.unstage a).pwr = d.pwr := rfl
@[simp] theorem Dev.unstage_chn (a : Nat) : (d.unstage a).chn = d.chn := rfl
@[simp] theorem Dev.unstage_svc (a : Nat) : (d.unstage a).svc = d.svc := rfl
@[simp] theorem Dev.unstage_spr (a : Nat) : (d.unstage a).spr = d.spr := rfl
@[simp] theorem Dev.unstage_alm (a : Nat) : (d.unstage a).alm = d.alm := rfl
@[simp] theorem Dev.unstage_otp (a : Nat) : (d.unstage a).otp = d.otp := rfl
@[simp] theorem Dev.unstage_restart (a : Nat) : (d.unstage a).restart = d.restart := rfl

@[simp] theorem Dev.emit_regs (o : Out) : (d.emit o).regs = d.regs := rfl
@[simp] theorem Dev.emit_hi (o : Out) : (d.emit o).hi = d.hi := rfl
@[simp] theorem Dev.emit_staged (o : Out) : (d.emit o).staged = d.staged := rfl
@[simp] theorem Dev.emit_rdata (o : Out) : (d.emit o).rdata = d.rdata := rfl
@[simp] theorem Dev.emit_now (o : Out) : (d.emit o).now = d.now := rfl
@[simp] theorem Dev.emit_draws (o : Out) : (d.emit o).draws = d.draws := rfl
@[simp] theorem Dev.emit_log (o : Out) : (d.emit o).log = d.log := rfl
@[simp] theorem Dev.emit_trg (o : Out) : (d.emit o).trg = d.trg := rfl
@[simp] theorem Dev.emit_flt (o : Out) : (d.emit o).flt = d.flt := rfl
@[simp] theorem Dev.emit_slk (o : Out) : (d.emit o).slk = d.slk := rfl
@[simp] theorem Dev.emit_pl (o : Out) : (d.emit o).pl = d.pl := rfl
@[simp] theorem Dev.emit_stc (o : Out) : (d.emit o).stc = d.stc := rfl
@[simp] theorem Dev.emit_seg (o : Out) : (d.emit o).seg = d.seg := rfl
@[simp] theorem Dev.emit_mrk (o : Out) : (d.emit o).mrk = d.mrk := rfl
@[simp] theorem Dev.emit_cdc (o : Out) : (d.emit o).cdc = d.cdc := rfl
@[simp] theorem Dev.emit_net (o : Out) : (d.emit o).net = d.net := rfl
@[simp] theorem Dev.emit_mer (o : Out) : (d.emit o).mer = d.mer := rfl
@[simp] theorem Dev.emit_drc (o : Out) : (d.emit o).drc = d.drc := rfl
@[simp] theorem Dev.emit_que (o : Out) : (d.emit o).que = d.que := rfl
@[simp] theorem Dev.emit_dma (o : Out) : (d.emit o).dma = d.dma := rfl
@[simp] theorem Dev.emit_icu (o : Out) : (d.emit o).icu = d.icu := rfl
@[simp] theorem Dev.emit_evt (o : Out) : (d.emit o).evt = d.evt := rfl
@[simp] theorem Dev.emit_pwr (o : Out) : (d.emit o).pwr = d.pwr := rfl
@[simp] theorem Dev.emit_chn (o : Out) : (d.emit o).chn = d.chn := rfl
@[simp] theorem Dev.emit_svc (o : Out) : (d.emit o).svc = d.svc := rfl
@[simp] theorem Dev.emit_spr (o : Out) : (d.emit o).spr = d.spr := rfl
@[simp] theorem Dev.emit_alm (o : Out) : (d.emit o).alm = d.alm := rfl
@[simp] theorem Dev.emit_otp (o : Out) : (d.emit o).otp = d.otp := rfl
@[simp] theorem Dev.emit_restart (o : Out) : (d.emit o).restart = d.restart := rfl

@[simp] theorem Dev.draw_regs  : (d.draw.2).regs = d.regs := rfl
@[simp] theorem Dev.draw_hi  : (d.draw.2).hi = d.hi := rfl
@[simp] theorem Dev.draw_staged  : (d.draw.2).staged = d.staged := rfl
@[simp] theorem Dev.draw_rdata  : (d.draw.2).rdata = d.rdata := rfl
@[simp] theorem Dev.draw_now  : (d.draw.2).now = d.now := rfl
@[simp] theorem Dev.draw_out  : (d.draw.2).out = d.out := rfl
@[simp] theorem Dev.draw_log  : (d.draw.2).log = d.log := rfl
@[simp] theorem Dev.draw_trg  : (d.draw.2).trg = d.trg := rfl
@[simp] theorem Dev.draw_flt  : (d.draw.2).flt = d.flt := rfl
@[simp] theorem Dev.draw_slk  : (d.draw.2).slk = d.slk := rfl
@[simp] theorem Dev.draw_pl  : (d.draw.2).pl = d.pl := rfl
@[simp] theorem Dev.draw_stc  : (d.draw.2).stc = d.stc := rfl
@[simp] theorem Dev.draw_seg  : (d.draw.2).seg = d.seg := rfl
@[simp] theorem Dev.draw_mrk  : (d.draw.2).mrk = d.mrk := rfl
@[simp] theorem Dev.draw_cdc  : (d.draw.2).cdc = d.cdc := rfl
@[simp] theorem Dev.draw_net  : (d.draw.2).net = d.net := rfl
@[simp] theorem Dev.draw_mer  : (d.draw.2).mer = d.mer := rfl
@[simp] theorem Dev.draw_drc  : (d.draw.2).drc = d.drc := rfl
@[simp] theorem Dev.draw_que  : (d.draw.2).que = d.que := rfl
@[simp] theorem Dev.draw_dma  : (d.draw.2).dma = d.dma := rfl
@[simp] theorem Dev.draw_icu  : (d.draw.2).icu = d.icu := rfl
@[simp] theorem Dev.draw_evt  : (d.draw.2).evt = d.evt := rfl
@[simp] theorem Dev.draw_pwr  : (d.draw.2).pwr = d.pwr := rfl
@[simp] theorem Dev.draw_chn  : (d.draw.2).chn = d.chn := rfl
@[simp] theorem Dev.draw_svc  : (d.draw.2).svc = d.svc := rfl
@[simp] theorem Dev.draw_spr  : (d.draw.2).spr = d.spr := rfl
@[simp] theorem Dev.draw_alm  : (d.draw.2).alm = d.alm := rfl
@[simp] theorem Dev.draw_otp  : (d.draw.2).otp = d.otp := rfl
@[simp] theorem Dev.draw_restart  : (d.draw.2).restart = d.restart := rfl

@[simp] theorem Dev.setEvch_regs (k : Nat) (c : EvtChan) : (d.setEvch k c).regs = d.regs := rfl
@[simp] theorem Dev.setEvch_hi (k : Nat) (c : EvtChan) : (d.setEvch k c).hi = d.hi := rfl
@[simp] theorem Dev.setEvch_staged (k : Nat) (c : EvtChan) : (d.setEvch k c).staged = d.staged := rfl
@[simp] theorem Dev.setEvch_rdata (k : Nat) (c : EvtChan) : (d.setEvch k c).rdata = d.rdata := rfl
@[simp] theorem Dev.setEvch_now (k : Nat) (c : EvtChan) : (d.setEvch k c).now = d.now := rfl
@[simp] theorem Dev.setEvch_draws (k : Nat) (c : EvtChan) : (d.setEvch k c).draws = d.draws := rfl
@[simp] theorem Dev.setEvch_out (k : Nat) (c : EvtChan) : (d.setEvch k c).out = d.out := rfl
@[simp] theorem Dev.setEvch_log (k : Nat) (c : EvtChan) : (d.setEvch k c).log = d.log := rfl
@[simp] theorem Dev.setEvch_trg (k : Nat) (c : EvtChan) : (d.setEvch k c).trg = d.trg := rfl
@[simp] theorem Dev.setEvch_flt (k : Nat) (c : EvtChan) : (d.setEvch k c).flt = d.flt := rfl
@[simp] theorem Dev.setEvch_slk (k : Nat) (c : EvtChan) : (d.setEvch k c).slk = d.slk := rfl
@[simp] theorem Dev.setEvch_pl (k : Nat) (c : EvtChan) : (d.setEvch k c).pl = d.pl := rfl
@[simp] theorem Dev.setEvch_stc (k : Nat) (c : EvtChan) : (d.setEvch k c).stc = d.stc := rfl
@[simp] theorem Dev.setEvch_seg (k : Nat) (c : EvtChan) : (d.setEvch k c).seg = d.seg := rfl
@[simp] theorem Dev.setEvch_mrk (k : Nat) (c : EvtChan) : (d.setEvch k c).mrk = d.mrk := rfl
@[simp] theorem Dev.setEvch_cdc (k : Nat) (c : EvtChan) : (d.setEvch k c).cdc = d.cdc := rfl
@[simp] theorem Dev.setEvch_net (k : Nat) (c : EvtChan) : (d.setEvch k c).net = d.net := rfl
@[simp] theorem Dev.setEvch_mer (k : Nat) (c : EvtChan) : (d.setEvch k c).mer = d.mer := rfl
@[simp] theorem Dev.setEvch_drc (k : Nat) (c : EvtChan) : (d.setEvch k c).drc = d.drc := rfl
@[simp] theorem Dev.setEvch_que (k : Nat) (c : EvtChan) : (d.setEvch k c).que = d.que := rfl
@[simp] theorem Dev.setEvch_dma (k : Nat) (c : EvtChan) : (d.setEvch k c).dma = d.dma := rfl
@[simp] theorem Dev.setEvch_icu (k : Nat) (c : EvtChan) : (d.setEvch k c).icu = d.icu := rfl
@[simp] theorem Dev.setEvch_pwr (k : Nat) (c : EvtChan) : (d.setEvch k c).pwr = d.pwr := rfl
@[simp] theorem Dev.setEvch_chn (k : Nat) (c : EvtChan) : (d.setEvch k c).chn = d.chn := rfl
@[simp] theorem Dev.setEvch_svc (k : Nat) (c : EvtChan) : (d.setEvch k c).svc = d.svc := rfl
@[simp] theorem Dev.setEvch_spr (k : Nat) (c : EvtChan) : (d.setEvch k c).spr = d.spr := rfl
@[simp] theorem Dev.setEvch_alm (k : Nat) (c : EvtChan) : (d.setEvch k c).alm = d.alm := rfl
@[simp] theorem Dev.setEvch_otp (k : Nat) (c : EvtChan) : (d.setEvch k c).otp = d.otp := rfl
@[simp] theorem Dev.setEvch_restart (k : Nat) (c : EvtChan) : (d.setEvch k c).restart = d.restart := rfl

/-- `e` is `d` with only its registers and its event channels changed. -/
def Dev.RegsEvt (d e : Dev) : Prop := e = { d with regs := e.regs, evt := e.evt }

theorem Dev.RegsEvt.refl : d.RegsEvt d := rfl
theorem Dev.RegsEvt.trans {a b c : Dev} (h : a.RegsEvt b) (g : b.RegsEvt c) : a.RegsEvt c := by
  unfold Dev.RegsEvt at *; rw [g, h]
theorem Dev.regsEvt_setReg (a : Nat) (x : Word) : d.RegsEvt (d.setReg a x) := rfl
theorem Dev.regsEvt_setEvch (k : Nat) (c : EvtChan) : d.RegsEvt (d.setEvch k c) := rfl
theorem Dev.regsEvt_put (f : Fld) (v : Nat) : d.RegsEvt (d.put f v) := by unfold Dev.put; split <;> rfl
theorem Dev.regsEvt_mark (f : Fld) (b : Bool) : d.RegsEvt (d.mark f b) := d.regsEvt_put f _
theorem Dev.regsEvt_inc (f : Fld) : d.RegsEvt (d.inc f) := d.regsEvt_put f _
theorem Dev.regsEvt_evMerge (k t : Nat) : d.RegsEvt (d.evMerge k t) := by
  unfold Dev.evMerge
  dsimp only
  split
  · exact ((((d.regsEvt_setEvch _ _).trans (Dev.regsEvt_mark _ _ _)).trans (Dev.regsEvt_mark _ _ _)).trans
      (Dev.regsEvt_put _ _ _)).trans (Dev.regsEvt_put _ _ _)
  · exact d.regsEvt_setEvch _ _
theorem Dev.regsEvt_publishRaw (k c : Nat) : d.RegsEvt (d.publishRaw k c) := by
  unfold Dev.publishRaw
  dsimp only
  split
  · exact d.regsEvt_inc _
  · split
    · exact d.regsEvt_inc _
    · split
      · exact ((d.regsEvt_setEvch _ _).trans (Dev.regsEvt_inc _ _)).trans (Dev.regsEvt_evMerge _ _ _)
      · generalize (match (d.evch k).lastAt with | some l => l + d.evSpacing k | none => 0) = n
        split
        · exact d.regsEvt_setEvch _ _
        · exact (((d.regsEvt_setEvch _ _).trans (Dev.regsEvt_mark _ _ _)).trans (Dev.regsEvt_inc _ _)).trans
            (Dev.regsEvt_evMerge _ _ _)
theorem Dev.regsEvt_memberRiseOnce (i b : Nat) : d.RegsEvt (d.memberRiseOnce i b) := by
  unfold Dev.memberRiseOnce
  dsimp only
  split
  · exact Dev.RegsEvt.refl d
  · split
    · exact (d.regsEvt_put _ _).trans (Dev.regsEvt_publishRaw _ _ _)
    · exact d.regsEvt_put _ _
theorem Dev.regsEvt_memberRise (i b : Nat) : d.RegsEvt (d.memberRise i b) := by
  unfold Dev.memberRise
  dsimp only
  split
  · exact (d.regsEvt_memberRiseOnce _ _).trans (Dev.regsEvt_memberRiseOnce _ _ _)
  · exact d.regsEvt_memberRiseOnce _ _
theorem Dev.regsEvt_raise (f : Fld) : d.RegsEvt (d.raise f) := by
  unfold Dev.raise
  split
  · exact Dev.RegsEvt.refl d
  · dsimp only
    split
    · exact (d.regsEvt_put _ _).trans (Dev.regsEvt_memberRise _ _ _)
    · exact d.regsEvt_put _ _
theorem Dev.regsEvt_raiseDone (f : Fld) (i w : Bool) : d.RegsEvt (d.raiseDone f i w) := by
  unfold Dev.raiseDone
  dsimp only
  split
  · split
    · exact (d.regsEvt_put _ _).trans (Dev.regsEvt_memberRise _ _ _)
    · exact d.regsEvt_put _ _
  · exact d.regsEvt_put _ _
theorem Dev.regsEvt_raiseIf (b : Bool) (f : Fld) : d.RegsEvt (d.raiseIf b f) := by
  unfold Dev.raiseIf
  split
  · exact d.regsEvt_raise f
  · exact Dev.RegsEvt.refl d
theorem Dev.regsEvt_publish (k c : Nat) : d.RegsEvt (d.publish k c) := by
  unfold Dev.publish
  dsimp only
  split
  · exact (d.regsEvt_publishRaw _ _).trans (Dev.regsEvt_memberRise _ _ _)
  · exact d.regsEvt_publishRaw _ _
theorem Dev.regsEvt_accessErr (a : Nat) : d.RegsEvt (d.accessErr a) :=
  ((d.regsEvt_raise _).trans (Dev.regsEvt_put _ _ _)).trans (Dev.regsEvt_inc _ _)

theorem Dev.RegsEvt.keeps_hi {d e : Dev} (h : d.RegsEvt e) : e.hi = d.hi := by rw [h]
theorem Dev.RegsEvt.keeps_staged {d e : Dev} (h : d.RegsEvt e) : e.staged = d.staged := by rw [h]
theorem Dev.RegsEvt.keeps_rdata {d e : Dev} (h : d.RegsEvt e) : e.rdata = d.rdata := by rw [h]
theorem Dev.RegsEvt.keeps_now {d e : Dev} (h : d.RegsEvt e) : e.now = d.now := by rw [h]
theorem Dev.RegsEvt.keeps_draws {d e : Dev} (h : d.RegsEvt e) : e.draws = d.draws := by rw [h]
theorem Dev.RegsEvt.keeps_out {d e : Dev} (h : d.RegsEvt e) : e.out = d.out := by rw [h]
theorem Dev.RegsEvt.keeps_log {d e : Dev} (h : d.RegsEvt e) : e.log = d.log := by rw [h]
theorem Dev.RegsEvt.keeps_trg {d e : Dev} (h : d.RegsEvt e) : e.trg = d.trg := by rw [h]
theorem Dev.RegsEvt.keeps_flt {d e : Dev} (h : d.RegsEvt e) : e.flt = d.flt := by rw [h]
theorem Dev.RegsEvt.keeps_slk {d e : Dev} (h : d.RegsEvt e) : e.slk = d.slk := by rw [h]
theorem Dev.RegsEvt.keeps_pl {d e : Dev} (h : d.RegsEvt e) : e.pl = d.pl := by rw [h]
theorem Dev.RegsEvt.keeps_stc {d e : Dev} (h : d.RegsEvt e) : e.stc = d.stc := by rw [h]
theorem Dev.RegsEvt.keeps_seg {d e : Dev} (h : d.RegsEvt e) : e.seg = d.seg := by rw [h]
theorem Dev.RegsEvt.keeps_mrk {d e : Dev} (h : d.RegsEvt e) : e.mrk = d.mrk := by rw [h]
theorem Dev.RegsEvt.keeps_cdc {d e : Dev} (h : d.RegsEvt e) : e.cdc = d.cdc := by rw [h]
theorem Dev.RegsEvt.keeps_net {d e : Dev} (h : d.RegsEvt e) : e.net = d.net := by rw [h]
theorem Dev.RegsEvt.keeps_mer {d e : Dev} (h : d.RegsEvt e) : e.mer = d.mer := by rw [h]
theorem Dev.RegsEvt.keeps_drc {d e : Dev} (h : d.RegsEvt e) : e.drc = d.drc := by rw [h]
theorem Dev.RegsEvt.keeps_que {d e : Dev} (h : d.RegsEvt e) : e.que = d.que := by rw [h]
theorem Dev.RegsEvt.keeps_dma {d e : Dev} (h : d.RegsEvt e) : e.dma = d.dma := by rw [h]
theorem Dev.RegsEvt.keeps_icu {d e : Dev} (h : d.RegsEvt e) : e.icu = d.icu := by rw [h]
theorem Dev.RegsEvt.keeps_pwr {d e : Dev} (h : d.RegsEvt e) : e.pwr = d.pwr := by rw [h]
theorem Dev.RegsEvt.keeps_chn {d e : Dev} (h : d.RegsEvt e) : e.chn = d.chn := by rw [h]
theorem Dev.RegsEvt.keeps_svc {d e : Dev} (h : d.RegsEvt e) : e.svc = d.svc := by rw [h]
theorem Dev.RegsEvt.keeps_spr {d e : Dev} (h : d.RegsEvt e) : e.spr = d.spr := by rw [h]
theorem Dev.RegsEvt.keeps_alm {d e : Dev} (h : d.RegsEvt e) : e.alm = d.alm := by rw [h]
theorem Dev.RegsEvt.keeps_otp {d e : Dev} (h : d.RegsEvt e) : e.otp = d.otp := by rw [h]
theorem Dev.RegsEvt.keeps_restart {d e : Dev} (h : d.RegsEvt e) : e.restart = d.restart := by rw [h]

@[simp] theorem Dev.evMerge_hi (k t : Nat) : (d.evMerge k t).hi = d.hi := (d.regsEvt_evMerge k t).keeps_hi
@[simp] theorem Dev.evMerge_staged (k t : Nat) : (d.evMerge k t).staged = d.staged := (d.regsEvt_evMerge k t).keeps_staged
@[simp] theorem Dev.evMerge_rdata (k t : Nat) : (d.evMerge k t).rdata = d.rdata := (d.regsEvt_evMerge k t).keeps_rdata
@[simp] theorem Dev.evMerge_now (k t : Nat) : (d.evMerge k t).now = d.now := (d.regsEvt_evMerge k t).keeps_now
@[simp] theorem Dev.evMerge_draws (k t : Nat) : (d.evMerge k t).draws = d.draws := (d.regsEvt_evMerge k t).keeps_draws
@[simp] theorem Dev.evMerge_out (k t : Nat) : (d.evMerge k t).out = d.out := (d.regsEvt_evMerge k t).keeps_out
@[simp] theorem Dev.evMerge_log (k t : Nat) : (d.evMerge k t).log = d.log := (d.regsEvt_evMerge k t).keeps_log
@[simp] theorem Dev.evMerge_trg (k t : Nat) : (d.evMerge k t).trg = d.trg := (d.regsEvt_evMerge k t).keeps_trg
@[simp] theorem Dev.evMerge_flt (k t : Nat) : (d.evMerge k t).flt = d.flt := (d.regsEvt_evMerge k t).keeps_flt
@[simp] theorem Dev.evMerge_slk (k t : Nat) : (d.evMerge k t).slk = d.slk := (d.regsEvt_evMerge k t).keeps_slk
@[simp] theorem Dev.evMerge_pl (k t : Nat) : (d.evMerge k t).pl = d.pl := (d.regsEvt_evMerge k t).keeps_pl
@[simp] theorem Dev.evMerge_stc (k t : Nat) : (d.evMerge k t).stc = d.stc := (d.regsEvt_evMerge k t).keeps_stc
@[simp] theorem Dev.evMerge_seg (k t : Nat) : (d.evMerge k t).seg = d.seg := (d.regsEvt_evMerge k t).keeps_seg
@[simp] theorem Dev.evMerge_mrk (k t : Nat) : (d.evMerge k t).mrk = d.mrk := (d.regsEvt_evMerge k t).keeps_mrk
@[simp] theorem Dev.evMerge_cdc (k t : Nat) : (d.evMerge k t).cdc = d.cdc := (d.regsEvt_evMerge k t).keeps_cdc
@[simp] theorem Dev.evMerge_net (k t : Nat) : (d.evMerge k t).net = d.net := (d.regsEvt_evMerge k t).keeps_net
@[simp] theorem Dev.evMerge_mer (k t : Nat) : (d.evMerge k t).mer = d.mer := (d.regsEvt_evMerge k t).keeps_mer
@[simp] theorem Dev.evMerge_drc (k t : Nat) : (d.evMerge k t).drc = d.drc := (d.regsEvt_evMerge k t).keeps_drc
@[simp] theorem Dev.evMerge_que (k t : Nat) : (d.evMerge k t).que = d.que := (d.regsEvt_evMerge k t).keeps_que
@[simp] theorem Dev.evMerge_dma (k t : Nat) : (d.evMerge k t).dma = d.dma := (d.regsEvt_evMerge k t).keeps_dma
@[simp] theorem Dev.evMerge_icu (k t : Nat) : (d.evMerge k t).icu = d.icu := (d.regsEvt_evMerge k t).keeps_icu
@[simp] theorem Dev.evMerge_pwr (k t : Nat) : (d.evMerge k t).pwr = d.pwr := (d.regsEvt_evMerge k t).keeps_pwr
@[simp] theorem Dev.evMerge_chn (k t : Nat) : (d.evMerge k t).chn = d.chn := (d.regsEvt_evMerge k t).keeps_chn
@[simp] theorem Dev.evMerge_svc (k t : Nat) : (d.evMerge k t).svc = d.svc := (d.regsEvt_evMerge k t).keeps_svc
@[simp] theorem Dev.evMerge_spr (k t : Nat) : (d.evMerge k t).spr = d.spr := (d.regsEvt_evMerge k t).keeps_spr
@[simp] theorem Dev.evMerge_alm (k t : Nat) : (d.evMerge k t).alm = d.alm := (d.regsEvt_evMerge k t).keeps_alm
@[simp] theorem Dev.evMerge_otp (k t : Nat) : (d.evMerge k t).otp = d.otp := (d.regsEvt_evMerge k t).keeps_otp
@[simp] theorem Dev.evMerge_restart (k t : Nat) : (d.evMerge k t).restart = d.restart := (d.regsEvt_evMerge k t).keeps_restart

@[simp] theorem Dev.publishRaw_hi (k c : Nat) : (d.publishRaw k c).hi = d.hi := (d.regsEvt_publishRaw k c).keeps_hi
@[simp] theorem Dev.publishRaw_staged (k c : Nat) : (d.publishRaw k c).staged = d.staged := (d.regsEvt_publishRaw k c).keeps_staged
@[simp] theorem Dev.publishRaw_rdata (k c : Nat) : (d.publishRaw k c).rdata = d.rdata := (d.regsEvt_publishRaw k c).keeps_rdata
@[simp] theorem Dev.publishRaw_now (k c : Nat) : (d.publishRaw k c).now = d.now := (d.regsEvt_publishRaw k c).keeps_now
@[simp] theorem Dev.publishRaw_draws (k c : Nat) : (d.publishRaw k c).draws = d.draws := (d.regsEvt_publishRaw k c).keeps_draws
@[simp] theorem Dev.publishRaw_out (k c : Nat) : (d.publishRaw k c).out = d.out := (d.regsEvt_publishRaw k c).keeps_out
@[simp] theorem Dev.publishRaw_log (k c : Nat) : (d.publishRaw k c).log = d.log := (d.regsEvt_publishRaw k c).keeps_log
@[simp] theorem Dev.publishRaw_trg (k c : Nat) : (d.publishRaw k c).trg = d.trg := (d.regsEvt_publishRaw k c).keeps_trg
@[simp] theorem Dev.publishRaw_flt (k c : Nat) : (d.publishRaw k c).flt = d.flt := (d.regsEvt_publishRaw k c).keeps_flt
@[simp] theorem Dev.publishRaw_slk (k c : Nat) : (d.publishRaw k c).slk = d.slk := (d.regsEvt_publishRaw k c).keeps_slk
@[simp] theorem Dev.publishRaw_pl (k c : Nat) : (d.publishRaw k c).pl = d.pl := (d.regsEvt_publishRaw k c).keeps_pl
@[simp] theorem Dev.publishRaw_stc (k c : Nat) : (d.publishRaw k c).stc = d.stc := (d.regsEvt_publishRaw k c).keeps_stc
@[simp] theorem Dev.publishRaw_seg (k c : Nat) : (d.publishRaw k c).seg = d.seg := (d.regsEvt_publishRaw k c).keeps_seg
@[simp] theorem Dev.publishRaw_mrk (k c : Nat) : (d.publishRaw k c).mrk = d.mrk := (d.regsEvt_publishRaw k c).keeps_mrk
@[simp] theorem Dev.publishRaw_cdc (k c : Nat) : (d.publishRaw k c).cdc = d.cdc := (d.regsEvt_publishRaw k c).keeps_cdc
@[simp] theorem Dev.publishRaw_net (k c : Nat) : (d.publishRaw k c).net = d.net := (d.regsEvt_publishRaw k c).keeps_net
@[simp] theorem Dev.publishRaw_mer (k c : Nat) : (d.publishRaw k c).mer = d.mer := (d.regsEvt_publishRaw k c).keeps_mer
@[simp] theorem Dev.publishRaw_drc (k c : Nat) : (d.publishRaw k c).drc = d.drc := (d.regsEvt_publishRaw k c).keeps_drc
@[simp] theorem Dev.publishRaw_que (k c : Nat) : (d.publishRaw k c).que = d.que := (d.regsEvt_publishRaw k c).keeps_que
@[simp] theorem Dev.publishRaw_dma (k c : Nat) : (d.publishRaw k c).dma = d.dma := (d.regsEvt_publishRaw k c).keeps_dma
@[simp] theorem Dev.publishRaw_icu (k c : Nat) : (d.publishRaw k c).icu = d.icu := (d.regsEvt_publishRaw k c).keeps_icu
@[simp] theorem Dev.publishRaw_pwr (k c : Nat) : (d.publishRaw k c).pwr = d.pwr := (d.regsEvt_publishRaw k c).keeps_pwr
@[simp] theorem Dev.publishRaw_chn (k c : Nat) : (d.publishRaw k c).chn = d.chn := (d.regsEvt_publishRaw k c).keeps_chn
@[simp] theorem Dev.publishRaw_svc (k c : Nat) : (d.publishRaw k c).svc = d.svc := (d.regsEvt_publishRaw k c).keeps_svc
@[simp] theorem Dev.publishRaw_spr (k c : Nat) : (d.publishRaw k c).spr = d.spr := (d.regsEvt_publishRaw k c).keeps_spr
@[simp] theorem Dev.publishRaw_alm (k c : Nat) : (d.publishRaw k c).alm = d.alm := (d.regsEvt_publishRaw k c).keeps_alm
@[simp] theorem Dev.publishRaw_otp (k c : Nat) : (d.publishRaw k c).otp = d.otp := (d.regsEvt_publishRaw k c).keeps_otp
@[simp] theorem Dev.publishRaw_restart (k c : Nat) : (d.publishRaw k c).restart = d.restart := (d.regsEvt_publishRaw k c).keeps_restart

@[simp] theorem Dev.memberRiseOnce_hi (i b : Nat) : (d.memberRiseOnce i b).hi = d.hi := (d.regsEvt_memberRiseOnce i b).keeps_hi
@[simp] theorem Dev.memberRiseOnce_staged (i b : Nat) : (d.memberRiseOnce i b).staged = d.staged := (d.regsEvt_memberRiseOnce i b).keeps_staged
@[simp] theorem Dev.memberRiseOnce_rdata (i b : Nat) : (d.memberRiseOnce i b).rdata = d.rdata := (d.regsEvt_memberRiseOnce i b).keeps_rdata
@[simp] theorem Dev.memberRiseOnce_now (i b : Nat) : (d.memberRiseOnce i b).now = d.now := (d.regsEvt_memberRiseOnce i b).keeps_now
@[simp] theorem Dev.memberRiseOnce_draws (i b : Nat) : (d.memberRiseOnce i b).draws = d.draws := (d.regsEvt_memberRiseOnce i b).keeps_draws
@[simp] theorem Dev.memberRiseOnce_out (i b : Nat) : (d.memberRiseOnce i b).out = d.out := (d.regsEvt_memberRiseOnce i b).keeps_out
@[simp] theorem Dev.memberRiseOnce_log (i b : Nat) : (d.memberRiseOnce i b).log = d.log := (d.regsEvt_memberRiseOnce i b).keeps_log
@[simp] theorem Dev.memberRiseOnce_trg (i b : Nat) : (d.memberRiseOnce i b).trg = d.trg := (d.regsEvt_memberRiseOnce i b).keeps_trg
@[simp] theorem Dev.memberRiseOnce_flt (i b : Nat) : (d.memberRiseOnce i b).flt = d.flt := (d.regsEvt_memberRiseOnce i b).keeps_flt
@[simp] theorem Dev.memberRiseOnce_slk (i b : Nat) : (d.memberRiseOnce i b).slk = d.slk := (d.regsEvt_memberRiseOnce i b).keeps_slk
@[simp] theorem Dev.memberRiseOnce_pl (i b : Nat) : (d.memberRiseOnce i b).pl = d.pl := (d.regsEvt_memberRiseOnce i b).keeps_pl
@[simp] theorem Dev.memberRiseOnce_stc (i b : Nat) : (d.memberRiseOnce i b).stc = d.stc := (d.regsEvt_memberRiseOnce i b).keeps_stc
@[simp] theorem Dev.memberRiseOnce_seg (i b : Nat) : (d.memberRiseOnce i b).seg = d.seg := (d.regsEvt_memberRiseOnce i b).keeps_seg
@[simp] theorem Dev.memberRiseOnce_mrk (i b : Nat) : (d.memberRiseOnce i b).mrk = d.mrk := (d.regsEvt_memberRiseOnce i b).keeps_mrk
@[simp] theorem Dev.memberRiseOnce_cdc (i b : Nat) : (d.memberRiseOnce i b).cdc = d.cdc := (d.regsEvt_memberRiseOnce i b).keeps_cdc
@[simp] theorem Dev.memberRiseOnce_net (i b : Nat) : (d.memberRiseOnce i b).net = d.net := (d.regsEvt_memberRiseOnce i b).keeps_net
@[simp] theorem Dev.memberRiseOnce_mer (i b : Nat) : (d.memberRiseOnce i b).mer = d.mer := (d.regsEvt_memberRiseOnce i b).keeps_mer
@[simp] theorem Dev.memberRiseOnce_drc (i b : Nat) : (d.memberRiseOnce i b).drc = d.drc := (d.regsEvt_memberRiseOnce i b).keeps_drc
@[simp] theorem Dev.memberRiseOnce_que (i b : Nat) : (d.memberRiseOnce i b).que = d.que := (d.regsEvt_memberRiseOnce i b).keeps_que
@[simp] theorem Dev.memberRiseOnce_dma (i b : Nat) : (d.memberRiseOnce i b).dma = d.dma := (d.regsEvt_memberRiseOnce i b).keeps_dma
@[simp] theorem Dev.memberRiseOnce_icu (i b : Nat) : (d.memberRiseOnce i b).icu = d.icu := (d.regsEvt_memberRiseOnce i b).keeps_icu
@[simp] theorem Dev.memberRiseOnce_pwr (i b : Nat) : (d.memberRiseOnce i b).pwr = d.pwr := (d.regsEvt_memberRiseOnce i b).keeps_pwr
@[simp] theorem Dev.memberRiseOnce_chn (i b : Nat) : (d.memberRiseOnce i b).chn = d.chn := (d.regsEvt_memberRiseOnce i b).keeps_chn
@[simp] theorem Dev.memberRiseOnce_svc (i b : Nat) : (d.memberRiseOnce i b).svc = d.svc := (d.regsEvt_memberRiseOnce i b).keeps_svc
@[simp] theorem Dev.memberRiseOnce_spr (i b : Nat) : (d.memberRiseOnce i b).spr = d.spr := (d.regsEvt_memberRiseOnce i b).keeps_spr
@[simp] theorem Dev.memberRiseOnce_alm (i b : Nat) : (d.memberRiseOnce i b).alm = d.alm := (d.regsEvt_memberRiseOnce i b).keeps_alm
@[simp] theorem Dev.memberRiseOnce_otp (i b : Nat) : (d.memberRiseOnce i b).otp = d.otp := (d.regsEvt_memberRiseOnce i b).keeps_otp
@[simp] theorem Dev.memberRiseOnce_restart (i b : Nat) : (d.memberRiseOnce i b).restart = d.restart := (d.regsEvt_memberRiseOnce i b).keeps_restart

@[simp] theorem Dev.memberRise_hi (i b : Nat) : (d.memberRise i b).hi = d.hi := (d.regsEvt_memberRise i b).keeps_hi
@[simp] theorem Dev.memberRise_staged (i b : Nat) : (d.memberRise i b).staged = d.staged := (d.regsEvt_memberRise i b).keeps_staged
@[simp] theorem Dev.memberRise_rdata (i b : Nat) : (d.memberRise i b).rdata = d.rdata := (d.regsEvt_memberRise i b).keeps_rdata
@[simp] theorem Dev.memberRise_now (i b : Nat) : (d.memberRise i b).now = d.now := (d.regsEvt_memberRise i b).keeps_now
@[simp] theorem Dev.memberRise_draws (i b : Nat) : (d.memberRise i b).draws = d.draws := (d.regsEvt_memberRise i b).keeps_draws
@[simp] theorem Dev.memberRise_out (i b : Nat) : (d.memberRise i b).out = d.out := (d.regsEvt_memberRise i b).keeps_out
@[simp] theorem Dev.memberRise_log (i b : Nat) : (d.memberRise i b).log = d.log := (d.regsEvt_memberRise i b).keeps_log
@[simp] theorem Dev.memberRise_trg (i b : Nat) : (d.memberRise i b).trg = d.trg := (d.regsEvt_memberRise i b).keeps_trg
@[simp] theorem Dev.memberRise_flt (i b : Nat) : (d.memberRise i b).flt = d.flt := (d.regsEvt_memberRise i b).keeps_flt
@[simp] theorem Dev.memberRise_slk (i b : Nat) : (d.memberRise i b).slk = d.slk := (d.regsEvt_memberRise i b).keeps_slk
@[simp] theorem Dev.memberRise_pl (i b : Nat) : (d.memberRise i b).pl = d.pl := (d.regsEvt_memberRise i b).keeps_pl
@[simp] theorem Dev.memberRise_stc (i b : Nat) : (d.memberRise i b).stc = d.stc := (d.regsEvt_memberRise i b).keeps_stc
@[simp] theorem Dev.memberRise_seg (i b : Nat) : (d.memberRise i b).seg = d.seg := (d.regsEvt_memberRise i b).keeps_seg
@[simp] theorem Dev.memberRise_mrk (i b : Nat) : (d.memberRise i b).mrk = d.mrk := (d.regsEvt_memberRise i b).keeps_mrk
@[simp] theorem Dev.memberRise_cdc (i b : Nat) : (d.memberRise i b).cdc = d.cdc := (d.regsEvt_memberRise i b).keeps_cdc
@[simp] theorem Dev.memberRise_net (i b : Nat) : (d.memberRise i b).net = d.net := (d.regsEvt_memberRise i b).keeps_net
@[simp] theorem Dev.memberRise_mer (i b : Nat) : (d.memberRise i b).mer = d.mer := (d.regsEvt_memberRise i b).keeps_mer
@[simp] theorem Dev.memberRise_drc (i b : Nat) : (d.memberRise i b).drc = d.drc := (d.regsEvt_memberRise i b).keeps_drc
@[simp] theorem Dev.memberRise_que (i b : Nat) : (d.memberRise i b).que = d.que := (d.regsEvt_memberRise i b).keeps_que
@[simp] theorem Dev.memberRise_dma (i b : Nat) : (d.memberRise i b).dma = d.dma := (d.regsEvt_memberRise i b).keeps_dma
@[simp] theorem Dev.memberRise_icu (i b : Nat) : (d.memberRise i b).icu = d.icu := (d.regsEvt_memberRise i b).keeps_icu
@[simp] theorem Dev.memberRise_pwr (i b : Nat) : (d.memberRise i b).pwr = d.pwr := (d.regsEvt_memberRise i b).keeps_pwr
@[simp] theorem Dev.memberRise_chn (i b : Nat) : (d.memberRise i b).chn = d.chn := (d.regsEvt_memberRise i b).keeps_chn
@[simp] theorem Dev.memberRise_svc (i b : Nat) : (d.memberRise i b).svc = d.svc := (d.regsEvt_memberRise i b).keeps_svc
@[simp] theorem Dev.memberRise_spr (i b : Nat) : (d.memberRise i b).spr = d.spr := (d.regsEvt_memberRise i b).keeps_spr
@[simp] theorem Dev.memberRise_alm (i b : Nat) : (d.memberRise i b).alm = d.alm := (d.regsEvt_memberRise i b).keeps_alm
@[simp] theorem Dev.memberRise_otp (i b : Nat) : (d.memberRise i b).otp = d.otp := (d.regsEvt_memberRise i b).keeps_otp
@[simp] theorem Dev.memberRise_restart (i b : Nat) : (d.memberRise i b).restart = d.restart := (d.regsEvt_memberRise i b).keeps_restart

@[simp] theorem Dev.raise_hi (f : Fld) : (d.raise f).hi = d.hi := (d.regsEvt_raise f).keeps_hi
@[simp] theorem Dev.raise_staged (f : Fld) : (d.raise f).staged = d.staged := (d.regsEvt_raise f).keeps_staged
@[simp] theorem Dev.raise_rdata (f : Fld) : (d.raise f).rdata = d.rdata := (d.regsEvt_raise f).keeps_rdata
@[simp] theorem Dev.raise_now (f : Fld) : (d.raise f).now = d.now := (d.regsEvt_raise f).keeps_now
@[simp] theorem Dev.raise_draws (f : Fld) : (d.raise f).draws = d.draws := (d.regsEvt_raise f).keeps_draws
@[simp] theorem Dev.raise_out (f : Fld) : (d.raise f).out = d.out := (d.regsEvt_raise f).keeps_out
@[simp] theorem Dev.raise_log (f : Fld) : (d.raise f).log = d.log := (d.regsEvt_raise f).keeps_log
@[simp] theorem Dev.raise_trg (f : Fld) : (d.raise f).trg = d.trg := (d.regsEvt_raise f).keeps_trg
@[simp] theorem Dev.raise_flt (f : Fld) : (d.raise f).flt = d.flt := (d.regsEvt_raise f).keeps_flt
@[simp] theorem Dev.raise_slk (f : Fld) : (d.raise f).slk = d.slk := (d.regsEvt_raise f).keeps_slk
@[simp] theorem Dev.raise_pl (f : Fld) : (d.raise f).pl = d.pl := (d.regsEvt_raise f).keeps_pl
@[simp] theorem Dev.raise_stc (f : Fld) : (d.raise f).stc = d.stc := (d.regsEvt_raise f).keeps_stc
@[simp] theorem Dev.raise_seg (f : Fld) : (d.raise f).seg = d.seg := (d.regsEvt_raise f).keeps_seg
@[simp] theorem Dev.raise_mrk (f : Fld) : (d.raise f).mrk = d.mrk := (d.regsEvt_raise f).keeps_mrk
@[simp] theorem Dev.raise_cdc (f : Fld) : (d.raise f).cdc = d.cdc := (d.regsEvt_raise f).keeps_cdc
@[simp] theorem Dev.raise_net (f : Fld) : (d.raise f).net = d.net := (d.regsEvt_raise f).keeps_net
@[simp] theorem Dev.raise_mer (f : Fld) : (d.raise f).mer = d.mer := (d.regsEvt_raise f).keeps_mer
@[simp] theorem Dev.raise_drc (f : Fld) : (d.raise f).drc = d.drc := (d.regsEvt_raise f).keeps_drc
@[simp] theorem Dev.raise_que (f : Fld) : (d.raise f).que = d.que := (d.regsEvt_raise f).keeps_que
@[simp] theorem Dev.raise_dma (f : Fld) : (d.raise f).dma = d.dma := (d.regsEvt_raise f).keeps_dma
@[simp] theorem Dev.raise_icu (f : Fld) : (d.raise f).icu = d.icu := (d.regsEvt_raise f).keeps_icu
@[simp] theorem Dev.raise_pwr (f : Fld) : (d.raise f).pwr = d.pwr := (d.regsEvt_raise f).keeps_pwr
@[simp] theorem Dev.raise_chn (f : Fld) : (d.raise f).chn = d.chn := (d.regsEvt_raise f).keeps_chn
@[simp] theorem Dev.raise_svc (f : Fld) : (d.raise f).svc = d.svc := (d.regsEvt_raise f).keeps_svc
@[simp] theorem Dev.raise_spr (f : Fld) : (d.raise f).spr = d.spr := (d.regsEvt_raise f).keeps_spr
@[simp] theorem Dev.raise_alm (f : Fld) : (d.raise f).alm = d.alm := (d.regsEvt_raise f).keeps_alm
@[simp] theorem Dev.raise_otp (f : Fld) : (d.raise f).otp = d.otp := (d.regsEvt_raise f).keeps_otp
@[simp] theorem Dev.raise_restart (f : Fld) : (d.raise f).restart = d.restart := (d.regsEvt_raise f).keeps_restart

@[simp] theorem Dev.raiseIf_hi (b : Bool) (f : Fld) : (d.raiseIf b f).hi = d.hi := (d.regsEvt_raiseIf b f).keeps_hi
@[simp] theorem Dev.raiseIf_staged (b : Bool) (f : Fld) : (d.raiseIf b f).staged = d.staged := (d.regsEvt_raiseIf b f).keeps_staged
@[simp] theorem Dev.raiseIf_rdata (b : Bool) (f : Fld) : (d.raiseIf b f).rdata = d.rdata := (d.regsEvt_raiseIf b f).keeps_rdata
@[simp] theorem Dev.raiseIf_now (b : Bool) (f : Fld) : (d.raiseIf b f).now = d.now := (d.regsEvt_raiseIf b f).keeps_now
@[simp] theorem Dev.raiseIf_draws (b : Bool) (f : Fld) : (d.raiseIf b f).draws = d.draws := (d.regsEvt_raiseIf b f).keeps_draws
@[simp] theorem Dev.raiseIf_out (b : Bool) (f : Fld) : (d.raiseIf b f).out = d.out := (d.regsEvt_raiseIf b f).keeps_out
@[simp] theorem Dev.raiseIf_log (b : Bool) (f : Fld) : (d.raiseIf b f).log = d.log := (d.regsEvt_raiseIf b f).keeps_log
@[simp] theorem Dev.raiseIf_trg (b : Bool) (f : Fld) : (d.raiseIf b f).trg = d.trg := (d.regsEvt_raiseIf b f).keeps_trg
@[simp] theorem Dev.raiseIf_flt (b : Bool) (f : Fld) : (d.raiseIf b f).flt = d.flt := (d.regsEvt_raiseIf b f).keeps_flt
@[simp] theorem Dev.raiseIf_slk (b : Bool) (f : Fld) : (d.raiseIf b f).slk = d.slk := (d.regsEvt_raiseIf b f).keeps_slk
@[simp] theorem Dev.raiseIf_pl (b : Bool) (f : Fld) : (d.raiseIf b f).pl = d.pl := (d.regsEvt_raiseIf b f).keeps_pl
@[simp] theorem Dev.raiseIf_stc (b : Bool) (f : Fld) : (d.raiseIf b f).stc = d.stc := (d.regsEvt_raiseIf b f).keeps_stc
@[simp] theorem Dev.raiseIf_seg (b : Bool) (f : Fld) : (d.raiseIf b f).seg = d.seg := (d.regsEvt_raiseIf b f).keeps_seg
@[simp] theorem Dev.raiseIf_mrk (b : Bool) (f : Fld) : (d.raiseIf b f).mrk = d.mrk := (d.regsEvt_raiseIf b f).keeps_mrk
@[simp] theorem Dev.raiseIf_cdc (b : Bool) (f : Fld) : (d.raiseIf b f).cdc = d.cdc := (d.regsEvt_raiseIf b f).keeps_cdc
@[simp] theorem Dev.raiseIf_net (b : Bool) (f : Fld) : (d.raiseIf b f).net = d.net := (d.regsEvt_raiseIf b f).keeps_net
@[simp] theorem Dev.raiseIf_mer (b : Bool) (f : Fld) : (d.raiseIf b f).mer = d.mer := (d.regsEvt_raiseIf b f).keeps_mer
@[simp] theorem Dev.raiseIf_drc (b : Bool) (f : Fld) : (d.raiseIf b f).drc = d.drc := (d.regsEvt_raiseIf b f).keeps_drc
@[simp] theorem Dev.raiseIf_que (b : Bool) (f : Fld) : (d.raiseIf b f).que = d.que := (d.regsEvt_raiseIf b f).keeps_que
@[simp] theorem Dev.raiseIf_dma (b : Bool) (f : Fld) : (d.raiseIf b f).dma = d.dma := (d.regsEvt_raiseIf b f).keeps_dma
@[simp] theorem Dev.raiseIf_icu (b : Bool) (f : Fld) : (d.raiseIf b f).icu = d.icu := (d.regsEvt_raiseIf b f).keeps_icu
@[simp] theorem Dev.raiseIf_pwr (b : Bool) (f : Fld) : (d.raiseIf b f).pwr = d.pwr := (d.regsEvt_raiseIf b f).keeps_pwr
@[simp] theorem Dev.raiseIf_chn (b : Bool) (f : Fld) : (d.raiseIf b f).chn = d.chn := (d.regsEvt_raiseIf b f).keeps_chn
@[simp] theorem Dev.raiseIf_svc (b : Bool) (f : Fld) : (d.raiseIf b f).svc = d.svc := (d.regsEvt_raiseIf b f).keeps_svc
@[simp] theorem Dev.raiseIf_spr (b : Bool) (f : Fld) : (d.raiseIf b f).spr = d.spr := (d.regsEvt_raiseIf b f).keeps_spr
@[simp] theorem Dev.raiseIf_alm (b : Bool) (f : Fld) : (d.raiseIf b f).alm = d.alm := (d.regsEvt_raiseIf b f).keeps_alm
@[simp] theorem Dev.raiseIf_otp (b : Bool) (f : Fld) : (d.raiseIf b f).otp = d.otp := (d.regsEvt_raiseIf b f).keeps_otp
@[simp] theorem Dev.raiseIf_restart (b : Bool) (f : Fld) : (d.raiseIf b f).restart = d.restart := (d.regsEvt_raiseIf b f).keeps_restart

@[simp] theorem Dev.raiseDone_hi (f : Fld) (i w : Bool) : (d.raiseDone f i w).hi = d.hi := (d.regsEvt_raiseDone f i w).keeps_hi
@[simp] theorem Dev.raiseDone_staged (f : Fld) (i w : Bool) : (d.raiseDone f i w).staged = d.staged := (d.regsEvt_raiseDone f i w).keeps_staged
@[simp] theorem Dev.raiseDone_rdata (f : Fld) (i w : Bool) : (d.raiseDone f i w).rdata = d.rdata := (d.regsEvt_raiseDone f i w).keeps_rdata
@[simp] theorem Dev.raiseDone_now (f : Fld) (i w : Bool) : (d.raiseDone f i w).now = d.now := (d.regsEvt_raiseDone f i w).keeps_now
@[simp] theorem Dev.raiseDone_draws (f : Fld) (i w : Bool) : (d.raiseDone f i w).draws = d.draws := (d.regsEvt_raiseDone f i w).keeps_draws
@[simp] theorem Dev.raiseDone_out (f : Fld) (i w : Bool) : (d.raiseDone f i w).out = d.out := (d.regsEvt_raiseDone f i w).keeps_out
@[simp] theorem Dev.raiseDone_log (f : Fld) (i w : Bool) : (d.raiseDone f i w).log = d.log := (d.regsEvt_raiseDone f i w).keeps_log
@[simp] theorem Dev.raiseDone_trg (f : Fld) (i w : Bool) : (d.raiseDone f i w).trg = d.trg := (d.regsEvt_raiseDone f i w).keeps_trg
@[simp] theorem Dev.raiseDone_flt (f : Fld) (i w : Bool) : (d.raiseDone f i w).flt = d.flt := (d.regsEvt_raiseDone f i w).keeps_flt
@[simp] theorem Dev.raiseDone_slk (f : Fld) (i w : Bool) : (d.raiseDone f i w).slk = d.slk := (d.regsEvt_raiseDone f i w).keeps_slk
@[simp] theorem Dev.raiseDone_pl (f : Fld) (i w : Bool) : (d.raiseDone f i w).pl = d.pl := (d.regsEvt_raiseDone f i w).keeps_pl
@[simp] theorem Dev.raiseDone_stc (f : Fld) (i w : Bool) : (d.raiseDone f i w).stc = d.stc := (d.regsEvt_raiseDone f i w).keeps_stc
@[simp] theorem Dev.raiseDone_seg (f : Fld) (i w : Bool) : (d.raiseDone f i w).seg = d.seg := (d.regsEvt_raiseDone f i w).keeps_seg
@[simp] theorem Dev.raiseDone_mrk (f : Fld) (i w : Bool) : (d.raiseDone f i w).mrk = d.mrk := (d.regsEvt_raiseDone f i w).keeps_mrk
@[simp] theorem Dev.raiseDone_cdc (f : Fld) (i w : Bool) : (d.raiseDone f i w).cdc = d.cdc := (d.regsEvt_raiseDone f i w).keeps_cdc
@[simp] theorem Dev.raiseDone_net (f : Fld) (i w : Bool) : (d.raiseDone f i w).net = d.net := (d.regsEvt_raiseDone f i w).keeps_net
@[simp] theorem Dev.raiseDone_mer (f : Fld) (i w : Bool) : (d.raiseDone f i w).mer = d.mer := (d.regsEvt_raiseDone f i w).keeps_mer
@[simp] theorem Dev.raiseDone_drc (f : Fld) (i w : Bool) : (d.raiseDone f i w).drc = d.drc := (d.regsEvt_raiseDone f i w).keeps_drc
@[simp] theorem Dev.raiseDone_que (f : Fld) (i w : Bool) : (d.raiseDone f i w).que = d.que := (d.regsEvt_raiseDone f i w).keeps_que
@[simp] theorem Dev.raiseDone_dma (f : Fld) (i w : Bool) : (d.raiseDone f i w).dma = d.dma := (d.regsEvt_raiseDone f i w).keeps_dma
@[simp] theorem Dev.raiseDone_icu (f : Fld) (i w : Bool) : (d.raiseDone f i w).icu = d.icu := (d.regsEvt_raiseDone f i w).keeps_icu
@[simp] theorem Dev.raiseDone_pwr (f : Fld) (i w : Bool) : (d.raiseDone f i w).pwr = d.pwr := (d.regsEvt_raiseDone f i w).keeps_pwr
@[simp] theorem Dev.raiseDone_chn (f : Fld) (i w : Bool) : (d.raiseDone f i w).chn = d.chn := (d.regsEvt_raiseDone f i w).keeps_chn
@[simp] theorem Dev.raiseDone_svc (f : Fld) (i w : Bool) : (d.raiseDone f i w).svc = d.svc := (d.regsEvt_raiseDone f i w).keeps_svc
@[simp] theorem Dev.raiseDone_spr (f : Fld) (i w : Bool) : (d.raiseDone f i w).spr = d.spr := (d.regsEvt_raiseDone f i w).keeps_spr
@[simp] theorem Dev.raiseDone_alm (f : Fld) (i w : Bool) : (d.raiseDone f i w).alm = d.alm := (d.regsEvt_raiseDone f i w).keeps_alm
@[simp] theorem Dev.raiseDone_otp (f : Fld) (i w : Bool) : (d.raiseDone f i w).otp = d.otp := (d.regsEvt_raiseDone f i w).keeps_otp
@[simp] theorem Dev.raiseDone_restart (f : Fld) (i w : Bool) : (d.raiseDone f i w).restart = d.restart := (d.regsEvt_raiseDone f i w).keeps_restart

@[simp] theorem Dev.publish_hi (k c : Nat) : (d.publish k c).hi = d.hi := (d.regsEvt_publish k c).keeps_hi
@[simp] theorem Dev.publish_staged (k c : Nat) : (d.publish k c).staged = d.staged := (d.regsEvt_publish k c).keeps_staged
@[simp] theorem Dev.publish_rdata (k c : Nat) : (d.publish k c).rdata = d.rdata := (d.regsEvt_publish k c).keeps_rdata
@[simp] theorem Dev.publish_now (k c : Nat) : (d.publish k c).now = d.now := (d.regsEvt_publish k c).keeps_now
@[simp] theorem Dev.publish_draws (k c : Nat) : (d.publish k c).draws = d.draws := (d.regsEvt_publish k c).keeps_draws
@[simp] theorem Dev.publish_out (k c : Nat) : (d.publish k c).out = d.out := (d.regsEvt_publish k c).keeps_out
@[simp] theorem Dev.publish_log (k c : Nat) : (d.publish k c).log = d.log := (d.regsEvt_publish k c).keeps_log
@[simp] theorem Dev.publish_trg (k c : Nat) : (d.publish k c).trg = d.trg := (d.regsEvt_publish k c).keeps_trg
@[simp] theorem Dev.publish_flt (k c : Nat) : (d.publish k c).flt = d.flt := (d.regsEvt_publish k c).keeps_flt
@[simp] theorem Dev.publish_slk (k c : Nat) : (d.publish k c).slk = d.slk := (d.regsEvt_publish k c).keeps_slk
@[simp] theorem Dev.publish_pl (k c : Nat) : (d.publish k c).pl = d.pl := (d.regsEvt_publish k c).keeps_pl
@[simp] theorem Dev.publish_stc (k c : Nat) : (d.publish k c).stc = d.stc := (d.regsEvt_publish k c).keeps_stc
@[simp] theorem Dev.publish_seg (k c : Nat) : (d.publish k c).seg = d.seg := (d.regsEvt_publish k c).keeps_seg
@[simp] theorem Dev.publish_mrk (k c : Nat) : (d.publish k c).mrk = d.mrk := (d.regsEvt_publish k c).keeps_mrk
@[simp] theorem Dev.publish_cdc (k c : Nat) : (d.publish k c).cdc = d.cdc := (d.regsEvt_publish k c).keeps_cdc
@[simp] theorem Dev.publish_net (k c : Nat) : (d.publish k c).net = d.net := (d.regsEvt_publish k c).keeps_net
@[simp] theorem Dev.publish_mer (k c : Nat) : (d.publish k c).mer = d.mer := (d.regsEvt_publish k c).keeps_mer
@[simp] theorem Dev.publish_drc (k c : Nat) : (d.publish k c).drc = d.drc := (d.regsEvt_publish k c).keeps_drc
@[simp] theorem Dev.publish_que (k c : Nat) : (d.publish k c).que = d.que := (d.regsEvt_publish k c).keeps_que
@[simp] theorem Dev.publish_dma (k c : Nat) : (d.publish k c).dma = d.dma := (d.regsEvt_publish k c).keeps_dma
@[simp] theorem Dev.publish_icu (k c : Nat) : (d.publish k c).icu = d.icu := (d.regsEvt_publish k c).keeps_icu
@[simp] theorem Dev.publish_pwr (k c : Nat) : (d.publish k c).pwr = d.pwr := (d.regsEvt_publish k c).keeps_pwr
@[simp] theorem Dev.publish_chn (k c : Nat) : (d.publish k c).chn = d.chn := (d.regsEvt_publish k c).keeps_chn
@[simp] theorem Dev.publish_svc (k c : Nat) : (d.publish k c).svc = d.svc := (d.regsEvt_publish k c).keeps_svc
@[simp] theorem Dev.publish_spr (k c : Nat) : (d.publish k c).spr = d.spr := (d.regsEvt_publish k c).keeps_spr
@[simp] theorem Dev.publish_alm (k c : Nat) : (d.publish k c).alm = d.alm := (d.regsEvt_publish k c).keeps_alm
@[simp] theorem Dev.publish_otp (k c : Nat) : (d.publish k c).otp = d.otp := (d.regsEvt_publish k c).keeps_otp
@[simp] theorem Dev.publish_restart (k c : Nat) : (d.publish k c).restart = d.restart := (d.regsEvt_publish k c).keeps_restart

@[simp] theorem Dev.accessErr_hi (a : Nat) : (d.accessErr a).hi = d.hi := (d.regsEvt_accessErr a).keeps_hi
@[simp] theorem Dev.accessErr_staged (a : Nat) : (d.accessErr a).staged = d.staged := (d.regsEvt_accessErr a).keeps_staged
@[simp] theorem Dev.accessErr_rdata (a : Nat) : (d.accessErr a).rdata = d.rdata := (d.regsEvt_accessErr a).keeps_rdata
@[simp] theorem Dev.accessErr_now (a : Nat) : (d.accessErr a).now = d.now := (d.regsEvt_accessErr a).keeps_now
@[simp] theorem Dev.accessErr_draws (a : Nat) : (d.accessErr a).draws = d.draws := (d.regsEvt_accessErr a).keeps_draws
@[simp] theorem Dev.accessErr_out (a : Nat) : (d.accessErr a).out = d.out := (d.regsEvt_accessErr a).keeps_out
@[simp] theorem Dev.accessErr_log (a : Nat) : (d.accessErr a).log = d.log := (d.regsEvt_accessErr a).keeps_log
@[simp] theorem Dev.accessErr_trg (a : Nat) : (d.accessErr a).trg = d.trg := (d.regsEvt_accessErr a).keeps_trg
@[simp] theorem Dev.accessErr_flt (a : Nat) : (d.accessErr a).flt = d.flt := (d.regsEvt_accessErr a).keeps_flt
@[simp] theorem Dev.accessErr_slk (a : Nat) : (d.accessErr a).slk = d.slk := (d.regsEvt_accessErr a).keeps_slk
@[simp] theorem Dev.accessErr_pl (a : Nat) : (d.accessErr a).pl = d.pl := (d.regsEvt_accessErr a).keeps_pl
@[simp] theorem Dev.accessErr_stc (a : Nat) : (d.accessErr a).stc = d.stc := (d.regsEvt_accessErr a).keeps_stc
@[simp] theorem Dev.accessErr_seg (a : Nat) : (d.accessErr a).seg = d.seg := (d.regsEvt_accessErr a).keeps_seg
@[simp] theorem Dev.accessErr_mrk (a : Nat) : (d.accessErr a).mrk = d.mrk := (d.regsEvt_accessErr a).keeps_mrk
@[simp] theorem Dev.accessErr_cdc (a : Nat) : (d.accessErr a).cdc = d.cdc := (d.regsEvt_accessErr a).keeps_cdc
@[simp] theorem Dev.accessErr_net (a : Nat) : (d.accessErr a).net = d.net := (d.regsEvt_accessErr a).keeps_net
@[simp] theorem Dev.accessErr_mer (a : Nat) : (d.accessErr a).mer = d.mer := (d.regsEvt_accessErr a).keeps_mer
@[simp] theorem Dev.accessErr_drc (a : Nat) : (d.accessErr a).drc = d.drc := (d.regsEvt_accessErr a).keeps_drc
@[simp] theorem Dev.accessErr_que (a : Nat) : (d.accessErr a).que = d.que := (d.regsEvt_accessErr a).keeps_que
@[simp] theorem Dev.accessErr_dma (a : Nat) : (d.accessErr a).dma = d.dma := (d.regsEvt_accessErr a).keeps_dma
@[simp] theorem Dev.accessErr_icu (a : Nat) : (d.accessErr a).icu = d.icu := (d.regsEvt_accessErr a).keeps_icu
@[simp] theorem Dev.accessErr_pwr (a : Nat) : (d.accessErr a).pwr = d.pwr := (d.regsEvt_accessErr a).keeps_pwr
@[simp] theorem Dev.accessErr_chn (a : Nat) : (d.accessErr a).chn = d.chn := (d.regsEvt_accessErr a).keeps_chn
@[simp] theorem Dev.accessErr_svc (a : Nat) : (d.accessErr a).svc = d.svc := (d.regsEvt_accessErr a).keeps_svc
@[simp] theorem Dev.accessErr_spr (a : Nat) : (d.accessErr a).spr = d.spr := (d.regsEvt_accessErr a).keeps_spr
@[simp] theorem Dev.accessErr_alm (a : Nat) : (d.accessErr a).alm = d.alm := (d.regsEvt_accessErr a).keeps_alm
@[simp] theorem Dev.accessErr_otp (a : Nat) : (d.accessErr a).otp = d.otp := (d.regsEvt_accessErr a).keeps_otp
@[simp] theorem Dev.accessErr_restart (a : Nat) : (d.accessErr a).restart = d.restart := (d.regsEvt_accessErr a).keeps_restart

@[simp] theorem Dev.runDevTime_hi (n : Nat) : (d.runDevTime n).hi = d.hi := by simp [Dev.runDevTime]
@[simp] theorem Dev.runDevTime_staged (n : Nat) : (d.runDevTime n).staged = d.staged := by simp [Dev.runDevTime]
@[simp] theorem Dev.runDevTime_rdata (n : Nat) : (d.runDevTime n).rdata = d.rdata := by simp [Dev.runDevTime]
@[simp] theorem Dev.runDevTime_now (n : Nat) : (d.runDevTime n).now = d.now := by simp [Dev.runDevTime]
@[simp] theorem Dev.runDevTime_draws (n : Nat) : (d.runDevTime n).draws = d.draws := by simp [Dev.runDevTime]
@[simp] theorem Dev.runDevTime_out (n : Nat) : (d.runDevTime n).out = d.out := by simp [Dev.runDevTime]
@[simp] theorem Dev.runDevTime_log (n : Nat) : (d.runDevTime n).log = d.log := by simp [Dev.runDevTime]
@[simp] theorem Dev.runDevTime_trg (n : Nat) : (d.runDevTime n).trg = d.trg := by simp [Dev.runDevTime]
@[simp] theorem Dev.runDevTime_flt (n : Nat) : (d.runDevTime n).flt = d.flt := by simp [Dev.runDevTime]
@[simp] theorem Dev.runDevTime_slk (n : Nat) : (d.runDevTime n).slk = d.slk := by simp [Dev.runDevTime]
@[simp] theorem Dev.runDevTime_pl (n : Nat) : (d.runDevTime n).pl = d.pl := by simp [Dev.runDevTime]
@[simp] theorem Dev.runDevTime_stc (n : Nat) : (d.runDevTime n).stc = d.stc := by simp [Dev.runDevTime]
@[simp] theorem Dev.runDevTime_seg (n : Nat) : (d.runDevTime n).seg = d.seg := by simp [Dev.runDevTime]
@[simp] theorem Dev.runDevTime_mrk (n : Nat) : (d.runDevTime n).mrk = d.mrk := by simp [Dev.runDevTime]
@[simp] theorem Dev.runDevTime_cdc (n : Nat) : (d.runDevTime n).cdc = d.cdc := by simp [Dev.runDevTime]
@[simp] theorem Dev.runDevTime_net (n : Nat) : (d.runDevTime n).net = d.net := by simp [Dev.runDevTime]
@[simp] theorem Dev.runDevTime_drc (n : Nat) : (d.runDevTime n).drc = d.drc := by simp [Dev.runDevTime]
@[simp] theorem Dev.runDevTime_que (n : Nat) : (d.runDevTime n).que = d.que := by simp [Dev.runDevTime]
@[simp] theorem Dev.runDevTime_dma (n : Nat) : (d.runDevTime n).dma = d.dma := by simp [Dev.runDevTime]
@[simp] theorem Dev.runDevTime_icu (n : Nat) : (d.runDevTime n).icu = d.icu := by simp [Dev.runDevTime]
@[simp] theorem Dev.runDevTime_evt (n : Nat) : (d.runDevTime n).evt = d.evt := by simp [Dev.runDevTime]
@[simp] theorem Dev.runDevTime_pwr (n : Nat) : (d.runDevTime n).pwr = d.pwr := by simp [Dev.runDevTime]
@[simp] theorem Dev.runDevTime_chn (n : Nat) : (d.runDevTime n).chn = d.chn := by simp [Dev.runDevTime]
@[simp] theorem Dev.runDevTime_svc (n : Nat) : (d.runDevTime n).svc = d.svc := by simp [Dev.runDevTime]
@[simp] theorem Dev.runDevTime_spr (n : Nat) : (d.runDevTime n).spr = d.spr := by simp [Dev.runDevTime]
@[simp] theorem Dev.runDevTime_alm (n : Nat) : (d.runDevTime n).alm = d.alm := by simp [Dev.runDevTime]
@[simp] theorem Dev.runDevTime_otp (n : Nat) : (d.runDevTime n).otp = d.otp := by simp [Dev.runDevTime]
@[simp] theorem Dev.runDevTime_restart (n : Nat) : (d.runDevTime n).restart = d.restart := by simp [Dev.runDevTime]

@[simp] theorem Dev.reach_hi (t : Nat) : (d.reach t).hi = d.hi := by unfold Dev.reach; split <;> simp
@[simp] theorem Dev.reach_staged (t : Nat) : (d.reach t).staged = d.staged := by unfold Dev.reach; split <;> simp
@[simp] theorem Dev.reach_rdata (t : Nat) : (d.reach t).rdata = d.rdata := by unfold Dev.reach; split <;> simp
@[simp] theorem Dev.reach_draws (t : Nat) : (d.reach t).draws = d.draws := by unfold Dev.reach; split <;> simp
@[simp] theorem Dev.reach_out (t : Nat) : (d.reach t).out = d.out := by unfold Dev.reach; split <;> simp
@[simp] theorem Dev.reach_log (t : Nat) : (d.reach t).log = d.log := by unfold Dev.reach; split <;> simp
@[simp] theorem Dev.reach_trg (t : Nat) : (d.reach t).trg = d.trg := by unfold Dev.reach; split <;> simp
@[simp] theorem Dev.reach_flt (t : Nat) : (d.reach t).flt = d.flt := by unfold Dev.reach; split <;> simp
@[simp] theorem Dev.reach_slk (t : Nat) : (d.reach t).slk = d.slk := by unfold Dev.reach; split <;> simp
@[simp] theorem Dev.reach_pl (t : Nat) : (d.reach t).pl = d.pl := by unfold Dev.reach; split <;> simp
@[simp] theorem Dev.reach_stc (t : Nat) : (d.reach t).stc = d.stc := by unfold Dev.reach; split <;> simp
@[simp] theorem Dev.reach_seg (t : Nat) : (d.reach t).seg = d.seg := by unfold Dev.reach; split <;> simp
@[simp] theorem Dev.reach_mrk (t : Nat) : (d.reach t).mrk = d.mrk := by unfold Dev.reach; split <;> simp
@[simp] theorem Dev.reach_cdc (t : Nat) : (d.reach t).cdc = d.cdc := by unfold Dev.reach; split <;> simp
@[simp] theorem Dev.reach_net (t : Nat) : (d.reach t).net = d.net := by unfold Dev.reach; split <;> simp
@[simp] theorem Dev.reach_drc (t : Nat) : (d.reach t).drc = d.drc := by unfold Dev.reach; split <;> simp
@[simp] theorem Dev.reach_que (t : Nat) : (d.reach t).que = d.que := by unfold Dev.reach; split <;> simp
@[simp] theorem Dev.reach_dma (t : Nat) : (d.reach t).dma = d.dma := by unfold Dev.reach; split <;> simp
@[simp] theorem Dev.reach_icu (t : Nat) : (d.reach t).icu = d.icu := by unfold Dev.reach; split <;> simp
@[simp] theorem Dev.reach_evt (t : Nat) : (d.reach t).evt = d.evt := by unfold Dev.reach; split <;> simp
@[simp] theorem Dev.reach_pwr (t : Nat) : (d.reach t).pwr = d.pwr := by unfold Dev.reach; split <;> simp
@[simp] theorem Dev.reach_chn (t : Nat) : (d.reach t).chn = d.chn := by unfold Dev.reach; split <;> simp
@[simp] theorem Dev.reach_svc (t : Nat) : (d.reach t).svc = d.svc := by unfold Dev.reach; split <;> simp
@[simp] theorem Dev.reach_spr (t : Nat) : (d.reach t).spr = d.spr := by unfold Dev.reach; split <;> simp
@[simp] theorem Dev.reach_alm (t : Nat) : (d.reach t).alm = d.alm := by unfold Dev.reach; split <;> simp
@[simp] theorem Dev.reach_otp (t : Nat) : (d.reach t).otp = d.otp := by unfold Dev.reach; split <;> simp
@[simp] theorem Dev.reach_restart (t : Nat) : (d.reach t).restart = d.restart := by unfold Dev.reach; split <;> simp

@[simp] theorem Dev.stopIntake_hi (en : Fld) : (d.stopIntake en).hi = d.hi := by simp [Dev.stopIntake]
@[simp] theorem Dev.stopIntake_staged (en : Fld) : (d.stopIntake en).staged = d.staged := by simp [Dev.stopIntake]
@[simp] theorem Dev.stopIntake_rdata (en : Fld) : (d.stopIntake en).rdata = d.rdata := by simp [Dev.stopIntake]
@[simp] theorem Dev.stopIntake_now (en : Fld) : (d.stopIntake en).now = d.now := by simp [Dev.stopIntake]
@[simp] theorem Dev.stopIntake_draws (en : Fld) : (d.stopIntake en).draws = d.draws := by simp [Dev.stopIntake]
@[simp] theorem Dev.stopIntake_out (en : Fld) : (d.stopIntake en).out = d.out := by simp [Dev.stopIntake]
@[simp] theorem Dev.stopIntake_log (en : Fld) : (d.stopIntake en).log = d.log := by simp [Dev.stopIntake]
@[simp] theorem Dev.stopIntake_trg (en : Fld) : (d.stopIntake en).trg = d.trg := by simp [Dev.stopIntake]
@[simp] theorem Dev.stopIntake_flt (en : Fld) : (d.stopIntake en).flt = d.flt := by simp [Dev.stopIntake]
@[simp] theorem Dev.stopIntake_slk (en : Fld) : (d.stopIntake en).slk = d.slk := by simp [Dev.stopIntake]
@[simp] theorem Dev.stopIntake_pl (en : Fld) : (d.stopIntake en).pl = d.pl := by simp [Dev.stopIntake]
@[simp] theorem Dev.stopIntake_stc (en : Fld) : (d.stopIntake en).stc = d.stc := by simp [Dev.stopIntake]
@[simp] theorem Dev.stopIntake_seg (en : Fld) : (d.stopIntake en).seg = d.seg := by simp [Dev.stopIntake]
@[simp] theorem Dev.stopIntake_mrk (en : Fld) : (d.stopIntake en).mrk = d.mrk := by simp [Dev.stopIntake]
@[simp] theorem Dev.stopIntake_cdc (en : Fld) : (d.stopIntake en).cdc = d.cdc := by simp [Dev.stopIntake]
@[simp] theorem Dev.stopIntake_net (en : Fld) : (d.stopIntake en).net = d.net := by simp [Dev.stopIntake]
@[simp] theorem Dev.stopIntake_mer (en : Fld) : (d.stopIntake en).mer = d.mer := by simp [Dev.stopIntake]
@[simp] theorem Dev.stopIntake_drc (en : Fld) : (d.stopIntake en).drc = d.drc := by simp [Dev.stopIntake]
@[simp] theorem Dev.stopIntake_que (en : Fld) : (d.stopIntake en).que = d.que := by simp [Dev.stopIntake]
@[simp] theorem Dev.stopIntake_dma (en : Fld) : (d.stopIntake en).dma = d.dma := by simp [Dev.stopIntake]
@[simp] theorem Dev.stopIntake_icu (en : Fld) : (d.stopIntake en).icu = d.icu := by simp [Dev.stopIntake]
@[simp] theorem Dev.stopIntake_evt (en : Fld) : (d.stopIntake en).evt = d.evt := by simp [Dev.stopIntake]
@[simp] theorem Dev.stopIntake_pwr (en : Fld) : (d.stopIntake en).pwr = d.pwr := by simp [Dev.stopIntake]
@[simp] theorem Dev.stopIntake_chn (en : Fld) : (d.stopIntake en).chn = d.chn := by simp [Dev.stopIntake]
@[simp] theorem Dev.stopIntake_svc (en : Fld) : (d.stopIntake en).svc = d.svc := by simp [Dev.stopIntake]
@[simp] theorem Dev.stopIntake_spr (en : Fld) : (d.stopIntake en).spr = d.spr := by simp [Dev.stopIntake]
@[simp] theorem Dev.stopIntake_alm (en : Fld) : (d.stopIntake en).alm = d.alm := by simp [Dev.stopIntake]
@[simp] theorem Dev.stopIntake_otp (en : Fld) : (d.stopIntake en).otp = d.otp := by simp [Dev.stopIntake]

@[simp] theorem Dev.abortBits_hi (en idle : Fld) : (d.abortBits en idle).hi = d.hi := by simp [Dev.abortBits]
@[simp] theorem Dev.abortBits_staged (en idle : Fld) : (d.abortBits en idle).staged = d.staged := by simp [Dev.abortBits]
@[simp] theorem Dev.abortBits_rdata (en idle : Fld) : (d.abortBits en idle).rdata = d.rdata := by simp [Dev.abortBits]
@[simp] theorem Dev.abortBits_now (en idle : Fld) : (d.abortBits en idle).now = d.now := by simp [Dev.abortBits]
@[simp] theorem Dev.abortBits_draws (en idle : Fld) : (d.abortBits en idle).draws = d.draws := by simp [Dev.abortBits]
@[simp] theorem Dev.abortBits_out (en idle : Fld) : (d.abortBits en idle).out = d.out := by simp [Dev.abortBits]
@[simp] theorem Dev.abortBits_log (en idle : Fld) : (d.abortBits en idle).log = d.log := by simp [Dev.abortBits]
@[simp] theorem Dev.abortBits_trg (en idle : Fld) : (d.abortBits en idle).trg = d.trg := by simp [Dev.abortBits]
@[simp] theorem Dev.abortBits_flt (en idle : Fld) : (d.abortBits en idle).flt = d.flt := by simp [Dev.abortBits]
@[simp] theorem Dev.abortBits_slk (en idle : Fld) : (d.abortBits en idle).slk = d.slk := by simp [Dev.abortBits]
@[simp] theorem Dev.abortBits_pl (en idle : Fld) : (d.abortBits en idle).pl = d.pl := by simp [Dev.abortBits]
@[simp] theorem Dev.abortBits_stc (en idle : Fld) : (d.abortBits en idle).stc = d.stc := by simp [Dev.abortBits]
@[simp] theorem Dev.abortBits_seg (en idle : Fld) : (d.abortBits en idle).seg = d.seg := by simp [Dev.abortBits]
@[simp] theorem Dev.abortBits_mrk (en idle : Fld) : (d.abortBits en idle).mrk = d.mrk := by simp [Dev.abortBits]
@[simp] theorem Dev.abortBits_cdc (en idle : Fld) : (d.abortBits en idle).cdc = d.cdc := by simp [Dev.abortBits]
@[simp] theorem Dev.abortBits_net (en idle : Fld) : (d.abortBits en idle).net = d.net := by simp [Dev.abortBits]
@[simp] theorem Dev.abortBits_mer (en idle : Fld) : (d.abortBits en idle).mer = d.mer := by simp [Dev.abortBits]
@[simp] theorem Dev.abortBits_drc (en idle : Fld) : (d.abortBits en idle).drc = d.drc := by simp [Dev.abortBits]
@[simp] theorem Dev.abortBits_que (en idle : Fld) : (d.abortBits en idle).que = d.que := by simp [Dev.abortBits]
@[simp] theorem Dev.abortBits_dma (en idle : Fld) : (d.abortBits en idle).dma = d.dma := by simp [Dev.abortBits]
@[simp] theorem Dev.abortBits_icu (en idle : Fld) : (d.abortBits en idle).icu = d.icu := by simp [Dev.abortBits]
@[simp] theorem Dev.abortBits_evt (en idle : Fld) : (d.abortBits en idle).evt = d.evt := by simp [Dev.abortBits]
@[simp] theorem Dev.abortBits_pwr (en idle : Fld) : (d.abortBits en idle).pwr = d.pwr := by simp [Dev.abortBits]
@[simp] theorem Dev.abortBits_chn (en idle : Fld) : (d.abortBits en idle).chn = d.chn := by simp [Dev.abortBits]
@[simp] theorem Dev.abortBits_svc (en idle : Fld) : (d.abortBits en idle).svc = d.svc := by simp [Dev.abortBits]
@[simp] theorem Dev.abortBits_spr (en idle : Fld) : (d.abortBits en idle).spr = d.spr := by simp [Dev.abortBits]
@[simp] theorem Dev.abortBits_alm (en idle : Fld) : (d.abortBits en idle).alm = d.alm := by simp [Dev.abortBits]
@[simp] theorem Dev.abortBits_otp (en idle : Fld) : (d.abortBits en idle).otp = d.otp := by simp [Dev.abortBits]

@[simp] theorem Dev.startIntake_hi (en idle : Fld) : ((d.startIntake en idle).1).hi = d.hi := by
  unfold Dev.startIntake; repeat' split
  all_goals simp
@[simp] theorem Dev.startIntake_staged (en idle : Fld) : ((d.startIntake en idle).1).staged = d.staged := by
  unfold Dev.startIntake; repeat' split
  all_goals simp
@[simp] theorem Dev.startIntake_rdata (en idle : Fld) : ((d.startIntake en idle).1).rdata = d.rdata := by
  unfold Dev.startIntake; repeat' split
  all_goals simp
@[simp] theorem Dev.startIntake_now (en idle : Fld) : ((d.startIntake en idle).1).now = d.now := by
  unfold Dev.startIntake; repeat' split
  all_goals simp
@[simp] theorem Dev.startIntake_draws (en idle : Fld) : ((d.startIntake en idle).1).draws = d.draws := by
  unfold Dev.startIntake; repeat' split
  all_goals simp
@[simp] theorem Dev.startIntake_out (en idle : Fld) : ((d.startIntake en idle).1).out = d.out := by
  unfold Dev.startIntake; repeat' split
  all_goals simp
@[simp] theorem Dev.startIntake_log (en idle : Fld) : ((d.startIntake en idle).1).log = d.log := by
  unfold Dev.startIntake; repeat' split
  all_goals simp
@[simp] theorem Dev.startIntake_trg (en idle : Fld) : ((d.startIntake en idle).1).trg = d.trg := by
  unfold Dev.startIntake; repeat' split
  all_goals simp
@[simp] theorem Dev.startIntake_flt (en idle : Fld) : ((d.startIntake en idle).1).flt = d.flt := by
  unfold Dev.startIntake; repeat' split
  all_goals simp
@[simp] theorem Dev.startIntake_slk (en idle : Fld) : ((d.startIntake en idle).1).slk = d.slk := by
  unfold Dev.startIntake; repeat' split
  all_goals simp
@[simp] theorem Dev.startIntake_pl (en idle : Fld) : ((d.startIntake en idle).1).pl = d.pl := by
  unfold Dev.startIntake; repeat' split
  all_goals simp
@[simp] theorem Dev.startIntake_stc (en idle : Fld) : ((d.startIntake en idle).1).stc = d.stc := by
  unfold Dev.startIntake; repeat' split
  all_goals simp
@[simp] theorem Dev.startIntake_seg (en idle : Fld) : ((d.startIntake en idle).1).seg = d.seg := by
  unfold Dev.startIntake; repeat' split
  all_goals simp
@[simp] theorem Dev.startIntake_mrk (en idle : Fld) : ((d.startIntake en idle).1).mrk = d.mrk := by
  unfold Dev.startIntake; repeat' split
  all_goals simp
@[simp] theorem Dev.startIntake_cdc (en idle : Fld) : ((d.startIntake en idle).1).cdc = d.cdc := by
  unfold Dev.startIntake; repeat' split
  all_goals simp
@[simp] theorem Dev.startIntake_net (en idle : Fld) : ((d.startIntake en idle).1).net = d.net := by
  unfold Dev.startIntake; repeat' split
  all_goals simp
@[simp] theorem Dev.startIntake_mer (en idle : Fld) : ((d.startIntake en idle).1).mer = d.mer := by
  unfold Dev.startIntake; repeat' split
  all_goals simp
@[simp] theorem Dev.startIntake_drc (en idle : Fld) : ((d.startIntake en idle).1).drc = d.drc := by
  unfold Dev.startIntake; repeat' split
  all_goals simp
@[simp] theorem Dev.startIntake_que (en idle : Fld) : ((d.startIntake en idle).1).que = d.que := by
  unfold Dev.startIntake; repeat' split
  all_goals simp
@[simp] theorem Dev.startIntake_dma (en idle : Fld) : ((d.startIntake en idle).1).dma = d.dma := by
  unfold Dev.startIntake; repeat' split
  all_goals simp
@[simp] theorem Dev.startIntake_icu (en idle : Fld) : ((d.startIntake en idle).1).icu = d.icu := by
  unfold Dev.startIntake; repeat' split
  all_goals simp
@[simp] theorem Dev.startIntake_evt (en idle : Fld) : ((d.startIntake en idle).1).evt = d.evt := by
  unfold Dev.startIntake; repeat' split
  all_goals simp
@[simp] theorem Dev.startIntake_pwr (en idle : Fld) : ((d.startIntake en idle).1).pwr = d.pwr := by
  unfold Dev.startIntake; repeat' split
  all_goals simp
@[simp] theorem Dev.startIntake_chn (en idle : Fld) : ((d.startIntake en idle).1).chn = d.chn := by
  unfold Dev.startIntake; repeat' split
  all_goals simp
@[simp] theorem Dev.startIntake_svc (en idle : Fld) : ((d.startIntake en idle).1).svc = d.svc := by
  unfold Dev.startIntake; repeat' split
  all_goals simp
@[simp] theorem Dev.startIntake_spr (en idle : Fld) : ((d.startIntake en idle).1).spr = d.spr := by
  unfold Dev.startIntake; repeat' split
  all_goals simp
@[simp] theorem Dev.startIntake_alm (en idle : Fld) : ((d.startIntake en idle).1).alm = d.alm := by
  unfold Dev.startIntake; repeat' split
  all_goals simp
@[simp] theorem Dev.startIntake_otp (en idle : Fld) : ((d.startIntake en idle).1).otp = d.otp := by
  unfold Dev.startIntake; repeat' split
  all_goals simp

@[simp] theorem Dev.drained_hi (en idle : Fld) : ((d.drained en idle).1).hi = d.hi := by
  unfold Dev.drained; repeat' split
  all_goals simp
@[simp] theorem Dev.drained_staged (en idle : Fld) : ((d.drained en idle).1).staged = d.staged := by
  unfold Dev.drained; repeat' split
  all_goals simp
@[simp] theorem Dev.drained_rdata (en idle : Fld) : ((d.drained en idle).1).rdata = d.rdata := by
  unfold Dev.drained; repeat' split
  all_goals simp
@[simp] theorem Dev.drained_now (en idle : Fld) : ((d.drained en idle).1).now = d.now := by
  unfold Dev.drained; repeat' split
  all_goals simp
@[simp] theorem Dev.drained_draws (en idle : Fld) : ((d.drained en idle).1).draws = d.draws := by
  unfold Dev.drained; repeat' split
  all_goals simp
@[simp] theorem Dev.drained_out (en idle : Fld) : ((d.drained en idle).1).out = d.out := by
  unfold Dev.drained; repeat' split
  all_goals simp
@[simp] theorem Dev.drained_log (en idle : Fld) : ((d.drained en idle).1).log = d.log := by
  unfold Dev.drained; repeat' split
  all_goals simp
@[simp] theorem Dev.drained_trg (en idle : Fld) : ((d.drained en idle).1).trg = d.trg := by
  unfold Dev.drained; repeat' split
  all_goals simp
@[simp] theorem Dev.drained_flt (en idle : Fld) : ((d.drained en idle).1).flt = d.flt := by
  unfold Dev.drained; repeat' split
  all_goals simp
@[simp] theorem Dev.drained_slk (en idle : Fld) : ((d.drained en idle).1).slk = d.slk := by
  unfold Dev.drained; repeat' split
  all_goals simp
@[simp] theorem Dev.drained_pl (en idle : Fld) : ((d.drained en idle).1).pl = d.pl := by
  unfold Dev.drained; repeat' split
  all_goals simp
@[simp] theorem Dev.drained_stc (en idle : Fld) : ((d.drained en idle).1).stc = d.stc := by
  unfold Dev.drained; repeat' split
  all_goals simp
@[simp] theorem Dev.drained_seg (en idle : Fld) : ((d.drained en idle).1).seg = d.seg := by
  unfold Dev.drained; repeat' split
  all_goals simp
@[simp] theorem Dev.drained_mrk (en idle : Fld) : ((d.drained en idle).1).mrk = d.mrk := by
  unfold Dev.drained; repeat' split
  all_goals simp
@[simp] theorem Dev.drained_cdc (en idle : Fld) : ((d.drained en idle).1).cdc = d.cdc := by
  unfold Dev.drained; repeat' split
  all_goals simp
@[simp] theorem Dev.drained_net (en idle : Fld) : ((d.drained en idle).1).net = d.net := by
  unfold Dev.drained; repeat' split
  all_goals simp
@[simp] theorem Dev.drained_mer (en idle : Fld) : ((d.drained en idle).1).mer = d.mer := by
  unfold Dev.drained; repeat' split
  all_goals simp
@[simp] theorem Dev.drained_drc (en idle : Fld) : ((d.drained en idle).1).drc = d.drc := by
  unfold Dev.drained; repeat' split
  all_goals simp
@[simp] theorem Dev.drained_que (en idle : Fld) : ((d.drained en idle).1).que = d.que := by
  unfold Dev.drained; repeat' split
  all_goals simp
@[simp] theorem Dev.drained_dma (en idle : Fld) : ((d.drained en idle).1).dma = d.dma := by
  unfold Dev.drained; repeat' split
  all_goals simp
@[simp] theorem Dev.drained_icu (en idle : Fld) : ((d.drained en idle).1).icu = d.icu := by
  unfold Dev.drained; repeat' split
  all_goals simp
@[simp] theorem Dev.drained_evt (en idle : Fld) : ((d.drained en idle).1).evt = d.evt := by
  unfold Dev.drained; repeat' split
  all_goals simp
@[simp] theorem Dev.drained_pwr (en idle : Fld) : ((d.drained en idle).1).pwr = d.pwr := by
  unfold Dev.drained; repeat' split
  all_goals simp
@[simp] theorem Dev.drained_chn (en idle : Fld) : ((d.drained en idle).1).chn = d.chn := by
  unfold Dev.drained; repeat' split
  all_goals simp
@[simp] theorem Dev.drained_svc (en idle : Fld) : ((d.drained en idle).1).svc = d.svc := by
  unfold Dev.drained; repeat' split
  all_goals simp
@[simp] theorem Dev.drained_spr (en idle : Fld) : ((d.drained en idle).1).spr = d.spr := by
  unfold Dev.drained; repeat' split
  all_goals simp
@[simp] theorem Dev.drained_alm (en idle : Fld) : ((d.drained en idle).1).alm = d.alm := by
  unfold Dev.drained; repeat' split
  all_goals simp
@[simp] theorem Dev.drained_otp (en idle : Fld) : ((d.drained en idle).1).otp = d.otp := by
  unfold Dev.drained; repeat' split
  all_goals simp

@[simp] theorem Dev.setLogch_regs (n : Nat) (x : LogChan) : (d.setLogch n x).regs = d.regs := rfl
@[simp] theorem Dev.setLogch_hi (n : Nat) (x : LogChan) : (d.setLogch n x).hi = d.hi := rfl
@[simp] theorem Dev.setLogch_staged (n : Nat) (x : LogChan) : (d.setLogch n x).staged = d.staged := rfl
@[simp] theorem Dev.setLogch_rdata (n : Nat) (x : LogChan) : (d.setLogch n x).rdata = d.rdata := rfl
@[simp] theorem Dev.setLogch_now (n : Nat) (x : LogChan) : (d.setLogch n x).now = d.now := rfl
@[simp] theorem Dev.setLogch_draws (n : Nat) (x : LogChan) : (d.setLogch n x).draws = d.draws := rfl
@[simp] theorem Dev.setLogch_out (n : Nat) (x : LogChan) : (d.setLogch n x).out = d.out := rfl
@[simp] theorem Dev.setLogch_trg (n : Nat) (x : LogChan) : (d.setLogch n x).trg = d.trg := rfl
@[simp] theorem Dev.setLogch_flt (n : Nat) (x : LogChan) : (d.setLogch n x).flt = d.flt := rfl
@[simp] theorem Dev.setLogch_slk (n : Nat) (x : LogChan) : (d.setLogch n x).slk = d.slk := rfl
@[simp] theorem Dev.setLogch_pl (n : Nat) (x : LogChan) : (d.setLogch n x).pl = d.pl := rfl
@[simp] theorem Dev.setLogch_stc (n : Nat) (x : LogChan) : (d.setLogch n x).stc = d.stc := rfl
@[simp] theorem Dev.setLogch_seg (n : Nat) (x : LogChan) : (d.setLogch n x).seg = d.seg := rfl
@[simp] theorem Dev.setLogch_mrk (n : Nat) (x : LogChan) : (d.setLogch n x).mrk = d.mrk := rfl
@[simp] theorem Dev.setLogch_cdc (n : Nat) (x : LogChan) : (d.setLogch n x).cdc = d.cdc := rfl
@[simp] theorem Dev.setLogch_net (n : Nat) (x : LogChan) : (d.setLogch n x).net = d.net := rfl
@[simp] theorem Dev.setLogch_mer (n : Nat) (x : LogChan) : (d.setLogch n x).mer = d.mer := rfl
@[simp] theorem Dev.setLogch_drc (n : Nat) (x : LogChan) : (d.setLogch n x).drc = d.drc := rfl
@[simp] theorem Dev.setLogch_que (n : Nat) (x : LogChan) : (d.setLogch n x).que = d.que := rfl
@[simp] theorem Dev.setLogch_dma (n : Nat) (x : LogChan) : (d.setLogch n x).dma = d.dma := rfl
@[simp] theorem Dev.setLogch_icu (n : Nat) (x : LogChan) : (d.setLogch n x).icu = d.icu := rfl
@[simp] theorem Dev.setLogch_evt (n : Nat) (x : LogChan) : (d.setLogch n x).evt = d.evt := rfl
@[simp] theorem Dev.setLogch_pwr (n : Nat) (x : LogChan) : (d.setLogch n x).pwr = d.pwr := rfl
@[simp] theorem Dev.setLogch_chn (n : Nat) (x : LogChan) : (d.setLogch n x).chn = d.chn := rfl
@[simp] theorem Dev.setLogch_svc (n : Nat) (x : LogChan) : (d.setLogch n x).svc = d.svc := rfl
@[simp] theorem Dev.setLogch_spr (n : Nat) (x : LogChan) : (d.setLogch n x).spr = d.spr := rfl
@[simp] theorem Dev.setLogch_alm (n : Nat) (x : LogChan) : (d.setLogch n x).alm = d.alm := rfl
@[simp] theorem Dev.setLogch_otp (n : Nat) (x : LogChan) : (d.setLogch n x).otp = d.otp := rfl
@[simp] theorem Dev.setLogch_restart (n : Nat) (x : LogChan) : (d.setLogch n x).restart = d.restart := rfl

@[simp] theorem Dev.setTrgs_regs (n : Nat) (x : TrgStream) : (d.setTrgs n x).regs = d.regs := rfl
@[simp] theorem Dev.setTrgs_hi (n : Nat) (x : TrgStream) : (d.setTrgs n x).hi = d.hi := rfl
@[simp] theorem Dev.setTrgs_staged (n : Nat) (x : TrgStream) : (d.setTrgs n x).staged = d.staged := rfl
@[simp] theorem Dev.setTrgs_rdata (n : Nat) (x : TrgStream) : (d.setTrgs n x).rdata = d.rdata := rfl
@[simp] theorem Dev.setTrgs_now (n : Nat) (x : TrgStream) : (d.setTrgs n x).now = d.now := rfl
@[simp] theorem Dev.setTrgs_draws (n : Nat) (x : TrgStream) : (d.setTrgs n x).draws = d.draws := rfl
@[simp] theorem Dev.setTrgs_out (n : Nat) (x : TrgStream) : (d.setTrgs n x).out = d.out := rfl
@[simp] theorem Dev.setTrgs_log (n : Nat) (x : TrgStream) : (d.setTrgs n x).log = d.log := rfl
@[simp] theorem Dev.setTrgs_flt (n : Nat) (x : TrgStream) : (d.setTrgs n x).flt = d.flt := rfl
@[simp] theorem Dev.setTrgs_slk (n : Nat) (x : TrgStream) : (d.setTrgs n x).slk = d.slk := rfl
@[simp] theorem Dev.setTrgs_pl (n : Nat) (x : TrgStream) : (d.setTrgs n x).pl = d.pl := rfl
@[simp] theorem Dev.setTrgs_stc (n : Nat) (x : TrgStream) : (d.setTrgs n x).stc = d.stc := rfl
@[simp] theorem Dev.setTrgs_seg (n : Nat) (x : TrgStream) : (d.setTrgs n x).seg = d.seg := rfl
@[simp] theorem Dev.setTrgs_mrk (n : Nat) (x : TrgStream) : (d.setTrgs n x).mrk = d.mrk := rfl
@[simp] theorem Dev.setTrgs_cdc (n : Nat) (x : TrgStream) : (d.setTrgs n x).cdc = d.cdc := rfl
@[simp] theorem Dev.setTrgs_net (n : Nat) (x : TrgStream) : (d.setTrgs n x).net = d.net := rfl
@[simp] theorem Dev.setTrgs_mer (n : Nat) (x : TrgStream) : (d.setTrgs n x).mer = d.mer := rfl
@[simp] theorem Dev.setTrgs_drc (n : Nat) (x : TrgStream) : (d.setTrgs n x).drc = d.drc := rfl
@[simp] theorem Dev.setTrgs_que (n : Nat) (x : TrgStream) : (d.setTrgs n x).que = d.que := rfl
@[simp] theorem Dev.setTrgs_dma (n : Nat) (x : TrgStream) : (d.setTrgs n x).dma = d.dma := rfl
@[simp] theorem Dev.setTrgs_icu (n : Nat) (x : TrgStream) : (d.setTrgs n x).icu = d.icu := rfl
@[simp] theorem Dev.setTrgs_evt (n : Nat) (x : TrgStream) : (d.setTrgs n x).evt = d.evt := rfl
@[simp] theorem Dev.setTrgs_pwr (n : Nat) (x : TrgStream) : (d.setTrgs n x).pwr = d.pwr := rfl
@[simp] theorem Dev.setTrgs_chn (n : Nat) (x : TrgStream) : (d.setTrgs n x).chn = d.chn := rfl
@[simp] theorem Dev.setTrgs_svc (n : Nat) (x : TrgStream) : (d.setTrgs n x).svc = d.svc := rfl
@[simp] theorem Dev.setTrgs_spr (n : Nat) (x : TrgStream) : (d.setTrgs n x).spr = d.spr := rfl
@[simp] theorem Dev.setTrgs_alm (n : Nat) (x : TrgStream) : (d.setTrgs n x).alm = d.alm := rfl
@[simp] theorem Dev.setTrgs_otp (n : Nat) (x : TrgStream) : (d.setTrgs n x).otp = d.otp := rfl
@[simp] theorem Dev.setTrgs_restart (n : Nat) (x : TrgStream) : (d.setTrgs n x).restart = d.restart := rfl

@[simp] theorem Dev.setStb_regs (n : Nat) (x : Strobe) : (d.setStb n x).regs = d.regs := rfl
@[simp] theorem Dev.setStb_hi (n : Nat) (x : Strobe) : (d.setStb n x).hi = d.hi := rfl
@[simp] theorem Dev.setStb_staged (n : Nat) (x : Strobe) : (d.setStb n x).staged = d.staged := rfl
@[simp] theorem Dev.setStb_rdata (n : Nat) (x : Strobe) : (d.setStb n x).rdata = d.rdata := rfl
@[simp] theorem Dev.setStb_now (n : Nat) (x : Strobe) : (d.setStb n x).now = d.now := rfl
@[simp] theorem Dev.setStb_draws (n : Nat) (x : Strobe) : (d.setStb n x).draws = d.draws := rfl
@[simp] theorem Dev.setStb_out (n : Nat) (x : Strobe) : (d.setStb n x).out = d.out := rfl
@[simp] theorem Dev.setStb_log (n : Nat) (x : Strobe) : (d.setStb n x).log = d.log := rfl
@[simp] theorem Dev.setStb_flt (n : Nat) (x : Strobe) : (d.setStb n x).flt = d.flt := rfl
@[simp] theorem Dev.setStb_slk (n : Nat) (x : Strobe) : (d.setStb n x).slk = d.slk := rfl
@[simp] theorem Dev.setStb_pl (n : Nat) (x : Strobe) : (d.setStb n x).pl = d.pl := rfl
@[simp] theorem Dev.setStb_stc (n : Nat) (x : Strobe) : (d.setStb n x).stc = d.stc := rfl
@[simp] theorem Dev.setStb_seg (n : Nat) (x : Strobe) : (d.setStb n x).seg = d.seg := rfl
@[simp] theorem Dev.setStb_mrk (n : Nat) (x : Strobe) : (d.setStb n x).mrk = d.mrk := rfl
@[simp] theorem Dev.setStb_cdc (n : Nat) (x : Strobe) : (d.setStb n x).cdc = d.cdc := rfl
@[simp] theorem Dev.setStb_net (n : Nat) (x : Strobe) : (d.setStb n x).net = d.net := rfl
@[simp] theorem Dev.setStb_mer (n : Nat) (x : Strobe) : (d.setStb n x).mer = d.mer := rfl
@[simp] theorem Dev.setStb_drc (n : Nat) (x : Strobe) : (d.setStb n x).drc = d.drc := rfl
@[simp] theorem Dev.setStb_que (n : Nat) (x : Strobe) : (d.setStb n x).que = d.que := rfl
@[simp] theorem Dev.setStb_dma (n : Nat) (x : Strobe) : (d.setStb n x).dma = d.dma := rfl
@[simp] theorem Dev.setStb_icu (n : Nat) (x : Strobe) : (d.setStb n x).icu = d.icu := rfl
@[simp] theorem Dev.setStb_evt (n : Nat) (x : Strobe) : (d.setStb n x).evt = d.evt := rfl
@[simp] theorem Dev.setStb_pwr (n : Nat) (x : Strobe) : (d.setStb n x).pwr = d.pwr := rfl
@[simp] theorem Dev.setStb_chn (n : Nat) (x : Strobe) : (d.setStb n x).chn = d.chn := rfl
@[simp] theorem Dev.setStb_svc (n : Nat) (x : Strobe) : (d.setStb n x).svc = d.svc := rfl
@[simp] theorem Dev.setStb_spr (n : Nat) (x : Strobe) : (d.setStb n x).spr = d.spr := rfl
@[simp] theorem Dev.setStb_alm (n : Nat) (x : Strobe) : (d.setStb n x).alm = d.alm := rfl
@[simp] theorem Dev.setStb_otp (n : Nat) (x : Strobe) : (d.setStb n x).otp = d.otp := rfl
@[simp] theorem Dev.setStb_restart (n : Nat) (x : Strobe) : (d.setStb n x).restart = d.restart := rfl

@[simp] theorem Dev.setFltc_regs (n : Nat) (x : FltChan) : (d.setFltc n x).regs = d.regs := rfl
@[simp] theorem Dev.setFltc_hi (n : Nat) (x : FltChan) : (d.setFltc n x).hi = d.hi := rfl
@[simp] theorem Dev.setFltc_staged (n : Nat) (x : FltChan) : (d.setFltc n x).staged = d.staged := rfl
@[simp] theorem Dev.setFltc_rdata (n : Nat) (x : FltChan) : (d.setFltc n x).rdata = d.rdata := rfl
@[simp] theorem Dev.setFltc_now (n : Nat) (x : FltChan) : (d.setFltc n x).now = d.now := rfl
@[simp] theorem Dev.setFltc_draws (n : Nat) (x : FltChan) : (d.setFltc n x).draws = d.draws := rfl
@[simp] theorem Dev.setFltc_out (n : Nat) (x : FltChan) : (d.setFltc n x).out = d.out := rfl
@[simp] theorem Dev.setFltc_log (n : Nat) (x : FltChan) : (d.setFltc n x).log = d.log := rfl
@[simp] theorem Dev.setFltc_trg (n : Nat) (x : FltChan) : (d.setFltc n x).trg = d.trg := rfl
@[simp] theorem Dev.setFltc_slk (n : Nat) (x : FltChan) : (d.setFltc n x).slk = d.slk := rfl
@[simp] theorem Dev.setFltc_pl (n : Nat) (x : FltChan) : (d.setFltc n x).pl = d.pl := rfl
@[simp] theorem Dev.setFltc_stc (n : Nat) (x : FltChan) : (d.setFltc n x).stc = d.stc := rfl
@[simp] theorem Dev.setFltc_seg (n : Nat) (x : FltChan) : (d.setFltc n x).seg = d.seg := rfl
@[simp] theorem Dev.setFltc_mrk (n : Nat) (x : FltChan) : (d.setFltc n x).mrk = d.mrk := rfl
@[simp] theorem Dev.setFltc_cdc (n : Nat) (x : FltChan) : (d.setFltc n x).cdc = d.cdc := rfl
@[simp] theorem Dev.setFltc_net (n : Nat) (x : FltChan) : (d.setFltc n x).net = d.net := rfl
@[simp] theorem Dev.setFltc_mer (n : Nat) (x : FltChan) : (d.setFltc n x).mer = d.mer := rfl
@[simp] theorem Dev.setFltc_drc (n : Nat) (x : FltChan) : (d.setFltc n x).drc = d.drc := rfl
@[simp] theorem Dev.setFltc_que (n : Nat) (x : FltChan) : (d.setFltc n x).que = d.que := rfl
@[simp] theorem Dev.setFltc_dma (n : Nat) (x : FltChan) : (d.setFltc n x).dma = d.dma := rfl
@[simp] theorem Dev.setFltc_icu (n : Nat) (x : FltChan) : (d.setFltc n x).icu = d.icu := rfl
@[simp] theorem Dev.setFltc_evt (n : Nat) (x : FltChan) : (d.setFltc n x).evt = d.evt := rfl
@[simp] theorem Dev.setFltc_pwr (n : Nat) (x : FltChan) : (d.setFltc n x).pwr = d.pwr := rfl
@[simp] theorem Dev.setFltc_chn (n : Nat) (x : FltChan) : (d.setFltc n x).chn = d.chn := rfl
@[simp] theorem Dev.setFltc_svc (n : Nat) (x : FltChan) : (d.setFltc n x).svc = d.svc := rfl
@[simp] theorem Dev.setFltc_spr (n : Nat) (x : FltChan) : (d.setFltc n x).spr = d.spr := rfl
@[simp] theorem Dev.setFltc_alm (n : Nat) (x : FltChan) : (d.setFltc n x).alm = d.alm := rfl
@[simp] theorem Dev.setFltc_otp (n : Nat) (x : FltChan) : (d.setFltc n x).otp = d.otp := rfl
@[simp] theorem Dev.setFltc_restart (n : Nat) (x : FltChan) : (d.setFltc n x).restart = d.restart := rfl

@[simp] theorem Dev.setLane_regs (n : Nat) (x : Lane) : (d.setLane n x).regs = d.regs := rfl
@[simp] theorem Dev.setLane_hi (n : Nat) (x : Lane) : (d.setLane n x).hi = d.hi := rfl
@[simp] theorem Dev.setLane_staged (n : Nat) (x : Lane) : (d.setLane n x).staged = d.staged := rfl
@[simp] theorem Dev.setLane_rdata (n : Nat) (x : Lane) : (d.setLane n x).rdata = d.rdata := rfl
@[simp] theorem Dev.setLane_now (n : Nat) (x : Lane) : (d.setLane n x).now = d.now := rfl
@[simp] theorem Dev.setLane_draws (n : Nat) (x : Lane) : (d.setLane n x).draws = d.draws := rfl
@[simp] theorem Dev.setLane_out (n : Nat) (x : Lane) : (d.setLane n x).out = d.out := rfl
@[simp] theorem Dev.setLane_log (n : Nat) (x : Lane) : (d.setLane n x).log = d.log := rfl
@[simp] theorem Dev.setLane_trg (n : Nat) (x : Lane) : (d.setLane n x).trg = d.trg := rfl
@[simp] theorem Dev.setLane_flt (n : Nat) (x : Lane) : (d.setLane n x).flt = d.flt := rfl
@[simp] theorem Dev.setLane_pl (n : Nat) (x : Lane) : (d.setLane n x).pl = d.pl := rfl
@[simp] theorem Dev.setLane_stc (n : Nat) (x : Lane) : (d.setLane n x).stc = d.stc := rfl
@[simp] theorem Dev.setLane_seg (n : Nat) (x : Lane) : (d.setLane n x).seg = d.seg := rfl
@[simp] theorem Dev.setLane_mrk (n : Nat) (x : Lane) : (d.setLane n x).mrk = d.mrk := rfl
@[simp] theorem Dev.setLane_cdc (n : Nat) (x : Lane) : (d.setLane n x).cdc = d.cdc := rfl
@[simp] theorem Dev.setLane_net (n : Nat) (x : Lane) : (d.setLane n x).net = d.net := rfl
@[simp] theorem Dev.setLane_mer (n : Nat) (x : Lane) : (d.setLane n x).mer = d.mer := rfl
@[simp] theorem Dev.setLane_drc (n : Nat) (x : Lane) : (d.setLane n x).drc = d.drc := rfl
@[simp] theorem Dev.setLane_que (n : Nat) (x : Lane) : (d.setLane n x).que = d.que := rfl
@[simp] theorem Dev.setLane_dma (n : Nat) (x : Lane) : (d.setLane n x).dma = d.dma := rfl
@[simp] theorem Dev.setLane_icu (n : Nat) (x : Lane) : (d.setLane n x).icu = d.icu := rfl
@[simp] theorem Dev.setLane_evt (n : Nat) (x : Lane) : (d.setLane n x).evt = d.evt := rfl
@[simp] theorem Dev.setLane_pwr (n : Nat) (x : Lane) : (d.setLane n x).pwr = d.pwr := rfl
@[simp] theorem Dev.setLane_chn (n : Nat) (x : Lane) : (d.setLane n x).chn = d.chn := rfl
@[simp] theorem Dev.setLane_svc (n : Nat) (x : Lane) : (d.setLane n x).svc = d.svc := rfl
@[simp] theorem Dev.setLane_spr (n : Nat) (x : Lane) : (d.setLane n x).spr = d.spr := rfl
@[simp] theorem Dev.setLane_alm (n : Nat) (x : Lane) : (d.setLane n x).alm = d.alm := rfl
@[simp] theorem Dev.setLane_otp (n : Nat) (x : Lane) : (d.setLane n x).otp = d.otp := rfl
@[simp] theorem Dev.setLane_restart (n : Nat) (x : Lane) : (d.setLane n x).restart = d.restart := rfl

@[simp] theorem Dev.setLstr_regs (n : Nat) (x : LinkStream) : (d.setLstr n x).regs = d.regs := rfl
@[simp] theorem Dev.setLstr_hi (n : Nat) (x : LinkStream) : (d.setLstr n x).hi = d.hi := rfl
@[simp] theorem Dev.setLstr_staged (n : Nat) (x : LinkStream) : (d.setLstr n x).staged = d.staged := rfl
@[simp] theorem Dev.setLstr_rdata (n : Nat) (x : LinkStream) : (d.setLstr n x).rdata = d.rdata := rfl
@[simp] theorem Dev.setLstr_now (n : Nat) (x : LinkStream) : (d.setLstr n x).now = d.now := rfl
@[simp] theorem Dev.setLstr_draws (n : Nat) (x : LinkStream) : (d.setLstr n x).draws = d.draws := rfl
@[simp] theorem Dev.setLstr_out (n : Nat) (x : LinkStream) : (d.setLstr n x).out = d.out := rfl
@[simp] theorem Dev.setLstr_log (n : Nat) (x : LinkStream) : (d.setLstr n x).log = d.log := rfl
@[simp] theorem Dev.setLstr_trg (n : Nat) (x : LinkStream) : (d.setLstr n x).trg = d.trg := rfl
@[simp] theorem Dev.setLstr_flt (n : Nat) (x : LinkStream) : (d.setLstr n x).flt = d.flt := rfl
@[simp] theorem Dev.setLstr_pl (n : Nat) (x : LinkStream) : (d.setLstr n x).pl = d.pl := rfl
@[simp] theorem Dev.setLstr_stc (n : Nat) (x : LinkStream) : (d.setLstr n x).stc = d.stc := rfl
@[simp] theorem Dev.setLstr_seg (n : Nat) (x : LinkStream) : (d.setLstr n x).seg = d.seg := rfl
@[simp] theorem Dev.setLstr_mrk (n : Nat) (x : LinkStream) : (d.setLstr n x).mrk = d.mrk := rfl
@[simp] theorem Dev.setLstr_cdc (n : Nat) (x : LinkStream) : (d.setLstr n x).cdc = d.cdc := rfl
@[simp] theorem Dev.setLstr_net (n : Nat) (x : LinkStream) : (d.setLstr n x).net = d.net := rfl
@[simp] theorem Dev.setLstr_mer (n : Nat) (x : LinkStream) : (d.setLstr n x).mer = d.mer := rfl
@[simp] theorem Dev.setLstr_drc (n : Nat) (x : LinkStream) : (d.setLstr n x).drc = d.drc := rfl
@[simp] theorem Dev.setLstr_que (n : Nat) (x : LinkStream) : (d.setLstr n x).que = d.que := rfl
@[simp] theorem Dev.setLstr_dma (n : Nat) (x : LinkStream) : (d.setLstr n x).dma = d.dma := rfl
@[simp] theorem Dev.setLstr_icu (n : Nat) (x : LinkStream) : (d.setLstr n x).icu = d.icu := rfl
@[simp] theorem Dev.setLstr_evt (n : Nat) (x : LinkStream) : (d.setLstr n x).evt = d.evt := rfl
@[simp] theorem Dev.setLstr_pwr (n : Nat) (x : LinkStream) : (d.setLstr n x).pwr = d.pwr := rfl
@[simp] theorem Dev.setLstr_chn (n : Nat) (x : LinkStream) : (d.setLstr n x).chn = d.chn := rfl
@[simp] theorem Dev.setLstr_svc (n : Nat) (x : LinkStream) : (d.setLstr n x).svc = d.svc := rfl
@[simp] theorem Dev.setLstr_spr (n : Nat) (x : LinkStream) : (d.setLstr n x).spr = d.spr := rfl
@[simp] theorem Dev.setLstr_alm (n : Nat) (x : LinkStream) : (d.setLstr n x).alm = d.alm := rfl
@[simp] theorem Dev.setLstr_otp (n : Nat) (x : LinkStream) : (d.setLstr n x).otp = d.otp := rfl
@[simp] theorem Dev.setLstr_restart (n : Nat) (x : LinkStream) : (d.setLstr n x).restart = d.restart := rfl

@[simp] theorem Dev.setSvch_regs (n : Nat) (x : SvcChan) : (d.setSvch n x).regs = d.regs := rfl
@[simp] theorem Dev.setSvch_hi (n : Nat) (x : SvcChan) : (d.setSvch n x).hi = d.hi := rfl
@[simp] theorem Dev.setSvch_staged (n : Nat) (x : SvcChan) : (d.setSvch n x).staged = d.staged := rfl
@[simp] theorem Dev.setSvch_rdata (n : Nat) (x : SvcChan) : (d.setSvch n x).rdata = d.rdata := rfl
@[simp] theorem Dev.setSvch_now (n : Nat) (x : SvcChan) : (d.setSvch n x).now = d.now := rfl
@[simp] theorem Dev.setSvch_draws (n : Nat) (x : SvcChan) : (d.setSvch n x).draws = d.draws := rfl
@[simp] theorem Dev.setSvch_out (n : Nat) (x : SvcChan) : (d.setSvch n x).out = d.out := rfl
@[simp] theorem Dev.setSvch_log (n : Nat) (x : SvcChan) : (d.setSvch n x).log = d.log := rfl
@[simp] theorem Dev.setSvch_trg (n : Nat) (x : SvcChan) : (d.setSvch n x).trg = d.trg := rfl
@[simp] theorem Dev.setSvch_flt (n : Nat) (x : SvcChan) : (d.setSvch n x).flt = d.flt := rfl
@[simp] theorem Dev.setSvch_pl (n : Nat) (x : SvcChan) : (d.setSvch n x).pl = d.pl := rfl
@[simp] theorem Dev.setSvch_stc (n : Nat) (x : SvcChan) : (d.setSvch n x).stc = d.stc := rfl
@[simp] theorem Dev.setSvch_seg (n : Nat) (x : SvcChan) : (d.setSvch n x).seg = d.seg := rfl
@[simp] theorem Dev.setSvch_mrk (n : Nat) (x : SvcChan) : (d.setSvch n x).mrk = d.mrk := rfl
@[simp] theorem Dev.setSvch_cdc (n : Nat) (x : SvcChan) : (d.setSvch n x).cdc = d.cdc := rfl
@[simp] theorem Dev.setSvch_net (n : Nat) (x : SvcChan) : (d.setSvch n x).net = d.net := rfl
@[simp] theorem Dev.setSvch_mer (n : Nat) (x : SvcChan) : (d.setSvch n x).mer = d.mer := rfl
@[simp] theorem Dev.setSvch_drc (n : Nat) (x : SvcChan) : (d.setSvch n x).drc = d.drc := rfl
@[simp] theorem Dev.setSvch_que (n : Nat) (x : SvcChan) : (d.setSvch n x).que = d.que := rfl
@[simp] theorem Dev.setSvch_dma (n : Nat) (x : SvcChan) : (d.setSvch n x).dma = d.dma := rfl
@[simp] theorem Dev.setSvch_icu (n : Nat) (x : SvcChan) : (d.setSvch n x).icu = d.icu := rfl
@[simp] theorem Dev.setSvch_evt (n : Nat) (x : SvcChan) : (d.setSvch n x).evt = d.evt := rfl
@[simp] theorem Dev.setSvch_pwr (n : Nat) (x : SvcChan) : (d.setSvch n x).pwr = d.pwr := rfl
@[simp] theorem Dev.setSvch_chn (n : Nat) (x : SvcChan) : (d.setSvch n x).chn = d.chn := rfl
@[simp] theorem Dev.setSvch_svc (n : Nat) (x : SvcChan) : (d.setSvch n x).svc = d.svc := rfl
@[simp] theorem Dev.setSvch_spr (n : Nat) (x : SvcChan) : (d.setSvch n x).spr = d.spr := rfl
@[simp] theorem Dev.setSvch_alm (n : Nat) (x : SvcChan) : (d.setSvch n x).alm = d.alm := rfl
@[simp] theorem Dev.setSvch_otp (n : Nat) (x : SvcChan) : (d.setSvch n x).otp = d.otp := rfl
@[simp] theorem Dev.setSvch_restart (n : Nat) (x : SvcChan) : (d.setSvch n x).restart = d.restart := rfl

@[simp] theorem Dev.setFront_regs (n : Nat) (x : Front) : (d.setFront n x).regs = d.regs := rfl
@[simp] theorem Dev.setFront_hi (n : Nat) (x : Front) : (d.setFront n x).hi = d.hi := rfl
@[simp] theorem Dev.setFront_staged (n : Nat) (x : Front) : (d.setFront n x).staged = d.staged := rfl
@[simp] theorem Dev.setFront_rdata (n : Nat) (x : Front) : (d.setFront n x).rdata = d.rdata := rfl
@[simp] theorem Dev.setFront_now (n : Nat) (x : Front) : (d.setFront n x).now = d.now := rfl
@[simp] theorem Dev.setFront_draws (n : Nat) (x : Front) : (d.setFront n x).draws = d.draws := rfl
@[simp] theorem Dev.setFront_out (n : Nat) (x : Front) : (d.setFront n x).out = d.out := rfl
@[simp] theorem Dev.setFront_log (n : Nat) (x : Front) : (d.setFront n x).log = d.log := rfl
@[simp] theorem Dev.setFront_trg (n : Nat) (x : Front) : (d.setFront n x).trg = d.trg := rfl
@[simp] theorem Dev.setFront_flt (n : Nat) (x : Front) : (d.setFront n x).flt = d.flt := rfl
@[simp] theorem Dev.setFront_slk (n : Nat) (x : Front) : (d.setFront n x).slk = d.slk := rfl
@[simp] theorem Dev.setFront_stc (n : Nat) (x : Front) : (d.setFront n x).stc = d.stc := rfl
@[simp] theorem Dev.setFront_seg (n : Nat) (x : Front) : (d.setFront n x).seg = d.seg := rfl
@[simp] theorem Dev.setFront_mrk (n : Nat) (x : Front) : (d.setFront n x).mrk = d.mrk := rfl
@[simp] theorem Dev.setFront_cdc (n : Nat) (x : Front) : (d.setFront n x).cdc = d.cdc := rfl
@[simp] theorem Dev.setFront_net (n : Nat) (x : Front) : (d.setFront n x).net = d.net := rfl
@[simp] theorem Dev.setFront_mer (n : Nat) (x : Front) : (d.setFront n x).mer = d.mer := rfl
@[simp] theorem Dev.setFront_drc (n : Nat) (x : Front) : (d.setFront n x).drc = d.drc := rfl
@[simp] theorem Dev.setFront_que (n : Nat) (x : Front) : (d.setFront n x).que = d.que := rfl
@[simp] theorem Dev.setFront_dma (n : Nat) (x : Front) : (d.setFront n x).dma = d.dma := rfl
@[simp] theorem Dev.setFront_icu (n : Nat) (x : Front) : (d.setFront n x).icu = d.icu := rfl
@[simp] theorem Dev.setFront_evt (n : Nat) (x : Front) : (d.setFront n x).evt = d.evt := rfl
@[simp] theorem Dev.setFront_pwr (n : Nat) (x : Front) : (d.setFront n x).pwr = d.pwr := rfl
@[simp] theorem Dev.setFront_chn (n : Nat) (x : Front) : (d.setFront n x).chn = d.chn := rfl
@[simp] theorem Dev.setFront_svc (n : Nat) (x : Front) : (d.setFront n x).svc = d.svc := rfl
@[simp] theorem Dev.setFront_spr (n : Nat) (x : Front) : (d.setFront n x).spr = d.spr := rfl
@[simp] theorem Dev.setFront_alm (n : Nat) (x : Front) : (d.setFront n x).alm = d.alm := rfl
@[simp] theorem Dev.setFront_otp (n : Nat) (x : Front) : (d.setFront n x).otp = d.otp := rfl
@[simp] theorem Dev.setFront_restart (n : Nat) (x : Front) : (d.setFront n x).restart = d.restart := rfl

@[simp] theorem Dev.setCam_regs (n : Nat) (x : Cam) : (d.setCam n x).regs = d.regs := rfl
@[simp] theorem Dev.setCam_hi (n : Nat) (x : Cam) : (d.setCam n x).hi = d.hi := rfl
@[simp] theorem Dev.setCam_staged (n : Nat) (x : Cam) : (d.setCam n x).staged = d.staged := rfl
@[simp] theorem Dev.setCam_rdata (n : Nat) (x : Cam) : (d.setCam n x).rdata = d.rdata := rfl
@[simp] theorem Dev.setCam_now (n : Nat) (x : Cam) : (d.setCam n x).now = d.now := rfl
@[simp] theorem Dev.setCam_draws (n : Nat) (x : Cam) : (d.setCam n x).draws = d.draws := rfl
@[simp] theorem Dev.setCam_out (n : Nat) (x : Cam) : (d.setCam n x).out = d.out := rfl
@[simp] theorem Dev.setCam_log (n : Nat) (x : Cam) : (d.setCam n x).log = d.log := rfl
@[simp] theorem Dev.setCam_trg (n : Nat) (x : Cam) : (d.setCam n x).trg = d.trg := rfl
@[simp] theorem Dev.setCam_flt (n : Nat) (x : Cam) : (d.setCam n x).flt = d.flt := rfl
@[simp] theorem Dev.setCam_slk (n : Nat) (x : Cam) : (d.setCam n x).slk = d.slk := rfl
@[simp] theorem Dev.setCam_pl (n : Nat) (x : Cam) : (d.setCam n x).pl = d.pl := rfl
@[simp] theorem Dev.setCam_seg (n : Nat) (x : Cam) : (d.setCam n x).seg = d.seg := rfl
@[simp] theorem Dev.setCam_mrk (n : Nat) (x : Cam) : (d.setCam n x).mrk = d.mrk := rfl
@[simp] theorem Dev.setCam_cdc (n : Nat) (x : Cam) : (d.setCam n x).cdc = d.cdc := rfl
@[simp] theorem Dev.setCam_net (n : Nat) (x : Cam) : (d.setCam n x).net = d.net := rfl
@[simp] theorem Dev.setCam_mer (n : Nat) (x : Cam) : (d.setCam n x).mer = d.mer := rfl
@[simp] theorem Dev.setCam_drc (n : Nat) (x : Cam) : (d.setCam n x).drc = d.drc := rfl
@[simp] theorem Dev.setCam_que (n : Nat) (x : Cam) : (d.setCam n x).que = d.que := rfl
@[simp] theorem Dev.setCam_dma (n : Nat) (x : Cam) : (d.setCam n x).dma = d.dma := rfl
@[simp] theorem Dev.setCam_icu (n : Nat) (x : Cam) : (d.setCam n x).icu = d.icu := rfl
@[simp] theorem Dev.setCam_evt (n : Nat) (x : Cam) : (d.setCam n x).evt = d.evt := rfl
@[simp] theorem Dev.setCam_pwr (n : Nat) (x : Cam) : (d.setCam n x).pwr = d.pwr := rfl
@[simp] theorem Dev.setCam_chn (n : Nat) (x : Cam) : (d.setCam n x).chn = d.chn := rfl
@[simp] theorem Dev.setCam_svc (n : Nat) (x : Cam) : (d.setCam n x).svc = d.svc := rfl
@[simp] theorem Dev.setCam_spr (n : Nat) (x : Cam) : (d.setCam n x).spr = d.spr := rfl
@[simp] theorem Dev.setCam_alm (n : Nat) (x : Cam) : (d.setCam n x).alm = d.alm := rfl
@[simp] theorem Dev.setCam_otp (n : Nat) (x : Cam) : (d.setCam n x).otp = d.otp := rfl
@[simp] theorem Dev.setCam_restart (n : Nat) (x : Cam) : (d.setCam n x).restart = d.restart := rfl

@[simp] theorem Dev.setSlice_regs (n : Nat) (x : Slice) : (d.setSlice n x).regs = d.regs := rfl
@[simp] theorem Dev.setSlice_hi (n : Nat) (x : Slice) : (d.setSlice n x).hi = d.hi := rfl
@[simp] theorem Dev.setSlice_staged (n : Nat) (x : Slice) : (d.setSlice n x).staged = d.staged := rfl
@[simp] theorem Dev.setSlice_rdata (n : Nat) (x : Slice) : (d.setSlice n x).rdata = d.rdata := rfl
@[simp] theorem Dev.setSlice_now (n : Nat) (x : Slice) : (d.setSlice n x).now = d.now := rfl
@[simp] theorem Dev.setSlice_draws (n : Nat) (x : Slice) : (d.setSlice n x).draws = d.draws := rfl
@[simp] theorem Dev.setSlice_out (n : Nat) (x : Slice) : (d.setSlice n x).out = d.out := rfl
@[simp] theorem Dev.setSlice_log (n : Nat) (x : Slice) : (d.setSlice n x).log = d.log := rfl
@[simp] theorem Dev.setSlice_trg (n : Nat) (x : Slice) : (d.setSlice n x).trg = d.trg := rfl
@[simp] theorem Dev.setSlice_flt (n : Nat) (x : Slice) : (d.setSlice n x).flt = d.flt := rfl
@[simp] theorem Dev.setSlice_slk (n : Nat) (x : Slice) : (d.setSlice n x).slk = d.slk := rfl
@[simp] theorem Dev.setSlice_pl (n : Nat) (x : Slice) : (d.setSlice n x).pl = d.pl := rfl
@[simp] theorem Dev.setSlice_stc (n : Nat) (x : Slice) : (d.setSlice n x).stc = d.stc := rfl
@[simp] theorem Dev.setSlice_mrk (n : Nat) (x : Slice) : (d.setSlice n x).mrk = d.mrk := rfl
@[simp] theorem Dev.setSlice_cdc (n : Nat) (x : Slice) : (d.setSlice n x).cdc = d.cdc := rfl
@[simp] theorem Dev.setSlice_net (n : Nat) (x : Slice) : (d.setSlice n x).net = d.net := rfl
@[simp] theorem Dev.setSlice_mer (n : Nat) (x : Slice) : (d.setSlice n x).mer = d.mer := rfl
@[simp] theorem Dev.setSlice_drc (n : Nat) (x : Slice) : (d.setSlice n x).drc = d.drc := rfl
@[simp] theorem Dev.setSlice_que (n : Nat) (x : Slice) : (d.setSlice n x).que = d.que := rfl
@[simp] theorem Dev.setSlice_dma (n : Nat) (x : Slice) : (d.setSlice n x).dma = d.dma := rfl
@[simp] theorem Dev.setSlice_icu (n : Nat) (x : Slice) : (d.setSlice n x).icu = d.icu := rfl
@[simp] theorem Dev.setSlice_evt (n : Nat) (x : Slice) : (d.setSlice n x).evt = d.evt := rfl
@[simp] theorem Dev.setSlice_pwr (n : Nat) (x : Slice) : (d.setSlice n x).pwr = d.pwr := rfl
@[simp] theorem Dev.setSlice_chn (n : Nat) (x : Slice) : (d.setSlice n x).chn = d.chn := rfl
@[simp] theorem Dev.setSlice_svc (n : Nat) (x : Slice) : (d.setSlice n x).svc = d.svc := rfl
@[simp] theorem Dev.setSlice_spr (n : Nat) (x : Slice) : (d.setSlice n x).spr = d.spr := rfl
@[simp] theorem Dev.setSlice_alm (n : Nat) (x : Slice) : (d.setSlice n x).alm = d.alm := rfl
@[simp] theorem Dev.setSlice_otp (n : Nat) (x : Slice) : (d.setSlice n x).otp = d.otp := rfl
@[simp] theorem Dev.setSlice_restart (n : Nat) (x : Slice) : (d.setSlice n x).restart = d.restart := rfl

@[simp] theorem Dev.setHead_regs (n : Nat) (x : Head) : (d.setHead n x).regs = d.regs := rfl
@[simp] theorem Dev.setHead_hi (n : Nat) (x : Head) : (d.setHead n x).hi = d.hi := rfl
@[simp] theorem Dev.setHead_staged (n : Nat) (x : Head) : (d.setHead n x).staged = d.staged := rfl
@[simp] theorem Dev.setHead_rdata (n : Nat) (x : Head) : (d.setHead n x).rdata = d.rdata := rfl
@[simp] theorem Dev.setHead_now (n : Nat) (x : Head) : (d.setHead n x).now = d.now := rfl
@[simp] theorem Dev.setHead_draws (n : Nat) (x : Head) : (d.setHead n x).draws = d.draws := rfl
@[simp] theorem Dev.setHead_out (n : Nat) (x : Head) : (d.setHead n x).out = d.out := rfl
@[simp] theorem Dev.setHead_log (n : Nat) (x : Head) : (d.setHead n x).log = d.log := rfl
@[simp] theorem Dev.setHead_trg (n : Nat) (x : Head) : (d.setHead n x).trg = d.trg := rfl
@[simp] theorem Dev.setHead_flt (n : Nat) (x : Head) : (d.setHead n x).flt = d.flt := rfl
@[simp] theorem Dev.setHead_slk (n : Nat) (x : Head) : (d.setHead n x).slk = d.slk := rfl
@[simp] theorem Dev.setHead_pl (n : Nat) (x : Head) : (d.setHead n x).pl = d.pl := rfl
@[simp] theorem Dev.setHead_stc (n : Nat) (x : Head) : (d.setHead n x).stc = d.stc := rfl
@[simp] theorem Dev.setHead_seg (n : Nat) (x : Head) : (d.setHead n x).seg = d.seg := rfl
@[simp] theorem Dev.setHead_cdc (n : Nat) (x : Head) : (d.setHead n x).cdc = d.cdc := rfl
@[simp] theorem Dev.setHead_net (n : Nat) (x : Head) : (d.setHead n x).net = d.net := rfl
@[simp] theorem Dev.setHead_mer (n : Nat) (x : Head) : (d.setHead n x).mer = d.mer := rfl
@[simp] theorem Dev.setHead_drc (n : Nat) (x : Head) : (d.setHead n x).drc = d.drc := rfl
@[simp] theorem Dev.setHead_que (n : Nat) (x : Head) : (d.setHead n x).que = d.que := rfl
@[simp] theorem Dev.setHead_dma (n : Nat) (x : Head) : (d.setHead n x).dma = d.dma := rfl
@[simp] theorem Dev.setHead_icu (n : Nat) (x : Head) : (d.setHead n x).icu = d.icu := rfl
@[simp] theorem Dev.setHead_evt (n : Nat) (x : Head) : (d.setHead n x).evt = d.evt := rfl
@[simp] theorem Dev.setHead_pwr (n : Nat) (x : Head) : (d.setHead n x).pwr = d.pwr := rfl
@[simp] theorem Dev.setHead_chn (n : Nat) (x : Head) : (d.setHead n x).chn = d.chn := rfl
@[simp] theorem Dev.setHead_svc (n : Nat) (x : Head) : (d.setHead n x).svc = d.svc := rfl
@[simp] theorem Dev.setHead_spr (n : Nat) (x : Head) : (d.setHead n x).spr = d.spr := rfl
@[simp] theorem Dev.setHead_alm (n : Nat) (x : Head) : (d.setHead n x).alm = d.alm := rfl
@[simp] theorem Dev.setHead_otp (n : Nat) (x : Head) : (d.setHead n x).otp = d.otp := rfl
@[simp] theorem Dev.setHead_restart (n : Nat) (x : Head) : (d.setHead n x).restart = d.restart := rfl

@[simp] theorem Dev.setEng_regs (n : Nat) (x : Engine) : (d.setEng n x).regs = d.regs := rfl
@[simp] theorem Dev.setEng_hi (n : Nat) (x : Engine) : (d.setEng n x).hi = d.hi := rfl
@[simp] theorem Dev.setEng_staged (n : Nat) (x : Engine) : (d.setEng n x).staged = d.staged := rfl
@[simp] theorem Dev.setEng_rdata (n : Nat) (x : Engine) : (d.setEng n x).rdata = d.rdata := rfl
@[simp] theorem Dev.setEng_now (n : Nat) (x : Engine) : (d.setEng n x).now = d.now := rfl
@[simp] theorem Dev.setEng_draws (n : Nat) (x : Engine) : (d.setEng n x).draws = d.draws := rfl
@[simp] theorem Dev.setEng_out (n : Nat) (x : Engine) : (d.setEng n x).out = d.out := rfl
@[simp] theorem Dev.setEng_log (n : Nat) (x : Engine) : (d.setEng n x).log = d.log := rfl
@[simp] theorem Dev.setEng_trg (n : Nat) (x : Engine) : (d.setEng n x).trg = d.trg := rfl
@[simp] theorem Dev.setEng_flt (n : Nat) (x : Engine) : (d.setEng n x).flt = d.flt := rfl
@[simp] theorem Dev.setEng_slk (n : Nat) (x : Engine) : (d.setEng n x).slk = d.slk := rfl
@[simp] theorem Dev.setEng_pl (n : Nat) (x : Engine) : (d.setEng n x).pl = d.pl := rfl
@[simp] theorem Dev.setEng_stc (n : Nat) (x : Engine) : (d.setEng n x).stc = d.stc := rfl
@[simp] theorem Dev.setEng_seg (n : Nat) (x : Engine) : (d.setEng n x).seg = d.seg := rfl
@[simp] theorem Dev.setEng_mrk (n : Nat) (x : Engine) : (d.setEng n x).mrk = d.mrk := rfl
@[simp] theorem Dev.setEng_net (n : Nat) (x : Engine) : (d.setEng n x).net = d.net := rfl
@[simp] theorem Dev.setEng_mer (n : Nat) (x : Engine) : (d.setEng n x).mer = d.mer := rfl
@[simp] theorem Dev.setEng_drc (n : Nat) (x : Engine) : (d.setEng n x).drc = d.drc := rfl
@[simp] theorem Dev.setEng_que (n : Nat) (x : Engine) : (d.setEng n x).que = d.que := rfl
@[simp] theorem Dev.setEng_dma (n : Nat) (x : Engine) : (d.setEng n x).dma = d.dma := rfl
@[simp] theorem Dev.setEng_icu (n : Nat) (x : Engine) : (d.setEng n x).icu = d.icu := rfl
@[simp] theorem Dev.setEng_evt (n : Nat) (x : Engine) : (d.setEng n x).evt = d.evt := rfl
@[simp] theorem Dev.setEng_pwr (n : Nat) (x : Engine) : (d.setEng n x).pwr = d.pwr := rfl
@[simp] theorem Dev.setEng_chn (n : Nat) (x : Engine) : (d.setEng n x).chn = d.chn := rfl
@[simp] theorem Dev.setEng_svc (n : Nat) (x : Engine) : (d.setEng n x).svc = d.svc := rfl
@[simp] theorem Dev.setEng_spr (n : Nat) (x : Engine) : (d.setEng n x).spr = d.spr := rfl
@[simp] theorem Dev.setEng_alm (n : Nat) (x : Engine) : (d.setEng n x).alm = d.alm := rfl
@[simp] theorem Dev.setEng_otp (n : Nat) (x : Engine) : (d.setEng n x).otp = d.otp := rfl
@[simp] theorem Dev.setEng_restart (n : Nat) (x : Engine) : (d.setEng n x).restart = d.restart := rfl

@[simp] theorem Dev.setTap_regs (n : Nat) (x : Tap) : (d.setTap n x).regs = d.regs := rfl
@[simp] theorem Dev.setTap_hi (n : Nat) (x : Tap) : (d.setTap n x).hi = d.hi := rfl
@[simp] theorem Dev.setTap_staged (n : Nat) (x : Tap) : (d.setTap n x).staged = d.staged := rfl
@[simp] theorem Dev.setTap_rdata (n : Nat) (x : Tap) : (d.setTap n x).rdata = d.rdata := rfl
@[simp] theorem Dev.setTap_now (n : Nat) (x : Tap) : (d.setTap n x).now = d.now := rfl
@[simp] theorem Dev.setTap_draws (n : Nat) (x : Tap) : (d.setTap n x).draws = d.draws := rfl
@[simp] theorem Dev.setTap_out (n : Nat) (x : Tap) : (d.setTap n x).out = d.out := rfl
@[simp] theorem Dev.setTap_log (n : Nat) (x : Tap) : (d.setTap n x).log = d.log := rfl
@[simp] theorem Dev.setTap_trg (n : Nat) (x : Tap) : (d.setTap n x).trg = d.trg := rfl
@[simp] theorem Dev.setTap_flt (n : Nat) (x : Tap) : (d.setTap n x).flt = d.flt := rfl
@[simp] theorem Dev.setTap_slk (n : Nat) (x : Tap) : (d.setTap n x).slk = d.slk := rfl
@[simp] theorem Dev.setTap_pl (n : Nat) (x : Tap) : (d.setTap n x).pl = d.pl := rfl
@[simp] theorem Dev.setTap_stc (n : Nat) (x : Tap) : (d.setTap n x).stc = d.stc := rfl
@[simp] theorem Dev.setTap_seg (n : Nat) (x : Tap) : (d.setTap n x).seg = d.seg := rfl
@[simp] theorem Dev.setTap_mrk (n : Nat) (x : Tap) : (d.setTap n x).mrk = d.mrk := rfl
@[simp] theorem Dev.setTap_net (n : Nat) (x : Tap) : (d.setTap n x).net = d.net := rfl
@[simp] theorem Dev.setTap_mer (n : Nat) (x : Tap) : (d.setTap n x).mer = d.mer := rfl
@[simp] theorem Dev.setTap_drc (n : Nat) (x : Tap) : (d.setTap n x).drc = d.drc := rfl
@[simp] theorem Dev.setTap_que (n : Nat) (x : Tap) : (d.setTap n x).que = d.que := rfl
@[simp] theorem Dev.setTap_dma (n : Nat) (x : Tap) : (d.setTap n x).dma = d.dma := rfl
@[simp] theorem Dev.setTap_icu (n : Nat) (x : Tap) : (d.setTap n x).icu = d.icu := rfl
@[simp] theorem Dev.setTap_evt (n : Nat) (x : Tap) : (d.setTap n x).evt = d.evt := rfl
@[simp] theorem Dev.setTap_pwr (n : Nat) (x : Tap) : (d.setTap n x).pwr = d.pwr := rfl
@[simp] theorem Dev.setTap_chn (n : Nat) (x : Tap) : (d.setTap n x).chn = d.chn := rfl
@[simp] theorem Dev.setTap_svc (n : Nat) (x : Tap) : (d.setTap n x).svc = d.svc := rfl
@[simp] theorem Dev.setTap_spr (n : Nat) (x : Tap) : (d.setTap n x).spr = d.spr := rfl
@[simp] theorem Dev.setTap_alm (n : Nat) (x : Tap) : (d.setTap n x).alm = d.alm := rfl
@[simp] theorem Dev.setTap_otp (n : Nat) (x : Tap) : (d.setTap n x).otp = d.otp := rfl
@[simp] theorem Dev.setTap_restart (n : Nat) (x : Tap) : (d.setTap n x).restart = d.restart := rfl

@[simp] theorem Dev.setNport_regs (n : Nat) (x : Port) : (d.setNport n x).regs = d.regs := rfl
@[simp] theorem Dev.setNport_hi (n : Nat) (x : Port) : (d.setNport n x).hi = d.hi := rfl
@[simp] theorem Dev.setNport_staged (n : Nat) (x : Port) : (d.setNport n x).staged = d.staged := rfl
@[simp] theorem Dev.setNport_rdata (n : Nat) (x : Port) : (d.setNport n x).rdata = d.rdata := rfl
@[simp] theorem Dev.setNport_now (n : Nat) (x : Port) : (d.setNport n x).now = d.now := rfl
@[simp] theorem Dev.setNport_draws (n : Nat) (x : Port) : (d.setNport n x).draws = d.draws := rfl
@[simp] theorem Dev.setNport_out (n : Nat) (x : Port) : (d.setNport n x).out = d.out := rfl
@[simp] theorem Dev.setNport_log (n : Nat) (x : Port) : (d.setNport n x).log = d.log := rfl
@[simp] theorem Dev.setNport_trg (n : Nat) (x : Port) : (d.setNport n x).trg = d.trg := rfl
@[simp] theorem Dev.setNport_flt (n : Nat) (x : Port) : (d.setNport n x).flt = d.flt := rfl
@[simp] theorem Dev.setNport_slk (n : Nat) (x : Port) : (d.setNport n x).slk = d.slk := rfl
@[simp] theorem Dev.setNport_pl (n : Nat) (x : Port) : (d.setNport n x).pl = d.pl := rfl
@[simp] theorem Dev.setNport_stc (n : Nat) (x : Port) : (d.setNport n x).stc = d.stc := rfl
@[simp] theorem Dev.setNport_seg (n : Nat) (x : Port) : (d.setNport n x).seg = d.seg := rfl
@[simp] theorem Dev.setNport_mrk (n : Nat) (x : Port) : (d.setNport n x).mrk = d.mrk := rfl
@[simp] theorem Dev.setNport_cdc (n : Nat) (x : Port) : (d.setNport n x).cdc = d.cdc := rfl
@[simp] theorem Dev.setNport_mer (n : Nat) (x : Port) : (d.setNport n x).mer = d.mer := rfl
@[simp] theorem Dev.setNport_drc (n : Nat) (x : Port) : (d.setNport n x).drc = d.drc := rfl
@[simp] theorem Dev.setNport_que (n : Nat) (x : Port) : (d.setNport n x).que = d.que := rfl
@[simp] theorem Dev.setNport_dma (n : Nat) (x : Port) : (d.setNport n x).dma = d.dma := rfl
@[simp] theorem Dev.setNport_icu (n : Nat) (x : Port) : (d.setNport n x).icu = d.icu := rfl
@[simp] theorem Dev.setNport_evt (n : Nat) (x : Port) : (d.setNport n x).evt = d.evt := rfl
@[simp] theorem Dev.setNport_pwr (n : Nat) (x : Port) : (d.setNport n x).pwr = d.pwr := rfl
@[simp] theorem Dev.setNport_chn (n : Nat) (x : Port) : (d.setNport n x).chn = d.chn := rfl
@[simp] theorem Dev.setNport_svc (n : Nat) (x : Port) : (d.setNport n x).svc = d.svc := rfl
@[simp] theorem Dev.setNport_spr (n : Nat) (x : Port) : (d.setNport n x).spr = d.spr := rfl
@[simp] theorem Dev.setNport_alm (n : Nat) (x : Port) : (d.setNport n x).alm = d.alm := rfl
@[simp] theorem Dev.setNport_otp (n : Nat) (x : Port) : (d.setNport n x).otp = d.otp := rfl
@[simp] theorem Dev.setNport_restart (n : Nat) (x : Port) : (d.setNport n x).restart = d.restart := rfl

@[simp] theorem Dev.setNflow_regs (n : Nat) (x : Flow) : (d.setNflow n x).regs = d.regs := rfl
@[simp] theorem Dev.setNflow_hi (n : Nat) (x : Flow) : (d.setNflow n x).hi = d.hi := rfl
@[simp] theorem Dev.setNflow_staged (n : Nat) (x : Flow) : (d.setNflow n x).staged = d.staged := rfl
@[simp] theorem Dev.setNflow_rdata (n : Nat) (x : Flow) : (d.setNflow n x).rdata = d.rdata := rfl
@[simp] theorem Dev.setNflow_now (n : Nat) (x : Flow) : (d.setNflow n x).now = d.now := rfl
@[simp] theorem Dev.setNflow_draws (n : Nat) (x : Flow) : (d.setNflow n x).draws = d.draws := rfl
@[simp] theorem Dev.setNflow_out (n : Nat) (x : Flow) : (d.setNflow n x).out = d.out := rfl
@[simp] theorem Dev.setNflow_log (n : Nat) (x : Flow) : (d.setNflow n x).log = d.log := rfl
@[simp] theorem Dev.setNflow_trg (n : Nat) (x : Flow) : (d.setNflow n x).trg = d.trg := rfl
@[simp] theorem Dev.setNflow_flt (n : Nat) (x : Flow) : (d.setNflow n x).flt = d.flt := rfl
@[simp] theorem Dev.setNflow_slk (n : Nat) (x : Flow) : (d.setNflow n x).slk = d.slk := rfl
@[simp] theorem Dev.setNflow_pl (n : Nat) (x : Flow) : (d.setNflow n x).pl = d.pl := rfl
@[simp] theorem Dev.setNflow_stc (n : Nat) (x : Flow) : (d.setNflow n x).stc = d.stc := rfl
@[simp] theorem Dev.setNflow_seg (n : Nat) (x : Flow) : (d.setNflow n x).seg = d.seg := rfl
@[simp] theorem Dev.setNflow_mrk (n : Nat) (x : Flow) : (d.setNflow n x).mrk = d.mrk := rfl
@[simp] theorem Dev.setNflow_cdc (n : Nat) (x : Flow) : (d.setNflow n x).cdc = d.cdc := rfl
@[simp] theorem Dev.setNflow_mer (n : Nat) (x : Flow) : (d.setNflow n x).mer = d.mer := rfl
@[simp] theorem Dev.setNflow_drc (n : Nat) (x : Flow) : (d.setNflow n x).drc = d.drc := rfl
@[simp] theorem Dev.setNflow_que (n : Nat) (x : Flow) : (d.setNflow n x).que = d.que := rfl
@[simp] theorem Dev.setNflow_dma (n : Nat) (x : Flow) : (d.setNflow n x).dma = d.dma := rfl
@[simp] theorem Dev.setNflow_icu (n : Nat) (x : Flow) : (d.setNflow n x).icu = d.icu := rfl
@[simp] theorem Dev.setNflow_evt (n : Nat) (x : Flow) : (d.setNflow n x).evt = d.evt := rfl
@[simp] theorem Dev.setNflow_pwr (n : Nat) (x : Flow) : (d.setNflow n x).pwr = d.pwr := rfl
@[simp] theorem Dev.setNflow_chn (n : Nat) (x : Flow) : (d.setNflow n x).chn = d.chn := rfl
@[simp] theorem Dev.setNflow_svc (n : Nat) (x : Flow) : (d.setNflow n x).svc = d.svc := rfl
@[simp] theorem Dev.setNflow_spr (n : Nat) (x : Flow) : (d.setNflow n x).spr = d.spr := rfl
@[simp] theorem Dev.setNflow_alm (n : Nat) (x : Flow) : (d.setNflow n x).alm = d.alm := rfl
@[simp] theorem Dev.setNflow_otp (n : Nat) (x : Flow) : (d.setNflow n x).otp = d.otp := rfl
@[simp] theorem Dev.setNflow_restart (n : Nat) (x : Flow) : (d.setNflow n x).restart = d.restart := rfl

@[simp] theorem Dev.setDom_regs (n : Nat) (x : Domain) : (d.setDom n x).regs = d.regs := rfl
@[simp] theorem Dev.setDom_hi (n : Nat) (x : Domain) : (d.setDom n x).hi = d.hi := rfl
@[simp] theorem Dev.setDom_staged (n : Nat) (x : Domain) : (d.setDom n x).staged = d.staged := rfl
@[simp] theorem Dev.setDom_rdata (n : Nat) (x : Domain) : (d.setDom n x).rdata = d.rdata := rfl
@[simp] theorem Dev.setDom_now (n : Nat) (x : Domain) : (d.setDom n x).now = d.now := rfl
@[simp] theorem Dev.setDom_draws (n : Nat) (x : Domain) : (d.setDom n x).draws = d.draws := rfl
@[simp] theorem Dev.setDom_out (n : Nat) (x : Domain) : (d.setDom n x).out = d.out := rfl
@[simp] theorem Dev.setDom_log (n : Nat) (x : Domain) : (d.setDom n x).log = d.log := rfl
@[simp] theorem Dev.setDom_trg (n : Nat) (x : Domain) : (d.setDom n x).trg = d.trg := rfl
@[simp] theorem Dev.setDom_flt (n : Nat) (x : Domain) : (d.setDom n x).flt = d.flt := rfl
@[simp] theorem Dev.setDom_slk (n : Nat) (x : Domain) : (d.setDom n x).slk = d.slk := rfl
@[simp] theorem Dev.setDom_pl (n : Nat) (x : Domain) : (d.setDom n x).pl = d.pl := rfl
@[simp] theorem Dev.setDom_stc (n : Nat) (x : Domain) : (d.setDom n x).stc = d.stc := rfl
@[simp] theorem Dev.setDom_seg (n : Nat) (x : Domain) : (d.setDom n x).seg = d.seg := rfl
@[simp] theorem Dev.setDom_mrk (n : Nat) (x : Domain) : (d.setDom n x).mrk = d.mrk := rfl
@[simp] theorem Dev.setDom_cdc (n : Nat) (x : Domain) : (d.setDom n x).cdc = d.cdc := rfl
@[simp] theorem Dev.setDom_net (n : Nat) (x : Domain) : (d.setDom n x).net = d.net := rfl
@[simp] theorem Dev.setDom_drc (n : Nat) (x : Domain) : (d.setDom n x).drc = d.drc := rfl
@[simp] theorem Dev.setDom_que (n : Nat) (x : Domain) : (d.setDom n x).que = d.que := rfl
@[simp] theorem Dev.setDom_dma (n : Nat) (x : Domain) : (d.setDom n x).dma = d.dma := rfl
@[simp] theorem Dev.setDom_icu (n : Nat) (x : Domain) : (d.setDom n x).icu = d.icu := rfl
@[simp] theorem Dev.setDom_evt (n : Nat) (x : Domain) : (d.setDom n x).evt = d.evt := rfl
@[simp] theorem Dev.setDom_pwr (n : Nat) (x : Domain) : (d.setDom n x).pwr = d.pwr := rfl
@[simp] theorem Dev.setDom_chn (n : Nat) (x : Domain) : (d.setDom n x).chn = d.chn := rfl
@[simp] theorem Dev.setDom_svc (n : Nat) (x : Domain) : (d.setDom n x).svc = d.svc := rfl
@[simp] theorem Dev.setDom_spr (n : Nat) (x : Domain) : (d.setDom n x).spr = d.spr := rfl
@[simp] theorem Dev.setDom_alm (n : Nat) (x : Domain) : (d.setDom n x).alm = d.alm := rfl
@[simp] theorem Dev.setDom_otp (n : Nat) (x : Domain) : (d.setDom n x).otp = d.otp := rfl
@[simp] theorem Dev.setDom_restart (n : Nat) (x : Domain) : (d.setDom n x).restart = d.restart := rfl

@[simp] theorem Dev.setDch_regs (n : Nat) (x : DramChan) : (d.setDch n x).regs = d.regs := rfl
@[simp] theorem Dev.setDch_hi (n : Nat) (x : DramChan) : (d.setDch n x).hi = d.hi := rfl
@[simp] theorem Dev.setDch_staged (n : Nat) (x : DramChan) : (d.setDch n x).staged = d.staged := rfl
@[simp] theorem Dev.setDch_rdata (n : Nat) (x : DramChan) : (d.setDch n x).rdata = d.rdata := rfl
@[simp] theorem Dev.setDch_now (n : Nat) (x : DramChan) : (d.setDch n x).now = d.now := rfl
@[simp] theorem Dev.setDch_draws (n : Nat) (x : DramChan) : (d.setDch n x).draws = d.draws := rfl
@[simp] theorem Dev.setDch_out (n : Nat) (x : DramChan) : (d.setDch n x).out = d.out := rfl
@[simp] theorem Dev.setDch_log (n : Nat) (x : DramChan) : (d.setDch n x).log = d.log := rfl
@[simp] theorem Dev.setDch_trg (n : Nat) (x : DramChan) : (d.setDch n x).trg = d.trg := rfl
@[simp] theorem Dev.setDch_flt (n : Nat) (x : DramChan) : (d.setDch n x).flt = d.flt := rfl
@[simp] theorem Dev.setDch_slk (n : Nat) (x : DramChan) : (d.setDch n x).slk = d.slk := rfl
@[simp] theorem Dev.setDch_pl (n : Nat) (x : DramChan) : (d.setDch n x).pl = d.pl := rfl
@[simp] theorem Dev.setDch_stc (n : Nat) (x : DramChan) : (d.setDch n x).stc = d.stc := rfl
@[simp] theorem Dev.setDch_seg (n : Nat) (x : DramChan) : (d.setDch n x).seg = d.seg := rfl
@[simp] theorem Dev.setDch_mrk (n : Nat) (x : DramChan) : (d.setDch n x).mrk = d.mrk := rfl
@[simp] theorem Dev.setDch_cdc (n : Nat) (x : DramChan) : (d.setDch n x).cdc = d.cdc := rfl
@[simp] theorem Dev.setDch_net (n : Nat) (x : DramChan) : (d.setDch n x).net = d.net := rfl
@[simp] theorem Dev.setDch_mer (n : Nat) (x : DramChan) : (d.setDch n x).mer = d.mer := rfl
@[simp] theorem Dev.setDch_que (n : Nat) (x : DramChan) : (d.setDch n x).que = d.que := rfl
@[simp] theorem Dev.setDch_dma (n : Nat) (x : DramChan) : (d.setDch n x).dma = d.dma := rfl
@[simp] theorem Dev.setDch_icu (n : Nat) (x : DramChan) : (d.setDch n x).icu = d.icu := rfl
@[simp] theorem Dev.setDch_evt (n : Nat) (x : DramChan) : (d.setDch n x).evt = d.evt := rfl
@[simp] theorem Dev.setDch_pwr (n : Nat) (x : DramChan) : (d.setDch n x).pwr = d.pwr := rfl
@[simp] theorem Dev.setDch_chn (n : Nat) (x : DramChan) : (d.setDch n x).chn = d.chn := rfl
@[simp] theorem Dev.setDch_svc (n : Nat) (x : DramChan) : (d.setDch n x).svc = d.svc := rfl
@[simp] theorem Dev.setDch_spr (n : Nat) (x : DramChan) : (d.setDch n x).spr = d.spr := rfl
@[simp] theorem Dev.setDch_alm (n : Nat) (x : DramChan) : (d.setDch n x).alm = d.alm := rfl
@[simp] theorem Dev.setDch_otp (n : Nat) (x : DramChan) : (d.setDch n x).otp = d.otp := rfl
@[simp] theorem Dev.setDch_restart (n : Nat) (x : DramChan) : (d.setDch n x).restart = d.restart := rfl

@[simp] theorem Dev.setQueue_regs (n : Nat) (x : Queue) : (d.setQueue n x).regs = d.regs := rfl
@[simp] theorem Dev.setQueue_hi (n : Nat) (x : Queue) : (d.setQueue n x).hi = d.hi := rfl
@[simp] theorem Dev.setQueue_staged (n : Nat) (x : Queue) : (d.setQueue n x).staged = d.staged := rfl
@[simp] theorem Dev.setQueue_rdata (n : Nat) (x : Queue) : (d.setQueue n x).rdata = d.rdata := rfl
@[simp] theorem Dev.setQueue_now (n : Nat) (x : Queue) : (d.setQueue n x).now = d.now := rfl
@[simp] theorem Dev.setQueue_draws (n : Nat) (x : Queue) : (d.setQueue n x).draws = d.draws := rfl
@[simp] theorem Dev.setQueue_out (n : Nat) (x : Queue) : (d.setQueue n x).out = d.out := rfl
@[simp] theorem Dev.setQueue_log (n : Nat) (x : Queue) : (d.setQueue n x).log = d.log := rfl
@[simp] theorem Dev.setQueue_trg (n : Nat) (x : Queue) : (d.setQueue n x).trg = d.trg := rfl
@[simp] theorem Dev.setQueue_flt (n : Nat) (x : Queue) : (d.setQueue n x).flt = d.flt := rfl
@[simp] theorem Dev.setQueue_slk (n : Nat) (x : Queue) : (d.setQueue n x).slk = d.slk := rfl
@[simp] theorem Dev.setQueue_pl (n : Nat) (x : Queue) : (d.setQueue n x).pl = d.pl := rfl
@[simp] theorem Dev.setQueue_stc (n : Nat) (x : Queue) : (d.setQueue n x).stc = d.stc := rfl
@[simp] theorem Dev.setQueue_seg (n : Nat) (x : Queue) : (d.setQueue n x).seg = d.seg := rfl
@[simp] theorem Dev.setQueue_mrk (n : Nat) (x : Queue) : (d.setQueue n x).mrk = d.mrk := rfl
@[simp] theorem Dev.setQueue_cdc (n : Nat) (x : Queue) : (d.setQueue n x).cdc = d.cdc := rfl
@[simp] theorem Dev.setQueue_net (n : Nat) (x : Queue) : (d.setQueue n x).net = d.net := rfl
@[simp] theorem Dev.setQueue_mer (n : Nat) (x : Queue) : (d.setQueue n x).mer = d.mer := rfl
@[simp] theorem Dev.setQueue_drc (n : Nat) (x : Queue) : (d.setQueue n x).drc = d.drc := rfl
@[simp] theorem Dev.setQueue_dma (n : Nat) (x : Queue) : (d.setQueue n x).dma = d.dma := rfl
@[simp] theorem Dev.setQueue_icu (n : Nat) (x : Queue) : (d.setQueue n x).icu = d.icu := rfl
@[simp] theorem Dev.setQueue_evt (n : Nat) (x : Queue) : (d.setQueue n x).evt = d.evt := rfl
@[simp] theorem Dev.setQueue_pwr (n : Nat) (x : Queue) : (d.setQueue n x).pwr = d.pwr := rfl
@[simp] theorem Dev.setQueue_chn (n : Nat) (x : Queue) : (d.setQueue n x).chn = d.chn := rfl
@[simp] theorem Dev.setQueue_svc (n : Nat) (x : Queue) : (d.setQueue n x).svc = d.svc := rfl
@[simp] theorem Dev.setQueue_spr (n : Nat) (x : Queue) : (d.setQueue n x).spr = d.spr := rfl
@[simp] theorem Dev.setQueue_alm (n : Nat) (x : Queue) : (d.setQueue n x).alm = d.alm := rfl
@[simp] theorem Dev.setQueue_otp (n : Nat) (x : Queue) : (d.setQueue n x).otp = d.otp := rfl
@[simp] theorem Dev.setQueue_restart (n : Nat) (x : Queue) : (d.setQueue n x).restart = d.restart := rfl

@[simp] theorem Dev.setDmac_regs (n : Nat) (x : Dma) : (d.setDmac n x).regs = d.regs := rfl
@[simp] theorem Dev.setDmac_hi (n : Nat) (x : Dma) : (d.setDmac n x).hi = d.hi := rfl
@[simp] theorem Dev.setDmac_staged (n : Nat) (x : Dma) : (d.setDmac n x).staged = d.staged := rfl
@[simp] theorem Dev.setDmac_rdata (n : Nat) (x : Dma) : (d.setDmac n x).rdata = d.rdata := rfl
@[simp] theorem Dev.setDmac_now (n : Nat) (x : Dma) : (d.setDmac n x).now = d.now := rfl
@[simp] theorem Dev.setDmac_draws (n : Nat) (x : Dma) : (d.setDmac n x).draws = d.draws := rfl
@[simp] theorem Dev.setDmac_out (n : Nat) (x : Dma) : (d.setDmac n x).out = d.out := rfl
@[simp] theorem Dev.setDmac_log (n : Nat) (x : Dma) : (d.setDmac n x).log = d.log := rfl
@[simp] theorem Dev.setDmac_trg (n : Nat) (x : Dma) : (d.setDmac n x).trg = d.trg := rfl
@[simp] theorem Dev.setDmac_flt (n : Nat) (x : Dma) : (d.setDmac n x).flt = d.flt := rfl
@[simp] theorem Dev.setDmac_slk (n : Nat) (x : Dma) : (d.setDmac n x).slk = d.slk := rfl
@[simp] theorem Dev.setDmac_pl (n : Nat) (x : Dma) : (d.setDmac n x).pl = d.pl := rfl
@[simp] theorem Dev.setDmac_stc (n : Nat) (x : Dma) : (d.setDmac n x).stc = d.stc := rfl
@[simp] theorem Dev.setDmac_seg (n : Nat) (x : Dma) : (d.setDmac n x).seg = d.seg := rfl
@[simp] theorem Dev.setDmac_mrk (n : Nat) (x : Dma) : (d.setDmac n x).mrk = d.mrk := rfl
@[simp] theorem Dev.setDmac_cdc (n : Nat) (x : Dma) : (d.setDmac n x).cdc = d.cdc := rfl
@[simp] theorem Dev.setDmac_net (n : Nat) (x : Dma) : (d.setDmac n x).net = d.net := rfl
@[simp] theorem Dev.setDmac_mer (n : Nat) (x : Dma) : (d.setDmac n x).mer = d.mer := rfl
@[simp] theorem Dev.setDmac_drc (n : Nat) (x : Dma) : (d.setDmac n x).drc = d.drc := rfl
@[simp] theorem Dev.setDmac_que (n : Nat) (x : Dma) : (d.setDmac n x).que = d.que := rfl
@[simp] theorem Dev.setDmac_icu (n : Nat) (x : Dma) : (d.setDmac n x).icu = d.icu := rfl
@[simp] theorem Dev.setDmac_evt (n : Nat) (x : Dma) : (d.setDmac n x).evt = d.evt := rfl
@[simp] theorem Dev.setDmac_pwr (n : Nat) (x : Dma) : (d.setDmac n x).pwr = d.pwr := rfl
@[simp] theorem Dev.setDmac_chn (n : Nat) (x : Dma) : (d.setDmac n x).chn = d.chn := rfl
@[simp] theorem Dev.setDmac_svc (n : Nat) (x : Dma) : (d.setDmac n x).svc = d.svc := rfl
@[simp] theorem Dev.setDmac_spr (n : Nat) (x : Dma) : (d.setDmac n x).spr = d.spr := rfl
@[simp] theorem Dev.setDmac_alm (n : Nat) (x : Dma) : (d.setDmac n x).alm = d.alm := rfl
@[simp] theorem Dev.setDmac_otp (n : Nat) (x : Dma) : (d.setDmac n x).otp = d.otp := rfl
@[simp] theorem Dev.setDmac_restart (n : Nat) (x : Dma) : (d.setDmac n x).restart = d.restart := rfl

@[simp] theorem Dev.setCore_regs (n : Nat) (x : Core) : (d.setCore n x).regs = d.regs := rfl
@[simp] theorem Dev.setCore_hi (n : Nat) (x : Core) : (d.setCore n x).hi = d.hi := rfl
@[simp] theorem Dev.setCore_staged (n : Nat) (x : Core) : (d.setCore n x).staged = d.staged := rfl
@[simp] theorem Dev.setCore_rdata (n : Nat) (x : Core) : (d.setCore n x).rdata = d.rdata := rfl
@[simp] theorem Dev.setCore_now (n : Nat) (x : Core) : (d.setCore n x).now = d.now := rfl
@[simp] theorem Dev.setCore_draws (n : Nat) (x : Core) : (d.setCore n x).draws = d.draws := rfl
@[simp] theorem Dev.setCore_out (n : Nat) (x : Core) : (d.setCore n x).out = d.out := rfl
@[simp] theorem Dev.setCore_log (n : Nat) (x : Core) : (d.setCore n x).log = d.log := rfl
@[simp] theorem Dev.setCore_trg (n : Nat) (x : Core) : (d.setCore n x).trg = d.trg := rfl
@[simp] theorem Dev.setCore_flt (n : Nat) (x : Core) : (d.setCore n x).flt = d.flt := rfl
@[simp] theorem Dev.setCore_slk (n : Nat) (x : Core) : (d.setCore n x).slk = d.slk := rfl
@[simp] theorem Dev.setCore_pl (n : Nat) (x : Core) : (d.setCore n x).pl = d.pl := rfl
@[simp] theorem Dev.setCore_stc (n : Nat) (x : Core) : (d.setCore n x).stc = d.stc := rfl
@[simp] theorem Dev.setCore_seg (n : Nat) (x : Core) : (d.setCore n x).seg = d.seg := rfl
@[simp] theorem Dev.setCore_mrk (n : Nat) (x : Core) : (d.setCore n x).mrk = d.mrk := rfl
@[simp] theorem Dev.setCore_cdc (n : Nat) (x : Core) : (d.setCore n x).cdc = d.cdc := rfl
@[simp] theorem Dev.setCore_net (n : Nat) (x : Core) : (d.setCore n x).net = d.net := rfl
@[simp] theorem Dev.setCore_mer (n : Nat) (x : Core) : (d.setCore n x).mer = d.mer := rfl
@[simp] theorem Dev.setCore_drc (n : Nat) (x : Core) : (d.setCore n x).drc = d.drc := rfl
@[simp] theorem Dev.setCore_que (n : Nat) (x : Core) : (d.setCore n x).que = d.que := rfl
@[simp] theorem Dev.setCore_dma (n : Nat) (x : Core) : (d.setCore n x).dma = d.dma := rfl
@[simp] theorem Dev.setCore_evt (n : Nat) (x : Core) : (d.setCore n x).evt = d.evt := rfl
@[simp] theorem Dev.setCore_pwr (n : Nat) (x : Core) : (d.setCore n x).pwr = d.pwr := rfl
@[simp] theorem Dev.setCore_chn (n : Nat) (x : Core) : (d.setCore n x).chn = d.chn := rfl
@[simp] theorem Dev.setCore_svc (n : Nat) (x : Core) : (d.setCore n x).svc = d.svc := rfl
@[simp] theorem Dev.setCore_spr (n : Nat) (x : Core) : (d.setCore n x).spr = d.spr := rfl
@[simp] theorem Dev.setCore_alm (n : Nat) (x : Core) : (d.setCore n x).alm = d.alm := rfl
@[simp] theorem Dev.setCore_otp (n : Nat) (x : Core) : (d.setCore n x).otp = d.otp := rfl
@[simp] theorem Dev.setCore_restart (n : Nat) (x : Core) : (d.setCore n x).restart = d.restart := rfl

@[simp] theorem Dev.setCtx_regs (n m : Nat) (x : Ctx) : (d.setCtx n m x).regs = d.regs := rfl
@[simp] theorem Dev.setCtx_hi (n m : Nat) (x : Ctx) : (d.setCtx n m x).hi = d.hi := rfl
@[simp] theorem Dev.setCtx_staged (n m : Nat) (x : Ctx) : (d.setCtx n m x).staged = d.staged := rfl
@[simp] theorem Dev.setCtx_rdata (n m : Nat) (x : Ctx) : (d.setCtx n m x).rdata = d.rdata := rfl
@[simp] theorem Dev.setCtx_now (n m : Nat) (x : Ctx) : (d.setCtx n m x).now = d.now := rfl
@[simp] theorem Dev.setCtx_draws (n m : Nat) (x : Ctx) : (d.setCtx n m x).draws = d.draws := rfl
@[simp] theorem Dev.setCtx_out (n m : Nat) (x : Ctx) : (d.setCtx n m x).out = d.out := rfl
@[simp] theorem Dev.setCtx_log (n m : Nat) (x : Ctx) : (d.setCtx n m x).log = d.log := rfl
@[simp] theorem Dev.setCtx_trg (n m : Nat) (x : Ctx) : (d.setCtx n m x).trg = d.trg := rfl
@[simp] theorem Dev.setCtx_flt (n m : Nat) (x : Ctx) : (d.setCtx n m x).flt = d.flt := rfl
@[simp] theorem Dev.setCtx_slk (n m : Nat) (x : Ctx) : (d.setCtx n m x).slk = d.slk := rfl
@[simp] theorem Dev.setCtx_stc (n m : Nat) (x : Ctx) : (d.setCtx n m x).stc = d.stc := rfl
@[simp] theorem Dev.setCtx_seg (n m : Nat) (x : Ctx) : (d.setCtx n m x).seg = d.seg := rfl
@[simp] theorem Dev.setCtx_mrk (n m : Nat) (x : Ctx) : (d.setCtx n m x).mrk = d.mrk := rfl
@[simp] theorem Dev.setCtx_cdc (n m : Nat) (x : Ctx) : (d.setCtx n m x).cdc = d.cdc := rfl
@[simp] theorem Dev.setCtx_net (n m : Nat) (x : Ctx) : (d.setCtx n m x).net = d.net := rfl
@[simp] theorem Dev.setCtx_mer (n m : Nat) (x : Ctx) : (d.setCtx n m x).mer = d.mer := rfl
@[simp] theorem Dev.setCtx_drc (n m : Nat) (x : Ctx) : (d.setCtx n m x).drc = d.drc := rfl
@[simp] theorem Dev.setCtx_que (n m : Nat) (x : Ctx) : (d.setCtx n m x).que = d.que := rfl
@[simp] theorem Dev.setCtx_dma (n m : Nat) (x : Ctx) : (d.setCtx n m x).dma = d.dma := rfl
@[simp] theorem Dev.setCtx_icu (n m : Nat) (x : Ctx) : (d.setCtx n m x).icu = d.icu := rfl
@[simp] theorem Dev.setCtx_evt (n m : Nat) (x : Ctx) : (d.setCtx n m x).evt = d.evt := rfl
@[simp] theorem Dev.setCtx_pwr (n m : Nat) (x : Ctx) : (d.setCtx n m x).pwr = d.pwr := rfl
@[simp] theorem Dev.setCtx_chn (n m : Nat) (x : Ctx) : (d.setCtx n m x).chn = d.chn := rfl
@[simp] theorem Dev.setCtx_svc (n m : Nat) (x : Ctx) : (d.setCtx n m x).svc = d.svc := rfl
@[simp] theorem Dev.setCtx_spr (n m : Nat) (x : Ctx) : (d.setCtx n m x).spr = d.spr := rfl
@[simp] theorem Dev.setCtx_alm (n m : Nat) (x : Ctx) : (d.setCtx n m x).alm = d.alm := rfl
@[simp] theorem Dev.setCtx_otp (n m : Nat) (x : Ctx) : (d.setCtx n m x).otp = d.otp := rfl
@[simp] theorem Dev.setCtx_restart (n m : Nat) (x : Ctx) : (d.setCtx n m x).restart = d.restart := rfl

/-! Records by instance: reading after writing. -/

@[simp] theorem Dev.logch_setLogch (n : Nat) (x : LogChan) : (d.setLogch n x).logch n = x := by simp [Dev.logch, Dev.setLogch]
theorem Dev.logch_setLogch_ne {m n : Nat} (h : n ≠ m) (x : LogChan) : (d.setLogch n x).logch m = d.logch m := by
  simp [Dev.logch, Dev.setLogch, tabGet_set_ne _ _ _ h]
@[simp] theorem Dev.trgs_setTrgs (n : Nat) (x : TrgStream) : (d.setTrgs n x).trgs n = x := by simp [Dev.trgs, Dev.setTrgs]
theorem Dev.trgs_setTrgs_ne {m n : Nat} (h : n ≠ m) (x : TrgStream) : (d.setTrgs n x).trgs m = d.trgs m := by
  simp [Dev.trgs, Dev.setTrgs, tabGet_set_ne _ _ _ h]
@[simp] theorem Dev.stb_setStb (n : Nat) (x : Strobe) : (d.setStb n x).stb n = x := by simp [Dev.stb, Dev.setStb]
theorem Dev.stb_setStb_ne {m n : Nat} (h : n ≠ m) (x : Strobe) : (d.setStb n x).stb m = d.stb m := by
  simp [Dev.stb, Dev.setStb, tabGet_set_ne _ _ _ h]
@[simp] theorem Dev.fltc_setFltc (n : Nat) (x : FltChan) : (d.setFltc n x).fltc n = x := by simp [Dev.fltc, Dev.setFltc]
theorem Dev.fltc_setFltc_ne {m n : Nat} (h : n ≠ m) (x : FltChan) : (d.setFltc n x).fltc m = d.fltc m := by
  simp [Dev.fltc, Dev.setFltc, tabGet_set_ne _ _ _ h]
@[simp] theorem Dev.lane_setLane (n : Nat) (x : Lane) : (d.setLane n x).lane n = x := by simp [Dev.lane, Dev.setLane]
theorem Dev.lane_setLane_ne {m n : Nat} (h : n ≠ m) (x : Lane) : (d.setLane n x).lane m = d.lane m := by
  simp [Dev.lane, Dev.setLane, tabGet_set_ne _ _ _ h]
@[simp] theorem Dev.lstr_setLstr (n : Nat) (x : LinkStream) : (d.setLstr n x).lstr n = x := by simp [Dev.lstr, Dev.setLstr]
theorem Dev.lstr_setLstr_ne {m n : Nat} (h : n ≠ m) (x : LinkStream) : (d.setLstr n x).lstr m = d.lstr m := by
  simp [Dev.lstr, Dev.setLstr, tabGet_set_ne _ _ _ h]
@[simp] theorem Dev.svch_setSvch (n : Nat) (x : SvcChan) : (d.setSvch n x).svch n = x := by simp [Dev.svch, Dev.setSvch]
theorem Dev.svch_setSvch_ne {m n : Nat} (h : n ≠ m) (x : SvcChan) : (d.setSvch n x).svch m = d.svch m := by
  simp [Dev.svch, Dev.setSvch, tabGet_set_ne _ _ _ h]
@[simp] theorem Dev.front_setFront (n : Nat) (x : Front) : (d.setFront n x).front n = x := by simp [Dev.front, Dev.setFront]
theorem Dev.front_setFront_ne {m n : Nat} (h : n ≠ m) (x : Front) : (d.setFront n x).front m = d.front m := by
  simp [Dev.front, Dev.setFront, tabGet_set_ne _ _ _ h]
@[simp] theorem Dev.cam_setCam (n : Nat) (x : Cam) : (d.setCam n x).cam n = x := by simp [Dev.cam, Dev.setCam]
theorem Dev.cam_setCam_ne {m n : Nat} (h : n ≠ m) (x : Cam) : (d.setCam n x).cam m = d.cam m := by
  simp [Dev.cam, Dev.setCam, tabGet_set_ne _ _ _ h]
@[simp] theorem Dev.slice_setSlice (n : Nat) (x : Slice) : (d.setSlice n x).slice n = x := by simp [Dev.slice, Dev.setSlice]
theorem Dev.slice_setSlice_ne {m n : Nat} (h : n ≠ m) (x : Slice) : (d.setSlice n x).slice m = d.slice m := by
  simp [Dev.slice, Dev.setSlice, tabGet_set_ne _ _ _ h]
@[simp] theorem Dev.head_setHead (n : Nat) (x : Head) : (d.setHead n x).head n = x := by simp [Dev.head, Dev.setHead]
theorem Dev.head_setHead_ne {m n : Nat} (h : n ≠ m) (x : Head) : (d.setHead n x).head m = d.head m := by
  simp [Dev.head, Dev.setHead, tabGet_set_ne _ _ _ h]
@[simp] theorem Dev.eng_setEng (n : Nat) (x : Engine) : (d.setEng n x).eng n = x := by simp [Dev.eng, Dev.setEng]
theorem Dev.eng_setEng_ne {m n : Nat} (h : n ≠ m) (x : Engine) : (d.setEng n x).eng m = d.eng m := by
  simp [Dev.eng, Dev.setEng, tabGet_set_ne _ _ _ h]
@[simp] theorem Dev.tapc_setTap (n : Nat) (x : Tap) : (d.setTap n x).tapc n = x := by simp [Dev.tapc, Dev.setTap]
theorem Dev.tapc_setTap_ne {m n : Nat} (h : n ≠ m) (x : Tap) : (d.setTap n x).tapc m = d.tapc m := by
  simp [Dev.tapc, Dev.setTap, tabGet_set_ne _ _ _ h]
@[simp] theorem Dev.nport_setNport (n : Nat) (x : Port) : (d.setNport n x).nport n = x := by simp [Dev.nport, Dev.setNport]
theorem Dev.nport_setNport_ne {m n : Nat} (h : n ≠ m) (x : Port) : (d.setNport n x).nport m = d.nport m := by
  simp [Dev.nport, Dev.setNport, tabGet_set_ne _ _ _ h]
@[simp] theorem Dev.nflow_setNflow (n : Nat) (x : Flow) : (d.setNflow n x).nflow n = x := by simp [Dev.nflow, Dev.setNflow]
theorem Dev.nflow_setNflow_ne {m n : Nat} (h : n ≠ m) (x : Flow) : (d.setNflow n x).nflow m = d.nflow m := by
  simp [Dev.nflow, Dev.setNflow, tabGet_set_ne _ _ _ h]
@[simp] theorem Dev.dom_setDom (n : Nat) (x : Domain) : (d.setDom n x).dom n = x := by simp [Dev.dom, Dev.setDom]
theorem Dev.dom_setDom_ne {m n : Nat} (h : n ≠ m) (x : Domain) : (d.setDom n x).dom m = d.dom m := by
  simp [Dev.dom, Dev.setDom, tabGet_set_ne _ _ _ h]
@[simp] theorem Dev.dch_setDch (n : Nat) (x : DramChan) : (d.setDch n x).dch n = x := by simp [Dev.dch, Dev.setDch]
theorem Dev.dch_setDch_ne {m n : Nat} (h : n ≠ m) (x : DramChan) : (d.setDch n x).dch m = d.dch m := by
  simp [Dev.dch, Dev.setDch, tabGet_set_ne _ _ _ h]
@[simp] theorem Dev.queue_setQueue (n : Nat) (x : Queue) : (d.setQueue n x).queue n = x := by simp [Dev.queue, Dev.setQueue]
theorem Dev.queue_setQueue_ne {m n : Nat} (h : n ≠ m) (x : Queue) : (d.setQueue n x).queue m = d.queue m := by
  simp [Dev.queue, Dev.setQueue, tabGet_set_ne _ _ _ h]
@[simp] theorem Dev.dmac_setDmac (n : Nat) (x : Dma) : (d.setDmac n x).dmac n = x := by simp [Dev.dmac, Dev.setDmac]
theorem Dev.dmac_setDmac_ne {m n : Nat} (h : n ≠ m) (x : Dma) : (d.setDmac n x).dmac m = d.dmac m := by
  simp [Dev.dmac, Dev.setDmac, tabGet_set_ne _ _ _ h]
@[simp] theorem Dev.core_setCore (n : Nat) (x : Core) : (d.setCore n x).core n = x := by simp [Dev.core, Dev.setCore]
theorem Dev.core_setCore_ne {m n : Nat} (h : n ≠ m) (x : Core) : (d.setCore n x).core m = d.core m := by
  simp [Dev.core, Dev.setCore, tabGet_set_ne _ _ _ h]
@[simp] theorem Dev.evch_setEvch (n : Nat) (x : EvtChan) : (d.setEvch n x).evch n = x := by simp [Dev.evch, Dev.setEvch]
theorem Dev.evch_setEvch_ne {m n : Nat} (h : n ≠ m) (x : EvtChan) : (d.setEvch n x).evch m = d.evch m := by
  simp [Dev.evch, Dev.setEvch, tabGet_set_ne _ _ _ h]
@[simp] theorem Dev.ctx_setCtx (n m : Nat) (x : Ctx) : (d.setCtx n m x).ctx n m = x := by simp [Dev.ctx, Dev.setCtx]

end Sys2Proof.Machine
end

