-- ==== Sys2Proof/Laws/Fields.lean ====
section
/-! SUPPORT. The laws of registers and fields: what a field holds after it was written, and that writing one field
leaves every other field and every other register as it was. -/
namespace Sys2Proof.Machine

theorem fieldOf_lt {n : Nat} (w : BitVec n) (lo len : Nat) : fieldOf w lo len < 2 ^ len := by
  unfold fieldOf; exact BitVec.isLt _

theorem fieldOf_testBit {n : Nat} (w : BitVec n) (lo len i : Nat) :
    (fieldOf w lo len).testBit i = (decide (i < len) && w.getLsbD (lo + i)) := by
  unfold fieldOf
  rw [BitVec.testBit_toNat, BitVec.getLsbD_extractLsb']

theorem withField_getLsbD {n : Nat} (w : BitVec n) (lo len v j : Nat) (hj : j < n) (hn : lo + len ≤ n) :
    (withField w lo len v).getLsbD j =
      if lo ≤ j ∧ j < lo + len then v.testBit (j - lo) else w.getLsbD j := by
  unfold withField
  by_cases h1 : lo ≤ j
  · have h3 : ¬ j < lo := by omega
    by_cases h2 : j < lo + len
    · have h4 : j - lo < len := by omega
      have h5 : j - lo < n := by omega
      simp [h1, h2, h3, h4, h5, hj, -BitVec.getLsbD_eq_getElem, BitVec.getLsbD_ofNat]
    · have h4 : ¬ j - lo < len := by omega
      simp [h1, h2, h3, h4, hj, BitVec.getLsbD_ofNat]
  · have h3 : j < lo := by omega
    simp [h1, h3, hj]

/-- A field reads what was written to it, its low bits. -/
theorem fieldOf_withField_self {n : Nat} (w : BitVec n) (lo len v : Nat) (hn : lo + len ≤ n) :
    fieldOf (withField w lo len v) lo len = v % 2 ^ len := by
  apply Nat.eq_of_testBit_eq
  intro i
  rw [fieldOf_testBit, Nat.testBit_mod_two_pow]
  by_cases h : i < len
  · rw [withField_getLsbD _ _ _ _ _ (by omega) hn]
    simp [h]
  · simp [h]

/-- A field keeps its value when bits outside it are written. -/
theorem fieldOf_withField_apart {n : Nat} (w : BitVec n) (lo len v lo' len' : Nat) (hn : lo + len ≤ n)
    (hn' : lo' + len' ≤ n) (h : lo + len ≤ lo' ∨ lo' + len' ≤ lo) :
    fieldOf (withField w lo len v) lo' len' = fieldOf w lo' len' := by
  apply Nat.eq_of_testBit_eq
  intro i
  rw [fieldOf_testBit, fieldOf_testBit]
  by_cases hi : i < len'
  · rw [withField_getLsbD _ _ _ _ _ (by omega) hn]
    have : ¬ (lo ≤ lo' + i ∧ lo' + i < lo + len) := by omega
    simp [this]
  · simp [hi]

variable (d : Dev)

theorem Dev.reg_setReg (a b : Nat) (w : Word) : (d.setReg a w).reg b = if a = b then w else d.reg b := by
  unfold Dev.reg Dev.setReg
  by_cases h : a = b
  · subst h; simp
  · simp [tabGet_set_ne _ _ _ h, h]

@[simp] theorem Dev.reg_setReg_self (a : Nat) (w : Word) : (d.setReg a w).reg a = w := by simp [Dev.reg_setReg]

theorem Dev.reg_setReg_ne {a b : Nat} (h : a ≠ b) (w : Word) : (d.setReg a w).reg b = d.reg b := by
  simp [Dev.reg_setReg, h]

theorem Dev.reg_put_ne {f : Fld} {a : Nat} (h : ¬ f.At a) (v : Nat) : (d.put f v).reg a = d.reg a := by
  unfold Fld.At at h
  unfold Dev.put
  split
  · exact d.reg_setReg_ne (fun e => h (Or.inl e.symm)) _
  · rename_i hw
    have h1 : f.addr ≠ a := fun e => h (Or.inl e.symm)
    have h2 : f.addr + 4 ≠ a := fun e => h (Or.inr ⟨by omega, e.symm⟩)
    simp only
    rw [Dev.reg_setReg_ne _ h2, Dev.reg_setReg_ne _ h1]

theorem Dev.val_lt (f : Fld) : d.val f < 2 ^ f.len := by
  unfold Dev.val; split <;> exact fieldOf_lt _ _ _

/-- A field reads what was put into it, its low bits. -/
theorem Dev.val_put_self {f : Fld} (hf : f.lo + f.len ≤ 64) (v : Nat) : (d.put f v).val f = v % 2 ^ f.len := by
  unfold Dev.put Dev.val
  split
  · rename_i h
    rw [Dev.reg_setReg_self]
    exact fieldOf_withField_self _ _ _ _ h
  · have hw : ∀ x : BitVec 64, (((d.setReg f.addr (x.extractLsb' 0 32)).setReg (f.addr + 4)
        (x.extractLsb' 32 32)).wide f.addr) = x := by
      intro x
      unfold Dev.wide
      rw [Dev.reg_setReg_self, Dev.reg_setReg_ne _ (by omega), Dev.reg_setReg_self]
      ext i hi
      simp only [BitVec.getElem_append, BitVec.getElem_extractLsb']
      split
      · rw [← BitVec.getLsbD_eq_getElem]; simp
      · rename_i h; rw [← BitVec.getLsbD_eq_getElem]; congr 1; omega
    simp only
    rw [hw]
    exact fieldOf_withField_self _ _ _ _ hf

/-- A field keeps its value when another is written. -/
theorem Dev.val_put_apart {f g : Fld} (h : f.Apart g) (v : Nat) : (d.put f v).val g = d.val g := by
  obtain ⟨h1, h2, h3⟩ | ⟨h1, h2, h3, h4⟩ := h
  · have e1 : (d.put f v).reg g.addr = d.reg g.addr :=
      d.reg_put_ne (fun e => by obtain e | ⟨e1, e2⟩ := e <;> omega) v
    unfold Dev.val
    split
    · rw [e1]
    · have e2 : (d.put f v).reg (g.addr + 4) = d.reg (g.addr + 4) :=
        d.reg_put_ne (fun e => by obtain e | ⟨e1, e2⟩ := e <;> omega) v
      unfold Dev.wide
      rw [e1, e2]
  · unfold Dev.val Dev.put
    simp only [h2, h3, if_true]
    rw [h1, Dev.reg_setReg_self]
    exact fieldOf_withField_apart _ _ _ _ _ _ h2 h3 h4

/-- Two readings that agree on every register agree on every field. -/
theorem Dev.val_congr {d e : Dev} {f : Fld} (h : ∀ a, f.At a → e.reg a = d.reg a) : e.val f = d.val f := by
  unfold Dev.val
  split
  · rw [h _ (Or.inl rfl)]
  · unfold Dev.wide
    rw [h _ (Or.inl rfl), h _ (Or.inr ⟨by omega, rfl⟩)]

/-! ### The effects of a flag and of a publication on the registers of ICU and EVT -/

theorem Dev.reg_mark_ne {f : Fld} {a : Nat} (h : ¬ f.At a) (b : Bool) : (d.mark f b).reg a = d.reg a := d.reg_put_ne h _
theorem Dev.reg_bump_ne {f : Fld} {a : Nat} (h : ¬ f.At a) (k : Nat) : (d.bump f k).reg a = d.reg a := d.reg_put_ne h _
theorem Dev.reg_inc_ne {f : Fld} {a : Nat} (h : ¬ f.At a) : (d.inc f).reg a = d.reg a := d.reg_put_ne h _
theorem Dev.reg_puti_ne {f : Fld} {a : Nat} (h : ¬ f.At a) (v : Int) : (d.puti f v).reg a = d.reg a := d.reg_put_ne h _

@[simp] theorem Dev.reg_setEvch (k a : Nat) (c : EvtChan) : (d.setEvch k c).reg a = d.reg a := rfl

theorem evIcu_not {a : Nat} (h : evIcu a = false) : a / 0x10000 ≠ 0x4006 ∧ a / 0x10000 ≠ 0x4007 := by
  simp [evIcu] at h; omega

theorem Dev.reg_evMerge {k t a : Nat} (hk : k < 256) (h : evIcu a = false) : (d.evMerge k t).reg a = d.reg a := by
  have h' := evIcu_not h
  unfold Dev.evMerge
  dsimp only
  split
  · rw [Dev.reg_put_ne _ (by simp only [Fld.At, F.EVT_FLAG_STORM, R.EVT_FLAG]; omega),
      Dev.reg_put_ne _ (by simp only [Fld.At, R.EVT_STORMw]; omega),
      Dev.reg_mark_ne _ (by simp only [Fld.At, F.EVT_CHk_CFG_PEND, R.EVT_CHk_CFG]; omega),
      Dev.reg_mark_ne _ (by simp only [Fld.At, F.EVT_CHk_CFG_EN, R.EVT_CHk_CFG]; omega), Dev.reg_setEvch]
  · rfl

/-- A publication changes registers of EVT alone, its interrupt source's apart. -/
theorem Dev.reg_publishRaw {k c a : Nat} (hk : k < 256) (h : evIcu a = false) : (d.publishRaw k c).reg a = d.reg a := by
  have h' := evIcu_not h
  have hm : ¬ (F.EVT_CHk_MERGE_CNT k).At a := by simp only [Fld.At, F.EVT_CHk_MERGE_CNT, R.EVT_CHk_MERGE_CNT]; omega
  unfold Dev.publishRaw
  dsimp only
  split
  · exact d.reg_inc_ne (by simp only [Fld.At, F.EVT_DISC_CNT, R.EVT_DISC_CNT]; omega)
  · split
    · exact d.reg_inc_ne (by simp only [Fld.At, F.EVT_CHk_COLLIDE_CNT, R.EVT_CHk_COLLIDE_CNT]; omega)
    · split
      · rw [Dev.reg_evMerge _ hk h, Dev.reg_inc_ne _ hm]; rfl
      · generalize (match (d.evch k).lastAt with | some l => l + d.evSpacing k | none => 0) = n
        split
        · rfl
        · rw [Dev.reg_evMerge _ hk h, Dev.reg_inc_ne _ hm,
            Dev.reg_mark_ne _ (by simp only [Fld.At, F.EVT_CHk_CFG_PEND, R.EVT_CHk_CFG]; omega)]
          rfl

theorem Dev.reg_memberRiseOnce {i b a : Nat} (hi : i < 384) (h : evIcu a = false) :
    (d.memberRiseOnce i b).reg a = d.reg a := by
  have h' := evIcu_not h
  have hs : ¬ (F.ICU_SRCi_STAT_CNT i).At a := by simp only [Fld.At, F.ICU_SRCi_STAT_CNT, R.ICU_SRCi_STAT]; omega
  unfold Dev.memberRiseOnce
  dsimp only
  split
  · rfl
  · split
    · rw [Dev.reg_publishRaw _ (Dev.val_lt _ (F.ICU_SRCi_CFG_EVC i)) h, Dev.reg_put_ne _ hs]
    · exact d.reg_put_ne hs _

theorem Dev.reg_memberRise {i b a : Nat} (hi : i < 384) (h : evIcu a = false) : (d.memberRise i b).reg a = d.reg a := by
  unfold Dev.memberRise
  dsimp only
  split
  · rw [Dev.reg_memberRiseOnce _ (by omega) h, Dev.reg_memberRiseOnce _ hi h]
  · exact d.reg_memberRiseOnce hi h

theorem instOf_lt {a base stride n i : Nat} (h : instOf a base stride n = some i) : i < n := by
  unfold instOf at h
  split at h
  · rename_i hc; cases h; exact hc.2.2
  · cases h

/-- Every flag register's source is one of the 384 (R267). -/
theorem flagSource_lt {a i : Nat} {b : Bool} (h : flagSource a = some (i, b)) : i < 384 := by
  have one : ∀ {base src j : Nat} {c : Bool}, (if a = base then some (src, false) else none) = some (j, c) → j = src := by
    intro base src j c h; split at h
    · cases h; rfl
    · cases h
  have many : ∀ {base stride n m : Nat} {g : Nat → Nat} {s c : Bool} {j : Nat},
      (instOf a base stride n).map (fun i => (g i, s)) = some (j, c) → (∀ i, i < n → g i < m) → j < m := by
    intro base stride n m g s c j h hm
    simp only [Option.map_eq_some_iff, Prod.mk.injEq] at h
    obtain ⟨x, hx, rfl, _⟩ := h
    exact hm x (instOf_lt hx)
  unfold flagSource at h
  dsimp only at h
  split at h <;> try simp only [Option.or_eq_some_iff] at h
  all_goals first
    | (have := one h; omega)
    | exact many h (by intro i hi; omega)
    | skip
  · obtain h | ⟨_, h | ⟨_, h⟩⟩ := h
    · have := one h; omega
    · exact many h (by intro i hi; omega)
    · exact many h (by intro i hi; omega)
  · obtain h | ⟨_, h⟩ := h
    · have := one h; omega
    · exact many h (by intro i hi; omega)
  · obtain h | ⟨_, h⟩ := h
    · have := one h; omega
    · exact many h (by intro i hi; omega)
  · obtain h | ⟨_, h | ⟨_, h | ⟨_, h⟩⟩⟩ := h <;> exact many h (by intro i hi; omega)
  · obtain h | ⟨_, h⟩ := h
    · have := one h; omega
    · exact many h (by intro i hi; omega)
  · obtain h | ⟨_, h⟩ := h <;> exact many h (by intro i hi; omega)
  · obtain h | ⟨_, h⟩ := h
    · have := one h; omega
    · exact many h (by intro i hi; omega)
  · obtain h | ⟨_, h⟩ := h <;> exact many h (by intro i hi; omega)
  · split at h
    · simp only [Option.or_eq_some_iff] at h
      obtain h | ⟨_, h⟩ := h <;> exact many h (by intro i hi; omega)
    · cases h

/-- A flag changes its own register and registers of ICU and EVT, nothing else. -/
theorem Dev.reg_raise {f : Fld} {a : Nat} (h : evIcu a = false) (hf : ¬ f.At a) : (d.raise f).reg a = d.reg a := by
  unfold Dev.raise
  split
  · rfl
  · dsimp only
    split
    · rename_i hs
      rw [Dev.reg_memberRise _ (flagSource_lt hs) h, Dev.reg_put_ne _ hf]
    · exact d.reg_put_ne hf _

theorem Dev.reg_raiseIf {b : Bool} {f : Fld} {a : Nat} (h : evIcu a = false) (hf : ¬ f.At a) :
    (d.raiseIf b f).reg a = d.reg a := by
  unfold Dev.raiseIf
  split
  · exact d.reg_raise h hf
  · rfl

theorem Dev.reg_raiseDone {f : Fld} {i w : Bool} {a : Nat} (h : evIcu a = false) (hf : ¬ f.At a) :
    (d.raiseDone f i w).reg a = d.reg a := by
  unfold Dev.raiseDone
  dsimp only
  split
  · split
    · rename_i hs
      rw [Dev.reg_memberRise _ (flagSource_lt hs) h, Dev.reg_put_ne _ hf]
    · exact d.reg_put_ne hf _
  · exact d.reg_put_ne hf _

theorem Dev.reg_publish {k c a : Nat} (hk : k < 256) (h : evIcu a = false) : (d.publish k c).reg a = d.reg a := by
  unfold Dev.publish
  dsimp only
  split
  · rw [Dev.reg_memberRise _ (by omega) h, Dev.reg_publishRaw _ hk h]
  · exact d.reg_publishRaw hk h

theorem Fld.quiet_at {f : Fld} {a : Nat} (h : f.quiet) (ha : f.At a) : evIcu a = false := by
  obtain rfl | ⟨h1, rfl⟩ := ha
  · exact h.1
  · exact h.2 h1

/-- A flag just raised reads 1. -/
theorem Dev.val_raise_self {f : Fld} (h1 : f.len = 1) (h2 : f.lo < 32) (hq : f.quiet) : (d.raise f).val f = 1 := by
  have hl := d.val_lt f
  unfold Dev.raise
  split
  · rename_i h
    simp only [Dev.on, bne_iff_ne] at h
    rw [h1] at hl
    omega
  · have hp : (d.put f 1).val f = 1 := by simp [Dev.val_put_self (f := f) (d := d) (by omega), h1]
    dsimp only
    split
    · rename_i hs
      exact (Dev.val_congr (fun a ha => Dev.reg_memberRise _ (flagSource_lt hs) (Fld.quiet_at hq ha))).trans hp
    · exact hp

/-- A flag raised leaves every field outside ICU and EVT that it shares no bit with. -/
theorem Dev.val_raise_apart {f g : Fld} (ha : f.Apart g) (hq : g.quiet) : (d.raise f).val g = d.val g := by
  unfold Dev.raise
  split
  · rfl
  · dsimp only
    split
    · rename_i hs
      rw [Dev.val_congr (fun a hat => Dev.reg_memberRise _ (flagSource_lt hs) (Fld.quiet_at hq hat)), Dev.val_put_apart _ ha]
    · exact d.val_put_apart ha _

theorem Dev.val_publish {k c : Nat} {g : Fld} (hk : k < 256) (hq : g.quiet) : (d.publish k c).val g = d.val g :=
  Dev.val_congr (fun _ hat => d.reg_publish hk (Fld.quiet_at hq hat))

end Sys2Proof.Machine
end

