-- ==== Sys2Proof/Laws/Enable.lean ====
section
/-! SUPPORT. What the shared operations of R9 do to a block's EN and IDLE bits, and what every shared field operation
leaves as it was. -/
namespace Sys2Proof.Machine

variable (d : Dev)

@[simp] theorem Dev.reg_emit (o : Out) (a : Nat) : (d.emit o).reg a = d.reg a := rfl
@[simp] theorem Dev.val_emit (o : Out) (f : Fld) : (d.emit o).val f = d.val f := rfl
@[simp] theorem Dev.on_emit (o : Out) (f : Fld) : (d.emit o).on f = d.on f := rfl

theorem Dev.reg_of_regs {d e : Dev} (h : e.regs = d.regs) (a : Nat) : e.reg a = d.reg a := by unfold Dev.reg; rw [h]

/-- Two blocks with the same registers hold the same in every field. -/
theorem Dev.val_of_regs {d e : Dev} (h : e.regs = d.regs) (f : Fld) : e.val f = d.val f :=
  Dev.val_congr (fun a _ => Dev.reg_of_regs h a)

theorem b2n_lt (b : Bool) : b2n b < 2 := by cases b <;> simp [b2n]

/-- A one-bit field reads the truth value it was given. -/
theorem Dev.val_mark_self {f : Fld} (h1 : f.len = 1) (h2 : f.lo < 32) (b : Bool) : (d.mark f b).val f = b2n b := by
  unfold Dev.mark
  rw [Dev.val_put_self _ (by omega), h1]
  exact Nat.mod_eq_of_lt (b2n_lt b)

theorem Dev.on_mark_self {f : Fld} (h1 : f.len = 1) (h2 : f.lo < 32) (b : Bool) : (d.mark f b).on f = b := by
  unfold Dev.on
  rw [Dev.val_mark_self _ h1 h2]
  cases b <;> rfl

theorem Dev.val_mark_apart {f g : Fld} (h : f.Apart g) (b : Bool) : (d.mark f b).val g = d.val g := d.val_put_apart h _
theorem Dev.val_inc_apart {f g : Fld} (h : f.Apart g) : (d.inc f).val g = d.val g := d.val_put_apart h _
theorem Dev.val_bump_apart {f g : Fld} (h : f.Apart g) (k : Nat) : (d.bump f k).val g = d.val g := d.val_put_apart h _
theorem Dev.val_puti_apart {f g : Fld} (h : f.Apart g) (v : Int) : (d.puti f v).val g = d.val g := d.val_put_apart h _

/-- A counter after `k` more: saturated at the top (R6). -/
theorem Dev.val_bump_self {f : Fld} (h1 : f.len = 32) (h2 : f.lo = 0) (k : Nat) :
    (d.bump f k).val f = min 0xFFFFFFFF (d.val f + k) := by
  unfold Dev.bump
  rw [Dev.val_put_self _ (by omega), h1]
  unfold satAdd counterMax
  omega

theorem Dev.val_inc_self {f : Fld} (h1 : f.len = 32) (h2 : f.lo = 0) :
    (d.inc f).val f = min 0xFFFFFFFF (d.val f + 1) := d.val_bump_self h1 h2 1

/-- A signed field reads the signed value it was given, when it holds it. -/
theorem toSigned_fromSigned {len : Nat} {v : Int} (hl : 0 < len) (h1 : -(2 ^ (len - 1)) ≤ v) (h2 : v < 2 ^ (len - 1)) :
    toSigned len (fromSigned len v % 2 ^ len) = v := by
  have hp : (2 : Int) ^ len = 2 * 2 ^ (len - 1) := by
    obtain ⟨k, rfl⟩ : ∃ k, len = k + 1 := ⟨len - 1, by omega⟩
    simp only [Nat.add_sub_cancel]; rw [Int.pow_succ]; omega
  have hpn : 2 ^ len = 2 * 2 ^ (len - 1) := by
    obtain ⟨k, rfl⟩ : ∃ k, len = k + 1 := ⟨len - 1, by omega⟩
    simp only [Nat.add_sub_cancel]; rw [Nat.pow_succ]; omega
  have hc : ((2 ^ (len - 1) : Nat) : Int) = (2 : Int) ^ (len - 1) := by norm_cast
  have hpos : 0 < 2 ^ (len - 1) := Nat.pow_pos (by decide)
  unfold toSigned fromSigned
  generalize hP : 2 ^ (len - 1) = P at *
  generalize hQ : (2 : Int) ^ (len - 1) = Q at *
  rw [hpn, hp]
  by_cases hv : 0 ≤ v
  · have e : v % (2 * Q) = v := Int.emod_eq_of_lt hv (by omega)
    rw [e]
    have e2 : v.toNat % (2 * P) = v.toNat := Nat.mod_eq_of_lt (by omega)
    rw [e2, if_pos (by omega)]
    omega
  · have e : v % (2 * Q) = v + 2 * Q := by
      rw [← Int.add_emod_right]; exact Int.emod_eq_of_lt (by omega) (by omega)
    rw [e]
    have e2 : (v + 2 * Q).toNat % (2 * P) = (v + 2 * Q).toNat := Nat.mod_eq_of_lt (by omega)
    rw [e2, if_neg (by omega)]
    omega

theorem Dev.vali_puti_self {f : Fld} (hf : f.lo + f.len ≤ 64) (hl : 0 < f.len) {v : Int} (h1 : -(2 ^ (f.len - 1)) ≤ v)
    (h2 : v < 2 ^ (f.len - 1)) : (d.puti f v).vali f = v := by
  unfold Dev.vali Dev.puti
  rw [Dev.val_put_self _ hf]
  exact toSigned_fromSigned hl h1 h2

theorem Dev.on_raise_self {f : Fld} (h1 : f.len = 1) (h2 : f.lo < 32) (hq : f.quiet) : (d.raise f).on f = true := by
  unfold Dev.on; rw [Dev.val_raise_self _ h1 h2 hq]; rfl

/-! ### EN and IDLE (R9) -/

theorem Dev.regs_stopIntake (en : Fld) : (d.stopIntake en).regs = (d.mark en false).regs := rfl

theorem Dev.val_stopIntake_self {en : Fld} (h1 : en.len = 1) (h2 : en.lo < 32) : (d.stopIntake en).val en = 0 :=
  (Dev.val_of_regs (d.regs_stopIntake en) en).trans (d.val_mark_self h1 h2 false)

theorem Dev.val_stopIntake_apart {en g : Fld} (h : en.Apart g) : (d.stopIntake en).val g = d.val g :=
  (Dev.val_of_regs (d.regs_stopIntake en) g).trans (d.val_mark_apart h false)

/-- ABORT clears EN and sets IDLE in the same clock, and changes no other field (R9). -/
theorem Dev.abortBits_does {en idle : Fld} (h1 : en.len = 1) (h2 : en.lo < 32) (h3 : idle.len = 1) (h4 : idle.lo < 32)
    (ha : idle.Apart en) :
    (d.abortBits en idle).on en = false ∧ (d.abortBits en idle).on idle = true ∧
    (∀ g : Fld, en.Apart g → idle.Apart g → (d.abortBits en idle).val g = d.val g) ∧
    ¬ (d.abortBits en idle).restart.contains en.addr := by
  refine ⟨?_, ?_, ?_, ?_⟩
  · unfold Dev.abortBits Dev.on
    rw [Dev.val_mark_apart _ ha, Dev.val_stopIntake_self _ h1 h2]; rfl
  · unfold Dev.abortBits; exact Dev.on_mark_self _ h3 h4 true
  · intro g hg hi
    unfold Dev.abortBits
    rw [Dev.val_mark_apart _ hi, Dev.val_stopIntake_apart _ hg]
  · simp [Dev.abortBits, Dev.stopIntake]

/-- The end of a drain: with no EN waiting and EN clear, IDLE is set; with an EN waiting, IDLE is clear and intake
begins again (R9). -/
theorem Dev.drained_does {en idle : Fld} (h3 : idle.len = 1) (h4 : idle.lo < 32) :
    (d.restart.contains en.addr = true →
      (d.drained en idle).2 = true ∧ (d.drained en idle).1.on idle = false) ∧
    (d.restart.contains en.addr = false → d.on en = false →
      (d.drained en idle).2 = false ∧ (d.drained en idle).1.on idle = true) := by
  constructor
  · intro h
    unfold Dev.drained
    rw [if_pos h]
    exact ⟨rfl, Dev.on_mark_self _ h3 h4 false⟩
  · intro h he
    unfold Dev.drained
    rw [if_neg (by rw [h]; exact Bool.false_ne_true), if_neg (by simp [he])]
    exact ⟨rfl, Dev.on_mark_self _ h3 h4 true⟩

/-- A fresh enable: EN is set and IDLE cleared at once (R9). -/
theorem Dev.startIntake_fresh {en idle : Fld} (h1 : en.len = 1) (h2 : en.lo < 32) (h3 : idle.len = 1) (h4 : idle.lo < 32)
    (ha : idle.Apart en) (hi : d.on idle = true) :
    (d.startIntake en idle).2 = true ∧ (d.startIntake en idle).1.on en = true ∧
    (d.startIntake en idle).1.on idle = false := by
  unfold Dev.startIntake
  rw [if_pos hi]
  refine ⟨rfl, ?_, Dev.on_mark_self _ h3 h4 false⟩
  unfold Dev.on
  rw [Dev.val_mark_apart _ ha, Dev.val_mark_self _ h1 h2]; rfl

/-- The access error does this and no more (R2, R301). -/
theorem Dev.accessErr_does (a : Nat) (ha : a < 2^32) : (d.accessErr a).on F.SYS_FLAG_ACCESS_ERR = true ∧
    (d.accessErr a).val F.SYS_ERR_ADDR = a ∧ (d.accessErr a).val F.SYS_ACCESS_CNT = min 0xFFFFFFFF (d.val F.SYS_ACCESS_CNT + 1) ∧
    d.sameRegsBut (d.accessErr a) [F.SYS_FLAG_ACCESS_ERR, F.SYS_ERR_ADDR, F.SYS_ACCESS_CNT] := by
  unfold Dev.accessErr
  refine ⟨?_, ?_, ?_, ?_⟩
  · unfold Dev.on
    rw [Dev.val_inc_apart _ (by simp [Fld.Apart, F.SYS_FLAG_ACCESS_ERR, F.SYS_ACCESS_CNT, R.SYS_FLAG, R.SYS_ACCESS_CNT]),
     Dev.val_put_apart _ (by simp [Fld.Apart, F.SYS_FLAG_ACCESS_ERR, F.SYS_ERR_ADDR, R.SYS_FLAG, R.SYS_ERR_ADDR]), Dev.val_raise_self]
    all_goals first | rfl | decide | simp [Fld.quiet, F.SYS_FLAG_ACCESS_ERR, R.SYS_FLAG, evIcu]
  · rw [Dev.val_inc_apart, Dev.val_put_self]
    · exact Nat.mod_eq_of_lt ha
    · decide
    · simp [Fld.Apart, F.SYS_ERR_ADDR, F.SYS_ACCESS_CNT, R.SYS_ERR_ADDR, R.SYS_ACCESS_CNT]
  · rw [Dev.val_inc_self _ rfl rfl, Dev.val_put_apart _ (by simp [Fld.Apart, F.SYS_ERR_ADDR, F.SYS_ACCESS_CNT, R.SYS_ERR_ADDR, R.SYS_ACCESS_CNT]),
      Dev.val_raise_apart _ (by simp [Fld.Apart, F.SYS_FLAG_ACCESS_ERR, F.SYS_ACCESS_CNT, R.SYS_FLAG, R.SYS_ACCESS_CNT]) (by simp [Fld.quiet, F.SYS_ACCESS_CNT, R.SYS_ACCESS_CNT, evIcu])]
  · intro b hb hq
    simp only [List.mem_cons, List.not_mem_nil, or_false, forall_eq_or_imp, forall_eq] at hb
    rw [Dev.reg_inc_ne _ hb.2.2, Dev.reg_put_ne _ hb.2.1, Dev.reg_raise _ hq hb.1]

end Sys2Proof.Machine
end

