-- ==== Sys2Proof/Laws/Mem.lean ====
section
/-! SUPPORT. The laws of memory and flash: what a byte reads after a command, that a command over the block alone
leaves them, and that every command keeps their canonical form. -/
namespace Sys2Proof.Machine

theorem onDev_eq (f : Dev → Dev) (s : State) : onDev f s = .next { s with dev := f { s.dev with out := [] } } := rfl

theorem onWork_eq (f : Work → Work) (s : State) : onWork f s = .next { s with
    dev := (f (Work.begin s)).dev
    mem := replay memInit (s.mem.filter (fun e => ! inRanges (f (Work.begin s)).gone e.1)) (f (Work.begin s)).wr
    nv  := replay nvInit s.nv (f (Work.begin s)).nvWr } := rfl

/-- A command over the block alone leaves memory, flash and queue as they were. -/
theorem onDev_sameStores {f : Dev → Dev} {s t : State} (h : onDev f s = .next t) : s.sameStores t := by
  cases h; exact ⟨rfl, fun _ => rfl, fun _ => rfl⟩

theorem tabGet_filter {α : Type} (d : α) (p : Nat → Bool) (k : Nat) :
    ∀ t : Tab α, tabGet d (t.filter (fun e => p e.1)) k = if p k then tabGet d t k else d
  | [] => by simp [tabGet]
  | (j, v) :: t => by
    have ih := tabGet_filter d p k t
    by_cases hp : p j = true
    · simp only [List.filter, hp, tabGet, ih]
      by_cases h : j = k
      · subst h; simp [hp]
      · simp [h]
    · simp only [List.filter, hp, tabGet, ih]
      by_cases h : j = k
      · subst h; simp [hp]
      · simp [h]

theorem tabGet_replay (d : Byte) (m : Memory) (k : Nat) :
    ∀ l, tabGet d (replay d m l) k = match lastWrite k l with | some v => v | none => tabGet d m k
  | [] => rfl
  | (a, v) :: t => by
    have ih := tabGet_replay d m k t
    simp only [replay, lastWrite, tabGet_set]
    split <;> simp_all

/-- A byte of memory after a command: the newest byte the command wrote there, else what it held, unless its range
has lost its contents. -/
theorem onWork_byte {f : Work → Work} {s t : State} (h : onWork f s = .next t) {a : Nat} (ha : 0x10000 ≤ a) :
    t.byte a = match lastWrite a (f (Work.begin s)).wr with
      | some v => v
      | none => if inRanges (f (Work.begin s)).gone a then memInit else s.byte a := by
  rw [onWork_eq] at h
  cases h
  have hn : ¬ a < 0x10000 := by omega
  simp only [State.byte, hn, if_false]
  rw [tabGet_replay, tabGet_filter memInit (fun k => ! inRanges (f (Work.begin s)).gone k)]
  split
  · rfl
  · by_cases hg : inRanges (f (Work.begin s)).gone a = true <;> simp [hg]

/-- A byte of flash after a command. -/
theorem onWork_nvByte {f : Work → Work} {s t : State} (h : onWork f s = .next t) (a : Nat) :
    t.nvByte a = match lastWrite a (f (Work.begin s)).nvWr with
      | some v => v
      | none => s.nvByte a := by
  rw [onWork_eq] at h
  cases h
  simp only [State.nvByte]
  rw [tabGet_replay]

theorem onWork_pending {f : Work → Work} {s t : State} (h : onWork f s = .next t) : t.pending = s.pending := by
  cases h; rfl

/-- A command that writes nothing and takes no contents away leaves memory, flash and queue as they were. -/
theorem onWork_sameStores {f : Work → Work} {s t : State} (h : onWork f s = .next t)
    (h1 : (f (Work.begin s)).wr = []) (h2 : (f (Work.begin s)).gone = []) (h3 : (f (Work.begin s)).nvWr = []) :
    s.sameStores t := by
  refine ⟨onWork_pending h, fun a => ?_, fun a => ?_⟩
  · by_cases ha : a < 0x10000
    · simp [State.byte, ha]
    · rw [onWork_byte h (by omega), h1, h2]; rfl
  · rw [onWork_nvByte h, h3]; rfl

/-- A command over the memories that only changes the block is a command over the block alone. -/
theorem onWork_eq_onDev {f : Work → Work} {g : Dev → Dev} {s : State} (h : f (Work.begin s) = (Work.begin s).on g) :
    onWork f s = onDev g s := by
  have hf : s.mem.filter (fun e => ! inRanges [] e.1) = s.mem := by
    apply List.filter_eq_self.mpr; intro e _; rfl
  rw [onWork_eq, h, onDev_eq]
  simp only [Work.on, Work.begin, replay]
  rw [hf]

/-- Writes keep the canonical form. -/
theorem replay_wf (d : Byte) (m : Memory) (h : tabWf (fun _ => d) m = true) :
    ∀ l, tabWf (fun _ => d) (replay d m l) = true
  | [] => h
  | (a, v) :: t => tabWf_set (fun _ => d) (replay d m t) a v (replay_wf d m h t)

theorem onDev_canonical {f : Dev → Dev} {s t : State} (h : onDev f s = .next t) (hs : s.canonical) : t.canonical := by
  cases h; exact hs

/-- Every command keeps the canonical form of memory and flash. -/
theorem onWork_canonical {f : Work → Work} {s t : State} (h : onWork f s = .next t) (hs : s.canonical) :
    t.canonical := by
  rw [onWork_eq] at h
  cases h
  exact ⟨replay_wf memInit _ (tabWf_filter _ _ _ hs.1) _, replay_wf nvInit _ hs.2 _⟩

/-! ### Reading what the command itself has written -/

theorem Work.peek_poke (w : Work) (a b : Nat) (v : Byte) : (w.poke a v).peek b = if a = b then v else w.peek b := by
  by_cases h : a = b
  · simp [Work.peek, Work.poke, lastWrite, h]
  · simp only [Work.peek, Work.poke, lastWrite, h, if_false]
    rfl

theorem Work.peekNv_pokeNv (w : Work) (a b : Nat) (v : Byte) :
    (w.pokeNv a v).peekNv b = if a = b then v else w.peekNv b := by
  by_cases h : a = b
  · simp [Work.peekNv, Work.pokeNv, lastWrite, h]
  · simp only [Work.peekNv, Work.pokeNv, lastWrite, h, if_false]

@[simp] theorem Work.begin_dev (s : State) : (Work.begin s).dev = { s.dev with out := [] } := rfl
@[simp] theorem Work.begin_wr (s : State) : (Work.begin s).wr = [] := rfl
@[simp] theorem Work.begin_nvWr (s : State) : (Work.begin s).nvWr = [] := rfl
@[simp] theorem Work.begin_gone (s : State) : (Work.begin s).gone = [] := rfl
@[simp] theorem Work.on_dev (w : Work) (f : Dev → Dev) : (w.on f).dev = f w.dev := rfl
@[simp] theorem Work.on_wr (w : Work) (f : Dev → Dev) : (w.on f).wr = w.wr := rfl
@[simp] theorem Work.on_nvWr (w : Work) (f : Dev → Dev) : (w.on f).nvWr = w.nvWr := rfl
@[simp] theorem Work.on_gone (w : Work) (f : Dev → Dev) : (w.on f).gone = w.gone := rfl

end Sys2Proof.Machine
end

