-- ==== Sys2Proof/Laws/Position.lean ====
section
/-! SUPPORT. A move of the unit position leaves every channel's count, edges and speed window as they were. -/
namespace Sys2Proof.Machine

variable (d : Dev)

/-- A fold keeps what each of its steps keeps. -/
theorem foldl_keeps {α β γ : Type} (g : β → γ) (f : β → α → β) (h : ∀ b a, g (f b a) = g b) :
    ∀ (l : List α) (b : β), g (l.foldl f b) = g b
  | [], _ => rfl
  | a :: l, b => (foldl_keeps g f h l (f b a)).trans (h b a)

@[simp] theorem Dev.passCross_log (s : Nat) (c : Cross) : (d.passCross s c).log = d.log := by
  unfold Dev.passCross; split <;> simp
@[simp] theorem Dev.skipCross_log (s : Nat) (k : Int) (n c : Nat) : (d.skipCross s k n c).log = d.log := by
  unfold Dev.skipCross; split <;> simp
@[simp] theorem Dev.fireStrobes_log (s : Nat) (b : Int) (c : Nat) : (d.fireStrobes s b c).log = d.log := by
  unfold Dev.fireStrobes
  apply foldl_keeps (fun d : Dev => d.log)
  intro d t
  dsimp only
  repeat' split
  all_goals simp
@[simp] theorem Dev.handOverAt_log (s : Nat) (k : Int) (e : Nat) : (d.handOverAt s k e).log = d.log := by
  unfold Dev.handOverAt; repeat' split
  all_goals rfl
@[simp] theorem Dev.svcStep_log (c : Nat) : (d.svcStep c).log = d.log := by
  unfold Dev.svcStep; dsimp only
  split
  · rfl
  · split
    · rfl
    · split <;> rfl
@[simp] theorem Dev.svcIdle_log (c : Nat) (t : Int) : (d.svcIdle c t).log = d.log := by
  unfold Dev.svcIdle; dsimp only; split <;> rfl
@[simp] theorem Dev.svcRun_log (c : Nat) (t : Int) : ∀ (n : Nat) (d : Dev), (Dev.svcRun c t n d).log = d.log
  | 0, _ => rfl
  | n + 1, d => by
    unfold Dev.svcRun
    split
    · rfl
    · split
      · simp
      · rw [Dev.svcRun_log c t n]; simp
@[simp] theorem Dev.svcNow_log (c : Nat) : (d.svcNow c).log = d.log := by simp [Dev.svcNow]
/-- Characters that leave change no register. -/
theorem Dev.svcStep_regs (c : Nat) : (d.svcStep c).regs = d.regs := by
  unfold Dev.svcStep; dsimp only
  split
  · rfl
  · split
    · rfl
    · split <;> rfl
theorem Dev.svcIdle_regs (c : Nat) (t : Int) : (d.svcIdle c t).regs = d.regs := by
  unfold Dev.svcIdle; dsimp only; split <;> rfl
theorem Dev.svcRun_regs (c : Nat) (t : Int) : ∀ (n : Nat) (d : Dev), (Dev.svcRun c t n d).regs = d.regs
  | 0, _ => rfl
  | n + 1, d => by
    unfold Dev.svcRun
    split
    · rfl
    · split
      · exact d.svcIdle_regs c t
      · rw [Dev.svcRun_regs c t n, Dev.svcStep_regs]
theorem Dev.svcNow_regs (c : Nat) : (d.svcNow c).regs = d.regs := Dev.svcRun_regs c _ _ d
theorem Dev.placeSymbol_regs (c : Nat) (t : Trig) : (d.placeSymbol c t).1.regs = d.regs := by
  unfold Dev.placeSymbol; dsimp only; split <;> exact d.svcNow_regs c
@[simp] theorem Dev.placeSymbol_log (c : Nat) (t : Trig) : (d.placeSymbol c t).1.log = d.log := by
  unfold Dev.placeSymbol; dsimp only; split <;> exact Dev.svcNow_log d c
@[simp] theorem Dev.placeTrig_log (s : Nat) (t : Trig) : (d.placeTrig s t).1.log = d.log := by
  unfold Dev.placeTrig; split <;> simp
@[simp] theorem Dev.issue_log (s : Nat) (k : Int) (c : Nat) : (d.issue s k c).log = d.log := by
  unfold Dev.issue; dsimp only
  split
  · simp
  · split <;> simp
@[simp] theorem Dev.trgAgain_log (s : Nat) : (d.trgAgain s).log = d.log := by
  unfold Dev.trgAgain; split <;> rfl
theorem Dev.trgAgain_regs (s : Nat) : (d.trgAgain s).regs = d.regs := by
  unfold Dev.trgAgain; split <;> rfl
@[simp] theorem Dev.crossings_log (path : Nat → Int) (h0 h1 : Int) : (d.crossings path h0 h1).log = d.log := by
  unfold Dev.crossings
  dsimp only
  rw [foldl_keeps (fun d : Dev => d.log)]
  · exact foldl_keeps (fun d : Dev => d.log) _ (fun d s => d.trgAgain_log s) _ _
  · intro d x; simp
@[simp] theorem Dev.cmpShow_log (n m : Nat) : (d.cmpShow n m).log = d.log := by unfold Dev.cmpShow; simp
@[simp] theorem Dev.cmpRefresh_log : d.cmpRefresh.log = d.log := by
  unfold Dev.cmpRefresh
  apply foldl_keeps (fun d : Dev => d.log)
  intro d u; split <;> simp
@[simp] theorem Dev.cmpPass_log (n m : Nat) (p q : Int) : (d.cmpPass n m p q).log = d.log := by
  unfold Dev.cmpPass; dsimp only; split <;> rfl
@[simp] theorem Dev.cmpOnce_log (c : Option Nat) (p q : Int) : (d.cmpOnce c p q).log = d.log := by
  unfold Dev.cmpOnce
  split
  · rfl
  · apply foldl_keeps (fun d : Dev => d.log)
    intro d u
    dsimp only
    cases c <;> dsimp only <;> split <;> first | rfl | simp
@[simp] theorem Dev.stillOver_log : d.stillOver.log = d.log := by simp [Dev.stillOver]
@[simp] theorem Dev.advance_log (p h : Int) : (d.advance p h).log = d.log := by
  unfold Dev.advance; dsimp only; split <;> split <;> simp
@[simp] theorem Dev.reversal_log (p : Int) : (d.reversal p).log = d.log := by
  unfold Dev.reversal; dsimp only; split
  · rfl
  · split <;> simp
@[simp] theorem Dev.goStill_log : d.goStill.log = d.log := by
  unfold Dev.goStill; split <;> simp
@[simp] theorem Dev.moveUnit_log (path : Nat → Int) (p h : Int) : (d.moveUnit path p h).log = d.log := by
  unfold Dev.moveUnit; dsimp only; split <;> split <;> simp
@[simp] theorem Dev.unitSat_chan : d.unitSat.log.chan = d.log.chan := by simp [Dev.unitSat]
@[simp] theorem Dev.feedSpeed_log (n : Nat) (k : Int) : (d.feedSpeed n k).log = d.log := by
  unfold Dev.feedSpeed; split <;> rfl
/-- A channel's position shown afresh, and the unit position after it, leave the channels' own records. -/
@[simp] theorem Dev.showChan_chan (n : Nat) (j : Bool) : (d.showChan n j).log.chan = d.log.chan := by
  unfold Dev.showChan; dsimp only; split
  · split <;> simp
  · simp
@[simp] theorem Dev.moveChan_chan (n : Nat) : (d.moveChan n).log.chan = d.log.chan := d.showChan_chan n false
theorem Dev.rampCounts_chan (dir : Int) : ∀ (k : Nat) (d : Dev), (Dev.rampCounts dir k d).1.log.chan = d.log.chan
  | 0, _ => rfl
  | k + 1, d => by
    unfold Dev.rampCounts
    split
    · rw [Dev.rampCounts_chan dir k]
      unfold Dev.rampCount; dsimp only
      split <;> simp
    · rfl
@[simp] theorem Dev.integrate_chan (n : Int) : (d.integrate n).log.chan = d.log.chan := by
  unfold Dev.integrate
  simp [Dev.rampCounts_chan]

/-- A count that stays within the limits of the position moves by exactly `delta`; nothing else of the channel's
record does (R31, R33). -/
theorem Dev.moveCount_logch (n : Nat) {delta : Int} (h1 : -(2 ^ 55) ≤ (d.logch n).count + delta)
    (h2 : (d.logch n).count + delta ≤ 2 ^ 55) :
    (d.moveCount n delta).logch n = { d.logch n with count := (d.logch n).count + delta } := by
  have hc : clampI (-(2 ^ 55)) (2 ^ 55) ((d.logch n).count + delta) = (d.logch n).count + delta := by
    unfold clampI; omega
  have key : ∀ e : Dev, e.log.chan = (d.setLogch n { d.logch n with count := (d.logch n).count + delta }).log.chan →
      e.logch n = { d.logch n with count := (d.logch n).count + delta } := by
    intro e he; unfold Dev.logch; rw [he]; exact d.logch_setLogch n _
  apply key
  unfold Dev.moveCount
  dsimp only
  rw [hc]
  split <;> split <;> simp

/-! ### The registers a move of the unit position can change -/

/-- The register is none of LOG, ICU and EVT, nor of a trigger stream or a strobe, nor TRG_FLAG. -/
def offLog (a : Nat) : Prop :=
  a / 0x10000 ≠ 0x400B ∧ (a < 0x400C1000 ∨ 0x400D0000 ≤ a) ∧ a ≠ R.TRG_FLAG ∧ evIcu a = false

theorem foldl_mem_keeps {α β γ : Type} (g : β → γ) (f : β → α → β) (l : List α)
    (h : ∀ b, ∀ a ∈ l, g (f b a) = g b) : ∀ b : β, g (l.foldl f b) = g b := by
  induction l with
  | nil => intro b; rfl
  | cons a l ih =>
    intro b
    exact (ih (fun b x hx => h b x (List.mem_cons_of_mem _ hx)) (f b a)).trans (h b a List.mem_cons_self)

theorem Dev.mem_listed {base stride n lo len i : Nat} (h : i ∈ d.listed base stride n lo len) : i < n := by
  unfold Dev.listed at h
  obtain ⟨e, _, he⟩ := List.mem_filterMap.mp h
  split at he
  · rename_i j hj
    split at he
    · cases he
    · cases he; exact instOf_lt hj
  · cases he

theorem Dev.mem_cmpUnits {u : Nat × Nat × Nat} (h : u ∈ d.cmpUnits) : u.1 < 32 ∧ u.2.1 < 4 := by
  unfold Dev.cmpUnits at h
  obtain ⟨e, _, he⟩ := List.mem_filterMap.mp h
  dsimp only at he
  split at he
  · cases he
  · rename_i hn
    cases he
    simp only [not_or] at hn
    dsimp only
    omega

variable {a : Nat}

theorem Dev.reg_loseless {f : Fld} (ho : offLog a)
    (h : f.addr / 0x10000 = 0x400B ∨ (0x400C1000 ≤ f.addr ∧ f.addr < 0x400CFFF0))
    (h4 : (f.addr + 4) / 0x10000 = f.addr / 0x10000) : ¬ f.At a := by
  obtain ⟨h1, h2, _⟩ := ho
  rintro (rfl | ⟨_, rfl⟩) <;> omega

@[simp] theorem Dev.reg_passCross (s : Nat) (c : Cross) : (d.passCross s c).reg a = d.reg a := by
  unfold Dev.passCross; split <;> rfl
theorem Dev.reg_skipCross (ho : offLog a) {s : Nat} (hs : s < 64) (k : Int) (n c : Nat) :
    (d.skipCross s k n c).reg a = d.reg a := by
  unfold Dev.skipCross
  split
  · rfl
  · dsimp only
    rw [Dev.reg_passCross, Dev.reg_raise _ ho.2.2.2 (fun h => h.elim ho.2.2.1 (fun h => absurd h.1 (by decide))),
      Dev.reg_raise _ ho.2.2.2 (Dev.reg_loseless ho (by right; simp only [F.TRGs_FLAG_OVERSPEED, R.TRGs_FLAG]; omega)
        (by simp only [F.TRGs_FLAG_OVERSPEED, R.TRGs_FLAG]; omega)),
      Dev.reg_bump_ne _ (Dev.reg_loseless ho (by right; simp only [F.TRGs_SKIP_CNT, R.TRGs_SKIP_CNT]; omega)
        (by simp only [F.TRGs_SKIP_CNT, R.TRGs_SKIP_CNT]; omega))]
theorem Dev.reg_fireStrobes (ho : offLog a) (s : Nat) (b : Int) (c : Nat) : (d.fireStrobes s b c).reg a = d.reg a := by
  unfold Dev.fireStrobes
  apply foldl_mem_keeps (fun d : Dev => d.reg a)
  intro e t ht
  have hlt := d.mem_listed ht
  dsimp only
  split
  · rfl
  · split
    · rw [Dev.reg_mark_ne _ (Dev.reg_loseless ho (by right; simp only [F.STBt_STAT_PENDING, R.STBt_STAT]; omega)
        (by simp only [F.STBt_STAT_PENDING, R.STBt_STAT]; omega))]
      show (if _ then _ else _ : Dev).reg a = _
      split
      · exact e.reg_inc_ne (Dev.reg_loseless ho (by right; simp only [F.STBt_OVL_CNT, R.STBt_OVL_CNT]; omega)
          (by simp only [F.STBt_OVL_CNT, R.STBt_OVL_CNT]; omega))
      · rfl
    · rfl
@[simp] theorem Dev.reg_handOverAt (s : Nat) (k : Int) (e : Nat) : (d.handOverAt s k e).reg a = d.reg a := by
  unfold Dev.handOverAt; repeat' split
  all_goals rfl
@[simp] theorem Dev.reg_placeTrig (s : Nat) (t : Trig) : (d.placeTrig s t).1.reg a = d.reg a := by
  unfold Dev.placeTrig; split
  · rfl
  · exact Dev.reg_of_regs (d.placeSymbol_regs _ t) a
theorem Dev.reg_issue (ho : offLog a) {s : Nat} (hs : s < 64) (k : Int) (c : Nat) : (d.issue s k c).reg a = d.reg a := by
  unfold Dev.issue
  split
  · exact d.reg_skipCross ho hs k 1 c
  · dsimp only
    rw [Dev.reg_passCross, Dev.reg_handOverAt, Dev.reg_fireStrobes _ ho]
    show (if _ then _ else _ : Dev).reg a = _
    have hi : (d.inc (F.TRGs_TRIG_CNT s)).reg a = d.reg a :=
      d.reg_inc_ne (Dev.reg_loseless ho (by right; simp only [F.TRGs_TRIG_CNT, R.TRGs_TRIG_CNT]; omega)
        (by simp only [F.TRGs_TRIG_CNT, R.TRGs_TRIG_CNT]; omega))
    split
    · rw [Dev.reg_raise _ ho.2.2.2 (Dev.reg_loseless ho (by right; simp only [F.TRGs_FLAG_DEFER, R.TRGs_FLAG]; omega)
          (by simp only [F.TRGs_FLAG_DEFER, R.TRGs_FLAG]; omega)),
        Dev.reg_inc_ne _ (Dev.reg_loseless ho (by right; simp only [F.TRGs_DEFER_CNT, R.TRGs_DEFER_CNT]; omega)
          (by simp only [F.TRGs_DEFER_CNT, R.TRGs_DEFER_CNT]; omega)), Dev.reg_placeTrig, hi]
    · rw [Dev.reg_placeTrig, hi]
theorem mem_orderBy {α : Type} {p : α → α → Bool} {l : List α} {x : α} (h : x ∈ orderBy p l) : x ∈ l := by
  have ins : ∀ (y : α) (t : List α), x ∈ insertBy p y t → x = y ∨ x ∈ t := by
    intro y t
    induction t with
    | nil => intro h; simp [insertBy] at h; exact Or.inl h
    | cons z t ih =>
      intro h
      unfold insertBy at h
      split at h
      · exact List.mem_cons.mp h
      · rcases List.mem_cons.mp h with rfl | h
        · exact Or.inr List.mem_cons_self
        · rcases ih h with h | h
          · exact Or.inl h
          · exact Or.inr (List.mem_cons_of_mem _ h)
  have go : ∀ (m acc : List α), x ∈ m.foldl (fun acc x => insertBy p x acc) acc → x ∈ acc ∨ x ∈ m := by
    intro m
    induction m with
    | nil => intro acc h; exact Or.inl h
    | cons y m ih =>
      intro acc h
      rcases ih _ h with h | h
      · rcases ins y acc h with rfl | h
        · exact Or.inr List.mem_cons_self
        · exact Or.inl h
      · exact Or.inr (List.mem_cons_of_mem _ h)
  rcases go l [] h with h | h
  · cases h
  · exact h
/-- Every run of crossings found for a stream is that stream's. -/
theorem Dev.cycleRuns_stream (path : Nat → Int) {hi s : Nat} {k1 : Int} {x : Nat × Nat × Int × Nat} :
    ∀ {n lo : Nat} {k : Int}, x ∈ d.cycleRuns path hi s k1 n lo k → x.2.1 = s
  | 0, _, _, h => by cases h
  | n + 1, lo, k, h => by
    unfold Dev.cycleRuns at h
    split at h
    · cases h
    · rcases List.mem_cons.mp h with rfl | h
      · rfl
      · exact Dev.cycleRuns_stream path h
theorem Dev.reg_crossings (ho : offLog a) (path : Nat → Int) (h0 h1 : Int) : (d.crossings path h0 h1).reg a = d.reg a := by
  unfold Dev.crossings
  dsimp only
  rw [foldl_mem_keeps (fun d : Dev => d.reg a)]
  · exact Dev.reg_of_regs (foldl_keeps (fun d : Dev => d.regs) _ (fun d s => d.trgAgain_regs s) _ _) a
  intro e x hx
  have hm := mem_orderBy hx
  obtain ⟨s, hs, hx2⟩ := List.mem_flatMap.mp hm
  have hlt := Dev.mem_listed _ hs
  split at hx2
  · cases hx2
  · have hx1 := Dev.cycleRuns_stream _ path hx2
    rw [Dev.reg_skipCross _ ho (hx1 ▸ hlt), Dev.reg_issue _ ho (hx1 ▸ hlt)]
theorem Dev.reg_cmpShow (ho : offLog a) {n m : Nat} (hn : n < 32) (hm : m < 4) : (d.cmpShow n m).reg a = d.reg a :=
  d.reg_put_ne (Dev.reg_loseless ho (by left; simp only [F.LOGn_CMPm_CTRL_BACKLOG, R.LOGn_CMPm_CTRL]; omega)
    (by simp only [F.LOGn_CMPm_CTRL_BACKLOG, R.LOGn_CMPm_CTRL]; omega)) _
theorem Dev.reg_cmpShow_put (ho : offLog a) {n m : Nat} (hn : n < 32) (hm : m < 4) (v : Nat) :
    (d.put (F.LOGn_CMPm_CTRL_BACKLOG n m) v).reg a = d.reg a :=
  d.reg_put_ne (Dev.reg_loseless ho (by left; simp only [F.LOGn_CMPm_CTRL_BACKLOG, R.LOGn_CMPm_CTRL]; omega)
    (by simp only [F.LOGn_CMPm_CTRL_BACKLOG, R.LOGn_CMPm_CTRL]; omega)) _
theorem Dev.reg_cmpRefresh (ho : offLog a) : d.cmpRefresh.reg a = d.reg a := by
  unfold Dev.cmpRefresh
  apply foldl_mem_keeps (fun d : Dev => d.reg a)
  intro e u hu
  have h := d.mem_cmpUnits hu
  show (if _ then _ else _ : Dev).reg a = _
  split
  · exact e.reg_cmpShow ho h.1 h.2
  · rfl
theorem Dev.reg_cmpOnce (ho : offLog a) (c : Option Nat) (p q : Int) : (d.cmpOnce c p q).reg a = d.reg a := by
  unfold Dev.cmpOnce
  split
  · rfl
  · apply foldl_mem_keeps (fun d : Dev => d.reg a)
    intro e u hu
    have h := d.mem_cmpUnits hu
    have key : (e.cmpPass u.1 u.2.1 p q).reg a = e.reg a := by
      unfold Dev.cmpPass
      dsimp only
      split
      · exact e.reg_cmpShow_put ho h.1 h.2 1
      · rfl
    cases c <;> dsimp only <;> split <;> first | exact key | rfl
theorem Dev.reg_stillOver (ho : offLog a) : d.stillOver.reg a = d.reg a :=
  d.reg_mark_ne (f := F.LOG_STAT_STANDSTILL) (Dev.reg_loseless ho (Or.inl rfl) rfl) false
theorem Dev.reg_advance (ho : offLog a) (p h : Int) : (d.advance p h).reg a = d.reg a := by
  unfold Dev.advance
  dsimp only
  have w : ∀ {f : Fld}, f.addr / 0x10000 = 0x400B → (f.addr + 4) / 0x10000 = f.addr / 0x10000 → ¬ f.At a :=
    fun h h4 => Dev.reg_loseless ho (Or.inl h) h4
  have wm : ¬ F.LOG_FLAG_MOTION.At a := Dev.reg_loseless ho (Or.inl rfl) rfl
  have wh : ¬ F.LOG_HWM.At a := Dev.reg_loseless ho (Or.inl rfl) rfl
  have e1 : (d.puti F.LOG_HWM h).reg a = d.reg a := d.reg_puti_ne wh _
  have e2 : ∀ e : Dev, (e.mark F.LOG_STAT_REVERSED false).reg a = e.reg a := fun e => e.reg_mark_ne (w rfl rfl) _
  split <;> split
  · rw [Dev.reg_raise _ ho.2.2.2 wm, Dev.reg_stillOver _ ho, e2, e1]
  · rw [e2, e1]
  · rw [Dev.reg_raise _ ho.2.2.2 wm, Dev.reg_stillOver _ ho, e1]
  · exact e1
theorem Dev.reg_reversal (ho : offLog a) (p : Int) : (d.reversal p).reg a = d.reg a := by
  have w : ∀ {f : Fld}, f.addr / 0x10000 = 0x400B → (f.addr + 4) / 0x10000 = f.addr / 0x10000 → ¬ f.At a :=
    fun h h4 => Dev.reg_loseless ho (Or.inl h) h4
  unfold Dev.reversal
  split
  · rfl
  · dsimp only
    rw [Dev.reg_mark_ne _ (w rfl rfl)]
    split
    · rw [Dev.reg_publish _ (Dev.val_lt _ F.LOG_CTRL_REV_EVC) ho.2.2.2, Dev.reg_inc_ne _ (w rfl rfl),
        Dev.reg_raise _ ho.2.2.2 (w rfl rfl)]
    · rw [Dev.reg_inc_ne _ (w rfl rfl), Dev.reg_raise _ ho.2.2.2 (w rfl rfl)]
/-- A move of the unit position changes registers of LOG, TRG, ICU and EVT alone. -/
theorem Dev.reg_moveUnit (ho : offLog a) (path : Nat → Int) (p h : Int) : (d.moveUnit path p h).reg a = d.reg a := by
  unfold Dev.moveUnit
  dsimp only
  show (Dev.cmpRefresh _).reg a = _
  rw [Dev.reg_cmpRefresh _ ho, Dev.reg_reversal _ ho]
  have e1 : ((d.puti F.LOG_POS p).cmpOnce none (d.vali F.LOG_POS) p).reg a = d.reg a := by
    rw [Dev.reg_cmpOnce _ ho]
    exact d.reg_puti_ne (Dev.reg_loseless ho (Or.inl rfl) rfl) _
  split <;> split
  all_goals first
    | (rw [Dev.reg_crossings _ ho, Dev.reg_advance _ ho]; exact e1)
    | (rw [Dev.reg_crossings _ ho]; exact e1)
    | (rw [Dev.reg_advance _ ho]; exact e1)
    | exact e1
/-- So does a channel's position shown afresh. -/
theorem Dev.reg_showChan (ho : offLog a) {n : Nat} (hn : n < 32) (j : Bool) : (d.showChan n j).reg a = d.reg a := by
  unfold Dev.showChan
  dsimp only
  have e0 : ∀ (e : Dev) (b : Bool), (e.raiseIf b (F.LOGn_FLAG_POS_SAT n)).reg a = e.reg a := by
    intro e b
    unfold Dev.raiseIf
    split
    · exact e.reg_raise ho.2.2.2 (Dev.reg_loseless ho (by left; simp only [F.LOGn_FLAG_POS_SAT, R.LOGn_FLAG]; omega)
        (by simp only [F.LOGn_FLAG_POS_SAT, R.LOGn_FLAG]; omega))
    · rfl
  have e1 : ((d.puti (F.LOGn_POS n) (d.chanPosAt n d.now)).cmpOnce (some n) (d.vali (F.LOGn_POS n))
      (d.chanPosAt n d.now)).reg a = d.reg a := by
    rw [Dev.reg_cmpOnce _ ho]
    exact d.reg_puti_ne (Dev.reg_loseless ho (by left; simp only [F.LOGn_POS, R.LOGn_POS]; omega)
      (by simp only [F.LOGn_POS, R.LOGn_POS]; omega)) _
  have e2 : ∀ e : Dev, e.unitSat.reg a = e.reg a := fun e =>
    Dev.reg_raise _ ho.2.2.2 (Dev.reg_loseless (f := F.LOG_FLAG_POS_SAT) ho (Or.inl rfl) rfl)
  split
  · split
    · rw [e2, Dev.reg_moveUnit _ ho, e0]; exact e1
    · rw [Dev.reg_moveUnit _ ho, e0]; exact e1
  · rw [e0]; exact e1
theorem Dev.reg_moveChan (ho : offLog a) {n : Nat} (hn : n < 32) : (d.moveChan n).reg a = d.reg a :=
  d.reg_showChan ho hn false

end Sys2Proof.Machine
end

