-- ==== Sys2Proof/Laws/Shape.lean ====
section
/-! SUPPORT. Every command is a function of the block alone, or of the block and its memories. -/
namespace Sys2Proof.Machine

/-- The two shapes of a command. -/
theorem exec_shape (c : Instr) (s : State) : (∃ f, exec c s = onDev f s) ∨ (∃ f, exec c s = onWork f s) := by
  cases c with
  | registerWrite writer addr size data kind tcm => right; show ∃ g, execRegisterWrite writer addr size data s kind tcm = _; unfold execRegisterWrite; exact ⟨_, rfl⟩
  | loRead reader addr size kind tcm => right; show ∃ g, execLoRead reader addr s size kind tcm = _; unfold execLoRead; exact ⟨_, rfl⟩
  | loWrite writer addr data => right; show ∃ g, execLoWrite writer addr data s = _; unfold execLoWrite; exact ⟨_, rfl⟩
  | hiWrite writer addr data => right; show ∃ g, execHiWrite writer addr data s = _; unfold execHiWrite; exact ⟨_, rfl⟩
  | shadowWrite writer addr data => right; show ∃ g, execShadowWrite writer addr data s = _; unfold execShadowWrite; exact ⟨_, rfl⟩
  | blockDisable b => left; show ∃ g, execBlockDisable b s = _; unfold execBlockDisable; exact ⟨_, rfl⟩
  | drainComplete b => left; show ∃ g, execDrainComplete b s = _; unfold execDrainComplete; exact ⟨_, rfl⟩
  | abort b => right; show ∃ g, execAbort b s = _; unfold execAbort; exact ⟨_, rfl⟩
  | acceptedEdge n a b t => left; show ∃ g, execAcceptedEdge n a b t s = _; unfold execAcceptedEdge; exact ⟨_, rfl⟩
  | standstill n => left; show ∃ g, execStandstill n s = _; unfold execStandstill; exact ⟨_, rfl⟩
  | ssiRead n => left; show ∃ g, execSsiRead n s = _; unfold execSsiRead; exact ⟨_, rfl⟩
  | ssiFrameEnd n bits err high => left; show ∃ g, execSsiFrameEnd n bits err high s = _; unfold execSsiFrameEnd; exact ⟨_, rfl⟩
  | indexLatch n z t => left; show ∃ g, execIndexLatch n z s t = _; unfold execIndexLatch; exact ⟨_, rfl⟩
  | speedWindowEnd n => left; show ∃ g, execSpeedWindowEnd n s = _; unfold execSpeedWindowEnd; exact ⟨_, rfl⟩
  | speedRead n => left; show ∃ g, execSpeedRead n s = _; unfold execSpeedRead; exact ⟨_, rfl⟩
  | driftHistRead n => left; show ∃ g, execDriftHistRead n s = _; unfold execDriftHistRead; exact ⟨_, rfl⟩
  | logScaleWrite v => left; show ∃ g, execLogScaleWrite v s = _; unfold execLogScaleWrite; exact ⟨_, rfl⟩
  | compareHit n m => left; show ∃ g, execCompareHit n m s = _; unfold execCompareHit; exact ⟨_, rfl⟩
  | ticksBetweenCounts n t => left; show ∃ g, execTicksBetweenCounts n t s = _; unfold execTicksBetweenCounts; exact ⟨_, rfl⟩
  | effectiveInstant i0 => left; show ∃ g, execEffectiveInstant i0 s = _; unfold execEffectiveInstant; exact ⟨_, rfl⟩
  | triggerSymbol c => left; show ∃ g, execTriggerSymbol c s = _; unfold execTriggerSymbol; exact ⟨_, rfl⟩
  | triggerDisable i0 => left; show ∃ g, execTriggerDisable i0 s = _; unfold execTriggerDisable; exact ⟨_, rfl⟩
  | triggerAbort i0 => left; show ∃ g, execTriggerAbort i0 s = _; unfold execTriggerAbort; exact ⟨_, rfl⟩
  | strobeStart t => left; show ∃ g, execStrobeStart t s = _; unfold execStrobeStart; exact ⟨_, rfl⟩
  | strobeEnd t => left; show ∃ g, execStrobeEnd t s = _; unfold execStrobeEnd; exact ⟨_, rfl⟩
  | beaconLaunch => left; show ∃ g, execBeaconLaunch s = _; unfold execBeaconLaunch; exact ⟨_, rfl⟩
  | beacon side f => left; show ∃ g, execBeacon side f s = _; unfold execBeacon; exact ⟨_, rfl⟩
  | beaconLost => left; show ∃ g, execBeaconLost s = _; unfold execBeaconLost; exact ⟨_, rfl⟩
  | frozen => left; show ∃ g, execFrozen s = _; unfold execFrozen; exact ⟨_, rfl⟩
  | posPayloadSend => left; show ∃ g, execPosPayloadSend s = _; unfold execPosPayloadSend; exact ⟨_, rfl⟩
  | extrapolation t => left; show ∃ g, execExtrapolation t s = _; unfold execExtrapolation; exact ⟨_, rfl⟩
  | filterOutput c bits => left; show ∃ g, execFilterOutput c bits s = _; unfold execFilterOutput; exact ⟨_, rfl⟩
  | noSignal c => left; show ∃ g, execNoSignal c s = _; unfold execNoSignal; exact ⟨_, rfl⟩
  | lampSignalReturn c => left; show ∃ g, execLampSignalReturn c s = _; unfold execLampSignalReturn; exact ⟨_, rfl⟩
  | switch c => left; show ∃ g, execSwitch c s = _; unfold execSwitch; exact ⟨_, rfl⟩
  | coefDataWrite c v => left; show ∃ g, execCoefDataWrite c v s = _; unfold execCoefDataWrite; exact ⟨_, rfl⟩
  | presetChange c p => left; show ∃ g, execPresetChange c p s = _; unfold execPresetChange; exact ⟨_, rfl⟩
  | laneBringUp l eyes => left; show ∃ g, execLaneBringUp l eyes s = _; unfold execLaneBringUp; exact ⟨_, rfl⟩
  | adaptRetry l eyes => left; show ∃ g, execAdaptRetry l eyes s = _; unfold execAdaptRetry; exact ⟨_, rfl⟩
  | eyeScan l h v => left; show ∃ g, execEyeScan l h v s = _; unfold execEyeScan; exact ⟨_, rfl⟩
  | eyeLow l eyes => left; show ∃ g, execEyeLow l eyes s = _; unfold execEyeLow; exact ⟨_, rfl⟩
  | pstateRequest l code => left; show ∃ g, execPstateRequest l code s = _; unfold execPstateRequest; exact ⟨_, rfl⟩
  | pstateEntry l => left; show ∃ g, execPstateEntry l s = _; unfold execPstateEntry; exact ⟨_, rfl⟩
  | invalidSyncHeader l => left; show ∃ g, execInvalidSyncHeader l s = _; unfold execInvalidSyncHeader; exact ⟨_, rfl⟩
  | lockLost l => left; show ∃ g, execLockLost l s = _; unfold execLockLost; exact ⟨_, rfl⟩
  | marker l bytes slot => left; show ∃ g, execMarker l bytes slot s = _; unfold execMarker; exact ⟨_, rfl⟩
  | markerAbsent l => left; show ∃ g, execMarkerAbsent l s = _; unfold execMarkerAbsent; exact ⟨_, rfl⟩
  | sol p v copies => left; show ∃ g, execSol p v copies s = _; unfold execSol; exact ⟨_, rfl⟩
  | payloadWord i0 w => left; show ∃ g, execPayloadWord i0 w s = _; unfold execPayloadWord; exact ⟨_, rfl⟩
  | eol i0 copies => left; show ∃ g, execEol i0 copies s = _; unfold execEol; exact ⟨_, rfl⟩
  | blkErr l => left; show ∃ g, execBlkErr l s = _; unfold execBlkErr; exact ⟨_, rfl⟩
  | flow i0 blk => left; show ∃ g, execFlow i0 blk s = _; unfold execFlow; exact ⟨_, rfl⟩
  | reply i0 blk => left; show ∃ g, execReply i0 blk s = _; unfold execReply; exact ⟨_, rfl⟩
  | go c => left; show ∃ g, execGo c s = _; unfold execGo; exact ⟨_, rfl⟩
  | bcastFrameEnd c => left; show ∃ g, execBcastFrameEnd c s = _; unfold execBcastFrameEnd; exact ⟨_, rfl⟩
  | timeout c => left; show ∃ g, execTimeout c s = _; unfold execTimeout; exact ⟨_, rfl⟩
  | xoff i0 => left; show ∃ g, execXoff i0 s = _; unfold execXoff; exact ⟨_, rfl⟩
  | xon i0 => left; show ∃ g, execXon i0 s = _; unfold execXon; exact ⟨_, rfl⟩
  | lineEndTimeout i0 => left; show ∃ g, execLineEndTimeout i0 s = _; unfold execLineEndTimeout; exact ⟨_, rfl⟩
  | portDisable p => left; show ∃ g, execPortDisable p s = _; unfold execPortDisable; exact ⟨_, rfl⟩
  | portAbort p => left; show ∃ g, execPortAbort p s = _; unfold execPortAbort; exact ⟨_, rfl⟩
  | contextEnable n m => left; show ∃ g, execContextEnable n m s = _; unfold execContextEnable; exact ⟨_, rfl⟩
  | grant n badWords badEntries badTag => left; show ∃ g, execGrant n badWords badEntries badTag s = _; unfold execGrant; exact ⟨_, rfl⟩
  | statsRecordWrite n m bad => left; show ∃ g, execStatsRecordWrite n m bad s = _; unfold execStatsRecordWrite; exact ⟨_, rfl⟩
  | contextDisable n m => left; show ∃ g, execContextDisable n m s = _; unfold execContextDisable; exact ⟨_, rfl⟩
  | contextAbort n m => left; show ∃ g, execContextAbort n m s = _; unfold execContextAbort; exact ⟨_, rfl⟩
  | blkFixedWrite n m v => left; show ∃ g, execBlkFixedWrite n m v s = _; unfold execBlkFixedWrite; exact ⟨_, rfl⟩
  | commit n m set => left; show ∃ g, execCommit n m set s = _; unfold execCommit; exact ⟨_, rfl⟩
  | foregroundBit i0 => left; show ∃ g, execForegroundBit i0 s = _; unfold execForegroundBit; exact ⟨_, rfl⟩
  | tblDataAccess n m w => left; show ∃ g, execTblDataAccess n m w s = _; unfold execTblDataAccess; exact ⟨_, rfl⟩
  | itemTake i0 => right; show ∃ g, execItemTake i0 s = _; unfold execItemTake; exact ⟨_, rfl⟩
  | late i0 => left; show ∃ g, execLate i0 s = _; unfold execLate; exact ⟨_, rfl⟩
  | staggerWriteTimeout i0 plane => left; show ∃ g, execStaggerWriteTimeout i0 plane s = _; unfold execStaggerWriteTimeout; exact ⟨_, rfl⟩
  | chartRow lateReads => right; show ∃ g, execChartRow lateReads s = _; unfold execChartRow; exact ⟨_, rfl⟩
  | ovlWrite i0 along v => left; show ∃ g, execOvlWrite i0 along v s = _; unfold execOvlWrite; exact ⟨_, rfl⟩
  | resSwap i0 => left; show ∃ g, execResSwap i0 s = _; unfold execResSwap; exact ⟨_, rfl⟩
  | stcTblDataAccess w => left; show ∃ g, execStcTblDataAccess w s = _; unfold execStcTblDataAccess; exact ⟨_, rfl⟩
  | rowLabel i0 => left; show ∃ g, execRowLabel i0 s = _; unfold execRowLabel; exact ⟨_, rfl⟩
  | seamMerge => left; show ∃ g, execSeamMerge s = _; unfold execSeamMerge; exact ⟨_, rfl⟩
  | seam side f => left; show ∃ g, execSeam side f s = _; unfold execSeam; exact ⟨_, rfl⟩
  | seamLate side => left; show ∃ g, execSeamLate side s = _; unfold execSeamLate; exact ⟨_, rfl⟩
  | streamMove v => left; show ∃ g, execStreamMove v s = _; unfold execStreamMove; exact ⟨_, rfl⟩
  | sliceMove v => left; show ∃ g, execSliceMove v s = _; unfold execSliceMove; exact ⟨_, rfl⟩
  | forcedMove v => left; show ∃ g, execForcedMove v s = _; unfold execForcedMove; exact ⟨_, rfl⟩
  | migDrained => left; show ∃ g, execMigDrained s = _; unfold execMigDrained; exact ⟨_, rfl⟩
  | migTimeout => left; show ∃ g, execMigTimeout s = _; unfold execMigTimeout; exact ⟨_, rfl⟩
  | reorderRelease => left; show ∃ g, execReorderRelease s = _; unfold execReorderRelease; exact ⟨_, rfl⟩
  | recordEmit => left; show ∃ g, execRecordEmit s = _; unfold execRecordEmit; exact ⟨_, rfl⟩
  | treeSwap => left; show ∃ g, execTreeSwap s = _; unfold execTreeSwap; exact ⟨_, rfl⟩
  | treeNodeWrite hi => left; show ∃ g, execTreeNodeWrite hi s = _; unfold execTreeNodeWrite; exact ⟨_, rfl⟩
  | segDisable => left; show ∃ g, execSegDisable s = _; unfold execSegDisable; exact ⟨_, rfl⟩
  | segAbort => left; show ∃ g, execSegAbort s = _; unfold execSegAbort; exact ⟨_, rfl⟩
  | headEnable n => left; show ∃ g, execHeadEnable n s = _; unfold execHeadEnable; exact ⟨_, rfl⟩
  | recordRead n hdr bad => left; show ∃ g, execRecordRead n hdr s bad = _; unfold execRecordRead; exact ⟨_, rfl⟩
  | lineLoad n => left; show ∃ g, execLineLoad n s = _; unfold execLineLoad; exact ⟨_, rfl⟩
  | loadComplete n => left; show ∃ g, execLoadComplete n s = _; unfold execLoadComplete; exact ⟨_, rfl⟩
  | headDisable n => left; show ∃ g, execHeadDisable n s = _; unfold execHeadDisable; exact ⟨_, rfl⟩
  | headAbort n => left; show ∃ g, execHeadAbort n s = _; unfold execHeadAbort; exact ⟨_, rfl⟩
  | getId n reply => left; show ∃ g, execGetId n reply s = _; unfold execGetId; exact ⟨_, rfl⟩
  | challenge n reply => left; show ∃ g, execChallenge n reply s = _; unfold execChallenge; exact ⟨_, rfl⟩
  | decrement n reply => left; show ∃ g, execDecrement n reply s = _; unfold execDecrement; exact ⟨_, rfl⟩
  | cartridgeTimeout n => left; show ∃ g, execCartridgeTimeout n s = _; unfold execCartridgeTimeout; exact ⟨_, rfl⟩
  | reauth n => left; show ∃ g, execReauth n s = _; unfold execReauth; exact ⟨_, rfl⟩
  | authRetry n => left; show ∃ g, execAuthRetry n s = _; unfold execAuthRetry; exact ⟨_, rfl⟩
  | cdcStart e => right; show ∃ g, execCdcStart e s = _; unfold execCdcStart; exact ⟨_, rfl⟩
  | codingJobEnd e bad => right; show ∃ g, execCodingJobEnd e bad s = _; unfold execCodingJobEnd; exact ⟨_, rfl⟩
  | decodeJobEnd e => right; show ∃ g, execDecodeJobEnd e s = _; unfold execDecodeJobEnd; exact ⟨_, rfl⟩
  | cdcFlush e row => left; show ∃ g, execCdcFlush e row s = _; unfold execCdcFlush; exact ⟨_, rfl⟩
  | tapEnable t => left; show ∃ g, execTapEnable t s = _; unfold execTapEnable; exact ⟨_, rfl⟩
  | tapLost t => right; show ∃ g, execTapLost t s = _; unfold execTapLost; exact ⟨_, rfl⟩
  | netLinkChange n lock align locFault remFault => left; show ∃ g, execNetLinkChange n lock align locFault remFault s = _; unfold execNetLinkChange; exact ⟨_, rfl⟩
  | uncorrectableCodeword n corrected => left; show ∃ g, execUncorrectableCodeword n corrected s = _; unfold execUncorrectableCodeword; exact ⟨_, rfl⟩
  | frameReceive n bytes => left; show ∃ g, execFrameReceive n bytes s = _; unfold execFrameReceive; exact ⟨_, rfl⟩
  | pos n dgram => left; show ∃ g, execPos n dgram s = _; unfold execPos; exact ⟨_, rfl⟩
  | datagramSend n hdr bad => left; show ∃ g, execDatagramSend n hdr s bad = _; unfold execDatagramSend; exact ⟨_, rfl⟩
  | fixHoldExpiry f => left; show ∃ g, execFixHoldExpiry f s = _; unfold execFixHoldExpiry; exact ⟨_, rfl⟩
  | launchTime f => left; show ∃ g, execLaunchTime f s = _; unfold execLaunchTime; exact ⟨_, rfl⟩
  | flowDisable f => left; show ∃ g, execFlowDisable f s = _; unfold execFlowDisable; exact ⟨_, rfl⟩
  | flowAbort f => left; show ∃ g, execFlowAbort f s = _; unfold execFlowAbort; exact ⟨_, rfl⟩
  | sync d msg t2 => left; show ∃ g, execSync d msg t2 s = _; unfold execSync; exact ⟨_, rfl⟩
  | followUp d msg => left; show ∃ g, execFollowUp d msg s = _; unfold execFollowUp; exact ⟨_, rfl⟩
  | announce d msg => left; show ∃ g, execAnnounce d msg s = _; unfold execAnnounce; exact ⟨_, rfl⟩
  | delayReq d => left; show ∃ g, execDelayReq d s = _; unfold execDelayReq; exact ⟨_, rfl⟩
  | delayResp d msg => left; show ∃ g, execDelayResp d msg s = _; unfold execDelayResp; exact ⟨_, rfl⟩
  | pdelayReq d msg t2 => left; show ∃ g, execPdelayReq d msg t2 s = _; unfold execPdelayReq; exact ⟨_, rfl⟩
  | pdelayResp d msg fup t4 => left; show ∃ g, execPdelayResp d msg fup t4 s = _; unfold execPdelayResp; exact ⟨_, rfl⟩
  | syncTimeout d => left; show ∃ g, execSyncTimeout d s = _; unfold execSyncTimeout; exact ⟨_, rfl⟩
  | pathHoldEnd d => left; show ∃ g, execPathHoldEnd d s = _; unfold execPathHoldEnd; exact ⟨_, rfl⟩
  | asymSuspect => left; show ∃ g, execAsymSuspect s = _; unfold execAsymSuspect; exact ⟨_, rfl⟩
  | chainSample => left; show ∃ g, execChainSample s = _; unfold execChainSample; exact ⟨_, rfl⟩
  | selWrite v => left; show ∃ g, execSelWrite v s = _; unfold execSelWrite; exact ⟨_, rfl⟩
  | dramRequest r wr addr data ecc => right; show ∃ g, execDramRequest r wr addr data ecc s = _; unfold execDramRequest; exact ⟨_, rfl⟩
  | refresh ch => right; show ∃ g, execRefresh ch s = _; unfold execRefresh; exact ⟨_, rfl⟩
  | frequencyChange target => left; show ∃ g, execFrequencyChange target s = _; unfold execFrequencyChange; exact ⟨_, rfl⟩
  | freqDone => right; show ∃ g, execFreqDone s = _; unfold execFreqDone; exact ⟨_, rfl⟩
  | queueEnable q => left; show ∃ g, execQueueEnable q s = _; unfold execQueueEnable; exact ⟨_, rfl⟩
  | pushHdr q writer len => left; show ∃ g, execPushHdr q writer len s = _; unfold execPushHdr; exact ⟨_, rfl⟩
  | pushData q hi => left; show ∃ g, execPushData q hi s = _; unfold execPushData; exact ⟨_, rfl⟩
  | popHdr q fault => left; show ∃ g, execPopHdr q fault s = _; unfold execPopHdr; exact ⟨_, rfl⟩
  | popData q fault => left; show ∃ g, execPopData q fault s = _; unfold execPopData; exact ⟨_, rfl⟩
  | writeStallRelease q => left; show ∃ g, execWriteStallRelease q s = _; unfold execWriteStallRelease; exact ⟨_, rfl⟩
  | queueFlush q => left; show ∃ g, execQueueFlush q s = _; unfold execQueueFlush; exact ⟨_, rfl⟩
  | queueDisable q => left; show ∃ g, execQueueDisable q s = _; unfold execQueueDisable; exact ⟨_, rfl⟩
  | dmaStart c => right; show ∃ g, execDmaStart c s = _; unfold execDmaStart; exact ⟨_, rfl⟩
  | poll c => right; show ∃ g, execPoll c s = _; unfold execPoll; exact ⟨_, rfl⟩
  | burst c hdr bad ecc => right; show ∃ g, execBurst c hdr s bad ecc = _; unfold execBurst; exact ⟨_, rfl⟩
  | descriptorDone c => right; show ∃ g, execDescriptorDone c s = _; unfold execDescriptorDone; exact ⟨_, rfl⟩
  | dmaDisable c => left; show ∃ g, execDmaDisable c s = _; unfold execDmaDisable; exact ⟨_, rfl⟩
  | offer h => left; show ∃ g, execOffer h s = _; unfold execOffer; exact ⟨_, rfl⟩
  | acceptance h => left; show ∃ g, execAcceptance h s = _; unfold execAcceptance; exact ⟨_, rfl⟩
  | mret h => left; show ∃ g, execMret h s = _; unfold execMret; exact ⟨_, rfl⟩
  | wfi h => left; show ∃ g, execWfi h s = _; unfold execWfi; exact ⟨_, rfl⟩
  | moderationEnd i0 => left; show ∃ g, execModerationEnd i0 s = _; unfold execModerationEnd; exact ⟨_, rfl⟩
  | hrpriWrite h v => left; show ∃ g, execHrpriWrite h v s = _; unfold execHrpriWrite; exact ⟨_, rfl⟩
  | timerInterrupt h => left; show ∃ g, execTimerInterrupt h s = _; unfold execTimerInterrupt; exact ⟨_, rfl⟩
  | wdog h => left; show ∃ g, execWdog h s = _; unfold execWdog; exact ⟨_, rfl⟩
  | runWrite h run => left; show ∃ g, execRunWrite h run s = _; unfold execRunWrite; exact ⟨_, rfl⟩
  | coreReset h => left; show ∃ g, execCoreReset h s = _; unfold execCoreReset; exact ⟨_, rfl⟩
  | spareWrite en as => left; show ∃ g, execSpareWrite en as s = _; unfold execSpareWrite; exact ⟨_, rfl⟩
  | eventDelivery k => right; show ∃ g, execEventDelivery k s = _; unfold execEventDelivery; exact ⟨_, rfl⟩
  | stormWindowEnd k => left; show ∃ g, execStormWindowEnd k s = _; unfold execStormWindowEnd; exact ⟨_, rfl⟩
  | evtFire writer k => left; show ∃ g, execEvtFire writer k s = _; unfold execEvtFire; exact ⟨_, rfl⟩
  | channelEnable k => left; show ∃ g, execChannelEnable k s = _; unfold execChannelEnable; exact ⟨_, rfl⟩
  | swiSet v => left; show ∃ g, execSwiSet v s = _; unfold execSwiSet; exact ⟨_, rfl⟩
  | powerGood tr => right; show ∃ g, execPowerGood tr s = _; unfold execPowerGood; exact ⟨_, rfl⟩
  | reload tr => left; show ∃ g, execReload tr s = _; unfold execReload; exact ⟨_, rfl⟩
  | standbyRequest => right; show ∃ g, execStandbyRequest s = _; unfold execStandbyRequest; exact ⟨_, rfl⟩
  | loadRequest => right; show ∃ g, execLoadRequest s = _; unfold execLoadRequest; exact ⟨_, rfl⟩
  | inspectRequest => right; show ∃ g, execInspectRequest s = _; unfold execInspectRequest; exact ⟨_, rfl⟩
  | serviceRequest => right; show ∃ g, execServiceRequest s = _; unfold execServiceRequest; exact ⟨_, rfl⟩
  | modeDone => right; show ∃ g, execModeDone s = _; unfold execModeDone; exact ⟨_, rfl⟩
  | holdEntry => left; show ∃ g, execHoldEntry s = _; unfold execHoldEntry; exact ⟨_, rfl⟩
  | holdExit => left; show ∃ g, execHoldExit s = _; unfold execHoldExit; exact ⟨_, rfl⟩
  | wake src => right; show ∃ g, execWake src s = _; unfold execWake; exact ⟨_, rfl⟩
  | alwaysOnLoss => right; show ∃ g, execAlwaysOnLoss s = _; unfold execAlwaysOnLoss; exact ⟨_, rfl⟩
  | por straps => right; show ∃ g, execPor straps s = _; unfold execPor; exact ⟨_, rfl⟩
  | pinReset => right; show ∃ g, execPinReset s = _; unfold execPinReset; exact ⟨_, rfl⟩
  | softReset v => right; show ∃ g, execSoftReset v s = _; unfold execSoftReset; exact ⟨_, rfl⟩
  | sysWdogExpiry => right; show ∃ g, execSysWdogExpiry s = _; unfold execSysWdogExpiry; exact ⟨_, rfl⟩
  | pgLoss k => right; show ∃ g, execPgLoss k s = _; unfold execPgLoss; exact ⟨_, rfl⟩
  | therm temp => right; show ∃ g, execTherm temp s = _; unfold execTherm; exact ⟨_, rfl⟩
  | junctionCooled temp => left; show ∃ g, execJunctionCooled temp s = _; unfold execJunctionCooled; exact ⟨_, rfl⟩
  | vddutpChange b present level => left; show ∃ g, execVddutpChange b present level s = _; unfold execVddutpChange; exact ⟨_, rfl⟩
  | nvRead => left; show ∃ g, execNvRead s = _; unfold execNvRead; exact ⟨_, rfl⟩
  | nvProgram => left; show ∃ g, execNvProgram s = _; unfold execNvProgram; exact ⟨_, rfl⟩
  | nvErase => left; show ∃ g, execNvErase s = _; unfold execNvErase; exact ⟨_, rfl⟩
  | nvDone err => right; show ∃ g, execNvDone err s = _; unfold execNvDone; exact ⟨_, rfl⟩
  | pdOffWrite hi v => right; show ∃ g, execPdOffWrite hi v s = _; unfold execPdOffWrite; exact ⟨_, rfl⟩
  | pgood k => left; show ∃ g, execPgood k s = _; unfold execPgood; exact ⟨_, rfl⟩
  | pgTimeout => left; show ∃ g, execPgTimeout s = _; unfold execPgTimeout; exact ⟨_, rfl⟩
  | pgRetry => left; show ∃ g, execPgRetry s = _; unfold execPgRetry; exact ⟨_, rfl⟩
  | pmAlert status => left; show ∃ g, execPmAlert status s = _; unfold execPmAlert; exact ⟨_, rfl⟩
  | avsUpdate ack => left; show ∃ g, execAvsUpdate ack s = _; unfold execAvsUpdate; exact ⟨_, rfl⟩
  | chainLinkChange side up => left; show ∃ g, execChainLinkChange side up s = _; unfold execChainLinkChange; exact ⟨_, rfl⟩
  | enumeration => left; show ∃ g, execEnumeration s = _; unfold execEnumeration; exact ⟨_, rfl⟩
  | enum side f => left; show ∃ g, execEnum side f s = _; unfold execEnum; exact ⟨_, rfl⟩
  | enumChdWait => left; show ∃ g, execEnumChdWait s = _; unfold execEnumChdWait; exact ⟨_, rfl⟩
  | noAddr => left; show ∃ g, execNoAddr s = _; unfold execNoAddr; exact ⟨_, rfl⟩
  | enumAck side f => left; show ∃ g, execEnumAck side f s = _; unfold execEnumAck; exact ⟨_, rfl⟩
  | neigh side f => left; show ∃ g, execNeigh side f s = _; unfold execNeigh; exact ⟨_, rfl⟩
  | probe side f => left; show ∃ g, execProbe side f s = _; unfold execProbe; exact ⟨_, rfl⟩
  | svcFwd side f => right; show ∃ g, execSvcFwd side f s = _; unfold execSvcFwd; exact ⟨_, rfl⟩
  | svcRsp side f => left; show ∃ g, execSvcRsp side f s = _; unfold execSvcRsp; exact ⟨_, rfl⟩
  | presLost side f => left; show ∃ g, execPresLost side f s = _; unfold execPresLost; exact ⟨_, rfl⟩
  | relayCommand hdr bad => right; show ∃ g, execRelayCommand s hdr bad = _; unfold execRelayCommand; exact ⟨_, rfl⟩
  | noUnit => left; show ∃ g, execNoUnit s = _; unfold execNoUnit; exact ⟨_, rfl⟩
  | ping f => right; show ∃ g, execPing f s = _; unfold execPing; exact ⟨_, rfl⟩
  | read f => right; show ∃ g, execRead f s = _; unfold execRead; exact ⟨_, rfl⟩
  | write f => right; show ∃ g, execWrite f s = _; unfold execWrite; exact ⟨_, rfl⟩
  | status f => right; show ∃ g, execStatus f s = _; unfold execStatus; exact ⟨_, rfl⟩
  | reset f => right; show ∃ g, execReset f s = _; unfold execReset; exact ⟨_, rfl⟩
  | setAddress f => right; show ∃ g, execSetAddress f s = _; unfold execSetAddress; exact ⟨_, rfl⟩
  | stage f => right; show ∃ g, execStage f s = _; unfold execStage; exact ⟨_, rfl⟩
  | activate f => right; show ∃ g, execActivate f s = _; unfold execActivate; exact ⟨_, rfl⟩
  | scheduleActivate f => right; show ∃ g, execScheduleActivate f s = _; unfold execScheduleActivate; exact ⟨_, rfl⟩
  | confirm f => right; show ∃ g, execConfirm f s = _; unfold execConfirm; exact ⟨_, rfl⟩
  | fallback f => right; show ∃ g, execFallback f s = _; unfold execFallback; exact ⟨_, rfl⟩
  | eraseCal f => right; show ∃ g, execEraseCal f s = _; unfold execEraseCal; exact ⟨_, rfl⟩
  | raiseEpoch f => right; show ∃ g, execRaiseEpoch f s = _; unfold execRaiseEpoch; exact ⟨_, rfl⟩
  | scheduledActivation => right; show ∃ g, execScheduledActivation s = _; unfold execScheduledActivation; exact ⟨_, rfl⟩
  | rollingReload => right; show ∃ g, execRollingReload s = _; unfold execRollingReload; exact ⟨_, rfl⟩
  | svcFramePause => left; show ∃ g, execSvcFramePause s = _; unfold execSvcFramePause; exact ⟨_, rfl⟩
  | presence low => left; show ∃ g, execPresence low s = _; unfold execPresence; exact ⟨_, rfl⟩
  | sramScrubPass errs => left; show ∃ g, execSramScrubPass errs s = _; unfold execSramScrubPass; exact ⟨_, rfl⟩
  | dramScrubPass errs => left; show ∃ g, execDramScrubPass errs s = _; unfold execDramScrubPass; exact ⟨_, rfl⟩
  | logRecordWrite err => right; show ∃ g, execLogRecordWrite err s = _; unfold execLogRecordWrite; exact ⟨_, rfl⟩
  | logCmd v => left; show ∃ g, execLogCmd v s = _; unfold execLogCmd; exact ⟨_, rfl⟩
  | telemetry => left; show ∃ g, execTelemetry s = _; unfold execTelemetry; exact ⟨_, rfl⟩
  | teleDrop => left; show ∃ g, execTeleDrop s = _; unfold execTeleDrop; exact ⟨_, rfl⟩
  | pipeLoad v => left; show ∃ g, execPipeLoad v s = _; unfold execPipeLoad; exact ⟨_, rfl⟩
  | pipeDone ok => left; show ∃ g, execPipeDone ok s = _; unfold execPipeDone; exact ⟨_, rfl⟩
  | ageMeasure mon margin raw => left; show ∃ g, execAgeMeasure mon margin raw s = _; unfold execAgeMeasure; exact ⟨_, rfl⟩
  | codecSelfTest e ok => right; show ∃ g, execCodecSelfTest e ok s = _; unfold execCodecSelfTest; exact ⟨_, rfl⟩
  | almanacTick => right; show ∃ g, execAlmanacTick s = _; unfold execAlmanacTick; exact ⟨_, rfl⟩
  | meridianSet => left; show ∃ g, execMeridianSet s = _; unfold execMeridianSet; exact ⟨_, rfl⟩
  | almSetCommit hi => left; show ∃ g, execAlmSetCommit hi s = _; unfold execAlmSetCommit; exact ⟨_, rfl⟩
  | sealPulse level => left; show ∃ g, execSealPulse level s = _; unfold execSealPulse; exact ⟨_, rfl⟩
  | vbatMeasure mv => left; show ∃ g, execVbatMeasure mv s = _; unfold execVbatMeasure; exact ⟨_, rfl⟩
  | timeLost => left; show ∃ g, execTimeLost s = _; unfold execTimeLost; exact ⟨_, rfl⟩

end Sys2Proof.Machine
end

