-- ==== Sys2Proof/WellFormed.lean ====
section
/-! DEFINITION. Which commands are well formed: operands have the sizes that the links and ports they come
over give them. A meaning is defined on every command; these checks say which ones the ports can deliver. -/
namespace Sys2Proof

/-- The ports that write registers: cores H0 to H4, the service port, the chain relay (R277). -/
def writerOk (w : Nat) : Bool := w < 5 || w == 0x0A || w == 0x0B

/-- A 64-bit block is eight bytes (R78). -/
def blockOk (b : List Byte) : Bool := b.length == 8

/-- A chain frame: a control block of eight bytes and the payload words its LEN counts (R309). -/
def chainOk (f : ChainFrame) : Bool :=
  f.ctrl.length == 8 && f.words.length == (f.ctrl.getD 5 0).toNat + 256 * (f.ctrl.getD 6 0).toNat

/-- A service frame: an 8-byte header, its payload of LEN bytes and a 4-byte CRC (R312). -/
def svcOk (f : SvcFrame) : Bool :=
  12 ≤ f.bytes.length &&
    f.bytes.length == 12 + ((f.bytes.getD 4 0).toNat + 256 * (f.bytes.getD 5 0).toNat
      + 65536 * (f.bytes.getD 6 0).toNat + 16777216 * (f.bytes.getD 7 0).toNat)

/-- The operands fit the port or link the command comes over. -/
def wellFormed : Instr → Bool
  | .registerWrite w _ size v kind _ =>
    writerOk w && decide (v.toNat < 2 ^ (8 * size)) && match kind with
      | .plain => size == 1 || size == 2 || size == 4 || size == 8
      | _ => w < 5 && (size == 4 || size == 8)
  | .loRead r _ size kind _ =>
    writerOk r && match kind with
      | .plain => size == 1 || size == 2 || size == 4 || size == 8
      | .fetch => r < 5 && (size == 2 || size == 4)
      | .reserve => r < 5 && (size == 4 || size == 8)
  | .loWrite w a _ => writerOk w && a % 4 == 0
  | .hiWrite w a _ => writerOk w && a % 4 == 0
  | .shadowWrite w a _ => writerOk w && a % 4 == 0
  | .ssiFrameEnd _ bits _ _ => bits < 2 ^ 48
  | .marker _ bytes _ => blockOk bytes
  | .sol _ _ copies => copies.all (fun c => blockOk c.1 && blockOk c.2) && !copies.isEmpty
  | .eol _ copies => copies.all blockOk && !copies.isEmpty
  | .flow _ blk => blockOk blk
  | .reply _ blk => blockOk blk
  | .pushHdr _ w _ => writerOk w
  | .evtFire w _ => writerOk w
  | .hrpriWrite _ v => v < 2 ^ 64
  | .eyeScan _ h v => h ≤ 64 && v ≤ 64
  | .beacon _ f | .seam _ f | .enum _ f | .enumAck _ f | .neigh _ f | .probe _ f
  | .svcFwd _ f | .svcRsp _ f | .presLost _ f => chainOk f
  | .ping f | .read f | .write f | .status f | .reset f | .setAddress f | .stage f | .activate f
  | .scheduleActivate f | .confirm f | .fallback f | .eraseCal f | .raiseEpoch f => svcOk f
  | .pmAlert st => st.length ≤ 8
  | .ageMeasure _ m _ => 0 ≤ m && m ≤ 100
  | _ => true

end Sys2Proof
end

