-- ==== Sys2Proof/Tests/Slice0.lean ====
section
/-! SUPPORT. Tests: for each statement with hypotheses a state and operands that meet them, clause by clause; a term that
each well-formedness check refuses; and a few single steps and helpers with values worked out by hand or known. Expected
values come from the rules cited, never from the model. -/
namespace Sys2Proof.Tests

open Sys2Proof Sys2Proof.Machine

set_option maxRecDepth 20000

/-! ### Witnesses: for each statement with hypotheses a state and operands that meet them, clause by clause -/

/-- The unit right after reset with some register fields given, and its other state changed by `f`. -/
def unit (l : List (Fld × Nat)) (f : Dev → Dev := id) : State :=
  { State.reset with dev := f (l.foldl (fun d x => d.put x.1 x.2) State.reset.dev) }

/-- The unit with bytes of memory given. -/
def unitMem (l : List (Fld × Nat)) (m : Memory) (f : Dev → Dev := id) : State := { unit l f with mem := m }

/-- What a command answers is a next state in which `p` holds. -/
def leads (c : Instr) (s : State) (p : State → Bool) : Bool :=
  match exec c s with
  | .next t => p t
  | _ => false

theorem witness_EmptyQueueLetsOneCyclePass : State.reset.pending = [] ∧ State.reset.dev.svc.run = none := by decide

theorem witness_StepKeepsMemoriesCanonical : State.reset.canonical ∧
    (match step State.reset with
      | .next t => t.dev.now == 4
      | _ => false) = true := ⟨⟨by decide, by decide⟩, by decide⟩

theorem witness_EveryRegisterReadsItsResetValue :
    (R.SYS_ID : Nat) ≠ R.SYS_RST_CAUSE ∧ (R.SYS_ID : Nat) ≠ R.PWR_PD_STAT ∧ (R.SYS_ID : Nat) ≠ R.PWR_PD_STAT + 4 := by decide

theorem witness_DeviceCommandsKeepTheMemories :
    Instr.standstill 3 ∈ [Instr.standstill 3, .ssiRead 3] ∧ leads (.standstill 3) State.reset (fun _ => true) = true := by decide

theorem witness_SixtyFourBitProtocol :
    ∃ r, rowAt 0x40010028 = some r ∧ rowAt (0x40010028 + 4) = some r ∧ r.pair = true ∧ (0x40010028 : Nat) % 4 = 0 ∧
      isUpper r.insts (0x40010028 - r.base) = false ∧ isUpper r.insts (0x40010028 + 4 - r.base) = true ∧
      State.reset.dev.readActs 0x40010028 = none ∧ r.rw ||| r.wo ≠ 0 ∧ State.reset.dev.wideFree 0x40010028 = true ∧
      r.ruled = 0 ∧ (∀ u ∈ [Use.load, Use.store], ∀ a ∈ [0x40010028, 0x40010028 + 4], State.reset.dev.passes 0 u a 4 = true) ∧
      0x40010028 ≠ R.PWR_PD_OFF ∧ State.reset.quietened.dev.wideActs 0x40010028 5 = none :=
  ⟨_, rfl, by decide⟩

theorem witness_BadAccessesAreReported :
    ∀ x ∈ [((0x4040FFFF : Nat), (1 : Nat)), (0x40000000, 2), (0x4040FFF9, 4)],
      0x40000000 ≤ x.1 ∧ x.1 + x.2 ≤ 0x40410000 ∧ 0 < x.2 ∧ ¬ (x.2 = 4 ∧ x.1 % 4 = 0) ∧
        State.reset.dev.passes 0 .load x.1 x.2 = true ∧ State.reset.dev.passes 0x0A .store x.1 x.2 = true := by decide

theorem witness_ReservedOffsetsIgnoreAccesses :
    (0x40000000 : Nat) ≤ 0x4000FFFC ∧ (0x4000FFFC : Nat) < 0x40410000 ∧ 0x4000FFFC % 4 = 0 ∧ rowAt 0x4000FFFC = none ∧
    State.reset.dev.passes 4 .load 0x4000FFFC 4 = true ∧ State.reset.dev.passes 4 .store 0x4000FFFC 4 = true := by
  decide

theorem witness_PlainRegisterTakesItsWrite :
    ∃ r, rowAt 0x40020020 = some r ∧ r.pair = false ∧ isShadow r.hand = false ∧ r.ruled = 0 ∧ r.w1c = 0 ∧
      State.reset.dev.passes 1 .store 0x40020020 4 = true ∧
      State.reset.quietened.dev.settleAt 0x40020020 = State.reset.quietened.dev ∧
      (Work.mk State.reset.quietened.dev [] [] [] [] []).writeMem 0x40020020 5 = none ∧
      State.reset.quietened.dev.writeActs 1 0x40020020 5 = none :=
  ⟨_, rfl, by decide⟩

theorem witness_MemoryTakesItsWrite :
    (0 : Nat) < 8 ∧ 0x10000FF8 % 8 = 0 ∧ 4096 % 8 = 0 ∧ State.reset.dev.passes 0 .store 0x10000FF8 8 = true ∧
    ∀ i, i < 8 → State.reset.dev.place (0x10000FF8 + i) = .mem (0x10000FF8 + i) := by decide

/-- A core in user mode, whose protection grants nothing; one in machine mode that holds a reservation or none. -/
theorem witness_MemoryTakesItsWrite_cores :
    (∀ r ∈ [none, some (0x10000FF8 / 64)],
      let d := (unit [] (fun d => d.setCore 3 { d.core 3 with resv := r })).dev
      d.passes 3 .conditional 0x10000FF8 8 = true ∧ d.passes 3 .reserve 0x10000FF8 8 = true ∧ (d.core 3).resv = r) ∧
    (let d := (unit [] (fun d => d.setCore 3 { d.core 3 with user := true })).dev
     ∀ u ∈ [Use.load, .fetch, .store], d.passes 3 u 0x10000FF8 4 = false) ∧
    (State.reset.dev.place 0x30000000 = .nothing ∧ State.reset.dev.beyond 0x30000000 4 = false ∧
      State.reset.dev.passes 3 .load 0x30000000 4 = true) ∧
    (State.reset.dev.place 0x40000000 = .peri ∧ State.reset.dev.passes 3 .amo 0x40000000 4 = true ∧ dramBase ≤ dramBase) ∧
    ((State.reset.dev.place 0x08800000).tcm = some 4 ∧ State.reset.dev.passes 3 .load 0x08800000 4 = true) := by decide

theorem witness_ShadowWriteIsPending :
    ShadowAt (R.FLTc_FCFG_SH 47) (F.FLTc_STAT_SHADOW_PEND 47) ∧ (rowAt (R.FLTc_FCFG_SH 47)).isSome = true ∧
    ShadowAt (R.SLK_Ss_LINE_SH 63) (F.SLK_Ss_STAT_SHADOW_PEND 63) ∧ (rowAt (R.SLK_Ss_LINE_SH 63)).isSome = true ∧
    ShadowAt (R.PLn_CTXm_COR_SH 16 3) (F.PLn_CTXm_STAT_SHADOW_PEND 16 3) ∧ (rowAt (R.PLn_CTXm_COR_SH 16 3)).isSome = true ∧
    ShadowAt (R.DRC_TSETf_D_SH 3) F.DRC_STAT_SHADOW_PEND ∧ (rowAt (R.DRC_TSETf_D_SH 3)).isSome = true :=
  ⟨.inl ⟨47, rfl, rfl⟩, by decide, .inr (.inl ⟨63, .inl rfl, rfl⟩), by decide,
    .inr (.inr (.inl ⟨16, 3, .inr rfl, rfl⟩)), by decide,
    .inr (.inr (.inr (.inr (.inr (.inr ⟨3, .inr (.inr (.inr rfl)), rfl⟩))))), by decide⟩

theorem witness_AbortStopsABlock : Block.queue 63 ≠ .svcPort ∧ ∀ n, Block.queue 63 ≠ .head n := by decide

theorem witness_DrainEndsAndMayRestart :
    (let d := (unit [(F.STBt_STAT_IDLE 95, 0)]).dev
     d.on (F.STBt_STAT_ON 95) = false ∧ d.on (F.STBt_STAT_IDLE 95) = false ∧ d.on (F.STBt_CFG_EN 95) = false ∧
       d.restart.contains (F.STBt_CFG_EN 95).addr = false) ∧
    (let d := (unit [(F.STBt_STAT_IDLE 0, 0), (F.STBt_CFG_EN 0, 1)] (fun d => { d with restart := [R.STBt_CFG 0] })).dev
     d.on (F.STBt_STAT_ON 0) = false ∧ d.on (F.STBt_STAT_IDLE 0) = false ∧ d.on (F.STBt_CFG_EN 0) = true ∧
       d.restart.contains (F.STBt_CFG_EN 0).addr = true) ∧
    (let d := (unit [(F.SVC_STAT_IDLE, 0), (F.SVC_CTRL_EN, 0)]).dev
     d.svc.run = none ∧ d.on F.SVC_STAT_IDLE = false ∧ d.on F.SVC_CTRL_EN = false ∧
       d.restart.contains F.SVC_CTRL_EN.addr = false) ∧
    (let d := (unit [(F.MRKn_STAT_IDLE 15, 0)]).dev
     (d.head 15).wait = .idle ∧ d.on (F.MRKn_STAT_IDLE 15) = false ∧ d.on (F.MRKn_CFG_EN 15) = false ∧
       d.restart.contains (F.MRKn_CFG_EN 15).addr = false) := by decide

/-- A channel that runs in quadrature mode, one that runs on SSI. -/
def quadOn (n : Nat) : List (Fld × Nat) := [(F.LOGn_CFG_EN n, 1), (F.LOGn_STAT_IDLE n, 0), (F.LOGn_CFG_MODE n, 1)]
def ssiOn (n : Nat) : List (Fld × Nat) := [(F.LOGn_CFG_EN n, 1), (F.LOGn_STAT_IDLE n, 0), (F.LOGn_CFG_MODE n, 2)]

/-- Each of the four moves of the state code, from code 0 and from code 3; a channel that is the source and one that
is not. -/
theorem witness_QuadratureEdgesCount :
    (let d := (unit (quadOn 31)).dev
     d.chanRuns 31 1 = true ∧ (d.logch 31).count.natAbs < 2 ^ 54 ∧ d.isSource 31 = false ∧
       quadCode (bitOf (d.val (F.LOGn_STAT_ABZ 31)) 0) (bitOf (d.val (F.LOGn_STAT_ABZ 31)) 1) = 0 ∧
       d.settled 31 (d.logch 31).chA 0 = true ∧ d.settled 31 (d.logch 31).chB 0 = true ∧
       (let e := (unit (quadOn 31 ++ [(F.LOGn_CFG_GLITCH 31, 2)]) (fun d => d.setLogch 31 { chA := some 5 })).dev
        e.settled 31 (e.logch 31).chA 6 = false ∧ e.settled 31 (e.logch 31).chA 7 = true) ∧
       [quadCode false false, quadCode true false, quadCode true true, quadCode false true].Perm [0, 1, 2, 3] ∧
       d.on (F.LOGn_CFG_INTERP 31) = false) ∧
    (let d := (unit (quadOn 0 ++ [(F.LOGn_STAT_ABZ 0, 2)]) (fun d => d.setLogch 0 { count := 2 ^ 54 - 1 })).dev
     d.chanRuns 0 1 = true ∧ (d.logch 0).count.natAbs < 2 ^ 54 ∧ d.isSource 0 = true ∧
       quadCode (bitOf (d.val (F.LOGn_STAT_ABZ 0)) 0) (bitOf (d.val (F.LOGn_STAT_ABZ 0)) 1) ∈ [1, 3]) := by decide

theorem witness_StandstillInterpolationAndSsi :
    (let d := (unit (quadOn 0)).dev
     d.runs (F.LOGn_CFG_EN 0) (F.LOGn_STAT_IDLE 0) = true ∧ d.on (F.LOGn_STAT_STANDSTILL 0) = false) ∧
    (let d := (unit (quadOn 31 ++ [(F.LOGn_CFG_INTERP 31, 1)]) (fun d => d.setLogch 31 { run := 2, per := 1, count := -1 })).dev
     d.chanRuns 31 1 = true ∧ d.isSource 31 = false ∧ d.now ≤ 0 ∧ 0 < (d.logch 31).per ∧ (d.logch 31).perValid = true ∧
       d.on (F.LOGn_STAT_STANDSTILL 31) = false) ∧
    (let d := (unit (ssiOn 5)).dev
     d.chanRuns 5 2 = true ∧ (d.logch 5).ssiBusy = false) ∧
    (let d := (unit (ssiOn 5) (fun d => d.setLogch 5 { ssiBusy := true })).dev
     (d.logch 5).ssiBusy = true ∧ (d.logch 5).ssiPrev = none ∧ (d.logch 5).count.natAbs < 2 ^ 54) ∧
    (let d := (unit (ssiOn 5 ++ [(F.LOGn_SSI_STEP 5, 1)]) (fun d => d.setLogch 5 { ssiBusy := true, ssiPrev := some 0 })).dev
     let k := d.ssiBits 5
     (toSigned k (((1 : Int) - 0) % 2 ^ k).toNat).natAbs ≤ d.val (F.LOGn_SSI_STEP 5) ∧
       d.val (F.LOGn_SSI_STEP 5) < (toSigned k (((0 : Int) - 2) % 2 ^ k).toNat).natAbs) := by decide

theorem witness_SpeedIndexAndScale :
    (let d := (unit (quadOn 3 ++ [(F.LOGn_INDEX_CTRL_ZEN 3, 1), (F.LOGn_INDEX_CTRL_ZGATE_EN 3, 0)])).dev
     d.settled 3 (d.logch 3).chZ 0 = true ∧ d.chanRuns 3 1 = true ∧ d.on (F.LOGn_INDEX_CTRL_ZEN 3) = true ∧ bitOf (d.val (F.LOGn_STAT_ABZ 3)) 2 = false ∧
       d.on (F.LOGn_INDEX_CTRL_ZGATE_EN 3) = false ∧ (d.logch 3).count.natAbs < 2 ^ 54) ∧
    (let d := (unit (quadOn 31)).dev
     d.runs (F.LOGn_CFG_EN 31) (F.LOGn_STAT_IDLE 31) = true) := by decide

/-- The REGULAR unit at the first hit, at the last of 16 owed, and with the shortest pitch. -/
theorem witness_CompareHits :
    (let d := (unit [(F.LOGn_CMPm_CTRL_MODE 31 3, 1), (F.LOGn_CMPm_CTRL_BACKLOG 31 3, 1)]).dev
     d.val (F.LOGn_CMPm_CTRL_MODE 31 3) = 1 ∧ d.val (F.LOGn_CMPm_CTRL_BACKLOG 31 3) ≠ 0) ∧
    (let d := (unit [(F.LOGn_CMPm_CTRL_MODE 0 0, 2), (F.LOGn_CMPm_CTRL_BACKLOG 0 0, 1)]).dev
     d.val (F.LOGn_CMPm_CTRL_MODE 0 0) = 2 ∧ d.val (F.LOGn_CMPm_CTRL_BACKLOG 0 0) ≠ 0) ∧
    (∀ hw ∈ [100, 100 + 16 * 64 - 1],
      let d := (unit [(F.LOGn_CMPm_CTRL_MODE 0 1, 3), (F.LOGn_CMPm_VAL 0 1, 100), (F.LOG_HWM, hw)]).dev
      d.val (F.LOGn_CMPm_CTRL_MODE 0 1) = 3 ∧ d.headsOf 0 1 = [] ∧ d.headOf 0 1 = none ∧
        d.vali (F.LOGn_CMPm_VAL 0 1) ≤ d.vali F.LOG_HWM ∧
        d.vali F.LOG_HWM < d.vali (F.LOGn_CMPm_VAL 0 1) + 16 * (max 64 (d.val (F.LOGn_CMPm_PITCH 0 1)) : Nat) ∧
        d.vali (F.LOGn_CMPm_VAL 0 1) + (max 64 (d.val (F.LOGn_CMPm_PITCH 0 1)) : Nat) < 2 ^ 63) := by decide

/-- A trigger whose effective instant is 120 ns, sent over its service channel or by a pin. -/
def aTrigger (pin : Bool) : Trig :=
  { k := -1, cross := 0, eff := 120, slot := 40, res := 63, deferred := true, pin := pin, sent := false, stamped := false }

theorem witness_TriggersAreStampedAndSent :
    (let d := (unit [(F.TRGs_CFG_EN 63, 1), (F.TRGs_STAT_IDLE 63, 0)]
      (fun d => d.setTrgs 63 { trigs := [aTrigger false] })).dev
     (d.trgs 63).trigs.find? (fun y => ! y.stamped) = some (aTrigger false) ∧ d.now ≤ (aTrigger false).eff ∧
       d.drains (F.TRGs_CFG_EN 63) (F.TRGs_STAT_IDLE 63) = false ∧ d.nextSymbol 15 = some (63, aTrigger false)) ∧
    (let d := (unit [(F.TRGs_CFG_EN 0, 1), (F.TRGs_STAT_IDLE 0, 0), (F.TRGs_CFG_UTP 0, 7), (F.SYS_UTPu_CFG_OWNER 7, 1)]
      (fun d => { d.setTrgs 0 { trigs := [aTrigger true] } with now := 120 })).dev
     (d.trgs 0).trigs.find? (fun y => ! y.stamped) = some (aTrigger true) ∧ d.now ≤ (aTrigger true).eff ∧
       d.drains (F.TRGs_CFG_EN 0) (F.TRGs_STAT_IDLE 0) = false ∧ (aTrigger true).pin = true ∧
       d.val (F.SYS_UTPu_CFG_OWNER (d.val (F.TRGs_CFG_UTP 0))) = 1) := by decide

theorem witness_TriggerDisableAndAbort : (unit [(F.TRGs_CFG_EN 63, 1)]).dev.on (F.TRGs_CFG_EN 63) = true := by decide

theorem witness_StrobesPulse :
    (∀ b ∈ [0, 1],
      let d := (unit [(F.STBt_STAT_ON 95, b)] (fun d => d.setStb 95 { starts := [0] })).dev
      (d.stb 95).starts = 0 :: [] ∧ d.now ≤ 0 ∧ d.on (F.STBt_STAT_ON 95) = (b == 1)) ∧
    (let d := (unit [(F.LOG_HWM, 100)] (fun d => d.setStb 0 { tickStart := some 100 })).dev
     (d.stb 0).starts = [] ∧ (d.stb 0).tickStart = some 100 ∧ 100 ≤ d.vali F.LOG_HWM) ∧
    (unit [(F.STBt_STAT_ON 3, 1)]).dev.on (F.STBt_STAT_ON 3) = true := by decide

/-- A unit that follows the beacons, its ports up. -/
def follower (l : List (Fld × Nat)) : State :=
  unit ([(F.LOG_CTRL_SRC, 1), (F.CHN_STAT_UP_U, 1)] ++ l)
    (fun d => { d with chn := { d.chn with sideKnown := true }, trg := { d.trg with recon := { valid := true } } })

theorem witness_LockStepFollowsTheMaster :
    (let d := (unit [(F.TRG_CTRL_BCN_MASTER, 1)] (fun d => { d with now := 1000 })).dev
     d.on F.TRG_CTRL_BCN_MASTER = true ∧ d.now ≤ d.trg.bcnAt + 1000) ∧
    (let d := (follower []).dev
     let f := mkFrame 1 0x8000 3 [1, 2, 3]
     f.type = 1 ∧ (d.chainCheck .chu f).2 = true ∧ ¬ (f.srcHop = d.hop ∧ d.on F.CHN_STAT_ADDR_VALID = true) ∧
       f.bcast = true ∧ d.chn.sideKnown = true ∧ d.fromBeaconSide .chu = true ∧ d.posSrc = 1) ∧
    (let d := (follower [(F.TRG_STAT_LS_LOCK, 1)]).dev
     d.posSrc ≠ 0 ∧ d.on F.TRG_STAT_LS_LOCK = true ∧ d.trg.recon.valid = true ∧ d.on F.TRG_STAT_FROZEN = false ∧
       d.now ≤ 0) ∧
    (let d := (unit [(F.LOG_CTRL_SRC, 1)]).dev
     d.posSrc ≠ 0 ∧ d.on F.TRG_STAT_LS_LOCK = false ∧ d.trg.recon.lost = false ∧ d.trg.recon.valid = false ∧
       d.on F.TRG_STAT_FROZEN = false) ∧
    (let d := (unit [(F.TRG_CTRL_BCN_MASTER, 1), (F.TRG_CTRL_BCN_NET_TX, 1), (F.NET_POS_FLOW, 31), (F.NET_Ff_CFG_TYPE 31, 6),
       (F.NET_Ff_CFG_PORT 31, 7), (F.NET_Ff_CFG_EN 31, 1), (F.NET_Ff_STAT_IDLE 31, 0), (F.NETn_CFG_EN 7, 1),
       (F.NETn_STAT_IDLE 7, 0), (F.NETn_STAT_LINK 7, 1)]).dev
     d.on F.TRG_CTRL_BCN_MASTER = true ∧ d.on F.TRG_CTRL_BCN_NET_TX = true ∧ d.flowType (d.val F.NET_POS_FLOW) = 6 ∧
       d.flowRuns (d.val F.NET_POS_FLOW) = true ∧
       d.linkSeen (d.val (F.NET_Ff_CFG_PORT (d.val F.NET_POS_FLOW))) = true) := by decide

theorem witness_FilterChain :
    (let d := (unit [(F.FLTc_STAT_IDLE 15, 0), (fltEn 15, 1)] (fun d => d.setFltc 15 { settle := 12 })).dev
     d.on (F.FLTc_STAT_IDLE 15) = false ∧ (d.fltc 15).silent = false ∧
       d.drains (fltEn 15) (F.FLTc_STAT_IDLE 15) = false ∧ 12 ≤ (d.fltc 15).settle ∧
       d.on (F.FLTc_STAT_FADING 15) = false ∧ d.fltPreset 15 ≠ 3 ∧ d.fltPreset 15 ≠ 2) ∧
    (unit [] (fun d => d.setFltc 0 { silent := true })).dev.fltc 0 = { silent := true } ∧
    (let d := (unit [(F.FLTc_STAT_IDLE 15, 0)]).dev
     d.on (fltEn 15) = false ∧ d.restart.contains (fltEn 15).addr = false ∧ d.drains (fltEn 15) (F.FLTc_STAT_IDLE 15) = true ∧
       State.reset.dev.drains (fltEn 15) (F.FLTc_STAT_IDLE 15) = false) ∧
    (unit [(F.FLTc_STAT_FADING 47, 1)]).dev.on (F.FLTc_STAT_FADING 47) = true := by decide

/-- A lane of port 5 that runs and is block-locked in P0. -/
def laneOn (l : Nat) : List (Fld × Nat) :=
  [(F.SLK_Ll_CTRL_EN l, 1), (F.SLK_Ll_STAT_IDLE l, 0), (F.SLK_Ll_CTRL_PSTATE l, 0), (F.SLK_Ll_STAT_PSTATE l, 0),
    (F.SLK_Ll_STAT_BLOCK_LOCK l, 1)]

theorem witness_SensorLanesFollowTheirEye :
    (∀ b ∈ [0, 1],
      let d := (unit (laneOn 20 ++ [(F.SLK_Ll_STAT_BLOCK_LOCK 20, 0), (F.SLK_Ll_CTRL_ADAPT 20, b)])).dev
      (d.lstr (d.laneStream 20)).opened = none ∧ (d.lstr (d.laneStream 20)).skim = none ∧ d.laneWanted 20 = true ∧ d.on (F.SLK_Ll_STAT_BLOCK_LOCK 20) = false ∧
        d.on (F.SLK_Ll_CTRL_ADAPT 20) = (b == 1)) ∧
    (let d := (unit (laneOn 63 ++ [(F.SLK_Ll_CTRL_ADAPT 63, 1), (F.SLK_Ll_CTRL_EYE_MIN 63, 40)])
       (fun d => d.setLane 63 { failed := true })).dev
     d.laneWanted 63 = true ∧ (d.lane 63).failed = true ∧ d.on (F.SLK_Ll_CTRL_ADAPT 63) = true ∧
       min 252 (adapt [(3, 10)]).2 < d.val (F.SLK_Ll_CTRL_EYE_MIN 63) ∧ d.val (F.SLK_Ll_STAT_PSTATE 63) = 0 ∧
       d.on (F.SLK_Ll_STAT_BLOCK_LOCK 63) = true) ∧
    (let d := (unit (laneOn 0 ++ [(F.SLK_Ll_CTRL_ADAPT 0, 0)]) (fun d => d.setLane 0 { service := true, lowMs := 100 })).dev
     d.val (F.SLK_Ll_STAT_PSTATE 0) = 0 ∧ (d.lane 0).service = true ∧ max 1 (d.val (F.SLK_Ll_CTRL_EYE_DWELL 0)) ≤ (d.lane 0).lowMs ∧
       d.on (F.SLK_Ll_CTRL_ADAPT 0) = false) ∧
    (∀ code ∈ [1, 2],
      let d := (unit (laneOn 0 ++ [(F.SLK_Ll_CTRL_PSTATE 0, code)])).dev
      let want := max (min 2 (d.val (F.SLK_Ll_CTRL_PSTATE 0))) (b2n d.holding)
      want = code ∧ want ≠ d.val (F.SLK_Ll_STAT_PSTATE 0) ∧ d.val (F.SLK_Ll_STAT_PSTATE 0) ≠ 2) := by decide

/-- A marker of lane 0 with the count `m`. -/
def aMarker (m : Nat) : List Byte :=
  let b := [(0 : Byte), 0, 5] ++ bytesLE 3 m ++ [0]
  b ++ bytesLE 1 (crc8 ((b.drop 1).take 6))

theorem witness_LaneErrorsAreCounted :
    (let d := (unit (laneOn 20) (fun d => d.setLane 20 { shTimes := List.replicate 16 0, mcount := some 0xFFFFFF })).dev
     d.on (F.SLK_Ll_STAT_IDLE 20) = false ∧ d.on (F.SLK_Ll_STAT_BLOCK_LOCK 20) = true ∧
       (d.lane 20).shTimes.length = 16 ∧ (d.lane 20).shTimes.headD 0 ≤ (d.lane 20).shTimes.getLastD 0 + 323 ∧
       (d.lstr (d.laneStream 20)).opened = none ∧ d.val (F.SLK_Ll_STAT_PSTATE 20) = 0 ∧
       (d.lane 20).mcount = some 0xFFFFFF ∧
       (crc8 (((aMarker 0).drop 1).take 6) = leAt (aMarker 0) 7 1 ∧
         (d.lane 20).mcount.map (fun m => (m + 1) % 2 ^ 24) = some (leAt (aMarker 0) 3 3)) ∧
       (d.lane 20).mcount.map (fun m => (m + 1) % 2 ^ 24) ≠ some (leAt (aMarker 1) 3 3)) ∧
    (let d := (unit (laneOn 0)
       (fun d => d.setLstr (d.laneStream 0) { opened := some ⟨{}, 64, 4, 8, [], [], 0, false, [], none⟩ })).dev
     d.on (F.SLK_Ll_STAT_BLOCK_LOCK 0) = true ∧ (d.lstr (d.laneStream 0)).opened.isSome = true) := by decide

/-- A header of one lane and one stream per lane: data type, length, stream, stamp index. -/
def aHeader (dt len v k : Nat) : List Byte × List Byte :=
  let a : List Byte := [0x1E, BitVec.ofNat 8 (4 * dt + v), BitVec.ofNat 8 k, 0] ++ bytesLE 4 99
  let b := bytesLE 2 len ++ [1, 2, 3, 4, 5]
  (a, b ++ bytesLE 1 (crc8 ((a.drop 1).take 2 ++ (a.drop 4).take 4 ++ b)))

/-- A line being received. -/
def aLine (closing : Option Nat) : OpenLine :=
  { tag := { stream := 20, lcnt := 7, k := 3, len := 64 }, hlen := 64, lanes := 1, w := 8, hdr := [1, 2, 3], words := [], got := 0,
    poison := false, dests := [], closing := closing }

theorem witness_LinePacketsAreReceived :
    (let d := (unit (laneOn 20 ++ [(F.SLK_CPp_CFG_EN 5, 1), (F.SLK_CPp_STAT_IDLE 5, 0), (F.SLK_CPp_CFG_MODE 5, 2),
       (F.SLK_CPp_STAT_STREAM_UP 5, 15), (⟨R.SLK_Ss_LINE_SH 20, (F.SLK_Ss_LINE_ACT_DT 20).lo, (F.SLK_Ss_LINE_ACT_DT 20).len⟩, 0x14)])
       (fun d => d.setTrgs 20 { stamps := [(255, { written := true, k := 255 })] })).dev
     let c := aHeader 0x14 64 0 255
     (0 < modeStreams (d.portMode 5)) ∧ d.runs (F.SLK_CPp_CFG_EN 5) (F.SLK_CPp_STAT_IDLE 5) = true ∧
       (∀ l ∈ d.lanesOf 20, d.val (F.SLK_Ll_STAT_PSTATE l) = 0 ∧ d.runs (F.SLK_Ll_CTRL_EN l) (F.SLK_Ll_STAT_IDLE l) = true) ∧
       bitOf (d.val (F.SLK_CPp_STAT_STREAM_UP 5)) 0 = true ∧ (d.lstr 20).opened = none ∧
       hdrOk (d.portMode 5) 0 [aHeader 0x14 63 0 255] = false ∧ hdrOk (d.portMode 5) 0 [c] = true ∧
       (dtDepth (leAt c.1 1 1 / 4)).isSome = true ∧
       leAt c.1 1 1 / 4 = fieldOf (d.reg (R.SLK_Ss_LINE_SH 20)) (F.SLK_Ss_LINE_ACT_DT 20).lo (F.SLK_Ss_LINE_ACT_DT 20).len ∧
       (tabGet {} (d.trgs 20).stamps (leAt c.1 2 1) : Stamp).written = true ∧
       (tabGet {} (d.trgs 20).stamps (leAt c.1 2 1) : Stamp).used = false) ∧
    (let d := (unit [] (fun d => d.setLstr 63 { opened := some (aLine (some 5)) })).dev
     (d.lstr 63).opened = some (aLine (some 5)) ∧ (aLine (some 5)).closing = some 5 ∧
       crc32c ((aLine none).hdr ++ (aLine none).words.reverse.flatMap (fun w => bytesLE 8 w.toNat)) ≠
         leAt (List.headD [[(1 : Byte), 0, 0, 0, 0, 0, 0, 0]] []) 1 4) ∧
    (let d := (unit [(F.SLK_CPp_STAT_IDLE 15, 0)] (fun d => d.setLstr 63 { camDrop := some 65535 })).dev
     d.on (F.SLK_CPp_STAT_IDLE 15) = false ∧ (d.lstr 63).camDrop = some 65535) := by decide

theorem witness_ServiceChannelTalksToCameras :
    (let d := (unit [(F.SLK_CSc_CTRL_EN 15, 1), (F.SLK_CSc_STAT_IDLE 15, 0)]).dev
     d.on (F.SLK_CSc_STAT_BUSY 15) = false ∧ d.runs (F.SLK_CSc_CTRL_EN 15) (F.SLK_CSc_STAT_IDLE 15) = true) ∧
    (∀ b ∈ [false, true],
      let d := (unit [(F.SLK_CSc_STAT_BUSY 0, 1)] (fun d => d.setSvch 0 { tag := 255, bcast := b })).dev
      d.on (F.SLK_CSc_STAT_BUSY 0) = true ∧ (d.svch 0).bcast = b ∧
        leAt [(0 : Byte), 255, 0, 1, 2, 3, 4, 5] 1 1 = (d.svch 0).tag) ∧
    (∀ b ∈ [false, true], ((unit [] (fun d => d.setLstr 63 { flowReq := [b] })).dev.lstr 63).flowReq = b :: []) := by decide

/-- A line in a context's FIFO. -/
def aFifoLine (complete : Bool) : FifoLine :=
  { tag := { stream := 9, pl := 16, ctx := 3, k := 5, pos := 77, len := 64 }, words := 8, pixels := [], complete := complete }

theorem witness_ContextsStartAndStop :
    (let d := (unit [(F.PLn_CTXm_CFG_STREAM 16 3, 63), (F.PLn_CTXm_CFG_EN 0 0, 1)]).dev
     d.on (F.PLn_CTXm_STAT_IDLE 16 3) = true ∧
       ∀ (i : Fin 17) (j : Fin 4), (i ≠ 16 ∨ j ≠ 3) → d.on (F.PLn_CTXm_CFG_EN i j) = true →
         d.val (F.PLn_CTXm_CFG_STREAM i j) ≠ d.val (F.PLn_CTXm_CFG_STREAM 16 3)) ∧
    (let d := (unit [(F.PLn_CTXm_CFG_EN 0 1, 1), (F.PLn_CTXm_STAT_IDLE 0 1, 0), (F.PLn_CTXm_CFG_STREAM 0 1, 0)]).dev
     d.on (F.PLn_CTXm_CFG_EN 0 1) = true ∧ d.on (F.PLn_CTXm_STAT_IDLE 0 1) = false ∧
       d.val (F.PLn_CTXm_CFG_STREAM 0 1) = d.val (F.PLn_CTXm_CFG_STREAM 0 0)) ∧
    (∀ c ∈ [({} : Ctx), { fifo := [aFifoLine true] }, { tile := some { tile := 4, queue := 5 } }],
      let d := (unit [(F.PLn_CTXm_CFG_EN 16 3, 1), (F.PLn_CTXm_STAT_IDLE 16 3, 0)] (fun d => d.setCtx 16 3 c)).dev
      (d.front 16).running = none ∧ d.on (F.PLn_CTXm_CFG_EN 16 3) = true ∧ d.on (F.PLn_CTXm_STAT_IDLE 16 3) = false ∧
        d.ctx 16 3 = c ∧ d.on (F.PLn_CTXm_STAT_XOFF 16 3) = false ∧ (d.ctx 16 3).record = none) := by decide

theorem witness_LinesAreGrantedInTurn :
    let d := (unit [(F.PLn_ARB_STAT_LAST 0, 1)] (fun d => { (d.setCtx 0 3 { fifo := [aFifoLine true] }).setCtx 0 2
      { fifo := [aFifoLine false] } with spr := { d.spr with loaded := [0] } })).dev
    let m : Nat := (d.val (F.PLn_ARB_STAT_LAST 0) + 1 + 1) % 4
    (d.front 0).running = none ∧ d.seg.mig = none ∧ d.pipeOn 0 = true ∧
      (d.ctx 0 m).fifo.find? (fun x => ! x.granted) = some (aFifoLine true) ∧ (aFifoLine true).complete = true ∧
      ((d.ctx 0 ((d.val (F.PLn_ARB_STAT_LAST 0) + 1 + 0) % 4)).fifo.find? (fun x => ! x.granted)).all (fun x => ! x.complete) =
        true ∧
      d.drains (F.PLn_CTXm_CFG_EN 0 m) (F.PLn_CTXm_STAT_IDLE 0 m) = false := by decide

/-- A queue that runs, with 512 words and more. -/
def queueOn (q : Nat) : List (Fld × Nat) := [(F.QUE_Qq_CFG_EN q, 1), (F.QUE_Qq_STAT_IDLE q, 0), (F.QUE_Qq_SIZE q, 1)]

theorem witness_StatisticsRecordsAreWritten :
    let r : StatRecord := { queue := 63, bytes := [0x10, 0, 1, 2] }
    (∀ bad ∈ [[], [7]],
      let d := (unit (queueOn 63) (fun d => d.setCtx 16 0 { record := some r })).dev
      let body := if bad = ([] : List Nat) then r.bytes else r.bytes.set 1 (r.bytes.getD 1 0 + 2)
      let bytes := body ++ bytesLE 4 (crc32c body) ++ [0, 0, 0, 0]
      r.queue < 64 ∧ (d.ctx 16 0).record = some r ∧ (d.ctx 16 0).offered = false ∧ 2 ≤ r.bytes.length ∧
        d.queTakes 63 bytes.length = true ∧ (d.queue 63).waiting = [] ∧ (d.queue 63).fwLeft = 0 ∧
        (d.queue 63).fill + 1 + (bytes.length + 7) / 8 ≤ d.queCap 63 ∧ ∀ i ∈ (d.queue 63).items, i.dead = false) ∧
    (let d := (unit [] (fun d => d.setCtx 16 0 { record := some r })).dev
     (d.ctx 16 0).record = some r ∧ d.queTakes 63 12 = false) := by decide

/-- A line held between the two rows that bracket it, of 100 ticks each. -/
def aHeld (lo hi : Option Bool) : HeldLine := { pos := 1050, x3 := [1, 2, 3], lo := lo, hi := hi }

/-- A foreground bit of row `k` awaits the context that takes stream 9. -/
def bitBack (k : Int) (bit : Bool) (h : HeldLine) : State :=
  unit [(F.PLn_CTXm_CFG_EN 2 1, 1), (F.PLn_CTXm_STAT_IDLE 2 1, 0), (F.PLn_CTXm_CFG_STREAM 2 1, 9), (F.STC_GRID_PITCH, 100)]
    (fun d => { d.setCtx 2 1 { held := [h] } with seg := { d.seg with fgBits := [(k, 9, bit)] } })

theorem witness_CorrectionTablesAndRamps :
    (unit [(F.PWR_MODE_CUR, 2)]).dev.mode = 2 ∧ (unit [(F.PWR_MODE_CUR, 3)]).dev.mode ≠ 2 ∧
    (let d := (unit [(F.PLn_CTXm_CAL_CFG_NTEMP 16 3, 8)]).dev
     (7 < d.ntemp 16 3 ∧ 7 < 8) ∧ (d.ctx 16 3).setRamp.isSome = false ∧ (d.ctx 16 3).scRamp.isSome = false ∧
       d.ntemp 16 3 ≤ 8 ∧ 8 ≠ 15) ∧
    (let d := (unit [] (fun d => d.setCtx 0 0 { scRamp := some {} })).dev
     (d.ctx 0 0).scRamp.isSome = true ∧ d.ntemp 0 0 ≤ 14 ∧ 0 < d.ntemp 0 0) ∧
    (∀ sel ∈ [0, 7, 8, 9, 10, 11, 12],
      let d := (unit [(F.PLn_CTXm_TBL_SEL 16 3, sel), (F.PLn_CTXm_TBL_IDX 16 3, 63)]).dev
      let k := d.val (F.PLn_CTXm_TBL_IDX 16 3) % 65536
      sel = d.val (F.PLn_CTXm_TBL_SEL 16 3) % 16 ∧ k < d.lineLen (d.val (F.PLn_CTXm_CFG_STREAM 16 3)) ∧
        d.on (F.PLn_CTXm_CFG_EN 16 3) = false ∧ d.on (F.PLn_CTXm_STAT_IDLE 16 3) = true ∧
        (d.ctx 16 3).setRamp = none) := by decide

/-- The bit of the row below and of the row above, of another row, set and clear, with the other bit known or not. -/
theorem witness_CorrectionTablesAndRamps_bits :
    ∀ x ∈ [((12 : Int), true, aHeld none none), (10, true, aHeld none none), (10, false, aHeld none (some false)),
        (11, false, aHeld (some false) none), (10, false, aHeld none none), (11, false, aHeld none none)],
      let d := (bitBack x.1 x.2.1 x.2.2).dev
      d.seg.fgBits.find? (fun b => b.2.1 == 9) = some (x.1, 9, x.2.1) ∧ d.ctxsOf 9 = [(2, 1)] ∧
        (d.ctx 2 1).held = [x.2.2] ∧ x.2.2.lo ≠ some true ∧ x.2.2.hi ≠ some true ∧
        x.2.2.pos / ((max 1 (d.val F.STC_GRID_PITCH) : Nat) : Int) = 10 := by decide

/-- A line of stream 9 at position `pos`, one plane of one column. -/
def aLineOut (pos : Int) : LineOut :=
  { tag := { stream := 9, pl := 2, ctx := 1, k := 5, pos := pos, len := 64 }, planes := [[some 7]] }

/-- A crossing of stream 9. -/
def aCross (r : Report) : Cross := { k := 5, n := 1, eff := 0, ovsp := false, rep := r }

/-- A unit in INSPECT with one camera, on stream 9, its crossings and planes as given. -/
def camera (l : List (Fld × Nat)) (c : Cam) (f : Dev → Dev := id) : State :=
  unit ([(F.PWR_MODE_CUR, 3), (F.PLn_CTXm_CFG_EN 2 1, 1), (F.PLn_CTXm_STAT_IDLE 2 1, 0), (F.PLn_CTXm_CFG_STREAM 2 1, 9),
    (F.STC_CAMs_CFG_EN 9, 1), (F.STC_GRID_PITCH, 100)] ++ l)
    (fun d => f { d.setCam 9 c with stc := { (d.setCam 9 c).stc with nextRow := some 10 } })

/-- A plane whose last line lies at `q`, with decided rows. -/
def aPlane (q : Int) (rows : List Int) (depth : Nat) : Plane :=
  { last := some ⟨q, 3, false, false, [some 7], none⟩, next := some 10, rows := rows.map (fun k => ⟨k, [7], 7, {}, none, none⟩), depth := depth }

theorem witness_ItemsAreTakenInOrder :
    State.reset.dev.mode ≠ 3 ∧
    (let d := (camera [] { items := [aCross .waiting] }).dev
     (d.cam 9).items = aCross .waiting :: [] ∧ (aCross .waiting).rep = .waiting ∧ (∀ n : Fin 17, (d.front n).running = none) ∧
       (d.cam 9).items.find? (fun c => c.rep == .waiting) = some (aCross .waiting) ∧ (aCross .waiting).n = 1) ∧
    (∀ q ∈ [949, 950],
      let d := (camera [] { items := [aCross (.line (aLineOut 950))], planes := [(0, aPlane q [] 0)] }).dev
      d.mode = 3 ∧ (d.cam 9).items = aCross (.line (aLineOut 950)) :: [] ∧ (aCross (.line (aLineOut 950))).lost = [] ∧
        (aLineOut 950).planes = [[some 7]] ∧ d.camPlanes 9 = 1 ∧ ((d.cam 9).plane 0).depth = 0 ∧
        d.vali (F.PLn_CTXm_PLANE_OFSp 2 1 0) = 0 ∧ d.vali (F.STC_CAMs_ALONG_ACT 9) = 0 ∧
        ((d.cam 9).plane 0).last.map (·.q) = some q) ∧
    (let d := (camera [] { items := [aCross (.line (aLineOut 950))], planes := [(3, aPlane 0 [] 40)] }).dev
     (d.cam 9).items = aCross (.line (aLineOut 950)) :: [] ∧ ((d.cam 9).plane (3 : Fin 4)).depth ≠ 0 ∧
       (3 : Fin 4).val ∉ (aCross (.line (aLineOut 950))).lost) := by decide

/-- A Chart row of no columns. -/
def aRow (k : Int) : ChartRow := { k := k, time := 0, cols := [] }

/-- The row at a new tile with a shadow written and a residual bank waiting; slices with room and full. -/
theorem witness_ChartRowsReachTheSlices :
    (let d := (camera [(F.STC_CAMs_STAT_SHADOW_PEND 9, 1)] { planes := [(0, aPlane 0 [10] 0)], swapPend := true }).dev
     d.stc.nextRow = some 10 ∧ d.mode = 3 ∧ d.trigFollow.rowReady 10 = true ∧ d.stc.tile ≠ some (tileOf 10 (d.vali F.STC_K0)) ∧
       d.on (F.STC_CAMs_STAT_SHADOW_PEND 9) = true ∧ (d.cam 9).swapPend = true ∧
       (∀ u : Fin 8, d.runs (F.CDC_TAPt_CFG_EN u) (F.CDC_TAPt_STAT_IDLE u) = false) ∧
       d.runs F.SEG_CTRL_EN F.SEG_STAT_IDLE = false) ∧
    (∀ n ∈ [31, 32],
      let d := (camera [(F.SEG_CTRL_EN, 1), (F.SEG_STAT_IDLE, 0), (F.STC_SLICEs_WIDTH 15, 1)]
        { planes := [(0, aPlane 0 [10] 0)] } (fun d => d.setSlice 15 { cur := { fifo := List.replicate n (aRow 3) } })).dev
      d.trigFollow.rowReady 10 = true ∧ d.runs F.SEG_CTRL_EN F.SEG_STAT_IDLE = true ∧ 0 < d.val (F.STC_SLICEs_WIDTH 15) ∧
        d.seg.mig = none ∧ (d.slice 15).tgt = none ∧ (d.slice 15).waits = n) := by decide

/-- The four ends of the two ranges of STC_TBL_IDX. -/
theorem witness_StitchTablesAreWritten :
    ∀ i ∈ [0, 512, 1024, 1536],
      let d := (unit [(F.STC_TBL_IDX, i)]).dev
      d.val F.STC_TBL_IDX % 2048 = i ∧ (i ≤ 512 ∨ 1024 ≤ i ∧ i ≤ 1536) := by decide

/-- Two slices, of 4 and 2 columns, and segmentation running. -/
def sliced (l : List (Fld × Nat)) (g : SegSt) (f : Dev → Dev := id) : State :=
  unit ([(F.SEG_CTRL_EN, 1), (F.SEG_STAT_IDLE, 0), (F.STC_SLICEs_WIDTH 0, 4), (F.STC_SLICEs_WIDTH 3, 2),
    (F.STC_GRID_PITCH, 100), (F.STC_COL_BASE, 1000), (F.SEG_Ss_STAT_PL 0, 1), (F.SEG_Ss_STAT_PL 3, 2)] ++ l)
    (fun d => f { d with seg := g })

def anAcc (k : Int) : Acc := { kFirst := k, kLast := k + 2, cFirst := 3, cLast := 5, n := 4, strong := 1 }
def aPiece (id slice : Nat) : Piece :=
  { id := id, slice := slice, acc := anAcc 4, emit := 9, cut := false, strong := true, cont := false, trunc := false, edges := [] }
def aMember (id slice : Nat) : Member := { id := id, slice := slice, firstK := 4, alive := false, strong := true }
def aGroup : Group := { members := [aMember 11 0, aMember 12 3], edge := true }
def aCol (v : Nat) : Col := ⟨v, 7, 5, {}⟩

theorem witness_RowsAreLabelledAndMerged :
    (let row : ChartRow := { k := 7, time := 70, cols := List.replicate 6 (aCol 100) }
     let d := (sliced [(F.SEG_WARM_BG_WARM, 4)]
       { slice := [(3, { cur := { fifo := [row], rows := 3, bg := [some (25000, 300), none] } })] }).dev
     d.seg.mig = none ∧ (d.slice 3).cur.fifo = row :: [] ∧ (d.slice 3).tgt = none ∧ (d.slice 3).cur.skips = [] ∧
       0 < d.val (F.STC_SLICEs_WIDTH 3) ∧ (d.slice 3).cur.rows < d.val F.SEG_WARM_BG_WARM ∧
       (d.slice 3).cur.bg[0]? = some (some (25000, 300)) ∧ row.cols[d.sliceStart 3 + 0]? = some (aCol 100) ∧
       (aCol 100).flags.missing = false ∧ (d.slice 3).cur.bg.length = d.val (F.STC_SLICEs_WIDTH 3) ∧
       row.cols.length = d.chartWidth) ∧
    (let d := (sliced [] {}).dev
     d.seg.joins = [] ∧ d.seg.groups = [] ∧ d.seg.mig = none) ∧
    (let d := (sliced [] { groups := [aGroup], pieces := [aPiece 11 0, aPiece 12 3] }).dev
     d.seg.joins = [] ∧ d.seg.groups = [aGroup] ∧ d.seg.mig = none ∧ aGroup.members = [aMember 11 0, aMember 12 3] ∧
       (aMember 11 0).root ≠ (aMember 12 3).root ∧ (aMember 11 0).alive = false ∧ (aMember 11 0).remote = none ∧
       d.seg.pieces = [aPiece 11 0, aPiece 12 3] ∧ 0 < (aPiece 11 0).acc.n ∧ (∀ e ∈ (aPiece 11 0).edges, d.edgeDone (aPiece 11 0) e = true) ∧
       d.seg.stage.length < 1024 ∧ -(2 ^ 62) ≤ (aPiece 11 0).emit) := by decide

/-- A unit between two that abut it. -/
def between (g : SegSt) : State :=
  sliced [(F.CHN_STAT_UP_U, 1), (F.CHN_STAT_UP_D, 1)] g
    (fun d => { d with chn := { d.chn with nbrU := some (990, 10), nbrD := some (1006, 10) } })

theorem witness_RowsAreLabelledAndMerged_neighbours :
    (let d := (between {}).dev
     let f := mkFrame 6 0x8000 0 [8, 0, 0]
     f.type = 6 ∧ (d.chainCheck .chu f).2 = true ∧ (d.chainCheck .chd f).2 = true ∧ d.abuts .chu = true ∧ d.abuts .chd = true ∧
       (d.neigh .chu).late = none) ∧
    (let d := (between { lo := { upTo := some 4 }, hi := { upTo := some 19 },
                         slice := [(0, { cur := { doneK := some 5 } }), (3, { cur := { doneK := some 20 } })] }).dev
     d.abuts .chu = true ∧ (d.neigh .chu).upTo = some 4 ∧ (d.neigh .chu).late = none ∧ d.sliceDone 0 = some 5 ∧ (4 : Int) < 5 ∧
       (d.neigh .chd).upTo = some 19 ∧ (d.neigh .chd).late = none ∧ d.sliceDone (d.slices.getLastD 0) = some 20) ∧
    (let d := (between { lo := { upTo := some 4, rows := [(5, 100), (6, 200)] } }).dev
     d.abuts .chu = true ∧ (d.neigh .chu).rows = (5, 100) :: [(6, 200)]) := by decide

theorem witness_MovesBeginAndEnd :
    (let v : Word := 1 + 4 + 8 * 9 + 512 * 16 + 16384 * 3
     let d := (sliced [] {}).dev
     v.getLsbD 0 = true ∧ v.getLsbD 2 = true ∧ d.seg.mig = none ∧ fieldOf v 9 5 = 16 ∧ fieldOf v 14 2 = 3 ∧
       d.on (F.PLn_CTXm_CFG_EN 16 3) = false ∧ d.on (F.PLn_CTXm_STAT_IDLE 16 3) = true ∧
       (sliced [(F.PLn_CTXm_CFG_EN 16 3, 1)] {}).dev.on (F.PLn_CTXm_CFG_EN 16 3) = true) ∧
    (∀ force ∈ [0, 1],
      let v : Word := BitVec.ofNat 32 (1 + 2 * force + 8 * 3 + 512 * 16)
      let d := (sliced [] {}).dev
      v.getLsbD 0 = true ∧ v.getLsbD 1 = (force == 1) ∧ v.getLsbD 2 = false ∧ d.seg.mig = none ∧ fieldOf v 9 5 < 17 ∧ fieldOf v 3 6 ∈ d.slices ∧
        ∀ i ∈ d.slices, d.val (F.SEG_Ss_STAT_PL i) ≠ fieldOf v 9 5) ∧
    (∀ c ∈ [true, false],
      let g : Mig := { stream := false, src := 3, tgt := 16, ctx := 0, goAt := 0, copied := c }
      let d := (sliced [] { mig := some g, slice := [(3, { tgt := some { rows := 1 } })] }).dev
      d.seg.mig = some g ∧ g.drained = false ∧ g.src < 16 ∧ g.tgt < 17 ∧ (d.slice g.src).tgt = some { rows := 1 }) := by decide

/-- A record of a fix on its way to queue 63. -/
def aRec (e : Int) : Rec :=
  { emit := e, along := 0, col := 0, kind := 2, queues := [63], bytes := List.replicate 64 7 }

/-- Every slice has done row 9. -/
def done9 : Tab Slice := [(0, { cur := { doneK := some 9 } }), (3, { cur := { doneK := some 9 } })]

theorem witness_RecordsLeaveThroughTheEmitter :
    (let d := (sliced (queueOn 63) { stage := [aRec 9], buffer := [aRec 8], slice := done9, lastOut := some 0 }).dev
     d.seg.stage = aRec 9 :: [] ∧ d.released (aRec 9).emit = true ∧ d.seg.buffer.length < 4096 ∧
       d.seg.buffer = aRec 8 :: [] ∧ (aRec 8).queues = [63] ∧ (aRec 8).sent = false ∧ (aRec 8).kind = 2 ∧
       d.on F.SEG_CTRL_EN = true ∧ F.SEG_CTRL_EN.addr ∉ d.restart ∧ d.queTakes 63 (aRec 8).bytes.length = true ∧
       (d.queue 63).waiting = [] ∧ (d.queue 63).fwLeft = 0 ∧ (∀ i ∈ (d.queue 63).items, i.dead = false) ∧
       (d.queue 63).fill + 1 + ((aRec 8).bytes.length + 7) / 8 ≤ d.queCap 63) ∧
    (let d := (sliced [] { stage := [aRec 10], slice := done9 }).dev
     d.seg.stage = aRec 10 :: [] ∧ d.released (aRec 10).emit = false ∧ d.seg.stage.length < 1024) := by decide

theorem witness_RecordsLeaveThroughTheEmitter_full :
    let d := (sliced [] { stage := [aRec 9], buffer := List.replicate 4096 (aRec 8), slice := done9 }).dev
    d.seg.stage = aRec 9 :: [] ∧ d.released (aRec 9).emit = true ∧ 4096 ≤ d.seg.buffer.length :=
  ⟨rfl, by decide, by show 4096 ≤ (List.replicate 4096 (aRec 8)).length; simp⟩

theorem witness_SegmentationStopsAndSwapsTrees :
    (let d := (sliced [] {}).dev
     d.on F.SEG_CTRL_EN = true ∧ d.on F.SEG_STAT_IDLE = false ∧ d.on F.SEG_TREE_IDX_ACTIVE = false) ∧
    (unit [(F.SEG_TREE_IDX_ACTIVE, 1)]).dev.on F.SEG_TREE_IDX_ACTIVE = true := by decide

/-- Head 15 on unit 3 of channel 31, with its geometry. -/
def headOn (l : List (Fld × Nat)) (h : Head) (f : Dev → Dev := id) : State :=
  unit ([(F.PWR_MODE_CUR, 3), (F.MRKn_CFG_EN 15, 1), (F.MRKn_STAT_IDLE 15, 0), (F.MRKn_CFG_CMP_CH 15, 31), (F.MRKn_CFG_CMP_UNIT 15, 3),
    (F.LOGn_CMPm_CTRL_MODE 31 3, 3), (F.MRKn_CFG_QUEUE 15, 63), (F.MRKn_CFG_NOZZLES 15, 32), (F.MRKn_VBASE 15, 5000),
    (F.MRKn_MPITCH 15, 200), (F.MRKn_DIST_ACT 15, 1000), (F.MRKn_NOZ_ACT_NWIDTH 15, 4), (F.MRKn_NCOL0_ACT 15, 100),
    (F.STC_GRID_PITCH, 100), (F.MRKn_TIMING_LATE_LINES 15, 4)] ++ l)
    (fun d => f { d.setHead 15 h with otp := { secret := [1, 2, 3] } })

/-- A record of 64 bytes in queue 63: its type, start along and length in rows. -/
def anItem (ty along len : Nat) : QItem :=
  let b := [BitVec.ofNat 8 ty] ++ List.replicate 15 0 ++ bytesLE 8 along ++ bytesLE 4 len ++ bytesLE 4 120 ++ bytesLE 4 20 ++
    List.replicate 28 0
  ⟨64, 8, (toWords 8 b).map (fun w => (w, false)), 0, true, false⟩

theorem witness_HeadsAreEnabledLoadedAndStopped :
    (let d := (headOn [(F.MRKn_CFG_EN 15, 0), (F.MRKn_STAT_IDLE 15, 1)] {}).dev
     d.mode = 3 ∧ d.pwr.trans ≠ some .toService ∧ d.on (F.MRKn_STAT_IDLE 15) = true ∧
       d.val (F.LOGn_CMPm_CTRL_MODE (d.val (F.MRKn_CFG_CMP_CH 15)) (d.val (F.MRKn_CFG_CMP_UNIT 15))) = 3 ∧
       ∀ i : Fin 16, i ≠ 15 → d.on (F.MRKn_CFG_EN i) = true → d.on (F.MRKn_STAT_IDLE i) = true) ∧
    (headOn [(F.PWR_MODE_CUR, 5)] {}).dev.mode = 5 ∧
    (let d := (headOn [] {}).dev
     d.runs (F.MRKn_CFG_EN 15) (F.MRKn_STAT_IDLE 15) = true ∧ (d.head 15).loading = false ∧ d.on (F.MRKn_STAT_LOADED 15) = false ∧
       (d.head 15).latEnd ≤ d.now ∧ (d.head 15).wait = .idle) ∧
    ((headOn [] { loading := true }).dev.head 15).loading = true := by decide

/-- A record of no mark, one whose lines are still to be loaded, one whose first line began one load ago. -/
theorem witness_HeadsAreEnabledLoadedAndStopped_records :
    ∀ x ∈ [((0 : Nat), 0, (none : Option (Int × Int × Nat))), (2, 11, some (11, 12, 2 ^ 10 - 2 ^ 5)),
        (2, 12, some (11, 12, 2 ^ 10 - 2 ^ 5))],
      let i := anItem x.1 6200 3
      let d := (headOn [(F.MRKn_STAT_LOADED 15, 0)] { cur := x.2.1 }
        (fun d => d.setQueue 63 { items := [i] })).dev
      let q := d.val (F.MRKn_CFG_QUEUE 15)
      (d.queue q).items = i :: [] ∧ (d.queue q).opened = false ∧ i.dead = false ∧ i.hdr = true ∧ i.toCome = 0 ∧
        (d.queue q).spoilt = [] ∧ 0 < i.len ∧
        i.words.length = (i.len + 7) / 8 ∧ d.runs (F.MRKn_CFG_EN 15) (F.MRKn_STAT_IDLE 15) = true ∧
        d.recLines 15 (itemBytes i.len i.words) = x.2.2 ∧ d.nextLoad 15 = x.2.1 ∧
        d.val (F.MRKn_TIMING_LATE_LINES 15) = 4 := by decide

/-- A record whose last line lies beyond the map, and one that meets no nozzle. -/
theorem witness_HeadsAreEnabledLoadedAndStopped_beyond :
    (let d := (headOn [(F.MRKn_STAT_LOADED 15, 0)] {}).dev
     let i := anItem 2 6200 1700000
     (d.recLines 15 (itemBytes i.len i.words)).any (fun r => decide (((d.nextLoad 15 : Nat) : Int) + 8192 ≤ r.2.1)) = true) ∧
    (let d := (headOn [(F.MRKn_STAT_LOADED 15, 0), (F.MRKn_NCOL0_ACT 15, 100000)] {}).dev
     let i := anItem 2 6200 3
     (d.recLines 15 (itemBytes i.len i.words)).any (fun r =>
       decide (r.2.1 < ((d.nextLoad 15 : Nat) : Int) + 8192) && r.2.2 == 0) = true) ∧
    (let d := (headOn [] { pulse := some (0, 0, 0) }).dev
     (d.head 15).pulse.isSome = true ∧ (d.head 15).latEnd ≤ d.now) := by decide

theorem witness_CartridgeSessions :
    (let reply := cartFrame 0x81 (bytesLE 8 77 ++ bytesLE 4 5)
     let d := (headOn [] { wait := .id }).dev
     (d.head 15).pulse.any (fun p => decide (p.2.1 ≤ d.now)) = false ∧ (d.head 15).wait = .id ∧ cartReply 0x01 12 reply = some (bytesLE 8 77 ++ bytesLE 4 5) ∧ cartReply 0x01 12 [0x5A] = none ∧
       d.on (F.MRKn_STAT_AUTH 15) = false ∧ d.drains (F.MRKn_CFG_EN 15) (F.MRKn_STAT_IDLE 15) = false) ∧
    (∀ c ∈ [0, 0xFFFFFFFF],
      let d := (headOn [] { wait := .mac, newId := 77, newCount := c, nonce := [1, 2] }).dev
      (d.head 15).wait = .mac ∧ (d.head 15).newId < 2 ^ 64 ∧ (d.head 15).newCount = c ∧ c < 2 ^ 32 ∧ (d.head 15).owed = 0 ∧
        d.drains (F.MRKn_CFG_EN 15) (F.MRKn_STAT_IDLE 15) = false) ∧
    (let d := (headOn [(F.MRKn_CART_COUNT 15, 5)] { wait := .dec, owed := 1 }).dev
     let p : List Byte := bytesLE 4 4 ++ List.replicate 8 9
     (d.head 15).wait = .dec ∧ cartReply 0x03 12 (cartFrame 0x83 p) = some p ∧ (d.head 15).owed ≤ 1 ∧
       leAt p 0 4 + 1 = d.val (F.MRKn_CART_COUNT 15) ∧ leAt p 0 4 ≠ 0) ∧
    (let d := (headOn [(F.MRKn_STAT_AUTH 15, 1), (F.MRKn_STAT_REFUSED 15, 1)] {}).dev
     d.runs (F.MRKn_CFG_EN 15) (F.MRKn_STAT_IDLE 15) = true ∧ (d.head 15).wait = .idle ∧ d.on (F.MRKn_STAT_AUTH 15) = true ∧
       d.on (F.MRKn_STAT_REFUSED 15) = true) := by decide

/-- The bytes of a list put into memory from `a` on; none of them may be 0. -/
def cellsOf (a : Nat) (bs : List Byte) : Memory := ((List.range bs.length).zip bs).filterMap (fun x =>
  if x.2 = 0 then none else some (a + x.1, x.2))

/-- A job descriptor of 64 bytes: a word of control, width 20, rows (or bytes) n, stride 40, source and output in SRAM. -/
def aJob (decode bits n : Nat) : List Byte :=
  bytesLE 4 (1 + 4 * decode + 256 * bits) ++ bytesLE 4 20 ++ bytesLE 4 n ++ bytesLE 4 40 ++ bytesLE 8 0x10001000 ++
    bytesLE 8 0x10002000 ++ bytesLE 4 64 ++ List.replicate 28 0

/-- Engine 3, enabled; its descriptor lies at the start of shared SRAM. -/
def engineOn (l : List (Fld × Nat)) (m : Memory) (g : Engine) : State :=
  unitMem ([(F.CDC_En_CTRL_EN 3, 1), (F.CDC_En_STAT_IDLE 3, 0), (F.CDC_En_DESC 3, 0x10000000)] ++ l) m (fun d => d.setEng 3 g)

theorem witness_CodecJobsAndTaps_start :
    (let d := (engineOn [(F.CDC_En_STAT_BUSY 3, 1)] [] {}).dev
     d.runs (F.CDC_En_CTRL_EN 3) (F.CDC_En_STAT_IDLE 3) = true ∧ d.on (F.CDC_En_STAT_BUSY 3) = true) ∧
    (let d := (engineOn [(F.CDC_En_DESC 3, 0)] [] {}).dev
     d.on (F.CDC_En_STAT_BUSY 3) = false ∧ d.on (F.CDC_En_STAT_START_PEND 3) = false ∧ d.val (F.CDC_En_DESC 3) = 0) ∧
    (let s := engineOn [] (cellsOf 0x10000000 (aJob 0 8 1)) {}
     s.dev.val (F.CDC_En_DESC 3) ≠ 0 ∧ s.dev.drc.pend = [] ∧ s.dev.on F.DRC_STAT_FC_BUSY = false ∧ (∀ i < 64, s.dev.place (0x10000000 + i) = .mem (0x10000000 + i)) ∧
       (s.byte 0x10000000).getLsbD 0 = true) := by decide

/-- A row of 20 samples of 0, coded. -/
def coded : List Byte :=
  ((Work.begin (engineOn [] [] {})).codeJob (jobDesc (aJob 0 8 1)) 0x10000000 [] [] 0).bytes.flatMap (·.2)

/-- A coding job of bad parameters, one that is coded, a decode job that fails and one that reads the coded row back. -/
theorem witness_CodecJobsAndTaps_jobs :
    ∀ x ∈ [((0 : Nat), 7, (1 : Nat), (4 : Nat)), (0, 8, 1, 0), (1, 8, 1, 5), (1, 8, coded.length, 0)],
      let bs := aJob x.1 x.2.1 x.2.2.1
      let s := engineOn [(F.CDC_En_STAT_BUSY 3, 1)] (cellsOf 0x10001000 (if x.2.2.1 = 1 then [] else coded))
        { desc := 0x10000000, job := some bs }
      let j := jobDesc bs
      let g := s.dev.eng 3
      let o := if j.decode then (Work.begin s).decodeJob j g.desc (Config.freeValue s.dev.draws).toNat else (Work.begin s).codeJob j g.desc [] g.flushes (Config.freeValue s.dev.draws).toNat
      g.job = some bs ∧ s.dev.on (F.CDC_En_CTRL_EN 3) = true ∧ s.dev.on (F.CDC_En_STAT_START_PEND 3) = false ∧
        (F.CDC_En_CTRL_EN 3).addr ∉ s.dev.restart ∧ s.dev.drc.pend = [] ∧ s.dev.on F.DRC_STAT_FC_BUSY = false ∧ j.next = 0 ∧ j.decode = (x.1 == 1) ∧
        (∀ i < 40, s.dev.place (g.desc + i) = .mem (g.desc + i)) ∧ (∀ i < j.size, s.dev.place (j.out + i) = .mem (j.out + i)) ∧
        g.desc + 40 ≤ j.out ∧ (∀ b ∈ o.bytes, b.1 + b.2.length ≤ j.size) ∧ o.code = x.2.2.2 := by decide

theorem witness_CodecJobsAndTaps_taps :
    (let d := (unit [(F.CDC_TAPt_XE 7, 16383), (F.CDC_TAPt_RING_RING_ROWS 7, 16), (F.CDC_TAPt_RING_TAP_BLK 7, 4)]).dev
     let span : Int := ((d.val (F.CDC_TAPt_XE 7) % 2 ^ 18 : Nat) : Int) + 1 - ((d.val (F.CDC_TAPt_XS 7) % 2 ^ 18 : Nat) : Int)
     let dc : Int := ((2 ^ d.val (F.CDC_TAPt_CFG_DC 7) : Nat) : Int)
     d.on (F.CDC_TAPt_STAT_IDLE 7) = true ∧ span % dc = 0 ∧ span / dc ≤ 16384 ∧
       max 1 (d.val (F.CDC_TAPt_RING_RING_ROWS 7)) % max 1 (d.val (F.CDC_TAPt_RING_TAP_BLK 7)) = 0) ∧
    (let d := (unit [(F.CDC_TAPt_XE 0, 16384)]).dev
     let span : Int := ((d.val (F.CDC_TAPt_XE 0) % 2 ^ 18 : Nat) : Int) + 1 - ((d.val (F.CDC_TAPt_XS 0) % 2 ^ 18 : Nat) : Int)
     ¬ (span / ((2 ^ d.val (F.CDC_TAPt_CFG_DC 0) : Nat) : Int) ≤ 16384)) ∧
    (let d := (unit [(F.CDC_TAPt_XS 0, 4), (F.CDC_TAPt_CFG_DC 0, 1)]).dev
     let span : Int := ((d.val (F.CDC_TAPt_XE 0) % 2 ^ 18 : Nat) : Int) + 1 - ((d.val (F.CDC_TAPt_XS 0) % 2 ^ 18 : Nat) : Int)
     ¬ (span % ((2 ^ d.val (F.CDC_TAPt_CFG_DC 0) : Nat) : Int) = 0)) ∧
    (let s := unit [] (fun d => d.setTap 0 { last := some (0x10000FFE, [1, 2], 9) })
     (s.dev.tapc 0).last = some (0x10000FFE, [1, 2], 9) ∧ s.dev.drc.pend = [] ∧ ∀ i < 2, s.dev.place (0x10000FFE + i) = .mem (0x10000FFE + i)) := by
  decide

/-- Port 7 with its link, and flow 31 of it on queue 63. -/
def portUp : List (Fld × Nat) := [(F.NETn_CFG_EN 7, 1), (F.NETn_STAT_IDLE 7, 0), (F.NETn_STAT_LINK 7, 1), (F.NETn_CFG_FEC 7, 1)]
def flowOn (type launch : Nat) (x : Flow) (f : Dev → Dev := id) : State :=
  unit (portUp ++ [(F.NET_Ff_CFG_PORT 31, 7), (F.NET_Ff_CFG_EN 31, 1), (F.NET_Ff_STAT_IDLE 31, 0), (F.NET_Ff_CFG_TYPE 31, type),
    (F.NET_Ff_CFG_LAUNCH 31, launch), (F.NET_Ff_CFG_QUEUE 31, 63), (F.NET_Ff_HOLD 31, 9), (F.NET_Ff_LATE_WIN 31, 2)])
    (fun d => f (d.setNflow 31 x))

/-- An accepted POS datagram of unit 0 stamped with device time `tm`. -/
def aPos (tm : Nat) : List Byte :=
  [0x52, 0x53, 1, 6, 0, 0, 4, 1] ++ List.replicate 12 0 ++ bytesLE 4 32 ++ bytesLE 8 tm ++ List.replicate 32 0

theorem witness_PortsAndFlowsSendItems :
    (let d := (unit portUp).dev
     d.on (F.NETn_STAT_LINK 7) = true ∧ d.flowsOf 7 = [] ∧ d.on (F.NETn_CFG_FEC 7) = true ∧ d.linkSeen 7 = true) ∧
    (unit [(F.NETn_CFG_FEC 0, 0)]).dev.on (F.NETn_CFG_FEC 0) = false ∧
    (unit [(F.NETn_CFG_FEC 0, 0)]).dev.on (F.NETn_STAT_LINK 0) = false ∧
    (∀ tm ∈ [0, 0xFFFFFFFFFFFFFFFF],
      let d := (unit (portUp ++ [(F.NET_POS_RX_EN, 1), (F.TRG_LS_NET_MAXAGE, 0)])).dev
      d.linkSeen 7 = true ∧ d.posAccepts (aPos tm) = true ∧ d.posSrc ≠ 2 ∧
        (1000 * (d.val F.TRG_LS_NET_MAXAGE : Int) < d.devTime - toSigned 64 (leAt (aPos tm) 24 8) ↔ tm ≠ 0)) := by
  decide

theorem witness_PortsAndFlowsSendItems_frames :
    let f := List.replicate 12 (1 : Byte) ++ [8, 0] ++ List.replicate 60 3
    let p := List.replicate 6 (1 : Byte) ++ List.replicate 6 2 ++ [0x88, 0xF7] ++ List.replicate 64 0
    let d := (unit portUp).dev
    (rxFrame f).any (fun fr => ! d.frameAccepted 7 fr && ! fr.pauses) = true ∧
      (rxFrame (List.replicate 12 1 ++ [0x88, 8, 1, 1] ++ List.replicate 60 3)).any (fun fr => ! d.frameAccepted 7 fr && fr.pauses) = true ∧ (rxFrame p).isSome = true ∧
      (let announce : List Byte := [0x01, 0x1B, 0x19, 0, 0, 0] ++ List.replicate 6 2 ++ [0x88, 0xF7] ++ [11, 2] ++ List.replicate 62 0
       let e := (unit (portUp ++ [(F.MER_Dd_CFG_EN 1, 1), (F.MER_Dd_CFG_PORT 1, 7)])).dev
       (rxFrame announce).any (fun fr => e.frameAccepted 7 fr) = true) := by decide

/-- An item of one byte, and one of 1,024. -/
theorem witness_PortsAndFlowsSendItems_flows :
    (∀ n ∈ [1, 1024],
      let i : QItem := ⟨n, 8, List.replicate ((n + 7) / 8) (7, false), 0, true, false⟩
      let d := (flowOn 5 0 {} (fun d => d.setQueue 63 { items := [i] })).dev
      let fq := d.val (F.NET_Ff_CFG_QUEUE 31)
      d.linkSeen 7 = true ∧ d.flowsOf 7 = [31] ∧ d.flowRuns 31 = true ∧ d.flowType 31 = 5 ∧ d.on (F.NET_Ff_CFG_LAUNCH 31) = false ∧
        (d.nflow 31).item = none ∧ (d.nflow 31).launch = none ∧ (d.queue fq).spoilt = [] ∧ (d.queue fq).items = i :: [] ∧ (d.queue fq).opened = false ∧ i.dead = false ∧
        i.words.length = (i.len + 7) / 8 ∧ 1 ≤ i.len ∧ i.len ≤ 1024) ∧
    (let d := (flowOn 1 0 { fix := [List.replicate 64 7] }).dev
     d.packs 31 = true ∧ (d.nflow 31).fix ≠ [] ∧ (d.nflow 31).fix.length < d.fixCap 31 ∧ d.val (F.NET_Ff_HOLD 31) ≠ 0 ∧
       (d.queue (d.val (F.NET_Ff_CFG_QUEUE 31))).items = [] ∧ (d.queue (d.val (F.NET_Ff_CFG_QUEUE 31))).opened = false) ∧
    (let d := (flowOn 5 1 { item := some 8, buf := List.replicate 8 7, launch := some 1000000 }).dev
     let x := d.nflow 31
     d.on (F.NET_Ff_CFG_LAUNCH 31) = true ∧ x.item = some 8 ∧ x.left = 0 ∧ x.off = 0 ∧ x.buf.length = 8 ∧ 8 ≤ d.room 31 ∧
       x.launch = some 1000000 ∧ d.devTime < 1000000 ∧
       1000000 - d.devTime ≤ 1000000 * (max 1 (d.val (F.NET_Ff_LAUNCH_MAX 31)) : Nat) ∧ 2 ≤ d.val (F.NET_Ff_LATE_WIN 31)) ∧
    (let d := (flowOn 5 1 { item := some 8 }).dev
     d.on (F.NET_Ff_CFG_EN 31) = true ∧ d.on (F.NET_Ff_STAT_IDLE 31) = false ∧ (d.nflow 31).fix = [] ∧
       (d.nflow 31).item = some 8 ∧ (flowOn 5 1 {}).dev.nflow 31 = {}) := by decide

/-- A PTP message of domain 0: type, sequence, two-step flag, time in ns, the port it is for. -/
def aPtp (type seq two tm : Nat) (to' : Nat × Nat) : List Byte :=
  [BitVec.ofNat 8 type, 2, 0, 64, 0, 0, BitVec.ofNat 8 (2 * two), 0] ++ List.replicate 12 0 ++ bytesBE 8 77 ++ bytesBE 2 1 ++
    bytesBE 2 seq ++ [0, 0] ++ bytesBE 6 0 ++ bytesBE 4 tm ++ bytesBE 8 to'.1 ++ bytesBE 2 to'.2 ++ List.replicate 10 0

def aMaster : Foreign := { prio1 := 0, cls := 0, acc := 0, var := 0, prio2 := 0, gmId := 0, steps := 0, srcId := 77, srcPort := 1 }

/-- Domain 1 on port 7, with a master. -/
def domainOn (p2p : Nat) (x : Domain) : State :=
  unit (portUp ++ [(F.MER_Dd_CFG_EN 1, 1), (F.MER_Dd_CFG_PORT 1, 7), (F.MER_Dd_CFG_DELAY 1, p2p), (F.MER_Dd_CFG_DOMAIN 1, 0),
    (F.MER_Dd_PATH_PATH_N 1, 2), (F.MER_Dd_GUARD 1, 1)]) (fun d => d.setDom 1 x)

theorem witness_TimeDomainsExchangeMessages :
    (∀ two ∈ [0, 1],
      let d := (domainOn 0 { best := some aMaster, delayOk := true }).dev
      let m := aPtp 0 5 two 0 (0, 0)
      d.domLive 1 = true ∧ d.ptpMine 1 m = true ∧ ptpType m = 0 ∧ d.fromMaster 1 m = true ∧ -7 ≤ ptpLog m ∧ ptpLog m ≤ 1 ∧
        d.srcState 1 ≠ 3 ∧ ptpTwoStep m = (two == 1) ∧ (d.dom 1).delayOk = true ∧ (d.dom 1).badDelay = false) ∧
    (let d := ((domainOn 0 { best := some aMaster }).dev).put (F.MER_Dd_STAT_STATE 1) 3
     let m := aPtp 0 5 1 0 (0, 0)
     ptpType m = 0 ∧ d.fromMaster 1 m = true ∧ -7 ≤ ptpLog m ∧ ptpLog m ≤ 1 ∧ d.srcState 1 = 3 ∧ ptpTwoStep m = true) ∧
    (let d := (domainOn 0 { best := some aMaster, delayOk := true, syncWait := true, syncSeq := 5 }).dev
     let m := aPtp 8 5 0 0 (0, 0)
     d.ptpMine 1 m = true ∧ ptpType m = 8 ∧ d.fromMaster 1 m = true ∧ (d.dom 1).syncWait = true ∧
       ptpSeq m = (d.dom 1).syncSeq) ∧
    (let d := (domainOn 0 {}).dev
     let m := aPtp 11 5 0 0 (0, 0)
     d.domLive 1 = true ∧ d.ptpMine 1 m = true ∧ ptpType m = 11 ∧ (ptpForeign m).steps < 255 ∧ (d.dom 1).best = none ∧
       d.srcState 1 ≠ 3) ∧
    (let d := (domainOn 1 {}).dev
     let m := aPtp 2 5 0 0 (0, 0)
     d.domLive 1 = true ∧ d.ptpMine 1 m = true ∧ ptpType m = 2 ∧ d.on (F.MER_Dd_CFG_DELAY 1) = true) ∧
    (domainOn 0 { best := some aMaster }).dev.dom 1 ≠ {} := by decide

/-- A delay response that gives the first delay, one that is an outlier, and the answers of a peer. -/
theorem witness_TimeDomainsExchangeMessages_delays :
    (∀ x ∈ [(false, (0 : Nat)), (true, 1000)],
      let d := (domainOn 0 { best := some aMaster, delayOk := x.1, lastAt := some 0, reqWait := true, reqSeq := 9 }).dev
      let m := aPtp 9 9 0 x.2 (d.ownPort 1)
      let y := d.dom 1
      let sum := (y.lastT2 - y.lastT1) + (ptpTime m - ptpCorr m - y.reqT3)
      d.domLive 1 = true ∧ d.ptpMine 1 m = true ∧ ptpType m = 9 ∧ d.fromMaster 1 m = true ∧ d.on (F.MER_Dd_CFG_DELAY 1) = false ∧
        ptpFor m = d.ownPort 1 ∧ y.reqWait = true ∧ ptpSeq m = y.reqSeq ∧ y.lastAt ≠ none ∧ y.syncWait = false ∧ sum % 2 = 0 ∧
        y.outliers = [] ∧ 2 ≤ d.val (F.MER_Dd_PATH_PATH_N 1) ∧
        (16 * d.val (F.MER_Dd_GUARD 1) < (sum / 2 - (d.val (F.MER_Dd_DELAY 1) : Int)).natAbs ↔ x.2 = 1000)) ∧
    (let d := (domainOn 1 { reqWait := true, reqSeq := 9 }).dev
     let m := aPtp 3 9 0 0 (d.ownPort 1)
     let fup := aPtp 10 9 0 0 (d.ownPort 1)
     d.domLive 1 = true ∧ d.ptpMine 1 m = true ∧ ptpType m = 3 ∧ d.ptpMine 1 fup = true ∧ ptpType fup = 10 ∧
       d.on (F.MER_Dd_CFG_DELAY 1) = true ∧ ptpFor m = d.ownPort 1 ∧ ptpFor fup = d.ownPort 1 ∧ ptpFrom m = ptpFrom fup ∧
       (d.dom 1).reqWait = true ∧ ptpSeq m = (d.dom 1).reqSeq ∧ ptpSeq fup = (d.dom 1).reqSeq ∧ (d.dom 1).delayOk = false ∧
       ((0 - d.latRx 1 - (d.dom 1).reqT3) - (ptpTime fup + ptpCorr fup - (ptpTime m - ptpCorr m))) % 2 = 0) := by decide

theorem witness_MeridianSourcesAndStates :
    (∀ st ∈ [2, 4],
      let d := (unit [(F.MER_Dd_STAT_STATE 1, st)] (fun d => d.setDom 1 { lastAt := some 0 })).dev
      (d.dom 1).lastAt = some 0 ∧ d.srcState 1 = st ∧ d.srcState 1 ≠ 1) ∧
    (let d := (unit [(F.MER_Dd_STAT_STATE 1, 1)]).dev
     d.srcState 1 = 1 ∧ d.domLive 1 = false) ∧
    (unit [] (fun d => { d with mer := { d.mer with disSince := some 0 } })).dev.mer.disSince = some 0 ∧
    (∀ lock ∈ [0, 1],
      let d := (unit [(F.MER_CTRL_CHAIN_EN, 1), (F.TRG_STAT_LS_LOCK, lock)]
        (fun d => { d with mer := { d.mer with chainN := 1, chainOk := 7 } })).dev
      d.on F.MER_CTRL_CHAIN_EN = true ∧ d.mer.chainN ≠ 0 ∧ d.on F.TRG_STAT_LS_LOCK = (lock == 1)) ∧
    (let d := (unit [(F.PWR_MODE_CUR, 3)]).dev
     d.mode ≠ 2 ∧ d.val F.MER_STAT_SRC_ACT = 0) := by decide

/-- A unit of two DRAM channels in use. -/
def dram (l : List (Fld × Nat)) (f : DrcSt → DrcSt := id) : State :=
  unit ([(F.DRC_CFG_CHAN_EN, 3), (F.DRC_FREQ_TRAINED, 7), (F.DRC_STAT_SPEED_ACT, 1)] ++ l) (fun d => { d with drc := f d.drc })

/-- A read that has waited past its requester's target. -/
def aRead (addr : Nat) : DramReq := { rq := 2, wr := false, since := 0, addr := addr, data := [1], ecc := .good }

theorem witness_DramServesRequests :
    (∀ tgt ∈ [1, 2],
      let d := (dram [(F.DRC_RQr_QOS_TARGET 15, tgt)]).dev
      d.drc.pend = [] ∧ d.on F.DRC_STAT_FC_BUSY = false ∧ (d.dramUsable - 1) % 64 + 1 ≤ 64 ∧ (d.dramUsable - 1) + 1 ≤ d.dramUsable ∧
        d.dramUsable < d.dramUsable + 1 ∧ (d.val (F.DRC_RQr_QOS_TARGET 15) ≤ 1 ↔ tgt = 1)) ∧
    (∀ n ∈ [0, 7, 8],
      let d := (dram [(F.DRC_RQr_QOS_TARGET 2, 1)] (fun x => { x with pend := [aRead 256], chan := [(1, ⟨n, 0, []⟩)] })).dev
      (1 : Fin 8).val ∈ d.dramChans ∧ d.on F.DRC_STAT_FC_BUSY = false ∧ aRead 256 ∈ d.drc.pend ∧
        d.dramChan (aRead 256).addr = some 1 ∧ (d.dch 1).postponed = n) ∧
    (let d := (dram [(F.DRC_RQr_QOS_TARGET 2, 1)] (fun x => { x with pend := [aRead 256] })).dev
     let e := { d with now := 100 }
     3 ≤ e.urg (aRead 256)) ∧
    (let d := (dram []).dev
     (d.val F.DRC_FREQ_TRAINED).testBit 3 = false ∧ (d.val F.DRC_FREQ_TRAINED).testBit 1 = true ∧
       1 = d.val F.DRC_STAT_SPEED_ACT ∧ (d.val F.DRC_FREQ_TRAINED).testBit 2 = true ∧ 2 ≠ d.val F.DRC_STAT_SPEED_ACT) ∧
    (let d := (dram [(F.DRC_STAT_FC_BUSY, 1)] (fun x => { x with target := 3 })).dev
     d.on F.DRC_STAT_FC_BUSY = true ∧ d.drc.target < 4 ∧ d.drc.pending = none ∧ d.drc.pend = []) := by decide

/-- An item of `a` words present and `b` to come. -/
def words (a b : Nat) (hdr : Bool) : QItem := ⟨8 * (a + b), 5, List.replicate a (7, false), b, hdr, false⟩

theorem witness_QueuesHoldItems :
    (∀ x ∈ [((4095 : Nat), true), (4096, false)],
      let d := (unit [(F.PWR_MODE_CUR, 3), (F.QUE_Qq_BASE 63, x.1), (F.QUE_Qq_SIZE 63, 1)]).dev
      d.on (F.QUE_Qq_STAT_IDLE 63) = true ∧ (d.queue 63).items = [] ∧ (d.queue 63).waiting = [] ∧ (d.queue 63).fwLeft = 0 ∧
        d.mode ≠ 2 ∧ (1 ≤ d.val (F.QUE_Qq_SIZE 63) ∧
          decide (d.val (F.QUE_Qq_BASE 63) + d.val (F.QUE_Qq_SIZE 63) ≤ 4096) = (x.2 || d.val (F.QUE_Qq_BASE 63) == 0))) ∧
    (let d := (unit (queueOn 63)).dev
     d.queTakes 63 1 = true ∧ (d.queue 63).fill < d.queCap 63 ∧ d.queTakes 63 0 = false ∧ d.on (F.QUE_Qq_CFG_EN 63) = true ∧
       d.on (F.QUE_Qq_STAT_IDLE 63) = false) ∧
    (let d := (unit (queueOn 63) (fun d => d.setQueue 63 { items := [words 2 0 true, words 0 1 true], fwLeft := 1 })).dev
     let x := d.queue 63
     0 < x.fwLeft ∧ x.items = [words 2 0 true] ++ [words 0 1 true] ∧ (words 0 1 true).dead = false ∧ x.waiting = [] ∧
       x.opened = false ∧ x.fill < d.queCap 63 ∧ (words 2 0 true).hdr = true ∧ (words 2 0 true).toCome = 0) ∧
    (let x := (unit (queueOn 0) (fun d => d.setQueue 0 { items := [words 1 0 false], opened := true })).dev.queue 0
     x.items = words 1 0 false :: [] ∧ x.opened = true ∧ (words 1 0 false).words = (7, false) :: []) ∧
    (let w : QWriter := { src := 9, prod := 5, len := 8, words := [(1, false)], begun := true }
     let d := (unit (queueOn 0) (fun d => d.setQueue 0 { items := [words 0 1 true], waiting := [w] })).dev
     let x := d.queue 0
     x.waiting = [w] ∧ w.begun = true ∧ w.dead = false ∧ w.more = 0 ∧ x.items = [] ++ [words 0 1 true] ∧
       x.fill + w.words.length ≤ d.queCap 0) := by decide

/-- A DMA descriptor: control, source and destination. -/
def aDescriptor (ctrl : Nat) : List Byte :=
  bytesLE 4 ctrl ++ bytesLE 4 0 ++ bytesLE 8 0x10001000 ++ bytesLE 8 0x10002000 ++ bytesLE 8 0

/-- Channel 31, enabled, its descriptor at the start of shared SRAM. -/
def dmaOn (l : List (Fld × Nat)) (m : Memory) (x : Dma := {}) : State :=
  unitMem ([(F.DMA_Cc_CFG_EN 31, 1), (F.DMA_Cc_DESC 31, 0x10000000)] ++ l) m (fun d => d.setDmac 31 x)

/-- START without a descriptor, with one that is not owned, with one of 1 and of 4,096 bytes; POLL of it. -/
theorem witness_DmaMovesDescriptors :
    (let d := (dmaOn [(F.DMA_Cc_DESC 31, 0)] []).dev
     d.on (F.DMA_Cc_CFG_EN 31) = true ∧ d.val (F.DMA_Cc_STAT_STATE 31) = 0 ∧ d.val (F.DMA_Cc_DESC 31) = 0) ∧
    (∀ x ∈ [((0 : Nat), (0 : Nat)), (2 ^ 31, 1), (2 ^ 31, 4096)],
      let s := dmaOn [(F.DMA_Cc_POLL 31, 1)] (cellsOf 0x10000000 (aDescriptor (x.1 + x.2)))
      let a := s.dev.val (F.DMA_Cc_DESC 31)
      let ctrl := leAt (s.bytes a 4) 0 4
      let y : Dma := { addr := a, ctrl := ctrl, src := leAt (s.bytes (a + 8) 8) 0 8, dst := leAt (s.bytes (a + 16) 8) 0 8,
                       next := leAt (s.bytes (a + 24) 8) 0 8, total := ctrl % 2 ^ 25 }
      a ≠ 0 ∧ s.dev.drc.pend = [] ∧ s.dev.on F.DRC_STAT_FC_BUSY = false ∧ (∀ i < 32, s.dev.place (a + i) = .mem (a + i)) ∧ ctrl = x.1 + x.2 ∧ ctrl.testBit 31 = (x.1 != 0) ∧
        s.dev.on (F.DMA_Cc_STAT_START_PEND 31) = false ∧ s.dev.val (F.DMA_Cc_POLL 31) ≠ 0 ∧ (x.1 ≠ 0 → s.dev.dmaAddrOk y = true)) ∧
    (unit [(F.DMA_Cc_STAT_STATE 31, 2)]).dev.val (F.DMA_Cc_STAT_STATE 31) = 2 := by decide

theorem witness_DmaMovesDescriptors_bursts :
    (let x : Dma := { addr := 0x10000000, ctrl := 2 ^ 31 + 100, src := 0x10001000, dst := 0x10002011, total := 100, moved := 99 }
     let s := dmaOn [(F.DMA_Cc_STAT_STATE 31, 3), (F.DMA_Cc_STAT_IDLE 31, 0)] [] x
     s.dev.drc.pend = [] ∧ s.dev.on F.DRC_STAT_FC_BUSY = false ∧ s.dev.dmaServed 31 = true ∧ x.ctrl.testBit 26 = false ∧ x.ctrl.testBit 27 = false ∧ x.moved < x.total ∧
       s.dev.place (x.src + 99) = .mem (x.src + 99) ∧ s.dev.place (x.dst + 99) = .mem (x.dst + 99) ∧
       min (x.total - x.moved) (64 - (x.dst + x.moved) % 64) = 1) ∧
    (let x : Dma := { addr := 0x10000000, ctrl := 2 ^ 31 + 100, total := 100, moved := 100, next := 31, trunc := true }
     let s := dmaOn [(F.DMA_Cc_STAT_STATE 31, 5)] [] x
     s.dev.val (F.DMA_Cc_STAT_STATE 31) = 5 ∧ x.ctrl.testBit 27 = false ∧ x.next < 32 ∧
       ∀ i < 8, s.dev.place (x.addr + i) = .mem (x.addr + i)) := by decide

theorem witness_DmaStopsAtOnce : (dmaOn [] []).dev.on (F.DMA_Cc_CFG_EN 31) = true := by decide

/-- Core H4 runs, powered, source 3 enabled with priority 4 and a moderation. -/
def helm (l : List (Fld × Nat)) (c : Core := {}) (f : Dev → Dev := id) : State :=
  unit ([(F.PWR_PD_STAT, 0x3FF), (F.ICU_HLMh_CTRL_RUN 4, 1), (F.ICU_HLMh_STAT_RUNNING 4, 1), (F.ICU_SRCi_CFG_PRIO 383, 15),
    (F.ICU_SRCi_CFG_TARGET 383, 4), (F.ICU_SRCi_CFG_MOD 383, 4)] ++ l) (fun d => f (d.setCore 4 c))

/-- A core that allows interrupts, with a priority stack of one entry. -/
def openCore : Core := { mie := 0x880, mstatus := 0x8, pc := 0x1234, hrpri := 0x10, mcause := 0x800000000000000B }

theorem witness_HelmTakesOffersAndReturns_offers :
    (∀ i : Fin 384, (helm []).dev.eligible 4 i = false) ∧
    (let d := (helm [] {} (fun d => d.setOffer 4 (some 383))).dev
     d.offered 4 = some 383 ∧ d.coreRuns 4 = true) ∧
    (let s := helm [] openCore (fun d => d.setOffer 4 (some 383))
     s.dev.offered 4 = some 383 ∧ s.dev.coreRuns 4 = true ∧ (s.dev.core 4).mie.getLsbD 11 = true ∧ (s.dev.core 4).open = true) ∧
    (helm []).dev.offered 4 = none := by decide

/-- Source 383, a software one, requests. -/
def requested : State :=
  helm [(F.ICU_SRCi_CFG_EN 383, 1), (F.ICU_SRCi_MASK 383, 0xFFFF), (F.ICU_SWIj_REQ 6, 1)] openCore

theorem witness_HelmTakesOffersAndReturns_best : requested.dev.offered 4 ≠ some 383 ∧ requested.dev.eligible 4 383 = true ∧
    ∀ j : Fin 384, j ≠ 383 → requested.dev.eligible 4 j = false := by decide

theorem witness_HelmTakesOffersAndReturns_cores :
    (∀ u ∈ [false, true],
      let d := (helm [] { openCore with user := u }).dev
      d.coreRuns 4 = true ∧ (d.core 4).wfi = false ∧ (d.core 4).user = u) ∧
    (let d := (helm [] { openCore with htimecmp := 77 }).dev
     let c := d.core 4
     (c.htimecmp.toNat < 2 ^ 63 ∨ c.htimecmp.toNat ≤ d.timeCsr) ∧ c.mie.getLsbD 7 = true ∧ d.coreRuns 4 = true ∧ c.open = true ∧ d.offered 4 = none) ∧
    (∀ x ∈ [((0 : Nat), false), (1, true)], (helm [(F.ICU_HLMh_CTRL_RUN 4, x.1)]).dev.on (F.ICU_HLMh_CTRL_RUN 4) = x.2) ∧
    ((helm [] { wdogAt := some 5 }).dev.core 4).wdogAt = some 5 ∧
    tabGet 0 (helm [] {} (fun d => { d with icu := { d.icu with modTill := [(383, 500)] } })).dev.icu.modTill 383 ≠ 0 ∧
    ((∀ i ∈ (helm []).dev.srcsOn, (helm []).dev.srcReq i = false) ∧ ((helm []).dev.core 4).mie.getLsbD 7 = false) ∧
    (∃ i ∈ requested.dev.srcsOn, requested.dev.srcReq i = true ∧ ∃ b, requested.dev.delivery i = some (4, b)) :=
  ⟨by decide, by decide, by decide, by decide, by decide, by decide, 383, by decide, by decide, false, by decide⟩

/-- Event channel 255 at cycle 100. -/
def channel (l : List (Fld × Nat)) (c : EvtChan) : State :=
  unit l (fun d => { d with now := 400 }.setEvch 255 c)

theorem witness_EventChannelsDeliver_fire :
    (channel [(F.EVT_CHk_CFG_EN 255, 0)] {}).dev.on (F.EVT_CHk_CFG_EN 255) = false ∧
    (∀ x ∈ [({ pubAt := some 100 } : EvtChan), {}, { lastAt := some 100 },
            { pend := some (101, 5), window := some 100, merges := 7 }],
      let d := (channel [(F.EVT_CHk_CFG_EN 255, 1), (F.EVT_CHk_CFG_SPACING 255, 2), (F.EVT_CHk_CFG_STORM_LIMIT 255, 0)] x).dev
      d.on (F.EVT_CHk_CFG_EN 255) = true ∧ d.now / 4 = 100 ∧ d.evch 255 = x ∧
        d.val (F.EVT_CHk_CFG_SPACING 255) = 2 ∧ d.val (F.EVT_CHk_CFG_STORM_LIMIT 255) = 0) ∧
    (∀ lim ∈ [(7 : Nat), 8], let x : EvtChan := { pend := some (101, 5), window := some 100, merges := 6 }
      let d := (channel [(F.EVT_CHk_CFG_EN 255, 1), (F.EVT_CHk_CFG_STORM_LIMIT 255, lim)] x).dev
      d.on (F.EVT_CHk_CFG_EN 255) = true ∧ (d.evch 255).pend = some (101, 5) ∧ (d.evch 255).window = some 100 ∧
        d.now / 4 < 100 + 250000 ∧ d.val (F.EVT_CHk_CFG_STORM_LIMIT 255) = lim ∧
        (if lim = 7 then lim ≠ 0 ∧ lim ≤ (d.evch 255).merges + 1 else (d.evch 255).merges + 1 < lim)) := by decide

/-- An event pending on channel 255, with one subscriber: none, an engine, a DMA channel or a software source. -/
theorem witness_EventChannelsDeliver_delivery :
    ∀ x ∈ [(([] : List (Fld × Nat)), ((0 : Nat), (0 : Nat), (0 : Nat))),
           ([(F.CDC_En_CTRL_SUB_EN 3, 1), (F.CDC_En_CTRL_SUB_EVC 3, 255)], (1, 0, 0)),
           ([(F.DMA_Cc_CFG_SUB_EN 31, 1), (F.DMA_Cc_CFG_SUB_EVC 31, 255)], (0, 1, 0)),
           ([(F.ICU_SWIj_SUB_EN 6, 1), (F.ICU_SWIj_SUB_EVC 6, 255)], (0, 0, 1))],
      let d := (channel x.1 { pend := some (101, 255), window := some 100 }).dev
      let e1 := (List.range 4).filter (fun y => d.on (F.CDC_En_CTRL_SUB_EN y) && d.val (F.CDC_En_CTRL_SUB_EVC y) == 255)
      let e2 := (List.range 32).filter (fun y => d.on (F.DMA_Cc_CFG_SUB_EN y) && d.val (F.DMA_Cc_CFG_SUB_EVC y) == 255)
      let e3 := (List.range 7).filter (fun y => d.on (F.ICU_SWIj_SUB_EN y) && d.val (F.ICU_SWIj_SUB_EVC y) == 255)
      (d.evch 255).pend = some (101, 255) ∧ (d.evch 255).window = some 100 ∧
        (e1.length, e2.length, e3.length) = x.2 := by decide

/-- The unit with power state given. -/
def power (l : List (Fld × Nat)) (p : PwrSt) : State := unit l (fun d => { d with pwr := p })

theorem witness_ResetsAndRailsRun :
    (let p := (power [] { en := 0xFF, pg := 0xFF, wdogAt := some 5000 }).dev.pwr
     p.dormant = false ∧ p.nvOp = none ∧ p.wdogAt = some 5000 ∧ p.hot = false ∧ p.en.testBit 7 = true ∧ p.pg.testBit 7 = true) ∧
    (∀ x ∈ [((79 : Int), false), (80, true)],
      decide (16 * ((unit [(F.PWR_THERM, 5)]).dev.val F.PWR_THERM % 256 : Nat) ≤ x.1) = x.2) ∧
    (let d := (power [(F.PWR_THERM, 100)] { hot := true }).dev
     d.pwr.hot = true ∧ (1279 : Int) < 16 * ((d.val F.PWR_THERM % 256 : Nat) - 20 : Int)) ∧
    (∀ k ∈ [(0 : Nat), 6, 7], let p := (power [] { seqRail := some k, en := 2 ^ (k + 1) - 1 }).dev.pwr
      p.dormant = false ∧ p.seqRail = some k ∧ p.pg.testBit (k + 1) = false) ∧
    (power [] { failAt := some 500 }).dev.pwr.failAt = some 500 ∧
    (let d := (power [(F.PWR_MODE_CUR, 5)] {}).dev
     d.pwr.trans = none ∧ d.mode = 5) ∧ (0 : Word) ≠ 0x52A5 := by decide

/-- Training that finds no flash, and one that finds it. -/
def training (flash : Bool) : Training :=
  { dram := [], eyes := [], chu := false, chd := false, flash := flash, octal := false, vmode := 0 }

/-- The flash is blank: code 1, whether it answers or not. -/
theorem witness_ModesFollowRequests_boot :
    let s := power [] { bootDue := true, en := 0xFF, pg := 0xFF, present := true }
    s.dev.bootReady = true ∧ ∀ x ∈ [false, true], ((headerFault (s.nvBytes 0 512) x).map (·.code) == some 1) = true := by decide

theorem witness_ModesFollowRequests_requests :
    (let d := (power [(F.PWR_MODE_CUR, 2)] { reloadDue := true }).dev
     d.pwr.reloadDue = true ∧ d.mode = 2) ∧
    (power [] { trans := some .toHold }).dev.pwr.trans.isSome = true ∧
    (∀ m ∈ [(1 : Nat), 2, 3, 4, 5], let d := (power [(F.PWR_MODE_CUR, m), (F.ICU_HLMh_CTRL_RUN 0, 0), (F.ICU_HLMh_STAT_RUNNING 0, 0)] {}).dev
      d.pwr.trans = none ∧ d.mode = m ∧ d.allWait = true ∧ d.on F.CFG_STAT_DEFAULTS = false ∧
        d.on F.CFG_STAT_REJECT = false ∧ d.on F.CFG_STAT_UNCHECKED = false) ∧
    (let d := (power [(F.PWR_MODE_CUR, 5), (F.ICU_HLMh_CTRL_RUN 2, 1), (F.ICU_HLMh_STAT_RUNNING 2, 1)] {}).dev
     d.pwr.trans = none ∧ d.mode = 5 ∧ d.allWait = false) ∧
    (∀ g ∈ [F.CFG_STAT_DEFAULTS, F.CFG_STAT_REJECT, F.CFG_STAT_UNCHECKED],
      let d := (power [(F.PWR_MODE_CUR, 5), (g, 1)] {}).dev
      d.pwr.trans = none ∧ d.mode = 5 ∧ d.on g = true) := by decide

theorem witness_ModesFollowRequests_transitions :
    (∀ x ∈ [Trans.toInspect, .toService, .wakeService, .toHold, .fromHold, .toStandby], ∀ r ∈ [(0 : Nat), 1],
      let d := (power [(F.PWR_CTRL_RETAIN, r), (F.CFG_STAT_UNCHECKED, r)] { trans := some x }).dev
      d.on F.CFG_STAT_UNCHECKED = (r == 1) ∧ d.drc.pend = [] ∧ d.pwr.trans = some x ∧ d.pwr.pend = none ∧ d.pwr.thenStandby = false ∧ d.pwr.exitDue = false ∧
        d.on F.PWR_CTRL_RETAIN = (r == 1)) ∧
    (let d := (power ([(F.PWR_MODE_CUR, 3), (F.PWR_CTRL_HOLD_EN, 1), (F.LOG_STAT_STANDSTILL, 1)] ++
      (List.range 64).map (fun l => (F.SLK_Ll_CTRL_PSTATE l, 0))) { stillAt := some 9 }).dev
     d.mode = 3 ∧ d.pwr.trans = none ∧ d.on F.PWR_CTRL_HOLD_EN = true ∧ d.on F.LOG_STAT_STANDSTILL = true ∧
       (∀ n : Fin 17, (d.front n).running = none) ∧ ∀ l : Fin 64, d.val (F.SLK_Ll_CTRL_PSTATE l) < 2) ∧
    (∀ x ∈ [((4 : Nat), (none : Option Trans)), (3, some .toHold)],
      let d := (power [(F.PWR_MODE_CUR, x.1), (F.LOG_STAT_STANDSTILL, 0)] { trans := x.2 }).dev
      d.on F.LOG_STAT_STANDSTILL = false ∧ d.mode = x.1 ∧ d.pwr.trans = x.2) ∧
    (∀ r ∈ [(0 : Nat), 1], let d := (power [(F.PWR_MODE_CUR, 1), (F.PWR_CTRL_WAKE, 15), (F.PWR_CTRL_RETAIN, r)] {}).dev
      d.mode = 1 ∧ d.pwr.trans = none ∧ (∀ k : Fin 4, (d.val F.PWR_CTRL_WAKE).testBit k = true) ∧
        d.on F.PWR_CTRL_RETAIN = (r == 1)) := by decide

theorem witness_FlashDomainsAndRegulatorsAct_flash :
    (unit [(F.CFG_STAT_NV_BUSY, 1)]).dev.on F.CFG_STAT_NV_BUSY = true ∧
    (∀ x ∈ [((0 : Nat), (0 : Nat), false), (0x1FF, 5, false), (0x1000, 3, true)],
      let d := (unit [(F.CFG_NV_ADDR, x.1), (F.PWR_MODE_CUR, x.2.1)]).dev
      let a := d.val F.CFG_NV_ADDR / 256 * 256
      let allowed := fun b n => ! d.nvGuarded b n || (decide (d.mode = 5) && d.on F.SVC_STAT_PRESENCE)
      d.on F.CFG_STAT_NV_BUSY = false ∧ allowed a 256 = x.2.2 ∧ allowed (a / 4096 * 4096) 4096 = x.2.2) ∧
    (∀ code ∈ [(1 : Nat), 2, 3], (power [] { nvOp := some (code, 0x1100) }).dev.pwr.nvOp = some (code, 0x1100)) := by decide

/-- PD_OFF written with the bit of an optional idle domain (PD08, PD25, PD26, set or cleared), of one in use, of one that is not
optional. -/
theorem witness_FlashDomainsAndRegulatorsAct_domains :
    ∀ x ∈ [((8 : Nat), (0 : Nat), (0 : Nat), true), (25, 0, 0, true), (26, 0, 0, true), (25, 1, 0, true), (25, 0, 1, false), (0, 0, 0, false)],
      let d := (unit [(F.PWR_MODE_CUR, 5), (F.PWR_PD_OFF, x.2.1 * 2 ^ x.1), (F.CDC_En_CTRL_EN 0, x.2.2.1)]
        (fun d => d.stage R.PWR_PD_OFF (BitVec.ofNat 32 ((1 - x.2.1) * 2 ^ x.1)))).dev
      let f := d.val F.PWR_PD_OFF
      f < 2 ^ 34 ∧ (d.joined R.PWR_PD_OFF 0).toNat = f ^^^ 2 ^ x.1 ∧ f.testBit x.1 = (x.2.1 == 1) ∧
        (optIn d.mode x.1 && (f.testBit x.1 || ! d.domainBusy x.1)) = x.2.2.2 := by decide

theorem witness_FlashDomainsAndRegulatorsAct_rails :
    (let d := (unit [(F.PWR_RAILk_EN 7, 1)]).dev
     (List.range 8).filter (fun k => d.on (F.PWR_RAILk_EN k)) = [7] ∧ 7 < (List.replicate 8 5).length) ∧
    (unit [(F.PWR_RAILk_EN 7, 1)]).dev.on (F.PWR_RAILk_EN 7) = true ∧
    (∀ x ∈ [((19 : Nat), (800 : Nat)), (19, 799), (20, 750), (24, 750), (25, 701)],
      let d := (unit [(F.PWR_CTRL_AVS_EN, 1), (F.PWR_MODE_CUR, 3), (F.PWR_RAILk_EN 0, 1), (F.PWR_AVS_VOUT, x.2),
        (F.PWR_AVS_LIM_VMIN, 700), (F.PWR_AVS_LIM_VMAX, 800), (F.PWR_AVS_STEP, 5), (F.PWR_AVS_MARGIN, 20), (F.SPR_AGE_MIN_M, x.1)]).dev
      d.avsRuns = true ∧ d.val F.SPR_AGE_MIN % 256 = x.1 ∧ d.val F.PWR_AVS_MARGIN = 20 ∧ d.val F.PWR_AVS_VOUT = x.2 ∧
        d.val F.PWR_AVS_LIM_VMIN ≤ x.2 ∧ x.2 ≤ d.val F.PWR_AVS_LIM_VMAX) := by decide

/-- A unit of a chain, hop 3 of segment 5, both ports up, all domains on. -/
def onChain (l : List (Fld × Nat)) (c : ChnSt := {}) (f : Dev → Dev := id) : State :=
  unit ([(F.CHN_STAT_UP_U, 1), (F.CHN_STAT_UP_D, 1), (F.PWR_PD_STAT, 2 ^ 34 - 1), (F.CHN_ADDR, 323), (F.CHN_STAT_ADDR_VALID, 1)] ++ l)
    (fun d => f { d with chn := c, now := 1000 })

theorem witness_ChainEnumeratesItsUnits_local :
    (let d := (onChain [(F.CHN_STAT_UP_U, 0)]).dev
     d.powered 29 = true ∧ d.portUp .chu ≠ true ∧ d.portUp .chd ≠ false) ∧
    (let d := (onChain [(F.CHN_CFG_HEAD, 1)] { portNews := true, ownSeg := 255 }).dev
     d.chn.portNews = true ∧ d.on F.CHN_CFG_HEAD = true ∧ d.chn.yielded = false ∧ d.chn.ownSeg < 256) ∧
    (∀ n ∈ [(0 : Nat), 1, 63, 64], (onChain [] { chdEnum := some (enumWord 1 n 5 64, 9) }).dev.chn.chdEnum = some (enumWord 1 n 5 64, 9)) ∧
    (let d := (onChain [] { loadEnd := some 5, ownSeg := 255 }).dev
     d.chn.loadEnd = some 5 ∧ d.chn.gotEnum = false ∧ d.on F.CHN_CFG_HEAD = false ∧ d.chn.ownSeg < 256) := by decide

/-- Frames of type 3 to 5 and 2 that stand, at the borders of COUNT, to a unit and to a head. -/
theorem witness_ChainEnumeratesItsUnits_frames :
    (∀ h ∈ [(0 : Nat), 1], ∀ n ∈ [(0 : Nat), 1, 63, 64], ∀ p ∈ [Side.chu, Side.chd],
      let d := (onChain [(F.CHN_CFG_HEAD, h)] { round := 4 }).dev
      let f := mkFrame 3 0x8140 0 [enumWord 4 n 5 64]
      f.type = 3 ∧ (d.chainCheck p f).2 = true ∧ f.words ≠ [] ∧ d.on F.CHN_CFG_HEAD = (h == 1) ∧ d.chn.gotEnum = false ∧
        wordByte (f.words.getD 0 0) 0 = d.chn.round ∧ wordByte (f.words.getD 0 0) 2 = d.segNo) ∧
    wordByte (enumWord 4 9 6 64) 2 ≠ (onChain []).dev.segNo ∧
    (∀ x ∈ [mkFrame 4 323 9 [7], mkFrame 5 0x8140 9 [0x3200000064, 4], mkFrame 2 323 0 [3, 77]], ∀ p ∈ [Side.chu, Side.chd],
      let d := (onChain [(F.CHN_CFG_HEAD, 1)]).dev
      (d.chainCheck p x).2 = true ∧ ¬ x.srcHop = d.hop ∧ (x.type = 5 ∨ d.mine x = true) ∧ (x.type = 5 → p = .chd → d.closesRing p x = false) ∧
        d.chn.sideKnown = false ∧ (x.type = 2 → (x.words.getD 0 0).toNat = d.hop)) := by decide

/-- The service port runs; this unit is 323. -/
def served (l : List (Fld × Nat)) (v : SvcSt := {}) (c : ChnSt := {}) : State :=
  onChain ([(F.SVC_CTRL_EN, 1), (F.SVC_STAT_IDLE, 0)] ++ l) c (fun d => { d with svc := v })

/-- A good frame for unit 323. -/
def asked (cmd : Nat) (p : List Byte) : SvcFrame := ⟨svcBytes cmd 7 323 p⟩

/-- Every command's frame is good, for this unit; no command runs or one does, with or without presence. -/
theorem witness_ServiceCommandsAreAnswered_all :
    (∀ x ∈ [((0x01 : Nat), (0 : Nat)), (0x02, 10), (0x03, 12), (0x04, 0), (0x05, 0), (0x10, 1), (0x11, 5), (0x12, 0), (0x13, 8), (0x14, 0),
            (0x15, 0), (0x16, 0), (0x17, 1)], let f := asked x.1 (List.replicate x.2 1)
      f.crcGood = true ∧ SvcFrameGood f = true ∧ f.cmd = x.1 ∧ f.bcast = false ∧ f.dest % 2 ^ 14 = 323) ∧
    (∀ x ∈ [((0 : Nat), (none : Option SvcRun)), (1, some ⟨0x12, 5, 323, .port⟩)],
      let d := (served [(F.SVC_STAT_PRESENCE, x.1)] { run := x.2 }).dev
      d.runs F.SVC_CTRL_EN F.SVC_STAT_IDLE = true ∧ d.unitAddr = 323 ∧ d.on F.SVC_STAT_PRESENCE = (x.1 == 1) ∧ d.svc.run = x.2) ∧
    State.reset.dev.runs F.SVC_CTRL_EN F.SVC_STAT_IDLE = true ∧ (served [(F.SVC_CTRL_EN, 0), (F.SVC_STAT_IDLE, 1)]).dev.runs F.SVC_CTRL_EN F.SVC_STAT_IDLE = false ∧
    (⟨(asked 1 []).bytes ++ [3]⟩ : SvcFrame).crcGood = false ∧
    (let f : SvcFrame := ⟨svcBytes 1 7 324 []⟩
     f.bcast = false ∧ f.dest % 2 ^ 14 ≠ 323 ∧ f.crcGood = true ∧ SvcFrameGood f = true) := by decide

theorem witness_ServiceCommandsAreAnswered_memory :
    (let f := asked 0x02 (bytesLE 8 0x10000000 ++ [1, 0])
     f.crcGood = true ∧ SvcFrameGood f = true ∧ leAt f.payload 0 8 = 0x10000000 ∧ leAt f.payload 8 2 = 1) ∧
    (let f := asked 0x03 (bytesLE 8 0x10000000 ++ [9, 8, 7, 6])
     f.crcGood = true ∧ SvcFrameGood f = true ∧ leAt f.payload 0 8 = 0x10000000 ∧ f.payload.length - 8 = 4) ∧
    (∀ i < 4, (served []).dev.place (0x10000000 + i) = .mem (0x10000000 + i)) := by decide

/-- A section entry and a header of sections. -/
def section16 (type bank off len crc : Nat) : List Byte :=
  [BitVec.ofNat 8 type, BitVec.ofNat 8 bank, 0, 0] ++ bytesLE 4 off ++ bytesLE 4 len ++ bytesLE 4 crc
def headerOf (es : List (List Byte)) : List Byte :=
  List.replicate 12 0 ++ [1, BitVec.ofNat 8 es.length, 0, 0] ++ bytesLE 4 5 ++ bytesLE 4 0x4000000 ++ List.replicate 8 0 ++
    es.flatten ++ List.replicate (480 - 16 * es.length) 0
/-- A bank record of `flags` with bank `bank` active. -/
def bankRec (flags bank : Nat) : List Byte :=
  recSeal (bytesLE 4 0x4B4E4142 ++ bytesLE 4 7 ++ [BitVec.ofNat 8 bank, BitVec.ofNat 8 flags, 1, 0] ++ bytesLE 4 5 ++ List.replicate 496 0)

/-- The header made good: marker, formats, part and check. -/
def goodHeader (h : List Byte) : List Byte :=
  let h := setBytes h 0 (bytesLE 4 0x31464D4C ++ bytesLE 2 1 ++ bytesLE 2 512 ++ bytesLE 2 0x4C5A ++ bytesLE 2 0x6416)
  setBytes h 28 (bytesLE 4 (crc32c h))

/-- REGS with one write, of AUTOSTART. -/
def autostart : List Byte := bytesLE 4 R.CFG_CTRL ++ bytesLE 4 1

/-- The first `n` bytes, and erased flash after them. -/
def blankAfter (n : Nat) (bs : List Byte) : List Byte := bs.take n ++ List.replicate (bs.length - n) 0xFF

/-- An image of LDR, HELM and PIPE of four bytes, REGS, and BANK; its record stands in copy 0. -/
def bootHeader : List Byte :=
  let e := crc32c (List.replicate 4 0xFF)
  goodHeader (blankAfter 112 (headerOf [section16 1 0 0x1000 4 e, section16 2 0 0x2000 4 e, section16 3 0 0x3000 4 e,
    section16 7 0 0x4000 8 (crc32c autostart), section16 12 2 0x10000 12288 (crc32c (List.replicate 64 0xFF))]))
def flashOf (a : Nat) (bs : List Byte) : Memory := ((List.range bs.length).zip bs).filterMap (fun x =>
  if x.2 = 0xFF then none else some (a + x.1, x.2))
def bootable : State :=
  { power [] { bootDue := true, en := 0xFF, pg := 0xFF, present := true } with
    nv := flashOf 0 bootHeader ++ flashOf 0x4000 autostart ++ flashOf 0x11000 (recSeal (blankAfter 16 (bankRec 1 0))) }

/-- What the completion of POWER_GOOD asks of a state, with a flash that answers and no wish for 8D-8D-8D. -/
def bootHolds (s : State) : Bool :=
  let h := s.nvBytes 0 512
  let w := (Work.begin s).on (fun d => d.bootStart.octalEnter h false)
  s.dev.bootReady && (headerFault h true).isNone &&
    match w.imageCheck h with
    | .inr (c, r) => ! ((w.on (fun d => d.bootPasses h r c)).bootApply h r).dev.pwr.bootDue
    | .inl _ => false

theorem witness_ModesFollowRequests_image : bootHolds bootable = true := by decide +kernel

theorem witness_ServiceCommandsAreAnswered_address :
    (let d := (served [(F.SVC_STAT_PRESENCE, 1)] { record := bankRec 1 0 }).dev
     d.on F.SVC_STAT_PRESENCE = true ∧ d.svc.record.length = 512 ∧ d.svc.record ≠ []) ∧
    copyAt (headerOf [section16 12 2 0x10000 12288 0]) 1 = some 0x12000 ∧
    (let d := (served [(F.SVC_STAT_PRESENCE, 1)]).dev
     d.on F.SVC_STAT_PRESENCE = true ∧ d.svc.record = []) := by decide

/-- Frames of the chain that bring a command, a response and the loss of presence. -/
theorem witness_ServiceCommandsAreAnswered_chain :
    (let b := svcBytes 1 7 323 []
     let g := mkFrame 7 323 9 (toWords (b.length / 8 + 1) b)
     let d := (served []).dev
     let f : SvcFrame := ⟨g.bytes.take (leAt g.bytes 4 4 + 12)⟩
     (d.chainCheck .chd g).2 = true ∧ d.mine g = true ∧ ¬ g.srcHop = d.hop ∧ g.type = 7 ∧ f.crcGood = true ∧ SvcFrameGood f = true ∧
       f.cmd = 1 ∧ d.svc.run = none ∧ d.chn.lastFwd = none) ∧
    (let b := svcBytes 0x81 7 329 [0]
     let g := mkFrame 8 323 9 (toWords (b.length / 8 + 1) b)
     let e : Relayed := ⟨329, 7, 1, false, 500, false⟩
     let d := (served [] {} { relayed := [e] }).dev
     let f : SvcFrame := ⟨g.bytes.take (leAt g.bytes 4 4 + 12)⟩
     (d.chainCheck .chd g).2 = true ∧ d.mine g = true ∧ ¬ g.srcHop = d.hop ∧ g.type = 8 ∧ d.chn.relayed = [e] ∧ e.tag = leAt f.bytes 1 1 ∧
       e.cmd = leAt f.bytes 0 1 % 128 ∧ e.dest.testBit 15 = false ∧ e.dest % 2 ^ 14 = d.segNo * 64 + g.srcHop ∧ e.fw = false) ∧
    (let g := mkFrame 9 323 9 [5]
     let r : SvcRun := ⟨0x12, 5, 323, .unit .chd 9⟩
     let d := (served [] { run := some r }).dev
     (d.chainCheck .chd g).2 = true ∧ d.mine g = true ∧ ¬ g.srcHop = d.hop ∧ g.type = 9 ∧ d.svc.run = some r ∧
       r.by' = .unit .chd g.srcHop ∧ r.tag = (g.words.getD 0 0).toNat % 256) := by decide

theorem witness_ServiceCommandsAreAnswered_relay :
    (let b := svcBytes 1 7 324 []
     let d := (onChain [(F.CHN_CFG_RELAY_EN, 1), (F.CHN_CFG_TXQ, 63), (F.QUE_Qq_SIZE 63, 1), (F.SVC_CTRL_EN, 1), (F.SVC_STAT_IDLE, 0)] {}
       (fun d => d.setQueue 63 { items := [⟨12, 0, (toWords 2 b).map (fun w => (w, false)), 0, true, false⟩] })).dev
     d.on F.CHN_CFG_RELAY_EN = true ∧ (d.queue (d.val F.CHN_CFG_TXQ)).spoilt = [] ∧
       (match (d.queTake (d.val F.CHN_CFG_TXQ) false).2 with
        | some (n, _, ws) =>
          let f : SvcFrame := ⟨itemBytes n ws⟩
          f.crcGood && SvcFrameGood f && ! f.bcast && f.dest % 2 ^ 14 == 324 && ! privCmd f.cmd
        | none => false) = true) ∧
    (let d := (served [(F.SVC_STAT_PRESENCE, 1)] { run := some ⟨0x12, 5, 323, .port⟩ } { relayed := [⟨329, 7, 1, false, 500, false⟩] }).dev
     d.pwr.dormant = false ∧ d.on F.SVC_STAT_PRESENCE = true ∧ d.chn.relayed.length = 1) := by decide

/-- `n` bytes of erased flash have this CRC. -/
def erasedCrc (n : Nat) : Nat := crc32c (List.replicate n 0xFF)

/-- The header of a unit with two banks of FABRIC, HELM (`n` bytes) and CONFIG sections, a CALIB and a BANK section. -/
def twoBanks (n : Nat) : List Byte :=
  headerOf [section16 1 0 0x1000 64 (erasedCrc 64), section16 1 1 0x2000 64 (erasedCrc 64), section16 2 0 0x4000 n (erasedCrc 64),
    section16 2 1 0x8000 n (erasedCrc 64), section16 3 0 0x3000 64 (erasedCrc 64), section16 3 1 0x6000 64 (erasedCrc 64),
    section16 12 2 0x10000 12288 0, section16 9 2 0x20000 12288 0]

/-- A manifest with a HELM part of `n` bytes at the end of a package of `len` bytes. -/
def aManifest (len n : Nat) : List Byte :=
  let b := bytesLE 4 0x50555A4C ++ bytesLE 2 1 ++ [1, 1] ++ bytesLE 4 9 ++ bytesLE 4 len ++ bytesLE 2 0 ++ List.replicate 10 0 ++
    bytesLE 4 0 ++ ([2, 0, 0, 0] ++ bytesLE 4 (len - n) ++ bytesLE 4 n ++ bytesLE 4 9 ++ bytesLE 4 (erasedCrc 64))
  setBytes b 28 (bytesLE 4 (crc32c b))

/-- The service port with presence and a record, the header given. -/
def updated (l : List (Fld × Nat)) (h : List Byte) (v : SvcSt) : State :=
  onChain ([(F.SVC_CTRL_EN, 1), (F.SVC_STAT_IDLE, 0), (F.SVC_STAT_PRESENCE, 1)] ++ l) {}
    (fun d => { d with svc := v, pwr := { header := h } })

theorem witness_FieldUpdateSwitchesBanks_asked :
    (let d := (updated [] (twoBanks 64) { record := bankRec 1 0 }).dev
     d.runs F.SVC_CTRL_EN F.SVC_STAT_IDLE = true ∧ d.unitAddr = 323 ∧ d.svc.run = none ∧ d.on F.SVC_STAT_PRESENCE = true ∧
       d.svc.record.length = 512) ∧
    (∀ x ∈ [((0x11 : Nat), (5 : Nat)), (0x12, 0), (0x13, 8), (0x14, 0), (0x15, 0), (0x16, 0), (0x17, 1)],
      let f := asked x.1 (List.replicate x.2 1)
      f.crcGood = true ∧ SvcFrameGood f = true ∧ f.cmd = x.1 ∧ f.bcast = false ∧ f.dest % 2 ^ 14 = 323) ∧
    recConfirmed (bankRec 1 0) = true ∧ recConfirmed (bankRec 0 0) = false ∧ recReload (bankRec 3 0) = true ∧
    recReload (bankRec 1 0) = false ∧ (copyAt (twoBanks 64) 1).isSome = true ∧ (sectOf (twoBanks 64) 9 0).isSome = true ∧
    ((updated [] (twoBanks 64) { armed := some 5 }).dev.svc.armed == some 5) = true := by decide

/-- The first page of a package: its manifest, then zeros. -/
def page0 : List Byte := (aManifest 12288 8192 ++ List.replicate 4096 0).take 4096

theorem witness_FieldUpdateSwitchesBanks_page0 :
    let d := (updated [] (twoBanks 8192) { record := bankRec 1 0 }).dev
    tabGet 0 d.svc.pages 0 ≠ blockKey page0 ∧ manifestSize page0 ≤ page0.length ∧ page0.length = 4096 ∧ 4096 < packageLength page0 ∧
      d.manifestTaken page0 = true := by decide +kernel

theorem witness_FieldUpdateSwitchesBanks_page0_frame :
    let f := asked 0x11 (bytesLE 4 0 ++ page0)
    f.crcGood = true ∧ SvcFrameGood f = true := ⟨svcBytes_crcGood _ _ _ _, by decide +kernel⟩

/-- The last block of a package of 8,256 bytes, in a HELM part at 8,192. -/
theorem witness_FieldUpdateSwitchesBanks_block :
    let m := aManifest 8256 64
    let d := (updated [] (twoBanks 8192) { record := bankRec 1 0, manifest := m, pages := [(0, 5)] }).dev
    let f := asked 0x11 (bytesLE 4 8192 ++ List.replicate 64 7)
    m ≠ [] ∧ 8192 + 64 ≤ packageLength m ∧ 64 = min 4096 (packageLength m - 8192) ∧ tabGet 0 d.svc.pages 2 = 0 ∧
      d.svc.pages.length + 1 < (packageLength m + 4095) / 4096 ∧ f.crcGood = true ∧ SvcFrameGood f = true ∧ leAt f.payload 0 4 = 8192 ∧
      (match manifestParts m with
       | [x] =>
         (match d.region x.type d.idleBank with
          | some _ => decide (x.off ≤ 8192 ∧ 8192 + 64 ≤ x.off + x.len)
          | none => false)
       | _ => false) = true := by decide

theorem witness_FieldUpdateSwitchesBanks_activate :
    (let s := updated [(F.SVC_STAT_STAGED, 1), (F.PWR_MODE_CUR, 5)] (twoBanks 64) { record := bankRec 1 0, manifest := aManifest 4160 64 }
     s.dev.actMode = true ∧ s.dev.stagedOk = true ∧ ((Work.begin s).helmPart true).isSome = true ∧ (Work.begin s).fallbackOk = true ∧
       ((Work.begin s).helmPart false).isSome = true ∧ s.dev.devTime = 0 ∧ s.pending = []) ∧
    (let s := updated [] (twoBanks 64) { run := some ⟨0x12, 5, 323, .port⟩, record := bankRec 1 0 }
     s.dev.actMode = false ∧ s.dev.stagedOk = false ∧ s.dev.svc.run.isSome = true) := by decide

theorem witness_FieldUpdateSwitchesBanks_ends :
    (∀ e ∈ [(2 : Nat), 1], let d := (updated [] (twoBanks 64) { record := bankRec 1 0 } ).dev
      recConfirmed d.svc.record = true ∧ d.otp.epoch = 0 ∧ e ≠ 0) ∧
    (∀ x ∈ [((5 : Nat), (0 : Nat)), (4, 16), (4, 0), (4, 15)],
      let d := (updated [(F.PWR_MODE_CUR, 5), (F.SVC_RELOAD_IDX, x.2)] (twoBanks 64) { actStep := x.1, record := bankRec 2 1 }).dev
      d.svc.actStep = x.1 ∧ d.pwr.trans = none ∧ d.mode = 5 ∧ d.val F.SVC_RELOAD_IDX = x.2) := by decide

/-- A unit with a LOG section of 80 sectors. -/
def logged (l : List (Fld × Nat)) (z : SprSt := {}) (a : AlmSt := {}) (f : Dev → Dev := id) : State :=
  unit ([(F.PWR_PD_STAT, 2 ^ 34 - 1), (F.PWR_MODE_CUR, 3)] ++ l) (fun d => f { d with
    now := 1000, spr := z, alm := a, pwr := { header := headerOf [section16 11 2 0x10000 (4096 * 80) 0] } })

theorem witness_BackgroundWorkAndAlmanac_patrols :
    (let d := (logged [(F.SPR_CTRL_SCRUB_S_EN, 1), (F.SPR_CTRL_SCRUB_D_EN, 1), (F.SPR_CTRL_RETIRE_N, 2)] { passes := [(24575, 1)] }).dev
     d.on F.SPR_CTRL_SCRUB_S_EN = true ∧ d.on F.SPR_CTRL_SCRUB_D_EN = true ∧ d.mode ≠ 1 ∧
       (∀ e ∈ [(⟨95, 255, true⟩ : ScrubError), ⟨95, 255, false⟩, ⟨0, 0, false⟩], e.bank < 96 ∧ e.row < 256 ∧ (e.bank, e.row) ∉ d.spr.cands) ∧
       max 1 (d.val F.SPR_CTRL_RETIRE_N) ≤ tabGet 0 d.spr.passes (256 * 95 + 255) + 1) := by decide

theorem witness_BackgroundWorkAndAlmanac_log :
    (logged [(F.SPR_STAT_LOG_BUSY, 1)]).dev.on F.SPR_STAT_LOG_BUSY = true ∧
    (∀ v ∈ [(0x0040 : Nat), 0xF0FF], let d := (logged []).dev
      d.on F.SPR_STAT_LOG_BUSY = false ∧ 0x40 ≤ (BitVec.ofNat 32 v).toNat % 256 ∧ (BitVec.ofNat 32 v).toNat / 256 % 256 ≤ 240 ∧
        d.on F.SPR_STAT_LOG_SMALL = false ∧ d.on F.CFG_STAT_DEFAULTS = false) ∧
    (∀ o ∈ [(0 : Nat), 4081],
      let d := (logged [(F.SPR_STAT_LOG_BUSY, 1)] { logQ := [(0x40, [1, 2, 3])], sector := some 77, sectOff := o }).dev
      d.pwr.nvOp = none ∧ d.on F.SPR_STAT_LOG_BUSY = true ∧ d.spr.newRep = [] ∧ d.spr.logQ = (0x40, [1, 2, 3]) :: [] ∧
        d.spr.sector = some 77 ∧ 64 ≤ d.ringSectors ∧ d.spr.sectOff + 3 + 12 ≤ 4096) ∧
    (let d := (logged [(F.SPR_STAT_LOG_BUSY, 1)] { newRep := [0x801], repair := [5], repCopy := 1 }).dev
     d.pwr.nvOp = none ∧ d.on F.SPR_STAT_LOG_BUSY = true ∧ d.spr.newRep ≠ [] ∧ d.logSection = some (0x10000, 80) ∧
       d.spr.repair.length + d.spr.newRep.length ≤ 1016) := by decide

theorem witness_BackgroundWorkAndAlmanac_work :
    (let d := (logged ([(F.SPR_CTRL_TELE_EN, 1), (F.SPR_TELE, 63), (F.QUE_Qq_SIZE 63, 1), (F.QUE_Qq_CFG_EN 63, 1), (F.QUE_Qq_STAT_IDLE 63, 0)])).dev
     d.on F.SPR_CTRL_TELE_EN = true ∧ d.val F.SPR_TELE % 64 = 63 ∧ (d.queue 63).items = [] ∧ (d.queue 63).waiting = [] ∧
       (d.queue 63).fwLeft = 0 ∧ d.queTakes 63 96 = true ∧ 13 ≤ d.queCap 63) ∧
    (let d := (logged [(F.SPR_TELE, 7), (F.QUE_Qq_SIZE 7, 1), (F.QUE_Qq_CFG_EN 7, 1), (F.QUE_Qq_STAT_IDLE 7, 0)] { teleAt := some 300 } {}
       (fun d => d.setQueue 7 { waiting := [{ src := sprSrc, prod := 9, len := 96, words := [] }] })).dev
     d.spr.teleAt = some 300 ∧ d.queStalls (d.val F.SPR_TELE % 64) sprSrc = true) ∧
    (∀ b ∈ [(0 : Nat), 1], let d := (logged [(F.SPR_STAT_PIPE_BUSY, b)] { pipe := some 16 }).dev
      d.on F.SPR_STAT_PIPE_BUSY = (b == 1) ∧ d.spr.pipe = some 16) ∧
    (∀ v ∈ [(33 : Nat), 1], (BitVec.ofNat 32 v).getLsbD 0 = true ∧ (BitVec.ofNat 32 v).toNat / 2 % 32 ≤ 16) ∧
    (let d := (logged [(F.SPR_CTRL_CST_EN, 1), (F.SPR_CTRL_CST_ENG, 3)]).dev
     d.on F.SPR_CTRL_CST_EN = true ∧ d.val F.SPR_CTRL_CST_ENG = 3) := by decide

theorem witness_BackgroundWorkAndAlmanac_almanac :
    (∀ x ∈ [((0 : Nat), (0 : Nat)), (2 ^ 48 - 1, 32767)], let d := (logged [(⟨R.ALM_CTRL, 3, 1⟩, 1)] {} { sec := x.1, sub := x.2 }).dev
      d.mode ≠ 1 ∧ d.alm.sub < 32768 ∧ d.alm.sec < 2 ^ 48 ∧ d.on ⟨R.ALM_CTRL, 2 + 1, 1⟩ = true) ∧
    (∀ y ∈ [(none : Option Int), some 3],
      let d := (logged [(F.ALM_CTRL_SYNC_EN, 1), (F.MER_STAT_STEERING, 1), (F.MER_STAT_STEP_DONE, 1)] {} { syncSec := y }).dev
      d.on F.ALM_CTRL_SYNC_EN = true ∧ d.on F.MER_STAT_STEERING = true ∧ d.on F.MER_STAT_STEP_DONE = true ∧ d.alm.fwAt = none) ∧
    (let d := (logged [(F.ALM_CTRL_SEAL_EN, 1), (F.ALM_STAT_SEAL_OPEN, 1)] {} { lastSeal := some true }).dev
     d.on F.ALM_CTRL_SEAL_EN = true ∧ d.alm.lastSeal = some true ∧ d.on F.ALM_STAT_SEAL_OPEN = true ∧ d.alm.lastSeal ≠ some false ∧
       d.pwr.dormant = false) := by decide

theorem witness_IdentityReadsAsStated : (R.SYS_ID = R.SYS_ID ∨ R.SYS_ID = R.SYS_REV) ∧ (R.SYS_REV = R.SYS_ID ∨ R.SYS_REV = R.SYS_REV) ∧
    ∀ a ∈ [R.SYS_ID, R.SYS_REV], State.reset.dev.passes 0 .load a 4 = true ∧ State.reset.dev.passes 0x0A .store a 4 = true := by decide

/-! ### Ill-formed commands are refused by each check, well-formed ones pass -/

/-- A chain frame whose LEN says one payload word more than it has. -/
def longFrame : ChainFrame := { mkFrame 5 0x8140 0 [1, 2] with words := [1] }

theorem test_wellFormed_refuses :
    ∀ c ∈ [Instr.registerWrite 5 0 4 0 .plain .good, .registerWrite 0 0 3 0 .plain .good, .registerWrite 0 0 1 256 .plain .good,
      .registerWrite 0x0A 0 4 0 .conditional .good, .registerWrite 0 0 2 0 (.amo .add) .good, .loRead 0 0 5 .plain .good,
      .loRead 9 0 4 .plain .good, .loRead 0 0 8 .fetch .good, .loRead 0x0A 0 4 .reserve .good, .loWrite 12 0 0, .loWrite 0 2 0, .hiWrite 9 0 0,
      .hiWrite 0 6 0, .shadowWrite 9 0 0, .shadowWrite 0 1 0, .ssiFrameEnd 0 (2 ^ 48) false false, .marker 0 [1] 0,
      .sol 0 0 [], .sol 0 0 [([], List.replicate 8 0)], .eol 0 [], .eol 0 [[]], .flow 0 [], .reply 0 [], .pushHdr 0 5 0,
      .evtFire 5 0, .hrpriWrite 0 (2 ^ 64), .eyeScan 0 65 0, .eyeScan 0 0 65, .neigh .chu longFrame,
      .beacon .chd { mkFrame 1 0 0 [] with ctrl := [] }, .ping ⟨[]⟩, .status ⟨(asked 4 []).bytes ++ [0]⟩,
      .pmAlert (List.replicate 9 0), .ageMeasure 0 101 0, .ageMeasure 0 (-1) 0], wellFormed c = false := by decide

theorem test_wellFormed_accepts :
    ∀ c ∈ [Instr.registerWrite 4 0x40000000 8 0 .plain .good, .registerWrite 0x0B 3 1 255 .plain .good, .loRead 0 0 2 .plain .good,
      .registerWrite 0 0 8 1 (.amo .maxu) .good, .registerWrite 4 0 4 1 .conditional .corrected, .loRead 0 0 2 .fetch .bad,
      .loRead 3 0 8 .reserve .good, .loWrite 0 4 0, .hiWrite 0x0A 8 0,
      .shadowWrite 0 0 0, .ssiFrameEnd 31 (2 ^ 48 - 1) true true, .marker 0 (List.replicate 8 1) 0,
      .sol 0 0 [(List.replicate 8 0, List.replicate 8 0)], .eol 0 [List.replicate 8 0], .flow 0 (List.replicate 8 0),
      .reply 0 (List.replicate 8 0), .pushHdr 63 4 0, .evtFire 0x0A 255, .hrpriWrite 4 (2 ^ 64 - 1), .eyeScan 0 64 64,
      .neigh .chu (mkFrame 5 0x8140 0 [1, 2]), .ping (asked 1 []), .pmAlert (List.replicate 8 0), .ageMeasure 31 100 0, .wfi 0],
      wellFormed c = true := by decide

/-! ### Single steps and helpers, with values worked out by hand or known -/

/-- The table gives its rows no bits, so no word spells a command. -/
theorem test_decodeTableWord : decodeTableWord 0 0 = none ∧ decodeTableWord 32 5 = none := ⟨rfl, rfl⟩

/-- The well-known check values of the CRCs, over the text 123456789. -/
theorem test_crc_check_values :
    crc32c ((List.range 9).map (fun i => BitVec.ofNat 8 (0x31 + i))) = 0xE3069283 ∧
    crc16 ((List.range 9).map (fun i => BitVec.ofNat 8 (0x31 + i))) = 0x29B1 ∧
    crc8 ((List.range 9).map (fun i => BitVec.ofNat 8 (0x31 + i))) = 0xFB := by decide

/-- SHA-256 of the empty text begins E3 B0 C4 42 (FIPS 180-4's known value). -/
theorem test_sha256 : (sha256 []).take 4 = [0xE3, 0xB0, 0xC4, 0x42] := by decide

/-- Forward edges A then B count up; a double change counts nothing and sets QERR (R31). -/
theorem test_acceptedEdge_forward :
    leads (.acceptedEdge 0 true false 100) (unit (quadOn 0))
      (fun t => (t.dev.logch 0).count == 1 && ! t.dev.on (F.LOGn_FLAG_QERR 0)) = true := by decide
theorem test_acceptedEdge_double :
    leads (.acceptedEdge 0 true true 100) (unit (quadOn 0))
      (fun t => (t.dev.logch 0).count == 0 && t.dev.on (F.LOGn_FLAG_QERR 0) && t.dev.val (F.LOGn_QERR_CNT 0) == 1) = true := by
  decide

/-- A byte written through a core port lands at its address, and LO_READ reads the word (R2). -/
theorem test_memory_write_then_read :
    leads (.registerWrite 0 0x10000003 1 0xAB .plain .good) State.reset (fun t =>
      leads (.loRead 0 0x10000000 4 .plain .good) t (fun u => u.dev.rdata == 0xAB000000)) = true := by decide

/-- A misaligned write is refused and its address kept (R2). -/
theorem test_misaligned :
    leads (.registerWrite 0 0x40000002 4 0 .plain .good) State.reset (fun t =>
      t.dev.on F.SYS_FLAG_ACCESS_ERR && t.dev.val F.SYS_ERR_ADDR == 0x40000002) = true := by decide

/-- A soft reset leaves cause bit 2 (R295). -/
theorem test_softReset :
    leads (.softReset 0x52A5) (unit [(F.SYS_RST_CAUSE, 0)]) (fun t => t.dev.val F.SYS_RST_CAUSE == 4) = true := by decide

/-- A publication on an enabled channel is due in the next cycle (R274). -/
theorem test_evtFire :
    leads (.evtFire 3 255) (channel [(F.EVT_CHk_CFG_EN 255, 1)] {}) (fun t => (t.dev.evch 255).pend == some (101, 3)) = true := by
  decide

/-- MRET in machine mode returns to mepc and pops the priority stack (R270). -/
theorem test_mret :
    leads (.mret 4) (helm [] { openCore with mepc := 0x4242, hpstk := 0x7 }) (fun t =>
      (t.dev.core 4).pc == 0x4242 && rpri (t.dev.core 4) == 7 && depth (t.dev.core 4) == 0) = true := by decide

/-- A PING from the port is answered with status OK under its own tag (R312, R313). -/
theorem test_ping :
    leads (.ping (asked 1 [])) (served []) (fun t =>
      match t.dev.out with
      | [.port b] => b.take 4 == [0x81, 7, 0x43, 0x01] && leAt b 8 1 == 0
      | _ => false) = true := by decide

/-- An ENUM with COUNT 9 of segment 5 makes a unit hop 9 (R306). -/
theorem test_enum :
    leads (.enum .chu (mkFrame 3 0x8140 0 [enumWord 4 9 5 64])) (onChain []) (fun t => t.dev.val F.CHN_ADDR == 64 * 5 + 9) = true := by
  decide

/-- An Almanac tick carries at 32,768 (R345). -/
theorem test_almanacTick :
    leads .almanacTick (logged [] {} { sec := 5, sub := 32767 }) (fun t => t.dev.alm.sec == 6 && t.dev.alm.sub == 0) = true := by
  decide

/-- Engine 3 codes a row of 20 samples and reads the same samples back into SRAM (R203 to R209). -/
theorem test_codec_round_trip :
    leads (.decodeJobEnd 3) (engineOn [(F.CDC_En_STAT_BUSY 3, 1)] (cellsOf 0x10001000 coded)
      { desc := 0x10000000, job := some (aJob 1 8 coded.length) }) (fun t => t.bytes 0x10002000 20 == List.replicate 20 0) = true := by
  decide

end Sys2Proof.Tests
end

/-! PROOFS. The queue of commands and the canonical memories (00_scope.md): what a step does to the queue, that no
meaning looks at the queue, and that commands over the block alone leave memory and flash. -/
section
namespace Sys2Proof.Machine

/-- The state with another queue of commands. -/
def State.withPending (s : State) (p : List Instr) : State := { s with pending := p }

/-- A meaning answers a next state, leaves the queue, and never looks at it. -/
def QueueBlind (g : State → Host.Outcome State Fault Refusal) : Prop :=
  ∀ s, ∃ t, g s = .next t ∧ t.pending = s.pending ∧ ∀ p, g (s.withPending p) = .next (t.withPending p)

theorem onDev_queueBlind (f : Dev → Dev) : QueueBlind (onDev f) := fun _ => ⟨_, rfl, rfl, fun _ => rfl⟩

theorem onWork_queueBlind (f : Work → Work) : QueueBlind (onWork f) := fun _ => ⟨_, rfl, rfl, fun _ => rfl⟩

/-- No command's meaning looks at the queue: each is one function of the block, or of the block and its memories. -/
theorem exec_queueBlind (c : Instr) : QueueBlind (exec c) := by
  intro s
  unfold exec
  cases c with
  | registerWrite | loRead | loWrite | hiWrite | shadowWrite | abort | itemTake | chartRow | cdcStart | codingJobEnd
  | decodeJobEnd | tapLost | dramRequest | refresh | freqDone | dmaStart | poll | burst | descriptorDone |
  eventDelivery | powerGood | standbyRequest | loadRequest | inspectRequest | serviceRequest | modeDone | wake |
  alwaysOnLoss | por | pinReset | softReset | sysWdogExpiry | pgLoss | therm | nvDone | pdOffWrite | svcFwd |
  relayCommand | ping | read | write | status | reset | setAddress | stage | activate | scheduleActivate | confirm |
  fallback | eraseCal | raiseEpoch | scheduledActivation | rollingReload | logRecordWrite | codecSelfTest |
  almanacTick =>
    exact onWork_queueBlind _ s
  | blockDisable | drainComplete | acceptedEdge | standstill | ssiRead | ssiFrameEnd | indexLatch | speedWindowEnd |
  speedRead | driftHistRead | logScaleWrite | compareHit | ticksBetweenCounts | effectiveInstant | triggerSymbol |
  triggerDisable | triggerAbort | strobeStart | strobeEnd | beaconLaunch | beacon | beaconLost | frozen |
  posPayloadSend | extrapolation | filterOutput | noSignal | lampSignalReturn | switch | coefDataWrite |
  presetChange | laneBringUp | adaptRetry | eyeScan | eyeLow | pstateRequest | pstateEntry | invalidSyncHeader |
  lockLost | marker | markerAbsent | sol | payloadWord | eol | blkErr | flow | reply | go | bcastFrameEnd | timeout
  | xoff | xon | lineEndTimeout | portDisable | portAbort | contextEnable | grant | statsRecordWrite |
  contextDisable | contextAbort | blkFixedWrite | commit | foregroundBit | tblDataAccess | late |
  staggerWriteTimeout | ovlWrite | resSwap | stcTblDataAccess | rowLabel | seamMerge | seam | seamLate | streamMove
  | sliceMove | forcedMove | migDrained | migTimeout | reorderRelease | recordEmit | treeSwap | treeNodeWrite |
  segDisable | segAbort | headEnable | recordRead | lineLoad | loadComplete | headDisable | headAbort | getId |
  challenge | decrement | cartridgeTimeout | reauth | authRetry | cdcFlush | tapEnable | netLinkChange |
  uncorrectableCodeword | frameReceive | pos | datagramSend | fixHoldExpiry | launchTime | flowDisable | flowAbort |
  sync | followUp | announce | delayReq | delayResp | pdelayReq | pdelayResp | syncTimeout | pathHoldEnd |
  asymSuspect | chainSample | selWrite | frequencyChange | queueEnable | pushHdr | pushData | popHdr | popData |
  writeStallRelease | queueFlush | queueDisable | dmaDisable | offer | acceptance | mret | wfi | moderationEnd |
  hrpriWrite | timerInterrupt | wdog | runWrite | coreReset | spareWrite | stormWindowEnd | evtFire | channelEnable
  | swiSet | reload | holdEntry | holdExit | junctionCooled | vddutpChange | nvRead | nvProgram | nvErase | pgood |
  pgTimeout | pgRetry | pmAlert | avsUpdate | chainLinkChange | enumeration | enum | enumChdWait | noAddr | enumAck
  | neigh | probe | svcRsp | presLost | noUnit | svcFramePause | presence | sramScrubPass | dramScrubPass | logCmd |
  telemetry | teleDrop | pipeLoad | pipeDone | ageMeasure | meridianSet | almSetCommit | sealPulse | vbatMeasure |
  timeLost =>
    exact onDev_queueBlind _ s

theorem step_nil {s : State} (h : s.pending = []) : step s = tick s := by simp [step, h]

theorem step_cons (c : Instr) (p : List Instr) (s : State) : step (s.withPending (c :: p)) = exec c (s.withPending p) := rfl

/-- A run of one step more, whose first step answers a next state. -/
theorem run_succ_of_step (M : Host.Core) {k : Nat} {s t : M.State} (h : M.step s = .next t) :
    M.run (k + 1) s = M.run k t := by
  simp only [Host.Core.run, h]

/-- Settles O3, by induction on the commands put in front of the queue. -/
theorem queueIsServedInOrder : Obligations.QueueIsServedInOrder := by
  intro cs rest s
  induction cs generalizing s with
  | nil => exact ⟨s.withPending rest, rfl, rfl, rfl⟩
  | cons c cs ih =>
    obtain ⟨t, -, -, ht⟩ := exec_queueBlind c s
    obtain ⟨u, hrun, hrest, hfold⟩ := ih t
    refine ⟨u, ?_, hrest, ?_⟩
    · exact (run_succ_of_step Sys2Proof.core (s := s.withPending (c :: (cs ++ rest))) (ht (cs ++ rest))).trans hrun
    · show cs.foldl _ (exec c (s.withPending rest)) = _
      rw [ht rest]
      exact hfold

/-- Settles O4: a command has one of two shapes, a passing cycle has the second, and both keep the canonical form. -/
theorem stepKeepsMemoriesCanonical : Obligations.StepKeepsMemoriesCanonical := by
  intro s t hs hstep
  cases hp : s.pending with
  | nil =>
    rw [step_nil hp] at hstep
    exact onWork_canonical hstep hs
  | cons c rest =>
    have hexec : exec c (s.withPending rest) = .next t := by
      rw [← step_cons, ← hp]
      exact hstep
    have hs' : (s.withPending rest).canonical := hs
    obtain ⟨f, hf⟩ | ⟨f, hf⟩ := exec_shape c (s.withPending rest)
    · exact onDev_canonical (hf ▸ hexec) hs'
    · exact onWork_canonical (hf ▸ hexec) hs'

/-- Settles O7: each of these commands is a function of the block alone. -/
theorem deviceCommandsKeepTheMemories : Obligations.DeviceCommandsKeepTheMemories := by
  intro s t n q h p i k bad
  simp only [List.forall_mem_cons, List.not_mem_nil, false_implies, implies_true, and_true]
  unfold exec
  dsimp only
  and_intros
  all_goals exact onDev_sameStores

/-! ### A passing cycle (R11, R225) -/

@[simp] theorem Dev.reach_now (d : Dev) (t : Nat) : (d.reach t).now = max d.now t := by
  unfold Dev.reach
  split
  · exact (Nat.max_eq_left ‹_›).symm
  · exact (Nat.max_eq_right (Nat.le_of_not_le ‹_›)).symm

/-- The clock moved on changes no register but the device time. -/
theorem Dev.reg_reach_ne (d : Dev) (t : Nat) {a : Nat} (h : ¬ F.MER_TIME.At a) : (d.reach t).reg a = d.reg a := by
  unfold Dev.reach
  split
  · rfl
  · exact (Dev.reg_of_regs rfl a).trans (d.reg_puti_ne h _)

/-- The work of a passing cycle where no request pends at the DRAM controller and no service command ends. -/
theorem Work.tick_eq {w : Work} (hpend : ((w.dev.reach (w.dev.now + 4)).settle).drc.pend = [])
    (hrun : ((w.dev.reach (w.dev.now + 4)).settle).svc.run = none) :
    w.tick = w.on (fun d => (d.reach (d.now + 4)).settle) := by
  unfold Work.tick
  simp only [Work.on, hpend, List.isEmpty_nil, if_true, Work.svcFinish, hrun]

/-- Settles O2: the cycle is a command over the block alone, which moves its clock on and settles it. -/
theorem emptyQueueLetsOneCyclePass : Obligations.EmptyQueueLetsOneCyclePass := by
  intro s hp _ _ hrun hpend
  have hbegin : (Work.begin s).dev = s.quietened.dev := rfl
  have hnow : s.quietened.dev.now = s.dev.now := rfl
  have htick : (Work.begin s).tick = (Work.begin s).on (fun d => (d.reach (d.now + 4)).settle) :=
    Work.tick_eq (by rw [hbegin, hnow]; exact hpend) (by rw [hbegin, hnow]; exact hrun)
  have hstep : step s = onDev (fun d => (d.reach (d.now + 4)).settle) s := by
    rw [step_nil hp]
    exact onWork_eq_onDev htick
  have hnext : step s = .next { s with dev := (s.quietened.dev.reach (s.dev.now + 4)).settle } := by
    rw [hstep, onDev_eq]
    rfl
  have hstores := onDev_sameStores (hstep.symm.trans hnext)
  generalize (s.quietened.dev.reach (s.dev.now + 4)).settle = e at hnext hstores ⊢
  refine ⟨_, hnext, rfl, hstores, fun hquiet => ?_⟩
  dsimp only
  rw [hquiet]
  refine ⟨?_, ?_, ?_, ?_, ?_⟩
  · simp [State.quietened]
  · intro a ha _
    exact Dev.reg_reach_ne _ _ (ha _ (List.mem_singleton_self _))
  all_goals simp [State.quietened]

end Sys2Proof.Machine
end

/-! PROOFS. Accesses to the peripheral windows (R2 to R5, R262): what a port's access comes to once the protection of its
core passes it, and what each kind of register does with it. -/
section
namespace Sys2Proof.Machine

/-! ### A port's access to a peripheral window -/

/-- A command over the memories depends on what it makes of the state it begins with alone. -/
theorem onWork_congr {f g : Work → Work} {s : State} (h : f (Work.begin s) = g (Work.begin s)) : onWork f s = onWork g s := by
  rw [onWork_eq, onWork_eq, h]

/-- A command over the block alone, on the block as a command finds it. -/
theorem onDev_next (f : Dev → Dev) (s : State) : onDev f s = .next { s with dev := f s.quietened.dev } := rfl

theorem State.sameStores_of_dev (s : State) (d : Dev) : s.sameStores { s with dev := d } := ⟨rfl, fun _ => rfl, fun _ => rfl⟩

theorem exec_registerWrite_eq (p a n : Nat) (v : BitVec 64) (k : WriteKind) (c : TcmCheck) (s : State) :
    exec (.registerWrite p a n v k c) s = onWork (fun w => w.portWrite p a n v k c) s := rfl

theorem exec_loRead_eq (p a n : Nat) (k : ReadKind) (c : TcmCheck) (s : State) :
    exec (.loRead p a n k c) s = onWork (fun w => w.portRead p a n k c) s := rfl

theorem Dev.place_peri (d : Dev) {a : Nat} (h1 : 0x40000000 ≤ a) (h2 : a < 0x40410000) : d.place a = .peri := by
  unfold Dev.place
  rw [if_neg (by omega), if_neg (by omega), if_neg (by omega), if_pos ⟨h1, h2⟩]

theorem Dev.tcmShow_peri {d : Dev} {a : Nat} (h : d.place a = .peri) (tcm : TcmCheck) : d.tcmShow a tcm = d := by
  simp [Dev.tcmShow, h, Place.tcm]

/-- A range inside the peripheral windows is all of that place. -/
theorem Dev.rangeOk_peri (d : Dev) {ok : Place → Bool} {a n : Nat} (hok : ok .peri = true) (h0 : 0 < n)
    (h1 : 0x40000000 ≤ a) (h2 : a + n ≤ 0x40410000) : d.rangeOk ok a n = true := by
  have hlast : d.place (a + n - 1) = .peri := d.place_peri (by omega) (by omega)
  have hall : ∀ i < (n + 4095) / 4096, ok (d.place (a + 4096 * i)) = true := by
    intro i hi
    rw [d.place_peri (by omega) (by omega), hok]
  simp only [Dev.rangeOk, hlast, hok, Bool.and_true, Bool.and_eq_true, bne_iff_ne, List.all_eq_true, List.mem_range]
  exact ⟨by omega, hall⟩

theorem Dev.accessFault_peri (d : Dev) {h a n : Nat} {u : Use} (tcm : TcmCheck) (hu : u.ok .peri = true)
    (hp : (d.core h).pmpOk u a n = true) (h0 : 0 < n) (h1 : 0x40000000 ≤ a) (h2 : a + n ≤ 0x40410000) :
    d.accessFault h u a n tcm = (d, none) := by
  have hplace : d.place a = .peri := d.place_peri h1 (by omega)
  simp [Dev.accessFault, hp, Dev.unaligned, hplace, d.rangeOk_peri hu h0 h1 h2, Place.tcm]

/-- A load or store that its core's protection passes is carried out in the peripheral windows (R262). -/
theorem Work.access_peri {w : Work} {port a n : Nat} {u : Use} (tcm : TcmCheck) (go : Work → Work)
    (hu : u.ok .peri = true) (hp : w.dev.passes port u a n = true) (h0 : 0 < n) (h1 : 0x40000000 ≤ a)
    (h2 : a + n ≤ 0x40410000) : w.access port u a n tcm go = go w := by
  have hshow : w.on (fun d => d.tcmShow a tcm) = w := by
    simp only [Work.on, Dev.tcmShow_peri (w.dev.place_peri h1 (by omega))]
  by_cases hport : 5 ≤ port
  · simp [Work.access, hport, hshow]
  · have hpmp : (w.dev.core port).pmpOk u a n = true := by simpa [Dev.passes, hport] using hp
    have hsame : w.on (fun _ => w.dev) = w := rfl
    simp [Work.access, hport, w.dev.accessFault_peri tcm hu hpmp h0 h1 h2, hshow, hsame]

section
variable {s : State} {a n w : Nat}

/-- A store to the peripheral windows reaches the bus. -/
theorem exec_registerWrite_peri (v : BitVec 64) (h0 : 0 < n) (h1 : 0x40000000 ≤ a) (h2 : a + n ≤ 0x40410000)
    (hp : s.dev.passes w .store a n = true) :
    exec (.registerWrite w a n v .plain .good) s = onWork (fun k => k.busWrite w a n v) s := by
  have hp' : (Work.begin s).dev.passes w .store a n = true := hp
  rw [exec_registerWrite_eq]
  refine onWork_congr ?_
  simp only [Work.portWrite, Work.access_peri .good _ rfl hp' h0 h1 h2]

/-- A load from the peripheral windows reaches the bus. -/
theorem exec_loRead_peri (h0 : 0 < n) (h1 : 0x40000000 ≤ a) (h2 : a + n ≤ 0x40410000)
    (hp : s.dev.passes w .load a n = true) :
    exec (.loRead w a n .plain .good) s = onWork (fun k => k.busRead a n) s := by
  have hp' : (Work.begin s).dev.passes w .load a n = true := hp
  rw [exec_loRead_eq]
  refine onWork_congr ?_
  simp only [Work.portRead, Work.access_peri .good _ rfl hp' h0 h1 h2]

/-- An aligned 32-bit store to the peripheral windows. -/
theorem exec_registerWrite_word (v : BitVec 64) (h1 : 0x40000000 ≤ a) (h2 : a < 0x40410000) (ha : a % 4 = 0)
    (hp : s.dev.passes w .store a 4 = true) :
    exec (.registerWrite w a 4 v .plain .good) s = onWork (fun k => k.write32 w a (v.setWidth 32)) s := by
  rw [exec_registerWrite_peri v (by omega) h1 (by omega) hp]
  exact onWork_congr (by simp [Work.busWrite, Dev.place_peri _ h1 h2, ha])

/-- An aligned 32-bit load from the peripheral windows. -/
theorem exec_loRead_word (h1 : 0x40000000 ≤ a) (h2 : a < 0x40410000) (ha : a % 4 = 0)
    (hp : s.dev.passes w .load a 4 = true) :
    exec (.loRead w a 4 .plain .good) s = onDev (fun d => d.readReg a) s := by
  rw [exec_loRead_peri (by omega) h1 (by omega) hp]
  exact onWork_eq_onDev (by simp [Work.busRead, Dev.place_peri _ h1 h2, ha])

/-- A store to the peripheral windows that is no aligned 32-bit one is refused and reported (R2). -/
theorem exec_registerWrite_bad (v : BitVec 64) (h0 : 0 < n) (h1 : 0x40000000 ≤ a) (h2 : a + n ≤ 0x40410000)
    (hbad : ¬ (n = 4 ∧ a % 4 = 0)) (hp : s.dev.passes w .store a n = true) :
    exec (.registerWrite w a n v .plain .good) s = onDev (fun d => d.accessErr a) s := by
  rw [exec_registerWrite_peri v h0 h1 h2 hp]
  exact onWork_eq_onDev (by simp [Work.busWrite, Dev.place_peri _ h1 (by omega : a < 0x40410000), hbad])

/-- A load from the peripheral windows that is no aligned 32-bit one answers 0 and is reported (R2). -/
theorem exec_loRead_bad (h0 : 0 < n) (h1 : 0x40000000 ≤ a) (h2 : a + n ≤ 0x40410000)
    (hbad : ¬ (n = 4 ∧ a % 4 = 0)) (hp : s.dev.passes w .load a n = true) :
    exec (.loRead w a n .plain .good) s = onDev (fun d => { d.accessErr a with rdata := 0 }) s := by
  rw [exec_loRead_peri h0 h1 h2 hp]
  exact onWork_eq_onDev (by simp [Work.busRead, Dev.place_peri _ h1 (by omega : a < 0x40410000), hbad])

end

/-- Settles O9: both accesses come to the access error, whose effect `Dev.accessErr_does` says. -/
theorem badAccessesAreReported : Obligations.BadAccessesAreReported := by
  intro s a n w v h1 h2 h0 hbad hload hstore
  obtain ⟨hflag, haddr, hcnt, hregs⟩ := s.quietened.dev.accessErr_does a (by omega)
  constructor
  · rw [exec_loRead_bad h0 h1 h2 hbad hload, onDev_next]
    exact ⟨_, rfl, rfl, hflag, haddr, hcnt, hregs, s.sameStores_of_dev _⟩
  · rw [exec_registerWrite_bad v h0 h1 h2 hbad hstore, onDev_next]
    exact ⟨_, rfl, hflag, haddr, hcnt, hregs, s.sameStores_of_dev _⟩

/-! ### What a register does with its access -/

theorem Work.write32_reserved {w : Work} {p a : Nat} {v : Word} (h : rowAt a = none) : w.write32 p a v = w := by
  simp [Work.write32, h]

theorem Dev.readReg_reserved {d : Dev} {a : Nat} (h : rowAt a = none) : d.readReg a = { d with rdata := 0 } := by
  simp [Dev.readReg, h]

/-- Settles O10: at a reserved offset the bus finds no register. -/
theorem reservedOffsetsIgnoreAccesses : Obligations.ReservedOffsetsIgnoreAccesses := by
  intro s a w v h1 h2 ha hrow hload hstore
  constructor
  · rw [exec_registerWrite_word v h1 h2 ha hstore, onWork_eq_onDev (g := id) (Work.write32_reserved hrow)]
    rfl
  · rw [exec_loRead_word h1 h2 ha hload, onDev_eq, Dev.readReg_reserved hrow]
    rfl

end Sys2Proof.Machine
end

/-! PROOFS. What a register takes of its write, what the 64-bit protocol does with its halves, and what a shadow does
(R2 to R4, R7, R8, R12). -/
section
namespace Sys2Proof.Machine

/-! ### A register that only stores -/

theorem andNot_zero (x : Nat) : andNot x 0 = x := by simp [andNot]

theorem halfAt_single {r : RegRow} (h : r.pair = false) (a x : Nat) : halfAt r a x = x % 2 ^ 32 := by simp [halfAt, h]

/-- A register that no write rule holds back takes its write in its RW and WO bits (R2, R3). -/
theorem Dev.plain_eq_setReg {d : Dev} {a v : Nat} {r : RegRow} (hrow : rowAt a = some r) (hpair : r.pair = false)
    (hruled : r.ruled = 0) (hw1c : r.w1c = 0) :
    d.plain a v 0 = d.setReg a (BitVec.ofNat 32 (mix (d.word a) v ((r.rw % 2 ^ 32) ||| (r.wo % 2 ^ 32)))) := by
  simp [Dev.plain, hrow, halfAt_single hpair, hruled, hw1c, Dev.ruledGate, andNot_zero]

theorem Work.write32_single {w : Work} {p a : Nat} {v : Word} {r : RegRow} (hrow : rowAt a = some r)
    (hpair : r.pair = false) : w.write32 p a v = w.writeReg p a v.toNat r.hand := by
  simp [Work.write32, hrow, hpair]

theorem setWidth_setWidth_word (v : Word) : (v.setWidth 64).setWidth 32 = v := by
  simp

/-- Settles O11: with no effect of its own the write comes to `Dev.plain`. -/
theorem plainRegisterTakesItsWrite : Obligations.PlainRegisterTakesItsWrite := by
  intro s a w v r h1 h2 ha hrow hpair hhand hruled hw1c hpass hsettle hmem hacts
  have hbegin : (Work.begin s).dev = s.quietened.dev := rfl
  have hmem' : (Work.begin s).writeMem a v.toNat = none := hmem
  have hwork : (Work.begin s).write32 w a v = (Work.begin s).on (fun d => d.plain a v.toNat 0) := by
    have hsame : (Work.begin s).on (fun d => d.settleAt a) = Work.begin s := by
      simp only [Work.on, hbegin, hsettle]
      rfl
    simp only [Work.write32_single hrow hpair, Work.writeReg, hhand, hsame, hmem', Bool.false_eq_true, if_false]
    simp only [Work.on, hbegin, hacts]
  rw [exec_registerWrite_word _ h1 h2 ha hpass, setWidth_setWidth_word, onWork_eq_onDev hwork, onDev_next]
  refine ⟨_, rfl, ?_, ?_, s.sameStores_of_dev _⟩
  · rw [Dev.plain_eq_setReg hrow hpair hruled hw1c, Dev.reg_setReg_self]
    rfl
  · intro b hb
    rw [Dev.plain_eq_setReg hrow hpair hruled hw1c, Dev.reg_setReg_ne _ (Ne.symm hb)]
    rfl

/-! ### The halves of a 64-bit register (R4) -/

theorem Dev.wideFree_of_regs {d e : Dev} (h : e.regs = d.regs) (lo : Nat) : e.wideFree lo = d.wideFree lo := by
  have hval : ∀ f, e.val f = d.val f := Dev.val_of_regs h
  simp only [Dev.wideFree, Dev.descFree, Dev.tapFree, Dev.dmaState, Dev.on, hval]

/-- Whether a read acts is a matter of its address. -/
theorem Dev.readActs_none_iff (d e : Dev) (a : Nat) : d.readActs a = none ↔ e.readActs a = none := by
  unfold Dev.readActs
  split
  · simp
  · simp
  · split <;> simp
  · split <;> simp

/-- A read of a _LO that opens, pops and advances nothing answers it and latches its _HI. -/
theorem Dev.readReg_lo {d : Dev} {lo : Nat} {r : RegRow} (hrow : rowAt lo = some r) (hpair : r.pair = true)
    (hlo : isUpper r.insts (lo - r.base) = false) (hacts : d.readActs lo = none) :
    d.readReg lo = { d.readPrep lo with
      rdata := BitVec.ofNat 32 (andNot ((d.readPrep lo).word lo) (r.wo % 2 ^ 32))
      hi := tabSet 0 (d.readPrep lo).hi lo (BitVec.ofNat 32 (andNot ((d.readPrep lo).word (lo + 4)) (r.wo / 2 ^ 32))) } := by
  simp only [Dev.readReg, hrow, hpair, hlo, hacts, Bool.and_false, Bool.false_eq_true, if_false, if_true]
  rfl

/-- A read of a _HI answers what the last read of its _LO latched. -/
theorem Dev.readReg_hi {d : Dev} {lo : Nat} {r : RegRow} (hrow : rowAt (lo + 4) = some r) (hpair : r.pair = true)
    (hhi : isUpper r.insts (lo + 4 - r.base) = true) :
    d.readReg (lo + 4) = { d with rdata := tabGet 0 d.hi lo } := by
  simp [Dev.readReg, hrow, hpair, hhi]

/-- A write of a _LO that takes writes now stages the half. -/
theorem Work.write32_lo {w : Work} {p lo : Nat} {v : Word} {r : RegRow} (hrow : rowAt lo = some r) (hpair : r.pair = true)
    (hlo : isUpper r.insts (lo - r.base) = false) (htakes : r.rw ||| r.wo ≠ 0) (hfree : w.dev.wideFree lo = true)
    (hruled : r.ruled = 0) : w.write32 p lo v = w.on (fun d => d.stage lo v) := by
  have hwrite : w.dev.writeLo lo v = w.dev.stage lo v := by
    simp [Dev.writeLo, hrow, htakes, hfree, hruled]
  simp [Work.write32, hrow, hpair, hlo, Work.on, hwrite]

/-- A write of a _HI whose commit does no more than store commits both halves. -/
theorem Work.write32_hi {w : Work} {p lo : Nat} {v : Word} {r : RegRow} (hrow : rowAt (lo + 4) = some r)
    (hpair : r.pair = true) (hhi : isUpper r.insts (lo + 4 - r.base) = true) (hfree : w.dev.wideFree lo = true)
    (hpd : lo ≠ R.PWR_PD_OFF) (hacts : w.dev.wideActs lo v = none) :
    w.write32 p (lo + 4) v = w.on (fun d => (d.commit64 lo (d.joined lo v)).unstage lo) := by
  simp [Work.write32, hrow, hpair, hhi, Work.writeHi, hfree, hpd, Work.on, hacts]

theorem Dev.joined_lo (d : Dev) (lo : Nat) (v : Word) : (d.joined lo v).extractLsb' 0 32 = d.lower lo (d.reg lo) := by
  unfold Dev.joined
  rw [BitVec.extractLsb'_append_eq_right]

theorem Dev.joined_hi (d : Dev) (lo : Nat) (v : Word) : (d.joined lo v).extractLsb' 32 32 = v := by
  unfold Dev.joined
  rw [BitVec.extractLsb'_append_eq_left]

/-- Two halves committed under no write rule enter the bits that take writes (R4). -/
theorem Dev.commit64_eq {d : Dev} {lo : Nat} {v : BitVec 64} {r : RegRow} (hrow : rowAt lo = some r) (hruled : r.ruled = 0) :
    d.commit64 lo v =
      (d.setReg lo (BitVec.ofNat 32 (mix (d.word lo) (v.extractLsb' 0 32).toNat ((r.rw ||| r.wo) % 2 ^ 32)))).setReg (lo + 4)
        (BitVec.ofNat 32 (mix (d.word (lo + 4)) (v.extractLsb' 32 32).toNat ((r.rw ||| r.wo) / 2 ^ 32))) := by
  have hne : lo ≠ lo + 4 := by omega
  simp [Dev.commit64, hrow, hruled, Dev.ruledGate, Dev.word, Dev.reg_setReg_ne _ hne]

@[simp] theorem Dev.staged_unstage_self (d : Dev) (lo : Nat) : tabGet 0 (d.unstage lo).staged lo = 0 := by
  simp [Dev.unstage, tabGet_erase]

@[simp] theorem Dev.reg_unstage (d : Dev) (lo a : Nat) : (d.unstage lo).reg a = d.reg a := rfl

@[simp] theorem Dev.staged_stage_self (d : Dev) (lo : Nat) (v : Word) : tabGet 0 (d.stage lo v).staged lo = v.toNat + 1 := by
  simp [Dev.stage]

@[simp] theorem Dev.reg_stage (d : Dev) (lo a : Nat) (v : Word) : (d.stage lo v).reg a = d.reg a := rfl

theorem exec_loWrite_eq (p a : Nat) (v : Word) (s : State) :
    exec (.loWrite p a v) s = exec (.registerWrite p a 4 (v.setWidth 64) .plain .good) s := rfl

theorem exec_hiWrite_eq (p a : Nat) (v : Word) (s : State) :
    exec (.hiWrite p a v) s = exec (.registerWrite p a 4 (v.setWidth 64) .plain .good) s := rfl

theorem exec_shadowWrite_eq (p a : Nat) (v : Word) (s : State) :
    exec (.shadowWrite p a v) s = exec (.registerWrite p a 4 (v.setWidth 64) .plain .good) s := rfl

/-- Settles O8: each of the four accesses comes to one function of the block. -/
theorem sixtyFourBitProtocol : Obligations.SixtyFourBitProtocol := by
  intro s lo r v w h1 h2 halign hrow hrow' hpair hlo hhi hpass
  have hload : ∀ a ∈ [lo, lo + 4], s.dev.passes w .load a 4 = true := hpass .load (by simp)
  have hstore : ∀ a ∈ [lo, lo + 4], s.dev.passes w .store a 4 = true := hpass .store (by simp)
  have hfree' : s.dev.wideFree lo = true → (Work.begin s).dev.wideFree lo = true := fun h =>
    (Dev.wideFree_of_regs (d := s.dev) rfl lo).trans h
  refine ⟨fun hacts => ?_, ?_, rfl, fun htakes hfree hruled => ?_, fun hfree hruled hpd hacts => ?_⟩
  · rw [exec_loRead_word h1 (by omega) halign (hload lo (by simp)), onDev_next,
      Dev.readReg_lo hrow hpair hlo ((Dev.readActs_none_iff _ _ lo).mp hacts)]
    refine ⟨_, rfl, rfl, ?_, s.sameStores_of_dev _⟩
    exact tabGet_set_self (0 : Word) _ lo _
  · rw [exec_loRead_word (by omega) h2 (by omega) (hload (lo + 4) (by simp)), onDev_next, Dev.readReg_hi hrow' hpair hhi]
    exact ⟨_, rfl, rfl, s.sameStores_of_dev _⟩
  · rw [exec_loWrite_eq, exec_registerWrite_word _ h1 (by omega) halign (hstore lo (by simp)), setWidth_setWidth_word,
      onWork_eq_onDev (Work.write32_lo hrow hpair hlo htakes (hfree' hfree) hruled), onDev_next]
    exact ⟨_, rfl, Dev.staged_stage_self _ _ _, fun a => rfl, s.sameStores_of_dev _⟩
  · rw [exec_hiWrite_eq, exec_registerWrite_word _ (by omega) h2 (by omega) (hstore (lo + 4) (by simp)),
      setWidth_setWidth_word, onWork_eq_onDev (Work.write32_hi hrow' hpair hhi (hfree' hfree) hpd hacts), onDev_next]
    refine ⟨_, rfl, ?_, ?_, Dev.staged_unstage_self _ _, fun a ha ha' => ?_, s.sameStores_of_dev _⟩
    all_goals dsimp only; rw [Dev.reg_unstage, Dev.commit64_eq hrow hruled]
    · rw [Dev.reg_setReg_ne _ (by omega), Dev.reg_setReg_self, Dev.joined_lo]
      rfl
    · rw [Dev.reg_setReg_self, Dev.joined_hi]
      rfl
    · rw [Dev.reg_setReg_ne _ (Ne.symm ha'), Dev.reg_setReg_ne _ (Ne.symm ha)]
      rfl

/-! ### Shadows (R7, R8) -/

/-- The map has a single register at this word address of the peripheral windows, a shadow whose bits are all RW and
under no write rule; the bit lies in another register. -/
def storesAsShadow (a : Nat) (pend : Fld) : Bool :=
  decide (0x40000000 ≤ a ∧ a < 0x40410000 ∧ a % 4 = 0 ∧ pend.len = 1 ∧ pend.lo < 32 ∧ pend.addr ≠ a) &&
    (rowAt a).all (fun r => ! r.pair && isShadow r.hand && r.ruled == 0 && r.w1c == 0 && r.wo == 0)

theorem ShadowAt.stores {a : Nat} {pend : Fld} (h : ShadowAt a pend) : storesAsShadow a pend = true := by
  obtain ⟨c, ha, rfl⟩ | ⟨s, ha, rfl⟩ | ⟨n, m, ha, rfl⟩ | ⟨s, ha, rfl⟩ | ⟨s, ha, rfl⟩ | ⟨n, ha, rfl⟩ | ⟨f, ha, rfl⟩ := h
  · subst ha; decide +revert
  · obtain rfl | rfl := ha <;> decide +revert
  · obtain rfl | rfl := ha <;> decide +revert
  · obtain rfl | rfl | rfl := ha <;> decide +revert
  · obtain rfl | rfl := ha <;> decide +revert
  · obtain rfl | rfl | rfl | rfl | rfl | rfl | rfl := ha <;> decide +revert
  · obtain rfl | rfl | rfl | rfl := ha <;> decide +revert

section
variable (d : Dev) {a c : Nat}

/-! The block that a shadow's address spells. -/

theorem Dev.shadowPend_flt (hw : a / 0x10000 = 0x400D ∧ (a - R.FLTc_CTRL 0) / 0x40 = c) :
    d.shadowPend a = d.mark (F.FLTc_STAT_SHADOW_PEND c) true := by
  simp only [Dev.shadowPend, hw.1, hw.2]

theorem Dev.shadowPend_slk (hw : a / 0x10000 = 0x4012 ∧ (a - R.SLK_Ss_LINE_SH 0) / 0x80 = c) :
    d.shadowPend a = d.mark (F.SLK_Ss_STAT_SHADOW_PEND c) true := by
  simp only [Dev.shadowPend, hw.1, hw.2]

theorem Dev.shadowPend_stc (hw : a / 0x10000 = 0x4013 ∧ (a - R.STC_CAMs_CFG 0) / 0x80 = c) :
    d.shadowPend a = d.mark (F.STC_CAMs_STAT_SHADOW_PEND c) true := by
  simp only [Dev.shadowPend, hw.1, hw.2]

theorem Dev.shadowPend_seg (hw : a / 0x10000 = 0x4014 ∧ (a - R.SEG_Ss_DARK_SH 0) / 0x80 = c) :
    d.shadowPend a = d.mark (F.SEG_Ss_STAT_SHADOW_PEND c) true := by
  simp only [Dev.shadowPend, hw.1, hw.2]

theorem Dev.shadowPend_mrk (hw : a / 0x10000 = 0x400E ∧ (a - R.MRKn_CFG 0) / 0x100 = c) :
    d.shadowPend a = d.mark (F.MRKn_STAT_SHADOW_PEND c) true := by
  simp only [Dev.shadowPend, hw.1, hw.2]

theorem Dev.shadowPend_drc (hw : a / 0x10000 = 0x400A) : d.shadowPend a = d.mark F.DRC_STAT_SHADOW_PEND true := by
  simp only [Dev.shadowPend, hw]

/-- A context keeps what its shadows wait for, by hand-over. -/
theorem Dev.shadowPend_pl {n : Fin 17} {m : Fin 4} (ha : a = R.PLn_CTXm_STATS_SH n m ∨ a = R.PLn_CTXm_COR_SH n m) :
    ∃ e : Dev, e.regs = d.regs ∧ d.shadowPend a = e.mark (F.PLn_CTXm_STAT_SHADOW_PEND n m) true := by
  have hn := n.isLt
  have hm := m.isLt
  have hwindow : a / 0x10000 = 0x4020 + n := by
    obtain rfl | rfl := ha <;> simp only [R.PLn_CTXm_STATS_SH, R.PLn_CTXm_COR_SH] <;> omega
  unfold Dev.shadowPend
  split
  iterate 6 · omega
  have hpl : a / 0x10000 - 0x4020 = n := by omega
  obtain rfl | rfl := ha
  · have hin : R.PLn_CTXm_STATS_SH n m % 0x10000 < 0x400 := by simp only [R.PLn_CTXm_STATS_SH]; omega
    have hctx : (R.PLn_CTXm_STATS_SH n m % 0x10000 - 0x100) / 0x80 = m := by simp only [R.PLn_CTXm_STATS_SH]; omega
    simp only [hpl, hin, hctx, if_true, Dev.ctxPend, Dev.ctx_setCtx, Bool.true_or]
    exact ⟨d.setCtx n m _, rfl, rfl⟩
  · have hin : ¬ R.PLn_CTXm_COR_SH n m % 0x10000 < 0x400 := by simp only [R.PLn_CTXm_COR_SH]; omega
    have hctx : (R.PLn_CTXm_COR_SH n m % 0x10000 - 0x400) / 0x100 = m := by simp only [R.PLn_CTXm_COR_SH]; omega
    simp only [hpl, hin, hctx, if_false, Dev.ctxPend, Dev.ctx_setCtx, Bool.or_true]
    exact ⟨d.setCtx n m _, rfl, rfl⟩

end

/-- A write to a shadow sets SHADOW_PEND of its block and no other bit. -/
theorem ShadowAt.marks {a : Nat} {pend : Fld} (h : ShadowAt a pend) (d : Dev) :
    ∃ e : Dev, e.regs = d.regs ∧ d.shadowPend a = e.mark pend true := by
  obtain ⟨c, ha, rfl⟩ | ⟨s, ha, rfl⟩ | ⟨n, m, ha, rfl⟩ | ⟨s, ha, rfl⟩ | ⟨s, ha, rfl⟩ | ⟨n, ha, rfl⟩ | ⟨f, ha, rfl⟩ := h
  · exact ⟨d, rfl, d.shadowPend_flt (by subst ha; decide +revert)⟩
  · exact ⟨d, rfl, d.shadowPend_slk (by obtain rfl | rfl := ha <;> decide +revert)⟩
  · exact d.shadowPend_pl ha
  · exact ⟨d, rfl, d.shadowPend_stc (by obtain rfl | rfl | rfl := ha <;> decide +revert)⟩
  · exact ⟨d, rfl, d.shadowPend_seg (by obtain rfl | rfl := ha <;> decide +revert)⟩
  · exact ⟨d, rfl, d.shadowPend_mrk (by obtain rfl | rfl | rfl | rfl | rfl | rfl | rfl := ha <;> decide +revert)⟩
  · exact ⟨d, rfl, d.shadowPend_drc (by obtain rfl | rfl | rfl | rfl := ha <;> decide +revert)⟩

/-- Settles O13: the shadow stores as its row says, then its block's SHADOW_PEND is marked. -/
theorem shadowWriteIsPending : Obligations.ShadowWriteIsPending := by
  intro s a w v pend r hsh hrow hpass
  have hstores := hsh.stores
  simp only [storesAsShadow, hrow, Option.all_some, Bool.and_eq_true, decide_eq_true_eq, Bool.not_eq_true', beq_iff_eq] at hstores
  obtain ⟨⟨h1, h2, halign, hlen, hbit, hne⟩, ⟨⟨⟨hpair, hhand⟩, hruled⟩, hw1c⟩, hwo⟩ := hstores
  have hwork : (Work.begin s).write32 w a v = (Work.begin s).on (fun d => (d.plain a v.toNat 0).shadowPend a) := by
    simp only [Work.write32_single hrow hpair, Work.writeReg, hhand, if_true]
    rfl
  rw [exec_shadowWrite_eq, exec_registerWrite_word _ h1 h2 halign hpass, setWidth_setWidth_word, onWork_eq_onDev hwork,
    onDev_next, Dev.plain_eq_setReg hrow hpair hruled hw1c]
  obtain ⟨e, hregs, hmark⟩ := hsh.marks (s.quietened.dev.setReg a (BitVec.ofNat 32
    (mix (s.quietened.dev.word a) v.toNat ((r.rw % 2 ^ 32) ||| (r.wo % 2 ^ 32)))))
  have hat : ∀ b, b ≠ pend.addr → ¬ pend.At b := by
    rintro b hb (rfl | ⟨hwide, -⟩)
    · exact hb rfl
    · omega
  rw [hmark]
  refine ⟨_, rfl, ?_, Dev.on_mark_self _ hlen hbit true, fun b hb hb' => ?_, s.sameStores_of_dev _⟩
  all_goals dsimp only
  · rw [Dev.reg_mark_ne _ (hat a (Ne.symm hne)), Dev.reg_of_regs hregs, Dev.reg_setReg_self, hwo]
    simp only [Nat.zero_mod, Nat.or_zero]
    rfl
  · rw [Dev.reg_mark_ne _ (hat b hb'), Dev.reg_of_regs hregs, Dev.reg_setReg_ne _ (Ne.symm hb)]
    rfl

/-! ### Reset values and the part's identity (R2, R12, R295, R297) -/

/-- Settles O6: the three words that differ from their tables at reset are the ones listed. -/
theorem everyRegisterReadsItsResetValue : Obligations.EveryRegisterReadsItsResetValue := by
  intro a hcause hpd hpd'
  show tabGet (resetOf a) resetRegs a = resetOf a
  simp only [resetRegs, tabGet, Ne.symm hcause, Ne.symm hpd, Ne.symm hpd', if_false]

/-- The row of SYS_ID and SYS_REV: one register, read-only. -/
def readOnlyRow (a reset : Nat) : RegRow := ⟨a, [], false, reset, 0, 0, 0, 0, 0, .none⟩

theorem rowAt_identity {a : Nat} (ha : a = R.SYS_ID ∨ a = R.SYS_REV) : ∃ v, rowAt a = some (readOnlyRow a v) := by
  obtain rfl | rfl := ha
  · exact ⟨0x4c5a6416, by decide⟩
  · exact ⟨0x4230, by decide⟩

/-- A read of SYS_ID or SYS_REV answers the word it holds and changes nothing else. -/
theorem Dev.readReg_identity {d : Dev} {a : Nat} (ha : a = R.SYS_ID ∨ a = R.SYS_REV) :
    d.readReg a = { d with rdata := d.reg a } := by
  obtain ⟨v, hrow⟩ := rowAt_identity ha
  have hacts : d.readActs a = none := by obtain rfl | rfl := ha <;> rfl
  have hprep : d.readPrep a = d := by obtain rfl | rfl := ha <;> rfl
  simp [Dev.readReg, hrow, readOnlyRow, hacts, hprep, andNot_zero, Dev.word]

/-- Settles O60: the two registers are read-only and nothing acts when they are accessed. -/
theorem identityReadsAsStated : Obligations.IdentityReadsAsStated := by
  refine ⟨by decide, by decide, by decide, by decide, fun s a ha => ⟨fun r hpass => ?_, fun w v hpass => ?_⟩⟩
  all_goals have hrange : 0x40000000 ≤ a ∧ a < 0x40410000 ∧ a % 4 = 0 := by obtain rfl | rfl := ha <;> decide
  all_goals obtain ⟨h1, h2, halign⟩ := hrange
  · rw [exec_loRead_word h1 h2 halign hpass, onDev_next, Dev.readReg_identity ha]
    exact ⟨_, rfl, rfl, s.sameStores_of_dev _, fun _ _ _ => rfl⟩
  · obtain ⟨x, hrow⟩ := rowAt_identity ha
    obtain ⟨t, ht, hself, hother, hstores⟩ := plainRegisterTakesItsWrite s a w (v.setWidth 32) _ h1 h2 halign hrow rfl rfl
      rfl rfl hpass (by obtain rfl | rfl := ha <;> rfl) (by obtain rfl | rfl := ha <;> rfl)
      (by obtain rfl | rfl := ha <;> rfl)
    rw [exec_registerWrite_word _ h1 h2 halign hpass, setWidth_setWidth_word] at ht
    refine ⟨t, (exec_registerWrite_word v h1 h2 halign hpass).trans ht, hstores, fun b _ _ => ?_⟩
    by_cases hb : b = a
    · subst hb
      rw [hself]
      simp [readOnlyRow, mix, andNot_zero, Dev.word]
    · exact hother b hb

end Sys2Proof.Machine
end

/-! PROOFS. Which registers a stop may write: how a block that stops leaves its own EN and every other register (R9,
R10, R257). -/
section
-- One lemma at a time: elaborated side by side they take more threads than the check's memory limit leaves room for.
set_option Elab.async false
namespace Sys2Proof.Machine

/-! ### What a chain of operations touches

`d.Touches W e` says that `e` comes from `d` by operations that write no register outside `W` (but those of ICU and
EVT, where a flag that rises and a publication have their effects), that add no EN to those that wait for the end of
a drain (R9), and that leave the DMA channels' records alone. Each operation of the model has one lemma; a chain of
operations is a chain of these lemmas. -/

structure Dev.Touches (W : Nat → Prop) (d e : Dev) : Prop where
  reg : ∀ a, ¬ W a → evIcu a = false → e.reg a = d.reg a
  restart : ∀ x ∈ e.restart, x ∈ d.restart
  dma : e.dma = d.dma

namespace Dev.Touches

variable {W : Nat → Prop} {d e : Dev}

theorem refl (W : Nat → Prop) (d : Dev) : d.Touches W d := ⟨fun _ _ _ => rfl, fun _ h => h, rfl⟩

theorem trans {f : Dev} (h : d.Touches W e) (g : e.Touches W f) : d.Touches W f :=
  ⟨fun a ha hq => (g.reg a ha hq).trans (h.reg a ha hq), fun x hx => h.restart x (g.restart x hx), g.dma.trans h.dma⟩

theorem mono {V : Nat → Prop} (h : d.Touches W e) (hV : ∀ a, W a → V a) : d.Touches V e :=
  ⟨fun a ha hq => h.reg a (fun hw => ha (hV a hw)) hq, h.restart, h.dma⟩

/-- Operations that write registers and event channels only. -/
theorem of_regsEvt (hr : d.RegsEvt e) (h : ∀ a, ¬ W a → evIcu a = false → e.reg a = d.reg a) : d.Touches W e :=
  ⟨h, fun _ hx => hr.keeps_restart ▸ hx, hr.keeps_dma⟩

/-- Operations that leave the registers as they are. -/
theorem of_regs (h1 : e.regs = d.regs) (h2 : e.restart = d.restart) (h3 : e.dma = d.dma) : d.Touches W e :=
  ⟨fun a _ _ => Dev.reg_of_regs h1 a, fun _ hx => h2 ▸ hx, h3⟩

theorem not_at {f : Fld} {a : Nat} (hn : (f.lo + f.len).ble 32 = true) (ha : a ≠ f.addr) : ¬ f.At a := by
  have := Nat.le_of_ble_eq_true hn
  rintro (h | ⟨h, -⟩)
  · exact ha h
  · omega

theorem put (h : d.Touches W e) {f : Fld} (hW : W f.addr) (v : Nat) (hn : (f.lo + f.len).ble 32 = true := by rfl) :
    d.Touches W (e.put f v) :=
  h.trans (of_regsEvt (e.regsEvt_put f v) fun _ ha _ => e.reg_put_ne (not_at hn fun hc => ha (by rwa [hc])) v)

/-- A field over two words (R4). -/
theorem putWide (h : d.Touches W e) {f : Fld} (hW : W f.addr) (hW' : W (f.addr + 4)) (v : Nat) :
    d.Touches W (e.put f v) := by
  refine h.trans (of_regsEvt (e.regsEvt_put f v) fun a ha _ => e.reg_put_ne ?_ v)
  rintro (rfl | ⟨-, rfl⟩)
  · exact ha hW
  · exact ha hW'

theorem mark (h : d.Touches W e) {f : Fld} (hW : W f.addr) (b : Bool) (hn : (f.lo + f.len).ble 32 = true := by rfl) :
    d.Touches W (e.mark f b) := h.put hW _ hn

theorem bump (h : d.Touches W e) {f : Fld} (hW : W f.addr) (k : Nat) (hn : (f.lo + f.len).ble 32 = true := by rfl) :
    d.Touches W (e.bump f k) := h.put hW _ hn

theorem inc (h : d.Touches W e) {f : Fld} (hW : W f.addr) (hn : (f.lo + f.len).ble 32 = true := by rfl) :
    d.Touches W (e.inc f) := h.put hW _ hn

theorem raise (h : d.Touches W e) {f : Fld} (hW : W f.addr) (hn : (f.lo + f.len).ble 32 = true := by rfl) :
    d.Touches W (e.raise f) :=
  h.trans (of_regsEvt (e.regsEvt_raise f) fun _ ha hq => e.reg_raise hq (not_at hn fun hc => ha (by rwa [hc])))

theorem raiseIf (h : d.Touches W e) {f : Fld} (hW : W f.addr) (b : Bool)
    (hn : (f.lo + f.len).ble 32 = true := by rfl) : d.Touches W (e.raiseIf b f) := by
  unfold Dev.raiseIf
  split
  · exact h.raise hW hn
  · exact h

theorem publish (h : d.Touches W e) {k : Nat} (hk : k < 256) (c : Nat) : d.Touches W (e.publish k c) :=
  h.trans (of_regsEvt (e.regsEvt_publish k c) fun _ _ hq => e.reg_publish hk hq)

theorem emit (h : d.Touches W e) (o : Out) : d.Touches W (e.emit o) := h.trans (of_regs rfl rfl rfl)

theorem stopIntake (h : d.Touches W e) {en : Fld} (hW : W en.addr) (hn : (en.lo + en.len).ble 32 = true := by rfl) :
    d.Touches W (e.stopIntake en) :=
  let g := h.mark hW false hn
  ⟨fun a ha hq => (Dev.reg_of_regs (e.regs_stopIntake en) a).trans (g.reg a ha hq),
    fun x hx => h.restart x (List.mem_of_mem_filter hx), g.dma⟩

theorem drained (h : d.Touches W e) {idle : Fld} (hW : W idle.addr) (en : Fld)
    (hn : (idle.lo + idle.len).ble 32 = true := by rfl) : d.Touches W (e.drained en idle).1 := by
  unfold Dev.drained
  split
  · refine mark (f := idle) ?_ hW false hn
    exact ⟨h.reg, fun x hx => h.restart x (List.mem_of_mem_filter hx), h.dma⟩
  · split
    · exact h
    · exact h.mark hW true hn

/-- An EN that none of the operations writes reads as it read before. -/
theorem keeps_on (h : d.Touches W e) {f : Fld} (hW : ¬ W f.addr) (hq : evIcu f.addr = false)
    (hn : (f.lo + f.len).ble 32 = true := by rfl) : e.on f = d.on f := by
  have := Nat.le_of_ble_eq_true hn
  unfold Dev.on
  rw [Dev.val_congr fun a (ha : f.At a) => ?_]
  rcases ha with rfl | ⟨h', -⟩
  · exact h.reg _ hW hq
  · omega

theorem ite {c : Prop} [Decidable c] {f : Dev} (h : d.Touches W e) (g : d.Touches W f) :
    d.Touches W (if c then e else f) := by
  split
  · exact h
  · exact g

theorem foldl {α : Type} (g : Dev → α → Dev) :
    ∀ (l : List α) {e : Dev} (_ : d.Touches W e) (_ : ∀ x ∈ l, ∀ c, Dev.Touches W c (g c x)), d.Touches W (l.foldl g e)
  | [], _, h, _ => h
  | x :: l, e, h, hg =>
    foldl g l (e := g e x) (h.trans (hg x List.mem_cons_self e)) fun y hy => hg y (List.mem_cons_of_mem x hy)

end Dev.Touches

/-! ### The queues -/

/-- The flag and the counters of a queue, and the count of statistics records of a context (R109). -/
inductive QueCnt : Nat → Prop
  | flag {q : Nat} (hq : q < 64) : QueCnt (R.QUE_Qq_FLAG q)
  | items {q : Nat} (hq : q < 64) : QueCnt (R.QUE_Qq_ITEM_CNT q)
  | refused {q : Nat} (hq : q < 64) : QueCnt (R.QUE_Qq_REFUSED_CNT q)
  | flushed {q : Nat} (hq : q < 64) : QueCnt (R.QUE_Qq_FLUSH_CNT q)
  | parity {q : Nat} (hq : q < 64) : QueCnt (R.QUE_Qq_PARITY_CNT q)
  | records {n m : Nat} (hn : n < 17) (hm : m < 4) : QueCnt (R.PLn_CTXm_STATS_CNT n m)

/-- The registers that what happens at a queue may write: those, its status, and the pins that show an ABOVE (R248). -/
inductive QueReg : Nat → Prop
  | cnt {a : Nat} (h : QueCnt a) : QueReg a
  | stat {q : Nat} (hq : q < 64) : QueReg (R.QUE_Qq_STAT q)
  | pins {w : Nat} (hw : w < 8) : QueReg (R.SYS_UTP_INw w)

/-- The windows of these registers, and where in a queue's registers they lie. -/
theorem QueReg.place {a : Nat} (h : QueReg a) : (a / 0x10000 = 0x4009 ∧ a % 0x40 ≠ 0) ∨ a / 0x10000 = 0x4000 ∨
    (0x4020 ≤ a / 0x10000 ∧ a / 0x10000 < 0x4020 + 17) := by
  cases h with
  | cnt h =>
    cases h <;> simp only [R.QUE_Qq_FLAG, R.QUE_Qq_ITEM_CNT, R.QUE_Qq_REFUSED_CNT, R.QUE_Qq_FLUSH_CNT,
      R.QUE_Qq_PARITY_CNT, R.PLn_CTXm_STATS_CNT] <;> omega
  | stat hq => simp only [R.QUE_Qq_STAT]; omega
  | pins hw => simp only [R.SYS_UTP_INw]; omega

namespace Dev.Touches

variable {d e : Dev} {q : Nat}

theorem setQueue {W : Nat → Prop} (h : d.Touches W e) (q : Nat) (x : Queue) : d.Touches W (e.setQueue q x) :=
  h.trans (of_regs rfl rfl rfl)

theorem utpRefresh {W : Nat → Prop} (h : d.Touches W e) (hW : ∀ {w}, w < 8 → W (R.SYS_UTP_INw w)) {u : Nat}
    (hu : u < 256) : d.Touches W (e.utpRefresh u) := by
  have hW : W (R.SYS_UTP_INw (u / 32)) := hW (by omega)
  have hn : Nat.ble (u % 32 + 1) 32 = true := Nat.ble_eq.mpr (by omega)
  unfold Dev.utpRefresh
  dsimp only
  split
  · exact h.put (f := ⟨R.SYS_UTP_INw (u / 32), u % 32, 1⟩) hW 0 hn
  · split
    · exact h
    · split
      · exact h
      · exact (h.mark (f := ⟨R.SYS_UTP_INw (u / 32), u % 32, 1⟩) hW _ hn).emit _

/-- A change of ABOVE reaches no register beside STAT but the pin that shows it (R248). -/
theorem queAbove_of_mark {W : Nat → Prop} (hW : ∀ {w}, w < 8 → W (R.SYS_UTP_INw w)) (d : Dev) (q : Nat) (b : Bool) :
    (d.mark (F.QUE_Qq_STAT_ABOVE q) b).Touches W (d.queAbove q b) := by
  unfold Dev.queAbove
  extract_lets e1 e2
  have h1 : e1.Touches W e1 := refl W e1
  have h2 : e1.Touches W e2 :=
    ite (ite (h1.publish (Dev.val_lt e1 (F.QUE_Qq_CFG_HI_EVC q)) _) h1)
      (ite (h1.publish (Dev.val_lt e1 (F.QUE_Qq_CFG_LO_EVC q)) _) h1)
  exact ite (h2.utpRefresh hW (Dev.val_lt e2 (F.QUE_Qq_CFG_UTP q))) h2

theorem queAbove (h : d.Touches QueReg e) (hq : q < 64) (b : Bool) : d.Touches QueReg (e.queAbove q b) :=
  (h.mark (f := F.QUE_Qq_STAT_ABOVE q) (.stat hq) b).trans (queAbove_of_mark .pins e q b)

theorem queShow (h : d.Touches QueReg e) (hq : q < 64) : d.Touches QueReg (e.queShow q) := by
  unfold Dev.queShow
  extract_lets x fill e1 e2 e3 above e4
  have h1 : d.Touches QueReg e1 := h.put (f := F.QUE_Qq_STAT_FILL q) (.stat hq) _
  have h2 : d.Touches QueReg e2 := h1.mark (f := F.QUE_Qq_STAT_FULL q) (.stat hq) _
  have h3 : d.Touches QueReg e3 := h2.mark (f := F.QUE_Qq_STAT_WRITING q) (.stat hq) _
  have h4 : d.Touches QueReg e4 := ite (h3.queAbove hq true) (ite (h3.queAbove hq false) h3)
  exact ite (h4.drained (idle := F.QUE_Qq_STAT_IDLE q) (.stat hq) _) h4

section
variable {W : Nat → Prop} (hW : ∀ {a}, QueCnt a → W a)
include hW

theorem queRefuse (h : d.Touches W e) (hq : q < 64) : d.Touches W (e.queRefuse q) :=
  (h.inc (f := F.QUE_Qq_REFUSED_CNT q) (hW (.refused hq))).raise (f := F.QUE_Qq_FLAG_REFUSED q) (hW (.flag hq))

theorem recWritten (h : d.Touches W e) (src : Nat) : d.Touches W (e.recWritten src) := by
  unfold Dev.recWritten
  split
  · rename_i hs
    simp only [statSrc] at hs
    exact h.inc (f := F.PLn_CTXm_STATS_CNT _ _) (hW (.records (by simp only [statSrc]; omega) (by omega)))
  · exact h

theorem queAdvance (h : d.Touches W e) (hq : q < 64) (w : QWriter) :
    d.Touches W (e.queAdvance q w).1 := by
  unfold Dev.queAdvance
  extract_lets x free items room dead k e1 w1 fin
  have h1 : d.Touches W e1 := h.setQueue q _
  split
  · exact ite (recWritten hW h _) h
  · split
    · exact queRefuse hW h hq
    · split
      · exact h
      · exact ite (recWritten hW (h1.inc (f := F.QUE_Qq_ITEM_CNT q) (hW (.items hq))) _) h1

theorem quePump (hq : q < 64) : ∀ (k : Nat) {e : Dev} (_ : d.Touches W e), d.Touches W (Dev.quePump q k e)
  | 0, _, h => h
  | k + 1, e, h => by
    unfold Dev.quePump
    dsimp only
    split
    · exact h
    · rename_i w rest _
      split
      · exact quePump hq k ((queAdvance hW h hq w).setQueue q _)
      · exact (queAdvance hW h hq w).setQueue q _

theorem queDeny (h : d.Touches W e) (hq : q < 64) : d.Touches W (e.queDeny q) := by
  unfold Dev.queDeny
  dsimp only
  split
  · exact h
  · exact ((h.setQueue q _).bump (f := F.QUE_Qq_REFUSED_CNT q) (hW (.refused hq)) _).raise (f := F.QUE_Qq_FLAG_REFUSED q) (hW (.flag hq))

end

theorem queRun (h : d.Touches QueReg e) (hq : q < 64) : d.Touches QueReg (e.queRun q) :=
  (queDeny .cnt (quePump .cnt hq _ h) hq).queShow hq

theorem queClose (h : d.Touches QueReg e) (hq : q < 64) : d.Touches QueReg (e.queClose q) := by
  unfold Dev.queClose
  dsimp only
  split
  · exact h
  · exact (h.setQueue q _).queShow hq

theorem queCutWriter (h : d.Touches QueReg e) (hq : q < 64) (src : Nat) : d.Touches QueReg (e.queCutWriter q src) := by
  unfold Dev.queCutWriter
  dsimp only
  split
  · exact h
  · split
    · exact (queRefuse .cnt (h.setQueue q _) hq).queRun hq
    · exact (h.setQueue q _).queRun hq

end Dev.Touches
end Sys2Proof.Machine
end

/-! PROOFS. Stopping a DMA channel (R10, R257). -/
section
-- One lemma at a time: elaborated side by side they take more threads than the check's memory limit leaves room for.
set_option Elab.async false
namespace Sys2Proof.Machine

theorem dma_not_queReg {a : Nat} (h : a / 0x10000 = 0x4008) : ¬ QueReg a := fun hq => by
  have := hq.place
  omega

/-- A channel's registers lie in the DMA's window. -/
theorem dma_window {o c : Nat} (ho : o < 0x40) (hc : c < 32) : (0x40081000 + o + c * 0x40) / 0x10000 = 0x4008 := by omega

theorem evIcu_dma {a : Nat} (h : a / 0x10000 = 0x4008) : evIcu a = false := by simp [evIcu, h]

namespace Dev.Touches

variable {d e : Dev} {c : Nat}

/-- What channel `c` still wrote at its queues is given up, EN being clear. -/
theorem dmaGivesUp (b1 b2 : Bool) (q1 q2 src : Nat) (h : d.Touches QueReg e) :
    d.Touches QueReg (if b2 then (if b1 then e.queCutWriter (q1 % 64) src else e).queClose (q2 % 64)
      else (if b1 then e.queCutWriter (q1 % 64) src else e)) := by
  have h1 : d.Touches QueReg (if b1 then e.queCutWriter (q1 % 64) src else e) :=
    ite (h.queCutWriter (Nat.mod_lt _ (by decide)) src) h
  exact ite (h1.queClose (Nat.mod_lt _ (by decide))) h1

end Dev.Touches

/-- The registers of a channel as DMA_DISABLE writes them once its queues are rid of it. -/
def Dev.dmaRest (d : Dev) (c bytes descs desc : Nat) : Dev :=
  (((d.put (F.DMA_Cc_BYTE_CNT c) bytes).put (F.DMA_Cc_DESC_CNT c) descs).put (F.DMA_Cc_DESC c) desc).mark
    (F.DMA_Cc_STAT_START_PEND c) false

/-- The channel as its queues leave it when its EN is cleared. -/
def Dev.dmaLeft (d : Dev) (c : Nat) : Dev :=
  let x := d.dmac c
  let d := d.mark (F.DMA_Cc_CFG_EN c) false
  let busy := d.dmaState c == dmaMove || d.dmaState c == dmaPaused
  let writes := busy || d.dmaState c == dmaWriteback
  let d := if writes && ctrlDstQ x.ctrl && x.begun then d.queCutWriter x.dstQ (dmaSrc c) else d
  if busy && ctrlSrcQ x.ctrl && x.opened then d.queClose x.srcQ else d

/-- DMA_DISABLE of an enabled channel, in its three steps. -/
theorem Dev.dmaDisable_eq {d : Dev} {c : Nat} (h : d.on (F.DMA_Cc_CFG_EN c) = true) :
    ∃ bytes descs desc n, d.dmaDisable c =
      (({ d.dmaLeft c with draws := n }.dmaRest c bytes descs desc).setDmac c { doneIoc := (d.dmac c).doneIoc }).dmaSet c 0 := by
  unfold Dev.dmaDisable
  rw [if_neg (by simp [h])]
  exact ⟨_, _, _, _, rfl⟩

theorem Dev.touches_dmaLeft (d : Dev) (c : Nat) :
    (d.mark (F.DMA_Cc_CFG_EN c) false).Touches QueReg (d.dmaLeft c) :=
  Dev.Touches.dmaGivesUp _ _ _ _ _ (.refl _ _)

theorem Dev.reg_dmaRest_ne (d : Dev) {a c x y z : Nat} (h1 : a ≠ R.DMA_Cc_BYTE_CNT c) (h2 : a ≠ R.DMA_Cc_DESC_CNT c)
    (h3 : ¬ (F.DMA_Cc_DESC c).At a) (h4 : a ≠ R.DMA_Cc_STAT c) : (d.dmaRest c x y z).reg a = d.reg a := by
  unfold Dev.dmaRest
  rw [Dev.reg_mark_ne _ (Dev.Touches.not_at rfl h4), Dev.reg_put_ne _ h3, Dev.reg_put_ne _ (Dev.Touches.not_at rfl h2),
    Dev.reg_put_ne _ (Dev.Touches.not_at rfl h1)]

theorem Dev.reg_dmaSet_ne (d : Dev) {a c : Nat} (h : a ≠ R.DMA_Cc_STAT c) (st : Nat) : (d.dmaSet c st).reg a = d.reg a := by
  unfold Dev.dmaSet
  rw [Dev.reg_mark_ne _ (Dev.Touches.not_at rfl h), Dev.reg_put_ne _ (Dev.Touches.not_at rfl h)]

/-- The channel stopped: IDLE, state 0, no START waiting. -/
theorem Dev.dmaDisable_stat {d : Dev} {c : Nat} (h : d.on (F.DMA_Cc_CFG_EN c) = true) :
    (d.dmaDisable c).on (F.DMA_Cc_STAT_IDLE c) = true ∧ (d.dmaDisable c).dmaState c = 0 ∧
      (d.dmaDisable c).on (F.DMA_Cc_STAT_START_PEND c) = false := by
  obtain ⟨x, y, z, n, he⟩ := Dev.dmaDisable_eq h
  rw [he]
  refine ⟨Dev.on_mark_self _ rfl (by simp [F.DMA_Cc_STAT_IDLE]) _, ?_, ?_⟩
  · unfold Dev.dmaState Dev.dmaSet
    rw [Dev.val_mark_apart _ (by simp [Fld.Apart, F.DMA_Cc_STAT_IDLE, F.DMA_Cc_STAT_STATE]),
      Dev.val_put_self _ (f := F.DMA_Cc_STAT_STATE c) (by simp [F.DMA_Cc_STAT_STATE])]
    exact Nat.zero_mod _
  · unfold Dev.dmaSet Dev.on
    rw [Dev.val_mark_apart _ (by simp [Fld.Apart, F.DMA_Cc_STAT_IDLE, F.DMA_Cc_STAT_START_PEND]),
      Dev.val_put_apart _ (by simp [Fld.Apart, F.DMA_Cc_STAT_STATE, F.DMA_Cc_STAT_START_PEND]),
      Dev.val_of_regs (Dev.setDmac_regs _ _ _), Dev.dmaRest, Dev.val_mark_self _ rfl (by simp [F.DMA_Cc_STAT_START_PEND])]
    rfl

/-- EN reads 0: nothing that the stop writes lies in the channel's CFG. -/
theorem Dev.dmaDisable_en {d : Dev} {c : Nat} (hc : c < 32) (h : d.on (F.DMA_Cc_CFG_EN c) = true) :
    (d.dmaDisable c).on (F.DMA_Cc_CFG_EN c) = false := by
  obtain ⟨x, y, z, n, he⟩ := Dev.dmaDisable_eq h
  have hreg : (d.dmaDisable c).reg (R.DMA_Cc_CFG c) = (d.dmaLeft c).reg (R.DMA_Cc_CFG c) := by
    rw [he, Dev.reg_dmaSet_ne _ (by simp only [R.DMA_Cc_CFG, R.DMA_Cc_STAT]; omega), Dev.reg_of_regs (Dev.setDmac_regs _ _ _)]
    refine Dev.reg_dmaRest_ne _ ?_ ?_ ?_ ?_ <;>
      simp only [Fld.At, F.DMA_Cc_DESC, R.DMA_Cc_CFG, R.DMA_Cc_STAT, R.DMA_Cc_BYTE_CNT, R.DMA_Cc_DESC_CNT, R.DMA_Cc_DESC] <;>
      omega
  have hw : (F.DMA_Cc_CFG_EN c).addr / 0x10000 = 0x4008 := dma_window (o := 0) (by decide) hc
  calc (d.dmaDisable c).on (F.DMA_Cc_CFG_EN c)
      = (d.dmaLeft c).on (F.DMA_Cc_CFG_EN c) := by
        unfold Dev.on
        rw [Dev.val_congr fun a ha => ?_]
        obtain rfl : a = R.DMA_Cc_CFG c := by simpa [Fld.At, F.DMA_Cc_CFG_EN] using ha
        exact hreg
    _ = (d.mark (F.DMA_Cc_CFG_EN c) false).on (F.DMA_Cc_CFG_EN c) :=
        (d.touches_dmaLeft c).keeps_on (dma_not_queReg hw) (evIcu_dma hw)
    _ = false := Dev.on_mark_self _ rfl (by simp [F.DMA_Cc_CFG_EN]) _

theorem Dev.dmaDisable_dmac {d : Dev} {c : Nat} (h : d.on (F.DMA_Cc_CFG_EN c) = true) :
    (d.dmaDisable c).dmac c = { doneIoc := (d.dmac c).doneIoc } := by
  obtain ⟨x, y, z, n, he⟩ := Dev.dmaDisable_eq h
  rw [he]
  unfold Dev.dmac Dev.dmaSet
  rw [Dev.mark_dma, Dev.put_dma]
  exact Dev.dmac_setDmac _ _ _

theorem Dev.dmaRest_restart (d : Dev) (c x y z : Nat) : (d.dmaRest c x y z).restart = d.restart := by
  simp only [Dev.dmaRest, Dev.mark_restart, Dev.put_restart]

theorem Dev.dmaSet_restart (d : Dev) (c st : Nat) : (d.dmaSet c st).restart = d.restart := by
  simp only [Dev.dmaSet, Dev.mark_restart, Dev.put_restart]

theorem Dev.dmaDisable_restart {d : Dev} {c : Nat} (h : d.on (F.DMA_Cc_CFG_EN c) = true) :
    ∀ x ∈ (d.dmaDisable c).restart, x ∈ d.restart := by
  obtain ⟨x, y, z, n, he⟩ := Dev.dmaDisable_eq h
  intro a ha
  rw [he, Dev.dmaSet_restart, Dev.setDmac_restart, Dev.dmaRest_restart] at ha
  have := (d.touches_dmaLeft c).restart a ha
  rwa [Dev.mark_restart d (F.DMA_Cc_CFG_EN c) false] at this

/-- Outside the channel's window only the queues that it was at are written. -/
theorem Dev.dmaDisable_reg {d : Dev} {a c : Nat} (hc : c < 32) (h : d.on (F.DMA_Cc_CFG_EN c) = true)
    (ha : a / 0x10000 ≠ 0x4008) (hW : ¬ QueReg a) (hq : evIcu a = false) : (d.dmaDisable c).reg a = d.reg a := by
  obtain ⟨x, y, z, n, he⟩ := Dev.dmaDisable_eq h
  rw [he, Dev.reg_dmaSet_ne _ ?_, Dev.reg_of_regs (Dev.setDmac_regs _ _ _), Dev.reg_dmaRest_ne]
  · exact ((d.touches_dmaLeft c).reg a hW hq).trans
      (Dev.reg_mark_ne _ (Dev.Touches.not_at rfl (by simp only [F.DMA_Cc_CFG_EN, R.DMA_Cc_CFG]; omega)) _)
  all_goals
    simp only [Fld.At, F.DMA_Cc_DESC, R.DMA_Cc_STAT, R.DMA_Cc_BYTE_CNT, R.DMA_Cc_DESC_CNT, R.DMA_Cc_DESC]
    omega

/-! ### What follows a stop -/

/-- A command that does nothing leaves the state as it finds it. -/
theorem onWork_id (s : State) : onWork (fun w => w) s = .next s.quietened := by
  rw [onWork_eq_onDev (g := fun d => d) rfl, onDev_next]
  rfl

/-- Only a channel that is ready is served (R255). -/
theorem Dev.dmaReady_of_served {d : Dev} {c : Nat} (h : d.dmaServed c = true) : d.dmaReady c = true := by
  unfold Dev.dmaServed at h
  dsimp only at h
  simp only [beq_iff_eq, Option.or_eq_some_iff] at h
  have hmem : ∀ {l : List Nat}, l.head? = some c → c ∈ l := fun hl => List.mem_of_mem_head? hl
  rcases h with h | ⟨-, h⟩
  · exact (List.mem_filter.1 (List.mem_filter.1 (List.mem_filter.1 (hmem h)).1).1).2
  · exact (List.mem_filter.1 (List.mem_filter.1 (hmem h)).1).2

theorem exec_burst_stopped {s : State} {c : Fin 32} (h : s.dev.dmaState c = 0) (hdr : Bool) (bad : List Nat)
    (ecc : EccResult) : exec (.burst c hdr bad ecc) s = .next s.quietened := by
  have hs : ∀ w : Work, w.dev.dmaState c = 0 →
      (if w.dev.dmaServed c then w.dmaBurst c hdr bad ecc else w.on (fun d => d.dmaPace c)) = w := by
    intro w hw
    have hr : w.dev.dmaServed c = false := by
      by_contra hc
      have := Dev.dmaReady_of_served (by simpa using hc)
      simp [Dev.dmaReady, hw, dmaMove, dmaPaused] at this
    rw [if_neg (by simp [hr])]
    simp [Work.on, Dev.dmaPace, hw, dmaMove, dmaPaused]
  have he : exec (.burst c hdr bad ecc) s = execBurst c hdr s bad ecc := by unfold exec; rfl
  rw [he, execBurst, ← onWork_id s, onWork_congr]
  exact hs _ h

theorem exec_descriptorDone_stopped {s : State} {c : Fin 32} (h : s.dev.dmaState c = 0) :
    exec (.descriptorDone c) s = .next s.quietened := by
  have he : exec (.descriptorDone c) s = execDescriptorDone c s := by unfold exec; rfl
  rw [he, execDescriptorDone, ← onWork_id s, onWork_congr]
  have h' : (Work.begin s).dev.dmaState c = 0 := h
  rw [Work.dmaDone, if_pos (.inl (by rw [h']; decide))]

/-- Settles O50: nothing that a stop writes at the queues is a register of the channel, and a channel in state 0 is
served no burst and writes no descriptor back. -/
theorem dmaStopsAtOnce : Obligations.DmaStopsAtOnce := by
  intro s c hen
  have he : exec (.dmaDisable c) s = onDev (fun d => d.dmaDisable c) s := by unfold exec; rfl
  have h : s.quietened.dev.on (F.DMA_Cc_CFG_EN c) = true := hen
  obtain ⟨hidle, hstate, hpend⟩ := Dev.dmaDisable_stat h
  have hdmac := Dev.dmaDisable_dmac h
  obtain ⟨t, ht, hstores, hdev⟩ : ∃ t, exec (.dmaDisable c) s = .next t ∧ s.sameStores t ∧
      t.dev = s.quietened.dev.dmaDisable c := ⟨_, he.trans (onDev_next _ s), s.sameStores_of_dev _, rfl⟩
  have hen' := Dev.dmaDisable_en c.isLt h
  have hrestart := Dev.dmaDisable_restart h
  have hreg := fun a => Dev.dmaDisable_reg (a := a) c.isLt h
  rw [← hdev] at hidle hstate hpend hdmac hen' hrestart hreg
  refine ⟨t, ht, hstores, hen', hidle, hstate, hpend, hdmac, hrestart _, ?_,
    fun hdr bad ecc => exec_burst_stopped hstate hdr bad ecc, exec_descriptorDone_stopped hstate⟩
  intro a ha hq
  simp only [List.mem_append, List.mem_cons, List.mem_map, List.mem_range, List.not_mem_nil, or_false, not_or, not_exists,
    not_and] at ha
  obtain ⟨⟨hdma, hque, hsys⟩, hpl⟩ := ha
  refine hreg a hdma (fun hW => ?_) hq
  have := hpl (a / 0x10000 - 0x4020)
  have := hW.place
  omega

end Sys2Proof.Machine
end

/-! PROOFS. Which registers the consumers of a queue and the flows of a network port may write (R216 to R222, R247 to
R251). -/
section
-- One lemma at a time: elaborated side by side they take more threads than the check's memory limit leaves room for.
set_option Elab.async false
namespace Sys2Proof.Machine

namespace Dev.Touches

variable {d e : Dev} {q f : Nat}

/-! ### Reading a queue -/

theorem queEmpty (h : d.Touches QueReg e) (hq : q < 64) : d.Touches QueReg (e.queEmpty q) := by
  unfold Dev.queEmpty
  extract_lets x e1 e2 e3
  have h2 : d.Touches QueReg e2 := (h.bump (f := F.QUE_Qq_FLUSH_CNT q) (.cnt (.flushed hq)) _).raise (f := F.QUE_Qq_FLAG_FLUSHED q) (.cnt (.flag hq))
  have h3 : d.Touches QueReg e3 := h2.setQueue q _
  exact h3.queShow hq

theorem queFlush (h : d.Touches QueReg e) (hq : q < 64) : d.Touches QueReg (e.queFlush q) := (h.queEmpty hq).queRun hq

theorem queOpen (h : d.Touches QueReg e) (hq : q < 64) (fault : Bool) : d.Touches QueReg (e.queOpen q fault).1 := by
  have h1 := h.queClose hq
  unfold Dev.queOpen
  extract_lets e1 x e2
  have h2 : d.Touches QueReg e2 := (h1.raise (f := F.QUE_Qq_FLAG_PARITY q) (.cnt (.flag hq))).inc (f := F.QUE_Qq_PARITY_CNT q) (.cnt (.parity hq))
  split
  · exact h1
  · split
    · exact h1
    · split
      · dsimp only
        exact h2.queFlush hq
      · dsimp only
        exact (h1.setQueue q _).queShow hq

theorem queEnded (h : d.Touches QueReg e) (q : Nat) : d.Touches QueReg (e.queEnded q) := by
  unfold Dev.queEnded
  dsimp only
  split
  · exact ite (h.setQueue q _) h
  · exact h

theorem queWords (h : d.Touches QueReg e) (hq : q < 64) (n : Nat) : d.Touches QueReg (e.queWords q n).1 := by
  unfold Dev.queWords
  dsimp only
  split
  · split
    · exact h
    · have h1 := (h.raise (f := F.QUE_Qq_FLAG_PARITY q) (.cnt (.flag hq))).bump (f := F.QUE_Qq_PARITY_CNT q) (.cnt (.parity hq))
      exact (((ite h (h1 _)).setQueue q _).queEnded q).queShow hq
  · exact h

end Dev.Touches

/-! ### Flows -/

/-- The registers that a flow may write: those of the flows, and those of its queue. -/
def FlowReg (a : Nat) : Prop := (0x40102000 ≤ a ∧ a < 0x40103000) ∨ QueReg a

theorem flowReg {o f : Nat} (ho : o < 0x80) (hf : f < 32) : FlowReg (0x40102000 + o + f * 0x80) := .inl (by omega)

namespace Dev.Touches

variable {d e : Dev} {q f : Nat}

theorem onQueue (h : d.Touches FlowReg e) {e' : Dev} (g : e.Touches QueReg e') : d.Touches FlowReg e' :=
  h.trans (g.mono fun _ => .inr)

theorem setNflow {W : Nat → Prop} (h : d.Touches W e) (f : Nat) (x : Flow) : d.Touches W (e.setNflow f x) :=
  h.trans (of_regs rfl rfl rfl)

theorem held (h : d.Touches FlowReg e) (hf : f < 32) (b : Bool) : d.Touches FlowReg (e.mark (F.NET_Ff_STAT_HELD f) b) :=
  h.mark (f := F.NET_Ff_STAT_HELD f) (flowReg (o := 4) (by decide) hf) b

theorem flowForget (h : d.Touches FlowReg e) (hf : f < 32) : d.Touches FlowReg (e.flowForget f) := by
  unfold Dev.flowForget
  extract_lets x q e1 e2
  have hq : q < 64 := Dev.val_lt e (F.NET_Ff_CFG_QUEUE f)
  have h1 : d.Touches FlowReg e1 := ite (h.onQueue ((refl _ e).queClose hq)) h
  exact (h1.setNflow f _).held hf _

theorem flowDiscard (h : d.Touches FlowReg e) (hf : f < 32) : d.Touches FlowReg (e.flowDiscard f) :=
  (h.flowForget hf).inc (f := F.NET_Ff_DISC_CNT f) (flowReg (o := 0x4C) (by decide) hf)

theorem launchJudge (h : d.Touches FlowReg e) (hf : f < 32) : d.Touches FlowReg (e.launchJudge f) := by
  have hflag : FlowReg (R.NET_Ff_FLAG f) := flowReg (o := 8) (by decide) hf
  unfold Dev.launchJudge
  dsimp only
  split
  · exact h
  · exact ite
      (ite (((h.flowForget hf).raise (f := F.NET_Ff_FLAG_FAR_DROP f) hflag).inc (f := F.NET_Ff_FAR_DROP_CNT f)
          (flowReg (o := 0x48) (by decide) hf))
        ((h.setNflow f _).held hf _))
      (ite (((h.flowForget hf).raise (f := F.NET_Ff_FLAG_LATE_DROP f) hflag).inc (f := F.NET_Ff_LATE_DROP_CNT f)
          (flowReg (o := 0x44) (by decide) hf))
        ((h.setNflow f _).held hf _))

theorem flowRead (h : d.Touches FlowReg e) (hf : f < 32) : d.Touches FlowReg (e.flowRead f) := by
  unfold Dev.flowRead
  extract_lets x q src r got buf y start
  have hq : q < 64 := Dev.val_lt e (F.NET_Ff_CFG_QUEUE f)
  have hr : d.Touches FlowReg r.1 := h.onQueue ((refl _ e).queWords hq _)
  exact ite h (ite ((h.onQueue ((refl _ e).setQueue q _)).flowDiscard hf)
    (ite ((hr.setNflow f _).launchJudge hf) (hr.setNflow f _)))

theorem flowOpen (h : d.Touches FlowReg e) (hf : f < 32) (fault : Bool) : d.Touches FlowReg (e.flowOpen f fault) := by
  have hr := h.onQueue ((refl _ e).queOpen (Dev.val_lt e (F.NET_Ff_CFG_QUEUE f)) fault)
  unfold Dev.flowOpen
  dsimp only
  split
  · exact h
  · split
    · exact hr
    · exact ite (((hr.setNflow f _).flowDiscard hf).raise (f := F.NET_Ff_FLAG_FORMAT f) (flowReg (o := 8) (by decide) hf))
        ((hr.setNflow f _).flowRead hf)

theorem flowSettle (h : d.Touches FlowReg e) (hf : f < 32) : d.Touches FlowReg (e.flowSettle f) :=
  ite (h.drained (idle := F.NET_Ff_STAT_IDLE f) (flowReg (o := 4) (by decide) hf) _) h

theorem flowDown (hf : f < 32) : ∀ (k : Nat) {e : Dev} (_ : d.Touches FlowReg e), d.Touches FlowReg (Dev.flowDown f k e)
  | 0, _, h => h
  | k + 1, e, h => by
    unfold Dev.flowDown
    extract_lets x n e1 e2 e3
    have h1 : d.Touches FlowReg e1 := (h.setNflow f _).bump (f := F.NET_Ff_DISC_CNT f) (flowReg (o := 0x4C) (by decide) hf) _
    have h2 : d.Touches FlowReg e2 := ite (h1.flowDiscard hf) h1
    have h3 : d.Touches FlowReg e3 := h2.flowOpen hf false
    exact ite (h3.flowSettle hf) (flowDown hf k h3)

theorem portDown (h : d.Touches FlowReg e) (n : Nat) : d.Touches FlowReg (e.portDown n) := by
  unfold Dev.portDown
  refine foldl _ _ h fun f hf c => ?_
  have hf : f < 32 := List.mem_range.1 (List.mem_of_mem_filter hf)
  exact ite (flowDown hf _ (refl _ c)) (refl _ c)

end Dev.Touches
end Sys2Proof.Machine
end

/-! PROOFS. Which registers a move of the position may write: those of LOG and TRG, but no channel's CFG (R13 to R16, R28
to R37, R44 to R57). -/
section
-- One lemma at a time: elaborated side by side they take more threads than the check's memory limit leaves room for.
set_option Elab.async false
namespace Sys2Proof.Machine

/-- The registers that a move of the position may write. -/
def MoveReg (a : Nat) : Prop := a / 0x10000 = 0x400C ∨ (a / 0x10000 = 0x400B ∧ (a < 0x400B1000 ∨ a % 0x100 ≠ 0))

/-- A register of a Log channel beside its CFG. -/
theorem moveReg_chan {o n : Nat} (h0 : o ≠ 0) (ho : o < 0x100) (hn : n < 32) : MoveReg (0x400B1000 + o + n * 0x100) :=
  .inr ⟨by omega, .inr (by omega)⟩

/-- A compare unit's CTRL. -/
theorem moveReg_cmp {n m : Nat} (hn : n < 32) (hm : m < 4) : MoveReg (R.LOGn_CMPm_CTRL n m) := by
  simp only [R.LOGn_CMPm_CTRL, MoveReg]; omega

/-- A register of a trigger stream. -/
theorem moveReg_stream {o s : Nat} (ho : o < 0x40) (hs : s < 64) : MoveReg (0x400C1000 + o + s * 0x40) := .inl (by omega)

/-- A register of a strobe. -/
theorem moveReg_strobe {o t : Nat} (ho : o < 0x20) (ht : t < 96) : MoveReg (0x400C3000 + o + t * 0x20) := .inl (by omega)

namespace Dev.Touches

variable {d e : Dev} {n s : Nat}

/-! ### Crossings and triggers -/

theorem passCross {W : Nat → Prop} (h : d.Touches W e) (s : Nat) (c : Cross) : d.Touches W (e.passCross s c) :=
  ite (h.trans (of_regs rfl rfl rfl)) h

theorem skipCross (h : d.Touches MoveReg e) (hs : s < 64) (k : Int) (n c : Nat) :
    d.Touches MoveReg (e.skipCross s k n c) :=
  ite h ((((h.bump (f := F.TRGs_SKIP_CNT s) (moveReg_stream (o := 0x20) (by decide) hs) n).raise
    (f := F.TRGs_FLAG_OVERSPEED s) (moveReg_stream (o := 8) (by decide) hs)).raise
    (f := F.TRG_FLAG_OVERSPEED) (.inl rfl)).passCross s _)

theorem fireStrobes (h : d.Touches MoveReg e) (s : Nat) (b : Int) (c : Nat) :
    d.Touches MoveReg (e.fireStrobes s b c) := by
  unfold Dev.fireStrobes
  refine foldl _ _ h fun t ht u => ?_
  have ht : t < 96 := e.mem_listed ht
  have h0 : u.Touches MoveReg u := refl _ u
  have setStb : ∀ {v : Dev} (_ : u.Touches MoveReg v) (z : Strobe), u.Touches MoveReg (v.setStb t z) :=
    fun hv _ => hv.trans (of_regs rfl rfl rfl)
  exact ite h0 (ite
    ((setStb (ite (h0.inc (f := F.STBt_OVL_CNT t) (moveReg_strobe (o := 0x18) (by decide) ht)) h0) _).mark
      (f := F.STBt_STAT_PENDING t) (moveReg_strobe (o := 4) (by decide) ht) _)
    (setStb h0 _))

theorem svcStep {W : Nat → Prop} (h : d.Touches W e) (c : Nat) : d.Touches W (e.svcStep c) := by
  refine h.trans ?_
  unfold Dev.svcStep
  dsimp only
  split
  · exact of_regs rfl rfl rfl
  · split
    · exact of_regs rfl rfl rfl
    · split <;> exact of_regs rfl rfl rfl

theorem svcIdle {W : Nat → Prop} (h : d.Touches W e) (c : Nat) (t : Int) : d.Touches W (e.svcIdle c t) := by
  unfold Dev.svcIdle
  extract_lets x e1
  have h1 : d.Touches W e1 := ite h (h.emit _)
  exact h1.trans (of_regs rfl rfl rfl)

theorem svcRun {W : Nat → Prop} (c : Nat) (t : Int) :
    ∀ (n : Nat) {e : Dev} (_ : d.Touches W e), d.Touches W (Dev.svcRun c t n e)
  | 0, _, h => h
  | n + 1, _, h => ite h (ite (h.svcIdle c t) (svcRun c t n (h.svcStep c)))

theorem svcNow {W : Nat → Prop} (h : d.Touches W e) (c : Nat) : d.Touches W (e.svcNow c) := svcRun c _ _ h

theorem placeTrig {W : Nat → Prop} (h : d.Touches W e) (s : Nat) (t : Trig) : d.Touches W (e.placeTrig s t).1 := by
  unfold Dev.placeTrig
  split
  · exact h
  · have h1 := h.svcNow (s / 4)
    unfold Dev.placeSymbol
    dsimp only
    split <;> exact h1.trans (of_regs rfl rfl rfl)

theorem handOverAt {W : Nat → Prop} (h : d.Touches W e) (s : Nat) (k : Int) (t : Nat) :
    d.Touches W (e.handOverAt s k t) := by
  unfold Dev.handOverAt
  split
  · exact ite (h.trans (of_regs rfl rfl rfl)) h
  · exact h

theorem issue (h : d.Touches MoveReg e) (hs : s < 64) (k : Int) (c : Nat) : d.Touches MoveReg (e.issue s k c) := by
  unfold Dev.issue
  extract_lets e1 r e2 t e3 y e4 e5 e6
  have h2 : d.Touches MoveReg e2 :=
    (h.inc (f := F.TRGs_TRIG_CNT s) (moveReg_stream (o := 0x1C) (by decide) hs)).placeTrig s _
  have h3 : d.Touches MoveReg e3 :=
    ite ((h2.inc (f := F.TRGs_DEFER_CNT s) (moveReg_stream (o := 0x24) (by decide) hs)).raise
      (f := F.TRGs_FLAG_DEFER s) (moveReg_stream (o := 8) (by decide) hs)) h2
  have h4 : d.Touches MoveReg e4 := h3.trans (of_regs rfl rfl rfl)
  exact ite (h.skipCross hs k 1 c) (((h4.fireStrobes s _ _).handOverAt s k _).passCross s _)

theorem trgAgain {W : Nat → Prop} (h : d.Touches W e) (s : Nat) : d.Touches W (e.trgAgain s) := by
  unfold Dev.trgAgain
  refine ite (h.trans ⟨fun a _ _ => rfl, fun x hx => ?_, rfl⟩) h
  exact List.mem_of_mem_filter (p := (· != R.TRGs_CFG s)) hx

theorem crossings (h : d.Touches MoveReg e) (path : Nat → Int) (h0 h1 : Int) :
    d.Touches MoveReg (e.crossings path h0 h1) := by
  unfold Dev.crossings
  extract_lets lo hi e1 found
  have hagain : d.Touches MoveReg e1 := foldl _ _ h fun s _ u => (refl _ u).trgAgain s
  refine foldl _ _ hagain fun x hx u => ?_
  obtain ⟨s, hs, hx⟩ := List.mem_flatMap.1 (mem_orderBy hx)
  have hs : s < 64 := Dev.mem_listed _ hs
  split at hx
  · cases hx
  · have hxs := Dev.cycleRuns_stream _ path hx
    exact ((refl _ u).issue (by omega) _ _).skipCross (by omega) _ _ _

/-! ### Compare units -/

theorem cmpShow (h : d.Touches MoveReg e) {m : Nat} (hn : n < 32) (hm : m < 4) : d.Touches MoveReg (e.cmpShow n m) :=
  h.put (f := F.LOGn_CMPm_CTRL_BACKLOG n m) (moveReg_cmp hn hm) _

theorem cmpRefresh (h : d.Touches MoveReg e) : d.Touches MoveReg e.cmpRefresh := by
  unfold Dev.cmpRefresh
  refine foldl _ _ h fun u hu v => ?_
  obtain ⟨hn, hm⟩ := e.mem_cmpUnits hu
  exact ite ((refl _ v).cmpShow hn hm) (refl _ v)

theorem cmpPass (h : d.Touches MoveReg e) {m : Nat} (hn : n < 32) (hm : m < 4) (p q : Int) :
    d.Touches MoveReg (e.cmpPass n m p q) :=
  ite (h.put (f := F.LOGn_CMPm_CTRL_BACKLOG n m) (moveReg_cmp hn hm) 1) h

theorem cmpOnce (h : d.Touches MoveReg e) (c : Option Nat) (p q : Int) : d.Touches MoveReg (e.cmpOnce c p q) := by
  unfold Dev.cmpOnce
  refine ite h (foldl _ _ h fun u hu v => ?_)
  obtain ⟨hn, hm⟩ := e.mem_cmpUnits hu
  exact ite ((refl _ v).cmpPass hn hm p q) (refl _ v)

/-! ### Moves -/

theorem advance (h : d.Touches MoveReg e) (p q : Int) : d.Touches MoveReg (e.advance p q) := by
  have hlog : ∀ {a}, a / 0x10000 = 0x400B → a < 0x400B1000 → MoveReg a := fun h1 h2 => .inr ⟨h1, .inl h2⟩
  unfold Dev.advance
  extract_lets h0 e1 e2
  have h1 : d.Touches MoveReg e1 := h.putWide (f := F.LOG_HWM) (hlog rfl (by decide)) (hlog rfl (by decide)) _
  have h2 : d.Touches MoveReg e2 := ite (h1.mark (f := F.LOG_STAT_REVERSED) (hlog rfl (by decide)) false) h1
  have h3 : d.Touches MoveReg e2.stillOver :=
    (h2.mark (f := F.LOG_STAT_STANDSTILL) (hlog rfl (by decide)) false).trans (of_regs rfl rfl rfl)
  exact ite (h3.raise (f := F.LOG_FLAG_MOTION) (hlog rfl (by decide))) h2

theorem reversal (h : d.Touches MoveReg e) (p : Int) : d.Touches MoveReg (e.reversal p) := by
  have hlog : ∀ {a}, a / 0x10000 = 0x400B → a < 0x400B1000 → MoveReg a := fun h1 h2 => .inr ⟨h1, .inl h2⟩
  unfold Dev.reversal
  extract_lets e1 e2
  have h1 : d.Touches MoveReg e1 :=
    (h.raise (f := F.LOG_FLAG_REVERSAL) (hlog rfl (by decide))).inc (f := F.LOG_REVERSAL_CNT) (hlog rfl (by decide))
  have h2 : d.Touches MoveReg e2 := ite (h1.publish (Dev.val_lt e1 F.LOG_CTRL_REV_EVC) _) h1
  exact ite h (h2.mark (f := F.LOG_STAT_REVERSED) (hlog rfl (by decide)) true)

theorem moveUnit (h : d.Touches MoveReg e) (path : Nat → Int) (p q : Int) : d.Touches MoveReg (e.moveUnit path p q) := by
  have hlog : ∀ {a}, a / 0x10000 = 0x400B → a < 0x400B1000 → MoveReg a := fun h1 h2 => .inr ⟨h1, .inl h2⟩
  unfold Dev.moveUnit
  extract_lets p0 h0 e1 e2 h1 e3 e4 e5
  have t1 : d.Touches MoveReg e1 := h.putWide (f := F.LOG_POS) (hlog rfl (by decide)) (hlog rfl (by decide)) _
  have t2 : d.Touches MoveReg e2 := t1.cmpOnce none p0 p
  have t3 : d.Touches MoveReg e3 := ite (t2.advance p h1) t2
  have t4 : d.Touches MoveReg e4 := ite (t3.crossings path h0 h1) t3
  have t5 : d.Touches MoveReg e5 := (t4.reversal p).cmpRefresh
  exact t5.trans (of_regs rfl rfl rfl)

theorem unitSat (h : d.Touches MoveReg e) : d.Touches MoveReg e.unitSat := by
  have h1 : d.Touches MoveReg { e with log := { e.log with posHeld := true } } := h.trans (of_regs rfl rfl rfl)
  exact h1.raise (f := F.LOG_FLAG_POS_SAT) (.inr ⟨rfl, .inl (by decide)⟩)

theorem showChan (h : d.Touches MoveReg e) (hn : n < 32) (jump : Bool) : d.Touches MoveReg (e.showChan n jump) := by
  unfold Dev.showChan
  extract_lets p0 p path sat e1 e2
  have h1 : d.Touches MoveReg e1 :=
    ((h.putWide (f := F.LOGn_POS n) (moveReg_chan (o := 0x10) (by decide) (by decide) hn)
      (by simp only [F.LOGn_POS, R.LOGn_POS, MoveReg]; omega) _).cmpOnce (some n) p0 p).raiseIf
      (f := F.LOGn_FLAG_POS_SAT n) (moveReg_chan (o := 8) (by decide) (by decide) hn) sat
  have h2 : d.Touches MoveReg e2 := h1.moveUnit path p posMin
  exact ite (ite h2.unitSat h2) h1

theorem moveChan (h : d.Touches MoveReg e) (hn : n < 32) : d.Touches MoveReg (e.moveChan n) := h.showChan hn false

end Dev.Touches
end Sys2Proof.Machine
end

/-! PROOFS. What clearing EN leaves of a block (R9): nothing that the block does as it stops writes its EN again. -/
section
-- One lemma at a time: elaborated side by side they take more threads than the check's memory limit leaves room for.
set_option Elab.async false
namespace Sys2Proof.Machine

namespace Dev.Touches

variable {d e : Dev}

theorem reach {W : Nat → Prop} (h : d.Touches W e) (hW : W R.MER_TIME) (hW' : W (R.MER_TIME + 4)) (t : Nat) :
    d.Touches W (e.reach t) := by
  refine h.trans ⟨fun a ha _ => e.reg_reach_ne t ?_, fun x hx => ?_, e.reach_dma t⟩
  · rintro (rfl | ⟨-, rfl⟩)
    · exact ha hW
    · exact ha hW'
  · rwa [Dev.reach_restart] at hx

/-! ### Log channels -/

theorem chanStart (h : d.Touches MoveReg e) {n : Nat} (hn : n < 32) : d.Touches MoveReg (e.chanStart n) := by
  have hW : MoveReg (R.LOGn_STAT n) := moveReg_chan (o := 4) (by decide) (by decide) hn
  unfold Dev.chanStart
  extract_lets c e1
  have h1 : d.Touches MoveReg e1 := h.trans (of_regs rfl rfl rfl)
  exact ((h1.mark (f := F.LOGn_STAT_STANDSTILL n) hW false).mark (f := F.LOGn_STAT_PER_VALID n) hW false).put
    (f := F.LOGn_STAT_IDX_ERRS n) hW 0

theorem logSettle (h : d.Touches MoveReg e) {n : Nat} (hn : n < 32) : d.Touches MoveReg (e.logSettle n) := by
  unfold Dev.logSettle
  extract_lets r
  have hstop : d.Touches MoveReg ((e.moveChan n).chanStop n) := (h.moveChan hn).trans (of_regs rfl rfl rfl)
  have hr : d.Touches MoveReg r.1 :=
    hstop.drained (idle := F.LOGn_STAT_IDLE n) (moveReg_chan (o := 4) (by decide) (by decide) hn) _
  exact ite h (ite (hr.chanStart hn) hr)

/-! ### Strobes -/

theorem strobeStop {t : Nat} (h : d.Touches (· = R.STBt_STAT t) e) :
    d.Touches (· = R.STBt_STAT t) ((e.strobeDiscard t).strobeSettle t) := by
  have h1 : d.Touches (· = R.STBt_STAT t) (e.setStb t { e.stb t with starts := [], tickStart := none }) :=
    h.trans (of_regs rfl rfl rfl)
  have h2 : d.Touches (· = R.STBt_STAT t) (e.strobeDiscard t) := h1.mark (f := F.STBt_STAT_PENDING t) rfl false
  exact ite h2 (h2.drained (idle := F.STBt_STAT_IDLE t) rfl _)

end Dev.Touches

/-! ### Filter channels -/

/-- The registers that the start of a filter channel may write (R43, R68). -/
def FltReg (a : Nat) : Prop := (a / 0x10000 = 0x400D ∧ a % 0x40 ≠ 0) ∨ (a / 0x10000 = 0x400B ∧ a % 0x100 = 0x54)

theorem fltReg {o c : Nat} (h0 : o ≠ 0) (ho : o < 0x40) (hc : c < 48) : FltReg (0x400D1000 + o + c * 0x40) :=
  .inl ⟨by omega, by omega⟩

/-! ### Lanes and service channels -/

/-- The registers that a lane or a service channel may write as it stops, the device time that it runs on to included. -/
def LinkReg (a : Nat) : Prop := (a / 0x10000 = 0x4012 ∧ a % 0x40 ≠ 0) ∨ a = R.MER_TIME ∨ a = R.MER_TIME + 4

/-! ### Marker heads -/

/-- The registers that a head may write as it stops or starts afresh (R186 to R194). -/
def HeadReg (a : Nat) : Prop := (a / 0x10000 = 0x400E ∧ a % 0x100 ≠ 0) ∨ MoveReg a

theorem headReg {o n : Nat} (h0 : o ≠ 0) (ho : o < 0x100) (hn : n < 16) : HeadReg (0x400E1000 + o + n * 0x100) :=
  .inl ⟨by omega, by omega⟩

namespace Dev.Touches

variable {d e : Dev}

theorem fltStart (h : d.Touches FltReg e) {c : Nat} (hc : c < 48) : d.Touches FltReg (e.fltStart c) := by
  have hstat : FltReg (R.FLTc_STAT c) := fltReg (o := 4) (by decide) (by decide) hc
  have setFltc : ∀ {u : Dev} (_ : d.Touches FltReg u) (x : FltChan), d.Touches FltReg (u.setFltc c x) :=
    fun hu _ => hu.trans (of_regs rfl rfl rfl)
  unfold Dev.fltStart Dev.fltRestart
  extract_lets x1 e1 e2 x2 e3 e4
  have h1 : d.Touches FltReg e1 :=
    (setFltc h _).put (f := F.FLTc_OUT c) (fltReg (o := 0x1C) (by decide) (by decide) hc) _
  have h2 : d.Touches FltReg e2 := ite h1
    ((h1.put (f := F.LOGn_SPEED_FILT (c - 16)) (.inr (by simp only [F.LOGn_SPEED_FILT, R.LOGn_SPEED_FILT]; omega)) _).mark
      (f := F.FLTc_STAT_VALID c) hstat _)
  have h3 : d.Touches FltReg e3 := setFltc h2 _
  have h4 : d.Touches FltReg e4 := h3.mark (f := F.FLTc_STAT_SETTLING c) hstat true
  exact ite (h4.mark (f := F.FLTc_STAT_VALID c) hstat false) h4

theorem fltSettle (h : d.Touches FltReg e) {c : Nat} (hc : c < 48) : d.Touches FltReg (e.fltSettle c) := by
  unfold Dev.fltSettle
  extract_lets r
  have hr : d.Touches FltReg r.1 :=
    h.drained (idle := F.FLTc_STAT_IDLE c) (fltReg (o := 4) (by decide) (by decide) hc) _
  exact ite h (ite (hr.fltStart hc) hr)

theorem linkRefresh (h : d.Touches LinkReg e) {p : Nat} (hp : p < 16) : d.Touches LinkReg (e.linkRefresh p) := by
  have hport : ∀ {o}, o ≠ 0 → o < 0x40 → LinkReg (0x40122000 + o + p * 0x40) := fun h0 ho => .inl ⟨by omega, by omega⟩
  have hflag : LinkReg (R.SLK_CPp_FLAG p) := hport (o := 8) (by decide) (by decide)
  have hstat : LinkReg (R.SLK_CPp_STAT p) := hport (o := 4) (by decide) (by decide)
  unfold Dev.linkRefresh
  extract_lets n ups bits e1 was now e2
  have h2 : d.Touches LinkReg e2 := (h.put (f := F.SLK_CPp_STAT_STREAM_UP p) hstat bits).mark (f := F.SLK_CPp_STAT_LINK_OK p) hstat now
  exact ite (h2.raise (f := F.SLK_CPp_FLAG_LINK_UP p) hflag)
    (ite ((h2.raise (f := F.SLK_CPp_FLAG_LINK_DOWN p) hflag).inc (f := F.SLK_CPp_LINK_DOWN_CNT p)
      (hport (o := 0xC) (by decide) (by decide))) h2)

theorem setLstr {W : Nat → Prop} (h : d.Touches W e) (s : Nat) (x : LinkStream) : d.Touches W (e.setLstr s x) :=
  h.trans (of_regs rfl rfl rfl)

theorem setLane {W : Nat → Prop} (h : d.Touches W e) (l : Nat) (x : Lane) : d.Touches W (e.setLane l x) :=
  h.trans (of_regs rfl rfl rfl)

theorem laneOff (h : d.Touches LinkReg e) {l : Nat} (hl : l < 64) (hstat : LinkReg (R.SLK_Ll_STAT l)) :
    d.Touches LinkReg (e.laneOff l) := by
  unfold Dev.laneOff
  extract_lets e1 e2 s x
  have h2 : d.Touches LinkReg e2 :=
    ((h.put (f := F.SLK_Ll_STAT_PSTATE l) hstat 2).mark (f := F.SLK_Ll_STAT_CDR_LOCK l) hstat false).mark
      (f := F.SLK_Ll_STAT_BLOCK_LOCK l) hstat false
  exact ((h2.setLstr s _).setLane l _).linkRefresh (by omega)

theorem laneSettle (h : d.Touches LinkReg e) {l : Nat} (hl : l < 64) : d.Touches LinkReg (e.laneSettle l) := by
  have hstat : LinkReg (R.SLK_Ll_STAT l) := .inl (by simp only [R.SLK_Ll_STAT]; omega)
  have hoff : d.Touches LinkReg (e.laneOff l) := h.laneOff hl hstat
  exact ite h (hoff.drained (idle := F.SLK_Ll_STAT_IDLE l) hstat _)

theorem svcUntil (c : Nat) (p : SvcChan → Bool) :
    ∀ (n : Nat) {e : Dev} (_ : d.Touches LinkReg e), d.Touches LinkReg (Dev.svcUntil c p n e)
  | 0, _, h => h
  | n + 1, _, h => ite h (svcUntil c p n ((h.reach (.inr (.inl rfl)) (.inr (.inr rfl)) _).svcStep c))

theorem svcSettle (h : d.Touches LinkReg e) {c : Nat} (hc : c < 16) : d.Touches LinkReg (e.svcSettle c) := by
  have hend : d.Touches LinkReg (e.frameEnd c) :=
    ite (h.svcNow c) ((svcUntil c _ _ (h.svcNow c)).reach (.inr (.inl rfl)) (.inr (.inr rfl)) _)
  exact ite h (hend.drained (idle := F.SLK_CSc_STAT_IDLE c) (.inl (by simp only [F.SLK_CSc_STAT_IDLE, R.SLK_CSc_STAT]; omega)) _)

theorem setHead {W : Nat → Prop} (h : d.Touches W e) (n : Nat) (x : Head) : d.Touches W (e.setHead n x) :=
  h.trans (of_regs rfl rfl rfl)

theorem onMove (h : d.Touches HeadReg e) {e' : Dev} (g : e.Touches MoveReg e') : d.Touches HeadReg e' :=
  h.trans (g.mono fun _ => .inr)

section
variable {n : Nat} (hn : n < 16)
include hn

theorem markHead (h : d.Touches HeadReg e) {f : Fld} (hf : f.addr = R.MRKn_STAT n) (b : Bool)
    (h1 : (f.lo + f.len).ble 32 = true := by rfl) : d.Touches HeadReg (e.mark f b) :=
  h.mark (by rw [hf]; exact headReg (o := 4) (by decide) (by decide) hn) b h1

theorem cartSend (h : d.Touches HeadReg e) (cmd : Nat) (w : CartWait) (pl : List Byte) :
    d.Touches HeadReg (e.cartSend n cmd w pl) :=
  (markHead hn (h.setHead n _) (f := F.MRKn_STAT_DEC_PEND n) rfl _).emit _

theorem authKick (h : d.Touches HeadReg e) : d.Touches HeadReg (e.authKick n) :=
  ite h (cartSend hn (h.setHead n _) _ _ _)

theorem firePulse (h : d.Touches HeadReg e) : d.Touches HeadReg (e.firePulse n) := by
  unfold Dev.firePulse
  dsimp only
  split
  · exact h
  · have h1 : ∀ x v, d.Touches HeadReg (((e.inc (F.MRKn_FIRE_CNT n)).setHead n x).put (F.MRKn_DROP_ACC n) v) := fun x v =>
      ((h.inc (f := F.MRKn_FIRE_CNT n) (headReg (o := 0x70) (by decide) (by decide) hn)).setHead n x).put
      (f := F.MRKn_DROP_ACC n) (headReg (o := 0x84) (by decide) (by decide) hn) v
    exact ite h (ite (authKick hn (h1 _ _)) ((authKick hn (h1 _ _)).setHead n _))

theorem geomErr (h : d.Touches HeadReg e) : d.Touches HeadReg (e.geomErr n) :=
  (h.setHead n _).raise (f := F.MRKn_FLAG_GEOM_ERR n) (headReg (o := 8) (by decide) (by decide) hn)

theorem headStart (h : d.Touches HeadReg e) : d.Touches HeadReg (e.headStart n) := by
  unfold Dev.headStart
  extract_lets c u bad x e1 e2 e3 e4
  have h1 : d.Touches HeadReg e1 := h.setHead n _
  have h2 : d.Touches HeadReg e2 :=
    (h1.putWide (f := F.MRKn_VBASE n) (headReg (o := 0x4C) (by decide) (by decide) hn)
      (.inl (by simp only [F.MRKn_VBASE, R.MRKn_VBASE]; omega)) _).put
      (f := F.MRKn_MPITCH n) (headReg (o := 0x54) (by decide) (by decide) hn) _
  have h3 : d.Touches HeadReg e3 :=
    markHead hn (markHead hn h2 (f := F.MRKn_STAT_REFUSED n) rfl false) (f := F.MRKn_STAT_AUTH n) rfl false
  have h4 : d.Touches HeadReg e4 := ite (geomErr hn h3) h3
  have h5 : d.Touches HeadReg (e4.startLoad n 0 0) :=
    (markHead hn (h4.setHead n _) (f := F.MRKn_STAT_LOADED n) rfl false).emit _
  exact (cartSend hn h5 _ _ _).onMove (refl _ _).cmpRefresh

theorem headSettle (h : d.Touches HeadReg e) : d.Touches HeadReg (e.headSettle n) := by
  have hp := firePulse hn h
  unfold Dev.headSettle
  extract_lets e1 x e2 r
  have h2 : d.Touches HeadReg e2 :=
    markHead hn (markHead hn hp (f := F.MRKn_STAT_AUTH n) rfl false) (f := F.MRKn_STAT_REFUSED n) rfl false
  have hr : d.Touches HeadReg r.1 :=
    h2.drained (idle := F.MRKn_STAT_IDLE n) (headReg (o := 4) (by decide) (by decide) hn) _
  exact ite hp (ite (headStart hn hr) hr)

theorem dropMap (h : d.Touches HeadReg e) : d.Touches HeadReg (e.dropMap n) :=
  markHead hn ((h.setHead n _).bump (f := F.MRKn_DISCARD_CNT n) (headReg (o := 0x68) (by decide) (by decide) hn) _)
    (f := F.MRKn_STAT_LOADED n) rfl false

end

end Dev.Touches
end Sys2Proof.Machine
end

/-! PROOFS. BLOCK_DISABLE clears EN of every block, and the drain that may follow leaves it clear (R9). -/
section
-- One lemma at a time: elaborated side by side they take more threads than the check's memory limit leaves room for.
set_option Elab.async false
namespace Sys2Proof.Machine

theorem Dev.on_stopIntake (d : Dev) {en : Fld} (h1 : en.len = 1) (h2 : en.lo < 32) : (d.stopIntake en).on en = false := by
  unfold Dev.on
  rw [d.val_stopIntake_self h1 h2]
  rfl

/-- Intake stops, and nothing that follows writes EN, which lies in window `w`. -/
theorem Dev.Touches.en_cleared {W : Nat → Prop} {d e : Dev} {en : Fld} (h : (d.stopIntake en).Touches W e)
    {w : Nat} (hw : en.addr / 0x10000 = w ∧ ¬ W en.addr) (hq : (w == 0x4006 || w == 0x4007) = false := by rfl)
    (h1 : en.len = 1 := by rfl) (h2 : en.lo.blt 32 = true := by rfl) : e.on en = false := by
  have h2 : en.lo < 32 := Nat.blt_eq.mp h2
  obtain ⟨rfl, hW⟩ := hw
  exact (h.keeps_on hW hq (Nat.ble_eq.mpr (by omega))).trans (d.on_stopIntake h1 h2)

theorem Dev.logDisable_en (d : Dev) {n : Nat} (hn : n < 32) : (d.logDisable n).on (F.LOGn_CFG_EN n) = false :=
  ((Dev.Touches.refl MoveReg (d.stopIntake (F.LOGn_CFG_EN n))).logSettle hn).en_cleared (w := 0x400B)
    (by simp only [MoveReg, F.LOGn_CFG_EN, R.LOGn_CFG]; omega)

theorem Dev.strobeDisable_en (d : Dev) {t : Nat} (ht : t < 96) : (d.strobeDisable t).on (F.STBt_CFG_EN t) = false :=
  (Dev.Touches.refl (· = R.STBt_STAT t) (d.stopIntake (F.STBt_CFG_EN t))).strobeStop.en_cleared (w := 0x400C)
    (by simp only [F.STBt_CFG_EN, R.STBt_CFG, R.STBt_STAT]; omega)

theorem Dev.fltDisable_en (d : Dev) {c : Nat} (hc : c < 48) : (d.fltDisable c).on (fltEn c) = false := by
  have h : (d.stopIntake (fltEn c)).Touches FltReg (d.fltDisable c) :=
    .ite ((Dev.Touches.refl FltReg _).fltSettle hc) (.refl _ _)
  by_cases hs : c < 16
  · rw [fltEn, if_pos hs] at h ⊢
    exact h.en_cleared (w := 0x400D) (by simp only [FltReg, F.FLTc_CTRL_EN, R.FLTc_CTRL]; omega)
  · rw [fltEn, if_neg hs] at h ⊢
    exact h.en_cleared (w := 0x400B) (by simp only [FltReg, F.LOGn_SPD_CFG_FILT, R.LOGn_SPD_CFG]; omega)

theorem Dev.laneDisable_en (d : Dev) {l : Nat} (hl : l < 64) : (d.laneDisable l).on (F.SLK_Ll_CTRL_EN l) = false :=
  ((Dev.Touches.refl LinkReg (d.stopIntake (F.SLK_Ll_CTRL_EN l))).laneSettle hl).en_cleared (w := 0x4012)
    (by simp only [LinkReg, F.SLK_Ll_CTRL_EN, R.SLK_Ll_CTRL, R.MER_TIME]; omega)

theorem Dev.svcDisable_en (d : Dev) {c : Nat} (hc : c < 16) : (d.svcDisable c).on (F.SLK_CSc_CTRL_EN c) = false := by
  have h1 := (Dev.Touches.refl LinkReg (d.stopIntake (F.SLK_CSc_CTRL_EN c))).svcNow c
  have h : (d.stopIntake (F.SLK_CSc_CTRL_EN c)).Touches LinkReg (d.svcDisable c) := .ite (h1.svcSettle hc) h1
  exact h.en_cleared (w := 0x4012) (by simp only [LinkReg, F.SLK_CSc_CTRL_EN, R.SLK_CSc_CTRL, R.MER_TIME]; omega)

theorem Dev.cdcDisable_en (d : Dev) {e : Nat} (he : e < 4) : (d.cdcDisable e).on (F.CDC_En_CTRL_EN e) = false := by
  have h1 := Dev.Touches.refl (· = R.CDC_En_STAT e) (d.stopIntake (F.CDC_En_CTRL_EN e))
  have h : (d.stopIntake (F.CDC_En_CTRL_EN e)).Touches (· = R.CDC_En_STAT e) (d.cdcDisable e) :=
    .ite h1 ((h1.mark (f := F.CDC_En_STAT_EMPTY e) rfl false).drained (idle := F.CDC_En_STAT_IDLE e) rfl _)
  exact h.en_cleared (w := 0x4011) (by simp only [F.CDC_En_CTRL_EN, R.CDC_En_CTRL, R.CDC_En_STAT]; omega)

theorem Dev.tapStop_en (d : Dev) (t : Nat) : (d.tapStop t).on (F.CDC_TAPt_CFG_EN t) = false :=
  (Dev.abortBits_does _ rfl (by simp [F.CDC_TAPt_CFG_EN]) rfl (by simp [F.CDC_TAPt_STAT_IDLE])
    (.inl (by simp [F.CDC_TAPt_CFG_EN, F.CDC_TAPt_STAT_IDLE, R.CDC_TAPt_CFG, R.CDC_TAPt_STAT]))).1

/-- What a network port writes as it stops: its own status, and what its flows write. -/
def PortReg (n a : Nat) : Prop := a = R.NETn_STAT n ∨ FlowReg a

theorem portReg_not_cfg {n : Nat} (hn : n < 8) : R.NETn_CFG n / 0x10000 = 0x4010 ∧ ¬ PortReg n (R.NETn_CFG n) := by
  refine ⟨by simp only [R.NETn_CFG]; omega, ?_⟩
  rintro (h | h | h)
  · simp only [R.NETn_CFG, R.NETn_STAT] at h; omega
  · simp only [R.NETn_CFG] at h; omega
  · have := h.place
    simp only [R.NETn_CFG] at this; omega

theorem Dev.Touches.seenDown {W : Nat → Prop} {d e : Dev} (h : d.Touches W e) (n : Nat) (was : Bool) :
    d.Touches W (e.seenDown n was) := .ite (h.trans (.of_regs rfl rfl rfl)) h

theorem Dev.portStop_en (d : Dev) {n : Nat} (hn : n < 8) : (d.portStop n).on (F.NETn_CFG_EN n) = false := by
  unfold Dev.portStop
  split
  · rename_i h
    simpa using h
  · have h1 := (Dev.Touches.refl (PortReg n) (d.stopIntake (F.NETn_CFG_EN n))).seenDown n (d.linkSeen n)
    have h2 : (d.stopIntake (F.NETn_CFG_EN n)).Touches (PortReg n)
        (((d.stopIntake (F.NETn_CFG_EN n)).seenDown n (d.linkSeen n)).wireSettle n) :=
      .ite (h1.drained (idle := F.NETn_STAT_IDLE n) (.inl rfl) _) h1
    exact (h2.trans (((Dev.Touches.refl _ _).portDown n).mono fun _ => .inr)).en_cleared (portReg_not_cfg hn)

theorem queReg_not_cfg {q : Nat} (hq : q < 64) : R.QUE_Qq_CFG q / 0x10000 = 0x4009 ∧ ¬ QueReg (R.QUE_Qq_CFG q) := by
  refine ⟨by simp only [R.QUE_Qq_CFG]; omega, fun h => ?_⟩
  have := h.place
  simp only [R.QUE_Qq_CFG] at this; omega

theorem Dev.queDisable_en (d : Dev) {q : Nat} (hq : q < 64) : (d.queDisable q).on (F.QUE_Qq_CFG_EN q) = false :=
  ((Dev.Touches.refl QueReg (d.stopIntake (F.QUE_Qq_CFG_EN q))).queRun hq).en_cleared (queReg_not_cfg hq)

theorem headReg_not_cfg {n : Nat} (hn : n < 16) : R.MRKn_CFG n / 0x10000 = 0x400E ∧ ¬ HeadReg (R.MRKn_CFG n) := by
  simp only [HeadReg, MoveReg, R.MRKn_CFG]; omega

theorem Dev.headDisable_en (d : Dev) {n : Nat} (hn : n < 16) : (d.headDisable n).on (F.MRKn_CFG_EN n) = false := by
  unfold Dev.headDisable
  extract_lets e
  split
  · rename_i h
    simpa using h
  · split
    · exact e.on_stopIntake rfl (by simp [F.MRKn_CFG_EN])
    · have h1 := Dev.Touches.headSettle hn (.dropMap hn (.refl HeadReg (e.stopIntake (F.MRKn_CFG_EN n))))
      exact (h1.onMove (.cmpRefresh (.refl _ _))).en_cleared (headReg_not_cfg hn)

theorem Dev.svcPortStop_en (d : Dev) : (d.svcPortEnable false).on F.SVC_CTRL_EN = false := by
  have h1 := Dev.Touches.refl (· = R.SVC_STAT) (d.stopIntake F.SVC_CTRL_EN)
  have h : (d.stopIntake F.SVC_CTRL_EN).Touches (· = R.SVC_STAT) ((d.stopIntake F.SVC_CTRL_EN).svcPortSettle) :=
    .ite h1 (h1.drained (idle := F.SVC_STAT_IDLE) rfl _)
  exact h.en_cleared (w := 0x4004) (by decide)

/-- BLOCK_DISABLE clears EN of every block. -/
theorem Dev.blockDisable_en (d : Dev) (b : Block) : (d.blockDisable b).on (blockEn b) = false := by
  cases b with
  | logCh n => exact d.logDisable_en n.isLt
  | strobe t => exact d.strobeDisable_en t.isLt
  | filter c => exact d.fltDisable_en c.isLt
  | lane l => exact d.laneDisable_en l.isLt
  | svcChan c => exact d.svcDisable_en c.isLt
  | engine e => exact d.cdcDisable_en e.isLt
  | tap t => exact d.tapStop_en t
  | netPort n => exact d.portStop_en n.isLt
  | queue q => exact d.queDisable_en q.isLt
  | head n => exact d.headDisable_en n.isLt
  | svcPort => exact d.svcPortStop_en

/-- Settles O15: a block whose EN reads 0 takes in no work. -/
theorem disableStopsIntake : Obligations.DisableStopsIntake := by
  intro b s
  have he : exec (.blockDisable b) s = onDev (fun d => d.blockDisable b) s := by unfold exec; rfl
  have hen := Dev.blockDisable_en s.quietened.dev b
  exact ⟨_, he.trans (onDev_next _ s), by simp [Dev.runs, hen], s.sameStores_of_dev _⟩

end Sys2Proof.Machine
end

/-! PROOFS. ABORT stops a block at once (R9). -/
section
-- One lemma at a time: elaborated side by side they take more threads than the check's memory limit leaves room for.
set_option Elab.async false
namespace Sys2Proof.Machine

/-! ### Writes to memory leave flash -/

section
variable (w : Work)

theorem Work.nvWr_dramDo (r : DramReq) : (w.dramDo r).nvWr = w.nvWr := by
  unfold Work.dramDo
  dsimp only
  split
  · rfl
  · split
    · rfl
    · split <;> rfl

theorem Work.nvWr_dramRun (ch : Nat) : ∀ (k : Nat) (w : Work), (Work.dramRun ch k w).nvWr = w.nvWr
  | 0, _ => rfl
  | k + 1, w => by
    unfold Work.dramRun
    dsimp only
    split
    · rfl
    · rw [Work.nvWr_dramRun ch k, Work.nvWr_dramDo]

theorem Work.nvWr_dramAll : w.dramAll.nvWr = w.nvWr := by
  unfold Work.dramAll
  dsimp only
  split
  · rfl
  · rw [Work.on_nvWr]
    exact foldl_keeps (fun w : Work => w.nvWr) (fun w ch => Work.dramRun ch w.dev.drc.pend.length w)
      (fun w ch => Work.nvWr_dramRun ch _ w) _ _

theorem Work.nvWr_freqEnd : w.freqEnd.nvWr = w.nvWr := by
  unfold Work.freqEnd
  split
  · rfl
  · rw [Work.nvWr_dramAll, Work.on_nvWr]

theorem Work.nvWr_dramWait : ∀ (k : Nat) (w : Work), (Work.dramWait k w).nvWr = w.nvWr
  | 0, _ => rfl
  | k + 1, w => by
    unfold Work.dramWait
    dsimp only
    split
    · rfl
    · rw [Work.nvWr_dramWait k, Work.nvWr_freqEnd, Work.on_nvWr]

theorem Work.nvWr_dramBefore (g : Nat) : ∀ (k : Nat) (w : Work), (Work.dramBefore g k w).nvWr = w.nvWr
  | 0, _ => rfl
  | k + 1, w => by
    unfold Work.dramBefore
    dsimp only
    split
    · rfl
    · rw [Work.nvWr_dramBefore g k, Work.nvWr_dramDo, Work.on_nvWr]

theorem Work.nvWr_dramOne (g : Nat) (ecc : EccResult) : (w.dramOne g ecc).nvWr = w.nvWr := by
  unfold Work.dramOne
  split
  · rfl
  · rw [Work.on_nvWr, Work.nvWr_dramBefore]

theorem Work.nvWr_dramEach : ∀ (l : List Nat) (ecc : EccResult) (w : Work), (Work.dramEach ecc l w).nvWr = w.nvWr
  | [], _, _ => rfl
  | g :: t, ecc, w => by
    unfold Work.dramEach
    rw [Work.nvWr_dramEach t, Work.nvWr_dramOne]

theorem Work.nvWr_touch (a n : Nat) (wr : Bool) (ecc : EccResult) : (w.touch a n wr ecc).nvWr = w.nvWr := by
  unfold Work.touch
  extract_lets w1
  have h1 : w1.nvWr = w.nvWr := by
    simp only [w1]; split <;> rfl
  split
  · split
    · exact h1
    · dsimp only
      rw [Work.on_nvWr, Work.nvWr_dramEach, Work.nvWr_dramEach, Work.nvWr_dramWait, h1]
  · exact h1

theorem Work.nvWr_writeAt (a : Nat) (v : Byte) : (w.writeAt a v).nvWr = w.nvWr := by
  unfold Work.writeAt
  split <;> rfl

theorem Work.nvWr_store (a : Nat) (bs : List Byte) : (w.store a bs).nvWr = w.nvWr := by
  unfold Work.store
  dsimp only
  rw [foldl_keeps (fun w : Work => w.nvWr) (fun w (c : Nat × Byte) => w.writeAt c.1 c.2)
    (fun w c => w.nvWr_writeAt c.1 c.2), Work.on_nvWr, Work.nvWr_touch]

theorem Work.nvWr_cdcFinish (e : Nat) (o : JobOut) : (w.cdcFinish e o).nvWr = w.nvWr := by
  unfold Work.cdcFinish
  dsimp only
  rw [Work.on_nvWr, Work.nvWr_store, Work.nvWr_store]

theorem Work.nvWr_cdcAbort (e : Nat) : (w.cdcAbort e).nvWr = w.nvWr := by
  unfold Work.cdcAbort
  dsimp only
  rw [Work.on_nvWr]
  split
  · rfl
  · rw [Work.nvWr_cdcFinish, Work.nvWr_store]
    rfl

end

/-! ### Stopped -/

theorem evIcu_of_window {a w : Nat} (h : a / 0x10000 = w) (h1 : w ≠ 0x4006) (h2 : w ≠ 0x4007) : evIcu a = false := by
  simp [evIcu, h, h1, h2]

/-- The block is stopped: EN reads 0, IDLE reads 1, and no EN waits for the end of a drain. -/
def Dev.stopped (d : Dev) (en idle : Fld) : Prop :=
  d.on en = false ∧ d.on idle = true ∧ d.restart.contains en.addr = false

theorem Dev.stopped_abortBits (d : Dev) {en idle : Fld} (ha : idle.addr ≠ en.addr) (h1 : en.len = 1 := by rfl)
    (h2 : en.lo.blt 32 = true := by rfl) (h3 : idle.len = 1 := by rfl) (h4 : idle.lo.blt 32 = true := by rfl) :
    (d.abortBits en idle).stopped en idle := by
  have h2 : en.lo < 32 := Nat.blt_eq.mp h2
  have h4 : idle.lo < 32 := Nat.blt_eq.mp h4
  obtain ⟨hen, hidle, -, hr⟩ := d.abortBits_does h1 h2 h3 h4
    (.inl ⟨ha, fun h => absurd h (by omega), fun h => absurd h (by omega)⟩)
  exact ⟨hen, hidle, by simpa using hr⟩

/-- A block that is stopped stays so through what writes neither of its two registers. -/
theorem Dev.stopped.after {W : Nat → Prop} {d e : Dev} {en idle : Fld} (h : d.stopped en idle) (g : d.Touches W e)
    (hen : ¬ W en.addr) (hidle : ¬ W idle.addr) (q1 : evIcu en.addr = false) (q2 : evIcu idle.addr = false)
    (h1 : (en.lo + en.len).ble 32 = true := by rfl) (h2 : (idle.lo + idle.len).ble 32 = true := by rfl) :
    e.stopped en idle := by
  obtain ⟨hon, hid, hr⟩ := h
  refine ⟨(g.keeps_on hen q1 h1).trans hon, (g.keeps_on hidle q2 h2).trans hid, ?_⟩
  simp only [List.contains_eq_mem, decide_eq_false_iff_not] at hr ⊢
  exact fun hm => hr (g.restart _ hm)

theorem Dev.fltAbort_stopped (d : Dev) (c : Nat) : (d.fltAbort c).stopped (fltEn c) (F.FLTc_STAT_IDLE c) := by
  unfold Dev.fltAbort fltEn
  split
  · exact d.stopped_abortBits (by simp only [F.FLTc_STAT_IDLE, F.FLTc_CTRL_EN, R.FLTc_STAT, R.FLTc_CTRL]; omega)
  · exact d.stopped_abortBits (by simp only [F.FLTc_STAT_IDLE, F.LOGn_SPD_CFG_FILT, R.FLTc_STAT, R.LOGn_SPD_CFG]; omega)

/-! ### A network port -/

theorem Dev.portCut_stopped (d : Dev) {n : Nat} (hn : n < 8) :
    (d.portCut n).stopped (F.NETn_CFG_EN n) (F.NETn_STAT_IDLE n) := by
  have hw : ∀ {o}, o < 0x80 → (0x40101000 + o + n * 0x80) / 0x10000 = 0x4010 ∧ ¬ FlowReg (0x40101000 + o + n * 0x80) := by
    intro o ho
    refine ⟨by omega, ?_⟩
    rintro (h | h)
    · omega
    · have := h.place; omega
  obtain ⟨hw1, hf1⟩ := hw (o := 0) (by decide)
  obtain ⟨hw2, hf2⟩ := hw (o := 4) (by decide)
  unfold Dev.portCut
  extract_lets was x e
  have h := e.stopped_abortBits (en := F.NETn_CFG_EN n) (idle := F.NETn_STAT_IDLE n)
    (by simp only [F.NETn_CFG_EN, F.NETn_STAT_IDLE, R.NETn_CFG, R.NETn_STAT]; omega)
  exact h.after (((Dev.Touches.refl _ _).seenDown n was).portDown n) hf1 hf2
    (evIcu_of_window hw1 (by decide) (by decide)) (evIcu_of_window hw2 (by decide) (by decide))

/-! ### A queue -/

/-- A field of a queue's STAT beside IDLE shares no bit with it. -/
theorem apart_queIdle {f : Fld} {q : Nat} (h1 : f.addr = R.QUE_Qq_STAT q) (h2 : Nat.ble 1 f.lo = true := by rfl)
    (h3 : (f.lo + f.len).ble 32 = true := by rfl) : f.Apart (F.QUE_Qq_STAT_IDLE q) :=
  .inr ⟨h1, Nat.le_of_ble_eq_true h3, by simp [F.QUE_Qq_STAT_IDLE], .inr (Nat.le_of_ble_eq_true h2)⟩

theorem Dev.queAbove_idle (d : Dev) {q : Nat} (hq : q < 64) (b : Bool) :
    (d.queAbove q b).on (F.QUE_Qq_STAT_IDLE q) = d.on (F.QUE_Qq_STAT_IDLE q) := by
  have hw : (F.QUE_Qq_STAT_IDLE q).addr / 0x10000 = 0x4009 := by simp only [F.QUE_Qq_STAT_IDLE, R.QUE_Qq_STAT]; omega
  have h := Dev.Touches.queAbove_of_mark (W := fun a => a / 0x10000 = 0x4000)
    (fun {w} hw => by simp only [R.SYS_UTP_INw]; omega) d q b
  rw [h.keeps_on (by omega) (evIcu_of_window hw (by decide) (by decide))]
  unfold Dev.on
  rw [Dev.val_mark_apart _ (apart_queIdle (f := F.QUE_Qq_STAT_ABOVE q) rfl)]

/-- STAT after a change of a queue that is idle: IDLE stays. -/
theorem Dev.queShow_idle {d : Dev} {q : Nat} (hq : q < 64) (h : d.on (F.QUE_Qq_STAT_IDLE q) = true) :
    (d.queShow q).on (F.QUE_Qq_STAT_IDLE q) = true := by
  unfold Dev.queShow
  extract_lets x fill e1 e2 e3 above e4
  have hval : e3.val (F.QUE_Qq_STAT_IDLE q) = d.val (F.QUE_Qq_STAT_IDLE q) :=
    ((Dev.val_mark_apart e2 (f := F.QUE_Qq_STAT_WRITING q) (apart_queIdle rfl) _).trans
      (Dev.val_mark_apart e1 (f := F.QUE_Qq_STAT_FULL q) (apart_queIdle rfl) _)).trans
      (Dev.val_put_apart d (f := F.QUE_Qq_STAT_FILL q) (apart_queIdle rfl) _)
  have h3 : e3.on (F.QUE_Qq_STAT_IDLE q) = true := by
    unfold Dev.on at h ⊢
    rwa [hval]
  have h4 : e4.on (F.QUE_Qq_STAT_IDLE q) = true := by
    simp only [e4]
    split
    · exact (e3.queAbove_idle hq true).trans h3
    · split
      · exact (e3.queAbove_idle hq false).trans h3
      · exact h3
  rw [if_neg (by simp [Dev.drains, h4])]
  exact h4

/-- A queue's STAT is none of its counters. -/
theorem queStat_not_cnt (q : Nat) : ¬ QueCnt (R.QUE_Qq_STAT q) := by
  intro h
  generalize e : R.QUE_Qq_STAT q = a at h
  cases h <;> simp only [R.QUE_Qq_STAT, R.QUE_Qq_FLAG, R.QUE_Qq_ITEM_CNT, R.QUE_Qq_REFUSED_CNT, R.QUE_Qq_FLUSH_CNT,
    R.QUE_Qq_PARITY_CNT, R.PLn_CTXm_STATS_CNT] at e <;> omega

theorem Dev.queAbort_stopped (d : Dev) {q : Nat} (hq : q < 64) :
    (d.queAbort q).stopped (F.QUE_Qq_CFG_EN q) (F.QUE_Qq_STAT_IDLE q) := by
  unfold Dev.queAbort
  have h := (d.queEmpty q).stopped_abortBits (en := F.QUE_Qq_CFG_EN q) (idle := F.QUE_Qq_STAT_IDLE q)
    (by simp only [F.QUE_Qq_CFG_EN, F.QUE_Qq_STAT_IDLE, R.QUE_Qq_CFG, R.QUE_Qq_STAT]; omega)
  generalize (d.queEmpty q).abortBits (F.QUE_Qq_CFG_EN q) (F.QUE_Qq_STAT_IDLE q) = e at h ⊢
  obtain ⟨hwen, hen⟩ := queReg_not_cfg hq
  have hw : (F.QUE_Qq_STAT_IDLE q).addr / 0x10000 = 0x4009 := by simp only [F.QUE_Qq_STAT_IDLE, R.QUE_Qq_STAT]; omega
  have hpump : e.Touches QueCnt ((Dev.quePump q ((e.queue q).waiting.length + 1) e).queDeny q) :=
    .queDeny id (.quePump id hq _ (.refl _ _)) hq
  obtain ⟨hon, hidle, hr⟩ :=
    h.after hpump (fun hc => hen (.cnt hc)) (queStat_not_cnt q) (evIcu_of_window hwen (by decide) (by decide))
      (evIcu_of_window hw (by decide) (by decide))
  have hshow := (Dev.Touches.refl QueReg ((Dev.quePump q ((e.queue q).waiting.length + 1) e).queDeny q)).queShow hq
  refine ⟨(hshow.keeps_on hen (evIcu_of_window hwen (by decide) (by decide))).trans hon, Dev.queShow_idle hq hidle, ?_⟩
  simp only [List.contains_eq_mem, decide_eq_false_iff_not] at hr ⊢
  exact fun hm => hr (hshow.restart _ hm)

/-! ### Every block -/

/-- A block's IDLE and its EN lie in two registers. -/
theorem blockIdle_ne_blockEn (b : Block) : (blockIdle b).addr ≠ (blockEn b).addr := by
  cases b with
  | filter c =>
    by_cases hc : c.val < 16
    · simp only [blockIdle, blockEn, hc, if_true, F.FLTc_STAT_IDLE, F.FLTc_CTRL_EN, R.FLTc_STAT, R.FLTc_CTRL]; omega
    · simp only [blockIdle, blockEn, hc, if_false, F.FLTc_STAT_IDLE, F.LOGn_SPD_CFG_FILT, R.FLTc_STAT, R.LOGn_SPD_CFG]
      omega
  | logCh | strobe | lane | svcChan | engine | tap | netPort | queue | head | svcPort =>
    simp only [blockIdle, blockEn, F.LOGn_STAT_IDLE, F.LOGn_CFG_EN, F.STBt_STAT_IDLE, F.STBt_CFG_EN, F.SLK_Ll_STAT_IDLE,
      F.SLK_Ll_CTRL_EN, F.SLK_CSc_STAT_IDLE, F.SLK_CSc_CTRL_EN, F.CDC_En_STAT_IDLE, F.CDC_En_CTRL_EN,
      F.CDC_TAPt_STAT_IDLE, F.CDC_TAPt_CFG_EN, F.NETn_STAT_IDLE, F.NETn_CFG_EN, F.QUE_Qq_STAT_IDLE, F.QUE_Qq_CFG_EN,
      F.MRKn_STAT_IDLE, F.MRKn_CFG_EN, F.SVC_STAT_IDLE, F.SVC_CTRL_EN, R.LOGn_STAT, R.LOGn_CFG, R.STBt_STAT, R.STBt_CFG,
      R.SLK_Ll_STAT, R.SLK_Ll_CTRL, R.SLK_CSc_STAT, R.SLK_CSc_CTRL, R.CDC_En_STAT, R.CDC_En_CTRL, R.CDC_TAPt_STAT,
      R.CDC_TAPt_CFG, R.NETn_STAT, R.NETn_CFG, R.QUE_Qq_STAT, R.QUE_Qq_CFG, R.MRKn_STAT, R.MRKn_CFG, R.SVC_STAT, R.SVC_CTRL]
    omega

/-- ABORT leaves every block stopped that has an ABORT bit, but the heads (R194). -/
theorem Work.blockAbort_stopped (w : Work) (b : Block) (hport : b ≠ .svcPort) (hhead : ∀ n, b ≠ .head n) :
    (w.blockAbort b).dev.stopped (blockEn b) (blockIdle b) := by
  cases b with simp only [Work.blockAbort, Work.on_dev]
  | logCh n => exact Dev.stopped_abortBits _ (blockIdle_ne_blockEn (.logCh n))
  | strobe t => exact Dev.stopped_abortBits _ (blockIdle_ne_blockEn (.strobe t))
  | filter c => exact w.dev.fltAbort_stopped c
  | lane l => exact Dev.stopped_abortBits _ (blockIdle_ne_blockEn (.lane l))
  | svcChan c => exact Dev.stopped_abortBits _ (blockIdle_ne_blockEn (.svcChan c))
  | engine e => exact Dev.stopped_abortBits _ (blockIdle_ne_blockEn (.engine e))
  | tap t => exact Dev.stopped_abortBits _ (blockIdle_ne_blockEn (.tap t))
  | netPort n => exact w.dev.portCut_stopped n.isLt
  | queue q => exact w.dev.queAbort_stopped q.isLt
  | head n => exact absurd rfl (hhead n)
  | svcPort => exact absurd rfl hport

/-- ABORT writes nothing to flash. -/
theorem Work.nvWr_blockAbort (w : Work) (b : Block) : (w.blockAbort b).nvWr = w.nvWr := by
  cases b with
  | engine e => exact w.nvWr_cdcAbort e
  | logCh | strobe | filter | lane | svcChan | tap | netPort | queue | head | svcPort =>
    simp only [Work.blockAbort, Work.on_nvWr]

/-- Settles O14: ABORT ends by setting the block's two bits, and what a port's flows or a queue's writers do after it
writes neither. -/
theorem abortStopsABlock : Obligations.AbortStopsABlock := by
  intro b s hport hhead
  have he : exec (.abort b) s = onWork (fun w => w.blockAbort b) s := by unfold exec; rfl
  obtain ⟨hen, hidle, hr⟩ := (Work.begin s).blockAbort_stopped b hport hhead
  have ht := onWork_eq (fun w => w.blockAbort b) s
  refine ⟨_, he.trans ht, hen, hidle, hr, rfl, fun a => ?_⟩
  rw [onWork_nvByte ht, Work.nvWr_blockAbort]
  rfl

end Sys2Proof.Machine
end

/-! PROOFS. The end of a drain (R9). -/
section
-- One lemma at a time: elaborated side by side they take more threads than the check's memory limit leaves room for.
set_option Elab.async false
namespace Sys2Proof.Machine

/-! ### What DRAINED leaves -/

theorem Dev.drains_of {d : Dev} {en idle : Fld} (hidle : d.on idle = false)
    (h : d.on en = false ∨ d.restart.contains en.addr = true) : d.drains en idle = true := by
  unfold Dev.drains
  rcases h with h | h <;> rw [hidle, h]
  · rfl
  · simp

/-- The drain ends with no EN waiting: EN reads 0 still, IDLE reads 1. -/
theorem Dev.drained_idle {d : Dev} {en idle : Fld} (hne : en.addr ≠ idle.addr) (hq : evIcu en.addr = false)
    (hen : d.on en = false) (hr : d.restart.contains en.addr = false) (h1 : (en.lo + en.len).ble 32 = true := by rfl)
    (h3 : idle.len = 1 := by rfl) (h4 : idle.lo.blt 32 = true := by rfl) :
    (d.drained en idle).2 = false ∧ (d.drained en idle).1.on idle = true ∧ (d.drained en idle).1.on en = false := by
  have h4 : idle.lo < 32 := Nat.blt_eq.mp h4
  obtain ⟨h2, hidle⟩ := (d.drained_does (en := en) h3 h4).2 hr hen
  have ht := (Dev.Touches.refl (· = idle.addr) d).drained (idle := idle) rfl en (Nat.ble_eq.mpr (by omega))
  exact ⟨h2, hidle, (ht.keeps_on hne hq h1).trans hen⟩

/-- The drain ends with an EN set meanwhile: the block takes in work again. -/
theorem Dev.drained_runs {d : Dev} {en idle : Fld} (hne : en.addr ≠ idle.addr) (hq : evIcu en.addr = false)
    (hen : d.on en = true) (hr : d.restart.contains en.addr = true) (h1 : (en.lo + en.len).ble 32 = true := by rfl)
    (h3 : idle.len = 1 := by rfl) (h4 : idle.lo.blt 32 = true := by rfl) : (d.drained en idle).1.runs en idle = true := by
  have h4 : idle.lo < 32 := Nat.blt_eq.mp h4
  obtain ⟨-, hidle⟩ := (d.drained_does (en := en) h3 h4).1 hr
  have ht := (Dev.Touches.refl (· = idle.addr) d).drained (idle := idle) rfl en (Nat.ble_eq.mpr (by omega))
  have hr' : (d.drained en idle).1.restart.contains en.addr = false := by
    unfold Dev.drained
    rw [if_pos hr]
    simp
  unfold Dev.runs
  rw [(ht.keeps_on hne hq h1).trans hen, hidle, hr']
  rfl

/-! ### Strobes and the service port -/

theorem Dev.strobeSettle_eq {d : Dev} {t : Nat} (hon : d.on (F.STBt_STAT_ON t) = false)
    (h : d.drains (F.STBt_CFG_EN t) (F.STBt_STAT_IDLE t) = true) :
    d.strobeSettle t = (d.drained (F.STBt_CFG_EN t) (F.STBt_STAT_IDLE t)).1 := by
  unfold Dev.strobeSettle
  rw [if_neg (by simp [hon, h])]

theorem strobe_registers {t : Nat} (ht : t < 96) :
    (F.STBt_CFG_EN t).addr ≠ (F.STBt_STAT_IDLE t).addr ∧ evIcu (F.STBt_CFG_EN t).addr = false := by
  refine ⟨by simp only [F.STBt_CFG_EN, F.STBt_STAT_IDLE, R.STBt_CFG, R.STBt_STAT]; omega, ?_⟩
  exact evIcu_of_window (w := 0x400C) (by simp only [F.STBt_CFG_EN, R.STBt_CFG]; omega) (by decide) (by decide)

theorem Dev.svcPortSettle_eq {d : Dev} (hrun : d.svc.run = none) (h : d.drains F.SVC_CTRL_EN F.SVC_STAT_IDLE = true) :
    d.svcPortSettle = (d.drained F.SVC_CTRL_EN F.SVC_STAT_IDLE).1 := by
  unfold Dev.svcPortSettle
  rw [if_neg (by simp [hrun, h])]

/-! ### Marker heads -/

theorem Dev.head_put (d : Dev) (f : Fld) (v m : Nat) : (d.put f v).head m = d.head m := by
  unfold Dev.head
  rw [Dev.put_mrk]

/-- A head whose EN reads 0 sends no DECREMENT (R196). -/
theorem Dev.authKick_off {d : Dev} {n : Nat} (hen : d.on (F.MRKn_CFG_EN n) = false) : d.authKick n = d := by
  unfold Dev.authKick
  rw [if_pos (.inr (.inl (by simp [Dev.headRuns, Dev.runs, hen])))]

/-- The registers that a pulse that has begun counts in. -/
def PulseReg (n a : Nat) : Prop := a = R.MRKn_FIRE_CNT n ∨ a = R.MRKn_DROP_ACC n

theorem pulseReg_not {o n : Nat} (h : o < 0x70) : ¬ PulseReg n (0x400E1000 + o + n * 0x100) := by
  simp only [PulseReg, R.MRKn_FIRE_CNT, R.MRKn_DROP_ACC]; omega

theorem evIcu_head {o n : Nat} (ho : o < 0x100) (hn : n < 16) : evIcu (0x400E1000 + o + n * 0x100) = false :=
  evIcu_of_window (w := 0x400E) (by omega) (by decide) (by decide)

/-- A pulse of a head whose EN reads 0 is counted, and its drops; the head's pulses end when they did, and its exchange
is where it was. -/
theorem Dev.firePulse_eq {d : Dev} {n : Nat} (hn : n < 16) (hen : d.on (F.MRKn_CFG_EN n) = false) :
    d.firePulse n = d ∨ ∃ x acc, d.firePulse n = ((d.inc (F.MRKn_FIRE_CNT n)).setHead n x).put (F.MRKn_DROP_ACC n) acc ∧
      x.latEnd = (d.head n).latEnd ∧ x.fireEnd = (d.head n).fireEnd ∧ x.wait = (d.head n).wait := by
  have hkick : ∀ x acc, (((d.inc (F.MRKn_FIRE_CNT n)).setHead n x).put (F.MRKn_DROP_ACC n) acc).authKick n =
      ((d.inc (F.MRKn_FIRE_CNT n)).setHead n x).put (F.MRKn_DROP_ACC n) acc := by
    intro x acc
    have h : d.Touches (PulseReg n) (((d.inc (F.MRKn_FIRE_CNT n)).setHead n x).put (F.MRKn_DROP_ACC n) acc) :=
      (((Dev.Touches.refl _ d).inc (f := F.MRKn_FIRE_CNT n) (.inl rfl)).setHead n x).put (f := F.MRKn_DROP_ACC n) (.inr rfl) acc
    exact Dev.authKick_off ((h.keeps_on (f := F.MRKn_CFG_EN n) (pulseReg_not (o := 0) (by decide))
      (evIcu_head (o := 0) (by decide) hn)).trans hen)
  unfold Dev.firePulse
  dsimp only
  split
  · exact .inl rfl
  · split
    · exact .inl rfl
    · right
      rw [hkick, if_pos (by rw [Dev.head_put, Dev.head_setHead])]
      exact ⟨_, _, rfl, rfl, rfl, rfl⟩

theorem Dev.firePulse_draining {d : Dev} {n : Nat} (hn : n < 16) (hen : d.on (F.MRKn_CFG_EN n) = false) :
    d.Touches (PulseReg n) (d.firePulse n) ∧ (d.firePulse n).restart = d.restart ∧ (d.firePulse n).now = d.now ∧
      ((d.firePulse n).head n).latEnd = (d.head n).latEnd ∧ ((d.firePulse n).head n).fireEnd = (d.head n).fireEnd ∧
      ((d.firePulse n).head n).wait = (d.head n).wait := by
  rcases Dev.firePulse_eq hn hen with h | ⟨x, acc, h, hlat, hfire, hwait⟩ <;> rw [h]
  · exact ⟨.refl _ d, rfl, rfl, rfl, rfl, rfl⟩
  · rw [Dev.head_put, Dev.head_setHead]
    refine ⟨?_, by simp only [Dev.put_restart, Dev.setHead_restart, Dev.inc_restart],
      by simp only [Dev.put_now, Dev.setHead_now, Dev.inc_now], hlat, hfire, hwait⟩
    exact (((Dev.Touches.refl _ d).inc (f := F.MRKn_FIRE_CNT n) (.inl rfl)).setHead n x).put (f := F.MRKn_DROP_ACC n)
      (.inr rfl) acc

/-- A head whose pulses have ended and that runs no exchange settles: IDLE reads 1 (R194). -/
theorem Dev.headSettle_idle {d : Dev} {n : Nat} (hn : n < 16) (hen : d.on (F.MRKn_CFG_EN n) = false)
    (hidle : d.on (F.MRKn_STAT_IDLE n) = false) (hr : d.restart.contains (F.MRKn_CFG_EN n).addr = false)
    (hwait : (d.head n).wait = .idle) (hlat : (d.head n).latEnd ≤ d.now) (hfire : (d.head n).fireEnd ≤ d.now) :
    (d.headSettle n).on (F.MRKn_STAT_IDLE n) = true ∧ (d.headSettle n).now = d.now := by
  obtain ⟨ht, hrestart, hnow, hlat', hfire', hwait'⟩ := Dev.firePulse_draining hn hen
  have hq := evIcu_head (o := 0) (n := n) (by decide) hn
  have hen' := (ht.keeps_on (f := F.MRKn_CFG_EN n) (pulseReg_not (o := 0) (by decide)) hq).trans hen
  have hidle' := (ht.keeps_on (f := F.MRKn_STAT_IDLE n) (pulseReg_not (o := 4) (by decide))
    (evIcu_head (o := 4) (by decide) hn)).trans hidle
  have hcond : ¬ ((! (d.firePulse n).drains (F.MRKn_CFG_EN n) (F.MRKn_STAT_IDLE n)) = true ∨
      (d.firePulse n).now < ((d.firePulse n).head n).latEnd ∨ (d.firePulse n).now < ((d.firePulse n).head n).fireEnd ∨
      ((d.firePulse n).head n).wait ≠ .idle) := by
    rw [Dev.drains_of hidle' (.inl hen'), hnow, hlat', hfire', hwait']
    rintro (h | h | h | h)
    · exact Bool.false_ne_true h
    · omega
    · omega
    · exact h hwait
  unfold Dev.headSettle
  extract_lets e x e2 r
  have hmarks : e.Touches (· = R.MRKn_STAT n) e2 :=
    ((Dev.Touches.refl (· = R.MRKn_STAT n) e).mark (f := F.MRKn_STAT_AUTH n) rfl false).mark (f := F.MRKn_STAT_REFUSED n) rfl false
  have hne : (F.MRKn_CFG_EN n).addr ≠ (F.MRKn_STAT_IDLE n).addr := by
    simp only [F.MRKn_CFG_EN, F.MRKn_STAT_IDLE, R.MRKn_CFG, R.MRKn_STAT]; omega
  have hr2 : e2.restart.contains (F.MRKn_CFG_EN n).addr = false := by
    simp only [e2, Dev.mark_restart, e, hrestart, hr]
  obtain ⟨h2, hdone, -⟩ := Dev.drained_idle hne hq ((hmarks.keeps_on hne hq).trans hen') hr2
  rw [if_neg hcond, if_neg (by simp [r, h2])]
  refine ⟨hdone, ?_⟩
  simp only [r, Dev.drained_now, e2, Dev.mark_now, e, hnow]

/-- The pulses of a draining head run out, and the head is idle (R194). -/
theorem Dev.headDrained_idle {d : Dev} {n : Nat} (hn : n < 16) (hen : d.on (F.MRKn_CFG_EN n) = false)
    (hidle : d.on (F.MRKn_STAT_IDLE n) = false) (hr : d.restart.contains (F.MRKn_CFG_EN n).addr = false)
    (hwait : (d.head n).wait = .idle) :
    (d.headDrained n).on (F.MRKn_STAT_IDLE n) = true ∧ (d.head n).latEnd ≤ (d.headDrained n).now ∧
      (d.head n).fireEnd ≤ (d.headDrained n).now := by
  unfold Dev.headDrained
  extract_lets h
  rw [if_neg (by simp [Dev.drains_of hidle (.inl hen), h, hwait])]
  have ht : d.Touches (fun a => a = R.MER_TIME ∨ a = R.MER_TIME + 4) (d.reach (max h.latEnd h.fireEnd)) :=
    (Dev.Touches.refl _ d).reach (.inl rfl) (.inr rfl) _
  have hw : ∀ {o}, o < 0x100 → ¬ (0x400E1000 + o + n * 0x100 = R.MER_TIME ∨ 0x400E1000 + o + n * 0x100 = R.MER_TIME + 4) := by
    intro o ho
    simp only [R.MER_TIME]; omega
  have hhead : (d.reach (max h.latEnd h.fireEnd)).head n = h := by
    simp only [Dev.head, Dev.reach_mrk, h]
  obtain ⟨hon, hnow⟩ := Dev.headSettle_idle (d := d.reach (max h.latEnd h.fireEnd)) hn
    ((ht.keeps_on (hw (o := 0) (by decide)) (evIcu_head (o := 0) (by decide) hn)).trans hen)
    ((ht.keeps_on (f := F.MRKn_STAT_IDLE n) (hw (o := 4) (by decide)) (evIcu_head (o := 4) (by decide) hn)).trans hidle)
    (by rw [Dev.reach_restart]; exact hr) (by rw [hhead]; exact hwait) (by rw [hhead, Dev.reach_now]; omega)
    (by rw [hhead, Dev.reach_now]; omega)
  rw [hnow, Dev.reach_now]
  exact ⟨hon, (Nat.le_max_left _ _).trans (Nat.le_max_right _ _), (Nat.le_max_right _ _).trans (Nat.le_max_right _ _)⟩

/-! ### DRAIN_COMPLETE -/

theorem exec_drainComplete (b : Block) (s : State) :
    exec (.drainComplete b) s = .next { s with dev := s.quietened.dev.blockDrained b } := by
  have he : exec (.drainComplete b) s = onDev (fun d => d.blockDrained b) s := by unfold exec; rfl
  exact he.trans (onDev_next _ s)

/-- Settles O16: each of the three settles by the shared rule for the end of a drain. -/
theorem drainEndsAndMayRestart : Obligations.DrainEndsAndMayRestart := by
  intro s
  refine ⟨fun t hon hidle => ?_, fun hrun hidle hen hr => ?_, fun n hwait hidle hen hr => ?_⟩
  · obtain ⟨hne, hq⟩ := strobe_registers t.isLt
    refine ⟨fun hen hr => ⟨_, exec_drainComplete (.strobe t) s, ?_, ?_, s.sameStores_of_dev _⟩,
      fun hen hr => ⟨_, exec_drainComplete (.strobe t) s, ?_, s.sameStores_of_dev _⟩⟩
    all_goals
      have hs := Dev.strobeSettle_eq (d := s.quietened.dev) hon
      simp only [Dev.blockDrained]
    · rw [hs (Dev.drains_of hidle (.inl hen))]
      exact (Dev.drained_idle (d := s.quietened.dev) hne hq hen hr).2.1
    · rw [hs (Dev.drains_of hidle (.inl hen))]
      exact (Dev.drained_idle (d := s.quietened.dev) hne hq hen hr).2.2
    · rw [hs (Dev.drains_of hidle (.inr hr))]
      exact Dev.drained_runs (d := s.quietened.dev) hne hq hen hr
  · refine ⟨_, exec_drainComplete .svcPort s, ?_, s.sameStores_of_dev _⟩
    simp only [Dev.blockDrained]
    rw [Dev.svcPortSettle_eq (d := s.quietened.dev) hrun (Dev.drains_of hidle (.inl hen))]
    exact (Dev.drained_idle (d := s.quietened.dev) (by decide) (by decide) hen hr).2.1
  · obtain ⟨hon, hlat, hfire⟩ := Dev.headDrained_idle (d := s.quietened.dev) n.isLt hen hidle hr hwait
    exact ⟨_, exec_drainComplete (.head n) s, hon, hlat, hfire, s.sameStores_of_dev _⟩

end Sys2Proof.Machine
end

/-! PROOFS. Memory through the map (R2, R235, R262): where an access lands, what a store writes and what a load reads. -/
section
-- One lemma at a time: elaborated side by side they take more threads than the check's memory limit leaves room for.
set_option Elab.async false
namespace Sys2Proof.Machine

/-! ### Places -/

theorem Dev.on_of_regs {d e : Dev} (h : e.regs = d.regs) (f : Fld) : e.on f = d.on f := by
  unfold Dev.on
  rw [Dev.val_of_regs h]

/-- The memory map depends on the registers alone. -/
theorem Dev.place_of_regs {d e : Dev} (h : e.regs = d.regs) (a : Nat) : e.place a = d.place a := by
  have husable : e.dramUsable = d.dramUsable := by
    simp only [Dev.dramUsable, Dev.dramChans, Dev.density, Dev.val_of_regs h]
  have htcm : ∀ o, e.tcmAt o = d.tcmAt o := by
    intro o
    unfold Dev.tcmAt
    rw [Dev.on_of_regs h, Dev.val_of_regs h]
  unfold Dev.place
  rw [htcm, husable]

theorem Dev.place_of_dram (d : Dev) {a : Nat} (ha : dramBase ≤ a) :
    d.place a = if a < dramBase + d.dramUsable then .mem a else .nothing := by
  have hb : dramBase = 0x800000000 := rfl
  unfold Dev.place
  rw [if_neg (by omega), if_neg (by omega), if_neg (by omega), if_neg (by omega)]
  simp only [ha, true_and]

/-- In the DRAM window the map depends on DRC_CFG alone. -/
theorem Dev.place_dram {d e : Dev} (h : e.reg R.DRC_CFG = d.reg R.DRC_CFG) {a : Nat} (ha : dramBase ≤ a) :
    e.place a = d.place a := by
  have hval : ∀ f : Fld, f.addr = R.DRC_CFG → f.lo + f.len ≤ 32 → e.val f = d.val f := by
    intro f h1 h2
    refine Dev.val_congr fun b hb => ?_
    rcases hb with rfl | ⟨hb, -⟩
    · rw [h1, h]
    · omega
  have husable : e.dramUsable = d.dramUsable := by
    simp only [Dev.dramUsable, Dev.dramChans, Dev.density, hval F.DRC_CFG_CHAN_EN rfl (by decide),
      hval F.DRC_CFG_DENSITY rfl (by decide)]
  rw [e.place_of_dram ha, d.place_of_dram ha, husable]

/-- A Helm window's address is a byte of a TCM, or nothing. -/
theorem Dev.tcmAt_mem {d : Dev} {o p : Nat} (ho : o < 0xA00000) (h : d.tcmAt o = .mem p) :
    0x8000000 ≤ p ∧ p < 0x8A00000 ∧ p % 0x200000 = o % 0x200000 := by
  unfold Dev.tcmAt at h
  extract_lets k q spare at h
  have hk : (if spare then 4 else k) ≤ 4 := by
    split
    · exact Nat.le_refl 4
    · omega
  generalize (if spare then 4 else k) = core at h hk
  have hq : q = o % 0x200000 := rfl
  split at h
  · cases h
    omega
  · cases h

/-- An address is memory in a TCM's window, in the shared SRAM, or in the usable DRAM. -/
theorem Dev.place_mem {d : Dev} {a p : Nat} (h : d.place a = .mem p) :
    (0x8000000 ≤ a ∧ a < 0x8A00000 ∧ 0x8000000 ≤ p ∧ p < 0x8A00000) ∨ (p = a ∧ 0x10000000 ≤ a ∧ a < 0x10800000) ∨
      (p = a ∧ dramBase ≤ a ∧ a < dramBase + d.dramUsable) := by
  unfold Dev.place at h
  split at h
  · cases h
  · split at h
    · rename_i h2
      obtain ⟨hp1, hp2, -⟩ := Dev.tcmAt_mem (by omega) h
      exact .inl ⟨h2.1, h2.2, hp1, hp2⟩
    · split at h
      · cases h
        exact .inr (.inl ⟨rfl, ‹_›⟩)
      · split at h
        · cases h
        · split at h
          · cases h
            exact .inr (.inr ⟨rfl, ‹_›⟩)
          · cases h

/-- The `n` bytes from `a` on are memory, from byte `p` of it on. -/
def Dev.holds (d : Dev) (a p n : Nat) : Prop := ∀ i, i < n → d.place (a + i) = .mem (p + i)

theorem Dev.holds_of_regs {d e : Dev} (h : e.regs = d.regs) {a p n : Nat} (hm : d.holds a p n) : e.holds a p n :=
  fun i hi => (Dev.place_of_regs h _).trans (hm i hi)

theorem Dev.place_of_holds {d : Dev} {a p n : Nat} (h : d.holds a p n) (hn : 0 < n) : d.place a = .mem p := h 0 hn

/-- Memory begins behind the boot ROM. -/
theorem Dev.ge_of_holds {d : Dev} {a p n : Nat} (h : d.holds a p n) (hn : 0 < n) : 0x10000 ≤ p := by
  have hb : dramBase = 0x800000000 := rfl
  rcases Dev.place_mem (Dev.place_of_holds h hn) with h | h | h <;> omega

/-- Memory is in TCM or shared SRAM in whole, or in DRAM in whole. -/
theorem Dev.holds_near_or_dram {d : Dev} {a p n : Nat} (h : d.holds a p n) (hn : 0 < n) (h4 : n ≤ 4096) :
    p + n ≤ 0x10800000 ∨ (dramBase ≤ a ∧ p = a) := by
  have hb : dramBase = 0x800000000 := rfl
  have hlast : d.place (a + (n - 1)) = .mem (p + (n - 1)) := h (n - 1) (by omega)
  rcases Dev.place_mem (Dev.place_of_holds h hn) with h | h | h <;>
    rcases Dev.place_mem hlast with h' | h' | h' <;> omega

/-- Memory is no DRAM beyond the usable capacity (R236). -/
theorem Dev.not_beyond_of_holds {d : Dev} {a p n : Nat} (h : d.holds a p n) (hn : 0 < n) : d.beyond a n = false := by
  have hb : dramBase = 0x800000000 := rfl
  have hlast : d.place (a + (n - 1)) = .mem (p + (n - 1)) := h (n - 1) (by omega)
  unfold Dev.beyond
  rw [decide_eq_false_iff_not]
  rcases Dev.place_mem hlast with h' | h' | h' <;> omega

/-! ### An access to memory that its core's protection passes -/

theorem Dev.tcmShow_good (d : Dev) (a : Nat) : d.tcmShow a .good = d := by
  unfold Dev.tcmShow
  cases (d.place a).tcm <;> rfl

/-- Aligned memory that takes the use ends with no fault (R262). -/
theorem Dev.accessFault_mem {d : Dev} {h a p n : Nat} {u : Use} (hp : (d.core h).pmpOk u a n = true)
    (hm : d.holds a p n) (hu : ∀ i, i < n → u.ok (.mem (p + i)) = true) (ha : a % n = 0) (hn : 0 < n) (h4 : n ≤ 4096) :
    d.accessFault h u a n .good = (d, none) := by
  have hrange : d.rangeOk u.ok a n = true := by
    have hlast : d.place (a + n - 1) = .mem (p + (n - 1)) := by
      rw [Nat.add_sub_assoc hn]; exact hm (n - 1) (by omega)
    have hone : (n + 4095) / 4096 = 1 := by omega
    have hfirst : u.ok (.mem p) = true := hu 0 hn
    have hpos : (n != 0) = true := by rw [bne_iff_ne]; omega
    simp only [Dev.rangeOk, hlast, hu (n - 1) (by omega), hone, List.range_one, List.all_cons, List.all_nil, Nat.mul_zero,
      Nat.add_zero, Dev.place_of_holds hm hn, hfirst, hpos, Bool.and_true]
  have hal : d.unaligned u a n = (d, none) := by
    unfold Dev.unaligned
    rw [if_pos (.inl ha)]
  unfold Dev.accessFault
  rw [hp, hal]
  simp only [Bool.not_true, Bool.false_eq_true, if_false, Option.isSome_none, hrange, true_or, if_true]
  split
  · contradiction
  · rfl

/-- A use of aligned memory that the protection of its core passes is carried out (R262). -/
theorem Work.access_mem {w : Work} {port a p n : Nat} {u : Use} (go : Work → Work) (hp : w.dev.passes port u a n = true)
    (hm : w.dev.holds a p n) (hu : ∀ i, i < n → u.ok (.mem (p + i)) = true) (ha : a % n = 0) (hn : 0 < n)
    (h4 : n ≤ 4096) : w.access port u a n .good go = go w := by
  have hshow : w.on (fun d => d.tcmShow a .good) = w := by
    simp only [Work.on, Dev.tcmShow_good]
  by_cases hport : 5 ≤ port
  · simp only [Work.access, hport, if_true, hshow]
  · have hpmp : (w.dev.core port).pmpOk u a n = true := by simpa [Dev.passes, hport] using hp
    have hsame : w.on (fun _ => w.dev) = w := rfl
    simp only [Work.access, hport, if_false, Dev.accessFault_mem hpmp hm hu ha hn h4, hsame, hshow]

/-! ### What a store writes -/

/-- A write breaks reservations (R262), and changes nothing else of the block. -/
theorem Dev.breakResv_eq (d : Dev) (a n : Nat) : ∃ icu, d.breakResv a n = { d with icu := icu } := by
  have fold : ∀ (l : List Nat) (g : Dev → Nat → Dev) (_ : ∀ e x, ∃ icu, g e x = { e with icu := icu }) (e : Dev),
      ∃ icu, l.foldl g e = { e with icu := icu } := by
    intro l g hg
    induction l with
    | nil => exact fun e => ⟨e.icu, rfl⟩
    | cons x l ih =>
      intro e
      obtain ⟨i1, h1⟩ := hg e x
      obtain ⟨i2, h2⟩ := ih (g e x)
      refine ⟨i2, ?_⟩
      rw [List.foldl_cons, h2, h1]
  unfold Dev.breakResv
  split
  · refine fold _ _ (fun e x => ?_) d
    split
    · split
      · exact ⟨_, rfl⟩
      · exact ⟨e.icu, rfl⟩
    · exact ⟨e.icu, rfl⟩
  · exact ⟨d.icu, rfl⟩

theorem Dev.breakResv_regs (d : Dev) (a n : Nat) : (d.breakResv a n).regs = d.regs := by
  obtain ⟨icu, h⟩ := d.breakResv_eq a n
  rw [h]

theorem Dev.breakResv_draws (d : Dev) (a n : Nat) : (d.breakResv a n).draws = d.draws := by
  obtain ⟨icu, h⟩ := d.breakResv_eq a n
  rw [h]

/-- A write sets no reservation. -/
theorem Dev.breakResv_none (d : Dev) (a n : Nat) {h : Nat} (hr : (d.core h).resv = none) :
    ((d.breakResv a n).core h).resv = none := by
  unfold Dev.breakResv
  split
  · refine List.foldlRecOn (motive := fun e : Dev => (e.core h).resv = none) _ _ hr fun e he x _ => ?_
    split
    · split
      · by_cases hx : x = h
        · subst hx
          rw [Dev.core_setCore]
        · rw [Dev.core_setCore_ne _ hx]
          exact he
      · exact he
    · exact he
  · exact hr

/-- Bytes written one after the other to memory. -/
theorem Work.foldl_writeAt : ∀ (bs : List Byte) (w : Work) (a p : Nat), w.dev.holds a p bs.length →
    (cellsAt a bs).foldl (fun w c => w.writeAt c.1 c.2) w = w.pokes p bs
  | [], _, _, _, _ => rfl
  | b :: bs, w, a, p, h => by
    have hfirst : w.dev.place a = .mem p := h 0 (Nat.zero_lt_succ _)
    have hone : w.writeAt a b = w.poke p b := by
      unfold Work.writeAt
      rw [hfirst]
    have hrest : (w.poke p b).dev.holds (a + 1) (p + 1) bs.length := by
      intro i hi
      have := h (i + 1) (by simp only [List.length_cons]; omega)
      rwa [show a + (i + 1) = a + 1 + i by omega, show p + (i + 1) = p + 1 + i by omega] at this
    rw [cellsAt, List.foldl_cons, hone, Work.foldl_writeAt bs _ _ _ hrest]
    simp only [Work.pokes, Work.poke, cellsAt, List.reverse_cons, List.append_assoc, List.singleton_append]

/-- TCM and shared SRAM have no controller that an access would meet. -/
theorem Work.touch_near {w : Work} {a p n : Nat} (hm : w.dev.holds a p n) (hn : 0 < n) (hp : p + n ≤ 0x10800000)
    (wr : Bool) (ecc : EccResult) : w.touch a n wr ecc = w := by
  have hb : dramBase = 0x800000000 := rfl
  unfold Work.touch
  simp only [Dev.not_beyond_of_holds hm hn, Bool.false_eq_true, if_false, Dev.place_of_holds hm hn]
  rw [if_pos (by omega)]

/-- A store to TCM or shared SRAM writes its bytes there, and breaks reservations. -/
theorem Work.store_near {w : Work} {a p : Nat} {bs : List Byte} (hm : w.dev.holds a p bs.length) (hn : 0 < bs.length)
    (hp : p + bs.length ≤ 0x10800000) : w.store a bs = (w.on (fun d => d.breakResv a bs.length)).pokes p bs := by
  unfold Work.store
  rw [Work.touch_near hm hn hp]
  exact Work.foldl_writeAt bs _ a p (Dev.holds_of_regs (w.dev.breakResv_regs a bs.length) hm)

/-! ### A store to DRAM that is still (R236, R240, R242) -/

/-- The registers that accesses of DRAM count in: all of the controller's but DRC_CFG. -/
def DrcReg (a : Nat) : Prop := a / 0x10000 = 0x400A ∧ a ≠ R.DRC_CFG

/-- The DRAM controller's registers have counted, and no request pends that did not before. -/
def Dev.Counted (d e : Dev) : Prop := d.Touches DrcReg e ∧ e.drc.pend = d.drc.pend

theorem Dev.Counted.refl (d : Dev) : d.Counted d := ⟨.refl _ d, rfl⟩

theorem Dev.Counted.trans {d e f : Dev} (h : d.Counted e) (g : e.Counted f) : d.Counted f :=
  ⟨h.1.trans g.1, g.2.trans h.2⟩

theorem Dev.Counted.inc {d e : Dev} (h : d.Counted e) {f : Fld} (hf : DrcReg f.addr)
    (hn : (f.lo + f.len).ble 32 = true := by rfl) : d.Counted (e.inc f) :=
  ⟨h.1.inc hf hn, by rw [Dev.inc_drc]; exact h.2⟩

theorem Dev.Counted.setDch {d e : Dev} (h : d.Counted e) (ch : Nat) (x : DramChan) : d.Counted (e.setDch ch x) :=
  ⟨h.1.trans (.of_regs rfl rfl rfl), h.2⟩

theorem Dev.counted_rolling (d : Dev) (ch bank : Nat) : d.Counted (d.rolling ch bank) := by
  unfold Dev.rolling
  extract_lets lim x k
  split
  · exact .refl d
  · split
    · exact (Dev.Counted.refl d).setDch ch _
    · have h := ((Dev.Counted.refl d).setDch ch { x with raa := tabSet 0 x.raa bank (k - lim) }).inc
        (f := F.DRC_RFM_DEV_CNT) ⟨rfl, by decide⟩
      exact ⟨h.1.raise (f := F.DRC_FLAG_RFM_DEV) ⟨rfl, by decide⟩, (congrArg _ (Dev.regsEvt_raise _ _).keeps_drc).trans h.2⟩

/-- An activation of a bank (R240). -/
theorem Dev.counted_act (d : Dev) (ch off : Nat) : d.Counted (d.act ch off) := by
  have hdraw : d.Counted d.draw.2 := ⟨.of_regs rfl rfl rfl, rfl⟩
  have hrfm : d.Counted (if d.draw.1.toNat % 2 ^ max 6 (min 16 (d.val F.DRC_RFM)) = 0 then d.draw.2.inc F.DRC_RFM_CNT
      else d.draw.2) := by
    split
    · exact hdraw.inc (f := F.DRC_RFM_CNT) ⟨rfl, by decide⟩
    · exact hdraw
  exact hrfm.trans (Dev.counted_rolling _ ch _)

/-- URG shown afresh (R238). -/
theorem Dev.counted_urgShow (d : Dev) : d.Counted d.urgShow := by
  unfold Dev.urgShow
  refine List.foldlRecOn (motive := fun e => d.Counted e) _ _ (.refl d) fun e he r hr => ?_
  have hr : r < 16 := List.mem_range.1 hr
  dsimp only
  split
  · exact he
  · exact he.trans ⟨(Dev.Touches.refl _ e).put (f := F.DRC_RQr_QOS_URG r)
      (by simp only [DrcReg, F.DRC_RQr_QOS_URG, R.DRC_RQr_QOS, R.DRC_CFG]; omega) _, by rw [Dev.put_drc]⟩

/-- A change of the block alone, by which no more than the DRAM controller has counted. -/
def Work.CountedTo (w v : Work) : Prop := ∃ e, v = { w with dev := e } ∧ w.dev.Counted e

theorem Work.CountedTo.trans {u v w : Work} (h : u.CountedTo v) (g : v.CountedTo w) : u.CountedTo w := by
  obtain ⟨e, rfl, he⟩ := h
  obtain ⟨f, rfl, hf⟩ := g
  exact ⟨f, rfl, he.trans hf⟩

theorem Work.countedTo_on {w : Work} {f : Dev → Dev} (h : w.dev.Counted (f w.dev)) : w.CountedTo (w.on f) := ⟨_, rfl, h⟩

theorem Work.countedTo_dramOne {w : Work} (hp : w.dev.drc.pend = []) (g : Nat) : w.CountedTo (w.dramOne g .good) := by
  unfold Work.dramOne
  split
  · exact ⟨_, rfl, .refl _⟩
  · rename_i ch _
    rw [hp]
    exact Work.countedTo_on (w.dev.counted_act ch (64 * g))

theorem Work.countedTo_dramEach : ∀ (gs : List Nat) {w : Work}, w.dev.drc.pend = [] → w.CountedTo (Work.dramEach .good gs w)
  | [], _, _ => ⟨_, rfl, .refl _⟩
  | g :: gs, w, hp => by
    obtain ⟨e, he, hc⟩ := Work.countedTo_dramOne hp g
    unfold Work.dramEach
    rw [he]
    exact Work.CountedTo.trans ⟨e, rfl, hc⟩ (Work.countedTo_dramEach gs (hc.2.trans hp))

/-- An access of DRAM where no request pends and no speed change runs. -/
theorem Work.countedTo_touch {w : Work} {a n : Nat} (hm : w.dev.holds a a n) (hn : 0 < n) (ha : dramBase ≤ a)
    (hp : w.dev.drc.pend = []) (hb : w.dev.on F.DRC_STAT_FC_BUSY = false) : w.CountedTo (w.touch a n true .good) := by
  have hwait : Work.dramWait 2 w = w := by
    unfold Work.dramWait
    rw [hb]
    rfl
  unfold Work.touch
  simp only [Dev.not_beyond_of_holds hm hn, Bool.false_eq_true, if_false, Dev.place_of_holds hm hn, hwait]
  rw [if_neg (by omega)]
  obtain ⟨e1, h1, hc1⟩ := Work.countedTo_dramEach
    ((granules (a - dramBase) n).filter fun g => true && (decide (64 * g < a - dramBase) || decide (a - dramBase + n < 64 * g + 64))) hp
  rw [h1]
  have h2 := Work.countedTo_dramEach (granules (a - dramBase) n) (w := { w with dev := e1 }) (hc1.2.trans hp)
  exact (Work.CountedTo.trans ⟨e1, rfl, hc1⟩ h2).trans (Work.countedTo_on (Dev.counted_urgShow _))

/-- A store to DRAM that is still writes its bytes there, and nothing else of memory or flash. -/
theorem Work.store_dram {w : Work} {a : Nat} {bs : List Byte} (hm : w.dev.holds a a bs.length) (hn : 0 < bs.length)
    (ha : dramBase ≤ a) (hp : w.dev.drc.pend = []) (hb : w.dev.on F.DRC_STAT_FC_BUSY = false) :
    ∃ e, w.store a bs = ({ w with dev := e } : Work).pokes a bs := by
  obtain ⟨e, he, htouch, -⟩ := Work.countedTo_touch hm hn ha hp hb
  have hcfg : (e.breakResv a bs.length).reg R.DRC_CFG = w.dev.reg R.DRC_CFG :=
    (Dev.reg_of_regs (e.breakResv_regs a _) _).trans (htouch.reg _ (fun h => h.2 rfl) rfl)
  refine ⟨e.breakResv a bs.length, ?_⟩
  unfold Work.store
  rw [he]
  refine Work.foldl_writeAt bs _ a a fun i hi => ?_
  exact (Dev.place_dram hcfg (by omega)).trans (hm i hi)

/-! ### What stands in memory after it -/

theorem lastWrite_append (x : Nat) (l m : List (Nat × Byte)) :
    lastWrite x (l ++ m) = (lastWrite x l).or (lastWrite x m) := by
  induction l with
  | nil => simp [lastWrite]
  | cons e l ih =>
    simp only [List.cons_append, lastWrite]
    split
    · rfl
    · exact ih

theorem lastWrite_cellsAt : ∀ (bs : List Byte) (p x : Nat),
    lastWrite x (cellsAt p bs).reverse = if p ≤ x then bs[x - p]? else none
  | [], p, x => by simp [cellsAt, lastWrite]
  | b :: bs, p, x => by
    rw [cellsAt, List.reverse_cons, lastWrite_append, lastWrite_cellsAt bs (p + 1) x]
    simp only [lastWrite]
    rcases Nat.lt_trichotomy x p with h | rfl | h
    · rw [if_neg (by omega), if_neg (by omega), if_neg (by omega)]; rfl
    · rw [if_neg (by omega), if_pos rfl, if_pos (Nat.le_refl x), Nat.sub_self]; rfl
    · rw [if_pos (by omega), if_neg (by omega), if_pos (by omega), show x - p = (x - (p + 1)) + 1 by omega,
        List.getElem?_cons_succ, Option.or_none]

theorem bytesLE_getElem? : ∀ (k v i : Nat), i < k → (bytesLE k v)[i]? = some (BitVec.ofNat 8 (v / 256 ^ i))
  | k + 1, v, 0, _ => by simp [bytesLE]
  | k + 1, v, i + 1, h => by
    rw [bytesLE, List.getElem?_cons_succ, bytesLE_getElem? k (v / 256) i (by omega), Nat.div_div_eq_div_mul,
      ← Nat.pow_succ']

/-- A command that changes the block and writes `bs` at `p`: the bytes stand there, and every other byte is as it was. -/
theorem onWork_pokes {f : Work → Work} {s : State} {e : Dev} {p : Nat} {bs : List Byte}
    (h : f (Work.begin s) = ({ Work.begin s with dev := e } : Work).pokes p bs) (hp : 0x10000 ≤ p) :
    ∃ t, onWork f s = .next t ∧ t.dev = e ∧ t.pending = s.pending ∧ (∀ i b, bs[i]? = some b → t.byte (p + i) = b) ∧
      (∀ b, (∀ i, i < bs.length → b ≠ p + i) → t.byte b = s.byte b) ∧ ∀ b, t.nvByte b = s.nvByte b := by
  have ht := onWork_eq f s
  have hwr : (f (Work.begin s)).wr = (cellsAt p bs).reverse := by rw [h]; exact List.append_nil _
  have hgone : (f (Work.begin s)).gone = [] := by rw [h]; rfl
  have hnv : (f (Work.begin s)).nvWr = [] := by rw [h]; rfl
  refine ⟨_, ht, by rw [h]; rfl, rfl, fun i b hb => ?_, fun b hb => ?_, fun b => ?_⟩
  · rw [onWork_byte ht (by omega), hwr, lastWrite_cellsAt, if_pos (by omega), Nat.add_sub_cancel_left, hb]
  · by_cases hlow : b < 0x10000
    · simp only [State.byte, hlow, if_true]
    · have hnone : lastWrite b (cellsAt p bs).reverse = none := by
        rw [lastWrite_cellsAt]
        split
        · rw [List.getElem?_eq_none_iff]
          by_contra hc
          exact hb (b - p) (by omega) (by omega)
        · rfl
      rw [onWork_byte ht (by omega), hwr, hnone, hgone]
      rfl
  · rw [onWork_nvByte ht, hnv]
    rfl

end Sys2Proof.Machine
end

/-! PROOFS. What a port's plain writes, a core's LR and SC, and an access with no ground do (R2, R235, R262). -/
section
-- One lemma at a time: elaborated side by side they take more threads than the check's memory limit leaves room for.
set_option Elab.async false
namespace Sys2Proof.Machine

/-! ### Plain writes -/

theorem Work.busWrite_mem {w : Work} {a p : Nat} (h : w.dev.place a = .mem p) (port n : Nat) (v : BitVec 64) :
    w.busWrite port a n v = w.store a (bytesLE n v.toNat) := by
  unfold Work.busWrite
  rw [h]

section
variable {s : State} {a p n w : Nat} (hn : 0 < n) (ha : a % n = 0) (h4 : n ≤ 4096) (hm : s.dev.holds a p n)
include hn ha h4 hm

/-- A plain write to memory that passes is the store of its bytes. -/
theorem exec_registerWrite_mem (hp : s.dev.passes w .store a n = true) (v : BitVec 64) :
    exec (.registerWrite w a n v .plain .good) s = onWork (fun k => k.store a (bytesLE n v.toNat)) s := by
  have hm' : (Work.begin s).dev.holds a p n := hm
  have hp' : (Work.begin s).dev.passes w .store a n = true := hp
  rw [exec_registerWrite_eq]
  refine onWork_congr ?_
  simp only [Work.portWrite]
  rw [Work.access_mem _ hp' hm' (fun _ _ => rfl) ha hn h4, Work.busWrite_mem (Dev.place_of_holds hm' hn)]

theorem plainWrite_takes (hp : s.dev.passes w .store a n = true) (v : BitVec 64)
    (hq : p + n ≤ 0x10800000 ∨ (s.dev.drc.pend = [] ∧ s.dev.on F.DRC_STAT_FC_BUSY = false)) :
    ∃ t, exec (.registerWrite w a n v .plain .good) s = .next t ∧ t.pending = s.pending ∧
      (p + n ≤ 0x10800000 → (∀ b, t.dev.reg b = s.dev.reg b) ∧ t.dev.draws = s.dev.draws) ∧
      (∀ i, i < n → t.byte (p + i) = BitVec.ofNat 8 (v.toNat / 256 ^ i)) ∧
      (∀ b, (∀ i, i < n → b ≠ p + i) → t.byte b = s.byte b) ∧ (∀ b, t.nvByte b = s.nvByte b) := by
  have hlen : (bytesLE n v.toNat).length = n := bytesLE_length n v.toNat
  have hm' : (Work.begin s).dev.holds a p (bytesLE n v.toNat).length := by rw [hlen]; exact hm
  obtain ⟨e, he, hnear⟩ : ∃ e, (Work.begin s).store a (bytesLE n v.toNat) =
      ({ Work.begin s with dev := e } : Work).pokes p (bytesLE n v.toNat) ∧
      (p + n ≤ 0x10800000 → (∀ b, e.reg b = s.dev.reg b) ∧ e.draws = s.dev.draws) := by
    rcases Dev.holds_near_or_dram hm hn h4 with hnear | ⟨hdram, rfl⟩
    · exact ⟨_, Work.store_near hm' (by omega) (by omega), fun _ =>
        ⟨fun b => Dev.reg_of_regs (Dev.breakResv_regs _ _ _) b, Dev.breakResv_draws _ _ _⟩⟩
    · have hb : dramBase = 0x800000000 := rfl
      obtain ⟨hpend, hbusy⟩ := hq.resolve_left (by omega)
      obtain ⟨e, he⟩ := Work.store_dram hm' (by omega) hdram hpend hbusy
      exact ⟨e, he, fun h => absurd h (by omega)⟩
  obtain ⟨t, ht, rfl, hpending, hbytes, hrest, hnv⟩ :=
    onWork_pokes (f := fun k => k.store a (bytesLE n v.toNat)) he (Dev.ge_of_holds hm hn)
  rw [hlen] at hrest
  exact ⟨t, (exec_registerWrite_mem hn ha h4 hm hp v).trans ht, hpending, hnear,
    fun i hi => hbytes i _ (bytesLE_getElem? n _ i hi), hrest, hnv⟩

end

/-! ### LR and SC (R262) -/

theorem Dev.granuleOf_mem {d : Dev} {a p : Nat} (h : d.place a = .mem p) : d.granuleOf a = some (p / 64) := by
  unfold Dev.granuleOf
  rw [h]

/-- A byte that a command has not yet written is the state's. -/
theorem Work.peek_begin (s : State) {p : Nat} (hp : 0x10000 ≤ p) : (Work.begin s).peek p = s.byte p := by
  simp only [Work.peek, Work.begin_wr, lastWrite, Work.begin_gone, inRanges, List.any_nil, Bool.false_eq_true, if_false,
    State.byte, Nat.not_lt.2 hp]
  rfl

theorem Work.busRead_near {w : Work} {a p n : Nat} (hm : w.dev.holds a p n) (hn : 0 < n) (hp : p + n ≤ 0x10800000) :
    w.busRead a n = w.on (fun d => { d with
      rdata := BitVec.ofNat 32 (natLE ((List.range n).map (fun i => w.peek (p + i))))
      rdataHi := BitVec.ofNat 32 (natLE ((List.range n).map (fun i => w.peek (p + i))) / 2 ^ 32) }) := by
  have hreads : w.reads a n = (List.range n).map (fun i => w.peek (p + i)) := by
    refine List.map_congr_left fun i hi => ?_
    unfold Work.readAt
    rw [hm i (List.mem_range.1 hi)]
  unfold Work.busRead
  rw [Dev.place_of_holds hm hn]
  simp only [Work.load, Work.loadEcc, Work.touch_near hm hn hp, hreads]

theorem natLE_getElem? : ∀ (l : List Byte) (i : Nat) (b : Byte), l[i]? = some b → natLE l / 256 ^ i % 256 = b.toNat
  | c :: l, 0, b, h => by
    obtain rfl : c = b := by simpa using h
    have := c.isLt
    simp only [natLE, Nat.pow_zero, Nat.div_one]
    omega
  | c :: l, i + 1, b, h => by
    have hc := c.isLt
    have hdiv : (c.toNat + 256 * natLE l) / 256 = natLE l := by omega
    rw [natLE, Nat.pow_succ', ← Nat.div_div_eq_div_mul, hdiv]
    exact natLE_getElem? l i b (by simpa using h)

/-- The bytes of the word that a read answers. -/
theorem extractLsb'_natLE {l : List Byte} {i : Nat} {b : Byte} (hi : i < 4) (h : l[i]? = some b) :
    (BitVec.ofNat 32 (natLE l)).extractLsb' (8 * i) 8 = b := by
  have hb := natLE_getElem? l i b h
  apply BitVec.eq_of_toNat_eq
  rw [BitVec.extractLsb'_toNat, BitVec.toNat_ofNat, Nat.shiftRight_eq_div_pow, ← hb]
  interval_cases i <;> omega

section
variable {s : State} {h : Fin 5} {a p n : Nat} (hn : 0 < n) (ha : a % n = 0) (h4 : n ≤ 4096) (hm : s.dev.holds a p n)
  (hnear : p + n ≤ 0x10800000)
include hn ha h4 hm hnear

/-- An SC of a core that holds the granule is a store and answers 0; of another it answers 1. Either ends the reservation. -/
theorem storeConditional_does (hp : s.dev.passes h .conditional a n = true) (v : BitVec 64) :
    ∃ t, exec (.registerWrite h a n v .conditional .good) s = .next t ∧ (t.dev.core h).resv = none ∧
      ((s.dev.core h).resv = some (p / 64) → t.dev.rdata = 0 ∧
        (∀ i, i < n → t.byte (p + i) = BitVec.ofNat 8 (v.toNat / 256 ^ i)) ∧
        (∀ b, (∀ i, i < n → b ≠ p + i) → t.byte b = s.byte b)) ∧
      ((s.dev.core h).resv ≠ some (p / 64) → t.dev.rdata = 1 ∧ s.sameStores t) := by
  have hlen : (bytesLE n v.toNat).length = n := bytesLE_length n v.toNat
  have hm' : (Work.begin s).dev.holds a p n := hm
  have hp' : (Work.begin s).dev.passes h .conditional a n = true := hp
  have huse : ∀ i, i < n → Use.ok .conditional (.mem (p + i)) = true := fun i hi => by
    simp only [Use.ok, decide_eq_true_eq]; omega
  let w1 := (Work.begin s).on (fun d => d.setCore h { d.core h with resv := none })
  have hm1 : w1.dev.holds a p n := Dev.holds_of_regs (Dev.setCore_regs _ _ _) hm'
  have hr1 : (w1.dev.core h).resv = none := by simp only [w1, Work.on_dev, Dev.core_setCore]
  have haccess : (Work.begin s).portWrite h a n v .conditional .good =
      if (s.dev.core h).resv = some (p / 64) then (w1.busWrite h a n v).on (fun d => d.answerWith 0)
      else w1.on (fun d => d.answerWith 1) := by
    simp only [Work.portWrite]
    rw [Work.access_mem _ hp' hm' huse ha hn h4]
    have hgran : w1.dev.granuleOf a = some (p / 64) := Dev.granuleOf_mem (Dev.place_of_holds hm1 hn)
    by_cases hheld : (s.dev.core h).resv = some (p / 64)
    · rw [if_pos hheld]
      exact if_pos ⟨congrArg Option.isSome hheld, hheld.trans hgran.symm⟩
    · rw [if_neg hheld]
      exact if_neg fun hc => hheld (hc.2.trans hgran)
  by_cases hheld : (s.dev.core h).resv = some (p / 64)
  · rw [if_pos hheld, Work.busWrite_mem (Dev.place_of_holds hm1 hn),
      Work.store_near (by rw [hlen]; exact hm1) (by omega) (by omega)] at haccess
    obtain ⟨t, ht, hdev, -, hbytes, hrest, -⟩ := onWork_pokes (s := s) (f := fun w => w.portWrite h a n v .conditional .good)
      (e := (w1.dev.breakResv a (bytesLE n v.toNat).length).answerWith 0) haccess (Dev.ge_of_holds hm hn)
    rw [hlen] at hrest
    refine ⟨t, (exec_registerWrite_eq _ _ _ _ _ _ _).trans ht, ?_, fun _ => ⟨?_, fun i hi => hbytes i _ (bytesLE_getElem? n _ i hi), hrest⟩,
      fun hc => absurd hheld hc⟩
    · rw [hdev]
      exact Dev.breakResv_none _ _ _ hr1
    · rw [hdev]; rfl
  · rw [if_neg hheld] at haccess
    have ht := (exec_registerWrite_eq h a n v .conditional .good s).trans (onWork_eq_onDev
      (g := fun d => (d.setCore h { d.core h with resv := none }).answerWith 1) haccess)
    refine ⟨_, ht.trans (onDev_next _ s), ?_, fun hc => absurd hc hheld, fun _ => ⟨rfl, s.sameStores_of_dev _⟩⟩
    exact hr1

/-- An LR takes the granule's reservation and reads. -/
theorem loadReserved_does (hp : s.dev.passes h .reserve a n = true) (h4n : 4 ≤ n) :
    ∃ t, exec (.loRead h a n .reserve .good) s = .next t ∧ (t.dev.core h).resv = some (p / 64) ∧ s.sameStores t ∧
      ∀ i, i < 4 → t.dev.rdata.extractLsb' (8 * i) 8 = s.byte (p + i) := by
  have hm' : (Work.begin s).dev.holds a p n := hm
  have hp' : (Work.begin s).dev.passes h .reserve a n = true := hp
  have huse : ∀ i, i < n → Use.ok .reserve (.mem (p + i)) = true := fun i hi => by
    simp only [Use.ok, decide_eq_true_eq]; omega
  let l := (List.range n).map (fun i => (Work.begin s).peek (p + i))
  let g : Dev → Dev := fun d =>
    { d with rdata := BitVec.ofNat 32 (natLE l), rdataHi := BitVec.ofNat 32 (natLE l / 2 ^ 32) }
  have ht : exec (.loRead h a n .reserve .good) s =
      onDev (fun d => (g d).setCore h { (g d).core h with resv := (g d).granuleOf a }) s := by
    rw [exec_loRead_eq]
    refine onWork_eq_onDev ?_
    simp only [Work.portRead]
    rw [Work.access_mem _ hp' hm' huse ha hn h4, Work.busRead_near hm' hn hnear]
    rfl
  refine ⟨_, ht.trans (onDev_next _ s), ?_, s.sameStores_of_dev _, fun i hi => ?_⟩
  · rw [Dev.core_setCore]
    exact Dev.granuleOf_mem ((Dev.place_of_regs (d := s.dev) rfl a).trans (Dev.place_of_holds hm hn))
  · refine extractLsb'_natLE (l := l) hi ?_
    have hpi := Dev.ge_of_holds hm hn
    simp only [l, List.getElem?_map, List.getElem?_range (show i < n by omega), Option.map_some,
      Work.peek_begin s (show 0x10000 ≤ p + i by omega)]

end

end Sys2Proof.Machine
end

/-! PROOFS. Accesses with no ground (R262), and MemoryTakesItsWrite. -/
section
-- One lemma at a time: elaborated side by side they take more threads than the check's memory limit leaves room for.
set_option Elab.async false
namespace Sys2Proof.Machine

/-! ### The flag of a core

A core's flag lies in ICU itself, where a flag that rises counts at its interrupt source and may publish: neither writes
a core's registers. -/

/-- A register of a core, or one of ICU before its sources. -/
def IcuCore (a : Nat) : Prop := 0x40060000 ≤ a ∧ a < 0x40061000

section
variable (d : Dev) {a : Nat} (hc : IcuCore a)
include hc

theorem Dev.core_not_at {f : Fld} (h : 0x40061000 ≤ f.addr) : ¬ f.At a := by
  obtain ⟨h1, h2⟩ := hc
  rintro (rfl | ⟨-, rfl⟩) <;> omega

theorem Dev.coreReg_evMerge {k : Nat} (t : Nat) : (d.evMerge k t).reg a = d.reg a := by
  unfold Dev.evMerge
  dsimp only
  split
  · rw [Dev.reg_put_ne _ (Dev.core_not_at hc (by decide)),
      Dev.reg_put_ne _ (Dev.core_not_at hc (by simp only [R.EVT_STORMw]; omega)),
      Dev.reg_mark_ne _ (Dev.core_not_at hc (by simp only [F.EVT_CHk_CFG_PEND, R.EVT_CHk_CFG]; omega)),
      Dev.reg_mark_ne _ (Dev.core_not_at hc (by simp only [F.EVT_CHk_CFG_EN, R.EVT_CHk_CFG]; omega)), Dev.reg_setEvch]
  · rfl

theorem Dev.coreReg_publishRaw (k c : Nat) : (d.publishRaw k c).reg a = d.reg a := by
  have hm : ¬ (F.EVT_CHk_MERGE_CNT k).At a :=
    Dev.core_not_at hc (by simp only [F.EVT_CHk_MERGE_CNT, R.EVT_CHk_MERGE_CNT]; omega)
  unfold Dev.publishRaw
  dsimp only
  split
  · exact d.reg_inc_ne (Dev.core_not_at hc (by decide))
  · split
    · exact d.reg_inc_ne (Dev.core_not_at hc (by simp only [F.EVT_CHk_COLLIDE_CNT, R.EVT_CHk_COLLIDE_CNT]; omega))
    · split
      · rw [Dev.coreReg_evMerge _ hc, Dev.reg_inc_ne _ hm, Dev.reg_setEvch]
      · generalize (match (d.evch k).lastAt with | some l => l + d.evSpacing k | none => 0) = soonest
        split
        · rfl
        · rw [Dev.coreReg_evMerge _ hc, Dev.reg_inc_ne _ hm,
            Dev.reg_mark_ne _ (Dev.core_not_at hc (by simp only [F.EVT_CHk_CFG_PEND, R.EVT_CHk_CFG]; omega)), Dev.reg_setEvch]

theorem Dev.coreReg_memberRiseOnce (i b : Nat) : (d.memberRiseOnce i b).reg a = d.reg a := by
  have hs : ¬ (F.ICU_SRCi_STAT_CNT i).At a :=
    Dev.core_not_at hc (by simp only [F.ICU_SRCi_STAT_CNT, R.ICU_SRCi_STAT]; omega)
  unfold Dev.memberRiseOnce
  dsimp only
  split
  · rfl
  · split
    · rw [Dev.coreReg_publishRaw _ hc, Dev.reg_put_ne _ hs]
    · exact d.reg_put_ne hs _

theorem Dev.coreReg_memberRise (i b : Nat) : (d.memberRise i b).reg a = d.reg a := by
  unfold Dev.memberRise
  dsimp only
  split
  · rw [Dev.coreReg_memberRiseOnce _ hc, Dev.coreReg_memberRiseOnce _ hc]
  · exact d.coreReg_memberRiseOnce hc i b

end

/-- A flag of a core that is raised reads 1. -/
theorem Dev.on_raise_core (d : Dev) {f : Fld} (h1 : f.len = 1) (h2 : f.lo < 32) (hc : IcuCore f.addr) :
    (d.raise f).on f = true := by
  have hput : (d.put f 1).on f = true := by
    unfold Dev.on
    rw [Dev.val_put_self _ (by omega), h1]
    rfl
  unfold Dev.raise
  split
  · assumption
  · dsimp only
    split
    · refine Eq.trans ?_ hput
      unfold Dev.on
      rw [Dev.val_congr fun a ha => ?_]
      rcases ha with rfl | ⟨h, -⟩
      · exact Dev.coreReg_memberRise _ hc _ _
      · omega
    · exact hput

theorem icuCore_flag {h : Nat} (hh : h < 5) : IcuCore (R.ICU_HLMh_FLAG h) := by
  simp only [IcuCore, R.ICU_HLMh_FLAG]; omega

/-! ### Exceptions -/

theorem Dev.core_of_icu {d e : Dev} (h : e.icu = d.icu) (i : Nat) : e.core i = d.core i := by
  unfold Dev.core
  rw [h]

/-- What core `h` of the block is after an exception, taken where it stood in `d` (R270). -/
def Core.Trapped (c : Core) (cause a : Nat) (t : Core) : Prop :=
  t.mcause = BitVec.ofNat 64 cause ∧ t.mtval = BitVec.ofNat 64 a ∧ t.mepc = c.pc &&& ~~~1#64 ∧ t.user = false ∧
    t.pc = c.mtvec &&& ~~~3#64

theorem Dev.exception_traps {d e : Dev} (h : e.icu = d.icu) (i cause a : Nat) :
    (d.core i).Trapped cause a ((e.exception i cause a).core i) := by
  unfold Dev.exception
  rw [Dev.core_of_icu h, Dev.core_setCore]
  exact ⟨rfl, rfl, rfl, rfl, rfl⟩

theorem Dev.exception_on (d : Dev) (i cause a : Nat) (f : Fld) : (d.exception i cause a).on f = d.on f :=
  Dev.on_of_regs (Dev.setCore_regs _ _ _) f

section
variable {w : Work} {h a n : Nat} {u : Use} (hh : h < 5) (go : Work → Work)
include hh

theorem Work.access_refused (tcm : TcmCheck) (hp : w.dev.passes h u a n = false) :
    w.access h u a n tcm go = w.on (fun d => d.exception h u.cause a) := by
  have hport : ¬ 5 ≤ h := by omega
  have hpmp : (w.dev.core h).pmpOk u a n = false := by simpa [Dev.passes, hport] using hp
  simp only [Work.access, hport, if_false, Dev.accessFault, hpmp, Bool.not_false, if_true, Work.on_dev, Bool.false_eq_true]
  rfl

theorem Work.access_faults {tcm : TcmCheck} {e : Dev} {c : Nat} (hp : w.dev.passes h u a n = true)
    (hf : w.dev.accessFault h u a n tcm = (e, some c)) (he : e.icu = w.dev.icu) :
    w.access h u a n tcm go = w.on (fun _ => (e.tcmShow a tcm).exception h c a) := by
  have hport : ¬ 5 ≤ h := by omega
  have hpmp : (e.core h).pmpOk u a n = true := by
    rw [Dev.core_of_icu he]
    simpa [Dev.passes, hport] using hp
  simp only [Work.access, hport, if_false, hf, Work.on_dev, hpmp, if_true]
  rfl

end

/-! ### The faults -/

section
variable {d : Dev} {h a : Nat} {u : Use} (ha : a % 4 = 0) (hh : h < 5) (hp : d.passes h u a 4 = true)
include ha hh hp

/-- A place that the use cannot be made of: the access fault, and BUS_ERR where nothing is there. -/
theorem Dev.accessFault_noPlace (tcm : TcmCheck) (hu : u.ok (d.place a) = false)
    (hb : d.beyond a 4 = false ∨ u.atomic = true) :
    d.accessFault h u a 4 tcm =
      (d.raiseIf (d.place a == .nothing || d.place (a + 4 - 1) == .nothing) (F.ICU_HLMh_FLAG_BUS_ERR h),
        some (if u.atomic then 7 else u.cause)) := by
  have hpmp : (d.core h).pmpOk u a 4 = true := by simpa [Dev.passes, Nat.not_le.2 hh] using hp
  have hrange : d.rangeOk u.ok a 4 = false := by
    simp [Dev.rangeOk, hu]
  have hcond : ¬ (d.rangeOk u.ok a 4 = true ∨ (d.beyond a 4 = true ∧ (! u.atomic) = true)) := by
    rw [hrange]
    rcases hb with hb | hb <;> simp [hb]
  have hal : d.unaligned u a 4 = (d, none) := by
    unfold Dev.unaligned
    rw [if_pos (.inl ha)]
  unfold Dev.accessFault
  rw [hpmp, hal]
  simp only [Bool.not_true, Bool.false_eq_true, if_false, Option.isSome_none]
  rw [if_neg hcond]

/-- A TCM word that cannot be corrected. -/
theorem Dev.accessFault_badTcm {k : Nat} (ht : (d.place a).tcm = some k) (hr : d.rangeOk u.ok a 4 = true) :
    d.accessFault h u a 4 .bad = (d, some u.cause) := by
  have hpmp : (d.core h).pmpOk u a 4 = true := by simpa [Dev.passes, Nat.not_le.2 hh] using hp
  have hal : d.unaligned u a 4 = (d, none) := by
    unfold Dev.unaligned
    rw [if_pos (.inl ha)]
  unfold Dev.accessFault
  rw [hpmp, hal]
  simp only [Bool.not_true, Bool.false_eq_true, if_false, Option.isSome_none, hr, true_or, if_true, ht]

end

/-- The last byte of an aligned word of TCM lies in the same TCM as its first. -/
theorem Dev.tcmAt_word {d : Dev} {o p : Nat} (ho : o % 4 = 0) (h : d.tcmAt o = .mem p) :
    ∃ q, d.tcmAt (o + 3) = .mem q := by
  unfold Dev.tcmAt at h ⊢
  dsimp only at h ⊢
  split at h
  · rename_i hin
    have hlast : (o + 3) % 0x200000 < 0x10000 ∨ 0x100000 ≤ (o + 3) % 0x200000 ∧ (o + 3) % 0x200000 < 0x110000 := by
      clear h
      omega
    rw [if_pos hlast]
    exact ⟨_, rfl⟩
  · contradiction

/-- An aligned word of which a byte lies in TCM is TCM in whole: a load can be made of it. -/
theorem Dev.rangeOk_tcm {d : Dev} {a k : Nat} (ha : a % 4 = 0) (ht : (d.place a).tcm = some k) :
    d.rangeOk (Use.ok .load) a 4 = true := by
  have hb : dramBase = 0x800000000 := rfl
  obtain ⟨p, hp, hp1, hp2⟩ : ∃ p, d.place a = .mem p ∧ 0x8000000 ≤ p ∧ p < 0x8A00000 := by
    cases h : d.place a with
    | mem p =>
      refine ⟨p, rfl, ?_⟩
      simp only [h, Place.tcm] at ht
      split at ht
      · contradiction
      · omega
    | rom => simp [h, Place.tcm] at ht
    | peri => simp [h, Place.tcm] at ht
    | nothing => simp [h, Place.tcm] at ht
  have hwindow : 0x8000000 ≤ a ∧ a < 0x8A00000 := by
    rcases Dev.place_mem hp with h | h | h <;> omega
  have hlast : ∃ q, d.place (a + 4 - 1) = .mem q := by
    unfold Dev.place at hp ⊢
    rw [if_neg (by omega), if_pos hwindow] at hp
    rw [if_neg (by omega), if_pos (by omega)]
    rw [show a + 4 - 1 - 0x8000000 = a - 0x8000000 + 3 by omega]
    exact Dev.tcmAt_word (by omega) hp
  obtain ⟨q, hq⟩ := hlast
  simp only [Dev.rangeOk, hp, hq, Use.ok, show (4 + 4095) / 4096 = 1 from rfl, List.range_one, List.all_cons, List.all_nil,
    Nat.mul_zero, Nat.add_zero]
  rfl

/-- An atomic has no place among the registers, nor in DRAM (R262). -/
theorem Dev.amo_not_ok {d : Dev} {a : Nat} (h : d.place a = .peri ∨ dramBase ≤ a) : Use.ok .amo (d.place a) = false := by
  have hb : dramBase = 0x800000000 := rfl
  rcases h with h | h
  · rw [h]; rfl
  · rw [d.place_of_dram h]
    split
    · simp only [Use.ok, decide_eq_false_iff_not]; omega
    · rfl

/-! ### What the state is after it -/

/-- An access that ends with an exception, once the flags of the block have become those of `e`. -/
theorem onWork_traps {f : Work → Work} {s : State} {e : Dev} {h c a : Nat} (he : e.icu = s.dev.icu)
    (hf : f (Work.begin s) = (Work.begin s).on (fun _ => e.exception h c a)) :
    ∃ t, onWork f s = .next t ∧ (s.sameStores t ∧ (s.dev.core h).Trapped c a (t.dev.core h)) ∧
      ∀ g, t.dev.on g = e.on g :=
  ⟨_, (onWork_eq_onDev hf).trans (onDev_next _ s), ⟨s.sameStores_of_dev _, Dev.exception_traps he h c a⟩,
    fun g => e.exception_on h c a g⟩

section
variable {s : State} {h : Fin 5} {a : Nat}

theorem refused_traps {u : Use} {n : Nat} (tcm : TcmCheck) (go : Work → Work) (hp : s.dev.passes h u a n = false) :
    ∃ t, onWork (fun w => w.access h u a n tcm go) s = .next t ∧
      (s.sameStores t ∧ (s.dev.core h).Trapped u.cause a (t.dev.core h)) := by
  have hp' : (Work.begin s).dev.passes h u a n = false := hp
  obtain ⟨t, ht, hgone, -⟩ := onWork_traps (f := fun w => w.access h u a n tcm go) (s := s) (e := (Work.begin s).dev) rfl
    (Work.access_refused h.isLt go tcm hp')
  exact ⟨t, ht, hgone⟩

/-- A use that memory does not take of its place. -/
theorem noPlace_traps {u : Use} (go : Work → Work) (ha : a % 4 = 0) (hp : s.dev.passes h u a 4 = true)
    (hu : u.ok (s.dev.place a) = false) (hb : s.dev.beyond a 4 = false ∨ u.atomic = true) :
    ∃ t, onWork (fun w => w.access h u a 4 .good go) s = .next t ∧
      (s.sameStores t ∧ (s.dev.core h).Trapped (if u.atomic then 7 else u.cause) a (t.dev.core h)) ∧
      (s.dev.place a = .nothing → t.dev.on (F.ICU_HLMh_FLAG_BUS_ERR h) = true) := by
  have hplace : (Work.begin s).dev.place a = s.dev.place a := Dev.place_of_regs rfl a
  have hfault := Dev.accessFault_noPlace (d := (Work.begin s).dev) ha h.isLt hp .good (by rw [hplace]; exact hu) hb
  have hicu := ((Work.begin s).dev.regsEvt_raiseIf ((Work.begin s).dev.place a == .nothing ||
    (Work.begin s).dev.place (a + 4 - 1) == .nothing) (F.ICU_HLMh_FLAG_BUS_ERR h)).keeps_icu
  have haccess := Work.access_faults (w := Work.begin s) h.isLt go hp hfault hicu
  rw [Dev.tcmShow_good] at haccess
  obtain ⟨t, ht, hgone, hon⟩ := onWork_traps (f := fun w => w.access h u a 4 .good go) hicu haccess
  refine ⟨t, ht, hgone, fun hnone => ?_⟩
  rw [hon, hplace, hnone]
  exact Dev.on_raise_core _ rfl (by simp only [F.ICU_HLMh_FLAG_BUS_ERR]; omega) (icuCore_flag h.isLt)

/-- A TCM word that cannot be corrected ends a load. -/
theorem badTcm_traps {k : Fin 5} (go : Work → Work) (ha : a % 4 = 0) (hp : s.dev.passes h .load a 4 = true)
    (ht : (s.dev.place a).tcm = some k.val) :
    ∃ t, onWork (fun w => w.access h .load a 4 .bad go) s = .next t ∧
      (s.sameStores t ∧ (s.dev.core h).Trapped 5 a (t.dev.core h)) ∧ t.dev.on (F.ICU_HLMh_FLAG_TCM_UE k) = true := by
  have ht' : ((Work.begin s).dev.place a).tcm = some k.val := by
    rw [Dev.place_of_regs (d := s.dev) (e := (Work.begin s).dev) rfl a]; exact ht
  have haccess := Work.access_faults (w := Work.begin s) h.isLt go hp
    (Dev.accessFault_badTcm ha h.isLt hp ht' (Dev.rangeOk_tcm ha ht')) rfl
  have hshow : (Work.begin s).dev.tcmShow a .bad = (Work.begin s).dev.raise (F.ICU_HLMh_FLAG_TCM_UE k) := by
    unfold Dev.tcmShow
    rw [ht']
  rw [hshow] at haccess
  obtain ⟨t, hnext, hgone, hon⟩ := onWork_traps (f := fun w => w.access h .load a 4 .bad go)
    ((Work.begin s).dev.regsEvt_raise (F.ICU_HLMh_FLAG_TCM_UE k)).keeps_icu haccess
  refine ⟨t, hnext, hgone, ?_⟩
  rw [hon]
  exact Dev.on_raise_core _ rfl (by simp only [F.ICU_HLMh_FLAG_TCM_UE]; omega) (icuCore_flag k.isLt)

end

/-- Settles O12: an aligned access to memory that passes is the store or the load of its bytes
(`plainWrite_takes`, `storeConditional_does`, `loadReserved_does`), and one with no ground ends with the trap of its
core (`refused_traps`, `noPlace_traps`, `badTcm_traps`). -/
theorem memoryTakesItsWrite : Obligations.MemoryTakesItsWrite := by
  refine ⟨fun s a p n w v hn ha h4 hm hp hq => ?_, fun s h a p n v hsize ha _ hm hnear hc hr => ?_, fun s h a v o ha => ?_⟩
  · exact plainWrite_takes hn ha (Nat.le_of_dvd (by decide) (Nat.dvd_of_mod_eq_zero h4)) hm hp v hq
  · exact ⟨storeConditional_does (by omega) ha (by omega) hm hnear hc v,
      loadReserved_does (by omega) ha (by omega) hm hnear hr (by omega)⟩
  · refine ⟨fun hp => ?_, fun hp => ?_, fun hp => ?_, fun hnone hb hp => ?_, fun hplace hp => ?_, fun k hk hp => ?_⟩
    · exact refused_traps .good (fun w => w.busRead a 4) hp
    · exact refused_traps .good (fun w => w.busRead a 4) hp
    · exact refused_traps .good (fun w => w.busWrite h a 4 v) hp
    · obtain ⟨t, ht, hgone, hbus⟩ := noPlace_traps (fun w => w.busRead a 4) ha hp (by rw [hnone]; rfl) (.inl hb)
      exact ⟨t, ht, hgone, hbus hnone⟩
    · obtain ⟨t, ht, hgone, -⟩ := noPlace_traps (fun w => (w.busRead a 4).busWrite h a 4 (amoResult o 4 (w.busRead a 4).dev.answered v))
        ha hp (Dev.amo_not_ok hplace) (.inr rfl)
      exact ⟨t, ht, hgone⟩
    · exact badTcm_traps (fun w => w.busRead a 4) ha hp hk

end Sys2Proof.Machine
end

/-! PROOFS. Which registers a move of the position writes, register by register: the unit's and those of TRG, a
channel's own, and the compare units' CTRL (R16, R27, R35 to R37, R44 to R57). -/
section
-- One lemma at a time: elaborated side by side they take more threads than the check's memory limit leaves room for.
set_option Elab.async false
namespace Sys2Proof.Machine

/-- A register of TRG. -/
def TrgReg (a : Nat) : Prop := a / 0x10000 = 0x400C

/-- A register of the Log that belongs to the unit, not to a channel, beside LOG_CTRL. -/
def UnitReg (a : Nat) : Prop := 0x400B0004 ≤ a ∧ a < 0x400B1000

/-- CTRL of a compare unit of channel `c`, of any channel for `none`. -/
def CmpCtrl (c : Option Nat) (a : Nat) : Prop :=
  ∃ n m, n < 32 ∧ m < 4 ∧ (∀ k, c = some k → n = k) ∧ a = R.LOGn_CMPm_CTRL n m

/-- The registers that a move of the unit position may write. -/
def UnitMove (a : Nat) : Prop := TrgReg a ∨ UnitReg a ∨ CmpCtrl none a

/-- The registers that a position of channel `n` shown afresh may write, beside those of the unit's move. -/
def ChanShow (n a : Nat) : Prop :=
  a = R.LOGn_POS n ∨ a = R.LOGn_POS n + 4 ∨ a = R.LOGn_FLAG n ∨ CmpCtrl (some n) a

theorem trgReg_stream {o s : Nat} (ho : o < 0x40) (hs : s < 64) : TrgReg (0x400C1000 + o + s * 0x40) := by
  unfold TrgReg; omega

theorem trgReg_strobe {o t : Nat} (ho : o < 0x20) (ht : t < 96) : TrgReg (0x400C3000 + o + t * 0x20) := by
  unfold TrgReg; omega

theorem unitMove_unit {a : Nat} (h1 : 0x400B0004 ≤ a) (h2 : a < 0x400B1000) : UnitMove a := .inr (.inl ⟨h1, h2⟩)

namespace Dev.Touches

variable {W : Nat → Prop} {d e : Dev} {n s : Nat}

/-- A field that none of the operations writes holds what it held. -/
theorem keeps_val (h : d.Touches W e) {f : Fld} (hW : ∀ a, f.At a → ¬ W a) (hq : f.quiet) : e.val f = d.val f :=
  Dev.val_congr fun a ha => h.reg a (hW a ha) (Fld.quiet_at hq ha)

theorem keeps_vali (h : d.Touches W e) {f : Fld} (hW : ∀ a, f.At a → ¬ W a) (hq : f.quiet) : e.vali f = d.vali f := by
  unfold Dev.vali
  rw [h.keeps_val hW hq]

theorem puti (h : d.Touches W e) {f : Fld} (hW : W f.addr) (hW' : W (f.addr + 4)) (v : Int) : d.Touches W (e.puti f v) :=
  h.putWide hW hW' _

/-! ### Crossings -/

theorem skipCross_trg (h : d.Touches TrgReg e) (hs : s < 64) (k : Int) (m c : Nat) :
    d.Touches TrgReg (e.skipCross s k m c) :=
  ite h ((((h.bump (f := F.TRGs_SKIP_CNT s) (trgReg_stream (o := 0x20) (by decide) hs) m).raise
    (f := F.TRGs_FLAG_OVERSPEED s) (trgReg_stream (o := 8) (by decide) hs)).raise
    (f := F.TRG_FLAG_OVERSPEED) rfl).passCross s _)

theorem fireStrobes_trg (h : d.Touches TrgReg e) (s : Nat) (b : Int) (c : Nat) : d.Touches TrgReg (e.fireStrobes s b c) := by
  unfold Dev.fireStrobes
  refine foldl _ _ h fun t ht u => ?_
  have ht : t < 96 := e.mem_listed ht
  have hcount : u.Touches TrgReg (if (u.stb t).tickStart.isSome then u.inc (F.STBt_OVL_CNT t) else u) :=
    ite ((refl _ u).inc (f := F.STBt_OVL_CNT t) (trgReg_strobe (o := 0x18) (by decide) ht)) (refl _ u)
  have hstart : ∀ {v : Dev} (_ : u.Touches TrgReg v) (z : Strobe), u.Touches TrgReg (v.setStb t z) :=
    fun hv _ => hv.trans (of_regs rfl rfl rfl)
  exact ite (refl _ u) (ite ((hstart hcount _).mark (f := F.STBt_STAT_PENDING t)
    (trgReg_strobe (o := 4) (by decide) ht) true) (hstart (refl _ u) _))

theorem issue_trg (h : d.Touches TrgReg e) (hs : s < 64) (k : Int) (c : Nat) : d.Touches TrgReg (e.issue s k c) := by
  unfold Dev.issue
  extract_lets e1 r e2 t e3 y e4 e5 e6
  have hplaced : d.Touches TrgReg e2 :=
    (h.inc (f := F.TRGs_TRIG_CNT s) (trgReg_stream (o := 0x1C) (by decide) hs)).placeTrig s _
  have hdeferred : d.Touches TrgReg e3 :=
    ite ((hplaced.inc (f := F.TRGs_DEFER_CNT s) (trgReg_stream (o := 0x24) (by decide) hs)).raise
      (f := F.TRGs_FLAG_DEFER s) (trgReg_stream (o := 8) (by decide) hs)) hplaced
  have hlisted : d.Touches TrgReg e4 := hdeferred.trans (of_regs rfl rfl rfl)
  exact ite (h.skipCross_trg hs k 1 c) (((hlisted.fireStrobes_trg s _ _).handOverAt s k _).passCross s _)

/-- Crossings are TRG's alone. -/
theorem crossings_trg (h : d.Touches TrgReg e) (path : Nat → Int) (h0 h1 : Int) :
    d.Touches TrgReg (e.crossings path h0 h1) := by
  unfold Dev.crossings
  extract_lets lo hi e1 found
  have hagain : d.Touches TrgReg e1 := foldl _ _ h fun s _ u => (refl _ u).trgAgain s
  refine foldl _ _ hagain fun x hx u => ?_
  obtain ⟨s, hs, hx⟩ := List.mem_flatMap.1 (mem_orderBy hx)
  have hs : s < 64 := Dev.mem_listed _ hs
  split at hx
  · cases hx
  · have hxs := Dev.cycleRuns_stream _ path hx
    exact ((refl _ u).issue_trg (by omega) _ _).skipCross_trg (by omega) _ _ _

/-! ### Compare units -/

theorem cmpRefresh_ctrl (h : d.Touches W e) (hW : ∀ a, CmpCtrl none a → W a) : d.Touches W e.cmpRefresh := by
  unfold Dev.cmpRefresh
  refine foldl _ _ h fun u hu v => ?_
  obtain ⟨hn, hm⟩ := e.mem_cmpUnits hu
  exact ite ((refl _ v).put (f := F.LOGn_CMPm_CTRL_BACKLOG u.1 u.2.1) (hW _ ⟨_, _, hn, hm, nofun, rfl⟩) _) (refl _ v)

/-- The ONCE units that owe a hit are those of the channel that moved, or any that select the unit's position. -/
theorem cmpOnce_ctrl (h : d.Touches W e) {c : Option Nat} (hW : ∀ a, CmpCtrl c a → W a) (p q : Int) :
    d.Touches W (e.cmpOnce c p q) := by
  unfold Dev.cmpOnce
  refine ite h (foldl _ _ h fun u hu v => ?_)
  obtain ⟨hn, hm⟩ := e.mem_cmpUnits hu
  have hpass : (∀ k, c = some k → u.1 = k) → v.Touches W (v.cmpPass u.1 u.2.1 p q) := fun hc =>
    ite ((refl _ v).put (f := F.LOGn_CMPm_CTRL_BACKLOG u.1 u.2.1) (hW _ ⟨_, _, hn, hm, hc, rfl⟩) 1) (refl _ v)
  cases c with
  | none => exact ite (hpass nofun) (refl _ v)
  | some c =>
    dsimp only
    split
    · rename_i hmine
      simp only [Bool.and_eq_true, beq_iff_eq] at hmine
      exact hpass fun k hk => hmine.2.trans (Option.some.inj hk)
    · exact refl _ v

/-! ### Moves -/

theorem advance_unit (h : d.Touches UnitMove e) (p q : Int) : d.Touches UnitMove (e.advance p q) := by
  unfold Dev.advance
  extract_lets h0 e1 e2
  have hhwm : d.Touches UnitMove e1 :=
    h.puti (f := F.LOG_HWM) (unitMove_unit (by decide) (by decide)) (unitMove_unit (by decide) (by decide)) _
  have hrev : d.Touches UnitMove e2 :=
    ite (hhwm.mark (f := F.LOG_STAT_REVERSED) (unitMove_unit (by decide) (by decide)) false) hhwm
  have hover : d.Touches UnitMove e2.stillOver :=
    (hrev.mark (f := F.LOG_STAT_STANDSTILL) (unitMove_unit (by decide) (by decide)) false).trans (of_regs rfl rfl rfl)
  exact ite (hover.raise (f := F.LOG_FLAG_MOTION) (unitMove_unit (by decide) (by decide))) hrev

theorem reversal_unit (h : d.Touches UnitMove e) (p : Int) : d.Touches UnitMove (e.reversal p) := by
  unfold Dev.reversal
  extract_lets e1 e2
  have hcount : d.Touches UnitMove e1 :=
    (h.raise (f := F.LOG_FLAG_REVERSAL) (unitMove_unit (by decide) (by decide))).inc (f := F.LOG_REVERSAL_CNT)
      (unitMove_unit (by decide) (by decide))
  have hpub : d.Touches UnitMove e2 := ite (hcount.publish (Dev.val_lt e1 F.LOG_CTRL_REV_EVC) _) hcount
  exact ite h (hpub.mark (f := F.LOG_STAT_REVERSED) (unitMove_unit (by decide) (by decide)) true)

theorem moveUnit_unit (h : d.Touches UnitMove e) (path : Nat → Int) (p q : Int) :
    d.Touches UnitMove (e.moveUnit path p q) := by
  have hctrl : ∀ a, CmpCtrl none a → UnitMove a := fun a ha => .inr (.inr ha)
  unfold Dev.moveUnit
  extract_lets p0 h0 e1 e2 h1 e3 e4 e5
  have hpos : d.Touches UnitMove e2 :=
    (h.puti (f := F.LOG_POS) (unitMove_unit (by decide) (by decide)) (unitMove_unit (by decide) (by decide)) _).cmpOnce_ctrl
      hctrl p0 p
  have hmark : d.Touches UnitMove e3 := ite (hpos.advance_unit p h1) hpos
  have hcross : d.Touches UnitMove e4 :=
    ite (hmark.trans (((refl TrgReg e3).crossings_trg path h0 h1).mono fun _ => .inl)) hmark
  exact ((hcross.reversal_unit p).cmpRefresh_ctrl hctrl).trans (of_regs rfl rfl rfl)

theorem unitSat_unit (h : d.Touches UnitMove e) : d.Touches UnitMove e.unitSat := by
  have hheld : d.Touches UnitMove { e with log := { e.log with posHeld := true } } := h.trans (of_regs rfl rfl rfl)
  exact hheld.raise (f := F.LOG_FLAG_POS_SAT) (unitMove_unit (by decide) (by decide))

end Dev.Touches

end Sys2Proof.Machine
end

/-! PROOFS. Quadrature: what an accepted change of state does to the count, the position and the registers of its channel
(R27, R30, R31). -/
section
-- One lemma at a time: elaborated side by side they take more threads than the check's memory limit leaves room for.
set_option Elab.async false
namespace Sys2Proof.Machine

/-! ### Where the registers lie -/

theorem chanShow_range {n a : Nat} (h : ChanShow n a) :
    a = R.LOGn_POS n ∨ a = R.LOGn_POS n + 4 ∨ a = R.LOGn_FLAG n ∨ (R.LOGn_CMPm_CTRL n 0 ≤ a ∧ a < R.LOGn_CMPm_CTRL n 4) := by
  rcases h with h | h | h | ⟨k, m, -, hm, hk, rfl⟩
  · exact .inl h
  · exact .inr (.inl h)
  · exact .inr (.inr (.inl h))
  · obtain rfl := hk n rfl
    simp only [R.LOGn_CMPm_CTRL]
    omega

theorem unitMove_range {a : Nat} (h : UnitMove a) :
    a / 0x10000 = 0x400C ∨ (0x400B0004 ≤ a ∧ a < 0x400B1000) ∨ (0x400B1000 ≤ a ∧ 0x80 ≤ a % 0x100) := by
  rcases h with h | h | ⟨k, m, hk, hm, -, rfl⟩
  · exact .inl h
  · exact .inr (.inl h)
  · simp only [R.LOGn_CMPm_CTRL]
    omega

/-- Fields of the Log lie outside ICU and EVT. -/
theorem quiet_log {f : Fld} (h : f.addr / 0x10000 = 0x400B) (h4 : (f.addr + 4) / 0x10000 = 0x400B) : f.quiet :=
  ⟨evIcu_of_window h (by decide) (by decide), fun _ => evIcu_of_window h4 (by decide) (by decide)⟩

/-- Fields of a channel lie outside ICU and EVT. -/
theorem quiet_chan {f : Fld} {o n : Nat} (h : f.addr = 0x400B1000 + o + n * 0x100) (ho : o < 0xFC) (hn : n < 32) : f.quiet :=
  quiet_log (by omega) (by omega)

/-- A field of one word lies in its own register. -/
theorem at_narrow {f : Fld} {a : Nat} (h : f.At a) (hn : (f.lo + f.len).ble 32 = true := by rfl) : a = f.addr :=
  Decidable.byContradiction fun hne => Dev.Touches.not_at hn hne h

theorem Fld.Apart.symm {f g : Fld} (h : f.Apart g) : g.Apart f := by
  unfold Fld.Apart at *
  omega

/-- Whether a channel is the unit's source is read from LOG_CTRL alone. -/
theorem Dev.Touches.keeps_isSource {W : Nat → Prop} {d e : Dev} (h : d.Touches W e) (hW : ¬ W R.LOG_CTRL) (n : Nat) :
    e.isSource n = d.isSource n := by
  have hval : ∀ f : Fld, f.addr = R.LOG_CTRL → (f.lo + f.len).ble 32 = true → e.val f = d.val f := fun f hf hn =>
    Dev.val_congr fun a ha => by
      obtain rfl := at_narrow ha hn
      rw [hf]
      exact h.reg _ hW rfl
  unfold Dev.isSource Dev.posSrc
  rw [hval F.LOG_CTRL_SRC rfl rfl, hval F.LOG_CTRL_SRC_CHAN rfl rfl]

/-! ### A position shown afresh -/

/-- Channel `n` shows the position it has now, and its compare units follow: what a channel does that is not the
source. -/
def Dev.posShown (d : Dev) (n : Nat) : Dev :=
  ((d.puti (F.LOGn_POS n) (d.chanPosAt n d.now)).cmpOnce (some n) (d.vali (F.LOGn_POS n)) (d.chanPosAt n d.now)).raiseIf
    (d.chanRaw n d.now != d.chanPosAt n d.now) (F.LOGn_FLAG_POS_SAT n)

section
variable {d : Dev} {n : Nat}

theorem Dev.posShown_touches (d : Dev) (n : Nat) : d.Touches (ChanShow n) (d.posShown n) :=
  (((Dev.Touches.refl _ d).puti (f := F.LOGn_POS n) (.inl rfl) (.inr (.inl rfl)) _).cmpOnce_ctrl
    (fun _ ha => .inr (.inr (.inr ha))) _ _).raiseIf (f := F.LOGn_FLAG_POS_SAT n) (.inr (.inr (.inl rfl))) _

theorem not_chanShow_logCtrl (n : Nat) : ¬ ChanShow n R.LOG_CTRL := fun h => by
  have := chanShow_range h
  simp only [R.LOGn_POS, R.LOGn_FLAG, R.LOGn_CMPm_CTRL, R.LOG_CTRL] at this
  omega

theorem Dev.posShown_isSource (d : Dev) (n : Nat) : (d.posShown n).isSource n = d.isSource n :=
  (d.posShown_touches n).keeps_isSource (not_chanShow_logCtrl n) n

theorem Dev.showChan_of_not_source (h : d.isSource n = false) (j : Bool) : d.showChan n j = d.posShown n := by
  show (if (d.posShown n).isSource n then _ else d.posShown n) = _
  rw [d.posShown_isSource, h]
  rfl

/-- The unit follows its source. -/
theorem Dev.showChan_unit (d : Dev) (n : Nat) (j : Bool) : (d.posShown n).Touches UnitMove (d.showChan n j) := by
  unfold Dev.showChan
  extract_lets p0 p path sat e1 e2
  have hmove : (d.posShown n).Touches UnitMove e2 := (Dev.Touches.refl _ _).moveUnit_unit path p posMin
  exact (hmove.unitSat_unit.ite hmove).ite (.refl _ _)

@[simp] theorem Dev.posShown_chan (d : Dev) (n : Nat) : (d.posShown n).log.chan = d.log.chan := by
  simp [Dev.posShown]

theorem Dev.chanPosAt_range (d : Dev) (n t : Nat) : posMin ≤ d.chanPosAt n t ∧ d.chanPosAt n t ≤ posMax := by
  simp only [Dev.chanPosAt, clampI, posMin, posMax]
  omega

theorem Dev.posShown_pos (d : Dev) (hn : n < 32) : (d.posShown n).vali (F.LOGn_POS n) = d.chanPosAt n d.now := by
  have hpos : ∀ a, (F.LOGn_POS n).At a → ¬ (CmpCtrl (some n) a ∨ a = R.LOGn_FLAG n) := by
    rintro a ha (⟨k, m, -, hm, hk, rfl⟩ | rfl)
    · obtain rfl := hk n rfl
      simp only [Fld.At, F.LOGn_POS, R.LOGn_POS, R.LOGn_CMPm_CTRL] at ha
      omega
    · simp only [Fld.At, F.LOGn_POS, R.LOGn_POS, R.LOGn_FLAG] at ha
      omega
  have hlater : (d.puti (F.LOGn_POS n) (d.chanPosAt n d.now)).Touches (fun a => CmpCtrl (some n) a ∨ a = R.LOGn_FLAG n)
      (d.posShown n) :=
    ((Dev.Touches.refl _ _).cmpOnce_ctrl (fun _ => .inl) _ _).raiseIf (f := F.LOGn_FLAG_POS_SAT n) (.inr rfl) _
  obtain ⟨hlo, hhi⟩ := d.chanPosAt_range n d.now
  rw [hlater.keeps_vali hpos (quiet_chan (o := 0x10) rfl (by decide) hn)]
  exact Dev.vali_puti_self (f := F.LOGn_POS n) _ (Nat.le_refl 64) (Nat.zero_lt_succ 63) hlo (Int.lt_of_le_sub_one hhi)

/-- Within the limits, and without a fraction, the position is 256 times the count (R27). -/
theorem Dev.chanPosAt_count (hidle : d.on (F.LOGn_STAT_IDLE n) = false) (hinterp : d.on (F.LOGn_CFG_INTERP n) = false)
    (hc : (d.logch n).count.natAbs ≤ 2 ^ 54) (t : Nat) : d.chanPosAt n t = 256 * (d.logch n).count := by
  have hfrac : d.fracAt n t = 0 := by simp [Dev.fracAt, hidle, hinterp]
  simp only [Dev.chanPosAt, Dev.chanRaw, hfrac, clampI, posMin, posMax]
  omega

theorem Dev.posShown_count (hn : n < 32) (hidle : d.on (F.LOGn_STAT_IDLE n) = false)
    (hinterp : d.on (F.LOGn_CFG_INTERP n) = false) (hc : (d.logch n).count.natAbs ≤ 2 ^ 54) :
    (d.posShown n).vali (F.LOGn_POS n) = 256 * ((d.posShown n).logch n).count := by
  have hchan : (d.posShown n).logch n = d.logch n := by simp [Dev.logch]
  rw [d.posShown_pos hn, hchan, Dev.chanPosAt_count hidle hinterp hc]

/-- No flag of the channel but POS_SAT follows its position. -/
theorem Dev.showChan_flag (d : Dev) (hn : n < 32) {f : Fld} (ha : f.addr = R.LOGn_FLAG n)
    (hf : (f.lo + f.len).ble 5 = true := by rfl) (j : Bool) : (d.showChan n j).val f = d.val f := by
  have h5 := Nat.le_of_ble_eq_true hf
  have hword : ∀ a, f.At a → a = R.LOGn_FLAG n := fun a h => h.elim (·.trans ha) fun h => by omega
  have hquiet : f.quiet := quiet_chan (o := 8) ha (by decide) hn
  have hunit : ∀ a, f.At a → ¬ UnitMove a := fun a h hmove => by
    have := unitMove_range hmove
    simp only [hword a h, R.LOGn_FLAG] at this
    omega
  have hshown : ∀ a, f.At a → ¬ (a = R.LOGn_POS n ∨ a = R.LOGn_POS n + 4 ∨ CmpCtrl (some n) a) := fun a h hshow => by
    obtain rfl := hword a h
    rcases hshow with h | h | ⟨k, m, -, hm, hk, h⟩ <;> simp only [R.LOGn_FLAG, R.LOGn_POS, R.LOGn_CMPm_CTRL] at h
    · omega
    · omega
    · have := hk n rfl
      omega
  have hsat : (F.LOGn_FLAG_POS_SAT n).Apart f :=
    .inr ⟨ha.symm, Nat.le_of_ble_eq_true rfl, by omega, .inr h5⟩
  have hflag : ∀ (e : Dev) (b : Bool), (e.raiseIf b (F.LOGn_FLAG_POS_SAT n)).val f = e.val f := fun e b => by
    unfold Dev.raiseIf
    split
    · exact e.val_raise_apart hsat hquiet
    · rfl
  rw [(d.showChan_unit n j).keeps_val hunit hquiet, Dev.posShown, hflag]
  exact ((((Dev.Touches.refl _ d).puti (f := F.LOGn_POS n) (.inl rfl) (.inr (.inl rfl)) _).cmpOnce_ctrl
    (fun _ h => .inr (.inr h)) _ _)).keeps_val hshown hquiet

end

/-! ### Edges -/

/-- What the record of a change of state leaves of channel `n` until its position moves: of its registers those in `W`
may be written, but not its IDLE, and not its count. -/
structure Dev.Noted (n : Nat) (W : Nat → Prop) (d e : Dev) : Prop where
  touches : d.Touches W e
  idle : e.on (F.LOGn_STAT_IDLE n) = d.on (F.LOGn_STAT_IDLE n)
  count : (e.logch n).count = (d.logch n).count

namespace Dev.Noted

variable {n : Nat} {W V : Nat → Prop} {d e f : Dev}

theorem refl (n : Nat) (W : Nat → Prop) (d : Dev) : d.Noted n W d := ⟨.refl W d, rfl, rfl⟩

theorem trans (h : d.Noted n W e) (g : e.Noted n W f) : d.Noted n W f :=
  ⟨h.touches.trans g.touches, g.idle.trans h.idle, g.count.trans h.count⟩

theorem mono (h : d.Noted n W e) (hV : ∀ a, W a → V a) : d.Noted n V e := ⟨h.touches.mono hV, h.idle, h.count⟩

/-- Operations that leave STAT and the channels' records. -/
theorem of_touches (h : d.Touches W e) (hW : ¬ W (R.LOGn_STAT n)) (hn : n < 32) (hlog : e.log.chan = d.log.chan) :
    d.Noted n W e :=
  ⟨h, h.keeps_on (f := F.LOGn_STAT_IDLE n) hW (quiet_chan (f := F.LOGn_STAT_IDLE n) (o := 4) rfl (by decide) hn).1,
    by unfold Dev.logch; rw [hlog]⟩

/-- A field of the channel's STAT beside IDLE. -/
theorem put (h : d.Noted n W e) {g : Fld} (hg : g.addr = R.LOGn_STAT n) (hW : W (R.LOGn_STAT n)) (v : Nat)
    (hn : (g.lo + g.len).ble 32 = true := by rfl) (h1 : Nat.ble 1 g.lo = true := by rfl) : d.Noted n W (e.put g v) := by
  refine ⟨h.touches.put (hg ▸ hW) v hn, ?_, ?_⟩
  · rw [← h.idle]
    unfold Dev.on
    rw [Dev.val_put_apart e (g := F.LOGn_STAT_IDLE n)
      (.inr ⟨hg, Nat.le_of_ble_eq_true hn, Nat.le_add_left 1 31, .inr (Nat.le_of_ble_eq_true h1)⟩)]
  · rw [← h.count]
    simp [Dev.logch]

theorem mark (h : d.Noted n W e) {g : Fld} (hg : g.addr = R.LOGn_STAT n) (hW : W (R.LOGn_STAT n)) (b : Bool)
    (hn : (g.lo + g.len).ble 32 = true := by rfl) (h1 : Nat.ble 1 g.lo = true := by rfl) : d.Noted n W (e.mark g b) :=
  h.put hg hW _ hn h1

/-- The channel's record with the same count. -/
theorem setLogch (h : d.Noted n W e) {c : LogChan} (hc : c.count = (e.logch n).count) : d.Noted n W (e.setLogch n c) :=
  ⟨h.touches.trans (.of_regs rfl rfl rfl), h.idle, by rw [Dev.logch_setLogch, hc, h.count]⟩

theorem chanMoves (h : d.Noted n W e) (hW : W (R.LOGn_STAT n)) (t : Nat) : d.Noted n W (e.chanMoves n t) :=
  (h.setLogch (c := { e.logch n with lastMove := t, frac := 0 }) rfl).mark (g := F.LOGn_STAT_STANDSTILL n) rfl hW false

end Dev.Noted

section
variable {n : Nat} (d : Dev)

/-- An edge is noted, and moves the count by one. -/
theorem Dev.edge_eq (fwd : Bool) (t : Nat) :
    ∃ e, d.edge n fwd t = e.moveCount n (if fwd then 1 else -1) ∧ d.Noted n (· = R.LOGn_STAT n) e := by
  unfold Dev.edge
  extract_lets c still turn run c' e1 e2 e3
  refine ⟨_, rfl, ?_⟩
  have h1 : d.Noted n (· = R.LOGn_STAT n) e1 := (Dev.Noted.refl n _ d).setLogch rfl
  exact ((h1.mark (g := F.LOGn_STAT_DIRECTION n) rfl rfl _).mark (g := F.LOGn_STAT_PER_VALID n) rfl rfl _).chanMoves rfl t

/-- A double change is noted, flagged and counted, and the position shown. -/
theorem Dev.doubleChange_eq (hn : n < 32) (t : Nat) :
    ∃ e, d.doubleChange n t = e.showChan n true ∧
      d.Noted n (fun a => a = R.LOGn_STAT n ∨ a = R.LOGn_FLAG n ∨ a = R.LOGn_QERR_CNT n) e ∧
      e.on (F.LOGn_FLAG_QERR n) = true ∧
      e.val (F.LOGn_QERR_CNT n) = min 0xFFFFFFFF (d.val (F.LOGn_QERR_CNT n) + 1) := by
  unfold Dev.doubleChange
  extract_lets e1 c e2 e3
  have hqerr : (F.LOGn_QERR_CNT n).quiet := quiet_chan (o := 0xC) rfl (by decide) hn
  have hflag : (F.LOGn_FLAG_QERR n).quiet := quiet_chan (o := 8) rfl (by decide) hn
  have h1 : d.Noted n (fun a => a = R.LOGn_FLAG n ∨ a = R.LOGn_QERR_CNT n) e1 :=
    .of_touches (((Dev.Touches.refl _ d).raise (f := F.LOGn_FLAG_QERR n) (.inl rfl)).inc (f := F.LOGn_QERR_CNT n) (.inr rfl))
      (by simp only [R.LOGn_STAT, R.LOGn_FLAG, R.LOGn_QERR_CNT]; omega) hn (by simp [e1])
  have h2 : e1.Noted n (· = R.LOGn_STAT n) e2 := (Dev.Noted.refl n _ e1).setLogch rfl
  have h3 : e1.Noted n (· = R.LOGn_STAT n) e3 :=
    (h2.mark (g := F.LOGn_STAT_PER_VALID n) rfl rfl false).chanMoves rfl t
  have hkeep : ∀ {f : Fld}, (f.addr = R.LOGn_FLAG n ∨ f.addr = R.LOGn_QERR_CNT n) → (f.lo + f.len).ble 32 = true → f.quiet →
      e3.val f = e1.val f := fun hf h32 hq => h3.touches.keeps_val (fun a ha hs => by
    obtain rfl := at_narrow ha h32
    simp only [R.LOGn_STAT, R.LOGn_FLAG, R.LOGn_QERR_CNT] at hf hs
    omega) hq
  have hcnt : (F.LOGn_QERR_CNT n).Apart (F.LOGn_FLAG_QERR n) :=
    .inl ⟨by simp only [F.LOGn_QERR_CNT, F.LOGn_FLAG_QERR, R.LOGn_QERR_CNT, R.LOGn_FLAG]; omega, by simp [F.LOGn_QERR_CNT],
      by simp [F.LOGn_FLAG_QERR]⟩
  refine ⟨e3, rfl, (h1.mono fun a => .inr).trans (h3.mono fun a => .inl), ?_, ?_⟩
  · unfold Dev.on
    rw [hkeep (.inl rfl) rfl hflag, Dev.val_inc_apart _ hcnt, Dev.val_raise_self _ rfl (Nat.zero_lt_succ 31) hflag]
    rfl
  · rw [hkeep (.inr rfl) rfl hqerr, Dev.val_inc_self _ rfl rfl, Dev.val_raise_apart _ hcnt.symm hqerr]

end

end Sys2Proof.Machine
end

/-! PROOFS. QuadratureEdgesCount (R27, R30, R31). -/
section
-- One lemma at a time: elaborated side by side they take more threads than the check's memory limit leaves room for.
set_option Elab.async false
namespace Sys2Proof.Machine

/-! ### What an accepted change writes -/

/-- What the taking of new levels writes: the device time and STAT. -/
def TakenReg (n a : Nat) : Prop := F.MER_TIME.At a ∨ a = R.LOGn_STAT n

/-- The registers that an accepted change writes before it moves or flags anything: the device time, STAT and the position,
and with `src` those that follow the unit's position. -/
def ChangeReg (n : Nat) (src : Bool) (a : Nat) : Prop :=
  TakenReg n a ∨ ChanShow n a ∨ (src = true ∧ UnitMove a)

/-- The registers that an accepted change of a channel that is not the source writes. -/
def QuadReg (n a : Nat) : Prop := ChangeReg n false a ∨ a = R.LOGn_QERR_CNT n

theorem changeReg_range {n a : Nat} {src : Bool} (h : ChangeReg n src a) :
    (a / 0x10000 = 0x400F ∨ a / 0x10000 = 0x400C ∨ (0x400B0004 ≤ a ∧ a < 0x400B1000) ∨ (0x400B1000 ≤ a ∧ 0x80 ≤ a % 0x100)) ∨
      a = R.LOGn_STAT n ∨ a = R.LOGn_POS n ∨ a = R.LOGn_POS n + 4 ∨ a = R.LOGn_FLAG n := by
  rcases h with (h | h) | h | ⟨-, h⟩
  · simp only [Fld.At, F.MER_TIME, R.MER_TIME] at h
    omega
  · exact .inr (.inl h)
  · have := chanShow_range h
    simp only [R.LOGn_CMPm_CTRL] at this
    omega
  · have := unitMove_range h
    omega

theorem not_changeReg_qerrCnt (n : Nat) (src : Bool) (hn : n < 32) : ¬ ChangeReg n src (R.LOGn_QERR_CNT n) := fun h => by
  have := changeReg_range h
  simp only [R.LOGn_QERR_CNT, R.LOGn_STAT, R.LOGn_POS, R.LOGn_FLAG] at this
  omega

theorem not_quadReg_cfg {n : Nat} (hn : n < 32) : ¬ QuadReg n (R.LOGn_CFG n) := fun h => by
  have := h.imp changeReg_range id
  simp only [R.LOGn_CFG, R.LOGn_QERR_CNT, R.LOGn_STAT, R.LOGn_POS, R.LOGn_FLAG] at this
  omega

theorem not_changeReg_logCtrl (n : Nat) (src : Bool) : ¬ ChangeReg n src R.LOG_CTRL := fun h => by
  have := changeReg_range h
  simp only [R.LOG_CTRL, R.LOGn_STAT, R.LOGn_POS, R.LOGn_FLAG] at this
  omega

theorem not_quadReg_logCtrl (n : Nat) : ¬ QuadReg n R.LOG_CTRL := fun h => by
  rcases h with h | h
  · exact not_changeReg_logCtrl n false h
  · simp only [R.LOG_CTRL, R.LOGn_QERR_CNT] at h
    omega

/-! ### The count -/

section
variable {d e : Dev} {n : Nat}

/-- The channel's position and the unit's after it are shown; the channel's record stays. -/
theorem Dev.showChan_noted (d : Dev) (hn : n < 32) (j : Bool) : d.Noted n (ChangeReg n (d.isSource n)) (d.showChan n j) := by
  have hshow : d.Touches (fun a => ChanShow n a ∨ (d.isSource n = true ∧ UnitMove a)) (d.showChan n j) := by
    cases hs : d.isSource n with
    | false =>
      rw [Dev.showChan_of_not_source hs]
      exact (d.posShown_touches n).mono fun _ => .inl
    | true => exact ((d.posShown_touches n).mono fun _ => .inl).trans ((d.showChan_unit n j).mono fun _ h => .inr ⟨rfl, h⟩)
  refine (Dev.Noted.of_touches hshow (fun h => ?_) hn (d.showChan_chan n j)).mono fun _ => .inr
  rcases h with h | ⟨-, h⟩
  · have := chanShow_range h
    simp only [R.LOGn_STAT, R.LOGn_POS, R.LOGn_FLAG, R.LOGn_CMPm_CTRL] at this
    omega
  · have := unitMove_range h
    simp only [R.LOGn_STAT] at this
    omega

/-- The count of a channel that is not the source moves, and its position shows it. -/
theorem Dev.moveCount_of_not_source {k : Int} (hs : d.isSource n = false) (hk : ((d.logch n).count + k).natAbs ≤ 2 ^ 54) :
    ∃ e, d.moveCount n k = e.posShown n ∧ d.Touches (fun _ => False) e ∧ (e.logch n).count = (d.logch n).count + k := by
  have hgot : clampI (-(2 ^ 55)) (2 ^ 55) ((d.logch n).count + k) = (d.logch n).count + k := by
    simp only [clampI]
    omega
  have hovsp : decide (256 * ((d.logch n).count + k) < posMin ∨ posMax < 256 * ((d.logch n).count + k)) = false := by
    refine decide_eq_false ?_
    simp only [posMin, posMax]
    omega
  have hs' : ∀ c : LogChan, (d.setLogch n c).isSource n = false := fun _ => hs
  refine ⟨(d.setLogch n { d.logch n with count := (d.logch n).count + k }).feedSpeed n
    ((d.logch n).count + k - (d.logch n).count), ?_, ?_, ?_⟩
  · unfold Dev.moveCount
    simp only [hgot, hovsp, hs', Dev.raiseIf, Bool.false_eq_true, if_false, false_and]
    refine Dev.showChan_of_not_source ?_ true
    unfold Dev.feedSpeed
    split <;> exact hs
  · unfold Dev.feedSpeed
    split <;> exact .of_regs rfl rfl rfl
  · unfold Dev.logch
    rw [Dev.feedSpeed_log]
    exact congrArg LogChan.count (d.logch_setLogch n _)

/-- After an accepted change a channel that is not the source shows its count, and nothing beside its own registers has
changed. -/
def Dev.CountShown (d : Dev) (n : Nat) (e : Dev) : Prop :=
  (d.on (F.LOGn_CFG_INTERP n) = false → e.vali (F.LOGn_POS n) = 256 * (e.logch n).count) ∧ d.Touches (QuadReg n) e

theorem Dev.countShown_posShown (hn : n < 32) (h : d.Touches (QuadReg n) e)
    (hidle : e.on (F.LOGn_STAT_IDLE n) = false) (hc : (e.logch n).count.natAbs ≤ 2 ^ 54) : d.CountShown n (e.posShown n) := by
  refine ⟨fun hinterp => Dev.posShown_count hn hidle ?_ hc,
    h.trans ((e.posShown_touches n).mono fun _ ha => .inl (.inr (.inl ha)))⟩
  rw [← hinterp]
  exact h.keeps_on (f := F.LOGn_CFG_INTERP n) (not_quadReg_cfg hn)
    (quiet_chan (f := F.LOGn_CFG_INTERP n) (o := 0) rfl (by decide) hn).1

section
variable (hn : n < 32) (h : d.Noted n (ChangeReg n (d.isSource n)) e) (hidle : d.on (F.LOGn_STAT_IDLE n) = false)
  (hc : (d.logch n).count.natAbs < 2 ^ 54)
include hn h hidle hc

/-- A forward or backward edge moves the count by one (R31). -/
theorem Dev.edge_counts (fwd : Bool) (t : Nat) :
    ((e.edge n fwd t).logch n).count = (d.logch n).count + (if fwd then 1 else -1) ∧
      (d.isSource n = false → d.CountShown n (e.edge n fwd t)) := by
  obtain ⟨u, hu, hnoted⟩ := e.edge_eq (n := n) fwd t
  have hdu : d.Noted n (ChangeReg n (d.isSource n)) u := h.trans (hnoted.mono fun a ha => .inl (.inr ha))
  have hstep : (if fwd then 1 else -1 : Int).natAbs = 1 := by cases fwd <;> rfl
  have hcount := hdu.count
  rw [hu]
  refine ⟨?_, fun hs => ?_⟩
  · rw [Dev.moveCount_logch u n (by omega) (by omega), hcount]
  · rw [hs] at hdu
    have hsu : u.isSource n = false := (hdu.touches.keeps_isSource (not_changeReg_logCtrl n false) n).trans hs
    obtain ⟨v, hv, hkept, hvcount⟩ := Dev.moveCount_of_not_source (k := if fwd then 1 else -1) hsu (by omega)
    rw [hv]
    refine Dev.countShown_posShown hn ((hdu.touches.mono fun _ => .inl).trans (hkept.mono fun _ => False.elim)) ?_ (by omega)
    rw [hkept.keeps_on (fun h => h) (quiet_chan (f := F.LOGn_STAT_IDLE n) (o := 4) rfl (by decide) hn).1, hdu.idle, hidle]

/-- A double change leaves the count, and is flagged and counted (R31). -/
theorem Dev.doubleChange_counts (t : Nat) :
    ((e.doubleChange n t).logch n).count = (d.logch n).count ∧ (e.doubleChange n t).on (F.LOGn_FLAG_QERR n) = true ∧
      (e.doubleChange n t).val (F.LOGn_QERR_CNT n) = min 0xFFFFFFFF (d.val (F.LOGn_QERR_CNT n) + 1) ∧
      (d.isSource n = false → d.CountShown n (e.doubleChange n t)) := by
  obtain ⟨u, hu, hnoted, hflag, hcnt⟩ := e.doubleChange_eq hn t
  have hcount : (u.logch n).count = (d.logch n).count := hnoted.count.trans h.count
  have hqerr : ∀ {x y : Dev} {src : Bool}, x.Touches (ChangeReg n src) y →
      y.val (F.LOGn_QERR_CNT n) = x.val (F.LOGn_QERR_CNT n) :=
    fun hxy => hxy.keeps_val (fun a ha => by
      obtain rfl := at_narrow ha
      exact not_changeReg_qerrCnt n _ hn) (quiet_chan (o := 0xC) rfl (by decide) hn)
  rw [hu]
  refine ⟨?_, ?_, ?_, fun hs => ?_⟩
  · rw [← hcount]
    unfold Dev.logch
    rw [Dev.showChan_chan]
  · unfold Dev.on at hflag ⊢
    rw [u.showChan_flag hn rfl, hflag]
  · rw [hqerr (u.showChan_noted hn true).touches, hcnt, hqerr h.touches]
  · have hdu : d.Touches (QuadReg n) u := by
      rw [hs] at h
      refine (h.touches.mono fun _ => .inl).trans (hnoted.touches.mono ?_)
      rintro a (ha | ha | ha)
      · exact .inl (.inl (.inr ha))
      · exact .inl (.inr (.inl (.inr (.inr (.inl ha)))))
      · exact .inr ha
    have hsu : u.isSource n = false := (hdu.keeps_isSource (not_quadReg_logCtrl n) n).trans hs
    rw [Dev.showChan_of_not_source hsu]
    exact Dev.countShown_posShown hn hdu (by rw [hnoted.idle, h.idle, hidle]) (by omega)

end
end

/-! ### Levels are taken (R30) -/

theorem Dev.chanRuns_idle {d : Dev} {n mode : Nat} (hr : d.chanRuns n mode = true) : d.on (F.LOGn_STAT_IDLE n) = false := by
  simp only [Dev.chanRuns, Dev.runs, Bool.and_eq_true, Bool.not_eq_true'] at hr
  obtain ⟨⟨⟨-, hidle⟩, -⟩, -⟩ := hr
  exact hidle

section
variable {d e : Dev} {n : Nat} (h : d.Noted n (TakenReg n) e)
include h

/-- A register of the channel beside STAT stands. -/
theorem Dev.Noted.taken_val (hn : n < 32) {f : Fld} {o : Nat} (hf : f.addr = 0x400B1000 + o + n * 0x100) (ho : o < 0xFC)
    (h4 : o ≠ 4) (h32 : (f.lo + f.len).ble 32 = true := by rfl) : e.val f = d.val f :=
  h.touches.keeps_val (fun x hx hW => by
    obtain rfl := at_narrow hx h32
    simp only [hf, TakenReg, Fld.At, F.MER_TIME, R.MER_TIME, R.LOGn_STAT] at hW
    omega) (quiet_chan hf ho hn)

theorem Dev.Noted.taken_on (hn : n < 32) {f : Fld} {o : Nat} (hf : f.addr = 0x400B1000 + o + n * 0x100) (ho : o < 0xFC)
    (h4 : o ≠ 4) (h32 : (f.lo + f.len).ble 32 = true := by rfl) : e.on f = d.on f := by
  unfold Dev.on
  rw [h.taken_val hn hf ho h4 h32]

/-- A channel that counts still counts. -/
theorem Dev.Noted.taken_runs (hn : n < 32) {mode : Nat} (hr : d.chanRuns n mode = true) : e.chanRuns n mode = true := by
  unfold Dev.chanRuns Dev.runs at *
  simp only [Bool.and_eq_true, Bool.not_eq_true', List.contains_eq_mem, decide_eq_false_iff_not, beq_iff_eq] at hr ⊢
  obtain ⟨⟨⟨hen, hidle⟩, hrestart⟩, hmode⟩ := hr
  exact ⟨⟨⟨(h.taken_on hn (o := 0) rfl (by decide) (by decide)).trans hen, h.idle.trans hidle⟩,
    fun hx => hrestart (h.touches.restart _ hx)⟩, (h.taken_val hn (o := 0) rfl (by decide) (by decide)).trans hmode⟩

end

theorem Dev.reach_touches (d : Dev) (t : Nat) : d.Touches F.MER_TIME.At (d.reach t) :=
  (Dev.Touches.refl _ d).reach (.inl rfl) (.inr ⟨by decide, rfl⟩) t

theorem Dev.reach_noted (d : Dev) {n : Nat} (hn : n < 32) (t : Nat) : d.Noted n (TakenReg n) (d.reach t) := by
  have hreach : d.Noted n F.MER_TIME.At (d.reach t) :=
    .of_touches (d.reach_touches t) (by simp only [Fld.At, F.MER_TIME, R.MER_TIME, R.LOGn_STAT]; omega) hn
      (by rw [Dev.reach_log])
  exact hreach.mono fun _ => .inl

/-! ### ACCEPTED_EDGE -/

/-- An input that changes had not stood at its last level for GLITCH (R30). -/
def Dev.tooShort (d : Dev) (n : Nat) (a b : Bool) (t : Nat) : Bool :=
  ((a != bitOf (d.val (F.LOGn_STAT_ABZ n)) 0) && ! d.settled n (d.logch n).chA t) ||
    ((b != bitOf (d.val (F.LOGn_STAT_ABZ n)) 1) && ! d.settled n (d.logch n).chB t)

/-- The state code of the channel's last levels (R31). -/
def Dev.quad (d : Dev) (n : Nat) : Nat := quadCode (bitOf (d.val (F.LOGn_STAT_ABZ n)) 0) (bitOf (d.val (F.LOGn_STAT_ABZ n)) 1)

/-- At the instant at which the count of an accepted change appears, its levels and their instants are recorded (R30). -/
def Dev.levelsTaken (d : Dev) (n : Nat) (a b : Bool) (t : Nat) : Dev :=
  let old := d.val (F.LOGn_STAT_ABZ n)
  let c := d.logch n
  ((d.reach (t + d.val (F.LOGn_CFG_GLITCH n) + 12)).setLogch n
    { c with chA := if a != bitOf old 0 then some t else c.chA, chB := if b != bitOf old 1 then some t else c.chB }).put
    (F.LOGn_STAT_ABZ n) (b2n a + 2 * b2n b + 4 * b2n (bitOf old 2))

/-- What a change of state does once its levels are taken, by the difference of the state codes (R31). -/
def Dev.quadStep (d : Dev) (n diff t : Nat) : Dev :=
  if diff == 0 then d
  else if diff == 2 then (d.moveChan n).doubleChange n t
  else (d.moveChan n).edge n ((diff == 1) != d.on (F.LOGn_CFG_DIR n)) t

theorem Dev.quadStep_none (d : Dev) (n t : Nat) : d.quadStep n 0 t = d := by
  rw [Dev.quadStep, if_pos (by decide)]
theorem Dev.quadStep_double (d : Dev) (n t : Nat) : d.quadStep n 2 t = (d.moveChan n).doubleChange n t := by
  rw [Dev.quadStep, if_neg (by decide), if_pos (by decide)]
theorem Dev.quadStep_forward (d : Dev) (n t : Nat) :
    d.quadStep n 1 t = (d.moveChan n).edge n (! d.on (F.LOGn_CFG_DIR n)) t := by
  rw [Dev.quadStep, if_neg (by decide), if_neg (by decide), beq_self_eq_true, Bool.true_bne]
theorem Dev.quadStep_backward (d : Dev) (n t : Nat) : d.quadStep n 3 t = (d.moveChan n).edge n (d.on (F.LOGn_CFG_DIR n)) t := by
  rw [Dev.quadStep, if_neg (by decide), if_neg (by decide), show ((3 : Nat) == 1) = false from rfl, Bool.false_bne]

theorem Dev.levelsTaken_noted (d : Dev) {n : Nat} (hn : n < 32) (a b : Bool) (t : Nat) :
    d.Noted n (TakenReg n) (d.levelsTaken n a b t) := by
  unfold Dev.levelsTaken
  refine Dev.Noted.put (g := F.LOGn_STAT_ABZ n) (Dev.Noted.setLogch (d.reach_noted hn _) ?_) rfl (.inr rfl) _
  exact (d.reach_noted hn _).count.symm

section
variable {s : State} {n : Fin 32} {a b : Bool} {t : Nat}

theorem exec_acceptedEdge_short (h : s.dev.tooShort n a b t = true) :
    exec (.acceptedEdge n a b t) s =
      .next { s with dev := s.quietened.dev.reach (t + s.dev.val (F.LOGn_CFG_GLITCH n) + 12) } := by
  show Host.Outcome.next { s with dev := if s.dev.tooShort n a b t then _ else _ } = _
  rw [if_pos h]
  rfl

theorem exec_acceptedEdge_taken (h : s.dev.tooShort n a b t = false) (hr : s.dev.chanRuns n 1 = true) :
    exec (.acceptedEdge n a b t) s = .next { s with dev :=
      (s.quietened.dev.levelsTaken n a b t).quadStep n ((quadCode a b + 4 - s.dev.quad n) % 4) t } := by
  show Host.Outcome.next { s with dev := if s.dev.tooShort n a b t then _ else
    if ! (s.quietened.dev.levelsTaken n a b t).chanRuns n 1 || _ then _ else _ } = _
  have hruns : (s.quietened.dev.levelsTaken n a b t).chanRuns n 1 = true :=
    (s.quietened.dev.levelsTaken_noted n.isLt a b t).taken_runs n.isLt hr
  rw [h, hruns]
  rfl

end

theorem quadCode_lt (a b : Bool) : quadCode a b < 4 := by
  cases a <;> cases b <;> decide

/-- The registers of `QuadReg` are those that the statement names. -/
theorem quadReg_named {n a : Nat} (h : QuadReg n a) :
    ∃ f ∈ [⟨R.LOGn_STAT n, 0, 32⟩, F.LOGn_POS n, ⟨R.LOGn_FLAG n, 0, 32⟩, F.LOGn_QERR_CNT n, F.MER_TIME,
      F.LOGn_CMPm_CTRL_BACKLOG n 0, F.LOGn_CMPm_CTRL_BACKLOG n 1, F.LOGn_CMPm_CTRL_BACKLOG n 2,
      F.LOGn_CMPm_CTRL_BACKLOG n 3], f.At a := by
  rcases h with ((h | rfl) | (rfl | rfl | rfl | ⟨k, m, -, hm, hk, rfl⟩) | ⟨h, -⟩) | rfl
  · exact ⟨F.MER_TIME, by simp, h⟩
  · exact ⟨⟨R.LOGn_STAT n, 0, 32⟩, by simp, .inl rfl⟩
  · exact ⟨F.LOGn_POS n, by simp, .inl rfl⟩
  · exact ⟨F.LOGn_POS n, by simp, .inr ⟨(Nat.lt_add_left_iff_pos).2 (Nat.zero_lt_succ 31), rfl⟩⟩
  · exact ⟨⟨R.LOGn_FLAG n, 0, 32⟩, by simp, .inl rfl⟩
  · obtain rfl := hk n rfl
    refine ⟨F.LOGn_CMPm_CTRL_BACKLOG k m, ?_, .inl rfl⟩
    obtain rfl | rfl | rfl | rfl : m = 0 ∨ m = 1 ∨ m = 2 ∨ m = 3 := by omega
    all_goals simp
  · cases h
  · exact ⟨F.LOGn_QERR_CNT n, by simp, .inl rfl⟩

/-- Operations that write no register beside those of the fields listed. -/
theorem Dev.Touches.sameRegsBut {W : Nat → Prop} {d e : Dev} (h : d.Touches W e) {l : List Fld}
    (hl : ∀ a, W a → ∃ f ∈ l, f.At a) : d.sameRegsBut e l := fun a ha hq =>
  h.reg a (fun hw => by obtain ⟨f, hf, hat⟩ := hl a hw; exact ha f hf hat) hq

/-- What the statement says of an accepted change, of the block before and after it. -/
def Dev.Quadrature (d : Dev) (n : Nat) (code : Nat) (e : Dev) : Prop :=
  let fwd := if d.on (F.LOGn_CFG_DIR n) then -1 else 1
  (code = d.quad n → (e.logch n).count = (d.logch n).count) ∧
  (code = (d.quad n + 1) % 4 → (e.logch n).count = (d.logch n).count + fwd) ∧
  (code = (d.quad n + 3) % 4 → (e.logch n).count = (d.logch n).count - fwd) ∧
  (code = (d.quad n + 2) % 4 → (e.logch n).count = (d.logch n).count ∧ e.on (F.LOGn_FLAG_QERR n) = true ∧
    e.val (F.LOGn_QERR_CNT n) = min 0xFFFFFFFF (d.val (F.LOGn_QERR_CNT n) + 1)) ∧
  (d.isSource n = false →
    (code ≠ d.quad n → d.on (F.LOGn_CFG_INTERP n) = false → e.vali (F.LOGn_POS n) = 256 * (e.logch n).count) ∧
      d.Touches (QuadReg n) e)

theorem Dev.quadStep_quadrature {d e : Dev} {n code : Nat} (t : Nat) (hn : n < 32)
    (h : d.Noted n (TakenReg n) e) (hidle : d.on (F.LOGn_STAT_IDLE n) = false)
    (hc : (d.logch n).count.natAbs < 2 ^ 54) (hdir : e.on (F.LOGn_CFG_DIR n) = d.on (F.LOGn_CFG_DIR n)) (hcode : code < 4) :
    d.Quadrature n code (e.quadStep n ((code + 4 - d.quad n) % 4) t) := by
  have hq : d.quad n < 4 := quadCode_lt _ _
  have hsrc : e.isSource n = d.isSource n := h.touches.keeps_isSource (fun hx => not_changeReg_logCtrl n true (.inl hx)) n
  have hmoved : d.Noted n (ChangeReg n (d.isSource n)) (e.moveChan n) :=
    (h.mono fun _ => .inl).trans (hsrc ▸ e.showChan_noted hn false)
  have hedge := fun fwd => Dev.edge_counts hn hmoved hidle hc fwd t
  have hforward : ∀ b : Bool, (d.logch n).count + (if ! b then 1 else -1) = (d.logch n).count + (if b then -1 else 1) := by
    rintro (_ | _) <;> rfl
  have hbackward : ∀ b : Bool, (d.logch n).count + (if b then 1 else -1) = (d.logch n).count - (if b then -1 else 1) := by
    rintro (_ | _) <;> rfl
  obtain hstep | hstep | hstep | hstep :
    code = d.quad n ∨ code = (d.quad n + 1) % 4 ∨ code = (d.quad n + 2) % 4 ∨ code = (d.quad n + 3) % 4 := by omega
  · rw [show (code + 4 - d.quad n) % 4 = 0 by omega, Dev.quadStep_none]
    refine ⟨fun _ => h.count, fun hx => ?_, fun hx => ?_, fun hx => ?_, fun _ =>
      ⟨fun hne => absurd hstep hne, h.touches.mono fun _ ha => .inl (.inl ha)⟩⟩ <;> exact absurd hx (by omega)
  · rw [show (code + 4 - d.quad n) % 4 = 1 by omega, Dev.quadStep_forward, hdir]
    obtain ⟨hcount, hshown⟩ := hedge (! d.on (F.LOGn_CFG_DIR n))
    refine ⟨fun hx => ?_, fun _ => hcount.trans (hforward _), fun hx => ?_, fun hx => ?_, fun hs =>
      (hshown hs).imp_left fun hpos _ => hpos⟩ <;> exact absurd hx (by omega)
  · rw [show (code + 4 - d.quad n) % 4 = 2 by omega, Dev.quadStep_double]
    obtain ⟨hcount, hflag, hcnt, hshown⟩ := Dev.doubleChange_counts hn hmoved hidle hc t
    refine ⟨fun hx => ?_, fun hx => ?_, fun hx => ?_, fun _ => ⟨hcount, hflag, hcnt⟩, fun hs =>
      (hshown hs).imp_left fun hpos _ => hpos⟩ <;> exact absurd hx (by omega)
  · rw [show (code + 4 - d.quad n) % 4 = 3 by omega, Dev.quadStep_backward, hdir]
    obtain ⟨hcount, hshown⟩ := hedge (d.on (F.LOGn_CFG_DIR n))
    refine ⟨fun hx => ?_, fun hx => ?_, fun _ => hcount.trans (hbackward _), fun hx => ?_, fun hs =>
      (hshown hs).imp_left fun hpos _ => hpos⟩ <;> exact absurd hx (by omega)

/-- Settles O17: a change too short for GLITCH moves the clock alone (`exec_acceptedEdge_short`); of one that is taken
(`exec_acceptedEdge_taken`) the difference of the state codes says whether it is an edge or a double change
(`Dev.quadStep_quadrature`, from `Dev.edge_counts` and `Dev.doubleChange_counts`). -/
theorem quadratureEdgesCount : Obligations.QuadratureEdgesCount := by
  intro s n a b tm d q fwd newA newB
  refine ⟨fun hshort => ⟨_, exec_acceptedEdge_short hshort, s.sameStores_of_dev _, ?_, ?_⟩, fun hlong hruns hc =>
    ⟨_, exec_acceptedEdge_taken hlong hruns, s.sameStores_of_dev _, ?_⟩⟩
  · exact (s.quietened.dev.reach_noted n.isLt _).count
  · exact fun x hx _ => (s.quietened.dev.reg_reach_ne _ (hx _ (List.mem_singleton_self _)))
  · have hnoted := s.quietened.dev.levelsTaken_noted n.isLt a b tm
    have hdir : (s.quietened.dev.levelsTaken n a b tm).on (F.LOGn_CFG_DIR n) = s.dev.on (F.LOGn_CFG_DIR n) :=
      hnoted.taken_on n.isLt (o := 0) rfl (by decide) (by decide)
    obtain ⟨h0, h1, h3, h2, hframe⟩ := Dev.quadStep_quadrature tm n.isLt hnoted (Dev.chanRuns_idle hruns) hc hdir
      (quadCode_lt a b)
    exact ⟨h0, h1, h3, h2, fun hs => (hframe hs).imp_right fun htouch => htouch.sameRegsBut fun _ => quadReg_named⟩

end Sys2Proof.Machine
end

/-! PROOFS. SpeedIndexAndScale: the index, speed windows, and the reads and writes of the Log that latch or cancel (R14,
R38 to R42, R46). -/
section
-- One lemma at a time: elaborated side by side they take more threads than the check's memory limit leaves room for.
set_option Elab.async false
namespace Sys2Proof.Machine

/-! ### The index (R38, R39) -/

/-- The registers that the check of a latch may write (R39, R40). -/
def CheckReg (n a : Nat) : Prop :=
  a = R.LOG_STAT ∨ a = R.LOGn_DRIFT n ∨ a = R.LOGn_DRIFT_HISTk n 0 ∨ a = R.LOGn_FLAG n ∨ a = R.LOGn_INDEX_ERR_CNT n

section
variable {d : Dev} {n : Nat}

theorem Dev.startRamp_touches (d : Dev) (n : Nat) (l ref j : Int) : d.Touches (CheckReg n) (d.startRamp n l ref j) := by
  unfold Dev.startRamp
  extract_lets den num target span log e
  have he : d.Touches (CheckReg n) e := .of_regs rfl rfl rfl
  exact .ite (.refl _ d) (he.mark (f := F.LOG_STAT_RAMP) (.inl rfl) true)

theorem Dev.startRamp_chan (d : Dev) (n : Nat) (l ref j : Int) : (d.startRamp n l ref j).log.chan = d.log.chan := by
  unfold Dev.startRamp
  dsimp only
  split <;> simp

/-- The check of a latch leaves the count. -/
theorem Dev.indexCheck_noted (d : Dev) (hn : n < 32) (l : Int) : d.Noted n (CheckReg n) (d.indexCheck n l) := by
  have hstat : ¬ CheckReg n (R.LOGn_STAT n) := by
    simp only [CheckReg, R.LOG_STAT, R.LOGn_STAT, R.LOGn_DRIFT, R.LOGn_DRIFT_HISTk, R.LOGn_FLAG, R.LOGn_INDEX_ERR_CNT]
    omega
  have hreg : ∀ {e f : Dev}, e.Touches (CheckReg n) f → f.log.chan = e.log.chan → e.Noted n (CheckReg n) f :=
    fun h hlog => .of_touches h hstat hn hlog
  have hset : ∀ {e : Dev}, d.Noted n (CheckReg n) e → ∀ c : LogChan, c.count = (d.logch n).count →
      d.Noted n (CheckReg n) (e.setLogch n c) := fun h c hc => h.setLogch (hc.trans h.count.symm)
  have hflag : ∀ (e : Dev) {f : Fld}, f.addr = R.LOGn_FLAG n → (f.lo + f.len).ble 32 = true →
      e.Noted n (CheckReg n) (e.raise f) := fun e f hf h32 =>
    hreg ((Dev.Touches.refl _ e).raise (.inr (.inr (.inr (.inl hf)))) h32) (by simp)
  have h0 : d.Noted n (CheckReg n) d := .refl n _ d
  unfold Dev.indexCheck
  extract_lets c cpr errs
  split
  · exact hset h0 _ rfl
  · split
    · exact hset h0 _ rfl
    · extract_lets j drift e1 hist e2 e3 e4
      have hdrift : d.Noted n (CheckReg n) e1 :=
        hreg ((Dev.Touches.refl _ d).put (f := F.LOGn_DRIFT n) (.inr (.inl rfl)) _) (by simp [e1])
      split
      · have hset2 : d.Noted n (CheckReg n) e2 := hset hdrift _ rfl
        have hhist : e2.Noted n (CheckReg n) e3 :=
          hreg ((Dev.Touches.refl _ e2).put (f := F.LOGn_DRIFT_HISTk n 0) (.inr (.inr (.inl rfl))) _) (by simp [e3])
        split
        · exact (hset2.trans hhist).trans (hreg (e3.startRamp_touches n _ _ _) (e3.startRamp_chan n _ _ _))
        · exact hset2.trans hhist
      · have hcnt : (e1.raise (F.LOGn_FLAG_INDEX_ERR n)).Noted n (CheckReg n) e4 :=
          hreg ((Dev.Touches.refl _ _).inc (f := F.LOGn_INDEX_ERR_CNT n) (.inr (.inr (.inr (.inr rfl))))) (by simp [e4])
        have herr : d.Noted n (CheckReg n) e4 := (hdrift.trans (hflag e1 rfl rfl)).trans hcnt
        split
        · refine Dev.Noted.trans (hset herr _ ?_) (hflag _ rfl rfl)
          rfl
        · refine hset herr _ ?_
          rfl

/-- The instant of Z's new level taken, and the level (R30). -/
def Dev.zTaken (d : Dev) (n t : Nat) : Dev :=
  ((d.reach (t + d.val (F.LOGn_CFG_GLITCH n) + 12)).setLogch n { d.logch n with chZ := some t }).put (F.LOGn_STAT_ABZ n)
    (d.val (F.LOGn_STAT_ABZ n) % 4 + 4)

/-- The latch of the count (R38, R39). -/
def Dev.latched (d : Dev) (n : Nat) : Dev :=
  let l := (d.logch n).count
  let e := ((d.puti (F.LOGn_INDEX_POS n) (256 * l)).inc (F.LOGn_INDEX_CNT n)).indexCheck n l
  e.put (F.LOGn_STAT_IDX_ERRS n) (min 15 (e.logch n).idxErrs)

theorem Dev.zTaken_noted (d : Dev) (hn : n < 32) (t : Nat) : d.Noted n (TakenReg n) (d.zTaken n t) := by
  unfold Dev.zTaken
  refine Dev.Noted.put (g := F.LOGn_STAT_ABZ n) (Dev.Noted.setLogch (d.reach_noted hn _) ?_) rfl (.inr rfl) _
  exact (d.reach_noted hn _).count.symm

/-- What follows the count of a latch leaves the index and the position. -/
theorem latched_later {e f : Dev} (h : e.Touches (fun a => CheckReg n a ∨ a = R.LOGn_STAT n) f) (hn : n < 32) :
    f.vali (F.LOGn_INDEX_POS n) = e.vali (F.LOGn_INDEX_POS n) ∧ f.val (F.LOGn_INDEX_CNT n) = e.val (F.LOGn_INDEX_CNT n) ∧
      f.vali (F.LOGn_POS n) = e.vali (F.LOGn_POS n) := by
  refine ⟨h.keeps_vali ?_ (quiet_chan (o := 0x30) rfl (by decide) hn), h.keeps_val ?_ (quiet_chan (o := 0x3C) rfl (by decide) hn),
    h.keeps_vali ?_ (quiet_chan (o := 0x10) rfl (by decide) hn)⟩
  all_goals
    intro a ha hw
    simp only [CheckReg, Fld.At, F.LOGn_INDEX_POS, R.LOGn_INDEX_POS, F.LOGn_INDEX_CNT, R.LOGn_INDEX_CNT, F.LOGn_POS, R.LOGn_POS,
      R.LOG_STAT, R.LOGn_DRIFT, R.LOGn_DRIFT_HISTk, R.LOGn_FLAG, R.LOGn_INDEX_ERR_CNT, R.LOGn_STAT] at ha hw
    omega

/-- A latch stores 256 times the count and counts itself; the count and the position stay (R38). -/
theorem Dev.latched_does (d : Dev) (hn : n < 32) (hc : (d.logch n).count.natAbs < 2 ^ 54) :
    (d.latched n).vali (F.LOGn_INDEX_POS n) = 256 * (d.logch n).count ∧
      (d.latched n).val (F.LOGn_INDEX_CNT n) = min 0xFFFFFFFF (d.val (F.LOGn_INDEX_CNT n) + 1) ∧
      ((d.latched n).logch n).count = (d.logch n).count ∧ (d.latched n).vali (F.LOGn_POS n) = d.vali (F.LOGn_POS n) := by
  obtain ⟨e, he⟩ : ∃ e, e = (d.puti (F.LOGn_INDEX_POS n) (256 * (d.logch n).count)).inc (F.LOGn_INDEX_CNT n) := ⟨_, rfl⟩
  have hlater : e.Noted n (fun a => CheckReg n a ∨ a = R.LOGn_STAT n) (d.latched n) := by
    rw [he]
    exact ((Dev.indexCheck_noted _ hn _).mono fun _ => .inl).put (g := F.LOGn_STAT_IDX_ERRS n) rfl (.inr rfl) _
  obtain ⟨hpos, hcnt, hchan⟩ := latched_later hlater.touches hn
  have hcntPos : (F.LOGn_INDEX_CNT n).Apart (F.LOGn_INDEX_POS n) := .inl (by
    simp only [F.LOGn_INDEX_CNT, R.LOGn_INDEX_CNT, F.LOGn_INDEX_POS, R.LOGn_INDEX_POS]; omega)
  have hcntChan : (F.LOGn_INDEX_CNT n).Apart (F.LOGn_POS n) := .inl (by
    simp only [F.LOGn_INDEX_CNT, R.LOGn_INDEX_CNT, F.LOGn_POS, R.LOGn_POS]; omega)
  have hposChan : (F.LOGn_INDEX_POS n).Apart (F.LOGn_POS n) := .inl (by
    simp only [F.LOGn_INDEX_POS, R.LOGn_INDEX_POS, F.LOGn_POS, R.LOGn_POS]; omega)
  rw [hpos, hcnt, hlater.count, hchan, he]
  refine ⟨?_, ?_, ?_, ?_⟩
  · unfold Dev.vali
    rw [Dev.val_inc_apart _ hcntPos]
    refine Dev.vali_puti_self (f := F.LOGn_INDEX_POS n) d (Nat.le_refl 64) (Nat.zero_lt_succ 63) ?_ ?_ <;>
      simp only [F.LOGn_INDEX_POS] <;> omega
  · rw [Dev.val_inc_self _ rfl rfl, Dev.val_puti_apart _ hcntPos.symm]
  · simp [Dev.logch]
  · unfold Dev.vali
    rw [Dev.val_inc_apart _ hcntChan, Dev.val_puti_apart _ hposChan]

theorem exec_indexLatch_taken {s : State} {n : Fin 32} {t : Nat}
    (hz : s.dev.settled n (s.dev.logch n).chZ t = true) (hruns : s.dev.chanRuns n 1 = true)
    (hzen : s.dev.on (F.LOGn_INDEX_CTRL_ZEN n) = true) (hlow : bitOf (s.dev.val (F.LOGn_STAT_ABZ n)) 2 = false)
    (hgate : s.dev.on (F.LOGn_INDEX_CTRL_ZGATE_EN n) = false ∨ s.dev.val (F.LOGn_INDEX_CTRL_ZGATE n) = s.dev.quad n) :
    exec (.indexLatch n true t) s = .next { s with dev := (s.quietened.dev.zTaken n t).latched n } := by
  have hnoted := s.quietened.dev.zTaken_noted n.isLt t
  have hen := (hnoted.taken_on n.isLt (f := F.LOGn_INDEX_CTRL_ZEN n) (o := 0x24) rfl (by decide) (by decide)).trans hzen
  have hruns' := hnoted.taken_runs n.isLt hruns
  have hgate' : (! (s.quietened.dev.zTaken n t).on (F.LOGn_INDEX_CTRL_ZGATE_EN n) ||
      s.dev.quad n == (s.quietened.dev.zTaken n t).val (F.LOGn_INDEX_CTRL_ZGATE n)) = true := by
    rw [hnoted.taken_on n.isLt (o := 0x24) rfl (by decide) (by decide),
      hnoted.taken_val n.isLt (f := F.LOGn_INDEX_CTRL_ZGATE n) (o := 0x24) rfl (by decide) (by decide)]
    rcases hgate with h | h
    · rw [show s.quietened.dev.on (F.LOGn_INDEX_CTRL_ZGATE_EN n) = false from h]
      rfl
    · rw [show s.quietened.dev.val (F.LOGn_INDEX_CTRL_ZGATE n) = s.dev.quad n from h, beq_self_eq_true, Bool.or_true]
  show Host.Outcome.next { s with dev :=
    if (! s.dev.settled n (s.dev.logch n).chZ t || true == bitOf (s.dev.val (F.LOGn_STAT_ABZ n)) 2) = true then _ else
    if (true && ! bitOf (s.dev.val (F.LOGn_STAT_ABZ n)) 2 && (s.quietened.dev.zTaken n t).chanRuns n 1 &&
      (s.quietened.dev.zTaken n t).on (F.LOGn_INDEX_CTRL_ZEN n) &&
      (! (s.quietened.dev.zTaken n t).on (F.LOGn_INDEX_CTRL_ZGATE_EN n) ||
        s.dev.quad n == (s.quietened.dev.zTaken n t).val (F.LOGn_INDEX_CTRL_ZGATE n))) = true then _ else _ } = _
  rw [hz, hlow, hruns', hen, hgate']
  rfl

end

/-- An accepted index edge latches, and leaves count and position (R38). -/
theorem indexLatch_does {s : State} {n : Fin 32} {t : Nat}
    (hz : s.dev.settled n (s.dev.logch n).chZ t = true) (hruns : s.dev.chanRuns n 1 = true)
    (hzen : s.dev.on (F.LOGn_INDEX_CTRL_ZEN n) = true) (hlow : bitOf (s.dev.val (F.LOGn_STAT_ABZ n)) 2 = false)
    (hgate : s.dev.on (F.LOGn_INDEX_CTRL_ZGATE_EN n) = false ∨ s.dev.val (F.LOGn_INDEX_CTRL_ZGATE n) = s.dev.quad n)
    (hc : (s.dev.logch n).count.natAbs < 2 ^ 54) :
    ∃ u, exec (.indexLatch n true t) s = .next u ∧ u.dev.vali (F.LOGn_INDEX_POS n) = 256 * (s.dev.logch n).count ∧
      u.dev.val (F.LOGn_INDEX_CNT n) = min 0xFFFFFFFF (s.dev.val (F.LOGn_INDEX_CNT n) + 1) ∧
      (u.dev.logch n).count = (s.dev.logch n).count ∧ u.dev.vali (F.LOGn_POS n) = s.dev.vali (F.LOGn_POS n) ∧
      s.sameStores u := by
  have hnoted := s.quietened.dev.zTaken_noted n.isLt t
  have hcount : ((s.quietened.dev.zTaken n t).logch n).count = (s.dev.logch n).count := hnoted.count
  have hcnt : (s.quietened.dev.zTaken n t).val (F.LOGn_INDEX_CNT n) = s.dev.val (F.LOGn_INDEX_CNT n) :=
    hnoted.taken_val n.isLt (o := 0x3C) rfl (by decide) (by decide)
  have hpos : (s.quietened.dev.zTaken n t).vali (F.LOGn_POS n) = s.dev.vali (F.LOGn_POS n) :=
    hnoted.touches.keeps_vali (fun a ha hw => by
      simp only [TakenReg, Fld.At, F.MER_TIME, R.MER_TIME, F.LOGn_POS, R.LOGn_POS, R.LOGn_STAT] at ha hw
      omega) (quiet_chan (o := 0x10) rfl (by decide) n.isLt)
  have hdoes := (s.quietened.dev.zTaken n t).latched_does n.isLt (by rw [hcount]; exact hc)
  rw [hcount, hcnt, hpos] at hdoes
  obtain ⟨hstored, hcounted, hkept, hchan⟩ := hdoes
  exact ⟨_, exec_indexLatch_taken hz hruns hzen hlow hgate, hstored, hcounted, hkept, hchan, s.sameStores_of_dev _⟩

/-! ### Speed windows (R41, R42) -/

/-- A speed sample stored, and shown with its validity by the channel's filter and by the unit that it is the source of. -/
def Dev.sampleShown (d : Dev) (n : Nat) (v : Int) (valid : Bool) : Dev :=
  let d := d.putSat (F.LOGn_SPEED n) v
  let d := if d.on (F.LOGn_SPD_CFG_FILT n) then d.mark (F.FLTc_STAT_VALID (16 + n)) valid else d
  if d.isSource n then (d.putSat F.LOG_SPEED v).mark F.LOG_STAT_SPD_VALID valid else d

theorem Dev.spdWindow_cast (d : Dev) (n : Nat) :
    ((d.spdWindow n : Nat) : Int) = min 100000 (max 50 (d.val (F.LOGn_SPD_CFG_WINDOW n) : Int)) := by
  unfold Dev.spdWindow
  omega

/-- At the end of a window of a channel that runs the clock comes there, the next window opens empty, and the sample is
shown. -/
theorem exec_speedWindowEnd_runs {s : State} {n : Fin 32}
    (h : s.dev.runs (F.LOGn_CFG_EN n) (F.LOGn_STAT_IDLE n) = true) :
    ∃ t c valid, exec (.speedWindowEnd n) s =
        .next { s with
          dev := ((s.quietened.dev.reach t).setLogch n c).sampleShown n
            (Int.tdiv ((s.dev.logch n).winNet * 1000000) (s.dev.spdWindow n)) valid } ∧
      c.winNet = 0 ∧ c.winEdges = 0 ∧ c.winRev = false := by
  refine ⟨?t, ?c, ?valid, ?exec, ?net, ?edges, ?turn⟩
  case exec =>
    show Host.Outcome.next { s with dev := if (! s.dev.runs (F.LOGn_CFG_EN n) (F.LOGn_STAT_IDLE n)) = true then _ else _ } = _
    rw [h]
    rfl
  case net | edges | turn => rfl

section
variable (d : Dev) {n : Nat} (v : Int) (valid : Bool)

/-- The registers that show a sample, beside LOGn_SPEED. -/
def SampleReg (n a : Nat) : Prop := a = R.FLTc_STAT (16 + n) ∨ a = R.LOG_SPEED ∨ a = R.LOG_STAT

theorem Dev.sampleShown_touches :
    (d.putSat (F.LOGn_SPEED n) v).Touches (SampleReg n) (d.sampleShown n v valid) := by
  unfold Dev.sampleShown
  extract_lets e1 e2
  have hfilt : e1.Touches (SampleReg n) e2 :=
    .ite ((Dev.Touches.refl _ e1).mark (f := F.FLTc_STAT_VALID (16 + n)) (.inl rfl) valid) (.refl _ _)
  have hunit : e1.Touches (SampleReg n) (e2.putSat F.LOG_SPEED v) := hfilt.put (f := F.LOG_SPEED) (.inr (.inl rfl)) _
  exact .ite (hunit.mark (f := F.LOG_STAT_SPD_VALID) (.inr (.inr rfl)) valid) hfilt

theorem Dev.sampleShown_log : (d.sampleShown n v valid).log = d.log := by
  unfold Dev.sampleShown
  dsimp only
  split <;> split <;> simp

theorem Dev.sampleShown_speed (hn : n < 32) :
    (d.sampleShown n v valid).vali (F.LOGn_SPEED n) = clampI (-(2 ^ 31)) (2 ^ 31 - 1) v := by
  rw [(d.sampleShown_touches v valid).keeps_vali ?_ (quiet_chan (o := 0x4C) rfl (by decide) hn)]
  · refine Dev.vali_puti_self (f := F.LOGn_SPEED n) d (Nat.le_add_left 32 32) (Nat.zero_lt_succ 31) ?_ ?_ <;>
      simp only [F.LOGn_SPEED, clampI] <;> omega
  · intro a ha hs
    obtain rfl := at_narrow ha
    simp only [SampleReg, F.LOGn_SPEED, R.LOGn_SPEED, R.FLTc_STAT, R.LOG_SPEED, R.LOG_STAT] at hs
    omega

/-- All that a sample may change of the registers. -/
theorem Dev.sampleShown_frame : d.Touches (fun a => a = R.LOGn_SPEED n ∨ SampleReg n a) (d.sampleShown n v valid) :=
  ((Dev.Touches.refl _ d).put (f := F.LOGn_SPEED n) (.inl rfl) _).trans ((d.sampleShown_touches v valid).mono fun _ => .inr)

end

theorem speedWindowEnd_does {s : State} {n : Fin 32} (h : s.dev.runs (F.LOGn_CFG_EN n) (F.LOGn_STAT_IDLE n) = true) :
    ∃ t, exec (.speedWindowEnd n) s = .next t ∧
      t.dev.vali (F.LOGn_SPEED n) = clampI (-(2 ^ 31)) (2 ^ 31 - 1)
        (Int.tdiv ((s.dev.logch n).winNet * 1000000) (s.dev.spdWindow n)) ∧
      (t.dev.logch n).winNet = 0 ∧ (t.dev.logch n).winEdges = 0 ∧ (t.dev.logch n).winRev = false ∧
      s.dev.sameRegsBut t.dev [F.MER_TIME, F.LOGn_SPEED n, ⟨R.FLTc_STAT (16 + n), 0, 32⟩, F.LOG_SPEED,
        F.LOG_STAT_SPD_VALID] ∧ s.sameStores t := by
  obtain ⟨t, c, valid, hexec, hnet, hedges, hturn⟩ := exec_speedWindowEnd_runs h
  have hchan : ((((s.quietened.dev.reach t).setLogch n c).sampleShown n
      (Int.tdiv ((s.dev.logch n).winNet * 1000000) (s.dev.spdWindow n)) valid).logch n) = c := by
    unfold Dev.logch
    rw [Dev.sampleShown_log]
    exact Dev.logch_setLogch _ n c
  refine ⟨_, hexec, Dev.sampleShown_speed _ _ _ n.isLt, ?_, ?_, ?_, ?_, s.sameStores_of_dev _⟩
  · rw [hchan, hnet]
  · rw [hchan, hedges]
  · rw [hchan, hturn]
  · have hclock : s.quietened.dev.Touches F.MER_TIME.At ((s.quietened.dev.reach t).setLogch n c) :=
      (s.quietened.dev.reach_touches t).trans (.of_regs rfl rfl rfl)
    have hall := (hclock.mono (V := fun a => F.MER_TIME.At a ∨ a = R.LOGn_SPEED n ∨ SampleReg n a) fun _ => .inl).trans
      ((Dev.sampleShown_frame _ (n := n) (Int.tdiv ((s.dev.logch n).winNet * 1000000) (s.dev.spdWindow n)) valid).mono
        fun _ => .inr)
    refine hall.sameRegsBut (d := s.quietened.dev) ?_
    rintro a (ha | rfl | rfl | rfl | rfl)
    · exact ⟨F.MER_TIME, by simp, ha⟩
    · exact ⟨F.LOGn_SPEED n, by simp, .inl rfl⟩
    · exact ⟨⟨R.FLTc_STAT (16 + n), 0, 32⟩, by simp, .inl rfl⟩
    · exact ⟨F.LOG_SPEED, by simp, .inl rfl⟩
    · exact ⟨F.LOG_STAT_SPD_VALID, by simp, .inl rfl⟩

/-! ### Reads that latch (R42, R46) -/

theorem exec_speedRead (n : Fin 32) (s : State) :
    exec (.speedRead n) s = .next { s with dev := s.quietened.dev.spdLatch n } := rfl

theorem Dev.reg_spdLatch_stat (d : Dev) (n : Nat) :
    (d.spdLatch n).reg (R.LOGn_SPD_STAT n) = BitVec.ofNat 32 (d.logch n).spdStat := Dev.reg_setReg_self _ _ _

theorem Dev.reg_spdLatch_ne (d : Dev) {n a : Nat} (h : a ≠ R.LOGn_SPD_STAT n) : (d.spdLatch n).reg a = d.reg a :=
  Dev.reg_setReg_ne _ h.symm _

/-- Fields written one after the other, no two of which share a bit, read what each was given. -/
theorem Dev.val_foldl_put {f : Nat → Fld} (g : Nat → Nat) (hf : ∀ i, (f i).lo + (f i).len ≤ 64)
    (hap : ∀ i j, i ≠ j → (f i).Apart (f j)) {k : Nat} (l : List Nat) (d : Dev) (hk : k ∈ l) :
    (l.foldl (fun d i => d.put (f i) (g i)) d).val (f k) = g k % 2 ^ (f k).len := by
  induction l generalizing d with
  | nil => cases hk
  | cons x l ih =>
    rw [List.foldl_cons]
    by_cases hl : k ∈ l
    · exact ih _ hl
    · obtain rfl : k = x := (List.mem_cons.1 hk).resolve_right hl
      rw [foldl_mem_keeps (fun d : Dev => d.val (f k)) _ l, Dev.val_put_self _ (hf k)]
      exact fun e i hi => e.val_put_apart (hap i k fun h => hl (h ▸ hi)) _

theorem exec_driftHistRead (n : Fin 32) (s : State) :
    exec (.driftHistRead n) s = .next { s with dev := s.quietened.dev.histLatch n } := rfl

theorem Dev.histLatch_rdata (d : Dev) (n : Nat) : (d.histLatch n).rdata = d.reg (R.LOGn_DRIFT_HISTk n 0) := by
  unfold Dev.histLatch
  extract_lets e h
  exact foldl_keeps (fun d : Dev => d.rdata) _ (fun e _ => e.put_rdata _ _) _ _

theorem Dev.histLatch_val (d : Dev) {n k : Nat} (h1 : 1 ≤ k) (h8 : k < 8) :
    (d.histLatch n).val (F.LOGn_DRIFT_HISTk n k) = histWord (d.logch n).hist k % 2 ^ 32 := by
  unfold Dev.histLatch
  refine Dev.val_foldl_put (f := F.LOGn_DRIFT_HISTk n) _ (fun _ => Nat.le_add_left 32 32) (fun i j hij => .inl ?_) _ _ ?_
  · simp only [F.LOGn_DRIFT_HISTk, R.LOGn_DRIFT_HISTk]
    omega
  · simp only [List.mem_cons, List.not_mem_nil, or_false]
    omega

theorem Dev.histLatch_reg (d : Dev) {n a : Nat} (h : ∀ k, 1 ≤ k → k < 8 → a ≠ R.LOGn_DRIFT_HISTk n k) :
    (d.histLatch n).reg a = d.reg a := by
  unfold Dev.histLatch
  extract_lets e l
  refine foldl_mem_keeps (fun d : Dev => d.reg a) _ _ (fun u k hk => u.reg_put_ne (Dev.Touches.not_at rfl (h k ?_ ?_)) _) e
  all_goals
    simp only [List.mem_cons, List.not_mem_nil, or_false] at hk
    omega

/-! ### LOG_SCALE (R14, R40) -/

theorem Dev.reg_scaleWrite_ne (d : Dev) (v : Word) {a : Nat} (h1 : a ≠ R.LOG_SCALE) (h2 : a ≠ R.LOG_STAT) :
    (d.scaleWrite v).reg a = d.reg a :=
  (Dev.reg_mark_ne (f := F.LOG_STAT_RAMP) _ (Dev.Touches.not_at rfl h2) false).trans (d.reg_setReg_ne h1.symm v)

theorem exec_logScaleWrite (v : Word) (s : State) :
    exec (.logScaleWrite v) s = .next { s with dev := s.quietened.dev.scaleWrite v } := rfl

theorem Dev.reg_scaleWrite_scale (d : Dev) (v : Word) : (d.scaleWrite v).reg R.LOG_SCALE = v :=
  (Dev.reg_mark_ne (f := F.LOG_STAT_RAMP) _ (Dev.Touches.not_at rfl (by decide)) false).trans (d.reg_setReg_self _ v)

theorem Dev.scaleWrite_ramp (d : Dev) (v : Word) :
    (d.scaleWrite v).log.ramp = none ∧ (d.scaleWrite v).on F.LOG_STAT_RAMP = false := by
  unfold Dev.scaleWrite
  extract_lets e log
  exact ⟨by rw [Dev.mark_log], Dev.on_mark_self _ rfl (by decide) false⟩

/-- Settles O19: each command is one function of the block (`indexLatch_does`, `speedWindowEnd_does`, and the reads and the
write of LOG_SCALE by their registers). -/
theorem speedIndexAndScale : Obligations.SpeedIndexAndScale := by
  intro s n
  refine ⟨fun tm => indexLatch_does, fun hruns => ?_, ?_, ?_, fun v => ?_⟩
  · rw [← Dev.spdWindow_cast]
    exact speedWindowEnd_does hruns
  · exact ⟨_, exec_speedRead n s, rfl, Dev.reg_spdLatch_stat _ n, fun a ha _ => Dev.reg_spdLatch_ne _ fun h =>
      ha _ (List.mem_singleton_self _) (.inl h), s.sameStores_of_dev _⟩
  · exact ⟨_, exec_driftHistRead n s, Dev.histLatch_rdata _ _, fun k h1 h8 => Dev.histLatch_val _ h1 h8,
      fun a ha => Dev.histLatch_reg _ ha, s.sameStores_of_dev _⟩
  · obtain ⟨hramp, hoff⟩ := s.quietened.dev.scaleWrite_ramp v
    exact ⟨_, exec_logScaleWrite v s, Dev.reg_scaleWrite_scale _ v, hramp, hoff,
      fun a h1 h2 => Dev.reg_scaleWrite_ne _ v h1 h2, s.sameStores_of_dev _⟩

end Sys2Proof.Machine
end

/-! PROOFS. CompareHits (R44, R45). -/
section
-- One lemma at a time: elaborated side by side they take more threads than the check's memory limit leaves room for.
set_option Elab.async false
namespace Sys2Proof.Machine

/-- A unit that has hit in the present fabric cycle, was armed again as ONCE and owes its hit: the table of hits holds the
first cycle free for the next one (R45). -/
def hitThisCycle : State :=
  { State.reset with dev :=
    { (State.reset.dev.put (F.LOGn_CMPm_CTRL_MODE 0 0) 1).put (F.LOGn_CMPm_CTRL_BACKLOG 0 0) 1 with
      log := { State.reset.dev.log with hits := [(0, 1)] } } }

/-- Its hit waits for the next fabric cycle, and the device time comes there with the clock. -/
theorem exec_compareHit_hitThisCycle :
    ∃ u, exec (.compareHit 0 0) hitThisCycle = .next u ∧ u.dev.now = 4 ∧ u.dev.reg R.MER_TIME = 4 :=
  ⟨_, rfl, by decide, by decide⟩

theorem compareHit_frame_not_time :
    ∀ f ∈ [F.LOGn_CMPm_CTRL_MODE 0 0, F.LOGn_CMPm_HIT_CNT 0 0], ¬ f.At R.MER_TIME := by
  simp [Fld.At, F.LOGn_CMPm_CTRL_MODE, F.LOGn_CMPm_HIT_CNT, R.LOGn_CMPm_CTRL, R.LOGn_CMPm_HIT_CNT, R.MER_TIME]

/-- Refutes O20: the clause on ONCE units lets no register but CTRL and HIT_CNT change, MER_TIME not among them as it is in
the clause on REGULAR units, yet a hit that waits for the fabric cycle after the unit's last one moves the device time. -/
theorem not_compareHits : ¬ Obligations.CompareHits := by
  intro h
  obtain ⟨t, ht, -, -, -, hframe, -⟩ := (h hitThisCycle 0 0).1 (by decide) (by decide)
  have hkept : t.dev.reg R.MER_TIME = 0 := hframe _ compareHit_frame_not_time (by decide)
  obtain ⟨u, hu, -, hmoved⟩ := exec_compareHit_hitThisCycle
  cases ht.symm.trans hu
  exact absurd (hkept.symm.trans hmoved) (by decide)

end Sys2Proof.Machine
end

/-! PROOFS. What streams that follow the others write, and what leaves clock and motion as they stand (R143, R144). -/
section
-- One lemma at a time: elaborated side by side they take more threads than the check's memory limit leaves room for.
set_option Elab.async false
namespace Sys2Proof.Machine

/-! ### Readings -/

theorem State.quietened_val (s : State) (f : Fld) : s.quietened.dev.val f = s.dev.val f := Dev.val_of_regs rfl f
theorem State.quietened_on (s : State) (f : Fld) : s.quietened.dev.on f = s.dev.on f :=
  congrArg (· != 0) (s.quietened_val f)
theorem State.quietened_vali (s : State) (f : Fld) : s.quietened.dev.vali f = s.dev.vali f :=
  congrArg (toSigned f.len) (s.quietened_val f)

/-- The end of a drain leaves every field that shares no bit with IDLE. -/
theorem Dev.val_drained_apart (d : Dev) (en : Fld) {idle f : Fld} (h : idle.Apart f) : (d.drained en idle).1.val f = d.val f := by
  unfold Dev.drained
  split
  · exact (Dev.val_mark_apart _ h false).trans (Dev.val_of_regs rfl f)
  · split
    · rfl
    · exact Dev.val_mark_apart _ h true

theorem Dev.Touches.setTrgs {W : Nat → Prop} {d e : Dev} (h : d.Touches W e) (s : Nat) (x : TrgStream) :
    d.Touches W (e.setTrgs s x) := h.trans (.of_regs rfl rfl rfl)

theorem Dev.trgs_of_streams {d e : Dev} (h : e.trg.stream = d.trg.stream) (q : Nat) : e.trgs q = d.trgs q := by
  unfold Dev.trgs
  rw [h]

theorem quiet_stream {f : Fld} {o s : Nat} (h : f.addr = 0x400C1000 + o + s * 0x40) (ho : o < 0x3C) (hs : s < 64) : f.quiet :=
  ⟨evIcu_of_window (w := 0x400C) (by omega) (by decide) (by decide),
    fun _ => evIcu_of_window (w := 0x400C) (by omega) (by decide) (by decide)⟩

/-! ### The clock and the motion stand

`d.Still W e` says that `e` comes from `d` by operations that write no register outside `W`, and that leave the clock, the
channels of the Log and the position reconstructed from beacons as they are. Where `W` holds no register that the
position is read from, the line position is the same in both. -/

structure Dev.Still (W : Nat → Prop) (d e : Dev) : Prop where
  touches : d.Touches W e
  now : e.now = d.now
  log : e.log = d.log
  recon : e.trg.recon = d.trg.recon

namespace Dev.Still

variable {W : Nat → Prop} {d e : Dev}

theorem refl (W : Nat → Prop) (d : Dev) : d.Still W d := ⟨.refl W d, rfl, rfl, rfl⟩

theorem trans {f : Dev} (h : d.Still W e) (g : e.Still W f) : d.Still W f :=
  ⟨h.touches.trans g.touches, g.now.trans h.now, g.log.trans h.log, g.recon.trans h.recon⟩

theorem mono {V : Nat → Prop} (h : d.Still W e) (hV : ∀ a, W a → V a) : d.Still V e :=
  ⟨h.touches.mono hV, h.now, h.log, h.recon⟩

theorem of_regsEvt (ht : d.Touches W e) (hr : d.RegsEvt e) : d.Still W e :=
  ⟨ht, hr.keeps_now, hr.keeps_log, congrArg TrgSt.recon hr.keeps_trg⟩

theorem setTrgs (h : d.Still W e) (s : Nat) (x : TrgStream) : d.Still W (e.setTrgs s x) :=
  ⟨h.touches.setTrgs s x, h.now, h.log, h.recon⟩

theorem put (h : d.Still W e) {f : Fld} (hW : W f.addr) (v : Nat) (hn : (f.lo + f.len).ble 32 = true := by rfl) :
    d.Still W (e.put f v) := h.trans (of_regsEvt ((Dev.Touches.refl W e).put hW v hn) (e.regsEvt_put f v))

theorem raiseIf (h : d.Still W e) {f : Fld} (hW : W f.addr) (b : Bool) (hn : (f.lo + f.len).ble 32 = true := by rfl) :
    d.Still W (e.raiseIf b f) :=
  h.trans (of_regsEvt ((Dev.Touches.refl W e).raiseIf hW b hn) (e.regsEvt_raiseIf b f))

theorem emit (h : d.Still W e) (o : Out) : d.Still W (e.emit o) := ⟨h.touches.emit o, h.now, h.log, h.recon⟩

end Dev.Still

/-! ### Streams that follow the others (R144) -/

/-- The registers that streams with triggering off may write as they follow the others: those of the Reckoner's window,
no more than STAT of the streams while it stands. -/
def FollowReg (runs : Bool) (a : Nat) : Prop :=
  a / 0x10000 = 0x4013 ∧ (runs = true ∨ ∃ i : Fin 64, a = R.STC_CAMs_STAT i)

/-- `e` is `d` after operations that write registers of `W`, event channels and what the stitch holds of its streams. -/
structure Dev.Follows (W : Nat → Prop) (d e : Dev) : Prop where
  touches : d.Touches W e
  rest : e = { d with regs := e.regs, evt := e.evt, stc := e.stc }

namespace Dev.Follows

variable {W : Nat → Prop} {d e : Dev}

theorem refl (W : Nat → Prop) (d : Dev) : d.Follows W d := ⟨.refl W d, rfl⟩

theorem trans {f : Dev} (h : d.Follows W e) (g : e.Follows W f) : d.Follows W f :=
  ⟨h.touches.trans g.touches, by rw [g.rest, h.rest]⟩

theorem mono {V : Nat → Prop} (h : d.Follows W e) (hV : ∀ a, W a → V a) : d.Follows V e := ⟨h.touches.mono hV, h.rest⟩

theorem of_regsEvt (ht : d.Touches W e) (hr : d.RegsEvt e) : d.Follows W e := by
  refine ⟨ht, ?_⟩
  rw [hr]

theorem foldl {α : Type} (g : Dev → α → Dev) :
    ∀ (l : List α) {e : Dev} (_ : d.Follows W e) (_ : ∀ x ∈ l, ∀ c, Dev.Follows W c (g c x)), d.Follows W (l.foldl g e)
  | [], _, h, _ => h
  | x :: l, e, h, hg =>
    foldl g l (e := g e x) (h.trans (hg x List.mem_cons_self e)) fun y hy => hg y (List.mem_cons_of_mem x hy)

theorem setPlane (h : d.Follows W e) (s p : Nat) (x : Plane) : d.Follows W (e.setPlane s p x) :=
  h.trans ⟨.of_regs rfl rfl rfl, rfl⟩

/-- A counter of a stream. -/
theorem inc (h : d.Follows W e) {f : Fld} (hW : W f.addr) (hn : (f.lo + f.len).ble 32 = true := by rfl) :
    d.Follows W (e.inc f) := h.trans (of_regsEvt ((Dev.Touches.refl W e).inc hW hn) (e.regsEvt_inc f))

/-- A flag of a stream. -/
theorem raise (h : d.Follows W e) {f : Fld} (hW : W f.addr) (hn : (f.lo + f.len).ble 32 = true := by rfl) :
    d.Follows W (e.raise f) := h.trans (of_regsEvt ((Dev.Touches.refl W e).raise hW hn) (e.regsEvt_raise f))

theorem mark (h : d.Follows W e) {f : Fld} (hW : W f.addr) (b : Bool) (hn : (f.lo + f.len).ble 32 = true := by rfl) :
    d.Follows W (e.mark f b) := h.trans (of_regsEvt ((Dev.Touches.refl W e).mark hW b hn) (e.regsEvt_mark f b))

theorem keeps_now (h : d.Follows W e) : e.now = d.now := by rw [h.rest]
theorem keeps_out (h : d.Follows W e) : e.out = d.out := by rw [h.rest]
theorem keeps_log (h : d.Follows W e) : e.log = d.log := by rw [h.rest]
theorem keeps_trg (h : d.Follows W e) : e.trg = d.trg := by rw [h.rest]
theorem keeps_slk (h : d.Follows W e) : e.slk = d.slk := by rw [h.rest]

end Dev.Follows

/-- The Reckoner's window. -/
def StitchReg (a : Nat) : Prop := a / 0x10000 = 0x4013

theorem stitchReg_cam {o s : Nat} (ho : o < 0x80) (hs : s < 64) : StitchReg (0x40131000 + o + s * 0x80) := by
  unfold StitchReg
  omega

section
variable {s : Nat} (hs : s < 64) (d : Dev)
include hs

theorem Dev.rowCount_follows (kind : Nat) : d.Follows StitchReg (d.rowCount s kind) := by
  have hflag : StitchReg (R.STC_CAMs_FLAG s) := stitchReg_cam (o := 8) (by decide) hs
  have h := Dev.Follows.refl StitchReg d
  unfold Dev.rowCount
  split
  · exact h.inc (f := F.STC_CAMs_NEAREST_CNT s) (stitchReg_cam (o := 0x3C) (by decide) hs)
  · split
    · exact (h.inc (f := F.STC_CAMs_STALE_CNT s) (stitchReg_cam (o := 0x34) (by decide) hs)).raise
        (f := F.STC_CAMs_FLAG_STALE s) hflag
    · split
      · exact (h.inc (f := F.STC_CAMs_MISSING_CNT s) (stitchReg_cam (o := 0x38) (by decide) hs)).raise
          (f := F.STC_CAMs_FLAG_MISSING s) hflag
      · exact h

theorem Dev.decideRow_follows (p : Nat) (b : Option Placed) : d.Follows StitchReg (d.decideRow s p b) := by
  unfold Dev.decideRow
  extract_lets x k r
  split
  · exact ((Dev.Follows.refl _ d).setPlane s p _).trans (Dev.rowCount_follows hs _ _)
  · exact (Dev.Follows.refl _ d).setPlane s p _

theorem Dev.decideTo_follows (p : Nat) (x : Int) (b : Option Placed) :
    ∀ (n : Nat) (d : Dev), d.Follows StitchReg (Dev.decideTo s p x b n d)
  | 0, d => .refl _ d
  | n + 1, d => by
    unfold Dev.decideTo
    split
    · exact (d.decideRow_follows hs p b).trans (Dev.decideTo_follows p x b n _)
    · exact .refl _ d

end

theorem Dev.trigFollow_follows (d : Dev) : d.Follows (FollowReg d.stc.nextRow.isSome) d.trigFollow := by
  unfold Dev.trigFollow
  extract_lets cs off on e
  have hcs : ∀ s ∈ cs, s < 64 := fun s hs => d.mem_listed hs
  have hoff : ∀ s ∈ off, s < 64 := fun s hs => by
    simp only [off] at hs
    split at hs
    · cases hs
    · exact hcs s (List.mem_of_mem_filter hs)
  have hshow : d.Follows (FollowReg d.stc.nextRow.isSome) e := .foldl _ cs (.refl _ d) fun s hs u =>
    (Dev.Follows.refl _ u).mark (f := F.STC_CAMs_STAT_TRIG_OFF s)
      ⟨stitchReg_cam (o := 4) (by decide) (hcs s hs), .inr ⟨⟨s, hcs s hs⟩, rfl⟩⟩ _
  cases hon : on with
  | nil => exact hshow
  | cons s0 l =>
    have hruns : d.stc.nextRow.isSome = true := by
      cases hrow : d.stc.nextRow with
      | none => simp [on, hrow] at hon
      | some k => rfl
    refine hshow.trans (.foldl _ off (.refl _ e) fun s hs u => .foldl _ _ (.refl _ u) fun p _ v => ?_)
    exact (Dev.decideTo_follows (hoff s hs) p _ none _ v).mono fun a ha => ⟨ha, .inl hruns⟩

end Sys2Proof.Machine
end

/-! PROOFS. TriggerDisableAndAbort (R51). -/
section
-- One lemma at a time: elaborated side by side they take more threads than the check's memory limit leaves room for.
set_option Elab.async false
namespace Sys2Proof.Machine

/-- A register of a trigger stream is none of the Reckoner's. -/
theorem not_followReg {o s : Nat} {runs : Bool} (ho : o < 0x40) (hs : s < 64) :
    ¬ FollowReg runs (0x400C1000 + o + s * 0x40) := fun h => by
  have := h.1
  omega

/-! ### Triggers that are lost (R51) -/

/-- `e` is `d` after `n` triggers of stream `s` were dropped or discarded. -/
structure Dev.Loses (s n : Nat) (d e : Dev) : Prop where
  touches : d.Touches (· = R.TRGs_SKIP_CNT s) e
  count : e.val (F.TRGs_SKIP_CNT s) = min 0xFFFFFFFF (d.val (F.TRGs_SKIP_CNT s) + n)
  streams : e.trg.stream = d.trg.stream
  slk : e.slk = d.slk
  nextRow : e.stc.nextRow = d.stc.nextRow
  restart : e.restart = d.restart

section
variable (d : Dev) (s : Nat)

theorem Dev.loseTrig_loses (x : Trig) : d.Loses s 1 (d.loseTrig s x) := by
  unfold Dev.loseTrig
  extract_lets e slots
  refine ⟨?_, ?_, ?_, ?_, ?_, ?_⟩
  · have hcount : d.Touches (· = R.TRGs_SKIP_CNT s) e := (Dev.Touches.refl _ d).inc (f := F.TRGs_SKIP_CNT s) rfl
    exact hcount.trans (.of_regs rfl rfl rfl)
  · exact (Dev.val_of_regs rfl _).trans (d.val_inc_self rfl rfl)
  · show e.trg.stream = d.trg.stream
    rw [Dev.inc_trg]
  · exact d.inc_slk _
  · show e.stc.nextRow = d.stc.nextRow
    rw [Dev.inc_stc]
  · exact d.inc_restart _

theorem Dev.loseTrigs_loses : ∀ (l : List Trig) (d : Dev), d.Loses s l.length (l.foldl (fun d x => d.loseTrig s x) d)
  | [], d => ⟨.refl _ d, (Nat.min_eq_right (Nat.le_of_lt_succ (d.val_lt (F.TRGs_SKIP_CNT s)))).symm, rfl, rfl, rfl, rfl⟩
  | x :: l, d => by
    obtain ⟨ht, hc, htrg, hslk, hrow, hre⟩ := d.loseTrig_loses s x
    obtain ⟨ht', hc', htrg', hslk', hrow', hre'⟩ := Dev.loseTrigs_loses l (d.loseTrig s x)
    refine ⟨ht.trans ht', ?_, htrg'.trans htrg, hslk'.trans hslk, hrow'.trans hrow, hre'.trans hre⟩
    rw [List.foldl_cons, hc', hc, List.length_cons]
    omega

end

/-! ### The end of a drain -/

/-- What a stream writes as its triggers are delivered: IDLE of its STAT, and what the streams that follow the others
write. -/
def SettleReg (s : Nat) (runs : Bool) (a : Nat) : Prop := a = R.TRGs_STAT s ∨ FollowReg runs a

/-- `e` is `d` after a stream has settled: nothing is sent, and SEQ stands. -/
structure Dev.Settles (s : Nat) (runs : Bool) (d e : Dev) : Prop where
  still : d.Still (SettleReg s runs) e
  out : e.out = d.out
  slk : e.slk = d.slk
  seq : e.val (F.TRGs_STAT_SEQ s) = d.val (F.TRGs_STAT_SEQ s)

namespace Dev.Settles

variable {s : Nat} {runs : Bool} {d e : Dev}

theorem setTrgs (h : d.Settles s runs e) (x : TrgStream) : d.Settles s runs (e.setTrgs s x) :=
  ⟨h.still.setTrgs s x, h.out, h.slk, h.seq⟩

theorem ite {c : Prop} [Decidable c] {f : Dev} (h : d.Settles s runs e) (g : d.Settles s runs f) :
    d.Settles s runs (if c then e else f) := by
  split
  · exact h
  · exact g

theorem drained (h : d.Settles s runs e) : d.Settles s runs (e.drained (F.TRGs_CFG_EN s) (F.TRGs_STAT_IDLE s)).1 := by
  refine ⟨⟨h.still.touches.drained (idle := F.TRGs_STAT_IDLE s) (.inl rfl) _, ?_, ?_, ?_⟩, ?_, ?_, ?_⟩
  · rw [Dev.drained_now, h.still.now]
  · rw [Dev.drained_log, h.still.log]
  · rw [Dev.drained_trg, h.still.recon]
  · rw [Dev.drained_out, h.out]
  · rw [Dev.drained_slk, h.slk]
  · rw [Dev.val_drained_apart _ _ (by simp [Fld.Apart, F.TRGs_STAT_IDLE, F.TRGs_STAT_SEQ]), h.seq]

theorem trigFollow (h : d.Settles s runs e) (hs : s < 64) (hrow : e.stc.nextRow.isSome = runs) :
    d.Settles s runs e.trigFollow := by
  have hf := e.trigFollow_follows
  rw [hrow] at hf
  refine ⟨⟨h.still.touches.trans (hf.touches.mono fun _ => .inr), hf.keeps_now.trans h.still.now,
    hf.keeps_log.trans h.still.log, (congrArg TrgSt.recon hf.keeps_trg).trans h.still.recon⟩, hf.keeps_out.trans h.out,
    hf.keeps_slk.trans h.slk, (hf.touches.keeps_val (fun a ha hw => ?_) (quiet_stream (o := 4) rfl (by decide) hs)).trans h.seq⟩
  obtain rfl := at_narrow ha
  exact not_followReg (o := 4) (by decide) hs hw

end Dev.Settles

theorem Dev.trgSettle_settles (d : Dev) {s : Nat} (hs : s < 64) : d.Settles s d.stc.nextRow.isSome (d.trgSettle s) := by
  unfold Dev.trgSettle
  extract_lets st rest e r
  have hset : d.Settles s d.stc.nextRow.isSome e := ⟨(Dev.Still.refl _ d).setTrgs s _, rfl, rfl, rfl⟩
  have hstc : r.1.stc = d.stc := e.drained_stc _ _
  have hrow : (if r.2 then r.1.trgStart s else r.1).stc = d.stc := by
    split <;> exact hstc
  exact hset.ite (((hset.drained.setTrgs _).ite hset.drained).trigFollow hs (congrArg (·.nextRow.isSome) hrow))

/-! ### Registers of a stopped stream -/

/-- What a stop of a stream writes. -/
def StopReg (s : Nat) (runs : Bool) (a : Nat) : Prop :=
  a = R.TRGs_CFG s ∨ a = R.TRGs_SKIP_CNT s ∨ SettleReg s runs a

theorem stopReg_frame {d e : Dev} {s : Nat} (h : d.Touches (StopReg s d.stc.nextRow.isSome) e) {a : Nat}
    (hf : ∀ f ∈ [F.TRGs_CFG_EN s, F.TRGs_STAT_IDLE s, F.TRGs_SKIP_CNT s], ¬ f.At a) (hq : evIcu a = false)
    (hstc : a / 0x10000 ≠ 0x4013 ∨ (d.stc.nextRow = none ∧ ∀ i : Fin 64, a ≠ R.STC_CAMs_STAT i)) : e.reg a = d.reg a := by
  simp only [List.forall_mem_cons, List.not_mem_nil, false_implies, implies_true, and_true] at hf
  obtain ⟨hcfg, hstat, hcnt⟩ := hf
  refine h.reg a ?_ hq
  rintro (ha | ha | ha | ⟨hwin, hrow⟩)
  · exact hcfg (.inl ha)
  · exact hcnt (.inl ha)
  · exact hstat (.inl ha)
  · obtain hwin' | ⟨hnone, hcam⟩ := hstc
    · exact hwin' hwin
    · rw [hnone] at hrow
      obtain hrow | ⟨i, hi⟩ := hrow
      · cases hrow
      · exact hcam i hi

/-- SKIP_CNT stands while a stream settles. -/
theorem Dev.Touches.keeps_skipCnt {d e : Dev} {s : Nat} {runs : Bool} (h : d.Touches (SettleReg s runs) e) (hs : s < 64) :
    e.val (F.TRGs_SKIP_CNT s) = d.val (F.TRGs_SKIP_CNT s) :=
  h.keeps_val (fun a ha hw => by
    obtain rfl := at_narrow ha
    rcases hw with hw | hw
    · simp only [F.TRGs_SKIP_CNT, R.TRGs_SKIP_CNT, R.TRGs_STAT] at hw
      omega
    · exact not_followReg (o := 0x20) (by decide) hs hw) (quiet_stream (o := 0x20) rfl (by decide) hs)

theorem skipCnt_apart_cfg (s : Nat) : (F.TRGs_CFG_EN s).Apart (F.TRGs_SKIP_CNT s) ∧
    (F.TRGs_STAT_IDLE s).Apart (F.TRGs_SKIP_CNT s) := by
  simp only [Fld.Apart, F.TRGs_CFG_EN, F.TRGs_SKIP_CNT, F.TRGs_STAT_IDLE, R.TRGs_CFG, R.TRGs_SKIP_CNT, R.TRGs_STAT]
  omega

/-! ### TRIGGER_DISABLE -/

/-- A deferred trigger that has not been sent. -/
def Trig.held (x : Trig) : Bool := x.deferred && ! x.sent

section
variable {d : Dev} {s : Nat} (hs : s < 64)

/-- The block once EN of a stream is cleared and its deferred triggers not sent are discarded. -/
def Dev.heldLost (d : Dev) (s : Nat) : Dev :=
  ((d.trgs s).trigs.filter Trig.held).foldl (fun d x => d.loseTrig s x)
    ((d.stopIntake (F.TRGs_CFG_EN s)).setTrgs s { d.trgs s with trigs := (d.trgs s).trigs.filter (fun x => ! x.held) })

theorem Dev.trgDisable_eq (h : d.on (F.TRGs_CFG_EN s) = true) : d.trgDisable s = (d.heldLost s).trgSettle s := by
  unfold Dev.trgDisable
  exact if_neg (by simp [h])

include hs

theorem Dev.trgDisable_touches (h : d.on (F.TRGs_CFG_EN s) = true) :
    (d.stopIntake (F.TRGs_CFG_EN s)).Touches (fun a => a = R.TRGs_SKIP_CNT s ∨ SettleReg s d.stc.nextRow.isSome a)
      (d.trgDisable s) ∧
    (d.trgDisable s).val (F.TRGs_SKIP_CNT s) =
      min 0xFFFFFFFF (d.val (F.TRGs_SKIP_CNT s) + ((d.trgs s).trigs.filter Trig.held).length) := by
  obtain ⟨hlost, hcount, -, -, hrow, -⟩ := Dev.loseTrigs_loses s ((d.trgs s).trigs.filter Trig.held)
    ((d.stopIntake (F.TRGs_CFG_EN s)).setTrgs s { d.trgs s with trigs := (d.trgs s).trigs.filter (fun x => ! x.held) })
  have hsettle := ((d.heldLost s).trgSettle_settles hs).still.touches
  rw [show (d.heldLost s).stc.nextRow = d.stc.nextRow from hrow] at hsettle
  rw [Dev.trgDisable_eq h]
  refine ⟨?_, ?_⟩
  · exact (((Dev.Touches.refl _ _).setTrgs s _).trans (hlost.mono fun _ => .inl)).trans (hsettle.mono fun _ => .inr)
  · rw [hsettle.keeps_skipCnt hs]
    refine hcount.trans ?_
    rw [← Dev.val_stopIntake_apart d (skipCnt_apart_cfg s).1]
    rfl

end

section
variable {s : State} {q : Fin 64}

theorem triggerDisable_does (h : s.dev.on (F.TRGs_CFG_EN q) = true) :
    ∃ t, exec (.triggerDisable q) s = .next t ∧ t.dev.on (F.TRGs_CFG_EN q) = false ∧
      t.dev.val (F.TRGs_SKIP_CNT q) = min 0xFFFFFFFF (s.dev.val (F.TRGs_SKIP_CNT q) +
        ((s.dev.trgs q).trigs.filter (fun x => x.deferred && ! x.sent)).length) ∧
      (∀ a, (∀ f ∈ [F.TRGs_CFG_EN q, F.TRGs_STAT_IDLE q, F.TRGs_SKIP_CNT q], ¬ f.At a) → evIcu a = false →
        (a / 0x10000 ≠ 0x4013 ∨ (s.dev.stc.nextRow = none ∧ ∀ i : Fin 64, a ≠ R.STC_CAMs_STAT i)) →
        t.dev.reg a = s.dev.reg a) ∧ s.sameStores t := by
  obtain ⟨htouch, hcount⟩ := Dev.trgDisable_touches (d := s.quietened.dev) q.isLt h
  have hexec : exec (.triggerDisable q) s = .next { s with dev := s.quietened.dev.trgDisable q } :=
    (show exec (.triggerDisable q) s = execTriggerDisable q s from rfl).trans (onDev_next _ s)
  refine ⟨_, hexec, htouch.en_cleared (w := 0x400C) ⟨?_, ?_⟩, hcount, fun a => stopReg_frame (d := s.quietened.dev) ?_,
    s.sameStores_of_dev _⟩
  · simp only [F.TRGs_CFG_EN, R.TRGs_CFG]
    omega
  · rintro (hw | hw | hw)
    · simp only [F.TRGs_CFG_EN, R.TRGs_CFG, R.TRGs_SKIP_CNT] at hw
      omega
    · simp only [F.TRGs_CFG_EN, R.TRGs_CFG, R.TRGs_STAT] at hw
      omega
    · exact not_followReg (o := 0) (by decide) q.isLt hw
  · exact ((Dev.Touches.refl (StopReg q s.quietened.dev.stc.nextRow.isSome) s.quietened.dev).stopIntake
      (en := F.TRGs_CFG_EN q) (.inl rfl)).trans (htouch.mono fun _ => Or.inr)

end

/-! ### TRIGGER_ABORT -/

/-- Characters that leave a service channel change what the channels hold and what the block puts out, nothing else. -/
theorem Dev.svcStep_rest (d : Dev) (c : Nat) : d.svcStep c = { d with out := (d.svcStep c).out, slk := (d.svcStep c).slk } := by
  unfold Dev.svcStep
  dsimp only
  split
  · rfl
  · split
    · rfl
    · split <;> rfl

theorem Dev.svcRun_rest (c : Nat) (t : Int) : ∀ (n : Nat) (d : Dev),
    Dev.svcRun c t n d = { d with out := (Dev.svcRun c t n d).out, slk := (Dev.svcRun c t n d).slk }
  | 0, _ => rfl
  | n + 1, d => by
    unfold Dev.svcRun
    split
    · rfl
    · split
      · unfold Dev.svcIdle
        dsimp only
        split <;> rfl
      · rw [Dev.svcRun_rest c t n, d.svcStep_rest c]

theorem Dev.svcNow_rest (d : Dev) (c : Nat) : d.svcNow c = { d with out := (d.svcNow c).out, slk := (d.svcNow c).slk } :=
  Dev.svcRun_rest c _ _ d

section
variable (d : Dev) (s : Nat)

theorem Dev.cutSymbol_rest : d.cutSymbol s = { d with out := (d.cutSymbol s).out, slk := (d.cutSymbol s).slk } := by
  unfold Dev.cutSymbol
  rw [d.svcNow_rest]
  rfl

/-- What is left of the stream's symbol in progress is cut. -/
theorem Dev.cutSymbol_sym : ∀ e ∈ ((d.cutSymbol s).svch (s / 4)).sym, e.1 ≠ s := by
  unfold Dev.cutSymbol
  dsimp only
  rw [Dev.svch_setSvch]
  intro e he
  simpa using (List.mem_filter.1 he).2

/-- The stamps that triggers dropped at an ABORT have are marked USED (R51). -/
def usedStamps (lost : List Trig) (stamps : Tab Stamp) : Tab Stamp :=
  lost.foldl (fun tab x =>
    if x.stamped then tabSet {} tab (x.k % 256).toNat { (tabGet {} tab (x.k % 256).toNat : Stamp) with used := true }
    else tab) stamps

/-- The triggers of a stream that are not sent in full. -/
def Dev.unfinished (d : Dev) (s : Nat) : List Trig := (d.trgs s).trigs.filter (fun x => ! x.full d.now)

/-- The block once the symbol of a stream is cut and its triggers not sent in full are dropped. -/
def Dev.unfinishedLost (d : Dev) (s : Nat) : Dev :=
  (d.unfinished s).foldl (fun d x => d.loseTrig s x)
    (d.setTrgs s { d.trgs s with trigs := [], stamps := usedStamps (d.unfinished s) (d.trgs s).stamps })

theorem Dev.unfinishedLost_loses : (d.setTrgs s
      { d.trgs s with trigs := [], stamps := usedStamps (d.unfinished s) (d.trgs s).stamps }).Loses s
    (d.unfinished s).length (d.unfinishedLost s) := Dev.loseTrigs_loses s _ _

/-- The cut leaves the triggers, the clock and the registers. -/
theorem Dev.cutSymbol_keeps : (d.cutSymbol s).unfinished s = d.unfinished s ∧ (d.cutSymbol s).regs = d.regs ∧
    (d.cutSymbol s).restart = d.restart ∧ (d.cutSymbol s).dma = d.dma ∧ (d.cutSymbol s).stc = d.stc := by
  refine ⟨?_, ?_, ?_, ?_, ?_⟩ <;> rw [d.cutSymbol_rest]
  rfl

/-- An ABORT, the streams that follow aside. -/
theorem Dev.trgAbort_follows : (((d.cutSymbol s).unfinishedLost s).abortBits (F.TRGs_CFG_EN s) (F.TRGs_STAT_IDLE s)).Follows
    (FollowReg d.stc.nextRow.isSome) (d.trgAbort s) := by
  obtain ⟨-, -, -, -, hrow, -⟩ := (d.cutSymbol s).unfinishedLost_loses s
  obtain ⟨-, -, -, -, hstc⟩ := d.cutSymbol_keeps s
  have h := (((d.cutSymbol s).unfinishedLost s).abortBits (F.TRGs_CFG_EN s) (F.TRGs_STAT_IDLE s)).trigFollow_follows
  rw [Dev.abortBits_stc, hrow] at h
  rw [← hstc]
  exact h

theorem stream_registers {s : Nat} (hs : s < 64) : (F.TRGs_STAT_IDLE s).addr ≠ (F.TRGs_CFG_EN s).addr ∧
    evIcu (F.TRGs_CFG_EN s).addr = false ∧ evIcu (F.TRGs_STAT_IDLE s).addr = false := by
  refine ⟨?_, (quiet_stream (f := F.TRGs_CFG_EN s) (o := 0) rfl (by decide) hs).1,
    (quiet_stream (f := F.TRGs_STAT_IDLE s) (o := 4) rfl (by decide) hs).1⟩
  simp only [F.TRGs_STAT_IDLE, F.TRGs_CFG_EN, R.TRGs_STAT, R.TRGs_CFG]
  omega

theorem Dev.trgAbort_stopped {s : Nat} (hs : s < 64) :
    (d.trgAbort s).stopped (F.TRGs_CFG_EN s) (F.TRGs_STAT_IDLE s) := by
  obtain ⟨hne, hq1, hq2⟩ := stream_registers hs
  exact (Dev.stopped_abortBits _ hne).after (d.trgAbort_follows s).touches (not_followReg (o := 0) (by decide) hs)
    (not_followReg (o := 4) (by decide) hs) hq1 hq2

theorem Dev.trgAbort_touches : d.Touches (StopReg s d.stc.nextRow.isSome) (d.trgAbort s) := by
  obtain ⟨hlost, -, -, -, -, -⟩ := (d.cutSymbol s).unfinishedLost_loses s
  obtain ⟨-, hregs, hrestart, hdma, -⟩ := d.cutSymbol_keeps s
  have hcut : d.Touches (StopReg s d.stc.nextRow.isSome) (d.cutSymbol s) := .of_regs hregs hrestart hdma
  have hdropped : d.Touches (StopReg s d.stc.nextRow.isSome) ((d.cutSymbol s).unfinishedLost s) :=
    (hcut.setTrgs s _).trans (hlost.mono fun _ => .inr ∘ .inl)
  have hstop := (hdropped.stopIntake (en := F.TRGs_CFG_EN s) (.inl rfl)).mark (f := F.TRGs_STAT_IDLE s)
    (.inr (.inr (.inl rfl))) true
  exact hstop.trans ((d.trgAbort_follows s).touches.mono fun _ => .inr ∘ .inr ∘ .inr)

/-- An ABORT drops the triggers that are not sent in full, each counted, and no other is left (R51). -/
theorem Dev.trgAbort_drops {s : Nat} (hs : s < 64) : ((d.trgAbort s).trgs s).trigs = [] ∧
    (d.trgAbort s).val (F.TRGs_SKIP_CNT s) = min 0xFFFFFFFF (d.val (F.TRGs_SKIP_CNT s) + (d.unfinished s).length) ∧
    ∀ e ∈ ((d.trgAbort s).svch (s / 4)).sym, e.1 ≠ s := by
  obtain ⟨-, hcount, hstreams, hslk, -, -⟩ := (d.cutSymbol s).unfinishedLost_loses s
  obtain ⟨hsame, hregs, -, -, -⟩ := d.cutSymbol_keeps s
  have hfollow := d.trgAbort_follows s
  refine ⟨?_, ?_, ?_⟩
  · rw [Dev.trgs_of_streams (e := d.trgAbort s) (congrArg TrgSt.stream (hfollow.keeps_trg.trans (Dev.abortBits_trg _ _ _))),
      Dev.trgs_of_streams hstreams, Dev.trgs_setTrgs]
  · rw [(hfollow.touches.mono fun _ => Or.inr).keeps_skipCnt hs, Dev.abortBits, Dev.val_mark_apart _ (skipCnt_apart_cfg s).2,
      Dev.val_stopIntake_apart _ (skipCnt_apart_cfg s).1, hcount, hsame]
    exact congrArg (fun v => min 0xFFFFFFFF (v + (d.unfinished s).length)) (Dev.val_of_regs hregs _)
  · have hsym : (d.trgAbort s).slk = (d.cutSymbol s).slk := (hfollow.keeps_slk.trans (Dev.abortBits_slk _ _ _)).trans hslk
    unfold Dev.svch
    rw [hsym]
    exact d.cutSymbol_sym s

end

theorem triggerAbort_does (s : State) (q : Fin 64) :
    ∃ t, exec (.triggerAbort q) s = .next t ∧ t.dev.on (F.TRGs_CFG_EN q) = false ∧
      t.dev.on (F.TRGs_STAT_IDLE q) = true ∧ (t.dev.trgs q).trigs = [] ∧
      t.dev.val (F.TRGs_SKIP_CNT q) = min 0xFFFFFFFF (s.dev.val (F.TRGs_SKIP_CNT q) +
        ((s.dev.trgs q).trigs.filter (fun x => ! x.full s.dev.now)).length) ∧
      (∀ e ∈ (t.dev.svch (q / 4)).sym, e.1 ≠ q.val) ∧
      (∀ a, (∀ f ∈ [F.TRGs_CFG_EN q, F.TRGs_STAT_IDLE q, F.TRGs_SKIP_CNT q], ¬ f.At a) → evIcu a = false →
        (a / 0x10000 ≠ 0x4013 ∨ (s.dev.stc.nextRow = none ∧ ∀ i : Fin 64, a ≠ R.STC_CAMs_STAT i)) →
        t.dev.reg a = s.dev.reg a) ∧ s.sameStores t := by
  have hexec : exec (.triggerAbort q) s = .next { s with dev := s.quietened.dev.trgAbort q } :=
    (show exec (.triggerAbort q) s = execTriggerAbort q s from rfl).trans (onDev_next _ s)
  obtain ⟨hen, hidle, -⟩ := s.quietened.dev.trgAbort_stopped q.isLt
  obtain ⟨hnone, hcount, hsym⟩ := s.quietened.dev.trgAbort_drops q.isLt
  exact ⟨_, hexec, hen, hidle, hnone, hcount, hsym,
    fun a => stopReg_frame (d := s.quietened.dev) (s.quietened.dev.trgAbort_touches q), s.sameStores_of_dev _⟩

/-- Settles O22: a stop counts the triggers that it loses one by one, and what follows it writes no register of the
stream but STAT. -/
theorem triggerDisableAndAbort : Obligations.TriggerDisableAndAbort := fun s q =>
  ⟨triggerDisable_does, triggerAbort_does s q⟩

end Sys2Proof.Machine
end

/-! PROOFS. TRIGGER_SYMBOL (R52). -/
section
-- One lemma at a time: elaborated side by side they take more threads than the check's memory limit leaves room for.
set_option Elab.async false
namespace Sys2Proof.Machine

/-! ### TRIGGER_SYMBOL (R52) -/

/-- The streams of a service channel are its four. -/
theorem Dev.nextSymbol_lt {d : Dev} {c q : Nat} {x : Trig} (h : d.nextSymbol c = some (q, x)) : q < 4 * c + 4 := by
  refine List.foldlRecOn (motive := fun best => ∀ y, best = some y → y.1 < 4 * c + 4) _ _ (by simp) ?_ _ h
  intro best hbest s hs y hy
  have hs : s < 4 * c + 4 := by
    simp only [List.mem_cons, List.not_mem_nil, or_false] at hs
    omega
  split at hy
  · exact hbest y hy
  · split at hy
    · split at hy
      · cases hy
        exact hs
      · exact hbest y hy
    · cases hy
      exact hs

/-- Data characters that leave are put out in their order. -/
theorem Dev.sendChars_eq (c : Nat) : ∀ (l : List (Nat × Int × Byte)) (d : Dev),
    l.foldl (fun d e => d.sendChar c e.2.1 (false, e.2.2)) d =
      { d with out := d.out ++ l.map fun e => .svc c (d.instantOf e.2.1) [(false, e.2.2)] }
  | [], d => by rw [List.map_nil, List.append_nil]; rfl
  | e :: l, d => by
    rw [List.foldl_cons, Dev.sendChars_eq c l, List.map_cons, List.append_cons]
    rfl

section
variable (d : Dev) (c s : Nat) (b : Int) (x y : Byte)

/-- The symbol changes what the channel holds and what the block puts out, nothing else. -/
theorem Dev.startSymbol_rest : d.startSymbol c s b x y =
    { d with out := (d.startSymbol c s b x y).out, slk := (d.startSymbol c s b x y).slk } := by
  unfold Dev.startSymbol
  simp only [Dev.sendChars_eq]
  rw [d.svcNow_rest]
  rfl

theorem Dev.startSymbol_still (W : Nat → Prop) : d.Still W (d.startSymbol c s b x y) := by
  rw [Dev.startSymbol_rest]
  exact ⟨.of_regs rfl rfl rfl, rfl, rfl, rfl⟩

/-- K28.1 leaves at the boundary. -/
theorem Dev.startSymbol_comma : Out.svc c (d.instantOf b) [(true, 0x3C)] ∈ (d.startSymbol c s b x y).out := by
  unfold Dev.startSymbol
  simp only [Dev.sendChars_eq]
  rw [d.svcNow_rest]
  exact List.mem_append_left _ (List.mem_append_right _ List.mem_cons_self)

/-- Each of the two data characters is held for its boundary, or its boundary has come and it has left. -/
theorem Dev.startSymbol_data : ∀ z ∈ [(s, b + 40, x), (s, b + 80, y)],
    z ∈ ((d.startSymbol c s b x y).svch c).sym ∨
      Out.svc c (d.instantOf z.2.1) [(false, z.2.2)] ∈ (d.startSymbol c s b x y).out := by
  intro z hz
  unfold Dev.startSymbol
  extract_lets e ch due syms f
  have hinst : e.instantOf z.2.1 = d.instantOf z.2.1 := by
    simp only [e]
    rw [d.svcNow_rest]
    rfl
  cases hdue : due z with
  | false =>
    refine Or.inl ?_
    rw [Dev.svch_setSvch]
    exact List.mem_append_right _ (List.mem_filter.2 ⟨hz, by rw [hdue]; rfl⟩)
  | true =>
    refine Or.inr ?_
    show _ ∈ f.out
    simp only [f, Dev.sendChars_eq]
    rw [← hinst]
    exact List.mem_append_right _ (List.mem_map_of_mem (List.mem_filter.2 ⟨hz, hdue⟩))

end

/-- A boundary's instant is read from the clock and the device time. -/
theorem Dev.Still.instantOf {d e : Dev} {W : Nat → Prop} (h : d.Still W e) (hW : ∀ a, F.MER_TIME.At a → ¬ W a) (b : Int) :
    e.instantOf b = d.instantOf b := by
  unfold Dev.instantOf Dev.devTime
  rw [h.now, h.touches.keeps_vali hW ⟨rfl, fun _ => rfl⟩]

section
variable (d : Dev) (c s : Nat) (x : Trig)

/-- The block once the clock has come to a trigger's slot and its symbol starts. -/
def Dev.symbolStarted : Dev :=
  (d.reach x.slot).startSymbol c s x.bnd
    (BitVec.ofNat 8 (64 * (d.reach x.slot).val (F.TRGs_CFG_VC s) + x.res)) (BitVec.ofNat 8 (x.k % 256).toNat)

/-- The block once a trigger's symbol is shown in the status of its stream and counts as sent. -/
def Dev.symbolShown : Dev :=
  let e := (d.symbolStarted c s x).put (F.TRGs_STAT_SEQ s) (x.k % 256).toNat
  e.setTrgs s { e.trgs s with
    trigs := replaceFirst (fun y => ! y.sent && ! y.pin) (fun y => { y with sent := true }) (e.trgs s).trigs }

variable {d c s x}

theorem Dev.symbolShown_keeps : (d.symbolShown c s x).out = (d.symbolStarted c s x).out ∧
    (d.symbolShown c s x).slk = (d.symbolStarted c s x).slk :=
  ⟨Dev.put_out _ _ _, Dev.put_slk _ _ _⟩

theorem Dev.symbolShown_seq : (d.symbolShown c s x).val (F.TRGs_STAT_SEQ s) = (x.k % 256).toNat := by
  have hk : (x.k % 256).toNat < 2 ^ 8 := by omega
  have hput := (d.symbolStarted c s x).val_put_self (f := F.TRGs_STAT_SEQ s) (by simp [F.TRGs_STAT_SEQ]) (x.k % 256).toNat
  unfold Dev.symbolShown
  exact (Dev.val_of_regs rfl _).trans (hput.trans (Nat.mod_eq_of_lt hk))

/-- After the symbol of a trigger the clock shows the instants that it showed as the symbol started. -/
theorem Dev.symbolShown_still (runs : Bool) :
    (d.reach x.slot).Still (SettleReg s runs) (d.symbolShown c s x) :=
  ((Dev.startSymbol_still _ _ _ _ _ _ _).put (f := F.TRGs_STAT_SEQ s) (.inl rfl) _).setTrgs s _

end

theorem settleReg_not_time {s : Nat} {runs : Bool} : ∀ a, F.MER_TIME.At a → ¬ SettleReg s runs a := by
  simp only [Fld.At, SettleReg, FollowReg, F.MER_TIME, R.MER_TIME, R.TRGs_STAT]
  omega

theorem exec_triggerSymbol {s : State} {c : Fin 16} {q : Nat} {x : Trig} (h : s.dev.nextSymbol c = some (q, x)) :
    exec (.triggerSymbol c) s = .next { s with dev := (s.quietened.dev.symbolShown c q x).trgSettle q } := by
  have hnext : s.quietened.dev.nextSymbol c = some (q, x) := h
  show execTriggerSymbol c s = _
  unfold execTriggerSymbol
  rw [onDev_next]
  simp only [hnext]
  rfl

theorem triggerSymbol_does {s : State} {c : Fin 16} {q : Nat} {x : Trig} (h : s.dev.nextSymbol c = some (q, x)) :
    ∃ t, exec (.triggerSymbol c) s = .next t ∧ s.sameStores t ∧
      Out.svc c (t.dev.instantOf x.bnd) [(true, 0x3C)] ∈ t.dev.out ∧
      (∀ y ∈ [(x.bnd + 40, BitVec.ofNat 8 (64 * s.dev.val (F.TRGs_CFG_VC q) + x.res)),
          (x.bnd + 80, BitVec.ofNat 8 (x.k % 256).toNat)],
        (q, y) ∈ (t.dev.svch c).sym ∨ Out.svc c (t.dev.instantOf y.1) [(false, y.2)] ∈ t.dev.out) ∧
      t.dev.val (F.TRGs_STAT_SEQ q) = (x.k % 256).toNat := by
  have hq : q < 64 := by
    have := Dev.nextSymbol_lt h
    omega
  obtain ⟨hstill, hout, hslk, hseq⟩ := (s.quietened.dev.symbolShown c q x).trgSettle_settles hq
  obtain ⟨hout', hslk'⟩ := Dev.symbolShown_keeps (d := s.quietened.dev) (c := c) (s := q) (x := x)
  have hinst := ((Dev.symbolShown_still _).trans hstill).instantOf settleReg_not_time
  have hvc : (s.quietened.dev.reach x.slot).val (F.TRGs_CFG_VC q) = s.dev.val (F.TRGs_CFG_VC q) := by
    refine ((Dev.reach_touches _ _).keeps_val (fun a ha hw => ?_) (quiet_stream (o := 0) rfl (by decide) hq)).trans
      (s.quietened_val _)
    obtain rfl := at_narrow ha
    simp only [Fld.At, F.TRGs_CFG_VC, R.TRGs_CFG, F.MER_TIME, R.MER_TIME] at hw
    omega
  refine ⟨_, exec_triggerSymbol h, s.sameStores_of_dev _, ?_, ?_, hseq.trans Dev.symbolShown_seq⟩
  · rw [hout, hout', hinst]
    exact Dev.startSymbol_comma _ _ _ _ _ _
  · intro y hy
    unfold Dev.svch
    rw [hout, hout', hslk, hslk', hinst]
    refine Dev.startSymbol_data (s.quietened.dev.reach x.slot) c q x.bnd _ _ (q, y) ?_
    rw [hvc]
    exact List.mem_map_of_mem (f := Prod.mk q) hy

end Sys2Proof.Machine
end

/-! PROOFS. TriggersAreStampedAndSent (R49, R54). -/
section
-- One lemma at a time: elaborated side by side they take more threads than the check's memory limit leaves room for.
set_option Elab.async false
namespace Sys2Proof.Machine

/-! ### Stamps and pulses (R49, R54) -/

/-- The registers that the stamp and the pulse of a stream's trigger write: STAT of the stream, the lamp's flag and the
stream's gain (R69, R70). -/
def StampReg (s a : Nat) : Prop := a = R.TRGs_STAT s ∨ a / 0x10000 = 0x400D

theorem not_stampReg {s a : Nat} (h : a < 0x400C1000 ∨ 0x400E0000 ≤ a) (hs : s < 64) : ¬ StampReg s a := by
  simp only [StampReg, R.TRGs_STAT]
  omega

section
variable {s : Nat} {d e : Dev}

/-- A field of one word that lies in none of them reads as it read before. -/
theorem Dev.Still.reads (h : d.Still (StampReg s) e) {f : Fld} (ha : ¬ StampReg s f.addr) (hq : f.quiet)
    (hn : (f.lo + f.len).ble 32 = true := by rfl) : e.val f = d.val f :=
  h.touches.keeps_val (fun a hat => by rwa [at_narrow hat hn]) hq

/-- The settings of the stream stand. -/
theorem Dev.Still.reads_cfg (h : d.Still (StampReg s) e) (hs : s < 64) {f : Fld} (ha : f.addr = R.TRGs_CFG s)
    (hn : (f.lo + f.len).ble 32 = true := by rfl) : e.val f = d.val f := by
  refine h.reads ?_ (quiet_stream (o := 0) ha (by decide) hs) hn
  rw [ha]
  simp only [StampReg, R.TRGs_CFG, R.TRGs_STAT]
  omega

section
variable (h : d.Still (StampReg s) e) (hs : s < 64)
include h hs

theorem Dev.Still.devTime : e.devTime = d.devTime :=
  h.touches.keeps_vali (fun a hat => not_stampReg (by simp only [Fld.At, F.MER_TIME, R.MER_TIME] at hat; omega) hs)
    ⟨rfl, fun _ => rfl⟩

/-- The owner of a pin stands. -/
theorem Dev.Still.reads_owner {u : Nat} (hu : u < 256) :
    e.val (F.SYS_UTPu_CFG_OWNER u) = d.val (F.SYS_UTPu_CFG_OWNER u) := by
  have ha : (F.SYS_UTPu_CFG_OWNER u).addr = 0x40000400 + u * 4 := rfl
  exact h.reads (not_stampReg (by omega) hs) ⟨evIcu_of_window (w := 0x4000) (by omega) (by decide) (by decide),
    fun _ => evIcu_of_window (w := 0x4000) (by omega) (by decide) (by decide)⟩

/-- A field of the Log's own registers stands. -/
theorem Dev.Still.reads_log {f : Fld} (ha : f.addr = R.LOG_CTRL) (hn : (f.lo + f.len).ble 32 = true := by rfl) :
    e.val f = d.val f :=
  h.reads (not_stampReg (by rw [ha]; decide) hs) (quiet_log (by rw [ha]; rfl) (by rw [ha]; rfl)) hn

/-- A field of a channel stands. -/
theorem Dev.Still.reads_chan {f : Fld} {o n : Nat} (ha : f.addr = 0x400B1000 + o + n * 0x100) (ho : o < 0xFC) (hn : n < 32)
    (hlen : (f.lo + f.len).ble 32 = true := by rfl) : e.val f = d.val f :=
  h.reads (not_stampReg (by omega) hs) (quiet_chan ha ho hn) hlen

theorem Dev.Still.posSrc : e.posSrc = d.posSrc := by
  unfold Dev.posSrc
  rw [h.reads_log hs (f := F.LOG_CTRL_SRC) rfl]

theorem Dev.Still.frozen : e.on F.TRG_STAT_FROZEN = d.on F.TRG_STAT_FROZEN :=
  congrArg (· != 0) (h.reads (f := F.TRG_STAT_FROZEN) (not_stampReg (.inl (by decide)) hs) ⟨rfl, fun _ => rfl⟩)

theorem Dev.Still.pos : e.vali F.LOG_POS = d.vali F.LOG_POS :=
  h.touches.keeps_vali (fun a hat => not_stampReg (by simp only [Fld.At, F.LOG_POS, R.LOG_POS] at hat; omega) hs)
    (quiet_log rfl rfl)

section
variable {n : Nat} (hn : n < 32)
include hn

/-- The state of a channel stands. -/
theorem Dev.Still.chan_stat : e.on (F.LOGn_STAT_IDLE n) = d.on (F.LOGn_STAT_IDLE n) ∧
    e.on (F.LOGn_STAT_STANDSTILL n) = d.on (F.LOGn_STAT_STANDSTILL n) ∧
    e.on (F.LOGn_STAT_DIRECTION n) = d.on (F.LOGn_STAT_DIRECTION n) :=
  ⟨congrArg (· != 0) (h.reads_chan hs (f := F.LOGn_STAT_IDLE n) (o := 4) rfl (by decide) hn),
    congrArg (· != 0) (h.reads_chan hs (f := F.LOGn_STAT_STANDSTILL n) (o := 4) rfl (by decide) hn),
    congrArg (· != 0) (h.reads_chan hs (f := F.LOGn_STAT_DIRECTION n) (o := 4) rfl (by decide) hn)⟩

theorem Dev.Still.chanRaw (t : Nat) : e.chanRaw n t = d.chanRaw n t := by
  obtain ⟨hidle, hstand, hdir⟩ := h.chan_stat hs hn
  have hmode := h.reads_chan hs (f := F.LOGn_CFG_MODE n) (o := 0) rfl (by decide) hn
  have hinterp : e.on (F.LOGn_CFG_INTERP n) = d.on (F.LOGn_CFG_INTERP n) :=
    congrArg (· != 0) (h.reads_chan hs (f := F.LOGn_CFG_INTERP n) (o := 0) rfl (by decide) hn)
  unfold Dev.chanRaw Dev.fracAt Dev.chanDir Dev.logch
  rw [h.log, hidle, hstand, hdir, hmode, hinterp]

end

theorem Dev.Still.unitPosAt (t : Nat) : e.unitPosAt t = d.unitPosAt t := by
  have hsrc := h.reads_log hs (f := F.LOG_CTRL_SRC_CHAN) rfl
  have hn : d.val F.LOG_CTRL_SRC_CHAN < 32 := d.val_lt _
  unfold Dev.unitPosAt Dev.unitRaw
  dsimp only
  rw [h.posSrc hs, hsrc, (h.chan_stat hs hn).1, h.chanRaw hs hn, h.pos hs, h.frozen hs, h.recon]

theorem Dev.Still.speed : e.speed = d.speed := by
  have hsrc := h.reads_log hs (f := F.LOG_CTRL_SRC_CHAN) rfl
  have hn : d.val F.LOG_CTRL_SRC_CHAN < 32 := d.val_lt _
  obtain ⟨-, hstand, hdir⟩ := h.chan_stat hs hn
  unfold Dev.speed Dev.chanDir Dev.logch
  dsimp only
  rw [h.posSrc hs, hsrc, hstand, hdir, h.frozen hs, h.recon, h.log]

/-- The line position stands where only these registers are written. -/
theorem Dev.Still.linePos (off : Int) (t : Nat) : e.linePos off t = d.linePos off t := by
  unfold Dev.linePos
  rw [h.speed hs, h.unitPosAt hs]

end

end

/-! ### EFFECTIVE_INSTANT -/

/-- `e` is `d` after the stamp of a trigger of stream `s`, its pulse, or what tells the Reckoner of it. -/
structure Dev.Stamps (s : Nat) (d e : Dev) : Prop where
  still : d.Still (StampReg s) e
  idle : e.on (F.TRGs_STAT_IDLE s) = d.on (F.TRGs_STAT_IDLE s)

namespace Dev.Stamps

variable {s : Nat} {d e : Dev}

theorem refl (s : Nat) (d : Dev) : d.Stamps s d := ⟨.refl _ d, rfl⟩

theorem trans {f : Dev} (h : d.Stamps s e) (g : e.Stamps s f) : d.Stamps s f :=
  ⟨h.still.trans g.still, g.idle.trans h.idle⟩

theorem setTrgs (h : d.Stamps s e) (x : TrgStream) : d.Stamps s (e.setTrgs s x) := ⟨h.still.setTrgs s x, h.idle⟩

/-- Registers of the filters' window that are written leave IDLE. -/
theorem of_filter (h : d.Still (StampReg s) e) (ht : d.Touches (· / 0x10000 = 0x400D) e) (hs : s < 64) : d.Stamps s e :=
  ⟨h, ht.keeps_on (f := F.TRGs_STAT_IDLE s) (by simp only [F.TRGs_STAT_IDLE, R.TRGs_STAT]; omega)
    (quiet_stream (f := F.TRGs_STAT_IDLE s) (o := 4) rfl (by decide) hs).1⟩

/-- A stream that does not drain does not drain afterwards. -/
theorem not_drains (h : d.Stamps s e) (hs : s < 64) (hd : d.drains (F.TRGs_CFG_EN s) (F.TRGs_STAT_IDLE s) = false) :
    e.drains (F.TRGs_CFG_EN s) (F.TRGs_STAT_IDLE s) = false := by
  have hen : e.on (F.TRGs_CFG_EN s) = d.on (F.TRGs_CFG_EN s) :=
    congrArg (· != 0) (h.still.reads_cfg hs (f := F.TRGs_CFG_EN s) rfl)
  have hrestart := h.still.touches.restart (F.TRGs_CFG_EN s).addr
  simp only [Dev.drains, Bool.and_eq_false_iff, Bool.not_eq_false', Bool.or_eq_false_iff, List.contains_eq_mem,
    decide_eq_false_iff_not] at hd ⊢
  rw [h.idle, hen]
  exact hd.imp_right fun ⟨hon, hmem⟩ => ⟨hon, fun hx => hmem (hrestart hx)⟩

end Dev.Stamps

section
variable (d : Dev) {s : Nat} (hs : s < 64)

theorem Dev.illStep_out : (d.illStep s).1.out = d.out := by
  unfold Dev.illStep
  split
  · rfl
  · dsimp only
    split
    · exact Dev.raiseIf_out _ _ _
    · exact Dev.put_out _ _ _

include hs

theorem Dev.illStep_still : d.Still (· / 0x10000 = 0x400D) (d.illStep s).1 := by
  have h := Dev.Still.refl (· / 0x10000 = 0x400D) d
  have hlamp : d.val (F.ILLs_CFG_LM s) < 16 := d.val_lt _
  unfold Dev.illStep
  split
  · exact h
  · dsimp only
    split
    · exact (h.raiseIf (f := F.FLTc_FLAG_LAMP_LOW _) (by simp only [F.FLTc_FLAG_LAMP_LOW, R.FLTc_FLAG]; omega) _).setTrgs s _
    · exact (h.put (f := F.ILLs_GAIN s) (by simp only [F.ILLs_GAIN, R.ILLs_GAIN]; omega) _).setTrgs s _

theorem Dev.illStep_stamps : d.Stamps s (d.illStep s).1 :=
  .of_filter ((d.illStep_still hs).mono fun _ => Or.inr) (d.illStep_still hs).touches hs

theorem Dev.writeStamp_stamps (x : Trig) : d.Stamps s (d.writeStamp s x) := (d.illStep_stamps hs).setTrgs _

omit hs in
theorem Dev.writeStamp_out (x : Trig) : (d.writeStamp s x).out = d.out := d.illStep_out

omit hs in
theorem Dev.pinPulse_stamps (x : Trig) : d.Stamps s (d.pinPulse s x) := by
  have hput : d.Stamps s (d.put (F.TRGs_STAT_SEQ s) (x.k % 256).toNat) :=
    ⟨(Dev.Still.refl _ d).put (f := F.TRGs_STAT_SEQ s) (.inl rfl) _,
      congrArg (· != 0) (d.val_put_apart (by simp [Fld.Apart, F.TRGs_STAT_IDLE, F.TRGs_STAT_SEQ]) _)⟩
  unfold Dev.pinPulse
  dsimp only
  split
  · exact ⟨hput.still.emit _, hput.idle⟩
  · exact hput

/-- A pulse starts on the pin that belongs to TRG. -/
theorem Dev.pinPulse_out (x : Trig) (h : d.val (F.SYS_UTPu_CFG_OWNER (d.val (F.TRGs_CFG_UTP s))) = 1) :
    (d.pinPulse s x).out = d.out ++ [.utp (d.val (F.TRGs_CFG_UTP s)) x.eff (max 8 (d.val (F.TRGs_CFG_PULSE s)))
      (! d.on (F.TRGs_CFG_POL s))] := by
  have hput := (Dev.Still.refl (StampReg s) d).put (f := F.TRGs_STAT_SEQ s) (.inl rfl) (x.k % 256).toNat
  have howner := hput.reads_owner hs (d.val_lt (F.TRGs_CFG_UTP s))
  have hpulse := hput.reads_cfg hs (f := F.TRGs_CFG_PULSE s) rfl
  have hpol : Dev.on _ (F.TRGs_CFG_POL s) = d.on (F.TRGs_CFG_POL s) :=
    congrArg (· != 0) (hput.reads_cfg hs (f := F.TRGs_CFG_POL s) rfl)
  unfold Dev.pinPulse
  dsimp only
  rw [if_pos (howner.trans h), hpulse, hpol]
  show Dev.out (Dev.put _ _ _) ++ _ = _
  rw [Dev.put_out]

end

/-- The stamp of a trigger at the instant that the clock shows. -/
theorem Dev.writeStamp_entry (d : Dev) {s : Nat} (hs : s < 64) (x : Trig) (hnow : d.now = x.eff) :
    let e : Stamp := tabGet {} ((d.writeStamp s x).trgs s).stamps (x.k % 256).toNat
    e.written = true ∧ e.used = false ∧ e.k = x.k ∧ e.time = d.devTime ∧ e.pos = d.linePos x.off x.eff := by
  have hill := (d.illStep_stamps hs).still
  have htime : (d.illStep s).1.devTimeAt x.eff = d.devTime := by
    unfold Dev.devTimeAt
    rw [hill.now, hnow, if_pos (Nat.le_refl _), Nat.sub_self, hill.devTime hs]
    exact Int.sub_zero _
  unfold Dev.writeStamp
  simp only [Dev.trgs_setTrgs, tabGet_set_self, htime, hill.linePos hs, and_self]

/-- The block once the clock has come to the effective instant of a trigger, with its stamp and its pulse. -/
def Dev.stamped (d : Dev) (s : Nat) (x : Trig) : Dev :=
  let e := (d.reach x.eff).writeStamp s x
  if x.pin then e.pinPulse s x else e

/-- The stream once its next trigger counts as stamped. -/
def TrgStream.nextStamped (st : TrgStream) : TrgStream :=
  { st with trigs := replaceFirst (fun y => ! y.stamped) (fun y => { y with stamped := true, sent := y.sent || y.pin }) st.trigs }

/-- The block once the stream's next trigger counts as stamped, and the Reckoner knows of a crossing that no context
took. -/
def Dev.stampShown (d : Dev) (s : Nat) (x : Trig) : Dev := (d.setTrgs s (d.trgs s).nextStamped).noTaker s x

theorem Dev.stampShown_rest (d : Dev) (s : Nat) (x : Trig) : d.Stamps s (d.stampShown s x) ∧
    (d.stampShown s x).out = d.out ∧ (d.stampShown s x).trgs s = (d.trgs s).nextStamped := by
  unfold Dev.stampShown Dev.noTaker
  split
  · exact ⟨(Dev.Stamps.refl s d).setTrgs _, rfl, Dev.trgs_setTrgs _ _ _⟩
  · exact ⟨⟨⟨.of_regs rfl rfl rfl, rfl, rfl, rfl⟩, rfl⟩, rfl, Dev.trgs_setTrgs _ _ _⟩

/-- Where a stream does not drain, triggers that are delivered leave its list, and that is all. -/
theorem Dev.trgSettle_of_not_drains {d : Dev} {s : Nat} (h : d.drains (F.TRGs_CFG_EN s) (F.TRGs_STAT_IDLE s) = false) :
    d.Stamps s (d.trgSettle s) ∧ (d.trgSettle s).out = d.out ∧ ((d.trgSettle s).trgs s).stamps = (d.trgs s).stamps := by
  have heq : d.trgSettle s =
      d.setTrgs s { d.trgs s with trigs := (d.trgs s).trigs.filter (fun x => ! x.delivered d.now) } := by
    unfold Dev.trgSettle
    exact if_pos (Or.inl fun hd => Bool.false_ne_true (h.symm.trans hd))
  rw [heq, Dev.trgs_setTrgs]
  exact ⟨(Dev.Stamps.refl s d).setTrgs _, rfl, rfl⟩

section
variable (d : Dev) {s : Nat} (x : Trig) (hs : s < 64)
include hs

theorem Dev.stamped_stamps : (d.reach x.eff).Stamps s (d.stamped s x) := by
  have h := (d.reach x.eff).writeStamp_stamps hs x
  unfold Dev.stamped
  dsimp only
  split
  · exact h.trans (Dev.pinPulse_stamps _ x)
  · exact h

omit hs in
/-- The clock that moves on leaves the registers of a stream and of the pins. -/
theorem Dev.reach_reads (t : Nat) {f : Fld} (ha : f.addr < 0x400D0000) (hq : f.quiet)
    (hn : (f.lo + f.len).ble 32 = true := by rfl) : (d.reach t).val f = d.val f :=
  (d.reach_touches t).keeps_val (fun a hat => by
    obtain rfl := at_narrow hat hn
    simp only [Fld.At, F.MER_TIME, R.MER_TIME]
    omega) hq

/-- The settings of a stream and whether it drains stand while the clock moves on. -/
theorem Dev.reach_cfg (t : Nat) {f : Fld} (ha : f.addr = R.TRGs_CFG s) (hn : (f.lo + f.len).ble 32 = true := by rfl) :
    (d.reach t).val f = d.val f :=
  d.reach_reads t (by rw [ha, R.TRGs_CFG]; omega) (quiet_stream (o := 0) ha (by decide) hs) hn

theorem Dev.reach_drains (t : Nat) : (d.reach t).drains (F.TRGs_CFG_EN s) (F.TRGs_STAT_IDLE s) =
    d.drains (F.TRGs_CFG_EN s) (F.TRGs_STAT_IDLE s) := by
  unfold Dev.drains Dev.on
  rw [d.reach_cfg hs t (f := F.TRGs_CFG_EN s) rfl, Dev.reach_restart,
    d.reach_reads t (f := F.TRGs_STAT_IDLE s) (by simp only [F.TRGs_STAT_IDLE, R.TRGs_STAT]; omega)
      (quiet_stream (o := 4) rfl (by decide) hs)]

/-- With the trigger on the pin path and the pin TRG's, the pulse starts there. -/
theorem Dev.stamped_out (hpin : x.pin = true) (h : d.val (F.SYS_UTPu_CFG_OWNER (d.val (F.TRGs_CFG_UTP s))) = 1) :
    (d.stamped s x).out = d.out ++ [.utp (d.val (F.TRGs_CFG_UTP s)) x.eff (max 8 (d.val (F.TRGs_CFG_PULSE s)))
      (! d.on (F.TRGs_CFG_POL s))] := by
  have hstill := ((d.reach x.eff).writeStamp_stamps hs x).still
  have hreads : ∀ {f : Fld}, f.addr = R.TRGs_CFG s → (f.lo + f.len).ble 32 = true →
      ((d.reach x.eff).writeStamp s x).val f = d.val f := fun ha hn =>
    (hstill.reads_cfg hs ha hn).trans (d.reach_cfg hs x.eff ha hn)
  have hutp := hreads (f := F.TRGs_CFG_UTP s) rfl rfl
  have hpol : Dev.on _ (F.TRGs_CFG_POL s) = d.on (F.TRGs_CFG_POL s) :=
    congrArg (· != 0) (hreads (f := F.TRGs_CFG_POL s) rfl rfl)
  have hu : d.val (F.TRGs_CFG_UTP s) < 256 := d.val_lt _
  have howner : (d.reach x.eff).val (F.SYS_UTPu_CFG_OWNER (d.val (F.TRGs_CFG_UTP s))) = 1 := by
    have ha : (F.SYS_UTPu_CFG_OWNER (d.val (F.TRGs_CFG_UTP s))).addr = 0x40000400 + d.val (F.TRGs_CFG_UTP s) * 4 := rfl
    exact (d.reach_reads x.eff (by omega) ⟨evIcu_of_window (w := 0x4000) (by omega) (by decide) (by decide),
      fun _ => evIcu_of_window (w := 0x4000) (by omega) (by decide) (by decide)⟩).trans h
  unfold Dev.stamped
  dsimp only
  rw [if_pos hpin, Dev.pinPulse_out _ hs x (by rw [hutp, hstill.reads_owner hs hu, howner]), Dev.writeStamp_out,
    Dev.reach_out, hutp, hpol, hreads (f := F.TRGs_CFG_PULSE s) rfl rfl]

omit hs in
/-- A pulse leaves the stamps. -/
theorem Dev.stamped_stampTable : ((d.stamped s x).trgs s).stamps = (((d.reach x.eff).writeStamp s x).trgs s).stamps := by
  refine congrArg TrgStream.stamps (Dev.trgs_of_streams (congrArg TrgSt.stream ?_) s)
  unfold Dev.stamped Dev.pinPulse
  dsimp only
  split
  · split
    · rw [Dev.emit_trg, Dev.put_trg]
    · rw [Dev.put_trg]
  · rfl

end

section
variable {s : State} {q : Fin 64} {x : Trig} (h : (s.dev.trgs q).trigs.find? (fun y => ! y.stamped) = some x)
include h

theorem exec_effectiveInstant : exec (.effectiveInstant q) s = .next { s with
    dev := ((s.quietened.dev.stamped q x).stampShown q x).trgSettle q } := by
  have hnext : (s.quietened.dev.trgs q).trigs.find? (fun y => ! y.stamped) = some x := h
  show execEffectiveInstant q s = _
  unfold execEffectiveInstant
  rw [onDev_next]
  simp only [hnext]
  rfl

theorem effectiveInstant_does (hnow : s.dev.now ≤ x.eff)
    (hdrain : s.dev.drains (F.TRGs_CFG_EN q) (F.TRGs_STAT_IDLE q) = false) :
    ∃ t, exec (.effectiveInstant q) s = .next t ∧ s.sameStores t ∧ t.dev.now = x.eff ∧
      (let e : Stamp := tabGet {} (t.dev.trgs q).stamps (x.k % 256).toNat
       e.written = true ∧ e.used = false ∧ e.k = x.k ∧ e.time = t.dev.devTime ∧ e.pos = t.dev.linePos x.off x.eff) ∧
      (x.pin = true → s.dev.val (F.SYS_UTPu_CFG_OWNER (s.dev.val (F.TRGs_CFG_UTP q))) = 1 →
        t.dev.out = [.utp (s.dev.val (F.TRGs_CFG_UTP q)) x.eff (max 8 (s.dev.val (F.TRGs_CFG_PULSE q)))
          (! s.dev.on (F.TRGs_CFG_POL q))]) := by
  obtain ⟨hshown, hout, htrgs⟩ := (s.quietened.dev.stamped q x).stampShown_rest q x
  have hstamps := (s.quietened.dev.stamped_stamps x q.isLt).trans hshown
  obtain ⟨hsettled, hout', htable'⟩ := Dev.trgSettle_of_not_drains
    (hstamps.not_drains q.isLt ((s.quietened.dev.reach_drains q.isLt x.eff).trans hdrain))
  have hend := (hstamps.trans hsettled).still
  have hclock : (s.quietened.dev.reach x.eff).now = x.eff := (Dev.reach_now _ _).trans (Nat.max_eq_right hnow)
  refine ⟨_, exec_effectiveInstant h, s.sameStores_of_dev _, hend.now.trans hclock, ?_, fun hpin howner => ?_⟩
  · have hentry := (s.quietened.dev.reach x.eff).writeStamp_entry q.isLt x hclock
    have htable := htable'.trans ((congrArg TrgStream.stamps htrgs).trans (Dev.stamped_stampTable _ x))
    rw [← hend.devTime q.isLt, ← hend.linePos q.isLt, ← htable] at hentry
    exact hentry
  · rw [hout', hout, s.quietened.dev.stamped_out x q.isLt hpin (by rw [s.quietened_val, s.quietened_val, howner]),
      s.quietened_val, s.quietened_val, s.quietened_on]
    rfl

end

/-- Settles O21: what follows the stamp and the pulse writes no register that the device time and the line position
are read from, and what follows the symbol sends nothing. -/
theorem triggersAreStampedAndSent : Obligations.TriggersAreStampedAndSent :=
  ⟨fun _ _ _ h hnow hdrain => effectiveInstant_does h hnow hdrain, fun _ _ _ _ h => triggerSymbol_does h⟩

end Sys2Proof.Machine
end

/-! PROOFS. StrobesPulse (R55 to R57). -/
section
-- One lemma at a time: elaborated side by side they take more threads than the check's memory limit leaves room for.
set_option Elab.async false
namespace Sys2Proof.Machine

/-! ### The ball of a strobe -/

/-- The registers that a pulse of strobe `t` writes. -/
def PulseOf (t a : Nat) : Prop := a = R.STBt_STAT t ∨ a = R.STBt_FIRE_CNT t ∨ a = R.STBt_OVL_CNT t

theorem quiet_strobe {f : Fld} {o t : Nat} (h : f.addr = 0x400C3000 + o + t * 0x20) (ho : o < 0x1C) (ht : t < 96) : f.quiet :=
  ⟨evIcu_of_window (w := 0x400C) (by omega) (by decide) (by decide),
    fun _ => evIcu_of_window (w := 0x400C) (by omega) (by decide) (by decide)⟩

section
variable (d : Dev) {t : Nat} (endAt : Nat) (endPos : Option Int)

/-- A start with no pulse on begins one: it is counted, and the ball is turned on now, inverted by POL. -/
theorem Dev.strobeOn_of_off (h : d.on (F.STBt_STAT_ON t) = false) :
    d.strobeOn t endAt endPos = (((d.setStb t { d.stb t with endAt := endAt, endPos := endPos }).inc
      (F.STBt_FIRE_CNT t)).mark (F.STBt_STAT_ON t) true).strobeBall t d.now true := by
  unfold Dev.strobeOn
  exact if_neg fun hon => Bool.false_ne_true (h.symm.trans hon)

/-- A start during a pulse moves its end and is counted as an overlap. -/
theorem Dev.strobeOn_of_on (h : d.on (F.STBt_STAT_ON t) = true) :
    d.strobeOn t endAt endPos =
      (d.setStb t { d.stb t with endAt := endAt, endPos := endPos }).inc (F.STBt_OVL_CNT t) := by
  unfold Dev.strobeOn
  exact if_pos h

theorem Dev.Touches.setStb {W : Nat → Prop} {d e : Dev} (h : d.Touches W e) (t : Nat) (z : Strobe) :
    d.Touches W (e.setStb t z) := h.trans (.of_regs rfl rfl rfl)

theorem Dev.strobeOn_touches : d.Touches (PulseOf t) (d.strobeOn t endAt endPos) := by
  have hset := (Dev.Touches.refl (PulseOf t) d).setStb t { d.stb t with endAt := endAt, endPos := endPos }
  cases h : d.on (F.STBt_STAT_ON t) with
  | true =>
    rw [d.strobeOn_of_on endAt endPos h]
    exact hset.inc (f := F.STBt_OVL_CNT t) (.inr (.inr rfl))
  | false =>
    rw [d.strobeOn_of_off endAt endPos h]
    exact ((hset.inc (f := F.STBt_FIRE_CNT t) (.inr (.inl rfl))).mark (f := F.STBt_STAT_ON t) (.inl rfl) true).emit _

theorem Dev.stb_of_trg {d e : Dev} (h : e.trg = d.trg) (t : Nat) : e.stb t = d.stb t := by
  unfold Dev.stb
  rw [h]

theorem pulseOf_named {a : Nat} (h : PulseOf t a) :
    ∃ f ∈ [F.STBt_STAT_ON t, F.STBt_FIRE_CNT t, F.STBt_OVL_CNT t], f.At a := by
  rcases h with h | h | h
  · exact ⟨F.STBt_STAT_ON t, by simp, .inl h⟩
  · exact ⟨F.STBt_FIRE_CNT t, by simp, .inl h⟩
  · exact ⟨F.STBt_OVL_CNT t, by simp, .inl h⟩

theorem Dev.strobeOn_stb : (d.strobeOn t endAt endPos).stb t = { d.stb t with endAt := endAt, endPos := endPos } := by
  have hset := d.stb_setStb t { d.stb t with endAt := endAt, endPos := endPos }
  cases h : d.on (F.STBt_STAT_ON t) with
  | true =>
    rw [d.strobeOn_of_on endAt endPos h]
    exact (Dev.stb_of_trg (Dev.inc_trg _ _) t).trans hset
  | false =>
    rw [d.strobeOn_of_off endAt endPos h, Dev.strobeBall]
    refine (Dev.stb_of_trg ?_ t).trans hset
    rw [Dev.emit_trg, Dev.mark_trg, Dev.inc_trg]

theorem not_pulseOf_cfg (t : Nat) : ¬ PulseOf t (R.STBt_CFG t) := by
  simp only [PulseOf, R.STBt_CFG, R.STBt_STAT, R.STBt_FIRE_CNT, R.STBt_OVL_CNT]
  omega

theorem strobe_counters_apart (t : Nat) : (F.STBt_OVL_CNT t).Apart (F.STBt_STAT_ON t) ∧
    (F.STBt_STAT_ON t).Apart (F.STBt_FIRE_CNT t) := by
  simp only [Fld.Apart, F.STBt_OVL_CNT, F.STBt_STAT_ON, F.STBt_FIRE_CNT, R.STBt_OVL_CNT, R.STBt_STAT, R.STBt_FIRE_CNT]
  omega

theorem Dev.strobeOn_on : (d.strobeOn t endAt endPos).on (F.STBt_STAT_ON t) = true := by
  cases h : d.on (F.STBt_STAT_ON t) with
  | true =>
    rw [d.strobeOn_of_on endAt endPos h, Dev.on, Dev.val_inc_apart _ (strobe_counters_apart t).1]
    exact h
  | false =>
    rw [d.strobeOn_of_off endAt endPos h, Dev.strobeBall, Dev.on_emit]
    exact Dev.on_mark_self _ rfl (by simp [F.STBt_STAT_ON]) true

theorem strobe_pending_apart (t : Nat) : (F.STBt_OVL_CNT t).Apart (F.STBt_STAT_PENDING t) ∧
    (F.STBt_STAT_ON t).Apart (F.STBt_STAT_PENDING t) ∧ (F.STBt_FIRE_CNT t).Apart (F.STBt_STAT_PENDING t) := by
  simp [Fld.Apart, F.STBt_OVL_CNT, F.STBt_STAT_ON, F.STBt_STAT_PENDING, F.STBt_FIRE_CNT, R.STBt_OVL_CNT, R.STBt_STAT,
    R.STBt_FIRE_CNT]

theorem Dev.strobeOn_pending : (d.strobeOn t endAt endPos).on (F.STBt_STAT_PENDING t) = d.on (F.STBt_STAT_PENDING t) := by
  obtain ⟨hovl, hon, hfire⟩ := strobe_pending_apart t
  unfold Dev.on
  cases h : d.on (F.STBt_STAT_ON t) with
  | true =>
    rw [d.strobeOn_of_on endAt endPos h, Dev.val_inc_apart _ hovl]
    rfl
  | false =>
    rw [d.strobeOn_of_off endAt endPos h, Dev.strobeBall, Dev.val_emit, Dev.val_mark_apart _ hon, Dev.val_inc_apart _ hfire]
    rfl

/-- What a start puts out and counts where no pulse is on. -/
theorem Dev.strobeOn_begins (ht : t < 96) (h : d.on (F.STBt_STAT_ON t) = false) :
    (d.strobeOn t endAt endPos).out = d.out ++ [.strobe t d.now (! d.on (F.STBt_CFG_POL t))] ∧
      (d.strobeOn t endAt endPos).val (F.STBt_FIRE_CNT t) = min 0xFFFFFFFF (d.val (F.STBt_FIRE_CNT t) + 1) := by
  have hset := (Dev.Touches.refl (PulseOf t) d).setStb t { d.stb t with endAt := endAt, endPos := endPos }
  have hpol := ((hset.inc (f := F.STBt_FIRE_CNT t) (.inr (.inl rfl))).mark (f := F.STBt_STAT_ON t) (.inl rfl) true).keeps_on
    (f := F.STBt_CFG_POL t) (not_pulseOf_cfg t) (quiet_strobe (f := F.STBt_CFG_POL t) (o := 0) rfl (by decide) ht).1
  rw [d.strobeOn_of_off endAt endPos h, Dev.strobeBall, hpol, Bool.true_bne]
  refine ⟨?_, ?_⟩
  · show Dev.out (Dev.mark _ _ _) ++ _ = _
    rw [Dev.mark_out, Dev.inc_out, Dev.setStb_out]
  · rw [Dev.val_emit, Dev.val_mark_apart _ (strobe_counters_apart t).2, Dev.val_inc_self _ rfl rfl]
    rfl

theorem Dev.strobeOn_overlaps (h : d.on (F.STBt_STAT_ON t) = true) :
    (d.strobeOn t endAt endPos).out = d.out ∧
      (d.strobeOn t endAt endPos).val (F.STBt_OVL_CNT t) = min 0xFFFFFFFF (d.val (F.STBt_OVL_CNT t) + 1) := by
  rw [d.strobeOn_of_on endAt endPos h]
  exact ⟨Dev.inc_out _ _, Dev.val_inc_self _ rfl rfl⟩

end

/-! ### STROBE_START -/

section
variable {s : State} {b : Fin 96}

/-- The block as a start in time mode at instant `a` finds it. -/
def Dev.startDue (d : Dev) (t a : Nat) (rest : List Nat) : Dev := (d.reach a).setStb t { d.stb t with starts := rest }

/-- A start in tick mode at position `p`: the pulse ends at WIDTH ticks from there, or after MAXW (R56). -/
def Dev.tickOn (d : Dev) (t : Nat) (p : Int) : Dev :=
  d.strobeOn t (d.now + if d.val (F.STBt_MAXW t) = 0 then 4 else d.val (F.STBt_MAXW t)) (some (p + d.val (F.STBt_WIDTH t)))

theorem exec_strobeStart_time {a : Nat} {rest : List Nat} (h : (s.dev.stb b).starts = a :: rest) :
    exec (.strobeStart b) s = .next { s with
      dev := (s.quietened.dev.startDue b a rest).strobeOn b
        (a + min 1048575 (max 4 ((s.quietened.dev.startDue b a rest).val (F.STBt_WIDTH b)))) none } := by
  have hz : (s.quietened.dev.stb b).starts = a :: rest := h
  show execStrobeStart b s = _
  unfold execStrobeStart
  rw [onDev_next]
  simp only [hz]
  rfl

/-- With no start waiting in time mode the one that waits in tick mode is the last: after it none waits. -/
theorem exec_strobeStart_tick {p : Int} (h : (s.dev.stb b).starts = []) (htick : (s.dev.stb b).tickStart = some p)
    (hp : p ≤ s.dev.vali F.LOG_HWM) :
    exec (.strobeStart b) s = .next { s with
      dev := (s.quietened.dev.strobeDiscard b).tickOn b p } := by
  have hz : (s.quietened.dev.stb b).starts = [] := h
  have hz' : (s.quietened.dev.stb b).tickStart = some p := htick
  have hreached : ¬ s.quietened.dev.vali F.LOG_HWM < p := by
    rw [s.quietened_vali]
    exact Int.not_lt.2 hp
  show execStrobeStart b s = _
  unfold execStrobeStart
  rw [onDev_next]
  simp only [hz, hz', if_neg hreached]
  rfl

theorem Dev.startDue_touches (d : Dev) (t a : Nat) (rest : List Nat) : d.Touches F.MER_TIME.At (d.startDue t a rest) :=
  (d.reach_touches a).setStb t _

theorem Dev.startDue_val (d : Dev) (a : Nat) (rest : List Nat) {f : Fld} {o t : Nat} (h : f.addr = 0x400C3000 + o + t * 0x20)
    (ho : o < 0x1C) (ht : t < 96) (hn : (f.lo + f.len).ble 32 = true := by rfl) : (d.startDue t a rest).val f = d.val f :=
  (d.startDue_touches t a rest).keeps_val (fun x hx hw => by
    obtain rfl := at_narrow hx hn
    simp only [h, Fld.At, F.MER_TIME, R.MER_TIME] at hw
    omega) (quiet_strobe h ho ht)

/-- A start in time mode (R55, R57). -/
theorem strobeStart_time {a : Nat} {rest : List Nat} (h : (s.dev.stb b).starts = a :: rest) (ha : s.dev.now ≤ a) :
    ∃ t, exec (.strobeStart b) s = .next t ∧ s.sameStores t ∧ t.dev.on (F.STBt_STAT_ON b) = true ∧
      (t.dev.stb b).endAt = a + min 1048575 (max 4 (s.dev.val (F.STBt_WIDTH b))) ∧ (t.dev.stb b).starts = rest ∧
      (s.dev.on (F.STBt_STAT_ON b) = false → t.dev.out = [.strobe b a (! s.dev.on (F.STBt_CFG_POL b))] ∧
        t.dev.val (F.STBt_FIRE_CNT b) = min 0xFFFFFFFF (s.dev.val (F.STBt_FIRE_CNT b) + 1)) ∧
      (s.dev.on (F.STBt_STAT_ON b) = true → t.dev.out = [] ∧
        t.dev.val (F.STBt_OVL_CNT b) = min 0xFFFFFFFF (s.dev.val (F.STBt_OVL_CNT b) + 1)) ∧
      s.dev.sameRegsBut t.dev [F.STBt_STAT_ON b, F.STBt_FIRE_CNT b, F.STBt_OVL_CNT b, F.MER_TIME] := by
  obtain ⟨e, he⟩ : ∃ e, e = s.quietened.dev.startDue b a rest := ⟨_, rfl⟩
  have hval : ∀ {f : Fld} {o : Nat}, f.addr = 0x400C3000 + o + b * 0x20 → o < 0x1C → (f.lo + f.len).ble 32 = true →
      e.val f = s.dev.val f := fun {f o} h ho hn => by
    rw [he, Dev.startDue_val _ a rest h ho b.isLt hn, s.quietened_val]
  have hon : e.on (F.STBt_STAT_ON b) = s.dev.on (F.STBt_STAT_ON b) := congrArg (· != 0) (hval (o := 4) rfl (by decide) rfl)
  have hpol : e.on (F.STBt_CFG_POL b) = s.dev.on (F.STBt_CFG_POL b) := congrArg (· != 0) (hval (o := 0) rfl (by decide) rfl)
  have hnow : e.now = a := by
    rw [he, Dev.startDue, Dev.setStb_now, Dev.reach_now]
    exact Nat.max_eq_right ha
  have hout : e.out = [] := by
    rw [he, Dev.startDue, Dev.setStb_out, Dev.reach_out]
    rfl
  have hstb : e.stb b = { s.dev.stb b with starts := rest } := by
    rw [he, Dev.startDue, Dev.stb_setStb]
    rfl
  have hexec := exec_strobeStart_time h
  rw [← he, hval (f := F.STBt_WIDTH b) (o := 0xC) rfl (by decide) rfl] at hexec
  refine ⟨_, hexec, s.sameStores_of_dev _, e.strobeOn_on _ _, ?_, ?_, fun hoff => ?_, fun hbusy => ?_, ?_⟩
  · rw [Dev.strobeOn_stb]
  · rw [Dev.strobeOn_stb, hstb]
  · obtain ⟨hball, hcnt⟩ := e.strobeOn_begins (a + min 1048575 (max 4 (s.dev.val (F.STBt_WIDTH b)))) none b.isLt
      (hon.trans hoff)
    rw [hout, hnow, hpol] at hball
    rw [hval (f := F.STBt_FIRE_CNT b) (o := 0x14) rfl (by decide) rfl] at hcnt
    exact ⟨hball, hcnt⟩
  · obtain ⟨hball, hcnt⟩ := e.strobeOn_overlaps (a + min 1048575 (max 4 (s.dev.val (F.STBt_WIDTH b)))) none
      (hon.trans hbusy)
    rw [hval (f := F.STBt_OVL_CNT b) (o := 0x18) rfl (by decide) rfl] at hcnt
    exact ⟨hball.trans hout, hcnt⟩
  · have hclock : s.quietened.dev.Touches (fun x => F.MER_TIME.At x ∨ PulseOf b x) e := by
      rw [he]
      exact (s.quietened.dev.startDue_touches b a rest).mono fun _ => Or.inl
    refine (hclock.trans ((e.strobeOn_touches _ none).mono fun _ => Or.inr)).sameRegsBut (d := s.quietened.dev) ?_
    rintro x (hx | hx)
    · exact ⟨F.MER_TIME, by simp, hx⟩
    · obtain ⟨f, hf, hat⟩ := pulseOf_named hx
      exact ⟨f, List.mem_append_left [F.MER_TIME] hf, hat⟩

/-- A start in tick mode (R56). -/
theorem strobeStart_tick {p : Int} (h : (s.dev.stb b).starts = []) (htick : (s.dev.stb b).tickStart = some p)
    (hp : p ≤ s.dev.vali F.LOG_HWM) :
    ∃ t, exec (.strobeStart b) s = .next t ∧ s.sameStores t ∧ t.dev.on (F.STBt_STAT_ON b) = true ∧
      t.dev.on (F.STBt_STAT_PENDING b) = false ∧ (t.dev.stb b).endPos = some (p + s.dev.val (F.STBt_WIDTH b)) ∧
      s.dev.sameRegsBut t.dev [F.STBt_STAT_ON b, F.STBt_FIRE_CNT b, F.STBt_OVL_CNT b] := by
  obtain ⟨e, he⟩ : ∃ e, e = s.quietened.dev.strobeDiscard b := ⟨_, rfl⟩
  have hpend : e.on (F.STBt_STAT_PENDING b) = false := by
    rw [he]
    exact Dev.on_mark_self _ rfl (by simp [F.STBt_STAT_PENDING]) false
  have htouch : s.quietened.dev.Touches (PulseOf b) e := by
    rw [he]
    exact ((Dev.Touches.refl _ _).setStb b _).mark (f := F.STBt_STAT_PENDING b) (.inl rfl) false
  have hwidth : e.val (F.STBt_WIDTH b) = s.dev.val (F.STBt_WIDTH b) :=
    (htouch.keeps_val (fun x hx hw => by
      obtain rfl := at_narrow hx
      simp only [PulseOf, F.STBt_WIDTH, R.STBt_WIDTH, R.STBt_STAT, R.STBt_FIRE_CNT, R.STBt_OVL_CNT] at hw
      omega) (quiet_strobe (o := 0xC) rfl (by decide) b.isLt)).trans (s.quietened_val _)
  have hexec := exec_strobeStart_tick h htick hp
  rw [← he] at hexec
  refine ⟨_, hexec, s.sameStores_of_dev _, e.strobeOn_on _ _, ?_, ?_,
    (htouch.trans (e.strobeOn_touches _ _)).sameRegsBut (d := s.quietened.dev) fun _ => pulseOf_named⟩
  · exact (e.strobeOn_pending _ _).trans hpend
  · unfold Dev.tickOn
    rw [Dev.strobeOn_stb, hwidth]

/-! ### STROBE_END -/

/-- The pulse that is on ends now, or at an instant that the clock is brought to. -/
theorem Dev.strobeFinish_of_on {d : Dev} {t : Nat} (h : d.on (F.STBt_STAT_ON t) = true) :
    ∃ u, d.strobeFinish t = ((d.reach u).mark (F.STBt_STAT_ON t) false).strobeBall t (d.reach u).now false := by
  have hnow : d.reach 0 = d := if_pos (Nat.zero_le _)
  unfold Dev.strobeFinish
  rw [if_neg (by simp [h])]
  dsimp only
  split
  · split
    · exact ⟨0, by rw [hnow]⟩
    · exact ⟨(d.stb t).endAt, rfl⟩
  · exact ⟨(d.stb t).endAt, rfl⟩

theorem Dev.strobeSettle_leaves (d : Dev) (t : Nat) : d.Touches (· = R.STBt_STAT t) (d.strobeSettle t) ∧
    (d.strobeSettle t).on (F.STBt_STAT_ON t) = d.on (F.STBt_STAT_ON t) ∧ (d.strobeSettle t).out = d.out := by
  unfold Dev.strobeSettle
  split
  · exact ⟨.refl _ d, rfl, rfl⟩
  · refine ⟨(Dev.Touches.refl (· = R.STBt_STAT t) d).drained (idle := F.STBt_STAT_IDLE t) rfl _, ?_, Dev.drained_out _ _ _⟩
    unfold Dev.on
    rw [Dev.val_drained_apart]
    simp [Fld.Apart, F.STBt_STAT_IDLE, F.STBt_STAT_ON]

theorem strobeEnd_does (h : s.dev.on (F.STBt_STAT_ON b) = true) :
    ∃ t, exec (.strobeEnd b) s = .next t ∧ s.sameStores t ∧ t.dev.on (F.STBt_STAT_ON b) = false ∧
      (∃ at', t.dev.out = [.strobe b at' (s.dev.on (F.STBt_CFG_POL b))] ∧ s.dev.now ≤ at') ∧
      s.dev.sameRegsBut t.dev [F.STBt_STAT_ON b, F.STBt_CFG_EN b, F.MER_TIME] := by
  have hexec : exec (.strobeEnd b) s = .next { s with dev := (s.quietened.dev.strobeFinish b).strobeSettle b } :=
    (show exec (.strobeEnd b) s = execStrobeEnd b s from rfl).trans (onDev_next _ s)
  obtain ⟨u, hu⟩ := Dev.strobeFinish_of_on ((s.quietened_on _).trans h)
  obtain ⟨htouch, hoff, hout⟩ := (s.quietened.dev.strobeFinish b).strobeSettle_leaves b
  have hended : s.quietened.dev.Touches (fun x => F.MER_TIME.At x ∨ x = R.STBt_STAT b)
      ((s.quietened.dev.reach u).mark (F.STBt_STAT_ON b) false) :=
    ((s.quietened.dev.reach_touches u).mono (V := fun x => F.MER_TIME.At x ∨ x = R.STBt_STAT b) fun _ => Or.inl).mark
      (f := F.STBt_STAT_ON b) (.inr rfl) false
  have hpol : ((s.quietened.dev.reach u).mark (F.STBt_STAT_ON b) false).on (F.STBt_CFG_POL b) = s.dev.on (F.STBt_CFG_POL b) :=
    (hended.keeps_on (f := F.STBt_CFG_POL b) (by
      simp only [Fld.At, F.MER_TIME, R.MER_TIME, F.STBt_CFG_POL, R.STBt_CFG, R.STBt_STAT]
      omega) (quiet_strobe (f := F.STBt_CFG_POL b) (o := 0) rfl (by decide) b.isLt).1).trans (s.quietened_on _)
  refine ⟨_, hexec, s.sameStores_of_dev _, ?_, ⟨(s.quietened.dev.reach u).now, ?_, ?_⟩, ?_⟩
  · refine hoff.trans ?_
    rw [hu, Dev.strobeBall, Dev.on_emit]
    exact Dev.on_mark_self _ rfl (by simp [F.STBt_STAT_ON]) false
  · refine hout.trans ?_
    rw [hu, Dev.strobeBall, hpol, Bool.false_bne]
    show Dev.out (Dev.mark _ _ _) ++ _ = _
    rw [Dev.mark_out, Dev.reach_out]
    rfl
  · rw [Dev.reach_now]
    exact Nat.le_max_left _ _
  · have hball : s.quietened.dev.Touches (fun x => F.MER_TIME.At x ∨ x = R.STBt_STAT b) (s.quietened.dev.strobeFinish b) := by
      rw [hu]
      exact hended.emit _
    refine (hball.trans (htouch.mono fun _ => Or.inr)).sameRegsBut (d := s.quietened.dev) ?_
    rintro x (hx | hx)
    · exact ⟨F.MER_TIME, by simp, hx⟩
    · exact ⟨F.STBt_STAT_ON b, by simp, .inl hx⟩

end

/-- Settles O23: the clauses are `strobeStart_time`, `strobeStart_tick` and `strobeEnd_does`. -/
theorem strobesPulse : Obligations.StrobesPulse := fun _ _ =>
  ⟨fun _ _ => strobeStart_time, fun _ => strobeStart_tick, strobeEnd_does⟩

end Sys2Proof.Machine
end

/-! PROOFS. LockStepFollowsTheMaster (R58, R62). -/
section
-- One lemma at a time: elaborated side by side they take more threads than the check's memory limit leaves room for.
set_option Elab.async false
namespace Sys2Proof.Machine

/-- A master that gives its payload to a POS flow of port 0, while a frame is on that port's wire until 1 ms. -/
def masterOnBusyPort : State :=
  { State.reset with dev :=
    ([(F.TRG_CTRL_BCN_MASTER, 1), (F.TRG_CTRL_BCN_NET_TX, 1), (F.TRG_LS_NET_PERIOD, 1), (F.NET_Ff_CFG_TYPE 0, 6), (F.NET_Ff_CFG_EN 0, 1),
      (F.NET_Ff_STAT_IDLE 0, 0), (F.NETn_CFG_EN 0, 1), (F.NETn_STAT_IDLE 0, 0), (F.NETn_STAT_LINK 0, 1)].foldl
      (fun d x => d.put x.1 x.2) State.reset.dev).setNport 0 { nextTx := 1000000 } }

theorem exec_posPayloadSend_masterOnBusyPort :
    ∃ u, exec .posPayloadSend masterOnBusyPort = .next u ∧ u.dev.trg.netAt = 1000 ∧ u.dev.now = 1000000 :=
  ⟨_, rfl, by decide, by decide⟩

/-- Refutes O24: the master's payload is said to be given at the instant of its datagram, yet the datagram waits for the
frame on its port's wire, and the clock comes to that frame's end. -/
theorem not_lockStepFollowsTheMaster : ¬ Obligations.LockStepFollowsTheMaster := by
  intro h
  obtain ⟨-, -, -, -, -, hsend⟩ := h masterOnBusyPort
  obtain ⟨t, ht, -, hat, -⟩ := hsend (by decide) (by decide) (by decide) (by decide) (by decide)
  obtain ⟨u, hu, hnet, hnow⟩ := exec_posPayloadSend_masterOnBusyPort
  cases ht.symm.trans hu
  rw [hnet, hnow] at hat
  exact absurd hat (by decide)

end Sys2Proof.Machine
end

/-! PROOFS. FilterChain (R64, R68). -/
section
-- One lemma at a time: elaborated side by side they take more threads than the check's memory limit leaves room for.
set_option Elab.async false
namespace Sys2Proof.Machine

/-- A lamp channel whose EN was cleared and, during the drain, set again: that EN waits for the drain's end (R9). -/
def lampRestarting : State :=
  { State.reset with dev :=
    { (State.reset.dev.put (F.FLTc_STAT_IDLE 0) 0).put (F.FLTc_CTRL_EN 0) 1 with restart := [R.FLTc_CTRL 0] } }

/-- The lost signal ends the drain, and the fresh enable that waited begins with a signal awaited anew (R68). -/
theorem exec_noSignal_lampRestarting :
    ∃ u, exec (.noSignal 0) lampRestarting = .next u ∧ (u.dev.fltc 0).silent = false :=
  ⟨_, rfl, by decide⟩

/-- Refutes O25: without a lamp signal the channel is said to stay silent whatever its state, yet where the drain that the
lost signal ends has an EN waiting, the channel starts afresh and awaits its signal anew. -/
theorem not_filterChain : ¬ Obligations.FilterChain := by
  intro h
  obtain ⟨-, hlost, -⟩ := h lampRestarting 0 0
  obtain ⟨t, ht, -, -, hsilent, -⟩ := hlost (by decide) (by decide)
  obtain ⟨u, hu, hheard⟩ := exec_noSignal_lampRestarting
  cases ht.symm.trans hu
  exact absurd (hheard.symm.trans hsilent) (by decide)

end Sys2Proof.Machine
end

/-! PROOFS. The fields of the link's registers, and what its shared operations write (R74, R80, R92). -/
section
-- One lemma at a time: elaborated side by side they take more threads than the check's memory limit leaves room for.
set_option Elab.async false
namespace Sys2Proof.Machine

/-! ### Fields of one word -/

/-- Fields of one word in two registers share no bit. -/
theorem Fld.apart_of_ne {f g : Fld} (h : f.addr ≠ g.addr) (hf : (f.lo + f.len).ble 32 = true := by rfl)
    (hg : (g.lo + g.len).ble 32 = true := by rfl) : f.Apart g :=
  .inl ⟨h, fun hw => absurd (Nat.le_of_ble_eq_true hf) (by omega), fun hw => absurd (Nat.le_of_ble_eq_true hg) (by omega)⟩

/-- The bits of two fields of one register lie apart. -/
def Fld.bitsApart (f g : Fld) : Bool :=
  (f.lo + f.len).ble 32 && (g.lo + g.len).ble 32 && ((f.lo + f.len).ble g.lo || (g.lo + g.len).ble f.lo)

theorem Fld.apart_of_bits {f g : Fld} (h : f.addr = g.addr) (hb : f.bitsApart g = true := by rfl) : f.Apart g := by
  simp only [Fld.bitsApart, Bool.and_eq_true, Bool.or_eq_true, Nat.ble_eq] at hb
  obtain ⟨⟨hf, hg⟩, hfg⟩ := hb
  exact .inr ⟨h, hf, hg, hfg⟩

/-- A field in the link's window is none of ICU's or EVT's. -/
theorem quiet_link {f : Fld} (h : f.addr / 0x10000 = 0x4012) (hn : (f.lo + f.len).ble 32 = true := by rfl) : f.quiet :=
  ⟨evIcu_of_window h (by decide) (by decide), fun hw => absurd (Nat.le_of_ble_eq_true hn) (by omega)⟩

section
variable {W : Nat → Prop} {d e : Dev}

/-- A field in the link's window that none of the operations writes holds what it held. -/
theorem Dev.Touches.reads_link (h : d.Touches W e) {f : Fld} (hf : f.addr / 0x10000 = 0x4012) (hW : ¬ W f.addr)
    (hn : (f.lo + f.len).ble 32 = true := by rfl) : e.val f = d.val f :=
  h.keeps_val (fun a ha => by rwa [at_narrow ha hn]) (quiet_link hf hn)

theorem Dev.on_congr {f : Fld} (h : e.val f = d.val f) : e.on f = d.on f := congrArg (· != 0) h

end

/-! ### What the link holds beside its registers -/

section
variable {d e : Dev}

theorem Dev.lane_of_slk (h : e.slk = d.slk) (l : Nat) : e.lane l = d.lane l := by
  unfold Dev.lane
  rw [h]

theorem Dev.lstr_of_slk (h : e.slk = d.slk) (q : Nat) : e.lstr q = d.lstr q := by
  unfold Dev.lstr
  rw [h]

theorem Dev.svch_of_slk (h : e.slk = d.slk) (c : Nat) : e.svch c = d.svch c := by
  unfold Dev.svch
  rw [h]

@[simp] theorem Dev.lstr_setLane (d : Dev) (l : Nat) (x : Lane) (q : Nat) : (d.setLane l x).lstr q = d.lstr q := rfl
@[simp] theorem Dev.lane_setLstr (d : Dev) (q : Nat) (x : LinkStream) (l : Nat) : (d.setLstr q x).lane l = d.lane l := rfl

/-- The stream of a lane is read from its port's CFG and from its last good marker. -/
theorem Dev.laneStream_congr {l : Nat} (hreg : e.reg (R.SLK_CPp_CFG (l / 4)) = d.reg (R.SLK_CPp_CFG (l / 4)))
    (hlane : (e.lane l).mlane = (d.lane l).mlane) : e.laneStream l = d.laneStream l := by
  have hval : ∀ f : Fld, f.addr = R.SLK_CPp_CFG (l / 4) → (f.lo + f.len).ble 32 = true → e.val f = d.val f :=
    fun f hf hn => Dev.val_congr fun a ha => by rwa [at_narrow ha hn, hf]
  unfold Dev.laneStream Dev.laneIndex Dev.portMode Dev.on
  dsimp only
  rw [hval (F.SLK_CPp_CFG_MODE (l / 4)) rfl rfl, hval (F.SLK_CPp_CFG_AUTO_ORDER (l / 4)) rfl rfl, hlane]

/-- The lanes of a stream are read from their port's CFG and from their last good markers. -/
theorem Dev.lanesOf_congr {q : Nat} (hreg : e.reg (R.SLK_CPp_CFG (q / 4)) = d.reg (R.SLK_CPp_CFG (q / 4)))
    (hlane : ∀ l, (e.lane l).mlane = (d.lane l).mlane) : e.lanesOf q = d.lanesOf q := by
  unfold Dev.lanesOf
  refine List.filter_congr fun l hl => ?_
  have hport : l / 4 = q / 4 := by
    simp only [List.mem_cons, List.not_mem_nil, or_false] at hl
    omega
  rw [Dev.laneStream_congr (by rw [hport, hreg]) (hlane l)]

/-- A stream with no line open loses its deskew and the packet it passes over, nothing else. -/
theorem Dev.loseDeskew_of_closed {l : Nat} (h : (d.lstr (d.laneStream l)).opened = none) :
    d.loseDeskew l = d.setLstr (d.laneStream l) { d.lstr (d.laneStream l) with deskewed := false, skim := none } := by
  unfold Dev.loseDeskew Dev.cutLine
  simp only [Dev.lstr_setLstr, h]

end

/-! ### The link of a port (R92) -/

/-- The registers of the camera ports but their CFG. -/
def CamPortReg (a : Nat) : Prop := 0x40122000 ≤ a ∧ a < 0x40123000 ∧ a % 0x40 ≠ 0

section
variable (d : Dev) (p : Nat)

theorem Dev.linkRefresh_regsEvt : d.RegsEvt (d.linkRefresh p) := by
  unfold Dev.linkRefresh
  extract_lets n ups bits e1 was now e2
  have h2 : d.RegsEvt e2 := (d.regsEvt_put _ _).trans (e1.regsEvt_mark _ _)
  split
  · exact h2.trans (e2.regsEvt_raise _)
  · split
    · exact (h2.trans (e2.regsEvt_raise _)).trans (Dev.regsEvt_inc _ _)
    · exact h2

@[simp] theorem Dev.linkRefresh_slk : (d.linkRefresh p).slk = d.slk := (d.linkRefresh_regsEvt p).keeps_slk
@[simp] theorem Dev.linkRefresh_lane (l : Nat) : (d.linkRefresh p).lane l = d.lane l := Dev.lane_of_slk (d.linkRefresh_slk p) l
@[simp] theorem Dev.linkRefresh_lstr (q : Nat) : (d.linkRefresh p).lstr q = d.lstr q := Dev.lstr_of_slk (d.linkRefresh_slk p) q

theorem Dev.linkRefresh_touches {p : Nat} (hp : p < 16) : d.Touches CamPortReg (d.linkRefresh p) := by
  have hport : ∀ {o}, o ≠ 0 ∧ o < 0x40 → CamPortReg (0x40122000 + o + p * 0x40) := fun ho =>
    ⟨by omega, by omega, by omega⟩
  have hstat : CamPortReg (R.SLK_CPp_STAT p) := hport (o := 4) (by decide)
  have hflag : CamPortReg (R.SLK_CPp_FLAG p) := hport (o := 8) (by decide)
  unfold Dev.linkRefresh
  extract_lets n ups bits e1 was now e2
  have h2 : d.Touches CamPortReg e2 := ((Dev.Touches.refl _ d).put (f := F.SLK_CPp_STAT_STREAM_UP p) hstat bits).mark
    (f := F.SLK_CPp_STAT_LINK_OK p) hstat now
  exact .ite (h2.raise (f := F.SLK_CPp_FLAG_LINK_UP p) hflag)
    (.ite ((h2.raise (f := F.SLK_CPp_FLAG_LINK_DOWN p) hflag).inc (f := F.SLK_CPp_LINK_DOWN_CNT p)
      (hport (o := 0xC) (by decide))) h2)

/-- A field of a port beside those that show its link holds what it held. -/
theorem Dev.linkRefresh_val {g : Fld} (hup : (F.SLK_CPp_STAT_STREAM_UP p).Apart g) (hok : (F.SLK_CPp_STAT_LINK_OK p).Apart g)
    (hlu : (F.SLK_CPp_FLAG_LINK_UP p).Apart g) (hld : (F.SLK_CPp_FLAG_LINK_DOWN p).Apart g)
    (hcnt : (F.SLK_CPp_LINK_DOWN_CNT p).Apart g) (hq : g.quiet) : (d.linkRefresh p).val g = d.val g := by
  unfold Dev.linkRefresh
  extract_lets n ups bits e1 was now e2
  have h2 : e2.val g = d.val g := (e1.val_mark_apart hok now).trans (d.val_put_apart hup bits)
  split
  · exact (e2.val_raise_apart hlu hq).trans h2
  · split
    · exact ((Dev.val_inc_apart _ hcnt).trans (e2.val_raise_apart hld hq)).trans h2
    · exact h2

end

/-! ### A lane measures its eye (R74, R75) -/

/-- The registers that a lane shows its state in. -/
def LaneShow (l a : Nat) : Prop := a = R.SLK_Ll_STAT l ∨ a = R.SLK_Ll_FLAG l

theorem laneReg_window {o l : Nat} (ho : o < 0x40) (hl : l < 64) : (0x40121000 + o + l * 0x40) / 0x10000 = 0x4012 := by omega

/-- A lane's register is none of a camera port's. -/
theorem not_camPortReg_lane {o l : Nat} (ho : o < 0x40) (hl : l < 64) : ¬ CamPortReg (0x40121000 + o + l * 0x40) := by
  unfold CamPortReg
  omega

/-- The best peaking code and its eye figure: those of the search with ADAPT, PEAK and its own without (R74). -/
def Dev.eyeBest (d : Dev) (l : Nat) (eyes : List (Nat × Nat)) : Nat × Nat :=
  if d.on (F.SLK_Ll_CTRL_ADAPT l) then adapt eyes else bestPeak eyes [d.val (F.SLK_Ll_CTRL_PEAK l)]

/-- The code that the lane takes. -/
def Dev.peakTaken (d : Dev) (l : Nat) (eyes : List (Nat × Nat)) : Nat :=
  if d.on (F.SLK_Ll_CTRL_ADAPT l) then min 31 (d.eyeBest l eyes).1 else d.val (F.SLK_Ll_CTRL_PEAK l)

/-- The block once a lane shows its eye figure and its peaking. -/
def Dev.eyeShown (d : Dev) (l : Nat) (eyes : List (Nat × Nat)) : Dev :=
  (d.put (F.SLK_Ll_STAT_EYE l) (min 252 (d.eyeBest l eyes).2)).put (F.SLK_Ll_STAT_PEAK_ACT l) (d.peakTaken l eyes)

/-- The lane's eye is good enough. -/
def Dev.eyeGood (d : Dev) (l : Nat) (eyes : List (Nat × Nat)) : Bool :=
  decide (d.val (F.SLK_Ll_CTRL_EYE_MIN l) ≤ min 252 (d.eyeBest l eyes).2)

/-- What the lane holds once it has measured its eye (R75). -/
def Dev.laneMeasured (d : Dev) (l : Nat) (eyes : List (Nat × Nat)) : Lane :=
  { d.lane l with service := d.eyeGood l eyes, failed := d.on (F.SLK_Ll_CTRL_ADAPT l) && ! d.eyeGood l eyes,
                  retryAt := d.now + 100000000, lowMs := 0 }

section
variable (d : Dev) (l : Nat) (eyes : List (Nat × Nat))

theorem Dev.eyeShown_touches : d.Touches (LaneShow l) (d.eyeShown l eyes) :=
  ((Dev.Touches.refl _ d).put (f := F.SLK_Ll_STAT_EYE l) (.inl rfl) _).put (f := F.SLK_Ll_STAT_PEAK_ACT l) (.inl rfl) _

theorem Dev.eyeShown_slk : (d.eyeShown l eyes).slk = d.slk := (Dev.put_slk _ _ _).trans (d.put_slk _ _)

theorem Dev.laneAdapt_eq : d.laneAdapt l eyes = ((d.eyeShown l eyes).setLane l (d.laneMeasured l eyes)).raiseIf
    (d.on (F.SLK_Ll_CTRL_ADAPT l) && ! d.eyeGood l eyes) (F.SLK_Ll_FLAG_ADAPT_FAIL l) := by
  have hctrl : R.SLK_Ll_STAT l ≠ R.SLK_Ll_CTRL l := by
    simp only [R.SLK_Ll_STAT, R.SLK_Ll_CTRL]
    omega
  have hmin : (d.eyeShown l eyes).val (F.SLK_Ll_CTRL_EYE_MIN l) = d.val (F.SLK_Ll_CTRL_EYE_MIN l) :=
    (Dev.val_put_apart _ (Fld.apart_of_ne hctrl) _).trans (Dev.val_put_apart _ (Fld.apart_of_ne hctrl) _)
  have hlane : (d.eyeShown l eyes).lane l = d.lane l := Dev.lane_of_slk (d.eyeShown_slk l eyes) l
  have hnow : (d.eyeShown l eyes).now = d.now := (Dev.put_now _ _ _).trans (d.put_now _ _)
  unfold Dev.laneAdapt
  extract_lets auto r code e1 ok x e2
  have he1 : e1 = d.eyeShown l eyes := rfl
  have hok : ok = d.eyeGood l eyes := by
    simp only [ok, he1, hmin]
    rfl
  simp only [e2, x, he1, hok, hlane, hnow, auto, Dev.laneMeasured]

theorem Dev.laneAdapt_touches : d.Touches (LaneShow l) (d.laneAdapt l eyes) := by
  rw [Dev.laneAdapt_eq]
  exact ((d.eyeShown_touches l eyes).setLane l _).raiseIf (f := F.SLK_Ll_FLAG_ADAPT_FAIL l) (.inr rfl) _

@[simp] theorem Dev.laneAdapt_lane : (d.laneAdapt l eyes).lane l = d.laneMeasured l eyes := by
  rw [Dev.laneAdapt_eq, Dev.lane_of_slk (Dev.raiseIf_slk _ _ _), Dev.lane_setLane]

@[simp] theorem Dev.laneAdapt_lstr (q : Nat) : (d.laneAdapt l eyes).lstr q = d.lstr q := by
  rw [Dev.laneAdapt_eq, Dev.lstr_of_slk (Dev.raiseIf_slk _ _ _), Dev.lstr_setLane]
  exact Dev.lstr_of_slk (d.eyeShown_slk l eyes) q

/-- What the measurement shows in STAT, it showed before a flag was raised. -/
theorem Dev.laneAdapt_stat {f : Fld} (hf : f.addr = R.SLK_Ll_STAT l) (hl : l < 64)
    (hn : (f.lo + f.len).ble 32 = true := by rfl) : (d.laneAdapt l eyes).val f = (d.eyeShown l eyes).val f := by
  have hflag : (F.SLK_Ll_FLAG_ADAPT_FAIL l).Apart f := Fld.apart_of_ne (by
    simp only [hf, F.SLK_Ll_FLAG_ADAPT_FAIL, R.SLK_Ll_FLAG, R.SLK_Ll_STAT]
    omega) rfl hn
  have hq : f.quiet := quiet_link (by rw [hf]; exact laneReg_window (o := 4) (by decide) hl) hn
  rw [Dev.laneAdapt_eq]
  unfold Dev.raiseIf
  split
  · exact (Dev.val_raise_apart _ hflag hq).trans (Dev.val_of_regs (Dev.setLane_regs _ _ _) f)
  · exact Dev.val_of_regs (Dev.setLane_regs _ _ _) f

/-- A field of STAT beside the eye and the peaking holds what it held. -/
theorem Dev.laneAdapt_stat_apart {f : Fld} (hf : f.addr = R.SLK_Ll_STAT l) (hl : l < 64)
    (heye : (F.SLK_Ll_STAT_EYE l).bitsApart f = true := by rfl)
    (hpeak : (F.SLK_Ll_STAT_PEAK_ACT l).bitsApart f = true := by rfl)
    (hn : (f.lo + f.len).ble 32 = true := by rfl) : (d.laneAdapt l eyes).val f = d.val f :=
  ((d.laneAdapt_stat l eyes hf hl hn).trans (Dev.val_put_apart _ (Fld.apart_of_bits hf.symm hpeak) _)).trans
    (Dev.val_put_apart _ (Fld.apart_of_bits hf.symm heye) _)

theorem Dev.laneAdapt_eye (hl : l < 64) : (d.laneAdapt l eyes).val (F.SLK_Ll_STAT_EYE l) = min 252 (d.eyeBest l eyes).2 := by
  have hapart : (F.SLK_Ll_STAT_PEAK_ACT l).Apart (F.SLK_Ll_STAT_EYE l) := Fld.apart_of_bits rfl
  rw [d.laneAdapt_stat l eyes rfl hl, Dev.eyeShown, Dev.val_put_apart _ hapart, Dev.val_put_self _ (by simp [F.SLK_Ll_STAT_EYE])]
  exact Nat.mod_eq_of_lt (Nat.lt_of_le_of_lt (Nat.min_le_left _ _) (by simp [F.SLK_Ll_STAT_EYE]))

theorem Dev.laneAdapt_peak (hl : l < 64) : (d.laneAdapt l eyes).val (F.SLK_Ll_STAT_PEAK_ACT l) = d.peakTaken l eyes := by
  have hlt : d.peakTaken l eyes < 2 ^ 5 := by
    unfold Dev.peakTaken
    split
    · omega
    · exact d.val_lt (F.SLK_Ll_CTRL_PEAK l)
  rw [d.laneAdapt_stat l eyes rfl hl, Dev.eyeShown, Dev.val_put_self _ (by simp [F.SLK_Ll_STAT_PEAK_ACT])]
  exact Nat.mod_eq_of_lt hlt

/-- A search whose best eye stays below EYE_MIN has failed (R75). -/
theorem Dev.laneAdapt_fails (hl : l < 64) (hauto : d.on (F.SLK_Ll_CTRL_ADAPT l) = true) (hbad : d.eyeGood l eyes = false) :
    (d.laneAdapt l eyes).on (F.SLK_Ll_FLAG_ADAPT_FAIL l) = true := by
  rw [Dev.laneAdapt_eq, hauto, hbad]
  exact Dev.on_raise_self _ rfl (by simp [F.SLK_Ll_FLAG_ADAPT_FAIL])
    (quiet_link (laneReg_window (o := 8) (by decide) hl))

end

end Sys2Proof.Machine
end

/-! PROOFS. SensorLanesFollowTheirEye (R74 to R77). -/
section
-- One lemma at a time: elaborated side by side they take more threads than the check's memory limit leaves room for.
set_option Elab.async false
namespace Sys2Proof.Machine

/-! ### A lane whose stream has no line open -/

/-- The registers of the lanes. -/
def LaneReg (a : Nat) : Prop := 0x40121000 ≤ a ∧ a < 0x40122000

theorem laneReg {o l : Nat} (ho : o < 0x40) (hl : l < 64) : LaneReg (0x40121000 + o + l * 0x40) := by
  unfold LaneReg
  omega

theorem LaneShow.laneReg {l a : Nat} (h : LaneShow l a) (hl : l < 64) : LaneReg a := by
  rcases h with rfl | rfl
  · exact Machine.laneReg (o := 4) (by decide) hl
  · exact Machine.laneReg (o := 8) (by decide) hl

section
variable {W : Nat → Prop} {d e : Dev} {l : Nat} (hl : l < 64)
include hl

/-- What writes registers of lanes alone leaves the stream that a lane belongs to. -/
theorem Dev.Touches.laneStream_eq (h : d.Touches LaneReg e) (hm : (e.lane l).mlane = (d.lane l).mlane) :
    e.laneStream l = d.laneStream l :=
  Dev.laneStream_congr (h.reg _ (by simp only [LaneReg, R.SLK_CPp_CFG]; omega)
    (evIcu_of_window (w := 0x4012) (by simp only [R.SLK_CPp_CFG]; omega) (by decide) (by decide))) hm

/-- Fields of lanes stand while the link of a port is shown. -/
theorem Dev.linkRefresh_laneVal (d : Dev) {f : Fld} (hf : LaneReg f.addr) (hn : (f.lo + f.len).ble 32 = true := by rfl) :
    (d.linkRefresh (l / 4)).val f = d.val f := by
  unfold LaneReg at hf
  exact (d.linkRefresh_touches (p := l / 4) (by omega)).reads_link (by omega) (by unfold CamPortReg; omega) hn

/-- Fields of lanes stand while a stream with no line open loses its deskew. -/
theorem Dev.deskewLost_val (h : (d.lstr (d.laneStream l)).opened = none) {f : Fld} (hf : LaneReg f.addr)
    (hn : (f.lo + f.len).ble 32 = true := by rfl) : ((d.loseDeskew l).linkRefresh (l / 4)).val f = d.val f := by
  rw [Dev.linkRefresh_laneVal hl _ hf hn, Dev.loseDeskew_of_closed h]
  exact Dev.val_of_regs (Dev.setLstr_regs _ _ _) f

end

section
variable {d : Dev} {l : Nat} (h : (d.lstr (d.laneStream l)).opened = none)
include h

theorem Dev.deskewLost_lane (k : Nat) : ((d.loseDeskew l).linkRefresh (l / 4)).lane k = d.lane k := by
  rw [Dev.linkRefresh_lane, Dev.loseDeskew_of_closed h, Dev.lane_setLstr]

theorem Dev.deskewLost_stream : (((d.loseDeskew l).linkRefresh (l / 4)).lstr (d.laneStream l)).deskewed = false := by
  rw [Dev.linkRefresh_lstr, Dev.loseDeskew_of_closed h, Dev.lstr_setLstr]

end

/-! ### LANE_BRING_UP -/

/-- The lane powered in P0, with both locks and its markers awaited afresh (R77). -/
def Dev.laneLocked (d : Dev) (l : Nat) : Dev :=
  let e := (((d.lanePower l).put (F.SLK_Ll_STAT_PSTATE l) 0).mark (F.SLK_Ll_STAT_CDR_LOCK l) true).mark
    (F.SLK_Ll_STAT_BLOCK_LOCK l) true
  e.setLane l { e.lane l with shTimes := [], mcount := none, mbad := 0, misorder := false, badId := false }

section
variable {d : Dev} {l : Nat} (hl : l < 64)

theorem Dev.laneLocked_touches (d : Dev) (l : Nat) : d.Touches (LaneShow l) (d.laneLocked l) := by
  have hpower : d.Touches (LaneShow l) (d.lanePower l) :=
    (Dev.Touches.refl _ d).put (f := F.SLK_Ll_STAT_PEAK_ACT l) (.inl rfl) _
  exact (((hpower.put (f := F.SLK_Ll_STAT_PSTATE l) (.inl rfl) 0).mark (f := F.SLK_Ll_STAT_CDR_LOCK l) (.inl rfl) true).mark
    (f := F.SLK_Ll_STAT_BLOCK_LOCK l) (.inl rfl) true).setLane l _

theorem Dev.laneLocked_held (d : Dev) (l : Nat) : ((d.laneLocked l).lane l).mlane = (d.lane l).mlane ∧
    ∀ q, (d.laneLocked l).lstr q = d.lstr q := by
  unfold Dev.laneLocked
  extract_lets e
  have hslk : e.slk = d.slk := by
    simp only [e, Dev.lanePower, Dev.mark_slk, Dev.put_slk]
  have hlane : (e.lane l).mlane = (d.lane l).mlane := congrArg Lane.mlane (Dev.lane_of_slk hslk l)
  rw [Dev.lane_setLane]
  exact ⟨hlane, fun q => (Dev.lstr_setLane _ _ _ _).trans (Dev.lstr_of_slk hslk q)⟩

theorem Dev.laneLocked_stat (d : Dev) (l : Nat) : (d.laneLocked l).val (F.SLK_Ll_STAT_PSTATE l) = 0 ∧
    (d.laneLocked l).on (F.SLK_Ll_STAT_CDR_LOCK l) = true ∧ (d.laneLocked l).on (F.SLK_Ll_STAT_BLOCK_LOCK l) = true := by
  have hcdr : (F.SLK_Ll_STAT_CDR_LOCK l).Apart (F.SLK_Ll_STAT_PSTATE l) := Fld.apart_of_bits rfl
  have hblk : (F.SLK_Ll_STAT_BLOCK_LOCK l).Apart (F.SLK_Ll_STAT_PSTATE l) := Fld.apart_of_bits rfl
  have hlocks : (F.SLK_Ll_STAT_BLOCK_LOCK l).Apart (F.SLK_Ll_STAT_CDR_LOCK l) := Fld.apart_of_bits rfl
  unfold Dev.laneLocked Dev.on
  dsimp only
  simp only [Dev.val_of_regs (Dev.setLane_regs _ _ _)]
  refine ⟨?_, ?_, ?_⟩
  · rw [Dev.val_mark_apart _ hblk, Dev.val_mark_apart _ hcdr, Dev.val_put_self _ (by simp [F.SLK_Ll_STAT_PSTATE]), Nat.zero_mod]
  · rw [Dev.val_mark_apart _ hlocks, Dev.val_mark_self _ rfl (by simp [F.SLK_Ll_STAT_CDR_LOCK])]
    rfl
  · rw [Dev.val_mark_self _ rfl (by simp [F.SLK_Ll_STAT_BLOCK_LOCK])]
    rfl

theorem Dev.laneBringUp_eq (hwant : d.laneWanted l = true)
    (hdown : d.val (F.SLK_Ll_STAT_PSTATE l) ≠ 0 ∨ d.on (F.SLK_Ll_STAT_BLOCK_LOCK l) = false) (eyes : List (Nat × Nat)) :
    d.laneBringUp l eyes = (((d.laneLocked l).laneAdapt l eyes).loseDeskew l).linkRefresh (l / 4) := by
  unfold Dev.laneBringUp
  rw [if_neg]
  · rfl
  · rcases hdown with hp | hb
    · simp [hwant, hp]
    · simp [hwant, hb]

/-- The settings of a lane. -/
theorem Dev.Touches.lane_ctrl {e : Dev} (h : d.Touches (LaneShow l) e) (hl : l < 64) {f : Fld} (hf : f.addr = R.SLK_Ll_CTRL l)
    (hn : (f.lo + f.len).ble 32 = true := by rfl) : e.val f = d.val f :=
  h.reads_link (by rw [hf]; exact laneReg_window (o := 0) (by decide) hl) (by
    simp only [hf, LaneShow, R.SLK_Ll_CTRL, R.SLK_Ll_STAT, R.SLK_Ll_FLAG]
    omega) hn

theorem Dev.eyeBest_of_adapt (h : d.on (F.SLK_Ll_CTRL_ADAPT l) = true) (eyes : List (Nat × Nat)) :
    d.eyeBest l eyes = adapt eyes := if_pos h

include hl in
theorem Dev.laneBringUp_does (hopen : (d.lstr (d.laneStream l)).opened = none) (hwant : d.laneWanted l = true)
    (hdown : d.val (F.SLK_Ll_STAT_PSTATE l) ≠ 0 ∨ d.on (F.SLK_Ll_STAT_BLOCK_LOCK l) = false) (eyes : List (Nat × Nat)) :
    let e := d.laneBringUp l eyes
    e.val (F.SLK_Ll_STAT_PSTATE l) = 0 ∧ e.on (F.SLK_Ll_STAT_CDR_LOCK l) = true ∧ e.on (F.SLK_Ll_STAT_BLOCK_LOCK l) = true ∧
      (d.on (F.SLK_Ll_CTRL_ADAPT l) = true → e.val (F.SLK_Ll_STAT_EYE l) = min 252 (adapt eyes).2 ∧
        e.val (F.SLK_Ll_STAT_PEAK_ACT l) = min 31 (adapt eyes).1) ∧
      (d.on (F.SLK_Ll_CTRL_ADAPT l) = false → e.val (F.SLK_Ll_STAT_PEAK_ACT l) = d.val (F.SLK_Ll_CTRL_PEAK l)) := by
  have htouch := (d.laneLocked_touches l).trans ((d.laneLocked l).laneAdapt_touches l eyes)
  obtain ⟨hmlane, hlstr⟩ := d.laneLocked_held l
  obtain ⟨hp, hcdr, hblk⟩ := d.laneLocked_stat l
  have hstream : ((d.laneLocked l).laneAdapt l eyes).laneStream l = d.laneStream l :=
    (htouch.mono fun _ ha => ha.laneReg hl).laneStream_eq hl (by rw [Dev.laneAdapt_lane]; exact hmlane)
  have hclosed : (((d.laneLocked l).laneAdapt l eyes).lstr (((d.laneLocked l).laneAdapt l eyes).laneStream l)).opened = none := by
    rw [hstream, Dev.laneAdapt_lstr, hlstr, hopen]
  have hadapt : (d.laneLocked l).on (F.SLK_Ll_CTRL_ADAPT l) = d.on (F.SLK_Ll_CTRL_ADAPT l) :=
    Dev.on_congr ((d.laneLocked_touches l).lane_ctrl hl rfl)
  have hpeak := (d.laneLocked_touches l).lane_ctrl hl (f := F.SLK_Ll_CTRL_PEAK l) rfl
  have hshown : ∀ {f : Fld}, f.addr = R.SLK_Ll_STAT l → (f.lo + f.len).ble 32 = true →
      (d.laneBringUp l eyes).val f = ((d.laneLocked l).laneAdapt l eyes).val f := fun hf hn => by
    rw [Dev.laneBringUp_eq hwant hdown, Dev.deskewLost_val hl hclosed (by rw [hf]; exact laneReg (o := 4) (by decide) hl) hn]
  intro e
  refine ⟨?_, ?_, ?_, fun hon => ⟨?_, ?_⟩, fun hoff => ?_⟩
  · rw [hshown rfl rfl, Dev.laneAdapt_stat_apart _ l eyes rfl hl, hp]
  · exact (Dev.on_congr ((hshown rfl rfl).trans (Dev.laneAdapt_stat_apart _ l eyes rfl hl))).trans hcdr
  · exact (Dev.on_congr ((hshown rfl rfl).trans (Dev.laneAdapt_stat_apart _ l eyes rfl hl))).trans hblk
  · rw [hshown rfl rfl, Dev.laneAdapt_eye _ l eyes hl, Dev.eyeBest_of_adapt (hadapt.trans hon)]
  · rw [hshown rfl rfl, Dev.laneAdapt_peak _ l eyes hl, Dev.peakTaken, if_pos (hadapt.trans hon),
      Dev.eyeBest_of_adapt (hadapt.trans hon)]
  · rw [hshown rfl rfl, Dev.laneAdapt_peak _ l eyes hl, Dev.peakTaken, if_neg (by simp [hadapt, hoff]), hpeak]

end

/-! ### EYE_SCAN -/

/-- What a lane holds once the periodic scan has read its eye (R74, R75). -/
def Dev.laneScanned (d : Dev) (l eye : Nat) : Lane :=
  let low := decide (eye < d.val (F.SLK_Ll_CTRL_EYE_MIN l))
  { d.lane l with lowMs := if low then (d.lane l).lowMs + 1 else 0,
                  service := (d.lane l).service || (! low && ! (d.lane l).service && ! d.on (F.SLK_Ll_CTRL_ADAPT l)) }

/-- The block once the periodic scan has shown a lane's eye. -/
def Dev.eyeScanned (d : Dev) (l eye : Nat) : Dev :=
  let e := d.put (F.SLK_Ll_STAT_EYE l) eye
  (e.setLane l (e.laneScanned l eye)).linkRefresh (l / 4)

theorem Dev.eyeScanned_eye {l : Nat} (hl : l < 64) (d : Dev) {eye : Nat} (heye : eye ≤ 252) :
    (d.eyeScanned l eye).val (F.SLK_Ll_STAT_EYE l) = eye := by
  unfold Dev.eyeScanned
  extract_lets e
  rw [Dev.linkRefresh_laneVal hl _ (laneReg (o := 4) (by decide) hl), Dev.val_of_regs (Dev.setLane_regs _ _ _)]
  simp only [e]
  rw [Dev.val_put_self _ (by simp [F.SLK_Ll_STAT_EYE])]
  exact Nat.mod_eq_of_lt (Nat.lt_of_le_of_lt heye (by simp [F.SLK_Ll_STAT_EYE]))

/-! ### ADAPT_RETRY -/

section
variable {d : Dev} {l : Nat} (hl : l < 64)
include hl

/-- The measurement of a lane that retries, at the instant that the clock is brought to (R75). -/
theorem Dev.adaptRetry_does (hadapt : d.on (F.SLK_Ll_CTRL_ADAPT l) = true) (t : Nat) (eyes : List (Nat × Nat)) :
    let e := ((d.reach t).laneAdapt l eyes).linkRefresh (l / 4)
    e.val (F.SLK_Ll_STAT_EYE l) = min 252 (adapt eyes).2 ∧
      (min 252 (adapt eyes).2 < d.val (F.SLK_Ll_CTRL_EYE_MIN l) →
        e.on (F.SLK_Ll_FLAG_ADAPT_FAIL l) = true ∧ (e.lane l).service = false) := by
  have hctrl : ∀ {f : Fld}, f.addr = R.SLK_Ll_CTRL l → (f.lo + f.len).ble 32 = true → (d.reach t).val f = d.val f :=
    fun {f} hf hn => (d.reach_touches t).reads_link (by rw [hf]; exact laneReg_window (o := 0) (by decide) hl)
      (by simp only [hf, Fld.At, F.MER_TIME, R.SLK_Ll_CTRL, R.MER_TIME]; omega) hn
  have hon : (d.reach t).on (F.SLK_Ll_CTRL_ADAPT l) = true := (Dev.on_congr (hctrl rfl rfl)).trans hadapt
  intro e
  refine ⟨?_, fun hlow => ?_⟩
  · rw [Dev.linkRefresh_laneVal hl _ (laneReg (o := 4) (by decide) hl), Dev.laneAdapt_eye _ l eyes hl, Dev.eyeBest_of_adapt hon]
  · have hbad : (d.reach t).eyeGood l eyes = false := by
      rw [Dev.eyeGood, hctrl rfl rfl, Dev.eyeBest_of_adapt hon]
      exact decide_eq_false (Nat.not_le.2 hlow)
    refine ⟨(Dev.on_congr (Dev.linkRefresh_laneVal hl _ (laneReg (o := 8) (by decide) hl))).trans
      (Dev.laneAdapt_fails _ l eyes hl hon hbad), ?_⟩
    rw [Dev.linkRefresh_lane, Dev.laneAdapt_lane, Dev.laneMeasured, hbad]

/-! ### EYE_LOW -/

/-- EYE_LOW stands while the lane measures its eye. -/
theorem Dev.laneAdapt_eyeLow (d : Dev) (eyes : List (Nat × Nat)) :
    (d.laneAdapt l eyes).val (F.SLK_Ll_FLAG_EYE_LOW l) = d.val (F.SLK_Ll_FLAG_EYE_LOW l) := by
  have hq : (F.SLK_Ll_FLAG_EYE_LOW l).quiet := quiet_link (laneReg_window (o := 8) (by decide) hl)
  have hflag : (F.SLK_Ll_FLAG_ADAPT_FAIL l).Apart (F.SLK_Ll_FLAG_EYE_LOW l) := Fld.apart_of_bits rfl
  have hne : R.SLK_Ll_STAT l ≠ R.SLK_Ll_FLAG l := by
    simp only [R.SLK_Ll_STAT, R.SLK_Ll_FLAG]
    omega
  have heye : (F.SLK_Ll_STAT_EYE l).Apart (F.SLK_Ll_FLAG_EYE_LOW l) := Fld.apart_of_ne hne
  have hpeak : (F.SLK_Ll_STAT_PEAK_ACT l).Apart (F.SLK_Ll_FLAG_EYE_LOW l) := Fld.apart_of_ne hne
  have hraised : ∀ (e : Dev) (b : Bool), (e.raiseIf b (F.SLK_Ll_FLAG_ADAPT_FAIL l)).val (F.SLK_Ll_FLAG_EYE_LOW l) =
      e.val (F.SLK_Ll_FLAG_EYE_LOW l) := fun e b => by
    cases b with
    | true => exact e.val_raise_apart hflag hq
    | false => rfl
  rw [Dev.laneAdapt_eq, hraised, Dev.val_of_regs (Dev.setLane_regs _ _ _), Dev.eyeShown, Dev.val_put_apart _ hpeak,
    Dev.val_put_apart _ heye]

/-- The block once a lane whose eye stayed low is out of service, its stream without deskew (R75). -/
def Dev.laneDropped (d : Dev) (l : Nat) : Dev :=
  (((d.raise (F.SLK_Ll_FLAG_EYE_LOW l)).setLane l { d.lane l with service := false, lowMs := 0 }).loseDeskew l).linkRefresh (l / 4)

theorem Dev.laneDropped_does (hopen : (d.lstr (d.laneStream l)).opened = none) :
    (d.laneDropped l).on (F.SLK_Ll_FLAG_EYE_LOW l) = true ∧ ((d.laneDropped l).lstr (d.laneStream l)).deskewed = false ∧
      ((d.laneDropped l).lane l).service = false ∧
      (d.laneDropped l).on (F.SLK_Ll_CTRL_ADAPT l) = d.on (F.SLK_Ll_CTRL_ADAPT l) := by
  obtain ⟨e, he⟩ : ∃ e, e = (d.raise (F.SLK_Ll_FLAG_EYE_LOW l)).setLane l { d.lane l with service := false, lowMs := 0 } :=
    ⟨_, rfl⟩
  have htouch : d.Touches (LaneShow l) e := by
    rw [he]
    exact ((Dev.Touches.refl _ d).raise (f := F.SLK_Ll_FLAG_EYE_LOW l) (.inr rfl)).setLane l _
  have hlane : e.lane l = { d.lane l with service := false, lowMs := 0 } := by rw [he, Dev.lane_setLane]
  have hlstr : ∀ q, e.lstr q = d.lstr q := fun q => by
    rw [he, Dev.lstr_setLane, Dev.lstr_of_slk (Dev.raise_slk _ _)]
  have hstream : e.laneStream l = d.laneStream l :=
    (htouch.mono fun _ ha => ha.laneReg hl).laneStream_eq hl (by rw [hlane])
  have hclosed : (e.lstr (e.laneStream l)).opened = none := by rw [hstream, hlstr, hopen]
  have hraised : e.on (F.SLK_Ll_FLAG_EYE_LOW l) = true := by
    rw [he]
    refine (Dev.on_congr (Dev.val_of_regs (Dev.setLane_regs _ _ _) _)).trans ?_
    exact Dev.on_raise_self _ rfl (by simp [F.SLK_Ll_FLAG_EYE_LOW]) (quiet_link (laneReg_window (o := 8) (by decide) hl))
  unfold Dev.laneDropped
  rw [← he]
  refine ⟨(Dev.on_congr (Dev.deskewLost_val hl hclosed (laneReg (o := 8) (by decide) hl))).trans hraised, ?_, ?_, ?_⟩
  · rw [← hstream]
    exact Dev.deskewLost_stream hclosed
  · rw [Dev.deskewLost_lane hclosed, hlane]
  · exact (Dev.on_congr (Dev.deskewLost_val hl hclosed (laneReg (o := 0) (by decide) hl))).trans
      (Dev.on_congr (htouch.lane_ctrl hl rfl))

/-- The block once a lane out of service has measured its eye again, with ADAPT (R75). -/
def Dev.eyeLowTaken (d : Dev) (l : Nat) (eyes : List (Nat × Nat)) : Dev :=
  let x := d.laneDropped l
  (if x.on (F.SLK_Ll_CTRL_ADAPT l) then x.laneAdapt l eyes else x).linkRefresh (l / 4)

/-- With ADAPT the lane measures its eye again, without it stays out of service. -/
theorem Dev.eyeLow_does (hopen : (d.lstr (d.laneStream l)).opened = none) (eyes : List (Nat × Nat)) :
    let e := d.eyeLowTaken l eyes
    e.on (F.SLK_Ll_FLAG_EYE_LOW l) = true ∧ (e.lstr (d.laneStream l)).deskewed = false ∧
      (d.on (F.SLK_Ll_CTRL_ADAPT l) = false → (e.lane l).service = false) := by
  obtain ⟨hlow, hdeskew, hservice, hadapt⟩ := Dev.laneDropped_does hl hopen
  intro e
  obtain ⟨x, hx⟩ : ∃ x, x = d.laneDropped l := ⟨_, rfl⟩
  rw [← hx] at hlow hdeskew hservice hadapt
  have he : e = (if x.on (F.SLK_Ll_CTRL_ADAPT l) then x.laneAdapt l eyes else x).linkRefresh (l / 4) := by
    rw [hx]
    rfl
  have hshown : e.on (F.SLK_Ll_FLAG_EYE_LOW l) =
      Dev.on (if x.on (F.SLK_Ll_CTRL_ADAPT l) then x.laneAdapt l eyes else x) (F.SLK_Ll_FLAG_EYE_LOW l) := by
    rw [he]
    exact Dev.on_congr (Dev.linkRefresh_laneVal hl _ (laneReg (o := 8) (by decide) hl))
  have hlstr : e.lstr (d.laneStream l) = x.lstr (d.laneStream l) := by
    rw [he, Dev.linkRefresh_lstr]
    split
    · exact Dev.laneAdapt_lstr _ _ _ _
    · rfl
  refine ⟨hshown.trans ?_, by rw [hlstr]; exact hdeskew, fun hoff => ?_⟩
  · split
    · exact (Dev.on_congr (Dev.laneAdapt_eyeLow hl x eyes)).trans hlow
    · exact hlow
  · rw [he, Dev.linkRefresh_lane, if_neg (by simp only [hadapt, hoff]; exact Bool.false_ne_true)]
    exact hservice

/-! ### PSTATE_ENTRY -/

/-- The power state that a lane is to enter: the one asked for, but P1 at least in HOLD (R76). -/
def Dev.pstateWant (d : Dev) (l : Nat) : Nat := max (min 2 (d.val (F.SLK_Ll_CTRL_PSTATE l))) (b2n d.holding)

omit hl in
theorem Dev.pstateWant_le (d : Dev) (l : Nat) : d.pstateWant l ≤ 2 := by
  have := b2n_lt d.holding
  unfold Dev.pstateWant
  omega

/-- The block once a lane is powered down: its locks and its service gone (R76). -/
def Dev.laneDown (d : Dev) (l : Nat) : Dev :=
  let e := ((d.put (F.SLK_Ll_STAT_PSTATE l) 2).mark (F.SLK_Ll_STAT_CDR_LOCK l) false).mark (F.SLK_Ll_STAT_BLOCK_LOCK l) false
  e.setLane l { e.lane l with service := false, mcount := none }

omit hl in
theorem Dev.laneDown_stat (d : Dev) (l : Nat) : (d.laneDown l).val (F.SLK_Ll_STAT_PSTATE l) = 2 ∧
    (d.laneDown l).on (F.SLK_Ll_STAT_CDR_LOCK l) = false ∧ (d.laneDown l).on (F.SLK_Ll_STAT_BLOCK_LOCK l) = false := by
  have hcdr : (F.SLK_Ll_STAT_CDR_LOCK l).Apart (F.SLK_Ll_STAT_PSTATE l) := Fld.apart_of_bits rfl
  have hblk : (F.SLK_Ll_STAT_BLOCK_LOCK l).Apart (F.SLK_Ll_STAT_PSTATE l) := Fld.apart_of_bits rfl
  have hlocks : (F.SLK_Ll_STAT_BLOCK_LOCK l).Apart (F.SLK_Ll_STAT_CDR_LOCK l) := Fld.apart_of_bits rfl
  unfold Dev.laneDown Dev.on
  dsimp only
  simp only [Dev.val_of_regs (Dev.setLane_regs _ _ _)]
  refine ⟨?_, ?_, ?_⟩
  · rw [Dev.val_mark_apart _ hblk, Dev.val_mark_apart _ hcdr, Dev.val_put_self _ (by simp [F.SLK_Ll_STAT_PSTATE])]
    rfl
  · rw [Dev.val_mark_apart _ hlocks, Dev.val_mark_self _ rfl (by simp [F.SLK_Ll_STAT_CDR_LOCK])]
    rfl
  · rw [Dev.val_mark_self _ rfl (by simp [F.SLK_Ll_STAT_BLOCK_LOCK])]
    rfl

omit hl in
theorem Dev.laneDown_held (d : Dev) (l : Nat) : ((d.laneDown l).lane l).mlane = (d.lane l).mlane ∧
    ∀ q, (d.laneDown l).lstr q = d.lstr q := by
  unfold Dev.laneDown
  extract_lets e
  have hslk : e.slk = d.slk := by
    simp only [e, Dev.mark_slk, Dev.put_slk]
  have hlane : (e.lane l).mlane = (d.lane l).mlane := congrArg Lane.mlane (Dev.lane_of_slk hslk l)
  rw [Dev.lane_setLane]
  exact ⟨hlane, fun q => (Dev.lstr_setLane _ _ _ _).trans (Dev.lstr_of_slk hslk q)⟩

theorem Dev.laneDown_closed (hopen : (d.lstr (d.laneStream l)).opened = none) :
    ((d.laneDown l).lstr ((d.laneDown l).laneStream l)).opened = none := by
  have htouch : d.Touches (LaneShow l) (d.laneDown l) :=
    ((((Dev.Touches.refl _ d).put (f := F.SLK_Ll_STAT_PSTATE l) (.inl rfl) 2).mark (f := F.SLK_Ll_STAT_CDR_LOCK l) (.inl rfl)
      false).mark (f := F.SLK_Ll_STAT_BLOCK_LOCK l) (.inl rfl) false).setLane l _
  obtain ⟨hmlane, hlstr⟩ := d.laneDown_held l
  rw [(htouch.mono fun _ ha => ha.laneReg hl).laneStream_eq hl hmlane, hlstr, hopen]

theorem Dev.pstateEnter_does (hopen : (d.lstr (d.laneStream l)).opened = none) (hskim : (d.lstr (d.laneStream l)).skim = none)
    (hne : d.pstateWant l ≠ d.val (F.SLK_Ll_STAT_PSTATE l)) (h2 : d.val (F.SLK_Ll_STAT_PSTATE l) ≠ 2) :
    let e := d.pstateEnter l
    e.val (F.SLK_Ll_STAT_PSTATE l) = d.pstateWant l ∧
      (d.pstateWant l = 2 → e.on (F.SLK_Ll_STAT_CDR_LOCK l) = false ∧ e.on (F.SLK_Ll_STAT_BLOCK_LOCK l) = false) ∧
      (d.pstateWant l < 2 → e.on (F.SLK_Ll_STAT_BLOCK_LOCK l) = d.on (F.SLK_Ll_STAT_BLOCK_LOCK l)) := by
  have hstat : LaneReg (R.SLK_Ll_STAT l) := laneReg (o := 4) (by decide) hl
  have hle := d.pstateWant_le l
  have henter : d.pstateEnter l = if d.pstateWant l < 2
      then (d.put (F.SLK_Ll_STAT_PSTATE l) (d.pstateWant l)).linkRefresh (l / 4)
      else ((d.laneDown l).loseDeskew l).linkRefresh (l / 4) := by
    unfold Dev.pstateEnter
    extract_lets want have' x e₁ e₂ e₃
    rw [if_neg (show ¬ want = have' from hne), if_neg (show ¬ have' = 2 from h2),
      if_neg (show ¬ (have' = 0 ∧ (x.opened.isSome ∨ x.skim.isSome)) by simp [x, hopen, hskim])]
    rfl
  intro e
  by_cases hlt : d.pstateWant l < 2
  · have he : e = (d.put (F.SLK_Ll_STAT_PSTATE l) (d.pstateWant l)).linkRefresh (l / 4) := henter.trans (if_pos hlt)
    have hblk : (F.SLK_Ll_STAT_PSTATE l).Apart (F.SLK_Ll_STAT_BLOCK_LOCK l) := Fld.apart_of_bits rfl
    rw [he]
    refine ⟨?_, fun h => absurd h (by omega), fun _ => Dev.on_congr ?_⟩
    · rw [Dev.linkRefresh_laneVal hl _ hstat, Dev.val_put_self _ (by simp [F.SLK_Ll_STAT_PSTATE])]
      exact Nat.mod_eq_of_lt (Nat.lt_of_lt_of_le hlt (by simp [F.SLK_Ll_STAT_PSTATE]))
    · rw [Dev.linkRefresh_laneVal hl _ hstat, Dev.val_put_apart _ hblk]
  · have he : e = ((d.laneDown l).loseDeskew l).linkRefresh (l / 4) := henter.trans (if_neg hlt)
    have hclosed := Dev.laneDown_closed hl hopen
    obtain ⟨hp, hcdr, hblk⟩ := d.laneDown_stat l
    rw [he]
    refine ⟨?_, fun _ => ⟨?_, ?_⟩, fun h => absurd h hlt⟩
    · rw [Dev.deskewLost_val hl hclosed hstat, hp]
      omega
    · exact (Dev.on_congr (Dev.deskewLost_val hl hclosed hstat)).trans hcdr
    · exact (Dev.on_congr (Dev.deskewLost_val hl hclosed hstat)).trans hblk

end

/-! ### The commands -/

section
variable {s : State} {l : Fin 64}

theorem eyeScan_does (h v : Nat) (hp : s.dev.val (F.SLK_Ll_STAT_PSTATE l) = 0)
    (hlock : s.dev.on (F.SLK_Ll_STAT_BLOCK_LOCK l) = true) :
    ∃ t, exec (.eyeScan l h v) s = .next t ∧ s.sameStores t ∧
      t.dev.val (F.SLK_Ll_STAT_EYE l) = min 252 (min (4 * h) (4 * v)) := by
  have hp' : s.quietened.dev.val (F.SLK_Ll_STAT_PSTATE l) = 0 := hp
  have hlock' : s.quietened.dev.on (F.SLK_Ll_STAT_BLOCK_LOCK l) = true := hlock
  have hexec : exec (.eyeScan l h v) s = .next { s with dev := s.quietened.dev.eyeScanned l (min 252 (min (4 * h) (4 * v))) } := by
    show execEyeScan l h v s = _
    unfold execEyeScan
    rw [onDev_next, if_neg (by simp [hp', hlock'])]
    rfl
  refine ⟨_, hexec, s.sameStores_of_dev _, ?_⟩
  exact Dev.eyeScanned_eye l.isLt _ (Nat.min_le_left _ _)

theorem pstateRequest_does (code : Fin 4) : ∃ t, exec (.pstateRequest l code) s = .next t ∧ s.sameStores t ∧
    t.dev.val (F.SLK_Ll_CTRL_PSTATE l) = code ∧ ∀ a, a ≠ R.SLK_Ll_CTRL l → t.dev.reg a = s.dev.reg a := by
  have hexec : exec (.pstateRequest l code) s = .next { s with dev := s.quietened.dev.put (F.SLK_Ll_CTRL_PSTATE l) code } :=
    (show exec (.pstateRequest l code) s = execPstateRequest l code s from rfl).trans (onDev_next _ s)
  refine ⟨_, hexec, s.sameStores_of_dev _, ?_, fun a ha => ?_⟩
  · exact (Dev.val_put_self _ (by simp [F.SLK_Ll_CTRL_PSTATE]) _).trans (Nat.mod_eq_of_lt code.isLt)
  · exact Dev.reg_put_ne _ (Dev.Touches.not_at rfl ha) _

theorem adaptRetry_does (eyes : List (Nat × Nat)) (hwant : s.dev.laneWanted l = true) (hfailed : (s.dev.lane l).failed = true)
    (hadapt : s.dev.on (F.SLK_Ll_CTRL_ADAPT l) = true) :
    ∃ t, exec (.adaptRetry l eyes) s = .next t ∧ s.sameStores t ∧
      t.dev.val (F.SLK_Ll_STAT_EYE l) = min 252 (adapt eyes).2 ∧
      (min 252 (adapt eyes).2 < s.dev.val (F.SLK_Ll_CTRL_EYE_MIN l) →
        t.dev.on (F.SLK_Ll_FLAG_ADAPT_FAIL l) = true ∧ (t.dev.lane l).service = false) := by
  have hwant' : s.quietened.dev.laneWanted l = true := hwant
  have hfailed' : (s.quietened.dev.lane l).failed = true := hfailed
  have hexec : exec (.adaptRetry l eyes) s = .next { s with dev :=
      ((s.quietened.dev.reach (s.quietened.dev.lane l).retryAt).laneAdapt l eyes).linkRefresh (l / 4) } := by
    show execAdaptRetry l eyes s = _
    unfold execAdaptRetry
    rw [onDev_next, if_neg (by simp [hwant', hfailed'])]
  exact ⟨_, hexec, s.sameStores_of_dev _, Dev.adaptRetry_does (d := s.quietened.dev) l.isLt hadapt _ eyes⟩

theorem eyeLow_does (eyes : List (Nat × Nat)) (hopen : (s.dev.lstr (s.dev.laneStream l)).opened = none)
    (hp : s.dev.val (F.SLK_Ll_STAT_PSTATE l) = 0) (hservice : (s.dev.lane l).service = true)
    (hlow : max 1 (s.dev.val (F.SLK_Ll_CTRL_EYE_DWELL l)) ≤ (s.dev.lane l).lowMs) :
    ∃ t, exec (.eyeLow l eyes) s = .next t ∧ s.sameStores t ∧ t.dev.on (F.SLK_Ll_FLAG_EYE_LOW l) = true ∧
      (t.dev.lstr (s.dev.laneStream l)).deskewed = false ∧
      (s.dev.on (F.SLK_Ll_CTRL_ADAPT l) = false → (t.dev.lane l).service = false) := by
  have hp' : s.quietened.dev.val (F.SLK_Ll_STAT_PSTATE l) = 0 := hp
  have hservice' : (s.quietened.dev.lane l).service = true := hservice
  have hlow' : ¬ (s.quietened.dev.lane l).lowMs < max 1 (s.quietened.dev.val (F.SLK_Ll_CTRL_EYE_DWELL l)) := Nat.not_lt.2 hlow
  have hexec : exec (.eyeLow l eyes) s = .next { s with dev := s.quietened.dev.eyeLowTaken l eyes } := by
    show execEyeLow l eyes s = _
    unfold execEyeLow
    rw [onDev_next]
    dsimp only
    rw [if_neg (by simp [hp', hservice', hlow'])]
    rfl
  exact ⟨_, hexec, s.sameStores_of_dev _, Dev.eyeLow_does (d := s.quietened.dev) l.isLt hopen eyes⟩

end

/-- Settles O26: each clause reads the lane's registers through what the loss of a deskew and the link of the port leave
as they are. -/
theorem sensorLanesFollowTheirEye : Obligations.SensorLanesFollowTheirEye := by
  intro s l eyes d hopen hskim
  refine ⟨fun hwant hdown => ?_, fun hwant hfailed hadapt => adaptRetry_does eyes hwant hfailed hadapt,
    fun h v hp hlock => eyeScan_does h v hp hlock, fun hp hservice hlow => eyeLow_does eyes hopen hp hservice hlow,
    fun code => pstateRequest_does code, fun hne h2 => ?_⟩
  · exact ⟨_, (show exec (.laneBringUp l eyes) s = execLaneBringUp l eyes s from rfl).trans (onDev_next _ s),
      s.sameStores_of_dev _, Dev.laneBringUp_does (d := s.quietened.dev) l.isLt hopen hwant hdown eyes⟩
  · exact ⟨_, (show exec (.pstateEntry l) s = execPstateEntry l s from rfl).trans (onDev_next _ s), s.sameStores_of_dev _,
      Dev.pstateEnter_does (d := s.quietened.dev) l.isLt hopen hskim hne h2⟩

end Sys2Proof.Machine
end

/-! PROOFS. LaneErrorsAreCounted (R78 to R81). -/
section
-- One lemma at a time: elaborated side by side they take more threads than the check's memory limit leaves room for.
set_option Elab.async false
namespace Sys2Proof.Machine

section
variable {d : Dev} {l : Nat}

/-- The flags of a lane are none of ICU's or EVT's. -/
theorem quiet_laneFlag {f : Fld} (hl : l < 64) (hf : f.addr = R.SLK_Ll_FLAG l)
    (hn : (f.lo + f.len).ble 32 = true := by rfl) : f.quiet :=
  quiet_link (by rw [hf]; exact laneReg_window (o := 8) (by decide) hl) hn

/-! ### INVALID_SYNC_HEADER -/

/-- The block once an invalid sync header of a lane is counted (R78). -/
def Dev.headerCounted (d : Dev) (l : Nat) : Dev :=
  let e := d.inc (F.SLK_Ll_SH_ERR_CNT l)
  e.setLane l { e.lane l with shTimes := (e.now :: (e.lane l).shTimes).take 16 }

theorem Dev.headerCounted_does (d : Dev) (l : Nat) :
    (d.headerCounted l).val (F.SLK_Ll_SH_ERR_CNT l) = min 0xFFFFFFFF (d.val (F.SLK_Ll_SH_ERR_CNT l) + 1) ∧
      ((d.headerCounted l).lane l).shTimes = (d.now :: (d.lane l).shTimes).take 16 ∧
      d.sameRegsBut (d.headerCounted l) [F.SLK_Ll_SH_ERR_CNT l] := by
  have htouch : d.Touches (F.SLK_Ll_SH_ERR_CNT l).At (d.headerCounted l) :=
    ((Dev.Touches.refl _ d).inc (f := F.SLK_Ll_SH_ERR_CNT l) (.inl rfl)).setLane l _
  refine ⟨?_, ?_, htouch.sameRegsBut fun a ha => ⟨_, List.mem_singleton_self _, ha⟩⟩
  · unfold Dev.headerCounted
    extract_lets e
    rw [Dev.val_of_regs (Dev.setLane_regs _ _ _)]
    exact Dev.val_inc_self _ rfl rfl
  · unfold Dev.headerCounted
    extract_lets e
    have hlane : e.lane l = d.lane l := Dev.lane_of_slk (Dev.put_slk _ _ _) l
    have hnow : e.now = d.now := Dev.put_now _ _ _
    rw [Dev.lane_setLane, hlane, hnow]

/-! ### LOCK_LOST -/

/-- The block once the loss of a lane's lock is counted and flagged, before its stream loses its deskew (R78). -/
def Dev.lockDropped (d : Dev) (l : Nat) : Dev :=
  (((((d.inc (F.SLK_Ll_LOCK_LOST_CNT l)).raise (F.SLK_Ll_FLAG_LOCK_LOST l)).mark (F.SLK_Ll_STAT_BLOCK_LOCK l) false).mark
    (F.SLK_Ll_STAT_CDR_LOCK l) false).setLane l { d.lane l with shTimes := [], service := false, mcount := none })

theorem Dev.lockDropped_held (d : Dev) (l : Nat) :
    (d.lockDropped l).lane l = { d.lane l with shTimes := [], service := false, mcount := none } ∧
      ∀ q, (d.lockDropped l).lstr q = d.lstr q := by
  unfold Dev.lockDropped
  refine ⟨Dev.lane_setLane _ _ _, fun q => ?_⟩
  rw [Dev.lstr_setLane]
  exact Dev.lstr_of_slk (by rw [Dev.mark_slk, Dev.mark_slk, Dev.raise_slk]; exact Dev.put_slk _ _ _) q

theorem Dev.lockDropped_touches (hl : l < 64) (d : Dev) : d.Touches LaneReg (d.lockDropped l) := by
  have hstat : LaneReg (R.SLK_Ll_STAT l) := laneReg (o := 4) (by decide) hl
  have hflag : LaneReg (R.SLK_Ll_FLAG l) := laneReg (o := 8) (by decide) hl
  have hcnt : LaneReg (R.SLK_Ll_LOCK_LOST_CNT l) := laneReg (o := 0x10) (by decide) hl
  exact (((((Dev.Touches.refl _ d).inc (f := F.SLK_Ll_LOCK_LOST_CNT l) hcnt).raise (f := F.SLK_Ll_FLAG_LOCK_LOST l) hflag).mark
    (f := F.SLK_Ll_STAT_BLOCK_LOCK l) hstat false).mark (f := F.SLK_Ll_STAT_CDR_LOCK l) hstat false).setLane l _

theorem Dev.lockDropped_regs (hl : l < 64) (d : Dev) : (d.lockDropped l).on (F.SLK_Ll_FLAG_LOCK_LOST l) = true ∧
    (d.lockDropped l).val (F.SLK_Ll_LOCK_LOST_CNT l) = min 0xFFFFFFFF (d.val (F.SLK_Ll_LOCK_LOST_CNT l) + 1) ∧
    (d.lockDropped l).on (F.SLK_Ll_STAT_BLOCK_LOCK l) = false ∧ (d.lockDropped l).on (F.SLK_Ll_STAT_CDR_LOCK l) = false := by
  have hflagOf : R.SLK_Ll_STAT l ≠ R.SLK_Ll_FLAG l := by simp only [R.SLK_Ll_STAT, R.SLK_Ll_FLAG]; omega
  have hcntOf : R.SLK_Ll_STAT l ≠ R.SLK_Ll_LOCK_LOST_CNT l := by simp only [R.SLK_Ll_STAT, R.SLK_Ll_LOCK_LOST_CNT]; omega
  have hflagCnt : R.SLK_Ll_FLAG l ≠ R.SLK_Ll_LOCK_LOST_CNT l := by simp only [R.SLK_Ll_FLAG, R.SLK_Ll_LOCK_LOST_CNT]; omega
  have hcdrFlag : (F.SLK_Ll_STAT_CDR_LOCK l).Apart (F.SLK_Ll_FLAG_LOCK_LOST l) := Fld.apart_of_ne hflagOf
  have hblkFlag : (F.SLK_Ll_STAT_BLOCK_LOCK l).Apart (F.SLK_Ll_FLAG_LOCK_LOST l) := Fld.apart_of_ne hflagOf
  have hcdrCnt : (F.SLK_Ll_STAT_CDR_LOCK l).Apart (F.SLK_Ll_LOCK_LOST_CNT l) := Fld.apart_of_ne hcntOf
  have hblkCnt : (F.SLK_Ll_STAT_BLOCK_LOCK l).Apart (F.SLK_Ll_LOCK_LOST_CNT l) := Fld.apart_of_ne hcntOf
  have hflCnt : (F.SLK_Ll_FLAG_LOCK_LOST l).Apart (F.SLK_Ll_LOCK_LOST_CNT l) := Fld.apart_of_ne hflagCnt
  have hlocks : (F.SLK_Ll_STAT_CDR_LOCK l).Apart (F.SLK_Ll_STAT_BLOCK_LOCK l) := Fld.apart_of_bits rfl
  have hq : (F.SLK_Ll_LOCK_LOST_CNT l).quiet := quiet_link (laneReg_window (o := 0x10) (by decide) hl)
  unfold Dev.lockDropped Dev.on
  simp only [Dev.val_of_regs (Dev.setLane_regs _ _ _)]
  refine ⟨?_, ?_, ?_, ?_⟩
  · rw [Dev.val_mark_apart _ hcdrFlag, Dev.val_mark_apart _ hblkFlag]
    exact Dev.on_raise_self _ rfl (by simp [F.SLK_Ll_FLAG_LOCK_LOST]) (quiet_laneFlag hl rfl)
  · rw [Dev.val_mark_apart _ hcdrCnt, Dev.val_mark_apart _ hblkCnt, Dev.val_raise_apart _ hflCnt hq, Dev.val_inc_self _ rfl rfl]
  · rw [Dev.val_mark_apart _ hlocks, Dev.val_mark_self _ rfl (by simp [F.SLK_Ll_STAT_BLOCK_LOCK])]
    rfl
  · rw [Dev.val_mark_self _ rfl (by simp [F.SLK_Ll_STAT_CDR_LOCK])]
    rfl

theorem Dev.lockDropped_closed (hl : l < 64) (hopen : (d.lstr (d.laneStream l)).opened = none) :
    ((d.lockDropped l).lstr ((d.lockDropped l).laneStream l)).opened = none := by
  obtain ⟨hlane, hlstr⟩ := d.lockDropped_held l
  rw [(Dev.lockDropped_touches hl d).laneStream_eq hl (by rw [hlane]), hlstr, hopen]

/-! ### BLK_ERR -/

/-- The block once a block in error of a lane is counted and flagged (R79). -/
def Dev.blockCounted (d : Dev) (l : Nat) : Dev := (d.inc (F.SLK_Ll_BLK_ERR_CNT l)).raise (F.SLK_Ll_FLAG_BLK_ERR l)

/-- The line that stream `q` receives is poisoned. -/
def Dev.linePoisoned (d : Dev) (q : Nat) : Dev :=
  match (d.lstr q).opened with
  | none => d
  | some o => d.setLstr q { d.lstr q with opened := some { o with poison := true } }

theorem Dev.linePoisoned_regs (d : Dev) (q : Nat) : (d.linePoisoned q).regs = d.regs := by
  unfold Dev.linePoisoned
  split
  · rfl
  · exact Dev.setLstr_regs _ _ _

theorem Dev.linePoisoned_touches {W : Nat → Prop} (d : Dev) (q : Nat) : d.Touches W (d.linePoisoned q) := by
  unfold Dev.linePoisoned
  split
  · exact .refl _ d
  · exact (Dev.Touches.refl _ d).setLstr _ _

theorem Dev.linePoisoned_opened {q : Nat} {o : OpenLine} (h : (d.lstr q).opened = some o) :
    ((d.linePoisoned q).lstr q).opened = some { o with poison := true } := by
  unfold Dev.linePoisoned
  rw [h, Dev.lstr_setLstr]

theorem Dev.blockCounted_slk (d : Dev) (l : Nat) : (d.blockCounted l).slk = d.slk :=
  (Dev.raise_slk _ _).trans (Dev.put_slk _ _ _)

theorem Dev.blockCounted_touches (d : Dev) (l : Nat) :
    d.Touches (fun a => a = R.SLK_Ll_FLAG l ∨ a = R.SLK_Ll_BLK_ERR_CNT l) (d.blockCounted l) :=
  ((Dev.Touches.refl _ d).inc (f := F.SLK_Ll_BLK_ERR_CNT l) (.inr rfl)).raise (f := F.SLK_Ll_FLAG_BLK_ERR l) (.inl rfl)

theorem Dev.blockCounted_regs (hl : l < 64) (d : Dev) : (d.blockCounted l).on (F.SLK_Ll_FLAG_BLK_ERR l) = true ∧
    (d.blockCounted l).val (F.SLK_Ll_BLK_ERR_CNT l) = min 0xFFFFFFFF (d.val (F.SLK_Ll_BLK_ERR_CNT l) + 1) := by
  have hne : R.SLK_Ll_FLAG l ≠ R.SLK_Ll_BLK_ERR_CNT l := by simp only [R.SLK_Ll_FLAG, R.SLK_Ll_BLK_ERR_CNT]; omega
  have hcnt : (F.SLK_Ll_FLAG_BLK_ERR l).Apart (F.SLK_Ll_BLK_ERR_CNT l) := Fld.apart_of_ne hne
  refine ⟨Dev.on_raise_self _ rfl (by simp [F.SLK_Ll_FLAG_BLK_ERR]) (quiet_laneFlag hl rfl), ?_⟩
  unfold Dev.blockCounted
  rw [Dev.val_raise_apart _ hcnt (quiet_link (laneReg_window (o := 0x14) (by decide) hl)), Dev.val_inc_self _ rfl rfl]

/-- A block in error leaves the stream of its lane. -/
theorem Dev.blockCounted_stream (hl : l < 64) (d : Dev) : (d.blockCounted l).laneStream l = d.laneStream l := by
  refine ((d.blockCounted_touches l).mono fun a ha => ?_).laneStream_eq hl
    (congrArg Lane.mlane (Dev.lane_of_slk (d.blockCounted_slk l) l))
  rcases ha with rfl | rfl
  · exact laneReg (o := 8) (by decide) hl
  · exact laneReg (o := 0x14) (by decide) hl

/-! ### Markers -/

/-- What a lane holds after a bad marker (R81). -/
def Lane.markerBad (x : Lane) (mcount : Option Nat) (slot : Nat) : Lane :=
  { x with mbad := x.mbad + 1, mcount := mcount, mslot := slot, service := x.service && decide (x.mbad + 1 < 4) }

/-- The block once a bad marker is counted, flagged and entered in its lane. -/
def Dev.markerCounted (d : Dev) (l : Nat) (mcount : Option Nat) (slot : Nat) : Dev :=
  ((d.inc (F.SLK_CPp_MARKER_ERR_CNT (l / 4))).raise (F.SLK_CPp_FLAG_MARKER_ERR (l / 4))).setLane l
    ((d.lane l).markerBad mcount slot)

theorem portReg_window {o p : Nat} (ho : o < 0x40) (hp : p < 16) : (0x40122000 + o + p * 0x40) / 0x10000 = 0x4012 := by omega

section
variable {mcount : Option Nat} {slot : Nat}

theorem Dev.markerCounted_held (d : Dev) (l : Nat) (mcount : Option Nat) (slot : Nat) :
    (d.markerCounted l mcount slot).lane l = (d.lane l).markerBad mcount slot ∧
      ∀ q, (d.markerCounted l mcount slot).lstr q = d.lstr q := by
  unfold Dev.markerCounted
  refine ⟨Dev.lane_setLane _ _ _, fun q => ?_⟩
  rw [Dev.lstr_setLane]
  exact Dev.lstr_of_slk ((Dev.raise_slk _ _).trans (Dev.put_slk _ _ _)) q

theorem Dev.markerCounted_regs (hl : l < 64) (d : Dev) :
    (d.markerCounted l mcount slot).on (F.SLK_CPp_FLAG_MARKER_ERR (l / 4)) = true ∧
      (d.markerCounted l mcount slot).val (F.SLK_CPp_MARKER_ERR_CNT (l / 4)) =
        min 0xFFFFFFFF (d.val (F.SLK_CPp_MARKER_ERR_CNT (l / 4)) + 1) := by
  have hp : l / 4 < 16 := by omega
  have hne : R.SLK_CPp_FLAG (l / 4) ≠ R.SLK_CPp_MARKER_ERR_CNT (l / 4) := by
    simp only [R.SLK_CPp_FLAG, R.SLK_CPp_MARKER_ERR_CNT]
    omega
  have hcnt : (F.SLK_CPp_FLAG_MARKER_ERR (l / 4)).Apart (F.SLK_CPp_MARKER_ERR_CNT (l / 4)) := Fld.apart_of_ne hne
  unfold Dev.markerCounted Dev.on
  simp only [Dev.val_of_regs (Dev.setLane_regs _ _ _)]
  refine ⟨?_, ?_⟩
  · exact Dev.on_raise_self _ rfl (by simp [F.SLK_CPp_FLAG_MARKER_ERR]) (quiet_link (portReg_window (o := 8) (by decide) hp))
  · rw [Dev.val_raise_apart _ hcnt (quiet_link (portReg_window (o := 0x10) (by decide) hp)), Dev.val_inc_self _ rfl rfl]

theorem Dev.markerCounted_stream (hl : l < 64) (d : Dev) : (d.markerCounted l mcount slot).laneStream l = d.laneStream l := by
  have hcfg : ∀ {o}, o < 0x40 → 0 < o → R.SLK_CPp_CFG (l / 4) ≠ 0x40122000 + o + l / 4 * 0x40 := fun ho h0 => by
    simp only [R.SLK_CPp_CFG]
    omega
  have htouch : d.Touches (fun a => a ≠ R.SLK_CPp_CFG (l / 4)) (d.markerCounted l mcount slot) :=
    (((Dev.Touches.refl _ d).inc (f := F.SLK_CPp_MARKER_ERR_CNT (l / 4)) (hcfg (o := 0x10) (by decide) (by decide)).symm).raise
      (f := F.SLK_CPp_FLAG_MARKER_ERR (l / 4)) (hcfg (o := 8) (by decide) (by decide)).symm).setLane l _
  obtain ⟨hlane, -⟩ := d.markerCounted_held l mcount slot
  exact Dev.laneStream_congr (htouch.reg _ (fun h => h rfl)
    (evIcu_of_window (w := 0x4012) (by simp only [R.SLK_CPp_CFG]; omega) (by decide) (by decide))) (by rw [hlane]; rfl)

/-- Four bad markers in a row take the deskew of the lane's stream, others nothing more. -/
theorem Dev.badMarker_eq (d : Dev) (l : Nat) (mcount : Option Nat) (slot : Nat) : d.badMarker l mcount slot =
    if (d.lane l).mbad + 1 = 4 then ((d.markerCounted l mcount slot).loseDeskew l).linkRefresh (l / 4)
    else d.markerCounted l mcount slot := by
  have hlane : ((d.inc (F.SLK_CPp_MARKER_ERR_CNT (l / 4))).raise (F.SLK_CPp_FLAG_MARKER_ERR (l / 4))).lane l = d.lane l :=
    Dev.lane_of_slk ((Dev.raise_slk _ _).trans (Dev.put_slk _ _ _)) l
  unfold Dev.badMarker
  extract_lets e x e'
  have hx : x = d.lane l := hlane
  have he' : e' = d.markerCounted l mcount slot := by
    simp only [e', e, hx, Dev.markerCounted, Lane.markerBad]
  rw [hx, he']

/-- A bad marker is flagged and counted at its port, and entered in its lane. -/
theorem Dev.badMarker_does (hl : l < 64) (hopen : (d.lstr (d.laneStream l)).opened = none) (mcount : Option Nat) (slot : Nat) :
    let e := d.badMarker l mcount slot
    e.on (F.SLK_CPp_FLAG_MARKER_ERR (l / 4)) = true ∧ e.lane l = (d.lane l).markerBad mcount slot ∧
      e.val (F.SLK_CPp_MARKER_ERR_CNT (l / 4)) = min 0xFFFFFFFF (d.val (F.SLK_CPp_MARKER_ERR_CNT (l / 4)) + 1) := by
  obtain ⟨hflag, hcnt⟩ := Dev.markerCounted_regs (mcount := mcount) (slot := slot) hl d
  obtain ⟨hlane, hlstr⟩ := d.markerCounted_held l mcount slot
  have hclosed : ((d.markerCounted l mcount slot).lstr ((d.markerCounted l mcount slot).laneStream l)).opened = none := by
    rw [Dev.markerCounted_stream hl, hlstr, hopen]
  intro e
  have he : e = if (d.lane l).mbad + 1 = 4 then ((d.markerCounted l mcount slot).loseDeskew l).linkRefresh (l / 4)
      else d.markerCounted l mcount slot := d.badMarker_eq l mcount slot
  rw [he]
  split
  · have hp : l / 4 < 16 := by omega
    have hne : ∀ {o o' : Nat}, o < o' → 0x40122000 + o + l / 4 * 0x40 ≠ 0x40122000 + o' + l / 4 * 0x40 := fun ho => by omega
    have hval : ∀ {g : Fld}, (F.SLK_CPp_STAT_STREAM_UP (l / 4)).Apart g → (F.SLK_CPp_STAT_LINK_OK (l / 4)).Apart g →
        (F.SLK_CPp_FLAG_LINK_UP (l / 4)).Apart g → (F.SLK_CPp_FLAG_LINK_DOWN (l / 4)).Apart g →
        (F.SLK_CPp_LINK_DOWN_CNT (l / 4)).Apart g → g.quiet →
        (((d.markerCounted l mcount slot).loseDeskew l).linkRefresh (l / 4)).val g = (d.markerCounted l mcount slot).val g :=
      fun h₁ h₂ h₃ h₄ h₅ hq => by
        rw [Dev.linkRefresh_val _ _ h₁ h₂ h₃ h₄ h₅ hq, Dev.loseDeskew_of_closed hclosed]
        exact Dev.val_of_regs (Dev.setLstr_regs _ _ _) _
    refine ⟨?_, by rw [Dev.deskewLost_lane hclosed, hlane], ?_⟩
    · refine (Dev.on_congr (hval ?_ ?_ ?_ ?_ ?_ (quiet_link (portReg_window (o := 8) (by decide) hp)))).trans hflag
      · exact Fld.apart_of_ne (hne (o := 4) (o' := 8) (by decide))
      · exact Fld.apart_of_ne (hne (o := 4) (o' := 8) (by decide))
      · exact Fld.apart_of_bits rfl
      · exact Fld.apart_of_bits rfl
      · exact Fld.apart_of_ne (hne (o := 8) (o' := 0xC) (by decide)).symm
    · refine (hval ?_ ?_ ?_ ?_ ?_ (quiet_link (portReg_window (o := 0x10) (by decide) hp))).trans hcnt
      · exact Fld.apart_of_ne (hne (o := 4) (o' := 0x10) (by decide))
      · exact Fld.apart_of_ne (hne (o := 4) (o' := 0x10) (by decide))
      · exact Fld.apart_of_ne (hne (o := 8) (o' := 0x10) (by decide))
      · exact Fld.apart_of_ne (hne (o := 8) (o' := 0x10) (by decide))
      · exact Fld.apart_of_ne (hne (o := 0xC) (o' := 0x10) (by decide))
  · exact ⟨hflag, hlane, hcnt⟩

end

/-- The alignment of a stream's lanes leaves what the lanes hold. -/
@[simp] theorem Dev.deskew_lane (d : Dev) (q k : Nat) : (d.deskew q).lane k = d.lane k := by
  unfold Dev.deskew
  extract_lets ls ms slots same skew e
  split
  · rfl
  · split
    · exact (Dev.lane_setLstr _ _ _ _).trans (Dev.lane_of_slk (Dev.raise_slk _ _) k)
    · exact (Dev.lane_setLstr _ _ _ _).trans (Dev.lane_of_slk (Dev.put_slk _ _ _) k)

/-- A good marker leaves its lane, its MCOUNT and no bad marker in its lane. -/
theorem Dev.goodMarker_lane (d : Dev) (l idx pid mc slot : Nat) : ((d.goodMarker l idx pid mc slot).lane l).mcount = some mc ∧
    ((d.goodMarker l idx pid mc slot).lane l).mbad = 0 ∧ ((d.goodMarker l idx pid mc slot).lane l).mlane = some idx := by
  unfold Dev.goodMarker
  extract_lets p x auto misorder badId back e e' e''
  have hlane : e''.lane l = e.lane l :=
    Dev.lane_of_slk ((Dev.raiseIf_slk _ _ _).trans ((Dev.raiseIf_slk _ _ _).trans (Dev.put_slk _ _ _))) l
  rw [Dev.linkRefresh_lane, Dev.deskew_lane, hlane]
  simp only [e, Dev.lane_setLane, and_self]

end

/-! ### The commands -/

section
variable {s : State} {l : Fin 64}

theorem invalidSyncHeader_does (hidle : s.dev.on (F.SLK_Ll_STAT_IDLE l) = false) :
    ∃ t, exec (.invalidSyncHeader l) s = .next t ∧ s.sameStores t ∧
      t.dev.val (F.SLK_Ll_SH_ERR_CNT l) = min 0xFFFFFFFF (s.dev.val (F.SLK_Ll_SH_ERR_CNT l) + 1) ∧
      (t.dev.lane l).shTimes = (s.dev.now :: (s.dev.lane l).shTimes).take 16 ∧
      s.dev.sameRegsBut t.dev [F.SLK_Ll_SH_ERR_CNT l] := by
  have hidle' : s.quietened.dev.on (F.SLK_Ll_STAT_IDLE l) = false := hidle
  have hexec : exec (.invalidSyncHeader l) s = .next { s with dev := s.quietened.dev.headerCounted l } := by
    show execInvalidSyncHeader l s = _
    unfold execInvalidSyncHeader
    rw [onDev_next, if_neg (by simp [hidle'])]
    rfl
  exact ⟨_, hexec, s.sameStores_of_dev _, Dev.headerCounted_does s.quietened.dev l⟩

theorem lockLost_does (hp : s.dev.val (F.SLK_Ll_STAT_PSTATE l) = 0) (hlock : s.dev.on (F.SLK_Ll_STAT_BLOCK_LOCK l) = true)
    (hlen : (s.dev.lane l).shTimes.length = 16)
    (hnear : (s.dev.lane l).shTimes.headD 0 ≤ (s.dev.lane l).shTimes.getLastD 0 + 323)
    (hopen : (s.dev.lstr (s.dev.laneStream l)).opened = none) :
    ∃ t, exec (.lockLost l) s = .next t ∧ s.sameStores t ∧ t.dev.on (F.SLK_Ll_FLAG_LOCK_LOST l) = true ∧
      t.dev.val (F.SLK_Ll_LOCK_LOST_CNT l) = min 0xFFFFFFFF (s.dev.val (F.SLK_Ll_LOCK_LOST_CNT l) + 1) ∧
      t.dev.on (F.SLK_Ll_STAT_BLOCK_LOCK l) = false ∧ t.dev.on (F.SLK_Ll_STAT_CDR_LOCK l) = false ∧
      (t.dev.lane l).service = false := by
  have hp' : s.quietened.dev.val (F.SLK_Ll_STAT_PSTATE l) = 0 := hp
  have hlock' : s.quietened.dev.on (F.SLK_Ll_STAT_BLOCK_LOCK l) = true := hlock
  have hlen' : (s.quietened.dev.lane l).shTimes.length = 16 := hlen
  have hnear' : (s.quietened.dev.lane l).shTimes.headD 0 ≤ (s.quietened.dev.lane l).shTimes.getLastD 0 + 323 := hnear
  have hexec : exec (.lockLost l) s = .next { s with dev :=
      ((s.quietened.dev.lockDropped l).loseDeskew l).linkRefresh (l / 4) } := by
    show execLockLost l s = _
    unfold execLockLost
    rw [onDev_next]
    dsimp only
    rw [if_neg (by simp only [hp', hlock', hlen', hnear', bne_self_eq_false, Bool.not_true, beq_self_eq_true, decide_true,
      Bool.and_self, Bool.or_self, Bool.false_eq_true, not_false_eq_true])]
    rfl
  have hclosed := Dev.lockDropped_closed (d := s.quietened.dev) l.isLt hopen
  obtain ⟨hflag, hcnt, hblk, hcdr⟩ := Dev.lockDropped_regs l.isLt s.quietened.dev
  have hstat : LaneReg (R.SLK_Ll_STAT l) := laneReg (o := 4) (by decide) l.isLt
  refine ⟨_, hexec, s.sameStores_of_dev _, ?_, ?_, ?_, ?_, ?_⟩
  · exact (Dev.on_congr (Dev.deskewLost_val l.isLt hclosed (laneReg (o := 8) (by decide) l.isLt))).trans hflag
  · exact (Dev.deskewLost_val l.isLt hclosed (laneReg (o := 0x10) (by decide) l.isLt)).trans hcnt
  · exact (Dev.on_congr (Dev.deskewLost_val l.isLt hclosed hstat)).trans hblk
  · exact (Dev.on_congr (Dev.deskewLost_val l.isLt hclosed hstat)).trans hcdr
  · rw [Dev.deskewLost_lane hclosed, (s.quietened.dev.lockDropped_held l).1]

theorem blkErr_does (hlock : s.dev.on (F.SLK_Ll_STAT_BLOCK_LOCK l) = true) :
    ∃ t, exec (.blkErr l) s = .next t ∧ s.sameStores t ∧ t.dev.on (F.SLK_Ll_FLAG_BLK_ERR l) = true ∧
      t.dev.val (F.SLK_Ll_BLK_ERR_CNT l) = min 0xFFFFFFFF (s.dev.val (F.SLK_Ll_BLK_ERR_CNT l) + 1) ∧
      (∀ o, (s.dev.lstr (s.dev.laneStream l)).opened = some o →
        (t.dev.lstr (s.dev.laneStream l)).opened = some { o with poison := true }) ∧
      s.dev.sameRegsBut t.dev [F.SLK_Ll_FLAG_BLK_ERR l, F.SLK_Ll_BLK_ERR_CNT l] := by
  have hlock' : s.quietened.dev.on (F.SLK_Ll_STAT_BLOCK_LOCK l) = true := hlock
  obtain ⟨d, hd⟩ : ∃ d, d = s.quietened.dev := ⟨_, rfl⟩
  have hexec : exec (.blkErr l) s = .next { s with dev := (d.blockCounted l).linePoisoned (d.laneStream l) } := by
    show execBlkErr l s = _
    rw [← Dev.blockCounted_stream l.isLt d, hd]
    unfold execBlkErr
    rw [onDev_next, if_neg (by simp [hlock'])]
    rfl
  obtain ⟨hflag, hcnt⟩ := Dev.blockCounted_regs l.isLt d
  have hregs := (d.blockCounted l).linePoisoned_regs (d.laneStream l)
  have htouch := (d.blockCounted_touches l).trans ((d.blockCounted l).linePoisoned_touches (d.laneStream l))
  have hopened : ∀ o, (d.lstr (d.laneStream l)).opened = some o →
      (((d.blockCounted l).linePoisoned (d.laneStream l)).lstr (d.laneStream l)).opened = some { o with poison := true } :=
    fun o ho => Dev.linePoisoned_opened (by rw [Dev.lstr_of_slk (d.blockCounted_slk l), ho])
  have hsame : d.sameRegsBut ((d.blockCounted l).linePoisoned (d.laneStream l))
      [F.SLK_Ll_FLAG_BLK_ERR l, F.SLK_Ll_BLK_ERR_CNT l] := htouch.sameRegsBut fun a ha => by
    rcases ha with rfl | rfl
    · exact ⟨F.SLK_Ll_FLAG_BLK_ERR l, by simp, .inl rfl⟩
    · exact ⟨F.SLK_Ll_BLK_ERR_CNT l, by simp, .inl rfl⟩
  refine ⟨_, hexec, s.sameStores_of_dev _, (Dev.on_congr (Dev.val_of_regs hregs _)).trans hflag,
    (Dev.val_of_regs hregs _).trans ?_, ?_, ?_⟩
  · rw [hcnt, hd]
    exact congrArg (fun n => min 0xFFFFFFFF (n + 1)) (s.quietened_val _)
  · rw [hd] at hopened ⊢
    exact hopened
  · rw [hd] at hsame ⊢
    exact hsame

/-- A marker whose CRC-8 holds and whose MCOUNT follows the lane's last (R80, R81). -/
def Lane.goodMarker (x : Lane) (bytes : List Byte) : Prop :=
  crc8 ((bytes.drop 1).take 6) = leAt bytes 7 1 ∧
    (x.mcount = none ∨ x.mcount.map (fun m => (m + 1) % 2 ^ 24) = some (leAt bytes 3 3))

/-- A marker on a lane that has its lock in P0 is taken as the good one it is, or as a bad one. -/
theorem exec_marker (bytes : List Byte) (slot : Nat) (hlock : s.dev.on (F.SLK_Ll_STAT_BLOCK_LOCK l) = true)
    (hp : s.dev.val (F.SLK_Ll_STAT_PSTATE l) = 0) :
    ((s.dev.lane l).goodMarker bytes → exec (.marker l bytes slot) s = .next { s with dev :=
      (s.quietened.dev.goodMarker l (leAt bytes 1 1 % 4) (leAt bytes 2 1) (leAt bytes 3 3) slot) }) ∧
    (¬ (s.dev.lane l).goodMarker bytes → ∃ m, exec (.marker l bytes slot) s = .next { s with dev :=
      (s.quietened.dev.badMarker l m slot) }) := by
  have hp' : s.quietened.dev.val (F.SLK_Ll_STAT_PSTATE l) = 0 := hp
  have hlock' : s.quietened.dev.on (F.SLK_Ll_STAT_BLOCK_LOCK l) = true := hlock
  have hlane : s.quietened.dev.lane l = s.dev.lane l := Dev.lane_of_slk rfl l
  have hexec : exec (.marker l bytes slot) s = .next { s with dev := (
      if crc8 ((bytes.drop 1).take 6) ≠ leAt bytes 7 1
      then s.quietened.dev.badMarker l ((s.dev.lane l).mcount.map (fun m => (m + 1) % 2 ^ 24)) slot
      else if ((s.dev.lane l).mcount.map (fun m => (m + 1) % 2 ^ 24)).isSome ∧
          (s.dev.lane l).mcount.map (fun m => (m + 1) % 2 ^ 24) ≠ some (leAt bytes 3 3)
      then s.quietened.dev.badMarker l (some (leAt bytes 3 3)) slot
      else s.quietened.dev.goodMarker l (leAt bytes 1 1 % 4) (leAt bytes 2 1) (leAt bytes 3 3) slot) } := by
    show execMarker l bytes slot s = _
    unfold execMarker
    rw [onDev_next, if_neg (by simp [hp', hlock']), hlane]
  rw [hexec]
  refine ⟨fun ⟨hcrc, hnext⟩ => ?_, fun hbad => ?_⟩
  · rw [if_neg (not_not.2 hcrc), if_neg]
    rcases hnext with hn | hn
    · simp [hn]
    · simp only [hn, ne_eq, not_true_eq_false, and_false, not_false_eq_true]
  · split
    · exact ⟨_, rfl⟩
    · rename_i hcrc
      split
      · exact ⟨_, rfl⟩
      · rename_i hnext
        refine absurd ⟨not_not.1 hcrc, ?_⟩ hbad
        rcases hm : (s.dev.lane l).mcount with _ | m
        · exact .inl rfl
        · rw [hm] at hnext
          exact .inr (not_not.1 fun h => hnext ⟨rfl, h⟩)

theorem marker_bad (bytes : List Byte) (slot : Nat) (hlock : s.dev.on (F.SLK_Ll_STAT_BLOCK_LOCK l) = true)
    (hp : s.dev.val (F.SLK_Ll_STAT_PSTATE l) = 0) (hopen : (s.dev.lstr (s.dev.laneStream l)).opened = none)
    (hbad : ¬ (s.dev.lane l).goodMarker bytes) :
    ∃ t, exec (.marker l bytes slot) s = .next t ∧ s.sameStores t ∧
      t.dev.on (F.SLK_CPp_FLAG_MARKER_ERR (l / 4)) = true ∧ (t.dev.lane l).mbad = (s.dev.lane l).mbad + 1 ∧
      t.dev.val (F.SLK_CPp_MARKER_ERR_CNT (l / 4)) = min 0xFFFFFFFF (s.dev.val (F.SLK_CPp_MARKER_ERR_CNT (l / 4)) + 1) := by
  obtain ⟨m, hexec⟩ := (exec_marker bytes slot hlock hp).2 hbad
  obtain ⟨hflag, hlane, hcnt⟩ := Dev.badMarker_does (d := s.quietened.dev) l.isLt hopen m slot
  exact ⟨_, hexec, s.sameStores_of_dev _, hflag, congrArg Lane.mbad hlane, hcnt⟩

theorem markerAbsent_does {m : Nat} (hp : s.dev.val (F.SLK_Ll_STAT_PSTATE l) = 0) (hm : (s.dev.lane l).mcount = some m)
    (hopen : (s.dev.lstr (s.dev.laneStream l)).opened = none) :
    ∃ t, exec (.markerAbsent l) s = .next t ∧ s.sameStores t ∧
      t.dev.on (F.SLK_CPp_FLAG_MARKER_ERR (l / 4)) = true ∧ (t.dev.lane l).mcount = some ((m + 1) % 2 ^ 24) ∧
      t.dev.val (F.SLK_CPp_MARKER_ERR_CNT (l / 4)) = min 0xFFFFFFFF (s.dev.val (F.SLK_CPp_MARKER_ERR_CNT (l / 4)) + 1) := by
  have hp' : s.quietened.dev.val (F.SLK_Ll_STAT_PSTATE l) = 0 := hp
  have hm' : (s.quietened.dev.lane l).mcount = some m := hm
  have hexec : exec (.markerAbsent l) s = .next { s with dev :=
      (s.quietened.dev.badMarker l (some ((m + 1) % 2 ^ 24)) ((s.quietened.dev.lane l).mslot + 16384)) } := by
    show execMarkerAbsent l s = _
    unfold execMarkerAbsent
    rw [onDev_next, if_neg (by simp [hp']), hm']
  obtain ⟨hflag, hlane, hcnt⟩ := Dev.badMarker_does (d := s.quietened.dev) l.isLt hopen (some ((m + 1) % 2 ^ 24))
    ((s.quietened.dev.lane l).mslot + 16384)
  exact ⟨_, hexec, s.sameStores_of_dev _, hflag, congrArg Lane.mcount hlane, hcnt⟩

end

/-- Settles O27: each error is counted and flagged before the deskew of the stream is lost, which leaves the counters and
the flags of the lane and of its port's markers as they are. -/
theorem laneErrorsAreCounted : Obligations.LaneErrorsAreCounted := by
  intro s l d
  refine ⟨fun hidle => invalidSyncHeader_does hidle, fun hp hlock hlen hnear hopen => lockLost_does hp hlock hlen hnear hopen,
    fun hlock => blkErr_does hlock, fun bytes slot hlock hp hopen => ⟨fun hgood => ?_, fun hbad => ?_⟩,
    fun m hp hm hopen => markerAbsent_does hp hm hopen⟩
  · obtain ⟨hmc, hmbad, hmlane⟩ := s.quietened.dev.goodMarker_lane l (leAt bytes 1 1 % 4) (leAt bytes 2 1)
      (leAt bytes 3 3) slot
    exact ⟨_, (exec_marker bytes slot hlock hp).1 hgood, s.sameStores_of_dev _, hmc, hmbad, hmlane⟩
  · exact marker_bad bytes slot hlock hp hopen hbad

end Sys2Proof.Machine
end

/-! PROOFS. ServiceChannelTalksToCameras (R53, R89, R91). -/
section
-- One lemma at a time: elaborated side by side they take more threads than the check's memory limit leaves room for.
set_option Elab.async false
namespace Sys2Proof.Machine

/-! ### What waits on a service channel (R53, R89) -/

/-- The boundaries from `b` on that the characters of the trigger at slot `x` still take. -/
def slotWaits (b x : Int) : Nat := min 3 ((x + 159 - b) / 40).toNat

/-- The boundaries that the channel still passes before nothing waits on it: one for each character that waits, and
those that triggers take. -/
def Dev.svcWaits (d : Dev) (c : Nat) : Nat :=
  (d.svch c).sym.length + (d.svch c).flow.length + (d.svch c).frame.length +
    ((tabGet [] d.trg.slots c).map (slotWaits (d.svch c).next)).sum

theorem slotWaits_next_le (b x : Int) : slotWaits (b + 40) x ≤ slotWaits b x := by
  unfold slotWaits
  omega

theorem slotWaits_next_lt {b x : Int} (h : x ≤ b ∧ b < x + 120) : slotWaits (b + 40) x < slotWaits b x := by
  unfold slotWaits
  omega

theorem slotWaits_sum_le (b : Int) (l : List Int) : (l.map (slotWaits b)).sum ≤ 3 * l.length := by
  induction l with
  | nil => exact Nat.le_refl _
  | cons x l ih =>
    have hx : slotWaits b x ≤ 3 := Nat.min_le_left _ _
    simp only [List.map_cons, List.sum_cons, List.length_cons]
    omega

theorem slotWaits_sum_next_le (b : Int) (l : List Int) : (l.map (slotWaits (b + 40))).sum ≤ (l.map (slotWaits b)).sum :=
  List.sum_le_sum fun x _ => slotWaits_next_le b x

theorem slotWaits_sum_next_lt {b : Int} {l : List Int} (h : occupied l b = true) :
    (l.map (slotWaits (b + 40))).sum < (l.map (slotWaits b)).sum := by
  obtain ⟨x, hx, hat⟩ := List.any_eq_true.1 h
  exact List.sum_lt_sum _ _ (fun y _ => slotWaits_next_le b y) ⟨x, hx, slotWaits_next_lt (of_decide_eq_true hat)⟩

theorem Dev.svcWaits_le_fuel (d : Dev) (c : Nat) : d.svcWaits c ≤ d.svcFuel c := by
  have h := slotWaits_sum_le (d.svch c).next (tabGet [] d.trg.slots c)
  unfold Dev.svcWaits Dev.svcFuel
  dsimp only
  omega

/-! ### One boundary -/

section
variable (d : Dev) (c : Nat)

@[simp] theorem Dev.svcStep_trg : (d.svcStep c).trg = d.trg := by rw [Dev.svcStep_rest]

/-- What the channel holds after a boundary at which a data character of a trigger leaves. -/
theorem Dev.svcStep_sym {y : Nat × Int × Byte} (h : (d.svch c).sym.find? (fun y => y.2.1 == (d.svch c).next) = some y) :
    (d.svcStep c).svch c = { d.svch c with next := (d.svch c).next + 40, idle := false, sym := (d.svch c).sym.erase y } := by
  unfold Dev.svcStep
  dsimp only
  rw [h]
  exact Dev.svch_setSvch _ _ _

section
variable (hsym : (d.svch c).sym.find? (fun y => y.2.1 == (d.svch c).next) = none)
include hsym

theorem Dev.svcStep_occupied (h : occupied (tabGet [] d.trg.slots c) (d.svch c).next = true) :
    (d.svcStep c).svch c = { d.svch c with next := (d.svch c).next + 40, idle := false } := by
  unfold Dev.svcStep
  dsimp only
  rw [hsym]
  dsimp only
  rw [if_pos h, Dev.svch_setSvch]

/-- At a free boundary the next character of a flow symbol leaves. -/
theorem Dev.svcStep_flow (h : occupied (tabGet [] d.trg.slots c) (d.svch c).next = false) {ch : Bool × Byte}
    {t : List (Bool × Byte)} (hflow : (d.svch c).flow = ch :: t) :
    (d.svcStep c).svch c = { d.svch c with next := (d.svch c).next + 40, idle := false, flow := t } ∧
      (d.svcStep c).out = d.out ++ [.svc c (d.instantOf (d.svch c).next) [ch]] := by
  unfold Dev.svcStep
  dsimp only
  rw [hsym]
  dsimp only
  rw [if_neg (by simp [h]), hflow]
  exact ⟨Dev.svch_setSvch _ _ _, rfl⟩

theorem Dev.svcStep_frame (h : occupied (tabGet [] d.trg.slots c) (d.svch c).next = false) (hflow : (d.svch c).flow = [])
    {ch : Bool × Byte} {t : List (Bool × Byte)} (hframe : (d.svch c).frame = ch :: t) :
    (d.svcStep c).svch c = { d.svch c with next := (d.svch c).next + 40, idle := false, frame := t } := by
  unfold Dev.svcStep
  dsimp only
  rw [hsym]
  dsimp only
  rw [if_neg (by simp [h]), hflow, hframe]
  exact Dev.svch_setSvch _ _ _

end

/-- With a flow or frame character waiting, a boundary leaves less to wait. -/
theorem Dev.svcStep_waits (h : (d.svch c).flow ≠ [] ∨ (d.svch c).frame ≠ []) : (d.svcStep c).svcWaits c < d.svcWaits c := by
  have hle := slotWaits_sum_next_le (d.svch c).next (tabGet [] d.trg.slots c)
  unfold Dev.svcWaits
  rw [Dev.svcStep_trg]
  cases hsym : (d.svch c).sym.find? (fun y => y.2.1 == (d.svch c).next) with
  | some y =>
    have hmem : y ∈ (d.svch c).sym := List.mem_of_find?_eq_some hsym
    have hpos := List.length_pos_of_mem hmem
    simp only [d.svcStep_sym c hsym, List.length_erase_of_mem hmem]
    omega
  | none =>
    cases hocc : occupied (tabGet [] d.trg.slots c) (d.svch c).next with
    | true =>
      have hlt := slotWaits_sum_next_lt hocc
      simp only [d.svcStep_occupied c hsym hocc]
      omega
    | false =>
      rcases hflow : (d.svch c).flow with _ | ⟨ch, t⟩
      · rcases hframe : (d.svch c).frame with _ | ⟨ch, t⟩
        · exact absurd h (by simp [hflow, hframe])
        · simp only [d.svcStep_frame c hsym hocc hflow hframe, hflow, List.length_cons]
          omega
      · simp only [(d.svcStep_flow c hsym hocc hflow).1, List.length_cons]
        omega

end

/-! ### The clock runs from boundary to boundary -/

section
variable {c : Nat} {p : SvcChan → Bool}

theorem Dev.reach_svch (d : Dev) (t c : Nat) : (d.reach t).svch c = d.svch c := Dev.svch_of_slk (d.reach_slk t) c

theorem Dev.reach_waits (d : Dev) (t c : Nat) : (d.reach t).svcWaits c = d.svcWaits c := by
  unfold Dev.svcWaits
  rw [Dev.reach_svch, Dev.reach_trg]

/-- With as many boundaries as the channel waits for, the clock runs until `p` holds, which does at the latest when neither
a flow nor a frame character waits. -/
theorem Dev.svcUntil_ends (hp : ∀ x, p x = false → x.flow ≠ [] ∨ x.frame ≠ []) :
    ∀ (n : Nat) (d : Dev), d.svcWaits c ≤ n → p ((Dev.svcUntil c p n d).svch c) = true
  | 0, d, hn => by
    refine Bool.eq_true_of_not_eq_false fun h => ?_
    have hwait := d.svcStep_waits c (hp _ h)
    omega
  | n + 1, d, hn => by
    unfold Dev.svcUntil
    split
    · assumption
    · rename_i h
      refine Dev.svcUntil_ends hp n _ ?_
      obtain ⟨e, he⟩ : ∃ e, e = d.reach (d.instantOf (d.svch c).next) := ⟨_, rfl⟩
      have hlt : (e.svcStep c).svcWaits c < e.svcWaits c :=
        e.svcStep_waits c (by rw [he, Dev.reach_svch]; exact hp _ (Bool.eq_false_of_not_eq_true h))
      have hwaits : e.svcWaits c = d.svcWaits c := by rw [he, Dev.reach_waits]
      rw [← he]
      omega

/-- What the run of the clock leaves: the registers but device time, and an instant that does not go back. -/
theorem Dev.svcUntil_touches (c : Nat) (p : SvcChan → Bool) :
    ∀ (n : Nat) (d : Dev), d.Touches F.MER_TIME.At (Dev.svcUntil c p n d)
  | 0, d => .refl _ d
  | n + 1, d => .ite (.refl _ d) (((d.reach_touches _).svcStep c).trans (Dev.svcUntil_touches c p n _))

theorem Dev.svcUntil_now (c : Nat) (p : SvcChan → Bool) : ∀ (n : Nat) (d : Dev), d.now ≤ (Dev.svcUntil c p n d).now
  | 0, _ => Nat.le_refl _
  | n + 1, d => by
    unfold Dev.svcUntil
    split
    · exact Nat.le_refl _
    · refine Nat.le_trans ?_ (Dev.svcUntil_now c p n _)
      rw [Dev.svcStep_rest, Dev.reach_now]
      exact Nat.le_max_left _ _

end

/-! ### The streams stand while characters leave -/

section
variable (d : Dev) (c q : Nat)

@[simp] theorem Dev.lstr_setSvch (x : SvcChan) : (d.setSvch c x).lstr q = d.lstr q := rfl
@[simp] theorem Dev.svch_setLstr (x : LinkStream) : (d.setLstr q x).svch c = d.svch c := rfl

@[simp] theorem Dev.svcStep_lstr : (d.svcStep c).lstr q = d.lstr q := by
  unfold Dev.svcStep
  dsimp only
  split
  · exact Dev.lstr_setSvch _ _ _ _
  · split
    · exact Dev.lstr_setSvch _ _ _ _
    · split <;> exact Dev.lstr_setSvch _ _ _ _

theorem Dev.svcRun_lstr (t : Int) : ∀ (n : Nat) (d : Dev), (Dev.svcRun c t n d).lstr q = d.lstr q
  | 0, _ => rfl
  | n + 1, d => by
    unfold Dev.svcRun
    split
    · rfl
    · split
      · unfold Dev.svcIdle
        extract_lets x e
        rw [Dev.lstr_setSvch]
        refine Dev.lstr_of_slk ?_ q
        simp only [e]
        split
        · rfl
        · exact Dev.emit_slk _ _
      · rw [Dev.svcRun_lstr t n, Dev.svcStep_lstr]

@[simp] theorem Dev.svcNow_lstr : (d.svcNow c).lstr q = d.lstr q := Dev.svcRun_lstr c q _ _ d

theorem Dev.svcUntil_lstr (p : SvcChan → Bool) : ∀ (n : Nat) (d : Dev), (Dev.svcUntil c p n d).lstr q = d.lstr q
  | 0, _ => rfl
  | n + 1, d => by
    unfold Dev.svcUntil
    split
    · rfl
    · rw [Dev.svcUntil_lstr p n, Dev.svcStep_lstr]
      exact Dev.lstr_of_slk (d.reach_slk _) q

end

/-! ### The end of a frame -/

theorem Dev.frameEnd_frame (d : Dev) (c : Nat) : ((d.frameEnd c).svch c).frame = [] := by
  unfold Dev.frameEnd
  extract_lets e e'
  split
  · rename_i h
    exact List.isEmpty_iff.1 h
  · rw [Dev.reach_svch]
    exact List.isEmpty_iff.1 (Dev.svcUntil_ends (p := fun x => x.frame.isEmpty)
      (fun x hx => .inr fun h => by rw [h] at hx; exact absurd hx (by decide)) _ _ (e.svcWaits_le_fuel c))

theorem Dev.frameEnd_touches (d : Dev) (c : Nat) : d.Touches F.MER_TIME.At (d.frameEnd c) := by
  unfold Dev.frameEnd
  extract_lets e e'
  have he : d.Touches F.MER_TIME.At e := (Dev.Touches.refl _ d).svcNow c
  exact .ite he ((he.trans (Dev.svcUntil_touches c _ _ e)).trans (e'.reach_touches _))

theorem Dev.frameEnd_now (d : Dev) (c : Nat) : d.now ≤ (d.frameEnd c).now := by
  unfold Dev.frameEnd
  extract_lets e e'
  have he : e.now = d.now := by
    simp only [e]
    rw [Dev.svcNow_rest]
  split
  · exact Nat.le_of_eq he.symm
  · rw [Dev.reach_now, ← he]
    exact Nat.le_trans (Dev.svcUntil_now c _ _ e) (Nat.le_max_left _ _)

/-! ### A flow symbol leaves -/

/-- The two characters of a flow symbol: its K character, then the one that names the stream. -/
def flowChars (q : Nat) (xoff : Bool) : List (Bool × Byte) :=
  [(true, if xoff then 0x5C else 0x7C), (false, BitVec.ofNat 8 (64 * (q % 4)))]

/-- The K character of the channel has been put out by itself. -/
def Dev.sent (d : Dev) (c : Nat) (k : Byte) : Prop :=
  (d.out.any fun o => match o with
    | .svc c' _ chars => c' == c && chars == [(true, k)]
    | _ => false) = true

theorem Dev.sent_svc {d : Dev} {c : Nat} {k : Byte} {outs : List Out} {t : Nat} (h : d.out = outs ++ [.svc c t [(true, k)]]) :
    d.sent c k := by
  unfold Dev.sent
  rw [h, List.any_append]
  simp

/-- What waits for the flow symbols of the channel ends with this symbol, or its K character has just left. -/
def Dev.flowEnds (d : Dev) (c : Nat) (k : Byte) (ch : Bool × Byte) : Prop :=
  (∃ pre, (d.svch c).flow = pre ++ [(true, k), ch]) ∨ ((d.svch c).flow = [ch] ∧ d.sent c k)

section
variable {c : Nat} {k : Byte} {ch : Bool × Byte}

theorem Dev.svcStep_flowEnds {d : Dev} {pre : List (Bool × Byte)} (h : (d.svch c).flow = pre ++ [(true, k), ch]) :
    (d.svcStep c).flowEnds c k ch := by
  cases hsym : (d.svch c).sym.find? (fun y => y.2.1 == (d.svch c).next) with
  | some y => exact .inl ⟨pre, by rw [d.svcStep_sym c hsym]; exact h⟩
  | none =>
    cases hocc : occupied (tabGet [] d.trg.slots c) (d.svch c).next with
    | true => exact .inl ⟨pre, by rw [d.svcStep_occupied c hsym hocc]; exact h⟩
    | false =>
      cases pre with
      | cons x pre =>
        obtain ⟨hch, -⟩ := d.svcStep_flow c hsym hocc h
        exact .inl ⟨pre, by rw [hch]; rfl⟩
      | nil =>
        obtain ⟨hch, hout⟩ := d.svcStep_flow c hsym hocc h
        exact .inr ⟨by rw [hch], Dev.sent_svc hout⟩

/-- The clock that runs until one flow character waits stops once the K character of the last symbol has left. -/
theorem Dev.svcUntil_flowEnds : ∀ (n : Nat) (d : Dev), d.flowEnds c k ch →
    (Dev.svcUntil c (fun x => decide (x.flow.length ≤ 1)) n d).flowEnds c k ch
  | 0, _, h => h
  | n + 1, d, h => by
    unfold Dev.svcUntil
    split
    · exact h
    · rename_i hlong
      refine Dev.svcUntil_flowEnds n _ ?_
      rcases h with ⟨pre, h⟩ | ⟨h, -⟩
      · exact Dev.svcStep_flowEnds (by rw [Dev.reach_svch, h])
      · exact absurd hlong (by simp [h])

theorem Dev.svcUntil_flow {d : Dev} (h : d.flowEnds c k ch) :
    let e := Dev.svcUntil c (fun x => decide (x.flow.length ≤ 1)) (d.svcFuel c) d
    (e.svch c).flow = [ch] ∧ e.sent c k := by
  intro e
  have hshort : (e.svch c).flow.length ≤ 1 := of_decide_eq_true (Dev.svcUntil_ends
    (p := fun x => decide (x.flow.length ≤ 1))
    (fun x hx => .inl fun h => by rw [h] at hx; exact absurd hx (by decide)) _ _ (d.svcWaits_le_fuel c))
  rcases Dev.svcUntil_flowEnds (d.svcFuel c) d h with ⟨pre, hpre⟩ | hdone
  · have hlen := congrArg List.length hpre
    simp only [List.length_append, List.length_cons, List.length_nil] at hlen
    exact absurd hshort (by simp only [e]; omega)
  · exact hdone

end

section
variable {d : Dev} {q : Nat} {xoff : Bool}

/-- A request that is not the one named stays. -/
theorem Dev.takeFlow_other (h : (d.lstr q).flowReq.head? ≠ some xoff) : d.takeFlow q xoff = d :=
  if_pos (by simpa using h)

theorem Dev.takeFlow_eq {rest : List Bool} (h : (d.lstr q).flowReq = xoff :: rest) : d.takeFlow q xoff =
    (d.setLstr q { d.lstr q with flowReq := rest }).setSvch (q / 4)
      { d.svch (q / 4) with flow := (d.svch (q / 4)).flow ++ flowChars q xoff } := by
  unfold Dev.takeFlow
  dsimp only
  rw [if_neg (by simp [h]), h]
  rfl

/-- The request taken leaves its symbol at the end of what waits on its channel. -/
theorem Dev.takeFlow_does {rest : List Bool} (h : (d.lstr q).flowReq = xoff :: rest) :
    ((d.takeFlow q xoff).lstr q).flowReq = rest ∧
      (d.takeFlow q xoff).flowEnds (q / 4) (if xoff then 0x5C else 0x7C) (false, BitVec.ofNat 8 (64 * (q % 4))) := by
  rw [Dev.takeFlow_eq h]
  refine ⟨?_, .inl ⟨(d.svch (q / 4)).flow, ?_⟩⟩
  · rw [Dev.lstr_setSvch, Dev.lstr_setLstr]
  · rw [Dev.svch_setSvch]
    rfl

theorem Dev.takeFlow_touches (W : Nat → Prop) (d : Dev) (r : Nat) (b : Bool) : d.Touches W (d.takeFlow r b) :=
  .ite (.refl W d) (.of_regs rfl rfl rfl)

/-- A stream that asks for XON keeps its request while the XOFFs of a channel are taken. -/
theorem Dev.takeXoff_lstr {rest : List Bool} (h : (d.lstr q).flowReq = false :: rest) (r : Nat) :
    (d.takeFlow r true).lstr q = d.lstr q := by
  by_cases hr : r = q
  · rw [hr, Dev.takeFlow_other (by simp [h])]
  · unfold Dev.takeFlow
    dsimp only
    split
    · rfl
    · rw [Dev.lstr_setSvch, Dev.lstr_setLstr_ne _ hr]

theorem Dev.takeXoffs_lstr {rest : List Bool} (h : (d.lstr q).flowReq = false :: rest) (l : List Nat) :
    (l.foldl (fun d r => d.takeFlow r true) d).lstr q = d.lstr q :=
  List.foldlRecOn (motive := fun e : Dev => e.lstr q = d.lstr q) l _ rfl fun e he r _ => by
    rw [Dev.takeXoff_lstr (he ▸ h) r, he]

theorem Dev.takeXoffs_touches (W : Nat → Prop) (d : Dev) (l : List Nat) :
    d.Touches W (l.foldl (fun d r => d.takeFlow r true) d) :=
  List.foldlRecOn (motive := fun e : Dev => d.Touches W e) l _ (.refl W d) fun e he r _ =>
    he.trans (Dev.takeFlow_touches W e r true)

/-- The block once the symbols that go before the one asked for are taken: an XON goes behind every XOFF (R89). -/
def Dev.flowAhead (d : Dev) (q : Nat) (xoff : Bool) : Dev :=
  if xoff then d.svcNow (q / 4)
  else [4 * (q / 4), 4 * (q / 4) + 1, 4 * (q / 4) + 2, 4 * (q / 4) + 3].foldl (fun d r => d.takeFlow r true) (d.svcNow (q / 4))

theorem Dev.flowAhead_req {rest : List Bool} (h : (d.lstr q).flowReq = xoff :: rest) :
    ((d.flowAhead q xoff).lstr q).flowReq = xoff :: rest := by
  have hnow : ((d.svcNow (q / 4)).lstr q).flowReq = xoff :: rest := by rw [Dev.svcNow_lstr, h]
  unfold Dev.flowAhead
  cases xoff with
  | true => exact hnow
  | false => exact (congrArg LinkStream.flowReq (Dev.takeXoffs_lstr hnow _)).trans hnow

theorem Dev.flowAhead_touches (W : Nat → Prop) (d : Dev) (q : Nat) (xoff : Bool) : d.Touches W (d.flowAhead q xoff) :=
  .ite ((Dev.Touches.refl W d).svcNow _) (((Dev.Touches.refl W d).svcNow _).trans (Dev.takeXoffs_touches W _ _))

theorem Dev.flowSymbol_eq {rest : List Bool} (h : (d.lstr q).flowReq = xoff :: rest) : d.flowSymbol q xoff =
    Dev.svcUntil (q / 4) (fun x => decide (x.flow.length ≤ 1)) (((d.flowAhead q xoff).takeFlow q xoff).svcFuel (q / 4))
      ((d.flowAhead q xoff).takeFlow q xoff) := by
  unfold Dev.flowSymbol
  rw [if_neg (by simp [h])]
  rfl

/-- The oldest request of a stream leaves with its K character. -/
theorem Dev.flowSymbol_does {rest : List Bool} (h : (d.lstr q).flowReq = xoff :: rest) :
    ((d.flowSymbol q xoff).lstr q).flowReq = rest ∧ (d.flowSymbol q xoff).sent (q / 4) (if xoff then 0x5C else 0x7C) ∧
      ((d.flowSymbol q xoff).svch (q / 4)).flow = [(false, BitVec.ofNat 8 (64 * (q % 4)))] ∧
      d.sameRegsBut (d.flowSymbol q xoff) [F.MER_TIME] := by
  obtain ⟨hreq, hends⟩ := Dev.takeFlow_does (Dev.flowAhead_req h)
  have hahead := (d.flowAhead_touches F.MER_TIME.At q xoff).trans (Dev.takeFlow_touches _ _ q xoff)
  obtain ⟨e, he⟩ : ∃ e, e = (d.flowAhead q xoff).takeFlow q xoff := ⟨_, rfl⟩
  rw [← he] at hreq hends hahead
  rw [Dev.flowSymbol_eq h, ← he]
  obtain ⟨hflow, hsent⟩ := Dev.svcUntil_flow hends
  refine ⟨?_, hsent, hflow, ?_⟩
  · rw [Dev.svcUntil_lstr, hreq]
  · exact (hahead.trans (Dev.svcUntil_touches _ _ _ e)).sameRegsBut fun a ha => ⟨_, List.mem_singleton_self _, ha⟩

end

/-! ### A command (R91) -/

/-- The registers of a service channel. -/
theorem svcReg_window {o c : Nat} (ho : o < 0x40) (hc : c < 16) : (0x40125000 + o + c * 0x40) / 0x10000 = 0x4012 := by omega

section
variable {d : Dev} {c : Nat}

/-- The block once a command has its tag and makes its channel BUSY, with the characters of the boundaries that have come
gone (R91). -/
def Dev.svcBusy (d : Dev) (c : Nat) : Dev :=
  ((d.put (F.SLK_CSc_STAT_TAG c) ((d.val (F.SLK_CSc_STAT_TAG c) + 1) % 256)).mark (F.SLK_CSc_STAT_BUSY c) true).svcNow c

theorem Dev.svcBusy_now (d : Dev) (c : Nat) : (d.svcBusy c).now = d.now := by
  unfold Dev.svcBusy
  rw [Dev.svcNow_rest]
  exact (Dev.mark_now _ _ _).trans (Dev.put_now _ _ _)

theorem Dev.svcBusy_stat (d : Dev) (c : Nat) : (d.svcBusy c).on (F.SLK_CSc_STAT_BUSY c) = true ∧
    (d.svcBusy c).val (F.SLK_CSc_STAT_TAG c) = (d.val (F.SLK_CSc_STAT_TAG c) + 1) % 256 := by
  have hbusy : (F.SLK_CSc_STAT_BUSY c).Apart (F.SLK_CSc_STAT_TAG c) := Fld.apart_of_bits rfl
  unfold Dev.svcBusy Dev.on
  rw [Dev.val_of_regs (Dev.svcNow_regs _ _), Dev.val_of_regs (Dev.svcNow_regs _ _)]
  refine ⟨Dev.on_mark_self _ rfl (by simp [F.SLK_CSc_STAT_BUSY]) true, ?_⟩
  rw [Dev.val_mark_apart _ hbusy, Dev.val_put_self _ (by simp [F.SLK_CSc_STAT_TAG])]
  exact Nat.mod_eq_of_lt (Nat.mod_lt _ (by decide))

/-- The settings of the channel stand. -/
theorem Dev.svcBusy_val {f : Fld} (hf : R.SLK_CSc_STAT c ≠ f.addr) (hn : (f.lo + f.len).ble 32 = true := by rfl) :
    (d.svcBusy c).val f = d.val f := by
  have htag : (F.SLK_CSc_STAT_TAG c).Apart f := Fld.apart_of_ne hf rfl hn
  have hbusy : (F.SLK_CSc_STAT_BUSY c).Apart f := Fld.apart_of_ne hf rfl hn
  unfold Dev.svcBusy
  rw [Dev.val_of_regs (Dev.svcNow_regs _ _), Dev.val_mark_apart _ hbusy, Dev.val_put_apart _ htag]

theorem Dev.svcBusy_touches (d : Dev) (c : Nat) : d.Touches (F.SLK_CSc_STAT_BUSY c).At (d.svcBusy c) :=
  (((Dev.Touches.refl _ d).put (f := F.SLK_CSc_STAT_TAG c) (.inl rfl) _).mark (f := F.SLK_CSc_STAT_BUSY c) (.inl rfl) _).svcNow c

/-- What a channel holds of the command that GO gives it. -/
def Dev.svcCommand (d : Dev) (c : Nat) : SvcChan :=
  { (d.svcBusy c).svch c with
    frame := svcFrame (d.val (F.SLK_CSc_CTRL_VC c)) (d.on (F.SLK_CSc_CTRL_BCAST c))
      (d.on (F.SLK_CSc_CTRL_BCAST c) || d.on (F.SLK_CSc_CTRL_WRITE c)) ((d.val (F.SLK_CSc_STAT_TAG c) + 1) % 256)
      (d.val (F.SLK_CSc_ADDR c)) (d.val (F.SLK_CSc_WDATA c))
    tag := (d.val (F.SLK_CSc_STAT_TAG c) + 1) % 256, bcast := d.on (F.SLK_CSc_CTRL_BCAST c), sentAt := d.now
    vc := d.val (F.SLK_CSc_CTRL_VC c) }

theorem Dev.svcGo_eq (hbusy : d.on (F.SLK_CSc_STAT_BUSY c) = false)
    (hruns : d.runs (F.SLK_CSc_CTRL_EN c) (F.SLK_CSc_STAT_IDLE c) = true) :
    d.svcGo c = (d.svcBusy c).setSvch c (d.svcCommand c) := by
  have hctrl : R.SLK_CSc_STAT c ≠ R.SLK_CSc_CTRL c := by simp only [R.SLK_CSc_STAT, R.SLK_CSc_CTRL]; omega
  have haddr : R.SLK_CSc_STAT c ≠ R.SLK_CSc_ADDR c := by simp only [R.SLK_CSc_STAT, R.SLK_CSc_ADDR]; omega
  have hdata : R.SLK_CSc_STAT c ≠ R.SLK_CSc_WDATA c := by simp only [R.SLK_CSc_STAT, R.SLK_CSc_WDATA]; omega
  have hwrite : (d.svcBusy c).on (F.SLK_CSc_CTRL_WRITE c) = d.on (F.SLK_CSc_CTRL_WRITE c) := Dev.on_congr (Dev.svcBusy_val hctrl)
  have ha : (d.svcBusy c).val (F.SLK_CSc_ADDR c) = d.val (F.SLK_CSc_ADDR c) := Dev.svcBusy_val haddr
  have hw : (d.svcBusy c).val (F.SLK_CSc_WDATA c) = d.val (F.SLK_CSc_WDATA c) := Dev.svcBusy_val hdata
  unfold Dev.svcGo
  rw [if_neg (by simp [hbusy]), if_neg (by simp [hruns])]
  extract_lets tag bcast vc e e' chars
  have he : e' = d.svcBusy c := rfl
  have hchars : chars = (d.svcCommand c).frame := by
    simp only [chars, he, hwrite, ha, hw]
    rfl
  rw [hchars, he, Dev.svcBusy_now]
  rfl

theorem Dev.svcGo_does (hbusy : d.on (F.SLK_CSc_STAT_BUSY c) = false)
    (hruns : d.runs (F.SLK_CSc_CTRL_EN c) (F.SLK_CSc_STAT_IDLE c) = true) :
    (d.svcGo c).on (F.SLK_CSc_STAT_BUSY c) = true ∧
      (d.svcGo c).val (F.SLK_CSc_STAT_TAG c) = (d.val (F.SLK_CSc_STAT_TAG c) + 1) % 256 ∧
      (d.svcGo c).svch c = d.svcCommand c ∧
      d.sameRegsBut (d.svcGo c) [F.SLK_CSc_STAT_BUSY c, F.SLK_CSc_STAT_TAG c] := by
  obtain ⟨hon, htag⟩ := d.svcBusy_stat c
  have htouch : d.Touches (F.SLK_CSc_STAT_BUSY c).At ((d.svcBusy c).setSvch c (d.svcCommand c)) :=
    (d.svcBusy_touches c).trans (.of_regs rfl rfl rfl)
  rw [Dev.svcGo_eq hbusy hruns]
  exact ⟨(Dev.on_congr (Dev.val_of_regs (Dev.setSvch_regs _ _ _) _)).trans hon,
    (Dev.val_of_regs (Dev.setSvch_regs _ _ _) _).trans htag, Dev.svch_setSvch _ _ _,
    htouch.sameRegsBut fun a ha => ⟨_, List.mem_cons_self, ha⟩⟩

/-! ### A reply and a time-out -/

/-- The block once a reply is shown (R91). -/
def Dev.replied (d : Dev) (c : Nat) (blk : List Byte) : Dev :=
  (((d.put (F.SLK_CSc_RDATA c) (leAt blk 3 4)).put (F.SLK_CSc_STAT_RSTATUS c) (leAt blk 2 1)).mark
    (F.SLK_CSc_STAT_BUSY c) false).raise (F.SLK_CSc_FLAG_DONE c)

theorem natLE_lt : ∀ l : List Byte, natLE l < 256 ^ l.length
  | [] => by decide
  | b :: l => by
    have ih := natLE_lt l
    have hb := b.isLt
    simp only [natLE, List.length_cons, Nat.pow_succ]
    omega

theorem Dev.replied_touches (d : Dev) (c : Nat) (blk : List Byte) : d.Touches
    (fun a => a = R.SLK_CSc_STAT c ∨ a = R.SLK_CSc_RDATA c ∨ a = R.SLK_CSc_FLAG c) (d.replied c blk) :=
  ((((Dev.Touches.refl _ d).put (f := F.SLK_CSc_RDATA c) (.inr (.inl rfl)) _).put (f := F.SLK_CSc_STAT_RSTATUS c)
    (.inl rfl) _).mark (f := F.SLK_CSc_STAT_BUSY c) (.inl rfl) _).raise (f := F.SLK_CSc_FLAG_DONE c) (.inr (.inr rfl))

theorem Dev.replied_does (hc : c < 16) (d : Dev) (blk : List Byte) : (d.replied c blk).on (F.SLK_CSc_STAT_BUSY c) = false ∧
    (d.replied c blk).val (F.SLK_CSc_RDATA c) = leAt blk 3 4 ∧ (d.replied c blk).on (F.SLK_CSc_FLAG_DONE c) = true ∧
    d.sameRegsBut (d.replied c blk) [F.SLK_CSc_STAT_BUSY c, F.SLK_CSc_RDATA c, F.SLK_CSc_FLAG_DONE c] := by
  have hflagStat : R.SLK_CSc_FLAG c ≠ R.SLK_CSc_STAT c := by simp only [R.SLK_CSc_FLAG, R.SLK_CSc_STAT]; omega
  have hflagData : R.SLK_CSc_FLAG c ≠ R.SLK_CSc_RDATA c := by simp only [R.SLK_CSc_FLAG, R.SLK_CSc_RDATA]; omega
  have hstatData : R.SLK_CSc_STAT c ≠ R.SLK_CSc_RDATA c := by simp only [R.SLK_CSc_STAT, R.SLK_CSc_RDATA]; omega
  have hdoneBusy : (F.SLK_CSc_FLAG_DONE c).Apart (F.SLK_CSc_STAT_BUSY c) := Fld.apart_of_ne hflagStat
  have hdoneData : (F.SLK_CSc_FLAG_DONE c).Apart (F.SLK_CSc_RDATA c) := Fld.apart_of_ne hflagData
  have hbusyData : (F.SLK_CSc_STAT_BUSY c).Apart (F.SLK_CSc_RDATA c) := Fld.apart_of_ne hstatData
  have hstatusData : (F.SLK_CSc_STAT_RSTATUS c).Apart (F.SLK_CSc_RDATA c) := Fld.apart_of_ne hstatData
  have hlt : leAt blk 3 4 < 2 ^ 32 :=
    Nat.lt_of_lt_of_le (natLE_lt _) (Nat.pow_le_pow_right (n := 256) (by decide) (List.length_take_le 4 _))
  refine ⟨?_, ?_, ?_, (d.replied_touches c blk).sameRegsBut fun a ha => ?_⟩
  · unfold Dev.replied Dev.on
    rw [Dev.val_raise_apart _ hdoneBusy (quiet_link (svcReg_window (o := 4) (by decide) hc)),
      Dev.val_mark_self _ rfl (by simp [F.SLK_CSc_STAT_BUSY])]
    rfl
  · unfold Dev.replied
    rw [Dev.val_raise_apart _ hdoneData (quiet_link (svcReg_window (o := 0x14) (by decide) hc)), Dev.val_mark_apart _ hbusyData,
      Dev.val_put_apart _ hstatusData, Dev.val_put_self _ (by simp [F.SLK_CSc_RDATA])]
    exact Nat.mod_eq_of_lt hlt
  · exact Dev.on_raise_self _ rfl (by simp [F.SLK_CSc_FLAG_DONE]) (quiet_link (svcReg_window (o := 8) (by decide) hc))
  · rcases ha with rfl | rfl | rfl
    · exact ⟨F.SLK_CSc_STAT_BUSY c, by simp, .inl rfl⟩
    · exact ⟨F.SLK_CSc_RDATA c, by simp, .inl rfl⟩
    · exact ⟨F.SLK_CSc_FLAG_DONE c, by simp, .inl rfl⟩

/-- The block once a command is given up at instant `t` (R91). -/
def Dev.timedOut (d : Dev) (c t : Nat) : Dev :=
  (((d.reach t).raise (F.SLK_CSc_FLAG_TIMEOUT c)).inc (F.SLK_CSc_TIMEOUT_CNT c)).mark (F.SLK_CSc_STAT_BUSY c) false

theorem Dev.timedOut_touches (d : Dev) (c t : Nat) : d.Touches (fun a => a = R.SLK_CSc_STAT c ∨ a = R.SLK_CSc_FLAG c ∨
    a = R.SLK_CSc_TIMEOUT_CNT c ∨ F.MER_TIME.At a) (d.timedOut c t) :=
  (((((d.reach_touches t).mono fun _ h => .inr (.inr (.inr h))).raise (f := F.SLK_CSc_FLAG_TIMEOUT c) (.inr (.inl rfl))).inc
    (f := F.SLK_CSc_TIMEOUT_CNT c) (.inr (.inr (.inl rfl)))).mark (f := F.SLK_CSc_STAT_BUSY c) (.inl rfl) _)

theorem Dev.timedOut_does (hc : c < 16) (d : Dev) (t : Nat) : (d.timedOut c t).on (F.SLK_CSc_STAT_BUSY c) = false ∧
    (d.timedOut c t).on (F.SLK_CSc_FLAG_TIMEOUT c) = true ∧
    (d.timedOut c t).val (F.SLK_CSc_TIMEOUT_CNT c) = min 0xFFFFFFFF (d.val (F.SLK_CSc_TIMEOUT_CNT c) + 1) ∧
    t ≤ (d.timedOut c t).now ∧ d.sameRegsBut (d.timedOut c t)
      [F.SLK_CSc_STAT_BUSY c, F.SLK_CSc_FLAG_TIMEOUT c, F.SLK_CSc_TIMEOUT_CNT c, F.MER_TIME] := by
  have hstatFlag : R.SLK_CSc_STAT c ≠ R.SLK_CSc_FLAG c := by simp only [R.SLK_CSc_STAT, R.SLK_CSc_FLAG]; omega
  have hcntFlag : R.SLK_CSc_TIMEOUT_CNT c ≠ R.SLK_CSc_FLAG c := by simp only [R.SLK_CSc_TIMEOUT_CNT, R.SLK_CSc_FLAG]; omega
  have hstatCnt : R.SLK_CSc_STAT c ≠ R.SLK_CSc_TIMEOUT_CNT c := by simp only [R.SLK_CSc_STAT, R.SLK_CSc_TIMEOUT_CNT]; omega
  have hbusyFlag : (F.SLK_CSc_STAT_BUSY c).Apart (F.SLK_CSc_FLAG_TIMEOUT c) := Fld.apart_of_ne hstatFlag
  have hcountFlag : (F.SLK_CSc_TIMEOUT_CNT c).Apart (F.SLK_CSc_FLAG_TIMEOUT c) := Fld.apart_of_ne hcntFlag
  have hflagCount : (F.SLK_CSc_FLAG_TIMEOUT c).Apart (F.SLK_CSc_TIMEOUT_CNT c) := Fld.apart_of_ne hcntFlag.symm
  have hbusyCount : (F.SLK_CSc_STAT_BUSY c).Apart (F.SLK_CSc_TIMEOUT_CNT c) := Fld.apart_of_ne hstatCnt
  have hcount : (d.reach t).val (F.SLK_CSc_TIMEOUT_CNT c) = d.val (F.SLK_CSc_TIMEOUT_CNT c) :=
    (d.reach_touches t).reads_link (svcReg_window (o := 0x1C) (by decide) hc)
      (by simp only [Fld.At, F.MER_TIME, F.SLK_CSc_TIMEOUT_CNT, R.SLK_CSc_TIMEOUT_CNT, R.MER_TIME]; omega)
  refine ⟨Dev.on_mark_self _ rfl (by simp [F.SLK_CSc_STAT_BUSY]) _, ?_, ?_, ?_,
    (d.timedOut_touches c t).sameRegsBut fun a ha => ?_⟩
  · unfold Dev.timedOut Dev.on
    rw [Dev.val_mark_apart _ hbusyFlag, Dev.val_inc_apart _ hcountFlag]
    exact Dev.on_raise_self _ rfl (by simp [F.SLK_CSc_FLAG_TIMEOUT]) (quiet_link (svcReg_window (o := 8) (by decide) hc))
  · unfold Dev.timedOut
    rw [Dev.val_mark_apart _ hbusyCount, Dev.val_inc_self _ rfl rfl,
      Dev.val_raise_apart _ hflagCount (quiet_link (svcReg_window (o := 0x1C) (by decide) hc)), hcount]
  · have hnow : (d.timedOut c t).now = (d.reach t).now :=
      (Dev.mark_now _ _ _).trans ((Dev.put_now _ _ _).trans (Dev.raise_now _ _))
    rw [hnow, Dev.reach_now]
    exact Nat.le_max_right _ _
  · rcases ha with rfl | rfl | rfl | ha
    · exact ⟨F.SLK_CSc_STAT_BUSY c, by simp, .inl rfl⟩
    · exact ⟨F.SLK_CSc_FLAG_TIMEOUT c, by simp, .inl rfl⟩
    · exact ⟨F.SLK_CSc_TIMEOUT_CNT c, by simp, .inl rfl⟩
    · exact ⟨F.MER_TIME, by simp, ha⟩

end

/-! ### The commands -/

section
variable {s : State} {c : Fin 16}

theorem go_does (hbusy : s.dev.on (F.SLK_CSc_STAT_BUSY c) = false)
    (hruns : s.dev.runs (F.SLK_CSc_CTRL_EN c) (F.SLK_CSc_STAT_IDLE c) = true) :
    ∃ t, exec (.go c) s = .next t ∧ s.sameStores t ∧ t.dev.on (F.SLK_CSc_STAT_BUSY c) = true ∧
      t.dev.val (F.SLK_CSc_STAT_TAG c) = (s.dev.val (F.SLK_CSc_STAT_TAG c) + 1) % 256 ∧
      (t.dev.svch c).frame = svcFrame (s.dev.val (F.SLK_CSc_CTRL_VC c)) (s.dev.on (F.SLK_CSc_CTRL_BCAST c))
        (s.dev.on (F.SLK_CSc_CTRL_BCAST c) || s.dev.on (F.SLK_CSc_CTRL_WRITE c)) ((s.dev.val (F.SLK_CSc_STAT_TAG c) + 1) % 256)
        (s.dev.val (F.SLK_CSc_ADDR c)) (s.dev.val (F.SLK_CSc_WDATA c)) ∧
      (t.dev.svch c).sentAt = s.dev.now ∧
      s.dev.sameRegsBut t.dev [F.SLK_CSc_STAT_BUSY c, F.SLK_CSc_STAT_TAG c] := by
  have hexec : exec (.go c) s = .next { s with dev := s.quietened.dev.svcGo c } :=
    (show exec (.go c) s = execGo c s from rfl).trans (onDev_next _ s)
  obtain ⟨hon, htag, hch, hsame⟩ := Dev.svcGo_does (d := s.quietened.dev) hbusy hruns
  exact ⟨_, hexec, s.sameStores_of_dev _, hon, htag, congrArg SvcChan.frame hch, congrArg SvcChan.sentAt hch, hsame⟩

theorem go_refused (hbusy : s.dev.on (F.SLK_CSc_STAT_BUSY c) = true) :
    ∃ t, exec (.go c) s = .next t ∧ s.sameStores t ∧ t.dev.out = [] ∧ t.dev.on F.SYS_FLAG_ACCESS_ERR = true ∧
      s.dev.sameRegsBut t.dev [F.SYS_FLAG_ACCESS_ERR, F.SYS_ERR_ADDR, F.SYS_ACCESS_CNT] := by
  have hbusy' : s.quietened.dev.on (F.SLK_CSc_STAT_BUSY c) = true := hbusy
  have hexec : exec (.go c) s = .next { s with dev := s.quietened.dev.accessErr (R.SLK_CSc_CTRL c) } := by
    refine ((show exec (.go c) s = execGo c s from rfl).trans (onDev_next _ s)).trans ?_
    unfold Dev.svcGo
    rw [if_pos hbusy']
  obtain ⟨herr, -, -, hsame⟩ := s.quietened.dev.accessErr_does (R.SLK_CSc_CTRL c) (by simp only [R.SLK_CSc_CTRL]; omega)
  exact ⟨_, hexec, s.sameStores_of_dev _, Dev.accessErr_out _ _, herr, hsame⟩

theorem reply_does {q : Fin 64} {blk : List Byte} (hq : q.val / 4 = c.val) (hbusy : s.dev.on (F.SLK_CSc_STAT_BUSY c) = true)
    (hbcast : (s.dev.svch c).bcast = false) (htag : leAt blk 1 1 = (s.dev.svch c).tag) :
    ∃ t, exec (.reply q blk) s = .next t ∧ s.sameStores t ∧ t.dev.on (F.SLK_CSc_STAT_BUSY c) = false ∧
      t.dev.val (F.SLK_CSc_RDATA c) = leAt blk 3 4 ∧ t.dev.on (F.SLK_CSc_FLAG_DONE c) = true ∧
      s.dev.sameRegsBut t.dev [F.SLK_CSc_STAT_BUSY c, F.SLK_CSc_RDATA c, F.SLK_CSc_FLAG_DONE c] := by
  have hbusy' : s.quietened.dev.on (F.SLK_CSc_STAT_BUSY c) = true := hbusy
  have hbcast' : (s.quietened.dev.svch c).bcast = false := hbcast
  have htag' : leAt blk 1 1 = (s.quietened.dev.svch c).tag := htag
  have hexec : exec (.reply q blk) s = .next { s with dev := s.quietened.dev.replied c blk } := by
    show execReply q blk s = _
    unfold execReply
    rw [onDev_next, hq]
    dsimp only
    rw [if_neg (by simp [hbusy', hbcast', htag'])]
    rfl
  exact ⟨_, hexec, s.sameStores_of_dev _, Dev.replied_does c.isLt s.quietened.dev blk⟩

theorem bcastFrameEnd_does (hbusy : s.dev.on (F.SLK_CSc_STAT_BUSY c) = true) (hbcast : (s.dev.svch c).bcast = true) :
    ∃ t, exec (.bcastFrameEnd c) s = .next t ∧ s.sameStores t ∧ t.dev.on (F.SLK_CSc_STAT_BUSY c) = false ∧
      (t.dev.svch c).frame = [] ∧ s.dev.now ≤ t.dev.now ∧ s.dev.sameRegsBut t.dev [F.SLK_CSc_STAT_BUSY c, F.MER_TIME] := by
  have hbusy' : s.quietened.dev.on (F.SLK_CSc_STAT_BUSY c) = true := hbusy
  have hbcast' : (s.quietened.dev.svch c).bcast = true := hbcast
  have hexec : exec (.bcastFrameEnd c) s = .next { s with dev :=
      ((s.quietened.dev.frameEnd c).mark (F.SLK_CSc_STAT_BUSY c) false) } := by
    show execBcastFrameEnd c s = _
    unfold execBcastFrameEnd
    rw [onDev_next]
    dsimp only
    rw [if_neg (by simp [hbusy', hbcast'])]
  have htouch : s.quietened.dev.Touches (fun a => a = R.SLK_CSc_STAT c ∨ F.MER_TIME.At a)
      ((s.quietened.dev.frameEnd c).mark (F.SLK_CSc_STAT_BUSY c) false) :=
    ((s.quietened.dev.frameEnd_touches c).mono fun _ => .inr).mark (f := F.SLK_CSc_STAT_BUSY c) (.inl rfl) _
  refine ⟨_, hexec, s.sameStores_of_dev _, Dev.on_mark_self _ rfl (by simp [F.SLK_CSc_STAT_BUSY]) _, ?_, ?_,
    htouch.sameRegsBut (d := s.quietened.dev) fun a ha => ?_⟩
  · rw [Dev.svch_of_slk (Dev.mark_slk _ _ _), Dev.frameEnd_frame]
  · rw [Dev.mark_now]
    exact s.quietened.dev.frameEnd_now c
  · rcases ha with rfl | ha
    · exact ⟨F.SLK_CSc_STAT_BUSY c, by simp, .inl rfl⟩
    · exact ⟨F.MER_TIME, by simp, ha⟩

theorem timeout_does (hbusy : s.dev.on (F.SLK_CSc_STAT_BUSY c) = true) (hbcast : (s.dev.svch c).bcast = false) :
    ∃ t, exec (.timeout c) s = .next t ∧ s.sameStores t ∧ t.dev.on (F.SLK_CSc_STAT_BUSY c) = false ∧
      t.dev.on (F.SLK_CSc_FLAG_TIMEOUT c) = true ∧
      t.dev.val (F.SLK_CSc_TIMEOUT_CNT c) = min 0xFFFFFFFF (s.dev.val (F.SLK_CSc_TIMEOUT_CNT c) + 1) ∧
      (s.dev.svch c).sentAt + 1000 * max 1 (s.dev.val (F.SLK_CSc_TIMEOUT c)) ≤ t.dev.now ∧
      s.dev.sameRegsBut t.dev [F.SLK_CSc_STAT_BUSY c, F.SLK_CSc_FLAG_TIMEOUT c, F.SLK_CSc_TIMEOUT_CNT c, F.MER_TIME] := by
  have hbusy' : s.quietened.dev.on (F.SLK_CSc_STAT_BUSY c) = true := hbusy
  have hbcast' : (s.quietened.dev.svch c).bcast = false := hbcast
  have hexec : exec (.timeout c) s = .next { s with dev := (s.quietened.dev.timedOut c
      ((s.quietened.dev.svch c).sentAt + 1000 * max 1 (s.quietened.dev.val (F.SLK_CSc_TIMEOUT c)))) } := by
    show execTimeout c s = _
    unfold execTimeout
    rw [onDev_next]
    dsimp only
    rw [if_neg (by simp [hbusy', hbcast'])]
    rfl
  exact ⟨_, hexec, s.sameStores_of_dev _, Dev.timedOut_does c.isLt s.quietened.dev _⟩

end

/-- Settles O29: nothing waits longer on a service channel than its fuel counts, so that a frame and a flow symbol leave. -/
theorem serviceChannelTalksToCameras : Obligations.ServiceChannelTalksToCameras := by
  intro s c q d x
  refine ⟨fun hbusy hruns => go_does hbusy hruns, fun hbusy => go_refused hbusy,
    fun blk hq hbusy hbcast htag => reply_does hq hbusy hbcast htag, fun hbusy hbcast => bcastFrameEnd_does hbusy hbcast,
    fun hbusy hbcast => timeout_does hbusy hbcast, fun rest hreq => ?_, fun rest hreq => ?_⟩
  · exact ⟨_, (show exec (.xoff q) s = execXoff q s from rfl).trans (onDev_next _ s), s.sameStores_of_dev _,
      Dev.flowSymbol_does hreq⟩
  · exact ⟨_, (show exec (.xon q) s = execXon q s from rfl).trans (onDev_next _ s), s.sameStores_of_dev _,
      Dev.flowSymbol_does hreq⟩

end Sys2Proof.Machine
end

/-! PROOFS. What contexts and pipelines do to the lines in reception (R97 to R109, R137, R173). -/
section
-- One lemma at a time: elaborated side by side they take more threads than the check's memory limit leaves room for.
set_option Elab.async false
namespace Sys2Proof.Machine

/-! ### Work that leaves lines in reception open -/

/-- Operations that write registers of `W` alone and leave the instant, the triggers and the line that each stream
receives. -/
structure Dev.Passes (W : Nat → Prop) (d e : Dev) : Prop where
  touches : d.Touches W e
  now : e.now = d.now
  trg : e.trg = d.trg
  opened : ∀ q, (e.lstr q).opened = (d.lstr q).opened

namespace Dev.Passes

variable {W : Nat → Prop} {d e : Dev}

theorem refl (W : Nat → Prop) (d : Dev) : d.Passes W d := ⟨.refl W d, rfl, rfl, fun _ => rfl⟩

theorem trans {f : Dev} (h : d.Passes W e) (g : e.Passes W f) : d.Passes W f :=
  ⟨h.touches.trans g.touches, g.now.trans h.now, g.trg.trans h.trg, fun q => (g.opened q).trans (h.opened q)⟩

/-- A change beside the registers, the triggers and the link. -/
theorem of_regs (h1 : e.regs = d.regs) (h2 : e.restart = d.restart) (h3 : e.dma = d.dma) (h4 : e.now = d.now)
    (h5 : e.trg = d.trg) (h6 : e.slk = d.slk) : d.Passes W e :=
  ⟨.of_regs h1 h2 h3, h4, h5, fun q => by rw [Dev.lstr_of_slk h6]⟩

/-- A change of registers. -/
theorem regsEvt (h : d.RegsEvt e) (g : d.Touches W e) : d.Passes W e :=
  ⟨g, h.keeps_now, h.keeps_trg, fun q => by rw [Dev.lstr_of_slk h.keeps_slk]⟩

theorem put (h : d.Passes W e) {f : Fld} (hW : W f.addr) (v : Nat) (hn : (f.lo + f.len).ble 32 = true := by rfl) :
    d.Passes W (e.put f v) := h.trans (.regsEvt (e.regsEvt_put f v) ((Dev.Touches.refl W e).put hW v hn))

theorem putWide (h : d.Passes W e) {f : Fld} (hW : W f.addr) (hW' : W (f.addr + 4)) (v : Nat) : d.Passes W (e.put f v) :=
  h.trans (.regsEvt (e.regsEvt_put f v) ((Dev.Touches.refl W e).putWide hW hW' v))

theorem mark (h : d.Passes W e) {f : Fld} (hW : W f.addr) (b : Bool) (hn : (f.lo + f.len).ble 32 = true := by rfl) :
    d.Passes W (e.mark f b) := h.put hW _ hn

theorem inc (h : d.Passes W e) {f : Fld} (hW : W f.addr) (hn : (f.lo + f.len).ble 32 = true := by rfl) :
    d.Passes W (e.inc f) := h.put hW _ hn

theorem raise (h : d.Passes W e) {f : Fld} (hW : W f.addr) (hn : (f.lo + f.len).ble 32 = true := by rfl) :
    d.Passes W (e.raise f) := h.trans (.regsEvt (e.regsEvt_raise f) ((Dev.Touches.refl W e).raise hW hn))

theorem ite {c : Prop} [Decidable c] {f : Dev} (h : d.Passes W e) (g : d.Passes W f) :
    d.Passes W (if c then e else f) := by
  split
  · exact h
  · exact g

theorem raiseIf (h : d.Passes W e) {f : Fld} (hW : W f.addr) (b : Bool) (hn : (f.lo + f.len).ble 32 = true := by rfl) :
    d.Passes W (e.raiseIf b f) := .ite (h.raise hW hn) h

theorem drained (h : d.Passes W e) {idle : Fld} (hW : W idle.addr) (en : Fld)
    (hn : (idle.lo + idle.len).ble 32 = true := by rfl) : d.Passes W (e.drained en idle).1 :=
  h.trans ⟨(Dev.Touches.refl W e).drained hW en hn, Dev.drained_now .., Dev.drained_trg ..,
    fun q => by rw [Dev.lstr_of_slk (Dev.drained_slk ..)]⟩

theorem foldl {α : Type} (g : Dev → α → Dev) (hg : ∀ x c, Dev.Passes W c (g c x)) :
    ∀ (l : List α) {e : Dev} (_ : d.Passes W e), d.Passes W (l.foldl g e)
  | [], _, h => h
  | x :: l, e, h => foldl g hg l (h.trans (hg x e))

/-- A change of what a stream holds beside the line that it receives. -/
theorem setLstr (h : d.Passes W e) {s : Nat} {x : LinkStream} (hx : x.opened = (e.lstr s).opened) :
    d.Passes W (e.setLstr s x) := by
  refine h.trans ⟨(Dev.Touches.refl W e).setLstr s x, rfl, rfl, fun q => ?_⟩
  by_cases hq : s = q
  · rw [← hq, Dev.lstr_setLstr, hx]
  · rw [Dev.lstr_setLstr_ne _ hq]

theorem setLane (h : d.Passes W e) (l : Nat) (x : Lane) : d.Passes W (e.setLane l x) :=
  h.trans ⟨(Dev.Touches.refl W e).setLane l x, rfl, rfl, fun _ => by rw [Dev.lstr_setLane]⟩

theorem setCtx (h : d.Passes W e) (n m : Nat) (x : Ctx) : d.Passes W (e.setCtx n m x) :=
  h.trans (.of_regs rfl rfl rfl rfl rfl rfl)

theorem setCam (h : d.Passes W e) (s : Nat) (x : Cam) : d.Passes W (e.setCam s x) :=
  h.trans (.of_regs rfl rfl rfl rfl rfl rfl)

theorem emit (h : d.Passes W e) (o : Out) : d.Passes W (e.emit o) := h.trans (.of_regs rfl rfl rfl rfl rfl rfl)

end Dev.Passes

/-! ### The registers of the contexts and the pipelines -/

/-- The registers from those of the Reckoner on, the levels of the pins, and the registers that show streams. -/
def PipeReg (a : Nat) : Prop :=
  0x40130000 ≤ a ∨ (∃ w, w < 8 ∧ a = R.SYS_UTP_INw w) ∨ ∃ s, s < 64 ∧ a = R.SLK_Ss_STAT s

theorem pipeReg_ctx {o i j : Nat} (ho : Nat.ble 0x40130000 o = true := by rfl) : PipeReg (o + i + j) :=
  .inl (by have := Nat.le_of_ble_eq_true ho; omega)

theorem pipeReg_block {o : Nat} (ho : Nat.ble 0x40130000 o = true := by rfl) : PipeReg o :=
  .inl (Nat.le_of_ble_eq_true ho)

theorem pipeReg_one {o i : Nat} (ho : Nat.ble 0x40130000 o = true := by rfl) : PipeReg (o + i) :=
  .inl (by have := Nat.le_of_ble_eq_true ho; omega)

namespace Dev.Passes

variable {d e : Dev} {n m : Nat}

theorem utpRefresh (h : d.Passes PipeReg e) {u : Nat} (hu : u < 256) : d.Passes PipeReg (e.utpRefresh u) := by
  have hpin : PipeReg (R.SYS_UTP_INw (u / 32)) := .inr (.inl ⟨u / 32, by omega, rfl⟩)
  have hn : Nat.ble (u % 32 + 1) 32 = true := Nat.ble_eq.mpr (by omega)
  unfold Dev.utpRefresh
  extract_lets f
  split
  · exact h.put (f := f) hpin 0 hn
  · split
    · exact h
    · exact .ite h ((h.mark (f := f) hpin _ hn).emit _)

theorem setXoff (h : d.Passes PipeReg e) (n m : Nat) (b : Bool) : d.Passes PipeReg (e.setXoff n m b) := by
  have hs : e.val (F.PLn_CTXm_CFG_STREAM n m) < 64 := e.val_lt _
  unfold Dev.setXoff
  extract_lets s e1 e2 l e3
  have h1 : d.Passes PipeReg e1 := (h.mark (f := F.PLn_CTXm_STAT_XOFF n m) pipeReg_ctx b).mark (f := F.SLK_Ss_STAT_XOFF s)
    (.inr (.inr ⟨s, hs, rfl⟩)) b
  have h2 : d.Passes PipeReg e2 := .ite (h1.inc (f := F.PLn_CTXm_XOFF_CNT n m) pipeReg_ctx) h1
  have h3 : d.Passes PipeReg e3 := h2.setLstr rfl
  exact .ite (h3.utpRefresh (e3.val_lt (F.PLn_CTXm_PIN_UTP n m))) h3

theorem releaseXoff (h : d.Passes PipeReg e) (n m : Nat) : d.Passes PipeReg (e.releaseXoff n m) :=
  .ite (h.setXoff n m false) h

theorem ctxShow (h : d.Passes PipeReg e) (n m : Nat) : d.Passes PipeReg (e.ctxShow n m) := by
  unfold Dev.ctxShow
  extract_lets c fill e1 e2 ready e3 held
  have h2 : d.Passes PipeReg e2 := (h.put (f := F.PLn_CTXm_STAT_FILL n m) pipeReg_ctx fill).put
    (f := F.PLn_CTXm_STAT_LINES n m) pipeReg_ctx _
  have h3 : d.Passes PipeReg e3 := h2.putWide (f := ⟨R.PLn_ARB_STAT n, 4 + m, 1⟩) pipeReg_one pipeReg_ctx _
  exact .ite (h3.setXoff n m true) (.ite (h3.setXoff n m false) h3)

theorem lineless {W : Nat → Prop} (h : d.Passes W e) (s : Nat) (k : Int) : d.Passes W (e.lineless s k) := h.setCam _ _

theorem dropLine (h : d.Passes PipeReg e) (n m s : Nat) (k : Int) (flag : Bool) :
    d.Passes PipeReg (e.dropLine n m s k flag) :=
  ((h.lineless s k).inc (f := F.PLn_CTXm_DROP_CNT n m) pipeReg_ctx).raiseIf (f := F.PLn_CTXm_FLAG_DROP n m) pipeReg_ctx flag

theorem letIn (h : d.Passes PipeReg e) (n m : Nat) (t : LineTag) : d.Passes PipeReg (e.letIn n m t).1 := by
  unfold Dev.letIn
  extract_lets c w l
  split
  · exact h.dropLine n m t.stream t.k false
  · split
    · exact h.dropLine n m t.stream t.k true
    · exact (h.setCtx n m _).ctxShow n m

theorem finishLine (h : d.Passes PipeReg e) (n m : Nat) (done : Option (LineTag × List Nat)) :
    d.Passes PipeReg (e.finishLine n m done) := (h.setCtx n m _).ctxShow n m

theorem recSettle (h : d.Passes PipeReg e) (n m : Nat) : d.Passes PipeReg (e.recSettle n m) := by
  unfold Dev.recSettle
  extract_lets c
  split
  · exact .ite (h.setCtx n m _) h
  · exact h

theorem dynUpdate (h : d.Passes PipeReg e) (n m : Nat) (cands : List Nat) (ovf : Bool) :
    d.Passes PipeReg (e.dynUpdate n m cands ovf) :=
  ((h.setCtx n m _).put (f := F.PLn_CTXm_DYN_CFG_DYN_COUNT n m) pipeReg_ctx _).raiseIf
    (f := F.PLn_CTXm_CAL_FLAG_DYN_OVF n m) pipeReg_ctx _

theorem closeTile (h : d.Passes PipeReg e) (n m : Nat) (part : Bool) : d.Passes PipeReg (e.closeTile n m part) := by
  unfold Dev.closeTile
  split
  · exact h
  · extract_lets k half all cands ovf means bytes e1 e2 _ c e3
    have h1 : d.Passes PipeReg e1 := h.trans (.of_regs rfl rfl rfl rfl rfl rfl)
    have h2 : d.Passes PipeReg e2 := h1.recSettle n m
    have h3 : d.Passes PipeReg e3 := .ite (((h2.setCtx n m c).raise (f := F.PLn_CTXm_FLAG_STATS_DROP n m) pipeReg_ctx).inc
      (f := F.PLn_CTXm_STATS_DROP_CNT n m) pipeReg_ctx) (h2.setCtx n m _)
    exact .ite (h3.dynUpdate n m _ _) h3

theorem reportLine (h : d.Passes PipeReg e) (l : LineOut) : d.Passes PipeReg (e.reportLine l) := by
  unfold Dev.reportLine
  extract_lets s cam waits
  exact .ite h (.ite (h.setCam s _) ((h.raise (f := F.STC_CAMs_FLAG_LATE s) pipeReg_one).inc
    (f := F.STC_CAMs_LATE_CNT s) pipeReg_one))

theorem ctxFresh (h : d.Passes PipeReg e) (n m : Nat) : d.Passes PipeReg (e.ctxFresh n m) :=
  (h.setCtx n m _).put (f := F.PLn_CTXm_CAL_STAT_TEMP_F n m) pipeReg_ctx _

theorem ctxSettle (h : d.Passes PipeReg e) (n m : Nat) : d.Passes PipeReg (e.ctxSettle n m) := by
  unfold Dev.ctxSettle
  split
  · exact h
  · extract_lets e1 r
    have h1 : d.Passes PipeReg e1 := (h.closeTile n m true).releaseXoff n m
    have hr : d.Passes PipeReg r.1 := by
      simp only [r]
      exact h1.drained (idle := F.PLn_CTXm_STAT_IDLE n m) pipeReg_ctx _
    exact .ite (hr.ctxFresh n m) hr

theorem moveEnd (h : d.Passes PipeReg e) : d.Passes PipeReg e.moveEnd := by
  unfold Dev.moveEnd
  split
  · rename_i g _
    have hended : d.Passes PipeReg { e with seg := { e.seg with mig := none } } := h.trans (.of_regs rfl rfl rfl rfl rfl rfl)
    exact .ite h (.ite h ((hended.mark (f := F.SEG_STAT_MIG_ACTIVE) pipeReg_block false).raise (f := F.SEG_FLAG_MIG_DONE)
      pipeReg_block))
  · exact h

theorem frontDone (h : d.Passes PipeReg e) (n : Nat) : d.Passes PipeReg (e.frontDone n) := by
  unfold Dev.frontDone
  extract_lets f e1
  split
  · exact h
  · split
    · exact h
    · rename_i m l _ _
      extract_lets c e2
      have h1 : d.Passes PipeReg e1 := h.trans (.of_regs rfl rfl rfl rfl rfl rfl)
      have h2 : d.Passes PipeReg e2 := (h1.setCtx n m _).ctxShow n m
      exact (((h2.mark (f := F.PLn_ARB_STAT_BUSY n) pipeReg_one false).reportLine l).ctxSettle n m).moveEnd

end Dev.Passes

/-! ### A port that drains (R9, R88, R92) -/

/-- The registers of the lanes and of the camera ports but those that hold their EN. -/
def LinkStopReg (a : Nat) : Prop := 0x40121000 ≤ a ∧ a < 0x40123000 ∧ a % 0x40 ≠ 0

namespace Dev.Passes

variable {d e : Dev}

theorem linkRefresh (h : d.Passes LinkStopReg e) {p : Nat} (hp : p < 16) : d.Passes LinkStopReg (e.linkRefresh p) :=
  h.trans (.regsEvt (e.linkRefresh_regsEvt p) ((e.linkRefresh_touches hp).mono fun a ha => by
    unfold CamPortReg at ha
    unfold LinkStopReg
    omega))

theorem laneOff (h : d.Passes LinkStopReg e) {l : Nat} (hl : l < 64) : d.Passes LinkStopReg (e.laneOff l) := by
  have hstat : LinkStopReg (R.SLK_Ll_STAT l) := by simp only [LinkStopReg, R.SLK_Ll_STAT]; omega
  unfold Dev.laneOff
  extract_lets e1 e2 s _ e3
  have h2 : d.Passes LinkStopReg e2 := ((h.put (f := F.SLK_Ll_STAT_PSTATE l) hstat 2).mark (f := F.SLK_Ll_STAT_CDR_LOCK l) hstat
    false).mark (f := F.SLK_Ll_STAT_BLOCK_LOCK l) hstat false
  have h3 : d.Passes LinkStopReg e3 := h2.setLstr rfl
  exact (h3.setLane l _).linkRefresh (by omega)

theorem laneSettle (h : d.Passes LinkStopReg e) {l : Nat} (hl : l < 64) : d.Passes LinkStopReg (e.laneSettle l) :=
  .ite h ((h.laneOff hl).drained (idle := F.SLK_Ll_STAT_IDLE l)
    (by simp only [LinkStopReg, F.SLK_Ll_STAT_IDLE, R.SLK_Ll_STAT]; omega) _)

theorem lanesSettle (h : d.Passes LinkStopReg e) {p : Nat} (hp : p < 16) : d.Passes LinkStopReg (e.lanesSettle p) :=
  (((h.laneSettle (by omega)).laneSettle (by omega)).laneSettle (by omega)).laneSettle (by omega)

theorem portSettle (h : d.Passes LinkStopReg e) {p : Nat} (hp : p < 16) : d.Passes LinkStopReg (e.portSettle p) := by
  unfold Dev.portSettle
  extract_lets e1 busy r
  have h1 : d.Passes LinkStopReg e1 := h.lanesSettle hp
  split
  · exact h1
  · have hr : d.Passes LinkStopReg r.1 := h1.drained (idle := F.SLK_CPp_STAT_IDLE p)
      (by simp only [LinkStopReg, F.SLK_CPp_STAT_IDLE, R.SLK_CPp_STAT]; omega) _
    split
    · refine hr.foldl _ (fun v c => ?_) _
      exact (Dev.Passes.refl _ c).setLstr rfl
    · exact hr

end Dev.Passes

end Sys2Proof.Machine
end

/-! PROOFS. LinePacketsAreReceived (R82 to R90, R93). -/
section
-- One lemma at a time: elaborated side by side they take more threads than the check's memory limit leaves room for.
set_option Elab.async false
namespace Sys2Proof.Machine

/-! ### The registers of a stream -/

theorem lineReg_window {o q : Nat} (ho : o < 0x80) (hq : q < 64) : (0x40123000 + o + q * 0x80) / 0x10000 = 0x4012 := by omega

/-- The registers of a stream lie apart. -/
theorem lineReg_ne {o o' : Nat} (q : Nat) (h : o ≠ o') : 0x40123000 + o + q * 0x80 ≠ 0x40123000 + o' + q * 0x80 := by omega

/-- What contexts, pipelines and a port that drains write, of which a stream's STAT alone is one of its registers. -/
def LineRestReg (a : Nat) : Prop := PipeReg a ∨ LinkStopReg a

theorem not_lineRestReg {o q : Nat} (ho : o < 0x80) (hq : q < 64) (h : o ≠ 0x10) :
    ¬ LineRestReg (0x40123000 + o + q * 0x80) := by
  unfold LineRestReg PipeReg LinkStopReg
  rintro ((h | ⟨w, hw, h⟩ | ⟨s, hs, h⟩) | h)
  · omega
  · simp only [R.SYS_UTP_INw] at h
    omega
  · simp only [R.SLK_Ss_STAT] at h
    omega
  · omega

/-- A stream's registers but STAT hold what they held. -/
theorem Dev.Passes.reads_stream {d e : Dev} (h : d.Passes LineRestReg e) {o q : Nat} {f : Fld}
    (hf : f.addr = 0x40123000 + o + q * 0x80) (ho : o < 0x80) (hq : q < 64) (h10 : o ≠ 0x10)
    (hn : (f.lo + f.len).ble 32 = true := by rfl) : e.val f = d.val f :=
  h.touches.reads_link (by rw [hf]; exact lineReg_window ho hq) (by rw [hf]; exact not_lineRestReg ho hq h10) hn

theorem Dev.Passes.mono {W V : Nat → Prop} {d e : Dev} (h : d.Passes W e) (hV : ∀ a, W a → V a) : d.Passes V e :=
  ⟨h.touches.mono hV, h.now, h.trg, h.opened⟩

/-! ### A flag and its counter -/

/-- A flag is raised and its counter moves on, where `c` holds. -/
def Dev.flagIf (d : Dev) (c : Prop) [Decidable c] (f cnt : Fld) : Dev := if c then (d.raise f).inc cnt else d

section
variable (d : Dev) (c : Prop) [Decidable c] {f cnt g : Fld}

theorem Dev.flagIf_regsEvt : d.RegsEvt (d.flagIf c f cnt) := by
  unfold Dev.flagIf
  split
  · exact (d.regsEvt_raise f).trans (Dev.regsEvt_inc _ _)
  · exact .refl _

theorem Dev.flagIf_touches {W : Nat → Prop} (hf : W f.addr) (hcnt : W cnt.addr) (hn : (f.lo + f.len).ble 32 = true := by rfl)
    (hn' : (cnt.lo + cnt.len).ble 32 = true := by rfl) : d.Touches W (d.flagIf c f cnt) :=
  .ite (((Dev.Touches.refl W d).raise hf hn).inc hcnt hn') (.refl W d)

theorem Dev.flagIf_val (hf : f.Apart g) (hcnt : cnt.Apart g) (hq : g.quiet) : (d.flagIf c f cnt).val g = d.val g := by
  unfold Dev.flagIf
  split
  · rw [Dev.val_inc_apart _ hcnt, Dev.val_raise_apart _ hf hq]
  · rfl

theorem Dev.flagIf_does (hc : c) (hne : f.addr ≠ cnt.addr) (hqf : f.quiet) (hqc : cnt.quiet) (hf : f.len = 1 := by rfl)
    (hlo : f.lo.blt 32 = true := by rfl) (hcnt : cnt.len = 32 := by rfl) (hzero : cnt.lo = 0 := by rfl) :
    (d.flagIf c f cnt).on f = true ∧ (d.flagIf c f cnt).val cnt = min 0xFFFFFFFF (d.val cnt + 1) := by
  have hlo : f.lo < 32 := Nat.blt_eq.mp hlo
  have hn : (f.lo + f.len).ble 32 = true := Nat.ble_eq.mpr (by omega)
  have hn' : (cnt.lo + cnt.len).ble 32 = true := Nat.ble_eq.mpr (by omega)
  unfold Dev.flagIf
  rw [if_pos hc]
  refine ⟨?_, ?_⟩
  · unfold Dev.on
    rw [Dev.val_inc_apart _ (Fld.apart_of_ne hne.symm hn' hn)]
    exact Dev.on_raise_self _ hf hlo hqf
  · rw [Dev.val_inc_self _ hcnt hzero, Dev.val_raise_apart _ (Fld.apart_of_ne hne hn hn') hqc]

end

/-! ### The end of a line (R87, R88) -/

/-- The block once an ended line is judged and counted, before the contexts that took it get it. -/
def Dev.lineClosed (d : Dev) (q : Nat) (frame : Bool) (n L lcnt : Nat) : Dev :=
  let e := d.flagIf (frame = true) (F.SLK_Ss_FLAG_FRAME_ERR q) (F.SLK_Ss_FRAME_ERR_CNT q)
  let e := e.flagIf (n < L) (F.SLK_Ss_FLAG_SHORT q) (F.SLK_Ss_SHORT_CNT q)
  let e := e.flagIf (L < n) (F.SLK_Ss_FLAG_LONG q) (F.SLK_Ss_LONG_CNT q)
  let e := (e.inc (F.SLK_Ss_LINE_CNT q)).put (F.SLK_Ss_LAST_LCNT q) lcnt
  e.setLstr q { e.lstr q with opened := none }

theorem Dev.endLine_eq (d : Dev) (q : Nat) (o : OpenLine) (tag : LineTag) (frame : Bool) :
    ∃ (frame' : Bool) (n L : Nat) (done : LineTag × List Nat), (frame = true → frame' = true) ∧
      d.endLine q o tag frame =
        o.dests.foldl (fun d c => d.finishLine (c / 4) (c % 4) (some done)) (d.lineClosed q frame' n L tag.lcnt) := by
  unfold Dev.endLine
  extract_lets b L whole n frame' got fill px e1 e2 e3 tag' e4 e5 _ e6
  refine ⟨frame', n, L, (tag', px), fun h => ?_, rfl⟩
  simp only [frame', h, Bool.true_or]

section
variable {d : Dev} {q : Nat} (frame : Bool) (n L lcnt : Nat)

/-- The flags and counters of an ended line, before its count. -/
def Dev.lineJudged (d : Dev) (q : Nat) (frame : Bool) (n L : Nat) : Dev :=
  ((d.flagIf (frame = true) (F.SLK_Ss_FLAG_FRAME_ERR q) (F.SLK_Ss_FRAME_ERR_CNT q)).flagIf (n < L) (F.SLK_Ss_FLAG_SHORT q)
    (F.SLK_Ss_SHORT_CNT q)).flagIf (L < n) (F.SLK_Ss_FLAG_LONG q) (F.SLK_Ss_LONG_CNT q)

theorem Dev.lineJudged_regsEvt : d.RegsEvt (d.lineJudged q frame n L) :=
  ((d.flagIf_regsEvt _).trans (Dev.flagIf_regsEvt _ _)).trans (Dev.flagIf_regsEvt _ _)

theorem Dev.lineJudged_touches : d.Touches (fun a => a = R.SLK_Ss_FLAG q ∨ a = R.SLK_Ss_FRAME_ERR_CNT q ∨
    a = R.SLK_Ss_SHORT_CNT q ∨ a = R.SLK_Ss_LONG_CNT q) (d.lineJudged q frame n L) :=
  ((d.flagIf_touches _ (f := F.SLK_Ss_FLAG_FRAME_ERR q) (cnt := F.SLK_Ss_FRAME_ERR_CNT q) (.inl rfl) (.inr (.inl rfl))).trans
    (Dev.flagIf_touches _ _ (f := F.SLK_Ss_FLAG_SHORT q) (cnt := F.SLK_Ss_SHORT_CNT q) (.inl rfl) (.inr (.inr (.inl rfl))))).trans
    (Dev.flagIf_touches _ _ (f := F.SLK_Ss_FLAG_LONG q) (cnt := F.SLK_Ss_LONG_CNT q) (.inl rfl) (.inr (.inr (.inr rfl))))

theorem Dev.lineClosed_regs : (d.lineClosed q frame n L lcnt).regs =
    (((d.lineJudged q frame n L).inc (F.SLK_Ss_LINE_CNT q)).put (F.SLK_Ss_LAST_LCNT q) lcnt).regs := Dev.setLstr_regs _ _ _

theorem Dev.lineClosed_opened : ((d.lineClosed q frame n L lcnt).lstr q).opened = none := by
  unfold Dev.lineClosed
  extract_lets e1 e2 e3 e4
  rw [Dev.lstr_setLstr]

theorem Dev.lineClosed_now : (d.lineClosed q frame n L lcnt).now = d.now := by
  have hjudged : (d.lineJudged q frame n L).now = d.now := (Dev.lineJudged_regsEvt frame n L).keeps_now
  rw [← hjudged]
  exact (Dev.put_now _ _ _).trans (Dev.put_now _ _ _)

/-- A field of the stream's FLAG stands while a line is counted. -/
theorem Dev.lineClosed_flag {f : Fld} (hf : f.addr = R.SLK_Ss_FLAG q) (hn : (f.lo + f.len).ble 32 = true := by rfl) :
    (d.lineClosed q frame n L lcnt).val f = (d.lineJudged q frame n L).val f := by
  have hcnt : R.SLK_Ss_LINE_CNT q ≠ f.addr := by rw [hf]; exact lineReg_ne (o := 0x18) (o' := 0x14) q (by decide)
  have hlast : R.SLK_Ss_LAST_LCNT q ≠ f.addr := by rw [hf]; exact lineReg_ne (o := 0x44) (o' := 0x14) q (by decide)
  have hcntF : (F.SLK_Ss_LINE_CNT q).Apart f := Fld.apart_of_ne hcnt rfl hn
  have hlastF : (F.SLK_Ss_LAST_LCNT q).Apart f := Fld.apart_of_ne hlast rfl hn
  rw [Dev.val_of_regs (Dev.lineClosed_regs frame n L lcnt), Dev.val_put_apart _ hlastF, Dev.val_inc_apart _ hcntF]

/-- A flag of the stream that judging a line does not raise stands. -/
theorem Dev.lineClosed_keeps {f : Fld} (hq : q < 64) (hf : f.addr = R.SLK_Ss_FLAG q)
    (hframe : (F.SLK_Ss_FLAG_FRAME_ERR q).bitsApart f = true := by rfl)
    (hshort : (F.SLK_Ss_FLAG_SHORT q).bitsApart f = true := by rfl)
    (hlong : (F.SLK_Ss_FLAG_LONG q).bitsApart f = true := by rfl) (hn : (f.lo + f.len).ble 32 = true := by rfl) :
    (d.lineClosed q frame n L lcnt).val f = d.val f := by
  have hquiet : f.quiet := quiet_link (by rw [hf]; exact lineReg_window (o := 0x14) (by decide) hq) hn
  have hcnt : ∀ {o}, o ≠ 0x14 → 0x40123000 + o + q * 0x80 ≠ f.addr := fun ho => by
    rw [hf]
    exact lineReg_ne (o' := 0x14) q ho
  have h1 : (F.SLK_Ss_FRAME_ERR_CNT q).Apart f := Fld.apart_of_ne (hcnt (o := 0x2C) (by decide)) rfl hn
  have h2 : (F.SLK_Ss_SHORT_CNT q).Apart f := Fld.apart_of_ne (hcnt (o := 0x1C) (by decide)) rfl hn
  have h3 : (F.SLK_Ss_LONG_CNT q).Apart f := Fld.apart_of_ne (hcnt (o := 0x20) (by decide)) rfl hn
  rw [Dev.lineClosed_flag frame n L lcnt hf hn]
  unfold Dev.lineJudged
  rw [Dev.flagIf_val _ _ (Fld.apart_of_bits hf.symm hlong) h3 hquiet,
    Dev.flagIf_val _ _ (Fld.apart_of_bits hf.symm hshort) h2 hquiet,
    Dev.flagIf_val _ _ (Fld.apart_of_bits hf.symm hframe) h1 hquiet]

/-- A line cut or in error is flagged. -/
theorem Dev.lineClosed_frameErr (hq : q < 64) (hframe : frame = true) :
    (d.lineClosed q frame n L lcnt).on (F.SLK_Ss_FLAG_FRAME_ERR q) = true := by
  have hquiet : (F.SLK_Ss_FLAG_FRAME_ERR q).quiet := quiet_link (lineReg_window (o := 0x14) (by decide) hq)
  have hne : ∀ {o}, o ≠ 0x14 → 0x40123000 + o + q * 0x80 ≠ R.SLK_Ss_FLAG q := fun ho => lineReg_ne (o' := 0x14) q ho
  have hs : (F.SLK_Ss_SHORT_CNT q).Apart (F.SLK_Ss_FLAG_FRAME_ERR q) := Fld.apart_of_ne (hne (o := 0x1C) (by decide))
  have hl : (F.SLK_Ss_LONG_CNT q).Apart (F.SLK_Ss_FLAG_FRAME_ERR q) := Fld.apart_of_ne (hne (o := 0x20) (by decide))
  have hshort : (F.SLK_Ss_FLAG_SHORT q).Apart (F.SLK_Ss_FLAG_FRAME_ERR q) := Fld.apart_of_bits rfl
  have hlong : (F.SLK_Ss_FLAG_LONG q).Apart (F.SLK_Ss_FLAG_FRAME_ERR q) := Fld.apart_of_bits rfl
  have hval : (d.lineClosed q frame n L lcnt).val (F.SLK_Ss_FLAG_FRAME_ERR q) = (d.flagIf (frame = true)
      (F.SLK_Ss_FLAG_FRAME_ERR q) (F.SLK_Ss_FRAME_ERR_CNT q)).val (F.SLK_Ss_FLAG_FRAME_ERR q) := by
    rw [Dev.lineClosed_flag frame n L lcnt rfl]
    unfold Dev.lineJudged
    rw [Dev.flagIf_val _ _ hlong hl hquiet, Dev.flagIf_val _ _ hshort hs hquiet]
  refine (Dev.on_congr hval).trans ?_
  exact (d.flagIf_does _ hframe (hne (o := 0x2C) (by decide)).symm hquiet
    (quiet_link (lineReg_window (o := 0x2C) (by decide) hq))).1

theorem Dev.lineClosed_count (hq : q < 64) :
    (d.lineClosed q frame n L lcnt).val (F.SLK_Ss_LINE_CNT q) = min 0xFFFFFFFF (d.val (F.SLK_Ss_LINE_CNT q) + 1) := by
  have hlast : (F.SLK_Ss_LAST_LCNT q).Apart (F.SLK_Ss_LINE_CNT q) :=
    Fld.apart_of_ne (lineReg_ne (o := 0x44) (o' := 0x18) q (by decide))
  have hjudged : (d.lineJudged q frame n L).val (F.SLK_Ss_LINE_CNT q) = d.val (F.SLK_Ss_LINE_CNT q) :=
    (Dev.lineJudged_touches frame n L).reads_link (lineReg_window (o := 0x18) (by decide) hq) (by
      simp only [F.SLK_Ss_LINE_CNT, R.SLK_Ss_LINE_CNT, R.SLK_Ss_FLAG, R.SLK_Ss_FRAME_ERR_CNT, R.SLK_Ss_SHORT_CNT,
        R.SLK_Ss_LONG_CNT]
      omega)
  rw [Dev.val_of_regs (Dev.lineClosed_regs frame n L lcnt), Dev.val_put_apart _ hlast, Dev.val_inc_self _ rfl rfl, hjudged]

theorem Dev.lineClosed_crcCnt (hq : q < 64) :
    (d.lineClosed q frame n L lcnt).val (F.SLK_Ss_CRC_CNT q) = d.val (F.SLK_Ss_CRC_CNT q) := by
  have hne : ∀ {o}, o ≠ 0x24 → 0x40123000 + o + q * 0x80 ≠ R.SLK_Ss_CRC_CNT q := fun ho => lineReg_ne (o' := 0x24) q ho
  have hlast : (F.SLK_Ss_LAST_LCNT q).Apart (F.SLK_Ss_CRC_CNT q) := Fld.apart_of_ne (hne (o := 0x44) (by decide))
  have hcnt : (F.SLK_Ss_LINE_CNT q).Apart (F.SLK_Ss_CRC_CNT q) := Fld.apart_of_ne (hne (o := 0x18) (by decide))
  rw [Dev.val_of_regs (Dev.lineClosed_regs frame n L lcnt), Dev.val_put_apart _ hlast, Dev.val_inc_apart _ hcnt]
  exact (Dev.lineJudged_touches frame n L).reads_link (lineReg_window (o := 0x24) (by decide) hq) (by
      simp only [F.SLK_Ss_CRC_CNT, R.SLK_Ss_CRC_CNT, R.SLK_Ss_FLAG, R.SLK_Ss_FRAME_ERR_CNT, R.SLK_Ss_SHORT_CNT,
        R.SLK_Ss_LONG_CNT]
      omega)

end

/-- What follows once an ended line is counted: its contexts get it, and a port that drains may stop. -/
theorem Dev.lineEnd_passes (d : Dev) {q : Nat} (hq : q < 64) (o : OpenLine) (tag : LineTag) (frame : Bool) :
    ∃ (frame' : Bool) (n L : Nat), (frame = true → frame' = true) ∧
      (d.lineClosed q frame' n L tag.lcnt).Passes LineRestReg ((d.endLine q o tag frame).portSettle (q / 4)) := by
  obtain ⟨frame', n, L, done, hframe, hend⟩ := d.endLine_eq q o tag frame
  refine ⟨frame', n, L, hframe, ?_⟩
  rw [hend]
  have hcontexts := (Dev.Passes.refl PipeReg (d.lineClosed q frame' n L tag.lcnt)).foldl
    (fun d c => d.finishLine (c / 4) (c % 4) (some done)) (fun c x => (Dev.Passes.refl PipeReg x).finishLine _ _ _) o.dests
  exact (hcontexts.mono fun _ => .inl).trans (((Dev.Passes.refl LinkStopReg _).portSettle (by omega)).mono fun _ => .inr)

/-! ### EOL and LINE_END_TIMEOUT -/

section
variable {d : Dev} {q : Nat} (hq : q < 64)
include hq

/-- What the trailer of a line shows leaves its CRC's flag and the stream's counters. -/
theorem Dev.trailer_keeps (d : Dev) (c : List Byte) : (d.trailer q c).val (F.SLK_Ss_FLAG_CRC q) = d.val (F.SLK_Ss_FLAG_CRC q) ∧
    (d.trailer q c).val (F.SLK_Ss_CRC_CNT q) = d.val (F.SLK_Ss_CRC_CNT q) ∧
    (d.trailer q c).val (F.SLK_Ss_LINE_CNT q) = d.val (F.SLK_Ss_LINE_CNT q) := by
  have hne : R.SLK_Ss_STAT q ≠ R.SLK_Ss_FLAG q := lineReg_ne (o := 0x10) (o' := 0x14) q (by decide)
  have htemp : (F.SLK_Ss_STAT_TEMP q).Apart (F.SLK_Ss_FLAG_CRC q) := Fld.apart_of_ne hne
  have hstatus : (F.SLK_Ss_STAT_CAM_STATUS q).Apart (F.SLK_Ss_FLAG_CRC q) := Fld.apart_of_ne hne
  have halarm : (F.SLK_Ss_FLAG_CAM_ALARM q).Apart (F.SLK_Ss_FLAG_CRC q) := Fld.apart_of_bits rfl
  have hquiet : (F.SLK_Ss_FLAG_CRC q).quiet := quiet_link (lineReg_window (o := 0x14) (by decide) hq)
  have htouch : d.Touches (fun a => a = R.SLK_Ss_STAT q ∨ a = R.SLK_Ss_FLAG q) (d.trailer q c) :=
    (((Dev.Touches.refl _ d).put (f := F.SLK_Ss_STAT_TEMP q) (.inl rfl) _).put (f := F.SLK_Ss_STAT_CAM_STATUS q)
      (.inl rfl) _).raiseIf (f := F.SLK_Ss_FLAG_CAM_ALARM q) (.inr rfl) _
  have hcnt : ∀ {o}, o ≠ 0x10 → o ≠ 0x14 →
      ¬ (0x40123000 + o + q * 0x80 = R.SLK_Ss_STAT q ∨ 0x40123000 + o + q * 0x80 = R.SLK_Ss_FLAG q) := fun h h' => by
    simp only [R.SLK_Ss_STAT, R.SLK_Ss_FLAG]
    omega
  refine ⟨?_, htouch.reads_link (lineReg_window (o := 0x24) (by decide) hq) (hcnt (o := 0x24) (by decide) (by decide)),
    htouch.reads_link (lineReg_window (o := 0x18) (by decide) hq) (hcnt (o := 0x18) (by decide) (by decide))⟩
  unfold Dev.trailer Dev.raiseIf
  extract_lets status e
  have he : e.val (F.SLK_Ss_FLAG_CRC q) = d.val (F.SLK_Ss_FLAG_CRC q) := by
    simp only [e]
    rw [Dev.val_put_apart _ hstatus, Dev.val_put_apart _ htemp]
  split
  · rw [Dev.val_raise_apart _ halarm hquiet, he]
  · exact he

/-- A line that ends with its EOL: closed and counted, its CRC judged. -/
theorem Dev.eol_does (d : Dev) (crc : Bool) (c : List Byte) (o : OpenLine) (tag : LineTag) (frame : Bool) :
    let e := (((d.flagIf (crc = true) (F.SLK_Ss_FLAG_CRC q) (F.SLK_Ss_CRC_CNT q)).trailer q c).endLine q o tag frame).portSettle
      (q / 4)
    (e.lstr q).opened = none ∧ e.val (F.SLK_Ss_LINE_CNT q) = min 0xFFFFFFFF (d.val (F.SLK_Ss_LINE_CNT q) + 1) ∧
      (crc = true → e.on (F.SLK_Ss_FLAG_CRC q) = true ∧
        e.val (F.SLK_Ss_CRC_CNT q) = min 0xFFFFFFFF (d.val (F.SLK_Ss_CRC_CNT q) + 1)) := by
  obtain ⟨x, hx⟩ : ∃ x, x = d.flagIf (crc = true) (F.SLK_Ss_FLAG_CRC q) (F.SLK_Ss_CRC_CNT q) := ⟨_, rfl⟩
  obtain ⟨hflag, hcrcCnt, hlineCnt⟩ := x.trailer_keeps hq c
  obtain ⟨frame', n, L, -, hpass⟩ := (x.trailer q c).lineEnd_passes hq o tag frame
  have hne : R.SLK_Ss_FLAG q ≠ R.SLK_Ss_LINE_CNT q := lineReg_ne (o := 0x14) (o' := 0x18) q (by decide)
  have hne' : R.SLK_Ss_CRC_CNT q ≠ R.SLK_Ss_LINE_CNT q := lineReg_ne (o := 0x24) (o' := 0x18) q (by decide)
  have hflagCnt : (F.SLK_Ss_FLAG_CRC q).Apart (F.SLK_Ss_LINE_CNT q) := Fld.apart_of_ne hne
  have hcntCnt : (F.SLK_Ss_CRC_CNT q).Apart (F.SLK_Ss_LINE_CNT q) := Fld.apart_of_ne hne'
  have hcount : x.val (F.SLK_Ss_LINE_CNT q) = d.val (F.SLK_Ss_LINE_CNT q) := by
    rw [hx, Dev.flagIf_val _ _ hflagCnt hcntCnt (quiet_link (lineReg_window (o := 0x18) (by decide) hq))]
  intro e
  have he : e = ((x.trailer q c).endLine q o tag frame).portSettle (q / 4) := by rw [hx]
  rw [← he] at hpass
  refine ⟨(hpass.opened q).trans (Dev.lineClosed_opened frame' n L tag.lcnt), ?_, fun hcrc => ?_⟩
  · rw [hpass.reads_stream (o := 0x18) rfl (by decide) hq (by decide), Dev.lineClosed_count _ _ _ _ hq, hlineCnt, hcount]
  · obtain ⟨hon, hval⟩ := d.flagIf_does (f := F.SLK_Ss_FLAG_CRC q) (cnt := F.SLK_Ss_CRC_CNT q) (crc = true) hcrc
      (lineReg_ne (o := 0x14) (o' := 0x24) q (by decide)) (quiet_link (lineReg_window (o := 0x14) (by decide) hq))
      (quiet_link (lineReg_window (o := 0x24) (by decide) hq))
    rw [← hx] at hon hval
    refine ⟨?_, ?_⟩
    · refine (Dev.on_congr ?_).trans hon
      rw [hpass.reads_stream (o := 0x14) rfl (by decide) hq (by decide), Dev.lineClosed_keeps _ _ _ _ hq rfl, hflag]
    · rw [hpass.reads_stream (o := 0x24) rfl (by decide) hq (by decide), Dev.lineClosed_crcCnt _ _ _ _ hq, hcrcCnt, hval]

/-- A line cut: ended, flagged, at the same instant. -/
theorem Dev.cutLine_does {o : OpenLine} (h : (d.lstr q).opened = some o) : ((d.cutLine q).lstr q).opened = none ∧
    (d.cutLine q).on (F.SLK_Ss_FLAG_FRAME_ERR q) = true ∧ (d.cutLine q).now = d.now := by
  have hcut : d.cutLine q = (d.endLine q o { o.tag with poison := true } true).portSettle (q / 4) := by
    unfold Dev.cutLine
    rw [h]
  obtain ⟨frame', n, L, hframe, hpass⟩ := d.lineEnd_passes hq o { o.tag with poison := true } true
  rw [hcut]
  refine ⟨(hpass.opened q).trans (Dev.lineClosed_opened _ _ _ _), ?_, hpass.now.trans (Dev.lineClosed_now _ _ _ _)⟩
  exact (Dev.on_congr (hpass.reads_stream (o := 0x14) rfl (by decide) hq (by decide))).trans
    (Dev.lineClosed_frameErr _ _ _ _ hq (hframe rfl))

end

end Sys2Proof.Machine
end

/-! PROOFS. LinePacketsAreReceived (R82 to R90, R93): the packets, the ports and the commands. -/
section
-- One lemma at a time: elaborated side by side they take more threads than the check's memory limit leaves room for.
set_option Elab.async false
namespace Sys2Proof.Machine

/-! ### A packet whose header passes (R84, R86, R93) -/

section
variable {d : Dev} {q : Nat}

/-- The registers that judging a packet's LINE_CNT writes. -/
def GapReg (q a : Nat) : Prop := a = R.SLK_Ss_FLAG q ∨ a = R.SLK_Ss_GAP_CNT q

/-- The gap between a packet's LINE_CNT and the one before is counted, nothing where there is none (R86). -/
def Dev.gapCounted (d : Dev) (q lcnt : Nat) : Dev :=
  match (d.lstr q).prevLcnt with
  | none => d
  | some p =>
    let gap := (lcnt + 2 ^ 32 - p - 1 + 2 ^ 32) % 2 ^ 32
    if gap = 0 then d else (d.raise (F.SLK_Ss_FLAG_LINE_GAP q)).bump (F.SLK_Ss_GAP_CNT q) gap

theorem Dev.judgeCount_eq (d : Dev) (q lcnt : Nat) :
    d.judgeCount q lcnt = (d.gapCounted q lcnt).setLstr q { (d.gapCounted q lcnt).lstr q with prevLcnt := some lcnt } := rfl

theorem Dev.gapCounted_regsEvt (d : Dev) (q lcnt : Nat) : d.RegsEvt (d.gapCounted q lcnt) := by
  unfold Dev.gapCounted
  split
  · exact .refl d
  · extract_lets gap
    split
    · exact .refl d
    · exact (d.regsEvt_raise _).trans (Dev.regsEvt_put _ _ _)

theorem Dev.gapCounted_touches (d : Dev) (q lcnt : Nat) : d.Touches (GapReg q) (d.gapCounted q lcnt) := by
  unfold Dev.gapCounted
  split
  · exact .refl _ d
  · extract_lets gap
    exact .ite (.refl _ d) (((Dev.Touches.refl _ d).raise (f := F.SLK_Ss_FLAG_LINE_GAP q) (.inl rfl)).bump
      (f := F.SLK_Ss_GAP_CNT q) (.inr rfl) _)

/-- The block once a packet's shadows are handed over and its LINE_CNT is judged (R86, R93). -/
def Dev.packetShown (d : Dev) (q lcnt : Nat) : Dev := (d.lineHandOver q).judgeCount q lcnt

theorem Dev.lineHandOver_regsEvt (d : Dev) (q : Nat) : d.RegsEvt (d.lineHandOver q) :=
  ((d.regsEvt_setReg _ _).trans (Dev.regsEvt_setReg _ _ _)).trans (Dev.regsEvt_mark _ _ _)

theorem Dev.lineHandOver_act (d : Dev) (q : Nat) : (d.lineHandOver q).reg (R.SLK_Ss_LINE_ACT q) = d.reg (R.SLK_Ss_LINE_SH q) := by
  have hfill : R.SLK_Ss_FILL_ACT q ≠ R.SLK_Ss_LINE_ACT q := lineReg_ne (o := 0xC) (o' := 4) q (by decide)
  have hstat : R.SLK_Ss_LINE_ACT q ≠ R.SLK_Ss_STAT q := lineReg_ne (o := 4) (o' := 0x10) q (by decide)
  have hpend : ¬ (F.SLK_Ss_STAT_SHADOW_PEND q).At (R.SLK_Ss_LINE_ACT q) := Dev.Touches.not_at rfl hstat
  unfold Dev.lineHandOver
  dsimp only
  rw [Dev.reg_mark_ne _ hpend, Dev.reg_setReg_ne _ hfill, Dev.reg_setReg_self]

section
variable (lcnt : Nat)

theorem Dev.packetShown_trg : (d.packetShown q lcnt).trg = d.trg :=
  ((d.lineHandOver_regsEvt q).trans (Dev.gapCounted_regsEvt _ q lcnt)).keeps_trg

theorem Dev.packetShown_now : (d.packetShown q lcnt).now = d.now :=
  ((d.lineHandOver_regsEvt q).trans (Dev.gapCounted_regsEvt _ q lcnt)).keeps_now

theorem Dev.packetShown_restart : (d.packetShown q lcnt).restart = d.restart :=
  ((d.lineHandOver_regsEvt q).trans (Dev.gapCounted_regsEvt _ q lcnt)).keeps_restart

theorem Dev.packetShown_act (hq : q < 64) : (d.packetShown q lcnt).reg (R.SLK_Ss_LINE_ACT q) = d.reg (R.SLK_Ss_LINE_SH q) := by
  have hgap := ((d.lineHandOver q).gapCounted_touches q lcnt).reg (R.SLK_Ss_LINE_ACT q)
    (by simp only [GapReg, R.SLK_Ss_LINE_ACT, R.SLK_Ss_FLAG, R.SLK_Ss_GAP_CNT]; omega)
    (evIcu_of_window (w := 0x4012) (lineReg_window (o := 4) (by decide) hq) (by decide) (by decide))
  exact hgap.trans (d.lineHandOver_act q)

end

/-- A stream's stamps, once it starts afresh after a drain, are read from its triggers, the instant and the ENs that
wait. -/
theorem Dev.trgAgain_trgs_congr {e : Dev} (htrg : e.trg = d.trg) (hnow : e.now = d.now) (hrestart : e.restart = d.restart)
    (s : Nat) : (e.trgAgain s).trgs s = (d.trgAgain s).trgs s := by
  have htrgs : e.trgs s = d.trgs s := by
    unfold Dev.trgs
    rw [htrg]
  unfold Dev.trgAgain Dev.trgStart
  rw [hrestart, hnow, htrgs]
  split
  · rw [Dev.trgs_setTrgs, Dev.trgs_setTrgs, Dev.trgs_setTrgs, Dev.trgs_setTrgs]
  · exact htrgs

/-- The block once a stamp is marked USED. -/
def Dev.stampUsed (d : Dev) (q seq : Nat) : Dev :=
  let t := d.trgs q
  d.setTrgs q { t with stamps := tabSet {} t.stamps seq { (tabGet {} t.stamps seq : Stamp) with used := true } }

theorem Dev.stampUsed_used (d : Dev) (q seq : Nat) :
    (tabGet {} ((d.stampUsed q seq).trgs q).stamps seq : Stamp).used = true := by
  unfold Dev.stampUsed
  extract_lets t
  rw [Dev.trgs_setTrgs, tabGet_set_self]

/-- A stamp that was written and not used is taken. -/
theorem Dev.takeStamp_fresh {seq : Nat} {e : Stamp} (he : tabGet {} ((d.trgAgain q).trgs q).stamps seq = e)
    (hw : e.written = true) (hu : e.used = false) : d.takeStamp q seq = ((d.trgAgain q).stampUsed q seq, some e) := by
  unfold Dev.takeStamp
  extract_lets d' t e'
  have he' : e' = e := he
  rw [if_pos (by simp [he', hw, hu])]
  simp only [he']
  rw [← he]
  rfl

/-- The line's context admits it, where it has one (R95, R98). -/
def Dev.lineAdmitted (d : Dev) (q : Nat) (tag : LineTag) : Dev × List Nat :=
  match d.ctxOf q tag.k with
  | none => (d.lineless q tag.k, [])
  | some c =>
    let x := (d.frontDone c.1).letIn c.1 c.2 tag
    (x.1, if x.2 then [4 * c.1 + c.2] else [])

theorem Dev.lineAdmitted_passes (d : Dev) (q : Nat) (tag : LineTag) : d.Passes PipeReg (d.lineAdmitted q tag).1 := by
  unfold Dev.lineAdmitted
  split
  · exact (Dev.Passes.refl _ d).lineless q tag.k
  · rename_i c _
    exact ((Dev.Passes.refl _ d).frontDone c.1).letIn c.1 c.2 tag

/-- What the block holds of a line that has begun. -/
def lineBegun (q : Nat) (sol hdr : List Byte) (lanes b L : Nat) (e : Stamp) (dests : List Nat) : OpenLine :=
  { tag := { stream := q, lcnt := leAt sol 4 4, k := e.k, time := e.time, pos := e.pos, len := L, calRamp := e.calRamp,
             gain := e.gain, depth := b }
    hlen := leAt hdr 0 2, lanes := lanes, w := payloadWords (leAt hdr 0 2) b lanes, hdr := hdr, words := [], got := 0,
    poison := false, dests := dests, closing := none }

/-- The block once the line of a taken stamp is admitted and open. -/
def Dev.lineOpened (d : Dev) (q : Nat) (o : OpenLine) : Dev :=
  let a := d.lineAdmitted q o.tag
  a.1.setLstr q { a.1.lstr q with opened := some { o with dests := a.2 }, skim := none }

theorem Dev.openLine_eq {sol hdr : List Byte} {b : Nat} {e : Stamp} (hb : dtDepth (leAt sol 1 1 / 4) = some b)
    (hdt : leAt sol 1 1 / 4 = (d.packetShown q (leAt sol 4 4)).val (F.SLK_Ss_LINE_ACT_DT q))
    (he : tabGet {} (((d.packetShown q (leAt sol 4 4)).trgAgain q).trgs q).stamps (leAt sol 2 1) = e)
    (hw : e.written = true) (hu : e.used = false) (lanes : Nat) :
    d.openLine q sol hdr lanes = (((d.packetShown q (leAt sol 4 4)).trgAgain q).stampUsed q (leAt sol 2 1)).lineOpened q
      (lineBegun q sol hdr lanes b ((d.packetShown q (leAt sol 4 4)).lineLen q) e []) := by
  have hnull : leAt sol 1 1 / 4 ≠ 0x3F := fun h => by
    rw [h] at hb
    exact absurd hb (by simp [dtDepth])
  unfold Dev.openLine
  extract_lets d' lcnt x dt r len
  have hx : x = d.packetShown q (leAt sol 4 4) := rfl
  have hr : r = (((d.packetShown q (leAt sol 4 4)).trgAgain q).stampUsed q (leAt sol 2 1), some e) := by
    simp only [r, hx]
    exact Dev.takeStamp_fresh he hw hu
  have hdepth : dtDepth dt = some b := hb
  rw [if_neg (show ¬ dt = 0x3F from hnull), hdepth]
  refine (if_neg (show ¬ (dt ≠ x.val (F.SLK_Ss_LINE_ACT_DT q)) from not_not.2 hdt)).trans ?_
  rw [hr, hx]
  rfl

end

section
variable {d : Dev} {q : Nat} (hq : q < 64)
include hq

/-- A packet with a fresh stamp opens its line (R84, R86, R93, R98). -/
theorem Dev.openLine_does {sol hdr : List Byte} {e : Stamp} (hb : (dtDepth (leAt sol 1 1 / 4)).isSome = true)
    (hdt : leAt sol 1 1 / 4 = fieldOf (d.reg (R.SLK_Ss_LINE_SH q)) (F.SLK_Ss_LINE_ACT_DT q).lo (F.SLK_Ss_LINE_ACT_DT q).len)
    (he : tabGet {} ((d.trgAgain q).trgs q).stamps (leAt sol 2 1) = e) (hw : e.written = true) (hu : e.used = false)
    (lanes : Nat) :
    let t := d.openLine q sol hdr lanes
    t.reg (R.SLK_Ss_LINE_ACT q) = d.reg (R.SLK_Ss_LINE_SH q) ∧
      (tabGet {} (t.trgs q).stamps (leAt sol 2 1) : Stamp).used = true ∧
      ∃ o, (t.lstr q).opened = some o ∧ o.tag.k = e.k ∧ o.tag.time = e.time ∧ o.tag.pos = e.pos ∧
        o.tag.lcnt = leAt sol 4 4 ∧ o.hlen = leAt hdr 0 2 ∧ o.words = [] ∧ o.got = 0 := by
  obtain ⟨b, hb⟩ := Option.isSome_iff_exists.1 hb
  obtain ⟨x, hx⟩ : ∃ x, x = d.packetShown q (leAt sol 4 4) := ⟨_, rfl⟩
  have hact : x.reg (R.SLK_Ss_LINE_ACT q) = d.reg (R.SLK_Ss_LINE_SH q) := by rw [hx, Dev.packetShown_act _ hq]
  have hval : x.val (F.SLK_Ss_LINE_ACT_DT q) =
      fieldOf (x.reg (R.SLK_Ss_LINE_ACT q)) (F.SLK_Ss_LINE_ACT_DT q).lo (F.SLK_Ss_LINE_ACT_DT q).len :=
    if_pos (Nat.le_of_ble_eq_true rfl)
  have hstamp : tabGet {} ((x.trgAgain q).trgs q).stamps (leAt sol 2 1) = e := by
    rw [hx, Dev.trgAgain_trgs_congr (Dev.packetShown_trg _) (Dev.packetShown_now _) (Dev.packetShown_restart _), he]
  obtain ⟨y, hy⟩ : ∃ y, y = (x.trgAgain q).stampUsed q (leAt sol 2 1) := ⟨_, rfl⟩
  obtain ⟨o, ho⟩ : ∃ o, o = lineBegun q sol hdr lanes b (x.lineLen q) e [] := ⟨_, rfl⟩
  have hopen : d.openLine q sol hdr lanes = y.lineOpened q o := by
    rw [hy, ho, hx]
    exact Dev.openLine_eq hb (by rw [← hx, hval, hact, hdt]) (by rw [← hx, hstamp]) hw hu lanes
  have hpass := y.lineAdmitted_passes q o.tag
  have hyregs : y.reg (R.SLK_Ss_LINE_ACT q) = x.reg (R.SLK_Ss_LINE_ACT q) := by
    rw [hy]
    exact Dev.reg_of_regs (x.trgAgain_regs q) _
  intro t
  have ht : t = y.lineOpened q o := hopen
  rw [ht]
  refine ⟨?_, ?_, { o with dests := (y.lineAdmitted q o.tag).2 }, ?_, ?_⟩
  · refine (Dev.reg_of_regs (Dev.setLstr_regs _ _ _) _).trans ?_
    rw [hpass.touches.reg (R.SLK_Ss_LINE_ACT q) (fun h => not_lineRestReg (o := 4) (by decide) hq (by decide) (.inl h))
      (evIcu_of_window (w := 0x4012) (lineReg_window (o := 4) (by decide) hq) (by decide) (by decide)), hyregs, hact]
  · have htrgs : (y.lineOpened q o).trgs q = y.trgs q := congrArg (fun g : TrgSt => tabGet ({} : TrgStream) g.stream q) hpass.trg
    rw [htrgs, hy, Dev.stampUsed_used]
  · unfold Dev.lineOpened
    dsimp only
    rw [Dev.lstr_setLstr]
  · rw [ho]
    exact ⟨rfl, rfl, rfl, rfl, rfl, rfl, rfl⟩

end

/-! ### SOL -/

section
variable {d : Dev} {q : Nat}

theorem Dev.runs_setLstr (d : Dev) (q : Nat) (x : LinkStream) (en idle : Fld) :
    (d.setLstr q x).runs en idle = d.runs en idle := by
  unfold Dev.runs Dev.on
  rw [Dev.val_of_regs (Dev.setLstr_regs d q x), Dev.val_of_regs (Dev.setLstr_regs d q x), Dev.setLstr_restart]

theorem Dev.lanesOf_setLstr (d : Dev) (q : Nat) (x : LinkStream) (r : Nat) : (d.setLstr q x).lanesOf r = d.lanesOf r :=
  Dev.lanesOf_congr (Dev.reg_of_regs (Dev.setLstr_regs d q x) _) fun l => by rw [Dev.lane_setLstr]

/-- The block once a packet begins on a stream with no line open, that delivers none unless it is taken. -/
def Dev.packetBegun (d : Dev) (q : Nat) : Dev := d.setLstr q { d.lstr q with skim := some false }

theorem Dev.packetIn_eq (h : (d.lstr q).opened = none) : d.packetIn q = d.packetBegun q := by
  unfold Dev.packetIn Dev.cutLine
  rw [h]
  rfl

end

/-- SOL on a running port whose stream is up and whose lanes run in P0, with no line open: the header decides (R82). -/
theorem exec_sol {s : State} {p : Fin 16} {v : Fin 4} {q : Fin 64} (hq : q.val = 4 * p.val + v.val)
    (hmode : v.val < modeStreams (s.dev.portMode p)) (hruns : s.dev.runs (F.SLK_CPp_CFG_EN p) (F.SLK_CPp_STAT_IDLE p) = true)
    (hlanes : ∀ l ∈ s.dev.lanesOf q, s.dev.val (F.SLK_Ll_STAT_PSTATE l) = 0 ∧
      s.dev.runs (F.SLK_Ll_CTRL_EN l) (F.SLK_Ll_STAT_IDLE l) = true)
    (hup : bitOf (s.dev.val (F.SLK_CPp_STAT_STREAM_UP p)) v = true) (hopen : (s.dev.lstr q).opened = none)
    (copies : List (List Byte × List Byte)) :
    exec (.sol p v copies) s = .next { s with dev := (
      if (! hdrOk (s.dev.portMode p) v copies) = true
      then ((s.quietened.dev.packetBegun q).raise (F.SLK_Ss_FLAG_HDR_ERR q)).inc (F.SLK_Ss_HDR_ERR_CNT q)
      else (s.quietened.dev.packetBegun q).openLine q (copies.headD ([], [])).1 (copies.headD ([], [])).2
        (modeLanes (s.dev.portMode p))) } := by
  obtain ⟨d, hd⟩ : ∃ d, d = s.quietened.dev := ⟨_, rfl⟩
  have hmode' : ¬ modeStreams (d.portMode p) ≤ v.val := by rw [hd]; exact Nat.not_le.2 hmode
  have hruns' : d.runs (F.SLK_CPp_CFG_EN p) (F.SLK_CPp_STAT_IDLE p) = true := by rw [hd]; exact hruns
  have hlanes' : ∀ l ∈ d.lanesOf q, d.val (F.SLK_Ll_STAT_PSTATE l) = 0 ∧
      d.runs (F.SLK_Ll_CTRL_EN l) (F.SLK_Ll_STAT_IDLE l) = true := by rw [hd]; exact hlanes
  have hup' : bitOf (d.val (F.SLK_CPp_STAT_STREAM_UP p)) v = true := by rw [hd]; exact hup
  have hopen' : (d.lstr q).opened = none := by rw [hd]; exact hopen
  have hportMode : d.portMode p = s.dev.portMode p := by rw [hd]; rfl
  have hawake : (d.lanesOf q).filter (fun l => d.val (F.SLK_Ll_STAT_PSTATE l) != 0) = [] :=
    List.filter_eq_nil_iff.2 fun l hl => by simp [(hlanes' l hl).1]
  obtain ⟨y, hy⟩ : ∃ y, y = d.packetBegun q := ⟨_, rfl⟩
  have htakes : y.runs (F.SLK_CPp_CFG_EN p) (F.SLK_CPp_STAT_IDLE p) = true := by
    rw [hy, Dev.packetBegun, Dev.runs_setLstr, hruns']
  have hbit : bitOf (y.val (F.SLK_CPp_STAT_STREAM_UP p)) v = true := by
    rw [hy, Dev.packetBegun, Dev.val_of_regs (Dev.setLstr_regs _ _ _), hup']
  have hall : (y.lanesOf q).all (fun l => y.runs (F.SLK_Ll_CTRL_EN l) (F.SLK_Ll_STAT_IDLE l)) = true := by
    rw [List.all_eq_true]
    intro l hl
    rw [hy, Dev.packetBegun, Dev.lanesOf_setLstr] at hl
    rw [hy, Dev.packetBegun, Dev.runs_setLstr, (hlanes' l hl).2]
  show execSol p v copies s = _
  unfold execSol
  rw [onDev_next, ← hd, ← hy, ← hportMode]
  dsimp only
  rw [← hq, hawake, Dev.packetIn_eq hopen', ← hy, if_neg hmode', if_neg (by simp), if_neg (by simp [htakes, hbit, hall])]

/-! ### Ports that stop, and flow blocks -/

section
variable {d : Dev} {p : Nat}

/-- The block once stream `q` has discarded its open line, with the words that its contexts reserved (R88). -/
def Dev.lineDropped (d : Dev) (q : Nat) : Dev :=
  let x := d.lstr q
  let e := d.setLstr q { x with opened := none, skim := none }
  match x.opened with
  | none => e
  | some o => o.dests.foldl (fun d c => (d.finishLine (c / 4) (c % 4) none).ctxSettle (c / 4) (c % 4)) e

theorem Dev.lineDropped_passes (d : Dev) (q : Nat) :
    (d.setLstr q { d.lstr q with opened := none, skim := none }).Passes PipeReg (d.lineDropped q) := by
  unfold Dev.lineDropped
  extract_lets x e
  split
  · exact .refl _ _
  · refine (Dev.Passes.refl PipeReg e).foldl _ (fun c y => ?_) _
    exact ((Dev.Passes.refl PipeReg y).finishLine (c / 4) (c % 4) none).ctxSettle (c / 4) (c % 4)

/-- No line is open on a stream that has discarded its own, or had none. -/
theorem Dev.lineDropped_opened {q r : Nat} (h : q = r ∨ (d.lstr r).opened = none) :
    ((d.lineDropped q).lstr r).opened = none := by
  rw [(d.lineDropped_passes q).opened r]
  by_cases hq : q = r
  · rw [hq, Dev.lstr_setLstr]
  · rw [Dev.lstr_setLstr_ne _ hq]
    exact h.resolve_left hq

theorem Dev.linesDropped_opened (p r : Nat) : ∀ (l : List Nat) (d : Dev),
    (∃ v ∈ l, 4 * p + v = r) ∨ (d.lstr r).opened = none →
    ((l.foldl (fun d v => d.lineDropped (4 * p + v)) d).lstr r).opened = none
  | [], _, h => h.resolve_left (by simp)
  | v :: l, d, h => by
    refine Dev.linesDropped_opened p r l (d.lineDropped (4 * p + v)) ?_
    by_cases hv : 4 * p + v = r
    · exact .inr (Dev.lineDropped_opened (.inl hv))
    · rcases h with ⟨w, hw, hr⟩ | h
      · rcases List.mem_cons.1 hw with rfl | hw
        · exact absurd hr hv
        · exact .inl ⟨w, hw, hr⟩
      · exact .inr (Dev.lineDropped_opened (.inr h))

theorem Dev.portAbort_eq (d : Dev) (p : Nat) : d.portAbort p =
    ([0, 1, 2, 3].foldl (fun d v => d.lineDropped (4 * p + v)) d).abortBits (F.SLK_CPp_CFG_EN p) (F.SLK_CPp_STAT_IDLE p) := rfl

theorem Dev.portAbort_does (d : Dev) (p : Nat) (v : Fin 4) : (d.portAbort p).on (F.SLK_CPp_CFG_EN p) = false ∧
    (d.portAbort p).on (F.SLK_CPp_STAT_IDLE p) = true ∧ ((d.portAbort p).lstr (4 * p + v)).opened = none := by
  have hne : R.SLK_CPp_STAT p ≠ R.SLK_CPp_CFG p := by simp only [R.SLK_CPp_STAT, R.SLK_CPp_CFG]; omega
  have hidle : (F.SLK_CPp_STAT_IDLE p).Apart (F.SLK_CPp_CFG_EN p) := Fld.apart_of_ne hne
  obtain ⟨e, he⟩ : ∃ e, e = [0, 1, 2, 3].foldl (fun d v => d.lineDropped (4 * p + v)) d := ⟨_, rfl⟩
  have hclosed : (e.lstr (4 * p + v)).opened = none := by
    rw [he]
    refine Dev.linesDropped_opened p (4 * p + v) _ d (.inl ⟨v, ?_, rfl⟩)
    simp only [List.mem_cons, List.not_mem_nil, or_false]
    omega
  rw [Dev.portAbort_eq, ← he]
  obtain ⟨hen, hstop, -, -⟩ := Dev.abortBits_does (d := e) (en := F.SLK_CPp_CFG_EN p) (idle := F.SLK_CPp_STAT_IDLE p) rfl
    (by simp [F.SLK_CPp_CFG_EN]) rfl (by simp [F.SLK_CPp_STAT_IDLE]) hidle
  refine ⟨hen, hstop, ?_⟩
  unfold Dev.abortBits
  rw [Dev.lstr_of_slk (Dev.mark_slk _ _ _), Dev.lstr_of_slk (Dev.stopIntake_slk _ _), hclosed]

/-- A port whose EN is cleared reads it cleared, whether it stops at once or drains. -/
theorem Dev.portDisable_en (hp : p < 16) (d : Dev) : (d.portDisable p).on (F.SLK_CPp_CFG_EN p) = false := by
  unfold Dev.portDisable
  split
  · rename_i h
    simpa using h
  · extract_lets e e'
    have hlines : e.Touches LinkStopReg e' := (Dev.Touches.refl _ e).foldl _ _ fun v _ c =>
      (Dev.Touches.refl _ c).setLstr _ _
    have hdrain : e.Touches LinkStopReg (e'.portSettle p) := hlines.trans ((Dev.Passes.refl _ e').portSettle hp).touches
    refine hdrain.en_cleared (w := 0x4012) ⟨?_, ?_⟩
    · simp only [F.SLK_CPp_CFG_EN, R.SLK_CPp_CFG]
      omega
    · simp only [LinkStopReg, F.SLK_CPp_CFG_EN, R.SLK_CPp_CFG]
      omega

end

section
variable {d : Dev} {q : Nat}

/-- The block once a flow block has shown XOFF_SEEN and its drop count `c`, `k` more than before (R90). -/
def Dev.flowShown (d : Dev) (q : Nat) (b : Bool) (c k : Nat) : Dev :=
  let e := (d.mark (F.SLK_Ss_STAT_XOFF_SEEN q) b).setLstr q { d.lstr q with camDrop := some c }
  if k = 0 then e else (e.bump (F.SLK_Ss_CAM_DROP_CNT q) k).raise (F.SLK_Ss_FLAG_CAM_DROP q)

theorem Dev.flowShown_camDrop (d : Dev) (q : Nat) (b : Bool) (c k : Nat) : ((d.flowShown q b c k).lstr q).camDrop = some c := by
  unfold Dev.flowShown
  extract_lets _ e
  have he : (e.lstr q).camDrop = some c := by
    simp only [e]
    rw [Dev.lstr_setLstr]
  split
  · exact he
  · rw [Dev.lstr_of_slk (e := (e.bump _ k).raise _) ((Dev.raise_slk _ _).trans (Dev.put_slk _ _ _)), he]

theorem Dev.flowShown_touches (d : Dev) (q : Nat) (b : Bool) (c k : Nat) : d.Touches (fun a => a = R.SLK_Ss_STAT q ∨
    a = R.SLK_Ss_CAM_DROP_CNT q ∨ a = R.SLK_Ss_FLAG q) (d.flowShown q b c k) := by
  unfold Dev.flowShown
  extract_lets _ e
  have he : d.Touches (fun a => a = R.SLK_Ss_STAT q ∨ a = R.SLK_Ss_CAM_DROP_CNT q ∨ a = R.SLK_Ss_FLAG q) e :=
    ((Dev.Touches.refl _ d).mark (f := F.SLK_Ss_STAT_XOFF_SEEN q) (.inl rfl) b).setLstr q _
  exact .ite he ((he.bump (f := F.SLK_Ss_CAM_DROP_CNT q) (.inr (.inl rfl)) k).raise (f := F.SLK_Ss_FLAG_CAM_DROP q)
    (.inr (.inr rfl)))

theorem Dev.flowShown_does (hq : q < 64) (d : Dev) (b : Bool) (c k : Nat) :
    (d.flowShown q b c k).on (F.SLK_Ss_STAT_XOFF_SEEN q) = b ∧
      (d.flowShown q b c k).val (F.SLK_Ss_CAM_DROP_CNT q) = min 0xFFFFFFFF (d.val (F.SLK_Ss_CAM_DROP_CNT q) + k) ∧
      (k ≠ 0 → (d.flowShown q b c k).on (F.SLK_Ss_FLAG_CAM_DROP q) = true) := by
  have hne : ∀ {o o'}, o ≠ o' → 0x40123000 + o + q * 0x80 ≠ 0x40123000 + o' + q * 0x80 := fun h => lineReg_ne q h
  have hstatCnt : (F.SLK_Ss_STAT_XOFF_SEEN q).Apart (F.SLK_Ss_CAM_DROP_CNT q) :=
    Fld.apart_of_ne (hne (o := 0x10) (o' := 0x40) (by decide))
  have hcntStat : (F.SLK_Ss_CAM_DROP_CNT q).Apart (F.SLK_Ss_STAT_XOFF_SEEN q) :=
    Fld.apart_of_ne (hne (o := 0x40) (o' := 0x10) (by decide))
  have hflagStat : (F.SLK_Ss_FLAG_CAM_DROP q).Apart (F.SLK_Ss_STAT_XOFF_SEEN q) :=
    Fld.apart_of_ne (hne (o := 0x14) (o' := 0x10) (by decide))
  have hflagCnt : (F.SLK_Ss_FLAG_CAM_DROP q).Apart (F.SLK_Ss_CAM_DROP_CNT q) :=
    Fld.apart_of_ne (hne (o := 0x14) (o' := 0x40) (by decide))
  have hqs : (F.SLK_Ss_STAT_XOFF_SEEN q).quiet := quiet_link (lineReg_window (o := 0x10) (by decide) hq)
  have hqc : (F.SLK_Ss_CAM_DROP_CNT q).quiet := quiet_link (lineReg_window (o := 0x40) (by decide) hq)
  have hqf : (F.SLK_Ss_FLAG_CAM_DROP q).quiet := quiet_link (lineReg_window (o := 0x14) (by decide) hq)
  obtain ⟨e, he⟩ : ∃ e, e = (d.mark (F.SLK_Ss_STAT_XOFF_SEEN q) b).setLstr q { d.lstr q with camDrop := some c } :=
    ⟨_, rfl⟩
  have hshown : d.flowShown q b c k =
      if k = 0 then e else (e.bump (F.SLK_Ss_CAM_DROP_CNT q) k).raise (F.SLK_Ss_FLAG_CAM_DROP q) := by
    rw [he]
    rfl
  have hseen : e.on (F.SLK_Ss_STAT_XOFF_SEEN q) = b := by
    rw [he]
    exact (Dev.on_congr (Dev.val_of_regs (Dev.setLstr_regs _ _ _) _)).trans
      (Dev.on_mark_self _ rfl (by simp [F.SLK_Ss_STAT_XOFF_SEEN]) b)
  have hcnt : e.val (F.SLK_Ss_CAM_DROP_CNT q) = d.val (F.SLK_Ss_CAM_DROP_CNT q) := by
    rw [he, Dev.val_of_regs (Dev.setLstr_regs _ _ _), Dev.val_mark_apart _ hstatCnt]
  rw [hshown]
  by_cases hk : k = 0
  · rw [if_pos hk]
    refine ⟨hseen, ?_, fun h => absurd hk h⟩
    have hlt := d.val_lt (F.SLK_Ss_CAM_DROP_CNT q)
    simp only [F.SLK_Ss_CAM_DROP_CNT] at hlt
    rw [hcnt, hk]
    exact (Nat.min_eq_right (by simp only [F.SLK_Ss_CAM_DROP_CNT]; omega)).symm
  · rw [if_neg hk]
    refine ⟨?_, ?_, fun _ => Dev.on_raise_self _ rfl (by simp [F.SLK_Ss_FLAG_CAM_DROP]) hqf⟩
    · refine (Dev.on_congr ?_).trans hseen
      rw [Dev.val_raise_apart _ hflagStat hqs]
      exact Dev.val_put_apart _ hcntStat _
    · rw [Dev.val_raise_apart _ hflagCnt hqc, Dev.val_bump_self _ rfl rfl, hcnt]

end

/-! ### The commands -/

section
variable {s : State} {q : Fin 64}

theorem payloadWord_does (w : BitVec 64) {o : OpenLine} (hopen : (s.dev.lstr q).opened = some o) :
    ∃ t, exec (.payloadWord q w) s = .next t ∧ s.sameStores t ∧ (∀ a, t.dev.reg a = s.dev.reg a) ∧
      (t.dev.lstr q).opened = some { o with words := w :: o.words, got := o.got + 1 } := by
  have hopen' : (s.quietened.dev.lstr q).opened = some o := hopen
  have hexec : exec (.payloadWord q w) s = .next { s with dev := (s.quietened.dev.setLstr q
      { s.quietened.dev.lstr q with opened := some { o with words := w :: o.words, got := o.got + 1 } }) } := by
    show execPayloadWord q w s = _
    unfold execPayloadWord
    rw [onDev_next]
    dsimp only
    rw [hopen']
  refine ⟨_, hexec, s.sameStores_of_dev _, fun a => ?_, ?_⟩
  · exact Dev.reg_of_regs (d := s.quietened.dev) (Dev.setLstr_regs _ _ _) a
  · rw [Dev.lstr_setLstr]

theorem eol_does (copies : List (List Byte)) {o : OpenLine} (hopen : (s.dev.lstr q).opened = some o) :
    ∃ t, exec (.eol q copies) s = .next t ∧ s.sameStores t ∧ (t.dev.lstr q).opened = none ∧
      t.dev.val (F.SLK_Ss_LINE_CNT q) = min 0xFFFFFFFF (s.dev.val (F.SLK_Ss_LINE_CNT q) + 1) ∧
      (crc32c (o.hdr ++ o.words.reverse.flatMap (fun w => bytesLE 8 w.toNat)) ≠ leAt (copies.headD []) 1 4 →
        t.dev.on (F.SLK_Ss_FLAG_CRC q) = true ∧
        t.dev.val (F.SLK_Ss_CRC_CNT q) = min 0xFFFFFFFF (s.dev.val (F.SLK_Ss_CRC_CNT q) + 1)) := by
  have hopen' : (s.quietened.dev.lstr q).opened = some o := hopen
  obtain ⟨crc, hcrc⟩ : ∃ crc,
      crc = (crc32c (o.hdr ++ o.words.reverse.flatMap (fun w => bytesLE 8 w.toNat)) != leAt (copies.headD []) 1 4) := ⟨_, rfl⟩
  have hexec : ∃ tag, exec (.eol q copies) s = .next { s with dev :=
      ((((s.quietened.dev.flagIf (crc = true) (F.SLK_Ss_FLAG_CRC q) (F.SLK_Ss_CRC_CNT q)).trailer q (copies.headD [])).endLine
        q o tag false).portSettle (q / 4)) } := by
    refine ⟨{ o.tag with temp := leAt (copies.headD []) 5 2, status := leAt (copies.headD []) 7 1, crc := crc,
                         poison := o.poison || crc || ! copies.all (fun x => x.drop 1 == (copies.headD []).drop 1) }, ?_⟩
    show execEol q copies s = _
    unfold execEol
    rw [onDev_next]
    dsimp only
    rw [hopen', hcrc]
    rfl
  obtain ⟨tag, hexec⟩ := hexec
  obtain ⟨hclosed, hcount, hbad⟩ := Dev.eol_does q.isLt s.quietened.dev crc (copies.headD []) o tag false
  exact ⟨_, hexec, s.sameStores_of_dev _, hclosed, hcount, fun hne => hbad (by rw [hcrc]; exact bne_iff_ne.2 hne)⟩

theorem lineEndTimeout_does {o : OpenLine} {tm : Nat} (hopen : (s.dev.lstr q).opened = some o) (hclosing : o.closing = some tm) :
    ∃ t, exec (.lineEndTimeout q) s = .next t ∧ s.sameStores t ∧ (t.dev.lstr q).opened = none ∧
      t.dev.on (F.SLK_Ss_FLAG_FRAME_ERR q) = true ∧ tm + 43254 ≤ t.dev.now := by
  have hopen' : (s.quietened.dev.lstr q).opened = some o := hopen
  have hexec : exec (.lineEndTimeout q) s = .next { s with dev := (s.quietened.dev.reach (tm + 43254)).cutLine q } := by
    show execLineEndTimeout q s = _
    unfold execLineEndTimeout
    rw [onDev_next]
    simp only [hopen', hclosing]
  have hreached : ((s.quietened.dev.reach (tm + 43254)).lstr q).opened = some o := by
    rw [Dev.lstr_of_slk (Dev.reach_slk _ _), hopen']
  obtain ⟨hclosed, hflag, hnow⟩ := Dev.cutLine_does q.isLt hreached
  refine ⟨_, hexec, s.sameStores_of_dev _, hclosed, hflag, ?_⟩
  rw [hnow, Dev.reach_now]
  exact Nat.le_max_right _ _

theorem flow_does (blk : List Byte) {c0 : Nat} (hidle : s.dev.on (F.SLK_CPp_STAT_IDLE (q / 4)) = false)
    (hdrop : (s.dev.lstr q).camDrop = some c0) :
    let k := (leAt blk 3 2 + 65536 - c0) % 65536
    ∃ t, exec (.flow q blk) s = .next t ∧ s.sameStores t ∧
      t.dev.on (F.SLK_Ss_STAT_XOFF_SEEN q) = bitOf (leAt blk 1 1) 2 ∧ (t.dev.lstr q).camDrop = some (leAt blk 3 2) ∧
      t.dev.val (F.SLK_Ss_CAM_DROP_CNT q) = min 0xFFFFFFFF (s.dev.val (F.SLK_Ss_CAM_DROP_CNT q) + k) ∧
      (k ≠ 0 → t.dev.on (F.SLK_Ss_FLAG_CAM_DROP q) = true) ∧
      s.dev.sameRegsBut t.dev [F.SLK_Ss_STAT_XOFF_SEEN q, F.SLK_Ss_CAM_DROP_CNT q, F.SLK_Ss_FLAG_CAM_DROP q] := by
  have hidle' : s.quietened.dev.on (F.SLK_CPp_STAT_IDLE (q / 4)) = false := hidle
  have hdrop' : (s.quietened.dev.lstr q).camDrop = some c0 := hdrop
  intro k
  obtain ⟨b, hb⟩ : ∃ b, b = bitOf (leAt blk 1 1) 2 := ⟨_, rfl⟩
  have hexec : exec (.flow q blk) s = .next { s with dev := s.quietened.dev.flowShown q b (leAt blk 3 2) k } := by
    show execFlow q blk s = _
    unfold execFlow
    rw [onDev_next, if_neg (by simp [hidle'])]
    dsimp only
    rw [hdrop', hb]
    rfl
  obtain ⟨hseen, hcnt, hflag⟩ := Dev.flowShown_does q.isLt s.quietened.dev b (leAt blk 3 2) k
  refine ⟨_, hexec, s.sameStores_of_dev _, hseen.trans hb, Dev.flowShown_camDrop _ _ _ _ _, hcnt, hflag,
    (s.quietened.dev.flowShown_touches q b (leAt blk 3 2) k).sameRegsBut fun a ha => ?_⟩
  rcases ha with rfl | rfl | rfl
  · exact ⟨F.SLK_Ss_STAT_XOFF_SEEN q, by simp, .inl rfl⟩
  · exact ⟨F.SLK_Ss_CAM_DROP_CNT q, by simp, .inl rfl⟩
  · exact ⟨F.SLK_Ss_FLAG_CAM_DROP q, by simp, .inl rfl⟩

/-- A header that fails its check is flagged and counted, nothing else (R82). -/
theorem Dev.hdrErr_does (q : Fin 64) (d : Dev) (x : LinkStream) :
    let e := ((d.setLstr q x).raise (F.SLK_Ss_FLAG_HDR_ERR q)).inc (F.SLK_Ss_HDR_ERR_CNT q)
    e.on (F.SLK_Ss_FLAG_HDR_ERR q) = true ∧
      e.val (F.SLK_Ss_HDR_ERR_CNT q) = min 0xFFFFFFFF (d.val (F.SLK_Ss_HDR_ERR_CNT q) + 1) ∧
      d.sameRegsBut e [F.SLK_Ss_FLAG_HDR_ERR q, F.SLK_Ss_HDR_ERR_CNT q] := by
  intro e
  obtain ⟨y, hy⟩ : ∃ y, y = d.setLstr q x := ⟨_, rfl⟩
  have he : e = y.flagIf True (F.SLK_Ss_FLAG_HDR_ERR q) (F.SLK_Ss_HDR_ERR_CNT q) := by
    rw [hy]
    exact (if_pos trivial).symm
  obtain ⟨hon, hcnt⟩ := y.flagIf_does (f := F.SLK_Ss_FLAG_HDR_ERR q) (cnt := F.SLK_Ss_HDR_ERR_CNT q) True trivial
    (lineReg_ne (o := 0x14) (o' := 0x28) q (by decide)) (quiet_link (lineReg_window (o := 0x14) (by decide) q.isLt))
    (quiet_link (lineReg_window (o := 0x28) (by decide) q.isLt))
  have htouch : d.Touches (fun a => a = R.SLK_Ss_FLAG q ∨ a = R.SLK_Ss_HDR_ERR_CNT q) e := by
    rw [he, hy]
    exact ((Dev.Touches.refl _ d).setLstr q x).trans (Dev.flagIf_touches _ _ (f := F.SLK_Ss_FLAG_HDR_ERR q)
      (cnt := F.SLK_Ss_HDR_ERR_CNT q) (.inl rfl) (.inr rfl))
  rw [← he] at hon hcnt
  refine ⟨hon, ?_, htouch.sameRegsBut fun a ha => ?_⟩
  · rw [hcnt, hy, Dev.val_of_regs (Dev.setLstr_regs _ _ _)]
  · rcases ha with rfl | rfl
    · exact ⟨F.SLK_Ss_FLAG_HDR_ERR q, by simp, .inl rfl⟩
    · exact ⟨F.SLK_Ss_HDR_ERR_CNT q, by simp, .inl rfl⟩

end

/-- Settles O28: contexts and pipelines leave the lines in reception and their flags and counters, but STAT. -/
theorem linePacketsAreReceived : Obligations.LinePacketsAreReceived := by
  intro s p v q d
  refine ⟨fun copies hq hmode hruns hlanes hup hopen => ⟨fun hbad => ?_, fun hgood hb hdt hw hu => ?_⟩,
    fun w o hopen => payloadWord_does w hopen, fun copies o hopen => eol_does copies hopen,
    fun o tm hopen hclosing => lineEndTimeout_does hopen hclosing, ?_, ?_, fun blk c0 hidle hdrop => flow_does blk hidle hdrop⟩
  · have hexec := exec_sol hq hmode hruns hlanes hup hopen copies
    rw [if_pos (by rw [hbad]; rfl)] at hexec
    exact ⟨_, hexec, s.sameStores_of_dev _, Dev.hdrErr_does q s.quietened.dev _⟩
  · have hexec := exec_sol hq hmode hruns hlanes hup hopen copies
    rw [if_neg (by rw [hgood]; exact Bool.false_ne_true)] at hexec
    obtain ⟨x, hx⟩ : ∃ x, x = s.quietened.dev.packetBegun q := ⟨_, rfl⟩
    have hstamps : (x.trgAgain q).trgs q = (d.trgAgain q).trgs q := by
      rw [hx]
      exact Dev.trgAgain_trgs_congr (d := d) (e := s.quietened.dev.packetBegun q) rfl rfl rfl q
    have hreg : x.reg (R.SLK_Ss_LINE_SH q) = d.reg (R.SLK_Ss_LINE_SH q) := by
      rw [hx]
      exact Dev.reg_of_regs (d := d) rfl _
    obtain ⟨hact, hused, hline⟩ := Dev.openLine_does q.isLt (d := x) (hdr := (copies.headD ([], [])).2) hb
      (by rw [hreg]; exact hdt) (by rw [hstamps]) hw hu (modeLanes (d.portMode p))
    rw [← hx] at hexec
    exact ⟨_, hexec, s.sameStores_of_dev _, hact.trans hreg, hused, hline⟩
  · exact ⟨_, (show exec (.portDisable p) s = execPortDisable p s from rfl).trans (onDev_next _ s), s.sameStores_of_dev _,
      s.quietened.dev.portDisable_en p.isLt⟩
  · exact ⟨_, (show exec (.portAbort p) s = execPortAbort p s from rfl).trans (onDev_next _ s), s.sameStores_of_dev _,
      s.quietened.dev.portAbort_does p v⟩

end Sys2Proof.Machine
end

/-! PROOFS. The registers of a context and of its pipeline, and what the work on a line leaves (R96 to R125). -/
section
-- One lemma at a time: elaborated side by side they take more threads than the check's memory limit leaves room for.
set_option Elab.async false
namespace Sys2Proof.Machine

/-! ### Where the registers lie -/

theorem pipe_window {o n k : Nat} (h : o + k < 0x10000) : (0x40200000 + o + n * 0x10000 + k) / 0x10000 = 0x4020 + n := by omega

theorem arb_window (n : Nat) : R.PLn_ARB_STAT n / 0x10000 = 0x4020 + n := by
  simp only [R.PLn_ARB_STAT]
  omega

theorem quiet_pipe {f : Fld} {n : Nat} (h : f.addr / 0x10000 = 0x4020 + n) (hn : (f.lo + f.len).ble 32 = true := by rfl) :
    f.quiet :=
  ⟨evIcu_of_window h (by omega) (by omega), fun hw => absurd (Nat.le_of_ble_eq_true hn) (by omega)⟩

/-- A field in a pipeline's window that none of the operations writes holds what it held. -/
theorem Dev.Touches.reads_pipe {W : Nat → Prop} {d e : Dev} (h : d.Touches W e) {f : Fld} {n : Nat}
    (hf : f.addr / 0x10000 = 0x4020 + n) (hW : ¬ W f.addr) (hn : (f.lo + f.len).ble 32 = true := by rfl) :
    e.val f = d.val f :=
  h.keeps_val (fun a ha => by rwa [at_narrow ha hn]) (quiet_pipe hf hn)

theorem Dev.Touches.sameWindowsBut {d e : Dev} {ws : List Nat} (h : d.Touches (fun a => a / 0x10000 ∈ ws) e) :
    d.sameWindowsBut e ws := h.reg

theorem mem_windows {a w : Nat} (h : a / 0x10000 = w) (ws : List Nat) : a / 0x10000 ∈ w :: ws := by simp [h]

/-- What closing a statistics tile may write (R107 to R115). -/
inductive TileReg (n m : Nat) : Nat → Prop
  | flag : TileReg n m (R.PLn_CTXm_FLAG n m)
  | dropped : TileReg n m (R.PLn_CTXm_STATS_DROP_CNT n m)
  | dyn : TileReg n m (R.PLn_CTXm_DYN_CFG n m)
  | calFlag : TileReg n m (R.PLn_CTXm_CAL_FLAG n m)

/-- What a line that is corrected and sampled may write, its hand-over of the enables apart (R107 to R125). -/
inductive LineReg (n m : Nat) : Nat → Prop
  | tile {a : Nat} (h : TileReg n m a) : LineReg n m a
  | stat : LineReg n m (R.PLn_CTXm_STAT n m)
  | statsAct : LineReg n m (R.PLn_CTXm_STATS_ACT n m)
  | calStat : LineReg n m (R.PLn_CTXm_CAL_STAT n m)
  | blkLevel : LineReg n m (R.PLn_CTXm_BLK_LEVEL n m)
  | skipped : LineReg n m (R.PLn_CTXm_SC_SKIP_CNT n m)
  | updated : LineReg n m (R.PLn_CTXm_SC_UPDATE_CNT n m)
  | unjudged : LineReg n m (R.PLn_CTXm_SC_UNJUDGED_CNT n m)
  | replFail : LineReg n m (R.PLn_CTXm_REPL_FAIL_CNT n m)
  | tempRange : LineReg n m (R.PLn_CTXm_TEMP_RANGE_CNT n m)

/-- Where a change of XOFF is shown beside the context's STAT (R103). -/
inductive XoffEcho (n m : Nat) : Nat → Prop
  | count : XoffEcho n m (R.PLn_CTXm_XOFF_CNT n m)
  | stream {s : Nat} (hs : s < 64) : XoffEcho n m (R.SLK_Ss_STAT s)
  | pins {w : Nat} (hw : w < 8) : XoffEcho n m (R.SYS_UTP_INw w)

/-- What FILL, LINES, READY and the watermarks may write (R98, R103, R110). -/
inductive ShowReg (n m : Nat) : Nat → Prop
  | echo {a : Nat} (h : XoffEcho n m a) : ShowReg n m a
  | stat : ShowReg n m (R.PLn_CTXm_STAT n m)
  | arb : ShowReg n m (R.PLn_ARB_STAT n)

/-- What the hand-over of the correction enables may write (R102). -/
inductive CorReg (n m : Nat) : Nat → Prop
  | act : CorReg n m (R.PLn_CTXm_COR_ACT n m)
  | dyn : CorReg n m (R.PLn_CTXm_DYN_CFG n m)
  | stat : CorReg n m (R.PLn_CTXm_STAT n m)

section
variable {n m a : Nat}

theorem TileReg.apart (h : TileReg n m a) : a ≠ R.PLn_CTXm_CFG n m ∧ a ≠ R.PLn_CTXm_STAT n m := by
  cases h <;> simp only [R.PLn_CTXm_CFG, R.PLn_CTXm_STAT, R.PLn_CTXm_FLAG, R.PLn_CTXm_STATS_DROP_CNT, R.PLn_CTXm_DYN_CFG,
    R.PLn_CTXm_CAL_FLAG] <;> omega

theorem LineReg.apart (h : LineReg n m a) :
    a ≠ R.PLn_ARB_STAT n ∧ a ≠ R.PLn_CTXm_LINE_CNT n m ∧ a ≠ R.PLn_CTXm_COR_ACT n m := by
  cases h with
  | tile h =>
    cases h <;> simp only [R.PLn_ARB_STAT, R.PLn_CTXm_LINE_CNT, R.PLn_CTXm_COR_ACT, R.PLn_CTXm_FLAG, R.PLn_CTXm_STATS_DROP_CNT,
      R.PLn_CTXm_DYN_CFG, R.PLn_CTXm_CAL_FLAG] <;> omega
  | stat | statsAct | calStat | blkLevel | skipped | updated | unjudged | replFail | tempRange =>
    simp only [R.PLn_ARB_STAT, R.PLn_CTXm_LINE_CNT, R.PLn_CTXm_COR_ACT, R.PLn_CTXm_STAT, R.PLn_CTXm_STATS_ACT,
      R.PLn_CTXm_CAL_STAT, R.PLn_CTXm_BLK_LEVEL, R.PLn_CTXm_SC_SKIP_CNT, R.PLn_CTXm_SC_UPDATE_CNT,
      R.PLn_CTXm_SC_UNJUDGED_CNT, R.PLn_CTXm_REPL_FAIL_CNT, R.PLn_CTXm_TEMP_RANGE_CNT]
    omega

theorem XoffEcho.place (h : XoffEcho n m a) : a = R.PLn_CTXm_XOFF_CNT n m ∨ a / 0x10000 = 0x4012 ∨ a / 0x10000 = 0x4000 := by
  cases h with
  | count => exact .inl rfl
  | stream hs => exact .inr (.inl (by simp only [R.SLK_Ss_STAT]; omega))
  | pins hw => exact .inr (.inr (by simp only [R.SYS_UTP_INw]; omega))

theorem ShowReg.place (h : ShowReg n m a) : a = R.PLn_CTXm_STAT n m ∨ a = R.PLn_ARB_STAT n ∨ a = R.PLn_CTXm_XOFF_CNT n m ∨
    a / 0x10000 = 0x4012 ∨ a / 0x10000 = 0x4000 := by
  cases h with
  | echo h => exact .inr (.inr h.place)
  | stat => exact .inl rfl
  | arb => exact .inr (.inl rfl)

theorem ShowReg.window (h : ShowReg n m a) (hm : m < 4) :
    a / 0x10000 = 0x4020 + n ∨ a / 0x10000 = 0x4012 ∨ a / 0x10000 = 0x4000 := by
  obtain rfl | rfl | rfl | h := h.place
  · exact .inl (pipe_window (o := 0x104) (k := m * 0x80) (by omega))
  · exact .inl (arb_window n)
  · exact .inl (pipe_window (o := 0x128) (k := m * 0x80) (by omega))
  · exact .inr h

theorem CorReg.window (h : CorReg n m a) (hm : m < 4) : a / 0x10000 = 0x4020 + n := by
  cases h with
  | act => exact pipe_window (o := 0x404) (k := m * 0x100) (by omega)
  | dyn => exact pipe_window (o := 0x470) (k := m * 0x100) (by omega)
  | stat => exact pipe_window (o := 0x104) (k := m * 0x80) (by omega)

end

/-! ### Work on a line -/

/-- Operations that write registers of `W` alone and leave the instant, segmentation with its migration, and what runs in
the pipelines. -/
structure Dev.LineWork (W : Nat → Prop) (d e : Dev) : Prop where
  touches : d.Touches W e
  now : e.now = d.now
  seg : e.seg = d.seg
  front : e.pl.front = d.pl.front

namespace Dev.LineWork

variable {W : Nat → Prop} {d e : Dev}

theorem refl (W : Nat → Prop) (d : Dev) : d.LineWork W d := ⟨.refl W d, rfl, rfl, rfl⟩

theorem trans {f : Dev} (h : d.LineWork W e) (g : e.LineWork W f) : d.LineWork W f :=
  ⟨h.touches.trans g.touches, g.now.trans h.now, g.seg.trans h.seg, g.front.trans h.front⟩

theorem mono {V : Nat → Prop} (h : d.LineWork W e) (hV : ∀ a, W a → V a) : d.LineWork V e :=
  ⟨h.touches.mono hV, h.now, h.seg, h.front⟩

/-- A change beside the registers. -/
theorem of_regs (h1 : e.regs = d.regs) (h2 : e.restart = d.restart) (h3 : e.dma = d.dma) (h4 : e.now = d.now)
    (h5 : e.seg = d.seg) (h6 : e.pl.front = d.pl.front) : d.LineWork W e := ⟨.of_regs h1 h2 h3, h4, h5, h6⟩

theorem regsEvt (h : d.RegsEvt e) (g : d.Touches W e) : d.LineWork W e :=
  ⟨g, h.keeps_now, h.keeps_seg, congrArg PlSt.front h.keeps_pl⟩

theorem setReg (h : d.LineWork W e) {a : Nat} (hW : W a) (x : Word) : d.LineWork W (e.setReg a x) :=
  h.trans (.regsEvt (e.regsEvt_setReg a x) (.of_regsEvt (e.regsEvt_setReg a x) fun _ ha _ =>
    e.reg_setReg_ne (fun he => ha (by rwa [← he])) x))

theorem put (h : d.LineWork W e) {f : Fld} (hW : W f.addr) (v : Nat) (hn : (f.lo + f.len).ble 32 = true := by rfl) :
    d.LineWork W (e.put f v) := h.trans (.regsEvt (e.regsEvt_put f v) ((Dev.Touches.refl W e).put hW v hn))

theorem mark (h : d.LineWork W e) {f : Fld} (hW : W f.addr) (b : Bool) (hn : (f.lo + f.len).ble 32 = true := by rfl) :
    d.LineWork W (e.mark f b) := h.put hW _ hn

theorem inc (h : d.LineWork W e) {f : Fld} (hW : W f.addr) (hn : (f.lo + f.len).ble 32 = true := by rfl) :
    d.LineWork W (e.inc f) := h.put hW _ hn

theorem raise (h : d.LineWork W e) {f : Fld} (hW : W f.addr) (hn : (f.lo + f.len).ble 32 = true := by rfl) :
    d.LineWork W (e.raise f) := h.trans (.regsEvt (e.regsEvt_raise f) ((Dev.Touches.refl W e).raise hW hn))

theorem ite {c : Prop} [Decidable c] {f : Dev} (h : d.LineWork W e) (g : d.LineWork W f) :
    d.LineWork W (if c then e else f) := by
  split
  · exact h
  · exact g

theorem raiseIf (h : d.LineWork W e) {f : Fld} (hW : W f.addr) (b : Bool) (hn : (f.lo + f.len).ble 32 = true := by rfl) :
    d.LineWork W (e.raiseIf b f) := ite (h.raise hW hn) h

theorem setCtx (h : d.LineWork W e) (n m : Nat) (x : Ctx) : d.LineWork W (e.setCtx n m x) :=
  h.trans (.of_regs rfl rfl rfl rfl rfl rfl)

theorem utpRefresh (h : d.LineWork W e) (hW : ∀ {w}, w < 8 → W (R.SYS_UTP_INw w)) {u : Nat} (hu : u < 256) :
    d.LineWork W (e.utpRefresh u) := by
  have hpin : W (R.SYS_UTP_INw (u / 32)) := hW (by omega)
  have hn : Nat.ble (u % 32 + 1) 32 = true := Nat.ble_eq.mpr (by omega)
  unfold Dev.utpRefresh
  extract_lets f
  split
  · exact h.put (f := f) hpin 0 hn
  · split
    · exact h
    · exact ite h ((h.mark (f := f) hpin _ hn).trans (.of_regs rfl rfl rfl rfl rfl rfl))

variable {n m : Nat}

/-! ### Statistics and self-calibration -/

theorem recSettle (h : d.LineWork W e) (n m : Nat) : d.LineWork W (e.recSettle n m) := by
  unfold Dev.recSettle
  extract_lets c
  split
  · exact ite (h.setCtx n m _) h
  · exact h

theorem dynUpdate (h : d.LineWork (TileReg n m) e) (cands : List Nat) (ovf : Bool) :
    d.LineWork (TileReg n m) (e.dynUpdate n m cands ovf) :=
  ((h.setCtx n m _).put (f := F.PLn_CTXm_DYN_CFG_DYN_COUNT n m) .dyn _).raiseIf (f := F.PLn_CTXm_CAL_FLAG_DYN_OVF n m) .calFlag _

theorem closeTile (h : d.LineWork (TileReg n m) e) (part : Bool) : d.LineWork (TileReg n m) (e.closeTile n m part) := by
  unfold Dev.closeTile
  split
  · exact h
  · extract_lets k half all cands ovf means bytes e1 e2 _ c e3
    have h1 : d.LineWork (TileReg n m) e1 := h.trans (.of_regs rfl rfl rfl rfl rfl rfl)
    have h2 : d.LineWork (TileReg n m) e2 := h1.recSettle n m
    have h3 : d.LineWork (TileReg n m) e3 := ite (((h2.setCtx n m c).raise (f := F.PLn_CTXm_FLAG_STATS_DROP n m) .flag).inc
      (f := F.PLn_CTXm_STATS_DROP_CNT n m) .dropped) (h2.setCtx n m _)
    exact ite (h3.dynUpdate _ _) h3

theorem ctxPend (h : d.LineWork W e) (hW : W (R.PLn_CTXm_STAT n m)) : d.LineWork W (e.ctxPend n m) :=
  h.mark (f := F.PLn_CTXm_STAT_SHADOW_PEND n m) hW _

theorem ctxFresh (h : d.LineWork W e) (hW : W (R.PLn_CTXm_CAL_STAT n m)) : d.LineWork W (e.ctxFresh n m) :=
  (h.setCtx n m _).put (f := F.PLn_CTXm_CAL_STAT_TEMP_F n m) hW _

theorem scUpdate (h : d.LineWork (LineReg n m) e) : d.LineWork (LineReg n m) (e.scUpdate n m) := by
  have skip : ∀ {e}, d.LineWork (LineReg n m) e →
      d.LineWork (LineReg n m) ((e.raise (F.PLn_CTXm_CAL_FLAG_SC_SKIP n m)).inc (F.PLn_CTXm_SC_SKIP_CNT n m)) := fun h =>
    (h.raise (f := F.PLn_CTXm_CAL_FLAG_SC_SKIP n m) (.tile .calFlag)).inc (f := F.PLn_CTXm_SC_SKIP_CNT n m) .skipped
  unfold Dev.scUpdate
  extract_lets c _ busyC f tgt now' c'
  split
  · exact skip h
  · split
    · exact skip (h.setCtx n m _)
    · have hf : d.LineWork (LineReg n m) f.2 := h.trans (.of_regs rfl rfl rfl rfl rfl rfl)
      exact ((hf.setCtx n m c').mark (f := F.PLn_CTXm_CAL_STAT_SC_RAMP n m) .calStat true).inc
        (f := F.PLn_CTXm_SC_UPDATE_CNT n m) .updated

theorem tileHandOver (h : d.LineWork (LineReg n m) e) (t : Nat) : d.LineWork (LineReg n m) (e.tileHandOver n m t) := by
  unfold Dev.tileHandOver
  extract_lets e1 c ended k e2 c2 e3 e4 c4
  have h1 : d.LineWork (LineReg n m) e1 := h.trans (((refl _ e).closeTile false).mono fun _ => .tile)
  have h3 : d.LineWork (LineReg n m) e3 := ite (ite (h1.scUpdate.setCtx n m _) (h1.setCtx n m _)) h1
  exact ((h3.setReg .statsAct _).setCtx n m _).ctxPend .stat

theorem tileFor (h : d.LineWork W e) (t : Nat) (tag : LineTag) : d.LineWork W (e.tileFor n m t tag) :=
  ite h (h.setCtx n m _)

theorem scSample (h : d.LineWork (LineReg n m) e) (tag : LineTag) (x3 : List Nat) :
    d.LineWork (LineReg n m) (e.scSample n m tag x3) := by
  unfold Dev.scSample
  split
  · exact h
  · extract_lets c k hold q ovsp held e1
    split
    · exact h.setCtx n m _
    · split
      · exact h.setCtx n m _
      · have h1 : d.LineWork (LineReg n m) e1 := h.setCtx n m _
        exact ite ((h1.raise (f := F.PLn_CTXm_CAL_FLAG_SC_UNJUDGED n m) (.tile .calFlag)).inc
          (f := F.PLn_CTXm_SC_UNJUDGED_CNT n m) .unjudged) h1

/-! ### Correction -/

theorem setRampStep (h : d.LineWork (LineReg n m) e) : d.LineWork (LineReg n m) (e.setRampStep n m).1 := by
  unfold Dev.setRampStep
  dsimp only
  split
  · exact h
  · split
    · exact h.setCtx n m _
    · exact (h.setCtx n m _).mark (f := F.PLn_CTXm_CAL_STAT_SET_RAMP n m) .calStat false

theorem scRampStep (h : d.LineWork (LineReg n m) e) : d.LineWork (LineReg n m) (e.scRampStep n m).1 := by
  unfold Dev.scRampStep
  dsimp only
  split
  · exact h
  · split
    · exact h.setCtx n m _
    · exact (h.setCtx n m _).mark (f := F.PLn_CTXm_CAL_STAT_SC_RAMP n m) .calStat false

theorem blkRampStep (h : d.LineWork (LineReg n m) e) : d.LineWork (LineReg n m) (e.blkRampStep n m).1 := by
  unfold Dev.blkRampStep
  dsimp only
  split
  · exact h
  · split
    · exact h.setCtx n m _
    · exact (h.setCtx n m _).mark (f := F.PLn_CTXm_CAL_STAT_BLK_RAMP n m) .calStat false

theorem rampSteps (h : d.LineWork (LineReg n m) e) : d.LineWork (LineReg n m) (e.rampSteps n m).1 :=
  h.setRampStep.scRampStep.blkRampStep.setCtx n m _

theorem takeTemp (h : d.LineWork (LineReg n m) e) (temp : Nat) : d.LineWork (LineReg n m) (e.takeTemp n m temp) :=
  ite (h.put (f := F.PLn_CTXm_CAL_STAT_TEMP_F n m) .calStat _)
    ((h.setCtx n m _).put (f := F.PLn_CTXm_CAL_STAT_TEMP_F n m) .calStat _)

theorem blackLevel (h : d.LineWork (LineReg n m) e) (y : Layout) (good : Bool) (x0 : List Nat) :
    d.LineWork (LineReg n m) (e.blackLevel n m y good x0).1 := by
  have hput : ∀ {e} v, d.LineWork (LineReg n m) e → d.LineWork (LineReg n m) (e.put (F.PLn_CTXm_BLK_LEVEL n m) v) := fun v h =>
    h.put (f := F.PLn_CTXm_BLK_LEVEL n m) .blkLevel v
  unfold Dev.blackLevel
  split
  · exact hput _ h
  · split
    · exact hput _ h
    · exact hput _ (h.setCtx n m _)

theorem offsetGain (h : d.LineWork (LineReg n m) e) (ill : Nat) (x2 : List Int) :
    d.LineWork (LineReg n m) (e.offsetGain n m ill x2).1 :=
  (ite ((h.raise (f := F.PLn_CTXm_CAL_FLAG_TEMP_RANGE n m) (.tile .calFlag)).inc (f := F.PLn_CTXm_TEMP_RANGE_CNT n m)
    .tempRange) h).setCtx n m _

theorem correct (h : d.LineWork (LineReg n m) e) (tag : LineTag) (px : List Nat) :
    d.LineWork (LineReg n m) (e.correct n m tag px).1 := by
  unfold Dev.correct
  extract_lets y x0 good e1 b e2 x1 listed r e3 g
  have h2 : d.LineWork (LineReg n m) e2 := (h.takeTemp tag.temp).blackLevel y good x0
  have h3 : d.LineWork (LineReg n m) e3 := ite ((h2.raise (f := F.PLn_CTXm_CAL_FLAG_REPL_FAIL n m) (.tile .calFlag)).put
    (f := F.PLn_CTXm_REPL_FAIL_CNT n m) .replFail _) h2
  exact h3.offsetGain tag.gain r.1

/-! ### Hand-over of the enables, and lines dropped -/

theorem corHandOver (h : d.LineWork (CorReg n m) e) : d.LineWork (CorReg n m) (e.corHandOver n m) :=
  (((h.setReg .act _).setCtx n m _).put (f := F.PLn_CTXm_DYN_CFG_DYN_COUNT n m) .dyn _).ctxPend .stat

/-! ### XOFF and the fill -/

/-- XOFF marked is shown at the stream, counted, and shown at the pin. -/
theorem setXoff_echo (e : Dev) (n m : Nat) (b : Bool) :
    (e.mark (F.PLn_CTXm_STAT_XOFF n m) b).LineWork (XoffEcho n m) (e.setXoff n m b) := by
  have hs : e.val (F.PLn_CTXm_CFG_STREAM n m) < 64 := e.val_lt _
  unfold Dev.setXoff
  extract_lets s e1 e2 l e3
  have h1 : Dev.LineWork (XoffEcho n m) _ e1 := (refl _ _).mark (f := F.SLK_Ss_STAT_XOFF s) (.stream hs) b
  have h2 : Dev.LineWork (XoffEcho n m) _ e2 := ite (h1.inc (f := F.PLn_CTXm_XOFF_CNT n m) .count) h1
  have h3 : Dev.LineWork (XoffEcho n m) _ e3 := h2.trans (.of_regs rfl rfl rfl rfl rfl rfl)
  exact ite (h3.utpRefresh .pins (e3.val_lt (F.PLn_CTXm_PIN_UTP n m))) h3

theorem setXoff (h : d.LineWork (ShowReg n m) e) (b : Bool) : d.LineWork (ShowReg n m) (e.setXoff n m b) :=
  (h.mark (f := F.PLn_CTXm_STAT_XOFF n m) .stat b).trans ((setXoff_echo e n m b).mono fun _ => .echo)

theorem releaseXoff (h : d.LineWork (ShowReg n m) e) : d.LineWork (ShowReg n m) (e.releaseXoff n m) := ite (h.setXoff false) h

end Dev.LineWork

/-- FILL, LINES and READY of a context, before the watermarks are judged. -/
def Dev.fillShown (d : Dev) (n m ready : Nat) : Dev :=
  ((d.put (F.PLn_CTXm_STAT_FILL n m) (d.ctx n m).fill).put (F.PLn_CTXm_STAT_LINES n m) (d.ctx n m).fifo.length).put
    ⟨R.PLn_ARB_STAT n, 4 + m, 1⟩ ready

section
variable {n m : Nat}

theorem readyBit_narrow (hm : m < 4) : (4 + m + 1).ble 32 = true := Nat.ble_eq.mpr (by omega)

theorem Dev.LineWork.fillShown {d e : Dev} (h : d.LineWork (ShowReg n m) e) (hm : m < 4) (ready : Nat) :
    d.LineWork (ShowReg n m) (e.fillShown n m ready) :=
  ((h.put (f := F.PLn_CTXm_STAT_FILL n m) .stat _).put (f := F.PLn_CTXm_STAT_LINES n m) .stat _).put
    (f := ⟨R.PLn_ARB_STAT n, 4 + m, 1⟩) .arb _ (readyBit_narrow hm)

/-- The fill shown, then XOFF changed or not. -/
theorem Dev.ctxShow_eq (d : Dev) (n m : Nat) : ∃ ready, d.ctxShow n m = d.fillShown n m ready ∨
    ∃ b, d.ctxShow n m = (d.fillShown n m ready).setXoff n m b := by
  unfold Dev.ctxShow
  extract_lets c fill e1 e2 ready e3 held
  refine ⟨b2n ready, ?_⟩
  change _ = e3 ∨ ∃ b, _ = e3.setXoff n m b
  split
  · exact .inr ⟨true, rfl⟩
  · split
    · exact .inr ⟨false, rfl⟩
    · exact .inl rfl

theorem Dev.LineWork.ctxShow {d e : Dev} (h : d.LineWork (ShowReg n m) e) (hm : m < 4) :
    d.LineWork (ShowReg n m) (e.ctxShow n m) := by
  obtain ⟨ready, hshow | ⟨b, hshow⟩⟩ := e.ctxShow_eq n m
  · rw [hshow]
    exact h.fillShown hm ready
  · rw [hshow]
    exact (h.fillShown hm ready).setXoff b

/-- A field of the pipeline beside XOFF and its count stands when XOFF changes. -/
theorem Dev.setXoff_val (d : Dev) (b : Bool) {f : Fld} (hf : f.addr / 0x10000 = 0x4020 + n)
    (hx : (F.PLn_CTXm_STAT_XOFF n m).Apart f) (hcnt : f.addr ≠ R.PLn_CTXm_XOFF_CNT n m)
    (hn : (f.lo + f.len).ble 32 = true := by rfl) : (d.setXoff n m b).val f = d.val f := by
  rw [(Dev.LineWork.setXoff_echo d n m b).touches.reads_pipe hf (fun h => ?_) hn, Dev.val_mark_apart _ hx]
  obtain h | h | h := h.place
  · exact hcnt h
  all_goals omega

theorem Dev.setXoff_xoff (d : Dev) (hm : m < 4) (b : Bool) : (d.setXoff n m b).on (F.PLn_CTXm_STAT_XOFF n m) = b := by
  have hw : (F.PLn_CTXm_STAT_XOFF n m).addr / 0x10000 = 0x4020 + n := pipe_window (o := 0x104) (k := m * 0x80) (by omega)
  unfold Dev.on
  rw [(Dev.LineWork.setXoff_echo d n m b).touches.reads_pipe hw (fun h => ?_), Dev.val_mark_self _ rfl (by simp [F.PLn_CTXm_STAT_XOFF])]
  · cases b <;> rfl
  · obtain h | h | h := h.place
    · simp only [F.PLn_CTXm_STAT_XOFF, R.PLn_CTXm_STAT, R.PLn_CTXm_XOFF_CNT] at h
      omega
    all_goals omega

/-- Where XOFF is released it reads 0 after it. -/
theorem Dev.releaseXoff_xoff (d : Dev) (hm : m < 4) : (d.releaseXoff n m).on (F.PLn_CTXm_STAT_XOFF n m) = false := by
  unfold Dev.releaseXoff
  split
  · exact d.setXoff_xoff hm false
  · exact Bool.eq_false_iff.mpr ‹_›

theorem Dev.utpRefresh_pl (d : Dev) (u : Nat) : (d.utpRefresh u).pl = d.pl := by
  unfold Dev.utpRefresh
  extract_lets f
  split
  · exact Dev.put_pl _ _ _
  · split
    · rfl
    · split
      · rfl
      · exact Dev.mark_pl _ _ _

theorem Dev.setXoff_pl (d : Dev) (b : Bool) : (d.setXoff n m b).pl = d.pl := by
  unfold Dev.setXoff
  extract_lets s e1 e2 l e3
  have h2 : e2.pl = d.pl := by
    simp only [e2, e1]
    split <;> simp
  have h3 : e3.pl = d.pl := h2
  split
  · rw [Dev.utpRefresh_pl, h3]
  · exact h3

theorem Dev.releaseXoff_pl (d : Dev) : (d.releaseXoff n m).pl = d.pl := by
  unfold Dev.releaseXoff
  split
  · exact d.setXoff_pl false
  · rfl

theorem Dev.fillShown_pl (d : Dev) (ready : Nat) : (d.fillShown n m ready).pl = d.pl := by
  simp only [Dev.fillShown, Dev.put_pl]

theorem Dev.ctxShow_pl (d : Dev) : (d.ctxShow n m).pl = d.pl := by
  obtain ⟨ready, h | ⟨b, h⟩⟩ := d.ctxShow_eq n m
  · rw [h, Dev.fillShown_pl]
  · rw [h, Dev.setXoff_pl, Dev.fillShown_pl]

theorem apart_ready (hm : m < 4) {f : Fld} (h : R.PLn_ARB_STAT n ≠ f.addr) (hn : (f.lo + f.len).ble 32 = true := by rfl) :
    Fld.Apart ⟨R.PLn_ARB_STAT n, 4 + m, 1⟩ f := Fld.apart_of_ne h (readyBit_narrow hm) hn

/-- The fields in which FILL, LINES and READY show. -/
def fillFlds (n m : Nat) : List Fld :=
  [F.PLn_CTXm_STAT_FILL n m, F.PLn_CTXm_STAT_LINES n m, ⟨R.PLn_ARB_STAT n, 4 + m, 1⟩]

theorem Dev.fillShown_val (d : Dev) (ready : Nat) {f : Fld} (h : ∀ g ∈ fillFlds n m, g.Apart f) :
    (d.fillShown n m ready).val f = d.val f := by
  simp only [fillFlds, List.forall_mem_cons, List.not_mem_nil, false_implies, implies_true, and_true] at h
  obtain ⟨hfill, hlines, hready⟩ := h
  rw [Dev.fillShown, Dev.val_put_apart _ hready, Dev.val_put_apart _ hlines, Dev.val_put_apart _ hfill]

/-- Every field of the pipeline that shows none of them, nor XOFF or its count, stands. -/
theorem Dev.ctxShow_val (d : Dev) {f : Fld} (hf : f.addr / 0x10000 = 0x4020 + n) (hfill : ∀ g ∈ fillFlds n m, g.Apart f)
    (hxoff : (F.PLn_CTXm_STAT_XOFF n m).Apart f) (hcnt : f.addr ≠ R.PLn_CTXm_XOFF_CNT n m)
    (hn : (f.lo + f.len).ble 32 = true := by rfl) : (d.ctxShow n m).val f = d.val f := by
  obtain ⟨ready, h | ⟨b, h⟩⟩ := d.ctxShow_eq n m
  · rw [h, Dev.fillShown_val _ _ hfill]
  · rw [h, Dev.setXoff_val _ b hf hxoff hcnt hn, Dev.fillShown_val _ _ hfill]

/-- The other fields of the context's STAT stand while FILL, LINES and READY show. -/
theorem fillFlds_apart_stat (hm : m < 4) {f : Fld} (hf : f.addr = R.PLn_CTXm_STAT n m) (hlo : Nat.ble (f.lo + f.len) 8 = true := by rfl) :
    ∀ g ∈ fillFlds n m, g.Apart f := by
  have hlo := Nat.le_of_ble_eq_true hlo
  have hne : R.PLn_ARB_STAT n ≠ f.addr := by simp only [hf, R.PLn_ARB_STAT, R.PLn_CTXm_STAT]; omega
  simp only [fillFlds, List.forall_mem_cons, List.not_mem_nil, false_implies, implies_true, and_true]
  refine ⟨.inr ⟨hf.symm, by simp [F.PLn_CTXm_STAT_FILL], by omega, .inr ?_⟩,
    .inr ⟨hf.symm, by simp [F.PLn_CTXm_STAT_LINES], by omega, .inr hlo⟩, apart_ready hm hne (Nat.ble_eq.mpr (by omega))⟩
  simp only [F.PLn_CTXm_STAT_FILL]
  omega

end

end Sys2Proof.Machine
end

/-! PROOFS. ContextsStartAndStop (R9, R95, R96, R106). -/
section
-- One lemma at a time: elaborated side by side they take more threads than the check's memory limit leaves room for.
set_option Elab.async false
namespace Sys2Proof.Machine

/-! ### The contexts that are not idle (R95) -/

/-- What a table holds is its default or one of its entries. -/
theorem tabGet_mem {α : Type} (x : α) (k : Nat) : ∀ t : Tab α, tabGet x t k = x ∨ (k, tabGet x t k) ∈ t
  | [] => .inl rfl
  | (j, v) :: t => by
    by_cases h : j = k
    · right
      simp [tabGet, h]
    · simpa [tabGet, h] using (tabGet_mem x k t).imp_right .inr

theorem resetOf_ctxStat_idle (n : Fin 17) (m : Fin 4) : fieldOf (resetOf (R.PLn_CTXm_STAT n m)) 0 1 = 1 := by decide +revert

theorem Dev.liveCtxs_lt {d : Dev} {c : Nat × Nat} (h : c ∈ d.liveCtxs) : c.1 < 17 ∧ c.2 < 4 := by
  obtain ⟨e, -, he⟩ := List.mem_filterMap.mp h
  dsimp only at he
  split at he
  · cases he
  · cases he
    dsimp only
    omega

/-- A context whose IDLE is clear is listed: at reset IDLE is set. -/
theorem Dev.mem_liveCtxs {d : Dev} {n : Fin 17} {m : Fin 4} (h : d.on (F.PLn_CTXm_STAT_IDLE n m) = false) :
    (n.val, m.val) ∈ d.liveCtxs := by
  have hidle : fieldOf (d.reg (R.PLn_CTXm_STAT n m)) 0 1 = 0 := by simpa [Dev.on, Dev.val, F.PLn_CTXm_STAT_IDLE] using h
  have hlisted : (R.PLn_CTXm_STAT n m, d.reg (R.PLn_CTXm_STAT n m)) ∈ d.regs := by
    refine (tabGet_mem _ _ d.regs).resolve_left fun hreset => ?_
    have := resetOf_ctxStat_idle n m
    rw [← hreset] at this
    exact absurd (this.symm.trans hidle) (by decide)
  refine List.mem_filterMap.mpr ⟨_, hlisted, ?_⟩
  have ho : R.PLn_CTXm_STAT n m - R.PLn_CTXm_STAT 0 0 = n * 0x10000 + m * 0x80 := by simp only [R.PLn_CTXm_STAT]; omega
  dsimp only
  rw [ho, if_neg]
  · simp only [Option.some.injEq, Prod.mk.injEq]
    omega
  · have hbase : R.PLn_CTXm_STAT 0 0 ≤ R.PLn_CTXm_STAT n m := by simp only [R.PLn_CTXm_STAT]; omega
    rw [hidle]
    omega

/-! ### CONTEXT_ENABLE -/

section
variable {d : Dev} {n : Fin 17} {m : Fin 4}

/-- Another enabled context that is not idle takes the stream: refused with the access error. -/
theorem Dev.ctxEnable_taken {i : Fin 17} {j : Fin 4} (hother : i ≠ n ∨ j ≠ m) (hen : d.on (F.PLn_CTXm_CFG_EN i j) = true)
    (hidle : d.on (F.PLn_CTXm_STAT_IDLE i j) = false)
    (hstream : d.val (F.PLn_CTXm_CFG_STREAM i j) = d.val (F.PLn_CTXm_CFG_STREAM n m)) :
    d.ctxEnable n m = d.accessErr (R.PLn_CTXm_CFG n m) := by
  unfold Dev.ctxEnable
  refine if_pos (List.any_eq_true.mpr ⟨_, Dev.mem_liveCtxs hidle, ?_⟩)
  simp only [hen, hstream, Bool.and_eq_true, bne_iff_ne, ne_eq, Prod.mk.injEq, beq_self_eq_true, and_true]
  omega

/-- No other enabled context takes the stream: the stopped context begins afresh. -/
theorem Dev.ctxEnable_free (hidle : d.on (F.PLn_CTXm_STAT_IDLE n m) = true)
    (hfree : ∀ (i : Fin 17) (j : Fin 4), (i ≠ n ∨ j ≠ m) → d.on (F.PLn_CTXm_CFG_EN i j) = true →
      d.val (F.PLn_CTXm_CFG_STREAM i j) ≠ d.val (F.PLn_CTXm_CFG_STREAM n m)) :
    d.ctxEnable n m = ((d.mark (F.PLn_CTXm_CFG_EN n m) true).mark (F.PLn_CTXm_STAT_IDLE n m) false).ctxFresh n m := by
  unfold Dev.ctxEnable
  extract_lets s other r
  have hother : other = false := by
    refine List.any_eq_false.mpr fun c hc h => ?_
    obtain ⟨hi, hj⟩ := Dev.liveCtxs_lt hc
    simp only [Bool.and_eq_true, bne_iff_ne, beq_iff_eq] at h
    obtain ⟨⟨hne, hen⟩, hstream⟩ := h
    refine hfree ⟨c.1, hi⟩ ⟨c.2, hj⟩ ?_ hen hstream
    by_contra hsame
    simp only [ne_eq, not_or, not_not, Fin.ext_iff] at hsame
    exact hne (Prod.ext hsame.1 hsame.2)
  have hr : r = ((d.mark (F.PLn_CTXm_CFG_EN n m) true).mark (F.PLn_CTXm_STAT_IDLE n m) false, true) := if_pos hidle
  rw [hother, hr]
  rfl

theorem Dev.ctxEnable_does (hidle : d.on (F.PLn_CTXm_STAT_IDLE n m) = true)
    (hfree : ∀ (i : Fin 17) (j : Fin 4), (i ≠ n ∨ j ≠ m) → d.on (F.PLn_CTXm_CFG_EN i j) = true →
      d.val (F.PLn_CTXm_CFG_STREAM i j) ≠ d.val (F.PLn_CTXm_CFG_STREAM n m)) :
    (d.ctxEnable n m).on (F.PLn_CTXm_CFG_EN n m) = true ∧ (d.ctxEnable n m).on (F.PLn_CTXm_STAT_IDLE n m) = false ∧
      (d.ctxEnable n m).val (F.PLn_CTXm_CAL_STAT_TEMP_F n m) = d.val (F.PLn_CTXm_TEMP_DEF n m) % 65536 ∧
      d.sameRegsBut (d.ctxEnable n m)
        [F.PLn_CTXm_CFG_EN n m, F.PLn_CTXm_STAT_IDLE n m, F.PLn_CTXm_CAL_STAT_TEMP_F n m] := by
  have hcs : R.PLn_CTXm_STAT n m ≠ R.PLn_CTXm_CFG n m := by simp only [R.PLn_CTXm_STAT, R.PLn_CTXm_CFG]; omega
  have htc : R.PLn_CTXm_CAL_STAT n m ≠ R.PLn_CTXm_CFG n m := by simp only [R.PLn_CTXm_CAL_STAT, R.PLn_CTXm_CFG]; omega
  have hts : R.PLn_CTXm_CAL_STAT n m ≠ R.PLn_CTXm_STAT n m := by simp only [R.PLn_CTXm_CAL_STAT, R.PLn_CTXm_STAT]; omega
  have hdc : R.PLn_CTXm_CFG n m ≠ R.PLn_CTXm_TEMP_DEF n m := by simp only [R.PLn_CTXm_CFG, R.PLn_CTXm_TEMP_DEF]; omega
  have hds : R.PLn_CTXm_STAT n m ≠ R.PLn_CTXm_TEMP_DEF n m := by simp only [R.PLn_CTXm_STAT, R.PLn_CTXm_TEMP_DEF]; omega
  rw [Dev.ctxEnable_free hidle hfree]
  obtain ⟨e, he⟩ : ∃ e, e = (d.mark (F.PLn_CTXm_CFG_EN n m) true).mark (F.PLn_CTXm_STAT_IDLE n m) false := ⟨_, rfl⟩
  have hen : e.on (F.PLn_CTXm_CFG_EN n m) = true := by
    rw [he, Dev.on_congr (Dev.val_mark_apart _ (Fld.apart_of_ne hcs) _)]
    exact Dev.on_mark_self _ rfl (by simp [F.PLn_CTXm_CFG_EN]) _
  have hid : e.on (F.PLn_CTXm_STAT_IDLE n m) = false := by
    rw [he]
    exact Dev.on_mark_self _ rfl (by simp [F.PLn_CTXm_STAT_IDLE]) _
  have htemp : e.val (F.PLn_CTXm_TEMP_DEF n m) = d.val (F.PLn_CTXm_TEMP_DEF n m) := by
    rw [he, Dev.val_mark_apart _ (Fld.apart_of_ne hds), Dev.val_mark_apart _ (Fld.apart_of_ne hdc)]
  have hwork : Dev.LineWork (fun a => a = R.PLn_CTXm_CFG n m ∨ a = R.PLn_CTXm_STAT n m ∨ a = R.PLn_CTXm_CAL_STAT n m) d e := by
    rw [he]
    exact ((Dev.LineWork.refl _ d).mark (f := F.PLn_CTXm_CFG_EN n m) (Or.inl rfl) true).mark
      (f := F.PLn_CTXm_STAT_IDLE n m) (Or.inr (Or.inl rfl)) false
  rw [← he]
  refine ⟨?_, ?_, ?_, (hwork.ctxFresh (.inr (.inr rfl))).touches.sameRegsBut fun a ha => ?_⟩
  · rw [← hen]
    exact Dev.on_congr (Dev.val_put_apart _ (Fld.apart_of_ne htc) _)
  · rw [← hid]
    exact Dev.on_congr (Dev.val_put_apart _ (Fld.apart_of_ne hts) _)
  · rw [← htemp]
    exact Dev.val_put_self _ (f := F.PLn_CTXm_CAL_STAT_TEMP_F n m) (by simp [F.PLn_CTXm_CAL_STAT_TEMP_F]) _
  · rcases ha with rfl | rfl | rfl
    · exact ⟨F.PLn_CTXm_CFG_EN n m, by simp, .inl rfl⟩
    · exact ⟨F.PLn_CTXm_STAT_IDLE n m, by simp, .inl rfl⟩
    · exact ⟨F.PLn_CTXm_CAL_STAT_TEMP_F n m, by simp, .inl rfl⟩

end

/-! ### CONTEXT_DISABLE -/

/-- A pipeline that runs no line, or whose line still runs, ends none. -/
theorem Dev.frontDone_of_running {d : Dev} {n : Nat} (h : (d.front n).running = none ∨ d.now < (d.front n).busyTill) :
    d.frontDone n = d := by
  unfold Dev.frontDone
  extract_lets f e
  split
  · rfl
  · rename_i hrun
    rw [if_pos (h.resolve_left (by simp [f, hrun]))]

section
variable {d : Dev} {n : Nat} {m : Nat}

theorem Dev.ctx_of_pl {e : Dev} (h : e.pl = d.pl) (n m : Nat) : e.ctx n m = d.ctx n m := by unfold Dev.ctx; rw [h]

/-- What a context that stops writes beside EN and IDLE: its tile is closed and XOFF released. -/
def Dev.ctxEmptied (d : Dev) (n m : Nat) : Dev := (d.closeTile n m true).releaseXoff n m

/-- The registers of a closed tile, and those that XOFF is shown in. -/
def EmptiedReg (n m a : Nat) : Prop := TileReg n m a ∨ ShowReg n m a

theorem cfg_not_emptiedReg : ¬ EmptiedReg n m (R.PLn_CTXm_CFG n m) := by
  rintro (h | h)
  · exact h.apart.1 rfl
  · have := h.place
    simp only [R.PLn_CTXm_CFG, R.PLn_CTXm_STAT, R.PLn_ARB_STAT, R.PLn_CTXm_XOFF_CNT] at this
    omega

theorem Dev.ctxEmptied_work (d : Dev) : d.LineWork (EmptiedReg n m) (d.ctxEmptied n m) :=
  (((Dev.LineWork.refl _ d).closeTile true).mono fun _ => .inl).trans ((Dev.LineWork.refl _ _).releaseXoff.mono fun _ => .inr)

/-- A context with no line left stops with its EN clear. -/
theorem Dev.ctxSettle_idle (hm : m < 4) (hfifo : (d.ctx n m).fifo = []) (hidle : d.on (F.PLn_CTXm_STAT_IDLE n m) = false)
    (hen : d.on (F.PLn_CTXm_CFG_EN n m) = false) (hr : d.restart.contains (R.PLn_CTXm_CFG n m) = false) :
    d.ctxSettle n m = ((d.ctxEmptied n m).drained (F.PLn_CTXm_CFG_EN n m) (F.PLn_CTXm_STAT_IDLE n m)).1 ∧
      (d.ctxSettle n m).on (F.PLn_CTXm_STAT_IDLE n m) = true ∧ (d.ctxSettle n m).on (F.PLn_CTXm_CFG_EN n m) = false := by
  have hw : (F.PLn_CTXm_CFG_EN n m).addr / 0x10000 = 0x4020 + n := pipe_window (o := 0x100) (k := m * 0x80) (by omega)
  have hwork := d.ctxEmptied_work (n := n) (m := m)
  have hen' : (d.ctxEmptied n m).on (F.PLn_CTXm_CFG_EN n m) = false :=
    (Dev.on_congr (hwork.touches.reads_pipe hw cfg_not_emptiedReg)).trans hen
  have hr' : (d.ctxEmptied n m).restart.contains (R.PLn_CTXm_CFG n m) = false := by
    simp only [List.contains_eq_mem, decide_eq_false_iff_not] at hr ⊢
    exact fun hmem => hr (hwork.touches.restart _ hmem)
  obtain ⟨hnot, hidle', hen''⟩ := Dev.drained_idle (d := d.ctxEmptied n m) (en := F.PLn_CTXm_CFG_EN n m)
    (idle := F.PLn_CTXm_STAT_IDLE n m) (by simp only [F.PLn_CTXm_CFG_EN, F.PLn_CTXm_STAT_IDLE, R.PLn_CTXm_CFG, R.PLn_CTXm_STAT]; omega)
    (quiet_pipe (f := F.PLn_CTXm_CFG_EN n m) hw).1 hen' hr'
  have heq : d.ctxSettle n m = ((d.ctxEmptied n m).drained (F.PLn_CTXm_CFG_EN n m) (F.PLn_CTXm_STAT_IDLE n m)).1 := by
    unfold Dev.ctxSettle
    rw [if_neg (by simp [hfifo, Dev.drains_of hidle (.inl hen)])]
    exact if_neg (by rw [← Dev.ctxEmptied, hnot]; exact Bool.false_ne_true)
  rw [heq]
  exact ⟨rfl, hidle', hen''⟩

theorem Dev.ctxSettle_holds (hfifo : (d.ctx n m).fifo ≠ []) : d.ctxSettle n m = d := by
  unfold Dev.ctxSettle
  exact if_pos (.inl (by simpa using hfifo))

theorem Dev.dynUpdate_ctx (d : Dev) (cands : List Nat) (ovf : Bool) :
    ((d.dynUpdate n m cands ovf).ctx n m).tile = (d.ctx n m).tile ∧ ((d.dynUpdate n m cands ovf).ctx n m).record = (d.ctx n m).record := by
  unfold Dev.dynUpdate
  extract_lets c pro dem static promo promo' demo gone kept new room lst c'
  rw [Dev.ctx_of_pl (d := d.setCtx n m c') (by simp), Dev.ctx_setCtx]
  exact ⟨rfl, rfl⟩

/-- The header of a statistics record: its kind, then the flags with PARTIAL (R108). -/
theorem Dev.statBytes_partial (d : Dev) (t : StatTile) (means : List Nat) (cands : List (Nat × Int × Nat)) (ovf : Bool) :
    (d.statBytes n m t true means cands ovf).head? = some 0x10 ∧
      ((d.statBytes n m t true means cands ovf).getD 1 0).getLsbD 0 = true := by
  obtain ⟨rest, hrest⟩ : ∃ rest, d.statBytes n m t true means cands ovf = 0x10 :: BitVec.ofNat 8 (1 + 4 * b2n ovf) :: rest := by
    unfold Dev.statBytes
    simp only [bytesLE, List.cons_append, List.nil_append, List.append_assoc]
    exact ⟨_, rfl⟩
  rw [hrest]
  cases ovf <;> simp [b2n]

/-- A tile closed with PARTIAL while the buffer is free leaves its record there (R106 to R109). -/
theorem Dev.closeTile_record {x : StatTile} (htile : (d.ctx n m).tile = some x) (hrec : (d.ctx n m).record = none) :
    ((d.closeTile n m true).ctx n m).tile = none ∧ ∃ r, ((d.closeTile n m true).ctx n m).record = some r ∧
      r.queue = x.queue ∧ r.bytes.head? = some 0x10 ∧ (r.bytes.getD 1 0).getLsbD 0 = true := by
  generalize he : d.closeTile n m true = e
  unfold Dev.closeTile at he
  split at he
  case h_1 hnone => cases hnone.symm.trans htile
  case h_2 t ht =>
    obtain rfl : t = x := Option.some.inj (ht.symm.trans htile)
    extract_lets k half all cands ovf means bytes e1 e2 c0 c e3 at he
    have h2 : e2 = e1 := by
      have hrec' : (e1.ctx n m).record = none := hrec
      simp only [e2, Dev.recSettle, hrec']
    have hfree : c.record = none := by
      simp only [c, c0, h2]
      exact hrec
    have h3 : e3.ctx n m = { c with record := some ⟨t.queue, bytes⟩, offered := false } := by
      simp only [e3, hfree]
      exact Dev.ctx_setCtx _ _ _ _
    have hbytes := d.statBytes_partial (n := n) (m := m) t means cands ovf
    have hctx : (e.ctx n m).tile = (e3.ctx n m).tile ∧ (e.ctx n m).record = (e3.ctx n m).record := by
      rw [← he]
      split
      · exact e3.dynUpdate_ctx _ _
      · exact ⟨rfl, rfl⟩
    rw [hctx.1, hctx.2, h3]
    exact ⟨rfl, _, rfl, rfl, hbytes⟩

/-- EN cleared, before what the context holds decides whether it stops. -/
def Dev.ctxHalted (d : Dev) (n m : Nat) : Dev := d.stopIntake (F.PLn_CTXm_CFG_EN n m)

theorem Dev.ctxHalted_ctx (d : Dev) : (d.ctxHalted n m).ctx n m = d.ctx n m :=
  Dev.ctx_of_pl (Dev.stopIntake_pl d _) n m

theorem Dev.ctxHalted_en (d : Dev) : (d.ctxHalted n m).on (F.PLn_CTXm_CFG_EN n m) = false :=
  d.on_stopIntake rfl (by simp [F.PLn_CTXm_CFG_EN])

theorem Dev.ctxHalted_touches (d : Dev) : d.Touches (· = R.PLn_CTXm_CFG n m) (d.ctxHalted n m) :=
  (Dev.Touches.refl _ d).stopIntake (en := F.PLn_CTXm_CFG_EN n m) rfl

theorem Dev.ctxHalted_stat (d : Dev) {f : Fld} (hf : f.addr = R.PLn_CTXm_STAT n m) (hn : (f.lo + f.len).ble 32 = true := by rfl) :
    (d.ctxHalted n m).on f = d.on f :=
  Dev.on_congr (d.val_stopIntake_apart (Fld.apart_of_ne (f := F.PLn_CTXm_CFG_EN n m)
    (by simp only [hf, F.PLn_CTXm_CFG_EN, R.PLn_CTXm_CFG, R.PLn_CTXm_STAT]; omega) rfl hn))

theorem Dev.ctxDisable_eq (hrun : (d.front n).running = none) : d.ctxDisable n m = (d.ctxHalted n m).ctxSettle n m := by
  unfold Dev.ctxDisable
  rw [Dev.frontDone_of_running (.inl hrun)]
  rfl

/-- A context that holds lines goes on with EN clear. -/
theorem Dev.ctxDisable_holds (hrun : (d.front n).running = none) (hfifo : (d.ctx n m).fifo ≠ []) :
    d.ctxDisable n m = d.ctxHalted n m := by
  rw [Dev.ctxDisable_eq hrun]
  exact Dev.ctxSettle_holds (by rwa [Dev.ctxHalted_ctx])

/-- With EN clear and no line left the context is idle at once. -/
theorem Dev.ctxDisable_idle (hm : m < 4) (hrun : (d.front n).running = none) (hidle : d.on (F.PLn_CTXm_STAT_IDLE n m) = false)
    (hfifo : (d.ctx n m).fifo = []) :
    d.ctxDisable n m =
        (((d.ctxHalted n m).ctxEmptied n m).drained (F.PLn_CTXm_CFG_EN n m) (F.PLn_CTXm_STAT_IDLE n m)).1 ∧
      (d.ctxDisable n m).on (F.PLn_CTXm_STAT_IDLE n m) = true ∧ (d.ctxDisable n m).on (F.PLn_CTXm_CFG_EN n m) = false := by
  rw [Dev.ctxDisable_eq hrun]
  exact Dev.ctxSettle_idle hm (by rw [Dev.ctxHalted_ctx, hfifo]) ((d.ctxHalted_stat rfl).trans hidle) d.ctxHalted_en
    (by simp [Dev.ctxHalted, Dev.stopIntake, F.PLn_CTXm_CFG_EN])

/-- With no tile open and no XOFF nothing but EN and IDLE changes. -/
theorem Dev.ctxDisable_still (hm : m < 4) (hrun : (d.front n).running = none) (hidle : d.on (F.PLn_CTXm_STAT_IDLE n m) = false)
    (hfifo : (d.ctx n m).fifo = []) (htile : (d.ctx n m).tile = none) (hxoff : d.on (F.PLn_CTXm_STAT_XOFF n m) = false) :
    d.sameRegsBut (d.ctxDisable n m) [F.PLn_CTXm_CFG_EN n m, F.PLn_CTXm_STAT_IDLE n m] := by
  have hclosed : (d.ctxHalted n m).ctxEmptied n m = d.ctxHalted n m := by
    have htile' : ((d.ctxHalted n m).ctx n m).tile = none := by rw [Dev.ctxHalted_ctx, htile]
    unfold Dev.ctxEmptied Dev.closeTile
    rw [htile']
    exact if_neg (by rw [d.ctxHalted_stat rfl, hxoff]; exact Bool.false_ne_true)
  rw [(Dev.ctxDisable_idle hm hrun hidle hfifo).1, hclosed]
  have htouch := (d.ctxHalted_touches (n := n) (m := m)).mono (V := fun a => a = R.PLn_CTXm_CFG n m ∨ a = R.PLn_CTXm_STAT n m)
    fun _ => .inl
  refine (htouch.drained (idle := F.PLn_CTXm_STAT_IDLE n m) (Or.inr rfl) _).sameRegsBut fun a ha => ?_
  rcases ha with rfl | rfl
  · exact ⟨F.PLn_CTXm_CFG_EN n m, by simp, .inl rfl⟩
  · exact ⟨F.PLn_CTXm_STAT_IDLE n m, by simp, .inl rfl⟩

/-- An open tile's record is closed with PARTIAL, and XOFF is released. -/
theorem Dev.ctxDisable_tile (hm : m < 4) (hrun : (d.front n).running = none) (hidle : d.on (F.PLn_CTXm_STAT_IDLE n m) = false)
    (hfifo : (d.ctx n m).fifo = []) {x : StatTile} (htile : (d.ctx n m).tile = some x) (hrec : (d.ctx n m).record = none) :
    (d.ctxDisable n m).on (F.PLn_CTXm_STAT_XOFF n m) = false ∧ ((d.ctxDisable n m).ctx n m).tile = none ∧
      ∃ r, ((d.ctxDisable n m).ctx n m).record = some r ∧ r.queue = x.queue ∧ r.bytes.head? = some 0x10 ∧
        (r.bytes.getD 1 0).getLsbD 0 = true := by
  obtain ⟨e, he⟩ : ∃ e, e = (d.ctxHalted n m).closeTile n m true := ⟨_, rfl⟩
  have hctx : ((d.ctxHalted n m).ctxEmptied n m).ctx n m = e.ctx n m := by
    rw [he]
    exact Dev.ctx_of_pl (Dev.releaseXoff_pl _) n m
  rw [(Dev.ctxDisable_idle hm hrun hidle hfifo).1, Dev.ctx_of_pl (Dev.drained_pl _ _ _), hctx, he]
  refine ⟨?_, Dev.closeTile_record (by rw [Dev.ctxHalted_ctx, htile]) (by rw [Dev.ctxHalted_ctx, hrec])⟩
  refine (Dev.on_congr (Dev.val_drained_apart _ _ (idle := F.PLn_CTXm_STAT_IDLE n m) (f := F.PLn_CTXm_STAT_XOFF n m)
    (Fld.apart_of_bits rfl))).trans ?_
  exact Dev.releaseXoff_xoff _ hm

/-! ### CONTEXT_ABORT -/

/-- Lines dropped one after the other, without the flag. -/
def Dev.linesLost (d : Dev) (n m : Nat) (l : List FifoLine) : Dev :=
  l.foldl (fun d x => d.dropLine n m x.tag.stream x.tag.k false) d

theorem Dev.linesLost_does (n m : Nat) : ∀ (l : List FifoLine) (d : Dev), d.Touches (· = R.PLn_CTXm_DROP_CNT n m) (d.linesLost n m l) ∧
    (d.linesLost n m l).pl = d.pl ∧
    (d.linesLost n m l).val (F.PLn_CTXm_DROP_CNT n m) = min 0xFFFFFFFF (d.val (F.PLn_CTXm_DROP_CNT n m) + l.length)
  | [], d => ⟨.refl _ d, rfl, by
      have := d.val_lt (F.PLn_CTXm_DROP_CNT n m)
      simp only [F.PLn_CTXm_DROP_CNT] at this ⊢
      simp only [Dev.linesLost, List.foldl_nil, List.length_nil]
      omega⟩
  | x :: l, d => by
      obtain ⟨e, he⟩ : ∃ e, e = d.lineless x.tag.stream x.tag.k := ⟨_, rfl⟩
      have htouch' : d.Touches (· = R.PLn_CTXm_DROP_CNT n m) e := by rw [he]; exact .of_regs rfl rfl rfl
      have hpl' : e.pl = d.pl := by rw [he]; rfl
      have hcnt' : e.val (F.PLn_CTXm_DROP_CNT n m) = d.val (F.PLn_CTXm_DROP_CNT n m) := by
        rw [he]
        exact Dev.val_of_regs (d := d) rfl _
      obtain ⟨htouch, hpl, hcnt⟩ := Dev.linesLost_does n m l (e.inc (F.PLn_CTXm_DROP_CNT n m))
      have hone : d.linesLost n m (x :: l) = (e.inc (F.PLn_CTXm_DROP_CNT n m)).linesLost n m l := by rw [he]; rfl
      rw [hone]
      refine ⟨(htouch'.inc (f := F.PLn_CTXm_DROP_CNT n m) rfl).trans htouch, hpl.trans ((Dev.inc_pl _ _).trans hpl'), ?_⟩
      rw [hcnt, Dev.val_inc_self _ rfl rfl, hcnt', List.length_cons]
      omega

/-- An empty FIFO with XOFF released shows as it is: the watermarks change nothing. -/
theorem Dev.ctxShow_empty (hm : m < 4) (hfifo : (d.ctx n m).fifo = []) (hxoff : d.on (F.PLn_CTXm_STAT_XOFF n m) = false) :
    ∃ ready, d.ctxShow n m = d.fillShown n m ready := by
  have hfill : (d.ctx n m).fill = 0 := by simp [Ctx.fill, hfifo]
  unfold Dev.ctxShow
  extract_lets c fill e1 e2 ready e3 held
  have hheld : held = false :=
    (Dev.on_congr (d.fillShown_val (b2n ready) (fillFlds_apart_stat hm (f := F.PLn_CTXm_STAT_XOFF n m) rfl))).trans hxoff
  have hhi : ¬ e3.flowHi n m ≤ fill := by
    simp only [fill, c, hfill, Dev.flowHi]
    omega
  refine ⟨b2n ready, ?_⟩
  rw [if_neg (by simp [hhi]), if_neg (by simp [hheld])]
  rfl

/-- What an abort leaves before the two bits are set: the lines dropped, the FIFO emptied and shown. -/
def Dev.ctxCleared (d : Dev) (n m : Nat) (c : Ctx) : Dev :=
  (((d.linesLost n m c.fifo).setCtx n m { c with fifo := [], tile := none }).releaseXoff n m).ctxShow n m

/-- ABORT cuts the line that runs, and drops every line. -/
theorem Dev.ctxAbort_eq (h : (d.front n).running = none ∨ d.now < (d.front n).busyTill) :
    ∃ e, d.Touches (· = R.PLn_ARB_STAT n) e ∧
      d.ctxAbort n m = (e.ctxCleared n m (d.ctx n m)).abortBits (F.PLn_CTXm_CFG_EN n m) (F.PLn_CTXm_STAT_IDLE n m) := by
  unfold Dev.ctxAbort
  rw [Dev.frontDone_of_running h]
  extract_lets e0 c f cut e1 e2 e3
  refine ⟨e1, ?_, rfl⟩
  have hcut : d.Touches (· = R.PLn_ARB_STAT n) (d.setFront n { busyTill := d.now + 1, running := none }) := .of_regs rfl rfl rfl
  exact .ite (hcut.mark (f := F.PLn_ARB_STAT_BUSY n) rfl false) (.refl _ d)

theorem Dev.ctxCleared_does (hm : m < 4) (d : Dev) (c : Ctx) : (d.ctxCleared n m c).on (F.PLn_CTXm_STAT_XOFF n m) = false ∧
    (d.ctxCleared n m c).val (F.PLn_CTXm_STAT_FILL n m) = 0 ∧ (d.ctxCleared n m c).ctx n m = { c with fifo := [], tile := none } ∧
    (d.ctxCleared n m c).val (F.PLn_CTXm_DROP_CNT n m) =
      min 0xFFFFFFFF (d.val (F.PLn_CTXm_DROP_CNT n m) + c.fifo.length) ∧
    d.Touches (fun a => a / 0x10000 ∈ [0x4020 + n, 0x4012, 0x4000]) (d.ctxCleared n m c) := by
  obtain ⟨htouch, -, hcnt⟩ := Dev.linesLost_does n m c.fifo d
  obtain ⟨e, he⟩ : ∃ e, e = (d.linesLost n m c.fifo).setCtx n m { c with fifo := [], tile := none } := ⟨_, rfl⟩
  have hcleared : d.ctxCleared n m c = (e.releaseXoff n m).ctxShow n m := by rw [he]; rfl
  have hctx : (e.releaseXoff n m).ctx n m = { c with fifo := [], tile := none } := by
    rw [Dev.ctx_of_pl (Dev.releaseXoff_pl _), he, Dev.ctx_setCtx]
  have hxoff := e.releaseXoff_xoff (n := n) hm
  have hw : (F.PLn_CTXm_DROP_CNT n m).addr / 0x10000 = 0x4020 + n := pipe_window (o := 0x120) (k := m * 0x80) (by omega)
  have hshow : e.LineWork (ShowReg n m) (d.ctxCleared n m c) := by
    rw [hcleared]
    exact (Dev.LineWork.refl _ e).releaseXoff.ctxShow hm
  obtain ⟨ready, hready⟩ := Dev.ctxShow_empty hm (by rw [hctx]) hxoff
  have hfill : ((e.releaseXoff n m).ctx n m).fill = 0 := by rw [hctx]; rfl
  refine ⟨?_, ?_, ?_, ?_, ?_⟩
  · rw [hcleared, hready, ← hxoff]
    exact Dev.on_congr (Dev.fillShown_val _ _ (fillFlds_apart_stat hm (f := F.PLn_CTXm_STAT_XOFF n m) rfl))
  · rw [hcleared, hready, Dev.fillShown, hfill]
    rw [Dev.val_put_apart _ (apart_ready hm (f := F.PLn_CTXm_STAT_FILL n m) ?_), Dev.val_put_apart _
      (f := F.PLn_CTXm_STAT_LINES n m) (g := F.PLn_CTXm_STAT_FILL n m) (Fld.apart_of_bits rfl), Dev.val_put_self]
    · exact Nat.zero_mod _
    · simp [F.PLn_CTXm_STAT_FILL]
    · simp only [F.PLn_CTXm_STAT_FILL, R.PLn_ARB_STAT, R.PLn_CTXm_STAT]
      omega
  · rw [hcleared, Dev.ctx_of_pl (Dev.ctxShow_pl _), hctx]
  · rw [← hcnt, hshow.touches.reads_pipe hw (fun h => ?_), he]
    · rfl
    · have := h.place
      simp only [F.PLn_CTXm_DROP_CNT, R.PLn_CTXm_DROP_CNT, R.PLn_CTXm_STAT, R.PLn_ARB_STAT, R.PLn_CTXm_XOFF_CNT] at this
      omega
  · have hlost : d.Touches (fun a => a / 0x10000 ∈ [0x4020 + n, 0x4012, 0x4000]) e := by
      rw [he]
      exact (htouch.mono fun a ha => by rw [ha]; exact mem_windows hw _).trans (.of_regs rfl rfl rfl)
    exact hlost.trans (hshow.touches.mono fun a ha => by simpa using ha.window hm)

/-- CONTEXT_ABORT: the bits are set last, and share none with what was shown. -/
theorem Dev.ctxAbort_does (hm : m < 4) (h : (d.front n).running = none ∨ d.now < (d.front n).busyTill) :
    (d.ctxAbort n m).on (F.PLn_CTXm_CFG_EN n m) = false ∧ (d.ctxAbort n m).on (F.PLn_CTXm_STAT_IDLE n m) = true ∧
    (d.ctxAbort n m).ctx n m = { d.ctx n m with fifo := [], tile := none } ∧
    (d.ctxAbort n m).on (F.PLn_CTXm_STAT_XOFF n m) = false ∧ (d.ctxAbort n m).val (F.PLn_CTXm_STAT_FILL n m) = 0 ∧
    (d.ctxAbort n m).val (F.PLn_CTXm_DROP_CNT n m) =
      min 0xFFFFFFFF (d.val (F.PLn_CTXm_DROP_CNT n m) + (d.ctx n m).fifo.length) ∧
    d.sameWindowsBut (d.ctxAbort n m) [0x4020 + n, 0x4012, 0x4000] := by
  obtain ⟨e, hcut, heq⟩ := Dev.ctxAbort_eq (d := d) (m := m) h
  obtain ⟨hxoff, hfill, hctx, hcnt, htouch⟩ := e.ctxCleared_does (n := n) hm (d.ctx n m)
  rw [heq]
  obtain ⟨x, hx⟩ : ∃ x, x = e.ctxCleared n m (d.ctx n m) := ⟨_, rfl⟩
  rw [← hx] at hxoff hfill hctx hcnt htouch ⊢
  have hcfg : (F.PLn_CTXm_CFG_EN n m).addr / 0x10000 = 0x4020 + n := pipe_window (o := 0x100) (k := m * 0x80) (by omega)
  have hstat : (F.PLn_CTXm_STAT_IDLE n m).addr / 0x10000 = 0x4020 + n := pipe_window (o := 0x104) (k := m * 0x80) (by omega)
  have hcs : R.PLn_CTXm_CFG n m ≠ R.PLn_CTXm_STAT n m := by simp only [R.PLn_CTXm_STAT, R.PLn_CTXm_CFG]; omega
  have hcd : R.PLn_CTXm_CFG n m ≠ R.PLn_CTXm_DROP_CNT n m := by simp only [R.PLn_CTXm_DROP_CNT, R.PLn_CTXm_CFG]; omega
  have hsd : R.PLn_CTXm_STAT n m ≠ R.PLn_CTXm_DROP_CNT n m := by simp only [R.PLn_CTXm_DROP_CNT, R.PLn_CTXm_STAT]; omega
  have hsa : R.PLn_ARB_STAT n ≠ R.PLn_CTXm_DROP_CNT n m := by simp only [R.PLn_CTXm_DROP_CNT, R.PLn_ARB_STAT]; omega
  have hw : (F.PLn_CTXm_DROP_CNT n m).addr / 0x10000 = 0x4020 + n := pipe_window (o := 0x120) (k := m * 0x80) (by omega)
  obtain ⟨hen, hidle, hkeep, -⟩ := x.abortBits_does (en := F.PLn_CTXm_CFG_EN n m) (idle := F.PLn_CTXm_STAT_IDLE n m) rfl
    (by simp [F.PLn_CTXm_CFG_EN]) rfl (by simp [F.PLn_CTXm_STAT_IDLE]) (Fld.apart_of_ne hcs.symm)
  refine ⟨hen, hidle, ?_, ?_, ?_, ?_, ?_⟩
  · rw [← hctx]
    exact Dev.ctx_of_pl (by simp [Dev.abortBits]) n m
  · rw [← hxoff]
    exact Dev.on_congr (hkeep _ (Fld.apart_of_ne hcs) (Fld.apart_of_bits rfl))
  · rw [← hfill]
    exact hkeep _ (Fld.apart_of_ne hcs) (Fld.apart_of_bits rfl)
  · rw [hkeep (F.PLn_CTXm_DROP_CNT n m) (Fld.apart_of_ne hcd) (Fld.apart_of_ne hsd), hcnt, hcut.reads_pipe hw hsa.symm]
  · refine Dev.Touches.sameWindowsBut ?_
    have hall := (hcut.mono fun a ha => by rw [ha]; exact mem_windows (arb_window n) _).trans htouch
    exact (hall.stopIntake (en := F.PLn_CTXm_CFG_EN n m) (mem_windows hcfg _)).mark (f := F.PLn_CTXm_STAT_IDLE n m) (mem_windows hstat _) true

end

/-! ### The commands -/

theorem exec_contextEnable (n : Fin 17) (m : Fin 4) (s : State) :
    exec (.contextEnable n m) s = .next { s with dev := s.quietened.dev.ctxEnable n m } := rfl

theorem exec_contextDisable (n : Fin 17) (m : Fin 4) (s : State) :
    exec (.contextDisable n m) s = .next { s with dev := s.quietened.dev.ctxDisable n m } := rfl

theorem exec_contextAbort (n : Fin 17) (m : Fin 4) (s : State) :
    exec (.contextAbort n m) s = .next { s with dev := s.quietened.dev.ctxAbort n m } := rfl

/-- Settles O30: what closing a tile and releasing XOFF write leaves EN clear, so that the context stops at once; an
abort sets the two bits last. -/
theorem contextsStartAndStop : Obligations.ContextsStartAndStop := by
  intro s n m d
  refine ⟨fun hidle hfree => ?_, fun i j hother hen hidle hstream => ?_, fun hrun _ hidle => ⟨fun hfifo => ?_,
    fun hfifo htile hxoff => ?_, fun x hfifo htile hrec => ?_⟩, fun hrun => ?_⟩
  · obtain ⟨hen, hidle', htemp, hregs⟩ := Dev.ctxEnable_does (d := s.quietened.dev) hidle hfree
    exact ⟨_, exec_contextEnable n m s, s.sameStores_of_dev _, hen, hidle', htemp, hregs⟩
  · obtain ⟨hflag, haddr, -, hregs⟩ := s.quietened.dev.accessErr_does (R.PLn_CTXm_CFG n m) (by simp only [R.PLn_CTXm_CFG]; omega)
    have hexec := exec_contextEnable n m s
    rw [Dev.ctxEnable_taken (d := s.quietened.dev) hother hen hidle hstream] at hexec
    exact ⟨_, hexec, s.sameStores_of_dev _, hflag, haddr, hregs⟩
  · have hexec := exec_contextDisable n m s
    rw [Dev.ctxDisable_holds (d := s.quietened.dev) hrun hfifo] at hexec
    exact ⟨_, hexec, s.sameStores_of_dev _, Dev.ctxHalted_en _, Dev.ctxHalted_ctx _,
      (Dev.ctxHalted_touches s.quietened.dev).sameRegsBut fun a ha => ⟨F.PLn_CTXm_CFG_EN n m, by simp, .inl ha⟩⟩
  · obtain ⟨-, hidle', hen⟩ := Dev.ctxDisable_idle (d := s.quietened.dev) m.isLt hrun hidle hfifo
    exact ⟨_, exec_contextDisable n m s, s.sameStores_of_dev _, hen, hidle',
      Dev.ctxDisable_still (d := s.quietened.dev) m.isLt hrun hidle hfifo htile hxoff⟩
  · obtain ⟨-, hidle', -⟩ := Dev.ctxDisable_idle (d := s.quietened.dev) m.isLt hrun hidle hfifo
    obtain ⟨hxoff, htile', r, hrec', hr⟩ := Dev.ctxDisable_tile (d := s.quietened.dev) m.isLt hrun hidle hfifo htile hrec
    exact ⟨_, r, exec_contextDisable n m s, s.sameStores_of_dev _, hidle', hxoff, htile', hrec', hr⟩
  · obtain ⟨hen, hidle, hctx, hxoff, hfill, hcnt, hregs⟩ := Dev.ctxAbort_does (d := s.quietened.dev) m.isLt hrun
    exact ⟨_, exec_contextAbort n m s, s.sameStores_of_dev _, hen, hidle, congrArg Ctx.fifo hctx, congrArg Ctx.tile hctx,
      (congrArg Ctx.record hctx :), hxoff, hfill, hcnt, hregs⟩

end Sys2Proof.Machine
end

/-! PROOFS. LinesAreGrantedInTurn (R97 to R102, R105). -/
section
-- One lemma at a time: elaborated side by side they take more threads than the check's memory limit leaves room for.
set_option Elab.async false
namespace Sys2Proof.Machine

/-! ### The context granted next (R101) -/

section
variable {d : Dev} {n : Nat}

/-- The places before one of the four are those of the contexts passed over. -/
theorem turns_split (i : Fin 4) : [1, 2, 3, 4] = (List.range' 1 i) ++ (1 + i.val) :: List.range' (2 + i) (3 - i) := by
  decide +revert

theorem Dev.grantNext_eq {i : Fin 4} {l : FifoLine} (hmig : d.seg.mig = none)
    (hl : (d.ctx n ((d.val (F.PLn_ARB_STAT_LAST n) + 1 + i) % 4)).fifo.find? (fun x => ! x.granted) = some l)
    (hcomplete : l.complete = true)
    (hpassed : ∀ j : Fin 4, j < i → ∀ x, (d.ctx n ((d.val (F.PLn_ARB_STAT_LAST n) + 1 + j) % 4)).fifo.find?
      (fun x => ! x.granted) = some x → x.complete = false) :
    d.grantNext n = some ((d.val (F.PLn_ARB_STAT_LAST n) + 1 + i) % 4, l) := by
  have hfree : ∀ m, d.awaitsMove n m = false := fun m => by simp [Dev.awaitsMove, hmig]
  refine List.findSome?_eq_some_iff.mpr ⟨_, _, _, turns_split i, ?_, fun k hk => ?_⟩
  · simp only [← Nat.add_assoc, hl, hcomplete, hfree, Bool.not_false, Bool.and_self, if_true]
  · obtain ⟨hk1, hk2⟩ := List.mem_range'_1.mp hk
    obtain ⟨j, rfl⟩ : ∃ j, k = 1 + j := ⟨k - 1, by omega⟩
    have hpass := hpassed ⟨j, by omega⟩ (by simp only [Fin.lt_def]; omega)
    simp only [← Nat.add_assoc]
    split
    · rename_i x hx
      rw [hpass x hx]
      rfl
    · rfl

/-! ### The instant and the migration -/

theorem Dev.moveStep_still (h : d.seg.mig = none) : d.moveStep = d := by
  unfold Dev.moveStep
  rw [h]

theorem Dev.pipeOn_reach (d : Dev) (n t : Nat) : (d.reach t).pipeOn n = d.pipeOn n := by
  unfold Dev.pipeOn Dev.powered Dev.mode
  have hdomains : (d.reach t).val F.PWR_PD_STAT = d.val F.PWR_PD_STAT :=
    (d.reach_touches t).keeps_val (by simp [Fld.At, F.MER_TIME, R.MER_TIME, F.PWR_PD_STAT, R.PWR_PD_STAT]) ⟨rfl, fun _ => rfl⟩
  rw [hdomains, d.reach_reads t (f := F.PWR_MODE_CUR) (by decide) ⟨rfl, by decide⟩, Dev.reach_spr, Dev.reach_pwr]

/-- The clock moved on to the end of the last line's time leaves the pipeline's registers. -/
theorem Dev.reach_pipe_val (d : Dev) (t : Nat) {f : Fld} (h : f.addr / 0x10000 = 0x4020 + n)
    (hn : (f.lo + f.len).ble 32 = true := by rfl) : (d.reach t).val f = d.val f :=
  (d.reach_touches t).reads_pipe h (by simp only [Fld.At, F.MER_TIME, R.MER_TIME]; omega) hn

/-- The clock decides nothing about the context granted next. -/
theorem Dev.reach_grantNext (d : Dev) (n t : Nat) : (d.reach t).grantNext n = d.grantNext n := by
  have hctx (m : Nat) : (d.reach t).ctx n m = d.ctx n m := Dev.ctx_of_pl (Dev.reach_pl _ _) n m
  have hmove (m : Nat) : (d.reach t).awaitsMove n m = d.awaitsMove n m := by
    unfold Dev.awaitsMove
    rw [Dev.reach_seg]
  unfold Dev.grantNext
  rw [d.reach_pipe_val t (f := F.PLn_ARB_STAT_LAST n) (arb_window n)]
  simp only [hctx, hmove]

/-- The block once the last line's time is over and LAST names the context. -/
def Dev.grantBegun (d : Dev) (n m : Nat) : Dev := (d.reach (d.front n).busyTill).put (F.PLn_ARB_STAT_LAST n) m

theorem exec_grant (s : State) (n : Fin 17) {m : Nat} {l : FifoLine} (hrun : (s.quietened.dev.front n).running = none)
    (hmig : s.quietened.dev.seg.mig = none) (hon : s.quietened.dev.pipeOn n = true)
    (hnext : (s.quietened.dev.reach (s.quietened.dev.front n).busyTill).grantNext n = some (m, l)) (bad bad' : List Nat)
    (badTag : Bool) : exec (.grant n bad bad' badTag) s = .next { s with dev :=
      (if badTag then (s.quietened.dev.grantBegun n m).grantDrop n m l
        else (s.quietened.dev.grantBegun n m).grantLine n m l bad bad').moveStep } := by
  obtain ⟨e, he⟩ : ∃ e, e = s.quietened.dev.reach (s.quietened.dev.front n).busyTill := ⟨_, rfl⟩
  have hdone : (e.frontDone n).moveStep = e := by
    rw [Dev.frontDone_of_running (.inl (by rw [he, Dev.front, Dev.reach_pl]; exact hrun)),
      Dev.moveStep_still (by rw [he, Dev.reach_seg]; exact hmig)]
  have hon' : e.pipeOn n = true := by rw [he, Dev.pipeOn_reach, hon]
  change execGrant n bad bad' badTag s = _
  unfold execGrant
  rw [onDev_next]
  dsimp only
  rw [← he, hdone, if_neg (by simp [hon']), he, hnext]
  rfl

/-! ### What stands when the grant begins -/

theorem lineCnt_window (n : Nat) {m : Nat} (hm : m < 4) : (F.PLn_CTXm_LINE_CNT n m).addr / 0x10000 = 0x4020 + n :=
  pipe_window (o := 0x11C) (k := m * 0x80) (by omega)

theorem corAct_window (n : Nat) {m : Nat} (hm : m < 4) : R.PLn_CTXm_COR_ACT n m / 0x10000 = 0x4020 + n :=
  pipe_window (o := 0x404) (k := m * 0x100) (by omega)

section
variable {m : Nat} (hm : m < 4)
include hm

theorem ctxFlag_window : R.PLn_CTXm_FLAG n m / 0x10000 = 0x4020 + n := pipe_window (o := 0x108) (k := m * 0x80) (by omega)
theorem dropCnt_window : (F.PLn_CTXm_DROP_CNT n m).addr / 0x10000 = 0x4020 + n :=
  pipe_window (o := 0x120) (k := m * 0x80) (by omega)
theorem parityCnt_window : (F.PLn_CTXm_PARITY_CNT n m).addr / 0x10000 = 0x4020 + n :=
  pipe_window (o := 0x124) (k := m * 0x80) (by omega)
theorem ctxIdle_window : (F.PLn_CTXm_STAT_IDLE n m).addr / 0x10000 = 0x4020 + n :=
  pipe_window (o := 0x104) (k := m * 0x80) (by omega)
theorem ctxEn_window : (F.PLn_CTXm_CFG_EN n m).addr / 0x10000 = 0x4020 + n :=
  pipe_window (o := 0x100) (k := m * 0x80) (by omega)

end

theorem Dev.grantBegun_touches (d : Dev) (n m : Nat) :
    d.Touches (fun a => F.MER_TIME.At a ∨ a = R.PLn_ARB_STAT n) (d.grantBegun n m) :=
  ((d.reach_touches _).mono fun _ => .inl).put (f := F.PLn_ARB_STAT_LAST n) (Or.inr rfl) m

/-- A field of the pipeline beside ARB_STAT stands when the grant begins. -/
theorem Dev.grantBegun_val (d : Dev) (n m : Nat) {f : Fld} (hf : f.addr / 0x10000 = 0x4020 + n) (ha : f.addr ≠ R.PLn_ARB_STAT n)
    (hn : (f.lo + f.len).ble 32 = true := by rfl) : (d.grantBegun n m).val f = d.val f :=
  (d.grantBegun_touches n m).reads_pipe hf (by
    rintro (h | h)
    · simp only [Fld.At, F.MER_TIME, R.MER_TIME] at h
      omega
    · exact ha h) hn

/-- The counters of the context and its EN and IDLE stand when the grant begins. -/
theorem Dev.grantBegun_ctx (d : Dev) (n : Nat) {m : Nat} (hm : m < 4) :
    (d.grantBegun n m).val (F.PLn_CTXm_LINE_CNT n m) = d.val (F.PLn_CTXm_LINE_CNT n m) ∧
    (d.grantBegun n m).val (F.PLn_CTXm_PARITY_CNT n m) = d.val (F.PLn_CTXm_PARITY_CNT n m) ∧
    (d.grantBegun n m).val (F.PLn_CTXm_DROP_CNT n m) = d.val (F.PLn_CTXm_DROP_CNT n m) ∧
    (d.grantBegun n m).val (F.PLn_CTXm_CFG_EN n m) = d.val (F.PLn_CTXm_CFG_EN n m) ∧
    (d.grantBegun n m).val (F.PLn_CTXm_STAT_IDLE n m) = d.val (F.PLn_CTXm_STAT_IDLE n m) := by
  have hne {o : Nat} (ho : 0x100 ≤ o) (ho' : o < 0x10000) : 0x40200000 + o + n * 0x10000 + m * 0x80 ≠ R.PLn_ARB_STAT n := by
    simp only [R.PLn_ARB_STAT]
    omega
  exact ⟨d.grantBegun_val n m (lineCnt_window n hm) (hne (o := 0x11C) (by decide) (by decide)),
    d.grantBegun_val n m (parityCnt_window hm) (hne (o := 0x124) (by decide) (by decide)),
    d.grantBegun_val n m (dropCnt_window hm) (hne (o := 0x120) (by decide) (by decide)),
    d.grantBegun_val n m (ctxEn_window hm) (hne (o := 0x100) (by decide) (by decide)),
    d.grantBegun_val n m (ctxIdle_window hm) (hne (o := 0x104) (by decide) (by decide))⟩

theorem Dev.grantBegun_last (d : Dev) (n : Nat) {m : Nat} (hm : m < 4) : (d.grantBegun n m).val (F.PLn_ARB_STAT_LAST n) = m := by
  unfold Dev.grantBegun
  rw [Dev.val_put_self _ (by simp [F.PLn_ARB_STAT_LAST])]
  simp only [F.PLn_ARB_STAT_LAST]
  omega

theorem Dev.grantBegun_does (d : Dev) (n m : Nat) (hm : m < 4) : (d.grantBegun n m).now = max d.now (d.front n).busyTill ∧
    (d.grantBegun n m).seg = d.seg ∧ (d.grantBegun n m).pl = d.pl ∧
    (d.grantBegun n m).reg (R.PLn_CTXm_COR_SH n m) = d.reg (R.PLn_CTXm_COR_SH n m) ∧
    (d.grantBegun n m).on (F.PLn_ARB_STAT_BUSY n) = d.on (F.PLn_ARB_STAT_BUSY n) := by
  have hw : R.PLn_CTXm_COR_SH n m / 0x10000 = 0x4020 + n := pipe_window (o := 0x400) (k := m * 0x100) (by omega)
  refine ⟨?_, ?_, ?_, ?_, Dev.on_congr ?_⟩
  · rw [Dev.grantBegun, Dev.put_now, Dev.reach_now]
  · rw [Dev.grantBegun, Dev.put_seg, Dev.reach_seg]
  · rw [Dev.grantBegun, Dev.put_pl, Dev.reach_pl]
  · refine (d.grantBegun_touches n m).reg _ ?_ (evIcu_of_window hw (by omega) (by omega))
    simp only [Fld.At, F.MER_TIME, R.MER_TIME, R.PLn_CTXm_COR_SH, R.PLn_ARB_STAT]
    omega
  · rw [Dev.grantBegun, Dev.val_put_apart _ (f := F.PLn_ARB_STAT_LAST n) (g := F.PLn_ARB_STAT_BUSY n) (Fld.apart_of_bits rfl)]
    exact d.reach_pipe_val _ (arb_window n)

/-! ### The hand-over of the enables (R102) -/

theorem Dev.corHandOver_act (d : Dev) (n m : Nat) :
    (d.corHandOver n m).reg (R.PLn_CTXm_COR_ACT n m) = d.reg (R.PLn_CTXm_COR_SH n m) := by
  have hdyn : R.PLn_CTXm_DYN_CFG n m ≠ R.PLn_CTXm_COR_ACT n m := by
    simp only [R.PLn_CTXm_DYN_CFG, R.PLn_CTXm_COR_ACT]
    omega
  have hstat : R.PLn_CTXm_STAT n m ≠ R.PLn_CTXm_COR_ACT n m := by
    simp only [R.PLn_CTXm_STAT, R.PLn_CTXm_COR_ACT]
    omega
  unfold Dev.corHandOver
  extract_lets old new e1 c1 c2 c3 c4 c5
  have hkept : ∀ e, (Dev.ctxPend e n m).reg (R.PLn_CTXm_COR_ACT n m) = e.reg (R.PLn_CTXm_COR_ACT n m) := fun e =>
    e.reg_mark_ne (f := F.PLn_CTXm_STAT_SHADOW_PEND n m) (fun h => hstat (at_narrow h rfl).symm) _
  rw [hkept, Dev.reg_put_ne _ (fun h => hdyn (at_narrow h rfl).symm)]
  exact d.reg_setReg_self _ _

/-- The other fields of the context's STAT, and every register beside, stand at the hand-over. -/
theorem Dev.corHandOver_val (d : Dev) (n m : Nat) {f : Fld} (hpend : (F.PLn_CTXm_STAT_SHADOW_PEND n m).Apart f)
    (hdyn : (F.PLn_CTXm_DYN_CFG_DYN_COUNT n m).Apart f) (hact : R.PLn_CTXm_COR_ACT n m ≠ f.addr)
    (hn : (f.lo + f.len).ble 32 = true := by rfl) : (d.corHandOver n m).val f = d.val f := by
  unfold Dev.corHandOver
  extract_lets old new e1 c1 c2 c3 c4 c5
  refine (Dev.val_mark_apart _ hpend _).trans ((Dev.val_put_apart _ hdyn _).trans ?_)
  exact Dev.val_congr fun a ha => d.reg_setReg_ne (by rw [at_narrow ha hn]; exact hact) new

/-! ### What the FIFO shown and the enables handed over leave -/

/-- LAST and BUSY stand while the FIFO is shown. -/
theorem Dev.ctxShow_arb (d : Dev) {m : Nat} (hm : m < 4) {f : Fld} (hf : f.addr = R.PLn_ARB_STAT n)
    (hlo : (f.lo + f.len).ble 4 = true := by rfl) : (d.ctxShow n m).val f = d.val f := by
  have hlo := Nat.le_of_ble_eq_true hlo
  have hstat : R.PLn_CTXm_STAT n m ≠ f.addr := by
    simp only [hf, R.PLn_CTXm_STAT, R.PLn_ARB_STAT]
    omega
  have h32 : (f.lo + f.len).ble 32 = true := Nat.ble_eq.mpr (by omega)
  refine d.ctxShow_val (by rw [hf]; exact arb_window n) ?_ (Fld.apart_of_ne hstat rfl h32) ?_ h32
  · simp only [fillFlds, List.forall_mem_cons, List.not_mem_nil, false_implies, implies_true, and_true]
    exact ⟨Fld.apart_of_ne hstat rfl h32, Fld.apart_of_ne hstat rfl h32,
      .inr ⟨hf.symm, by dsimp only; omega, by omega, .inr (by dsimp only; omega)⟩⟩
  · simp only [hf, R.PLn_CTXm_XOFF_CNT, R.PLn_ARB_STAT]
    omega

theorem CorReg.apart {m a : Nat} (h : CorReg n m a) : a ∉ [R.PLn_ARB_STAT n, R.PLn_CTXm_LINE_CNT n m,
    R.PLn_CTXm_PARITY_CNT n m, R.PLn_CTXm_DROP_CNT n m, R.PLn_CTXm_CFG n m] := by
  simp only [List.mem_cons, List.not_mem_nil, or_false]
  cases h <;> simp only [R.PLn_CTXm_COR_ACT, R.PLn_CTXm_DYN_CFG, R.PLn_CTXm_STAT, R.PLn_ARB_STAT, R.PLn_CTXm_LINE_CNT,
    R.PLn_CTXm_PARITY_CNT, R.PLn_CTXm_DROP_CNT, R.PLn_CTXm_CFG] <;> omega

theorem ShowReg.apart {m a : Nat} (h : ShowReg n m a) : a ∉ [R.PLn_CTXm_CFG n m, R.PLn_CTXm_FLAG n m, R.PLn_CTXm_LINE_CNT n m,
    R.PLn_CTXm_DROP_CNT n m, R.PLn_CTXm_PARITY_CNT n m, R.PLn_CTXm_COR_ACT n m] := by
  have := h.place
  simp only [List.mem_cons, List.not_mem_nil, or_false, R.PLn_CTXm_CFG, R.PLn_CTXm_FLAG, R.PLn_CTXm_LINE_CNT,
    R.PLn_CTXm_DROP_CNT, R.PLn_CTXm_PARITY_CNT, R.PLn_CTXm_COR_ACT, R.PLn_CTXm_STAT, R.PLn_ARB_STAT,
    R.PLn_CTXm_XOFF_CNT] at this ⊢
  omega

/-! ### A line granted (R97, R101, R102) -/

/-- The line counted, the pipeline busy, the FIFO shown. -/
def Dev.lineShown (d : Dev) (n m : Nat) : Dev :=
  ((d.inc (F.PLn_CTXm_LINE_CNT n m)).mark (F.PLn_ARB_STAT_BUSY n) true).ctxShow n m

/-- The first line of the context marked, and the enables handed over. -/
def Dev.lineTaken (d : Dev) (n m : Nat) : Dev :=
  (d.setCtx n m { d.ctx n m with fifo := markGranted (d.ctx n m).fifo }).corHandOver n m

/-- A granted line runs with the tag it came with. -/
theorem Dev.grantLine_eq (d : Dev) (n m : Nat) (l : FifoLine) :
    ∃ (e : Dev) (r : LineOut), (d.lineTaken n m).LineWork (LineReg n m) e ∧
    r.tag.k = l.tag.k ∧ r.tag.pos = l.tag.pos ∧ r.tag.len = l.tag.len ∧ d.grantLine n m l [] [] = (e.lineShown n m).setFront n
      { busyTill := (e.lineShown n m).now + pipeNs (divCeil r.tag.len 4 + 8), running := some (m, r) } := by
  unfold Dev.grantLine
  extract_lets _ e0 e1 bad e2 _ tag t newTile e3 c e4 r x tag'
  have h2 : (d.lineTaken n m).LineWork (LineReg n m) e2 := .refl _ _
  have h3 : (d.lineTaken n m).LineWork (LineReg n m) e3 := (Dev.LineWork.ite (h2.tileHandOver t) h2).tileFor t tag
  have h4 : (d.lineTaken n m).LineWork (LineReg n m) e4 := h3.setCtx n m _
  exact ⟨x.1.scSample n m tag' x.2.1, ⟨tag', x.2.2, poisonedPixels [] []⟩,
    ((h4.rampSteps).correct tag l.pixels).scSample tag' x.2.1, rfl, rfl, rfl, rfl⟩

/-- What a line taken writes of what the grant shows: LAST and LINE_CNT stand, and COR_ACT takes COR_SH. -/
theorem Dev.lineTaken_work {d e : Dev} {m : Nat} (h : (d.lineTaken n m).LineWork (LineReg n m) e) (hm : m < 4) :
    e.val (F.PLn_ARB_STAT_LAST n) = d.val (F.PLn_ARB_STAT_LAST n) ∧
      e.val (F.PLn_CTXm_LINE_CNT n m) = d.val (F.PLn_CTXm_LINE_CNT n m) ∧
      e.reg (R.PLn_CTXm_COR_ACT n m) = d.reg (R.PLn_CTXm_COR_SH n m) ∧ e.now = d.now ∧ e.seg = d.seg := by
  have hcnt := lineCnt_window n hm
  have hact := corAct_window n hm
  have hnot {a : Nat} (ha : a = R.PLn_ARB_STAT n ∨ a = R.PLn_CTXm_LINE_CNT n m ∨ a = R.PLn_CTXm_COR_ACT n m) :
      ¬ LineReg n m a := fun hline => by have := hline.apart; omega
  have htaken : d.LineWork (CorReg n m) (d.lineTaken n m) := ((Dev.LineWork.refl _ d).setCtx n m _).corHandOver
  refine ⟨?_, ?_, ?_, h.now.trans htaken.now, h.seg.trans htaken.seg⟩
  · exact (h.touches.reads_pipe (arb_window n) (hnot (.inl rfl))).trans
      (htaken.touches.reads_pipe (arb_window n) fun hcor => hcor.apart (by simp [F.PLn_ARB_STAT_LAST]))
  · exact (h.touches.reads_pipe hcnt (hnot (.inr (.inl rfl)))).trans
      (htaken.touches.reads_pipe hcnt fun hcor => hcor.apart (by simp [F.PLn_CTXm_LINE_CNT]))
  · rw [h.touches.reg _ (hnot (.inr (.inr rfl))) (evIcu_of_window hact (by omega) (by omega))]
    exact Dev.corHandOver_act _ n m

theorem Dev.lineShown_does (e : Dev) {m : Nat} (hm : m < 4) :
    (e.lineShown n m).val (F.PLn_ARB_STAT_LAST n) = e.val (F.PLn_ARB_STAT_LAST n) ∧
      (e.lineShown n m).on (F.PLn_ARB_STAT_BUSY n) = true ∧
      (e.lineShown n m).val (F.PLn_CTXm_LINE_CNT n m) = min 0xFFFFFFFF (e.val (F.PLn_CTXm_LINE_CNT n m) + 1) ∧
      (e.lineShown n m).reg (R.PLn_CTXm_COR_ACT n m) = e.reg (R.PLn_CTXm_COR_ACT n m) ∧
      (e.lineShown n m).now = e.now ∧ (e.lineShown n m).seg = e.seg := by
  obtain ⟨x, hx⟩ : ∃ x, x = (e.inc (F.PLn_CTXm_LINE_CNT n m)).mark (F.PLn_ARB_STAT_BUSY n) true := ⟨_, rfl⟩
  have hshow : x.LineWork (ShowReg n m) (e.lineShown n m) := by
    rw [hx]
    exact (Dev.LineWork.refl _ _).ctxShow hm
  have heq : e.lineShown n m = x.ctxShow n m := by rw [hx]; rfl
  have hmarked : e.LineWork (fun a => a = R.PLn_CTXm_LINE_CNT n m ∨ a = R.PLn_ARB_STAT n) x := by
    rw [hx]
    exact ((Dev.LineWork.refl _ e).inc (f := F.PLn_CTXm_LINE_CNT n m) (Or.inl rfl)).mark
      (f := F.PLn_ARB_STAT_BUSY n) (Or.inr rfl) true
  have hca : R.PLn_CTXm_LINE_CNT n m ≠ R.PLn_ARB_STAT n := by simp only [R.PLn_CTXm_LINE_CNT, R.PLn_ARB_STAT]; omega
  have hcnt := lineCnt_window n hm
  have hact := corAct_window n hm
  refine ⟨?_, ?_, ?_, ?_, hshow.now.trans hmarked.now, hshow.seg.trans hmarked.seg⟩
  · rw [heq, Dev.ctxShow_arb _ hm (f := F.PLn_ARB_STAT_LAST n) rfl, hx, Dev.val_mark_apart _ (f := F.PLn_ARB_STAT_BUSY n)
      (g := F.PLn_ARB_STAT_LAST n) (Fld.apart_of_bits rfl), Dev.val_inc_apart _ (Fld.apart_of_ne hca)]
  · rw [heq, Dev.on_congr (Dev.ctxShow_arb x hm (f := F.PLn_ARB_STAT_BUSY n) rfl), hx]
    exact Dev.on_mark_self _ rfl (by simp [F.PLn_ARB_STAT_BUSY]) _
  · rw [hshow.touches.reads_pipe hcnt fun h => h.apart (by simp [F.PLn_CTXm_LINE_CNT]), hx,
      Dev.val_mark_apart _ (Fld.apart_of_ne hca.symm), Dev.val_inc_self _ rfl rfl]
  · have hquiet := evIcu_of_window hact (by omega) (by omega)
    rw [hshow.touches.reg _ (fun h => h.apart (by simp)) hquiet, hmarked.touches.reg _ ?_ hquiet]
    simp only [R.PLn_CTXm_COR_ACT, R.PLn_CTXm_LINE_CNT, R.PLn_ARB_STAT]
    omega

theorem Dev.grantLine_does (d : Dev) {m : Nat} (hm : m < 4) (l : FifoLine) : ∃ e r, d.grantLine n m l [] [] = e ∧
    e.seg = d.seg ∧ e.now = d.now ∧ e.val (F.PLn_ARB_STAT_LAST n) = d.val (F.PLn_ARB_STAT_LAST n) ∧
      e.on (F.PLn_ARB_STAT_BUSY n) = true ∧
      e.val (F.PLn_CTXm_LINE_CNT n m) = min 0xFFFFFFFF (d.val (F.PLn_CTXm_LINE_CNT n m) + 1) ∧
      e.reg (R.PLn_CTXm_COR_ACT n m) = d.reg (R.PLn_CTXm_COR_SH n m) ∧
      (e.front n).running = some (m, r) ∧ r.tag.k = l.tag.k ∧ r.tag.pos = l.tag.pos ∧
      (e.front n).busyTill = e.now + (20 * ((l.tag.len + 3) / 4 + 8) + 20) / 21 := by
  obtain ⟨x, r, hwork, hk, hpos, hlen, heq⟩ := d.grantLine_eq n m l
  obtain ⟨hlast, hcnt, hact, hnow, hseg⟩ := Dev.lineTaken_work hwork hm
  obtain ⟨hlast', hbusy, hcnt', hact', hnow', hseg'⟩ := x.lineShown_does (n := n) hm
  refine ⟨_, r, heq, ?_⟩
  rw [Dev.front_setFront]
  exact ⟨hseg'.trans hseg, hnow'.trans hnow, hlast'.trans hlast, hbusy, hcnt'.trans (by rw [hcnt]), hact'.trans hact, rfl, hk,
    hpos, by rw [hlen]; rfl⟩

/-! ### A line whose tag fails parity (R100, R105) -/

/-- A line taken out of the FIFO, its failed tag flagged and counted. -/
def Dev.tagFailed (d : Dev) (n m : Nat) (l : FifoLine) : Dev :=
  ((d.setCtx n m { d.ctx n m with fifo := (d.ctx n m).fifo.erase l }).raise (F.PLn_CTXm_FLAG_PARITY n m)).inc
    (F.PLn_CTXm_PARITY_CNT n m)

/-- The line dropped and counted, before the FIFO is shown. -/
def Dev.tagDropped (d : Dev) (n m : Nat) (l : FifoLine) : Dev :=
  ((d.corHandOver n m).tagFailed n m l).dropLine n m l.tag.stream l.tag.k true

/-- The registers of a line dropped at its grant. -/
def DropReg (n m a : Nat) : Prop :=
  CorReg n m a ∨ a = R.PLn_CTXm_FLAG n m ∨ a = R.PLn_CTXm_PARITY_CNT n m ∨ a = R.PLn_CTXm_DROP_CNT n m

theorem DropReg.window {m a : Nat} (h : DropReg n m a) (hm : m < 4) : a / 0x10000 = 0x4020 + n := by
  obtain h | rfl | rfl | rfl := h
  · exact h.window hm
  · exact pipe_window (o := 0x108) (k := m * 0x80) (by omega)
  · exact pipe_window (o := 0x124) (k := m * 0x80) (by omega)
  · exact pipe_window (o := 0x120) (k := m * 0x80) (by omega)

theorem DropReg.apart {m : Nat} {a : Nat} (h : DropReg n m a) :
    a ∉ [R.PLn_ARB_STAT n, R.PLn_CTXm_LINE_CNT n m, R.PLn_CTXm_CFG n m] := by
  obtain h | h := h
  · exact fun hmem => h.apart (by simp only [List.mem_cons, List.not_mem_nil, or_false] at hmem ⊢; omega)
  · simp only [List.mem_cons, List.not_mem_nil, or_false, R.PLn_CTXm_FLAG, R.PLn_CTXm_PARITY_CNT, R.PLn_CTXm_DROP_CNT,
      R.PLn_ARB_STAT, R.PLn_CTXm_LINE_CNT, R.PLn_CTXm_CFG] at h ⊢
    omega

/-- The flags of the context, and a counter beside. -/
def FlagReg (n m cnt a : Nat) : Prop := a = R.PLn_CTXm_FLAG n m ∨ a = cnt

theorem Dev.tagFailed_work (d : Dev) (n m : Nat) (l : FifoLine) :
    d.LineWork (FlagReg n m (R.PLn_CTXm_PARITY_CNT n m)) (d.tagFailed n m l) :=
  (((Dev.LineWork.refl _ d).setCtx n m _).raise (f := F.PLn_CTXm_FLAG_PARITY n m) (.inl rfl)).inc (f := F.PLn_CTXm_PARITY_CNT n m)
    (.inr rfl)

theorem Dev.dropLine_work (d : Dev) (n m s : Nat) (k : Int) :
    d.LineWork (FlagReg n m (R.PLn_CTXm_DROP_CNT n m)) (d.dropLine n m s k true) := by
  have hlineless : d.LineWork (FlagReg n m (R.PLn_CTXm_DROP_CNT n m)) (d.lineless s k) := .of_regs rfl rfl rfl rfl rfl rfl
  exact (hlineless.inc (f := F.PLn_CTXm_DROP_CNT n m) (.inr rfl)).raise (f := F.PLn_CTXm_FLAG_DROP n m) (.inl rfl)

theorem Dev.tagDropped_work (d : Dev) (n m : Nat) (l : FifoLine) : d.LineWork (DropReg n m) (d.tagDropped n m l) := by
  have hcor : d.LineWork (DropReg n m) (d.corHandOver n m) := (Dev.LineWork.refl _ d).corHandOver.mono fun _ => .inl
  exact (hcor.trans ((Dev.tagFailed_work _ n m l).mono fun _ h => .inr (h.imp_right .inl))).trans
    ((Dev.dropLine_work _ n m _ _).mono fun _ h => .inr (h.imp_right .inr))

section
variable (d : Dev) {m : Nat} (hm : m < 4)
include hm

/-- A line dropped raises DROP beside PARITY and counts in DROP_CNT. -/
theorem Dev.dropLine_does (s : Nat) (k : Int) : (d.dropLine n m s k true).on (F.PLn_CTXm_FLAG_DROP n m) = true ∧
    (d.dropLine n m s k true).val (F.PLn_CTXm_DROP_CNT n m) = min 0xFFFFFFFF (d.val (F.PLn_CTXm_DROP_CNT n m) + 1) ∧
    (d.dropLine n m s k true).on (F.PLn_CTXm_FLAG_PARITY n m) = d.on (F.PLn_CTXm_FLAG_PARITY n m) := by
  have hfc : (F.PLn_CTXm_FLAG_DROP n m).addr ≠ (F.PLn_CTXm_DROP_CNT n m).addr := by
    simp only [F.PLn_CTXm_FLAG_DROP, F.PLn_CTXm_DROP_CNT, R.PLn_CTXm_FLAG, R.PLn_CTXm_DROP_CNT]
    omega
  have hlineless (f : Fld) : (d.lineless s k).val f = d.val f := Dev.val_of_regs (d := d) rfl f
  refine ⟨?_, ?_, Dev.on_congr ?_⟩
  · exact Dev.on_raise_self _ (f := F.PLn_CTXm_FLAG_DROP n m) rfl (by simp [F.PLn_CTXm_FLAG_DROP]) (quiet_pipe (ctxFlag_window hm))
  · exact (Dev.val_raise_apart _ (Fld.apart_of_ne hfc) (quiet_pipe (dropCnt_window hm))).trans
      ((Dev.val_inc_self _ rfl rfl).trans (by rw [hlineless]))
  · exact (Dev.val_raise_apart _ (f := F.PLn_CTXm_FLAG_DROP n m) (g := F.PLn_CTXm_FLAG_PARITY n m) (Fld.apart_of_bits rfl)
      (quiet_pipe (ctxFlag_window hm))).trans ((Dev.val_inc_apart _ (f := F.PLn_CTXm_DROP_CNT n m)
        (g := F.PLn_CTXm_FLAG_PARITY n m) (Fld.apart_of_ne hfc.symm)).trans (hlineless _))

/-- A tag that fails raises PARITY and counts in PARITY_CNT. -/
theorem Dev.tagFailed_does (l : FifoLine) : (d.tagFailed n m l).on (F.PLn_CTXm_FLAG_PARITY n m) = true ∧
    (d.tagFailed n m l).val (F.PLn_CTXm_PARITY_CNT n m) = min 0xFFFFFFFF (d.val (F.PLn_CTXm_PARITY_CNT n m) + 1) := by
  have hfc : (F.PLn_CTXm_FLAG_PARITY n m).addr ≠ (F.PLn_CTXm_PARITY_CNT n m).addr := by
    simp only [F.PLn_CTXm_FLAG_PARITY, F.PLn_CTXm_PARITY_CNT, R.PLn_CTXm_FLAG, R.PLn_CTXm_PARITY_CNT]
    omega
  refine ⟨(Dev.on_congr (Dev.val_inc_apart _ (Fld.apart_of_ne hfc.symm))).trans ?_, (Dev.val_inc_self _ rfl rfl).trans ?_⟩
  · exact Dev.on_raise_self _ (f := F.PLn_CTXm_FLAG_PARITY n m) rfl (by simp [F.PLn_CTXm_FLAG_PARITY])
      (quiet_pipe (ctxFlag_window hm))
  · rw [Dev.val_raise_apart _ (Fld.apart_of_ne hfc) (quiet_pipe (parityCnt_window hm)),
      Dev.val_of_regs (d := d) (e := d.setCtx n m _) rfl]

theorem Dev.tagDropped_does (l : FifoLine) : (d.tagDropped n m l).on (F.PLn_CTXm_FLAG_PARITY n m) = true ∧
    (d.tagDropped n m l).on (F.PLn_CTXm_FLAG_DROP n m) = true ∧
    (d.tagDropped n m l).val (F.PLn_CTXm_PARITY_CNT n m) = min 0xFFFFFFFF (d.val (F.PLn_CTXm_PARITY_CNT n m) + 1) ∧
    (d.tagDropped n m l).val (F.PLn_CTXm_DROP_CNT n m) = min 0xFFFFFFFF (d.val (F.PLn_CTXm_DROP_CNT n m) + 1) ∧
    (d.tagDropped n m l).reg (R.PLn_CTXm_COR_ACT n m) = d.reg (R.PLn_CTXm_COR_SH n m) ∧
    (d.tagDropped n m l).val (F.PLn_CTXm_STAT_IDLE n m) = d.val (F.PLn_CTXm_STAT_IDLE n m) := by
  have hcor : d.LineWork (CorReg n m) (d.corHandOver n m) := (Dev.LineWork.refl _ d).corHandOver
  have hfail := (d.corHandOver n m).tagFailed_work n m l
  have hdrop := ((d.corHandOver n m).tagFailed n m l).dropLine_work n m l.tag.stream l.tag.k
  obtain ⟨hparity, hparityCnt⟩ := (d.corHandOver n m).tagFailed_does hm l
  obtain ⟨hflag, hcnt, hkept⟩ := ((d.corHandOver n m).tagFailed n m l).dropLine_does hm l.tag.stream l.tag.k
  have hpd : ¬ FlagReg n m (R.PLn_CTXm_DROP_CNT n m) (R.PLn_CTXm_PARITY_CNT n m) := by
    simp only [FlagReg, R.PLn_CTXm_DROP_CNT, R.PLn_CTXm_PARITY_CNT, R.PLn_CTXm_FLAG]
    omega
  have hdp : ¬ FlagReg n m (R.PLn_CTXm_PARITY_CNT n m) (R.PLn_CTXm_DROP_CNT n m) := by
    simp only [FlagReg, R.PLn_CTXm_DROP_CNT, R.PLn_CTXm_PARITY_CNT, R.PLn_CTXm_FLAG]
    omega
  have hother {c : Nat} (hc : c = R.PLn_CTXm_DROP_CNT n m ∨ c = R.PLn_CTXm_PARITY_CNT n m) :
      ¬ FlagReg n m c (R.PLn_CTXm_COR_ACT n m) ∧ ¬ FlagReg n m c (R.PLn_CTXm_STAT n m) := by
    simp only [FlagReg, R.PLn_CTXm_DROP_CNT, R.PLn_CTXm_PARITY_CNT, R.PLn_CTXm_FLAG, R.PLn_CTXm_COR_ACT, R.PLn_CTXm_STAT] at hc ⊢
    omega
  obtain ⟨hdropAct, hdropStat⟩ := hother (.inl rfl)
  obtain ⟨hfailAct, hfailStat⟩ := hother (.inr rfl)
  refine ⟨hkept.trans hparity, hflag, ?_, ?_, ?_, ?_⟩
  · rw [← hcor.touches.reads_pipe (parityCnt_window hm) fun h => h.apart (by simp [F.PLn_CTXm_PARITY_CNT]), ← hparityCnt]
    exact hdrop.touches.reads_pipe (parityCnt_window hm) hpd
  · rw [← hcor.touches.reads_pipe (dropCnt_window hm) fun h => h.apart (by simp [F.PLn_CTXm_DROP_CNT]),
      ← hfail.touches.reads_pipe (dropCnt_window hm) hdp, ← hcnt]
    rfl
  · have hquiet := evIcu_of_window (corAct_window n hm) (by omega) (by omega)
    exact (hdrop.touches.reg _ hdropAct hquiet).trans ((hfail.touches.reg _ hfailAct hquiet).trans (d.corHandOver_act n m))
  · refine (hdrop.touches.reads_pipe (ctxIdle_window hm) hdropStat).trans
      ((hfail.touches.reads_pipe (ctxIdle_window hm) hfailStat).trans (d.corHandOver_val n m (Fld.apart_of_bits rfl) ?_ ?_))
    · refine Fld.apart_of_ne ?_
      simp only [F.PLn_CTXm_DYN_CFG_DYN_COUNT, F.PLn_CTXm_STAT_IDLE, R.PLn_CTXm_DYN_CFG, R.PLn_CTXm_STAT]
      omega
    · simp only [F.PLn_CTXm_STAT_IDLE, R.PLn_CTXm_COR_ACT, R.PLn_CTXm_STAT]
      omega

end

/-- A context that does not drain has not stopped. -/
theorem Dev.ctxSettle_running {d : Dev} {m : Nat} (h : d.drains (F.PLn_CTXm_CFG_EN n m) (F.PLn_CTXm_STAT_IDLE n m) = false) :
    d.ctxSettle n m = d := by
  unfold Dev.ctxSettle
  exact if_pos (.inr (by simp [h]))

/-- A block whose EN and IDLE stand, and in which no start has come to wait, drains no more than it did. -/
theorem Dev.drains_of_kept {d e : Dev} {en idle : Fld} (h : d.drains en idle = false) (hen : e.val en = d.val en)
    (hidle : e.val idle = d.val idle) (hr : ∀ x ∈ e.restart, x ∈ d.restart) : e.drains en idle = false := by
  have honEn := Dev.on_congr hen
  have honIdle := Dev.on_congr hidle
  have hsub := hr en.addr
  unfold Dev.drains at *
  simp only [honEn, honIdle, List.contains_eq_mem, Bool.and_eq_false_iff, Bool.not_eq_false', Bool.or_eq_false_iff,
    decide_eq_false_iff_not] at h ⊢
  exact h.imp_right fun ⟨hon, hmem⟩ => ⟨hon, fun hx => hmem (hsub hx)⟩

section
variable (d : Dev) {m : Nat} (hm : m < 4)
include hm

/-- What a line dropped at its grant leaves, and what it writes. -/
theorem Dev.grantDrop_eq (l : FifoLine) (hdrains : d.drains (F.PLn_CTXm_CFG_EN n m) (F.PLn_CTXm_STAT_IDLE n m) = false) :
    d.grantDrop n m l = ((d.tagDropped n m l).ctxShow n m).setFront n
      { d.front n with busyTill := d.now + 1 } := by
  have hwork : d.LineWork (DropReg n m) (d.tagDropped n m l) := d.tagDropped_work n m l
  have hshow : (d.tagDropped n m l).LineWork (ShowReg n m) ((d.tagDropped n m l).ctxShow n m) := (Dev.LineWork.refl _ _).ctxShow hm
  obtain ⟨e, he⟩ : ∃ e, e = ((d.tagDropped n m l).ctxShow n m).setFront n { d.front n with busyTill := d.now + 1 } :=
    ⟨_, rfl⟩
  have hstart : d.grantDrop n m l = e.ctxSettle n m := by
    have hfront : ((d.tagDropped n m l).ctxShow n m).front n = d.front n := by
      unfold Dev.front
      rw [hshow.front, hwork.front]
    rw [he, ← hfront, ← hwork.now, ← hshow.now]
    rfl
  have hen : e.val (F.PLn_CTXm_CFG_EN n m) = d.val (F.PLn_CTXm_CFG_EN n m) := by
    rw [he]
    exact (hshow.touches.reads_pipe (ctxEn_window hm) fun h => h.apart (by simp [F.PLn_CTXm_CFG_EN])).trans
      (hwork.touches.reads_pipe (ctxEn_window hm) fun h => h.apart (by simp [F.PLn_CTXm_CFG_EN]))
  obtain ⟨-, -, -, -, -, hkept⟩ := d.tagDropped_does hm l
  have hidle : e.val (F.PLn_CTXm_STAT_IDLE n m) = d.val (F.PLn_CTXm_STAT_IDLE n m) := by
    rw [he]
    refine (Dev.ctxShow_val _ (ctxIdle_window hm) (fillFlds_apart_stat hm rfl)
      (Fld.apart_of_bits (f := F.PLn_CTXm_STAT_XOFF n m) rfl) ?_).trans hkept
    simp only [F.PLn_CTXm_STAT_IDLE, R.PLn_CTXm_STAT, R.PLn_CTXm_XOFF_CNT]
    omega
  have hrestart : ∀ x ∈ e.restart, x ∈ d.restart := fun x hx =>
    hwork.touches.restart x (hshow.touches.restart x (by rwa [he] at hx))
  rw [hstart, Dev.ctxSettle_running (Dev.drains_of_kept hdrains hen hidle hrestart), he]

theorem Dev.grantDrop_does (l : FifoLine) (hdrains : d.drains (F.PLn_CTXm_CFG_EN n m) (F.PLn_CTXm_STAT_IDLE n m) = false) :
    ∃ e, d.grantDrop n m l = e ∧ e.seg = d.seg ∧ e.val (F.PLn_ARB_STAT_LAST n) = d.val (F.PLn_ARB_STAT_LAST n) ∧
      e.on (F.PLn_CTXm_FLAG_PARITY n m) = true ∧ e.on (F.PLn_CTXm_FLAG_DROP n m) = true ∧
      e.val (F.PLn_CTXm_PARITY_CNT n m) = min 0xFFFFFFFF (d.val (F.PLn_CTXm_PARITY_CNT n m) + 1) ∧
      e.val (F.PLn_CTXm_DROP_CNT n m) = min 0xFFFFFFFF (d.val (F.PLn_CTXm_DROP_CNT n m) + 1) ∧
      e.val (F.PLn_CTXm_LINE_CNT n m) = d.val (F.PLn_CTXm_LINE_CNT n m) ∧
      e.reg (R.PLn_CTXm_COR_ACT n m) = d.reg (R.PLn_CTXm_COR_SH n m) ∧
      e.on (F.PLn_ARB_STAT_BUSY n) = d.on (F.PLn_ARB_STAT_BUSY n) ∧ (e.front n).running = (d.front n).running ∧
      d.Touches (fun a => a / 0x10000 ∈ [0x4020 + n, 0x4012, 0x4000, 0x400F]) e := by
  have hwork : d.LineWork (DropReg n m) (d.tagDropped n m l) := d.tagDropped_work n m l
  have hshow : (d.tagDropped n m l).LineWork (ShowReg n m) ((d.tagDropped n m l).ctxShow n m) := (Dev.LineWork.refl _ _).ctxShow hm
  obtain ⟨hparity, hdrop, hparityCnt, hdropCnt, hact, -⟩ := d.tagDropped_does hm l
  have harb {f : Fld} (hf : f.addr = R.PLn_ARB_STAT n) (hlo : (f.lo + f.len).ble 4 = true) :
      ((d.tagDropped n m l).ctxShow n m).val f = d.val f := by
    have h32 : (f.lo + f.len).ble 32 = true := Nat.ble_eq.mpr (by have := Nat.le_of_ble_eq_true hlo; omega)
    exact (Dev.ctxShow_arb _ hm hf hlo).trans
      (hwork.touches.reads_pipe (by rw [hf]; exact arb_window n) (fun h => h.apart (by simp [hf])) h32)
  refine ⟨_, d.grantDrop_eq hm l hdrains, hshow.seg.trans hwork.seg, harb (f := F.PLn_ARB_STAT_LAST n) rfl rfl,
    ?_, ?_, ?_, ?_, ?_, ?_, Dev.on_congr (harb (f := F.PLn_ARB_STAT_BUSY n) rfl rfl), by rw [Dev.front_setFront], ?_⟩
  · exact (Dev.on_congr (hshow.touches.reads_pipe (f := F.PLn_CTXm_FLAG_PARITY n m) (ctxFlag_window hm)
      fun h => h.apart (by simp [F.PLn_CTXm_FLAG_PARITY]))).trans hparity
  · exact (Dev.on_congr (hshow.touches.reads_pipe (f := F.PLn_CTXm_FLAG_DROP n m) (ctxFlag_window hm)
      fun h => h.apart (by simp [F.PLn_CTXm_FLAG_DROP]))).trans hdrop
  · exact (hshow.touches.reads_pipe (parityCnt_window hm) fun h => h.apart (by simp [F.PLn_CTXm_PARITY_CNT])).trans hparityCnt
  · exact (hshow.touches.reads_pipe (dropCnt_window hm) fun h => h.apart (by simp [F.PLn_CTXm_DROP_CNT])).trans hdropCnt
  · exact (hshow.touches.reads_pipe (lineCnt_window n hm) fun h => h.apart (by simp [F.PLn_CTXm_LINE_CNT])).trans
      (hwork.touches.reads_pipe (lineCnt_window n hm) fun h => h.apart (by simp [F.PLn_CTXm_LINE_CNT]))
  · have hquiet := evIcu_of_window (corAct_window n hm) (by omega) (by omega)
    exact (hshow.touches.reg _ (fun h => h.apart (by simp)) hquiet).trans hact
  · refine ((hwork.touches.mono fun a ha => ?_).trans (hshow.touches.mono fun a ha => ?_)).trans (.of_regs rfl rfl rfl)
    · exact mem_windows (ha.window hm) _
    · have := ha.window hm
      simp only [List.mem_cons, List.not_mem_nil, or_false]
      omega

end

end

/-! ### The command -/

/-- Settles O31: the correction and the statistics of a line write none of what the grant shows; a line dropped leaves
what decides whether the context stops. -/
theorem linesAreGrantedInTurn : Obligations.LinesAreGrantedInTurn := by
  intro s n i l d m hrun hmig hon hline hcomplete hpassed
  have hm : m < 4 := by omega
  have hnext : (s.quietened.dev.reach (s.quietened.dev.front n).busyTill).grantNext n = some (m, l) := by
    rw [Dev.reach_grantNext]
    exact Dev.grantNext_eq (d := s.quietened.dev) hmig hline hcomplete hpassed
  have hexec := exec_grant s n hrun hmig hon hnext [] []
  have hglast := s.quietened.dev.grantBegun_last n hm
  obtain ⟨hgnow, hgseg, hgpl, hgsh, hgbusy⟩ := s.quietened.dev.grantBegun_does n m hm
  have hgtouch := s.quietened.dev.grantBegun_touches n m
  obtain ⟨hgcnt, hgparity, hgdrop, hgen, hgidle⟩ := s.quietened.dev.grantBegun_ctx n hm
  generalize s.quietened.dev.grantBegun n m = g at *
  refine ⟨?_, fun hdrains => ?_⟩
  · obtain ⟨e, r, heq, hseg', hnow, hlast', hbusy, hcnt, hact, hrunning, hk, hpos, htill⟩ := g.grantLine_does hm l
    have hstill : (g.grantLine n m l [] []).moveStep = e := by
      rw [heq, Dev.moveStep_still (by rw [hseg', hgseg]; exact hmig)]
    have hexec := hexec false
    rw [if_neg Bool.false_ne_true, hstill] at hexec
    refine ⟨_, r, hexec, s.sameStores_of_dev _, hnow.trans hgnow, hlast'.trans hglast, hbusy, ?_, hact.trans hgsh,
      hrunning, hk, hpos, htill⟩
    rw [hcnt, hgcnt]
    rfl
  · have hgdrains := Dev.drains_of_kept (d := s.quietened.dev) hdrains hgen hgidle hgtouch.restart
    obtain ⟨e, heq, hseg', hlast', hparity, hdrop, hparityCnt, hdropCnt, hcnt, hact, hbusy, hrunning, htouch⟩ :=
      g.grantDrop_does hm l hgdrains
    have hstill : (g.grantDrop n m l).moveStep = e := by
      rw [heq, Dev.moveStep_still (by rw [hseg', hgseg]; exact hmig)]
    have hexec := hexec true
    rw [if_pos rfl, hstill] at hexec
    refine ⟨_, hexec, s.sameStores_of_dev _, hlast'.trans hglast, hparity, hdrop, hparityCnt.trans (by rw [hgparity]; rfl),
      hdropCnt.trans (by rw [hgdrop]; rfl), hcnt.trans hgcnt, hact.trans hgsh, hbusy.trans hgbusy, ?_, ?_⟩
    · rw [hrunning, Dev.front, hgpl]
      exact hrun
    · refine ((hgtouch.mono fun a ha => ?_).trans htouch).sameWindowsBut
      simp only [Fld.At, F.MER_TIME, R.MER_TIME, R.PLn_ARB_STAT] at ha
      simp only [List.mem_cons, List.not_mem_nil, or_false]
      omega

end Sys2Proof.Machine
end

/-! PROOFS. StatisticsRecordsAreWritten (R108, R109, R245). -/
section
-- One lemma at a time: elaborated side by side they take more threads than the check's memory limit leaves room for.
set_option Elab.async false
namespace Sys2Proof.Machine

/-! ### Bytes put into words -/

/-- The little-endian bytes of a number that bytes spell begin with these bytes. -/
theorem bytesLE_natLE_take : ∀ (k : Nat) (l : List Byte), l.length ≤ k → (bytesLE k (natLE l)).take l.length = l
  | _, [], _ => by simp
  | k + 1, b :: l, h => by
    have hb := b.isLt
    have hhead : BitVec.ofNat 8 (b.toNat + 256 * natLE l) = b := by
      apply BitVec.eq_of_toNat_eq
      rw [BitVec.toNat_ofNat]
      omega
    have hrest : (b.toNat + 256 * natLE l) / 256 = natLE l := by omega
    rw [natLE, bytesLE, List.length_cons, List.take_succ_cons, hhead, hrest, bytesLE_natLE_take k l (by simpa using h)]

theorem wordBytes_natLE_take {l : List Byte} (h : l.length ≤ 8) :
    (bytesLE 8 (BitVec.ofNat 64 (natLE l)).toNat).take l.length = l := by
  have hlt : natLE l < 2 ^ 64 := calc
    natLE l < 256 ^ l.length := natLE_lt l
    _ ≤ 256 ^ 8 := Nat.pow_le_pow_right (by decide) h
  rw [BitVec.toNat_ofNat, Nat.mod_eq_of_lt hlt, bytesLE_natLE_take 8 l h]

/-- Words in which bytes were put give them back. -/
theorem toWords_bytes : ∀ (k : Nat) (bs : List Byte), bs.length ≤ 8 * k →
    ((toWords k bs).flatMap (fun w => bytesLE 8 w.toNat)).take bs.length = bs
  | 0, bs, h => by
    obtain rfl : bs = [] := List.eq_nil_of_length_eq_zero (by omega)
    rfl
  | k + 1, bs, h => by
    unfold toWords
    split
    · rename_i hempty
      rw [List.isEmpty_iff.mp hempty]
      rfl
    · have ih := toWords_bytes k (bs.drop 8) (by rw [List.length_drop]; omega)
      have hword := wordBytes_natLE_take (l := bs.take 8) (by rw [List.length_take]; omega)
      have hcut : ∀ w : List Byte, w.length = 8 → w.take bs.length = w.take (bs.take 8).length := fun w hw => by
        rw [List.take_eq_take_iff, hw, List.length_take]
        omega
      rw [List.length_drop] at ih
      rw [List.flatMap_cons, List.take_append, bytesLE_length, ih, hcut _ (bytesLE_length _ _), hword, List.take_append_drop]

theorem toWords_length : ∀ (k : Nat) (bs : List Byte), 8 * k < bs.length + 8 → (toWords k bs).length = k
  | 0, _, _ => rfl
  | k + 1, bs, h => by
    have hne : bs.isEmpty = false := by
      cases bs with
      | nil => simp only [List.length_nil] at h; omega
      | cons b bs => rfl
    rw [toWords, hne, if_neg Bool.false_ne_true, List.length_cons, toWords_length k (bs.drop 8) (by rw [List.length_drop]; omega)]

/-! ### The record as it is offered (R108) -/

/-- The record with the POISONED bit of its flags, where a word of the buffer failed parity. -/
def poisonedRecord (bs : List Byte) (bad : List Nat) : List Byte := if bad = [] then bs else bs.set 1 (bs.getD 1 0 + 2)

/-- The words of a record's bytes, the failed ones tagged. -/
def recordWords (bs : List Byte) (bad : List Nat) : List (BitVec 64 × Bool) :=
  ((toWords (dataWords bs.length) bs).zip (List.range (dataWords bs.length))).map (fun x => (x.1, bad.contains x.2))

theorem poisonedRecord_eq {bs : List Byte} (h : 2 ≤ bs.length) (bad : List Nat) :
    (if bad.isEmpty then bs else bs.take 1 ++ bytesLE 1 ((bs.getD 1 0).toNat + 2) ++ bs.drop 2) = poisonedRecord bs bad := by
  unfold poisonedRecord
  match bad, bs, h with
  | [], _, _ => rfl
  | _ :: _, a :: b :: rest, _ =>
    have hflags : BitVec.ofNat 8 (b.toNat + 2) = b + 2 := by
      apply BitVec.eq_of_toNat_eq
      simp
    simp [bytesLE, hflags]

theorem recordWords_map_fst (bs : List Byte) (bad : List Nat) :
    (recordWords bs bad).map Prod.fst = toWords (dataWords bs.length) bs := by
  have hlen := toWords_length (dataWords bs.length) bs (by unfold dataWords divCeil; omega)
  unfold recordWords
  rw [List.map_map]
  exact List.map_fst_zip (by rw [List.length_range, hlen])

theorem recordWords_length (bs : List Byte) (bad : List Nat) : (recordWords bs bad).length = dataWords bs.length := by
  rw [← List.length_map Prod.fst, recordWords_map_fst, toWords_length _ _ (by unfold dataWords divCeil; omega)]

theorem itemBytes_recordWords (bs : List Byte) (bad : List Nat) : itemBytes bs.length (recordWords bs bad) = bs := by
  have hbytes : (recordWords bs bad).flatMap (fun w => bytesLE 8 w.1.toNat) =
      ((recordWords bs bad).map Prod.fst).flatMap (fun w => bytesLE 8 w.toNat) := by rw [List.flatMap_map]
  rw [itemBytes, hbytes, recordWords_map_fst]
  exact toWords_bytes _ bs (by unfold dataWords divCeil; omega)

/-! ### What a queue shows (R248) -/

/-- The registers in which a queue shows its change: its STAT and the pins. -/
def QueShown (q a : Nat) : Prop := a = R.QUE_Qq_STAT q ∨ a / 0x10000 = 0x4000

theorem Dev.queShow_shown (d : Dev) (q : Nat) : d.Touches (QueShown q) (d.queShow q) := by
  have hpins {w : Nat} (hw : w < 8) : QueShown q (R.SYS_UTP_INw w) := .inr (by simp only [R.SYS_UTP_INw]; omega)
  have habove {e : Dev} (h : d.Touches (QueShown q) e) (b : Bool) : d.Touches (QueShown q) (e.queAbove q b) :=
    (h.mark (f := F.QUE_Qq_STAT_ABOVE q) (.inl rfl) b).trans (Dev.Touches.queAbove_of_mark hpins e q b)
  unfold Dev.queShow
  extract_lets x fill e1 e2 e3 above e4
  have h3 : d.Touches (QueShown q) e3 := (((Dev.Touches.refl _ d).put (f := F.QUE_Qq_STAT_FILL q) (.inl rfl) _).mark
    (f := F.QUE_Qq_STAT_FULL q) (.inl rfl) _).mark (f := F.QUE_Qq_STAT_WRITING q) (.inl rfl) _
  have h4 : d.Touches (QueShown q) e4 := .ite (habove h3 true) (.ite (habove h3 false) h3)
  exact .ite (h4.drained (idle := F.QUE_Qq_STAT_IDLE q) (.inl rfl) _) h4

/-- What holds of the queues and the contexts, and stands while registers change. -/
def Dev.SameQueues (d e : Dev) : Prop := e.que = d.que ∧ e.pl = d.pl

theorem Dev.sameQueues_utpRefresh (d : Dev) (u : Nat) : d.SameQueues (d.utpRefresh u) := by
  refine ⟨?_, d.utpRefresh_pl u⟩
  unfold Dev.utpRefresh
  extract_lets f
  split
  · exact Dev.put_que _ _ _
  · split
    · rfl
    · split
      · rfl
      · exact Dev.mark_que _ _ _

theorem Dev.sameQueues_queAbove (d : Dev) (q : Nat) (b : Bool) : d.SameQueues (d.queAbove q b) := by
  unfold Dev.queAbove
  extract_lets e1 e2
  have h2 : d.SameQueues e2 := by
    simp only [e2, e1, Dev.SameQueues]
    split <;> split <;> simp
  split
  · obtain ⟨hque, hpl⟩ := e2.sameQueues_utpRefresh (e2.val (F.QUE_Qq_CFG_UTP q))
    exact ⟨hque.trans h2.1, hpl.trans h2.2⟩
  · exact h2

theorem Dev.sameQueues_queShow (d : Dev) (q : Nat) : d.SameQueues (d.queShow q) := by
  unfold Dev.queShow
  extract_lets x fill e1 e2 e3 above e4
  have h3 : d.SameQueues e3 := by simp [Dev.SameQueues, e3, e2, e1]
  have h4 : d.SameQueues e4 := by
    have habove (b : Bool) : d.SameQueues (e3.queAbove q b) := by
      obtain ⟨hque, hpl⟩ := e3.sameQueues_queAbove q b
      exact ⟨hque.trans h3.1, hpl.trans h3.2⟩
    simp only [e4]
    split
    · exact habove true
    · split
      · exact habove false
      · exact h3
  split
  · exact ⟨(Dev.drained_que _ _ _).trans h4.1, (Dev.drained_pl _ _ _).trans h4.2⟩
  · exact h4

/-! ### An item written in full at once (R245) -/

theorem putWords_last (ws : List (BitVec 64 × Bool)) {i : QItem} (hi : i.dead = false) : ∀ items : List QItem,
    putWords ws (items ++ [i]) = items ++ [{ i with words := i.words ++ ws, toCome := i.toCome - ws.length }]
  | [] => by simp [putWords, hi]
  | [x] => by simp [putWords, hi]
  | x :: y :: items => by
    have ih := putWords_last ws hi (y :: items)
    simp only [List.cons_append] at ih ⊢
    rw [putWords, ih]
    simp

/-- Where no item is closed before its end, none leaves. -/
theorem sweep_live {l : List QItem} (h : ∀ i ∈ l, i.dead = false) : sweep l = l :=
  List.filter_eq_self.mpr fun i hi => by simp [h i hi]

section
variable {d : Dev} {q : Nat} {w : QWriter}

/-- A writer whose whole item finds room writes it, and its item ends. -/
theorem Dev.queAdvance_whole (hdead : w.dead = false) (hbegun : w.begun = false) (hmore : w.more = 0)
    (hlen : w.words.length = dataWords w.len) (htakes : d.queTakes q w.len = true) (hfw : (d.queue q).fwLeft = 0)
    (hroom : (d.queue q).fill + 1 + w.words.length ≤ d.queCap q) (hlive : ∀ i ∈ (d.queue q).items, i.dead = false) :
    d.queAdvance q w = (((d.setQueue q { d.queue q with
      items := (d.queue q).items ++ [⟨w.len, w.prod, w.words, 0, true, false⟩] }).inc (F.QUE_Qq_ITEM_CNT q)).recWritten w.src,
      { w with begun := true, words := [] }, true) := by
  have hitems : sweep (putWords w.words ((d.queue q).items ++ [⟨w.len, w.prod, [], dataWords w.len, true, false⟩])) =
      (d.queue q).items ++ [⟨w.len, w.prod, w.words, 0, true, false⟩] := by
    rw [putWords_last _ rfl, sweep_live]
    · simp [hlen]
    · intro i hi
      rcases List.mem_append.mp hi with hi | hi
      · exact hlive i hi
      · rw [List.mem_singleton.mp hi]
  have hk : min (d.queCap q - (d.queue q).fill - 1) w.words.length = w.words.length := by omega
  unfold Dev.queAdvance
  rw [if_neg (by simp [hdead]), if_neg (by simp [htakes]), if_neg (by omega)]
  simp only [hbegun, Bool.false_eq_true, if_false, List.getLast?_append, List.getLast?_singleton, Option.some_or, hk,
    List.take_length, List.drop_length, hitems, hmore, List.isEmpty_nil, beq_self_eq_true, Bool.and_self, if_true]

theorem Dev.queue_of_que {e : Dev} (h : e.que = d.que) (q : Nat) : e.queue q = d.queue q := by
  unfold Dev.queue
  rw [h]

theorem Dev.quePump_whole {e : Dev} {w' : QWriter} (hwaiting : (d.queue q).waiting = [w])
    (hadv : d.queAdvance q w = (e, w', true)) :
    Dev.quePump q ((d.queue q).waiting.length + 1) d = e.setQueue q { e.queue q with waiting := [] } := by
  rw [hwaiting]
  change Dev.quePump q 2 d = _
  unfold Dev.quePump
  rw [hwaiting]
  simp only [hadv, if_true]
  unfold Dev.quePump
  rw [Dev.queue_setQueue]

theorem Dev.queDeny_none (hwaiting : (d.queue q).waiting = []) : d.queDeny q = d := by
  unfold Dev.queDeny
  exact if_pos (.inl (by rw [hwaiting]; rfl))

theorem Dev.recWritten_regsEvt (d : Dev) (src : Nat) : d.RegsEvt (d.recWritten src) := by
  unfold Dev.recWritten
  split
  · exact Dev.regsEvt_inc _ _
  · exact .refl _

/-- The queue once a sole writer has written its whole item. -/
def Dev.queFilled (d : Dev) (q : Nat) (w : QWriter) : Queue :=
  { d.queue q with items := (d.queue q).items ++ [⟨w.len, w.prod, w.words, 0, true, false⟩], waiting := [] }

/-- A sole writer that finds room for its item leaves nothing waiting. -/
theorem Dev.queOffer_whole (hwaiting : (d.queue q).waiting = []) (hdead : w.dead = false) (hbegun : w.begun = false)
    (hmore : w.more = 0) (hlen : w.words.length = dataWords w.len) (htakes : d.queTakes q w.len = true)
    (hfw : (d.queue q).fwLeft = 0) (hroom : (d.queue q).fill + 1 + w.words.length ≤ d.queCap q)
    (hlive : ∀ i ∈ (d.queue q).items, i.dead = false) : ∃ e : Dev, d.Touches (fun _ => False) e ∧ e.pl = d.pl ∧
      d.queOffer q w = (((e.inc (F.QUE_Qq_ITEM_CNT q)).recWritten w.src).setQueue q (d.queFilled q w)).queShow q := by
  obtain ⟨d', hd'⟩ : ∃ d', d' = d.setQueue q { d.queue q with waiting := [w] } := ⟨_, rfl⟩
  have hqueue : d'.queue q = { d.queue q with waiting := [w] } := by rw [hd', Dev.queue_setQueue]
  have hadv := Dev.queAdvance_whole (d := d') (q := q) hdead hbegun hmore hlen (by rw [hd']; exact htakes) (by rw [hqueue, hfw])
    (by rw [hqueue, hd']; exact hroom) (by rw [hqueue]; exact hlive)
  obtain ⟨e, he⟩ : ∃ e, e = d'.setQueue q { d'.queue q with
      items := (d'.queue q).items ++ [⟨w.len, w.prod, w.words, 0, true, false⟩] } := ⟨_, rfl⟩
  rw [← he] at hadv
  have hfilled : ((e.inc (F.QUE_Qq_ITEM_CNT q)).recWritten w.src).queue q =
      { d.queue q with items := (d.queue q).items ++ [⟨w.len, w.prod, w.words, 0, true, false⟩], waiting := [w] } := by
    have hque : ((e.inc (F.QUE_Qq_ITEM_CNT q)).recWritten w.src).que = e.que :=
      (Dev.recWritten_regsEvt _ _).keeps_que.trans (Dev.inc_que _ _)
    rw [Dev.queue_of_que hque, he, Dev.queue_setQueue, hqueue]
  refine ⟨e, ?_, ?_, ?_⟩
  · rw [he, hd']
    exact .of_regs rfl rfl rfl
  · rw [he, hd']
    rfl
  · have hoffer : d.queOffer q w = d'.queRun q := by rw [hd', Dev.queOffer, hwaiting]; rfl
    rw [hoffer, Dev.queRun, Dev.quePump_whole (by rw [hqueue]) hadv, hfilled, Dev.queDeny_none]
    · rfl
    · rw [Dev.queue_setQueue]

end

/-! ### STATS_RECORD_WRITE -/

/-- The record offered as one item of the queue. -/
def recordWriter (n m : Nat) (bs : List Byte) (bad : List Nat) : QWriter :=
  { src := statSrc n m, prod := 0xA0 + n, len := bs.length, words := recordWords bs bad }

section
variable {d : Dev} {n m q : Nat}

/-- A record that has not been offered stays in the buffer. -/
theorem Dev.recSettle_unoffered (h : (d.ctx n m).offered = false) : d.recSettle n m = d := by
  unfold Dev.recSettle
  dsimp only
  split
  · exact if_neg (by simp [h])
  · rfl

/-- A record offered to a queue at which nothing waits has been taken. -/
theorem Dev.recSettle_taken {r : StatRecord} (hrec : (d.ctx n m).record = some r) (hoff : (d.ctx n m).offered = true)
    (hwaiting : (d.queue r.queue).waiting = []) :
    d.recSettle n m = d.setCtx n m { d.ctx n m with record := none, offered := false } := by
  unfold Dev.recSettle
  simp only [hrec]
  exact if_pos ⟨hoff, by simp [Dev.queStalls, hwaiting]⟩

/-- The writer of a context's records is the one whose record counts there (R109). -/
theorem Dev.recWritten_statSrc (d : Dev) (hn : n < 17) (hm : m < 4) :
    d.recWritten (statSrc n m) = d.inc (F.PLn_CTXm_STATS_CNT n m) := by
  have hpipe : (statSrc n m - statSrc 0 0) / 4 = n := by simp only [statSrc]; omega
  have hctx : statSrc n m % 4 = m := by simp only [statSrc]; omega
  unfold Dev.recWritten
  rw [if_pos (by simp only [statSrc]; omega), hpipe, hctx]

theorem Dev.queRefuse_does (d : Dev) (hq : q < 64) : (d.queRefuse q).on (F.QUE_Qq_FLAG_REFUSED q) = true ∧
    (d.queRefuse q).val (F.QUE_Qq_REFUSED_CNT q) = min 0xFFFFFFFF (d.val (F.QUE_Qq_REFUSED_CNT q) + 1) ∧
    d.sameRegsBut (d.queRefuse q) [F.QUE_Qq_FLAG_REFUSED q, F.QUE_Qq_REFUSED_CNT q] := by
  have hquiet {f : Fld} (hf : f.addr / 0x10000 = 0x4009) (hn : (f.lo + f.len).ble 32 = true) : f.quiet :=
    ⟨evIcu_of_window hf (by decide) (by decide), fun h => absurd (Nat.le_of_ble_eq_true hn) (by omega)⟩
  have hflag : (F.QUE_Qq_FLAG_REFUSED q).addr / 0x10000 = 0x4009 := by simp only [F.QUE_Qq_FLAG_REFUSED, R.QUE_Qq_FLAG]; omega
  have hcnt : (F.QUE_Qq_REFUSED_CNT q).addr / 0x10000 = 0x4009 := by simp only [F.QUE_Qq_REFUSED_CNT, R.QUE_Qq_REFUSED_CNT]; omega
  have hne : (F.QUE_Qq_FLAG_REFUSED q).addr ≠ (F.QUE_Qq_REFUSED_CNT q).addr := by
    simp only [F.QUE_Qq_FLAG_REFUSED, F.QUE_Qq_REFUSED_CNT, R.QUE_Qq_FLAG, R.QUE_Qq_REFUSED_CNT]
    omega
  refine ⟨?_, ?_, ?_⟩
  · exact Dev.on_raise_self _ rfl (by simp [F.QUE_Qq_FLAG_REFUSED]) (hquiet hflag rfl)
  · exact (Dev.val_raise_apart _ (Fld.apart_of_ne hne) (hquiet hcnt rfl)).trans (Dev.val_inc_self _ rfl rfl)
  · have htouch : d.Touches (fun a => a = R.QUE_Qq_FLAG q ∨ a = R.QUE_Qq_REFUSED_CNT q) (d.queRefuse q) :=
      ((Dev.Touches.refl _ d).inc (f := F.QUE_Qq_REFUSED_CNT q) (Or.inr rfl)).raise (f := F.QUE_Qq_FLAG_REFUSED q) (Or.inl rfl)
    refine htouch.sameRegsBut fun a ha => ?_
    rcases ha with rfl | rfl
    · exact ⟨F.QUE_Qq_FLAG_REFUSED q, by simp, .inl rfl⟩
    · exact ⟨F.QUE_Qq_REFUSED_CNT q, by simp, .inl rfl⟩

/-- The record as its queue gets it: POISONED where it must be, and the trailer. -/
def recordBytes (r : StatRecord) (bad : List Nat) : List Byte := withTrailer (poisonedRecord r.bytes bad)

/-- A record given to its queue, or refused by it. -/
def Dev.recordOffered (d : Dev) (n m : Nat) (r : StatRecord) (bad : List Nat) : Dev :=
  if ! d.queTakes r.queue (recordBytes r bad).length then (d.queRefuse r.queue).setCtx n m { d.ctx n m with record := none }
  else
    ((d.setCtx n m { d.ctx n m with offered := true }).queOffer r.queue (recordWriter n m (recordBytes r bad) bad)).recSettle n m

theorem exec_statsRecordWrite (n : Fin 17) (m : Fin 4) {r : StatRecord} (bad : List Nat) {s : State}
    (hrec : (s.quietened.dev.ctx n m).record = some r) (hoff : (s.quietened.dev.ctx n m).offered = false)
    (hlen : 2 ≤ r.bytes.length) :
    exec (.statsRecordWrite n m bad) s = .next { s with dev := s.quietened.dev.recordOffered n m r bad } := by
  change execStatsRecordWrite n m bad s = _
  unfold execStatsRecordWrite
  rw [onDev_next]
  dsimp only
  rw [Dev.recSettle_unoffered hoff]
  split
  · rename_i hnone
    cases hnone.symm.trans hrec
  · rename_i x hx
    obtain rfl : x = r := Option.some.inj (hx.symm.trans hrec)
    rw [if_neg (by simp [hoff]), poisonedRecord_eq hlen]
    rfl

/-- The record counted and written, and the queue's change shown, from a block `e` with the same registers. -/
def Dev.recordShown (e : Dev) (n m q : Nat) (x : Queue) : Dev :=
  (((e.inc (F.QUE_Qq_ITEM_CNT q)).inc (F.PLn_CTXm_STATS_CNT n m)).setQueue q x).queShow q

theorem Dev.recordShown_does (e : Dev) (hm : m < 4) (hq : q < 64) (x : Queue) :
    (e.recordShown n m q x).queue q = x ∧ (e.recordShown n m q x).pl = e.pl ∧
      (e.recordShown n m q x).val (F.PLn_CTXm_STATS_CNT n m) = min 0xFFFFFFFF (e.val (F.PLn_CTXm_STATS_CNT n m) + 1) ∧
      e.Touches (fun a => a / 0x10000 ∈ [0x4020 + n, 0x4009, 0x4000]) (e.recordShown n m q x) := by
  have hcnt : (F.PLn_CTXm_STATS_CNT n m).addr / 0x10000 = 0x4020 + n := pipe_window (o := 0x12C) (k := m * 0x80) (by omega)
  have hitem : (F.QUE_Qq_ITEM_CNT q).addr / 0x10000 = 0x4009 := by simp only [F.QUE_Qq_ITEM_CNT, R.QUE_Qq_ITEM_CNT]; omega
  have hstat : R.QUE_Qq_STAT q / 0x10000 = 0x4009 := by simp only [R.QUE_Qq_STAT]; omega
  obtain ⟨y, hy⟩ : ∃ y, y = (e.inc (F.QUE_Qq_ITEM_CNT q)).inc (F.PLn_CTXm_STATS_CNT n m) := ⟨_, rfl⟩
  have hshown : y.Touches (QueShown q) (e.recordShown n m q x) := by
    rw [hy]
    exact ((Dev.Touches.refl _ _).setQueue q x).trans (Dev.queShow_shown _ q)
  obtain ⟨hque, hpl⟩ := (y.setQueue q x).sameQueues_queShow q
  have heq : e.recordShown n m q x = (y.setQueue q x).queShow q := by rw [hy]; rfl
  refine ⟨?_, ?_, ?_, ?_⟩
  · rw [heq, Dev.queue_of_que hque, Dev.queue_setQueue]
  · rw [heq, hpl, hy, Dev.setQueue_pl, Dev.inc_pl, Dev.inc_pl]
  · rw [hshown.reads_pipe hcnt, hy, Dev.val_inc_self _ rfl rfl, Dev.val_inc_apart _ (Fld.apart_of_ne (by omega))]
    rintro (h | h) <;> omega
  · have htouch : e.Touches (fun a => a / 0x10000 ∈ [0x4020 + n, 0x4009, 0x4000]) y := by
      rw [hy]
      exact ((Dev.Touches.refl _ e).inc (f := F.QUE_Qq_ITEM_CNT q) (by simp [hitem])).inc
        (f := F.PLn_CTXm_STATS_CNT n m) (mem_windows hcnt _)
    exact htouch.trans (hshown.mono fun a ha => by
      rcases ha with rfl | ha
      · simp [hstat]
      · simp [ha])

/-- A record that its queue has room for is written, counted, and leaves the buffer. -/
theorem Dev.recordOffered_taken {r : StatRecord} {bad : List Nat} (hn : n < 17) (hm : m < 4) (hq : r.queue < 64)
    (hrec : (d.ctx n m).record = some r) (htakes : d.queTakes r.queue (recordBytes r bad).length = true)
    (hwaiting : (d.queue r.queue).waiting = []) (hfw : (d.queue r.queue).fwLeft = 0)
    (hroom : (d.queue r.queue).fill + 1 + ((recordBytes r bad).length + 7) / 8 ≤ d.queCap r.queue)
    (hlive : ∀ i ∈ (d.queue r.queue).items, i.dead = false) : ∃ e, d.recordOffered n m r bad = e ∧
      (e.queue r.queue).items = (d.queue r.queue).items ++
        [⟨(recordBytes r bad).length, 0xA0 + n, recordWords (recordBytes r bad) bad, 0, true, false⟩] ∧
      (e.ctx n m).record = none ∧
      e.val (F.PLn_CTXm_STATS_CNT n m) = min 0xFFFFFFFF (d.val (F.PLn_CTXm_STATS_CNT n m) + 1) ∧
      d.sameWindowsBut e [0x4020 + n, 0x4009, 0x4000] := by
  obtain ⟨x, hx⟩ : ∃ x, x = d.setCtx n m { d.ctx n m with offered := true } := ⟨_, rfl⟩
  have hqueue : x.queue r.queue = d.queue r.queue := by rw [hx]; rfl
  have hlen := recordWords_length (recordBytes r bad) bad
  obtain ⟨y, hytouch, hypl, hoffer⟩ := Dev.queOffer_whole (d := x) (q := r.queue)
    (w := recordWriter n m (recordBytes r bad) bad) (by rw [hqueue, hwaiting]) rfl rfl rfl hlen
    (by rw [hx]; exact htakes) (by rw [hqueue, hfw])
    (by rw [hqueue, hx]; exact hlen.symm ▸ hroom) (by rw [hqueue]; exact hlive)
  obtain ⟨z, hz⟩ : ∃ z, z = x.queOffer r.queue (recordWriter n m (recordBytes r bad) bad) := ⟨_, rfl⟩
  have hshown : z = y.recordShown n m r.queue (x.queFilled r.queue (recordWriter n m (recordBytes r bad) bad)) := by
    rw [hz, hoffer, recordWriter, Dev.recWritten_statSrc _ hn hm]
    rfl
  obtain ⟨hzqueue, hzpl, hzcnt, hztouch⟩ := y.recordShown_does (n := n) hm hq
    (x.queFilled r.queue (recordWriter n m (recordBytes r bad) bad))
  rw [← hshown] at hzqueue hzpl hzcnt hztouch
  have hzctx : z.ctx n m = { d.ctx n m with offered := true } := by
    rw [Dev.ctx_of_pl (hzpl.trans hypl), hx, Dev.ctx_setCtx]
  have heq : d.recordOffered n m r bad = z.setCtx n m { z.ctx n m with record := none, offered := false } := by
    unfold Dev.recordOffered
    rw [if_neg (by simp [htakes]), ← hx, ← hz,
      Dev.recSettle_taken (by rw [hzctx, ← hrec]) (by rw [hzctx]) (by rw [hzqueue]; rfl)]
  have hcnt : y.val (F.PLn_CTXm_STATS_CNT n m) = d.val (F.PLn_CTXm_STATS_CNT n m) := by
    rw [hytouch.reads_pipe (pipe_window (o := 0x12C) (k := m * 0x80) (by omega)) not_false, hx]
    exact Dev.val_of_regs (d := d) rfl _
  refine ⟨_, heq, ?_, by rw [Dev.ctx_setCtx], ?_, ?_⟩
  · have hitems := congrArg Queue.items hzqueue
    rw [Dev.queFilled, hqueue] at hitems
    exact hitems
  · rw [← hcnt, ← hzcnt]
    exact Dev.val_of_regs (d := z) rfl _
  · have hdx : d.Touches (fun a => a / 0x10000 ∈ [0x4020 + n, 0x4009, 0x4000]) x := by rw [hx]; exact .of_regs rfl rfl rfl
    exact ((hdx.trans (hytouch.mono fun _ => False.elim)).trans (hztouch.trans (.of_regs rfl rfl rfl))).sameWindowsBut

/-- A record that its queue does not take is refused, and gone. -/
theorem Dev.recordOffered_refused {r : StatRecord} {bad : List Nat} (hq : r.queue < 64)
    (htakes : d.queTakes r.queue (recordBytes r bad).length = false) : ∃ e, d.recordOffered n m r bad = e ∧
      (e.ctx n m).record = none ∧ e.on (F.QUE_Qq_FLAG_REFUSED r.queue) = true ∧
      e.val (F.QUE_Qq_REFUSED_CNT r.queue) = min 0xFFFFFFFF (d.val (F.QUE_Qq_REFUSED_CNT r.queue) + 1) ∧
      d.sameRegsBut e [F.QUE_Qq_FLAG_REFUSED r.queue, F.QUE_Qq_REFUSED_CNT r.queue] := by
  obtain ⟨hflag, hcnt, hregs⟩ := d.queRefuse_does hq
  refine ⟨_, if_pos (by simp [htakes]), by rw [Dev.ctx_setCtx], hflag, hcnt, hregs⟩

end

/-- Settles O32: a sole writer's whole item ends at once, so that nothing waits at the queue and the buffer is freed. -/
theorem statisticsRecordsAreWritten : Obligations.StatisticsRecordsAreWritten := by
  intro s n m r bad d q body bytes hq hrec hoff hlen
  have hexec := exec_statsRecordWrite n m bad (s := s) hrec hoff hlen
  have hbytes : bytes = recordBytes r bad := rfl
  refine ⟨fun htakes hwaiting hfw hroom hlive => ?_, fun htakes => ?_⟩
  · rw [hbytes] at htakes hroom ⊢
    obtain ⟨e, heq, hitems, hrecord, hcnt, hregs⟩ := Dev.recordOffered_taken (d := s.quietened.dev) n.isLt m.isLt hq hrec htakes
      hwaiting hfw hroom hlive
    rw [heq] at hexec
    exact ⟨_, _, hexec, s.sameStores_of_dev _, hitems, itemBytes_recordWords _ _, hrecord, hcnt, hregs⟩
  · obtain ⟨e, heq, hrecord, hflag, hcnt, hregs⟩ :=
      Dev.recordOffered_refused (d := s.quietened.dev) (n := n) (m := m) hq htakes
    rw [heq] at hexec
    exact ⟨_, hexec, s.sameStores_of_dev _, hrecord, hflag, hcnt, hregs⟩

end Sys2Proof.Machine
end

/-! PROOFS. CorrectionTablesAndRamps (R113, R121, R123, R125, R131, R166). -/
section
-- One lemma at a time: elaborated side by side they take more threads than the check's memory limit leaves room for.
set_option Elab.async false
namespace Sys2Proof.Machine

/-! ### Operations that write only the fields a statement lists -/

/-- The register words of the fields listed. -/
def WordsOf (l : List Fld) (a : Nat) : Prop := ∃ f ∈ l, f.At a

theorem wordsOf_addr {f : Fld} {l : List Fld} (h : f ∈ l := by simp) : WordsOf l f.addr := ⟨f, h, .inl rfl⟩

theorem Dev.Touches.sameRegs {d e : Dev} {l : List Fld} (h : d.Touches (WordsOf l) e) : d.sameRegsBut e l :=
  h.sameRegsBut fun _ => id

theorem Dev.Touches.setCtx {W : Nat → Prop} {d e : Dev} (h : d.Touches W e) (n m : Nat) (x : Ctx) :
    d.Touches W (e.setCtx n m x) := h.trans (.of_regs rfl rfl rfl)

theorem Dev.Touches.accessErr {W : Nat → Prop} {d e : Dev} (h : d.Touches W e) (hflag : W R.SYS_FLAG)
    (haddr : W R.SYS_ERR_ADDR) (hcnt : W R.SYS_ACCESS_CNT) (a : Nat) : d.Touches W (e.accessErr a) :=
  ((h.raise (f := F.SYS_FLAG_ACCESS_ERR) hflag).put (f := F.SYS_ERR_ADDR) haddr a).inc (f := F.SYS_ACCESS_CNT) hcnt

section
variable {d : Dev} {n m : Nat}

/-- A flag of the correction rises in a pipeline's window, outside ICU and EVT. -/
theorem calBusy_quiet (hm : m < 4) : (F.PLn_CTXm_CAL_FLAG_CAL_BUSY n m).quiet :=
  quiet_pipe (n := n) (pipe_window (o := 0x46C) (k := m * 0x100) (by omega))

theorem Dev.calBusy_raised (d : Dev) (hm : m < 4) :
    (d.raise (F.PLn_CTXm_CAL_FLAG_CAL_BUSY n m)).on (F.PLn_CTXm_CAL_FLAG_CAL_BUSY n m) = true :=
  Dev.on_raise_self _ rfl (by simp [F.PLn_CTXm_CAL_FLAG_CAL_BUSY]) (calBusy_quiet hm)

/-! ### BLK_FIXED (R113) -/

/-- A ramp's length is read alike after a write of another register. -/
theorem Dev.rampLen_put {f : Fld} (h : f.Apart (F.PLn_CTXm_RAMP_LEN n m)) (v : Nat) :
    (d.put f v).rampLen n m = d.rampLen n m := by
  unfold Dev.rampLen
  rw [Dev.val_put_apart _ h]

/-- The register of BLK_FIXED written, before the level or its ramp follows. -/
def Dev.blkFixed (d : Dev) (n m : Nat) (v : Word) : Dev := d.put (F.PLn_CTXm_BLK_FIXED n m) (v.toNat % 65536)

theorem Dev.blkFixed_val (v : Word) : (d.blkFixed n m v).val (F.PLn_CTXm_BLK_FIXED n m) = v.toNat % 65536 := by
  unfold Dev.blkFixed
  rw [Dev.val_put_self _ (by simp [F.PLn_CTXm_BLK_FIXED])]
  exact Nat.mod_mod _ _

theorem Dev.blkFixed_ctx (v : Word) : (d.blkFixed n m v).ctx n m = d.ctx n m := Dev.ctx_of_pl (Dev.put_pl _ _ _) n m

theorem Dev.blkFixed_mode (v : Word) : (d.blkFixed n m v).mode = d.mode :=
  Dev.val_put_apart _ (f := F.PLn_CTXm_BLK_FIXED n m) (g := F.PWR_MODE_CUR) (Fld.apart_of_ne (by
    simp only [F.PLn_CTXm_BLK_FIXED, R.PLn_CTXm_BLK_FIXED, F.PWR_MODE_CUR, R.PWR_MODE]
    omega)) _

theorem Dev.blkFixed_rampLen (v : Word) : (d.blkFixed n m v).rampLen n m = d.rampLen n m :=
  Dev.rampLen_put (f := F.PLn_CTXm_BLK_FIXED n m) (Fld.apart_of_ne (by
    simp only [F.PLn_CTXm_BLK_FIXED, R.PLn_CTXm_BLK_FIXED, F.PLn_CTXm_RAMP_LEN, R.PLn_CTXm_RAMP_LEN]
    omega)) _

/-- The context whose fixed black level is `v` at once. -/
def Ctx.blkSet (c : Ctx) (v : Word) : Ctx := { c with blkNow := ((v.toNat % 65536 : Nat) : Int), blkRamp := none }

/-- The context whose fixed black level begins its way to `v`. -/
def Ctx.blkBegun (c : Ctx) (v : Word) (len : Nat) : Ctx :=
  { c with blkFrom := c.blkNow, blkTo := ((v.toNat % 65536 : Nat) : Int), blkRamp := some { set := 0, done := 0, len := len } }

theorem Dev.blkWrite_load (v : Word) (h : d.mode = 2) :
    d.blkWrite n m v = (d.blkFixed n m v).setCtx n m ((d.ctx n m).blkSet v) := by
  rw [← d.blkFixed_ctx (n := n) (m := m) v]
  exact if_pos ((Dev.blkFixed_mode v).trans h)

theorem Dev.blkWrite_ramp (v : Word) (h : d.mode ≠ 2) : d.blkWrite n m v =
    ((d.blkFixed n m v).setCtx n m ((d.ctx n m).blkBegun v (d.rampLen n m))).mark (F.PLn_CTXm_CAL_STAT_BLK_RAMP n m) true := by
  rw [← d.blkFixed_ctx (n := n) (m := m) v, ← d.blkFixed_rampLen (n := n) (m := m) v]
  exact if_neg fun hload => h ((Dev.blkFixed_mode v).symm.trans hload)

/-- During LOAD the level is in use at once. -/
theorem Dev.blkWrite_load_does (v : Word) (h : d.mode = 2) :
    (d.blkWrite n m v).val (F.PLn_CTXm_BLK_FIXED n m) = v.toNat % 65536 ∧
    (d.blkWrite n m v).ctx n m = (d.ctx n m).blkSet v ∧
    d.sameRegsBut (d.blkWrite n m v) [F.PLn_CTXm_BLK_FIXED n m] := by
  rw [Dev.blkWrite_load v h]
  refine ⟨(Dev.val_of_regs rfl _).trans (Dev.blkFixed_val v), Dev.ctx_setCtx _ _ _ _, Dev.Touches.sameRegs ?_⟩
  exact ((Dev.Touches.refl _ d).put (f := F.PLn_CTXm_BLK_FIXED n m) wordsOf_addr _).setCtx n m _

/-- Outside LOAD a ramp begins, and CAL_STAT shows it. -/
theorem Dev.blkWrite_ramp_does (v : Word) (h : d.mode ≠ 2) :
    (d.blkWrite n m v).val (F.PLn_CTXm_BLK_FIXED n m) = v.toNat % 65536 ∧
    (d.blkWrite n m v).ctx n m = (d.ctx n m).blkBegun v (d.rampLen n m) ∧
    (d.blkWrite n m v).on (F.PLn_CTXm_CAL_STAT_BLK_RAMP n m) = true ∧
    d.sameRegsBut (d.blkWrite n m v) [F.PLn_CTXm_BLK_FIXED n m, F.PLn_CTXm_CAL_STAT_BLK_RAMP n m] := by
  have hne : R.PLn_CTXm_CAL_STAT n m ≠ R.PLn_CTXm_BLK_FIXED n m := by
    simp only [R.PLn_CTXm_CAL_STAT, R.PLn_CTXm_BLK_FIXED]
    omega
  rw [Dev.blkWrite_ramp v h]
  refine ⟨?_, ?_, Dev.on_mark_self _ rfl (by simp [F.PLn_CTXm_CAL_STAT_BLK_RAMP]) true, Dev.Touches.sameRegs ?_⟩
  · rw [Dev.val_mark_apart _ (Fld.apart_of_ne hne)]
    exact (Dev.val_of_regs rfl _).trans (Dev.blkFixed_val v)
  · rw [Dev.ctx_of_pl (Dev.mark_pl _ _ _), Dev.ctx_setCtx]
  · exact (((Dev.Touches.refl _ d).put (f := F.PLn_CTXm_BLK_FIXED n m) wordsOf_addr _).setCtx n m _).mark
      (f := F.PLn_CTXm_CAL_STAT_BLK_RAMP n m) wordsOf_addr true

/-! ### COMMIT (R121, R125) -/

/-- A ramp of a set or of the C table runs. -/
def Ctx.ramps (c : Ctx) : Bool := c.setRamp.isSome || c.scRamp.isSome

theorem Ctx.ramps_iff {c : Ctx} : c.ramps = true ↔ c.setRamp.isSome = true ∨ c.scRamp.isSome = true := by simp [Ctx.ramps]

/-- The set named in CAL_CMD. -/
def Dev.setNamed (d : Dev) (n m j : Nat) : Dev := d.put (F.PLn_CTXm_CAL_CMD_SET n m) j

theorem Dev.setNamed_ctx (j : Nat) : (d.setNamed n m j).ctx n m = d.ctx n m := Dev.ctx_of_pl (Dev.put_pl _ _ _) n m

theorem Dev.setNamed_rampLen (j : Nat) : (d.setNamed n m j).rampLen n m = d.rampLen n m :=
  Dev.rampLen_put (f := F.PLn_CTXm_CAL_CMD_SET n m) (Fld.apart_of_ne (by
    simp only [F.PLn_CTXm_CAL_CMD_SET, R.PLn_CTXm_CAL_CMD, F.PLn_CTXm_RAMP_LEN, R.PLn_CTXm_RAMP_LEN]
    omega)) _

/-- The sets that COMMIT takes. -/
def Dev.commits (d : Dev) (n m j : Nat) : Prop := j < d.ntemp n m ∧ j < 8 ∨ j = 15

/-- COMMIT with no ramp running begins one, and CAL_STAT shows its set. -/
theorem Dev.commit_does {j : Nat} (hj : d.commits n m j) (h : (d.ctx n m).ramps = false) :
    (d.commit n m j).ctx n m = { d.ctx n m with setRamp := some { set := j, done := 0, len := d.rampLen n m } } ∧
    (d.commit n m j).on (F.PLn_CTXm_CAL_STAT_SET_RAMP n m) = true ∧
    (d.commit n m j).val (F.PLn_CTXm_CAL_STAT_RAMP_SET n m) = j ∧
    d.sameRegsBut (d.commit n m j)
      [F.PLn_CTXm_CAL_CMD_SET n m, F.PLn_CTXm_CAL_STAT_SET_RAMP n m, F.PLn_CTXm_CAL_STAT_RAMP_SET n m] := by
  obtain ⟨x, hx⟩ : ∃ x, x = { d.ctx n m with setRamp := some { set := j, done := 0, len := d.rampLen n m } } := ⟨_, rfl⟩
  have heq : d.commit n m j = (((d.setNamed n m j).setCtx n m x).mark (F.PLn_CTXm_CAL_STAT_SET_RAMP n m) true).put
      (F.PLn_CTXm_CAL_STAT_RAMP_SET n m) j := by
    rw [hx, ← d.setNamed_ctx (n := n) (m := m) j, ← d.setNamed_rampLen (n := n) (m := m) j]
    unfold Dev.commit
    rw [if_neg (by unfold Dev.commits at hj; omega)]
    exact if_neg (by rw [← Dev.setNamed, ← Ctx.ramps_iff, Dev.setNamed_ctx, h]; exact Bool.false_ne_true)
  rw [heq, ← hx]
  refine ⟨?_, ?_, ?_, Dev.Touches.sameRegs ?_⟩
  · rw [Dev.ctx_of_pl (Dev.put_pl _ _ _), Dev.ctx_of_pl (Dev.mark_pl _ _ _), Dev.ctx_setCtx]
  · rw [Dev.on_congr (Dev.val_put_apart _ (f := F.PLn_CTXm_CAL_STAT_RAMP_SET n m) (g := F.PLn_CTXm_CAL_STAT_SET_RAMP n m)
      (Fld.apart_of_bits rfl) _)]
    exact Dev.on_mark_self _ rfl (by simp [F.PLn_CTXm_CAL_STAT_SET_RAMP]) true
  · rw [Dev.val_put_self _ (by simp [F.PLn_CTXm_CAL_STAT_RAMP_SET])]
    exact Nat.mod_eq_of_lt (by unfold Dev.commits at hj; simp only [F.PLn_CTXm_CAL_STAT_RAMP_SET]; omega)
  · exact ((((Dev.Touches.refl _ d).put (f := F.PLn_CTXm_CAL_CMD_SET n m) wordsOf_addr j).setCtx n m x).mark
      (f := F.PLn_CTXm_CAL_STAT_SET_RAMP n m) wordsOf_addr true).put (f := F.PLn_CTXm_CAL_STAT_RAMP_SET n m) wordsOf_addr j

/-- COMMIT during a ramp sets CAL_BUSY. -/
theorem Dev.commit_busy {j : Nat} (hm : m < 4) (hj : d.commits n m j) (h : (d.ctx n m).ramps = true) :
    (d.commit n m j).ctx n m = d.ctx n m ∧ (d.commit n m j).on (F.PLn_CTXm_CAL_FLAG_CAL_BUSY n m) = true ∧
    d.sameRegsBut (d.commit n m j) [F.PLn_CTXm_CAL_CMD_SET n m, F.PLn_CTXm_CAL_FLAG_CAL_BUSY n m] := by
  have heq : d.commit n m j = (d.setNamed n m j).raise (F.PLn_CTXm_CAL_FLAG_CAL_BUSY n m) := by
    unfold Dev.commit
    rw [if_neg (by unfold Dev.commits at hj; omega)]
    exact if_pos (by rw [← Dev.setNamed, ← Ctx.ramps_iff, Dev.setNamed_ctx, h])
  rw [heq]
  refine ⟨?_, Dev.calBusy_raised _ hm, Dev.Touches.sameRegs ?_⟩
  · rw [Dev.ctx_of_pl (Dev.raise_pl _ _), Dev.setNamed_ctx]
  · exact ((Dev.Touches.refl _ d).put (f := F.PLn_CTXm_CAL_CMD_SET n m) wordsOf_addr j).raise
      (f := F.PLn_CTXm_CAL_FLAG_CAL_BUSY n m) wordsOf_addr

/-- COMMIT of another number is an access error. -/
theorem Dev.commit_refused {j : Nat} (h : d.ntemp n m ≤ j ∧ j ≠ 15) :
    d.commit n m j = d.accessErr (R.PLn_CTXm_CAL_CMD n m) := if_pos (by omega)

/-! ### TBL_DATA (R131) -/

/-- The table that TBL_DATA reaches. -/
def Dev.tblSel (d : Dev) (n m : Nat) : Nat := d.val (F.PLn_CTXm_TBL_SEL n m) % 16

/-- The entry of the next access. -/
def Dev.tblIdx (d : Dev) (n m : Nat) : Nat := d.val (F.PLn_CTXm_TBL_IDX n m) % 65536

/-- TBL_IDX moved on. -/
def Dev.tblNext (e : Dev) (n m k : Nat) : Dev := e.put (F.PLn_CTXm_TBL_IDX n m) ((k + 1) % 65536)

theorem Dev.tblNext_val (e : Dev) (k : Nat) : (e.tblNext n m k).val (F.PLn_CTXm_TBL_IDX n m) = (k + 1) % 65536 := by
  unfold Dev.tblNext
  rw [Dev.val_put_self _ (by simp [F.PLn_CTXm_TBL_IDX])]
  exact Nat.mod_mod _ _

theorem Dev.tblNext_ctx (e : Dev) (k : Nat) : (e.tblNext n m k).ctx n m = e.ctx n m := Dev.ctx_of_pl (Dev.put_pl _ _ _) n m

/-- A field of another register than TBL_IDX stands as the index moves on. -/
theorem Dev.tblNext_keeps (e : Dev) (k : Nat) {f : Fld} (h : R.PLn_CTXm_TBL_IDX n m ≠ f.addr)
    (hf : (f.lo + f.len).ble 32 = true := by rfl) : (e.tblNext n m k).val f = e.val f :=
  Dev.val_put_apart _ (f := F.PLn_CTXm_TBL_IDX n m) (Fld.apart_of_ne h rfl hf) _

theorem Dev.Touches.tblNext {W : Nat → Prop} {e : Dev} (h : d.Touches W e) (hW : W (R.PLn_CTXm_TBL_IDX n m)) (k : Nat) :
    d.Touches W (e.tblNext n m k) := h.put (f := F.PLn_CTXm_TBL_IDX n m) hW _

/-- A read answers the entry, and the index moves on. -/
theorem Dev.tblAccess_read_does : (d.tblAccess n m none).ctx n m = d.ctx n m ∧
    (d.tblAccess n m none).val (F.PLn_CTXm_TBL_IDX n m) = (d.tblIdx n m + 1) % 65536 ∧
    (d.tblAccess n m none).rdata = BitVec.ofNat 32 (d.tblRead n m) ∧
    d.sameRegsBut (d.tblAccess n m none) [F.PLn_CTXm_TBL_IDX n m] := by
  have heq : d.tblAccess n m none = Dev.tblNext { d with rdata := BitVec.ofNat 32 (d.tblRead n m) } n m (d.tblIdx n m) := rfl
  rw [heq]
  refine ⟨Dev.tblNext_ctx _ _, Dev.tblNext_val _ _, Dev.put_rdata _ _ _, Dev.Touches.sameRegs ?_⟩
  have hread : d.Touches (WordsOf [F.PLn_CTXm_TBL_IDX n m]) { d with rdata := BitVec.ofNat 32 (d.tblRead n m) } :=
    .of_regs rfl rfl rfl
  exact hread.tblNext (wordsOf_addr (f := F.PLn_CTXm_TBL_IDX n m)) _

theorem Dev.tblRead_staging (hsel : d.tblSel n m = 8) (hk : d.tblIdx n m < d.tblLen n m) :
    d.tblRead n m = tabGet 0x4000 (d.ctx n m).staging (d.tblIdx n m) := by
  unfold Dev.tblSel at hsel
  simp only [Dev.tblRead, hsel, Nat.lt_irrefl, if_false, if_true]
  exact if_pos hk

theorem Dev.tblRead_static (hsel : d.tblSel n m = 10) : d.tblRead n m = (d.ctx n m).static.getD (d.tblIdx n m) 0 := by
  unfold Dev.tblSel at hsel
  simp [Dev.tblRead, hsel, Dev.tblIdx]

theorem Dev.tblRead_unused (hsel : 12 ≤ d.tblSel n m) : d.tblRead n m = 0 := by
  unfold Dev.tblSel at hsel
  unfold Dev.tblRead
  extract_lets c sel i L
  rw [if_neg (by omega), if_neg (by omega), if_neg (by omega), if_neg (by omega), if_neg (by omega)]

/-- `tabGet_set` with the address asked for on the left, as the statements spell it. -/
theorem tabGet_tabSet (x : Nat) (t : Tab Nat) (i v a : Nat) :
    tabGet x (tabSet x t i v) a = if a = i then v else tabGet x t a := by
  rw [tabGet_set]
  simp only [eq_comm]

/-- A write of a stopped context's set changes that entry. -/
theorem Dev.tblWrite_set (v : Nat) (hsel : d.tblSel n m < 8) (hk : d.tblIdx n m < d.tblLen n m)
    (hen : d.on (F.PLn_CTXm_CFG_EN n m) = false) (hidle : d.on (F.PLn_CTXm_STAT_IDLE n m) = true)
    (hramp : (d.ctx n m).setRamp = none) : d.tblWrite n m v = d.setCtx n m { d.ctx n m with
      sets := tabSet calDefault (d.ctx n m).sets (d.tblSel n m * 32768 + d.tblIdx n m) v } := by
  have hstopped : d.ctxStopped n m = true := by simp [Dev.ctxStopped, hen, hidle]
  have h8 : d.tblSel n m ≠ 8 := by omega
  unfold Dev.tblSel Dev.tblIdx at *
  simp [Dev.tblWrite, Dev.raiseIf, hramp, hsel, hk, h8, hstopped]

/-- A write of the staging set outside a ramp changes that entry. -/
theorem Dev.tblWrite_staging (v : Nat) (hsel : d.tblSel n m = 8) (hk : d.tblIdx n m < d.tblLen n m)
    (hramps : (d.ctx n m).ramps = false) : d.tblWrite n m v = d.setCtx n m { d.ctx n m with
      staging := tabSet calDefault (d.ctx n m).staging (d.tblIdx n m) v } := by
  unfold Ctx.ramps Dev.tblSel Dev.tblIdx at *
  simp [Dev.tblWrite, Dev.raiseIf, hsel, hk, hramps]

/-- A write of the staging set during a ramp sets CAL_BUSY and is an access error. -/
theorem Dev.tblWrite_busy (v : Nat) (hsel : d.tblSel n m = 8) (hramps : (d.ctx n m).ramps = true) :
    d.tblWrite n m v = (d.raise (F.PLn_CTXm_CAL_FLAG_CAL_BUSY n m)).accessErr (R.PLn_CTXm_TBL_DATA n m) := by
  unfold Ctx.ramps Dev.tblSel at *
  simp [Dev.tblWrite, Dev.raiseIf, hsel, hramps]

/-- A write of the C table, of the dynamic list or of no table is an access error. -/
theorem Dev.tblWrite_refused (v : Nat) (hsel : d.tblSel n m = 9 ∨ 11 ≤ d.tblSel n m) :
    d.tblWrite n m v = d.accessErr (R.PLn_CTXm_TBL_DATA n m) := by
  have h8 : ¬ d.tblSel n m < 8 := by omega
  have h8' : d.tblSel n m ≠ 8 := by omega
  have h10 : d.tblSel n m ≠ 10 := by omega
  unfold Dev.tblSel at *
  simp [Dev.tblWrite, Dev.raiseIf, h8, h8', h10]

/-- A write that changes the context alone, and the index that moves on. -/
theorem Dev.tblAccess_ctx {v : Word} {x : Ctx} (h : d.tblWrite n m v.toNat = d.setCtx n m x) :
    (d.tblAccess n m (some v)).ctx n m = x ∧ d.sameRegsBut (d.tblAccess n m (some v)) [F.PLn_CTXm_TBL_IDX n m] := by
  have heq : d.tblAccess n m (some v) = (d.setCtx n m x).tblNext n m (d.tblIdx n m) := by rw [← h]; rfl
  rw [heq]
  refine ⟨(Dev.tblNext_ctx _ _).trans (Dev.ctx_setCtx _ _ _ _), Dev.Touches.sameRegs ?_⟩
  exact ((Dev.Touches.refl _ d).setCtx n m x).tblNext (wordsOf_addr (f := F.PLn_CTXm_TBL_IDX n m)) _

theorem Dev.tblAccess_write_idx (v : Word) :
    (d.tblAccess n m (some v)).val (F.PLn_CTXm_TBL_IDX n m) = (d.tblIdx n m + 1) % 65536 := Dev.tblNext_val _ _

/-- An access error at TBL_DATA is still shown once the index has moved on. -/
theorem Dev.tblNext_accessErr (e : Dev) (hm : m < 4) (hn : n < 17) (k : Nat) :
    ((e.accessErr (R.PLn_CTXm_TBL_DATA n m)).tblNext n m k).ctx n m = e.ctx n m ∧
    ((e.accessErr (R.PLn_CTXm_TBL_DATA n m)).tblNext n m k).on F.SYS_FLAG_ACCESS_ERR = true ∧
    ((e.accessErr (R.PLn_CTXm_TBL_DATA n m)).tblNext n m k).val F.SYS_ERR_ADDR = R.PLn_CTXm_TBL_DATA n m := by
  have hflag : R.PLn_CTXm_TBL_IDX n m ≠ F.SYS_FLAG_ACCESS_ERR.addr := by
    simp only [R.PLn_CTXm_TBL_IDX, F.SYS_FLAG_ACCESS_ERR, R.SYS_FLAG]
    omega
  have haddr : R.PLn_CTXm_TBL_IDX n m ≠ F.SYS_ERR_ADDR.addr := by
    simp only [R.PLn_CTXm_TBL_IDX, F.SYS_ERR_ADDR, R.SYS_ERR_ADDR]
    omega
  obtain ⟨hon, hval, -, -⟩ := e.accessErr_does (R.PLn_CTXm_TBL_DATA n m) (by simp only [R.PLn_CTXm_TBL_DATA]; omega)
  refine ⟨?_, ?_, ?_⟩
  · rw [Dev.tblNext_ctx, Dev.ctx_of_pl (Dev.accessErr_pl _ _)]
  · rw [Dev.on_congr (Dev.tblNext_keeps _ k hflag), hon]
  · rw [Dev.tblNext_keeps _ k haddr, hval]

/-- CAL_BUSY still stands after the access error and the move of the index. -/
theorem Dev.tblAccess_busy (v : Word) (hm : m < 4) (hn : n < 17) (hsel : d.tblSel n m = 8) (hramps : (d.ctx n m).ramps = true) :
    (d.tblAccess n m (some v)).ctx n m = d.ctx n m ∧
    (d.tblAccess n m (some v)).on (F.PLn_CTXm_CAL_FLAG_CAL_BUSY n m) = true ∧
    (d.tblAccess n m (some v)).on F.SYS_FLAG_ACCESS_ERR = true := by
  obtain ⟨e, he⟩ : ∃ e, e = d.raise (F.PLn_CTXm_CAL_FLAG_CAL_BUSY n m) := ⟨_, rfl⟩
  have heq : d.tblAccess n m (some v) = (e.accessErr (R.PLn_CTXm_TBL_DATA n m)).tblNext n m (d.tblIdx n m) := by
    rw [he, ← Dev.tblWrite_busy v.toNat hsel hramps]
    rfl
  obtain ⟨hctx, hon, -⟩ := e.tblNext_accessErr hm hn (d.tblIdx n m)
  have herr : e.Touches (fun a => a / 0x10000 = 0x4000) (e.accessErr (R.PLn_CTXm_TBL_DATA n m)) :=
    (Dev.Touches.refl (fun a => a / 0x10000 = 0x4000) e).accessErr rfl rfl rfl _
  have hidx : R.PLn_CTXm_TBL_IDX n m ≠ (F.PLn_CTXm_CAL_FLAG_CAL_BUSY n m).addr := by
    simp only [R.PLn_CTXm_TBL_IDX, F.PLn_CTXm_CAL_FLAG_CAL_BUSY, R.PLn_CTXm_CAL_FLAG]
    omega
  rw [heq]
  refine ⟨?_, ?_, hon⟩
  · rw [hctx, he, Dev.ctx_of_pl (Dev.raise_pl _ _)]
  · have hw : (F.PLn_CTXm_CAL_FLAG_CAL_BUSY n m).addr / 0x10000 = 0x4020 + n :=
      pipe_window (o := 0x46C) (k := m * 0x100) (by omega)
    rw [Dev.on_congr (Dev.tblNext_keeps _ _ hidx), Dev.on_congr (herr.reads_pipe hw (by omega)), he]
    exact d.calBusy_raised hm

theorem Dev.tblAccess_refused (v : Word) (hm : m < 4) (hn : n < 17) (hsel : d.tblSel n m = 9 ∨ 11 ≤ d.tblSel n m) :
    (d.tblAccess n m (some v)).ctx n m = d.ctx n m ∧
    (d.tblAccess n m (some v)).on F.SYS_FLAG_ACCESS_ERR = true ∧
    (d.tblAccess n m (some v)).val F.SYS_ERR_ADDR = R.PLn_CTXm_TBL_DATA n m ∧
    d.sameRegsBut (d.tblAccess n m (some v))
      [F.PLn_CTXm_TBL_IDX n m, F.SYS_FLAG_ACCESS_ERR, F.SYS_ERR_ADDR, F.SYS_ACCESS_CNT] := by
  have heq : d.tblAccess n m (some v) = (d.accessErr (R.PLn_CTXm_TBL_DATA n m)).tblNext n m (d.tblIdx n m) := by
    rw [← Dev.tblWrite_refused v.toNat hsel]
    rfl
  obtain ⟨hctx, hon, hval⟩ := d.tblNext_accessErr hm hn (d.tblIdx n m)
  rw [heq]
  refine ⟨hctx, hon, hval, Dev.Touches.sameRegs (Dev.Touches.tblNext (.accessErr (.refl _ d) ?_ ?_ ?_ _) ?_ _)⟩
  · exact wordsOf_addr (f := F.SYS_FLAG_ACCESS_ERR)
  · exact wordsOf_addr (f := F.SYS_ERR_ADDR)
  · exact wordsOf_addr (f := F.SYS_ACCESS_CNT)
  · exact wordsOf_addr (f := F.PLn_CTXm_TBL_IDX n m)

end

/-! ### A foreground bit and the one line held (R123, R166) -/

section
variable {d : Dev} {n m : Nat} {h : HeldLine} {row k : Int} {bit : Bool}

/-- The line with the bit noted, where it lies beside the bit's row. -/
def HeldLine.noted (h : HeldLine) (row k : Int) (bit : Bool) : HeldLine :=
  if k = row then { h with lo := some bit } else if k = row + 1 then { h with hi := some bit } else h

theorem HeldLine.noted_lower (hk : k = row) : h.noted row k bit = { h with lo := some bit } := if_pos hk

theorem HeldLine.noted_upper (hk : k = row + 1) : h.noted row k bit = { h with hi := some bit } :=
  (if_neg (by omega)).trans (if_pos hk)

theorem HeldLine.noted_other (hlo : k ≠ row) (hhi : k ≠ row + 1) : h.noted row k bit = h := (if_neg hlo).trans (if_neg hhi)

/-- What becomes of one line by its bits: the lines still held, and the values of the lines that are clean. -/
def HeldLine.judged (h : HeldLine) : List HeldLine × List (List Nat) :=
  if h.lo = some true ∨ h.hi = some true then ([], [])
  else if h.lo = some false ∧ h.hi = some false then ([], [h.x3]) else ([h], [])

theorem HeldLine.judged_clean (hlo : h.lo = some false) (hhi : h.hi = some false) : h.judged = ([], [h.x3]) := by
  simp [HeldLine.judged, hlo, hhi]

theorem HeldLine.judged_kept (hlo : h.lo ≠ some true) (hhi : h.hi ≠ some true) (hopen : h.lo = none ∨ h.hi = none) :
    h.judged = ([h], []) :=
  (if_neg (by simp [hlo, hhi])).trans (if_neg (by rcases hopen with hopen | hopen <;> simp [hopen]))

/-- A set bit of either row drops the line. -/
theorem HeldLine.judged_noted_set (hk : k = row ∨ k = row + 1) : (h.noted row k true).judged = ([], []) := by
  rcases hk with hk | hk
  · rw [HeldLine.noted_lower hk]
    exact if_pos (.inl rfl)
  · rw [HeldLine.noted_upper hk]
    exact if_pos (.inr rfl)

/-- A clear bit with the other one clear makes the line clean. -/
theorem HeldLine.judged_noted_clear (hk : k = row ∧ h.hi = some false ∨ k = row + 1 ∧ h.lo = some false) :
    (h.noted row k false).judged = ([], [h.x3]) := by
  rcases hk with ⟨hk, hother⟩ | ⟨hk, hother⟩
  · rw [HeldLine.noted_lower hk]
    exact HeldLine.judged_clean rfl hother
  · rw [HeldLine.noted_upper hk]
    exact HeldLine.judged_clean hother rfl

/-- A clear bit with the other one missing is noted. -/
theorem HeldLine.judged_noted_lower (hk : k = row) (hhi : h.hi = none) :
    (h.noted row k false).judged = ([{ h with lo := some false }], []) := by
  rw [HeldLine.noted_lower hk]
  exact HeldLine.judged_kept (by simp) (by simp [hhi]) (.inr hhi)

theorem HeldLine.judged_noted_upper (hk : k = row + 1) (hlo : h.lo = none) :
    (h.noted row k false).judged = ([{ h with hi := some false }], []) := by
  rw [HeldLine.noted_upper hk]
  exact HeldLine.judged_kept (by simp [hlo]) (by simp) (.inl hlo)

theorem judgeHeld_single (pitch : Nat) : judgeHeld pitch k bit [h] = (h.noted (h.pos / (pitch : Int)) k bit).judged := rfl

/-- The context once its one line is judged. -/
def Ctx.settled (c : Ctx) (r : List HeldLine × List (List Nat)) : Ctx :=
  { c with held := r.1, sums := r.2.foldl addCols c.sums, clean := c.clean + r.2.length }

theorem Dev.takeBit_single (hheld : (d.ctx n m).held = [h]) :
    (d.takeBit n m k bit).ctx n m = (d.ctx n m).settled (h.noted (h.pos / (d.gridPitch : Int)) k bit).judged := by
  unfold Dev.takeBit
  rw [Dev.ctx_setCtx, hheld, judgeHeld_single]
  rfl

/-- A line that stays as it was leaves the context as it was. -/
theorem Ctx.settled_kept {c : Ctx} (hheld : c.held = [h]) : c.settled ([h], []) = c := by
  rw [← hheld]
  rfl

theorem Ctx.settled_clean (c : Ctx) (x : List Nat) : (c.settled ([], [x])).sums =
    if c.sums = [] then x else c.sums.zipWith (· + ·) x := by
  simp [Ctx.settled, addCols]

/-- The oldest bit of a stream is no longer owed. -/
def Dev.bitTaken (d : Dev) (q : Nat) : Dev :=
  { d with seg := { d.seg with fgBits := d.seg.fgBits.eraseP (fun b => b.2.1 == q) } }

theorem Dev.bitTaken_length {q : Nat} {b : Int × Nat × Bool} (hb : d.seg.fgBits.find? (fun b => b.2.1 == q) = some b) :
    (d.bitTaken q).seg.fgBits.length + 1 = d.seg.fgBits.length := by
  have hmem := List.mem_of_find?_eq_some hb
  have hpos := List.length_pos_of_mem hmem
  have hlen := List.length_eraseP_of_mem (p := fun b => b.2.1 == q) hmem
    (List.find?_some (p := fun b : Int × Nat × Bool => b.2.1 == q) hb)
  simp only [Dev.bitTaken, hlen]
  omega

theorem exec_foregroundBit {s : State} {q : Fin 64}
    (hb : s.quietened.dev.seg.fgBits.find? (fun b => b.2.1 == q.val) = some (k, q.val, bit))
    (hctx : s.quietened.dev.ctxsOf q = [(n, m)]) :
    exec (.foregroundBit q) s = .next { s with dev := (s.quietened.dev.bitTaken q).takeBit n m k bit } := by
  have hctx' : (s.quietened.dev.bitTaken q).ctxsOf q = [(n, m)] := hctx
  change execForegroundBit q s = _
  unfold execForegroundBit
  rw [onDev_next]
  dsimp only
  rw [hb]
  change Host.Outcome.next { s with dev := ((s.quietened.dev.bitTaken q).ctxsOf q).foldl _ (s.quietened.dev.bitTaken q) } = _
  rw [hctx']
  rfl

end

/-! ### The commands -/

theorem exec_blkFixedWrite (n : Fin 17) (m : Fin 4) (v : Word) (s : State) :
    exec (.blkFixedWrite n m v) s = .next { s with dev := s.quietened.dev.blkWrite n m v } := rfl

theorem exec_commit (n : Fin 17) (m : Fin 4) (j : Fin 16) (s : State) :
    exec (.commit n m j) s = .next { s with dev := s.quietened.dev.commit n m j } := rfl

theorem exec_tblDataAccess (n : Fin 17) (m : Fin 4) (w : Option Word) (s : State) :
    exec (.tblDataAccess n m w) s = .next { s with dev := s.quietened.dev.tblAccess n m w } := rfl

/-- Settles O33: each write is one function of the block whose refusals leave the context, and a bit judges the one line
held by what is then known of its two rows. -/
theorem correctionTablesAndRamps : Obligations.CorrectionTablesAndRamps := by
  refine ⟨fun s n m v j => ?_, fun s q n m k bit h => ?_⟩
  · intro d c len k next inL ramps
    refine ⟨?blk, fun hj hramps => ?begin, fun hj hramps => ?busy, fun hj => ?number, ?read,
      fun sel hsel hset hk hen hidle hramp => ?set, fun hsel hk => ?staging, fun hsel => ?refused⟩
    case blk =>
      refine ⟨_, exec_blkFixedWrite n m v s, s.sameStores_of_dev _, ?_⟩
      by_cases hmode : d.mode = 2
      · obtain ⟨hval, hctx, hregs⟩ := Dev.blkWrite_load_does (d := s.quietened.dev) (n := n) (m := m) v hmode
        refine ⟨hval, fun _ => ?_, fun hnot => absurd hmode hnot⟩
        dsimp only
        rw [hctx]
        exact ⟨rfl, rfl, hregs⟩
      · obtain ⟨hval, hctx, hon, hregs⟩ := Dev.blkWrite_ramp_does (d := s.quietened.dev) (n := n) (m := m) v hmode
        refine ⟨hval, fun hload => absurd hload hmode, fun _ => ?_⟩
        dsimp only
        rw [hctx]
        exact ⟨rfl, rfl, rfl, rfl, hon, hregs⟩
    case begin =>
      exact ⟨_, exec_commit n m j s, s.sameStores_of_dev _, Dev.commit_does (d := s.quietened.dev) hj hramps⟩
    case busy =>
      exact ⟨_, exec_commit n m j s, s.sameStores_of_dev _, Dev.commit_busy (d := s.quietened.dev) m.isLt hj hramps⟩
    case number =>
      have hexec := exec_commit n m j s
      rw [Dev.commit_refused (d := s.quietened.dev) hj] at hexec
      obtain ⟨hon, -, -, hregs⟩ := s.quietened.dev.accessErr_does (R.PLn_CTXm_CAL_CMD n m)
        (by simp only [R.PLn_CTXm_CAL_CMD]; omega)
      exact ⟨_, hexec, s.sameStores_of_dev _, hon, Dev.ctx_of_pl (Dev.accessErr_pl _ _) n m, hregs⟩
    case read =>
      obtain ⟨hctx, hidx, hdata, hregs⟩ := Dev.tblAccess_read_does (d := s.quietened.dev) (n := n) (m := m)
      refine ⟨_, exec_tblDataAccess n m none s, s.sameStores_of_dev _, hctx, hidx, fun hsel hk => ?_, fun hsel => ?_,
        fun hsel => ?_, hregs⟩
      · rw [hdata, Dev.tblRead_staging (d := s.quietened.dev) hsel hk]
        exact BitVec.toNat_ofNat _ _
      · rw [hdata, Dev.tblRead_static (d := s.quietened.dev) hsel]
        exact BitVec.toNat_ofNat _ _
      · rw [hdata, Dev.tblRead_unused (d := s.quietened.dev) hsel]
        rfl
    case set =>
      rw [hsel] at hset
      obtain ⟨hctx, hregs⟩ := Dev.tblAccess_ctx (Dev.tblWrite_set (d := s.quietened.dev) v.toNat hset hk hen hidle hramp)
      refine ⟨_, exec_tblDataAccess n m (some v) s, s.sameStores_of_dev _, Dev.tblAccess_write_idx v, fun a => ?_, hregs⟩
      rw [hctx, hsel]
      exact tabGet_tabSet ..
    case staging =>
      refine ⟨_, exec_tblDataAccess n m (some v) s, s.sameStores_of_dev _, Dev.tblAccess_write_idx v, fun hramps => ?_,
        Dev.tblAccess_busy (d := s.quietened.dev) v m.isLt n.isLt hsel⟩
      obtain ⟨hctx, hregs⟩ := Dev.tblAccess_ctx (Dev.tblWrite_staging (d := s.quietened.dev) v.toNat hsel hk hramps)
      refine ⟨fun a => ?_, hregs⟩
      rw [hctx]
      exact tabGet_tabSet ..
    case refused =>
      obtain ⟨hctx, hon, haddr, hregs⟩ := Dev.tblAccess_refused (d := s.quietened.dev) v m.isLt n.isLt hsel
      exact ⟨_, exec_tblDataAccess n m (some v) s, s.sameStores_of_dev _, hctx, Dev.tblAccess_write_idx v, hon, haddr, hregs⟩
  · intro d c row hbit hctxs hheld hlo hhi
    have hctx : (((s.quietened.dev.bitTaken q).takeBit n m k bit).ctx n m) = c.settled (h.noted row k bit).judged :=
      Dev.takeBit_single (d := s.quietened.dev.bitTaken q) hheld
    refine ⟨_, exec_foregroundBit hbit hctxs, s.sameStores_of_dev _, fun a _ _ => rfl, Dev.bitTaken_length hbit, ?other, ?set,
      ?clean, ?lower, ?upper⟩ <;> dsimp only <;> rw [hctx]
    case other =>
      intro hlower hupper hopen
      rw [HeldLine.noted_other hlower hupper, HeldLine.judged_kept hlo hhi hopen, Ctx.settled_kept hheld]
    case set =>
      rintro hk rfl
      rw [HeldLine.judged_noted_set hk]
      exact ⟨rfl, rfl, rfl⟩
    case clean =>
      rintro hk rfl
      rw [HeldLine.judged_noted_clear hk]
      exact ⟨rfl, rfl, Ctx.settled_clean _ _⟩
    case lower =>
      rintro ⟨hk, hother⟩ rfl
      rw [HeldLine.judged_noted_lower hk hother]
      exact ⟨rfl, rfl⟩
    case upper =>
      rintro ⟨hk, hother⟩ rfl
      rw [HeldLine.judged_noted_upper hk hother]
      exact ⟨rfl, rfl⟩

end Sys2Proof.Machine
end

/-! PROOFS. What taking a crossing and deciding rows leave as they stand (R136 to R144, R173). -/
section
-- One lemma at a time: elaborated side by side they take more threads than the check's memory limit leaves room for.
set_option Elab.async false
namespace Sys2Proof.Machine

/-! ### Planes -/

theorem Dev.cam_of_stc {d e : Dev} (h : e.stc = d.stc) (q : Nat) : e.cam q = d.cam q := by
  unfold Dev.cam
  rw [h]

theorem Cam.plane_set (c : Cam) (p r : Nat) (x : Plane) :
    ({ c with planes := tabSet {} c.planes p x } : Cam).plane r = if p = r then x else c.plane r := tabGet_set ..

section
variable (d : Dev) (s p : Nat) (x : Plane)

theorem Dev.plane_setPlane : ((d.setPlane s p x).cam s).plane p = x := by
  rw [Dev.setPlane, Dev.cam_setCam, Cam.plane_set, if_pos rfl]

theorem Dev.plane_setPlane_ne {q r : Nat} (h : s ≠ q ∨ p ≠ r) :
    ((d.setPlane s p x).cam q).plane r = (d.cam q).plane r := by
  unfold Dev.setPlane
  by_cases hs : s = q
  · subst hs
    rw [Dev.cam_setCam, Cam.plane_set, if_neg (h.resolve_left fun hne => hne rfl)]
  · rw [Dev.cam_setCam_ne _ hs]

theorem Dev.items_setPlane (q : Nat) : ((d.setPlane s p x).cam q).items = (d.cam q).items := by
  unfold Dev.setPlane
  by_cases hs : s = q
  · subst hs
    rw [Dev.cam_setCam]
  · rw [Dev.cam_setCam_ne _ hs]

/-- The next row of a plane whose own next row is `j`. -/
def Dev.rowFrom (d : Dev) (j : Option Int) : Int :=
  match j with
  | some k => max k (d.stc.nextRow.getD 0)
  | none => d.stc.nextRow.getD 0

theorem Dev.planeNext_eq : d.planeNext s p = d.rowFrom ((d.cam s).plane p).next := rfl

theorem Dev.nextRow_le_planeNext : d.stc.nextRow.getD 0 ≤ d.planeNext s p := by
  rw [Dev.planeNext_eq]
  unfold Dev.rowFrom
  split
  · exact le_max_right _ _
  · exact le_refl _

theorem Dev.planeNext_setPlane : (d.setPlane s p x).planeNext s p = d.rowFrom x.next := by
  rw [Dev.planeNext_eq, Dev.plane_setPlane]
  rfl

theorem Dev.planeNext_setPlane_ne {q r : Nat} (h : s ≠ q ∨ p ≠ r) : (d.setPlane s p x).planeNext q r = d.planeNext q r := by
  rw [Dev.planeNext_eq, Dev.plane_setPlane_ne _ _ _ _ h]
  rfl

end

theorem Dev.planeNext_of_stc {d e : Dev} (h : e.stc = d.stc) (q r : Nat) : e.planeNext q r = d.planeNext q r := by
  unfold Dev.planeNext Dev.cam
  rw [h]

/-! ### Work that decides rows

`d.Decides e` says that `e` comes from `d` by operations that decide rows, count them and show TRIG_OFF: crossings and the
planes' last lines stand, no plane goes back to an earlier row, and every field but those of `RowFld` holds what it
held. -/

/-- The fields that deciding rows may write (R140, R144), and the row that a stream move shows (R173). -/
inductive RowFld : Fld → Prop
  | nearest (s : Nat) : RowFld (F.STC_CAMs_NEAREST_CNT s)
  | stale (s : Nat) : RowFld (F.STC_CAMs_STALE_CNT s)
  | missing (s : Nat) : RowFld (F.STC_CAMs_MISSING_CNT s)
  | flagStale (s : Nat) : RowFld (F.STC_CAMs_FLAG_STALE s)
  | flagMissing (s : Nat) : RowFld (F.STC_CAMs_FLAG_MISSING s)
  | trigOff (s : Nat) : RowFld (F.STC_CAMs_STAT_TRIG_OFF s)
  | moved : RowFld F.SEG_MIG_P

/-- The field shares no bit with those that deciding rows may write. -/
def Fld.offRows (f : Fld) : Prop := f.quiet ∧ ∀ g, RowFld g → g.Apart f

/-- A field of one word of the Reckoner's window, in a register that deciding rows leaves. -/
theorem Fld.offRows_of_addr {f : Fld} (hw : f.addr / 0x10000 = 0x4013)
    (ha : f.addr < 0x40131000 ∨ f.addr % 0x80 ∉ [0x04, 0x08, 0x34, 0x38, 0x3C]) (hn : (f.lo + f.len).ble 32 = true := by rfl) :
    f.offRows := by
  have hf := Nat.le_of_ble_eq_true hn
  simp only [List.mem_cons, List.not_mem_nil, or_false, not_or] at ha
  refine ⟨⟨evIcu_of_window hw (by decide) (by decide), by omega⟩, fun g hg => ?_⟩
  cases hg with
  | moved =>
    refine .inl ⟨?_, ?_, by omega⟩
    all_goals
      simp only [F.SEG_MIG_P, R.SEG_MIG_P]
      omega
  | _ s =>
    refine Fld.apart_of_ne ?_ rfl hn
    simp only [F.STC_CAMs_NEAREST_CNT, R.STC_CAMs_NEAREST_CNT, F.STC_CAMs_STALE_CNT, R.STC_CAMs_STALE_CNT,
      F.STC_CAMs_MISSING_CNT, R.STC_CAMs_MISSING_CNT, F.STC_CAMs_FLAG_STALE, F.STC_CAMs_FLAG_MISSING, R.STC_CAMs_FLAG,
      F.STC_CAMs_STAT_TRIG_OFF, R.STC_CAMs_STAT]
    omega

theorem discardCnt_offRows {q : Nat} (hq : q < 64) : (F.STC_CAMs_DISCARD_CNT q).offRows :=
  Fld.offRows_of_addr (stitchReg_cam (o := 0x40) (by decide) hq) (.inr (by
    simp only [F.STC_CAMs_DISCARD_CNT, R.STC_CAMs_DISCARD_CNT, List.mem_cons, List.not_mem_nil, or_false]
    omega))

theorem gridPitch_offRows : F.STC_GRID_PITCH.offRows := Fld.offRows_of_addr rfl (.inl (by decide))

theorem flagDiscard_offRows {q : Nat} (hq : q < 64) : (F.STC_CAMs_FLAG_DISCARD q).offRows := by
  have hw : (F.STC_CAMs_FLAG_DISCARD q).addr / 0x10000 = 0x4013 := stitchReg_cam (o := 8) (by decide) hq
  have hsame {g : Nat → Fld} (haddr : ∀ s, (g s).addr = R.STC_CAMs_FLAG s)
      (hbits : ∀ s, (g s).bitsApart (F.STC_CAMs_FLAG_DISCARD q) = true) (s : Nat) : (g s).Apart (F.STC_CAMs_FLAG_DISCARD q) := by
    by_cases h : s = q
    · subst h
      exact Fld.apart_of_bits (haddr s) (hbits s)
    · have hn := hbits s
      simp only [Fld.bitsApart, Bool.and_eq_true] at hn
      refine Fld.apart_of_ne ?_ hn.1.1 rfl
      simp only [haddr, F.STC_CAMs_FLAG_DISCARD, R.STC_CAMs_FLAG]
      omega
  refine ⟨⟨evIcu_of_window hw (by decide) (by decide), fun h => absurd h (by simp [F.STC_CAMs_FLAG_DISCARD])⟩, fun g hg => ?_⟩
  cases hg with
  | flagStale s => exact hsame (g := F.STC_CAMs_FLAG_STALE) (fun _ => rfl) (fun _ => rfl) s
  | flagMissing s => exact hsame (g := F.STC_CAMs_FLAG_MISSING) (fun _ => rfl) (fun _ => rfl) s
  | moved =>
    refine .inl ⟨?_, ?_, fun h => absurd h (by simp [F.STC_CAMs_FLAG_DISCARD])⟩
    all_goals
      simp only [F.SEG_MIG_P, R.SEG_MIG_P, F.STC_CAMs_FLAG_DISCARD, R.STC_CAMs_FLAG]
      omega
  | _ s =>
    refine Fld.apart_of_ne ?_
    simp only [F.STC_CAMs_NEAREST_CNT, R.STC_CAMs_NEAREST_CNT, F.STC_CAMs_STALE_CNT, R.STC_CAMs_STALE_CNT,
      F.STC_CAMs_MISSING_CNT, R.STC_CAMs_MISSING_CNT, F.STC_CAMs_STAT_TRIG_OFF, R.STC_CAMs_STAT, F.STC_CAMs_FLAG_DISCARD,
      R.STC_CAMs_FLAG]
    omega

structure Dev.Decides (d e : Dev) : Prop where
  val : ∀ {f : Fld}, f.offRows → e.val f = d.val f
  items : ∀ q, (e.cam q).items = (d.cam q).items
  last : ∀ q r, ((e.cam q).plane r).last = ((d.cam q).plane r).last
  next : ∀ q r, d.planeNext q r ≤ e.planeNext q r

namespace Dev.Decides

variable {d e : Dev}

theorem refl (d : Dev) : d.Decides d := ⟨fun _ => rfl, fun _ => rfl, fun _ _ => rfl, fun _ _ => le_refl _⟩

theorem trans {f : Dev} (h : d.Decides e) (g : e.Decides f) : d.Decides f :=
  ⟨fun hf => (g.val hf).trans (h.val hf), fun q => (g.items q).trans (h.items q), fun q r => (g.last q r).trans (h.last q r),
    fun q r => le_trans (h.next q r) (g.next q r)⟩

/-- A change beside the Reckoner that leaves every field but those of the rows. -/
theorem of_stc (hv : ∀ {f : Fld}, f.offRows → e.val f = d.val f) (hs : e.stc = d.stc) : d.Decides e :=
  ⟨hv, fun q => by rw [Dev.cam_of_stc hs], fun q r => by rw [Dev.cam_of_stc hs],
    fun q r => le_of_eq (Dev.planeNext_of_stc hs q r).symm⟩

theorem put (h : d.Decides e) {f : Fld} (hf : RowFld f) (v : Nat) : d.Decides (e.put f v) :=
  h.trans (of_stc (fun hg => Dev.val_put_apart _ (hg.2 f hf) v) (Dev.put_stc _ _ _))

theorem inc (h : d.Decides e) {f : Fld} (hf : RowFld f) : d.Decides (e.inc f) := h.put hf _

theorem mark (h : d.Decides e) {f : Fld} (hf : RowFld f) (b : Bool) : d.Decides (e.mark f b) := h.put hf _

theorem raise (h : d.Decides e) {f : Fld} (hf : RowFld f) : d.Decides (e.raise f) :=
  h.trans (of_stc (fun hg => Dev.val_raise_apart _ (hg.2 f hf) hg.1) (Dev.raise_stc _ _))

theorem foldl {α : Type} (g : Dev → α → Dev) (hg : ∀ x c, Dev.Decides c (g c x)) :
    ∀ (l : List α) {e : Dev} (_ : d.Decides e), d.Decides (l.foldl g e)
  | [], _, h => h
  | x :: l, e, h => foldl g hg l (h.trans (hg x e))

/-- A plane that keeps its last line and goes on to a row no earlier. -/
theorem setPlane (s p : Nat) {x : Plane} (hl : x.last = ((d.cam s).plane p).last) (hn : d.planeNext s p ≤ d.rowFrom x.next) :
    d.Decides (d.setPlane s p x) := by
  refine ⟨fun _ => Dev.val_of_regs rfl _, fun q => Dev.items_setPlane _ _ _ _ q, fun q r => ?_, fun q r => ?_⟩
  · by_cases hne : s ≠ q ∨ p ≠ r
    · rw [Dev.plane_setPlane_ne _ _ _ _ hne]
    · obtain ⟨rfl, rfl⟩ := not_or.mp hne |>.imp Decidable.not_not.mp Decidable.not_not.mp
      rw [Dev.plane_setPlane, hl]
  · by_cases hne : s ≠ q ∨ p ≠ r
    · rw [Dev.planeNext_setPlane_ne _ _ _ _ hne]
    · obtain ⟨rfl, rfl⟩ := not_or.mp hne |>.imp Decidable.not_not.mp Decidable.not_not.mp
      rwa [Dev.planeNext_setPlane]

theorem gridPitch (h : d.Decides e) : e.gridPitch = d.gridPitch := by
  unfold Dev.gridPitch
  rw [h.val gridPitch_offRows]

end Dev.Decides

/-! ### Rows are decided (R139) -/

section
variable (d : Dev) (s p : Nat) (b : Option Placed)

theorem Dev.rowCount_decides (kind : Nat) : d.Decides (d.rowCount s kind) := by
  have h := Dev.Decides.refl d
  unfold Dev.rowCount
  split
  · exact h.inc (.nearest s)
  · split
    · exact (h.inc (.stale s)).raise (.flagStale s)
    · split
      · exact (h.inc (.missing s)).raise (.flagMissing s)
      · exact h

theorem Dev.rowCount_stc (kind : Nat) : (d.rowCount s kind).stc = d.stc := by
  unfold Dev.rowCount
  split
  · simp
  · split
    · simp
    · split
      · simp
      · rfl

/-- The plane has decided its next row, and nothing else has happened but for the row's count. -/
theorem Dev.decideRow_eq : ∃ x : Plane, x.last = ((d.cam s).plane p).last ∧ x.next = some (d.planeNext s p + 1) ∧
    (d.decideRow s p b = d.setPlane s p x ∨ ∃ kind, d.decideRow s p b = (d.setPlane s p x).rowCount s kind) := by
  unfold Dev.decideRow
  extract_lets x k r
  split
  · exact ⟨{ x with next := some (k + 1), rows := x.rows ++ [r.1] }, rfl, rfl, .inr ⟨_, rfl⟩⟩
  · exact ⟨{ x with next := some (k + 1), rows := x.rows ++ [{ r.1 with before := x.last, after := b }] }, rfl, rfl, .inl rfl⟩

/-- The next row of the plane is the one after the row decided. -/
theorem Dev.rowFrom_succ : d.rowFrom (some (d.planeNext s p + 1)) = d.planeNext s p + 1 := by
  have h := d.nextRow_le_planeNext s p
  exact max_eq_left (by omega)

theorem Dev.decideRow_next : (d.decideRow s p b).planeNext s p = d.planeNext s p + 1 := by
  obtain ⟨x, -, hx, heq | ⟨kind, heq⟩⟩ := d.decideRow_eq s p b
  · rw [heq, Dev.planeNext_setPlane, hx, Dev.rowFrom_succ]
  · rw [heq, Dev.planeNext_of_stc (Dev.rowCount_stc _ _ _), Dev.planeNext_setPlane, hx, Dev.rowFrom_succ]

theorem Dev.decideRow_decides : d.Decides (d.decideRow s p b) := by
  obtain ⟨x, hl, hx, heq⟩ := d.decideRow_eq s p b
  have hset : d.Decides (d.setPlane s p x) := .setPlane s p hl (by
    rw [hx, Dev.rowFrom_succ]
    omega)
  obtain heq | ⟨kind, heq⟩ := heq
  · rwa [heq]
  · rw [heq]
    exact hset.trans (Dev.rowCount_decides _ _ _)

theorem Dev.decideTo_decides (x : Int) : ∀ (n : Nat) (d : Dev), d.Decides (Dev.decideTo s p x b n d)
  | 0, d => .refl d
  | n + 1, d => by
    unfold Dev.decideTo
    split
    · exact (d.decideRow_decides s p b).trans (Dev.decideTo_decides x n _)
    · exact .refl d

theorem Dev.decideUpTo_decides (x : Int) : d.Decides (d.decideUpTo s p x b) := Dev.decideTo_decides s p b x _ d

/-- Deciding goes on until the next row lies at or above `x`, if there are rounds enough. -/
theorem Dev.decideTo_reaches (x : Int) : ∀ (n : Nat) (d : Dev), x ≤ (d.planeNext s p + n) * d.gridPitch →
    x ≤ (Dev.decideTo s p x b n d).planeNext s p * (Dev.decideTo s p x b n d).gridPitch
  | 0, d, h => by simpa [Dev.decideTo] using h
  | n + 1, d, h => by
    unfold Dev.decideTo
    split
    · refine Dev.decideTo_reaches x n _ ?_
      rw [Dev.decideRow_next, (d.decideRow_decides s p b).gridPitch]
      push_cast at h
      rwa [add_assoc, add_comm 1 (n : Int)]
    · omega

/-- Every row below `x` is decided. -/
theorem Dev.decideUpTo_reaches (x : Int) :
    x ≤ (d.decideUpTo s p x b).planeNext s p * (d.decideUpTo s p x b).gridPitch := by
  have hpitch : (0 : Int) < d.gridPitch := by
    have : 1 ≤ d.gridPitch := le_max_left _ _
    omega
  have hrounds := Int.lt_ediv_add_one_mul_self (x - d.planeNext s p * d.gridPitch) hpitch
  refine Dev.decideTo_reaches s p b x _ d ?_
  calc x ≤ d.planeNext s p * d.gridPitch + ((x - d.planeNext s p * d.gridPitch) / d.gridPitch + 1) * d.gridPitch := by omega
    _ ≤ d.planeNext s p * d.gridPitch + (((x - d.planeNext s p * d.gridPitch) / d.gridPitch + 1).toNat : Int) * d.gridPitch := by
      gcongr
      exact Int.self_le_toNat _
    _ = _ := by ring

theorem Dev.trigFollow_decides : d.Decides d.trigFollow := by
  unfold Dev.trigFollow
  extract_lets cs off on e
  have hshow : d.Decides e := .foldl _ (fun s c => (Dev.Decides.refl c).mark (.trigOff s) _) cs (.refl d)
  cases hon : on with
  | nil => exact hshow
  | cons s0 l => exact .foldl _ (fun s c => .foldl _ (fun p c => c.decideUpTo_decides s p none _) _ (.refl c)) off hshow

end

end Sys2Proof.Machine
end

/-! PROOFS. ItemsAreTakenInOrder (R136 to R139, R147). -/
section
-- One lemma at a time: elaborated side by side they take more threads than the check's memory limit leaves room for.
set_option Elab.async false
namespace Sys2Proof.Machine

/-! ### One crossing with its line (R136 to R139) -/

section
variable (d : Dev) (s : Nat)

/-- The row that a stream move's new context decides first, shown where this crossing is at or beyond the hand-over
(R173). -/
def Dev.firstRowShown (d : Dev) (s : Nat) (c : Cross) (first : Int) : Dev :=
  match d.seg.moved with
  | some (i, j) =>
    if i = s ∧ j ≤ c.k ∧ first < d.camNext s then { d with seg := { d.seg with moved := none } }.puti F.SEG_MIG_P first else d
  | none => d

theorem Dev.firstRowShown_decides (c : Cross) (first : Int) : d.Decides (d.firstRowShown s c first) := by
  unfold Dev.firstRowShown
  split
  · split
    · have h : d.Decides { d with seg := { d.seg with moved := none } } := .of_stc (fun _ => Dev.val_of_regs rfl _) rfl
      exact h.put .moved _
    · exact .refl d
  · exact .refl d

/-- The oldest crossing of a stream removed. -/
def Dev.itemRemoved (d : Dev) (s : Nat) (t : List Cross) : Dev := d.setCam s { d.cam s with items := t }

variable {d s} {c : Cross} {t : List Cross}

theorem Dev.itemRemoved_plane (r : Nat) : ((d.itemRemoved s t).cam s).plane r = (d.cam s).plane r := by
  rw [Dev.itemRemoved, Dev.cam_setCam]
  rfl

/-- A stream of one plane has its crossing taken by plane 0; what follows decides rows and no more. -/
theorem Dev.takeItem_decides (hitems : (d.cam s).items = c :: t) (hrep : c.rep ≠ .waiting) (hplanes : d.camPlanes s = 1) :
    ((d.itemRemoved s t).takePlane s c 0).Decides (d.takeItem s) := by
  have hplanes' : (d.itemRemoved s t).camPlanes s = 1 := hplanes
  have heq : d.takeItem s = (((d.itemRemoved s t).takePlane s c 0).firstRowShown s c (d.camNext s)).trigFollow := by
    unfold Dev.takeItem
    dsimp only
    rw [hitems]
    dsimp only
    rw [if_neg hrep, ← Dev.itemRemoved, hplanes']
    rfl
  rw [heq]
  exact (Dev.firstRowShown_decides _ _ _ _).trans (Dev.trigFollow_decides _)

/-- The crossing's line as plane 0 places it (R136). -/
def Dev.placed (d : Dev) (s : Nat) (l : LineOut) (v : List (Option Nat)) : Placed :=
  ⟨l.tag.pos - d.vali (F.PLn_CTXm_PLANE_OFSp l.tag.pl l.tag.ctx 0) - d.vali (F.STC_CAMs_ALONG_ACT s), l.tag.time, l.tag.poison,
    l.tag.calRamp, v, none⟩

/-- A line at or below the plane's last one is discarded, flagged and counted (R138). -/
def Dev.lineDiscarded (d : Dev) (s : Nat) : Dev := (d.inc (F.STC_CAMs_DISCARD_CNT s)).raise (F.STC_CAMs_FLAG_DISCARD s)

variable {l : LineOut} {v : List (Option Nat)} (hrep : c.rep = .line l) (hlost : c.lost = []) (hvals : l.planes = [v])
include hrep hlost hvals

theorem Dev.takePlane_placed (hdepth : ((d.cam s).plane 0).depth = 0)
    (habove : ∀ a, ((d.cam s).plane 0).last = some a → a.q < (d.placed s l v).q) :
    d.takePlane s c 0 = d.placeLine s 0 (d.placed s l v) := by
  unfold Dev.takePlane
  rw [hrep]
  dsimp only
  rw [if_neg (by simp [hlost, hvals]), hdepth]
  cases hlast : ((d.cam s).plane 0).last with
  | none => simp [hvals, Dev.placed]
  | some a =>
    have hbelow : ¬ (d.placed s l v).q ≤ a.q := not_le.mpr (habove a hlast)
    unfold Dev.placed at hbelow
    simp [hbelow, hvals, Dev.placed]

theorem Dev.takePlane_discarded {a : Placed} (hlast : ((d.cam s).plane 0).last = some a) (hbelow : (d.placed s l v).q ≤ a.q) :
    d.takePlane s c 0 = d.lineDiscarded s := by
  unfold Dev.placed at hbelow
  unfold Dev.takePlane
  rw [hrep]
  dsimp only
  rw [if_neg (by simp [hlost, hvals]), hlast]
  simp [hbelow, Dev.lineDiscarded]

omit hrep hlost hvals

/-- A line placed in a plane on chip is its last line, and every row below it is decided; nothing else but rows changes. -/
theorem Dev.placeLine_does {x : Placed} (hdepth : ((d.cam s).plane 0).depth = 0) :
    ((d.placeLine s 0 x).cam s).items = (d.cam s).items ∧ (((d.placeLine s 0 x).cam s).plane 0).last = some x ∧
    (∀ r, r ≠ 0 → (((d.placeLine s 0 x).cam s).plane r).last = ((d.cam s).plane r).last) ∧
    x.q ≤ (d.placeLine s 0 x).planeNext s 0 * (d.placeLine s 0 x).gridPitch ∧
    (∀ {f : Fld}, f.offRows → (d.placeLine s 0 x).val f = d.val f) := by
  obtain ⟨e, he⟩ : ∃ e, e = d.decideUpTo s 0 x.q (some x) := ⟨_, rfl⟩
  have hdec : d.Decides e := he ▸ d.decideUpTo_decides s 0 (some x) x.q
  have hreach : x.q ≤ e.planeNext s 0 * e.gridPitch := he ▸ d.decideUpTo_reaches s 0 (some x) x.q
  obtain ⟨y, hlast, hnext, heq⟩ : ∃ y : Plane, y.last = some x ∧ y.next = ((e.cam s).plane 0).next ∧
      d.placeLine s 0 x = e.setPlane s 0 y := by
    unfold Dev.placeLine
    dsimp only
    rw [if_pos hdepth, ← he]
    refine ⟨_, ?_, ?_, rfl⟩ <;> rfl
  rw [heq]
  refine ⟨(Dev.items_setPlane _ _ _ _ _).trans (hdec.items s), ?_, fun r hr => ?_, ?_, fun hf => ?_⟩
  · rw [Dev.plane_setPlane, hlast]
  · rw [Dev.plane_setPlane_ne _ _ _ _ (.inr hr.symm), hdec.last]
  · rw [Dev.planeNext_setPlane, hnext]
    exact hreach
  · exact (Dev.val_of_regs rfl _).trans (hdec.val hf)

theorem Dev.lineDiscarded_does (hs : s < 64) : (d.lineDiscarded s).on (F.STC_CAMs_FLAG_DISCARD s) = true ∧
    (d.lineDiscarded s).val (F.STC_CAMs_DISCARD_CNT s) = min 0xFFFFFFFF (d.val (F.STC_CAMs_DISCARD_CNT s) + 1) ∧
    (d.lineDiscarded s).stc = d.stc := by
  refine ⟨Dev.on_raise_self _ rfl (by simp [F.STC_CAMs_FLAG_DISCARD]) (flagDiscard_offRows hs).1, ?_, by simp [Dev.lineDiscarded]⟩
  rw [Dev.lineDiscarded, Dev.val_raise_apart _ (Fld.apart_of_ne (by
    simp only [F.STC_CAMs_FLAG_DISCARD, R.STC_CAMs_FLAG, F.STC_CAMs_DISCARD_CNT, R.STC_CAMs_DISCARD_CNT]
    omega)) (discardCnt_offRows hs).1, Dev.val_inc_self _ rfl rfl]

end

/-! ### ITEM_TAKE -/

/-- A fold whose steps over the list's own elements all leave `a` ends at `a`. -/
theorem foldl_fixed_mem {α β : Type} {g : α → β → α} {a : α} : ∀ {l : List β}, (∀ b ∈ l, g a b = a) → l.foldl g a = a
  | [], _ => rfl
  | b :: l, h => by
    rw [List.foldl_cons, h b List.mem_cons_self]
    exact foldl_fixed_mem fun x hx => h x (List.mem_cons_of_mem b hx)

/-- A plane whose last line has no ring slot, or is the one it had, writes nothing to its ring (R146). -/
theorem Work.ringWrite_still {s : Nat} {was : Cam} {w : Work} {p : Nat}
    (h : ∀ l, ((w.dev.cam s).plane p).last = some l → l.slot = none ∨ (was.plane p).last = some l) :
    Work.ringWrite s was w p = w := by
  unfold Work.ringWrite
  dsimp only
  split
  · rfl
  · rename_i l hl
    split
    · rfl
    · rename_i i hi
      rw [if_pos ((h l hl).resolve_left (by simp [hi]))]

section
variable {s : State} {q : Fin 64} {c : Cross} {rest : List Cross}

/-- What ITEM_TAKE does with the stream's oldest crossing, the line that it waits for let run out first (R137). -/
def Dev.oldestTaken (d : Dev) (q : Nat) (c : Cross) : Dev := (if c.rep = .waiting then d.finishRunning q c.k else d).takeItem q

theorem exec_itemTake_stopped (hmode : s.dev.mode ≠ 3) : exec (.itemTake q) s = .next s.quietened := by
  change execItemTake q s = _
  unfold execItemTake
  refine (onWork_congr (g := fun w => w) ?_).trans (onWork_id s)
  exact if_pos hmode

/-- Where no line is new in a ring, ITEM_TAKE works on the block alone. -/
theorem exec_itemTake (hmode : s.dev.mode = 3) (hitems : (s.dev.cam q).items = c :: rest)
    (hring : ∀ p l, (((s.quietened.dev.oldestTaken q c).cam q).plane p).last = some l →
      l.slot = none ∨ ((s.dev.cam q).plane p).last = some l) :
    exec (.itemTake q) s = .next { s with dev := s.quietened.dev.oldestTaken q c } := by
  have hmode' : (Work.begin s).dev.mode = 3 := hmode
  have hitems' : ((Work.begin s).dev.cam q).items = c :: rest := hitems
  change execItemTake q s = _
  unfold execItemTake
  refine (onWork_eq_onDev (g := fun d => d.oldestTaken q c) ?_).trans (onDev_next _ s)
  dsimp only
  rw [if_neg (not_not_intro hmode'), hitems']
  exact List.foldl_fixed' (fun p => Work.ringWrite_still (hring p)) _

/-- No line runs in a front half: nothing is let run out. -/
theorem Dev.finishRunning_none {d : Dev} (q : Nat) (k : Int) (h : ∀ n : Fin 17, (d.front n).running = none) :
    d.finishRunning q k = d := by
  unfold Dev.finishRunning
  refine foldl_fixed_mem fun n hn => ?_
  rw [h ⟨n, List.mem_range.mp hn⟩]

/-- A crossing whose line has not come, and no line running: nothing is taken. -/
theorem exec_itemTake_waiting (hitems : (s.dev.cam q).items = c :: rest) (hrep : c.rep = .waiting)
    (hfront : ∀ n : Fin 17, (s.dev.front n).running = none) : exec (.itemTake q) s = .next s.quietened := by
  by_cases hmode : s.dev.mode = 3
  · have hitems' : (s.quietened.dev.cam q).items = c :: rest := hitems
    have htaken : s.quietened.dev.oldestTaken q c = s.quietened.dev := by
      rw [Dev.oldestTaken, if_pos hrep, Dev.finishRunning_none (d := s.quietened.dev) _ _ hfront, Dev.takeItem, hitems']
      exact if_pos hrep
    rw [exec_itemTake hmode hitems (fun p l hl => .inr (by rwa [htaken] at hl)), htaken]
    rfl
  · exact exec_itemTake_stopped hmode

/-- Plane 0 of a stream of one plane takes the line of the oldest crossing. -/
theorem itemTake_does {l : LineOut} {v : List (Option Nat)} (hmode : s.dev.mode = 3)
    (hitems : (s.dev.cam q).items = c :: rest) (hrep : c.rep = .line l) (hlost : c.lost = []) (hvals : l.planes = [v])
    (hplanes : s.dev.camPlanes q = 1) (hdepth : ((s.dev.cam q).plane 0).depth = 0) :
    ∃ t, exec (.itemTake q) s = .next t ∧ s.sameStores t ∧ (t.dev.cam q).items = rest ∧
      ((∀ a, ((s.dev.cam q).plane 0).last = some a → a.q < (s.dev.placed q l v).q) →
        ((t.dev.cam q).plane 0).last = some (s.dev.placed q l v) ∧
        (s.dev.placed q l v).q ≤ t.dev.planeNext q 0 * (s.dev.gridPitch : Int) ∧
        t.dev.val (F.STC_CAMs_DISCARD_CNT q) = s.dev.val (F.STC_CAMs_DISCARD_CNT q)) ∧
      ((∃ a, ((s.dev.cam q).plane 0).last = some a ∧ (s.dev.placed q l v).q ≤ a.q) →
        ((t.dev.cam q).plane 0).last = ((s.dev.cam q).plane 0).last ∧ t.dev.on (F.STC_CAMs_FLAG_DISCARD q) = true ∧
        t.dev.val (F.STC_CAMs_DISCARD_CNT q) = min 0xFFFFFFFF (s.dev.val (F.STC_CAMs_DISCARD_CNT q) + 1)) := by
  obtain ⟨d, hd⟩ : ∃ d, d = s.quietened.dev.itemRemoved q rest := ⟨_, rfl⟩
  have hplane (r : Nat) : (d.cam q).plane r = (s.dev.cam q).plane r := by
    rw [hd, Dev.itemRemoved_plane]
    rfl
  have hgone : (d.cam q).items = rest := by rw [hd, Dev.itemRemoved, Dev.cam_setCam]
  have hplaced : d.placed q l v = s.dev.placed q l v := by subst hd; rfl
  have hcnt : d.val (F.STC_CAMs_DISCARD_CNT q) = s.dev.val (F.STC_CAMs_DISCARD_CNT q) := by subst hd; rfl
  have hpitch : d.gridPitch = s.dev.gridPitch := by subst hd; rfl
  have hdepth' : ((d.cam q).plane 0).depth = 0 := by rw [hplane, hdepth]
  have htaken : s.quietened.dev.oldestTaken q c = s.quietened.dev.takeItem q := by
    rw [Dev.oldestTaken, if_neg (by simp [hrep])]
  have hdec : (d.takePlane q c 0).Decides (s.quietened.dev.oldestTaken q c) := by
    rw [htaken, hd]
    exact Dev.takeItem_decides hitems (by simp [hrep]) hplanes
  by_cases habove : ∀ a, ((s.dev.cam q).plane 0).last = some a → a.q < (s.dev.placed q l v).q
  · rw [Dev.takePlane_placed hrep hlost hvals hdepth' (by rwa [hplane, hplaced])] at hdec
    obtain ⟨hitems', hlast, hothers, hreach, hval⟩ := Dev.placeLine_does (x := d.placed q l v) hdepth'
    refine ⟨_, exec_itemTake hmode hitems (fun p x hx => ?_), s.sameStores_of_dev _, ?_, fun _ => ⟨?_, ?_, ?_⟩, fun hbelow => ?_⟩
    · rw [hdec.last] at hx
      by_cases hp : p = 0
      · subst hp
        obtain rfl : d.placed q l v = x := by rwa [hlast, Option.some.injEq] at hx
        exact .inl rfl
      · rw [hothers p hp, hplane] at hx
        exact .inr hx
    · rw [hdec.items, hitems', hgone]
    · rw [hdec.last, hlast, hplaced]
    · have hpitch' : (d.placeLine q 0 (d.placed q l v)).gridPitch = s.dev.gridPitch := by
        rw [← hpitch, Dev.gridPitch, Dev.gridPitch, hval gridPitch_offRows]
      rw [hpitch'] at hreach
      rw [← hplaced]
      refine hreach.trans ?_
      gcongr
      exact hdec.next _ _
    · rw [hdec.val (discardCnt_offRows q.isLt), hval (discardCnt_offRows q.isLt), hcnt]
    · obtain ⟨a, ha, hle⟩ := hbelow
      exact absurd (habove a ha) (not_lt.mpr hle)
  · obtain ⟨a, ha, hle⟩ : ∃ a, ((s.dev.cam q).plane 0).last = some a ∧ (s.dev.placed q l v).q ≤ a.q := by
      simpa only [not_forall, not_lt, exists_prop] using habove
    rw [Dev.takePlane_discarded hrep hlost hvals (by rw [hplane, ha]) (by rwa [hplaced])] at hdec
    obtain ⟨hon, hcnt', hstc⟩ := Dev.lineDiscarded_does (d := d) q.isLt
    have hlast (p : Nat) : (((s.quietened.dev.oldestTaken q c).cam q).plane p).last = ((s.dev.cam q).plane p).last := by
      rw [hdec.last, Dev.cam_of_stc hstc, hplane]
    refine ⟨_, exec_itemTake hmode hitems (fun p x hx => ?_), s.sameStores_of_dev _, ?_, fun habove' => ?_, fun _ => ⟨?_, ?_, ?_⟩⟩
    · exact .inr (by rwa [hlast] at hx)
    · rw [hdec.items, Dev.cam_of_stc hstc, hgone]
    · exact absurd habove' habove
    · exact hlast 0
    · rw [Dev.on_congr (hdec.val (flagDiscard_offRows q.isLt)), hon]
    · rw [hdec.val (discardCnt_offRows q.isLt), hcnt', hcnt]

end

/-! ### LATE (R137) -/

/-- `e` is `d` at a later instant, `due` at the latest, with nothing else changed. -/
structure Dev.WaitsTo (due : Nat) (d e : Dev) : Prop where
  touches : d.Touches F.MER_TIME.At e
  pl : e.pl = d.pl
  stc : e.stc = d.stc
  later : d.now ≤ e.now
  due : e.now ≤ max d.now due

theorem Dev.WaitsTo.reach {due : Nat} {d e : Dev} (h : d.WaitsTo due e) {t : Nat} (ht : t ≤ due) : d.WaitsTo due (e.reach t) := by
  obtain ⟨htouch, hpl, hstc, hlater, hdue⟩ := h
  refine ⟨htouch.trans (e.reach_touches t), by rw [Dev.reach_pl, hpl], by rw [Dev.reach_stc, hstc], ?_, ?_⟩
  all_goals
    rw [Dev.reach_now]
    omega

section
variable {d : Dev}

/-- The front halves whose time ends by `due` are let run out. -/
def Dev.frontsRunOut (d : Dev) (due : Nat) : Dev := (List.range 17).foldl (fun d n =>
  if (d.front n).busyTill ≤ due then (d.reach (d.front n).busyTill).frontDone n else d) d

/-- Where no line runs in them, only the clock goes on. -/
theorem Dev.frontsRunOut_waits (due : Nat) (h : ∀ n : Fin 17, (d.front n).running = none) :
    d.WaitsTo due (d.frontsRunOut due) := by
  have hstep : ∀ (l : List Nat) (e : Dev), (∀ n ∈ l, n < 17) → d.WaitsTo due e → d.WaitsTo due (l.foldl (fun d n =>
      if (d.front n).busyTill ≤ due then (d.reach (d.front n).busyTill).frontDone n else d) e) := by
    intro l
    induction l with
    | nil => exact fun _ _ he => he
    | cons n l ih =>
      intro e hl he
      refine ih _ (fun m hm => hl m (List.mem_cons_of_mem n hm)) ?_
      dsimp only
      split
      · rename_i hn
        rw [Dev.frontDone_of_running (.inl (by
          rw [Dev.front, Dev.reach_pl, he.pl]
          exact h ⟨n, hl n List.mem_cons_self⟩))]
        exact he.reach hn
      · exact he
  exact hstep _ d (fun n hn => List.mem_range.mp hn) ⟨.refl _ d, rfl, rfl, le_refl _, le_max_left _ _⟩

/-- A crossing taken as lineless because its line came too late: flagged and counted. -/
def Dev.lateTaken (d : Dev) (q : Nat) (k : Int) : Dev :=
  ((d.lineless q k).raise (F.STC_CAMs_FLAG_LATE q)).inc (F.STC_CAMs_LATE_CNT q)

/-- A flag and a counter of a stream's: the flag reads 1, the counter one more, and no other register changes. -/
theorem Dev.flagged_does {f cnt : Fld} (hq : f.quiet) (hcq : cnt.quiet) (hne : f.addr ≠ cnt.addr) (hlo : f.lo < 32)
    (hlen : f.len = 1 := by rfl) (hcl : cnt.len = 32 := by rfl) (hc0 : cnt.lo = 0 := by rfl)
    (hn : (f.lo + f.len).ble 32 = true := by rfl) (hcn : (cnt.lo + cnt.len).ble 32 = true := by rfl) :
    ((d.raise f).inc cnt).on f = true ∧ ((d.raise f).inc cnt).val cnt = min 0xFFFFFFFF (d.val cnt + 1) ∧
    d.Touches (WordsOf [f, cnt]) ((d.raise f).inc cnt) := by
  refine ⟨?_, ?_, ((Dev.Touches.refl _ d).raise wordsOf_addr hn).inc wordsOf_addr hcn⟩
  · rw [Dev.on_congr (Dev.val_inc_apart _ (Fld.apart_of_ne hne.symm hcn hn)), Dev.on_raise_self _ hlen hlo hq]
  · rw [Dev.val_inc_self _ hcl hc0, Dev.val_raise_apart _ (Fld.apart_of_ne hne hn hcn) hcq]

theorem quiet_cam {f : Fld} {o q : Nat} (h : f.addr = 0x40131000 + o + q * 0x80) (ho : o < 0x80) (hq : q < 64)
    (hn : (f.lo + f.len).ble 32 = true := by rfl) : f.quiet :=
  ⟨evIcu_of_window (w := 0x4013) (by rw [h]; exact stitchReg_cam ho hq) (by decide) (by decide),
    fun hw => absurd (Nat.le_of_ble_eq_true hn) (by omega)⟩

theorem Dev.lateTaken_does {q : Nat} (hq : q < 64) (k : Int) :
    ((d.lateTaken q k).cam q).items = (d.cam q).items.map (fun x => if x.k = k ∧ x.n = 1 then { x with rep := .lineless } else x) ∧
    (d.lateTaken q k).now = d.now ∧ (d.lateTaken q k).on (F.STC_CAMs_FLAG_LATE q) = true ∧
    (d.lateTaken q k).val (F.STC_CAMs_LATE_CNT q) = min 0xFFFFFFFF (d.val (F.STC_CAMs_LATE_CNT q) + 1) ∧
    d.Touches (WordsOf [F.STC_CAMs_FLAG_LATE q, F.STC_CAMs_LATE_CNT q]) (d.lateTaken q k) := by
  have hne : R.STC_CAMs_FLAG q ≠ R.STC_CAMs_LATE_CNT q := by
    simp only [R.STC_CAMs_FLAG, R.STC_CAMs_LATE_CNT]
    omega
  obtain ⟨hon, hcnt, htouch⟩ := Dev.flagged_does (d := d.lineless q k) (f := F.STC_CAMs_FLAG_LATE q)
    (cnt := F.STC_CAMs_LATE_CNT q) (quiet_cam (o := 8) rfl (by decide) hq) (quiet_cam (o := 0x44) rfl (by decide) hq) hne
    (by simp [F.STC_CAMs_FLAG_LATE])
  refine ⟨?_, ?_, hon, hcnt, ?_⟩
  · rw [Dev.lateTaken, Dev.cam_of_stc (Dev.inc_stc _ _), Dev.cam_of_stc (Dev.raise_stc _ _), Dev.lineless, Dev.cam_setCam]
  · simp [Dev.lateTaken, Dev.lineless]
  · exact (Dev.Touches.of_regs (d := d) (e := d.lineless q k) rfl rfl rfl).trans htouch

end

/-- The oldest crossing of a stream whose line has not arrived. -/
def Dev.lineMissing (d : Dev) (q : Nat) : Option Cross := (d.cam q).items.find? (fun c => c.rep == .waiting)

theorem exec_late {s : State} {q : Fin 64} {c : Cross} {due : Nat} (hdue : due = c.eff + s.quietened.dev.rowWait)
    (hwait : s.quietened.dev.lineMissing q = some c) (hstill : ((s.quietened.dev.frontsRunOut due).reach due).lineMissing q = some c) :
    exec (.late q) s = .next { s with dev := ((s.quietened.dev.frontsRunOut due).reach due).lateTaken q c.k } := by
  unfold Dev.lineMissing at hwait hstill
  change execLate q s = _
  unfold execLate
  rw [onDev_next]
  dsimp only
  rw [hwait]
  dsimp only
  rw [← hdue]
  exact congrArg (fun d => Host.Outcome.next { s with dev := d }) (if_pos hstill)

/-- The oldest crossing whose line has not arrived is taken as lineless once the clock has reached its instant. -/
theorem late_does {s : State} {q : Fin 64} {c : Cross} (hwait : s.dev.lineMissing q = some c)
    (hfront : ∀ n : Fin 17, (s.dev.front n).running = none) :
    ∃ e, exec (.late q) s = .next { s with dev := e.lateTaken q c.k } ∧ e.stc = s.dev.stc ∧
      e.now = max s.dev.now (c.eff + s.dev.rowWait) ∧ s.dev.Touches F.MER_TIME.At e := by
  obtain ⟨due, hdue⟩ : ∃ due, due = c.eff + s.quietened.dev.rowWait := ⟨_, rfl⟩
  obtain ⟨htouch, -, hstc, hlater, hmax⟩ := Dev.frontsRunOut_waits (d := s.quietened.dev) due hfront
  have hstc' : ((s.quietened.dev.frontsRunOut due).reach due).stc = s.dev.stc := by
    rw [Dev.reach_stc, hstc]
    rfl
  refine ⟨_, exec_late hdue hwait ?_, hstc', ?_, ?_⟩
  · rw [Dev.lineMissing, Dev.cam_of_stc hstc']
    exact hwait
  · have hlater' : s.dev.now ≤ (s.quietened.dev.frontsRunOut due).now := hlater
    have hmax' : (s.quietened.dev.frontsRunOut due).now ≤ max s.dev.now due := hmax
    have hdue' : due = c.eff + s.dev.rowWait := hdue
    rw [Dev.reach_now, ← hdue']
    omega
  · exact (Dev.Touches.of_regs (d := s.dev) (e := s.quietened.dev) rfl rfl rfl).trans (htouch.trans (Dev.reach_touches _ _))

/-! ### STAGGER_WRITE_TIMEOUT (R147) -/

theorem exec_staggerWriteTimeout {s : State} {q : Fin 64} {p : Fin 4} {c : Cross} {rest : List Cross} {l : LineOut}
    (hitems : (s.dev.cam q).items = c :: rest) (hrep : c.rep = .line l) (hdepth : ((s.dev.cam q).plane p).depth ≠ 0)
    (hlost : p.val ∉ c.lost) : exec (.staggerWriteTimeout q p) s = .next { s with dev :=
      (s.quietened.dev.itemRemoved q ({ c with lost := c.lost ++ [p.val] } :: rest)).stgOvf q } := by
  have hitems' : (s.quietened.dev.cam q).items = c :: rest := hitems
  have hdepth' : ((s.quietened.dev.cam q).plane p).depth ≠ 0 := hdepth
  change execStaggerWriteTimeout q p s = _
  unfold execStaggerWriteTimeout
  rw [onDev_next]
  dsimp only
  rw [hitems']
  dsimp only
  rw [hrep, if_neg (by simp [hdepth', hlost])]
  rfl

theorem Dev.stgOvf_does (d : Dev) {q : Nat} (hq : q < 64) : (d.stgOvf q).on (F.STC_CAMs_FLAG_STG_OVF q) = true ∧
    (d.stgOvf q).val (F.STC_CAMs_STG_OVF_CNT q) = min 0xFFFFFFFF (d.val (F.STC_CAMs_STG_OVF_CNT q) + 1) ∧
    d.Touches (WordsOf [F.STC_CAMs_FLAG_STG_OVF q, F.STC_CAMs_STG_OVF_CNT q]) (d.stgOvf q) ∧ (d.stgOvf q).stc = d.stc := by
  have hne : R.STC_CAMs_FLAG q ≠ R.STC_CAMs_STG_OVF_CNT q := by
    simp only [R.STC_CAMs_FLAG, R.STC_CAMs_STG_OVF_CNT]
    omega
  obtain ⟨hon, hcnt, htouch⟩ := Dev.flagged_does (d := d) (f := F.STC_CAMs_FLAG_STG_OVF q)
    (cnt := F.STC_CAMs_STG_OVF_CNT q) (quiet_cam (o := 8) rfl (by decide) hq) (quiet_cam (o := 0x48) rfl (by decide) hq) hne
    (by simp [F.STC_CAMs_FLAG_STG_OVF])
  exact ⟨hon, hcnt, htouch, by simp [Dev.stgOvf]⟩

/-- Settles O34: taking a line decides the rows below it and no more, and what follows keeps every last line; LATE lets the
clock go on where no line runs; a timeout changes one crossing. -/
theorem itemsAreTakenInOrder : Obligations.ItemsAreTakenInOrder := by
  intro s q d cam
  refine ⟨exec_itemTake_stopped, fun c rest hitems hrep hfront => exec_itemTake_waiting hitems hrep hfront,
    fun c rest l v hmode hitems hrep hlost hvals hplanes hdepth => itemTake_does hmode hitems hrep hlost hvals hplanes hdepth,
    fun c hwait _ hfront => ?late, fun c rest l p hitems hrep hdepth hlost => ?timeout⟩
  case late =>
    obtain ⟨e, hexec, hstc, hnow, htime⟩ := late_does hwait hfront
    obtain ⟨hitems, hnow', hon, hcnt, htouch⟩ := Dev.lateTaken_does (d := e) q.isLt c.k
    refine ⟨_, hexec, s.sameStores_of_dev _, ?_, hnow'.trans hnow, hon, ?_, Dev.Touches.sameRegs ((htime.mono fun a ha => ?_).trans
      (htouch.mono fun a ⟨f, hf, hat⟩ => ?_))⟩
    · rw [hitems, Dev.cam_of_stc hstc]
    · rw [hcnt, htime.keeps_val (fun a hat => ?_) (quiet_cam (o := 0x44) rfl (by decide) q.isLt)]
      rw [at_narrow hat]
      simp only [Fld.At, F.MER_TIME, R.MER_TIME, F.STC_CAMs_LATE_CNT, R.STC_CAMs_LATE_CNT]
      omega
    · exact ⟨F.MER_TIME, by simp, ha⟩
    · exact ⟨f, by simp only [List.mem_cons, List.not_mem_nil, or_false] at hf ⊢; tauto, hat⟩
  case timeout =>
    obtain ⟨hon, hcnt, htouch, hstc⟩ := Dev.stgOvf_does
      (s.quietened.dev.itemRemoved q ({ c with lost := c.lost ++ [p.val] } :: rest)) q.isLt
    refine ⟨_, exec_staggerWriteTimeout hitems hrep hdepth hlost, s.sameStores_of_dev _, ?_, hon, hcnt, htouch.sameRegs⟩
    rw [Dev.cam_of_stc hstc, Dev.itemRemoved, Dev.cam_setCam]

end Sys2Proof.Machine
end

/-! PROOFS. StitchTablesAreWritten (R155, R156). -/
section
-- One lemma at a time: elaborated side by side they take more threads than the check's memory limit leaves room for.
set_option Elab.async false
namespace Sys2Proof.Machine

section
variable (d : Dev)

/-- The stream whose residual banks STC_TBL_DATA reaches. -/
def Dev.stcStream : Nat := d.val F.STC_TBL_STREAM % 64

/-- The entry of the next access of STC_TBL_DATA. -/
def Dev.stcIdx : Nat := d.val F.STC_TBL_IDX % 2048

/-- The stream's active residual bank. -/
def Dev.stcBank : Nat := d.val (F.STC_CAMs_STAT_RES_BANK d.stcStream)

/-- STC_TBL_IDX moved on from entry `i`. -/
def Dev.stcNext (i : Nat) : Dev := d.put F.STC_TBL_IDX ((i + 1) % 2048)

theorem Dev.stcNext_idx (i : Nat) : (d.stcNext i).val F.STC_TBL_IDX = (i + 1) % 2048 :=
  (Dev.val_put_self _ (by decide) _).trans (Nat.mod_mod _ _)

theorem Dev.stcNext_cam (i q : Nat) : (d.stcNext i).cam q = d.cam q := Dev.cam_of_stc (Dev.put_stc _ _ _) q

/-- A field of another register than STC_TBL_IDX stands as the index moves on. -/
theorem Dev.stcNext_keeps (i : Nat) {f : Fld} (h : R.STC_TBL_IDX ≠ f.addr) (hf : (f.lo + f.len).ble 32 = true := by rfl) :
    (d.stcNext i).val f = d.val f := Dev.val_put_apart _ (f := F.STC_TBL_IDX) (Fld.apart_of_ne h rfl hf) _

theorem Dev.Touches.stcNext {W : Nat → Prop} {d e : Dev} (h : d.Touches W e) (hW : W R.STC_TBL_IDX) (i : Nat) :
    d.Touches W (e.stcNext i) := h.put (f := F.STC_TBL_IDX) hW _

/-- A change beside the registers, and the index that moves on. -/
theorem Dev.stcNext_frame {e : Dev} (h : d.Touches (WordsOf [F.STC_TBL_IDX]) e) (i : Nat) :
    d.sameRegsBut (e.stcNext i) [F.STC_TBL_IDX] := (h.stcNext (wordsOf_addr (f := F.STC_TBL_IDX)) i).sameRegs

variable {d}

/-! ### Reads -/

/-- The block that has answered a read with an entry of a residual table. -/
def Dev.stcAnswered (d : Dev) (key : Nat) : Dev :=
  { d with rdata := BitVec.ofNat 32 (tabGet 0 (d.cam d.stcStream).resid key) }

theorem Dev.stcTblAccess_read_idle (hi : d.stcIdx ≤ 512) :
    d.stcTblAccess none = (d.stcAnswered ((1 - d.stcBank) * 1024 + d.stcIdx)).stcNext d.stcIdx := by
  unfold Dev.stcIdx at *
  simp only [Dev.stcTblAccess, hi, if_true, decide_true, Bool.true_or]
  rfl

theorem Dev.stcTblAccess_read_active (h1 : 1024 ≤ d.stcIdx) (h2 : d.stcIdx ≤ 1536) :
    d.stcTblAccess none = (d.stcAnswered (d.stcBank * 1024 + (d.stcIdx - 1024))).stcNext d.stcIdx := by
  have h512 : ¬ d.stcIdx ≤ 512 := by omega
  unfold Dev.stcIdx at *
  simp only [Dev.stcTblAccess, h512, h1, h2, if_false, if_true, decide_true, decide_false, Bool.false_or, Bool.and_true]
  rfl

theorem Dev.stcAnswered_does (key i q : Nat) :
    ((d.stcAnswered key).stcNext i).rdata.toNat = tabGet 0 (d.cam d.stcStream).resid key % 2 ^ 32 ∧
    ((d.stcAnswered key).stcNext i).val F.STC_TBL_IDX = (i + 1) % 2048 ∧
    ((d.stcAnswered key).stcNext i).cam q = d.cam q ∧
    d.sameRegsBut ((d.stcAnswered key).stcNext i) [F.STC_TBL_IDX] := by
  refine ⟨?_, Dev.stcNext_idx _ _, Dev.stcNext_cam _ _ _, Dev.stcNext_frame _ (.of_regs rfl rfl rfl) _⟩
  rw [Dev.stcNext, Dev.put_rdata]
  exact BitVec.toNat_ofNat _ _

/-! ### Writes -/

/-- The stream with an entry of its residual tables written. -/
def Dev.stcWritten (d : Dev) (key : Nat) (v : Word) : Dev :=
  d.setCam d.stcStream { d.cam d.stcStream with resid := tabSet 0 (d.cam d.stcStream).resid key (v.toNat % 65536) }

/-- A write at 0 to 512 changes the idle bank's entry. -/
theorem Dev.stcTblAccess_write_idle (v : Word) (hi : d.stcIdx ≤ 512) :
    d.stcTblAccess (some v) = (d.stcWritten ((1 - d.stcBank) * 1024 + d.stcIdx) v).stcNext d.stcIdx := by
  have h1024 : ¬ 1024 ≤ d.stcIdx := by omega
  unfold Dev.stcIdx at *
  simp only [Dev.stcTblAccess, hi, h1024, if_true, decide_true, decide_false, Bool.true_or, Bool.false_and, Bool.false_eq_true,
    if_false]
  rfl

/-- A write at 1,024 to 1,536 is an access error. -/
theorem Dev.stcTblAccess_write_active (v : Word) (h1 : 1024 ≤ d.stcIdx) (h2 : d.stcIdx ≤ 1536) :
    d.stcTblAccess (some v) = (d.accessErr R.STC_TBL_DATA).stcNext d.stcIdx := by
  unfold Dev.stcIdx at *
  simp only [Dev.stcTblAccess, h1, h2, decide_true, Bool.and_true, if_true]
  rfl

theorem Dev.stcWritten_does (key i : Nat) (v : Word) :
    (∀ k, tabGet 0 (((d.stcWritten key v).stcNext i).cam d.stcStream).resid k =
      if k = key then v.toNat % 65536 else tabGet 0 (d.cam d.stcStream).resid k) ∧
    ((d.stcWritten key v).stcNext i).val F.STC_TBL_IDX = (i + 1) % 2048 ∧
    d.sameRegsBut ((d.stcWritten key v).stcNext i) [F.STC_TBL_IDX] := by
  refine ⟨fun k => ?_, Dev.stcNext_idx _ _, Dev.stcNext_frame _ (.of_regs rfl rfl rfl) _⟩
  rw [Dev.stcNext_cam, Dev.stcWritten, Dev.cam_setCam]
  exact tabGet_tabSet ..

theorem Dev.stcRefused_does (i q : Nat) :
    ((d.accessErr R.STC_TBL_DATA).stcNext i).cam q = d.cam q ∧
    ((d.accessErr R.STC_TBL_DATA).stcNext i).on F.SYS_FLAG_ACCESS_ERR = true ∧
    ((d.accessErr R.STC_TBL_DATA).stcNext i).val F.SYS_ERR_ADDR = R.STC_TBL_DATA ∧
    ((d.accessErr R.STC_TBL_DATA).stcNext i).val F.STC_TBL_IDX = (i + 1) % 2048 ∧
    d.sameRegsBut ((d.accessErr R.STC_TBL_DATA).stcNext i)
      [F.STC_TBL_IDX, F.SYS_FLAG_ACCESS_ERR, F.SYS_ERR_ADDR, F.SYS_ACCESS_CNT] := by
  obtain ⟨hon, haddr, -, -⟩ := d.accessErr_does R.STC_TBL_DATA (by decide)
  refine ⟨?_, ?_, ?_, Dev.stcNext_idx _ _, Dev.Touches.sameRegs (Dev.Touches.stcNext (.accessErr (.refl _ d) ?_ ?_ ?_ _) ?_ _)⟩
  · rw [Dev.stcNext_cam, Dev.cam_of_stc (Dev.accessErr_stc _ _)]
  · rw [Dev.on_congr (Dev.stcNext_keeps _ i (f := F.SYS_FLAG_ACCESS_ERR) (by decide)), hon]
  · rw [Dev.stcNext_keeps _ i (f := F.SYS_ERR_ADDR) (by decide), haddr]
  · exact wordsOf_addr (f := F.SYS_FLAG_ACCESS_ERR)
  · exact wordsOf_addr (f := F.SYS_ERR_ADDR)
  · exact wordsOf_addr (f := F.SYS_ACCESS_CNT)
  · exact wordsOf_addr (f := F.STC_TBL_IDX)

end

/-! ### The commands -/

theorem exec_ovlWrite (q : Fin 64) (along : Bool) (v : Word) (s : State) :
    exec (.ovlWrite q along v) s = .next { s with dev := s.quietened.dev.ovlWrite q along v } := rfl

theorem exec_resSwap (q : Fin 64) (s : State) :
    exec (.resSwap q) s = .next { s with dev := s.quietened.dev.resSwap q } := rfl

theorem exec_stcTblDataAccess (w : Option Word) (s : State) :
    exec (.stcTblDataAccess w) s = .next { s with dev := s.quietened.dev.stcTblAccess w } := rfl

/-- Settles O36: each range of the index is one equation of the access, and the index moves on in all of them. -/
theorem stitchTablesAreWritten : Obligations.StitchTablesAreWritten := by
  intro s q v along d r u i act
  have hread := exec_stcTblDataAccess none s
  have hwrite := exec_stcTblDataAccess (some v) s
  refine ⟨?ovl, ?swap, fun hi => ⟨?readIdle, ?writeIdle⟩, fun h1 h2 => ⟨?readActive, ?writeActive⟩⟩
  case ovl =>
    exact ⟨_, exec_ovlWrite q along v s, s.sameStores_of_dev _, Dev.reg_setReg_self _ _ _,
      fun a ha => Dev.reg_setReg_ne _ (Ne.symm ha) v⟩
  case swap =>
    exact ⟨_, exec_resSwap q s, s.sameStores_of_dev _, Dev.cam_setCam _ _ _, fun _ _ _ => rfl⟩
  case readIdle =>
    rw [Dev.stcTblAccess_read_idle (d := s.quietened.dev) hi] at hread
    exact ⟨_, hread, s.sameStores_of_dev _, Dev.stcAnswered_does _ _ _⟩
  case writeIdle =>
    rw [Dev.stcTblAccess_write_idle (d := s.quietened.dev) v hi] at hwrite
    exact ⟨_, hwrite, s.sameStores_of_dev _, Dev.stcWritten_does _ _ _⟩
  case readActive =>
    rw [Dev.stcTblAccess_read_active (d := s.quietened.dev) h1 h2] at hread
    obtain ⟨hdata, hidx, -, hregs⟩ := Dev.stcAnswered_does (d := s.quietened.dev)
      (s.quietened.dev.stcBank * 1024 + (s.quietened.dev.stcIdx - 1024)) s.quietened.dev.stcIdx u
    exact ⟨_, hread, s.sameStores_of_dev _, hdata, hidx, hregs⟩
  case writeActive =>
    rw [Dev.stcTblAccess_write_active (d := s.quietened.dev) v h1 h2] at hwrite
    exact ⟨_, hwrite, s.sameStores_of_dev _, Dev.stcRefused_does _ _⟩

end Sys2Proof.Machine
end

/-! PROOFS. Which registers a Chart row writes: those from the Reckoner's on (R143 to R156, R165, R166, R181). -/
section
-- One lemma at a time: elaborated side by side they take more threads than the check's memory limit leaves room for.
set_option Elab.async false
namespace Sys2Proof.Machine

namespace Dev.Touches

variable {W : Nat → Prop} {d e : Dev} {s p : Nat} {k : Int}

theorem setReg (h : d.Touches W e) {a : Nat} (hW : W a) (x : Word) : d.Touches W (e.setReg a x) :=
  h.trans (.of_regsEvt (e.regsEvt_setReg a x) fun _ hb _ => Dev.reg_setReg_ne _ (by rintro rfl; exact hb hW) x)

theorem setCam (h : d.Touches W e) (s : Nat) (x : Cam) : d.Touches W (e.setCam s x) := h.trans (.of_regs rfl rfl rfl)

theorem setPlane (h : d.Touches W e) (s p : Nat) (x : Plane) : d.Touches W (e.setPlane s p x) := h.trans (.of_regs rfl rfl rfl)

theorem setSlice (h : d.Touches W e) (s : Nat) (x : Slice) : d.Touches W (e.setSlice s x) := h.trans (.of_regs rfl rfl rfl)

/-! ### Rows read back (R140, R146, R147) -/

theorem rowCount (h : d.Touches PipeReg e) (kind : Nat) : d.Touches PipeReg (e.rowCount s kind) := by
  unfold Dev.rowCount
  split
  · exact h.inc (f := F.STC_CAMs_NEAREST_CNT s) pipeReg_one
  · split
    · exact (h.inc (f := F.STC_CAMs_STALE_CNT s) pipeReg_one).raise (f := F.STC_CAMs_FLAG_STALE s) pipeReg_one
    · split
      · exact (h.inc (f := F.STC_CAMs_MISSING_CNT s) pipeReg_one).raise (f := F.STC_CAMs_FLAG_MISSING s) pipeReg_one
      · exact h

theorem takeRow (h : d.Touches PipeReg e) (a b : Option Placed) : d.Touches PipeReg (e.takeRow s p k a b) :=
  (h.setPlane s p _).rowCount _

theorem lateRead (h : d.Touches PipeReg e) (i : Nat) : d.Touches PipeReg (e.lateRead k i) :=
  .ite h (((h.takeRow _ _).raise (f := F.STC_CAMs_FLAG_STG_OVF (i / 4)) pipeReg_one).inc (f := F.STC_CAMs_STG_OVF_CNT (i / 4))
    pipeReg_one)

/-! ### The TILE hand-over (R153 to R156, R181) -/

theorem applyStep (h : d.Touches PipeReg e) (x : RefStep) : d.Touches PipeReg (e.applyStep s x) :=
  (((((h.put (f := F.STC_CAMs_OFFSET_SH s) pipeReg_one _).put (f := F.STC_CAMs_OFFSET_ACT s) pipeReg_one _).put
    (f := F.STC_CAMs_ALONG_SH s) pipeReg_one _).put (f := F.STC_CAMs_ALONG_ACT s) pipeReg_one _).put
    (f := F.STC_CAMs_OVL_ACROSS s) pipeReg_one _).put (f := F.STC_CAMs_OVL_ALONG s) pipeReg_one _

theorem camTile (h : d.Touches PipeReg e) (t : Nat) : d.Touches PipeReg (e.camTile s t) := by
  unfold Dev.camTile
  extract_lets due _ e1 e2 e3 e4 e5
  have h1 : d.Touches PipeReg e1 := .ite h (h.setCam s _)
  have h4 : d.Touches PipeReg e4 := ((h1.setReg (a := R.STC_CAMs_OFFSET_ACT s) pipeReg_one _).setReg
    (a := R.STC_CAMs_SCALE_ACT s) pipeReg_one _).setReg (a := R.STC_CAMs_ALONG_ACT s) pipeReg_one _
  have h5 : d.Touches PipeReg e5 := .ite ((h4.mark (f := F.STC_CAMs_STAT_SHADOW_PEND s) pipeReg_one false).raiseIf
    (f := F.STC_CAMs_FLAG_REFINE_LOST s) pipeReg_one _) (.foldl _ due h1 fun x _ c => (refl _ c).applyStep x)
  exact .ite ((h5.setCam s _).put (f := F.STC_CAMs_STAT_RES_BANK s) pipeReg_one _) h5

theorem stcTile (h : d.Touches PipeReg e) (k : Int) : d.Touches PipeReg (e.stcTile k).1 := by
  unfold Dev.stcTile
  extract_lets t e1
  split
  · exact h
  · have h1 : d.Touches PipeReg e1 := .foldl _ _ h fun s _ c => (refl _ c).camTile t
    exact h1.trans (.of_regs rfl rfl rfl)

theorem treeTile (h : d.Touches PipeReg e) (k : Int) : d.Touches PipeReg (e.treeTile k) := by
  unfold Dev.treeTile
  extract_lets act e1 e2
  have h2 : d.Touches PipeReg e2 := (((h.setReg (a := R.SEG_TREE_ACT) pipeReg_block _).setReg (a := R.SEG_TREE_IDLE)
    pipeReg_block _).mark (f := F.SEG_STAT_SWAP_PEND) pipeReg_block false).put (f := F.SEG_STAT_TREE_BANK) pipeReg_block _
  exact .ite h (h2.trans (.of_regs rfl rfl rfl))

theorem chartTile (h : d.Touches PipeReg e) (k : Int) : d.Touches PipeReg (e.chartTile k) :=
  .ite ((h.stcTile k).treeTile k) (h.stcTile k)

/-! ### The stitch and its refinement (R148 to R155) -/

theorem measure (h : d.Touches PipeReg e) (b t : Nat) : d.Touches PipeReg (e.measure b t) := by
  have hskip {e : Dev} (h : d.Touches PipeReg e) :
      d.Touches PipeReg ((e.raise (F.STC_CAMs_FLAG_REFINE_SKIP b)).inc (F.STC_CAMs_REFINE_SKIP_CNT b)) :=
    (h.raise (f := F.STC_CAMs_FLAG_REFINE_SKIP b) pipeReg_one).inc (f := F.STC_CAMs_REFINE_SKIP_CNT b) pipeReg_one
  have h1 := h.setCam b { e.cam b with refine := { last := (e.cam b).refine.last } }
  unfold Dev.measure
  dsimp only
  refine .ite h1 (.ite (hskip h1) (.ite ((hskip h1).raise (f := F.STC_CAMs_FLAG_REFINE_RANGE b) pipeReg_one)
    (.ite h1 (setCam ?_ b _))))
  exact ((h1.put (f := F.STC_CAMs_OVL_ACROSS b) pipeReg_one _).put (f := F.STC_CAMs_OVL_ALONG b) pipeReg_one _).inc
    (f := F.STC_CAMs_REFINE_CNT b) pipeReg_one

theorem refineRow (h : d.Touches PipeReg e) (k : Int) (rows : List (CamRow × List (Nat × Nat))) :
    d.Touches PipeReg (e.refineRow k rows) := by
  refine .foldl _ rows h fun rb _ c => ?_
  dsimp only
  split
  · exact .refl _ c
  · exact .ite (.ite (.refl _ c) ((refl _ c).setCam _ _)) (.ite (((refl _ c).setCam _ _).measure _ _) ((refl _ c).setCam _ _))

theorem stitch (h : d.Touches PipeReg e) (k : Int) : d.Touches PipeReg (e.stitch k).1 := by
  refine refineRow (.foldl _ _ h fun r _ c => ?_) k _
  exact .ite (((refl _ c).raise (f := F.STC_CAMs_FLAG_CLAMP r.1.s) pipeReg_one).bump (f := F.STC_CAMs_CLAMP_CNT r.1.s)
    pipeReg_one _) (.refl _ c)

/-! ### The slices (R165, R166, R174) -/

theorem placeRow (h : d.Touches PipeReg e) (s : Nat) (x : Placement) (row : ChartRow) :
    d.Touches PipeReg (e.placeRow s x row).1 := by
  unfold Dev.placeRow
  split
  · exact h
  · exact ((h.raise (f := F.SEG_Ss_FLAG_ROW_SKIP s) pipeReg_one).inc (f := F.SEG_Ss_ROW_SKIP_CNT s) pipeReg_one).trans
      (.of_regs rfl rfl rfl)

theorem sliceShow (h : d.Touches PipeReg e) (s : Nat) : d.Touches PipeReg (e.sliceShow s) :=
  h.put (f := F.SEG_Ss_STAT_FIFO s) pipeReg_one _

theorem deliver (h : d.Touches PipeReg e) (row : ChartRow) (s : Nat) : d.Touches PipeReg (e.deliver row s) := by
  unfold Dev.deliver
  dsimp only
  split
  · exact .ite (((h.placeRow s _ row).setSlice s _).sliceShow s) (((h.placeRow s _ row).setSlice s _).sliceShow s)
  · exact ((h.placeRow s _ row).setSlice s _).sliceShow s

theorem segRow (h : d.Touches PipeReg e) (row : ChartRow) : d.Touches PipeReg (e.segRow row) :=
  .ite (.foldl _ _ (h.trans (.of_regs rfl rfl rfl)) fun s _ c => (refl _ c).deliver row s) (h.trans (.of_regs rfl rfl rfl))

theorem dropRows (h : d.Touches PipeReg e) (k : Int) : d.Touches PipeReg (e.dropRows k) :=
  .foldl _ _ h fun s _ c => (refl _ c).setCam s _

theorem chartRow (h : d.Touches PipeReg e) (k : Int) (late : List Nat) : d.Touches PipeReg (e.chartRow k late).1 := by
  have h1 : d.Touches PipeReg (late.foldl (fun d i => d.lateRead k i) e) := .foldl _ late h fun i _ c => (refl _ c).lateRead i
  have h2 := ((h1.chartTile k).stitch k).putWide (f := F.STC_ROW) pipeReg_block pipeReg_block (fromSigned 64 k)
  unfold Dev.chartRow
  extract_lets e1 r e2
  have h3 : d.Touches PipeReg { e2 with stc := { e2.stc with nextRow := some (k + 1) } } := h2.trans (.of_regs rfl rfl rfl)
  exact (h3.dropRows k).segRow _

end Dev.Touches

end Sys2Proof.Machine
end

/-! PROOFS. ChartRowsReachTheSlices (R143, R146, R210). -/
section
-- One lemma at a time: elaborated side by side they take more threads than the check's memory limit leaves room for.
set_option Elab.async false
namespace Sys2Proof.Machine

/-! ### A ring read with requests waiting at the controller (R146, R235 to R240) -/

/-- `v` is `w` after accesses of DRAM that have counted at the controller and carried out requests that waited there. -/
structure Work.Serves (w v : Work) : Prop where
  touches : w.dev.Touches DrcReg v.dev
  pend : ∀ r ∈ v.dev.drc.pend, r ∈ w.dev.drc.pend

namespace Work.Serves

variable {u v w : Work}

theorem refl (w : Work) : w.Serves w := ⟨.refl _ _, fun _ h => h⟩

theorem trans (h : u.Serves v) (g : v.Serves w) : u.Serves w :=
  ⟨h.touches.trans g.touches, fun r hr => h.pend r (g.pend r hr)⟩

theorem counted (h : u.Serves v) {e : Dev} (g : v.dev.Counted e) (he : w.dev = e) : u.Serves w := by
  obtain ⟨htouch, hpend⟩ := g
  subst he
  exact h.trans ⟨htouch, fun r hr => hpend ▸ hr⟩

/-- A change of what the controller holds that adds no request. -/
theorem drc (h : u.Serves v) {f : Dev → DrcSt} (hf : ∀ r ∈ (f v.dev).pend, r ∈ v.dev.drc.pend) :
    u.Serves (v.on fun d => { d with drc := f d }) := h.trans ⟨.of_regs rfl rfl rfl, hf⟩

end Work.Serves

theorem Dev.counted_addrErr (d : Dev) : d.Counted d.addrErr :=
  ⟨((Dev.Touches.refl _ d).raise (f := F.DRC_FLAG_ADDR_ERR) ⟨rfl, by decide⟩).inc (f := F.DRC_ADDR_ERR_CNT) ⟨rfl, by decide⟩,
    by simp [Dev.addrErr]⟩

/-- A request whose check bits are good is carried out. -/
theorem Work.dramDo_serves (w : Work) {r : DramReq} (hr : r.ecc = .good) : w.Serves (w.dramDo r) := by
  have hbeyond (x : Dev → Option (Nat × List Byte × List Nat)) :
      w.Serves (w.on fun d => Dev.addrErr { d with drc := { d.drc with got := x d } }) :=
    ((Work.Serves.refl w).drc (f := fun d => { d.drc with got := x d }) fun _ h => h).counted (Dev.counted_addrErr _) rfl
  unfold Work.dramDo
  dsimp only
  split
  · exact hbeyond _
  · rename_i ch _
    have hact : w.Serves (w.on fun d => d.act ch r.addr) := (Work.Serves.refl w).counted (w.dev.counted_act ch r.addr) rfl
    rw [hr]
    split
    · exact hbeyond _
    · split
      · exact hact.counted (.refl _) rfl
      · exact hact.drc fun _ h => h

theorem mem_of_mem_dropFirst {r x : DramReq} : ∀ {l : List DramReq}, x ∈ dropFirst r l → x ∈ l
  | y :: l, h => by
    unfold dropFirst at h
    split at h
    · exact List.mem_cons_of_mem y h
    · obtain rfl | h := List.mem_cons.mp h
      · exact List.mem_cons_self
      · exact List.mem_cons_of_mem y (mem_of_mem_dropFirst h)

/-- The requests for a granule go first. -/
theorem Work.dramBefore_serves (g : Nat) : ∀ (n : Nat) (w : Work), (∀ r ∈ w.dev.drc.pend, r.ecc = .good) →
    w.Serves (Work.dramBefore g n w)
  | 0, w, _ => .refl w
  | n + 1, w, hgood => by
    unfold Work.dramBefore
    split
    · exact .refl w
    · rename_i r hr
      have hdrop : w.Serves (w.on fun d => { d with drc := { d.drc with pend := dropFirst r d.drc.pend } }) :=
        (Work.Serves.refl w).drc fun _ h => mem_of_mem_dropFirst h
      have hdone := hdrop.trans (Work.dramDo_serves _ (hgood r (List.mem_of_find?_eq_some hr)))
      exact hdone.trans (Work.dramBefore_serves g n _ fun x hx => hgood x (hdone.pend x hx))

theorem Work.dramOne_serves (w : Work) (hgood : ∀ r ∈ w.dev.drc.pend, r.ecc = .good) (g : Nat) :
    w.Serves (w.dramOne g .good) := by
  unfold Work.dramOne
  split
  · exact .refl w
  · exact (Work.dramBefore_serves g _ w hgood).counted (Dev.counted_act _ _ _) rfl

theorem Work.dramEach_serves : ∀ (gs : List Nat) (w : Work), (∀ r ∈ w.dev.drc.pend, r.ecc = .good) →
    w.Serves (Work.dramEach .good gs w)
  | [], w, _ => .refl w
  | g :: gs, w, hgood =>
    have hone := w.dramOne_serves hgood g
    hone.trans (Work.dramEach_serves gs _ fun r hr => hgood r (hone.pend r hr))

/-- A read while no speed change runs, every request that waits with good check bits. -/
theorem Work.load_serves {w : Work} {a n : Nat} (hbusy : w.dev.on F.DRC_STAT_FC_BUSY = false)
    (hgood : ∀ r ∈ w.dev.drc.pend, r.ecc = .good) (hin : w.dev.beyond a n = false) : w.Serves (w.load a n).1 := by
  have hwait : Work.dramWait 2 w = w := by
    unfold Work.dramWait
    rw [hbusy]
    rfl
  unfold Work.load Work.loadEcc Work.touch
  simp only [hin, Bool.false_eq_true, if_false, Bool.false_and, List.filter_false, Work.dramEach, hwait]
  split
  · split
    · exact .refl w
    · exact (Work.dramEach_serves _ w hgood).counted (Dev.counted_urgShow _) rfl
  · exact .refl w

/-- A line read back from its ring slot: what the read touches, and the plane. -/
theorem Work.ringLine_touches {w : Work} {s p i : Nat} {l : Placed} {W : Nat → Prop} (hslot : l.slot = some i)
    (hload : w.dev.Touches W
      (w.load (w.dev.ringAddr ((w.dev.cam s).plane p) i) (min ((w.dev.cam s).plane p).width (2 * l.vals.length))).1.dev) :
    w.dev.Touches W (w.ringLine s p (some l)).1.dev := by
  unfold Work.ringLine
  simp only [hslot]
  split
  · exact .refl W _
  · exact hload.setPlane s p _

/-- A row whose value comes from one line alone, read back from its ring. -/
theorem Work.ringRow_touches {w : Work} {k : Int} {s p : Nat} {r : PlaneRow} {W : Nat → Prop} (hW : ∀ a, PipeReg a → W a)
    (hrow : ((w.dev.cam s).plane p).rows.find? (fun r => r.k == k) = some r) (hafter : r.after = none)
    (hbefore : w.dev.Touches W (w.ringLine s p r.before).1.dev) : w.dev.Touches W (w.ringRow k s p).dev := by
  unfold Work.ringRow
  simp only [hrow, hafter]
  exact hbefore.trans (((Dev.Touches.refl PipeReg _).takeRow _ _).mono hW)

/-! ### A Chart row while every tap is off -/

/-- No capture tap is enabled. -/
def Dev.tapsOff (d : Dev) : Prop := ∀ t < 8, d.on (F.CDC_TAPt_CFG_EN t) = false

theorem Dev.Touches.tapsOff {d e : Dev} {W : Nat → Prop} (h : d.Touches W e) (hW : ∀ t < 8, ¬ W (R.CDC_TAPt_CFG t))
    (hoff : d.tapsOff) : e.tapsOff := fun t ht => by
  rw [h.keeps_on (f := F.CDC_TAPt_CFG_EN t) (hW t ht) (evIcu_of_window (w := 0x4011) (by
    simp only [F.CDC_TAPt_CFG_EN, R.CDC_TAPt_CFG]
    omega) (by decide) (by decide)), hoff t ht]

theorem tapCfg_not_pipeReg : ∀ t < 8, ¬ PipeReg (R.CDC_TAPt_CFG t) := by
  intro t ht h
  simp only [PipeReg, R.CDC_TAPt_CFG, R.SYS_UTP_INw, R.SLK_Ss_STAT] at h
  omega

theorem Work.tapRow_off {w : Work} {t : Nat} (h : w.dev.on (F.CDC_TAPt_CFG_EN t) = false) (row : ChartRow) :
    w.tapRow t row = w := if_pos (by simp [Dev.runs, h])

theorem Work.tapRows_off {w : Work} (h : w.dev.tapsOff) (row : ChartRow) :
    (List.range 8).foldl (fun (w : Work) t => w.tapRow t row) w = w :=
  foldl_fixed_mem fun t ht => Work.tapRow_off (h t (List.mem_range.mp ht)) row

/-- With the taps off after the ring reads, CHART_ROW works on the memories by its ring reads alone. -/
theorem exec_chartRow {s : State} {k : Int} {w : Work} (hw : (Work.begin s).on Dev.trigFollow = w)
    (hrow : w.dev.stc.nextRow = some k) (hmode : w.dev.mode = 3) (hready : w.dev.rowReady k = true)
    (hoff : (w.ringRows k []).dev.tapsOff) : exec (.chartRow []) s =
      onWork (fun w =>
        let v := (w.on Dev.trigFollow).ringRows k []
        v.on fun _ => (v.dev.chartRow k []).1) s := by
  have hskip : ¬ (w.dev.mode ≠ 3 ∨ (! w.dev.rowReady k) = true) := by simp [hmode, hready]
  have hafter : ((w.ringRows k []).on fun _ => ((w.ringRows k []).dev.chartRow k []).1).dev.tapsOff :=
    ((Dev.Touches.refl _ _).chartRow k []).tapsOff tapCfg_not_pipeReg hoff
  change execChartRow [] s = _
  unfold execChartRow
  refine onWork_congr ?_
  dsimp only
  rw [hw, hrow]
  dsimp only
  rw [if_neg hskip, Work.tapRows_off hafter]

/-- A byte that the ring reads of CHART_ROW wrote. -/
theorem byte_of_chartRow {s t : State} {k : Int} {w : Work} (hw : (Work.begin s).on Dev.trigFollow = w)
    (hrow : w.dev.stc.nextRow = some k) (hmode : w.dev.mode = 3) (hready : w.dev.rowReady k = true)
    (hoff : (w.ringRows k []).dev.tapsOff) (ht : exec (.chartRow []) s = .next t) {a : Nat} {v : Byte} (ha : 0x10000 ≤ a)
    (hv : lastWrite a (w.ringRows k []).wr = some v) : t.byte a = v := by
  rw [exec_chartRow hw hrow hmode hready hoff] at ht
  rw [onWork_byte ht ha]
  dsimp only
  rw [hw, Work.on_wr, hv]

/-! ### A ring read behind a write that waits -/

/-- A write that another requester has handed over for the granule at the start of DRAM, and that waits there (R238). -/
def waitingWrite : DramReq := { rq := 2, wr := true, since := 0, addr := 0, data := [1], ecc := .good }

/-- A line in slot 0 of a plane's ring (R146). -/
def lineInRing : Placed := ⟨950, 3, false, false, [some 7], some 0⟩

/-- A staggered plane that has decided row 10 from that line. -/
def ringPlane : Plane :=
  { last := some lineInRing, next := some 11, depth := 40, width := 2
    rows := [{ k := 10, vals := [7], time := 7, flags := {}, before := some lineInRing }] }

/-- A unit in INSPECT with no tap, one stream of that plane, its ring at the start of DRAM, and the write waiting there. -/
def ringBehindWrite : State :=
  let d := [(F.PWR_MODE_CUR, 3), (F.STC_CAMs_CFG_EN 0, 1), (F.STC_GRID_PITCH, 100), (F.STC_STG_BASE, dramBase),
    (F.DRC_CFG_CHAN_EN, 1)].foldl (fun (d : Dev) x => d.put x.1 x.2) State.reset.dev
  { State.reset with dev := { d with stc := { cam := [(0, { planes := [(0, ringPlane)] })], nextRow := some 10 }
                                     drc := { d.drc with pend := [waitingWrite] } } }

/-- CHART_ROW of that unit as it begins. -/
def ringBehindWrite.begun : Work := (Work.begin ringBehindWrite).on Dev.trigFollow

/-- The ring read lets the waiting write go first, and that writes its byte (log entry 78). -/
theorem ringBehindWrite_writes : (ringBehindWrite.begun.ringRows 10 []).wr = [(dramBase, 1)] := rfl

theorem ringBehindWrite_byte : ringBehindWrite.byte dramBase = 0 := by decide

/-- No tap is enabled after the ring read. -/
theorem ringBehindWrite_tapsOff : (ringBehindWrite.begun.ringRows 10 []).dev.tapsOff := by
  have hrow : ringBehindWrite.begun.dev.Touches (fun a => DrcReg a ∨ PipeReg a) (ringBehindWrite.begun.ringRows 10 []).dev :=
    Work.ringRow_touches (k := 10) (s := 0) (p := 0) (fun _ => .inr) rfl rfl
      (Work.ringLine_touches rfl ((Work.load_serves (by decide) (by decide) (by decide)).touches.mono fun _ => .inl))
  refine hrow.tapsOff (fun t ht h => h.elim (fun h => ?_) (tapCfg_not_pipeReg t ht)) (by unfold Dev.tapsOff; decide)
  simp only [DrcReg, R.CDC_TAPt_CFG] at h
  omega

/-- Refutes O35: no tap runs, yet a byte of memory changes. A row of a staggered plane is read back from its ring, and a write
of another requester that waits at the DRAM controller for that granule is carried out before the read. -/
theorem not_chartRowsReachTheSlices : ¬ Obligations.ChartRowsReachTheSlices := by
  intro h
  obtain ⟨t, ht, -, -, -, hstores, -⟩ := h ringBehindWrite 10 rfl (by decide) (by decide) (by decide) (by decide)
  obtain ⟨-, hbytes, -⟩ := hstores (by decide)
  have hone : t.byte dramBase = 1 := byte_of_chartRow (w := ringBehindWrite.begun) rfl rfl (by decide) (by decide)
    ringBehindWrite_tapsOff ht (by decide) (by rw [ringBehindWrite_writes]; rfl)
  rw [hbytes, ringBehindWrite_byte] at hone
  exact absurd hone (by decide)

end Sys2Proof.Machine
end
